-- ==== Sys2Proof/Word.lean ====
section
/-! DEFINITION. The word and byte types (00 R11) and the keyed lists that hold every memory and table. -/

namespace Sys2Proof

/-- A 32-bit word (00 R11). -/
abbrev Word := BitVec 32

/-- A byte of memory. -/
abbrev Byte := BitVec 8

/-- A finite map from numbers to values, kept sorted by key; an absent key reads as a default. -/
abbrev Tbl (ν : Type) := List (Nat × ν)

end Sys2Proof
end

