-- ==== Sys2Proof/Syntax.lean ====
section
/-! DEFINITION. The commands the block takes: one constructor per row of the table, with the row's operands. -/

namespace Sys2Proof

/-- A logical core of the package: 512q + 32c + K (00 R7). -/
abbrev Core := Fin 2048

/-- A cluster of the package: 16q + c. -/
abbrev Cluster := Fin 64

/-- A quadrant, and the DDR5 channel, DMA engine, Ethernet port and management processor of its base die (01 R24). -/
abbrev Quad := Fin 4

/-- A Saune-C link SC0–SC7. -/
abbrev Link := Fin 8

/-- A timer TMR0–TMR15. -/
abbrev TmrId := Fin 16

/-- A CSI-2 receiver CSI0–CSI7. -/
abbrev CsiId := Fin 8

/-- Who sends a management access (13 R369, 19 R505): a management processor, the RCP engine of an Ethernet port, or the configuration
agent of a cluster (07 R229). -/
inductive Requester
  | mp (m : Quad)
  | rcp (q : Quad)
  | cfg (c : Cluster)
deriving DecidableEq, Repr

/-- The unit recorded with a fault (17 R457–R459). -/
inductive FUnit
  | core (k : Core)
  | bank (c : Cluster) (b : Fin 32)
  | cluster (c : Cluster)
  | quad (q : Quad) (index : Nat)
  | dma (q : Quad)
  | port (q : Quad)
  | link (k : Link)
  | pkg (index : Nat)
deriving DecidableEq, Repr

/-- Errors met in one slot of a router (06 R177, R197), by input lane: a single-bit error in the upper or the lower half of the flit, an
uncorrectable flit, a corrected and an uncorrectable slot entry, and the same two for the flow entry of a local input lane; and for the frame
sequence entry, read in slot 0 of a frame. -/
structure SlotErr where
  ceHigh : BitVec 17 := 0#17
  ceLow : BitVec 17 := 0#17
  ue : BitVec 17 := 0#17
  tableCe : BitVec 17 := 0#17
  tableUe : BitVec 17 := 0#17
  flowCe : BitVec 8 := 0#8
  flowUe : BitVec 8 := 0#8
  seqCe : Bool := false
  seqUe : Bool := false
deriving DecidableEq, Repr

/-- A CSI-2 packet as it arrives (10 R285): virtual channel, data type, whether it is a long packet, a header error (0 none, 1 single-bit,
2 double-bit), a CRC failure, and the payload. -/
structure CsiPacket where
  vc : Fin 4
  dt : BitVec 6
  long : Bool
  hdrErr : Fin 3
  crcErr : Bool
  payload : List Byte
deriving DecidableEq, Repr

/-- A memory-path request of a management processor that reaches a DDR5 controller (14 R386): the base die it comes from, its channel byte
address, and the word and byte enables of a write. -/
structure DdrReq where
  src : Quad := 0
  addr : BitVec 35 := 0
  wr : Option Word := none
  be : BitVec 4 := 15#4
deriving DecidableEq, Repr

/-- The SecTAG of a protected frame and what its ICV says (13 R360): SCI, AN, PN, whether the payload is encrypted, and whether the ICV fits. -/
structure SecTag where
  sci : BitVec 64
  an : Fin 4
  pn : BitVec 64
  enc : Bool
  icvOk : Bool
deriving DecidableEq, Repr

/-- A received frame (13 R352): its FCS verdict, addresses, 802.1Q tags, SecTAG, EtherType and payload. -/
structure EthFrame where
  fcsOk : Bool
  dst : BitVec 48
  src : BitVec 48
  tags : List (BitVec 16)
  sec : Option SecTag
  etype : BitVec 16
  payload : List Byte
deriving DecidableEq, Repr

/-- A payload block of a Saune-C group (14 R395): a scheduled flit with the slot in which the sending router read it (06 R185), a drip flit,
whether it is on RSP and whether it is uncorrectable, cumulative credits, a barrier token (type, step tag), UA, and a byte of STEP_NUM with its index. -/
structure ScBlock where
  sch : Option (Nat × Word × Word) := none
  drip : Option (Word × Bool × Bool) := none
  crq : BitVec 4 := 0#4
  crs : BitVec 4 := 0#4
  tok : Option (Fin 5 × BitVec 4) := none
  ua : Bool := true
  stepb : Option (Fin 4 × Byte) := none
deriving DecidableEq, Repr

/-- A unit that gates its own clock (15 R414). -/
inductive WarmUnit
  | core (k : Core)
  | bank (c : Cluster) (b : Fin 32)
  | router (c : Cluster)
deriving DecidableEq, Repr

/-- A configuration record of the core segment (16 R444): core-region address, logical core mask, FIXED, data words. -/
structure CfgRec where
  addr : Word
  mask : Word
  fixed : Bool
  words : List Word
deriving DecidableEq, Repr

/-- A licence record (00 R1): the identity it is bound to, its features, its anti-rollback value, and what its signature says. -/
structure LicRec where
  device : BitVec 128
  feats : BitVec 5
  ar : Nat
  sigOk : Bool
deriving DecidableEq, Repr

/-- A piece of a Dremberok image: words of a memory section, marked mutable or not (18 R482), or one register or window write. -/
inductive ImgItem
  | mem (addr : BitVec 40) (changes : Bool) (words : List Word)
  | reg (addr value : Word)
deriving DecidableEq, Repr

/-- A staged Dremberok image as the firmware loader sees it (16 R450): the topology it is for, features used, cluster map, confidentiality,
DDR5 regions as first byte and length, the integrate time its compiler declares in fabric cycles (02 R63), its content, the digests of its section
table and of its microcode sections, and the result of the checks whose subject the spec leaves to the image format, 0 for none failed. -/
structure Image where
  pos : Word
  pkg : Word
  feats : BitVec 5
  part : BitVec 64
  conf : Bool
  regions : List (BitVec 40 × Nat)
  integ : Nat
  items : List ImgItem
  digest : BitVec 512
  codeDigest : BitVec 512
  verdict : Fin 10
deriving DecidableEq, Repr

/-- A value written to a register, and the bits of the register that hardware sets in the same cycle (00 R16). -/
structure WriteWord where
  value : Word
  same : Word
deriving DecidableEq, Repr

/-- An access to a limiter word: a write, or a read in whose cycle a drop may be counted (00 R16, 10 R308). -/
inductive LimAccess
  | write (value : Word)
  | read (same : Bool)
deriving DecidableEq, Repr

/-- The end of a roast pass: the cluster, and the port-B cycles that a background roast lost to lookups and to BUSY in the pass (09 R274). -/
structure PassEnd where
  cluster : Cluster
  lost : BitVec 24
deriving DecidableEq, Repr

/-- A READ of a port's operation list: bit j of `same` says that an increment falls in the cycle of read j (00 R16). -/
structure PortReads where
  port : Quad
  same : BitVec 256
deriving DecidableEq, Repr

/-- A WRITE of a port's operation list: word j of `same` is what hardware sets in the cycle of write j (00 R16). -/
structure PortWrites where
  port : Quad
  same : List Word
deriving DecidableEq, Repr

/-- An RMW of a port's operation list: an increment in the cycle of the read, and what hardware sets in the cycle of the write (00 R16). -/
structure PortRmw where
  port : Quad
  rsame : Bool
  wsame : Word
deriving DecidableEq, Repr

/-- One poll of a WAIT: whether its timeout has passed, and whether an increment falls in its cycle (00 R16, 13 R367). -/
structure Poll where
  expired : Bool
  same : Bool
deriving DecidableEq, Repr

/-- The commands: one constructor per row of the table. -/
inductive Instr
  /-- A management write to a register that has no row of its own, applied according to the access code of each field, locks, writer rules and unit state (R15). -/
  | registerWrite (who : Requester) (addr : Word) (value : WriteWord)
  /-- A read of an RC register returns its value and then clears it; a same-cycle increment leaves the counter at 1 (R16). `same`: an increment falls in the same cycle. -/
  | rcCounterRead (who : Requester) (addr : Word) (same : Bool)
  /-- A write of PG_CTRL.SOFT_RST returns every field of the page to reset, provided EN and LOCKED are 0 after the write; otherwise it is ignored and counted (R502). `addr` lies in the page; `value` is the rest of the PG_CTRL write. -/
  | pgSoftRst (who : Requester) (addr value : Word)
  /-- A write of PG_CTRL.LOCK or of 1 to PG_LOCK sets LOCKED, after which RWL fields of the page ignore writes (R500). `ctrl`: through PG_CTRL.LOCK. -/
  | pgLockSet (who : Requester) (addr : Word) (ctrl : Bool)
  /-- A write of 0 to PG_LOCK from an MP, carrying the key 0x4C4B, clears LOCKED (R500). -/
  | pgLockClear (who : Requester) (addr value : Word)
  /-- A read or write of the microcode store window accesses the instruction at MC_STORE_IDX and advances the index (R140). `wr`: the word written; a read without it. -/
  | mcStoreData (who : Requester) (k : Core) (wr : Option Word)
  /-- A read or write of the data-memory window accesses the word at MC_DM_ADDR and advances the address (R140). -/
  | mcDmData (who : Requester) (k : Core) (wr : Option Word)
  /-- A read or write of a bank word through port B at BANKWIN_ADDR, reporting BUSY, DENIED or UE, then advancing the offset (R170). `busy`: port B answers BUSY. -/
  | bankwinData (who : Requester) (c : Cluster) (wr : Option Word) (busy : Bool)
  /-- A read or write of a grind-table slot entry at GT_ADDR, ignored for active tables under R196, then advancing the slot (R199). -/
  | gtData (who : Requester) (c : Cluster) (wr : Option Word)
  /-- A read or write of a frame sequence entry, ignored for the active list, then advancing the entry (R199). -/
  | fseqData (who : Requester) (c : Cluster) (wr : Option Word)
  /-- A read or write of a router injection-flow word, then advancing the word and then the flow (R199). -/
  | flowData (who : Requester) (c : Cluster) (wr : Option Word)
  /-- A read or write of a destination-table word, then advancing the word and then the entry (R199). -/
  | destData (who : Requester) (c : Cluster) (wr : Option Word)
  /-- A read or write of a drip tree entry for a tree tag, then advancing DTREE_ADDR (R233). -/
  | dtreeData (who : Requester) (c : Cluster) (wr : Option Word)
  /-- A read or write of the Saune-C relay's outgoing tag map, then advancing the address (R233). -/
  | xtagData (who : Requester) (c : Cluster) (wr : Option Word)
  /-- A read or write of the Saune-C relay's incoming tag map, then advancing the address (R233). -/
  | itagData (who : Requester) (c : Cluster) (wr : Option Word)
  /-- A read or write of a roast segment word, ignored while the roast is busy, then advancing the word and then the segment (R282). -/
  | segData (who : Requester) (c : Cluster) (wr : Option Word)
  /-- A read or write of a learning-rule word, ignored while the roast is busy, then advancing the word and then the rule (R282). -/
  | ruleData (who : Requester) (c : Cluster) (wr : Option Word)
  /-- A read or write of a hot-pixel table entry, then advancing HOTPIX_IDX (R304). -/
  | hotpixData (who : Requester) (k : CsiId) (wr : Option Word)
  /-- A read or write of an ingress flow-table word, then advancing the word and then the entry (R308). -/
  | ftData (who : Requester) (q : Quad) (wr : Option Word)
  /-- A read or write of a limiter word: word 0 loads RATE, DEPTH and TOK, word 1 holds TOK, MUTE and STUCK_STEPS, and a read of word 2 clears LIM_DROP_CNT; then the address advances (R308). -/
  | limData (who : Requester) (q : Quad) (wr : LimAccess)
  /-- A read or write of a bus poll descriptor word, then advancing the address (R309). -/
  | pollData (who : Requester) (wr : Option Word)
  /-- A read or write of a level-crossing encoder word, then advancing the address (R309). -/
  | lceData (who : Requester) (wr : Option Word)
  /-- A read or write of an actuator-map entry word; setting EN restarts the entry's timeout; then the address advances (R334). -/
  | actData (who : Requester) (wr : Option Word)
  /-- A read or write of a gate-control list entry, ignored for the operational list, then advancing the entry (R379). -/
  | gclData (who : Requester) (q : Quad) (wr : Option Word)
  /-- A read or write of a MACsec secure-association word, with SAK words write-only, then advancing the word (R381). -/
  | msSaData (who : Requester) (q : Quad) (wr : Option Word)
  /-- A read or write of always-on memory at AOM_ADDR; writes below 0xC000 and all RCP writes are ignored (R432). -/
  | aomData (who : Requester) (wr : Option Word)
  /-- A read of the attestation report word at ATT_ADDR, which then advances the address (R496). -/
  | attData (who : Requester) (wr : Option Word)
  /-- A write of STEP_CTRL.RUN = 1 while the machine holds starts step STEP_NUM with its delivery phase (R83). -/
  | stepRunStart (who : Requester)
  /-- A write of STEP_CTRL.RUN = 0 lets the step in progress complete and holds the machine after the next advance (R83). -/
  | stepRunStop (who : Requester)
  /-- A write of STEP_CTRL.SINGLE = 1 runs exactly one step, after which RUN and SINGLE clear together (R83). `run`: what the same write gives for RUN. -/
  | stepSingle (who : Requester) (run : Bool)
  /-- At start(t+1) STEP_NUM increments, the ring slot moves, the sensor bin closes, a pending switch takes effect, the step mark fires and the frame list restarts (R68). -/
  | stepAdvance
  /-- At start(t) + 800 × DELIV_WINDOW, outstanding drip traffic is handled under the context's overrun policy (R69). -/
  | deliveryDeadline
  /-- Once the last frame has ended and global DQUIET has been broadcast (or when forced), delivery closes in every cluster and cores are woken to integrate (R62). -/
  | deliveryClose
  /-- A core begins its integrate phase at the later of delivery close and the moment its engine is free with no per-event handler queued, then updates neurons, seals and runs its dense list (R132). -/
  | integrateStart (k : Core)
  /-- A core raises done once every neuron has been updated, its egress has been handed off, any swap has finished and no handler is running (R65). -/
  | coreDone (k : Core)
  /-- At N(t+1), cores that are not done stretch the step under STRETCH or are forced under DROP and DEFER (R69). -/
  | stepDue
  /-- Under STRETCH, if the pour has not closed by STEP_STRETCH_MAX, STEP_STRETCH_OVF is raised and the step proceeds as under DROP (R73). -/
  | stretchMaxExpiry
  /-- The AND-tree of done signals closes and its close is broadcast back to every cluster (R66). -/
  | pourClose
  /-- A DONE barrier token arrives from a package below in the tree; a stale tag is discarded (R75). -/
  | tokenDoneRx (k : Link) (tag : BitVec 4)
  /-- A DQUIET barrier token arrives from a package below in the tree (R75). -/
  | tokenDquietRx (k : Link) (tag : BitVec 4)
  /-- A POUR token from P0 arrives, and the package advances MARK_ALIGN fabric cycles later (R76). -/
  | tokenPourRx (k : Link) (tag : BitVec 4)
  /-- A DCLOSE token from P0 arrives, and the package closes delivery MARK_ALIGN fabric cycles later (R76). -/
  | tokenDcloseRx (k : Link) (tag : BitVec 4)
  /-- A core that was in Warm finishes waking, and an event held in its ingress register proceeds (R79). -/
  | wakeComplete (k : Core)
  /-- After 64 idle cycles a core, bank or router gates its clock (R414). -/
  | warmEntry (u : WarmUnit)
  /-- A slice or degraded-pair swap finishes; the next slice replays its inbox and integrates (R43). -/
  | sliceSwapComplete (k : Core)
  /-- A write of the slice count, ignored while the core is available and paging (R53). -/
  | sliceCfgWrite (who : Requester) (k : Core) (value : Word)
  /-- PSET_CTRL.COMMIT queues the window for PSET_SEL, or sets OVF when 8 commits are already queued (R92). -/
  | psetCommit (who : Requester) (k : Core)
  /-- PSET_CTRL.READBACK copies the live parameter set into the window (R113). -/
  | psetReadback (who : Requester) (k : Core)
  /-- PSET_CTRL.CLR_OVF clears PSET_STAT.OVF (R113). -/
  | psetClrOvf (who : Requester) (k : Core)
  /-- A write of the core's layout and neuron count, ignored while its context is resident and the core available (R114). -/
  | coreLayoutWrite (who : Requester) (k : Core) (value : Word)
  /-- A firmware write of REMAP[K] is pending until the next advance, or takes effect at once while the machine holds (R116). -/
  | remapWrite (who : Requester) (c : Cluster) (i : Fin 32) (value : Word)
  /-- A W1S write retires physical cores (R106). -/
  | physRetireWrite (who : Requester) (c : Cluster) (hi : Bool) (value : Word)
  /-- Firmware holds a logical core in reset, remaps it to a spare, reloads it and releases it (R107). -/
  | spareReplacement (k : Core)
  /-- The egress buffer hands events to the router local port as it accepts them, stalling the neuron path while the buffer is full (R102). -/
  | egressHandoff (k : Core)
  /-- When the engine is free it dispatches the next per-neuron, per-event or per-message handler and loads the registers (R129). -/
  | handlerDispatch (k : Core)
  /-- A handler whose cycles have reached its limit is aborted at an instruction boundary (R133). -/
  | mcWatchdogAbort (k : Core)
  /-- rd = ra + rb, wrapping (R122). -/
  | mcAdd (k : Core)
  /-- rd = ra - rb, wrapping (R122). -/
  | mcSub (k : Core)
  /-- Signed add saturating at 32 bits (R122). -/
  | mcAdds (k : Core)
  /-- Signed subtract saturating at 32 bits (R122). -/
  | mcSubs (k : Core)
  /-- Bitwise AND (R122). -/
  | mcAnd (k : Core)
  /-- Bitwise OR (R122). -/
  | mcOr (k : Core)
  /-- Bitwise XOR (R122). -/
  | mcXor (k : Core)
  /-- Shift left by rb[4:0] (R122). -/
  | mcShl (k : Core)
  /-- Logical right shift by rb[4:0] (R122). -/
  | mcShr (k : Core)
  /-- Arithmetic right shift by rb[4:0] (R122). -/
  | mcSra (k : Core)
  /-- Low 32 bits of the signed product (R122). -/
  | mcMul (k : Core)
  /-- Signed ra times an unsigned 1.15 factor, rounded toward zero (R122). -/
  | mcMulq (k : Core)
  /-- Signed minimum (R122). -/
  | mcMin (k : Core)
  /-- Signed maximum (R122). -/
  | mcMax (k : Core)
  /-- Clamps ra to the signed 24-bit range (R122). -/
  | mcSat24 (k : Core)
  /-- rd = 1 if ra < rb signed, else 0 (R122). -/
  | mcSlt (k : Core)
  /-- rd = ra + sign-extended immediate (R122). -/
  | mcAddi (k : Core)
  /-- rd = ra AND zero-extended immediate (R122). -/
  | mcAndi (k : Core)
  /-- rd = ra OR zero-extended immediate (R122). -/
  | mcOri (k : Core)
  /-- rd = ra XOR zero-extended immediate (R122). -/
  | mcXori (k : Core)
  /-- Shift left by imm[4:0] (R122). -/
  | mcShli (k : Core)
  /-- Logical right shift by imm[4:0] (R122). -/
  | mcShri (k : Core)
  /-- Arithmetic right shift by imm[4:0] (R122). -/
  | mcSrai (k : Core)
  /-- rd = imm << 14 (R122). -/
  | mcLui (k : Core)
  /-- Extracts a bit field of ra, zero- or sign-extended (R122). -/
  | mcExt (k : Core)
  /-- Inserts ra[w-1:0] into a bit field of rd (R122). -/
  | mcIns (k : Core)
  /-- Loads a word from the handler address space (R119). -/
  | mcLd (k : Core)
  /-- Stores rd into the handler address space, serialised with ring accumulation (R125). -/
  | mcSt (k : Core)
  /-- Loads a word from an owned cluster-memory bank, waiting for port A (R125). -/
  | mcLdb (k : Core)
  /-- Stores a word into an owned cluster-memory bank, waiting for port A (R125). -/
  | mcStb (k : Core)
  /-- Adds rb into a ring slot of a neuron of this core through the accumulate unit, with a delay fixed in the instruction (R127). -/
  | mcRadd (k : Core)
  /-- Branches if ra = rb (R122). -/
  | mcBeq (k : Core)
  /-- Branches if ra != rb (R122). -/
  | mcBne (k : Core)
  /-- Branches if ra < rb, signed (R122). -/
  | mcBlt (k : Core)
  /-- Branches if ra >= rb, signed (R122). -/
  | mcBge (k : Core)
  /-- Jumps to an absolute store index (R122). -/
  | mcJmp (k : Core)
  /-- Saves the next index in m15 and jumps (R122). -/
  | mcJal (k : Core)
  /-- Jumps to ra[9:0] (R122). -/
  | mcJr (k : Core)
  /-- Ends the handler, releasing a message's ring space (R131). -/
  | mcEnd (k : Core)
  /-- Queues an event for a neuron of this core in the egress buffer, stalling or dropping when the buffer is full (R126). -/
  | mcEmit (k : Core)
  /-- Channel function LISTEN: starts listening on a port with a receive ring and a handler entry (R128). -/
  | mcChanListen (k : Core)
  /-- Channel function OPEN: sends a connection request and returns a ticket (R128). -/
  | mcChanOpen (k : Core)
  /-- Channel function SEND: copies a message out of data memory and sends it in segments (R128). -/
  | mcChanSend (k : Core)
  /-- Channel function CLOSE: closes a connection handle or a listening port (R224). -/
  | mcChanClose (k : Core)
  /-- Channel function STATUS: returns a ticket's state and frees it when done or NAKed (R128). -/
  | mcChanStatus (k : Core)
  /-- Advances the core's LFSR once and returns the new state (R530). -/
  | mcRand (k : Core)
  /-- Reads a special value such as STEP_NUM, the sub-step or the cycle count (R122). -/
  | mcCsr (k : Core)
  /-- Aborts the handler with cause TRAP and a code (R124). -/
  | mcTrap (k : Core)
  /-- A write of MC_SEED restarts the core's LFSR; a value of 0 stores 1 (R530). -/
  | mcSeedWrite (who : Requester) (k : Core) (value : Word)
  /-- An event in the lookup queue is hashed and looked up in the entry table, then offered to the core groups that CGMASK names (R147). `busy`: port B receives BUSY. -/
  | entryLookup (c : Cluster) (busy : Bool)
  /-- A drip event enters the lookup queue once at least 32 entries are free (R148). -/
  | dripLookupAdmit (c : Cluster)
  /-- A core takes an offer from its list queue, reads the descriptor and its chain, and streams the synapse words (R155). -/
  | listOfferStream (k : Core)
  /-- A firmware write of BANK_OWNER starts a handover and puts the bank in PENDING (R158). -/
  | bankOwnerWrite (who : Requester) (c : Cluster) (b : Fin 32) (value : Word)
  /-- The old owner's last accepted access completes, the bank becomes OWNED by the new owner and held accesses proceed (R158). -/
  | bankHandoverComplete (c : Cluster) (b : Fin 32)
  /-- A port-B requester that received BUSY repeats the access in the next cycle it wins port B (R162). -/
  | portBRetry (c : Cluster)
  /-- Every SCRUB_INTERVAL the scrubber reads a line and writes back a corrected line unless a port-A write intervened (R165). Per bank: `busy` is a BUSY on port B, `wrote` a port-A write between read and writeback. -/
  | scrubLineVisit (c : Cluster) (busy wrote : BitVec 32)
  /-- A write of a bank's power state, taking effect after any access in flight (R168). -/
  | bankPwrWrite (who : Requester) (c : Cluster) (hi : Bool) (value : Word)
  /-- A RET or OFF bank finishes waking (and zeroing if it was OFF), and held accesses proceed (R168). -/
  | bankWakeComplete (c : Cluster) (b : Fin 32)
  /-- A read of CM_FENCE returns only after every write the cluster memory accepted before it has been performed (R170). -/
  | cmFenceRead (who : Requester) (c : Cluster)
  /-- A write of SR_DATA assigns a spare column to a bank, accepted only under the ownership or OFF condition (R167). -/
  | softRepairWrite (who : Requester) (c : Cluster) (value : Word)
  /-- For each input lane in a slot, the router applies its grind-table entry, replicating or injecting a flit and raising wake hints (R183). -/
  | fabricSlot (c : Cluster) (err : SlotErr)
  /-- An event offered to the injection stage is assigned a flow and either held for a reserved slot or spilled, waiting while the stage refuses offers (R189). `flowErr`, `destErr`: 0 none, 1 single-bit, 2 double-bit error of the table entry. -/
  | injectionOffer (c : Cluster) (flowErr destErr : Fin 3)
  /-- At the end of the last frame, events left in the hold store move to the spill queue (R190). -/
  | lastFrameEnd
  /-- Hold-store residue waiting for room moves into the spill queue as room appears (R190). `err`: an error of the destination entry. -/
  | holdResidueMove (c : Cluster) (err : Fin 3)
  /-- The spill port moves one event per cycle from the spill queue to a drip egress queue, waiting when that queue is full (R216). -/
  | spillPortMove (c : Cluster)
  /-- The router scrubs one table entry per fabric cycle, correcting single-bit errors (R197). `err`: an error of the entry read. -/
  | routerTableScrub (c : Cluster) (err : Fin 3)
  /-- A drip flit advances to an output against a credit, and its credit returns when it leaves the buffer (R203). `port`: 0 local, 1 to 4 north to west, 5 Saune-C; `rsp`: the RSP channel; `err`: 0 a good flit, 1 a single-bit error, 2 a double-bit error. -/
  | dripFlitForward (c : Cluster) (port : Fin 6) (rsp : Bool) (err : Fin 3)
  /-- An endpoint sends a packed EVT packet when it is full, the tag or step changes, or DRIP_PACK_WAIT expires, once windows are free (R217). -/
  | evtPacketSend (c : Cluster) (ep : Fin 36)
  /-- A receiving router places EVT packet events on time, defers or drops them by tag and policy, and returns the window (R218). -/
  | dripEvtRx (c : Cluster)
  /-- The configuration agent performs the writes of an accepted CFG packet in order, or rejects it (R229). -/
  | cfgPacketRx (c : Cluster)
  /-- A message segment is checked, reserved, filled or discarded; the last segment queues the message for dispatch and is ACKed (R225). -/
  | msgSegmentRx (c : Cluster)
  /-- A receiver answers a connection OPEN request with OPEN_ACK or a NAK (R223). -/
  | ctlqOpenRx (c : Cluster)
  /-- A receiver puts a matching slot in CLOSING, or returns CLOSE_ACK at once (R224). -/
  | ctlqCloseRx (c : Cluster)
  /-- An OPEN_ACK completes the sender's OPEN ticket with CONN and EPOCH (R223). -/
  | ctlsOpenAckRx (c : Cluster)
  /-- A CLOSE_ACK completes the sender's CLOSE ticket (R224). -/
  | ctlsCloseAckRx (c : Cluster)
  /-- An ACK completes the sender's SEND ticket (R225). -/
  | ctlsAckRx (c : Cluster)
  /-- A NAK completes a ticket with its reason, closing the handle for CLOSED or UNREACH (R227). -/
  | ctlsNakRx (c : Cluster)
  /-- A window return frees window places at the source endpoint (R213). -/
  | wretRx (c : Cluster)
  /-- A window place not returned within DRIP_WIN_TMO is reclaimed and raises DRIP_WIN_TMO (R214). -/
  | dripWinTimeout (c : Cluster) (ep : Fin 36)
  /-- A Saune-C relay resends a packet across the link or into its own package, rewriting tags (R221). `inward`: a packet from the link enters the package. -/
  | relayForward (k : Link) (inward : Bool)
  /-- DL_CTRL.COMMIT queues a dense descriptor, or sets OVF when the queue is full (R256). -/
  | dlCommit (who : Requester) (k : Core)
  /-- DL_CTRL.READBACK copies the live descriptor into the window (R258). -/
  | dlReadback (who : Requester) (k : Core)
  /-- DL_CTRL.CLR_OVF clears DL_STAT.OVF (R258). -/
  | dlClrOvf (who : Requester) (k : Core)
  /-- A DENSE_BINQ write takes effect at the next advance while the context is resident, and at once otherwise (R256). -/
  | denseBinqWrite (who : Requester) (k : Core) (value : Word)
  /-- A queued pre-trace update is written on port B at roast priority (R263). `busy`: port B receives BUSY. -/
  | preTraceWrite (c : Cluster) (busy : Bool)
  /-- Pass 1 of a segment has updated every plastic word and summed the magnitudes (R272). -/
  | roastPass1Complete (c : PassEnd)
  /-- The reciprocal stage has computed scale factors for neurons over NORM (R273). -/
  | roastReciprocalComplete (c : Cluster)
  /-- Pass 2 of a segment has scaled the inputs of neurons over norm and made any checkpoint copy (R273). -/
  | roastPass2Complete (c : PassEnd)
  /-- The roast ends, banks are handed back, ROAST_SEED advances and the blocking roast phase closes (R274). -/
  | roastEnd (c : Cluster)
  /-- A background roast not ended before the integrate phase of the next epoch's last step skips that epoch's seal and roast (R275). -/
  | roastOverrun (c : Cluster)
  /-- Writing 1 to CKPT_STAT.READY releases the shadow for the next copy (R278). -/
  | ckptStatClear (who : Requester) (c : Cluster)
  /-- A write of ROAST_SEED sets the master LFSR state; 0 stores 1 (R530). -/
  | roastSeedWrite (who : Requester) (c : Cluster) (value : Word)
  /-- Firmware copies a ready shadow to DDR5, clears READY and programs complete sets into flash (R279). -/
  | firmwareCheckpoint (c : Cluster)
  /-- Before each flash chunk MP0 samples HOLDUP_SENSE and starts the chunk only if the stored energy suffices (R429). `code`: the HOLDUP_SENSE sample. -/
  | holdupCheck (code : BitVec 12)
  /-- After a 1 ms deferral MP0 samples the hold-up rail again (R429). -/
  | huDeferExpiry (code : BitVec 12)
  /-- HU_MAXWAIT passes without enough energy: the checkpoint set is abandoned and HOLDUP_LOW is raised (R429). -/
  | huMaxwaitExpiry
  /-- A CSI-2 packet is checked, routed by virtual channel and data type, and fed to the decoder or the frame path (R285). -/
  | csiPacketRx (k : CsiId) (p : CsiPacket)
  /-- A frame start packet records the device time in the active buffer's FR_TS (R290). -/
  | csiFrameStart (k : CsiId) (vc : Fin 4)
  /-- A frame end packet marks the buffer FULL, fires FRAME_DONE and switches buffers (R291). -/
  | csiFrameEnd (k : CsiId) (vc : Fin 4)
  /-- An event word is matched against the decoder classes and produces raw events, latches, time updates or markers (R286). -/
  | decoderWord (k : CsiId)
  /-- A raw event goes through port lookup, the limiter and bin-and-merge (R297). Errors of the flow entry, the limiter record and the merge store: 0 none, 1 single-bit, 2 double-bit. -/
  | rawEventIngest (q : Quad) (ftErr limErr mergeErr : Fin 3)
  /-- One merged event of the closed bank is offered to the injection stage per fabric cycle, pausing while refused (R300). `err`: an error of the merge store. -/
  | ingressOffer (q : Quad) (err : Fin 3)
  /-- A bus poll descriptor's PERIOD expires and its transaction starts, or is skipped if the bus stays busy (R292). -/
  | pollStart (b d : Fin 8)
  /-- A poll transaction ends, storing its field into its result slot or counting an error (R292). `err`: a NACK or a stretch timeout. -/
  | pollComplete (b : Fin 8) (bytes : List Byte) (err : Bool)
  /-- An ADC conversion ends, updating ADC_VAL and firing the end-of-conversion source (R293). -/
  | adcConversionEnd (value : BitVec 12)
  /-- Writing 1 to a FULL bit releases a frame buffer (R291). -/
  | frameBufferRelease (who : Requester) (k : CsiId) (mask : BitVec 2)
  /-- The glitch filter accepts a new pin level after FILT + 1 consistent samples (R311). -/
  | gpioFilterAccept (g : Fin 32) (level : Bool)
  /-- A gated tick increments TMR_COUNT and the width counter (R313). -/
  | tmrGatedTick (k : TmrId)
  /-- A tick at TOP or above wraps the count to 0, sets WRAP, fires the WRAP source and activates PWM (R313). -/
  | tmrWrap (k : TmrId)
  /-- An update making the count equal a compare value sets MATCHx, fires its source and, for CMP1, deactivates PWM (R314). -/
  | tmrMatch (k : TmrId) (cmp1 : Bool)
  /-- A write of TMR_COUNT sets the count without a match or wrap, overriding a same-cycle tick (R313). -/
  | tmrCountWrite (who : Requester) (k : TmrId) (value : Word)
  /-- A compare write takes effect at the end of its PCLK, firing a match at once under MATCH_ON_WRITE (R314). `one`: TMR_CMP1, else TMR_CMP0. -/
  | tmrCmpWrite (who : Requester) (k : TmrId) (one : Bool) (value : Word)
  /-- In PWM mode a CMP1 write goes to the shadow (R322). -/
  | tmrCmp1ShadowWrite (who : Requester) (k : TmrId) (value : Word)
  /-- A rising edge latches TMR_CAPR, sets NEW_R, fires capture-rise and starts the width counter (R316). `read`: TMR_CAPR is read in the same PCLK. -/
  | tmrCaptureRise (k : TmrId) (read : Bool)
  /-- A falling edge latches TMR_CAPF and TMR_WIDTH, or counts a short pulse (R316). `read`: in the same PCLK 1 TMR_CAPF, 2 TMR_WIDTH is read. -/
  | tmrCaptureFall (k : TmrId) (read : Fin 3)
  /-- A read of TMR_CAPR, TMR_CAPF or TMR_WIDTH clears the matching NEW bit (R317). `i`: 0 TMR_CAPR, 1 TMR_CAPF, 2 TMR_WIDTH. -/
  | tmrCaptureRead (who : Requester) (k : TmrId) (i : Fin 3)
  /-- An actuator entry without events for TIMEOUT sets SAFE, writes the safe duty and raises ACT_TIMEOUT (R325). -/
  | actTimeout (k : TmrId)
  /-- Writing 1 to SAFE[k] clears it and restarts the timeout (R325). -/
  | actSafeClear (who : Requester) (mask : BitVec 16)
  /-- A pulse into a START sink sets the timer's EN (R328). -/
  | xbTmrStart (k : TmrId)
  /-- A pulse into a STOP sink clears the timer's EN (R328). -/
  | xbTmrStop (k : TmrId)
  /-- A pulse into a CLEAR sink writes 0 to TMR_COUNT (R328). -/
  | xbTmrClear (k : TmrId)
  /-- A pulse into a pulse latch sets its PL_STAT bit, or counts an overrun (R329). -/
  | xbPulseLatch (j : Fin 32)
  /-- A pulse into a DMA trigger sink starts the channel when TRIG_EN is set (R341). -/
  | xbDmaTrigger (e : Quad) (c : Fin 16)
  /-- A pulse into FRAME_REL releases the older FULL frame buffer (R291). -/
  | xbFrameRel (k : CsiId)
  /-- A pulse into an injection slot is counted in its step's bin (R330). -/
  | xbInject (j : Fin 32)
  /-- A GPIO_SET write sets output bits (R331). -/
  | gpioSetWrite (who : Requester) (value : Word)
  /-- A GPIO_CLR write clears output bits (R331). -/
  | gpioClrWrite (who : Requester) (value : Word)
  /-- CH_CMD.START starts the channel, or latches a restart while it is busy (R341). A write of 1 to CH_CMD of channel c of engine e. -/
  | dmaStart (who : Requester) (e : Quad) (c : Fin 16)
  /-- CH_CMD.ABORT stops the channel after the granule in flight and discards a latched start (R342). A write of 2 to CH_CMD of channel c of engine e. -/
  | dmaAbort (who : Requester) (e : Quad) (c : Fin 16)
  /-- A channel moves one 32 B granule of its transfer, fetching list entries as needed (R340). -/
  | dmaGranule (e : Quad) (c : Fin 16)
  /-- The last write leaves the engine, the completion source fires and BUSY clears or a latched run starts (R343). -/
  | dmaComplete (e : Quad) (c : Fin 16)
  /-- A received frame is checked for FCS, length, address and tag, and accepted into the receive buffer (R352). -/
  | ethFrameRx (q : Quad) (f : EthFrame)
  /-- An accepted frame is drained by EtherType to RCP, REF, the firmware queue or discard (R354). -/
  | rxDispatch (q : Quad)
  /-- An RCP REQ is queued, resent from cache, refused as stale or discarded by its sequence number (R366). -/
  | rcpReqRx (q : Quad)
  /-- A SYNC opens or resets a session and is answered with SYNC_ACK or NOSESS (R365). -/
  | rcpSyncRx (q : Quad)
  /-- A FIN ends a session and discards its state (R365). -/
  | rcpFinRx (q : Quad)
  /-- A host ACKSEQ covers MSG_IN frames and releases their ring space (R371). -/
  | rcpAckRx (q : Quad)
  /-- A session without host frames for IDLE seconds ends (R365). `i`: the session's slot. -/
  | rcpSessionIdle (q : Quad) (i : Fin 4)
  /-- RCP operation READ reads N register words (R367). -/
  | rcpRead (q : PortReads)
  /-- RCP operation WRITE writes N register words (R367). -/
  | rcpWrite (q : PortWrites)
  /-- RCP operation RMW reads, masks and writes one register (R367). -/
  | rcpRmw (q : PortRmw)
  /-- RCP operation WAIT polls a register until it matches or a timeout passes (R367). One poll. -/
  | rcpWait (q : Quad) (expired : Poll)
  /-- RCP operation OPEN opens a gateway channel handle (R370). -/
  | rcpOpen (q : Quad)
  /-- RCP operation SEND sends a message through the host gateway (R370). -/
  | rcpSend (q : Quad)
  /-- RCP operation CLOSE closes a gateway handle or port (R370). -/
  | rcpClose (q : Quad)
  /-- RCP operation LISTEN places a ring in gateway memory for a port (R370). -/
  | rcpListen (q : Quad)
  /-- A management access without an answer in 1 ms is reported as TIMEOUT (R368). -/
  | mgmtAccessTimeout (who : Requester) (addr : Word) (write : Bool)
  /-- Messages accepted at the gateway leave in MSG_IN frames of the owning session (R371). -/
  | rcpMsgInSend (q : Quad) (i : Fin 4)
  /-- An unacknowledged MSG_IN frame is resent after RTO, ending the session after RETRY resends (R371). -/
  | rcpRtoExpiry (q : Quad) (i : Fin 4)
  /-- Every 100 ms until an OFFER arrives, the ROM broadcasts a SOLICIT (R373). -/
  | bootSolicit
  /-- An OFFER announces the network boot image length (R373). -/
  | bootOfferRx
  /-- A DATA chunk at the expected offset is staged and acknowledged by DACK; others are discarded (R373). -/
  | bootDataRx
  /-- A fully received network image is checked as in the ROM boot and answered with DONE (R442). `recs`: what the core segment spells; `fails`: the self-test. -/
  | netBootImageCheck (sigOk : Bool) (recs : List CfgRec) (fails : List (Cluster × BitVec 34))
  /-- A REF IN frame becomes raw events on ingress port 8 with device timestamps (R375). -/
  | refInFrameRx (q : Quad)
  /-- The highest open non-empty transmit queue starts a frame that fits before its gate closes (R356). -/
  | txFrameStart (q : Quad)
  /-- GCL_CTRL.CHANGE schedules the non-operational gate list, setting PENDING (R357). -/
  | gclChangeWrite (who : Requester) (q : Quad) (value : Word)
  /-- At the chosen base instant the new gate list becomes operational (R357). -/
  | gclListSwitch (q : Quad)
  /-- A PHY_CTRL write takes the link down and restarts training (R350). -/
  | phyCtrlWrite (who : Requester) (q : Quad) (value : Word)
  /-- PHY training completes and ETH_STAT.LINK becomes 1 (R349). `master`: the role that auto-negotiation resolves. -/
  | linkUp (q : Quad) (master : Bool)
  /-- LINK falls to 0, is counted and raises ETH_LINK; queued transmit frames are discarded (R350). -/
  | linkDown (q : Quad)
  /-- A PTP_ADJ write steps the PTP clock by a signed amount (R358). -/
  | ptpAdjWrite (who : Requester) (value : Word)
  /-- A read of PTP_NS_LO latches PTP_NS_HI and the device time (R358). -/
  | ptpNsLoRead (who : Requester)
  /-- Firmware processes a timestamped gPTP frame as an 802.1AS end station (R359). `adj`: the clock step in ns that 802.1AS asks for; `reply`: the frame that firmware sends. -/
  | gptpFrame (q : Quad) (adj : BitVec 32) (reply : Option (List Byte))
  /-- A key message on port 240 installs, enables or disables an SA, and the result is recorded in MS_KEY_STAT (R362). -/
  | macsecKeyMessage (q : Quad)
  /-- A new transmit AN applies from the next frame and ends PN-exhaustion drops (R361). -/
  | msTxAnWrite (who : Requester) (q : Quad) (value : Word)
  /-- The DDR5 controller accepts one memory-path request per fabric cycle into its queues (R386). `reqs`: requests that reach the controller in this fabric cycle. -/
  | ddrRequestAccept (q : Quad) (reqs : List DdrReq)
  /-- A DRAIN read returns after every earlier-accepted write has reached the devices (R388). -/
  | drainRead (who : Requester) (q : Quad)
  /-- The controller performs a refresh, doubled while the devices are hot (R383). `hot`: the devices report a temperature above 85 °C. -/
  | ddrRefresh (q : Quad) (hot : Bool)
  /-- Every DDR_SCRUB interval a burst is read and corrected, with writeback unless it was written meanwhile (R391). `wrote`: a write to the burst is accepted between its read and its writeback. -/
  | ddrPatrolScrub (q : Quad) (wrote : Bool)
  /-- The channel leaves self-refresh with one ZQ calibration (R392). -/
  | ddrSelfRefreshExit (q : Quad)
  /-- DDR_TRAIN.START starts full training (R404). A write of DDR_TRAIN with START. -/
  | ddrTrainStart (who : Requester) (q : Quad) (value : Word)
  /-- Full or periodic training of a channel ends (R383). -/
  | ddrTrainingComplete (q : Quad) (ok : Bool)
  /-- The periodic retrain interval expires and retraining starts (R404). -/
  | ddrPeriodicRetrain (q : Quad)
  /-- A write of DDR_CFG.EN = 1 enables the channel, or sets CFG_ERR for a refused organisation (R384). A write of DDR_CFG. -/
  | ddrCfgEnable (who : Requester) (q : Quad) (value : Word)
  /-- Saune-D lanes are calibrated after RESET_N release, with spares replacing failed lanes (R394). Lanes of the quadrant's two shared edges that fail calibration. -/
  | sdCalibration (q : Quad) (fail0 fail1 : BitVec 4)
  /-- An 8-block Saune-C group is decoded, corrected or lost, delivering its flits, credits, tokens and STEPB bytes (R397). `fec`: 1 a corrected group, 2 one that cannot be corrected. -/
  | scGroupRx (k : Link) (fec : Fin 3) (blocks : List ScBlock)
  /-- SC_CTRL.TRAIN puts the link into TRAIN (R398). -/
  | scTrainStart (who : Requester) (k : Link)
  /-- Training completes, recording the peer and latency, and the link becomes UP (R398). -/
  | scTrainingComplete (k : Link) (pkg : Fin 16) (peer : Link) (lat : BitVec 9) (rev : Bool) (pol : BitVec 4)
  /-- Block lock lost for more than 1 µs puts the link DOWN and may start an automatic retrain (R398). -/
  | scBlockLockLoss (k : Link)
  /-- The peer's UA bit changes, and the package starts or stops treating it as unavailable (R400). -/
  | scUaChange (k : Link) (ua : Bool)
  /-- A firmware write of SC_CTRL.REJOIN prepares the package to rejoin the array (R401). -/
  | scRejoinWrite (who : Requester) (k : Link)
  /-- A cluster power request starts a sequence, waits for an advance, or is recorded or cleared as pending (R424). -/
  | clPwrReqWrite (who : Requester) (c : Cluster) (value : Word)
  /-- A package power request, honoured only when the step machine holds outside an array (R424). -/
  | pkgPwrReqWrite (who : Requester) (value : Word)
  /-- A cluster's Steep entry sequence ends and any pending target starts (R417). -/
  | clSteepEntryDone (c : Cluster)
  /-- A cluster's Steep exit sequence ends and its banks return to their power states (R417). -/
  | clSteepExitDone (c : Cluster)
  /-- A cluster is isolated and both its regulators are off (R417). -/
  | clColdEntryDone (c : Cluster)
  /-- A cluster's Cold exit ends with memories initialised and registers at reset (R417). -/
  | clColdExitDone (c : Cluster)
  /-- All clusters are in Steep, DDR5 is in self-refresh, registers are saved and PLLs are stopped (R422). -/
  | pkgSteepEntryDone
  /-- PLLs relock, clusters leave Steep, registers are restored and the clocks advance (R422). `ticks`: always-on ticks of the Steep. -/
  | pkgSteepExitDone (ticks : Word)
  /-- The package drops to the always-on domain and RAIL_EN goes low (R413). -/
  | pkgColdEntryDone
  /-- The Cold exit sequence ends with firmware running and the package in Brew (R422). -/
  | pkgColdExitDone (digestOk : Bool) (recs : List CfgRec) (fails : List (Cluster × BitVec 34))
  /-- An enabled edge on GPIO0-7 wakes the package (R423). -/
  | wakeGpioEdge (g : Fin 8) (rise : Bool)
  /-- The always-on wake timer expires and wakes the package (R423). -/
  | aoWakeTmrExpiry
  /-- A low-power regulator over 50 mA for 2 µs drops its cluster to Cold and raises BROWNOUT (R412). `vm`: the VM regulator, else VL. -/
  | brownout (c : Cluster) (vm : Bool)
  /-- A regulator at its current limit for over 1 µs raises REG_OC (R411). `ended`: the episode counted before is over. -/
  | regOvercurrent (c : Cluster) (vm : Bool) (ended : Bool)
  /-- A cluster temperature at THERM_HI or above raises THERM_HI (R425). `temp`: the reading, as CL_TEMP has it. -/
  | thermHiCross (c : Cluster) (temp : BitVec 12)
  /-- At 140 °C the always-on domain forces the package to Cold (R425). -/
  | thermalShutdown (c : Cluster) (temp : BitVec 12)
  /-- No 32.768 kHz edge for 1 ms switches to the RC oscillator and raises CLK32_FAIL (R426). -/
  | clk32Fail
  /-- An FPLL or DPLL deviating or losing lock raises PLL_LOCK at severity 3 (R428). `dpll`: DPLL, else FPLL; `lost`: the lock is lost. -/
  | pllDeviation (q : Quad) (dpll lost : Bool)
  /-- A PLL started on demand locks and releases the blocks held for it (R427). `i`: the PLL's bit of PLL_STAT. -/
  | pllLocked (i : Fin 16)
  /-- A CL_VTRIM write ramps both regulators toward the new voltage, not below VMIN (R410). -/
  | clVtrimWrite (who : Requester) (c : Cluster) (value : Word)
  /-- VDD_AO rising resets everything and leads to the full boot (R435). -/
  | powerOnReset
  /-- RESET_N held low resets everything except the always-on domain (R435). -/
  | resetNAssert
  /-- RESET_N released starts the full boot (R435). `vio33`: VIOSEL reads 3.3 V; `mismatch`: it disagrees with VIO. -/
  | resetNRelease (vio33 mismatch : Bool)
  /-- RST_CMD.COMPUTE starts a compute reset, or is ignored while one runs (R438). -/
  | computeResetCmd (who : Requester)
  /-- An interval of the compute reset sequence ends and the next begins, or the reset completes (R438). -/
  | computeResetIntervalEnd (fails : List (Cluster × BitVec 34))
  /-- A CL_RST write starts a cluster reset, discarding its queues and any roast in flight (R435). -/
  | clRstWrite (who : Requester) (hi : Bool) (value : Word)
  /-- A cluster reset ends, and the cluster becomes available at the next advance (R435). -/
  | clusterResetEnd (c : Cluster)
  /-- A CORE_RST_PULSE write resets a core for 1 µs (R435). -/
  | coreRstPulseWrite (who : Requester) (c : Cluster) (value : Word)
  /-- A CORE_RST_HOLD write holds or releases a core in reset (R435). -/
  | coreRstHoldWrite (who : Requester) (c : Cluster) (value : Word)
  /-- A core reset ends, and the core becomes available at the next advance (R435). -/
  | coreResetEnd (k : Core)
  /-- The ROM reads, hashes and verifies the flash image, then starts MP0-MP3 or falls back to network boot (R441). `answers`: the flash answers. -/
  | romFlashBoot (answers sigOk : Bool) (recs : List CfgRec) (fails : List (Cluster × BitVec 34))
  /-- A message on port 243 makes firmware erase and program the firmware slot (R443). -/
  | fwImageUpdateMsg (image : List Byte)
  /-- A licence record on port 242 is checked and stored for the next Cold-to-Brew (R448). -/
  | licenceRecordMsg (r : LicRec)
  /-- An IMG_PTR write sets the staging address and clears IMG_BYTES (R455). -/
  | imgPtrWrite (who : Requester) (q : Quad) (value : Word)
  /-- An RCP FIXED write of IMG_DATA stages a word to DDR5 and advances IMG_BYTES (R449). -/
  | imgDataWrite (who : Requester) (q : Quad) (value : Word)
  /-- A LOAD message on port 241 starts the firmware loader for a context (R450). -/
  | imageLoadMsg (n : Fin 16) (img : Image)
  /-- The loader finishes its checks and distribution, recording RESULT and making the context LOADED or RESIDENT (R450). -/
  | imageLoadDone
  /-- A keyed FUSE_PROG write starts a field fuse blow (R454). -/
  | fuseProgWrite (who : Requester) (value : Word)
  /-- A blow completes and verifies, and field lock or debug disable acts from the next cycle (R494). -/
  | fuseBlowComplete (ok : Bool)
  /-- A request on port 245 asks firmware to blow a field fuse (R494). -/
  | fuseBlowMsg (sel : Fin 4)
  /-- The collector logs a raised source and takes every action up to its severity (R460). -/
  | faultRaise
  /-- Firmware restores a contained core or cluster and releases its hold (R462). `whole`: the cluster of `k`, else the core. -/
  | containmentRestore (k : Core) (whole : Bool)
  /-- After a recovery's compute reset, firmware redistributes the context, weights and neuron state (R463). `fails`: a step of the restore fails. -/
  | sev3Restore (fails : Bool)
  /-- A keyed FLT_RAISE write raises a source with the unit in FLT_RAISE_UNIT (R477). -/
  | fltRaiseWrite (who : Requester) (value : Word)
  /-- FLT_CTRL.RESTORED clears RESTORING (R463). -/
  | fltRestored (who : Requester)
  /-- FLT_CTRL.HALT puts the collector in HALTED (R463). -/
  | fltHalt (who : Requester)
  /-- FLT_CTRL.RELEASE ends HALTED and clears SEV3 (R464). -/
  | fltRelease (who : Requester)
  /-- The quiet timer reaches FLT_QUIET: the record moves to FAULT_PREV and the collector returns to NORMAL (R468). -/
  | quietPeriodExpiry
  /-- An MP read of FLT_LOG_POP returns and removes the oldest log entry (R465). -/
  | fltLogPopRead (who : Requester)
  /-- A read of IC_CLAIM by its MP claims the best pending source, or returns 0 (R472). -/
  | icClaimRead (who : Requester) (m : Quad)
  /-- A write of IC_COMPLETE ends a source's active state and opens a storm-guard window (R473). -/
  | icCompleteWrite (who : Requester) (m : Quad) (value : Word)
  /-- A mask write takes effect in the next cycle, and clearing a bit resets its storm count (R473). -/
  | icMaskWrite (who : Requester) (i : Fin 8) (value : Word)
  /-- IC_SWI_SET sets software interrupts (R471). -/
  | icSwiSetWrite (who : Requester) (value : Word)
  /-- IC_SWI_CLR clears software interrupts (R471). -/
  | icSwiClrWrite (who : Requester) (value : Word)
  /-- A guard window closes, resetting or advancing the storm count and masking a source at STORM_N (R474). A rise that stands is seen when it happens; `rose`: the level has also risen and fallen again within one command of the window. -/
  | stormWindowExpiry (i : Fin 256) (rose : Bool)
  /-- A CTX_NEXT write requests, replaces or cancels a context switch (R483). -/
  | ctxNextWrite (who : Requester) (value : Word)
  /-- The outgoing context's final delivery phase closes (R484). -/
  | switchFlushDone
  /-- No roast of the outgoing partition is busy any longer (R484). -/
  | switchRoastWaitDone
  /-- The outgoing mutable state is saved and the last DRAIN has returned (R484). -/
  | switchSaveDone
  /-- The outgoing partition and its off-cluster state are zeroed (R487). -/
  | switchScrubDone
  /-- The incoming context's state is loaded and fenced, STEP_NUM is set and it becomes resident (R484). -/
  | switchLoadDone
  /-- A destroy request moves a LOADED context to DESTROYING and scrubbing begins (R489). -/
  | ctxDestroyMsg (n : Fin 16)
  /-- The context's DDR5 regions and flash areas are cleared and it becomes FREE (R489). -/
  | ctxDestroyDone (n : Fin 16)
  /-- ATT_CMD.START requests an attestation report, or is ignored while busy (R492). -/
  | attStart (who : Requester)
  /-- The report is signed and READY is set (R492). -/
  | attSignDone (ok : Bool)
  /-- A PAD_EN write enables or releases pad groups from the next PCLK (R517). -/
  | padEnWrite (who : Requester) (value : Word)
  /-- At the interval the image declares, firmware copies core-local SRAM of the resident context to DDR5 by DMA as the state checkpoint that a severity-3 restore writes back (R463). -/
  | stateCheckpoint
  /-- The board drives PWR_GOOD high, letting a Cold exit that waited past interval 1 continue, with the wait counted in PWR_RAIL_WAIT_CNT (R422). -/
  | pwrGoodRise
  /-- A JTAG debugger asks to halt a management processor: it is refused while a confidential context is resident or being switched, and otherwise halts the MP and freezes the timers that select it with DBG_FREEZE (R320). -/
  | debugHaltRequest (m : Quad)
  /-- A halted management processor resumes, and timers frozen with DBG_FREEZE start taking their ticks again without making up the frozen time (R320). -/
  | debugResume (m : Quad)
  /-- A gateway OPEN, CLOSE or SEND with no CTLS or ACK within 1 ms is reported as TIMEOUT, and a later answer is discarded (R370). -/
  | rcpChanTimeout (q : Quad)
  /-- The sensor puts a CSI-2 D-PHY receiver's lanes into ultra-low-power state, and CSI_STAT.ULPS is set (R284). -/
  | csiUlpsEntry (k : CsiId)
  /-- The sensor brings a CSI-2 receiver's lanes out of ultra-low-power state, CSI_STAT.ULPS clears, and high-speed reception can resume (R284). -/
  | csiUlpsExit (k : CsiId)
deriving DecidableEq, Repr

end Sys2Proof
end

