-- ==== Sys2Proof/Config.lean ====
section
/-! DEFINITION. What one part or one implementation fixes and the spec does not state: free values, fused values, and the functions of
the environment. None of them has a body, so no proof can see a value. -/

namespace Sys2Proof.Config

/-- Free values: the n-th value that the spec leaves open, read with the counter `fresh` of the state. -/
opaque freeWord : Nat → Word

/-- DEV_ID[i] (16 R454). -/
opaque devId : Nat → Word

/-- ROOT_KEY_HASH[i] (16 R454). -/
opaque rootKeyHash : Nat → Word

/-- LIC_AR_CNT as shipped. -/
opaque licAr : Nat

/-- FUSE_FLAGS as shipped: field fuses, ordering code and RKH_VALID (16 R454). -/
opaque fuseFlags : Word

/-- A spare column used by a factory repair of a cluster: cluster, spare number 4b + s (05 R167). -/
opaque factoryFused : Nat → Nat → Bool

/-- The column a factory repair replaces (05 R167). -/
opaque factoryColumn : Nat → Nat → Nat

/-- VMIN of a cluster as a CL_VTRIM code (15 R410). -/
opaque vmin : Nat → Nat

/-- Which alias of a cluster's membership table a neuron belongs to, and the number of the i-th alias of a table (01 R31, R32): functions of
the table's words, since the spec gives the table no layout. -/
opaque aliasOf : List Word → Word → Option Nat
opaque aliasNumber : List Word → Nat → Word

/-- Physical cores of a cluster whose retirement is fused, as a mask (16 R446, R447). -/
opaque retired : Nat → Nat

/-- SHA-512 (16 R440, 18 R492). -/
opaque sha512 : List Byte → BitVec 512

/-- The signing unit's ECDSA P-521 signature of a digest (18 R492). -/
opaque sign : BitVec 512 → List Word

end Sys2Proof.Config
end

