-- ==== Sys2Proof/Machine/Bits.lean ====
section
/-! DEFINITION. Bit fields, signed readings and the saturating and rounding operations the spec names (03 R93, 04 R122, R530). -/

namespace Sys2Proof.Machine

/-- Bits [hi:lo] of a word, as a number. -/
def bits (w : Word) (hi lo : Nat) : Nat := (w.toNat >>> lo) % 2 ^ (hi + 1 - lo)

/-- Bit i of a word. -/
def bit (w : Word) (i : Nat) : Bool := w.getLsbD i

/-- A word from a number, modulo 2³². -/
def w32 (n : Nat) : Word := BitVec.ofNat 32 n

/-- A word from an integer, modulo 2³². -/
def wInt (i : Int) : Word := BitVec.ofInt 32 i

/-- The mask of bits [hi:lo]. -/
def fldMask (hi lo : Nat) : Word := w32 ((2 ^ (hi + 1 - lo) - 1) <<< lo)

/-- `w` with bits [hi:lo] replaced by the low bits of `v`. -/
def setBits (w : Word) (hi lo v : Nat) : Word :=
  (w &&& ~~~ fldMask hi lo) ||| (w32 (v <<< lo) &&& fldMask hi lo)

/-- `w` with bit i set to `b`. -/
def setBit (w : Word) (i : Nat) (b : Bool) : Word := setBits w i i (if b then 1 else 0)

/-- The number 1 or 0 of a flag. -/
def b2n (b : Bool) : Nat := if b then 1 else 0

/-- The low n bits of v read as a signed number. -/
def sext (n v : Nat) : Int :=
  let x := v % 2 ^ n
  if x < 2 ^ (n - 1) then (x : Int) else (x : Int) - (2 ^ n : Nat)

/-- The low n bits of an integer, as an unsigned number. -/
def ubits (n : Nat) (i : Int) : Nat := (i % ((2 ^ n : Nat) : Int)).toNat

/-- Clamp to a signed range of n bits. -/
def satS (n : Nat) (v : Int) : Int :=
  let hi : Int := ((2 ^ (n - 1) : Nat) : Int) - 1
  let lo : Int := - ((2 ^ (n - 1) : Nat) : Int)
  if v > hi then hi else if v < lo then lo else v

/-- `sat24` of 03 R93. -/
def sat24 (v : Int) : Int := satS 24 v

/-- `sat16` of 03 R93: clamp to 0–0xFFFF. -/
def sat16 (v : Int) : Nat := if v < 0 then 0 else if v > 65535 then 65535 else v.toNat

/-- `rtz` of 03 R93: times an unsigned 1.15 factor, rounded toward zero. -/
def rtz (v : Int) (f : Nat) : Int := (v * (f : Int)).tdiv 32768

/-- v × 2^h rounded toward zero, h signed (03 R96). -/
def shiftRtz (v : Int) (h : Int) : Int :=
  if h < 0 then v.tdiv ((2 ^ (-h).toNat : Nat) : Int) else v * ((2 ^ h.toNat : Nat) : Int)

/-- Saturating count up of a 32-bit counter (00 R12). -/
def satAdd32 (w : Word) (n : Nat) : Word := w32 (min (w.toNat + n) 0xFFFFFFFF)

/-- One advance of a 32-bit Galois LFSR (04 R530). -/
def lfsrNext (x : Word) : Word :=
  if x.getLsbD 0 then (x >>> 1) ^^^ (0x80200003#32) else x >>> 1

/-- A draw of q bits from an LFSR: the new state and the bits (04 R530). -/
def lfsrDraw (x : Word) (q : Nat) : Word × Nat := (lfsrNext x, (lfsrNext x).toNat % 2 ^ q)

/-- A seed as stored: 0 becomes 1 (04 R530). -/
def seedVal (v : Word) : Word := if v = 0#32 then 1#32 else v

/-- Ceiling of a quotient. -/
def ceilDiv (a b : Nat) : Nat := (a + b - 1) / b

/-- The numbers from `lo` to `hi` inclusive. -/
def rangeIncl (lo hi : Nat) : List Nat := (List.range (hi + 1 - lo)).map (· + lo)

/-- Bytes of a word, lowest address first (00 R11). -/
def wordBytes (w : Word) : List Byte :=
  [w.setWidth 8, (w >>> 8).setWidth 8, (w >>> 16).setWidth 8, (w >>> 24).setWidth 8]

/-- A word from the four bytes at its address and above (00 R11). -/
def bytesWord (b0 b1 b2 b3 : Byte) : Word := b3 ++ b2 ++ b1 ++ b0

/-- The number a big-endian byte list spells (13 R363). -/
def beNat (l : List Byte) : Nat := l.foldl (fun a b => a * 256 + b.toNat) 0

/-- The number a little-endian byte list spells. -/
def leNat (l : List Byte) : Nat := l.foldr (fun b a => a * 256 + b.toNat) 0

/-- n bytes of a number, most significant first. -/
def natBE (n v : Nat) : List Byte := (List.range n).reverse.map fun i => BitVec.ofNat 8 (v >>> (8 * i))

/-- n bytes of a number, least significant first. -/
def natLE (n v : Nat) : List Byte := (List.range n).map fun i => BitVec.ofNat 8 (v >>> (8 * i))

/-- A word of fields, each as its lowest bit and its value. -/
def fields (l : List (Nat × Nat)) : Word := w32 (l.map fun p => p.2 * 2 ^ p.1).sum

end Sys2Proof.Machine
end

