-- ==== Sys2Proof/Machine/RegMap.lean ====
section
/-! DEFINITION. The register map of 19 R497–R509 and of every "Register pages" table of the spec: page ids, a name
for each register, and one row per register with its reset value and which bits each access code governs. -/

namespace Sys2Proof.Machine

/-- One register: its page id (region × 256 + page of the first instance) and its offset (19 R497, R507). -/
structure Rg where
  page : Nat
  off : Nat
deriving DecidableEq, Repr

/-- One row of a register table: offset, number of entries and stride, reset value, and the bits that are RW, RWL, W1C,
W1S and RC (00 R15). A bit in none of them is RO, WO or reserved. -/
structure RegRow where
  off : Nat
  cnt : Nat
  stride : Nat
  reset : Nat
  rw : Nat
  rwl : Nat
  w1c : Nat
  w1s : Nat
  rc : Nat
deriving DecidableEq, Repr

abbrev pgTOPO : Nat := 0x000
abbrev pgSTEP : Nat := 0x001
abbrev pgFAB : Nat := 0x002
abbrev pgEPOCH : Nat := 0x003
abbrev pgCTX : Nat := 0x004
abbrev pgATT : Nat := 0x005
abbrev pgRST : Nat := 0x006
abbrev pgBOOT : Nat := 0x007
abbrev pgFUSE : Nat := 0x008
abbrev pgPWR : Nat := 0x009
abbrev pgCLK : Nat := 0x00A
abbrev pgHOLDUP : Nat := 0x00B
abbrev pgFLT : Nat := 0x00C
abbrev pgFLTCFG : Nat := 0x00D
abbrev pgIC : Nat := 0x00E
abbrev pgICCFG : Nat := 0x00F
abbrev pgPTPCLK : Nat := 0x010
abbrev pgSENSIO : Nat := 0x011
abbrev pgXBAR : Nat := 0x012
abbrev pgACT : Nat := 0x013
abbrev pgGPIO : Nat := 0x014
abbrev pgMAP : Nat := 0x015
abbrev pgPAD : Nat := 0x016
abbrev pgTMR : Nat := 0x020
abbrev pgINGRESS : Nat := 0x100
abbrev pgINGCFG : Nat := 0x101
abbrev pgDMA : Nat := 0x102
abbrev pgETH : Nat := 0x103
abbrev pgETHCFG : Nat := 0x104
abbrev pgMACSEC : Nat := 0x105
abbrev pgDDR : Nat := 0x106
abbrev pgDDRCFG : Nat := 0x107
abbrev pgSD : Nat := 0x108
abbrev pgIMGLD : Nat := 0x109
abbrev pgCSIRX : Nat := 0x110
abbrev pgCSISTAT : Nat := 0x112
abbrev pgDEC : Nat := 0x114
abbrev pgSC : Nat := 0x118
abbrev pgUNIT : Nat := 0x200
abbrev pgSTEPC : Nat := 0x201
abbrev pgREMAP : Nat := 0x202
abbrev pgCMEM : Nat := 0x203
abbrev pgCMCFG : Nat := 0x204
abbrev pgGRIND : Nat := 0x205
abbrev pgGRINDCFG : Nat := 0x206
abbrev pgDRIP : Nat := 0x207
abbrev pgDRIPCFG : Nat := 0x208
abbrev pgROAST : Nat := 0x209
abbrev pgROASTCFG : Nat := 0x20A
abbrev pgPWRC : Nat := 0x20B
abbrev pgRSTC : Nat := 0x20C
abbrev pgCORE : Nat := 0x300
abbrev pgCORECFG : Nat := 0x301
abbrev pgSLICE : Nat := 0x302
abbrev pgMC : Nat := 0x303
abbrev pgMCCFG : Nat := 0x304
abbrev pgLIST : Nat := 0x305
abbrev pgDENSE : Nat := 0x306
abbrev pgDENSECFG : Nat := 0x307
abbrev pgDRIPEP : Nat := 0x308

/-- 01 R50, page TOPO. -/
def TOPO_POS : Rg := ⟨pgTOPO, 0x040⟩
/-- 01 R50, page TOPO. -/
def TOPO_PKG : Rg := ⟨pgTOPO, 0x044⟩
/-- 01 R50, page TOPO. -/
def TOPO_QUAD : Rg := ⟨pgTOPO, 0x048⟩
/-- 01 R50, page TOPO. -/
def TOPO_CL_OUT_LO : Rg := ⟨pgTOPO, 0x04C⟩
/-- 01 R50, page TOPO. -/
def TOPO_CL_OUT_HI : Rg := ⟨pgTOPO, 0x050⟩
/-- 01 R50, page TOPO. -/
def TOPO_CL_DEG_LO : Rg := ⟨pgTOPO, 0x054⟩
/-- 01 R50, page TOPO. -/
def TOPO_CL_DEG_HI : Rg := ⟨pgTOPO, 0x058⟩
/-- 01 R50, page TOPO. -/
def TOPO_CAPACITY : Rg := ⟨pgTOPO, 0x05C⟩
/-- 01 R51, page UNIT. -/
def UNIT_CTRL : Rg := ⟨pgUNIT, 0x040⟩
/-- 01 R51, page UNIT. -/
def UNIT_STAT : Rg := ⟨pgUNIT, 0x044⟩
/-- 01 R51, page UNIT. -/
def UNIT_ALIAS_BASE : Rg := ⟨pgUNIT, 0x048⟩
/-- 01 R51, page UNIT. -/
def UNIT_ALIAS_NUM : Rg := ⟨pgUNIT, 0x04C⟩
/-- 01 R51, page UNIT. -/
def ALIAS_SAT_CNT : Rg := ⟨pgUNIT, 0x050⟩
/-- 01 R51, page UNIT. -/
def ALIAS_EVT_CNT : Rg := ⟨pgUNIT, 0x054⟩
/-- 01 R51, page UNIT. -/
def ADDR_DEPTH_ERR_CNT : Rg := ⟨pgUNIT, 0x058⟩
/-- 01 R51, page UNIT. -/
def UNAVAIL_DROP_CNT : Rg := ⟨pgUNIT, 0x05C⟩
/-- 01 R52, page SLICE. -/
def SLICE_CFG : Rg := ⟨pgSLICE, 0x040⟩
/-- 01 R52, page SLICE. -/
def SLICE_INBOX : Rg := ⟨pgSLICE, 0x044⟩
/-- 01 R52, page SLICE. -/
def SLICE_INBOX_DEPTH : Rg := ⟨pgSLICE, 0x048⟩
/-- 01 R52, page SLICE. -/
def SLICE_STAT : Rg := ⟨pgSLICE, 0x04C⟩
/-- 01 R52, page SLICE. -/
def SLICE_INBOX_DROP_CNT : Rg := ⟨pgSLICE, 0x050⟩
/-- 01 R52, page SLICE. -/
def SLICE_SWAP_CNT : Rg := ⟨pgSLICE, 0x054⟩
/-- 01 R52, page SLICE. -/
def SLICE_INBOX_HWM : Rg := ⟨pgSLICE, 0x058⟩
/-- 02 R81, page STEP. -/
def STEP_CTRL : Rg := ⟨pgSTEP, 0x040⟩
/-- 02 R81, page STEP. -/
def STEP_NUM : Rg := ⟨pgSTEP, 0x044⟩
/-- 02 R81, page STEP. -/
def STEP_STAT : Rg := ⟨pgSTEP, 0x048⟩
/-- 02 R81, page STEP. -/
def MARK_ALIGN : Rg := ⟨pgSTEP, 0x04C⟩
/-- 02 R81, page STEP. -/
def STRETCH_CYC_CNT : Rg := ⟨pgSTEP, 0x050⟩
/-- 02 R81, page STEP. -/
def STRETCH_STEP_CNT : Rg := ⟨pgSTEP, 0x054⟩
/-- 02 R81, page STEP. -/
def ROAST_STRETCH_CYC_CNT : Rg := ⟨pgSTEP, 0x058⟩
/-- 02 R81, page STEP. -/
def DELIV_OVER_CNT : Rg := ⟨pgSTEP, 0x05C⟩
/-- 02 R81, page STEP. -/
def FORCE_CNT : Rg := ⟨pgSTEP, 0x060⟩
/-- 02 R81, page STEP. -/
def BIN_LATE_CNT : Rg := ⟨pgSTEP, 0x064⟩
/-- 02 R81, page STEP. -/
def TOKEN_STALE_CNT : Rg := ⟨pgSTEP, 0x068⟩
/-- 02 R81, page STEP. -/
def STRETCH_HWM : Rg := ⟨pgSTEP, 0x06C⟩
/-- 02 R81, page STEP. -/
def POUR_LAT : Rg := ⟨pgSTEP, 0x070⟩
/-- 02 R81, page STEP. -/
def STEP_CTX_LEN (i : Nat) : Rg := ⟨pgSTEP, 0x080 + 4 * i⟩
/-- 02 R81, page STEP. -/
def STEP_CTX_POLICY (i : Nat) : Rg := ⟨pgSTEP, 0x0C0 + 4 * i⟩
/-- 02 R81, page STEP. -/
def STEP_CTX_DELIV (i : Nat) : Rg := ⟨pgSTEP, 0x100 + 4 * i⟩
/-- 02 R82, page STEPC. -/
def STEPC_STAT : Rg := ⟨pgSTEPC, 0x040⟩
/-- 02 R82, page STEPC. -/
def STEPC_DONE_TIME : Rg := ⟨pgSTEPC, 0x044⟩
/-- 02 R82, page STEPC. -/
def FLUSH_DROP_CNT : Rg := ⟨pgSTEPC, 0x048⟩
/-- 02 R82, page STEPC. -/
def DRIP_LATE_DROP_CNT : Rg := ⟨pgSTEPC, 0x04C⟩
/-- 02 R82, page STEPC. -/
def LATE_EVT_CNT : Rg := ⟨pgSTEPC, 0x050⟩
/-- 02 R82, page STEPC. -/
def DEFER_DROP_CNT : Rg := ⟨pgSTEPC, 0x054⟩
/-- 02 R82, page STEPC. -/
def NEURON_SKIP_CNT : Rg := ⟨pgSTEPC, 0x058⟩
/-- 02 R82, page STEPC. -/
def NEURON_FOLD_CNT : Rg := ⟨pgSTEPC, 0x05C⟩
/-- 02 R82, page STEPC. -/
def WAKE_LATE_CNT : Rg := ⟨pgSTEPC, 0x060⟩
/-- 03 R112, page CORE. -/
def CORE_CTRL : Rg := ⟨pgCORE, 0x040⟩
/-- 03 R112, page CORE. -/
def CORE_STAT : Rg := ⟨pgCORE, 0x044⟩
/-- 03 R112, page CORE. -/
def CORE_INTEG_CYC : Rg := ⟨pgCORE, 0x048⟩
/-- 03 R112, page CORE. -/
def SPIKE_CNT : Rg := ⟨pgCORE, 0x04C⟩
/-- 03 R112, page CORE. -/
def V_SAT_CNT : Rg := ⟨pgCORE, 0x050⟩
/-- 03 R112, page CORE. -/
def RING_SAT_CNT : Rg := ⟨pgCORE, 0x054⟩
/-- 03 R112, page CORE. -/
def EGRESS_STALL_CNT : Rg := ⟨pgCORE, 0x058⟩
/-- 03 R112, page CORE. -/
def QUIET_SKIP_CNT : Rg := ⟨pgCORE, 0x05C⟩
/-- 03 R112, page CORE. -/
def DELAY_CLAMP_CNT : Rg := ⟨pgCORE, 0x060⟩
/-- 03 R112, page CORE. -/
def CORE_CE_CNT : Rg := ⟨pgCORE, 0x064⟩
/-- 03 R112, page CORE. -/
def CORE_UE_CNT : Rg := ⟨pgCORE, 0x068⟩
/-- 03 R112, page CORE. -/
def EGRESS_HWM : Rg := ⟨pgCORE, 0x06C⟩
/-- 03 R113, page CORECFG. -/
def CORE_LAYOUT : Rg := ⟨pgCORECFG, 0x040⟩
/-- 03 R113, page CORECFG. -/
def CORE_CE_LIMIT : Rg := ⟨pgCORECFG, 0x044⟩
/-- 03 R113, page CORECFG. -/
def PSET_SEL : Rg := ⟨pgCORECFG, 0x048⟩
/-- 03 R113, page CORECFG. -/
def PSET_CTRL : Rg := ⟨pgCORECFG, 0x04C⟩
/-- 03 R113, page CORECFG. -/
def PSET_WIN (i : Nat) : Rg := ⟨pgCORECFG, 0x050 + 4 * i⟩
/-- 03 R113, page CORECFG. -/
def PSET_STAT : Rg := ⟨pgCORECFG, 0x070⟩
/-- 03 R115, page REMAP. -/
def REMAP (i : Nat) : Rg := ⟨pgREMAP, 0x040 + 4 * i⟩
/-- 03 R115, page REMAP. -/
def PHYS_RETIRE_LO : Rg := ⟨pgREMAP, 0x0C0⟩
/-- 03 R115, page REMAP. -/
def PHYS_RETIRE_HI : Rg := ⟨pgREMAP, 0x0C4⟩
/-- 03 R115, page REMAP. -/
def DEG_RESERVE : Rg := ⟨pgREMAP, 0x0C8⟩
/-- 03 R115, page REMAP. -/
def DEG_RESERVE_SIZE : Rg := ⟨pgREMAP, 0x0CC⟩
/-- 03 R115, page REMAP. -/
def DEG_STAT : Rg := ⟨pgREMAP, 0x0D0⟩
/-- 03 R115, page REMAP. -/
def REMAP_CNT : Rg := ⟨pgREMAP, 0x0D4⟩
/-- 04 R139, page MC. -/
def MC_STAT : Rg := ⟨pgMC, 0x040⟩
/-- 04 R139, page MC. -/
def MC_PC : Rg := ⟨pgMC, 0x044⟩
/-- 04 R139, page MC. -/
def MC_HANDLER_CNT : Rg := ⟨pgMC, 0x048⟩
/-- 04 R139, page MC. -/
def MC_CYC_CNT : Rg := ⟨pgMC, 0x04C⟩
/-- 04 R139, page MC. -/
def MC_EVQ_DROP_CNT : Rg := ⟨pgMC, 0x050⟩
/-- 04 R139, page MC. -/
def MC_EMIT_DROP_CNT : Rg := ⟨pgMC, 0x054⟩
/-- 04 R139, page MC. -/
def MC_ABORT_CNT : Rg := ⟨pgMC, 0x058⟩
/-- 04 R139, page MC. -/
def MC_ILLEGAL_CNT : Rg := ⟨pgMC, 0x05C⟩
/-- 04 R139, page MC. -/
def MC_ADDR_ERR_CNT : Rg := ⟨pgMC, 0x060⟩
/-- 04 R139, page MC. -/
def MC_SKIP_CNT : Rg := ⟨pgMC, 0x064⟩
/-- 04 R139, page MC. -/
def MC_NEURON_HWM : Rg := ⟨pgMC, 0x068⟩
/-- 04 R139, page MC. -/
def MC_EVQ_HWM : Rg := ⟨pgMC, 0x06C⟩
/-- 04 R139, page MC. -/
def MC_ABORT_INFO : Rg := ⟨pgMC, 0x070⟩
/-- 04 R140, page MCCFG. -/
def MC_CTRL : Rg := ⟨pgMCCFG, 0x040⟩
/-- 04 R140, page MCCFG. -/
def MC_ENTRY : Rg := ⟨pgMCCFG, 0x044⟩
/-- 04 R140, page MCCFG. -/
def MC_EVT_ORD_LO : Rg := ⟨pgMCCFG, 0x048⟩
/-- 04 R140, page MCCFG. -/
def MC_EVT_ORD_HI : Rg := ⟨pgMCCFG, 0x04C⟩
/-- 04 R140, page MCCFG. -/
def MC_LIMIT_N : Rg := ⟨pgMCCFG, 0x050⟩
/-- 04 R140, page MCCFG. -/
def MC_LIMIT_E : Rg := ⟨pgMCCFG, 0x054⟩
/-- 04 R140, page MCCFG. -/
def MC_LIMIT_M : Rg := ⟨pgMCCFG, 0x058⟩
/-- 04 R140, page MCCFG. -/
def MC_SEED : Rg := ⟨pgMCCFG, 0x05C⟩
/-- 04 R140, page MCCFG. -/
def MC_STORE_IDX : Rg := ⟨pgMCCFG, 0x060⟩
/-- 04 R140, page MCCFG. -/
def MC_STORE_DATA : Rg := ⟨pgMCCFG, 0x064⟩
/-- 04 R140, page MCCFG. -/
def MC_DM_ADDR : Rg := ⟨pgMCCFG, 0x068⟩
/-- 04 R140, page MCCFG. -/
def MC_DM_DATA : Rg := ⟨pgMCCFG, 0x06C⟩
/-- 05 R170, page CMEM. -/
def CM_FENCE : Rg := ⟨pgCMEM, 0x040⟩
/-- 05 R170, page CMEM. -/
def BANK_VIOL_CNT : Rg := ⟨pgCMEM, 0x044⟩
/-- 05 R170, page CMEM. -/
def BANK_VIOL_INFO : Rg := ⟨pgCMEM, 0x048⟩
/-- 05 R170, page CMEM. -/
def BANK_CE_CNT : Rg := ⟨pgCMEM, 0x04C⟩
/-- 05 R170, page CMEM. -/
def BANK_UE_CNT : Rg := ⟨pgCMEM, 0x050⟩
/-- 05 R170, page CMEM. -/
def CE_LOG : Rg := ⟨pgCMEM, 0x054⟩
/-- 05 R170, page CMEM. -/
def UE_LOG : Rg := ⟨pgCMEM, 0x058⟩
/-- 05 R170, page CMEM. -/
def SCRUB_PASS_CNT : Rg := ⟨pgCMEM, 0x05C⟩
/-- 05 R170, page CMEM. -/
def SCRUB_CANCEL_CNT : Rg := ⟨pgCMEM, 0x060⟩
/-- 05 R170, page CMEM. -/
def LOOKUP_MISS_CNT : Rg := ⟨pgCMEM, 0x064⟩
/-- 05 R170, page CMEM. -/
def LOOKUP_OVF_DROP_CNT : Rg := ⟨pgCMEM, 0x068⟩
/-- 05 R170, page CMEM. -/
def LOOKUP_HWM : Rg := ⟨pgCMEM, 0x06C⟩
/-- 05 R170, page CMEM. -/
def OWNER_WRITE_IGN_CNT : Rg := ⟨pgCMEM, 0x070⟩
/-- 05 R170, page CMEM. -/
def RET_WAKE_STALL_CNT : Rg := ⟨pgCMEM, 0x074⟩
/-- 05 R170, page CMEM. -/
def ACC_XBAR_STALL_CNT : Rg := ⟨pgCMEM, 0x078⟩
/-- 05 R170, page CMEM. -/
def BANKWIN_ADDR : Rg := ⟨pgCMEM, 0x07C⟩
/-- 05 R170, page CMEM. -/
def BANKWIN_DATA : Rg := ⟨pgCMEM, 0x080⟩
/-- 05 R170, page CMEM. -/
def BANKWIN_STAT : Rg := ⟨pgCMEM, 0x084⟩
/-- 05 R171, page CMCFG. -/
def BANK_OWNER (i : Nat) : Rg := ⟨pgCMCFG, 0x040 + 4 * i⟩
/-- 05 R171, page CMCFG. -/
def BANK_HANDOVER_PENDING : Rg := ⟨pgCMCFG, 0x0C0⟩
/-- 05 R171, page CMCFG. -/
def BANK_PWR_LO : Rg := ⟨pgCMCFG, 0x0C4⟩
/-- 05 R171, page CMCFG. -/
def BANK_PWR_HI : Rg := ⟨pgCMCFG, 0x0C8⟩
/-- 05 R171, page CMCFG. -/
def BANK_RDY : Rg := ⟨pgCMCFG, 0x0CC⟩
/-- 05 R171, page CMCFG. -/
def ENTRY_SEED0 : Rg := ⟨pgCMCFG, 0x0D0⟩
/-- 05 R171, page CMCFG. -/
def ENTRY_SEED1 : Rg := ⟨pgCMCFG, 0x0D4⟩
/-- 05 R171, page CMCFG. -/
def SCRUB_CTRL : Rg := ⟨pgCMCFG, 0x0D8⟩
/-- 05 R171, page CMCFG. -/
def SR_SEL : Rg := ⟨pgCMCFG, 0x0DC⟩
/-- 05 R171, page CMCFG. -/
def SR_DATA : Rg := ⟨pgCMCFG, 0x0E0⟩
/-- 05 R173, page LIST. -/
def DESC_BASE : Rg := ⟨pgLIST, 0x040⟩
/-- 05 R173, page LIST. -/
def DESC_ORD_LO : Rg := ⟨pgLIST, 0x044⟩
/-- 05 R173, page LIST. -/
def DESC_ORD_HI : Rg := ⟨pgLIST, 0x048⟩
/-- 05 R173, page LIST. -/
def CHAIN_BASE : Rg := ⟨pgLIST, 0x04C⟩
/-- 05 R173, page LIST. -/
def LIST_CNT : Rg := ⟨pgLIST, 0x050⟩
/-- 05 R173, page LIST. -/
def SYN_CNT : Rg := ⟨pgLIST, 0x054⟩
/-- 05 R173, page LIST. -/
def DESC_ERR_CNT : Rg := ⟨pgLIST, 0x058⟩
/-- 05 R173, page LIST. -/
def SYN_UE_CNT : Rg := ⟨pgLIST, 0x05C⟩
/-- 05 R173, page LIST. -/
def LISTQ_DROP_CNT : Rg := ⟨pgLIST, 0x060⟩
/-- 05 R173, page LIST. -/
def LISTQ_HWM : Rg := ⟨pgLIST, 0x064⟩
/-- 06 R198, page FAB. -/
def FAB_FRAMES : Rg := ⟨pgFAB, 0x040⟩
/-- 06 R198, page FAB. -/
def FAB_SC_DELAY : Rg := ⟨pgFAB, 0x044⟩
/-- 06 R198, page FAB. -/
def FAB_SC_SLOT_MAX : Rg := ⟨pgFAB, 0x048⟩
/-- 06 R198, page FAB. -/
def FAB_STAT : Rg := ⟨pgFAB, 0x04C⟩
/-- 06 R199, page GRINDCFG. -/
def RT_CTRL : Rg := ⟨pgGRINDCFG, 0x040⟩
/-- 06 R199, page GRINDCFG. -/
def RT_STAT : Rg := ⟨pgGRINDCFG, 0x044⟩
/-- 06 R199, page GRINDCFG. -/
def GT_ADDR : Rg := ⟨pgGRINDCFG, 0x048⟩
/-- 06 R199, page GRINDCFG. -/
def GT_DATA : Rg := ⟨pgGRINDCFG, 0x04C⟩
/-- 06 R199, page GRINDCFG. -/
def FSEQ_ADDR : Rg := ⟨pgGRINDCFG, 0x050⟩
/-- 06 R199, page GRINDCFG. -/
def FSEQ_DATA : Rg := ⟨pgGRINDCFG, 0x054⟩
/-- 06 R199, page GRINDCFG. -/
def FLOW_ADDR : Rg := ⟨pgGRINDCFG, 0x058⟩
/-- 06 R199, page GRINDCFG. -/
def FLOW_DATA : Rg := ⟨pgGRINDCFG, 0x05C⟩
/-- 06 R199, page GRINDCFG. -/
def DEST_ADDR : Rg := ⟨pgGRINDCFG, 0x060⟩
/-- 06 R199, page GRINDCFG. -/
def DEST_DATA : Rg := ⟨pgGRINDCFG, 0x064⟩
/-- 06 R199, page GRINDCFG. -/
def WAKE_GRP_CORE (i : Nat) : Rg := ⟨pgGRINDCFG, 0x080 + 8 * i⟩
/-- 06 R199, page GRINDCFG. -/
def WAKE_GRP_BANK (i : Nat) : Rg := ⟨pgGRINDCFG, 0x084 + 8 * i⟩
/-- 06 R200, page GRIND. -/
def FAB_CE_CNT : Rg := ⟨pgGRIND, 0x040⟩
/-- 06 R200, page GRIND. -/
def FAB_UE_CNT : Rg := ⟨pgGRIND, 0x044⟩
/-- 06 R200, page GRIND. -/
def GT_CE_CNT : Rg := ⟨pgGRIND, 0x048⟩
/-- 06 R200, page GRIND. -/
def GT_UE_CNT : Rg := ⟨pgGRIND, 0x04C⟩
/-- 06 R200, page GRIND. -/
def FAB_CONFLICT_CNT : Rg := ⟨pgGRIND, 0x050⟩
/-- 06 R200, page GRIND. -/
def SLOT_ERR_CNT : Rg := ⟨pgGRIND, 0x054⟩
/-- 06 R200, page GRIND. -/
def NOFLOW_DROP_CNT : Rg := ⟨pgGRIND, 0x058⟩
/-- 06 R200, page GRIND. -/
def HOLD_RESIDUE_CNT : Rg := ⟨pgGRIND, 0x05C⟩
/-- 06 R200, page GRIND. -/
def SPILL_STALL_CNT : Rg := ⟨pgGRIND, 0x060⟩
/-- 06 R200, page GRIND. -/
def TBL_WRITE_IGN_CNT : Rg := ⟨pgGRIND, 0x064⟩
/-- 06 R200, page GRIND. -/
def HOLD_HWM : Rg := ⟨pgGRIND, 0x068⟩
/-- 06 R200, page GRIND. -/
def SPILL_HWM : Rg := ⟨pgGRIND, 0x06C⟩
/-- 06 R200, page GRIND. -/
def SPILL_EVT_CNT : Rg := ⟨pgGRIND, 0x070⟩
/-- 06 R200, page GRIND. -/
def FCLS_RESV_CNT (i : Nat) : Rg := ⟨pgGRIND, 0x100 + 16 * i⟩
/-- 06 R200, page GRIND. -/
def FCLS_HIT_CNT (i : Nat) : Rg := ⟨pgGRIND, 0x104 + 16 * i⟩
/-- 06 R200, page GRIND. -/
def FCLS_EMPTY_CNT (i : Nat) : Rg := ⟨pgGRIND, 0x108 + 16 * i⟩
/-- 06 R200, page GRIND. -/
def FCLS_SPILL_CNT (i : Nat) : Rg := ⟨pgGRIND, 0x10C + 16 * i⟩
/-- 07 R232, page DRIP. -/
def DRIP_STAT : Rg := ⟨pgDRIP, 0x040⟩
/-- 07 R232, page DRIP. -/
def DRIP_CE_CNT : Rg := ⟨pgDRIP, 0x044⟩
/-- 07 R232, page DRIP. -/
def DRIP_UE_CNT : Rg := ⟨pgDRIP, 0x048⟩
/-- 07 R232, page DRIP. -/
def DRIP_EVT_IN_CNT : Rg := ⟨pgDRIP, 0x04C⟩
/-- 07 R232, page DRIP. -/
def DRIP_EVT_OUT_CNT : Rg := ⟨pgDRIP, 0x050⟩
/-- 07 R232, page DRIP. -/
def DRIP_STALE_DROP_CNT : Rg := ⟨pgDRIP, 0x054⟩
/-- 07 R232, page DRIP. -/
def DRIP_WIN_TMO_CNT : Rg := ⟨pgDRIP, 0x058⟩
/-- 07 R232, page DRIP. -/
def DRIP_THR_CYC_CNT : Rg := ⟨pgDRIP, 0x05C⟩
/-- 07 R232, page DRIP. -/
def DRIP_UNREACH_CNT : Rg := ⟨pgDRIP, 0x060⟩
/-- 07 R232, page DRIP. -/
def DRIP_TREE_ERR_CNT : Rg := ⟨pgDRIP, 0x064⟩
/-- 07 R232, page DRIP. -/
def CFG_REJ_CNT : Rg := ⟨pgDRIP, 0x068⟩
/-- 07 R232, page DRIP. -/
def DRIP_CRED_STALL_CNT : Rg := ⟨pgDRIP, 0x06C⟩
/-- 07 R233, page DRIPCFG. -/
def DRIP_CTRL : Rg := ⟨pgDRIPCFG, 0x040⟩
/-- 07 R233, page DRIPCFG. -/
def DRIP_THR : Rg := ⟨pgDRIPCFG, 0x044⟩
/-- 07 R233, page DRIPCFG. -/
def DRIP_WIN_TMO : Rg := ⟨pgDRIPCFG, 0x048⟩
/-- 07 R233, page DRIPCFG. -/
def DTREE_ADDR : Rg := ⟨pgDRIPCFG, 0x04C⟩
/-- 07 R233, page DRIPCFG. -/
def DTREE_DATA : Rg := ⟨pgDRIPCFG, 0x050⟩
/-- 07 R233, page DRIPCFG. -/
def XTAG_ADDR : Rg := ⟨pgDRIPCFG, 0x054⟩
/-- 07 R233, page DRIPCFG. -/
def XTAG_DATA : Rg := ⟨pgDRIPCFG, 0x058⟩
/-- 07 R233, page DRIPCFG. -/
def ITAG_ADDR : Rg := ⟨pgDRIPCFG, 0x05C⟩
/-- 07 R233, page DRIPCFG. -/
def ITAG_DATA : Rg := ⟨pgDRIPCFG, 0x060⟩
/-- 07 R233, page DRIPCFG. -/
def DRIP_PKG_ROUTE_LO : Rg := ⟨pgDRIPCFG, 0x064⟩
/-- 07 R233, page DRIPCFG. -/
def DRIP_PKG_ROUTE_HI : Rg := ⟨pgDRIPCFG, 0x068⟩
/-- 07 R234, page DRIPEP. -/
def EP_STAT : Rg := ⟨pgDRIPEP, 0x040⟩
/-- 07 R234, page DRIPEP. -/
def EGQ_HWM : Rg := ⟨pgDRIPEP, 0x044⟩
/-- 07 R234, page DRIPEP. -/
def EGQ_DROP_CNT : Rg := ⟨pgDRIPEP, 0x048⟩
/-- 07 R234, page DRIPEP. -/
def MSG_RX_CNT : Rg := ⟨pgDRIPEP, 0x04C⟩
/-- 07 R234, page DRIPEP. -/
def MSG_TX_CNT : Rg := ⟨pgDRIPEP, 0x050⟩
/-- 07 R234, page DRIPEP. -/
def MSG_FULL_DROP_CNT : Rg := ⟨pgDRIPEP, 0x054⟩
/-- 07 R234, page DRIPEP. -/
def MSG_BUSY_DROP_CNT : Rg := ⟨pgDRIPEP, 0x058⟩
/-- 07 R234, page DRIPEP. -/
def MSG_CLOSED_DROP_CNT : Rg := ⟨pgDRIPEP, 0x05C⟩
/-- 07 R234, page DRIPEP. -/
def MSG_SEG_DISCARD_CNT : Rg := ⟨pgDRIPEP, 0x060⟩
/-- 07 R234, page DRIPEP. -/
def NAK_RX_CNT : Rg := ⟨pgDRIPEP, 0x064⟩
/-- 07 R234, page DRIPEP. -/
def WIN_STALL_CNT : Rg := ⟨pgDRIPEP, 0x068⟩
/-- 07 R234, page DRIPEP. -/
def EP_CONN : Rg := ⟨pgDRIPEP, 0x06C⟩
/-- 08 R257, page DENSE. -/
def DENSE_STAT : Rg := ⟨pgDENSE, 0x040⟩
/-- 08 R257, page DENSE. -/
def DENSE_CYC : Rg := ⟨pgDENSE, 0x044⟩
/-- 08 R257, page DENSE. -/
def DENSE_RUN_CNT : Rg := ⟨pgDENSE, 0x048⟩
/-- 08 R257, page DENSE. -/
def DENSE_MAC_CNT : Rg := ⟨pgDENSE, 0x04C⟩
/-- 08 R257, page DENSE. -/
def ACC_SAT_CNT : Rg := ⟨pgDENSE, 0x050⟩
/-- 08 R257, page DENSE. -/
def OUT_CLIP_CNT : Rg := ⟨pgDENSE, 0x054⟩
/-- 08 R257, page DENSE. -/
def IN_CLIP_CNT : Rg := ⟨pgDENSE, 0x058⟩
/-- 08 R257, page DENSE. -/
def ROT_SAT_CNT : Rg := ⟨pgDENSE, 0x05C⟩
/-- 08 R257, page DENSE. -/
def DENSE_PORT_STALL_CNT : Rg := ⟨pgDENSE, 0x060⟩
/-- 08 R257, page DENSE. -/
def DENSE_UE_CNT : Rg := ⟨pgDENSE, 0x064⟩
/-- 08 R257, page DENSE. -/
def DL_ERR_CNT : Rg := ⟨pgDENSE, 0x068⟩
/-- 08 R257, page DENSE. -/
def DRIFT_CNT : Rg := ⟨pgDENSE, 0x06C⟩
/-- 08 R257, page DENSE. -/
def DRIFT_INFO : Rg := ⟨pgDENSE, 0x070⟩
/-- 08 R257, page DENSE. -/
def DENSE_EMIT_CNT : Rg := ⟨pgDENSE, 0x074⟩
/-- 08 R257, page DENSE. -/
def DENSE_ABORT_CNT : Rg := ⟨pgDENSE, 0x078⟩
/-- 08 R258, page DENSECFG. -/
def DENSE_CTRL : Rg := ⟨pgDENSECFG, 0x040⟩
/-- 08 R258, page DENSECFG. -/
def DENSE_LIST : Rg := ⟨pgDENSECFG, 0x044⟩
/-- 08 R258, page DENSECFG. -/
def DENSE_PERIOD : Rg := ⟨pgDENSECFG, 0x048⟩
/-- 08 R258, page DENSECFG. -/
def DENSE_TRIG_ORD : Rg := ⟨pgDENSECFG, 0x04C⟩
/-- 08 R258, page DENSECFG. -/
def DENSE_BIN_BASE : Rg := ⟨pgDENSECFG, 0x050⟩
/-- 08 R258, page DENSECFG. -/
def DENSE_BINQ : Rg := ⟨pgDENSECFG, 0x054⟩
/-- 08 R258, page DENSECFG. -/
def OLSET_ADDR (i : Nat) : Rg := ⟨pgDENSECFG, 0x058 + 4 * i⟩
/-- 08 R258, page DENSECFG. -/
def CLIP_THRESH : Rg := ⟨pgDENSECFG, 0x068⟩
/-- 08 R258, page DENSECFG. -/
def DL_SEL : Rg := ⟨pgDENSECFG, 0x06C⟩
/-- 08 R258, page DENSECFG. -/
def DL_CTRL : Rg := ⟨pgDENSECFG, 0x070⟩
/-- 08 R258, page DENSECFG. -/
def DL_STAT : Rg := ⟨pgDENSECFG, 0x074⟩
/-- 08 R258, page DENSECFG. -/
def DL_WIN (i : Nat) : Rg := ⟨pgDENSECFG, 0x080 + 4 * i⟩
/-- 09 R280, page EPOCH. -/
def EPOCH_NUM : Rg := ⟨pgEPOCH, 0x040⟩
/-- 09 R280, page EPOCH. -/
def EPOCH_STAT : Rg := ⟨pgEPOCH, 0x044⟩
/-- 09 R280, page EPOCH. -/
def EPOCH_CTX_LEN (i : Nat) : Rg := ⟨pgEPOCH, 0x080 + 4 * i⟩
/-- 09 R281, page ROAST. -/
def ROAST_STAT : Rg := ⟨pgROAST, 0x040⟩
/-- 09 R281, page ROAST. -/
def ROAST_CYC : Rg := ⟨pgROAST, 0x044⟩
/-- 09 R281, page ROAST. -/
def ROAST_CNT : Rg := ⟨pgROAST, 0x048⟩
/-- 09 R281, page ROAST. -/
def ROAST_UPD_CNT : Rg := ⟨pgROAST, 0x04C⟩
/-- 09 R281, page ROAST. -/
def ROAST_SCALE_CNT : Rg := ⟨pgROAST, 0x050⟩
/-- 09 R281, page ROAST. -/
def ROAST_SKIP_CNT : Rg := ⟨pgROAST, 0x054⟩
/-- 09 R281, page ROAST. -/
def ROAST_TGT_ERR_CNT : Rg := ⟨pgROAST, 0x058⟩
/-- 09 R281, page ROAST. -/
def ROAST_DESC_ERR_CNT : Rg := ⟨pgROAST, 0x05C⟩
/-- 09 R281, page ROAST. -/
def ROAST_UE_CNT : Rg := ⟨pgROAST, 0x060⟩
/-- 09 R281, page ROAST. -/
def PRE_DROP_CNT : Rg := ⟨pgROAST, 0x064⟩
/-- 09 R281, page ROAST. -/
def MOD_SAT_CNT : Rg := ⟨pgROAST, 0x068⟩
/-- 09 R281, page ROAST. -/
def ROAST_PORT_STALL_CNT : Rg := ⟨pgROAST, 0x06C⟩
/-- 09 R281, page ROAST. -/
def CKPT_STAT : Rg := ⟨pgROAST, 0x070⟩
/-- 09 R281, page ROAST. -/
def CKPT_SKIP_CNT : Rg := ⟨pgROAST, 0x074⟩
/-- 09 R281, page ROAST. -/
def DW_CLAMP_CNT : Rg := ⟨pgROAST, 0x078⟩
/-- 09 R281, page ROAST. -/
def ROAST_WRITE_IGN_CNT : Rg := ⟨pgROAST, 0x07C⟩
/-- 09 R281, page ROAST. -/
def MOD_LATCH (i : Nat) : Rg := ⟨pgROAST, 0x080 + 4 * i⟩
/-- 09 R281, page ROAST. -/
def MOD_NOW (i : Nat) : Rg := ⟨pgROAST, 0x090 + 4 * i⟩
/-- 09 R282, page ROASTCFG. -/
def ROAST_CTRL : Rg := ⟨pgROASTCFG, 0x040⟩
/-- 09 R282, page ROASTCFG. -/
def ROAST_SEED : Rg := ⟨pgROASTCFG, 0x044⟩
/-- 09 R282, page ROASTCFG. -/
def PRE_BASE : Rg := ⟨pgROASTCFG, 0x048⟩
/-- 09 R282, page ROASTCFG. -/
def PRE_ORD_LO : Rg := ⟨pgROASTCFG, 0x04C⟩
/-- 09 R282, page ROASTCFG. -/
def PRE_ORD_HI : Rg := ⟨pgROASTCFG, 0x050⟩
/-- 09 R282, page ROASTCFG. -/
def CKPT_BASE : Rg := ⟨pgROASTCFG, 0x054⟩
/-- 09 R282, page ROASTCFG. -/
def CKPT_SIZE : Rg := ⟨pgROASTCFG, 0x058⟩
/-- 09 R282, page ROASTCFG. -/
def CKPT_NEXT : Rg := ⟨pgROASTCFG, 0x05C⟩
/-- 09 R282, page ROASTCFG. -/
def SEG_SEL : Rg := ⟨pgROASTCFG, 0x060⟩
/-- 09 R282, page ROASTCFG. -/
def SEG_DATA : Rg := ⟨pgROASTCFG, 0x064⟩
/-- 09 R282, page ROASTCFG. -/
def RULE_ADDR : Rg := ⟨pgROASTCFG, 0x068⟩
/-- 09 R282, page ROASTCFG. -/
def RULE_DATA : Rg := ⟨pgROASTCFG, 0x06C⟩
/-- 09 R282, page ROASTCFG. -/
def MOD_LO (i : Nat) : Rg := ⟨pgROASTCFG, 0x080 + 16 * i⟩
/-- 09 R282, page ROASTCFG. -/
def MOD_HI (i : Nat) : Rg := ⟨pgROASTCFG, 0x084 + 16 * i⟩
/-- 09 R282, page ROASTCFG. -/
def MOD_GAIN (i : Nat) : Rg := ⟨pgROASTCFG, 0x088 + 16 * i⟩
/-- 09 R282, page ROASTCFG. -/
def MOD_SHIFT (i : Nat) : Rg := ⟨pgROASTCFG, 0x08C + 16 * i⟩
/-- 09 R282, page ROASTCFG. -/
def ROAST_SNAP (i : Nat) : Rg := ⟨pgROASTCFG, 0x0C0 + 4 * i⟩
/-- 10 R304, page CSIRX. -/
def CSI_CTRL : Rg := ⟨pgCSIRX, 0x040⟩
/-- 10 R304, page CSIRX. -/
def CSI_RATE : Rg := ⟨pgCSIRX, 0x044⟩
/-- 10 R304, page CSIRX. -/
def CSI_VC_MODE : Rg := ⟨pgCSIRX, 0x048⟩
/-- 10 R304, page CSIRX. -/
def DEC_CFG : Rg := ⟨pgCSIRX, 0x04C⟩
/-- 10 R304, page CSIRX. -/
def TS_RATE : Rg := ⟨pgCSIRX, 0x050⟩
/-- 10 R304, page CSIRX. -/
def TS_OFFSET_LO : Rg := ⟨pgCSIRX, 0x054⟩
/-- 10 R304, page CSIRX. -/
def TS_OFFSET_HI : Rg := ⟨pgCSIRX, 0x058⟩
/-- 10 R304, page CSIRX. -/
def MAP_WIN0 : Rg := ⟨pgCSIRX, 0x05C⟩
/-- 10 R304, page CSIRX. -/
def MAP_WIN1 : Rg := ⟨pgCSIRX, 0x060⟩
/-- 10 R304, page CSIRX. -/
def MAP_POOL : Rg := ⟨pgCSIRX, 0x064⟩
/-- 10 R304, page CSIRX. -/
def MAP_ID_BASE : Rg := ⟨pgCSIRX, 0x068⟩
/-- 10 R304, page CSIRX. -/
def HOTPIX_IDX : Rg := ⟨pgCSIRX, 0x06C⟩
/-- 10 R304, page CSIRX. -/
def HOTPIX_DATA : Rg := ⟨pgCSIRX, 0x070⟩
/-- 10 R304, page CSIRX. -/
def FR_CTRL : Rg := ⟨pgCSIRX, 0x074⟩
/-- 10 R304, page CSIRX. -/
def FR_CROP0 : Rg := ⟨pgCSIRX, 0x078⟩
/-- 10 R304, page CSIRX. -/
def FR_CROP1 : Rg := ⟨pgCSIRX, 0x07C⟩
/-- 10 R304, page CSIRX. -/
def FR_BUF0 : Rg := ⟨pgCSIRX, 0x080⟩
/-- 10 R304, page CSIRX. -/
def FR_BUF1 : Rg := ⟨pgCSIRX, 0x084⟩
/-- 10 R304, page CSIRX. -/
def FR_STRIDE : Rg := ⟨pgCSIRX, 0x088⟩
/-- 10 R305, page CSISTAT. -/
def CSI_STAT : Rg := ⟨pgCSISTAT, 0x040⟩
/-- 10 R305, page CSISTAT. -/
def CSI_CE_CNT : Rg := ⟨pgCSISTAT, 0x044⟩
/-- 10 R305, page CSISTAT. -/
def CSI_HDR_DROP_CNT : Rg := ⟨pgCSISTAT, 0x048⟩
/-- 10 R305, page CSISTAT. -/
def CSI_CRC_DROP_CNT : Rg := ⟨pgCSISTAT, 0x04C⟩
/-- 10 R305, page CSISTAT. -/
def CSI_DT_DROP_CNT : Rg := ⟨pgCSISTAT, 0x050⟩
/-- 10 R305, page CSISTAT. -/
def CSI_FIFO_DROP_CNT : Rg := ⟨pgCSISTAT, 0x054⟩
/-- 10 R305, page CSISTAT. -/
def DEC_UNK_CNT : Rg := ⟨pgCSISTAT, 0x058⟩
/-- 10 R305, page CSISTAT. -/
def DEC_EVT_CNT : Rg := ⟨pgCSISTAT, 0x05C⟩
/-- 10 R305, page CSISTAT. -/
def TS_FUTURE_CNT : Rg := ⟨pgCSISTAT, 0x060⟩
/-- 10 R305, page CSISTAT. -/
def TS_BACK_CNT : Rg := ⟨pgCSISTAT, 0x064⟩
/-- 10 R305, page CSISTAT. -/
def HOTPIX_DROP_CNT : Rg := ⟨pgCSISTAT, 0x068⟩
/-- 10 R305, page CSISTAT. -/
def ROI_DROP_CNT : Rg := ⟨pgCSISTAT, 0x06C⟩
/-- 10 R305, page CSISTAT. -/
def FR_STAT : Rg := ⟨pgCSISTAT, 0x070⟩
/-- 10 R305, page CSISTAT. -/
def FR_DROP_CNT : Rg := ⟨pgCSISTAT, 0x074⟩
/-- 10 R305, page CSISTAT. -/
def FR_TS0 : Rg := ⟨pgCSISTAT, 0x078⟩
/-- 10 R305, page CSISTAT. -/
def FR_TS1 : Rg := ⟨pgCSISTAT, 0x07C⟩
/-- 10 R305, page CSISTAT. -/
def MARKER_LAST : Rg := ⟨pgCSISTAT, 0x080⟩
/-- 10 R306, page DEC. -/
def DEC_MASK (i : Nat) : Rg := ⟨pgDEC, 0x040 + 32 * i⟩
/-- 10 R306, page DEC. -/
def DEC_MATCH (i : Nat) : Rg := ⟨pgDEC, 0x044 + 32 * i⟩
/-- 10 R306, page DEC. -/
def DEC_KIND (i : Nat) : Rg := ⟨pgDEC, 0x048 + 32 * i⟩
/-- 10 R306, page DEC. -/
def DEC_F01 (i : Nat) : Rg := ⟨pgDEC, 0x04C + 32 * i⟩
/-- 10 R306, page DEC. -/
def DEC_F23 (i : Nat) : Rg := ⟨pgDEC, 0x050 + 32 * i⟩
/-- 10 R306, page DEC. -/
def DEC_F4 (i : Nat) : Rg := ⟨pgDEC, 0x054 + 32 * i⟩
/-- 10 R307, page INGRESS. -/
def ING_STAT : Rg := ⟨pgINGRESS, 0x040⟩
/-- 10 R307, page INGRESS. -/
def ING_RAW_CNT : Rg := ⟨pgINGRESS, 0x044⟩
/-- 10 R307, page INGRESS. -/
def ING_OFFER_CNT : Rg := ⟨pgINGRESS, 0x048⟩
/-- 10 R307, page INGRESS. -/
def FT_MISS_CNT : Rg := ⟨pgINGRESS, 0x04C⟩
/-- 10 R307, page INGRESS. -/
def LIM_DROP_TOT_CNT : Rg := ⟨pgINGRESS, 0x050⟩
/-- 10 R307, page INGRESS. -/
def MERGE_OVF_DROP_CNT : Rg := ⟨pgINGRESS, 0x054⟩
/-- 10 R307, page INGRESS. -/
def OFFER_DROP_CNT : Rg := ⟨pgINGRESS, 0x058⟩
/-- 10 R307, page INGRESS. -/
def FT_PCLAMP_CNT : Rg := ⟨pgINGRESS, 0x05C⟩
/-- 10 R307, page INGRESS. -/
def ING_CE_CNT : Rg := ⟨pgINGRESS, 0x060⟩
/-- 10 R307, page INGRESS. -/
def ING_UE_CNT : Rg := ⟨pgINGRESS, 0x064⟩
/-- 10 R307, page INGRESS. -/
def FLOOD_INFO : Rg := ⟨pgINGRESS, 0x068⟩
/-- 10 R307, page INGRESS. -/
def TOUCH_HWM : Rg := ⟨pgINGRESS, 0x06C⟩
/-- 10 R308, page INGCFG. -/
def PORT (i : Nat) : Rg := ⟨pgINGCFG, 0x040 + 4 * i⟩
/-- 10 R308, page INGCFG. -/
def PORT_LIM (i : Nat) : Rg := ⟨pgINGCFG, 0x080 + 4 * i⟩
/-- 10 R308, page INGCFG. -/
def FT_ADDR : Rg := ⟨pgINGCFG, 0x0C0⟩
/-- 10 R308, page INGCFG. -/
def FT_DATA : Rg := ⟨pgINGCFG, 0x0C4⟩
/-- 10 R308, page INGCFG. -/
def LIM_ADDR : Rg := ⟨pgINGCFG, 0x0C8⟩
/-- 10 R308, page INGCFG. -/
def LIM_DATA : Rg := ⟨pgINGCFG, 0x0CC⟩
/-- 10 R309, page SENSIO. -/
def BUS_CFG (i : Nat) : Rg := ⟨pgSENSIO, 0x040 + 4 * i⟩
/-- 10 R309, page SENSIO. -/
def POLL_ADDR : Rg := ⟨pgSENSIO, 0x060⟩
/-- 10 R309, page SENSIO. -/
def POLL_DATA : Rg := ⟨pgSENSIO, 0x064⟩
/-- 10 R309, page SENSIO. -/
def ADC_SEQ : Rg := ⟨pgSENSIO, 0x068⟩
/-- 10 R309, page SENSIO. -/
def ADC_VAL (i : Nat) : Rg := ⟨pgSENSIO, 0x070 + 4 * i⟩
/-- 10 R309, page SENSIO. -/
def LCE_ADDR : Rg := ⟨pgSENSIO, 0x090⟩
/-- 10 R309, page SENSIO. -/
def LCE_DATA : Rg := ⟨pgSENSIO, 0x094⟩
/-- 10 R309, page SENSIO. -/
def POLL_ERR_CNT : Rg := ⟨pgSENSIO, 0x098⟩
/-- 10 R309, page SENSIO. -/
def POLL_SKIP_CNT : Rg := ⟨pgSENSIO, 0x09C⟩
/-- 10 R309, page SENSIO. -/
def LCE_EVT_CNT : Rg := ⟨pgSENSIO, 0x0A0⟩
/-- 11 R332, page TMR. -/
def TMR_CTRL : Rg := ⟨pgTMR, 0x040⟩
/-- 11 R332, page TMR. -/
def TMR_PRESC : Rg := ⟨pgTMR, 0x044⟩
/-- 11 R332, page TMR. -/
def TMR_COUNT : Rg := ⟨pgTMR, 0x048⟩
/-- 11 R332, page TMR. -/
def TMR_TOP : Rg := ⟨pgTMR, 0x04C⟩
/-- 11 R332, page TMR. -/
def TMR_CMP0 : Rg := ⟨pgTMR, 0x050⟩
/-- 11 R332, page TMR. -/
def TMR_CMP1 : Rg := ⟨pgTMR, 0x054⟩
/-- 11 R332, page TMR. -/
def TMR_CMP1_SH : Rg := ⟨pgTMR, 0x058⟩
/-- 11 R332, page TMR. -/
def TMR_STAT : Rg := ⟨pgTMR, 0x05C⟩
/-- 11 R332, page TMR. -/
def TMR_CAPR : Rg := ⟨pgTMR, 0x060⟩
/-- 11 R332, page TMR. -/
def TMR_CAPF : Rg := ⟨pgTMR, 0x064⟩
/-- 11 R332, page TMR. -/
def TMR_WIDTH : Rg := ⟨pgTMR, 0x068⟩
/-- 11 R332, page TMR. -/
def TMR_CAPSTAT : Rg := ⟨pgTMR, 0x06C⟩
/-- 11 R332, page TMR. -/
def TMR_MINW : Rg := ⟨pgTMR, 0x070⟩
/-- 11 R332, page TMR. -/
def TMR_RATIO : Rg := ⟨pgTMR, 0x074⟩
/-- 11 R332, page TMR. -/
def TMR_FRAC : Rg := ⟨pgTMR, 0x078⟩
/-- 11 R332, page TMR. -/
def SHORT_CNT : Rg := ⟨pgTMR, 0x07C⟩
/-- 11 R332, page TMR. -/
def MKUP_CNT : Rg := ⟨pgTMR, 0x080⟩
/-- 11 R333, page XBAR. -/
def PL_STAT : Rg := ⟨pgXBAR, 0x040⟩
/-- 11 R333, page XBAR. -/
def PL_OVR_CNT : Rg := ⟨pgXBAR, 0x044⟩
/-- 11 R333, page XBAR. -/
def INJ_EVT_CNT : Rg := ⟨pgXBAR, 0x048⟩
/-- 11 R333, page XBAR. -/
def INJ_SAT_CNT : Rg := ⟨pgXBAR, 0x04C⟩
/-- 11 R333, page XBAR. -/
def XB_SEL (i : Nat) : Rg := ⟨pgXBAR, 0x100 + 4 * i⟩
/-- 11 R334, page ACT. -/
def ACT_ADDR : Rg := ⟨pgACT, 0x040⟩
/-- 11 R334, page ACT. -/
def ACT_DATA : Rg := ⟨pgACT, 0x044⟩
/-- 11 R334, page ACT. -/
def ACT_STAT : Rg := ⟨pgACT, 0x048⟩
/-- 11 R334, page ACT. -/
def ACT_UPD_CNT : Rg := ⟨pgACT, 0x04C⟩
/-- 11 R334, page ACT. -/
def ACT_CLAMP_CNT : Rg := ⟨pgACT, 0x050⟩
/-- 11 R334, page ACT. -/
def ACT_TMO_CNT : Rg := ⟨pgACT, 0x054⟩
/-- 11 R334, page ACT. -/
def ACT_SAT_CNT : Rg := ⟨pgACT, 0x058⟩
/-- 11 R334, page ACT. -/
def ACT_LAST (i : Nat) : Rg := ⟨pgACT, 0x080 + 4 * i⟩
/-- 11 R335, page GPIO. -/
def GPIO_IN : Rg := ⟨pgGPIO, 0x040⟩
/-- 11 R335, page GPIO. -/
def GPIO_OUT : Rg := ⟨pgGPIO, 0x044⟩
/-- 11 R335, page GPIO. -/
def GPIO_SET : Rg := ⟨pgGPIO, 0x048⟩
/-- 11 R335, page GPIO. -/
def GPIO_CLR : Rg := ⟨pgGPIO, 0x04C⟩
/-- 11 R335, page GPIO. -/
def GPIO_OE : Rg := ⟨pgGPIO, 0x050⟩
/-- 11 R335, page GPIO. -/
def GPIO_EDGE_LO : Rg := ⟨pgGPIO, 0x054⟩
/-- 11 R335, page GPIO. -/
def GPIO_EDGE_HI : Rg := ⟨pgGPIO, 0x058⟩
/-- 11 R335, page GPIO. -/
def GPIO_FILT (i : Nat) : Rg := ⟨pgGPIO, 0x080 + 4 * i⟩
/-- 12 R347, page DMA. -/
def DMA_BUSY : Rg := ⟨pgDMA, 0x040⟩
/-- 12 R347, page DMA. -/
def DMA_START_OVR_CNT : Rg := ⟨pgDMA, 0x044⟩
/-- 12 R347, page DMA. -/
def DMA_ABORT_CNT : Rg := ⟨pgDMA, 0x048⟩
/-- 12 R347, page DMA. -/
def DMA_WRITE_IGN_CNT : Rg := ⟨pgDMA, 0x04C⟩
/-- 12 R347, page DMA. -/
def DMA_DESC_ERR_CNT : Rg := ⟨pgDMA, 0x050⟩
/-- 12 R347, page DMA. -/
def DMA_UE_CNT : Rg := ⟨pgDMA, 0x054⟩
/-- 12 R347, page DMA. -/
def DMA_GRAN_CNT : Rg := ⟨pgDMA, 0x058⟩
/-- 12 R347, page DMA. -/
def CH_CTRL (i : Nat) : Rg := ⟨pgDMA, 0x100 + 16 * i⟩
/-- 12 R347, page DMA. -/
def CH_CMD (i : Nat) : Rg := ⟨pgDMA, 0x104 + 16 * i⟩
/-- 12 R347, page DMA. -/
def CH_SRC_LIST (i : Nat) : Rg := ⟨pgDMA, 0x108 + 16 * i⟩
/-- 12 R347, page DMA. -/
def CH_DST_LIST (i : Nat) : Rg := ⟨pgDMA, 0x10C + 16 * i⟩
/-- 13 R379, page ETHCFG. -/
def PHY_CTRL : Rg := ⟨pgETHCFG, 0x040⟩
/-- 13 R379, page ETHCFG. -/
def MAC_ADDR_LO : Rg := ⟨pgETHCFG, 0x044⟩
/-- 13 R379, page ETHCFG. -/
def MAC_ADDR_HI : Rg := ⟨pgETHCFG, 0x048⟩
/-- 13 R379, page ETHCFG. -/
def MAC_CTRL : Rg := ⟨pgETHCFG, 0x04C⟩
/-- 13 R379, page ETHCFG. -/
def VLAN_CFG : Rg := ⟨pgETHCFG, 0x050⟩
/-- 13 R379, page ETHCFG. -/
def ETYPE : Rg := ⟨pgETHCFG, 0x054⟩
/-- 13 R379, page ETHCFG. -/
def QMAP : Rg := ⟨pgETHCFG, 0x058⟩
/-- 13 R379, page ETHCFG. -/
def RCP_CFG : Rg := ⟨pgETHCFG, 0x05C⟩
/-- 13 R379, page ETHCFG. -/
def REF_CFG : Rg := ⟨pgETHCFG, 0x060⟩
/-- 13 R379, page ETHCFG. -/
def REF_TAP_LO (i : Nat) : Rg := ⟨pgETHCFG, 0x064 + 8 * i⟩
/-- 13 R379, page ETHCFG. -/
def REF_TAP_HI (i : Nat) : Rg := ⟨pgETHCFG, 0x068 + 8 * i⟩
/-- 13 R379, page ETHCFG. -/
def REF_OUT_DST_LO : Rg := ⟨pgETHCFG, 0x084⟩
/-- 13 R379, page ETHCFG. -/
def REF_OUT_DST_HI : Rg := ⟨pgETHCFG, 0x088⟩
/-- 13 R379, page ETHCFG. -/
def GCL_CTRL : Rg := ⟨pgETHCFG, 0x08C⟩
/-- 13 R379, page ETHCFG. -/
def GCL_CYCLE : Rg := ⟨pgETHCFG, 0x090⟩
/-- 13 R379, page ETHCFG. -/
def GCL_BASE_LO : Rg := ⟨pgETHCFG, 0x094⟩
/-- 13 R379, page ETHCFG. -/
def GCL_BASE_HI : Rg := ⟨pgETHCFG, 0x098⟩
/-- 13 R379, page ETHCFG. -/
def GCL_LEN : Rg := ⟨pgETHCFG, 0x09C⟩
/-- 13 R379, page ETHCFG. -/
def GCL_ADDR : Rg := ⟨pgETHCFG, 0x0A0⟩
/-- 13 R379, page ETHCFG. -/
def GCL_DATA : Rg := ⟨pgETHCFG, 0x0A4⟩
/-- 13 R380, page ETH. -/
def ETH_STAT : Rg := ⟨pgETH, 0x040⟩
/-- 13 R380, page ETH. -/
def RX_FRAME_CNT : Rg := ⟨pgETH, 0x044⟩
/-- 13 R380, page ETH. -/
def TX_FRAME_CNT : Rg := ⟨pgETH, 0x048⟩
/-- 13 R380, page ETH. -/
def RX_FCS_ERR_CNT : Rg := ⟨pgETH, 0x04C⟩
/-- 13 R380, page ETH. -/
def RX_LEN_ERR_CNT : Rg := ⟨pgETH, 0x050⟩
/-- 13 R380, page ETH. -/
def RX_FILTER_DROP_CNT : Rg := ⟨pgETH, 0x054⟩
/-- 13 R380, page ETH. -/
def RX_OVF_DROP_CNT : Rg := ⟨pgETH, 0x058⟩
/-- 13 R380, page ETH. -/
def TX_LINKDOWN_DROP_CNT : Rg := ⟨pgETH, 0x05C⟩
/-- 13 R380, page ETH. -/
def TX_OVERSIZE_DROP_CNT : Rg := ⟨pgETH, 0x060⟩
/-- 13 R380, page ETH. -/
def LINK_DOWN_CNT : Rg := ⟨pgETH, 0x064⟩
/-- 13 R380, page ETH. -/
def FW_RX_DROP_CNT : Rg := ⟨pgETH, 0x068⟩
/-- 13 R380, page ETH. -/
def RCP_WIN_DROP_CNT : Rg := ⟨pgETH, 0x06C⟩
/-- 13 R380, page ETH. -/
def RCP_OOO_DROP_CNT : Rg := ⟨pgETH, 0x070⟩
/-- 13 R380, page ETH. -/
def RCP_DUP_CNT : Rg := ⟨pgETH, 0x074⟩
/-- 13 R380, page ETH. -/
def RCP_STALE_CNT : Rg := ⟨pgETH, 0x078⟩
/-- 13 R380, page ETH. -/
def RCP_RETX_CNT : Rg := ⟨pgETH, 0x07C⟩
/-- 13 R380, page ETH. -/
def RCP_SESS_FAIL_CNT : Rg := ⟨pgETH, 0x080⟩
/-- 13 R380, page ETH. -/
def REF_IN_EVT_CNT : Rg := ⟨pgETH, 0x084⟩
/-- 13 R380, page ETH. -/
def REF_IN_DROP_CNT : Rg := ⟨pgETH, 0x088⟩
/-- 13 R380, page ETH. -/
def REF_IN_SEQ_GAP_CNT : Rg := ⟨pgETH, 0x08C⟩
/-- 13 R380, page ETH. -/
def REF_TS_FUTURE_CNT : Rg := ⟨pgETH, 0x090⟩
/-- 13 R380, page ETH. -/
def REF_OUT_EVT_CNT : Rg := ⟨pgETH, 0x094⟩
/-- 13 R380, page ETH. -/
def REF_OUT_DROP_CNT : Rg := ⟨pgETH, 0x098⟩
/-- 13 R380, page ETH. -/
def MS_RX_NOTVALID_CNT : Rg := ⟨pgETH, 0x09C⟩
/-- 13 R380, page ETH. -/
def MS_RX_UNPROT_DROP_CNT : Rg := ⟨pgETH, 0x0A0⟩
/-- 13 R380, page ETH. -/
def MS_RX_LATE_DROP_CNT : Rg := ⟨pgETH, 0x0A4⟩
/-- 13 R380, page ETH. -/
def MS_RX_NOSA_CNT : Rg := ⟨pgETH, 0x0A8⟩
/-- 13 R380, page ETH. -/
def MS_TX_PN_DROP_CNT : Rg := ⟨pgETH, 0x0AC⟩
/-- 13 R381, page MACSEC. -/
def MS_CTRL : Rg := ⟨pgMACSEC, 0x040⟩
/-- 13 R381, page MACSEC. -/
def MS_REPLAY_WIN : Rg := ⟨pgMACSEC, 0x044⟩
/-- 13 R381, page MACSEC. -/
def MS_TX_AN : Rg := ⟨pgMACSEC, 0x048⟩
/-- 13 R381, page MACSEC. -/
def MS_PN_THRESH_LO : Rg := ⟨pgMACSEC, 0x04C⟩
/-- 13 R381, page MACSEC. -/
def MS_PN_THRESH_HI : Rg := ⟨pgMACSEC, 0x050⟩
/-- 13 R381, page MACSEC. -/
def MS_KEY_STAT : Rg := ⟨pgMACSEC, 0x054⟩
/-- 13 R381, page MACSEC. -/
def MS_SA_SEL : Rg := ⟨pgMACSEC, 0x060⟩
/-- 13 R381, page MACSEC. -/
def MS_SA_DATA : Rg := ⟨pgMACSEC, 0x064⟩
/-- 13 R381, page MACSEC. -/
def MS_RXSC_SCI_LO (i : Nat) : Rg := ⟨pgMACSEC, 0x080 + 8 * i⟩
/-- 13 R381, page MACSEC. -/
def MS_RXSC_SCI_HI (i : Nat) : Rg := ⟨pgMACSEC, 0x084 + 8 * i⟩
/-- 13 R382, page PTPCLK. -/
def PTP_NS_LO : Rg := ⟨pgPTPCLK, 0x040⟩
/-- 13 R382, page PTPCLK. -/
def PTP_NS_HI : Rg := ⟨pgPTPCLK, 0x044⟩
/-- 13 R382, page PTPCLK. -/
def DEV_TIME_LO : Rg := ⟨pgPTPCLK, 0x048⟩
/-- 13 R382, page PTPCLK. -/
def DEV_TIME_HI : Rg := ⟨pgPTPCLK, 0x04C⟩
/-- 13 R382, page PTPCLK. -/
def PTP_INC : Rg := ⟨pgPTPCLK, 0x050⟩
/-- 13 R382, page PTPCLK. -/
def PTP_ADJ : Rg := ⟨pgPTPCLK, 0x054⟩
/-- 13 R382, page PTPCLK. -/
def PTP_STEP_LO : Rg := ⟨pgPTPCLK, 0x058⟩
/-- 13 R382, page PTPCLK. -/
def PTP_STEP_HI : Rg := ⟨pgPTPCLK, 0x05C⟩
/-- 14 R403, page DDR. -/
def DRAIN : Rg := ⟨pgDDR, 0x040⟩
/-- 14 R403, page DDR. -/
def DDR_STAT : Rg := ⟨pgDDR, 0x044⟩
/-- 14 R403, page DDR. -/
def DDR_CE_CNT : Rg := ⟨pgDDR, 0x048⟩
/-- 14 R403, page DDR. -/
def DDR_UE_CNT : Rg := ⟨pgDDR, 0x04C⟩
/-- 14 R403, page DDR. -/
def DDR_APAR_CNT : Rg := ⟨pgDDR, 0x050⟩
/-- 14 R403, page DDR. -/
def DDR_APAR_CE_CNT : Rg := ⟨pgDDR, 0x054⟩
/-- 14 R403, page DDR. -/
def DDR_CE_LOG : Rg := ⟨pgDDR, 0x058⟩
/-- 14 R403, page DDR. -/
def DDR_UE_LOG : Rg := ⟨pgDDR, 0x05C⟩
/-- 14 R403, page DDR. -/
def DDR_RESET_DROP_CNT : Rg := ⟨pgDDR, 0x060⟩
/-- 14 R403, page DDR. -/
def DDR_ADDR_ERR_CNT : Rg := ⟨pgDDR, 0x064⟩
/-- 14 R403, page DDR. -/
def DDR_SCRUB_PASS_CNT : Rg := ⟨pgDDR, 0x068⟩
/-- 14 R404, page DDRCFG. -/
def DDR_CFG : Rg := ⟨pgDDRCFG, 0x040⟩
/-- 14 R404, page DDRCFG. -/
def DDR_SCRUB : Rg := ⟨pgDDRCFG, 0x044⟩
/-- 14 R404, page DDRCFG. -/
def DDR_TRAIN : Rg := ⟨pgDDRCFG, 0x048⟩
/-- 14 R405, page SC. -/
def SC_CTRL : Rg := ⟨pgSC, 0x040⟩
/-- 14 R405, page SC. -/
def SC_STAT : Rg := ⟨pgSC, 0x044⟩
/-- 14 R405, page SC. -/
def SC_PEER : Rg := ⟨pgSC, 0x048⟩
/-- 14 R405, page SC. -/
def SC_FEC_CE_CNT : Rg := ⟨pgSC, 0x04C⟩
/-- 14 R405, page SC. -/
def SC_FEC_UE_CNT : Rg := ⟨pgSC, 0x050⟩
/-- 14 R405, page SC. -/
def SC_SCH_LOSS_CNT : Rg := ⟨pgSC, 0x054⟩
/-- 14 R405, page SC. -/
def SC_DRIP_LOSS_CNT : Rg := ⟨pgSC, 0x058⟩
/-- 14 R405, page SC. -/
def SC_UNAVAIL_DROP_CNT : Rg := ⟨pgSC, 0x05C⟩
/-- 14 R405, page SC. -/
def SC_LINK_DOWN_CNT : Rg := ⟨pgSC, 0x060⟩
/-- 14 R405, page SC. -/
def SC_RETRAIN_CNT : Rg := ⟨pgSC, 0x064⟩
/-- 14 R406, page SD. -/
def SD_STAT : Rg := ⟨pgSD, 0x040⟩
/-- 14 R406, page SD. -/
def SD_CAL_CNT : Rg := ⟨pgSD, 0x044⟩
/-- 15 R431, page PWRC. -/
def CL_PWR_REQ : Rg := ⟨pgPWRC, 0x040⟩
/-- 15 R431, page PWRC. -/
def CL_PWR_STAT : Rg := ⟨pgPWRC, 0x044⟩
/-- 15 R431, page PWRC. -/
def CL_VTRIM : Rg := ⟨pgPWRC, 0x048⟩
/-- 15 R431, page PWRC. -/
def CL_REG_STAT : Rg := ⟨pgPWRC, 0x04C⟩
/-- 15 R431, page PWRC. -/
def CL_TEMP : Rg := ⟨pgPWRC, 0x050⟩
/-- 15 R431, page PWRC. -/
def REG_OC_CNT : Rg := ⟨pgPWRC, 0x054⟩
/-- 15 R431, page PWRC. -/
def STEEP_CNT : Rg := ⟨pgPWRC, 0x058⟩
/-- 15 R431, page PWRC. -/
def PEND_REPL_CNT : Rg := ⟨pgPWRC, 0x05C⟩
/-- 15 R432, page PWR. -/
def PKG_PWR_REQ : Rg := ⟨pgPWR, 0x040⟩
/-- 15 R432, page PWR. -/
def PKG_PWR_STAT : Rg := ⟨pgPWR, 0x044⟩
/-- 15 R432, page PWR. -/
def WAKE_EN : Rg := ⟨pgPWR, 0x048⟩
/-- 15 R432, page PWR. -/
def WAKE_EDGE : Rg := ⟨pgPWR, 0x04C⟩
/-- 15 R432, page PWR. -/
def AO_WAKE_TMR : Rg := ⟨pgPWR, 0x050⟩
/-- 15 R432, page PWR. -/
def PWR_LOG : Rg := ⟨pgPWR, 0x054⟩
/-- 15 R432, page PWR. -/
def PWR_REQ_IGN_CNT : Rg := ⟨pgPWR, 0x058⟩
/-- 15 R432, page PWR. -/
def PWR_ACC_DROP_CNT : Rg := ⟨pgPWR, 0x05C⟩
/-- 15 R432, page PWR. -/
def BROWNOUT_CNT : Rg := ⟨pgPWR, 0x060⟩
/-- 15 R432, page PWR. -/
def THERM_CFG : Rg := ⟨pgPWR, 0x064⟩
/-- 15 R432, page PWR. -/
def AOM_ADDR : Rg := ⟨pgPWR, 0x068⟩
/-- 15 R432, page PWR. -/
def AOM_DATA : Rg := ⟨pgPWR, 0x06C⟩
/-- 15 R432, page PWR. -/
def STEEP_TIME : Rg := ⟨pgPWR, 0x070⟩
/-- 15 R432, page PWR. -/
def DEVT_FRAC : Rg := ⟨pgPWR, 0x074⟩
/-- 15 R432, page PWR. -/
def PKG_STEEP_CFG : Rg := ⟨pgPWR, 0x078⟩
/-- 15 R432, page PWR. -/
def PWR_RAIL_WAIT_CNT : Rg := ⟨pgPWR, 0x07C⟩
/-- 15 R433, page CLK. -/
def PLL_STAT : Rg := ⟨pgCLK, 0x040⟩
/-- 15 R433, page CLK. -/
def REF_STAT : Rg := ⟨pgCLK, 0x044⟩
/-- 15 R433, page CLK. -/
def PLL_UNLOCK_CNT : Rg := ⟨pgCLK, 0x048⟩
/-- 15 R434, page HOLDUP. -/
def HU_CAP : Rg := ⟨pgHOLDUP, 0x040⟩
/-- 15 R434, page HOLDUP. -/
def HU_DIV : Rg := ⟨pgHOLDUP, 0x044⟩
/-- 15 R434, page HOLDUP. -/
def HU_VMIN : Rg := ⟨pgHOLDUP, 0x048⟩
/-- 15 R434, page HOLDUP. -/
def HU_PWR : Rg := ⟨pgHOLDUP, 0x04C⟩
/-- 15 R434, page HOLDUP. -/
def HU_MARGIN : Rg := ⟨pgHOLDUP, 0x050⟩
/-- 15 R434, page HOLDUP. -/
def HU_T_ERASE : Rg := ⟨pgHOLDUP, 0x054⟩
/-- 15 R434, page HOLDUP. -/
def HU_T_PROG : Rg := ⟨pgHOLDUP, 0x058⟩
/-- 15 R434, page HOLDUP. -/
def HU_LAST : Rg := ⟨pgHOLDUP, 0x05C⟩
/-- 15 R434, page HOLDUP. -/
def HU_DEFER_CNT : Rg := ⟨pgHOLDUP, 0x060⟩
/-- 15 R434, page HOLDUP. -/
def HU_ABANDON_CNT : Rg := ⟨pgHOLDUP, 0x064⟩
/-- 15 R434, page HOLDUP. -/
def HU_MAXWAIT : Rg := ⟨pgHOLDUP, 0x068⟩
/-- 16 R451, page RST. -/
def RST_CMD : Rg := ⟨pgRST, 0x040⟩
/-- 16 R451, page RST. -/
def RST_STAT : Rg := ⟨pgRST, 0x044⟩
/-- 16 R451, page RST. -/
def RST_CAUSE : Rg := ⟨pgRST, 0x048⟩
/-- 16 R451, page RST. -/
def CL_RST_LO : Rg := ⟨pgRST, 0x04C⟩
/-- 16 R451, page RST. -/
def CL_RST_HI : Rg := ⟨pgRST, 0x050⟩
/-- 16 R451, page RST. -/
def COMPUTE_RST_CNT : Rg := ⟨pgRST, 0x054⟩
/-- 16 R451, page RST. -/
def RST_IGN_CNT : Rg := ⟨pgRST, 0x058⟩
/-- 16 R451, page RST. -/
def RST_LAST_US : Rg := ⟨pgRST, 0x05C⟩
/-- 16 R452, page RSTC. -/
def CORE_RST_HOLD : Rg := ⟨pgRSTC, 0x040⟩
/-- 16 R452, page RSTC. -/
def CORE_RST_PULSE : Rg := ⟨pgRSTC, 0x044⟩
/-- 16 R452, page RSTC. -/
def RSTC_STAT : Rg := ⟨pgRSTC, 0x048⟩
/-- 16 R452, page RSTC. -/
def BIST_FAIL_LO : Rg := ⟨pgRSTC, 0x04C⟩
/-- 16 R452, page RSTC. -/
def BIST_FAIL_HI : Rg := ⟨pgRSTC, 0x050⟩
/-- 16 R453, page BOOT. -/
def BOOT_STAT : Rg := ⟨pgBOOT, 0x040⟩
/-- 16 R453, page BOOT. -/
def FW_VER : Rg := ⟨pgBOOT, 0x044⟩
/-- 16 R453, page BOOT. -/
def BOOT_TIME : Rg := ⟨pgBOOT, 0x048⟩
/-- 16 R453, page BOOT. -/
def BOOT_NET_CNT : Rg := ⟨pgBOOT, 0x04C⟩
/-- 16 R453, page BOOT. -/
def IMG_STAT : Rg := ⟨pgBOOT, 0x050⟩
/-- 16 R453, page BOOT. -/
def IMG_LOAD_CNT : Rg := ⟨pgBOOT, 0x054⟩
/-- 16 R453, page BOOT. -/
def LIC_STAT : Rg := ⟨pgBOOT, 0x058⟩
/-- 16 R453, page BOOT. -/
def FW_DIGEST (i : Nat) : Rg := ⟨pgBOOT, 0x080 + 4 * i⟩
/-- 16 R454, page FUSE. -/
def DEV_ID (i : Nat) : Rg := ⟨pgFUSE, 0x040 + 4 * i⟩
/-- 16 R454, page FUSE. -/
def FUSE_FLAGS : Rg := ⟨pgFUSE, 0x050⟩
/-- 16 R454, page FUSE. -/
def LIC_AR_CNT : Rg := ⟨pgFUSE, 0x054⟩
/-- 16 R454, page FUSE. -/
def FUSE_PROG : Rg := ⟨pgFUSE, 0x058⟩
/-- 16 R454, page FUSE. -/
def FUSE_STAT : Rg := ⟨pgFUSE, 0x05C⟩
/-- 16 R454, page FUSE. -/
def ROOT_KEY_HASH (i : Nat) : Rg := ⟨pgFUSE, 0x080 + 4 * i⟩
/-- 16 R455, page IMGLD. -/
def IMG_PTR : Rg := ⟨pgIMGLD, 0x040⟩
/-- 16 R455, page IMGLD. -/
def IMG_DATA : Rg := ⟨pgIMGLD, 0x044⟩
/-- 16 R455, page IMGLD. -/
def IMG_BYTES : Rg := ⟨pgIMGLD, 0x048⟩
/-- 16 R455, page IMGLD. -/
def IMG_DROP_CNT : Rg := ⟨pgIMGLD, 0x04C⟩
/-- 17 R476, page FLT. -/
def FLT_STAT : Rg := ⟨pgFLT, 0x040⟩
/-- 17 R476, page FLT. -/
def FLT_CTRL : Rg := ⟨pgFLT, 0x044⟩
/-- 17 R476, page FLT. -/
def FLT_EVT : Rg := ⟨pgFLT, 0x048⟩
/-- 17 R476, page FLT. -/
def FAULT_FIRST : Rg := ⟨pgFLT, 0x04C⟩
/-- 17 R476, page FLT. -/
def FAULT_FIRST_STEP : Rg := ⟨pgFLT, 0x050⟩
/-- 17 R476, page FLT. -/
def FAULT_FIRST_UNIT : Rg := ⟨pgFLT, 0x054⟩
/-- 17 R476, page FLT. -/
def FAULT_PREV : Rg := ⟨pgFLT, 0x058⟩
/-- 17 R476, page FLT. -/
def FAULT_PREV_STEP : Rg := ⟨pgFLT, 0x05C⟩
/-- 17 R476, page FLT. -/
def FAULT_PREV_UNIT : Rg := ⟨pgFLT, 0x060⟩
/-- 17 R476, page FLT. -/
def RECOVERY_CNT : Rg := ⟨pgFLT, 0x064⟩
/-- 17 R476, page FLT. -/
def SEV3_CNT : Rg := ⟨pgFLT, 0x068⟩
/-- 17 R476, page FLT. -/
def OUTAGE_US_CNT : Rg := ⟨pgFLT, 0x06C⟩
/-- 17 R476, page FLT. -/
def CONTAIN_CNT : Rg := ⟨pgFLT, 0x070⟩
/-- 17 R476, page FLT. -/
def CONTAIN_NA_CNT : Rg := ⟨pgFLT, 0x074⟩
/-- 17 R476, page FLT. -/
def FLT_OVF_CNT : Rg := ⟨pgFLT, 0x078⟩
/-- 17 R476, page FLT. -/
def FLT_LOG_POP : Rg := ⟨pgFLT, 0x07C⟩
/-- 17 R476, page FLT. -/
def FLT_LOG_STEP : Rg := ⟨pgFLT, 0x080⟩
/-- 17 R476, page FLT. -/
def FLT_LOG_UNIT : Rg := ⟨pgFLT, 0x084⟩
/-- 17 R476, page FLT. -/
def FLT_LOG_LVL : Rg := ⟨pgFLT, 0x088⟩
/-- 17 R476, page FLT. -/
def FLT_LOG_DROP_CNT : Rg := ⟨pgFLT, 0x08C⟩
/-- 17 R476, page FLT. -/
def FLT_PEND (i : Nat) : Rg := ⟨pgFLT, 0x100 + 4 * i⟩
/-- 17 R477, page FLTCFG. -/
def FLT_QUIET : Rg := ⟨pgFLTCFG, 0x040⟩
/-- 17 R477, page FLTCFG. -/
def FLT_SEV3_MAX : Rg := ⟨pgFLTCFG, 0x044⟩
/-- 17 R477, page FLTCFG. -/
def FLT_RAISE : Rg := ⟨pgFLTCFG, 0x048⟩
/-- 17 R477, page FLTCFG. -/
def FLT_RAISE_UNIT : Rg := ⟨pgFLTCFG, 0x04C⟩
/-- 17 R477, page FLTCFG. -/
def FLT_SEV (i : Nat) : Rg := ⟨pgFLTCFG, 0x100 + 4 * i⟩
/-- 17 R478, page IC. -/
def IC_CLAIM (i : Nat) : Rg := ⟨pgIC, 0x040 + 4 * i⟩
/-- 17 R478, page IC. -/
def IC_COMPLETE (i : Nat) : Rg := ⟨pgIC, 0x050 + 4 * i⟩
/-- 17 R478, page IC. -/
def IC_SWI_SET : Rg := ⟨pgIC, 0x060⟩
/-- 17 R478, page IC. -/
def IC_SWI_CLR : Rg := ⟨pgIC, 0x064⟩
/-- 17 R478, page IC. -/
def IC_SPUR_CNT : Rg := ⟨pgIC, 0x068⟩
/-- 17 R478, page IC. -/
def IC_CMPL_IGN_CNT : Rg := ⟨pgIC, 0x06C⟩
/-- 17 R478, page IC. -/
def IC_STORM_CNT : Rg := ⟨pgIC, 0x070⟩
/-- 17 R478, page IC. -/
def IC_LEVEL (i : Nat) : Rg := ⟨pgIC, 0x080 + 4 * i⟩
/-- 17 R478, page IC. -/
def IC_PEND (i : Nat) : Rg := ⟨pgIC, 0x0A0 + 4 * i⟩
/-- 17 R478, page IC. -/
def IC_ACTIVE (i : Nat) : Rg := ⟨pgIC, 0x0C0 + 4 * i⟩
/-- 17 R478, page IC. -/
def IC_MASK (i : Nat) : Rg := ⟨pgIC, 0x0E0 + 4 * i⟩
/-- 17 R478, page IC. -/
def IC_STORM_STAT (i : Nat) : Rg := ⟨pgIC, 0x100 + 4 * i⟩
/-- 17 R479, page ICCFG. -/
def IC_STORM_CFG : Rg := ⟨pgICCFG, 0x040⟩
/-- 17 R479, page ICCFG. -/
def IC_THRESH : Rg := ⟨pgICCFG, 0x044⟩
/-- 17 R479, page ICCFG. -/
def IC_PRIO (i : Nat) : Rg := ⟨pgICCFG, 0x100 + 4 * i⟩
/-- 17 R479, page ICCFG. -/
def IC_TGT (i : Nat) : Rg := ⟨pgICCFG, 0x180 + 4 * i⟩
/-- 17 R479, page ICCFG. -/
def IC_STORM_EN (i : Nat) : Rg := ⟨pgICCFG, 0x200 + 4 * i⟩
/-- 18 R495, page CTX. -/
def CTX_NEXT : Rg := ⟨pgCTX, 0x040⟩
/-- 18 R495, page CTX. -/
def CTX_STAT : Rg := ⟨pgCTX, 0x044⟩
/-- 18 R495, page CTX. -/
def CTX_STATE : Rg := ⟨pgCTX, 0x048⟩
/-- 18 R495, page CTX. -/
def CTX_CONF : Rg := ⟨pgCTX, 0x04C⟩
/-- 18 R495, page CTX. -/
def CTX_SWITCH_CNT : Rg := ⟨pgCTX, 0x050⟩
/-- 18 R495, page CTX. -/
def CTX_SWITCH_US : Rg := ⟨pgCTX, 0x054⟩
/-- 18 R495, page CTX. -/
def CTX_NEXT_IGN_CNT : Rg := ⟨pgCTX, 0x058⟩
/-- 18 R495, page CTX. -/
def CTX_SAVE_INVALID : Rg := ⟨pgCTX, 0x05C⟩
/-- 18 R495, page CTX. -/
def CTX_SCRUB_CNT : Rg := ⟨pgCTX, 0x060⟩
/-- 18 R495, page CTX. -/
def FLOCK_DENY_CNT : Rg := ⟨pgCTX, 0x064⟩
/-- 18 R495, page CTX. -/
def CTX_PART_LO (i : Nat) : Rg := ⟨pgCTX, 0x080 + 8 * i⟩
/-- 18 R495, page CTX. -/
def CTX_PART_HI (i : Nat) : Rg := ⟨pgCTX, 0x084 + 8 * i⟩
/-- 18 R496, page ATT. -/
def ATT_CMD : Rg := ⟨pgATT, 0x040⟩
/-- 18 R496, page ATT. -/
def ATT_STAT : Rg := ⟨pgATT, 0x044⟩
/-- 18 R496, page ATT. -/
def ATT_NONCE (i : Nat) : Rg := ⟨pgATT, 0x048 + 4 * i⟩
/-- 18 R496, page ATT. -/
def ATT_ADDR : Rg := ⟨pgATT, 0x068⟩
/-- 18 R496, page ATT. -/
def ATT_DATA : Rg := ⟨pgATT, 0x06C⟩
/-- 18 R496, page ATT. -/
def ATT_REQ_IGN_CNT : Rg := ⟨pgATT, 0x070⟩
/-- 18 R496, page ATT. -/
def ATT_CNT : Rg := ⟨pgATT, 0x074⟩
/-- 19 R509, page MAP. -/
def MGMT_NOPAGE_CNT : Rg := ⟨pgMAP, 0x040⟩
/-- 19 R509, page MAP. -/
def MGMT_UNAVAIL_CNT : Rg := ⟨pgMAP, 0x044⟩
/-- 19 R509, page MAP. -/
def MGMT_DENY_CNT : Rg := ⟨pgMAP, 0x048⟩
/-- 19 R509, page MAP. -/
def MGMT_LOCK_IGN_CNT : Rg := ⟨pgMAP, 0x04C⟩
/-- 19 R509, page MAP. -/
def MGMT_TMO_CNT : Rg := ⟨pgMAP, 0x050⟩
/-- 19 R509, page MAP. -/
def MGMT_ERR_ADDR : Rg := ⟨pgMAP, 0x054⟩
/-- 19 R509, page MAP. -/
def MGMT_ERR_INFO : Rg := ⟨pgMAP, 0x058⟩
/-- 20 R525, page PAD. -/
def PAD_EN : Rg := ⟨pgPAD, 0x040⟩
/-- 20 R525, page PAD. -/
def PAD_DRV : Rg := ⟨pgPAD, 0x044⟩
/-- 20 R525, page PAD. -/
def PAD_STAT : Rg := ⟨pgPAD, 0x048⟩

/-- The registers of page TOPO (01 R50). -/
def rowsTOPO : List RegRow :=
[⟨0x040, 1, 4, 0, 0, 0x13333, 0, 0, 0⟩,
   ⟨0x044, 1, 4, 0, 0, 0, 0, 0, 0⟩,
   ⟨0x048, 1, 4, 0xF, 0, 0, 0, 0, 0⟩,
   ⟨0x04C, 1, 4, 0, 0, 0, 0, 0, 0⟩,
   ⟨0x050, 1, 4, 0, 0, 0, 0, 0, 0⟩,
   ⟨0x054, 1, 4, 0, 0, 0, 0, 0, 0⟩,
   ⟨0x058, 1, 4, 0, 0, 0, 0, 0, 0⟩,
   ⟨0x05C, 1, 4, 0x8800800, 0, 0, 0, 0, 0⟩]

/-- The registers of page UNIT (01 R51). -/
def rowsUNIT : List RegRow :=
[⟨0x040, 1, 4, 0, 0x1, 0, 0, 0, 0⟩,
   ⟨0x044, 1, 4, 0x2200, 0, 0, 0, 0, 0⟩,
   ⟨0x048, 1, 4, 0, 0, 0x7FFF1F, 0, 0, 0⟩,
   ⟨0x04C, 1, 4, 0, 0, 0x1FFF, 0, 0, 0⟩,
   ⟨0x050, 1, 4, 0, 0, 0, 0, 0, 0xFFFFFFFF⟩,
   ⟨0x054, 1, 4, 0, 0, 0, 0, 0, 0xFFFFFFFF⟩,
   ⟨0x058, 1, 4, 0, 0, 0, 0, 0, 0xFFFFFFFF⟩,
   ⟨0x05C, 1, 4, 0, 0, 0, 0, 0, 0xFFFFFFFF⟩]

/-- The registers of page SLICE (01 R52). -/
def rowsSLICE : List RegRow :=
[⟨0x040, 1, 4, 0, 0, 0xF, 0, 0, 0⟩,
   ⟨0x044, 1, 4, 0, 0, 0x7FFF1F, 0, 0, 0⟩,
   ⟨0x048, 1, 4, 0, 0, 0xFFFF, 0, 0, 0⟩,
   ⟨0x04C, 1, 4, 0, 0, 0, 0, 0, 0⟩,
   ⟨0x050, 1, 4, 0, 0, 0, 0, 0, 0xFFFFFFFF⟩,
   ⟨0x054, 1, 4, 0, 0, 0, 0, 0, 0xFFFFFFFF⟩,
   ⟨0x058, 1, 4, 0, 0, 0, 0, 0, 0xFFFF⟩]

/-- The registers of page STEP (02 R81). -/
def rowsSTEP : List RegRow :=
[⟨0x040, 1, 4, 0, 0x3, 0, 0, 0, 0⟩,
   ⟨0x044, 1, 4, 0, 0, 0, 0, 0, 0⟩,
   ⟨0x048, 1, 4, 0, 0, 0, 0, 0, 0⟩,
   ⟨0x04C, 1, 4, 0, 0, 0xFFFF, 0, 0, 0⟩,
   ⟨0x050, 1, 4, 0, 0, 0, 0, 0, 0xFFFFFFFF⟩,
   ⟨0x054, 1, 4, 0, 0, 0, 0, 0, 0xFFFFFFFF⟩,
   ⟨0x058, 1, 4, 0, 0, 0, 0, 0, 0xFFFFFFFF⟩,
   ⟨0x05C, 1, 4, 0, 0, 0, 0, 0, 0xFFFFFFFF⟩,
   ⟨0x060, 1, 4, 0, 0, 0, 0, 0, 0xFFFFFFFF⟩,
   ⟨0x064, 1, 4, 0, 0, 0, 0, 0, 0xFFFFFFFF⟩,
   ⟨0x068, 1, 4, 0, 0, 0, 0, 0, 0xFFFFFFFF⟩,
   ⟨0x06C, 1, 4, 0, 0, 0, 0, 0, 0xFFFFFF⟩,
   ⟨0x070, 1, 4, 0xA0, 0, 0, 0, 0, 0⟩,
   ⟨0x080, 16, 4, 0x3E8, 0, 0x3FFF, 0, 0, 0⟩,
   ⟨0x0C0, 16, 4, 0xC80000, 0, 0xFFFF0003, 0, 0, 0⟩,
   ⟨0x100, 16, 4, 0x1F4, 0, 0x3FFF, 0, 0, 0⟩]

/-- The registers of page STEPC (02 R82). -/
def rowsSTEPC : List RegRow :=
[⟨0x040, 1, 4, 0, 0, 0, 0, 0, 0⟩,
   ⟨0x044, 1, 4, 0, 0, 0, 0, 0, 0⟩,
   ⟨0x048, 1, 4, 0, 0, 0, 0, 0, 0xFFFFFFFF⟩,
   ⟨0x04C, 1, 4, 0, 0, 0, 0, 0, 0xFFFFFFFF⟩,
   ⟨0x050, 1, 4, 0, 0, 0, 0, 0, 0xFFFFFFFF⟩,
   ⟨0x054, 1, 4, 0, 0, 0, 0, 0, 0xFFFFFFFF⟩,
   ⟨0x058, 1, 4, 0, 0, 0, 0, 0, 0xFFFFFFFF⟩,
   ⟨0x05C, 1, 4, 0, 0, 0, 0, 0, 0xFFFFFFFF⟩,
   ⟨0x060, 1, 4, 0, 0, 0, 0, 0, 0xFFFFFFFF⟩]

/-- The registers of page CORE (03 R112). -/
def rowsCORE : List RegRow :=
[⟨0x040, 1, 4, 0x1, 0x1, 0, 0, 0, 0⟩,
   ⟨0x044, 1, 4, 0, 0, 0, 0, 0, 0⟩,
   ⟨0x048, 1, 4, 0, 0, 0, 0, 0, 0⟩,
   ⟨0x04C, 1, 4, 0, 0, 0, 0, 0, 0xFFFFFFFF⟩,
   ⟨0x050, 1, 4, 0, 0, 0, 0, 0, 0xFFFFFFFF⟩,
   ⟨0x054, 1, 4, 0, 0, 0, 0, 0, 0xFFFFFFFF⟩,
   ⟨0x058, 1, 4, 0, 0, 0, 0, 0, 0xFFFFFFFF⟩,
   ⟨0x05C, 1, 4, 0, 0, 0, 0, 0, 0xFFFFFFFF⟩,
   ⟨0x060, 1, 4, 0, 0, 0, 0, 0, 0xFFFFFFFF⟩,
   ⟨0x064, 1, 4, 0, 0, 0, 0, 0, 0xFFFFFFFF⟩,
   ⟨0x068, 1, 4, 0, 0, 0, 0, 0, 0xFFFFFFFF⟩,
   ⟨0x06C, 1, 4, 0, 0, 0, 0, 0, 0x1FF⟩]

/-- The registers of page CORECFG (03 R113). -/
def rowsCORECFG : List RegRow :=
[⟨0x040, 1, 4, 0, 0, 0x3FFF0001, 0, 0, 0⟩,
   ⟨0x044, 1, 4, 0x40, 0, 0xFFFF, 0, 0, 0⟩,
   ⟨0x048, 1, 4, 0, 0xFF, 0, 0, 0, 0⟩,
   ⟨0x04C, 1, 4, 0, 0, 0, 0, 0, 0⟩,
   ⟨0x050, 8, 4, 0, 0xFFFFFFFF, 0, 0, 0, 0⟩,
   ⟨0x070, 1, 4, 0, 0, 0, 0, 0, 0⟩]

/-- The registers of page REMAP (03 R115). -/
def rowsREMAP : List RegRow :=
[⟨0x040, 32, 4, 0, 0x1F033F, 0, 0, 0, 0⟩,
   ⟨0x0C0, 1, 4, 0, 0, 0, 0, 0xFFFFFFFF, 0⟩,
   ⟨0x0C4, 1, 4, 0, 0, 0, 0, 0x3, 0⟩,
   ⟨0x0C8, 1, 4, 0, 0, 0x7FFF1F, 0, 0, 0⟩,
   ⟨0x0CC, 1, 4, 0, 0, 0x7, 0, 0, 0⟩,
   ⟨0x0D0, 1, 4, 0x2200, 0, 0, 0, 0, 0⟩,
   ⟨0x0D4, 1, 4, 0, 0, 0, 0, 0, 0xFFFFFFFF⟩]

/-- The registers of page MC (04 R139). -/
def rowsMC : List RegRow :=
[⟨0x040, 1, 4, 0, 0, 0, 0, 0, 0⟩,
   ⟨0x044, 1, 4, 0, 0, 0, 0, 0, 0⟩,
   ⟨0x048, 1, 4, 0, 0, 0, 0, 0, 0xFFFFFFFF⟩,
   ⟨0x04C, 1, 4, 0, 0, 0, 0, 0, 0xFFFFFFFF⟩,
   ⟨0x050, 1, 4, 0, 0, 0, 0, 0, 0xFFFFFFFF⟩,
   ⟨0x054, 1, 4, 0, 0, 0, 0, 0, 0xFFFFFFFF⟩,
   ⟨0x058, 1, 4, 0, 0, 0, 0, 0, 0xFFFFFFFF⟩,
   ⟨0x05C, 1, 4, 0, 0, 0, 0, 0, 0xFFFFFFFF⟩,
   ⟨0x060, 1, 4, 0, 0, 0, 0, 0, 0xFFFFFFFF⟩,
   ⟨0x064, 1, 4, 0, 0, 0, 0, 0, 0xFFFFFFFF⟩,
   ⟨0x068, 1, 4, 0, 0, 0, 0, 0, 0xFFFF⟩,
   ⟨0x06C, 1, 4, 0, 0, 0, 0, 0, 0x7F⟩,
   ⟨0x070, 1, 4, 0, 0, 0, 0, 0, 0⟩]

/-- The registers of page MCCFG (04 R140). -/
def rowsMCCFG : List RegRow :=
[⟨0x040, 1, 4, 0, 0, 0x7, 0, 0, 0⟩,
   ⟨0x044, 1, 4, 0, 0, 0x3FF03FF, 0, 0, 0⟩,
   ⟨0x048, 1, 4, 0, 0, 0x3FFFF, 0, 0, 0⟩,
   ⟨0x04C, 1, 4, 0x3FFFF, 0, 0x3FFFF, 0, 0, 0⟩,
   ⟨0x050, 1, 4, 0x40, 0, 0xFFFF, 0, 0, 0⟩,
   ⟨0x054, 1, 4, 0x40, 0, 0xFFFF, 0, 0, 0⟩,
   ⟨0x058, 1, 4, 0x100, 0, 0xFFFF, 0, 0, 0⟩,
   ⟨0x05C, 1, 4, 0x1, 0xFFFFFFFF, 0, 0, 0, 0⟩,
   ⟨0x060, 1, 4, 0, 0x3FF, 0, 0, 0, 0⟩,
   ⟨0x064, 1, 4, 0, 0xFFFFFFFF, 0, 0, 0, 0⟩,
   ⟨0x068, 1, 4, 0, 0x1FFC, 0, 0, 0, 0⟩,
   ⟨0x06C, 1, 4, 0, 0xFFFFFFFF, 0, 0, 0, 0⟩]

/-- The registers of page CMEM (05 R170). -/
def rowsCMEM : List RegRow :=
[⟨0x040, 1, 4, 0x1, 0, 0, 0, 0, 0⟩,
   ⟨0x044, 1, 4, 0, 0, 0, 0, 0, 0xFFFFFFFF⟩,
   ⟨0x048, 1, 4, 0, 0, 0, 0, 0, 0⟩,
   ⟨0x04C, 1, 4, 0, 0, 0, 0, 0, 0xFFFFFFFF⟩,
   ⟨0x050, 1, 4, 0, 0, 0, 0, 0, 0xFFFFFFFF⟩,
   ⟨0x054, 1, 4, 0, 0, 0, 0, 0, 0⟩,
   ⟨0x058, 1, 4, 0, 0, 0, 0, 0, 0⟩,
   ⟨0x05C, 1, 4, 0, 0, 0, 0, 0, 0xFFFFFFFF⟩,
   ⟨0x060, 1, 4, 0, 0, 0, 0, 0, 0xFFFFFFFF⟩,
   ⟨0x064, 1, 4, 0, 0, 0, 0, 0, 0xFFFFFFFF⟩,
   ⟨0x068, 1, 4, 0, 0, 0, 0, 0, 0xFFFFFFFF⟩,
   ⟨0x06C, 1, 4, 0, 0, 0, 0, 0, 0x1FF⟩,
   ⟨0x070, 1, 4, 0, 0, 0, 0, 0, 0xFFFFFFFF⟩,
   ⟨0x074, 1, 4, 0, 0, 0, 0, 0, 0xFFFFFFFF⟩,
   ⟨0x078, 1, 4, 0, 0, 0, 0, 0, 0xFFFFFFFF⟩,
   ⟨0x07C, 1, 4, 0, 0x1F07FFFC, 0, 0, 0, 0⟩,
   ⟨0x080, 1, 4, 0, 0xFFFFFFFF, 0, 0, 0, 0⟩,
   ⟨0x084, 1, 4, 0, 0, 0, 0, 0, 0⟩]

/-- The registers of page CMCFG (05 R171). -/
def rowsCMCFG : List RegRow :=
[⟨0x040, 32, 4, 0, 0x3F, 0, 0, 0, 0⟩,
   ⟨0x0C0, 1, 4, 0, 0, 0, 0, 0, 0⟩,
   ⟨0x0C4, 1, 4, 0, 0xFFFFFFFF, 0, 0, 0, 0⟩,
   ⟨0x0C8, 1, 4, 0, 0xFFFFFFFF, 0, 0, 0, 0⟩,
   ⟨0x0CC, 1, 4, 0xFFFFFFFF, 0, 0, 0, 0, 0⟩,
   ⟨0x0D0, 1, 4, 0x10003, 0, 0xFFFFFFFF, 0, 0, 0⟩,
   ⟨0x0D4, 1, 4, 0x40005, 0, 0xFFFFFFFF, 0, 0, 0⟩,
   ⟨0x0D8, 1, 4, 0x4000001, 0xFFFF0001, 0, 0, 0, 0⟩,
   ⟨0x0DC, 1, 4, 0, 0x7F, 0, 0, 0, 0⟩,
   ⟨0x0E0, 1, 4, 0, 0x80FF, 0, 0, 0, 0⟩]

/-- The registers of page LIST (05 R173). -/
def rowsLIST : List RegRow :=
[⟨0x040, 1, 4, 0, 0, 0x7FFF1F, 0, 0, 0⟩,
   ⟨0x044, 1, 4, 0x3FFFF, 0, 0x3FFFF, 0, 0, 0⟩,
   ⟨0x048, 1, 4, 0, 0, 0x3FFFF, 0, 0, 0⟩,
   ⟨0x04C, 1, 4, 0, 0, 0x7FFF1F, 0, 0, 0⟩,
   ⟨0x050, 1, 4, 0, 0, 0, 0, 0, 0xFFFFFFFF⟩,
   ⟨0x054, 1, 4, 0, 0, 0, 0, 0, 0xFFFFFFFF⟩,
   ⟨0x058, 1, 4, 0, 0, 0, 0, 0, 0xFFFFFFFF⟩,
   ⟨0x05C, 1, 4, 0, 0, 0, 0, 0, 0xFFFFFFFF⟩,
   ⟨0x060, 1, 4, 0, 0, 0, 0, 0, 0xFFFFFFFF⟩,
   ⟨0x064, 1, 4, 0, 0, 0, 0, 0, 0x1FF⟩]

/-- The registers of page FAB (06 R198). -/
def rowsFAB : List RegRow :=
[⟨0x040, 1, 4, 0, 0, 0x3FF, 0, 0, 0⟩,
   ⟨0x044, 1, 4, 0x100, 0, 0x1FF, 0, 0, 0⟩,
   ⟨0x048, 1, 4, 0x280, 0, 0, 0, 0, 0⟩,
   ⟨0x04C, 1, 4, 0, 0, 0, 0, 0, 0⟩]

/-- The registers of page GRINDCFG (06 R199). -/
def rowsGRINDCFG : List RegRow :=
[⟨0x040, 1, 4, 0x2, 0x3, 0, 0, 0, 0⟩,
   ⟨0x044, 1, 4, 0, 0, 0, 0, 0, 0⟩,
   ⟨0x048, 1, 4, 0, 0x77FFF, 0, 0, 0, 0⟩,
   ⟨0x04C, 1, 4, 0, 0xFFFFFFFF, 0, 0, 0, 0⟩,
   ⟨0x050, 1, 4, 0, 0x101FF, 0, 0, 0, 0⟩,
   ⟨0x054, 1, 4, 0, 0x87, 0, 0, 0, 0⟩,
   ⟨0x058, 1, 4, 0, 0x301FF, 0, 0, 0, 0⟩,
   ⟨0x05C, 1, 4, 0, 0xFFFFFFFF, 0, 0, 0, 0⟩,
   ⟨0x060, 1, 4, 0, 0x300FF, 0, 0, 0, 0⟩,
   ⟨0x064, 1, 4, 0, 0xFFFFFFFF, 0, 0, 0, 0⟩,
   ⟨0x080, 16, 8, 0, 0xFFFFFFFF, 0, 0, 0, 0⟩,
   ⟨0x084, 16, 8, 0, 0xFFFFFFFF, 0, 0, 0, 0⟩]

/-- The registers of page GRIND (06 R200). -/
def rowsGRIND : List RegRow :=
[⟨0x040, 1, 4, 0, 0, 0, 0, 0, 0xFFFFFFFF⟩,
   ⟨0x044, 1, 4, 0, 0, 0, 0, 0, 0xFFFFFFFF⟩,
   ⟨0x048, 1, 4, 0, 0, 0, 0, 0, 0xFFFFFFFF⟩,
   ⟨0x04C, 1, 4, 0, 0, 0, 0, 0, 0xFFFFFFFF⟩,
   ⟨0x050, 1, 4, 0, 0, 0, 0, 0, 0xFFFFFFFF⟩,
   ⟨0x054, 1, 4, 0, 0, 0, 0, 0, 0xFFFFFFFF⟩,
   ⟨0x058, 1, 4, 0, 0, 0, 0, 0, 0xFFFFFFFF⟩,
   ⟨0x05C, 1, 4, 0, 0, 0, 0, 0, 0xFFFFFFFF⟩,
   ⟨0x060, 1, 4, 0, 0, 0, 0, 0, 0xFFFFFFFF⟩,
   ⟨0x064, 1, 4, 0, 0, 0, 0, 0, 0xFFFFFFFF⟩,
   ⟨0x068, 1, 4, 0, 0, 0, 0, 0, 0x7FFF⟩,
   ⟨0x06C, 1, 4, 0, 0, 0, 0, 0, 0x7FF⟩,
   ⟨0x070, 1, 4, 0, 0, 0, 0, 0, 0xFFFFFFFF⟩,
   ⟨0x100, 16, 16, 0, 0, 0, 0, 0, 0xFFFFFFFF⟩,
   ⟨0x104, 16, 16, 0, 0, 0, 0, 0, 0xFFFFFFFF⟩,
   ⟨0x108, 16, 16, 0, 0, 0, 0, 0, 0xFFFFFFFF⟩,
   ⟨0x10C, 16, 16, 0, 0, 0, 0, 0, 0xFFFFFFFF⟩]

/-- The registers of page DRIP (07 R232). -/
def rowsDRIP : List RegRow :=
[⟨0x040, 1, 4, 0, 0, 0, 0, 0, 0⟩,
   ⟨0x044, 1, 4, 0, 0, 0, 0, 0, 0xFFFFFFFF⟩,
   ⟨0x048, 1, 4, 0, 0, 0, 0, 0, 0xFFFFFFFF⟩,
   ⟨0x04C, 1, 4, 0, 0, 0, 0, 0, 0xFFFFFFFF⟩,
   ⟨0x050, 1, 4, 0, 0, 0, 0, 0, 0xFFFFFFFF⟩,
   ⟨0x054, 1, 4, 0, 0, 0, 0, 0, 0xFFFFFFFF⟩,
   ⟨0x058, 1, 4, 0, 0, 0, 0, 0, 0xFFFFFFFF⟩,
   ⟨0x05C, 1, 4, 0, 0, 0, 0, 0, 0xFFFFFFFF⟩,
   ⟨0x060, 1, 4, 0, 0, 0, 0, 0, 0xFFFFFFFF⟩,
   ⟨0x064, 1, 4, 0, 0, 0, 0, 0, 0xFFFFFFFF⟩,
   ⟨0x068, 1, 4, 0, 0, 0, 0, 0, 0xFFFFFFFF⟩,
   ⟨0x06C, 1, 4, 0, 0, 0, 0, 0, 0xFFFFFFFF⟩]

/-- The registers of page DRIPCFG (07 R233). -/
def rowsDRIPCFG : List RegRow :=
[⟨0x040, 1, 4, 0x1000, 0, 0xFF00, 0, 0, 0⟩,
   ⟨0x044, 1, 4, 0x80020, 0, 0xFF00FF, 0, 0, 0⟩,
   ⟨0x048, 1, 4, 0x3E800, 0, 0xFFFFFF, 0, 0, 0⟩,
   ⟨0x04C, 1, 4, 0, 0x3FFF, 0, 0, 0, 0⟩,
   ⟨0x050, 1, 4, 0, 0xBF, 0, 0, 0, 0⟩,
   ⟨0x054, 1, 4, 0, 0x3FFF, 0, 0, 0, 0⟩,
   ⟨0x058, 1, 4, 0, 0x1FF, 0, 0, 0, 0⟩,
   ⟨0x05C, 1, 4, 0, 0xFF, 0, 0, 0, 0⟩,
   ⟨0x060, 1, 4, 0, 0x1FF, 0, 0, 0, 0⟩,
   ⟨0x064, 1, 4, 0, 0, 0xFFFFFFFF, 0, 0, 0⟩,
   ⟨0x068, 1, 4, 0, 0, 0xFFFFFFFF, 0, 0, 0⟩]

/-- The registers of page DRIPEP (07 R234). -/
def rowsDRIPEP : List RegRow :=
[⟨0x040, 1, 4, 0, 0, 0, 0, 0, 0⟩,
   ⟨0x044, 1, 4, 0, 0, 0, 0, 0, 0x7FF⟩,
   ⟨0x048, 1, 4, 0, 0, 0, 0, 0, 0xFFFFFFFF⟩,
   ⟨0x04C, 1, 4, 0, 0, 0, 0, 0, 0xFFFFFFFF⟩,
   ⟨0x050, 1, 4, 0, 0, 0, 0, 0, 0xFFFFFFFF⟩,
   ⟨0x054, 1, 4, 0, 0, 0, 0, 0, 0xFFFFFFFF⟩,
   ⟨0x058, 1, 4, 0, 0, 0, 0, 0, 0xFFFFFFFF⟩,
   ⟨0x05C, 1, 4, 0, 0, 0, 0, 0, 0xFFFFFFFF⟩,
   ⟨0x060, 1, 4, 0, 0, 0, 0, 0, 0xFFFFFFFF⟩,
   ⟨0x064, 1, 4, 0, 0, 0, 0, 0, 0xFFFFFFFF⟩,
   ⟨0x068, 1, 4, 0, 0, 0, 0, 0, 0xFFFFFFFF⟩,
   ⟨0x06C, 1, 4, 0, 0, 0, 0, 0, 0⟩]

/-- The registers of page DENSE (08 R257). -/
def rowsDENSE : List RegRow :=
[⟨0x040, 1, 4, 0, 0, 0, 0, 0, 0⟩,
   ⟨0x044, 1, 4, 0, 0, 0, 0, 0, 0⟩,
   ⟨0x048, 1, 4, 0, 0, 0, 0, 0, 0xFFFFFFFF⟩,
   ⟨0x04C, 1, 4, 0, 0, 0, 0, 0, 0xFFFFFFFF⟩,
   ⟨0x050, 1, 4, 0, 0, 0, 0, 0, 0xFFFFFFFF⟩,
   ⟨0x054, 1, 4, 0, 0, 0, 0, 0, 0xFFFFFFFF⟩,
   ⟨0x058, 1, 4, 0, 0, 0, 0, 0, 0xFFFFFFFF⟩,
   ⟨0x05C, 1, 4, 0, 0, 0, 0, 0, 0xFFFFFFFF⟩,
   ⟨0x060, 1, 4, 0, 0, 0, 0, 0, 0xFFFFFFFF⟩,
   ⟨0x064, 1, 4, 0, 0, 0, 0, 0, 0xFFFFFFFF⟩,
   ⟨0x068, 1, 4, 0, 0, 0, 0, 0, 0xFFFFFFFF⟩,
   ⟨0x06C, 1, 4, 0, 0, 0, 0, 0, 0xFFFFFFFF⟩,
   ⟨0x070, 1, 4, 0, 0, 0, 0, 0, 0⟩,
   ⟨0x074, 1, 4, 0, 0, 0, 0, 0, 0xFFFFFFFF⟩,
   ⟨0x078, 1, 4, 0, 0, 0, 0, 0, 0xFFFFFFFF⟩]

/-- The registers of page DENSECFG (08 R258). -/
def rowsDENSECFG : List RegRow :=
[⟨0x040, 1, 4, 0, 0, 0x7, 0, 0, 0⟩,
   ⟨0x044, 1, 4, 0, 0, 0x1FFF, 0, 0, 0⟩,
   ⟨0x048, 1, 4, 0x1, 0, 0x3FF07FF, 0, 0, 0⟩,
   ⟨0x04C, 1, 4, 0, 0, 0x8003FFFF, 0, 0, 0⟩,
   ⟨0x050, 1, 4, 0, 0, 0x1FFF, 0, 0, 0⟩,
   ⟨0x054, 1, 4, 0x8000, 0xFFFF, 0, 0, 0, 0⟩,
   ⟨0x058, 4, 4, 0, 0, 0x1FFF, 0, 0, 0⟩,
   ⟨0x068, 1, 4, 0x3E8, 0xFFFFF, 0, 0, 0, 0⟩,
   ⟨0x06C, 1, 4, 0, 0xF, 0, 0, 0, 0⟩,
   ⟨0x070, 1, 4, 0, 0, 0, 0, 0, 0⟩,
   ⟨0x074, 1, 4, 0, 0, 0, 0, 0, 0⟩,
   ⟨0x080, 8, 4, 0, 0xFFFFFFFF, 0, 0, 0, 0⟩]

/-- The registers of page EPOCH (09 R280). -/
def rowsEPOCH : List RegRow :=
[⟨0x040, 1, 4, 0, 0, 0, 0, 0, 0⟩,
   ⟨0x044, 1, 4, 0, 0, 0, 0, 0, 0⟩,
   ⟨0x080, 16, 4, 0x100, 0, 0x7FF, 0, 0, 0⟩]

/-- The registers of page ROAST (09 R281). -/
def rowsROAST : List RegRow :=
[⟨0x040, 1, 4, 0, 0, 0, 0, 0, 0⟩,
   ⟨0x044, 1, 4, 0, 0, 0, 0, 0, 0⟩,
   ⟨0x048, 1, 4, 0, 0, 0, 0, 0, 0xFFFFFFFF⟩,
   ⟨0x04C, 1, 4, 0, 0, 0, 0, 0, 0xFFFFFFFF⟩,
   ⟨0x050, 1, 4, 0, 0, 0, 0, 0, 0xFFFFFFFF⟩,
   ⟨0x054, 1, 4, 0, 0, 0, 0, 0, 0xFFFFFFFF⟩,
   ⟨0x058, 1, 4, 0, 0, 0, 0, 0, 0xFFFFFFFF⟩,
   ⟨0x05C, 1, 4, 0, 0, 0, 0, 0, 0xFFFFFFFF⟩,
   ⟨0x060, 1, 4, 0, 0, 0, 0, 0, 0xFFFFFFFF⟩,
   ⟨0x064, 1, 4, 0, 0, 0, 0, 0, 0xFFFFFFFF⟩,
   ⟨0x068, 1, 4, 0, 0, 0, 0, 0, 0xFFFFFFFF⟩,
   ⟨0x06C, 1, 4, 0, 0, 0, 0, 0, 0xFFFFFFFF⟩,
   ⟨0x070, 1, 4, 0, 0, 0, 0, 0, 0⟩,
   ⟨0x074, 1, 4, 0, 0, 0, 0, 0, 0xFFFFFFFF⟩,
   ⟨0x078, 1, 4, 0, 0, 0, 0, 0, 0xFFFFFFFF⟩,
   ⟨0x07C, 1, 4, 0, 0, 0, 0, 0, 0xFFFFFFFF⟩,
   ⟨0x080, 4, 4, 0, 0, 0, 0, 0, 0⟩,
   ⟨0x090, 4, 4, 0, 0, 0, 0, 0, 0⟩]

/-- The registers of page ROASTCFG (09 R282). -/
def rowsROASTCFG : List RegRow :=
[⟨0x040, 1, 4, 0x100, 0, 0xFF07, 0, 0, 0⟩,
   ⟨0x044, 1, 4, 0x1, 0xFFFFFFFF, 0, 0, 0, 0⟩,
   ⟨0x048, 1, 4, 0, 0, 0x7FFF1F, 0, 0, 0⟩,
   ⟨0x04C, 1, 4, 0x3FFFF, 0, 0x3FFFF, 0, 0, 0⟩,
   ⟨0x050, 1, 4, 0, 0, 0x3FFFF, 0, 0, 0⟩,
   ⟨0x054, 1, 4, 0, 0, 0x7FFF1F, 0, 0, 0⟩,
   ⟨0x058, 1, 4, 0, 0, 0xFFFF, 0, 0, 0⟩,
   ⟨0x05C, 1, 4, 0, 0x1F, 0, 0, 0, 0⟩,
   ⟨0x060, 1, 4, 0, 0x31F, 0, 0, 0, 0⟩,
   ⟨0x064, 1, 4, 0, 0xFFFFFFFF, 0, 0, 0, 0⟩,
   ⟨0x068, 1, 4, 0, 0x1FF, 0, 0, 0, 0⟩,
   ⟨0x06C, 1, 4, 0, 0xFFFFFFFF, 0, 0, 0, 0⟩,
   ⟨0x080, 4, 16, 0x3FFFF, 0, 0x8003FFFF, 0, 0, 0⟩,
   ⟨0x084, 4, 16, 0, 0, 0x3FFFF, 0, 0, 0⟩,
   ⟨0x088, 4, 16, 0x80000000, 0, 0xFFFFFFFF, 0, 0, 0⟩,
   ⟨0x08C, 4, 16, 0, 0, 0xF, 0, 0, 0⟩,
   ⟨0x0C0, 32, 4, 0, 0, 0x807FFF1F, 0, 0, 0⟩]

/-- The registers of page CSIRX (10 R304). -/
def rowsCSIRX : List RegRow :=
[⟨0x040, 1, 4, 0x300004, 0, 0xFF00FF, 0, 0, 0⟩,
   ⟨0x044, 1, 4, 0x9C4, 0, 0xFFF, 0, 0, 0⟩,
   ⟨0x048, 1, 4, 0, 0, 0xFF, 0, 0, 0⟩,
   ⟨0x04C, 1, 4, 0, 0, 0x11F1F3F, 0, 0, 0⟩,
   ⟨0x050, 1, 4, 0x3200000, 0, 0xFFFFFFFF, 0, 0, 0⟩,
   ⟨0x054, 1, 4, 0, 0xFFFFFFFF, 0, 0, 0, 0⟩,
   ⟨0x058, 1, 4, 0, 0xFFFFFFFF, 0, 0, 0, 0⟩,
   ⟨0x05C, 1, 4, 0, 0, 0xFFF0FFF, 0, 0, 0⟩,
   ⟨0x060, 1, 4, 0x10001000, 0, 0x1FFF1FFF, 0, 0, 0⟩,
   ⟨0x064, 1, 4, 0, 0, 0x377, 0, 0, 0⟩,
   ⟨0x068, 1, 4, 0, 0, 0xFFFFFF, 0, 0, 0⟩,
   ⟨0x06C, 1, 4, 0, 0x3F, 0, 0, 0, 0⟩,
   ⟨0x070, 1, 4, 0, 0x80FFFFFF, 0, 0, 0, 0⟩,
   ⟨0x074, 1, 4, 0, 0, 0xFFFF0F37, 0, 0, 0⟩,
   ⟨0x078, 1, 4, 0, 0, 0xFFF0FFF, 0, 0, 0⟩,
   ⟨0x07C, 1, 4, 0, 0, 0x1FFF1FFF, 0, 0, 0⟩,
   ⟨0x080, 1, 4, 0, 0, 0xFFFFFFFF, 0, 0, 0⟩,
   ⟨0x084, 1, 4, 0, 0, 0xFFFFFFFF, 0, 0, 0⟩,
   ⟨0x088, 1, 4, 0, 0, 0xFFFF, 0, 0, 0⟩]

/-- The registers of page CSISTAT (10 R305). -/
def rowsCSISTAT : List RegRow :=
[⟨0x040, 1, 4, 0, 0, 0, 0, 0, 0⟩,
   ⟨0x044, 1, 4, 0, 0, 0, 0, 0, 0xFFFFFFFF⟩,
   ⟨0x048, 1, 4, 0, 0, 0, 0, 0, 0xFFFFFFFF⟩,
   ⟨0x04C, 1, 4, 0, 0, 0, 0, 0, 0xFFFFFFFF⟩,
   ⟨0x050, 1, 4, 0, 0, 0, 0, 0, 0xFFFFFFFF⟩,
   ⟨0x054, 1, 4, 0, 0, 0, 0, 0, 0xFFFFFFFF⟩,
   ⟨0x058, 1, 4, 0, 0, 0, 0, 0, 0xFFFFFFFF⟩,
   ⟨0x05C, 1, 4, 0, 0, 0, 0, 0, 0xFFFFFFFF⟩,
   ⟨0x060, 1, 4, 0, 0, 0, 0, 0, 0xFFFFFFFF⟩,
   ⟨0x064, 1, 4, 0, 0, 0, 0, 0, 0xFFFFFFFF⟩,
   ⟨0x068, 1, 4, 0, 0, 0, 0, 0, 0xFFFFFFFF⟩,
   ⟨0x06C, 1, 4, 0, 0, 0, 0, 0, 0xFFFFFFFF⟩,
   ⟨0x070, 1, 4, 0, 0, 0, 0x3, 0, 0⟩,
   ⟨0x074, 1, 4, 0, 0, 0, 0, 0, 0xFFFFFFFF⟩,
   ⟨0x078, 1, 4, 0, 0, 0, 0, 0, 0⟩,
   ⟨0x07C, 1, 4, 0, 0, 0, 0, 0, 0⟩,
   ⟨0x080, 1, 4, 0, 0, 0, 0, 0, 0⟩]

/-- The registers of page DEC (10 R306). -/
def rowsDEC : List RegRow :=
[⟨0x040, 8, 32, 0, 0, 0xFFFFFFFF, 0, 0, 0⟩,
   ⟨0x044, 8, 32, 0, 0, 0xFFFFFFFF, 0, 0, 0⟩,
   ⟨0x048, 8, 32, 0x4, 0, 0x7, 0, 0, 0⟩,
   ⟨0x04C, 8, 32, 0, 0, 0x7FF07FF, 0, 0, 0⟩,
   ⟨0x050, 8, 32, 0, 0, 0x7FF07FF, 0, 0, 0⟩,
   ⟨0x054, 8, 32, 0, 0, 0x7FF, 0, 0, 0⟩]

/-- The registers of page INGRESS (10 R307). -/
def rowsINGRESS : List RegRow :=
[⟨0x040, 1, 4, 0, 0, 0, 0, 0, 0⟩,
   ⟨0x044, 1, 4, 0, 0, 0, 0, 0, 0xFFFFFFFF⟩,
   ⟨0x048, 1, 4, 0, 0, 0, 0, 0, 0xFFFFFFFF⟩,
   ⟨0x04C, 1, 4, 0, 0, 0, 0, 0, 0xFFFFFFFF⟩,
   ⟨0x050, 1, 4, 0, 0, 0, 0, 0, 0xFFFFFFFF⟩,
   ⟨0x054, 1, 4, 0, 0, 0, 0, 0, 0xFFFFFFFF⟩,
   ⟨0x058, 1, 4, 0, 0, 0, 0, 0, 0xFFFFFFFF⟩,
   ⟨0x05C, 1, 4, 0, 0, 0, 0, 0, 0xFFFFFFFF⟩,
   ⟨0x060, 1, 4, 0, 0, 0, 0, 0, 0xFFFFFFFF⟩,
   ⟨0x064, 1, 4, 0, 0, 0, 0, 0, 0xFFFFFFFF⟩,
   ⟨0x068, 1, 4, 0, 0, 0, 0, 0, 0⟩,
   ⟨0x06C, 1, 4, 0, 0, 0, 0, 0, 0x7FFF⟩]

/-- The registers of page INGCFG (10 R308). -/
def rowsINGCFG : List RegRow :=
[⟨0x040, 16, 4, 0, 0, 0x801FFFFF, 0, 0, 0⟩,
   ⟨0x080, 16, 4, 0, 0, 0xFFFFFF, 0, 0, 0⟩,
   ⟨0x0C0, 1, 4, 0, 0x3FFFF, 0, 0, 0, 0⟩,
   ⟨0x0C4, 1, 4, 0, 0xFFFFFFFF, 0, 0, 0, 0⟩,
   ⟨0x0C8, 1, 4, 0, 0x303FF, 0, 0, 0, 0⟩,
   ⟨0x0CC, 1, 4, 0, 0xFFFFFFFF, 0, 0, 0, 0⟩]

/-- The registers of page SENSIO (10 R309). -/
def rowsSENSIO : List RegRow :=
[⟨0x040, 8, 4, 0x7, 0, 0x800003FF, 0, 0, 0⟩,
   ⟨0x060, 1, 4, 0, 0x377, 0, 0, 0, 0⟩,
   ⟨0x064, 1, 4, 0, 0xFFFFFFFF, 0, 0, 0, 0⟩,
   ⟨0x068, 1, 4, 0, 0, 0xFFFFFFFF, 0, 0, 0⟩,
   ⟨0x070, 8, 4, 0, 0, 0, 0, 0, 0⟩,
   ⟨0x090, 1, 4, 0, 0x31F, 0, 0, 0, 0⟩,
   ⟨0x094, 1, 4, 0, 0xFFFFFFFF, 0, 0, 0, 0⟩,
   ⟨0x098, 1, 4, 0, 0, 0, 0, 0, 0xFFFFFFFF⟩,
   ⟨0x09C, 1, 4, 0, 0, 0, 0, 0, 0xFFFFFFFF⟩,
   ⟨0x0A0, 1, 4, 0, 0, 0, 0, 0, 0xFFFFFFFF⟩]

/-- The registers of page TMR (11 R332). -/
def rowsTMR : List RegRow :=
[⟨0x040, 1, 4, 0, 0x7FFFFFF, 0, 0, 0, 0⟩,
   ⟨0x044, 1, 4, 0, 0xFFFF, 0, 0, 0, 0⟩,
   ⟨0x048, 1, 4, 0, 0xFFFFFFFF, 0, 0, 0, 0⟩,
   ⟨0x04C, 1, 4, 0xFFFFFFFF, 0xFFFFFFFF, 0, 0, 0, 0⟩,
   ⟨0x050, 1, 4, 0xFFFFFFFF, 0xFFFFFFFF, 0, 0, 0, 0⟩,
   ⟨0x054, 1, 4, 0xFFFFFFFF, 0xFFFFFFFF, 0, 0, 0, 0⟩,
   ⟨0x058, 1, 4, 0xFFFFFFFF, 0, 0, 0, 0, 0⟩,
   ⟨0x05C, 1, 4, 0, 0, 0, 0xF, 0, 0⟩,
   ⟨0x060, 1, 4, 0, 0, 0, 0, 0, 0⟩,
   ⟨0x064, 1, 4, 0, 0, 0, 0, 0, 0⟩,
   ⟨0x068, 1, 4, 0, 0, 0, 0, 0, 0⟩,
   ⟨0x06C, 1, 4, 0, 0, 0, 0xC, 0, 0⟩,
   ⟨0x070, 1, 4, 0, 0xFFFFFFFF, 0, 0, 0, 0⟩,
   ⟨0x074, 1, 4, 0x17D78400, 0xFFFFFFFF, 0, 0, 0, 0⟩,
   ⟨0x078, 1, 4, 0, 0xFFFF, 0, 0, 0, 0⟩,
   ⟨0x07C, 1, 4, 0, 0, 0, 0, 0, 0xFFFFFFFF⟩,
   ⟨0x080, 1, 4, 0, 0, 0, 0, 0, 0xFFFFFFFF⟩]

/-- The registers of page XBAR (11 R333). -/
def rowsXBAR : List RegRow :=
[⟨0x040, 1, 4, 0, 0, 0, 0xFFFFFFFF, 0, 0⟩,
   ⟨0x044, 1, 4, 0, 0, 0, 0, 0, 0xFFFFFFFF⟩,
   ⟨0x048, 1, 4, 0, 0, 0, 0, 0, 0xFFFFFFFF⟩,
   ⟨0x04C, 1, 4, 0, 0, 0, 0, 0, 0xFFFFFFFF⟩,
   ⟨0x100, 50, 4, 0, 0xFFFFFFFF, 0, 0, 0, 0⟩]

/-- The registers of page ACT (11 R334). -/
def rowsACT : List RegRow :=
[⟨0x040, 1, 4, 0, 0xF0F, 0, 0, 0, 0⟩,
   ⟨0x044, 1, 4, 0, 0xFFFFFFFF, 0, 0, 0, 0⟩,
   ⟨0x048, 1, 4, 0, 0, 0, 0xFFFF, 0, 0⟩,
   ⟨0x04C, 1, 4, 0, 0, 0, 0, 0, 0xFFFFFFFF⟩,
   ⟨0x050, 1, 4, 0, 0, 0, 0, 0, 0xFFFFFFFF⟩,
   ⟨0x054, 1, 4, 0, 0, 0, 0, 0, 0xFFFFFFFF⟩,
   ⟨0x058, 1, 4, 0, 0, 0, 0, 0, 0xFFFFFFFF⟩,
   ⟨0x080, 16, 4, 0, 0, 0, 0, 0, 0⟩]

/-- The registers of page GPIO (11 R335). -/
def rowsGPIO : List RegRow :=
[⟨0x040, 1, 4, 0, 0, 0, 0, 0, 0⟩,
   ⟨0x044, 1, 4, 0, 0xFFFFFFFF, 0, 0, 0, 0⟩,
   ⟨0x048, 1, 4, 0, 0, 0, 0, 0, 0⟩,
   ⟨0x04C, 1, 4, 0, 0, 0, 0, 0, 0⟩,
   ⟨0x050, 1, 4, 0, 0xFFFFFFFF, 0, 0, 0, 0⟩,
   ⟨0x054, 1, 4, 0, 0xFFFFFFFF, 0, 0, 0, 0⟩,
   ⟨0x058, 1, 4, 0, 0xFFFFFFFF, 0, 0, 0, 0⟩,
   ⟨0x080, 32, 4, 0, 0xFF, 0, 0, 0, 0⟩]

/-- The registers of page DMA (12 R347). -/
def rowsDMA : List RegRow :=
[⟨0x040, 1, 4, 0, 0, 0, 0, 0, 0⟩,
   ⟨0x044, 1, 4, 0, 0, 0, 0, 0, 0xFFFFFFFF⟩,
   ⟨0x048, 1, 4, 0, 0, 0, 0, 0, 0xFFFFFFFF⟩,
   ⟨0x04C, 1, 4, 0, 0, 0, 0, 0, 0xFFFFFFFF⟩,
   ⟨0x050, 1, 4, 0, 0, 0, 0, 0, 0xFFFFFFFF⟩,
   ⟨0x054, 1, 4, 0, 0, 0, 0, 0, 0xFFFFFFFF⟩,
   ⟨0x058, 1, 4, 0, 0, 0, 0, 0, 0xFFFFFFFF⟩,
   ⟨0x100, 16, 16, 0, 0xF, 0, 0, 0, 0⟩,
   ⟨0x104, 16, 16, 0, 0, 0, 0, 0, 0⟩,
   ⟨0x108, 16, 16, 0, 0xFFFFFFFF, 0, 0, 0, 0⟩,
   ⟨0x10C, 16, 16, 0, 0xFFFFFFFF, 0, 0, 0, 0⟩]

/-- The registers of page ETHCFG (13 R379). -/
def rowsETHCFG : List RegRow :=
[⟨0x040, 1, 4, 0x10, 0x7F, 0, 0, 0, 0⟩,
   ⟨0x044, 1, 4, 0, 0, 0xFFFFFFFF, 0, 0, 0⟩,
   ⟨0x048, 1, 4, 0, 0, 0xFFFF, 0, 0, 0⟩,
   ⟨0x04C, 1, 4, 0x5F20000, 0, 0x3FFF0003, 0, 0, 0⟩,
   ⟨0x050, 1, 4, 0x1, 0, 0x30FFF, 0, 0, 0⟩,
   ⟨0x054, 1, 4, 0x88B5, 0, 0xFFFF, 0, 0, 0⟩,
   ⟨0x058, 1, 4, 0x756, 0, 0x777, 0, 0, 0⟩,
   ⟨0x05C, 1, 4, 0x80A01, 0, 0xFF0FFF03, 0, 0, 0⟩,
   ⟨0x060, 1, 4, 0x4620000, 0, 0x7FF000F, 0, 0, 0⟩,
   ⟨0x064, 4, 8, 0x3FFFF, 0, 0x8003FFFF, 0, 0, 0⟩,
   ⟨0x068, 4, 8, 0, 0, 0x3FFFF, 0, 0, 0⟩,
   ⟨0x084, 1, 4, 0, 0, 0xFFFFFFFF, 0, 0, 0⟩,
   ⟨0x088, 1, 4, 0, 0, 0xFFFF, 0, 0, 0⟩,
   ⟨0x08C, 1, 4, 0, 0x1, 0, 0, 0, 0⟩,
   ⟨0x090, 1, 4, 0xF4240, 0x3FFFFFFF, 0, 0, 0, 0⟩,
   ⟨0x094, 1, 4, 0, 0xFFFFFFFF, 0, 0, 0, 0⟩,
   ⟨0x098, 1, 4, 0, 0xFFFFFFFF, 0, 0, 0, 0⟩,
   ⟨0x09C, 1, 4, 0x1, 0xFF, 0, 0, 0, 0⟩,
   ⟨0x0A0, 1, 4, 0, 0x17F, 0, 0, 0, 0⟩,
   ⟨0x0A4, 1, 4, 0xFF, 0xFFFFFFFF, 0, 0, 0, 0⟩]

/-- The registers of page ETH (13 R380). -/
def rowsETH : List RegRow :=
[⟨0x040, 1, 4, 0, 0, 0, 0, 0, 0⟩,
   ⟨0x044, 1, 4, 0, 0, 0, 0, 0, 0xFFFFFFFF⟩,
   ⟨0x048, 1, 4, 0, 0, 0, 0, 0, 0xFFFFFFFF⟩,
   ⟨0x04C, 1, 4, 0, 0, 0, 0, 0, 0xFFFFFFFF⟩,
   ⟨0x050, 1, 4, 0, 0, 0, 0, 0, 0xFFFFFFFF⟩,
   ⟨0x054, 1, 4, 0, 0, 0, 0, 0, 0xFFFFFFFF⟩,
   ⟨0x058, 1, 4, 0, 0, 0, 0, 0, 0xFFFFFFFF⟩,
   ⟨0x05C, 1, 4, 0, 0, 0, 0, 0, 0xFFFFFFFF⟩,
   ⟨0x060, 1, 4, 0, 0, 0, 0, 0, 0xFFFFFFFF⟩,
   ⟨0x064, 1, 4, 0, 0, 0, 0, 0, 0xFFFFFFFF⟩,
   ⟨0x068, 1, 4, 0, 0, 0, 0, 0, 0xFFFFFFFF⟩,
   ⟨0x06C, 1, 4, 0, 0, 0, 0, 0, 0xFFFFFFFF⟩,
   ⟨0x070, 1, 4, 0, 0, 0, 0, 0, 0xFFFFFFFF⟩,
   ⟨0x074, 1, 4, 0, 0, 0, 0, 0, 0xFFFFFFFF⟩,
   ⟨0x078, 1, 4, 0, 0, 0, 0, 0, 0xFFFFFFFF⟩,
   ⟨0x07C, 1, 4, 0, 0, 0, 0, 0, 0xFFFFFFFF⟩,
   ⟨0x080, 1, 4, 0, 0, 0, 0, 0, 0xFFFFFFFF⟩,
   ⟨0x084, 1, 4, 0, 0, 0, 0, 0, 0xFFFFFFFF⟩,
   ⟨0x088, 1, 4, 0, 0, 0, 0, 0, 0xFFFFFFFF⟩,
   ⟨0x08C, 1, 4, 0, 0, 0, 0, 0, 0xFFFFFFFF⟩,
   ⟨0x090, 1, 4, 0, 0, 0, 0, 0, 0xFFFFFFFF⟩,
   ⟨0x094, 1, 4, 0, 0, 0, 0, 0, 0xFFFFFFFF⟩,
   ⟨0x098, 1, 4, 0, 0, 0, 0, 0, 0xFFFFFFFF⟩,
   ⟨0x09C, 1, 4, 0, 0, 0, 0, 0, 0xFFFFFFFF⟩]
  ++ [⟨0x0A0, 1, 4, 0, 0, 0, 0, 0, 0xFFFFFFFF⟩,
   ⟨0x0A4, 1, 4, 0, 0, 0, 0, 0, 0xFFFFFFFF⟩,
   ⟨0x0A8, 1, 4, 0, 0, 0, 0, 0, 0xFFFFFFFF⟩,
   ⟨0x0AC, 1, 4, 0, 0, 0, 0, 0, 0xFFFFFFFF⟩]

/-- The registers of page MACSEC (13 R381). -/
def rowsMACSEC : List RegRow :=
[⟨0x040, 1, 4, 0x8, 0x7F, 0, 0, 0, 0⟩,
   ⟨0x044, 1, 4, 0, 0xFFFFFFFF, 0, 0, 0, 0⟩,
   ⟨0x048, 1, 4, 0, 0x3, 0, 0, 0, 0⟩,
   ⟨0x04C, 1, 4, 0xC0000000, 0xFFFFFFFF, 0, 0, 0, 0⟩,
   ⟨0x050, 1, 4, 0, 0xFFFFFFFF, 0, 0, 0, 0⟩,
   ⟨0x054, 1, 4, 0, 0, 0, 0, 0, 0⟩,
   ⟨0x060, 1, 4, 0, 0xF1F, 0, 0, 0, 0⟩,
   ⟨0x064, 1, 4, 0, 0xFFFFFFFF, 0, 0, 0, 0⟩,
   ⟨0x088, 4, 8, 0, 0xFFFFFFFF, 0, 0, 0, 0⟩,
   ⟨0x08C, 4, 8, 0, 0xFFFFFFFF, 0, 0, 0, 0⟩]

/-- The registers of page PTPCLK (13 R382). -/
def rowsPTPCLK : List RegRow :=
[⟨0x040, 1, 4, 0, 0, 0, 0, 0, 0⟩,
   ⟨0x044, 1, 4, 0, 0, 0, 0, 0, 0⟩,
   ⟨0x048, 1, 4, 0, 0, 0, 0, 0, 0⟩,
   ⟨0x04C, 1, 4, 0, 0, 0, 0, 0, 0⟩,
   ⟨0x050, 1, 4, 0x50000000, 0xFFFFFFFF, 0, 0, 0, 0⟩,
   ⟨0x054, 1, 4, 0, 0, 0, 0, 0, 0⟩,
   ⟨0x058, 1, 4, 0, 0, 0, 0, 0, 0⟩,
   ⟨0x05C, 1, 4, 0, 0, 0, 0, 0, 0⟩]

/-- The registers of page DDR (14 R403). -/
def rowsDDR : List RegRow :=
[⟨0x040, 1, 4, 0x1, 0, 0, 0, 0, 0⟩,
   ⟨0x044, 1, 4, 0, 0, 0, 0, 0, 0⟩,
   ⟨0x048, 1, 4, 0, 0, 0, 0, 0, 0xFFFFFFFF⟩,
   ⟨0x04C, 1, 4, 0, 0, 0, 0, 0, 0xFFFFFFFF⟩,
   ⟨0x050, 1, 4, 0, 0, 0, 0, 0, 0xFFFFFFFF⟩,
   ⟨0x054, 1, 4, 0, 0, 0, 0, 0, 0xFFFFFFFF⟩,
   ⟨0x058, 1, 4, 0, 0, 0, 0, 0, 0⟩,
   ⟨0x05C, 1, 4, 0, 0, 0, 0, 0, 0⟩,
   ⟨0x060, 1, 4, 0, 0, 0, 0, 0, 0xFFFFFFFF⟩,
   ⟨0x064, 1, 4, 0, 0, 0, 0, 0, 0xFFFFFFFF⟩,
   ⟨0x068, 1, 4, 0, 0, 0, 0, 0, 0xFFFFFFFF⟩]

/-- The registers of page DDRCFG (14 R404). -/
def rowsDDRCFG : List RegRow :=
[⟨0x040, 1, 4, 0x4, 0, 0xFF, 0, 0, 0⟩,
   ⟨0x044, 1, 4, 0x10001, 0xFFFF0001, 0, 0, 0, 0⟩,
   ⟨0x048, 1, 4, 0xA02, 0xFF02, 0, 0, 0, 0⟩]

/-- The registers of page SC (14 R405). -/
def rowsSC : List RegRow :=
[⟨0x040, 1, 4, 0x2, 0x2, 0, 0, 0, 0⟩,
   ⟨0x044, 1, 4, 0, 0, 0, 0, 0, 0⟩,
   ⟨0x048, 1, 4, 0, 0, 0, 0, 0, 0⟩,
   ⟨0x04C, 1, 4, 0, 0, 0, 0, 0, 0xFFFFFFFF⟩,
   ⟨0x050, 1, 4, 0, 0, 0, 0, 0, 0xFFFFFFFF⟩,
   ⟨0x054, 1, 4, 0, 0, 0, 0, 0, 0xFFFFFFFF⟩,
   ⟨0x058, 1, 4, 0, 0, 0, 0, 0, 0xFFFFFFFF⟩,
   ⟨0x05C, 1, 4, 0, 0, 0, 0, 0, 0xFFFFFFFF⟩,
   ⟨0x060, 1, 4, 0, 0, 0, 0, 0, 0xFFFFFFFF⟩,
   ⟨0x064, 1, 4, 0, 0, 0, 0, 0, 0xFFFFFFFF⟩]

/-- The registers of page SD (14 R406). -/
def rowsSD : List RegRow :=
[⟨0x040, 1, 4, 0, 0, 0, 0, 0, 0⟩,
   ⟨0x044, 1, 4, 0, 0, 0, 0, 0, 0xFFFFFFFF⟩]

/-- The registers of page PWRC (15 R431). -/
def rowsPWRC : List RegRow :=
[⟨0x040, 1, 4, 0, 0x3, 0, 0, 0, 0⟩,
   ⟨0x044, 1, 4, 0, 0, 0, 0, 0, 0⟩,
   ⟨0x048, 1, 4, 0x28, 0x3F, 0, 0, 0, 0⟩,
   ⟨0x04C, 1, 4, 0, 0, 0, 0, 0, 0⟩,
   ⟨0x050, 1, 4, 0, 0, 0, 0, 0, 0⟩,
   ⟨0x054, 1, 4, 0, 0, 0, 0, 0, 0xFFFFFFFF⟩,
   ⟨0x058, 1, 4, 0, 0, 0, 0, 0, 0xFFFFFFFF⟩,
   ⟨0x05C, 1, 4, 0, 0, 0, 0, 0, 0xFFFFFFFF⟩]

/-- The registers of page PWR (15 R432). -/
def rowsPWR : List RegRow :=
[⟨0x040, 1, 4, 0, 0x3, 0, 0, 0, 0⟩,
   ⟨0x044, 1, 4, 0, 0, 0, 0, 0, 0⟩,
   ⟨0x048, 1, 4, 0x400, 0x3FF, 0, 0, 0, 0⟩,
   ⟨0x04C, 1, 4, 0, 0xFFFF, 0, 0, 0, 0⟩,
   ⟨0x050, 1, 4, 0, 0xFFFFFFFF, 0, 0, 0, 0⟩,
   ⟨0x054, 1, 4, 0, 0, 0, 0, 0, 0⟩,
   ⟨0x058, 1, 4, 0, 0, 0, 0, 0, 0xFFFFFFFF⟩,
   ⟨0x05C, 1, 4, 0, 0, 0, 0, 0, 0xFFFFFFFF⟩,
   ⟨0x060, 1, 4, 0, 0, 0, 0, 0, 0xFFFFFFFF⟩,
   ⟨0x064, 1, 4, 0x8C73, 0xFF, 0, 0, 0, 0⟩,
   ⟨0x068, 1, 4, 0, 0xFFFC, 0, 0, 0, 0⟩,
   ⟨0x06C, 1, 4, 0, 0xFFFFFFFF, 0, 0, 0, 0⟩,
   ⟨0x070, 1, 4, 0, 0, 0, 0, 0, 0⟩,
   ⟨0x074, 1, 4, 0, 0, 0, 0, 0, 0⟩,
   ⟨0x078, 1, 4, 0x1, 0xF, 0, 0, 0, 0⟩,
   ⟨0x07C, 1, 4, 0, 0, 0, 0, 0, 0xFFFFFFFF⟩]

/-- The registers of page CLK (15 R433). -/
def rowsCLK : List RegRow :=
[⟨0x040, 1, 4, 0, 0, 0, 0, 0, 0⟩,
   ⟨0x044, 1, 4, 0x3, 0, 0, 0, 0, 0⟩,
   ⟨0x048, 1, 4, 0, 0, 0, 0, 0, 0xFFFFFFFF⟩]

/-- The registers of page HOLDUP (15 R434). -/
def rowsHOLDUP : List RegRow :=
[⟨0x040, 1, 4, 0, 0, 0xFFFFFFFF, 0, 0, 0⟩,
   ⟨0x044, 1, 4, 0x100, 0, 0xFFFF, 0, 0, 0⟩,
   ⟨0x048, 1, 4, 0, 0, 0xFFFF, 0, 0, 0⟩,
   ⟨0x04C, 1, 4, 0, 0, 0xFFFF, 0, 0, 0⟩,
   ⟨0x050, 1, 4, 0x14, 0, 0xFF, 0, 0, 0⟩,
   ⟨0x054, 1, 4, 0x9C40, 0, 0xFFFFFF, 0, 0, 0⟩,
   ⟨0x058, 1, 4, 0xFA0, 0, 0xFFFFFF, 0, 0, 0⟩,
   ⟨0x05C, 1, 4, 0, 0, 0, 0, 0, 0⟩,
   ⟨0x060, 1, 4, 0, 0, 0, 0, 0, 0xFFFFFFFF⟩,
   ⟨0x064, 1, 4, 0, 0, 0, 0, 0, 0xFFFFFFFF⟩,
   ⟨0x068, 1, 4, 0x3E8, 0, 0xFFFF, 0, 0, 0⟩]

/-- The registers of page RST (16 R451). -/
def rowsRST : List RegRow :=
[⟨0x040, 1, 4, 0, 0, 0, 0, 0, 0⟩,
   ⟨0x044, 1, 4, 0, 0, 0, 0, 0, 0⟩,
   ⟨0x048, 1, 4, 0x1, 0, 0, 0x3F, 0, 0⟩,
   ⟨0x04C, 1, 4, 0, 0, 0, 0, 0, 0⟩,
   ⟨0x050, 1, 4, 0, 0, 0, 0, 0, 0⟩,
   ⟨0x054, 1, 4, 0, 0, 0, 0, 0, 0xFFFFFFFF⟩,
   ⟨0x058, 1, 4, 0, 0, 0, 0, 0, 0xFFFFFFFF⟩,
   ⟨0x05C, 1, 4, 0, 0, 0, 0, 0, 0⟩]

/-- The registers of page RSTC (16 R452). -/
def rowsRSTC : List RegRow :=
[⟨0x040, 1, 4, 0, 0xFFFFFFFF, 0, 0, 0, 0⟩,
   ⟨0x044, 1, 4, 0, 0, 0, 0, 0, 0⟩,
   ⟨0x048, 1, 4, 0, 0, 0, 0, 0, 0⟩,
   ⟨0x04C, 1, 4, 0, 0, 0, 0, 0, 0⟩,
   ⟨0x050, 1, 4, 0, 0, 0, 0, 0, 0⟩]

/-- The registers of page BOOT (16 R453). -/
def rowsBOOT : List RegRow :=
[⟨0x040, 1, 4, 0, 0, 0, 0, 0, 0⟩,
   ⟨0x044, 1, 4, 0, 0, 0, 0, 0, 0⟩,
   ⟨0x048, 1, 4, 0, 0, 0, 0, 0, 0⟩,
   ⟨0x04C, 1, 4, 0, 0, 0, 0, 0, 0xFFFFFFFF⟩,
   ⟨0x050, 1, 4, 0, 0, 0, 0, 0, 0⟩,
   ⟨0x054, 1, 4, 0, 0, 0, 0, 0, 0xFFFFFFFF⟩,
   ⟨0x058, 1, 4, 0, 0, 0, 0, 0, 0⟩,
   ⟨0x080, 16, 4, 0, 0, 0, 0, 0, 0⟩]

/-- The registers of page FUSE (16 R454). -/
def rowsFUSE : List RegRow :=
[⟨0x040, 4, 4, 0, 0, 0, 0, 0, 0⟩,
   ⟨0x050, 1, 4, 0, 0, 0, 0, 0, 0⟩,
   ⟨0x054, 1, 4, 0, 0, 0, 0, 0, 0⟩,
   ⟨0x058, 1, 4, 0, 0, 0, 0, 0, 0⟩,
   ⟨0x05C, 1, 4, 0, 0, 0, 0, 0, 0⟩,
   ⟨0x080, 16, 4, 0, 0, 0, 0, 0, 0⟩]

/-- The registers of page IMGLD (16 R455). -/
def rowsIMGLD : List RegRow :=
[⟨0x040, 1, 4, 0, 0xFFFFFFFF, 0, 0, 0, 0⟩,
   ⟨0x044, 1, 4, 0, 0, 0, 0, 0, 0⟩,
   ⟨0x048, 1, 4, 0, 0, 0, 0, 0, 0⟩,
   ⟨0x04C, 1, 4, 0, 0, 0, 0, 0, 0xFFFFFFFF⟩]

/-- The registers of page FLT (17 R476). -/
def rowsFLT : List RegRow :=
[⟨0x040, 1, 4, 0, 0, 0, 0, 0, 0⟩,
   ⟨0x044, 1, 4, 0, 0, 0, 0, 0, 0⟩,
   ⟨0x048, 1, 4, 0, 0, 0, 0x1, 0, 0⟩,
   ⟨0x04C, 1, 4, 0, 0, 0, 0, 0, 0⟩,
   ⟨0x050, 1, 4, 0, 0, 0, 0, 0, 0⟩,
   ⟨0x054, 1, 4, 0, 0, 0, 0, 0, 0⟩,
   ⟨0x058, 1, 4, 0, 0, 0, 0, 0, 0⟩,
   ⟨0x05C, 1, 4, 0, 0, 0, 0, 0, 0⟩,
   ⟨0x060, 1, 4, 0, 0, 0, 0, 0, 0⟩,
   ⟨0x064, 1, 4, 0, 0, 0, 0, 0, 0xFFFFFFFF⟩,
   ⟨0x068, 1, 4, 0, 0, 0, 0, 0, 0xFFFFFFFF⟩,
   ⟨0x06C, 1, 4, 0, 0, 0, 0, 0, 0xFFFFFFFF⟩,
   ⟨0x070, 1, 4, 0, 0, 0, 0, 0, 0xFFFFFFFF⟩,
   ⟨0x074, 1, 4, 0, 0, 0, 0, 0, 0xFFFFFFFF⟩,
   ⟨0x078, 1, 4, 0, 0, 0, 0, 0, 0xFFFFFFFF⟩,
   ⟨0x07C, 1, 4, 0, 0, 0, 0, 0, 0⟩,
   ⟨0x080, 1, 4, 0, 0, 0, 0, 0, 0⟩,
   ⟨0x084, 1, 4, 0, 0, 0, 0, 0, 0⟩,
   ⟨0x088, 1, 4, 0, 0, 0, 0, 0, 0⟩,
   ⟨0x08C, 1, 4, 0, 0, 0, 0, 0, 0xFFFFFFFF⟩,
   ⟨0x100, 32, 4, 0, 0, 0, 0xFFFFFFFF, 0, 0⟩]

/-- The registers of page FLTCFG (17 R477). -/
def rowsFLTCFG : List RegRow :=
[⟨0x040, 1, 4, 0x3E8, 0x3FFF, 0, 0, 0, 0⟩,
   ⟨0x044, 1, 4, 0x3, 0xF, 0, 0, 0, 0⟩,
   ⟨0x048, 1, 4, 0, 0, 0, 0, 0, 0⟩,
   ⟨0x04C, 1, 4, 0, 0x3FFFFFFF, 0, 0, 0, 0⟩,
   ⟨0x100, 64, 4, 0, 0xFFFFFFFF, 0, 0, 0, 0⟩]

/-- The registers of page IC (17 R478). -/
def rowsIC : List RegRow :=
[⟨0x040, 4, 4, 0, 0, 0, 0, 0, 0⟩,
   ⟨0x050, 4, 4, 0, 0, 0, 0, 0, 0⟩,
   ⟨0x060, 1, 4, 0, 0, 0, 0, 0, 0⟩,
   ⟨0x064, 1, 4, 0, 0, 0, 0, 0, 0⟩,
   ⟨0x068, 1, 4, 0, 0, 0, 0, 0, 0xFFFFFFFF⟩,
   ⟨0x06C, 1, 4, 0, 0, 0, 0, 0, 0xFFFFFFFF⟩,
   ⟨0x070, 1, 4, 0, 0, 0, 0, 0, 0xFFFFFFFF⟩,
   ⟨0x080, 8, 4, 0, 0, 0, 0, 0, 0⟩,
   ⟨0x0A0, 8, 4, 0, 0, 0, 0, 0, 0⟩,
   ⟨0x0C0, 8, 4, 0, 0, 0, 0, 0, 0⟩,
   ⟨0x0E0, 8, 4, 0, 0xFFFFFFFF, 0, 0, 0, 0⟩,
   ⟨0x100, 8, 4, 0, 0, 0, 0xFFFFFFFF, 0, 0⟩]

/-- The registers of page ICCFG (17 R479). -/
def rowsICCFG : List RegRow :=
[⟨0x040, 1, 4, 0x100064, 0xFFFFFF, 0, 0, 0, 0⟩,
   ⟨0x044, 1, 4, 0, 0xFFFF, 0, 0, 0, 0⟩,
   ⟨0x100, 32, 4, 0, 0xFFFFFFFF, 0, 0, 0, 0⟩,
   ⟨0x180, 32, 4, 0x11111111, 0xFFFFFFFF, 0, 0, 0, 0⟩,
   ⟨0x200, 8, 4, 0xFFFFFFFF, 0xFFFFFFFF, 0, 0, 0, 0⟩]

/-- The registers of page CTX (18 R495). -/
def rowsCTX : List RegRow :=
[⟨0x040, 1, 4, 0, 0x1F, 0, 0, 0, 0⟩,
   ⟨0x044, 1, 4, 0, 0, 0, 0, 0, 0⟩,
   ⟨0x048, 1, 4, 0, 0, 0, 0, 0, 0⟩,
   ⟨0x04C, 1, 4, 0, 0, 0, 0, 0, 0⟩,
   ⟨0x050, 1, 4, 0, 0, 0, 0, 0, 0xFFFFFFFF⟩,
   ⟨0x054, 1, 4, 0, 0, 0, 0, 0, 0⟩,
   ⟨0x058, 1, 4, 0, 0, 0, 0, 0, 0xFFFFFFFF⟩,
   ⟨0x05C, 1, 4, 0, 0, 0, 0xFFFF, 0, 0⟩,
   ⟨0x060, 1, 4, 0, 0, 0, 0, 0, 0xFFFFFFFF⟩,
   ⟨0x064, 1, 4, 0, 0, 0, 0, 0, 0xFFFFFFFF⟩,
   ⟨0x080, 16, 8, 0, 0, 0, 0, 0, 0⟩,
   ⟨0x084, 16, 8, 0, 0, 0, 0, 0, 0⟩]

/-- The registers of page ATT (18 R496). -/
def rowsATT : List RegRow :=
[⟨0x040, 1, 4, 0, 0, 0, 0, 0, 0⟩,
   ⟨0x044, 1, 4, 0, 0, 0, 0, 0, 0⟩,
   ⟨0x048, 8, 4, 0, 0xFFFFFFFF, 0, 0, 0, 0⟩,
   ⟨0x068, 1, 4, 0, 0xFFC, 0, 0, 0, 0⟩,
   ⟨0x06C, 1, 4, 0, 0, 0, 0, 0, 0⟩,
   ⟨0x070, 1, 4, 0, 0, 0, 0, 0, 0xFFFFFFFF⟩,
   ⟨0x074, 1, 4, 0, 0, 0, 0, 0, 0xFFFFFFFF⟩]

/-- The registers of page MAP (19 R509). -/
def rowsMAP : List RegRow :=
[⟨0x040, 1, 4, 0, 0, 0, 0, 0, 0xFFFFFFFF⟩,
   ⟨0x044, 1, 4, 0, 0, 0, 0, 0, 0xFFFFFFFF⟩,
   ⟨0x048, 1, 4, 0, 0, 0, 0, 0, 0xFFFFFFFF⟩,
   ⟨0x04C, 1, 4, 0, 0, 0, 0, 0, 0xFFFFFFFF⟩,
   ⟨0x050, 1, 4, 0, 0, 0, 0, 0, 0xFFFFFFFF⟩,
   ⟨0x054, 1, 4, 0, 0, 0, 0, 0, 0⟩,
   ⟨0x058, 1, 4, 0, 0, 0, 0, 0, 0⟩]

/-- The registers of page PAD (20 R525). -/
def rowsPAD : List RegRow :=
[⟨0x040, 1, 4, 0, 0xFF0F1F, 0, 0, 0, 0⟩,
   ⟨0x044, 1, 4, 0x55, 0xFF, 0, 0, 0, 0⟩,
   ⟨0x048, 1, 4, 0, 0, 0, 0, 0, 0⟩]

/-- The register table of a page id. -/
def pageRows (p : Nat) : List RegRow :=
  if p = pgTOPO then rowsTOPO
  else if p = pgUNIT then rowsUNIT
  else if p = pgSLICE then rowsSLICE
  else if p = pgSTEP then rowsSTEP
  else if p = pgSTEPC then rowsSTEPC
  else if p = pgCORE then rowsCORE
  else if p = pgCORECFG then rowsCORECFG
  else if p = pgREMAP then rowsREMAP
  else if p = pgMC then rowsMC
  else if p = pgMCCFG then rowsMCCFG
  else if p = pgCMEM then rowsCMEM
  else if p = pgCMCFG then rowsCMCFG
  else if p = pgLIST then rowsLIST
  else if p = pgFAB then rowsFAB
  else if p = pgGRINDCFG then rowsGRINDCFG
  else if p = pgGRIND then rowsGRIND
  else if p = pgDRIP then rowsDRIP
  else if p = pgDRIPCFG then rowsDRIPCFG
  else if p = pgDRIPEP then rowsDRIPEP
  else if p = pgDENSE then rowsDENSE
  else if p = pgDENSECFG then rowsDENSECFG
  else if p = pgEPOCH then rowsEPOCH
  else if p = pgROAST then rowsROAST
  else if p = pgROASTCFG then rowsROASTCFG
  else if p = pgCSIRX then rowsCSIRX
  else if p = pgCSISTAT then rowsCSISTAT
  else if p = pgDEC then rowsDEC
  else if p = pgINGRESS then rowsINGRESS
  else if p = pgINGCFG then rowsINGCFG
  else if p = pgSENSIO then rowsSENSIO
  else if p = pgTMR then rowsTMR
  else if p = pgXBAR then rowsXBAR
  else if p = pgACT then rowsACT
  else if p = pgGPIO then rowsGPIO
  else if p = pgDMA then rowsDMA
  else if p = pgETHCFG then rowsETHCFG
  else if p = pgETH then rowsETH
  else if p = pgMACSEC then rowsMACSEC
  else if p = pgPTPCLK then rowsPTPCLK
  else if p = pgDDR then rowsDDR
  else if p = pgDDRCFG then rowsDDRCFG
  else if p = pgSC then rowsSC
  else if p = pgSD then rowsSD
  else if p = pgPWRC then rowsPWRC
  else if p = pgPWR then rowsPWR
  else if p = pgCLK then rowsCLK
  else if p = pgHOLDUP then rowsHOLDUP
  else if p = pgRST then rowsRST
  else if p = pgRSTC then rowsRSTC
  else if p = pgBOOT then rowsBOOT
  else if p = pgFUSE then rowsFUSE
  else if p = pgIMGLD then rowsIMGLD
  else if p = pgFLT then rowsFLT
  else if p = pgFLTCFG then rowsFLTCFG
  else if p = pgIC then rowsIC
  else if p = pgICCFG then rowsICCFG
  else if p = pgCTX then rowsCTX
  else if p = pgATT then rowsATT
  else if p = pgMAP then rowsMAP
  else if p = pgPAD then rowsPAD
  else []

/-- Pages that hold a field named EN or ENABLE (19 R501). -/
def enPages : List Nat := [pgCMCFG, pgCSIRX, pgDDRCFG, pgDENSECFG, pgDMA, pgETHCFG, pgINGCFG, pgMACSEC, pgMCCFG, pgROASTCFG, pgSENSIO, pgTMR]

/-- Pages of the configuration class (19 R499, R507). -/
def cfgPages : List Nat := [pgTOPO, pgSTEP, pgFAB, pgEPOCH, pgFUSE, pgHOLDUP, pgFLTCFG, pgICCFG, pgSENSIO, pgXBAR, pgACT, pgPAD, pgINGCFG, pgETHCFG, pgMACSEC, pgDDRCFG, pgCSIRX, pgDEC, pgREMAP, pgCMCFG, pgGRINDCFG, pgDRIPCFG, pgROASTCFG, pgCORECFG, pgSLICE, pgMCCFG, pgLIST, pgDENSECFG]

/-- Pages that only MP0–MP3 may write (19 R499, R507). -/
def fwPages : List Nat := [pgTOPO, pgCTX, pgRST, pgFUSE, pgFLT, pgFLTCFG, pgIC, pgICCFG, pgPTPCLK, pgPAD, pgMACSEC, pgDDRCFG, pgREMAP, pgCMCFG]

end Sys2Proof.Machine
end

