-- ==== Sys2Proof/Machine/Tbl.lean ====
section
/-! DEFINITION. Reading and writing the keyed lists of the state. An entry equal to the default is not listed, so that equal
contents are equal lists. -/

namespace Sys2Proof.Machine

/-- The value listed at key k, if any. -/
def Tbl.find {ν : Type} : Tbl ν → Nat → Option ν
  | [], _ => none
  | (j, v) :: r, k => if j = k then some v else Tbl.find r k

/-- The value at key k; `d` where none is listed. -/
def Tbl.get {ν : Type} (d : ν) (t : Tbl ν) (k : Nat) : ν := (Tbl.find t k).getD d

/-- List v at key k, in key order. -/
def Tbl.put {ν : Type} : Tbl ν → Nat → ν → Tbl ν
  | [], k, v => [(k, v)]
  | (j, w) :: r, k, v =>
    if k < j then (k, v) :: (j, w) :: r
    else if j = k then (k, v) :: r
    else (j, w) :: Tbl.put r k v

/-- Unlist key k. -/
def Tbl.del {ν : Type} (t : Tbl ν) (k : Nat) : Tbl ν := t.filter fun p => p.1 != k

/-- Write v at key k; writing the default unlists the key. -/
def Tbl.set {ν : Type} [DecidableEq ν] (d : ν) (t : Tbl ν) (k : Nat) (v : ν) : Tbl ν :=
  if v = d then Tbl.del t k else Tbl.put t k v

/-- Keys strictly rise. -/
def Tbl.sorted {ν : Type} : Tbl ν → Bool
  | [] => true
  | [_] => true
  | (j, _) :: (k, w) :: r => decide (j < k) && Tbl.sorted ((k, w) :: r)

/-- The canonical form: keys strictly rise and no entry is the default. -/
def Tbl.wf {ν : Type} [DecidableEq ν] (d : ν) (t : Tbl ν) : Bool :=
  Tbl.sorted t && t.all fun p => decide (p.2 ≠ d)

end Sys2Proof.Machine
end

