-- ==== Sys2Proof/Machine/State.lean ====
section
/-! DEFINITION. The machine's state: everything the spec gives the block, the queue of commands that wait, and the outcomes a step has. -/

namespace Sys2Proof.Machine

/-- Why a step could stop with a fault. -/
inductive Fault
  /-- An access to an address that no memory of the part has. Raised by no meaning: the spec gives every such access an effect
  (04 R124, 12 R346, 19 R498), and that effect is modelled. Safe. -/
  | noSuchAddress (a : Nat)
deriving DecidableEq, Repr


/-- Why a step could refuse a command. -/
inductive Refusal
  /-- No meaning yet for the command. Raised only by Dispatch's arms. Safe. -/
  | notModelled (mnemonic : String)
deriving DecidableEq, Repr


/-- Phases of a step (02 R54). -/
inductive Phase
  | idle | delivery | integrate | pour | roast
deriving DecidableEq, Repr


/-- The package step machine (02 R54–R83). The step number, RUN, SINGLE and the policies are registers. -/
structure StepSt where
  /-- Where the step is. -/
  phase : Phase := .idle
  /-- start(t), in device time (R56). -/
  start : Nat := 0
  /-- close(t), in device time (R56). -/
  closed : Nat := 0
  /-- The last scheduled frame has ended (R62). -/
  framesDone : Bool := false
  /-- Delivery close has been forced at the deadline or at STEP_STRETCH_MAX (R69, R73). -/
  forceDel : Bool := false
  /-- STEP_STAT.FORCED. -/
  forced : Bool := false
  /-- DELIV_OVER_CNT has counted this step (R69). -/
  overCnt : Bool := false
  /-- The step acts as under DROP after STEP_STRETCH_OVF (R73). -/
  asDrop : Bool := false
  /-- The blocking roast of the step ended at this instant (R72); 0 where none ran. -/
  roastEnd : Nat := 0
  /-- When the pour of the step was broadcast. -/
  poured : Nat := 0
  /-- Array: DONE and DQUIET tokens received from the packages below, one bit per link (R75). -/
  doneTok : Nat := 0
  quietTok : Nat := 0
  /-- Array: the POUR and DCLOSE tokens of the step have arrived, and when (R76). -/
  pourTok : Option Nat := none
  dcloseTok : Option Nat := none
  /-- Array: the package has sent its DQUIET and its DONE of the step. -/
  quietSent : Bool := false
  doneSent : Bool := false
  /-- A package prepared to rejoin has received POUR at this instant and waits for the step number (14 R401). -/
  rejoinAt : Option Nat := none
  /-- Device time of the last delivery close. -/
  dclosedAt : Nat := 0
  /-- Device time at which a drip event of the step last left a queue or was acknowledged (R61, R62). -/
  dripAt : Nat := 0
deriving DecidableEq, Repr


/-- A flit (06 R175): the address word and the word of sub-step [31:24], payload [23:8] and flags [7:0]. -/
structure Ev where
  addr : Word := 0#32
  low : Word := 0#32
deriving DecidableEq, Repr


/-- An event in a cluster's lookup queue: where it came from, the delivery step it was meant for, and whether it is deferred (02 R69). -/
structure Arrival where
  ev : Ev := {}
  fabric : Bool := true
  dstep : Word := 0#32
  late : Bool := false
deriving DecidableEq, Repr


/-- An offer in a core's list queue (05 R149). -/
structure Offer where
  ord : Nat := 0
  arr : Arrival := {}
  /-- Its event's place in the order in which events left the lookup engine (05 R154). -/
  seq : Nat := 0
  /-- Once it has started: the descriptor's bank and offset and CHAIN_BASE's, as they were (05 R174). -/
  lists : Option (Nat × Nat × Nat × Nat) := none
deriving DecidableEq, Repr


/-- A queued per-event handler (04 R120). -/
structure EvHandler where
  ord : Nat := 0
  arr : Arrival := {}
  desc0 : Word := 0#32
  desc1 : Word := 0#32
  /-- MC_ENTRY.EVENT_ENTRY when it was queued (R141). -/
  entry : Nat := 0
deriving DecidableEq, Repr


/-- Kinds of handler (04 R117), numbered as MC_STAT.KIND. -/
inductive Kind
  | neuron | event | message
deriving DecidableEq, Repr


/-- The microcode engine (04 R117–R141). -/
structure Engine where
  running : Bool := false
  kind : Kind := .neuron
  /-- Index of the instruction to execute, or of the last one executed. -/
  pc : Nat := 0
  /-- m1–m15; m0 is never listed (R120). -/
  m : Tbl Word := []
  /-- Core cycles since dispatch (R133). -/
  cyc : Nat := 0
  /-- The delivery step in m7 of a per-event handler (R127). -/
  dstep : Word := 0#32
  /-- The neuron of a per-neuron handler. -/
  neuron : Nat := 0
  /-- The port and ring offset of the record of a per-message handler (R131). -/
  port : Nat := 0
  recAt : Nat := 0
  /-- Device time at which the handler started, and at which the last one ended. -/
  startAt : Nat := 0
  freeAt : Nat := 0
deriving DecidableEq, Repr


/-- What a core still has to do in the integrate phase (04 R132): nothing; neurons from `next` on; the seal; the dense list, which
has begun; events of its dense list that wait for the egress buffer; a slice swap; the replay of the inbox of a slice paged in; or nothing
more. -/
inductive IntStage
  | idle | update (next : Nat) | post | dense | emit (waiting : List Ev) | paging (slice : Nat) | replay (slice : Nat) | finished
deriving DecidableEq, Repr


/-- A core's integrate phase. -/
structure IntegSt where
  stage : IntStage := .idle
  /-- Core cycles of microcode handlers and of double-bit errors so far (R132, R105). -/
  cyc : Nat := 0
  /-- 4-neuron groups with a fixed-path neuron so far, and the last group counted (R132). -/
  groups : Nat := 0
  lastGroup : Option Nat := none
  /-- Every neuron so far ended at rest without firing (03 R95). -/
  atRest : Bool := true
  /-- The phase was forced (02 R71). -/
  forced : Bool := false
  /-- Slices still to page in, in order (01 R43). -/
  slicesLeft : List Nat := []
  /-- Device time at which the phase began, the swap in progress was asked for, and the dense list began. -/
  begun : Nat := 0
  pageAt : Nat := 0
  denseAt : Nat := 0
  /-- Device time at which a seal began that lasts until the core is forced (09 R261). -/
  sealAt : Option Nat := none
  /-- Device time at which the dense list ends (08 R244). -/
  denseEnd : Nat := 0
  /-- Images whose update has begun (01 R43, 03 R110). -/
  images : Nat := 0
  /-- Core cycles a forced core takes to skip its neurons (02 R71). -/
  skipCyc : Nat := 0
deriving DecidableEq, Repr


/-- One entry of the parameter-set commit queue (03 R92). -/
structure PsetCommit where
  set : Nat := 0
  words : List Word := []
deriving DecidableEq, Repr


/-- One entry of the dense descriptor commit queue (08 R256). -/
structure DlCommit where
  layer : Nat := 0
  words : List Word := []
deriving DecidableEq, Repr


/-- An entry of a slice inbox: where it stands, the slice it is for, the core whose list it came from, and the delivery step that the
entry's own bits do not hold (01 R44). -/
structure InboxEnt where
  at_ : Nat := 0
  slice : Nat := 0
  streamer : Nat := 0
  dstep : Word := 0#32
  late : Bool := false
deriving DecidableEq, Repr



/-- A logical core's state that is not a register or a memory. -/
structure CoreSt where
  /-- MC_CTRL, MC_ENTRY, MC_EVT_ORD_LO and MC_EVT_ORD_HI in force while a handler runs, once one of them has been written (04 R141). -/
  mcForce : Option (List Word) := none
  /-- Takes events and takes part in steps (01 R21, 02 R67). -/
  avail : Bool := false
  /-- Core reset is active or held, and when it started (16 R435). -/
  inReset : Bool := false
  rstAt : Nat := 0
  done : Bool := false
  warm : Bool := false
  /-- The ingress holding register (02 R79). -/
  held : List Offer := []
  quiet : Bool := false
  /-- Bit j: slot j has been accumulated into since it was last cleared; bit 0 stands for every ACC of a compact core (03 R95). -/
  touched : BitVec 16 := 0#16
  /-- The list queue (05 R149). -/
  listq : List Offer := []
  /-- The egress buffer (03 R102). -/
  egress : List Ev := []
  psetq : List PsetCommit := []
  /-- Corrected errors of the epoch, and whether CORE_CE_HIGH was raised in it (03 R103). -/
  ceEpoch : Nat := 0
  ceHigh : Bool := false
  eng : Engine := {}
  integ : IntegSt := {}
  /-- Queued per-event handlers (04 R130). -/
  evq : List EvHandler := []
  /-- Events of the step that reached the slice inboxes, oldest first, per slice are in cluster memory; this is the resident slice (01 R43). -/
  resident : Nat := 0
  paging : Bool := false
  /-- The slice inbox, in arrival order (01 R44). -/
  inbox : List InboxEnt := []
  /-- The unit's slice that a swap in flight pages in (R43). -/
  pageTo : Nat := 0
  /-- Slices that a forced step left, with the slot and whether it is folded, to be treated at page-in (02 R71). -/
  left : List (Nat × Nat × Bool) := []
  dlq : List DlCommit := []
  /-- A pending DENSE_BINQ value (08 R256). -/
  binq : Option Word := none
  /-- The trigger ordinal was offered since the last delivery close, and before it (08 R238). -/
  triggered : Bool := false
  trigNow : Bool := false
  /-- Epoch boundaries that had passed when the list last ran (08 R255). -/
  clipSeen : Nat := 0
  /-- MACs not yet counted in DENSE_MAC_CNT (08 R257). -/
  macRem : Nat := 0
deriving DecidableEq, Repr

/-- A port-B access to repeat (05 R160, R162): the lookup of the event at the head of the lookup queue, the scrubber's visit of a bank, or the
oldest pre-trace update, or a window write to a table segment. -/
inductive PortB
  | lookup | scrub (bank : Nat) | preTrace | window (bank off : Nat) (v : Word)
deriving DecidableEq, Repr



/-- A bank's ownership handover and power (05 R158, R168). The owner and the written power states are registers. -/
structure BankSt where
  /-- Power of the owned region in force: 0 ON, 1 RET, 2 OFF. -/
  pwr : Nat := 0
  /-- A wake is in progress; accesses are held. -/
  waking : Bool := false
  /-- A BANK_PWR write recorded during the wake. -/
  recorded : Option Nat := none
  /-- Lines queued for the scrubber after a correction (R164). -/
  scrubLines : List Nat := []
  /-- The next line the scrubber reads in turn (R165). -/
  scrubAt : Nat := 0
  /-- The owned region's contents have been lost in OFF; a wake to ON writes them to zero (R168). -/
  lost : Bool := false
  /-- The owner before a blocking roast took the bank (09 R271). -/
  roastFrom : Option Nat := none
  /-- Writes of the memory path that the bank holds, oldest first: byte offset and bytes (R158, R168). -/
  heldW : List (Nat × List Byte) := []
  /-- Requesters with an access held for the wake (R168). -/
  waiters : List Nat := []
deriving DecidableEq, Repr


/-- An event waiting in a spill queue (06 R189): the flit, its delivery step, its flow class and its destination entry. -/
structure Spilled where
  ev : Ev := {}
  step : Word := 0#32
  dest : Nat := 0
deriving DecidableEq, Repr


/-- An event waiting at the cluster's local port for the injection stage (06 R186). -/
structure PortEv where
  ev : Ev := {}
  /-- Offered by a core's spike or EMIT (an alias member is merged, 01 R33). -/
  ofCore : Bool := true
  /-- The core cycle of the offer times 64, plus the offerer's place in it: the logical core's number, or 32 (R186). -/
  key : Nat := 0
deriving DecidableEq, Repr


/-- A drip flit (07 R202): the word, and whether it is uncorrectable (R230). -/
structure DFlit where
  w : Word := 0#32
  bad : Bool := false
deriving DecidableEq, Repr


/-- The packet that an input buffer of a drip router is passing on: the flits still to come and the outputs it goes to (07 R203). -/
structure DRoute where
  left : Nat := 0
  outs : List Nat := []
  /-- The packet is discarded as it passes. -/
  drop : Bool := false
  /-- Flits of a control packet, which moves whole, that have been checked (R230). -/
  checked : Nat := 0
deriving DecidableEq, Repr


/-- A queued pre-trace update (09 R263). -/
structure PreUpd where
  ord : Nat := 0
  pts : Nat := 0
  psub : Nat := 0
deriving DecidableEq, Repr


/-- An alias event being merged (01 R33): the event without its payload, and the addresses of the members that spiked. -/
structure AliasSt where
  ev : Ev := {}
  members : List Word := []
deriving DecidableEq, Repr



/-- Stages of a roast (09 R272), numbered as ROAST_STAT.STAGE. -/
inductive RStage
  | idle | pass1 | recip | pass2
deriving DecidableEq, Repr


/-- The roast engine (09 R271–R278). -/
structure RoastSt where
  busy : Bool := false
  blocking : Bool := false
  stage : RStage := .idle
  seg : Nat := 0
  /-- The epoch's last step, t_e (R264). -/
  te : Word := 0#32
  /-- Master LFSR state taken at the start (R268). -/
  master : Word := 0#32
  /-- S[n] of the segment (R272) and R[n] of the neurons over NORM (R273). -/
  sums : Tbl Nat := []
  recips : Tbl Nat := []
  /-- Core cycles so far (R274). -/
  cyc : Nat := 0
  /-- Segments whose final lines this roast still has to copy into the checkpoint shadow, each with its first line there, and the first
  segment and the number of the copy (R278). -/
  plan : List (Nat × Nat) := []
  planFirst : Nat := 0
  planCount : Nat := 0
  /-- CKPT_NEXT after the copy, and whether this roast copies at all (R278). -/
  planNext : Nat := 0
  copying : Bool := false
  /-- Device time at which the roast started (R271). -/
  at_ : Nat := 0
  /-- Roasts since the engine was last reset, for CKPT_EVERY (R278). -/
  count : Nat := 0
  /-- A background roast had not ended when the integrate phase of the next epoch's last step began; and its boundary has been counted (R275). -/
  late : Bool := false
  skip : Bool := false
deriving DecidableEq, Repr


/-- Power states of a cluster or of the package (15 R431), numbered as CL_PWR_STAT.STATE. -/
inductive PState
  | brew | steep | cold | toSteep | fromSteep | toCold | fromCold
deriving DecidableEq, Repr


/-- A cluster's state that is not a register or a memory. -/
structure ClusterSt where
  banks : Tbl BankSt := []
  /-- Available (01 R21), in cluster reset, mapped out (03 R111). -/
  avail : Bool := false
  inReset : Bool := false
  mappedOut : Bool := false
  /-- When its reset, or its power sequence in progress, started. -/
  rstAt : Nat := 0
  seqAt : Nat := 0
  /-- Containment: its cores stay held when the reset ends (17 R461). -/
  holdCores : Bool := false
  /-- STEPC_STAT. -/
  done : Bool := false
  dclose : Bool := false
  poured : Bool := false
  doneTime : Nat := 0
  /-- The mapping in force: physical core and sharing of each logical core, as REMAP words (03 R115); unlisted K maps to Y = K. -/
  map : Tbl Word := []
  /-- REMAP and PHYS_RETIRE writes that wait for the advance (03 R115). -/
  retire : Nat := 0
  remapPend : Bool := false
  /-- DEG_RESERVE and DEG_RESERVE_SIZE in force (03 R115). -/
  deg : Word := 0#32
  degSize : Nat := 0
  /-- The lookup queue (05 R148). -/
  lookq : List Arrival := []
  /-- Events that have left the lookup engine (05 R154). -/
  looked : Nat := 0
  /-- Port-B accesses that received BUSY and are to be repeated (05 R162). -/
  retry : List PortB := []
  /-- Local port to the injection stage, alias counts, hold queues, slots passed, spill queue (06 R186–R191). -/
  port : List PortEv := []
  alias_ : Tbl AliasSt := []
  hold : List (Nat × Ev) := []
  passed : Tbl Nat := []
  residue : List (Nat × Ev × Word) := []
  spill : List Spilled := []
  /-- Spills of the integrate phase per flow class, which FCLS_SPILL_CNT takes in at its end (06 R201). -/
  spillCnt : Tbl Nat := []
  /-- The frame sequence list in use (06 R181). -/
  fseq : Nat := 0
  /-- Flits on output and input lanes, keyed by the slot in which they are read and the lane (06 R185). -/
  lanes : Tbl Ev := []
  /-- The next slot of the step, and the next table entry to scrub (06 R180, R197). -/
  slot : Nat := 0
  tblScrub : Nat := 0
  /-- The frame whose sequence entry could not be read and acts as IDLE (06 R197). -/
  idleFrame : Option Nat := none
  /-- Drip input buffers and packets in passage, per port × 2 + channel (07 R203), and packets at the local port. -/
  dbuf : Tbl (List DFlit) := []
  droute : Tbl DRoute := []
  /-- Flits handed to the local side of a packet still arriving, and whole packets that wait there, per channel (0 REQ, 1 RSP). -/
  dlocal : Tbl (List DFlit) := []
  dpkts : Tbl (List (List DFlit)) := []
  /-- RSP packets of the cluster's endpoints that wait for room in the local input buffer. -/
  rspq : List (List DFlit) := []
  /-- The input that each output of a channel served last, plus 1, per output × 2 + channel (07 R203). -/
  turn : Tbl Nat := []
  /-- Events of an EVT packet that wait for the lookup queue, and the source cluster, endpoint and tag its window returns to (R213). -/
  admitq : List Arrival := []
  admitRet : Option (Nat × Nat × Nat) := none
  /-- When the last REQ packet of a local endpoint started, for throttling (07 R215). -/
  lastInj : Nat := 0
  preq : List PreUpd := []
  /-- MOD0–MOD3, as 24-bit words (09 R265). -/
  mods : Tbl Word := []
  roast : RoastSt := {}
  /-- Power (15 R417–R424). -/
  pst : PState := .brew
  pend : Option Nat := none
  waitAdv : Bool := false
  /-- The CL_VTRIM code from which the regulators ramp, and since when (15 R410). -/
  vFrom : Nat := 0x28
  vAt : Nat := 0
  /-- Voltage regulators: bits 0–5 of CL_REG_STAT. -/
  regStat : Nat := 0
  temp : Nat := 0
  /-- The physical cores that the last self-test found bad, as a mask (16 R447). -/
  bist : Nat := 0
deriving DecidableEq, Repr


/-- A Saune-C link and its relay (07 R221, 14 R395–R401). -/
structure LinkSt where
  /-- Packets of the package arriving at the relay, per channel, and whole REQ and RSP packets that wait to cross. -/
  outAsm : Tbl (List DFlit) := []
  out : List (List DFlit) := []
  outRsp : List (List DFlit) := []
  /-- Packets arriving over the link, per channel, and whole REQ and RSP packets that wait to enter the package. -/
  innAsm : Tbl (List DFlit) := []
  inn : List (List DFlit) := []
  innRsp : List (List DFlit) := []
  /-- REQ and RSP packets that the peer's relay has room for (R221). -/
  credQ : Nat := 64
  credS : Nat := 64
  /-- Packets passed on into the package: the credits that CRQ and CRS return (14 R395). -/
  retQ : Nat := 0
  retS : Nat := 0
  /-- Flits of a packet that entered by the link have been lost; the packet is discarded whole (R397). -/
  lost : Tbl Bool := []
  /-- The type and tag of the last barrier token acted on (R397). -/
  lastTok : Option (Nat × Nat) := none
  /-- Bytes of STEPB received since the last POUR (R401). -/
  stepb : List (Nat × Nat) := []
  /-- The peer found at training is not the one that TOPO_POS gives; the link carries no traffic (14 R402). -/
  wrong : Bool := false
  /-- CRQ and CRS as received last (14 R395). -/
  crq : Nat := 0
  crs : Nat := 0
deriving DecidableEq, Repr


/-- What leaves the package. -/
inductive Wire
  | token (link type tag : Nat)
  | flit (link : Nat) (ev : Ev)
  | drip (link : Nat) (flits : List DFlit)
  | stepb (link : Nat) (num : Word)
  | frame (port : Nat) (bytes : List Byte)
  /-- The start of a bus transaction (10 R292): chip select, mode and clock cycles of a half period, or address and speed; what is sent, and how
  many bytes are then read. -/
  | spi (bus select mode half : Nat) (cmd : List Byte) (n : Nat)
  | i2c (bus addr speed : Nat) (reg : Byte) (n : Nat)
  /-- A protected frame: AN and PN of its SecTAG, and the frame before protection. -/
  | secured (port an pn : Nat) (bytes : List Byte)
deriving DecidableEq, Repr


/-- A sender's ticket (04 R128): pending, done or NAK with its reason; the operation, the handle it is for, and when it was sent. -/
structure Ticket where
  used : Bool := false
  st : Nat := 0
  reason : Nat := 0
  /-- 1 OPEN, 2 SEND, 3 CLOSE of a handle, 4 CLOSE of a port, 0 LISTEN, 9 one whose answer nobody waits for. -/
  op : Nat := 0
  handle : Nat := 0
  sentAt : Nat := 0
deriving DecidableEq, Repr


/-- A sender handle (07 R222–R224). -/
structure Handle where
  /-- 0 free, 1 opening, 2 open, 3 closed by a NAK, 4 closing. -/
  st : Nat := 0
  dst : Nat := 0
  port : Nat := 0
  conn : Nat := 0
  epoch : Nat := 0
deriving DecidableEq, Repr


/-- A receive connection slot (07 R222). -/
structure Slot where
  /-- 0 CLOSED, 1 OPEN, 2 CLOSING. -/
  st : Nat := 0
  epoch : Nat := 0
  /-- Sender endpoint address and port. -/
  sender : Nat := 0
  port : Nat := 0
  /-- A CLOSE_ACK that waits for the drain: return address word. -/
  ackTo : Option Word := none
deriving DecidableEq, Repr


/-- A listening port (04 R128, 07 R226). -/
structure Listener where
  on : Bool := false
  base : Nat := 0
  size : Nat := 0
  entry : Nat := 0
  head : Nat := 0
  tail : Nat := 0
  used : Nat := 0
  closing : Bool := false
  /-- The tickets that complete when the port is freed (07 R224). -/
  tickets : List Nat := []
deriving DecidableEq, Repr


/-- A message under reservation, or being discarded (07 R225). -/
structure Resv where
  used : Bool := false
  discard : Bool := false
  port : Nat := 0
  /-- Ring offset of its header. -/
  at_ : Nat := 0
  mlen : Nat := 0
  got : Nat := 0
  /-- The EPOCH of the message's segments. -/
  epoch : Nat := 0
deriving DecidableEq, Repr


/-- A message that waits for its handler (04 R131). -/
structure MsgRec where
  conn : Nat := 0
  port : Nat := 0
  at_ : Nat := 0
  len : Nat := 0
deriving DecidableEq, Repr


/-- A REQ packet whose window place has not come back (07 R212–R214). -/
structure Outstanding where
  dcl : Nat := 0
  evt : Bool := false
  step : Nat := 0
  at_ : Nat := 0
deriving DecidableEq, Repr


/-- A drip endpoint (07 R205–R228). Its key is cluster × 64 + endpoint number. -/
structure EpSt where
  /-- The drip egress queue (07 R216). -/
  q : List Spilled := []
  /-- REQ packets, with the clusters whose window places they need, that wait to leave (R212). -/
  txq : List (List DFlit × List Nat) := []
  /-- When the last event joined it. -/
  lastAt : Nat := 0
  sent : List Outstanding := []
  tickets : Tbl Ticket := []
  handles : Tbl Handle := []
  slots : Tbl Slot := []
  ports : Tbl Listener := []
  resv : Tbl Resv := []
  /-- Dispatch queue of whole messages, and reserved places in it. -/
  msgq : List MsgRec := []
  reserved : Nat := 0
  /-- Messages whose handler has not ended: unhandled per slot. -/
  live : List MsgRec := []
deriving DecidableEq, Repr


/-- A word in a receiver's input FIFO (10 R285): the word, and the device time at which its packet's header arrived. -/
structure CsiWord where
  w : Word := 0#32
  vc : Nat := 0
  at_ : Nat := 0
deriving DecidableEq, Repr


/-- A CSI-2 receiver (10 R284–R291). -/
structure CsiSt where
  hs : Bool := false
  ulps : Bool := false
  fifo : List CsiWord := []
  /-- Latched Y, P and TL; TH, THX and the previous event's T (R287, R288). -/
  y : Nat := 0
  p : Nat := 0
  tl : Nat := 0
  th : Nat := 0
  thx : Nat := 0
  lastT : Option Nat := none
  /-- TS_OFFSET in force (R304). -/
  offset : Int := 0
  /-- A frame is in progress; it is dropped; a packet of it failed CRC; its next row (R290, R291). -/
  inFrame : Bool := false
  dropped : Bool := false
  bad : Bool := false
  row : Nat := 0
  active : Nat := 0
deriving DecidableEq, Repr


/-- A raw event on an ingress port (10 R283): ID, payload, flags and device timestamp. -/
structure RawEv where
  port : Nat := 0
  id : Nat := 0
  pay : Nat := 1
  flags : Nat := 0
  dt : Int := 0
deriving DecidableEq, Repr


/-- A merged event of a bank (10 R299): payload, sub-step, flags, and the cluster its port attaches at (R41). -/
structure Merged where
  pay : Nat := 0
  sub : Nat := 0
  flg : Nat := 0
  cl : Nat := 0
deriving DecidableEq, Repr


/-- The ingress unit of a quadrant (10 R295–R302). -/
structure IngSt where
  /-- Raw events between the decoder and the port lookup, and the port served last (R283). -/
  raw : List RawEv := []
  turn : Nat := 15
  /-- The open bank: which, its touched list and its store. -/
  bank : Nat := 0
  touched : List Nat := []
  store : Tbl Merged := []
  /-- The closed bank's events that are still to be offered, in touched order. -/
  offers : List (Nat × Merged) := []
  /-- RATE and DEPTH in force of limiters with a pending write of word 0 (R298, R302). -/
  limOld : Tbl Word := []
  limPend : List Nat := []
  /-- Limiters that dropped in the step in progress, and of those that count: how many steps running before it, and whether the count has reached
  STUCK_STEPS (R301). -/
  limDrop : List Nat := []
  stuck : Tbl (Nat × Bool) := []
  /-- Limiters that act as MUTE for the step after an uncorrectable record (R302). -/
  limMute : List Nat := []
deriving DecidableEq, Repr


/-- A sensor bus (10 R292): the descriptor whose transaction runs, since when each held-back descriptor waits, and when each is next due. -/
structure BusSt where
  running : Option Nat := none
  waits : Tbl Nat := []
  next : Tbl Nat := []
deriving DecidableEq, Repr


/-- A crossbar pulse on its way: its sink, when its source fired, and when it reaches the sink (11 R326). -/
structure Pulse where
  sink : Nat
  fired : Nat
  at_ : Nat
deriving DecidableEq, Repr


/-- A timer beyond its registers (11 R312–R321). -/
structure TmrSt where
  /-- Gated ticks that step marks or wraps of the timer before it have given, and that it has still to take (11 R312). -/
  due : Nat := 0
  /-- Device time of its last tick of PCLK or of the always-on clock. -/
  tickAt : Option Nat := none
  /-- Device time at which a pulse last stopped it (11 R328). -/
  stopAt : Option Nat := none
  /-- The PWM output is active, before polarity. -/
  pwm : Bool := false
  /-- The width counter of the pulse in progress. -/
  width : Option Nat := none
  /-- The gate was at GATE_LVL when Steep was entered (R318). -/
  gated : Bool := false
deriving DecidableEq, Repr


/-- An actuator map entry beyond its words (11 R323–R325). -/
structure ActSt where
  acc : Int := 0
  got : Bool := false
  /-- The instant the timeout is measured from. -/
  since : Nat := 0
  /-- A duty of a delivery close on its way to the shadow: when it lands, and its value (11 R324). -/
  pend : Option (Nat × Word) := none
deriving DecidableEq, Repr


/-- An injection slot's open bin (11 R330). -/
structure InjSt where
  count : Nat := 0
  sub : Nat := 0
deriving DecidableEq, Repr


/-- One side of a DMA transfer (12 R339, R340): the next list entry, and what is left of the current one. -/
structure DmaSide where
  ent : Nat := 0
  addr : Nat := 0
  left : Nat := 0
  last : Bool := false
deriving DecidableEq, Repr


/-- A DMA channel (12 R341–R346). Its key is 16 × engine + channel. -/
structure DmaSt where
  busy : Bool := false
  latched : Bool := false
  /-- The last write has been made; the completion has still to fire. -/
  fin : Bool := false
  src : DmaSide := {}
  dst : DmaSide := {}
  /-- Bytes read and not yet written, with those of uncorrectable words flagged (12 R340, R346). -/
  buf : List (Byte × Bool) := []
  /-- The cluster and bank that its next access is held for (05 R158, R168). -/
  hold : Option (Nat × Nat) := none
  /-- The fabric cycle in which it was last aborted (12 R348). -/
  abortAt : Option Nat := none
deriving DecidableEq, Repr


/-- A transmit frame: its kind (0 RCP, 1 REF, 2 firmware), destination, EtherType, payload, and the events it carries (13 R355, R374). -/
structure TxFrame where
  kind : Nat := 0
  dst : Nat := 0
  etype : Nat := 0
  payload : List Byte := []
  events : Nat := 0
deriving DecidableEq, Repr


/-- A frame in the receive buffer (13 R354): what arrived, whether it came through a valid SA, and the device and PTP time of arrival. -/
structure RxFrame where
  src : Nat := 0
  etype : Nat := 0
  payload : List Byte := []
  len : Nat := 0
  secure : Bool := false
  dev : Nat := 0
  ptp : Nat := 0
deriving DecidableEq, Repr


/-- A REQ that waits for execution, or executes (13 R366, R367): session slot, SEQ, operations still to run and response words so far. -/
structure RcpReq where
  sess : Nat := 0
  seq : Word := 0#32
  count : Nat := 0
  ops : List Word := []
  resp : List Word := []
  /-- The frame status it is refused with, 0 for none. -/
  status : Nat := 0
  /-- The operation in progress has sent its request or has first polled: when, and the ticket it waits on. -/
  since : Option Nat := none
  tkt : Nat := 0
deriving DecidableEq, Repr


/-- A MSG_IN frame that the host has not acknowledged (13 R371). -/
structure MsgIn where
  seq : Word := 0#32
  payload : List Byte := []
  sentAt : Nat := 0
  resends : Nat := 0
  /-- Port and ring offset of each message it carries. -/
  recs : List (Nat × Nat) := []
deriving DecidableEq, Repr


/-- An RCP session (13 R365). -/
structure Session where
  id : Nat := 0
  mac : Nat := 0
  /-- The highest REQ received in order, and the SEQ of the last MSG_IN sent. -/
  x : Word := 0#32
  tx : Word := 0#32
  /-- The last responses, with their SEQ, oldest first. -/
  cache : List (Word × List Byte) := []
  heard : Nat := 0
  /-- MSG_IN frames beyond ACKSEQ that the host accepts. -/
  win : Nat := 16
  unacked : List MsgIn := []
deriving DecidableEq, Repr


/-- A gate list in operation or pending: base, cycle and entries (13 R356, R357). -/
structure Gates where
  base : Nat := 0
  cycle : Nat := 1000000
  len : Nat := 1
deriving DecidableEq, Repr


/-- An Ethernet port (13 R349–R377). -/
structure EthSt where
  rx : List RxFrame := []
  /-- RCP frames drained from the buffer; REQs queued for execution, the first in execution. -/
  rcpIn : List RxFrame := []
  reqs : List RcpReq := []
  /-- REF frames in the input FIFO with the records taken; firmware's receive queue. -/
  refIn : List (RxFrame × Nat) := []
  fwq : List RxFrame := []
  /-- Transmit queues, frames that wait for room in one, when the frame on the wire ends, and timestamps (device, PTP) of sent firmware frames. -/
  tq : Tbl (List TxFrame) := []
  txWait : List (Nat × TxFrame) := []
  txFree : Nat := 0
  stamps : List (Nat × Nat) := []
  gates : Gates := {}
  /-- A pending change: the instant in PTP ns, and the lists' base, cycle and length. -/
  change : Option (Nat × Gates) := none
  /-- REF output buffer: STEP, BASE and flit of each event; the first `refShut` belong to steps whose delivery has closed. -/
  refOut : List (Word × Nat × Ev) := []
  refShut : Nat := 0
  refTxSeq : Nat := 0
  refRxSeq : Option Nat := none
  /-- The transmit SA has run out of packet numbers, and MS_TX_AN has not been written since (13 R361). -/
  pnOut : Bool := false
  sessions : Tbl Session := []
  /-- Session slot that owns each gateway handle and each listened port; ring bases are the listeners'. -/
  owner : Tbl Nat := []
  ports : Tbl Nat := []
deriving DecidableEq, Repr


/-- A DDR5 channel beyond its registers (14 R386–R392). -/
structure DdrSt where
  /-- 0 no training, 1 full, 2 periodic. -/
  training : Nat := 0
  /-- The patrol scrubber's next burst. -/
  scrubAt : Nat := 0
  /-- Device time of its last read, and at which training last ended. -/
  scrubbed : Option Nat := none
  trained : Option Nat := none
  /-- Requests that the memory path holds, oldest first; and the bursts in the read and write queues of the two subchannels. -/
  waiting : List DdrReq := []
  rq : Tbl (List Nat) := []
  wq : Tbl (List Nat) := []
deriving DecidableEq, Repr


/-- A checkpoint set (09 R279): the context it belongs to, and cluster, segment and cells of each segment copied. -/
structure CkptSet where
  ctx : Nat := 0
  segs : List (Nat × Nat × List Host.Cell) := []
deriving DecidableEq, Repr


/-- An operation on the boot flash that waits for its hold-up check (15 R429): the erase of a 4 KiB sector or a program of up to 4 KiB, and
what it belongs to: 0 firmware slot, 1 firmware records, 2 a checkpoint set, 3 a destroyed context. -/
structure FlashOp where
  job : Nat := 0
  erase : Bool := true
  addr : Nat := 0
  data : List Byte := []
  /-- The checkpoint set whose last chunk this is. -/
  set : Option CkptSet := none
deriving DecidableEq, Repr


/-- The package's power and reset state (15 R420–R425, 16 R435–R438). -/
structure PkgSt where
  pst : PState := .brew
  pend : Option Nat := none
  /-- Power-on reset or RESET_N holds the package. -/
  inReset : Bool := false
  /-- The reset has been released, or Cold has been left, and the ROM has still to start firmware. -/
  booting : Bool := true
  /-- The licence set has not been evaluated since power-on or Cold (R448). -/
  licDue : Bool := true
  /-- When the power sequence in progress started, and when each PLL that has still to lock did (15 R422, R427). -/
  seqAt : Nat := 0
  pllAt : Tbl Nat := []
  /-- THERMAL forced Cold. -/
  thermal : Bool := false
  pwrGood : Bool := true
  /-- A Cold exit waits for power-good. -/
  railWait : Bool := false
  /-- The save area holds register images that no rule lays out (R416). -/
  saved : Bool := false
  /-- When the compute reset in progress started, and whether it abandoned a step. -/
  rstStart : Nat := 0
  /-- When its interval in progress began. -/
  rstAt : Nat := 0
  abandoned : Bool := false
  /-- The fuse blow in progress, as FUSE_PROG names it. -/
  blow : Option Nat := none
  /-- Blows asked of firmware (18 R494). -/
  blowMsgs : List Nat := []
  /-- A debugger has attached since the last reset (18 R493). -/
  attached : Bool := false
deriving DecidableEq, Repr


/-- What firmware keeps (16 R439–R450, 09 R279): the flash's firmware records, the running image's core records, the network boot transfer,
the loads asked for, the flash operations that wait, and the checkpoint set in progress. -/
structure FwSt where
  /-- Retired physical cores by cluster; soft repairs as cluster, SR_SEL and SR_DATA; licence records. -/
  retired : Tbl Nat := []
  /-- Corrected errors per column, 256 × (32 × cluster + bank) + column: the lines and when (05 R167). CORE_CE_HIGH raises per physical core,
  64 × cluster + number, and when, and the physical cores to retire (03 R106). -/
  ceLines : Tbl (List (Nat × Nat)) := []
  ceHighs : List (Nat × Nat) := []
  retireDue : List Nat := []
  /-- Contexts whose loaded schedule a mapped-out cluster has invalidated: firmware asks the host for a reload of each (01 R49). -/
  stale : List Nat := []
  repairs : List (Nat × Word × Word) := []
  licences : List LicRec := []
  newLicences : List LicRec := []
  recs : List CfgRec := []
  coreDigest : BitVec 512 := 0
  /-- Network boot: asked for, the image's length and the host once offered, and the next expected offset. -/
  net : Bool := false
  offer : Option Nat := none
  nextOff : Nat := 0
  host : Nat := 0
  loads : List (Nat × Image) := []
  flash : List FlashOp := []
  /-- Device time at which the flash operation at the head first failed its check. -/
  huFrom : Option Nat := none
  /-- The set in progress, the last complete set in DDR5, and the one in flash; the flash area the next set goes to. -/
  setNow : CkptSet := {}
  setDone : CkptSet := {}
  setFlash : CkptSet := {}
  area : Nat := 0
deriving DecidableEq, Repr


/-- The fault collector and the interrupt controller beyond their registers (17 R456–R475). -/
structure FltSt where
  /-- Log entries: first word, step and unit. -/
  log : List (Word × Word × Word) := []
  /-- Quiet cycles counted, and since when the timer counts. -/
  quiet : Nat := 0
  quietFrom : Option Nat := none
  /-- Starts of recoveries whose outage has not ended. -/
  outages : List Nat := []
  /-- The MP that has claimed each source, plus 1. -/
  active : Tbl Nat := []
  swi : Word := 0#32
  /-- Storm counts; open guard windows, 1 or 2 where the level was low or high at COMPLETE, and when each closes. -/
  storm : Tbl Nat := []
  guard : Tbl Nat := []
  guardEnd : Tbl Nat := []
deriving DecidableEq, Repr


/-- A context's save area (18 R482). -/
structure CtxSave where
  mem : List Host.Cell := []
  marks : Tbl Nat := []
  regs : Tbl Word := []
  tabs : Tbl Word := []
  cores : Tbl CoreSt := []
  mods : Tbl (Tbl Word) := []
  step : Word := 0#32
  pos : Nat := 0
  num : Word := 0#32
  epochs : Nat := 0
deriving DecidableEq, Repr


/-- A context (18 R480): its image, its save area, and its last state checkpoint. -/
structure CtxSt where
  img : Option Image := none
  save : Option CtxSave := none
  ckpt : Option CtxSave := none
deriving DecidableEq, Repr


/-- The context switch in progress (18 R484–R486). -/
structure SwitchSt where
  /-- The interval, 0 for none. -/
  stage : Nat := 0
  /-- The outgoing context, if one was resident, and the incoming one. -/
  out : Option Nat := none
  to_ : Nat := 0
  start : Nat := 0
  /-- When the interval in progress began. -/
  at_ : Nat := 0
  /-- The incoming context of a switch that a compute reset abandoned. -/
  owed : Option Nat := none
  /-- The next start of a step begins with the integrate phase. -/
  resume : Bool := false
deriving DecidableEq, Repr

/-- How a management access ended, as RCP reports it (13 R368). -/
inductive Status
  | ok | nopage | unavail | denied | timeout
deriving DecidableEq, Repr


/-- The answer of a management access: the value read (0 for a write) and its status. -/
structure Resp where
  value : Word := 0#32
  status : Status := .ok
deriving DecidableEq, Repr


/-- A fault raise on its way to the collector (17 R456). -/
structure Report where
  src : Nat := 0
  unit : FUnit := .pkg 0
  step : Word := 0#32
  /-- When it was made. -/
  at_ : Nat := 0
  /-- The unit as firmware wrote it, for a raise through FLT_RAISE. -/
  raw : Option Word := none
deriving DecidableEq, Repr


/-- A wait whose cycles a counter counts (07 R212, R215, 12 R345; log 11): the counter's register, the length of its cycle in fabric cycles, the device time at which the next
cycle to be counted begins, and the cycles counted so far. -/
structure Wait where
  page : Nat := 0
  off : Nat := 0
  unit : Nat := 0
  per : Nat := 1
  next : Nat := 0
  n : Nat := 0
deriving DecidableEq, Repr



/-- Everything the spec gives the block. -/
structure Hw where
  /-- Device time: fabric cycles since power-on reset (10 R288). -/
  dev : Nat := 0
  /-- PTP time in units of 2^-30 ns (13 R358). -/
  ptp : Nat := 0
  /-- All byte-addressed memories; an unlisted byte reads 0. -/
  mem : List Host.Cell := []
  /-- Words with wrong bits, keyed by byte address div 4: 1 + b for the single wrong bit b of the codeword, 40 for two; an unlisted
  word is good (05 R164). -/
  marks : Tbl Nat := []
  /-- Registers away from their reset values (19 R507), keyed by page, unit and offset. -/
  regs : Tbl Word := []
  /-- Tables behind address–data windows (19 R528), keyed by table, unit and index. -/
  tabs : Tbl Word := []
  step : StepSt := {}
  cores : Tbl CoreSt := []
  clusters : Tbl ClusterSt := []
  eps : Tbl EpSt := []
  links : Tbl LinkSt := []
  csis : Tbl CsiSt := []
  ings : Tbl IngSt := []
  buses : Tbl BusSt := []
  /-- The ADC sequencer's next slot (10 R293). -/
  adcSlot : Nat := 0
  /-- Device time at which the ADC's last conversion ended (10 R293). -/
  adcAt : Nat := 0
  /-- The last direction of each level-crossing encoder: 1 UP, 2 DOWN (10 R294). -/
  lceLast : Tbl Nat := []
  tmrs : Tbl TmrSt := []
  acts : Tbl ActSt := []
  injs : Tbl InjSt := []
  dmas : Tbl DmaSt := []
  /-- The channel that each engine served last, plus 1 (12 R338). -/
  dmaTurn : Tbl Nat := []
  eths : Tbl EthSt := []
  ddrs : Tbl DdrSt := []
  /-- The package reports itself unavailable on its links until it rejoins (14 R400, R401). -/
  uaHold : Bool := false
  /-- PTP_STEP of the step before the one in progress (13 R377), in ns. -/
  ptpPrev : Nat := 0
  /-- Management processors that a debugger halts, one bit each (11 R320). -/
  mpHalted : Word := 0#32
  pkg : PkgSt := {}
  fw : FwSt := {}
  flt : FltSt := {}
  sw : SwitchSt := {}
  ctxs : Tbl CtxSt := []
  /-- An attestation report has been asked for and its snapshot has not been taken (18 R492). -/
  attWait : Bool := false
  /-- The report being signed or last signed, in words. -/
  attReport : List Word := []
  /-- The model's own: what has left the package, oldest first. -/
  wire : List Wire := []
  /-- Raises the collector has not taken yet. -/
  reports : List Report := []
  /-- Crossbar pulses that have not reached their sinks yet (11 R326). -/
  pulses : List Pulse := []
  /-- Device time at which each GPIO filter last accepted a level (11 R311). -/
  gpioAt : Tbl Nat := []
  /-- The model's own: the answer of the last management access. -/
  resp : Resp := {}
  /-- Epoch boundaries since compute reset (08 R255, 09 R260). -/
  epochs : Nat := 0
  /-- Waits in progress, keyed by the counter's register and the waiting unit. -/
  waits : Tbl Wait := []
  /-- The model's own: how many free values have been read. -/
  fresh : Nat := 0
deriving DecidableEq, Repr


/-- The machine: the commands that wait, first in first out, and the block. -/
structure State where
  pending : List Instr
  hw : Hw
deriving DecidableEq, Repr


/-- The machine right after reset. -/
def State.reset : State := { pending := [], hw := {} }

end Sys2Proof.Machine
end

