-- ==== Sys2Proof/Machine/Ops.lean ====
section
/-! DEFINITION. The named operations over registers, tables, memory, units and time that every meaning is written in. -/

namespace Sys2Proof.Machine

/-- How every meaning answers: the block moves on. -/
abbrev Out := Host.Outcome State Fault Refusal

/-- The package is out of RESET_N and has power and clocks: not in, nor on the way out of, Steep or Cold (15 R413, R421, 16 R435). -/
def Hw.powered (h : Hw) : Bool :=
  !h.pkg.inReset && (match h.pkg.pst with
    | .steep | .fromSteep | .cold | .fromCold => false
    | _ => true)

/-- The state with the block changed and the queue as it was; a package without power or in reset stays as it is (log 3). -/
def State.onHw (s : State) (f : Hw → Hw) : Out := .next { s with hw := if s.hw.powered then f s.hw else s.hw }

/-- The same for what the always-on domain and the pins do in every package state. -/
def State.onAo (s : State) (f : Hw → Hw) : Out := .next { s with hw := f s.hw }

/-! ### Registers (00 R15, 19 R507) -/

/-- The reset severity of a fault source (17 R457–R459). -/
def sevReset (src : Nat) : Nat :=
  if src < 0x300 then [2, 1, 2, 1, 1, 1, 1, 1, 1, 1, 2, 3].getD (src % 12) 0
  else if src < 0x3C0 then
    [1, 0, 1, 1, 1, 1, 1, 1, 2, 1, 1, 1, 1, 1, 0, 1, 1, 1, 0, 0, 0, 2, 2, 2, 1, 2, 2, 2, 3].getD ((src - 0x300) % 48) 0
  else if src = 0x3C1 then 1 else if src = 0x3C2 then 1 else if src = 0x3C5 then 1
  else if 0x3C8 ≤ src ∧ src ≤ 0x3CF then 1 else 0

/-- The reset value of FLT_SEV[i] (17 R477). -/
def sevWord (i : Nat) : Word :=
  w32 ((List.range 16).foldl (fun a j => a + sevReset (16 * i + j) * 2 ^ (2 * j)) 0)

/-- The row of a register table that holds an offset. -/
def rowOf (page off : Nat) : Option RegRow :=
  (pageRows page).find? fun r => decide (r.off ≤ off) && decide ((off - r.off) % r.stride = 0) && decide ((off - r.off) / r.stride < r.cnt)

/-- The value of a register right after reset: its table's, or the rule's where the table names one. -/
def resetVal (r : Rg) (u : Nat) : Word :=
  if r.page = pgREMAP ∧ 0x040 ≤ r.off ∧ r.off < 0x0C0 then w32 ((r.off - 0x040) / 4)
  else if r.page = pgCMCFG ∧ 0x040 ≤ r.off ∧ r.off < 0x0C0 then w32 ((r.off - 0x040) / 4)
  else if r.page = pgFLTCFG ∧ 0x100 ≤ r.off ∧ r.off < 0x200 then sevWord ((r.off - 0x100) / 4)
  else if r.page = pgFUSE ∧ 0x040 ≤ r.off ∧ r.off < 0x050 then Config.devId ((r.off - 0x040) / 4)
  else if r.page = pgFUSE ∧ r.off = 0x050 then Config.fuseFlags
  else if r.page = pgFUSE ∧ r.off = 0x054 then w32 Config.licAr
  else if r.page = pgFUSE ∧ 0x080 ≤ r.off then Config.rootKeyHash ((r.off - 0x080) / 4)
  else if r.page = pgPWRC ∧ r.off = 0x048 then
    setBits (setBits 0x28#32 13 8 (Config.vmin u)) 21 16 0x28
  else match rowOf r.page r.off with
    | some row => w32 row.reset
    | none => 0#32

/-- The key of a register of a unit. -/
def rk (r : Rg) (u : Nat) : Nat := Nat.pair r.page (Nat.pair u r.off)

/-- The value a register holds. -/
def Hw.reg (h : Hw) (r : Rg) (u : Nat := 0) : Word := (Tbl.find h.regs (rk r u)).getD (resetVal r u)

/-- Write a register whole. -/
def Hw.setReg (h : Hw) (r : Rg) (u : Nat) (v : Word) : Hw :=
  { h with regs := if v = resetVal r u then Tbl.del h.regs (rk r u) else Tbl.put h.regs (rk r u) v }

/-- Bits [hi:lo] of a register. -/
def Hw.fld (h : Hw) (r : Rg) (u hi lo : Nat) : Nat := bits (h.reg r u) hi lo

/-- Bit i of a register. -/
def Hw.flag (h : Hw) (r : Rg) (u i : Nat) : Bool := bit (h.reg r u) i

/-- Write bits [hi:lo] of a register. -/
def Hw.setFld (h : Hw) (r : Rg) (u hi lo v : Nat) : Hw := h.setReg r u (setBits (h.reg r u) hi lo v)

/-- Write bit i of a register. -/
def Hw.setFlag (h : Hw) (r : Rg) (u i : Nat) (b : Bool) : Hw := h.setFld r u i i (b2n b)

/-- Count n, saturating at 0xFFFF_FFFF (00 R12). -/
def Hw.inc (h : Hw) (r : Rg) (u : Nat := 0) (n : Nat := 1) : Hw := h.setReg r u (satAdd32 (h.reg r u) n)

/-- A page's PG_CTRL.EN in force (19 R500, R501). -/
def pgCtrl (p : Nat) : Rg := ⟨p, 0x008⟩
def pgFlt (p : Nat) : Rg := ⟨p, 0x010⟩
def pgFltMask (p : Nat) : Rg := ⟨p, 0x014⟩
def pgOwner (p : Nat) : Rg := ⟨p, 0x018⟩
def pgLock (p : Nat) : Rg := ⟨p, 0x01C⟩

/-- PG_CTRL.EN: RO 1 on a page with no field EN or ENABLE; bit 0 of the stored word is EN inverted, so that an unlisted word is EN = 1. -/
def Hw.pgEn (h : Hw) (p u : Nat) : Bool := !(decide (p ∈ enPages) && bit (h.reg (pgCtrl p) u) 0)

/-- An EN or ENABLE field in force: bit i of a register, while its page's PG_CTRL.EN is 1 (19 R501). -/
def Hw.en (h : Hw) (r : Rg) (u i : Nat) : Bool := h.pgEn r.page u && h.flag r u i

/-- Raise a high-water mark to n. -/
def Hw.hwm (h : Hw) (r : Rg) (u n : Nat) : Hw := if (h.reg r u).toNat < n then h.setReg r u (w32 n) else h

/-- The package is in Steep and keeps port q (15 R421). -/
def Hw.kept (h : Hw) (q : Nat) : Bool := !h.pkg.inReset && decide (h.pkg.pst = .steep) && h.flag PKG_STEEP_CFG 0 q

/-- As `onHw`, for what port q does, which a package in Steep may keep. -/
def State.onPort (s : State) (q : Nat) (f : Hw → Hw) : Out := .next { s with hw := if s.hw.powered || s.hw.kept q then f s.hw else s.hw }

/-! ### Tables behind windows (19 R528) -/

/-- The tables held in SRAM. -/
inductive Tab
  | gt | fseq | flow | dest | dtree | xtag | itag | seg | rule | hotpix | ft | lim | poll | pollRes | lce | act | gcl | sa | spare | attRep
deriving DecidableEq, Repr

/-- Number of a table. -/
def Tab.code : Tab → Nat
  | .gt => 0 | .fseq => 1 | .flow => 2 | .dest => 3 | .dtree => 4 | .xtag => 5 | .itag => 6 | .seg => 7 | .rule => 8 | .hotpix => 9
  | .ft => 10 | .lim => 11 | .poll => 12 | .pollRes => 13 | .lce => 14 | .act => 15 | .gcl => 16 | .sa => 17 | .spare => 18 | .attRep => 19

/-- The key of a table's word. -/
def tk (t : Tab) (u i : Nat) : Nat := Nat.pair t.code (Nat.pair u i)

/-- A word of a table of a unit. -/
def Hw.tab (h : Hw) (t : Tab) (u i : Nat) : Word := Tbl.get 0#32 h.tabs (tk t u i)

/-- Write a word of a table. -/
def Hw.setTab (h : Hw) (t : Tab) (u i : Nat) (v : Word) : Hw := { h with tabs := Tbl.set 0#32 h.tabs (tk t u i) v }

/-! ### Units -/

def Hw.core (h : Hw) (k : Nat) : CoreSt := Tbl.get {} h.cores k

def Hw.setCore (h : Hw) (k : Nat) (c : CoreSt) : Hw := { h with cores := Tbl.set {} h.cores k c }

def Hw.updCore (h : Hw) (k : Nat) (f : CoreSt → CoreSt) : Hw := h.setCore k (f (h.core k))

def Hw.cl (h : Hw) (c : Nat) : ClusterSt := Tbl.get {} h.clusters c

def Hw.setCl (h : Hw) (c : Nat) (v : ClusterSt) : Hw := { h with clusters := Tbl.set {} h.clusters c v }

def Hw.updCl (h : Hw) (c : Nat) (f : ClusterSt → ClusterSt) : Hw := h.setCl c (f (h.cl c))

def Hw.bank (h : Hw) (c b : Nat) : BankSt := Tbl.get {} (h.cl c).banks b

def Hw.updBank (h : Hw) (c b : Nat) (f : BankSt → BankSt) : Hw :=
  h.updCl c fun v => { v with banks := Tbl.set {} v.banks b (f (Tbl.get {} v.banks b)) }

/-- The endpoint whose key is cluster × 64 + endpoint number. -/
def Hw.ep (h : Hw) (e : Nat) : EpSt := Tbl.get {} h.eps e

def Hw.setEp (h : Hw) (e : Nat) (v : EpSt) : Hw := { h with eps := Tbl.set {} h.eps e v }

def Hw.updEp (h : Hw) (e : Nat) (f : EpSt → EpSt) : Hw := h.setEp e (f (h.ep e))

/-- The endpoint key of a logical core (07 R205). -/
def epOfCore (k : Nat) : Nat := (k / 32) * 64 + k % 32

/-- The logical cores of a cluster. -/
def coresOf (c : Nat) : List Nat := (List.range 32).map (32 * c + ·)

def Hw.setStep (h : Hw) (v : StepSt) : Hw := { h with step := v }

def Hw.updStep (h : Hw) (f : StepSt → StepSt) : Hw := h.setStep (f h.step)

/-! ### Time -/

/-- Cycles of a wait that begin before an instant and are still uncounted. -/
def Wait.due (w : Wait) (t : Nat) : Nat := if w.next < t then ceilDiv (t - w.next) w.per else 0

/-- Count the cycles of the wait at a key that begin before an instant. -/
def Hw.countWait (h : Hw) (key : Nat) (w : Wait) (t : Nat) : Hw :=
  let m := w.due t
  if m = 0 then h
  else { h.inc ⟨w.page, w.off⟩ w.unit m with waits := Tbl.put h.waits key { w with next := w.next + m * w.per, n := w.n + m } }

/-- The cycles of every wait in progress that begin before an instant. -/
def Hw.countWaits (h : Hw) (t : Nat) : Hw := h.waits.foldl (fun h p => h.countWait p.1 p.2 t) h

/-- The key of a wait: the counter's register and unit, and who waits. -/
def waitKey (r : Rg) (u who : Nat) : Nat := Nat.pair (rk r u) who

/-- `who` waits in the present cycle, which counter `r` of unit u counts, and goes on waiting until `waitOff`; a cycle is `per` fabric cycles. -/
def Hw.waitOn (h : Hw) (r : Rg) (u per : Nat) (who : Nat := 0) : Hw :=
  let w := (Tbl.find h.waits (waitKey r u who)).getD { page := r.page, off := r.off, unit := u, per := per, next := h.dev }
  h.countWait (waitKey r u who) w (h.dev + 1)

/-- The cycles that a wait in progress has counted. -/
def Hw.waited (h : Hw) (r : Rg) (u : Nat) (who : Nat := 0) : Nat := ((Tbl.find h.waits (waitKey r u who)).map Wait.n).getD 0

/-- A wait ends. -/
def Hw.waitOff (h : Hw) (r : Rg) (u : Nat) (who : Nat := 0) : Hw :=
  match Tbl.find h.waits (waitKey r u who) with
  | some _ => { h with waits := Tbl.del h.waits (waitKey r u who) }
  | none => h

/-- Device time moves to an instant, never back, while the fabric has a clock; PTP time moves with it, and waits in progress are counted
(13 R358, 15 R423). -/
def Hw.advTo (h : Hw) (t : Nat) : Hw :=
  if h.dev < t ∧ h.powered then { h with dev := t, ptp := h.ptp + (t - h.dev) * (h.reg PTP_INC).toNat }.countWaits t else h

/-- One fabric cycle with no command: device time and PTP time advance (10 R288, 13 R358). -/
def tick (h : Hw) : Hw := h.advTo (h.dev + 1)

/-- One microsecond in fabric cycles (02 R55). -/
def us : Nat := 800

/-- 24 hours of operation in fabric cycles. -/
def day : Nat := 24 * 3600 * 10 ^ 6 * us

/-! ### Free values -/

/-- The next value the spec leaves open. -/
def Hw.free (h : Hw) : Word × Hw := (Config.freeWord h.fresh, { h with fresh := h.fresh + 1 })

/-! ### Faults and crossbar pulses -/

/-- STEP_NUM. -/
def Hw.stepNum (h : Hw) : Word := h.reg STEP_NUM

/-- A source reports to the collector (17 R456). -/
def Hw.raise (h : Hw) (src : Nat) (u : FUnit) : Hw := { h with reports := h.reports ++ [{ src := src, unit := u, step := h.stepNum, at_ := h.dev }] }

/-- Cluster source types (17 R457). -/
def fCoreUe := 0
def fCoreCeHigh := 1
def fBankUe := 2
def fBankOwnViol := 3
def fMcFault := 4
def fMcEvqOvf := 5
def fSliceInboxFull := 6
def fLookupOvf := 7
def fListqOvf := 8
def fCalDrift := 9
def fRegOc := 10
def fBrownout := 11

/-- Quadrant source types (17 R458). -/
def fDescInvalid := 0
def fEntryMiss := 1
def fDenseDesc := 2
def fRoastOverrun := 3
def fRemapInvalid := 4
def fFabUe := 5
def fFabSlotErr := 6
def fFabNoflow := 7
def fFabGtUe := 8
def fDripTree := 9
def fDripWinTmo := 10
def fDripUe := 11
def fThermHi := 12
def fIngressOvf := 13
def fFlowFlood := 14
def fIngressUe := 15
def fDmaDesc := 16
def fDmaUe := 17
def fEthLink := 18
def fMacsecPn := 19
def fRcpSession := 20
def fDdrApar := 21
def fDdrUe := 22
def fSdLane := 23
def fScFecUe := 24
def fScLinkDown := 25
def fScTopo := 26
def fScLatOver := 27
def fPllLock := 28

/-- Package sources (17 R459). -/
def fLicence := 0x3C0
def fStepStretchOvf := 0x3C1
def fActTimeout := 0x3C2
def fClk32Fail := 0x3C3
def fHoldupLow := 0x3C4
def fIrqStorm := 0x3C5

/-- Number of a cluster source (17 R456). -/
def srcCl (t c : Nat) : Nat := 12 * c + t

/-- Number of a quadrant source (17 R456). -/
def srcQ (t q : Nat) : Nat := 0x300 + 48 * q + t

def Hw.raiseCore (h : Hw) (t k : Nat) : Hw := h.raise (srcCl t (k / 32)) (.core (Fin.ofNat 2048 k))
def Hw.raiseBank (h : Hw) (t c b : Nat) : Hw := h.raise (srcCl t c) (.bank (Fin.ofNat 64 c) (Fin.ofNat 32 b))
def Hw.raiseCl (h : Hw) (t c : Nat) : Hw := h.raise (srcCl t c) (.cluster (Fin.ofNat 64 c))
def Hw.raiseQCore (h : Hw) (t k : Nat) : Hw := h.raise (srcQ t (k / 512)) (.core (Fin.ofNat 2048 k))
def Hw.raiseQCl (h : Hw) (t c : Nat) : Hw := h.raise (srcQ t (c / 16)) (.cluster (Fin.ofNat 64 c))
def Hw.raiseQ (h : Hw) (t q : Nat) (i : Nat := 0) : Hw := h.raise (srcQ t q) (.quad (Fin.ofNat 4 q) i)
def Hw.raiseDma (h : Hw) (t q : Nat) : Hw := h.raise (srcQ t q) (.dma (Fin.ofNat 4 q))
def Hw.raisePort (h : Hw) (t q : Nat) : Hw := h.raise (srcQ t q) (.port (Fin.ofNat 4 q))
def Hw.raiseLink (h : Hw) (t k : Nat) : Hw := h.raise (srcQ t (k / 2)) (.link (Fin.ofNat 8 k))
def Hw.raisePkg (h : Hw) (src : Nat) (i : Nat := 0) : Hw := h.raise src (.pkg i)

/-- The source that a crossbar sink selects (11 R333). -/
def Hw.xbSel (h : Hw) (sink : Nat) : Nat := bits (h.reg (XB_SEL (sink / 4))) (8 * (sink % 4) + 7) (8 * (sink % 4))

/-- A crossbar source fires: a pulse sets out for every sink that selects it (11 R326). -/
def Hw.fireAt (h : Hw) (src quad : Nat) : Hw :=
  let sinks := if src = 0 then [] else (List.range 200).filter fun k => h.xbSel k = src
  { h with pulses := h.pulses ++ sinks.map fun k => ⟨k, h.dev, h.dev + (if quad = 0 then 8 else 48)⟩ }

/-- The quadrant of a source that is one unit (11 R327); those of the peripheral island and of the step machine are in Q0. -/
def srcQuad (src : Nat) : Nat := if 8 ≤ src ∧ src < 16 then (src - 8) / 2 else if 96 ≤ src ∧ src < 160 then (src - 96) / 16 else 0

/-- A crossbar source that is one unit fires. -/
def Hw.fire (h : Hw) (src : Nat) : Hw := h.fireAt src (srcQuad src)

/-! ### Memory (12 R336) -/

/-- First byte of core-local memory of logical core k: SRAM at +0, microcode data memory at +0x2_0000. Parameter RAM stands at +0x2_4000
(04 R119), and the microcode store at +0x2_8000, where this model places it. -/
def coreBase (k : Nat) : Nat := 2 ^ 39 + 2 ^ 35 + k * 2 ^ 24

/-- First byte of bank b of cluster c. -/
def bankBase (c b : Nat) : Nat := 2 ^ 39 + (c * 32 + b) * 2 ^ 24

/-- Parameter set s of core k. -/
def psetAddr (k s : Nat) : Nat := coreBase k + 0x24000 + 32 * s

/-- Word i of the microcode store of core k. -/
def storeAddr (k i : Nat) : Nat := coreBase k + 0x28000 + 4 * i

/-- Word i of the microcode data memory of core k. -/
def dmAddr (k i : Nat) : Nat := coreBase k + 0x20000 + 4 * i

/-- Where the model keeps the core-local SRAM of physical core y of cluster c while it serves no logical core (01 R24, log 124). -/
def parkBase (c y : Nat) : Nat := 2 ^ 42 + (64 * c + y) * 2 ^ 24

/-- First byte of a DDR5 channel. -/
def ddrBase (ch : Nat) : Nat := ch * 2 ^ 35

/-- Memories the memory path does not reach, at addresses of the model's own: always-on memory, flash, the host gateways' receive memory,
the management processors' local memory and receive rings, and slice images of DDR5. -/
def aomBase : Nat := 2 ^ 40
def flashBase : Nat := 2 ^ 40 + 2 ^ 32
def gatewayBase (q : Nat) : Nat := 2 ^ 40 + 2 ^ 33 + q * 2 ^ 20
def mpBase (m : Nat) : Nat := 2 ^ 40 + 2 ^ 34 + m * 2 ^ 24
def sliceBase (n k s : Nat) : Nat := 2 ^ 41 + n * 2 ^ 36 + k * 2 ^ 24 + s * 2 ^ 17

/-- The canonical form of memory: addresses strictly rise, and no byte that reads 0 is listed. -/
def Memory.wf (m : List Host.Cell) : Bool := Tbl.wf 0#8 m

/-- A byte of memory. -/
def Hw.byte (h : Hw) (a : Nat) : Byte := Tbl.get 0#8 h.mem a

/-- Write a byte. -/
def Hw.setByte (h : Hw) (a : Nat) (v : Byte) : Hw := { h with mem := Tbl.set 0#8 h.mem a v }

/-- The word at a multiple of 4, least significant byte first (00 R11). -/
def Hw.word (h : Hw) (a : Nat) : Word := bytesWord (h.byte a) (h.byte (a + 1)) (h.byte (a + 2)) (h.byte (a + 3))

/-- The error mark of the word that holds a byte: 0 good, 1 + b a single wrong bit b of its 39-bit codeword, 40 two wrong bits. -/
def Hw.mark (h : Hw) (a : Nat) : Nat := Tbl.get 0 h.marks (a / 4)

/-- The error part of a mark. -/
def markEcc (m : Nat) : Nat := m % 64

def Hw.setMark (h : Hw) (a v : Nat) : Hw := { h with marks := Tbl.set 0 h.marks (a / 4) v }

/-- Write a word, which carries good check bits afterwards. -/
def Hw.setWord (h : Hw) (a : Nat) (v : Word) : Hw :=
  let m := Tbl.set 0#8 h.mem a (v.setWidth 8)
  let m := Tbl.set 0#8 m (a + 1) ((v >>> 8).setWidth 8)
  let m := Tbl.set 0#8 m (a + 2) ((v >>> 16).setWidth 8)
  let m := Tbl.set 0#8 m (a + 3) ((v >>> 24).setWidth 8)
  { h with mem := m, marks := Tbl.set 0 h.marks (a / 4) 0 }

/-- Write consecutive words. -/
def Hw.setWords (h : Hw) (a : Nat) : List Word → Hw
  | [] => h
  | v :: r => (h.setWord a v).setWords (a + 4) r

/-- n consecutive words. -/
def Hw.words (h : Hw) (a n : Nat) : List Word := (List.range n).map fun i => h.word (a + 4 * i)

/-- n consecutive bytes. -/
def Hw.bytes (h : Hw) (a n : Nat) : List Byte := (List.range n).map fun i => h.byte (a + i)

/-- Write consecutive bytes. -/
def Hw.setBytes (h : Hw) (a : Nat) : List Byte → Hw
  | [] => h
  | v :: r => (h.setByte a v).setBytes (a + 1) r

/-- Unlist every byte and mark of [a, a + n): they read 0 with good check bits. -/
def Hw.zero (h : Hw) (a n : Nat) : Hw :=
  { h with
    mem := h.mem.filter fun p => decide (p.1 < a) || decide (a + n ≤ p.1)
    marks := h.marks.filter fun p => decide (4 * p.1 + 4 ≤ a) || decide (a + n ≤ 4 * p.1) }

/-- Copy n bytes, with their error marks, from src to dst. -/
def Hw.copy (h : Hw) (src dst n : Nat) : Hw :=
  let seg := h.mem.filter fun p => decide (src ≤ p.1) && decide (p.1 < src + n)
  let mk := h.marks.filter fun p => decide (src ≤ 4 * p.1) && decide (4 * p.1 < src + n)
  let z := h.zero dst n
  { z with
    mem := seg.foldl (fun m p => Tbl.set 0#8 m (p.1 - src + dst) p.2) z.mem
    marks := mk.foldl (fun m p => Tbl.set 0 m ((4 * p.1 - src + dst) / 4) p.2) z.marks }

/-! ### Step timing (02 R55–R57, R63) -/

/-- The resident context's number (18 R495). -/
def Hw.ctx (h : Hw) : Nat := h.fld CTX_STAT 0 3 0

/-- State of a context: 0 FREE, 1 LOADED, 2 RESIDENT, 3 DESTROYING (18 R480). -/
def Hw.ctxState (h : Hw) (n : Nat) : Nat := h.fld CTX_STATE 0 (2 * n + 1) (2 * n)

/-- A context is resident. -/
def Hw.someResident (h : Hw) : Bool := h.ctxState h.ctx = 2

/-- L in µs (02 R55). -/
def Hw.stepLen (h : Hw) : Nat := (h.reg (STEP_CTX_LEN h.ctx)).toNat

/-- N(t+1) (02 R56). -/
def Hw.nominal (h : Hw) : Nat := h.step.start + us * h.stepLen

/-- DELIV_WINDOW in µs (02 R81): L or more is taken as L − 1. -/
def Hw.delivWin (h : Hw) : Nat := min (h.reg (STEP_CTX_DELIV h.ctx)).toNat (h.stepLen - 1)

/-- The delivery deadline of the step in progress (02 R63). -/
def Hw.deadline (h : Hw) : Nat := h.step.start + us * h.delivWin

/-- The sub-step of an instant of the step in progress (02 R57). -/
def Hw.subStep (h : Hw) (t : Nat) : Nat := min 255 (256 * (t - h.step.start) / (us * h.stepLen))

/-- Overrun policies (02 R69). -/
inductive Policy
  | stretch | drop | defer
deriving DecidableEq, Repr

/-- The policy the context selects (02 R81). -/
def Hw.ctxPolicy (h : Hw) : Policy :=
  match h.fld (STEP_CTX_POLICY h.ctx) 0 1 0 with
  | 0 => .stretch
  | 2 => .defer
  | _ => .drop

/-- The policy in force: DROP for the rest of a step that overran STEP_STRETCH_MAX (02 R73). -/
def Hw.policy (h : Hw) : Policy := if h.step.asDrop then .drop else h.ctxPolicy

/-- STEP_STRETCH_MAX in µs; under DROP and DEFER a value below 2 is taken as 2 (02 R74). -/
def Hw.stretchMax (h : Hw) : Nat :=
  let m := h.fld (STEP_CTX_POLICY h.ctx) 0 31 16
  if h.ctxPolicy = .stretch then m else max m 2

/-- When cores that are not done are forced: N(t+1), or STEP_STRETCH_MAX later under STRETCH (02 R69, R73). -/
def Hw.forceTime (h : Hw) : Nat := if h.policy = .stretch then h.nominal + us * h.stretchMax else h.nominal

/-- PKG_NUM (01 R50): 4 × Y + X in an array, 0 otherwise. -/
def Hw.pkgNum (h : Hw) : Nat := if h.flag TOPO_POS 0 16 then 4 * h.fld TOPO_POS 0 5 4 + h.fld TOPO_POS 0 1 0 else 0

/-- The resident context's partition holds cluster c (18 R481). -/
def Hw.inPart (h : Hw) (n c : Nat) : Bool :=
  if c < 32 then bit (h.reg (CTX_PART_LO n)) c else bit (h.reg (CTX_PART_HI n)) (c - 32)

/-- The context of cluster c is resident and its pages obey the residency rules (16 R450). -/
def Hw.resident (h : Hw) (c : Nat) : Bool := h.someResident && h.inPart h.ctx c

/-- The package is part of an array (01 R50). -/
def Hw.arrayEn (h : Hw) : Bool := h.flag TOPO_POS 0 16

/-- A context switch is in progress, and its interval (18 R484). -/
def Hw.switching (h : Hw) : Bool := decide (h.sw.stage ≠ 0)

/-- Cluster c has no power, or is gaining or losing it (15 R412, R413). -/
def Hw.clCold (h : Hw) (c : Nat) : Bool :=
  match (h.cl c).pst with
  | .cold | .toCold | .fromCold => true
  | _ => false

/-- Whether something needs the PLL of bit i of PLL_STAT (15 R427): 0–3 FPLL, 4–7 DPLL, 8–11 EPLL, 12–15 SPLL. -/
def Hw.pllNeeded (h : Hw) (i : Nat) : Bool :=
  let q := i % 4
  match i / 4 with
  | 0 => h.powered
  | 1 => h.en DDR_CFG q 0 && !h.flag DDR_STAT q 1
  | 2 => h.en PHY_CTRL q 0
  | _ => [2 * q, 2 * q + 1].any fun k => decide (h.fld SC_STAT k 1 0 = 1) || decide (h.fld SC_STAT k 1 0 = 2)

/-- The PLL of bit i runs and has locked. -/
def Hw.pllLocked (h : Hw) (i : Nat) : Bool := h.pllNeeded i && h.flag PLL_STAT 0 i

/-- A PLL that nothing needs any more has stopped: its lock is gone. -/
def Hw.pllDrop (h : Hw) (i : Nat) : Hw :=
  if h.pllNeeded i then h else { h.setFlag PLL_STAT 0 i false with pkg := { h.pkg with pllAt := Tbl.del h.pkg.pllAt i } }

/-- PLL i starts if something needs it and it neither has lock nor is on the way to it (15 R427). -/
def Hw.pllStart (h : Hw) (i : Nat) : Hw :=
  if h.pllNeeded i = false ∨ h.flag PLL_STAT 0 i ∨ (Tbl.find h.pkg.pllAt i).isSome then h
  else { h with pkg := { h.pkg with pllAt := Tbl.put h.pkg.pllAt i h.dev } }

/-- PLL i starts, goes on or stops as it is needed. -/
def Hw.pllSync (h : Hw) (i : Nat) : Hw := (h.pllDrop i).pllStart i

/-- PLL i has lock, if it is still needed: 20 µs after it started for an FPLL or DPLL, 50 µs for an EPLL or SPLL (15 R427). -/
def Hw.pllLock (h : Hw) (i : Nat) : Hw :=
  if h.pllNeeded i = false then h
  else
    let h := match Tbl.find h.pkg.pllAt i with
      | some t => h.advTo (t + (if i < 8 then 20 else 50) * us)
      | none => h
    { h.setFlag PLL_STAT 0 i true with pkg := { h.pkg with pllAt := Tbl.del h.pkg.pllAt i } }

/-- Licence features in force (00 R3, 16 R453): 0 PLASTIC, 1 SAUNE, 2 CTX16, 3 10G, 4 CONF. -/
def Hw.lic (h : Hw) (i : Nat) : Bool := h.flag LIC_STAT 0 i

/-- PG_LOCK.LOCKED. -/
def Hw.locked (h : Hw) (p u : Nat) : Bool := bit (h.reg (pgLock p) u) 0

/-! ### Words of a core's memories with their error rules (03 R103, R104, 04 R136) -/

/-- A corrected error of core k is counted; CORE_CE_HIGH is raised once in an epoch (03 R103). -/
def Hw.coreCe (h : Hw) (k : Nat) : Hw :=
  let h := h.inc CORE_CE_CNT k
  let c := h.core k
  let h := h.setCore k { c with ceEpoch := c.ceEpoch + 1 }
  if c.ceHigh = false ∧ c.ceEpoch + 1 > (h.reg CORE_CE_LIMIT k).toNat then
    (h.updCore k fun c => { c with ceHigh := true }).raiseCore fCoreCeHigh k
  else h

/-- An uncorrectable error of core k is counted and raised, and adds 4 core cycles to an integrate phase in progress (03 R104, R105). -/
def Hw.coreUe (h : Hw) (k : Nat) : Hw :=
  let h := (h.inc CORE_UE_CNT k).raiseCore fCoreUe k
  if h.step.phase = .integrate then h.updCore k fun c => { c with integ := { c.integ with cyc := c.integ.cyc + 4 } } else h

/-- n uncorrectable errors of core k. -/
def Hw.coreUes (h : Hw) (k : Nat) : Nat → Hw
  | 0 => h
  | n + 1 => (h.coreUe k).coreUes k n

/-- Read a word of core k's memories: a single-bit error is corrected, written back and counted; a double-bit error answers nothing
and is left for the reader's rule. -/
def Hw.coreRead (h : Hw) (k a : Nat) : Hw × Option Word :=
  if h.mark a = 0 then (h, some (h.word a))
  else if h.mark a < 40 then ((h.setMark a 0).coreCe k, some (h.word a))
  else (h, none)

/-- Any write to core-local SRAM or parameter RAM clears QUIET (03 R95). -/
def Hw.unquiet (h : Hw) (k : Nat) : Hw := h.updCore k fun c => { c with quiet := false }

/-- Whether a core is available (01 R21). -/
def Hw.coreAvail (h : Hw) (k : Nat) : Bool := (h.core k).avail && (h.cl (k / 32)).avail

/-- The mapping in force of logical core k of the package, as a REMAP word (03 R115). -/
def Hw.mapOf (h : Hw) (k : Nat) : Word := Tbl.get (w32 (k % 32)) (h.cl (k / 32)).map (k % 32)

/-- The physical core that serves logical core k. -/
def Hw.phys (h : Hw) (k : Nat) : Nat := bits (h.mapOf k) 5 0

end Sys2Proof.Machine
end

