-- ==== Sys2Proof/Machine/Neuron.lean ====
section
/-! DEFINITION. Neuron records, parameter sets, accumulation into the ring, and the fixed neuron path (03 R86–R105). -/

namespace Sys2Proof.Machine

/-- CORE_LAYOUT.LAYOUT is 1, compact (R86, R113). -/
def Hw.compact (h : Hw) (k : Nat) : Bool := h.flag CORE_LAYOUT k 0

/-- CORE_LAYOUT.NEURONS. -/
def Hw.neurons (h : Hw) (k : Nat) : Nat := h.fld CORE_LAYOUT k 29 16

/-- The first byte of neuron n's record (R86). -/
def Hw.recAddr (h : Hw) (k n : Nat) : Nat := coreBase k + (if h.compact k then 12 else 64) * n

/-- The first byte of the 24-bit slot j of the ring, or of ACC in a compact record (R87, R88). -/
def Hw.slotAddr (h : Hw) (k n j : Nat) : Nat :=
  if h.compact k then h.recAddr k n + 9 else h.recAddr k n + 16 + 3 * j

/-- The signed 24-bit value at a byte address. -/
def Hw.read24 (h : Hw) (a : Nat) : Int := sext 24 (leNat (h.bytes a 3))

/-- Write 24 bits at a byte address; the words touched keep their error marks. -/
def Hw.write24 (h : Hw) (a : Nat) (v : Int) : Hw := h.setBytes a (natLE 3 (ubits 24 v))

/-- Words read with the error rules of R103, the words with two wrong bits as 0, and the number of those. -/
structure CoreRead where
  h : Hw
  ws : List Word := []
  bad : Nat := 0

/-- Read words of core k's memories at the listed addresses, in order. -/
def Hw.coreReads (h : Hw) (k : Nat) : List Nat → CoreRead
  | [] => { h := h }
  | a :: r =>
    let x := h.coreRead k a
    let y := x.1.coreReads k r
    { h := y.h, ws := x.2.getD 0#32 :: y.ws, bad := y.bad + b2n x.2.isNone }

/-- The words that hold bytes a to a + 2. -/
def words24 (a : Nat) : List Nat := if (a + 2) / 4 = a / 4 then [a / 4 * 4] else [a / 4 * 4, (a + 2) / 4 * 4]

/-! ### Parameter sets (R91) -/

/-- Store a word of a parameter set: ALPHA and BETA above 0x8000 are stored as 0x8000, and the reserved bits of PS0, PS3 and PS4 as 0
(R91, 00 R17). -/
def psetStored (i : Nat) (w : Word) : Word :=
  if i = 1 then
    setBits (setBits w 31 16 (min (bits w 31 16) 0x8000)) 15 0 (min (bits w 15 0) 0x8000)
  else if i = 0 ∨ i = 3 ∨ i = 4 then setBits w 7 0 0
  else w

/-- Write the words of a parameter set from word i on. -/
def Hw.writePset (h : Hw) (k s i : Nat) : List Word → Hw
  | [] => h
  | w :: r => (h.setWord (psetAddr k s + 4 * i) (psetStored i w)).writePset k s (i + 1) r

/-- PS2.MC_NEURON of a set. -/
def Hw.mcNeuron (h : Hw) (k s : Nat) : Bool := bit (h.word (psetAddr k s + 8)) 4

/-- Some parameter set of the core has MC_NEURON = 1. -/
def Hw.anyMc (h : Hw) (k : Nat) : Bool := (List.range 256).any (h.mcNeuron k)

/-- The addresses of the words of parameter set s of core k. -/
def psetWords (k s : Nat) : List Nat := (List.range 8).map fun i => psetAddr k s + 4 * i

/-! ### Accumulation (R96–R98, R104) -/

/-- Saturating addition of c into a slot or ACC of neuron n (R97); slot j of a compact core is ACC. -/
def Hw.accumulate (h : Hw) (k n j : Nat) (c : Int) : Hw :=
  let a := h.slotAddr k n j
  let r := h.coreReads k (words24 a)
  let h := r.h
  if r.bad = 0 then
    let x := h.read24 a + c
    let h := if sat24 x = x then h else h.inc RING_SAT_CNT k
    let h := h.write24 a (sat24 x)
    let i := if h.compact k then 0 else j
    h.updCore k fun s => { s with quiet := false, touched := s.touched ||| (1#16 <<< i) }
  else h.coreUes k r.bad

/-- Synapse formats (R96). -/
inductive Fmt
  | s8 | s4 | p12
deriving DecidableEq, Repr

/-- The contribution of a weight, a multiplier and a shift (R96). -/
def contribution (f : Fmt) (w : Int) (m : Nat) (h : Int) : Int :=
  match f with
  | .p12 => shiftRtz (w * (m : Int)) (h - 4)
  | _ => shiftRtz (w * (m : Int)) h

/-- The slot for delivery step t and delay d (R60). -/
def ringSlot (t d : Nat) : Nat := (t + 15 + d) % 16

/-! ### The fixed path (R93) -/

/-- The state of a neuron that the fixed path reads and writes. -/
structure NVars where
  v : Int := 0
  ref : Nat := 0
  fired : Bool := false
  sat : Bool := false
  a : Nat := 0
  tlast : Nat := 0
  slast : Nat := 0
  ecount : Nat := 0
deriving DecidableEq, Repr

/-- The fields of a parameter set that the fixed path reads (R91). -/
structure PVars where
  theta0 : Int := 0
  alpha : Nat := 0
  beta : Nat := 0
  deltaA : Nat := 0
  tref : Nat := 0
  ashift : Nat := 0
  resetSub : Bool := false
  clampRefr : Bool := false
  gradedOut : Bool := false
  outShift : Nat := 0
  vMin : Int := 0
  cbias : Int := 0
deriving DecidableEq, Repr

/-- The fields of the eight words of a set. -/
def pvars (l : List Word) : PVars :=
  let w i := l.getD i 0#32
  { theta0 := sext 24 (bits (w 0) 31 8), alpha := bits (w 1) 31 16, beta := bits (w 1) 15 0, deltaA := bits (w 2) 31 16
    tref := bits (w 2) 15 12, ashift := min 8 (bits (w 2) 11 8), resetSub := bit (w 2) 7, clampRefr := bit (w 2) 6
    gradedOut := bit (w 2) 5, outShift := bits (w 2) 3 0, vMin := sext 24 (bits (w 3) 31 8), cbias := sext 24 (bits (w 4) 31 8) }

/-- What one update answers: the new state, whether V saturated, and the v that fired. -/
structure Updated where
  n : NVars
  vsat : Bool
  vfire : Int
deriving DecidableEq, Repr

/-- The v of R93 before the V_MIN clamp: the exact sum. -/
def leakSum (p : PVars) (n : NVars) (slot bias : Int) : Int := rtz n.v p.alpha + slot + bias

/-- The v of R93 after both clamps. -/
def clampedV (p : PVars) (x : Int) : Int := max (sat24 x) p.vMin

/-- The decayed adaptation of R93. -/
def decayedA (p : PVars) (n : NVars) : Nat := n.a * p.beta / 32768

/-- The threshold of R93. -/
def threshold (p : PVars) (a : Nat) : Int := p.theta0 + ((a <<< p.ashift : Nat) : Int)

/-- The update of R93 in step t. -/
def fixedUpdate (p : PVars) (n : NVars) (slot bias : Int) (t : Nat) : Updated :=
  let x := leakSum p n slot bias
  let vsat := decide (sat24 x ≠ x)
  let v := clampedV p x
  let a := decayedA p n
  let th := threshold p a
  let sat := n.sat || vsat
  if 0 < n.ref then
    { n := { n with v := if p.clampRefr then 0 else v, ref := n.ref - 1, fired := false, sat := sat, a := a }, vsat := vsat, vfire := v }
  else if th ≤ v then
    { n := { v := if p.resetSub then sat24 (v - th) else 0, ref := p.tref, fired := true, sat := sat
             a := sat16 ((a : Int) + (p.deltaA : Int)), tlast := t % 65536, slast := 0, ecount := min 0xFFFF (n.ecount + 1) }
      vsat := vsat, vfire := v }
  else { n := { n with v := v, fired := false, sat := sat, a := a }, vsat := vsat, vfire := v }

/-- The payload of a fixed-path spike (R101). -/
def firePayload (p : PVars) (vfire : Int) : Nat :=
  if p.gradedOut then sat16 (vfire / ((2 ^ p.outShift : Nat) : Int)) else 1

/-- The low word of an event (06 R175): sub-step, payload, flags. -/
def evLow (sub payload flags : Nat) : Word := w32 (sub % 256 * 2 ^ 24 + payload % 65536 * 2 ^ 8 + flags % 256)

/-- The 0x1 neuron address of neuron n of logical core k (01 R26). -/
def neuronAddr (k n : Nat) : Word := w32 (0x10000000 + k / 512 * 2 ^ 22 + k / 32 % 16 * 2 ^ 18 + k % 32 * 2 ^ 13 + n % 8192)

/-- The words of a record as R87 and R88 lay them out. -/
def recWords (compact : Bool) (w0 w2 : Word) (n : NVars) : List Word :=
  let x0 := setBits (setBit (setBit (setBits w0 31 8 (ubits 24 n.v)) 2 n.fired) 3 n.sat) 7 4 n.ref
  let x1 := w32 (n.a % 65536 * 65536 + n.tlast % 65536)
  if compact then [x0, x1] else [x0, x1, setBits (setBits w2 31 24 n.slast) 15 0 n.ecount]

/-- The fixed path's state of a record's words. -/
def recVars (compact : Bool) (w0 w1 w2 : Word) : NVars :=
  { v := sext 24 (bits w0 31 8), ref := bits w0 7 4, fired := bit w0 2, sat := bit w0 3, a := bits w1 31 16, tlast := bits w1 15 0
    slast := if compact then 0 else bits w2 31 24, ecount := if compact then 0 else bits w2 15 0 }

/-- Queue an event in the egress buffer and note the occupancy (R102, R112). -/
def Hw.egressPush (h : Hw) (k : Nat) (e : Ev) : Hw :=
  let h := h.updCore k fun c => { c with egress := c.egress ++ [e] }
  h.hwm EGRESS_HWM k (h.core k).egress.length

/-- The egress buffer is full (R102). -/
def Hw.egressFull (h : Hw) (k : Nat) : Bool := decide (256 ≤ (h.core k).egress.length)

/-- Note in the integrate phase that a neuron did not end at rest. -/
def Hw.notAtRest (h : Hw) (k : Nat) : Hw := h.updCore k fun c => { c with integ := { c.integ with atRest := false } }

/-- Add core cycles to the integrate phase. -/
def Hw.integCyc (h : Hw) (k n : Nat) : Hw := h.updCore k fun c => { c with integ := { c.integ with cyc := c.integ.cyc + n } }

/-- Count neuron n's 4-neuron group as one with a fixed-path neuron (04 R132). -/
def Hw.countGroup (h : Hw) (k n : Nat) : Hw :=
  h.updCore k fun c =>
    if c.integ.lastGroup = some (n / 4) then c
    else { c with integ := { c.integ with groups := c.integ.groups + 1, lastGroup := some (n / 4) } }

/-- What e double-bit errors do to neuron n (R104, R105): the slot is cleared, each error is counted and raised. -/
def Hw.neuronUe (h : Hw) (k n j e : Nat) : Hw := ((h.write24 (h.slotAddr k n j) 0).coreUes k e).notAtRest k

/-- The addresses of neuron n's words before the ring, or of its whole compact record, and those of its slot j. -/
def Hw.recWordsAt (h : Hw) (k n j : Nat) : List Nat :=
  if h.compact k then (List.range 3).map fun i => h.recAddr k n + 4 * i
  else ((List.range 4).map fun i => h.recAddr k n + 4 * i) ++ words24 (h.slotAddr k n j)

/-- PSET of neuron n, as stored. -/
def Hw.psetOf (h : Hw) (k n : Nat) : Nat :=
  let w := h.word (h.recAddr k n + 8)
  if h.compact k then bits w 7 0 else bits w 23 16

/-- EN of neuron n. -/
def Hw.neuronEn (h : Hw) (k n : Nat) : Bool := bit (h.word (h.recAddr k n)) 0

/-- Update one neuron of core k on the fixed path in step t (R93), with the error rules of R104; `base` is the number of the resident
image's neuron 0 (01 R42). -/
def Hw.updateFixed (h : Hw) (k base n : Nat) : Hw :=
  let t := h.stepNum.toNat
  let j := t % 16
  let cm := h.compact k
  let a := h.recAddr k n
  let sa := h.slotAddr k n j
  let r := h.coreReads k (h.recWordsAt k n j)
  let h := r.h.countGroup k n
  if r.bad ≠ 0 then h.neuronUe k n j r.bad
  else
    let w0 := r.ws.getD 0 0#32
    let w1 := r.ws.getD 1 0#32
    let w2 := r.ws.getD 2 0#32
    let w3 := r.ws.getD 3 0#32
    if bit w0 0 then
      let s := if cm then bits w2 7 0 else bits w2 23 16
      let pr := h.coreReads k (psetWords k s)
      let h := pr.h
      if pr.bad ≠ 0 then h.neuronUe k n j pr.bad
      else
        let p := pvars pr.ws
        let slot := h.read24 sa
        let bias := if cm then p.cbias else sext 24 (bits w3 31 8)
        let u := fixedUpdate p (recVars cm w0 w1 w2) slot bias t
        let h := h.write24 sa 0
        let h := h.setWords a (recWords cm w0 w2 u.n)
        let h := if u.vsat then h.inc V_SAT_CNT k else h
        let h := if u.n.fired then h.inc SPIKE_CNT k else h
        let h := if u.n.fired ∧ bit w0 1 then h.egressPush k ⟨neuronAddr k (base + n), evLow 0 (firePayload p u.vfire) 0⟩ else h
        if u.n.v = 0 ∧ u.n.ref = 0 ∧ u.n.a = 0 ∧ bias = 0 ∧ u.n.fired = false then h else h.notAtRest k
    else
      let h := h.write24 sa 0
      if bits w0 31 4 = 0 ∧ bits w1 31 16 = 0 ∧ (if cm then sext 24 (bits (h.word (psetAddr k (bits w2 7 0) + 16)) 31 8) = 0 else bits w3 31 8 = 0)
      then h else h.notAtRest k

/-- What ENABLE at 0 does to a microcode neuron: its slot is cleared, with the error rules of the words that say what it is (04 R117). -/
def Hw.updateSkipped (h : Hw) (k n : Nat) : Hw :=
  let j := h.stepNum.toNat % 16
  let sa := h.slotAddr k n j
  let r := h.coreReads k ([h.recAddr k n, h.recAddr k n + 8, psetAddr k (h.psetOf k n) + 8] ++ words24 sa)
  if r.bad ≠ 0 then r.h.neuronUe k n j r.bad else ((r.h.write24 sa 0).inc MC_SKIP_CNT k).notAtRest k

/-! ### Forcing (02 R71) -/

/-- Drop or fold the slot t mod 16 of neuron n of core k, counted in the cluster; `fold` is DEFER. -/
def Hw.skipNeuron (h : Hw) (k n j : Nat) (fold : Bool) : Hw :=
  let a := h.slotAddr k n j
  if fold then
    if h.compact k then h.inc NEURON_FOLD_CNT (k / 32)
    else
      let x := h.read24 a
      let h := if x = 0 then h else h.accumulate k n ((j + 1) % 16) x
      (h.write24 a 0).inc NEURON_FOLD_CNT (k / 32)
  else (h.write24 a 0).inc NEURON_SKIP_CNT (k / 32)

/-- Slot j of the core has been cleared (R95). -/
def Hw.untouch (h : Hw) (k j : Nat) : Hw :=
  let i := if h.compact k then 0 else j
  h.updCore k fun c => { c with touched := c.touched &&& ~~~ (1#16 <<< i) }

end Sys2Proof.Machine
end

