-- ==== Sys2Proof/Machine/ClusterMem.lean ====
section
/-! DEFINITION. Cluster memory: banks, ownership, the two ports, errors, the scrubber, repair, bank power, and list streaming (05). -/

namespace Sys2Proof.Machine

/-! ### Ownership, power and errors (R156–R168) -/

/-- The first byte beyond the owned region (R142). -/
def ownedEnd : Nat := 0x5C000

/-- BANK_OWNER[b]: the owner, or the new owner while bit b of BANK_HANDOVER_PENDING is set (R158). -/
def Hw.bankOwner (h : Hw) (c b : Nat) : Nat := h.fld (BANK_OWNER b) c 5 0

/-- Bit b of BANK_HANDOVER_PENDING. -/
def Hw.bankPending (h : Hw) (c b : Nat) : Bool := h.flag BANK_HANDOVER_PENDING c b

/-- How the memory answers a request: it is served, it is a non-owner access, or it waits. -/
inductive Acc
  | ok | denied | held
deriving DecidableEq, Repr

/-- A port-A access by requester code `who` (R156–R158, R168). -/
def Hw.portA (h : Hw) (c b off who : Nat) : Acc :=
  if ownedEnd ≤ off then .denied
  else if h.bankOwner c b ≠ who then .denied
  else if h.bankPending c b then .held
  else
    let s := h.bank c b
    if s.waking then .held else if s.pwr = 0 then .ok else if s.pwr = 1 then .held else .denied

/-- Count, record and raise a non-owner access (R157, R170). -/
def Hw.violation (h : Hw) (c b off who : Nat) (portB write : Bool) : Hw :=
  let h := h.inc BANK_VIOL_CNT c
  let h :=
    if h.reg BANK_VIOL_INFO c = 0#32 then
      h.setReg BANK_VIOL_INFO c
        (w32 (b % 32 + who % 64 * 2 ^ 5 + b2n portB * 2 ^ 11 + b2n write * 2 ^ 12 + off / 4 % 2 ^ 17 * 2 ^ 13 + 2 ^ 31))
    else h
  h.raiseBank fBankOwnViol c b

/-- An access by requester `who` that a bank in RET or in its wake holds is counted once, and starts the wake (R168). -/
def Hw.wakeBank (h : Hw) (c b who : Nat) : Hw :=
  let s := h.bank c b
  if (s.pwr = 1 ∨ s.waking) ∧ s.waiters.contains who = false then
    (h.updBank c b fun s => { s with waking := true, waiters := s.waiters ++ [who] }).inc RET_WAKE_STALL_CNT c
  else h

/-! ### Requesters that a bank can hold -/

/-- The number of a logical core's synapse pipeline, bank path (LDB, STB), inbox port and dense engine; the others are owner codes, and
16 × 2¹⁶ + n the n-th write that a bank holds. -/
def whoPipe (k : Nat) : Nat := 2 ^ 16 + k
def whoPath (k : Nat) : Nat := 2 * 2 ^ 16 + k
def whoInbox (k : Nat) : Nat := 3 * 2 ^ 16 + k
def whoDense (k : Nat) : Nat := 4 * 2 ^ 16 + k
def whoDma (e : Nat) : Nat := 5 * 2 ^ 16 + e

/-- A spare is in use by a factory repair. -/
def spareFused (c sp : Nat) : Bool := Config.factoryFused c sp

/-- Firmware lists a soft repair of a column, with the lowest spare of the bank that neither a factory repair nor the list uses (R167). -/
def Hw.listRepair (h : Hw) (c b col : Nat) : Hw :=
  let l := h.fw.repairs.filter fun x => decide (x.1 = c) && decide (bits x.2.1 6 0 / 4 = b)
  let free := (List.range 4).find? fun s => !spareFused c (4 * b + s) && l.all fun x => decide (bits x.2.1 6 0 ≠ 4 * b + s)
  match free with
  | some s =>
    if l.any (fun x => bits x.2.2 7 0 == col) then h
    else { h with fw := { h.fw with repairs := h.fw.repairs ++ [(c, w32 (4 * b + s), w32 (0x8000 + col))] } }
  | none => h

/-- A corrected error in a line of a column: errors in 3 distinct lines within 24 hours list a repair, which the next boot applies (R167). -/
def Hw.noteCe (h : Hw) (c b col line : Nat) : Hw :=
  let key := 256 * (32 * c + b) + col
  let l := ((Tbl.get [] h.fw.ceLines key).filter fun x => decide (x.1 ≠ line) && decide (h.dev < x.2 + day)) ++ [(line, h.dev)]
  let h := { h with fw := { h.fw with ceLines := Tbl.set [] h.fw.ceLines key l } }
  if 3 ≤ l.length then h.listRepair c b col else h

/-- A word of a bank read through the error rules: a single-bit error is corrected in the path, counted, logged and queued for the
scrubber (R164). Answers the word, or none on a double-bit error. -/
def Hw.bankWord (h : Hw) (c b off : Nat) : Hw × Option Word :=
  let a := bankBase c b + off
  let m := h.mark a
  if m = 0 then (h, some (h.word a))
  else if m < 40 then
    let line := off / 16
    let h := h.inc BANK_CE_CNT c
    let col := 39 * (off / 4 % 4) + (m - 1)
    let h := (h.setReg CE_LOG c (w32 (b + col * 2 ^ 5 + line * 2 ^ 13))).noteCe c b col line
    (h.updBank c b (fun s => { s with scrubLines := s.scrubLines ++ [line] }), some (h.word a))
  else (h, none)

/-- Count, log and raise the uncorrectable words of a line (R166). -/
def Hw.bankUe (h : Hw) (c b line mask n : Nat) : Hw :=
  if n = 0 then h
  else ((h.inc BANK_UE_CNT c n).setReg UE_LOG c (w32 (b + line % 2 ^ 15 * 2 ^ 5 + mask % 16 * 2 ^ 20))).raiseBank fBankUe c b

/-- The four words of a line, read through the error rules. -/
def Hw.bankLine (h : Hw) (c b line : Nat) : Hw × List (Option Word) :=
  let r0 := h.bankWord c b (16 * line)
  let r1 := r0.1.bankWord c b (16 * line + 4)
  let r2 := r1.1.bankWord c b (16 * line + 8)
  let r3 := r2.1.bankWord c b (16 * line + 12)
  let l := [r0.2, r1.2, r2.2, r3.2]
  let bad (i : Nat) : Nat := b2n ((l.getD i none).isNone)
  (r3.1.bankUe c b line (bad 0 + 2 * bad 1 + 4 * bad 2 + 8 * bad 3) (bad 0 + bad 1 + bad 2 + bad 3), l)

/-- A word of a line. -/
def Hw.bankRead (h : Hw) (c b off : Nat) : Hw × Option Word :=
  let r := h.bankLine c b (off / 16)
  (r.1, r.2.getD (off / 4 % 4) none)

/-- A 64-bit entry: its low and high words. -/
def Hw.bankRead64 (h : Hw) (c b off : Nat) : Hw × Option (Word × Word) :=
  if off / 16 = (off + 4) / 16 then
    let r := h.bankLine c b (off / 16)
    (r.1, match r.2.getD (off / 4 % 4) none, r.2.getD (off / 4 % 4 + 1) none with
      | some l, some u => some (l, u)
      | _, _ => none)
  else
    let r := h.bankRead c b off
    let q := r.1.bankRead c b (off + 4)
    (q.1, match r.2, q.2 with
      | some l, some u => some (l, u)
      | _, _ => none)

/-- A port-A read of a word by its owner or another requester: a non-owner reads zero (R157); a double-bit error answers none. -/
def Hw.portARead64 (h : Hw) (c b off who : Nat) : Hw × Option (Word × Word) :=
  if h.portA c b off who = .ok then h.bankRead64 c b off
  else (h.violation c b off who false false, some (0#32, 0#32))

/-! ### Writes of the memory path (12 R340) -/

/-- The owner code of DMA (R156). -/
def ownDma : Nat := 0x20

/-- Write the bytes that fall in the word at w: all of it, or merged into it; a part of an uncorrectable word is dropped (12 R340). -/
def Hw.pathWord (h : Hw) (w : Nat) (l : List (Nat × Byte)) : Hw :=
  let mine := l.filter fun x => x.1 / 4 == w / 4
  if mine = [] ∨ (mine.length < 4 ∧ 40 ≤ markEcc (h.mark w)) then h
  else h.setWord w (mine.foldl (fun v x => setBits v (8 * (x.1 % 4) + 7) (8 * (x.1 % 4)) x.2.toNat) (h.word w))

/-- Write bytes from address a on, all in one 32 B granule. -/
def Hw.pathPut (h : Hw) (a : Nat) (l : List Byte) : Hw :=
  let xs := (List.range l.length).map fun i => (a + i, l.getD i 0#8)
  (List.range 8).foldl (fun h i => h.pathWord (a / 32 * 32 + 4 * i) xs) h

/-- A write of the memory path to a bank: performed, dropped as a non-owner's, or held (R157, R158, R168). -/
def Hw.pathBank (h : Hw) (c b off : Nat) (l : List Byte) : Hw :=
  match h.portA c b off ownDma with
  | .ok => h.pathPut (bankBase c b + off) l
  | .denied => h.violation c b off ownDma false true
  | .held =>
    let h := h.wakeBank c b (16 * 2 ^ 16 + (h.bank c b).heldW.length)
    h.updBank c b fun s => { s with heldW := s.heldW ++ [(off, l)] }

/-- A bank serves the writes it held, first of all (R158, R168). -/
def Hw.bankServe (h : Hw) (c b : Nat) : Hw :=
  let l := (h.bank c b).heldW
  if l = [] then h
  else l.foldl (fun h p => h.pathBank c b p.1 p.2) (h.updBank c b fun s => { s with heldW := [] })

/-! ### Ownership and power commands -/

/-- Whether a BANK_OWNER code is valid (R156). -/
def ownerCodeOk (v : Nat) : Bool := decide (v ≤ 0x22) || decide (v = 0x3F)

/-- A write of BANK_OWNER[b] (R156, R158). -/
def Hw.bankOwnerWrite (h : Hw) (c b : Nat) (v : Word) : Hw :=
  let y := bits v 5 0
  if ownerCodeOk y = false ∨ h.bankPending c b then h.inc OWNER_WRITE_IGN_CNT c
  else if y = h.bankOwner c b then h
  else (h.setReg (BANK_OWNER b) c (w32 y)).setFlag BANK_HANDOVER_PENDING c b true

/-- The handover of bank b completes (R158). -/
def Hw.handoverDone (h : Hw) (c b : Nat) : Hw := (h.setFlag BANK_HANDOVER_PENDING c b false).bankServe c b

/-- The handover of bank b completes. -/
def execBankHandoverComplete (c : Cluster) (b : Fin 32) (s : State) : Out := s.onHw fun h => h.handoverDone c b

/-- A BANK_PWR value takes effect (R168): 0 ON, 1 RET, 2 OFF, 3 taken as RET. -/
def Hw.bankPwrApply (h : Hw) (c b v : Nat) : Hw :=
  h.updBank c b fun s =>
    if v = 0 then (if s.pwr = 0 then s else { s with waking := true })
    else if v = 2 then { s with pwr := 2, lost := true }
    else { s with pwr := 1 }

/-- A BANK_PWR value written for bank b, recorded while a wake is in progress (R168). -/
def Hw.bankPwrWrite (h : Hw) (c b v : Nat) : Hw :=
  if (h.bank c b).waking then h.updBank c b fun s => { s with recorded := some v } else h.bankPwrApply c b v

/-- BANK_PWR of bank b as last written. -/
def Hw.bankPwrReg (h : Hw) (c b : Nat) : Nat :=
  if b < 16 then h.fld BANK_PWR_LO c (2 * b + 1) (2 * b) else h.fld BANK_PWR_HI c (2 * (b - 16) + 1) (2 * (b - 16))

/-- The wake of a bank ends: a region whose contents were lost has been written to zero; a recorded write is applied (R168). -/
def Hw.bankWakeDone (h : Hw) (c b : Nat) : Hw :=
  let s := h.bank c b
  if s.waking then
    let h := if s.lost then h.zero (bankBase c b) ownedEnd else h
    let h := h.updBank c b fun s => { s with waking := false, pwr := 0, lost := false, recorded := none, waiters := [] }
    let h := h.bankServe c b
    match s.recorded with
    | some v => h.bankPwrApply c b v
    | none => h
  else h

/-- A bank's wake completes. -/
def execBankWakeComplete (c : Cluster) (b : Fin 32) (s : State) : Out := s.onHw fun h => h.bankWakeDone c b

/-- BANK_RDY (R171). -/
def Hw.bankRdy (h : Hw) (c : Nat) : Word :=
  (List.range 32).foldl (fun w b => let s := h.bank c b; setBit w b (decide (s.pwr = 0) && !s.waking)) 0#32

/-! ### The scrubber (R165) -/

/-- Lines of a bank. -/
def bankLines : Nat := 24576

/-- Read one line of one bank; write a corrected line back unless a port-A write touched it meanwhile. -/
def Hw.scrubLine (h : Hw) (c b line : Nat) (wrote : Bool) : Hw :=
  let s := h.bank c b
  if line < ownedEnd / 16 ∧ (s.pwr ≠ 0 ∨ s.waking) then h
  else
    let single (i : Nat) : Bool := let m := h.mark (bankBase c b + 16 * line + 4 * i); decide (0 < m) && decide (m < 40)
    let double (i : Nat) : Bool := decide (40 ≤ h.mark (bankBase c b + 16 * line + 4 * i))
    let fix := (single 0 || single 1 || single 2 || single 3) && !(double 0 || double 1 || double 2 || double 3)
    let r := (h.bankLine c b line).1
    let r := r.updBank c b fun t => { t with scrubLines := s.scrubLines }
    if fix = false then r
    else if wrote then (r.inc SCRUB_CANCEL_CNT c).updBank c b fun t => { t with scrubLines := t.scrubLines ++ [line] }
    else
      let put (h : Hw) (i : Nat) : Hw := if single i then h.setMark (bankBase c b + 16 * line + 4 * i) 0 else h
      put (put (put (put r 0) 1) 2) 3

/-- One bank's part of a visit: its queued line if it has one, else its next line in turn. `busy` is a collision on port B. -/
def Hw.scrubBank (h : Hw) (c b : Nat) (busy wrote : Bool) : Hw :=
  if busy then h.updCl c fun v => { v with retry := v.retry ++ [.scrub b] }
  else
    match (h.bank c b).scrubLines with
    | l :: r => (h.updBank c b fun s => { s with scrubLines := r }).scrubLine c b l wrote
    | [] =>
      let l := (h.bank c b).scrubAt
      if bankLines ≤ l then h else (h.updBank c b fun s => { s with scrubAt := l + 1 }).scrubLine c b l wrote

/-- The visit of every bank of a cluster, then the end of a pass. -/
def Hw.scrubVisit (h : Hw) (c : Nat) (busy wrote : BitVec 32) : Hw :=
  if h.en SCRUB_CTRL c 0 then
    let h := (List.range 32).foldl (fun h b => h.scrubBank c b (busy.getLsbD b) (wrote.getLsbD b)) h
    if (List.range 32).all fun b => decide (bankLines ≤ (h.bank c b).scrubAt) then
      (List.range 32).foldl (fun h b => h.updBank c b fun s => { s with scrubAt := 0 }) (h.inc SCRUB_PASS_CNT c)
    else h
  else h

/-- A scrubber interval of a cluster passes. -/
def execScrubLineVisit (c : Cluster) (busy wrote : BitVec 32) (s : State) : Out := s.onHw fun h => h.scrubVisit c busy wrote

/-! ### Soft repair (R167) -/

/-- What SR_DATA reads for the spare in SR_SEL (R171). -/
def Hw.srData (h : Hw) (c : Nat) : Word :=
  let sp := h.fld SR_SEL c 6 0
  if spareFused c sp then w32 (Config.factoryColumn c sp % 256 + 2 ^ 15 + 2 ^ 16) else h.tab .spare c sp

/-- The mark of a word after bit b of its codeword became undefined; `flip` is the free choice whether it came out wrong. -/
def remark (m b : Nat) (flip : Bool) : Nat :=
  if flip = false then m else if m = 0 then b + 1 else if m = b + 1 then 0 else 40

/-- Column `col` of every line of a bank becomes undefined: free values from the counter decide each line. -/
def Hw.undefColumn (h : Hw) (c b col : Nat) : Hw :=
  let a := bankBase c b
  let w := col / 39
  let one (line : Nat) : List (Nat × Nat) :=
    (List.range 4).map fun i =>
      let m := h.mark (a + 16 * line + 4 * i)
      (a / 4 + 4 * line + i, if i = w then remark m (col % 39) (bit (Config.freeWord (h.fresh + line)) 0) else m)
  let mid := ((List.range bankLines).flatMap one).filter fun p => decide (p.2 ≠ 0)
  { h with
    marks := (h.marks.filter fun p => decide (p.1 < a / 4)) ++ mid ++ (h.marks.filter fun p => decide (a / 4 + 4 * bankLines ≤ p.1))
    fresh := h.fresh + bankLines }

/-- SR_DATA may be written: the spare is not FUSED, and its bank is at management or at none, or OFF (R167). -/
def Hw.softRepairOk (h : Hw) (c : Nat) : Bool :=
  let sp := h.fld SR_SEL c 6 0
  let b := sp / 4
  let own := h.bankOwner c b
  !spareFused c sp && (((decide (own = 0x22) || decide (own = 0x3F)) && !h.bankPending c b) || decide ((h.bank c b).pwr = 2))

/-- A write of SR_DATA (R167). -/
def Hw.softRepair (h : Hw) (c : Nat) (v : Word) : Hw :=
  if h.softRepairOk c = false then h.inc OWNER_WRITE_IGN_CNT c
  else
    let sp := h.fld SR_SEL c 6 0
    let h := h.setTab .spare c sp (v &&& 0x80FF#32)
    if bit v 15 ∧ bits v 7 0 < 156 then h.undefColumn c (sp / 4) (bits v 7 0) else h

/-! ### The management window (R157, R160, R162, R170) -/

/-- The window's address after an access. -/
def Hw.bankwinNext (h : Hw) (c : Nat) : Hw := h.setFld BANKWIN_ADDR c 18 2 ((h.fld BANKWIN_ADDR c 18 2 + 1) % 2 ^ 17)

/-- A held access is performed once what holds it has ended: the handover to its requester, or the bank's wake (R158, R168). -/
def Hw.bankAwait (h : Hw) (c b who : Nat) : Hw := ((h.handoverDone c b).wakeBank c b who).bankWakeDone c b

/-- An access through BANKWIN_DATA: none reads, a value writes. `busy` is a same-cycle collision with port A: a write is repeated, and a
read answers undefined data with BUSY set. -/
def Hw.bankwin (h : Hw) (c : Nat) (wr : Option Word) (busy : Bool) : Hw × Word :=
  let b := h.fld BANKWIN_ADDR c 28 24
  let off := 4 * h.fld BANKWIN_ADDR c 18 2
  let owned := decide (off < ownedEnd)
  let h := if owned ∧ h.bankOwner c b = 0x22 ∧ h.portA c b off 0x22 = .held then h.bankAwait c b 0x22 else h
  let okay := decide (off < 0x60000) && (!owned || h.portA c b off 0x22 == .ok)
  let fin (h : Hw) (st : Word) (v : Word) : Hw × Word := ((h.setReg BANKWIN_STAT c st).bankwinNext c, v)
  let portBSide := !owned || wr.isNone
  if okay = false then fin (h.violation c b off 0x22 portBSide wr.isSome) 2#32 0#32
  else
    match wr with
    | some v =>
      if busy ∧ owned = false then fin (h.updCl c fun s => { s with retry := s.retry ++ [.window b off v] }) 0#32 0#32
      else fin (h.setWord (bankBase c b + off) v) 0#32 0#32
    | none =>
      if busy then let f := h.free; fin f.2 1#32 f.1
      else
        let r := h.bankRead c b off
        match r.2 with
        | some v => fin r.1 0#32 v
        | none => fin r.1 4#32 0#32

/-! ### Slices and pairs (01 R42–R45, 03 R108–R109) -/

/-- Slices of a core: SLICE_CFG.SLICES, and 1 where it is not sliced; a compact core cannot be (R42). -/
def Hw.slices (h : Hw) (k : Nat) : Nat := let s := h.fld SLICE_CFG k 3 0; if s < 2 ∨ h.compact k then 1 else min s 8

/-- Neurons of a slice (R42). -/
def Hw.sliceSize (h : Hw) (k : Nat) : Nat := if 4 < h.slices k then 1024 else 2048

/-- The core is one of a degraded pair (R108, R115). -/
def Hw.paired (h : Hw) (k : Nat) : Bool := bit (h.mapOf k) 8

/-- The core is the host of its pair. -/
def Hw.pairHost (h : Hw) (k : Nat) : Bool := bit (h.mapOf k) 9

/-- The other core of a pair. -/
def Hw.partner (h : Hw) (k : Nat) : Nat := k / 32 * 32 + bits (h.mapOf k) 20 16

/-- The core whose state says what is resident: the host of a pair, the core itself otherwise. -/
def Hw.hostOf (h : Hw) (k : Nat) : Nat := if h.paired k ∧ h.pairHost k = false then h.partner k else k

/-- Which slice of its sliced unit a logical core's neurons in slice s are: a host is 0 and a guest 1 of a pair. -/
def Hw.sliceId (h : Hw) (k s : Nat) : Nat := if h.paired k then (if h.pairHost k then 0 else 1) else s

/-- Slice s of core k is resident and not being paged. -/
def Hw.isResident (h : Hw) (k s : Nat) : Bool :=
  let u := h.core (h.hostOf k)
  (h.slices k == 1 && !h.paired k) || (u.resident == h.sliceId k s && !u.paging)

/-- A free place in an inbox: the lowest not in use. -/
def inboxFree (l : List InboxEnt) (n : Nat) : Nat := ((List.range (n + 1)).find? fun i => !(l.any fun e => e.at_ == i)).getD n

/-- An arrival as an inbox entry's low and high words (R44). -/
def inboxWords (ord : Nat) (a : Arrival) : Word × Word :=
  let sub := bits a.ev.low 31 24
  let pl := bits a.ev.low 23 8
  let fl := bits a.ev.low 7 0
  let n := ord % 2 ^ 18 * 2 ^ 46 + sub * 2 ^ 38 + pl * 2 ^ 22 + fl * 2 ^ 14
  (w32 n, w32 (n / 2 ^ 32))

/-- The arrival that an inbox entry stands for. -/
def inboxArrival (e : InboxEnt) (lo hi : Word) : Offer :=
  let n := hi.toNat * 2 ^ 32 + lo.toNat
  { ord := n / 2 ^ 46 % 2 ^ 18
    arr := { ev := { addr := 0#32, low := w32 (n / 2 ^ 38 % 256 * 2 ^ 24 + n / 2 ^ 22 % 65536 * 2 ^ 8 + n / 2 ^ 14 % 256) }
             dstep := e.dstep, late := e.late } }

/-- The bank of core k's inbox, where it holds the access that would write an entry (R158, R168). -/
def Hw.inboxHeld (h : Hw) (k : Nat) : Option Nat :=
  let b := h.fld SLICE_INBOX k 4 0
  if h.portA (k / 32) b (16 * h.fld SLICE_INBOX k 22 8) (k % 32) = .held then some b else none

/-- Append an offer of `streamer` for slice s of core k to k's inbox, or drop it when the inbox is full (R44, R45). -/
def Hw.inboxAppend (h : Hw) (k s streamer : Nat) (o : Offer) : Hw :=
  let l := (h.core k).inbox
  if (h.reg SLICE_INBOX_DEPTH k).toNat ≤ l.length then (h.inc SLICE_INBOX_DROP_CNT k).raiseCore fSliceInboxFull k
  else
    let i := inboxFree l l.length
    let c := k / 32
    let b := h.fld SLICE_INBOX k 4 0
    let off := 16 * h.fld SLICE_INBOX k 22 8 + 8 * i
    let w := inboxWords o.ord o.arr
    let h :=
      if h.portA c b (off + 7) (k % 32) = .ok then
        (h.setWord (bankBase c b + off) w.1).setWord (bankBase c b + off + 4) w.2
      else h.violation c b off (k % 32) false true
    let h := h.updCore k fun x => { x with inbox := x.inbox ++ [⟨i, s, streamer, o.arr.dstep, o.arr.late⟩] }
    h.hwm SLICE_INBOX_HWM k (l.length + 1)

/-! ### Streaming a list (R150–R155) -/

/-- What streaming one offer gathers: the block, the (core, slice) pairs whose inbox gets the event, the cores it added into, the core cycles
of port A (R155), and a bank that holds it up. -/
structure Stream where
  h : Hw
  away : List (Nat × Nat) := []
  tgts : List Nat := []
  cyc : Nat := 0
  wait : Option Nat := none

/-- How contributions of an offer are applied: the streaming core, the arrival, the bank and offset of its chain table, and at a replay the
only (core, slice) that takes them. -/
structure StreamCtx where
  k : Nat
  arr : Arrival
  chain : Nat × Nat
  only : Option (Nat × Nat) := none
deriving DecidableEq, Repr

/-- The slot of a contribution of delay d, none for a deferred event of delay 16 (02 R60, R69, R70). -/
def arrivalSlot (a : Arrival) (d : Nat) : Option Nat :=
  if a.late then (if 16 ≤ d then none else some ((a.dstep.toNat + d) % 16)) else some (ringSlot a.dstep.toNat d)

/-- A contribution of delay d into neuron n of the image resident in core `tgt`; a compact target takes every delay as 1 (03 R96). -/
def Hw.contribute (h : Hw) (tgt n d : Nat) (slot : Nat → Option Nat) (c : Int) : Hw :=
  let h := if h.compact tgt ∧ d ≠ 1 then h.inc DELAY_CLAMP_CNT tgt else h
  match slot (if h.compact tgt then 1 else d) with
  | none => h.inc DEFER_DROP_CNT (tgt / 32)
  | some j => h.accumulate tgt n j c

/-- One contribution to neuron n of logical core `tgt` of the package at delay d. At a replay only the slice paged in takes any; the others
were dealt with when the offer streamed. -/
def applySynapse (x : StreamCtx) (st : Stream) (tgt n d : Nat) (c : Int) : Stream :=
  let h := st.h
  let sliced := decide (1 < h.slices tgt)
  let size := h.sliceSize tgt
  let s := if sliced then n / size else 0
  let n' := if sliced then n % size else n
  let err := if sliced then decide (h.slices tgt ≤ s) else decide (h.neurons tgt ≤ n)
  let add (h : Hw) : Stream :=
    { st with h := (h.inc SYN_CNT x.k).contribute tgt n' d (arrivalSlot x.arr) c, tgts := if tgt ∈ st.tgts then st.tgts else st.tgts ++ [tgt] }
  match x.only with
  | some p => if p = (tgt, s) ∧ err = false then add h else st
  | none =>
    if h.coreAvail tgt = false then { st with h := (h.inc SYN_CNT x.k).inc UNAVAIL_DROP_CNT (tgt / 32) }
    else if err then { st with h := (h.inc SYN_CNT x.k).inc ADDR_DEPTH_ERR_CNT (tgt / 32) }
    else if h.isResident tgt s then add h
    else { st with away := if (tgt, s) ∈ st.away then st.away else st.away ++ [(tgt, s)] }

/-- The delay of a code: 0 means 16 (R152). -/
def delayOf (code : Nat) : Nat := if code = 0 then 16 else code

/-- Fine delay (R153). -/
def fineDelay (fd : Bool) (sub d : Nat) : Nat := if fd ∧ 0x80 ≤ sub then min 16 (d + 1) else d

/-- The fields of a list descriptor (R150). -/
structure Desc where
  fmt : Nat := 0
  graded : Bool := false
  shift : Int := 0
  delay : Nat := 0
  tcore : Nat := 0
  chain : Bool := false
  next : Nat := 0
  len : Nat := 0
  bank : Nat := 0
  offset : Nat := 0
deriving DecidableEq, Repr

/-- A descriptor from its low and high words. -/
def descOf (lo hi : Word) : Desc :=
  { fmt := bits hi 31 30, graded := bit hi 29, shift := sext 4 (bits hi 28 25), delay := bits hi 24 21, tcore := bits hi 20 16
    chain := bit hi 15, next := bits hi 14 4, len := bits hi 3 0 * 2 ^ 12 + bits lo 31 20, bank := bits lo 19 15, offset := bits lo 14 0 }

/-- One synapse word of a list (R152, R153). -/
def applyWord (x : StreamCtx) (d : Desc) (st : Stream) (w : Word) : Stream :=
  let m := if d.graded then bits x.arr.ev.low 23 8 else 1
  let sub := bits x.arr.ev.low 31 24
  let cb := x.k / 32 * 32
  let half (st : Stream) (v : Nat) : Stream :=
    let wt := sext 4 (v / 4096)
    if wt = 0 then st else applySynapse x st (cb + d.tcore) (v % 4096) (delayOf d.delay) (contribution .s4 wt m d.shift)
  if d.fmt = 1 then half (half st (bits w 31 16)) (bits w 15 0)
  else if d.fmt = 2 then
    let wt := sext 12 (bits w 31 20)
    if wt = 0 then st
    else applySynapse x st (cb + bits w 15 11) (bits w 10 0) (delayOf (bits w 19 16)) (contribution .p12 wt m d.shift)
  else
    let wt := sext 8 (bits w 31 24)
    if wt = 0 then st
    else
      applySynapse x st (cb + bits w 17 13) (bits w 12 0) (fineDelay (bit w 18) sub (delayOf (bits w 23 20))) (contribution .s8 wt m d.shift)

/-- The first n words of a line that has been read: a word with an uncorrectable error is skipped and counted (R166). -/
def applyLine (x : StreamCtx) (d : Desc) (st : Stream) (l : List (Option Word)) (n : Nat) : Stream :=
  (l.take n).foldl (fun st w =>
    match w with
    | some w => applyWord x d st w
    | none => { st with h := st.h.inc SYN_UE_CNT x.k }) st

/-- The lines of a list from `line` on, `left` words to go, until one is held. A bank the core does not own reads zero words (R157). -/
def streamLines (x : StreamCtx) (d : Desc) (st : Stream) (line left : Nat) : Nat → Stream
  | 0 => st
  | n + 1 =>
    let c := x.k / 32
    match st.h.portA c d.bank (16 * line) (x.k % 32) with
    | .held => { st with wait := some d.bank }
    | .denied => streamLines x d { st with h := st.h.violation c d.bank (16 * line) (x.k % 32) false false } (line + 1) (left - 4) n
    | .ok =>
      let r := st.h.bankLine c d.bank line
      streamLines x d (applyLine x d { st with h := r.1 } r.2 (min 4 left)) (line + 1) (left - 4) n

/-- Core cycles that a descriptor occupies port A for (R155). -/
def Desc.cycles (d : Desc) : Nat := 1 + (if d.fmt = 1 then 2 else 1) * ceilDiv d.len 4

/-- A descriptor that is not the 8th to have CHAIN = 1, with its must-be-0 fields 0 and its list inside the owned region (R151). -/
def descOk (d : Desc) (i : Nat) : Bool :=
  (decide (d.fmt = 1) || (decide (d.delay = 0) && decide (d.tcore = 0))) && (decide (d.len = 0) || decide (16 * d.offset + 4 * d.len ≤ ownedEnd)) && !(decide (7 ≤ i) && d.chain)

/-- The descriptors of an offer: descriptor number i at (bank, offset), and its chain (R150, R151). -/
def streamChain (x : StreamCtx) (st : Stream) (bank off i : Nat) : Nat → Stream
  | 0 => st
  | n + 1 =>
    if st.h.portA (x.k / 32) bank off (x.k % 32) = .held then { st with wait := some bank }
    else
      let r := st.h.portARead64 (x.k / 32) bank off (x.k % 32)
      let st := { st with h := r.1, cyc := st.cyc + 1 }
      match r.2 with
      | none => st
      | some (lo, hi) =>
        let d := descOf lo hi
        if d.fmt = 3 then st
        else if descOk d i = false then { st with h := (st.h.inc DESC_ERR_CNT x.k).raiseQCore fDescInvalid x.k }
        else
          let st := streamLines x d { st with h := st.h.inc LIST_CNT x.k, cyc := st.cyc + d.cycles - 1 } d.offset d.len (ceilDiv d.len 4)
          if d.chain ∧ st.wait = none then streamChain x st x.chain.1 (x.chain.2 + 8 * d.next) (i + 1) n else st

/-- The bank and offset of the descriptor of an ordinal. -/
def Hw.descAt (h : Hw) (k ord : Nat) : Nat × Nat :=
  (h.fld DESC_BASE k 4 0, 16 * h.fld DESC_BASE k 22 8 + 8 * (ord - h.fld DESC_ORD_LO k 17 0))

/-- The ordinal lies in the core's descriptor window (R150). -/
def Hw.inWindow (h : Hw) (k ord : Nat) : Bool := decide (h.fld DESC_ORD_LO k 17 0 ≤ ord) && decide (ord ≤ h.fld DESC_ORD_HI k 17 0)

/-- The bank and offset of the core's chain table. -/
def Hw.chainAt (h : Hw) (k : Nat) : Nat × Nat := (h.fld CHAIN_BASE k 4 0, 16 * h.fld CHAIN_BASE k 22 8)

/-- What an offer starts with: the bank and offset of its descriptor and of the chain table (R174). -/
def Hw.offerLists (h : Hw) (k : Nat) (o : Offer) : Nat × Nat × Nat × Nat :=
  o.lists.getD ((h.descAt k o.ord).1, (h.descAt k o.ord).2, h.chainAt k)

/-! ### Per-event handlers (04 R118, R130, R141) -/

/-- MC_CTRL, MC_ENTRY, MC_EVT_ORD_LO and MC_EVT_ORD_HI as written. -/
def Hw.mcWritten (h : Hw) (k : Nat) : List Word := [h.reg MC_CTRL k, h.reg MC_ENTRY k, h.reg MC_EVT_ORD_LO k, h.reg MC_EVT_ORD_HI k]

/-- The same registers in force (R141). -/
def Hw.mcNow (h : Hw) (k : Nat) : List Word := ((h.core k).mcForce).getD (h.mcWritten k)

/-- MC_CTRL.ENABLE in force. -/
def Hw.mcEnable (h : Hw) (k : Nat) : Bool := h.pgEn pgMCCFG k && bit ((h.mcNow k).getD 0 0#32) 0

/-- The handler mode of an ordinal: 0 none, 1 AFTER, 2 INSTEAD (R117, R118). -/
def Hw.evtMode (h : Hw) (k ord : Nat) : Nat :=
  let l := h.mcNow k
  let m := bits (l.getD 0 0#32) 2 1
  if h.mcEnable k ∧ bits (l.getD 2 0#32) 17 0 ≤ ord ∧ ord ≤ bits (l.getD 3 0#32) 17 0 ∧ m ≠ 3 then m else 0

/-- Queue a per-event handler, or drop it when 64 wait (R130). -/
def Hw.evqPush (h : Hw) (k : Nat) (o : Offer) (d0 d1 : Word) : Hw :=
  if 64 ≤ (h.core k).evq.length then (h.inc MC_EVQ_DROP_CNT k).raiseCore fMcEvqOvf k
  else
    let e : EvHandler := { ord := o.ord, arr := o.arr, desc0 := d0, desc1 := d1, entry := bits ((h.mcNow k).getD 1 0#32) 25 16 }
    let h := h.updCore k fun c => { c with evq := c.evq ++ [e] }
    h.hwm MC_EVQ_HWM k (h.core k).evq.length

/-- The descriptor at a bank and offset that a handler gets; its words are free where the read met a double-bit error. -/
def Hw.handlerDesc (h : Hw) (k b off : Nat) : Hw × Word × Word :=
  let r := h.portARead64 (k / 32) b off (k % 32)
  match r.2 with
  | some (lo, hi) => (r.1, lo, hi)
  | none => let f := r.1.free; let g := f.2.free; (g.2, f.1, g.1)

/-- The same descriptor once its list has been streamed, when it is not read again. -/
def Hw.streamedDesc (h : Hw) (k b off : Nat) : Hw × Word × Word :=
  let a := bankBase (k / 32) b + off
  if h.portA (k / 32) b off (k % 32) ≠ .ok then (h, 0#32, 0#32)
  else if markEcc (h.mark a) < 40 ∧ markEcc (h.mark (a + 4)) < 40 then (h, h.word a, h.word (a + 4))
  else let f := h.free; let g := f.2.free; (g.2, f.1, g.1)

/-- The lists of an offer are streamed and the event is appended to the inboxes of slices away; a bank that holds any access of it holds the
offer (R150–R155, R158, R168). -/
def Hw.streamOffer (h : Hw) (x : StreamCtx) (bank off : Nat) (o : Offer) : Stream :=
  let st := streamChain x { h := h } bank off 0 8
  match st.wait, st.away.findSome? fun p => st.h.inboxHeld p.1 with
  | none, none => { st with h := st.away.foldl (fun h p => h.inboxAppend p.1 p.2 x.k o) st.h }
  | none, some b => { h := h, wait := some b }
  | some b, _ => { h := h, wait := some b }

/-- What an offer does at its core (R118, R150, R155): stream its lists, append to inboxes of slices away, queue the handler. INSTEAD reads
the descriptor alone. -/
def Hw.runOffer (h : Hw) (k : Nat) (o : Offer) : Stream :=
  let m := h.evtMode k o.ord
  let g := h.offerLists k o
  if m = 2 then
    if h.portA (k / 32) g.1 g.2.1 (k % 32) = .held then { h := h, wait := some g.1 }
    else
      let r := h.handlerDesc k g.1 g.2.1
      { h := r.1.evqPush k o r.2.1 r.2.2 }
  else
    let st := h.streamOffer { k := k, arr := o.arr, chain := g.2.2 } g.1 g.2.1 o
    if m = 1 ∧ st.wait = none then
      let r := st.h.streamedDesc k g.1 g.2.1
      { st with h := r.1.evqPush k o r.2.1 r.2.2 }
    else st

/-- Core j has a pending offer that the crossbar serves before offer o of core k: the older event, or the lower core of one event, with a
contribution to one of the targets (R154). -/
def Hw.servedBefore (h : Hw) (j k : Nat) (o : Offer) (tgts : List Nat) : Bool :=
  (h.core j).listq.any fun p =>
    (decide (p.seq < o.seq) || (decide (p.seq = o.seq) && decide (j < k))) && h.inWindow j p.ord && (h.runOffer j p).tgts.any tgts.contains

/-- The pipeline of core k loses the grant for offer o (R154). -/
def Hw.losesGrant (h : Hw) (k : Nat) (o : Offer) (tgts : List Nat) : Bool :=
  (coresOf (k / 32)).any fun j => decide (j ≠ k) && h.coreAvail j && h.servedBefore j k o tgts

/-- The synapse pipeline of core k takes port A for so many core cycles while its dense list runs: the list loses them (08 R245). -/
def Hw.densePortLost (h : Hw) (k cyc : Nat) : Hw :=
  let g := (h.core k).integ
  if cyc = 0 ∨ h.step.phase ≠ .integrate ∨ h.dev < g.denseAt ∨ g.denseEnd ≤ h.dev then h
  else
    let h := (h.inc DENSE_PORT_STALL_CNT k cyc).setReg DENSE_CYC k (h.reg DENSE_CYC k + w32 cyc)
    let h := if g.stage = .finished then h.setReg CORE_INTEG_CYC k (h.reg CORE_INTEG_CYC k + w32 cyc) else h
    h.updCore k fun c => { c with integ := { c.integ with denseEnd := c.integ.denseEnd + 2 * cyc, cyc := c.integ.cyc + cyc } }

/-- A core takes the offer at the head of its list queue (R150, R155); an offer that a bank holds up, or that loses the grant, waits with the
values it started with. -/
def Hw.listOffer (h : Hw) (k : Nat) : Hw :=
  match (h.core k).listq with
  | [] => h
  | o :: rest =>
    if h.coreAvail k = false then h
    else if o.lists = none ∧ h.inWindow k o.ord = false then h.updCore k fun c => { c with listq := rest }
    else
      let r := (h.updCore k fun c => { c with listq := rest }).runOffer k o
      let wait := h.updCore k fun c => { c with listq := { o with lists := some (h.offerLists k o) } :: rest }
      match r.wait with
      | some b => wait.wakeBank (k / 32) b (whoPipe k)
      | none =>
        if h.losesGrant k o r.tgts then wait.waitOn ACC_XBAR_STALL_CNT (k / 32) 2 k
        else (r.h.waitOff ACC_XBAR_STALL_CNT (k / 32) k).densePortLost k r.cyc

/-- A core takes an offer from its list queue. -/
def execListOfferStream (k : Core) (s : State) : Out := s.onHw fun h => h.listOffer k

/-! ### The lookup queue and the entry table (R145–R149) -/

/-- idx of a way (R145). -/
def entryIdx (seed a : Word) : Nat :=
  let p := a * (seed ||| 1#32)
  (bits p 31 16 ^^^ bits p 15 0) % 2 ^ 15

/-- The bank and offset of an address in way w (R145). -/
def Hw.entryAt (h : Hw) (c w : Nat) (a : Word) : Nat × Nat :=
  let i := entryIdx (if w = 0 then h.reg ENTRY_SEED0 c else h.reg ENTRY_SEED1 c) a
  (16 * w + i % 16, ownedEnd + 8 * (i / 16))

/-- The lookup in one way: the matching entry's low word (R146, R147). -/
def Hw.lookupWay (h : Hw) (c w : Nat) (a : Word) : Hw × Option Word :=
  let p := h.entryAt c w a
  let r := h.bankRead64 c p.1 p.2
  (r.1, match r.2 with
    | some (lo, hi) => if bit lo 31 ∧ hi = a then some lo else none
    | none => none)

/-- The lookup in both ways: the entry's low word, way 0 first (R147). -/
def Hw.lookup (h : Hw) (c : Nat) (a : Word) : Hw × Option Word :=
  let r := h.lookupWay c 0 a
  match r.2 with
  | some e => (r.1, some e)
  | none => r.1.lookupWay c 1 a

/-- Note the lookup queue's occupancy. -/
def Hw.lookupHwm (h : Hw) (c : Nat) : Hw := h.hwm LOOKUP_HWM c (h.cl c).lookq.length

/-- The depth, class and zero fields of a source address are not as 01 R26, R27 and R31 require (R30). -/
def Hw.addrBad (h : Hw) (a : Word) : Bool :=
  match bits a 31 28 with
  | 1 => decide (bits a 27 24 ≠ 0)
  | 2 => false
  | 3 => decide (1 < bits a 23 20) || decide (bits a 19 18 ≠ 0) || (decide (bits a 23 20 = 1) && decide (bits a 17 8 ≠ 0)) ||
      (!h.arrayEn && decide (bits a 27 24 ≠ 0))
  | 4 =>
    let l := bits a 27 26
    (decide (1 ≤ l) && decide (bits a 19 16 ≠ 0)) || (decide (2 ≤ l) && decide (bits a 21 20 ≠ 0)) || (decide (l = 3) && decide (bits a 25 22 ≠ 0))
  | _ => true

/-- The neuron field of a package-local address exceeds the highest neuron of the named core's layout or slice set (01 R28). -/
def Hw.neuronHigh (h : Hw) (a : Word) : Bool :=
  let k := bits a 23 13
  let top := if h.slices k = 1 then (if h.compact k then 8192 else 2048) else h.slices k * h.sliceSize k
  decide (bits a 31 28 = 1) && decide (top ≤ bits a 12 0)

/-- A fabric event reaches the lookup queue of a cluster (R22, R148). -/
def Hw.lookupFabric (h : Hw) (c : Nat) (a : Arrival) : Hw :=
  if (h.cl c).avail = false then h.inc UNAVAIL_DROP_CNT c
  else if h.neuronHigh a.ev.addr then h.inc ADDR_DEPTH_ERR_CNT c
  else if 256 ≤ (h.cl c).lookq.length then (h.inc LOOKUP_OVF_DROP_CNT c).raiseCl fLookupOvf c
  else (h.updCl c fun v => { v with lookq := v.lookq ++ [a] }).lookupHwm c

/-- At least 32 entries of the lookup queue are free (R148). -/
def Hw.lookupRoom (h : Hw) (c : Nat) : Bool := decide ((h.cl c).lookq.length + 32 ≤ 256)

/-- A drip event enters the lookup queue of a cluster that has room (R148, 01 R22, R30). -/
def Hw.lookupDrip (h : Hw) (c : Nat) (a : Arrival) : Hw :=
  if h.addrBad a.ev.addr then h.inc ADDR_DEPTH_ERR_CNT c
  else if (h.cl c).avail = false then h.inc UNAVAIL_DROP_CNT c
  else if h.neuronHigh a.ev.addr then h.inc ADDR_DEPTH_ERR_CNT c
  else (h.updCl c fun v => { v with lookq := v.lookq ++ [a] }).lookupHwm c

/-- The logical cores of cluster c that a group mask names (R146). -/
def groupCores (c mask : Nat) : List Nat := (coresOf c).filter fun k => (mask >>> (k % 32 / 4)) % 2 == 1

/-- One core's offer (R149, 02 R79): dropped at an unavailable core or, from the fabric, at a full queue; held by a core in Warm. -/
def Hw.offerCore (h : Hw) (k : Nat) (o : Offer) : Hw :=
  let c := h.core k
  if h.coreAvail k = false then h.inc UNAVAIL_DROP_CNT (k / 32)
  else if c.warm then (h.updCore k fun c => { c with held := c.held ++ [o] }).inc WAKE_LATE_CNT (k / 32)
  else if 256 ≤ c.listq.length then (h.inc LISTQ_DROP_CNT k).raiseCore fListqOvf k
  else
    let h := h.updCore k fun c => { c with listq := c.listq ++ [o] }
    h.hwm LISTQ_HWM k (h.core k).listq.length

/-- A drip offer has to wait for some core (R149). -/
def Hw.offerBlocked (h : Hw) (ks : List Nat) : Bool :=
  ks.any fun k => h.coreAvail k && !(h.core k).warm && decide (256 ≤ (h.core k).listq.length)

/-- The end of a core's wake: an event held in its ingress register proceeds (02 R79). -/
def Hw.wakeDone (h : Hw) (k : Nat) : Hw :=
  let l := (h.core k).held
  let h := h.updCore k fun c => { c with warm := false, held := [] }
  l.foldl (fun h o => h.offerCore k o) h

/-- A core that was in Warm has finished waking. -/
def execWakeComplete (k : Core) (s : State) : Out := s.onHw fun h => h.wakeDone k

end Sys2Proof.Machine
end

