-- ==== Sys2Proof/Machine/Level.lean ====
section
/-! DEFINITION. The levels of the interrupt sources, and the storm guard that watches them (17 R470, R471, R474). -/

namespace Sys2Proof.Machine

def Hw.eth (h : Hw) (q : Nat) : EthSt := Tbl.get {} h.eths q

def Hw.updFlt (h : Hw) (f : FltSt → FltSt) : Hw := { h with flt := f h.flt }

/-- The clusters of MP0–MP3 (07 R205, 01 R39). -/
def mpCluster (q : Nat) : Nat := [5, 22, 41, 58].getD q 5

/-- The level of a source (R471). -/
def Hw.irqLevel (h : Hw) (i : Nat) : Bool :=
  if i = 1 then (List.range 32).any fun j => decide (h.reg (FLT_PEND j) ≠ 0#32)
  else if i = 2 then h.flag FLT_EVT 0 0
  else if i = 3 then h.flag FLT_STAT 0 2
  else if 4 ≤ i ∧ i < 8 then !(h.ep (64 * mpCluster (i - 4) + 33)).msgq.isEmpty
  else if 8 ≤ i ∧ i < 12 then !(h.eth (i - 8)).fwq.isEmpty
  else if 12 ≤ i ∧ i < 16 then !(h.eth (i - 12)).stamps.isEmpty
  else if 16 ≤ i ∧ i < 64 then h.flag TMR_STAT ((i - 16) / 3) ((i - 16) % 3) && h.flag TMR_CTRL ((i - 16) / 3) (24 + (i - 16) % 3)
  else if 64 ≤ i ∧ i < 96 then h.flag PL_STAT 0 (i - 64)
  else if 96 ≤ i ∧ i < 112 then bit h.flt.swi (i - 96)
  else false

/-! ### The storm guard (R474) -/

/-- IC_STORM_EN bit of a source; STORM_TIME in fabric cycles and STORM_N, where 0 is taken as 1. -/
def Hw.stormEn (h : Hw) (i : Nat) : Bool := h.flag (IC_STORM_EN (i / 32)) 0 (i % 32)
def Hw.stormTime (h : Hw) : Nat := max 1 (h.fld IC_STORM_CFG 0 15 0) * us
def Hw.stormN (h : Hw) : Nat := max 1 (h.fld IC_STORM_CFG 0 23 16)

/-- C increments; at STORM_N the source is masked, counted and raised. -/
def Hw.stormUp (h : Hw) (i : Nat) : Hw :=
  let c := Tbl.get 0 h.flt.storm i + 1
  let h := h.updFlt fun f => { f with storm := Tbl.set 0 f.storm i c }
  if c < h.stormN then h
  else
    let h := (h.setFlag (IC_MASK (i / 32)) 0 (i % 32) true).setFlag (IC_STORM_STAT (i / 32)) 0 (i % 32) true
    (h.inc IC_STORM_CNT).raisePkg fIrqStorm i

/-- The level of a source may have risen: the first rise in a guard window that opened with the level low increments C. -/
def Hw.irqWatch (h : Hw) (i : Nat) : Hw :=
  if Tbl.get 0 h.flt.guard i = 1 ∧ h.dev ≤ Tbl.get 0 h.flt.guardEnd i ∧ h.irqLevel i then
    (h.updFlt fun f => { f with guard := Tbl.set 0 f.guard i 2 }).stormUp i
  else h

end Sys2Proof.Machine
end

