-- ==== Sys2Proof/Machine/Drip.lean ====
section
/-! DEFINITION. The drip plane: topology, packets, routers, windows and event packets (01 R39, 07 R202–R221, R229–R233). -/

namespace Sys2Proof.Machine

/-! ### Topology (01 R39, 06 R179) -/

/-- Row and column of a cluster in the package: Q0 north-west, Q1 north-east, Q2 south-west, Q3 south-east. -/
def clRow (c : Nat) : Nat := c / 32 * 4 + c % 16 / 4
def clCol (c : Nat) : Nat := c / 16 % 2 * 4 + c % 4

/-- The cluster at a row and column. -/
def clAt (r k : Nat) : Nat := (r / 4 * 2 + k / 4) * 16 + r % 4 * 4 + k % 4

/-- Directions, numbered as drip ports 1 to 4 and as the bits of a DTREE entry. -/
inductive Dir
  | north | east | south | west
deriving DecidableEq, Repr

/-- Drip port of a direction. -/
def Dir.port : Dir → Nat
  | .north => 1 | .east => 2 | .south => 3 | .west => 4

/-- The opposite direction. -/
def Dir.opp : Dir → Dir
  | .north => .south | .east => .west | .south => .north | .west => .east

/-- The neighbour of a cluster. -/
def neighbour (c : Nat) : Dir → Option Nat
  | .north => if 0 < clRow c then some (clAt (clRow c - 1) (clCol c)) else none
  | .east => if clCol c < 7 then some (clAt (clRow c) (clCol c + 1)) else none
  | .south => if clRow c < 7 then some (clAt (clRow c + 1) (clCol c)) else none
  | .west => if 0 < clCol c then some (clAt (clRow c) (clCol c - 1)) else none

/-- The direction of a drip port. -/
def dirOf (p : Nat) : Option Dir :=
  match p with
  | 1 => some .north | 2 => some .east | 3 => some .south | 4 => some .west | _ => none

/-- The clusters of ETH0–ETH3 and SC0–SC7 (R39). -/
def ethCluster (q : Nat) : Nat := [2, 17, 46, 61].getD q 2
def scCluster (k : Nat) : Nat := [1, 8, 18, 27, 36, 45, 55, 62].getD k 1

/-- The link at a cluster. -/
def scAt (c : Nat) : Option Nat := (List.range 8).find? fun k => scCluster k == c

/-- The management processor at a cluster, and the Ethernet port at one. -/
def mpAt (c : Nat) : Option Nat := (List.range 4).find? fun q => mpCluster q == c
def ethAt (c : Nat) : Option Nat := (List.range 4).find? fun q => ethCluster q == c

/-- Endpoint e exists at cluster c (07 R205). -/
def epExists (c e : Nat) : Bool :=
  decide (e ≤ 32) || (decide (e = 33) && (mpAt c).isSome) || (decide (e = 34) && (ethAt c).isSome) || (decide (e = 35) && (scAt c).isSome)

/-- An endpoint that can take packets: it exists and its core is available (07 R227). -/
def Hw.epReady (h : Hw) (c e : Nat) : Bool := epExists c e && (decide (32 ≤ e) || h.coreAvail (32 * c + e))

def Hw.link (h : Hw) (k : Nat) : LinkSt := Tbl.get {} h.links k

def Hw.updLink (h : Hw) (k : Nat) (f : LinkSt → LinkSt) : Hw := { h with links := Tbl.set {} h.links k (f (h.link k)) }

/-- Something leaves the package. -/
def Hw.send (h : Hw) (w : Wire) : Hw := { h with wire := h.wire ++ [w] }

/-- SC_STAT.STATE: 0 RESET, 1 TRAIN, 2 UP, 3 DOWN (14 R405). -/
def Hw.scState (h : Hw) (k : Nat) : Nat := h.fld SC_STAT k 1 0

/-- The link carries events: UP, the peer reports itself available, and the cabling is as TOPO_POS says (14 R399, R400, R402). -/
def Hw.scOpen (h : Hw) (k : Nat) : Bool := decide (h.scState k = 2) && h.flag SC_STAT k 2 && !(h.link k).wrong

/-! ### Packets (R206–R208) -/

/-- Packet types. -/
def tEVT := 0
def tCFG := 1
def tMSG := 2
def tCTLQ := 3
def tCTLS := 4
def tWRET := 5

/-- Fields of a header flit. -/
def pType (w : Word) : Nat := bits w 31 29
def pLen (w : Word) : Nat := bits w 28 25 + 1
def pStep (w : Word) : Nat := bits w 24 21
def pEp (w : Word) : Nat := bits w 20 15
def pDest (w : Word) : Nat := bits w 14 7
def pScl (w : Word) : Nat := bits w 6 1
def pRly (w : Word) : Bool := bit w 0
def pDpkg (w : Word) : Nat := bits w 24 21
def pDcl (w : Word) : Nat := bits w 20 15
def pDep (w : Word) : Nat := bits w 14 9

/-- A tree header. -/
def treeHdr (type len step ep dest scl : Nat) (rly : Bool) : Word :=
  w32 (type * 2 ^ 29 + (len - 1) % 16 * 2 ^ 25 + step % 16 * 2 ^ 21 + ep % 64 * 2 ^ 15 + dest % 256 * 2 ^ 7 + scl % 64 * 2 + b2n rly)

/-- A unicast header. -/
def uniHdr (type len dpkg dcl dep : Nat) : Word :=
  w32 (type * 2 ^ 29 + (len - 1) % 16 * 2 ^ 25 + dpkg % 16 * 2 ^ 21 + dcl % 64 * 2 ^ 15 + dep % 64 * 2 ^ 9)

/-- A return address flit. -/
def retAddr (spkg scl sep ticket : Nat) : Word := w32 (spkg % 16 * 2 ^ 28 + scl % 64 * 2 ^ 22 + sep % 64 * 2 ^ 16 + ticket % 16 * 2 ^ 12)

/-- The second flit of CTLQ and CTLS. -/
def ctlWord (op reason conn epoch port : Nat) : Word :=
  w32 (op % 16 * 2 ^ 28 + reason % 16 * 2 ^ 24 + conn % 256 * 2 ^ 16 + epoch % 256 * 2 ^ 8 + port % 256)

/-- The channel of a packet type: 0 REQ, 1 RSP (R206). -/
def vcOf (type : Nat) : Nat := if type < 4 then 0 else 1

/-- LEN lies in its type's range (R208). -/
def lenOk (type len : Nat) : Bool :=
  match type with
  | 0 => decide (len % 2 = 0) && decide (2 ≤ len) && decide (len ≤ 14)
  | 1 => decide (3 ≤ len) && decide (len ≤ 16)
  | 2 => decide (3 ≤ len) && decide (len ≤ 16)
  | 3 => decide (len = 2)
  | 4 => decide (len = 2)
  | 5 => decide (len = 1)
  | _ => false

/-- A header whose type is known, whose LEN is in range and whose zero fields are 0 (R207, R208). -/
def hdrOk (w : Word) : Bool :=
  lenOk (pType w) (pLen w) &&
  (if pType w = tEVT then !pRly w else if pType w = tCFG then decide (pStep w = 0) else decide (bits w 8 0 = 0))

/-- A payload whose zero fields are 0 (R208); p0 and p1 are its first two flits. -/
def payloadOk (type : Nat) (p0 p1 : Word) : Bool :=
  match type with
  | 1 => !bit p0 1
  | 2 => decide (bits p0 11 0 = 0) && decide (bits p1 13 8 = 0)
  | 3 => decide (bits p0 11 0 = 0)
  | 4 => decide (bits p0 11 0 = 0)
  | 5 => decide (bits p0 20 20 = 0) && decide (bits p0 15 0 = 0)
  | _ => true

/-! ### Destination sets (06 R192, 07 R209, R212) -/

/-- The link that DRIP_PKG_ROUTE of a cluster names for a package (R233). -/
def Hw.pkgRoute (h : Hw) (c p : Nat) : Option Nat :=
  let f := if p < 8 then h.fld DRIP_PKG_ROUTE_LO c (4 * p + 3) (4 * p) else h.fld DRIP_PKG_ROUTE_HI c (4 * (p - 8) + 3) (4 * (p - 8))
  if 8 ≤ f then some (f % 8) else none

/-- Word i of destination entry d: entry 0xFF is firmware's, and names every cluster of the package (R211, log 122). -/
def Hw.destWord (h : Hw) (c d i : Nat) : Word :=
  if d = 0xFF then [0xFFFFFFFF#32, 0xFFFFFFFF#32, w32 (2 ^ h.pkgNum)].getD i 0#32 else h.tab .dest c (i * 2 ^ 16 + d)

/-- The package mask of a destination entry. -/
def Hw.destPkgs (h : Hw) (c d : Nat) : Nat := bits (h.destWord c d 2) 15 0

/-- The clusters whose window places a tree packet to entry d needs: the mask's clusters in this package, and a relay's cluster for each
other package. -/
def Hw.destClusters (h : Hw) (c d : Nat) : List Nat :=
  let lo := h.destWord c d 0
  let hi := h.destWord c d 1
  let pk := h.destPkgs c d
  let own := if (pk >>> h.pkgNum) % 2 = 1 then (List.range 64).filter fun i => if i < 32 then bit lo i else bit hi (i - 32) else []
  let away := ((List.range 16).filter fun p => decide (p ≠ h.pkgNum) && (pk >>> p) % 2 == 1).filterMap fun p => (h.pkgRoute c p).map scCluster
  own ++ away.eraseDups

/-- Endpoint e's REQ packets outstanding to cluster d (R212). -/
def Hw.outstanding (h : Hw) (e d : Nat) : Nat := ((h.ep e).sent.filter fun o => o.dcl == d).length

/-- Every cluster of a list has a free window place for endpoint e. -/
def Hw.windowsFree (h : Hw) (e : Nat) (ds : List Nat) : Bool := ds.all fun d => decide (h.outstanding e d < 16)

/-! ### Entering the router (R203, R215) -/

/-- The flits in an input buffer. -/
def Hw.dbufOf (h : Hw) (c p vc : Nat) : List DFlit := Tbl.get [] (h.cl c).dbuf (2 * p + vc)

/-- Free places of an input buffer of 40 flits. -/
def Hw.dbufRoom (h : Hw) (c p vc : Nat) : Nat := 40 - (h.dbufOf c p vc).length

/-- Some transit input buffer of the router holds more than DRIP_THR_HWM flits on REQ. -/
def Hw.throttling (h : Hw) (c : Nat) : Bool := [1, 2, 3, 4, 5].any fun p => decide (h.fld DRIP_THR c 7 0 < (h.dbufOf c p 0).length)

/-- The flits of an input buffer change; DRIP_THR_CYC_CNT counts the cycles in which the router throttles (R215). -/
def Hw.setDbuf (h : Hw) (c p vc : Nat) (l : List DFlit) : Hw :=
  let h := h.updCl c fun v => { v with dbuf := Tbl.set [] v.dbuf (2 * p + vc) l }
  if vc = 0 then (if h.throttling c then h.waitOn DRIP_THR_CYC_CNT c 1 else h.waitOff DRIP_THR_CYC_CNT c) else h

/-- A local endpoint may start a REQ packet of n flits now. -/
def Hw.mayStart (h : Hw) (c n : Nat) : Bool :=
  decide (n ≤ h.dbufRoom c 0 0) && (!h.throttling c || decide ((h.cl c).lastInj + h.fld DRIP_THR c 23 16 ≤ h.dev))

/-- Flits without an error. -/
def goodFlits (ws : List Word) : List DFlit := ws.map fun w => ⟨w, false⟩

/-- Put a packet into the local input buffer. -/
def Hw.inject (h : Hw) (c vc : Nat) (p : List DFlit) : Hw :=
  let h := h.setDbuf c 0 vc (h.dbufOf c 0 vc ++ p)
  if vc = 0 then h.updCl c fun v => { v with lastInj := h.dev } else h

/-- RSP packets enter the local input buffer as room appears. -/
def Hw.flushRsp (h : Hw) (c : Nat) : Nat → Hw
  | 0 => h
  | n + 1 =>
    match (h.cl c).rspq with
    | [] => h
    | p :: r => if p.length ≤ h.dbufRoom c 0 1 then ((h.updCl c fun v => { v with rspq := r }).inject c 1 p).flushRsp c n else h

/-- An endpoint of cluster c sends an RSP packet. -/
def Hw.sendRspFlits (h : Hw) (c : Nat) (p : List DFlit) : Hw :=
  let h := h.updCl c fun v => { v with rspq := v.rspq ++ [p] }
  h.flushRsp c (h.cl c).rspq.length

/-- An endpoint of cluster c sends an RSP packet of these words. -/
def Hw.sendRsp (h : Hw) (c : Nat) (ws : List Word) : Hw := h.sendRspFlits c (goodFlits ws)

/-- REQ packets of an endpoint leave in order, each once its window places are free (R212). -/
def Hw.drainTx (h : Hw) (e : Nat) : Nat → Hw
  | 0 => h
  | n + 1 =>
    match (h.ep e).txq with
    | [] => h
    | (p, ds) :: r =>
      let c := e / 64
      if h.windowsFree e ds then
        let h := h.waitOff WIN_STALL_CNT e
        if h.mayStart c p.length then
          let h := h.updEp e fun s => { s with txq := r, sent := s.sent ++ ds.map fun d => ⟨d, false, 0, h.dev⟩ }
          (h.inject c 0 p).drainTx e n
        else h
      else h.waitOn WIN_STALL_CNT e 1

/-- An endpoint sends a REQ packet other than EVT. -/
def Hw.sendReqFlits (h : Hw) (e : Nat) (p : List DFlit) (ds : List Nat) : Hw :=
  let h := h.updEp e fun s => { s with txq := s.txq ++ [(p, ds)] }
  h.drainTx e (h.ep e).txq.length

/-- An endpoint sends a REQ packet of these words. -/
def Hw.sendReq (h : Hw) (e : Nat) (ws : List Word) (ds : List Nat) : Hw := h.sendReqFlits e (goodFlits ws) ds

/-- The endpoint keys of a cluster that has packets waiting. -/
def Hw.drainCluster (h : Hw) (c : Nat) : Hw := (List.range 36).foldl (fun h i => h.drainTx (64 * c + i) (h.ep (64 * c + i)).txq.length) h

/-- Where a unicast packet to (package, cluster) needs its window place, from cluster c: the cluster, or the relay that carries it out. -/
def Hw.uniDest (h : Hw) (c pkg cl : Nat) : Option Nat := if pkg = h.pkgNum then some cl else (h.pkgRoute c pkg).map scCluster

/-- Return one window place to a source endpoint of cluster `scl` of this package (R213). -/
def Hw.sendWret (h : Hw) (c scl sep : Nat) (evt : Bool) (step : Nat) : Hw :=
  h.sendRsp c [uniHdr tWRET 1 h.pkgNum scl sep, w32 (c % 64 * 2 ^ 26 + (if evt then step % 16 else 0) * 2 ^ 22 + b2n evt * 2 ^ 21)]

/-- Return the window place of a unicast REQ packet to its return address, or to the relay that brought it in (R213, R221). -/
def Hw.wretTo (h : Hw) (c : Nat) (p0 : Word) : Hw :=
  if bits p0 31 28 = h.pkgNum then h.sendWret c (bits p0 27 22) (bits p0 21 16) false 0
  else
    match h.pkgRoute c (bits p0 31 28) with
    | some k => h.sendWret c (scCluster k) 35 false 0
    | none => h

/-- Answer a MSG or CTLQ with a NAK to its return address (R227): the answer's operation code is 0. -/
def Hw.sendCtls (h : Hw) (c : Nat) (p0 : Word) (op reason conn epoch port : Nat) : Hw :=
  h.sendRsp c [uniHdr tCTLS 2 (bits p0 31 28) (bits p0 27 22) (bits p0 21 16), retAddr h.pkgNum c 0 (bits p0 15 12), ctlWord op reason conn epoch port]

/-- Operation codes of CTLQ and CTLS; the spec numbers none, and both ends are this model's. -/
def opNAK := 0
def opOPEN := 1
def opCLOSE := 2
def opOPENACK := 3
def opCLOSEACK := 4
def opACK := 5

/-- NAK reasons (R227). -/
def nFULL := 1
def nBUSY := 2
def nCLOSED := 3
def nCLOSING := 4
def nNOPORT := 5
def nNOCONN := 6
def nUNREACH := 7
def nCORRUPT := 8

/-! ### Routing (R209, R210) -/

/-- The output port of a unicast packet towards cluster d: along the row, then along the column; 0 is the local port. -/
def xyPort (c d : Nat) : Nat :=
  if clCol c < clCol d then 2 else if clCol d < clCol c then 4 else if clRow c < clRow d then 3 else if clRow d < clRow c then 1 else 0

/-- The Saune-D lane of a router in a direction cannot be used (14 R394): SD_STAT of its quadrant, edge 0 towards the quadrant beside it and
edge 1 towards the one above or below, the lane numbered by its row or column (DESIGN CHOICE, log 22). -/
def Hw.sdDead (h : Hw) (c : Nat) (d : Dir) : Bool :=
  match neighbour c d with
  | some n =>
    let ew := d.port == 2 || d.port == 4
    decide (n / 16 ≠ c / 16) && h.flag SD_STAT (c / 16) ((if ew then 0 else 8) + 2 + (if ew then c % 16 / 4 else c % 4))
  | none => false

/-- The same for an output port, or the router beside it has no power (15 R412). -/
def Hw.portDead (h : Hw) (c p : Nat) : Bool :=
  match dirOf p with
  | some d => h.sdDead c d || (match neighbour c d with
    | some n => h.clCold n
    | none => false)
  | none => false

/-- Whether an output port of a router has a link. -/
def portExists (c p : Nat) : Bool :=
  match p with
  | 0 => true
  | 5 => (scAt c).isSome
  | _ => match dirOf p with
    | some d => (neighbour c d).isSome
    | none => false

/-- The tree that entry 0xFF of cluster s spells at router c: every cluster, along the unicast routes from s (R210, R211). -/
def fullTree (s c : Nat) : Word :=
  let r := clRow c
  let k := clCol c
  let own := decide (r = clRow s)
  fields [(0, 1), (1, b2n (decide (r ≤ clRow s) && decide (0 < r))), (2, b2n (own && decide (clCol s ≤ k) && decide (k < 7))),
    (3, b2n (decide (clRow s ≤ r) && decide (r < 7))), (4, b2n (own && decide (k ≤ clCol s) && decide (0 < k))), (7, 1)]

/-- The DTREE entry of a tree tag at router c. -/
def Hw.treeWord (h : Hw) (c scl d : Nat) : Word := if d = 0xFF then fullTree scl c else h.tab .dtree c (scl * 256 + d)

/-- How a header is routed: to these ports, or discarded and counted; a tree error is counted and raised for each bad copy. -/
inductive Route
  | out (ports : List Nat) (treeErrs : Nat)
  | malformed
  | noTree
  | unreach
deriving DecidableEq, Repr

/-- The route of a header at router c. -/
def Hw.routeOf (h : Hw) (c : Nat) (w : Word) : Route :=
  if hdrOk w = false then .malformed
  else if pType w = tEVT ∨ pType w = tCFG then
    let e := h.treeWord c (pScl w) (pDest w)
    if bit e 7 = false then .noTree
    else
      let ps := (List.range 6).filter fun p => bit e p
      .out (ps.filter (portExists c)) (ps.filter fun p => !portExists c p).length
  else if pDpkg w = h.pkgNum then .out [xyPort c (pDcl w)] 0
  else
    match h.pkgRoute c (pDpkg w) with
    | none => .unreach
    | some k => if scCluster k = c then .out [5] 0 else .out [xyPort c (scCluster k)] 0

/-- Credits for n flits of a channel at output p (R203): free places of the next input buffer; RSP is always taken at an endpoint (R204), and a
relay takes REQ packets while it buffers fewer than 64 (R221). -/
def Hw.credit (h : Hw) (c p vc n : Nat) : Bool :=
  match p with
  | 0 =>
    let l := (Tbl.get [] (h.cl c).dlocal vc).length + ((Tbl.get [] (h.cl c).dpkts vc).map List.length).foldl (· + ·) 0
    decide (vc = 1) || decide (l + n ≤ 40)
  | 5 => match scAt c with
    | some k => decide (vc = 1) || decide ((h.link k).out.length < 64)
    | none => false
  | _ => match dirOf p with
    | some d => match neighbour c d with
      | some m => decide (n ≤ h.dbufRoom m d.opp.port vc)
      | none => false
    | none => false

/-- Append a flit to a packet being assembled; a whole packet joins the list. -/
def assemble (part : List DFlit) (whole : List (List DFlit)) (f : DFlit) : List DFlit × List (List DFlit) :=
  let l := part ++ [f]
  match l with
  | [] => (l, whole)
  | hd :: _ => if pLen hd.w + 1 ≤ l.length then ([], whole ++ [l]) else (l, whole)

/-- A whole packet is in a relay's link buffer: the window of a REQ packet returns (R213, R221). -/
def Hw.relayTake (h : Hw) (k vc : Nat) (p : List DFlit) : Hw :=
  let c := scCluster k
  let w := (p.getD 0 {}).w
  if vc = 1 then h.updLink k fun l => { l with outRsp := l.outRsp ++ [p] }
  else
    let h := h.updLink k fun l => { l with out := l.out ++ [p] }
    if pType w = tEVT ∨ pType w = tCFG then h.sendWret c (pScl w) (pEp w) (decide (pType w = tEVT)) (pStep w)
    else h.wretTo c (p.getD 1 {}).w

/-- A flit leaves router c by output p. -/
def Hw.dripOut (h : Hw) (c p vc : Nat) (f : DFlit) : Hw :=
  match p with
  | 0 => h.updCl c fun v =>
      let r := assemble (Tbl.get [] v.dlocal vc) (Tbl.get [] v.dpkts vc) f
      { v with dlocal := Tbl.set [] v.dlocal vc r.1, dpkts := Tbl.set [] v.dpkts vc r.2 }
  | 5 => match scAt c with
    | some k =>
      let r := assemble (Tbl.get [] (h.link k).outAsm vc) [] f
      r.2.foldl (fun h p => h.relayTake k vc p) (h.updLink k fun v => { v with outAsm := Tbl.set [] v.outAsm vc r.1 })
    | none => h
  | _ => match dirOf p with
    | some d => match neighbour c d with
      | some n => h.setDbuf n d.opp.port vc (h.dbufOf n d.opp.port vc ++ [f])
      | none => h
    | none => h

/-- Another packet on the same channel is passing on output o. -/
def Hw.outputBusy (h : Hw) (c p vc o : Nat) : Bool :=
  (List.range 6).any fun i => decide (i ≠ p) &&
    (let r := Tbl.get {} (h.cl c).droute (2 * i + vc); decide (0 < r.left) && !r.drop && decide (o ∈ r.outs))

/-- An RSP flit is ready for output o (R203). -/
def Hw.rspReady (h : Hw) (c o : Nat) : Bool :=
  (List.range 6).any fun i =>
    match h.dbufOf c i 1 with
    | [] => false
    | f :: _ =>
      let r := Tbl.get {} (h.cl c).droute (2 * i + 1)
      let os := if 0 < r.left then r.outs else match h.routeOf c f.w with
        | .out ps _ => ps
        | _ => []
      decide (o ∈ os) && h.credit c o 1 1

/-- A control packet (R230): an uncorrectable flit of it discards the whole packet at the router that finds it, so it moves on whole. -/
def isCtl (type : Nat) : Bool := decide (3 ≤ type)

/-- Count and raise an uncorrectable drip flit (R230). -/
def Hw.dripUe (h : Hw) (c : Nat) : Hw := (h.inc DRIP_UE_CNT c).raiseQCl fDripUe c

/-- What a router's decoder finds in a flit: `err` is 0 good, 1 corrected here, 2 uncorrectable. -/
def Hw.dripErr (h : Hw) (c err : Nat) : Hw := if err = 1 then h.inc DRIP_CE_CNT c else if err = 2 then h.dripUe c else h

/-- The passage of input p's packet. -/
def Hw.route (h : Hw) (c p vc : Nat) : DRoute := Tbl.get {} (h.cl c).droute (2 * p + vc)

/-- Take flits out of an input buffer and note the packet's passage. -/
def Hw.takeFlits (h : Hw) (c p vc : Nat) (rest : List DFlit) (r : DRoute) : Hw :=
  (h.setDbuf c p vc rest).updCl c fun v => { v with droute := Tbl.set {} v.droute (2 * p + vc) r }

/-- Answer a discarded MSG or CTLQ packet that has no route with NAK(UNREACH) (R227, R233); its return address is its first payload flit. -/
def Hw.nakUnreach (h : Hw) (c type : Nat) (p0 : Word) : Hw :=
  if type = tMSG ∨ type = tCTLQ then (h.sendCtls c p0 opNAK nUNREACH 0 0 0).wretTo c p0 else h

/-- Flits that leave together with a header: all of a control packet's. -/
def burst (w : Word) : Nat := if isCtl (pType w) then pLen w + 1 else 1

/-- No other packet is in the way of input p on these outputs, and on REQ no RSP flit is ready for one (R203). -/
def Hw.outsFree (h : Hw) (c p vc : Nat) (outs : List Nat) : Bool := outs.all fun o => !h.outputBusy c p vc o && (decide (vc = 1) || !h.rspReady c o)

/-- Every output has credits for n flits. -/
def Hw.outsCredit (h : Hw) (c vc n : Nat) (outs : List Nat) : Bool := outs.all fun o => h.credit c o vc n

/-- The outputs a header goes to: those whose link works. -/
def Hw.liveOuts (h : Hw) (c : Nat) (ps : List Nat) : List Nat := ps.filter fun o => !h.portDead c o

/-- Input i has a packet that could start on output o now. -/
def Hw.contends (h : Hw) (c i vc o : Nat) : Bool :=
  match h.dbufOf c i vc with
  | [] => false
  | f :: _ => decide ((h.route c i vc).left = 0) && !f.bad && (match h.routeOf c f.w with
    | .out ps _ =>
      let outs := h.liveOuts c ps
      decide (o ∈ outs) && h.outsFree c i vc outs && h.outsCredit c vc (burst f.w) outs
    | _ => false)

/-- Output o serves input p next: round-robin from the input after the one served last (R203). -/
def Hw.turn (h : Hw) (c p vc o : Nat) : Bool :=
  let last := Tbl.get 0 (h.cl c).turn (2 * o + vc)
  ((List.range 6).map fun j => (last + j) % 6).find? (fun i => i == p || h.contends c i vc o) == some p

/-- Output o has served input p. -/
def Hw.served (h : Hw) (c p vc : Nat) (outs : List Nat) : Hw :=
  h.updCl c fun v => { v with turn := outs.foldl (fun t o => Tbl.set 0 t (2 * o + vc) (p + 1)) v.turn }

/-- n flits of input p go on to `outs` by f if nothing is in the way; cycles that wait for a credit are counted (R203). -/
def Hw.dripGo (h : Hw) (c p vc n : Nat) (outs : List Nat) (f : Hw → Hw) : Hw :=
  if h.outsFree c p vc outs = false then h.waitOff DRIP_CRED_STALL_CNT c (2 * p + vc)
  else if h.outsCredit c vc n outs then f (h.waitOff DRIP_CRED_STALL_CNT c (2 * p + vc))
  else h.waitOn DRIP_CRED_STALL_CNT c 1 (2 * p + vc)

/-- Flits go out on every output. -/
def Hw.dripOuts (h : Hw) (c vc : Nat) (outs : List Nat) (l : List DFlit) : Hw := outs.foldl (fun h o => l.foldl (fun h g => h.dripOut c o vc g) h) h

/-- What waited for room in the local input buffer goes on. -/
def Hw.dripSettle (h : Hw) (c p : Nat) : Hw := if p = 0 then (h.flushRsp c (h.cl c).rspq.length).drainCluster c else h

/-- A flit of a packet in passage moves on, or is discarded with its packet, whose first payload flit holds the return address. -/
def Hw.dripPass (h : Hw) (c p vc err : Nat) (f : DFlit) (rest : List DFlit) : Hw :=
  let r := h.route c p vc
  let r' : DRoute := if r.left = 1 then {} else { r with left := r.left - 1 }
  if r.drop then
    let h := (h.dripErr c err).takeFlits c p vc rest (if r.left = 1 then {} else { r' with outs := [] })
    (match r.outs with
      | [ty] => h.nakUnreach c ty f.w
      | _ => h).dripSettle c p
  else
    h.dripGo c p vc 1 r.outs fun h =>
      let h := ((if f.bad then h.dripUe c else h.dripErr c err).takeFlits c p vc rest r')
      (h.dripOuts c vc r.outs [{ f with bad := f.bad || decide (err = 2) }]).dripSettle c p

/-- The outputs of a header that routes: tree errors and unusable links lose their copies, and are counted with the header. -/
def Hw.dripStart (h : Hw) (c p vc : Nat) (all : List Nat) (errs : Nat) (n : Nat) (f : List Nat → Hw → Hw) : Hw :=
  let outs := h.liveOuts c all
  if outs.all (fun o => h.turn c p vc o) = false then h.waitOff DRIP_CRED_STALL_CNT c (2 * p + vc)
  else h.dripGo c p vc n outs fun h =>
    let h := (List.range errs).foldl (fun h _ => (h.inc DRIP_TREE_ERR_CNT c).raiseQCl fDripTree c) h
    let h := if all.length = outs.length then h else h.inc DRIP_TREE_ERR_CNT c (all.length - outs.length)
    f outs (h.served c p vc outs)

/-- A control packet that is whole in the buffer: its flits are checked one by one, and then it moves on whole (R230). -/
def Hw.dripControl (h : Hw) (c p vc err : Nat) (l : List DFlit) (all : List Nat) : Hw :=
  let n := pLen (l.getD 0 {}).w + 1
  let i := (h.route c p vc).checked
  let f := l.getD i {}
  if l.length < n then h
  else if f.bad ∨ err = 2 then ((h.dripUe c).takeFlits c p vc (l.drop n) {}).dripSettle c p
  else if i + 1 < n then (h.dripErr c err).takeFlits c p vc l { checked := i + 1 }
  else h.dripStart c p vc all 0 n fun outs h =>
    (((h.dripErr c err).takeFlits c p vc (l.drop n) {}).dripOuts c vc outs (l.take n)).dripSettle c p

/-- One flit of an input buffer moves on (R203, R208–R210, R230). -/
def Hw.dripForward (h : Hw) (c p vc err : Nat) : Hw :=
  match h.dbufOf c p vc with
  | [] => h
  | f :: rest =>
    let r := h.route c p vc
    if 0 < r.left then h.dripPass c p vc err f rest
    else
      let n := pLen f.w
      let lose (h : Hw) (os : List Nat) : Hw := (h.takeFlits c p vc rest ⟨n, os, true, 0⟩).dripSettle c p
      if r.checked = 0 ∧ (f.bad ∨ err = 2) then lose (h.dripUe c) []
      else
        match h.routeOf c f.w with
        | .malformed => lose ((h.dripErr c err).inc DRIP_TREE_ERR_CNT c) []
        | .noTree => lose (((h.dripErr c err).inc DRIP_TREE_ERR_CNT c).raiseQCl fDripTree c) []
        | .unreach => lose ((h.dripErr c err).inc DRIP_UNREACH_CNT c) [pType f.w]
        | .out all errs =>
          if isCtl (pType f.w) then h.dripControl c p vc err (f :: rest) all
          else h.dripStart c p vc all errs 1 fun outs h =>
            (((h.dripErr c err).takeFlits c p vc rest ⟨n, outs, outs.isEmpty, 0⟩).dripOuts c vc outs [f]).dripSettle c p

/-- A drip flit advances from an input port of a router: ports 0 local, 1–4 north to west, 5 Saune-C. -/
def execDripFlitForward (c : Cluster) (port : Fin 6) (rsp : Bool) (err : Fin 3) (s : State) : Out :=
  s.onHw fun h => h.dripForward c port (b2n rsp) err

/-! ### Local delivery -/

/-- The head packet of a channel of the local port. -/
def Hw.headPkt (h : Hw) (c vc : Nat) : Option (List DFlit) := (Tbl.get [] (h.cl c).dpkts vc).head?

/-- Remove the head packet of a channel. -/
def Hw.popPkt (h : Hw) (c vc : Nat) : Hw := h.updCl c fun v => { v with dpkts := Tbl.set [] v.dpkts vc (Tbl.get [] v.dpkts vc).tail }

/-- The word of flit i of a packet. -/
def flitW (p : List DFlit) (i : Nat) : Word := (p.getD i {}).w

/-- Flit i of a packet is uncorrectable. -/
def flitBad (p : List DFlit) (i : Nat) : Bool := (p.getD i {}).bad

/-- Some flit of a packet is uncorrectable. -/
def pktBad (p : List DFlit) : Bool := p.any fun f => f.bad

/-- The head packet of a channel if it is of a type; a malformed one is discarded and counted (R208), and so is a control packet
with an uncorrectable flit (R230). -/
def Hw.withPkt (h : Hw) (c type : Nat) (f : List DFlit → Hw → Hw) : Hw :=
  match h.headPkt c (vcOf type) with
  | none => h
  | some p =>
    if pType (flitW p 0) ≠ type then h
    else if isCtl type ∧ pktBad p then (h.popPkt c (vcOf type)).dripUe c
    else if payloadOk type (flitW p 1) (flitW p 2) = false then (h.popPkt c (vcOf type)).inc DRIP_TREE_ERR_CNT c
    else f p h

/-! ### Event packets (R216–R219) -/

/-- The spill queue takes no more (06 R191). -/
def Hw.spillFull (h : Hw) (c : Nat) : Bool := decide (1024 ≤ (h.cl c).spill.length)

/-- The injection stage refuses offers (06 R191). -/
def Hw.offerRefused (h : Hw) (c : Nat) : Bool := h.spillFull c || !(h.cl c).residue.isEmpty

/-- Refused offerers of cluster c wait until the injection stage accepts again (06 R191). -/
def Hw.spillRoom (h : Hw) (c : Nat) : Hw := if h.offerRefused c then h else h.waitOff SPILL_STALL_CNT c

/-- The endpoint a spilled event of cluster c goes to: its source core's, or 32 (R216). -/
def Hw.spillEp (h : Hw) (c : Nat) (a : Word) : Nat :=
  if bits a 31 28 = 1 ∧ bits a 23 18 = c ∧ h.addrBad a = false then bits a 17 13 else 32

/-- The spill port moves the head of the spill queue to a drip egress queue (R216). -/
def Hw.spillMove (h : Hw) (c : Nat) : Hw :=
  match (h.cl c).spill with
  | [] => h
  | e :: rest =>
    let k := 64 * c + h.spillEp c e.ev.addr
    if 1024 ≤ (h.ep k).q.length then h
    else
      let h := (h.updCl c fun v => { v with spill := rest }).spillRoom c
      let h := h.updEp k fun s => { s with q := s.q ++ [e], lastAt := h.dev }
      h.hwm EGQ_HWM k (h.ep k).q.length

/-- The spill port moves one event. -/
def execSpillPortMove (c : Cluster) (s : State) : Out := s.onHw fun h => h.spillMove c

/-- Drip traffic that DQUIET waits for has moved in the present cycle (02 R61, R62). -/
def Hw.dripMoved (h : Hw) : Hw := if h.step.dripAt = h.dev then h else h.updStep fun s => { s with dripAt := h.dev }

/-- Delivery of step s has begun: s is not after the step in progress (R217). -/
def Hw.stepStarted (h : Hw) (s : Word) : Bool := !(s == h.stepNum + 1#32) && !(h.step.phase == .idle && s == h.stepNum)

/-- The events that the next EVT packet of a queue holds: up to 7 that share entry and step (R217). -/
def packEvents (q : List Spilled) : List Spilled :=
  match q with
  | [] => []
  | e :: _ => (q.takeWhile fun x => x.dest == e.dest && x.step == e.step).take 7

/-- An endpoint sends an EVT packet, if one is due and its windows are free (R212, R217). -/
def Hw.evtSend (h : Hw) (e : Nat) : Hw :=
  let s := h.ep e
  let c := e / 64
  let l := packEvents s.q
  match l with
  | [] => h
  | x :: _ =>
    let due := decide (l.length = 7) || decide (l.length < s.q.length) || decide (s.lastAt + h.fld DRIP_CTRL c 15 8 ≤ h.dev)
    if due = false ∨ h.stepStarted x.step = false ∨ s.txq ≠ [] then h
    else
      let ds := h.destClusters c x.dest
      if h.windowsFree e ds = false then h.waitOn WIN_STALL_CNT e 1
      else
        let h := h.waitOff WIN_STALL_CNT e
        if h.mayStart c (1 + 2 * l.length) = false then h
        else
          let hd := treeHdr tEVT (2 * l.length) (x.step.toNat % 16) (e % 64) x.dest c false
          let ws := hd :: l.flatMap fun y => [y.ev.addr, y.ev.low]
          let h := h.updEp e fun s => { s with q := s.q.drop l.length, sent := s.sent ++ ds.map fun d => ⟨d, true, x.step.toNat % 16, h.dev⟩ }
          ((h.inc DRIP_EVT_OUT_CNT c l.length).dripMoved).inject c 0 (goodFlits ws)

/-- An endpoint of a cluster sends a packed EVT packet. -/
def execEvtPacketSend (c : Cluster) (ep : Fin 36) (s : State) : Out := s.onHw fun h => h.evtSend (64 * c.val + ep.val)

/-- What a receiver does with the events of a packet (R218). -/
inductive EvtFate
  | onTime | lateDrop | defer (step : Word) | deferDrop | stale
deriving DecidableEq, Repr

/-- Delivery of the step in progress is over for arrivals: it has closed, in the integrate phase or at the flush of a context switch, or DROP or
DEFER closes it in the present cycle (R218, 02 R63, R69, 18 R484). -/
def Hw.deliveryOver (h : Hw) : Bool :=
  match h.step.phase with
  | .delivery => h.policy != .stretch && decide (h.deadline ≤ h.dev)
  | .idle => h.switching && decide (2 ≤ h.sw.stage)
  | _ => true

/-- The fate of an event with tag g (R218, 02 R69, R70). -/
def Hw.evtFate (h : Hw) (g : Nat) : EvtFate :=
  let t := h.stepNum
  if g = t.toNat % 16 then
    if h.deliveryOver = false then .onTime
    else match h.policy with
      | .defer => .defer t
      | _ => .lateDrop
  else if g = (t - 1#32).toNat % 16 then
    match h.policy with
    | .defer => if h.deadline ≤ h.dev ∧ h.step.phase ≠ .idle then .deferDrop else .defer (t - 1#32)
    | _ => .lateDrop
  else .stale

/-- Events i, i + 1, … (n of them) of an EVT packet, without those with an uncorrectable flit. -/
def evtEvents (p : List DFlit) (i : Nat) : Nat → List Ev
  | 0 => []
  | n + 1 =>
    let r := evtEvents p (i + 1) n
    if flitBad p (1 + 2 * i) || flitBad p (2 + 2 * i) then r else ⟨flitW p (1 + 2 * i), flitW p (2 + 2 * i)⟩ :: r

/-- n events of a fate that places nothing are dropped and counted (R218). -/
def Hw.dropFate (h : Hw) (c n : Nat) : EvtFate → Hw
  | .lateDrop => h.inc DRIP_LATE_DROP_CNT c n
  | .deferDrop => h.inc DEFER_DROP_CNT c n
  | .stale => h.inc DRIP_STALE_DROP_CNT c n
  | _ => h

/-- A drip event is placed as the instant of its placement asks (R218, 02 R63, R69). -/
def Hw.placeDrip (h : Hw) (c : Nat) (a : Arrival) : Hw :=
  let place (h : Hw) (a : Arrival) : Hw :=
    let n := (h.cl c).lookq.length
    let h := h.lookupDrip c a
    if n < (h.cl c).lookq.length then h.inc DRIP_EVT_IN_CNT c else h
  match h.evtFate (a.dstep.toNat % 16) with
  | .onTime => place h { a with dstep := h.stepNum }
  | .defer t => place (h.inc LATE_EVT_CNT c) { a with ev := { a.ev with low := setBit a.ev.low 4 true }, dstep := t, late := true }
  | f => h.dropFate c 1 f

/-- Admit waiting drip events to the lookup queue while it has 32 free entries, at most n; the window returns with the last (R148, R213). -/
def Hw.admitDrip (h : Hw) (c : Nat) : Nat → Hw
  | 0 => h
  | n + 1 =>
    match (h.cl c).admitq with
    | [] => h
    | a :: rest =>
      if (h.cl c).avail ∧ h.lookupRoom c = false then h
      else
        let h := (h.updCl c fun v => { v with admitq := rest }).placeDrip c a
        match rest, (h.cl c).admitRet with
        | [], some (scl, sep, st) => (h.updCl c fun v => { v with admitRet := none }).sendWret c scl sep true st
        | _, _ => h.admitDrip c n

/-- One waiting drip event enters the lookup queue. -/
def execDripLookupAdmit (c : Cluster) (s : State) : Out := s.onHw fun h => h.admitDrip c 1

/-- The router takes the EVT packet at the head of its local port (R218). -/
def Hw.evtRx (h : Hw) (c : Nat) : Hw :=
  h.withPkt c tEVT fun p h =>
    if (h.cl c).admitRet.isSome then h
    else
      let w := flitW p 0
      let n := pLen w / 2
      let evs := evtEvents p 0 n
      let h := h.popPkt c 0
      let h := (List.range (n - evs.length)).foldl (fun h _ => h.dripUe c) h
      let clr (e : Ev) : Ev := { e with low := e.low &&& 0xFFFFFF1F#32 }
      let fate := h.evtFate (pStep w)
      if evs ≠ [] ∧ (fate = .onTime ∨ fate = .defer h.stepNum ∨ fate = .defer (h.stepNum - 1#32)) then
        let t := if fate = .defer (h.stepNum - 1#32) then h.stepNum - 1#32 else h.stepNum
        let h := h.updCl c fun v =>
          { v with admitq := evs.map fun e => { ev := clr e, fabric := false, dstep := t }, admitRet := some (pScl w, pEp w, pStep w) }
        h.admitDrip c 8
      else (h.dropFate c evs.length fate).sendWret c (pScl w) (pEp w) true (pStep w)

/-- A receiving router takes an EVT packet. -/
def execDripEvtRx (c : Cluster) (s : State) : Out := s.onHw fun h => h.evtRx c

/-! ### Windows (R213, R214) -/

/-- Remove up to n outstanding places of a list that a return covers. -/
def returnPlaces (rcl : Nat) (evt : Bool) (step : Nat) : Nat → List Outstanding → List Outstanding
  | 0, l => l
  | _, [] => []
  | n + 1, o :: l =>
    if o.dcl = rcl ∧ o.evt = evt ∧ (evt = false ∨ o.step = step) then returnPlaces rcl evt step n l
    else o :: returnPlaces rcl evt step (n + 1) l

/-- The packet that endpoint e would send next waits for a window place (R212). -/
def Hw.winWaits (h : Hw) (e : Nat) : Bool :=
  match (h.ep e).txq, (h.ep e).q with
  | (_, ds) :: _, _ => !h.windowsFree e ds
  | [], x :: _ => !h.windowsFree e (h.destClusters (e / 64) x.dest)
  | [], [] => false

/-- Window places of endpoint e are free again: what waits for one goes on, and its wait is over (R212). -/
def Hw.winFreed (h : Hw) (e : Nat) : Hw :=
  let h := h.dripMoved
  let h := if h.winWaits e then h else h.waitOff WIN_STALL_CNT e
  h.drainTx e (h.ep e).txq.length

/-- A window return reaches its endpoint; one for an endpoint that cannot take it is lost and counted (R231). -/
def Hw.wretRx (h : Hw) (c : Nat) : Hw :=
  h.withPkt c tWRET fun p h =>
    let e := 64 * c + pDep (flitW p 0)
    let w := flitW p 1
    let h := h.popPkt c 1
    if h.epReady c (pDep (flitW p 0)) = false then h.inc DRIP_UNREACH_CNT c
    else (h.updEp e fun s => { s with sent := returnPlaces (bits w 31 26) (bit w 21) (bits w 25 22) (bits w 19 16 + 1) s.sent }).winFreed e

/-- A window return frees places at its source endpoint. -/
def execWretRx (c : Cluster) (s : State) : Out := s.onHw fun h => h.wretRx c

/-- DRIP_WIN_TMO, 0 taken as 1. -/
def Hw.winTmo (h : Hw) (c : Nat) : Nat := max 1 (h.fld DRIP_WIN_TMO c 23 0)

/-- A window place that has not come back in time is reclaimed (R214): the oldest of an endpoint. -/
def Hw.winTimeout (h : Hw) (e : Nat) : Hw :=
  let c := e / 64
  match (h.ep e).sent with
  | [] => h
  | o :: rest =>
    let h := h.advTo (o.at_ + h.winTmo c)
    let h := h.updEp e fun s => { s with sent := rest }
    ((h.inc DRIP_WIN_TMO_CNT c).raiseQCl fDripWinTmo c).winFreed e

/-- A window place of an endpoint times out. -/
def execDripWinTimeout (c : Cluster) (ep : Fin 36) (s : State) : Out := s.onHw fun h => h.winTimeout (64 * c.val + ep.val)

/-! ### Drip-quiet (02 R61, 07 R219, R221) -/

/-- An endpoint holds no events, and has no unacknowledged EVT packets, for step t. -/
def Hw.epQuiet (h : Hw) (e : Nat) (t : Word) : Bool :=
  let s := h.ep e
  (s.q.all fun x => x.step != t) && s.sent.all fun o => !(o.evt && o.step == t.toNat % 16)

/-- A cluster is drip-quiet for step t (R61), and for step t − 1 under DEFER (R219); an unavailable one is (02 R67). -/
def Hw.dquiet (h : Hw) (c : Nat) : Bool :=
  let v := h.cl c
  let t := h.stepNum
  let one (t : Word) : Bool := (v.spill.all fun x => x.step != t) && ((List.range 36).all fun i => h.epQuiet (64 * c + i) t)
  !v.avail || (v.residue.isEmpty && one t && (h.policy != .defer || one (t - 1#32)))

/-- A relay of the package at a cluster holds no event packet that has still to cross (R221). -/
def Hw.relayQuiet (h : Hw) (k : Nat) : Bool := ((h.link k).out ++ (h.link k).inn).all fun p => pType (flitW p 0) != tEVT

/-- Discard the step-t events of every queue of a cluster at a forced close under DROP (R219, 06 R191). -/
def Hw.flushDrop (h : Hw) (c : Nat) : Hw :=
  let t := h.stepNum
  let sp := (h.cl c).spill
  let n := (sp.filter fun x => x.step == t).length + (h.cl c).residue.length
  let h := (h.updCl c fun v => { v with spill := sp.filter fun x => x.step != t, residue := [] }).spillRoom c
  let h := (h.inc FLUSH_DROP_CNT c n).dripMoved
  (List.range 36).foldl (fun h i =>
    let e := 64 * c + i
    let m := ((h.ep e).q.filter fun x => x.step == t).length
    if m = 0 then h
    else ((h.updEp e fun s => { s with q := s.q.filter fun x => x.step != t }).inc EGQ_DROP_CNT e m).inc FLUSH_DROP_CNT c m) h

end Sys2Proof.Machine
end

