-- ==== Sys2Proof/Machine/Chan.lean ====
section
/-! DEFINITION. Message channels: tickets, handles, receive slots, rings and control packets (04 R128, R131; 07 R222–R228). -/

namespace Sys2Proof.Machine

/-- The cluster and the number of an endpoint key. -/
def epCl (e : Nat) : Nat := e / 64
def epNo (e : Nat) : Nat := e % 64

/-- The endpoint of a logical core. -/
def epIsCore (e : Nat) : Bool := decide (epNo e < 32)

/-- The logical core of a core endpoint. -/
def epCore (e : Nat) : Nat := 32 * epCl e + epNo e

/-- Ports, receive slots and sender handles of an endpoint (R128, R222, R234). -/
def epPorts (e : Nat) : Nat := if epIsCore e then 8 else 64
def epSlots (e : Nat) : Nat := if epIsCore e then 32 else 256
def epHandles (e : Nat) : Nat := if epIsCore e then 16 else 256

/-- The memory that an endpoint's rings and message buffers lie in: data memory of a core, receive memory of an MP or a gateway. -/
def epMem (e : Nat) : Nat :=
  if epIsCore e then dmAddr (epCore e) 0
  else if epNo e = 33 then mpBase ((mpAt (epCl e)).getD 0)
  else gatewayBase ((ethAt (epCl e)).getD 0)

/-- Bytes of that memory that addresses wrap in: 8 KiB for a core (04 R119). -/
def epMemSize (e : Nat) : Nat := if epIsCore e then 8192 else 65536

/-! ### Tickets and handles (04 R128, R223) -/

/-- The lowest ticket not in use. -/
def Hw.freeTicket (h : Hw) (e : Nat) : Option Nat := (List.range 16).find? fun t => !(Tbl.get {} (h.ep e).tickets t).used

def Hw.ticket (h : Hw) (e t : Nat) : Ticket := Tbl.get {} (h.ep e).tickets t

def Hw.setTicket (h : Hw) (e t : Nat) (v : Ticket) : Hw := h.updEp e fun s => { s with tickets := Tbl.set {} s.tickets t v }

def Hw.handle (h : Hw) (e i : Nat) : Handle := Tbl.get {} (h.ep e).handles i

def Hw.setHandle (h : Hw) (e i : Nat) (v : Handle) : Hw := h.updEp e fun s => { s with handles := Tbl.set {} s.handles i v }

def Hw.slot (h : Hw) (e i : Nat) : Slot := Tbl.get {} (h.ep e).slots i

def Hw.setSlot (h : Hw) (e i : Nat) (v : Slot) : Hw := h.updEp e fun s => { s with slots := Tbl.set {} s.slots i v }

def Hw.port (h : Hw) (e p : Nat) : Listener := Tbl.get {} (h.ep e).ports p

def Hw.setPort (h : Hw) (e p : Nat) (v : Listener) : Hw := h.updEp e fun s => { s with ports := Tbl.set {} s.ports p v }

/-- A ticket ends done. -/
def Hw.ticketDone (h : Hw) (e t : Nat) : Hw := h.setTicket e t { h.ticket e t with st := 1 }

/-- A ticket ends with a NAK. -/
def Hw.ticketNak (h : Hw) (e t reason : Nat) : Hw := h.setTicket e t { h.ticket e t with st := 2, reason := reason }

/-- The value a posted function returns when every ticket is in use (R128). -/
def noTicket : Word := 0xFFFFFFFF#32

/-! ### Receive slots (R222, R224) -/

/-- A message of slot i is unhandled, or still arriving. -/
def Hw.slotBusy (h : Hw) (e i : Nat) : Bool :=
  ((h.ep e).live.any fun m => m.conn == i) || (let r := Tbl.get {} (h.ep e).resv i; r.used && !r.discard)

/-- A CTLQ is answered, and its window place returns with the answer (R213). -/
def Hw.answer (h : Hw) (c : Nat) (p0 : Word) (op reason conn epoch port : Nat) : Hw := (h.sendCtls c p0 op reason conn epoch port).wretTo c p0

/-- A CLOSING slot with no unhandled message becomes CLOSED: its EPOCH increments and a waiting CLOSE_ACK is sent (R222). -/
def Hw.slotSweep (h : Hw) (e i : Nat) : Hw :=
  let s := h.slot e i
  if s.st = 2 ∧ h.slotBusy e i = false then
    let h := h.setSlot e i { epoch := (s.epoch + 1) % 256 }
    match s.ackTo with
    | some p0 => h.answer (epCl e) p0 opCLOSEACK 0 i s.epoch s.port
    | none => h
  else h

/-- A CLOSING port whose slots are all CLOSED is freed and its tickets complete (R224). -/
def Hw.portSweep (h : Hw) (e p : Nat) : Hw :=
  let l := h.port e p
  if l.closing ∧ ((h.ep e).slots.all fun x => decide (x.2.st = 0) || decide (x.2.port ≠ p)) then
    l.tickets.foldl (fun h t => h.ticketDone e t) (h.setPort e p {})
  else h

/-- Every slot and port that can be closed is closed. -/
def Hw.closeSweep (h : Hw) (e : Nat) : Hw :=
  let h := ((h.ep e).slots.map Prod.fst).foldl (fun h i => h.slotSweep e i) h
  ((h.ep e).ports.map Prod.fst).foldl (fun h p => h.portSweep e p) h

/-! ### The receive ring (R226) -/

/-- Bytes of a record of a message of m bytes. -/
def ringRec (m : Nat) : Nat := 4 + 4 * ceilDiv m 4

/-- The WRAP marker. -/
def wrapMark : Word := 0x80000000#32

/-- Where a record of r bytes goes, and whether a WRAP marker is written at TAIL; none where the ring refuses it. -/
def ringFit (l : Listener) (r : Nat) : Option (Nat × Bool) :=
  let head := if l.used = 0 then 0 else l.head
  let tail := if l.used = 0 then 0 else l.tail
  if head < tail ∨ (tail = head ∧ l.used = 0) then
    if r ≤ l.size - tail then some (tail, false) else if r ≤ head then some (0, true) else none
  else if r ≤ head - tail then some (tail, false) else none

/-- Place a record for a message of m bytes on connection `conn` in the ring of port p. -/
def Hw.ringPlace (h : Hw) (e p conn m : Nat) : Option (Hw × Nat) :=
  let l := h.port e p
  let r := ringRec m
  let l := if l.used = 0 then { l with head := 0, tail := 0 } else l
  match ringFit l r with
  | none => none
  | some (x, wrap) =>
    let a := epMem e + l.base
    let h := if wrap then h.setWord (a + l.tail) wrapMark else h
    let used := if wrap then l.used + (l.size - l.tail) else l.used
    let h := h.setWord (a + x) (w32 (conn % 256 * 2 ^ 16 + m % 512))
    let tail := if x + r = l.size then 0 else x + r
    some (h.setPort e p { l with tail := tail, used := used + r }, x)

/-- Reclaim released records in ring order, at most n. -/
def ringReclaim (h : Hw) (a : Nat) (l : Listener) : Nat → Listener
  | 0 => l
  | n + 1 =>
    if l.used = 0 then l
    else
      let w := h.word (a + l.head)
      if w = wrapMark then ringReclaim h a { l with used := l.used - (l.size - l.head), head := 0 } n
      else if bit w 30 then
        let r := ringRec (bits w 8 0)
        let hd := if l.head + r = l.size then 0 else l.head + r
        ringReclaim h a { l with used := l.used - r, head := hd } n
      else l

/-- Release the record at offset x of port p's ring. -/
def Hw.ringRelease (h : Hw) (e p x : Nat) : Hw :=
  let l := h.port e p
  let a := epMem e + l.base
  let h := h.setWord (a + x) (setBit (h.word (a + x)) 30 true)
  h.setPort e p (ringReclaim h a l 1024)

/-- A message's handler has ended, or firmware has finished with it: its ring space is released and its slot may close (R131). -/
def Hw.messageEnd (h : Hw) (e p x : Nat) : Hw :=
  let h := h.ringRelease e p x
  let h := h.updEp e fun s => { s with live := s.live.filter fun m => !(m.port == p && m.at_ == x) }
  h.closeSweep e

/-! ### Sender functions (04 R128, 07 R223, R224, R227) -/

/-- Post a function: take a ticket, or answer `noTicket`. -/
def Hw.post (h : Hw) (e op handle : Nat) (f : Nat → Hw → Hw) : Hw × Word :=
  match h.freeTicket e with
  | none => (h, noTicket)
  | some t => (f t (h.setTicket e t { used := true, st := 0, op := op, handle := handle, sentAt := h.dev }), w32 t)

/-- LISTEN: port, ring base, ring size code and handler entry. A reserved size code gives a free size. -/
def Hw.chanListen (h : Hw) (e p base size entry : Nat) : Hw × Word :=
  h.post e 0 0 fun t h =>
    let l := h.port e p
    if l.closing then h.ticketNak e t nCLOSING
    else if l.on ∨ epPorts e ≤ ((h.ep e).ports.filter fun x => x.2.on).length then h.ticketNak e t nBUSY
    else
      let f : Nat × Hw := if size < 5 then (size, h) else let r := h.free; (r.1.toNat % 5, r.2)
      (f.2.setPort e p { on := true, base := base, size := 256 * 2 ^ f.1, entry := entry }).ticketDone e t

/-- OPEN of a connection to a port of a destination endpoint (package, cluster, endpoint). -/
def Hw.chanOpen (h : Hw) (e pkg cl ep p : Nat) : Hw × Word :=
  match (List.range (epHandles e)).find? fun i => (h.handle e i).st == 0 with
  | none => h.post e 1 0 fun t h => h.ticketNak e t nNOCONN
  | some i =>
    h.post e 1 i fun t h =>
      let h := h.setHandle e i { st := 1, dst := pkg * 2 ^ 16 + cl * 2 ^ 8 + ep, port := p }
      h.sendReq e [uniHdr tCTLQ 2 pkg cl ep, retAddr h.pkgNum (epCl e) (epNo e) t, ctlWord opOPEN 0 0 0 p] (h.uniDest (epCl e) pkg cl).toList

/-- The data words of bytes, four to a word, the last padded with zeros. -/
def packWords : List Byte → List Word
  | [] => []
  | a :: b :: c :: d :: r => bytesWord a b c d :: packWords r
  | [a, b, c] => [bytesWord a b c 0#8]
  | [a, b] => [bytesWord a b 0#8 0#8]
  | [a] => [bytesWord a 0#8 0#8 0#8]

/-- The segments of a message's words: 14 words to a packet, `first` for the first (R208). -/
def segments (first : Bool) (l : List Word) : Nat → List (Nat × List Word)
  | 0 => []
  | n + 1 =>
    if l.length ≤ 14 then [(if first then 0 else 3, l)]
    else (if first then 1 else 2, l.take 14) :: segments false (l.drop 14) n

/-- SEND of a message of bytes on an open handle. -/
def Hw.sendMessage (h : Hw) (e i t : Nat) (msg : List Byte) : Hw :=
  let hd := h.handle e i
  let pkg := bits (w32 hd.dst) 19 16
  let cl := bits (w32 hd.dst) 13 8
  let ep := bits (w32 hd.dst) 5 0
  let one (h : Hw) (s : Nat × List Word) : Hw :=
    h.sendReq e
      ([uniHdr tMSG (2 + s.2.length) pkg cl ep, retAddr h.pkgNum (epCl e) (epNo e) t,
        w32 (hd.conn % 256 * 2 ^ 24 + hd.epoch % 256 * 2 ^ 16 + s.1 * 2 ^ 14 + (msg.length - 1) % 256)] ++ s.2)
      (h.uniDest (epCl e) pkg cl).toList
  ((segments true (packWords msg) 8).foldl one h).inc MSG_TX_CNT e

/-- SEND: the message is copied out before the function returns; a handle that is not OPEN completes with NAK(CLOSED). -/
def Hw.chanSend (h : Hw) (e i : Nat) (msg : List Byte) : Hw × Word :=
  h.post e 2 i fun t h => if (h.handle e i).st = 2 then h.sendMessage e i t msg else h.ticketNak e t nCLOSED

/-- CLOSE of a handle: a CLOSE is sent for an OPEN one; any other is freed and the ticket completes. -/
def Hw.chanCloseHandle (h : Hw) (e i : Nat) : Hw × Word :=
  h.post e 3 i fun t h =>
    let hd := h.handle e i
    if hd.st = 2 then
      let pkg := bits (w32 hd.dst) 19 16
      let cl := bits (w32 hd.dst) 13 8
      let h := h.setHandle e i { hd with st := 4 }
      h.sendReq e [uniHdr tCTLQ 2 pkg cl (bits (w32 hd.dst) 5 0), retAddr h.pkgNum (epCl e) (epNo e) t,
        ctlWord opCLOSE 0 hd.conn hd.epoch hd.port] (h.uniDest (epCl e) pkg cl).toList
    else (if hd.st = 3 then h.setHandle e i {} else h).ticketDone e t

/-- CLOSE of a listening port (R224). -/
def Hw.chanClosePort (h : Hw) (e p : Nat) : Hw × Word :=
  h.post e 4 p fun t h =>
    let l := h.port e p
    if l.on then
      let h := h.setPort e p { l with closing := true, tickets := l.tickets ++ [t] }
      let h := h.updEp e fun s => { s with slots := s.slots.map fun x => if x.2.st = 1 ∧ x.2.port = p then (x.1, { x.2 with st := 2 }) else x }
      h.closeSweep e
    else h.ticketDone e t

/-- STATUS of a ticket; a ticket that is done or NAKed is freed. -/
def Hw.chanStatus (h : Hw) (e t : Nat) : Hw × Word :=
  let k := h.ticket e t
  if 16 ≤ t ∨ k.used = false ∨ k.op = 9 then (h, 3#32)
  else if k.st = 0 then (h, 0#32)
  else
    (h.setTicket e t {}, w32 (k.st + k.reason % 16 * 16 + (if k.op = 1 ∧ k.st = 1 then k.handle % 256 * 256 else 0)))

/-! ### Control packets at the receiver (R223, R224) -/

/-- The sender of a request as its return address names it: package, cluster and endpoint. -/
def senderOf (p0 : Word) : Nat := bits p0 31 16

/-- A request for an endpoint that cannot take it is counted and refused (R227, R231). -/
def Hw.unreachable (h : Hw) (c : Nat) (p0 : Word) : Hw := ((h.inc DRIP_UNREACH_CNT c).sendCtls c p0 opNAK nUNREACH 0 0 0).wretTo c p0

/-- Take the CTLQ packet at the head of the local port if its operation is `op`. -/
def Hw.withCtlq (h : Hw) (c op : Nat) (f : Nat → Word → Word → Hw → Hw) : Hw :=
  h.withPkt c tCTLQ fun p h =>
    let p0 := flitW p 1
    let p1 := flitW p 2
    let dep := pDep (flitW p 0)
    let o := bits p1 31 28
    if o ≠ op ∧ (o = opOPEN ∨ o = opCLOSE) then h
    else
      let h := h.popPkt c 0
      if o ≠ op then h.inc DRIP_TREE_ERR_CNT c
      else if h.epReady c dep = false then h.unreachable c p0
      else f (64 * c + dep) p0 p1 h

/-- Answer an OPEN request (R223). -/
def Hw.openRx (h : Hw) (e : Nat) (p0 p1 : Word) : Hw :=
  let c := epCl e
  let p := bits p1 7 0
  let l := h.port e p
  let snd := senderOf p0
  if l.on = false then h.answer c p0 opNAK nNOPORT 0 0 p
  else if l.closing ∨ ((h.ep e).slots.any fun x => x.2.st == 2 && x.2.port == p && x.2.sender == snd) then h.answer c p0 opNAK nCLOSING 0 0 p
  else
    match (List.range (epSlots e)).find? fun i => (h.slot e i).st == 0 with
    | none => h.answer c p0 opNAK nNOCONN 0 0 p
    | some i =>
      let s := h.slot e i
      (h.setSlot e i { st := 1, epoch := s.epoch, sender := snd, port := p }).answer c p0 opOPENACK 0 i s.epoch p

/-- A receiver takes an OPEN request. -/
def execCtlqOpenRx (c : Cluster) (s : State) : Out := s.onHw fun h => h.withCtlq c opOPEN fun e p0 p1 h => h.openRx e p0 p1

/-- A CLOSE puts a matching OPEN slot in CLOSING, whose drain answers it; any other is answered at once (R224). -/
def Hw.closeRx (h : Hw) (e : Nat) (p0 p1 : Word) : Hw :=
  let i := bits p1 23 16
  let s := h.slot e i
  if s.st = 1 ∧ s.epoch = bits p1 15 8 then (h.setSlot e i { s with st := 2, ackTo := some p0 }).closeSweep e
  else h.answer (epCl e) p0 opCLOSEACK 0 i (bits p1 15 8) (bits p1 7 0)

/-- A receiver takes a CLOSE request. -/
def execCtlqCloseRx (c : Cluster) (s : State) : Out := s.onHw fun h => h.withCtlq c opCLOSE fun e p0 p1 h => h.closeRx e p0 p1

/-! ### Control packets at the sender (R223–R227) -/

/-- Take the CTLS packet at the head of the local port if its operation is `op`, with its pending ticket; one that nobody waits for any more
(`op` 9) is freed. An answer to an endpoint that cannot take it is lost and counted (R231). -/
def Hw.withCtls (h : Hw) (c op : Nat) (f : Nat → Nat → Ticket → Word → Hw → Hw) : Hw :=
  h.withPkt c tCTLS fun p h =>
    let p1 := flitW p 2
    let o := bits p1 31 28
    if o ≠ op then (if o = opNAK ∨ o = opOPENACK ∨ o = opCLOSEACK ∨ o = opACK then h else (h.popPkt c 1).inc DRIP_TREE_ERR_CNT c)
    else
      let e := 64 * c + pDep (flitW p 0)
      let t := bits (flitW p 1) 15 12
      let h := h.popPkt c 1
      let k := h.ticket e t
      if h.epReady c (pDep (flitW p 0)) = false then h.inc DRIP_UNREACH_CNT c
      else if k.used ∧ k.st = 0 then (if k.op = 9 then h.setTicket e t {} else f e t k p1 h) else h

/-- An OPEN_ACK completes the OPEN and gives the handle CONN and EPOCH. -/
def Hw.openAcked (h : Hw) (c : Nat) : Hw :=
  h.withCtls c opOPENACK fun e t k p1 h =>
    if k.op = 1 then
      (h.setHandle e k.handle { h.handle e k.handle with st := 2, conn := bits p1 23 16, epoch := bits p1 15 8 }).ticketDone e t
    else h

def execCtlsOpenAckRx (c : Cluster) (s : State) : Out := s.onHw fun h => h.openAcked c

/-- A CLOSE_ACK completes the CLOSE; the handle is free. -/
def execCtlsCloseAckRx (c : Cluster) (s : State) : Out :=
  s.onHw fun h => h.withCtls c opCLOSEACK fun e t k _ h => if k.op = 3 then (h.setHandle e k.handle {}).ticketDone e t else h

/-- An ACK completes the SEND. -/
def execCtlsAckRx (c : Cluster) (s : State) : Out :=
  s.onHw fun h => h.withCtls c opACK fun e t k _ h => if k.op = 2 then h.ticketDone e t else h

/-- A NAK completes a ticket with its reason; a SEND refused as CLOSED or UNREACH closes its handle, a refused OPEN or CLOSE frees it. -/
def Hw.nakRx (h : Hw) (e t : Nat) (k : Ticket) (reason : Nat) : Hw :=
  let h := (h.ticketNak e t reason).inc NAK_RX_CNT e
  if k.op = 2 then
    (if reason = nCLOSED ∨ reason = nUNREACH then h.setHandle e k.handle { h.handle e k.handle with st := 3 } else h)
  else if k.op = 1 ∨ k.op = 3 then h.setHandle e k.handle {}
  else h

/-- A NAK completes a ticket. -/
def execCtlsNakRx (c : Cluster) (s : State) : Out :=
  s.onHw fun h => h.withCtls c opNAK fun e t k p1 h => h.nakRx e t k (bits p1 27 24)

/-! ### Message segments (R225, R226, R230) -/

/-- Write a segment's words into a reserved record, no further than the record. -/
def Hw.fillRing (h : Hw) (e : Nat) (r : Resv) (ws : List Word) : Hw :=
  h.setWords (epMem e + (h.port e r.port).base + r.at_ + 4 + 4 * r.got) (ws.take (ceilDiv r.mlen 4 - r.got))

def Hw.setResv (h : Hw) (e i : Nat) (r : Resv) : Hw := h.updEp e fun s => { s with resv := Tbl.set {} s.resv i r }

/-- A message is in progress on connection i. -/
def Hw.resvLive (h : Hw) (e i : Nat) : Bool := let r := Tbl.get {} (h.ep e).resv i; r.used && !r.discard

/-- Give up a reservation: its ring space is released and its dispatch place is free. -/
def Hw.dropResv (h : Hw) (e i : Nat) (then_ : Resv) : Hw :=
  let r := Tbl.get {} (h.ep e).resv i
  if h.resvLive e i then
    let h := h.ringRelease e r.port r.at_
    ((h.updEp e fun s => { s with reserved := s.reserved - 1 }).setResv e i then_).closeSweep e
  else h.setResv e i then_

/-- A first segment follows one whose message never ended: the segments it had are discarded and counted (log 123). -/
def Hw.abandonResv (h : Hw) (e i : Nat) : Hw :=
  let n := ceilDiv (Tbl.get {} (h.ep e).resv i).got 14
  (if h.resvLive e i then h.inc MSG_SEG_DISCARD_CNT e n else h).dropResv e i {}

/-- Count and answer a refused message (R225). -/
def Hw.nakMsg (h : Hw) (e i : Nat) (p0 : Word) (reason : Nat) : Hw :=
  (if reason = nFULL then h.inc MSG_FULL_DROP_CNT e
    else if reason = nBUSY then h.inc MSG_BUSY_DROP_CNT e
    else if reason = nCLOSED ∨ reason = nCLOSING then h.inc MSG_CLOSED_DROP_CNT e
    else h).sendCtls (epCl e) p0 opNAK reason i 0 0

/-- Refuse a message of EPOCH `ep`: its remaining segments are discarded (R225). -/
def Hw.refuseMsg (h : Hw) (e i ep : Nat) (p0 : Word) (reason : Nat) (more : Bool) : Hw :=
  (h.dropResv e i (if more then { used := true, discard := true, epoch := ep } else {})).nakMsg e i p0 reason

/-- The whole message is in the ring: it joins the dispatch queue and is acknowledged. -/
def Hw.msgWhole (h : Hw) (e i : Nat) (r : Resv) (p0 : Word) : Hw :=
  let m : MsgRec := { conn := i, port := r.port, at_ := r.at_, len := r.mlen }
  let h := h.updEp e fun s => { s with msgq := s.msgq ++ [m], live := s.live ++ [m], reserved := s.reserved - 1 }
  let h := match (List.range 4).find? fun q => e == 64 * mpCluster q + 33 with
    | some q => h.irqWatch (4 + q)
    | none => h
  ((h.setResv e i {}).inc MSG_RX_CNT e).sendCtls (epCl e) p0 opACK 0 i 0 r.port

/-- The dispatch queue of a core endpoint is full, or its microcode is off (R131, R225). -/
def Hw.msgBusy (h : Hw) (e : Nat) : Bool :=
  epIsCore e && (decide (16 ≤ (h.ep e).msgq.length + (h.ep e).reserved) || !h.mcEnable (epCore e))

/-- The first or only segment of a message of m bytes: refused, or placed in the ring (R225, R226). -/
def Hw.segFirst (h : Hw) (e i ep m : Nat) (p0 : Word) (ws : List Word) (bad more : Bool) : Hw :=
  let s := h.slot e i
  if bad then h.refuseMsg e i ep p0 nCORRUPT more
  else if h.msgBusy e then h.refuseMsg e i ep p0 nBUSY more
  else
    match h.ringPlace e s.port i m with
    | none => h.refuseMsg e i ep p0 nFULL more
    | some (h, x) =>
      let r : Resv := { used := true, port := s.port, at_ := x, mlen := m, epoch := ep }
      let h := h.updEp e fun s => { s with reserved := s.reserved + 1 }
      let h := (h.fillRing e r ws).setResv e i { r with got := ws.length }
      if more then h else h.msgWhole e i r p0

/-- A message segment at its endpoint. A segment of an EPOCH that is not its slot's leaves the slot's own message alone. -/
def Hw.segRx (h : Hw) (e : Nat) (p0 p1 : Word) (ws : List Word) (bad : Bool) : Hw :=
  let i := bits p1 31 24
  let ep := bits p1 23 16
  let seg := bits p1 15 14
  let m := bits p1 7 0 + 1
  let more := decide (seg = 1 ∨ seg = 2)
  let s := h.slot e i
  let r := Tbl.get {} (h.ep e).resv i
  if seg = 0 ∨ seg = 1 then
    if s.st = 1 ∧ s.epoch = ep then (h.abandonResv e i).segFirst e i ep m p0 ws bad more
    else
      let why := if s.st = 2 ∧ s.epoch = ep then nCLOSING else nCLOSED
      if h.resvLive e i ∧ r.epoch ≠ ep then h.nakMsg e i p0 why else (h.abandonResv e i).refuseMsg e i ep p0 why more
  else if r.used = false ∨ r.epoch ≠ ep ∨ r.discard then
    let h := h.inc MSG_SEG_DISCARD_CNT e
    if seg = 3 ∧ r.used ∧ r.epoch = ep then h.setResv e i {} else h
  else if bad then h.refuseMsg e i ep p0 nCORRUPT more
  else
    let h := (h.fillRing e r ws).setResv e i { r with got := r.got + ws.length }
    if more then h else h.msgWhole e i r p0

/-- The router takes the message segment at the head of its local port. -/
def Hw.msgRx (h : Hw) (c : Nat) : Hw :=
  h.withPkt c tMSG fun p h =>
    let dep := pDep (flitW p 0)
    let p0 := flitW p 1
    let p1 := flitW p 2
    let ws := (p.drop 3).map fun f => f.w
    let h := h.popPkt c 0
    if h.epReady c dep = false then
      (if bits p1 15 14 = 0 ∨ bits p1 15 14 = 1 then h.unreachable c p0 else (h.inc DRIP_UNREACH_CNT c).wretTo c p0)
    else (h.segRx (64 * c + dep) p0 p1 ws (pktBad p)).wretTo c p0

/-- A message segment arrives. -/
def execMsgSegmentRx (c : Cluster) (s : State) : Out := s.onHw fun h => h.msgRx c

/-! ### Endpoint reset (R228) -/

/-- A CLOSE to the receiver of an OPEN handle, for which nothing waits. -/
def Hw.closeOpen (h : Hw) (e t : Nat) (x : Handle) : Hw :=
  let pkg := bits (w32 x.dst) 19 16
  let cl := bits (w32 x.dst) 13 8
  h.sendReq e [uniHdr tCTLQ 2 pkg cl (bits (w32 x.dst) 5 0), retAddr h.pkgNum (epCl e) (epNo e) t, ctlWord opCLOSE 0 x.conn x.epoch x.port]
    (h.uniDest (epCl e) pkg cl).toList

/-- Slots that f names go to CLOSED with a new EPOCH, and a CLOSE that waits is answered; what their rings and reservations hold is discarded
and counted. -/
def Hw.dropSlots (h : Hw) (e : Nat) (f : Slot → Bool) : Hw :=
  let s := h.ep e
  let mine (i : Nat) : Bool := let v := Tbl.get {} s.slots i; decide (v.st ≠ 0) && f v
  let resv := s.resv.filter fun x => mine x.1 && x.2.used && !x.2.discard
  let h := h.inc MSG_CLOSED_DROP_CNT e ((s.live.filter fun m => mine m.conn).length + resv.length)
  let acks := s.slots.filterMap fun x => if x.2.st = 2 ∧ f x.2 then x.2.ackTo.map fun a => (x.1, x.2.epoch, x.2.port, a) else none
  let shut (x : Nat × Slot) : Nat × Slot := if mine x.1 then (x.1, { epoch := (x.2.epoch + 1) % 256 }) else x
  let h := h.updEp e fun s =>
    { s with slots := (s.slots.map shut).filter (fun x => x.2 != {}), resv := s.resv.filter (fun x => !mine x.1)
             live := s.live.filter (fun m => !mine m.conn), msgq := s.msgq.filter (fun m => !mine m.conn), reserved := s.reserved - resv.length }
  acks.foldl (fun h x => h.answer (epCl e) x.2.2.2 opCLOSEACK 0 x.1 x.2.1 x.2.2.1) h

/-- Packets that wait to leave are discarded and counted with the segments, every slot CLOSED with a new EPOCH, ports off, messages discarded and counted, a CLOSE to the receiver of every OPEN handle. -/
def Hw.epReset (h : Hw) (e : Nat) : Hw :=
  let open_ := (h.ep e).handles.filter fun x => x.2.st == 2
  let h := (h.inc MSG_SEG_DISCARD_CNT e (h.ep e).txq.length).waitOff WIN_STALL_CNT e
  let h := (h.updEp e fun s => { s with txq := [] }).dropSlots e fun _ => true
  let h := h.updEp e fun s => { s with ports := [], resv := [], live := [], msgq := [], reserved := 0, handles := [], tickets := [] }
  open_.foldl (fun h x => h.closeOpen e 0 x.2) h

end Sys2Proof.Machine
end

