-- ==== Sys2Proof/Machine/Dense.lean ====
section
/-! DEFINITION. Dense mode: layer descriptors, bin conversion, rotation, accumulation, requantisation and clip tables (08). -/

namespace Sys2Proof.Machine

/-! ### Arithmetic (R236, R246, R247, R252) -/

/-- `rnd` of R236: round half up. -/
def rnd (x : Int) (s : Nat) : Int := if s = 0 then x else (x + ((2 ^ (s - 1) : Nat) : Int)) / ((2 ^ s : Nat) : Int)

/-- `sat8`, `sat16` and `sat40` of R236. -/
def satI8 (x : Int) : Int := satS 8 x
def satI16 (x : Int) : Int := satS 16 x
def satI40 (x : Int) : Int := satS 40 x

/-- The mantissa and shift of a ScaleQ (R246). -/
def scaleM (q : Nat) : Nat := q / 32 % 2048
def scaleS (q : Nat) : Nat := q % 32

/-- One block's term (R247). -/
def blockTerm (part : Int) (q : Nat) : Int := rnd (part * (scaleM q : Int)) (scaleS q)

/-- A bin cell's activation before saturation (R248). -/
def binValue (slot : Int) (q : Nat) (z : Int) : Int := rnd (slot * (scaleM q : Int)) (10 + scaleS q) + z

/-- The output of R247: the value and whether it clipped. -/
def requantise (acc corr : Int) (om ts : Nat) (zOut : Int) (relu wide : Bool) : Int × Bool :=
  let y := rnd ((acc - corr) * (om : Int)) ts + zOut
  let lo : Int := if relu then zOut else -128
  let hi : Int := if wide then 32767 else 127
  (min (max y lo) hi, decide (hi < y) || (!relu && decide (y < lo)))

/-- The parity of a number's one bits, for numbers below 64. -/
def parity6 (n : Nat) : Bool := (n % 2 + n / 2 % 2 + n / 4 % 2 + n / 8 % 2 + n / 16 % 2 + n / 32 % 2) % 2 == 1

/-- Row a of H_n times a vector (R252). -/
def hadamardRow (a : Nat) (l : List Int) : Int := (l.zipIdx.map fun p => if parity6 (a &&& p.2) then -p.1 else p.1).foldl (· + ·) 0

/-! ### Layer descriptors (R240, R241) -/

/-- A layer. -/
structure Layer where
  kind : Nat := 0
  w4 : Bool := false
  relu : Bool := false
  inSrc : Nat := 0
  emit : Bool := false
  zpCh : Bool := false
  rot : Nat := 0
  rotShift : Nat := 0
  clipEn : Bool := false
  iolEn : Bool := false
  iol : Nat := 0
  oolEn : Bool := false
  ool : Nat := 0
  pb : Nat := 0
  kk : Nat := 0
  nn : Nat := 0
  zIn : Int := 0
  zOut : Int := 0
  emitBase : Nat := 0
  inAddr : Nat := 0
  outAddr : Nat := 0
  zpAddr : Nat := 0
  clipAddr : Nat := 0
  wBank : Nat := 0
  wOff : Nat := 0
  sBank : Nat := 0
  sOff : Nat := 0
  mm : Nat := 0
  wIn : Nat := 0
  hIn : Nat := 0
  kw : Nat := 1
  kh : Nat := 1
  stride : Nat := 1
  pad : Nat := 0
deriving DecidableEq, Repr

/-- The fields of eight descriptor words. -/
def layerOf (l : List Word) : Layer :=
  let w i := l.getD i 0#32
  { kind := bits (w 0) 31 30, w4 := bit (w 0) 29, relu := bit (w 0) 28, inSrc := bits (w 0) 27 26, emit := bit (w 0) 24, zpCh := bit (w 0) 23
    rot := bits (w 0) 22 21, rotShift := bits (w 0) 20 18, clipEn := bit (w 0) 17, iolEn := bit (w 0) 16, iol := bits (w 0) 15 14
    oolEn := bit (w 0) 13, ool := bits (w 0) 12 11, pb := bits (w 0) 6 0, kk := 16 * (bits (w 1) 9 0 + 1), nn := bits (w 1) 22 10 + 1
    zIn := sext 8 (bits (w 2) 7 0), zOut := sext 8 (bits (w 2) 15 8), emitBase := bits (w 2) 28 16
    inAddr := 16 * bits (w 3) 12 0, outAddr := 16 * bits (w 3) 25 13, zpAddr := 16 * bits (w 4) 12 0, clipAddr := 16 * bits (w 4) 25 13
    wBank := bits (w 5) 4 0, wOff := 16 * bits (w 5) 19 5, sBank := bits (w 6) 4 0, sOff := 16 * bits (w 6) 19 5
    mm := bits (w 7) 12 0 + 1, wIn := bits (w 7) 9 0 + 1, hIn := bits (w 7) 19 10 + 1, kw := bits (w 7) 22 20 + 1, kh := bits (w 7) 25 23 + 1
    stride := bits (w 7) 27 26 + 1, pad := bits (w 7) 29 28 }

/-- The layer is CONV2D. -/
def Layer.conv (y : Layer) : Bool := y.kind == 1

/-- C_in. -/
def Layer.cin (y : Layer) : Nat := if y.conv then y.kk / (y.kh * y.kw) else y.kk

/-- H_out and W_out. -/
def Layer.hOut (y : Layer) : Nat := if y.hIn + 2 * y.pad < y.kh then 0 else (y.hIn + 2 * y.pad - y.kh) / y.stride + 1
def Layer.wOut (y : Layer) : Nat := if y.wIn + 2 * y.pad < y.kw then 0 else (y.wIn + 2 * y.pad - y.kw) / y.stride + 1

/-- M, the positions. -/
def Layer.m (y : Layer) : Nat := if y.conv then y.hOut * y.wOut else y.mm

/-- G, the channels of an output group (R242). -/
def Layer.g (y : Layer) : Nat := if y.w4 then 8 else 4

/-- Input bytes, which is the number of cells for bin input. -/
def Layer.cells (y : Layer) : Nat := if y.conv then y.hIn * y.wIn * y.cin else y.mm * y.kk

/-- Input rows or pixels of a side tensor (R250). -/
def Layer.inPos (y : Layer) : Nat := if y.conv then y.hIn * y.wIn else y.mm

/-- The rotation block, 0 for none. -/
def Layer.rotN (y : Layer) : Nat := if y.rot = 1 then 32 else if y.rot = 2 then 64 else 0

/-- Lines of a scale record, and its bytes (R246). -/
def Layer.recLines (y : Layer) : Nat := ceilDiv (2 + ceilDiv (ceilDiv y.kk 64) 2) 4

/-- Bytes of the weight and scale tensors (R243, R246). -/
def Layer.wBytes (y : Layer) : Nat := ceilDiv y.nn y.g * (y.kk / 16) * 64
def Layer.sBytes (y : Layer) : Nat := y.nn * y.recLines * 16

/-- Reserved fields of the words are 0 (R240). -/
def layerReservedOk (l : List Word) : Bool :=
  let w i := l.getD i 0#32
  let conv := bits (w 0) 31 30 == 1
  decide (bits (w 0) 31 30 ≠ 2) && decide (bits (w 0) 27 26 < 2) && decide (bits (w 0) 22 21 < 3) && !bit (w 0) 25 && decide (bits (w 0) 10 7 = 0) &&
  decide (bits (w 1) 31 23 = 0) && decide (bits (w 2) 31 29 = 0) && decide (bits (w 3) 31 26 = 0) && decide (bits (w 4) 31 26 = 0) &&
  decide (bits (w 5) 31 20 = 0) && decide (bits (w 6) 31 20 = 0) && (if conv then decide (bits (w 7) 31 30 = 0) else decide (bits (w 7) 31 13 = 0))

/-- SIDE_ADDR in bytes of an outlier set, as stored. -/
def Hw.sideAddr (h : Hw) (k i : Nat) : Nat := 16 * bits (h.word (coreBase k + 16 * h.fld (OLSET_ADDR i) k 12 0 + 32)) 12 0

/-- The checks of R241 on a layer whose words have been read. -/
def Hw.layerOk (h : Hw) (k i : Nat) (l : List Word) : Bool :=
  let y := layerOf l
  let sram := 131072
  layerReservedOk l && decide (1 ≤ y.pb) && decide (y.pb ≤ if y.w4 then 32 else 64) &&
  (!y.conv || decide (y.kk % (y.kh * y.kw) = 0)) && decide (y.cin % 16 = 0) && (decide (y.rotN = 0) || decide (y.cin % y.rotN = 0)) &&
  (decide (y.inSrc ≠ 1) || decide (i = 0)) && !(y.iolEn && decide (y.rotN ≠ 0)) &&
  decide (y.inAddr + y.cells ≤ sram) && decide (y.outAddr + y.m * y.nn ≤ sram) && (!y.zpCh || decide (y.zpAddr + y.cin ≤ sram)) &&
  (!y.clipEn || decide (y.clipAddr + 4 * (y.nn + 2) ≤ sram)) &&
  (!y.iolEn || (decide (16 * h.fld (OLSET_ADDR y.iol) k 12 0 + 48 ≤ sram) && decide (h.sideAddr k y.iol + 32 * y.inPos ≤ sram))) &&
  (!y.oolEn || (decide (16 * h.fld (OLSET_ADDR y.ool) k 12 0 + 48 ≤ sram) && decide (h.sideAddr k y.ool + 32 * y.m ≤ sram))) &&
  (!y.emit || decide (y.emitBase + y.m * y.nn ≤ if h.compact k then 8192 else 2048)) &&
  (!y.conv || (decide (1 ≤ y.hOut) && decide (1 ≤ y.wOut))) &&
  decide (y.wBank * ownedEnd + y.wOff + y.wBytes ≤ 32 * ownedEnd) && decide (y.sBank * ownedEnd + y.sOff + y.sBytes ≤ 32 * ownedEnd) &&
  (decide (y.inSrc ≠ 1) || decide (h.fld DENSE_BIN_BASE k 12 0 + y.cells ≤ h.neurons k))

/-- The address of descriptor i. -/
def Hw.descAddr (h : Hw) (k i : Nat) : Nat := coreBase k + 16 * h.fld DENSE_LIST k 12 0 + 32 * i

/-- How descriptor i reads: the end of the list, a layer, or an invalid one. -/
inductive LayerRead
  | stop | bad | ok (y : Layer)
deriving DecidableEq, Repr

/-- Judge the words of descriptor i; none where a word is uncorrectable. -/
def Hw.judgeLayer (h : Hw) (k i : Nat) : Option (List Word) → LayerRead
  | none => .bad
  | some l => if bits (l.getD 0 0#32) 31 30 = 3 then .stop else if h.layerOk k i l then .ok (layerOf l) else .bad

/-- Descriptor i lies inside the 128 KiB of core SRAM; one that does not is invalid, a table past the end (R241, log 119). -/
def Hw.descInside (h : Hw) (k i : Nat) : Bool := decide (16 * h.fld DENSE_LIST k 12 0 + 32 * i + 32 ≤ 131072)

/-- How descriptor i reads on the words as they stand. -/
def Hw.peekLayer (h : Hw) (k i : Nat) : LayerRead :=
  h.judgeLayer k i (if h.descInside k i then some (h.words (h.descAddr k i) 8) else none)

/-- Read n words of core SRAM with the error rules; an uncorrectable word is counted and raised (R104), and answers none. -/
def Hw.sramWords (h : Hw) (k a : Nat) : Nat → Hw × List (Option Word)
  | 0 => (h, [])
  | n + 1 =>
    let r := h.coreRead k a
    let g := if r.2.isNone then r.1.coreUe k else r.1
    let q := g.sramWords k (a + 4) n
    (q.1, r.2 :: q.2)

/-- All of a list, or none where one is missing. -/
def allSome {α : Type} : List (Option α) → Option (List α)
  | [] => some []
  | none :: _ => none
  | some a :: r => (allSome r).map (a :: ·)

/-- Read descriptor i. -/
def Hw.readLayer (h : Hw) (k i : Nat) : Hw × LayerRead :=
  if h.descInside k i then
    let r := h.sramWords k (h.descAddr k i) 8
    (r.1, r.1.judgeLayer k i (allSome r.2))
  else (h, .bad)

/-- The bin cells of a core: layer 0 of its list has IN_SRC = 01, whether or not it is otherwise valid, on the words as they stand (R248). -/
def Hw.binCells (h : Hw) (k : Nat) : Nat :=
  let l := h.words (h.descAddr k 0) 8
  let y := layerOf l
  if h.en DENSE_CTRL k 0 ∧ h.descInside k 0 ∧ y.kind ≠ 3 ∧ y.inSrc = 1 then y.cells else 0

/-- Neuron n is a bin cell: the fixed path and the handlers skip it (R248). -/
def Hw.isBin (h : Hw) (k cells n : Nat) : Bool := let b := h.fld DENSE_BIN_BASE k 12 0; decide (b ≤ n) && decide (n < b + cells)

/-- The list runs in the step in progress (R238). -/
def Hw.denseDue (h : Hw) (k : Nat) : Bool :=
  h.en DENSE_CTRL k 0 &&
  (match h.fld DENSE_CTRL k 2 1 with
   | 1 => decide (h.stepNum.toNat % max 1 (h.fld DENSE_PERIOD k 10 0) = h.fld DENSE_PERIOD k 25 16)
   | 2 => (h.core k).trigNow
   | _ => true)

/-! ### Reading tensors (R240, R243, R250, R253) -/

/-- Bytes of a list of words, none for each byte of an uncorrectable one. -/
def wordsBytes (l : List (Option Word)) : List (Option Byte) :=
  l.flatMap fun w => match w with
    | some w => (wordBytes w).map some
    | none => [none, none, none, none]

/-- n bytes of core SRAM from a multiple of 16, read once. -/
def Hw.sramBytes (h : Hw) (k a n : Nat) : Hw × List (Option Byte) :=
  let r := h.sramWords k (coreBase k + a) (ceilDiv n 4)
  (r.1, (wordsBytes r.2).take n)

/-- A byte list with free values where a byte could not be read. -/
def Hw.fillFree (h : Hw) : List (Option Byte) → Hw × List Byte
  | [] => (h, [])
  | some b :: r => let q := h.fillFree r; (q.1, b :: q.2)
  | none :: r => let f := h.free; let q := f.2.fillFree r; (q.1, f.1.setWidth 8 :: q.2)

/-- The zero point of each input channel. -/
def Hw.zeroPoints (h : Hw) (k : Nat) (y : Layer) : Hw × Array Int :=
  if y.zpCh then
    let r := h.sramBytes k y.zpAddr y.cin
    let q := r.1.fillFree r.2
    (q.1, (q.2.map fun b => b.toInt).toArray)
  else (h, (List.replicate y.cin y.zIn).toArray)

/-- An outlier set: the channel indices in use, in order, with their places j (R250). -/
def Hw.outlierSet (h : Hw) (k i : Nat) : Hw × List (Nat × Nat) :=
  let r := h.sramWords k (coreBase k + 16 * h.fld (OLSET_ADDR i) k 12 0) 9
  let q := r.1.fillFree (wordsBytes r.2)
  let b (j : Nat) : Nat := (q.2.getD j 0#8).toNat
  let cnt := min 16 (b 34 % 32)
  (q.1, (List.range cnt).filterMap fun j => let v := b (2 * j) + 256 * b (2 * j + 1); if v = 0xFFFF then none else some (v, j))

/-- The owner's read of a word of a tensor that runs on from bank to bank (R243); an uncorrectable word reads as 0 and is counted (R253). -/
def Hw.tensorLine (h : Hw) (k bank start a : Nat) : Hw × List Word :=
  let b := if start < ownedEnd then bank + (start + a) / ownedEnd else bank
  let off := if start < ownedEnd then (start + a) % ownedEnd else start + a
  let c := k / 32
  if h.portA c b off (k % 32) = .ok then
    let r := h.bankLine c b (off / 16)
    let bad := (r.2.filter Option.isNone).length
    ((if bad = 0 then r.1 else r.1.inc DENSE_UE_CNT k bad), r.2.map fun w => w.getD 0#32)
  else (h.violation c b off (k % 32) false false, [0#32, 0#32, 0#32, 0#32])

/-- n lines of a tensor from byte a on. -/
def Hw.tensorLines (h : Hw) (k bank start a : Nat) : Nat → Hw × List Word
  | 0 => (h, [])
  | n + 1 =>
    let r := h.tensorLine k bank start a
    let q := r.1.tensorLines k bank start (a + 16) n
    (q.1, r.2 ++ q.2)

/-- The banks that a layer's weight and scale tensors touch. -/
def Layer.banks (y : Layer) : List Nat :=
  rangeIncl (y.wBank + y.wOff / ownedEnd) (y.wBank + (y.wOff + y.wBytes - 1) / ownedEnd) ++
  rangeIncl (y.sBank + y.sOff / ownedEnd) (y.sBank + (y.sOff + y.sBytes - 1) / ownedEnd)

/-- Byte i of a word list. -/
def byteAt (l : Array Word) (i : Nat) : Nat := ((l.getD (i / 4) 0#32).toNat >>> (8 * (i % 4))) % 256

/-- Weight of channel j of a group and input channel k, from the group's tile words (R243). -/
def weightAt (w4 : Bool) (tiles : Array Word) (j k : Nat) : Int :=
  let t := 64 * (k / 16)
  let i := k % 16
  if w4 then sext 4 (byteAt tiles (t + 8 * j + i / 2) >>> (4 * (i % 2))) else sext 8 (byteAt tiles (t + 16 * j + i))

/-! ### The input of a layer (R240, R248, R250, R252) -/

/-- The inputs of a layer: main values, side values, zero points and outlier channels. -/
structure DIn where
  x : Array Int
  side : Array Int := #[]
  z : Array Int := #[]
  out : List (Nat × Nat) := []

/-- Zero point of channel c. -/
def DIn.zp (d : DIn) (c : Nat) : Int := d.z.getD c 0

/-- The input tensor, each uncorrectable byte read as its channel's zero point. -/
def Hw.loadInput (h : Hw) (k : Nat) (y : Layer) : Hw × DIn :=
  let zr := h.zeroPoints k y
  let ol := if y.iolEn then zr.1.outlierSet k y.iol else (zr.1, [])
  let r := ol.1.sramBytes k y.inAddr y.cells
  let x := (r.2.zipIdx.map fun p => match p.1 with
    | some b => b.toInt
    | none => zr.2.getD (p.2 % y.cin) 0).toArray
  if y.iolEn then
    let s := r.1.sramBytes k (r.1.sideAddr k y.iol) (32 * y.inPos)
    let b := s.2.toArray
    let one (i : Nat) : Int :=
      match b.getD (2 * i) none, b.getD (2 * i + 1) none with
      | some lo, some hi => sext 16 (lo.toNat + 256 * hi.toNat)
      | _, _ => zr.2.getD (((ol.2.find? fun p => p.2 == i % 16).map Prod.fst).getD 0) 0
    (s.1, { x := x, side := ((List.range (16 * y.inPos)).map one).toArray, z := zr.2, out := ol.2 })
  else (r.1, { x := x, z := zr.2, out := ol.2 })

/-- The input element of im2col index kx at position p: its row or pixel and channel, or none outside the input. -/
def Layer.tap (y : Layer) (p kx : Nat) : Option (Nat × Nat) :=
  if y.conv then
    let c := kx % y.cin
    let t := kx / y.cin
    let yy := p / y.wOut * y.stride + t / y.kw
    let xx := p % y.wOut * y.stride + t % y.kw
    if y.pad ≤ yy ∧ yy - y.pad < y.hIn ∧ y.pad ≤ xx ∧ xx - y.pad < y.wIn then some ((yy - y.pad) * y.wIn + (xx - y.pad), c) else none
  else some (p, kx)

/-- The channel of an im2col index. -/
def Layer.chan (y : Layer) (kx : Nat) : Nat := if y.conv then kx % y.cin else kx

/-- The main value of index kx at position p: the zero point outside the input. -/
def Layer.mainX (y : Layer) (d : DIn) (p kx : Nat) : Int :=
  match y.tap p kx with
  | some (i, c) => d.x.getD (i * y.cin + c) 0
  | none => d.zp (y.chan kx)

/-- The values of position p that the array multiplies, and how many rotated values saturated. -/
def Layer.row (y : Layer) (d : DIn) (p : Nat) : Array Int × Nat :=
  let raw := (List.range y.kk).map (y.mainX d p)
  if y.rotN = 0 then (raw.toArray, 0)
  else
    let q := (raw.zipIdx.map fun v => v.1 - d.zp (y.chan v.2)).toArray
    let vs := (List.range y.kk).map fun kx =>
      let b := kx / y.rotN * y.rotN
      rnd (hadamardRow (kx % y.rotN) ((List.range y.rotN).map fun i => q.getD (b + i) 0)) y.rotShift
    ((vs.map satI8).toArray, (vs.filter fun v => decide (satI8 v ≠ v)).length)

/-- The side-lane sum of block b at position p for one channel's weights (R247, R250). -/
def Layer.sidePart (y : Layer) (d : DIn) (w : Nat → Int) (p b : Nat) : Int :=
  ((List.range (min 64 (y.kk - 64 * b))).map fun i =>
    let kx := 64 * b + i
    match y.tap p kx with
    | some (pos, c) =>
      match d.out.find? fun o => o.1 == c with
      | some o => d.side.getD (16 * pos + o.2) 0 * w kx
      | none => 0
    | none => 0).foldl (· + ·) 0

/-- The accumulator of one output: blocks in order, and how often it saturated (R247). -/
def Layer.accum (y : Layer) (d : DIn) (x : Array Int) (w : Nat → Int) (q : Nat → Nat) (p : Nat) : Int × Nat :=
  (List.range (ceilDiv y.kk 64)).foldl (fun a b =>
    let main := ((List.range (min 64 (y.kk - 64 * b))).map fun i => x.getD (64 * b + i) 0 * w (64 * b + i)).foldl (· + ·) 0
    let s := a.1 + blockTerm (main + y.sidePart d w p b) (q b)
    (satI40 s, if satI40 s = s then a.2 else a.2 + 1)) (0, 0)

/-! ### Clip tables (R255) -/

/-- Add n to word i of a layer's clip table, saturating. -/
def Hw.clipAdd (h : Hw) (k : Nat) (y : Layer) (i n : Nat) : Hw :=
  if y.clipEn = false ∨ n = 0 then h
  else
    let a := coreBase k + y.clipAddr + 4 * i
    let r := h.coreRead k a
    match r.2 with
    | some w => (r.1.setWord a (satAdd32 w n)).unquiet k
    | none => r.1.coreUe k

/-- One exceedance of a clip evaluation, the first of it recorded and raised. -/
def Hw.drift (h : Hw) (k i ch : Nat) (input first : Bool) : Hw :=
  let h := h.inc DRIFT_CNT k
  if first then
    let h := if h.reg DRIFT_INFO k = 0#32 then h.setReg DRIFT_INFO k (w32 (i + ch % 8192 * 16 + b2n input * 2 ^ 17 + 2 ^ 31)) else h
    h.raiseCore fCalDrift k
  else h

/-- Evaluate and clear the table of layer i; `seen` says that this evaluation has found an exceedance. Answers the cycles it takes. -/
def Hw.clipEval (h : Hw) (k i : Nat) (y : Layer) (seen : Bool) : Hw × Bool × Nat :=
  if y.clipEn = false then (h, seen, 0)
  else
    let n := y.nn + 2
    let a := coreBase k + y.clipAddr
    let r := h.sramWords k a n
    let v (j : Nat) : Nat := ((r.2.getD j none).getD 0#32).toNat
    let th := h.fld CLIP_THRESH k 19 0
    let runs := v (y.nn + 1)
    let over_ (j : Nat) : Bool :=
      if j < y.nn then decide (th * runs * y.m < v j * 1000000)
      else
        let e := if y.inSrc = 1 then y.cells else if y.rotN ≠ 0 then y.m * y.kk else 0
        decide (0 < e) && decide (th * runs * e < v j * 1000000)
    let f := (List.range (y.nn + 1)).foldl (fun (a : Hw × Bool) j =>
      if over_ j then (a.1.drift k i (if j < y.nn then j else 0) (decide (j = y.nn)) (!a.2), true) else a) (r.1, seen)
    ((f.1.setWords a (List.replicate n 0#32)).unquiet k, f.2, ceilDiv n 4)

/-- Evaluate the tables of the list from layer i on, at most n layers. -/
def Hw.clipEvalAll (h : Hw) (k i : Nat) (seen : Bool) : Nat → Hw × Nat
  | 0 => (h, 0)
  | n + 1 =>
    match h.peekLayer k i with
    | .ok y =>
      let r := h.clipEval k i y seen
      let q := r.1.clipEvalAll k (i + 1) r.2.1 n
      (q.1, r.2.2 + q.2)
    | _ => (h, 0)

/-! ### Bin conversion (R248, R251) -/

/-- The slot words of a cell are rewritten as 0 with valid check bits. -/
def Hw.rewriteSlot (h : Hw) (a : Nat) : Hw :=
  let h := h.setWord (a / 4 * 4) 0#32
  if (a + 2) / 4 = a / 4 then h else h.setWord ((a + 2) / 4 * 4) 0#32

/-- Convert cell i of layer 0. -/
def Hw.binCell (h : Hw) (k : Nat) (y : Layer) (z : Array Int) (ol : List (Nat × Nat)) (i : Nat) : Hw :=
  let n := h.fld DENSE_BIN_BASE k 12 0 + i
  let a := h.slotAddr k n (h.stepNum.toNat % 16)
  let r := h.coreReads k (words24 a)
  let slot := if r.bad = 0 then r.h.read24 a else 0
  let h := if r.bad = 0 then r.h.write24 a 0 else (r.h.coreUes k r.bad).rewriteSlot a
  let v := binValue slot (h.fld DENSE_BINQ k 15 0) (z.getD (i % y.cin) 0)
  let out := ol.find? fun o => o.1 == i % y.cin
  let s := if out.isSome then satI16 v else satI8 v
  let h := if s = v then h else (h.inc IN_CLIP_CNT k).clipAdd k y y.nn 1
  match out with
  | some o =>
    let sa := coreBase k + h.sideAddr k y.iol + 32 * (i / y.cin) + 2 * o.2
    (h.setBytes sa (natLE 2 (ubits 16 s))).setByte (coreBase k + y.inAddr + i) 0#8
  | none => h.setByte (coreBase k + y.inAddr + i) (BitVec.ofInt 8 s)

/-- Bin conversion of the first n cells of layer 0; their slots are then clear. -/
def Hw.binConvert (h : Hw) (k : Nat) (y : Layer) (n : Nat) : Hw :=
  let zr := h.zeroPoints k y
  let ol := if y.iolEn then zr.1.outlierSet k y.iol else (zr.1, [])
  (List.range n).foldl (fun h i => h.binCell k y zr.2 ol.2 i) ol.1

/-! ### Running a layer (R242, R244, R247, R249) -/

/-- What a run of the list gathers: the block, the events emitted, the cycles, the MACs, and whether forcing has stopped it. -/
structure DRun where
  h : Hw
  evs : List Ev := []
  cyc : Nat := 0
  macs : Nat := 0
  cut : Bool := false

/-- Core cycles after its start at which a list is forced, none where it is not (R254). -/
abbrev Limit := Option Nat

/-- Work that ends at cycle t ends after the list is forced. -/
def Limit.over (m : Limit) (t : Nat) : Bool :=
  match m with
  | none => false
  | some n => decide (n < t)

/-- One output of position p and channel n. -/
def denseOut (k : Nat) (y : Layer) (d : DIn) (x : Array Int) (ool : List (Nat × Nat)) (tiles recW : Array Word) (st : DRun) (j n p : Nat) : DRun :=
  let q (b : Nat) : Nat := let w := recW.getD (2 + b / 2) 0#32; if b % 2 = 0 then bits w 15 0 else bits w 31 16
  let corr := sext 40 ((recW.getD 0 0#32).toNat + 2 ^ 32 * bits (recW.getD 1 0#32) 7 0)
  let a := y.accum d x (weightAt y.w4 tiles j) q p
  let o := ool.find? fun o => o.1 == n
  let r := requantise a.1 corr (bits (recW.getD 1 0#32) 31 16) (bits (recW.getD 1 0#32) 13 8) y.zOut y.relu o.isSome
  let h := if a.2 = 0 then st.h else st.h.inc ACC_SAT_CNT k a.2
  let h := if r.2 then (h.inc OUT_CLIP_CNT k).clipAdd k y n 1 else h
  let h := match o with
    | some o => (h.setBytes (coreBase k + h.sideAddr k y.ool + 32 * p + 2 * o.2) (natLE 2 (ubits 16 r.1))).setByte (coreBase k + y.outAddr + p * y.nn + n) 0#8
    | none => h.setByte (coreBase k + y.outAddr + p * y.nn + n) (BitVec.ofInt 8 r.1)
  if y.emit ∧ y.zOut < r.1 then
    { st with h := h.inc DENSE_EMIT_CNT k, evs := st.evs ++ [⟨neuronAddr k (y.emitBase + p * y.nn + n), evLow 0 (satI16 (r.1 - y.zOut)).toNat 0⟩] }
  else { st with h := h }

/-- Outlier channels whose taps fall in tile t (R244). -/
def Layer.tileOutliers (y : Layer) (d : DIn) (t : Nat) : Nat :=
  (d.out.filter fun o => (List.range 16).any fun i => y.chan (16 * t + i) == o.1).length

/-- Cycles of one tile and a batch of pb positions (R244). -/
def Layer.tileCyc (y : Layer) (d : DIn) (pb t : Nat) : Nat := max (pb * max 1 (y.tileOutliers d t)) 4

/-- Cycles of one group and a batch of pb positions (R244). -/
def Layer.groupCyc (y : Layer) (d : DIn) (pb : Nat) : Nat :=
  ((List.range (y.kk / 16)).map (y.tileCyc d pb)).foldl (· + ·) 0 + y.g * y.recLines + 8 + (if y.rotN = 0 then 0 else 8)

/-- Where a group that starts at cycle c stops when it is forced at cycle n: at the end of the tile in progress (R254). -/
def Layer.stopCyc (y : Layer) (d : DIn) (pb c n : Nat) : Nat :=
  max n (((List.range (y.kk / 16)).foldl (fun (a : Nat × Nat) t =>
    let e := a.1 + y.tileCyc d pb t
    (e, if a.1 < n ∧ n ≤ e then e else a.2)) (c + y.g * y.recLines, n)).2)

/-- One output group of one batch of positions [p0, p0 + pb): nothing once the list has been stopped. -/
def denseGroup (k : Nat) (m : Limit) (y : Layer) (d : DIn) (rows : Array (Array Int)) (ool : List (Nat × Nat)) (st : DRun) (g p0 pb : Nat) : DRun :=
  let c := st.cyc + y.groupCyc d pb
  if st.cut then st
  else if m.over c then { st with cyc := y.stopCyc d pb st.cyc (m.getD 0), cut := true }
  else
    let chans := (List.range y.g).filter fun j => decide (y.g * g + j < y.nn)
    let rec_ := chans.foldl (fun (a : Hw × List (Array Word)) j =>
      let r := a.1.tensorLines k y.sBank y.sOff ((y.g * g + j) * y.recLines * 16) y.recLines
      (r.1, a.2 ++ [r.2.toArray])) (st.h, [])
    let tl := rec_.1.tensorLines k y.wBank y.wOff (g * (y.kk / 16) * 64) (y.kk / 16 * 4)
    let tiles := tl.2.toArray
    let st := { st with h := tl.1, cyc := c, macs := st.macs + pb * y.kk * chans.length }
    (rangeIncl p0 (p0 + pb - 1)).foldl (fun st p =>
      chans.foldl (fun st j => denseOut k y d (rows.getD p #[]) ool tiles (rec_.2.getD j #[]) st j (y.g * g + j) p) st) st

/-- One layer: every batch, every group; a run that completes counts in the clip table (R242, R255). -/
def denseLayer (k : Nat) (m : Limit) (y : Layer) (st : DRun) : DRun :=
  let r := st.h.loadInput k y
  let ol := if y.oolEn then r.1.outlierSet k y.ool else (r.1, [])
  let rows := (List.range y.m).map (y.row r.2)
  let sat := (rows.map Prod.snd).foldl (· + ·) 0
  let h := if sat = 0 then ol.1 else (ol.1.inc ROT_SAT_CNT k sat).clipAdd k y y.nn sat
  let xs := (rows.map Prod.fst).toArray
  let st := (List.range (ceilDiv y.m y.pb)).foldl (fun st b =>
    (List.range (ceilDiv y.nn y.g)).foldl (fun st g => denseGroup k m y r.2 xs ol.2 st g (b * y.pb) (min y.pb (y.m - b * y.pb))) st)
    { st with h := h, cyc := st.cyc + 16 }
  { st with h := (if st.cut then st.h else st.h.clipAdd k y (y.nn + 1) 1).unquiet k }

/-- Bin conversion, where layer i takes bin input: 4 cells per core cycle, as many as end before the list is forced (R248, R254). -/
def denseBin (k i : Nat) (m : Limit) (y : Layer) (st : DRun) : DRun :=
  if i = 0 ∧ y.inSrc = 1 then
    let c := st.cyc + ceilDiv y.cells 4
    if m.over c then { st with h := st.h.binConvert k y (min y.cells (4 * (m.getD 0 - st.cyc))), cyc := max st.cyc (m.getD 0), cut := true }
    else { st with h := st.h.binConvert k y y.cells, cyc := c }
  else st

/-- Layers i, i + 1, … (at most n) of the list. -/
def denseLayers (k i : Nat) (m : Limit) (st : DRun) : Nat → DRun
  | 0 => st
  | n + 1 =>
    let r := st.h.readLayer k i
    match r.2 with
    | .stop => { st with h := r.1 }
    | .bad => { st with h := (r.1.inc DL_ERR_CNT k).raiseQCore fDenseDesc k }
    | .ok y =>
      let h := r.1.setFld DENSE_STAT k 4 1 i
      let h := if y.rotN = 0 then h else h.setFlag DENSE_STAT k 6 true
      let st := denseBin k i m y { st with h := h }
      let st := if st.cut then st else denseLayer k m y st
      if st.cut then st else denseLayers k (i + 1) m st n

/-- The first bank the list would wait for, judged on the words as they stand. -/
def Hw.denseWaits (h : Hw) (k i : Nat) : Nat → Option Nat
  | 0 => none
  | n + 1 =>
    match h.peekLayer k i with
    | .ok y =>
      match y.banks.find? fun b => h.portA (k / 32) b 0 (k % 32) == .held with
      | some b => some b
      | none => h.denseWaits k (i + 1) n
    | _ => none

/-- An epoch boundary has passed since the list last ran (R255). -/
def Hw.clipDue (h : Hw) (k : Nat) : Bool := decide ((h.core k).clipSeen < h.epochs)

/-- Count MACs in units of 65,536 (R257). -/
def Hw.countMacs (h : Hw) (k n : Nat) : Hw :=
  let m := (h.core k).macRem + n
  (if m < 65536 then h else h.inc DENSE_MAC_CNT k (m / 65536)).updCore k fun c => { c with macRem := m % 65536 }

/-- Run the list, as far as it gets before it is forced (R239, R254): clip evaluation, bin conversion, layers in order. -/
def Hw.denseList (h : Hw) (k : Nat) (m : Limit) : DRun :=
  let ev := if h.clipDue k then h.clipEvalAll k 0 false 16 else (h, 0)
  if m.over ev.2 then { h := h, cyc := m.getD 0, cut := true }
  else
    let h := ev.1.updCore k fun c => { c with clipSeen := h.epochs }
    let h := (h.setFlag DENSE_STAT k 5 true).setFlag DENSE_STAT k 6 false
    let st := denseLayers k 0 m { h := h, cyc := ev.2 } 16
    let h := (st.h.countMacs k st.macs).setReg DENSE_CYC k (w32 (st.cyc % 2 ^ 24))
    { st with h := if st.cut then h else h.inc DENSE_RUN_CNT k }

/-- DENSE_STAT.RAN is of the last step: it clears when the next integrate phase begins (R257). -/
def Hw.denseRanClear (h : Hw) (k : Nat) : Hw := if h.flag DENSE_STAT k 5 then h.setFlag DENSE_STAT k 5 false else h

/-! ### Commits (R256) -/

/-- Apply the queued descriptor commits in order and a pending DENSE_BINQ; words past the 128 KiB of core SRAM are not stored. -/
def Hw.dlApply (h : Hw) (k : Nat) : Hw :=
  let q := (h.core k).dlq
  let b := (h.core k).binq
  let h := h.updCore k fun c => { c with dlq := [], binq := none }
  let h := q.foldl (fun h e => (h.setWords (h.descAddr k e.layer) (if h.descInside k e.layer then e.words else [])).unquiet k) h
  match b with
  | some v => h.setReg DENSE_BINQ k v
  | none => h

/-- DL_CTRL.COMMIT: queue the window for DL_SEL, or set OVF when 4 commits wait. -/
def Hw.dlCommit (h : Hw) (k : Nat) : Hw :=
  let ws := (List.range 8).map fun i => h.reg (DL_WIN i) k
  let i := h.fld DL_SEL k 3 0
  if 4 ≤ (h.core k).dlq.length then h.setFlag DL_STAT k 8 true
  else h.updCore k fun c => { c with dlq := c.dlq ++ [⟨i, ws⟩] }

/-- DL_CTRL.READBACK: copy the live descriptor DL_SEL into the window; one past the end of core SRAM reads free values (log 119). -/
def Hw.dlReadback (h : Hw) (k : Nat) : Hw :=
  let a := h.descAddr k (h.fld DL_SEL k 3 0)
  if h.descInside k (h.fld DL_SEL k 3 0) then (List.range 8).foldl (fun h i => h.setReg (DL_WIN i) k (h.word (a + 4 * i))) h
  else (List.range 8).foldl (fun h i => let f := h.free; f.2.setReg (DL_WIN i) k f.1) h

/-- DL_CTRL.CLR_OVF. -/
def Hw.dlClrOvf (h : Hw) (k : Nat) : Hw := h.setFlag DL_STAT k 8 false

/-- A DENSE_BINQ write: at the next advance while the core's context is resident, at once otherwise (R256). -/
def Hw.binqWrite (h : Hw) (k : Nat) (v : Word) : Hw :=
  if h.resident (k / 32) then h.updCore k fun c => { c with binq := some v } else h.setReg DENSE_BINQ k v

end Sys2Proof.Machine
end

