-- ==== Sys2Proof/Machine/Roast.lean ====
section
/-! DEFINITION. Epochs, the seal, pre traces, modulators, learning rules and the roast (09). -/

namespace Sys2Proof.Machine

/-! ### Epochs (R260) -/

/-- E of the resident context, 0 taken as 1. -/
def Hw.epochLen (h : Hw) : Nat := max 1 (h.fld (EPOCH_CTX_LEN h.ctx) 0 10 0)

/-- The step in progress is the last of its epoch. -/
def Hw.lastStep (h : Hw) : Bool := decide (h.fld EPOCH_STAT 0 9 0 + 1 = h.epochLen)

/-- FEAT_PLASTIC is in force. -/
def Hw.plastic (h : Hw) : Bool := h.lic 0

/-- ROAST_CTRL.EN. -/
def Hw.roastEn (h : Hw) (c : Nat) : Bool := h.en ROAST_CTRL c 0

def Hw.roast (h : Hw) (c : Nat) : RoastSt := (h.cl c).roast

def Hw.updRoast (h : Hw) (c : Nat) (f : RoastSt → RoastSt) : Hw := h.updCl c fun v => { v with roast := f v.roast }

/-! ### The seal (R261, R262) -/

/-- Core k seals its neurons in the step in progress. -/
def Hw.sealDue (h : Hw) (k : Nat) : Bool :=
  let c := k / 32
  h.lastStep && bit (h.reg (ROAST_SNAP (k % 32)) c) 31 && h.roastEn c && !h.compact k && !(h.roast c).busy && !(h.roast c).late

/-- Neurons that core k seals. -/
def Hw.sealCount (h : Hw) (k : Nat) : Nat := min (h.neurons k) 2048

/-- The bank and offset of snapshot record n of core k. -/
def Hw.snapAt (h : Hw) (k n : Nat) : Nat × Nat :=
  let r := h.reg (ROAST_SNAP (k % 32)) (k / 32)
  (bits r 4 0, 16 * bits r 22 8 + 8 * n)

/-- The words of a snapshot record (R262). -/
def snapWords (w1 w2 : Word) : Word × Word :=
  (w32 (bits w1 15 0 + bits w2 15 0 * 65536), w32 (bits w2 31 24 + bits w2 23 16 * 256))

/-- Seal the neuron whose record is at index i of the resident image, as neuron n. -/
def Hw.sealNeuron (h : Hw) (k i n : Nat) : Hw :=
  let a := h.recAddr k i
  let r1 := h.coreRead k (a + 4)
  let r2 := r1.1.coreRead k (a + 8)
  let p := r2.1.snapAt k n
  let c := k / 32
  let put (h : Hw) (w : Word × Word) : Hw :=
    let h := if h.portA c p.1 p.2 (k % 32) = .held then h.bankAwait c p.1 (k % 32) else h
    if h.portA c p.1 p.2 (k % 32) = .ok then (h.setWord (bankBase c p.1 + p.2) w.1).setWord (bankBase c p.1 + p.2 + 4) w.2
    else h.violation c p.1 p.2 (k % 32) false true
  match r1.2, r2.2 with
  | some w1, some w2 => (put r2.1 (snapWords w1 w2)).setWord (a + 8) (setBits w2 15 0 0)
  | _, _ => ((put r2.1 (0#32, 0x10000#32)).coreUe k).integCyc k 4

/-- The first neuron of slice s of core k, and how many of the slice's neurons are sealed. -/
def Hw.sealSpan (h : Hw) (k s : Nat) : Nat × Nat :=
  if h.slices k = 1 then (0, h.sealCount k) else (s * h.sliceSize k, min (h.sealCount k - s * h.sliceSize k) (h.sliceSize k))

/-- Core cycles before the first record of slice s, and those of all its records: 16 + ceil(n / 2) over the slices of a core. -/
def sealHead (s : Nat) : Nat := if s = 0 then 16 else 0
def Hw.sealCyc (h : Hw) (k s : Nat) : Nat := sealHead s + ceilDiv (h.sealSpan k s).2 2

/-- Seal the neurons of slice s of core k that lie below the count, and at most m. -/
def Hw.sealSlice (h : Hw) (k s m : Nat) : Hw :=
  let p := h.sealSpan k s
  (List.range (min p.2 m)).foldl (fun h i => h.sealNeuron k i (p.1 + i)) h

/-! ### Pre traces (R263) and modulators (R265) -/

/-- An event matched in the lookup queues its pre-trace update. -/
def Hw.preQueue (h : Hw) (c ord : Nat) (a : Arrival) : Hw :=
  if h.plastic ∧ h.fld PRE_ORD_LO c 17 0 ≤ ord ∧ ord ≤ h.fld PRE_ORD_HI c 17 0 then
    if 64 ≤ (h.cl c).preq.length then h.inc PRE_DROP_CNT c
    else h.updCl c fun v => { v with preq := v.preq ++ [⟨ord, (a.dstep - 1#32).toNat % 65536, bits a.ev.low 31 24⟩] }
  else h

/-- The bank and offset of an ordinal's pre-trace entry. -/
def Hw.preAt (h : Hw) (c ord : Nat) : Nat × Nat := (h.fld PRE_BASE c 4 0, 16 * h.fld PRE_BASE c 22 8 + 4 * (ord - h.fld PRE_ORD_LO c 17 0))

/-- The oldest queued pre-trace update is written on port B; it waits for the wake of a retained bank, and is a non-owner access outside the owned
region or on an unpowered one (05 R157, R168). -/
def Hw.preWrite (h : Hw) (c : Nat) : Hw :=
  match (h.cl c).preq with
  | [] => h
  | u :: r =>
    let p := h.preAt c u.ord
    let s := h.bank c p.1
    let gone := h.updCl c fun v => { v with preq := r }
    if ownedEnd ≤ p.2 ∨ (s.pwr = 2 ∧ s.waking = false) then gone.violation c p.1 p.2 0x21 true true
    else if s.pwr ≠ 0 ∨ s.waking then h.wakeBank c p.1 0x21
    else gone.setWord (bankBase c p.1 + p.2) (w32 (u.pts % 65536 + u.psub % 256 * 65536))

/-- The pre-trace write, which a BUSY puts off (05 R162). -/
def Hw.preVisit (h : Hw) (c : Nat) (busy : Bool) : Hw :=
  if (h.cl c).preq = [] then h
  else if busy then
    let h := h.updCl c fun v => { v with retry := v.retry ++ [.preTrace] }
    if (h.roast c).busy ∧ (h.roast c).blocking = false then h.inc ROAST_PORT_STALL_CNT c else h
  else h.preWrite c

/-- Every pre-trace update that waits is written, ahead of the engine's own pass accesses (R263). -/
def Hw.preDrain (h : Hw) (c : Nat) : Hw := (h.cl c).preq.foldl (fun h _ => h.preWrite c) h

/-- A queued pre-trace update is written. -/
def execPreTraceWrite (c : Cluster) (busy : Bool) (s : State) : Out := s.onHw fun h => h.preVisit c busy

/-- MODk, as a signed number. -/
def Hw.mod (h : Hw) (c k : Nat) : Int := sext 24 (Tbl.get 0#32 (h.cl c).mods k).toNat

/-- Write MODk. -/
def Hw.setMod (h : Hw) (c k : Nat) (v : Int) : Hw := h.updCl c fun s => { s with mods := Tbl.set 0#32 s.mods k (w32 (ubits 24 v)) }

/-- An event matched in the lookup feeds modulator k. -/
def Hw.modInput1 (h : Hw) (c k ord payload : Nat) : Hw :=
  let lo := h.reg (MOD_LO k) c
  if bits lo 17 0 ≤ ord ∧ ord ≤ h.fld (MOD_HI k) c 17 0 then
    let m : Nat := if bit lo 31 then payload else 1
    let x := h.mod c k + sext 16 (h.fld (MOD_GAIN k) c 15 0) * (m : Int)
    let h := h.setMod c k (sat24 x)
    if sat24 x = x then h else h.inc MOD_SAT_CNT c
  else h

/-- An event matched in the lookup feeds the modulators whose list holds its ordinal. -/
def Hw.modInput (h : Hw) (c ord payload : Nat) : Hw :=
  if h.plastic then (List.range 4).foldl (fun h k => h.modInput1 c k ord payload) h else h

/-- The decay of a cluster's modulators at the advance. -/
def Hw.modDecay (h : Hw) (c : Nat) : Hw :=
  if h.plastic then (List.range 4).foldl (fun h k => h.setMod c k (rtz (h.mod c k) (h.fld (MOD_GAIN k) c 31 16))) h else h

/-- The latch of a cluster's modulators at an epoch boundary. -/
def Hw.modLatch (h : Hw) (c : Nat) : Hw :=
  if h.plastic then (List.range 4).foldl (fun h k => h.setReg (MOD_LATCH k) c (w32 (ubits 24 (h.mod c k)))) h else h

/-! ### Rules (R264, R266–R268) -/

/-- Word i of rule r, and word i of segment g. -/
def Hw.ruleWord (h : Hw) (c r i : Nat) : Word := h.tab .rule c (r + 8 * i)
def Hw.segWord (h : Hw) (c g i : Nat) : Word := h.tab .seg c (g + 256 * i)

/-- LUT_r[i]. -/
def Hw.lut (h : Hw) (c r i : Nat) : Nat := let w := h.ruleWord c r (6 + i / 2); if i % 2 = 0 then bits w 15 0 else bits w 31 16

/-- The table index of a timestamp's trace (R264). -/
def traceIdx (te ts sub shift : Nat) : Nat :=
  let d := (te + 1 + 65536 - ts % 65536) % 65536
  if d = 0 then 63 else min 63 ((d * 256 - sub) >>> shift)

/-- The factors of one synapse's update (R267). -/
structure Factors where
  pre : Int := 0
  post : Int := 0
  mods : List Int := []
  w : Int := 0
  cnt : Int := 0
  const : Int := 0
deriving DecidableEq, Repr

/-- The value of a factor code; none for a reserved one. -/
def Factors.value (f : Factors) (code : Nat) : Option Int :=
  match code with
  | 0 => some 32768
  | 1 => some f.pre
  | 2 => some f.post
  | 3 => some (f.mods.getD 0 0)
  | 4 => some (f.mods.getD 1 0)
  | 5 => some (f.mods.getD 2 0)
  | 6 => some (f.mods.getD 3 0)
  | 7 => some f.w
  | 8 => some f.cnt
  | 9 => some f.const
  | _ => none

/-- floor(T_j / 2^(29 + S_j)) of a term word (R268). -/
def termValue (f : Factors) (w : Word) : Int :=
  match f.value (bits w 3 0), f.value (bits w 7 4), f.value (bits w 11 8) with
  | some a, some b, some c => sext 16 (bits w 31 16) * a * b * c / ((2 ^ (29 + bits w 15 12) : Nat) : Int)
  | _, _, _ => 0

/-- D after the DW_MAX clamp, and whether it clamped (R268). -/
def deltaOf (f : Factors) (terms : List Word) (dwMax : Nat) : Int × Bool :=
  let d := (terms.map (termValue f)).foldl (· + ·) 0
  let m : Int := ((dwMax * 65536 : Nat) : Int)
  if m < d then (m, true) else if d < -m then (-m, true) else (d, false)

/-- w' of R268 from w, D, the draw u and the format. -/
def newWeight (p12 : Bool) (signKeep : Bool) (w D : Int) (u : Nat) : Int :=
  let q := if p12 then 16 else 20
  let d := (D + (u : Int)) / ((2 ^ q : Nat) : Int)
  let x := if p12 then satS 12 (w + d) else satS 8 (w + d)
  if signKeep then (if 0 ≤ w then max x 0 else min x 0) else x

/-! ### The walk (R269, R272–R274, R277) -/

/-- A plastic word: its format, weight, target core and neuron; none for a word that is not plastic (R269). -/
def plasticWord (fmt : Nat) (w : Word) : Option (Bool × Int × Nat × Nat) :=
  if fmt = 2 then some (true, sext 12 (bits w 31 20), bits w 15 11, bits w 10 0)
  else if fmt = 0 ∧ bit w 19 then some (false, sext 8 (bits w 31 24), bits w 17 13, bits w 12 0)
  else none

/-- A word with its weight replaced. -/
def withWeight (p12 : Bool) (w : Word) (v : Int) : Word := if p12 then setBits w 31 20 (ubits 12 v) else setBits w 31 24 (ubits 8 v)

/-- What a walk carries: the block, the core's LFSR, the sums, the snapshots read, the current pre trace, and the cost so far. -/
structure Walk where
  h : Hw
  lfsr : Word := 0#32
  sums : Tbl Nat := []
  snaps : Tbl (Nat × Nat) := []
  pre : Option Nat := none
  lines : Nat := 0
  descs : Nat := 0
  /-- Core cycles in which an access was held for a bank's wake. -/
  wait : Nat := 0
  /-- Lines of the checkpoint copy written so far. -/
  copied : Nat := 0

/-- What a walk is for. -/
structure WalkCtx where
  c : Nat
  seg : Nat
  tgt : Nat
  rule : Nat
  pass1 : Bool
  recips : Tbl Nat := []
  /-- The first shadow line of this segment's copy. -/
  copy : Option Nat := none

/-- The roast engine's access to a bank: port A on a bank it was handed, port B on any other; held for a wake, and a non-owner access outside the
owned region, on an unpowered one or on a bank handed on since (05 R157, R160, R168). Answers whether it is performed. -/
def Walk.access (x : WalkCtx) (s : Walk) (b off : Nat) (write : Bool) : Walk × Bool :=
  let v := s.h.bank x.c b
  let portA := v.roastFrom.isSome
  let okay := decide (b < 32) && decide (off < ownedEnd) &&
    (if portA then s.h.portA x.c b off 0x21 != .denied else v.pwr != 2 || v.waking)
  if okay = false then ({ s with h := s.h.violation x.c b off 0x21 (!portA) write }, false)
  else if v.pwr = 0 ∧ v.waking = false ∧ (portA && s.h.bankPending x.c b) = false then (s, true)
  else
    let wait := if v.pwr = 0 ∧ v.waking = false then 0 else if v.lost then 28352 else 4800
    ({ s with h := s.h.bankAwait x.c b 0x21, wait := s.wait + wait }, true)

/-- The line of a bank that the engine reads; one it has no right to reads zero (05 R157). -/
def Walk.line (x : WalkCtx) (s : Walk) (b line : Nat) : Walk × List (Option Word) :=
  let a := s.access x b (16 * line) false
  if a.2 then let r := a.1.h.bankLine x.c b line; ({ a.1 with h := r.1 }, r.2) else (a.1, List.replicate 4 (some 0#32))

/-- The word, and the aligned pair of words, at an offset of a bank. -/
def Walk.word (x : WalkCtx) (s : Walk) (b off : Nat) : Walk × Option Word :=
  let r := s.line x b (off / 16)
  (r.1, r.2.getD (off / 4 % 4) none)
def Walk.pair (x : WalkCtx) (s : Walk) (b off : Nat) : Walk × Option (Word × Word) :=
  let r := s.line x b (off / 16)
  (r.1, match r.2.getD (off / 4 % 4) none, r.2.getD (off / 4 % 4 + 1) none with
    | some l, some u => some (l, u)
    | _, _ => none)

/-- The snapshot's TLAST and SLAST trace and the CNT factor of neuron n, read once in a walk. -/
def Walk.snap (x : WalkCtx) (s : Walk) (n : Nat) : Walk × Nat × Nat :=
  match Tbl.find s.snaps n with
  | some p => (s, p)
  | none =>
    let k := 32 * x.c + x.tgt
    let p := s.h.snapAt k n
    let r := s.pair x p.1 p.2
    let w4 := s.h.ruleWord x.c x.rule 4
    let v : Hw × Nat × Nat :=
      match r.2 with
      | some (lo, hi) =>
        if bit hi 16 then (r.1.h.inc ROAST_UE_CNT x.c, 0, 0)
        else
          let te := (s.h.roast x.c).te.toNat % 65536
          (r.1.h, s.h.lut x.c x.rule (traceIdx te (bits lo 15 0) (bits hi 7 0) (min 17 (bits w4 13 8))),
            min (bits lo 31 16 * 2 ^ (15 - bits w4 19 16)) 65535)
      | none => (r.1.h.inc ROAST_UE_CNT x.c, 0, 0)
    ({ r.1 with h := v.1, snaps := Tbl.put s.snaps n v.2 }, v.2)

/-- The modulator factors (R267). -/
def Hw.modFactors (h : Hw) (c : Nat) : List Int :=
  (List.range 4).map fun k => satS 16 (sext 24 (h.reg (MOD_LATCH k) c).toNat / ((2 ^ h.fld (MOD_SHIFT k) c 3 0 : Nat) : Int))

/-- Pass 1 of one plastic word in its segment's target (R268, R272). -/
def walkUpdate (x : WalkCtx) (s : Walk) (a : Nat) (w : Word) (p12 : Bool) (wt : Int) (n : Nat) : Walk :=
  let sn := s.snap x n
  let s := sn.1
  let w4 := s.h.ruleWord x.c x.rule 4
  let w5 := s.h.ruleWord x.c x.rule 5
  let f : Factors :=
    { pre := ((s.pre.getD 0 : Nat) : Int), post := (sn.2.1 : Int), mods := s.h.modFactors x.c, w := if p12 then wt * 16 else wt * 256
      cnt := (sn.2.2 : Int), const := sext 16 (bits w5 31 16) }
  let d := deltaOf f ((List.range 4).map (s.h.ruleWord x.c x.rule)) (bits w5 11 0)
  let h := if d.2 then s.h.inc DW_CLAMP_CNT x.c else s.h
  let q := if p12 then 16 else 20
  let dr := lfsrDraw s.lfsr q
  let sr := bit w4 20
  let v := newWeight p12 (bit w4 21) wt d.1 (if sr then dr.2 else 2 ^ (q - 1))
  let w' := withWeight p12 w v
  let h := if w' = w then h else (h.setWord a w').inc ROAST_UPD_CNT x.c
  let add := v.natAbs * (if p12 then 1 else 16)
  { s with h := h, lfsr := if sr then dr.1 else s.lfsr, sums := Tbl.put s.sums n (min ((Tbl.get 0 s.sums n) + add) (2 ^ 24 - 1)) }

/-- Pass 2 of one plastic word (R273). -/
def walkScale (x : WalkCtx) (s : Walk) (a : Nat) (w : Word) (p12 : Bool) (wt : Int) (n : Nat) : Walk :=
  match Tbl.find x.recips n with
  | some r =>
    let w' := withWeight p12 w ((wt * (r : Int)).tdiv (2 ^ 24))
    { s with h := if w' = w then s.h else s.h.setWord a w' }
  | none => s

/-- One word of a line. -/
def walkWord (x : WalkCtx) (fmt : Nat) (s : Walk) (a : Nat) (w : Option Word) : Walk :=
  match w with
  | none => { s with h := s.h.inc ROAST_UE_CNT x.c }
  | some w =>
    match plasticWord fmt w with
    | none => s
    | some (p12, wt, tc, n) =>
      if tc ≠ x.tgt ∨ 2047 < n then (if x.pass1 then { s with h := s.h.inc ROAST_TGT_ERR_CNT x.c } else s)
      else if x.pass1 then walkUpdate x s a w p12 wt n
      else walkScale x s a w p12 wt n

/-- Line i of the checkpoint shadow: bank and offset. -/
def Hw.shadowLine (h : Hw) (c i : Nat) : Nat × Nat :=
  let o := 16 * h.fld CKPT_BASE c 22 8 + 16 * i
  (h.fld CKPT_BASE c 4 0 + o / ownedEnd, o % ownedEnd)

/-- The lines of a list: n lines from `line` on, `left` words to go. -/
def walkLines (x : WalkCtx) (d : Desc) (s : Walk) (line left : Nat) : Nat → Walk
  | 0 => s
  | n + 1 =>
    let r := s.line x d.bank line
    let base := bankBase x.c d.bank + 16 * line
    let s := (r.2.zipIdx.take (min 4 left)).foldl (fun s p => walkWord x d.fmt s (base + 4 * p.2) p.1) { r.1 with lines := s.lines + 1 }
    let s := match x.copy with
      | some f =>
        let t := s.h.shadowLine x.c (f + s.copied)
        let a := s.access x t.1 t.2 true
        { a.1 with h := if a.2 then a.1.h.copy base (bankBase x.c t.1 + t.2) 16 else a.1.h, copied := s.copied + 1 }
      | none => s
    walkLines x d s (line + 1) (left - 4) n

/-- The pre trace of an ordinal (R267, R277). -/
def walkPre (x : WalkCtx) (s : Walk) (ord : Nat) : Walk :=
  if s.h.fld PRE_ORD_LO x.c 17 0 ≤ ord ∧ ord ≤ s.h.fld PRE_ORD_HI x.c 17 0 then
    let p := s.h.preAt x.c ord
    let r := s.word x p.1 p.2
    match r.2 with
    | some w =>
      let sh := min 17 (bits (s.h.ruleWord x.c x.rule 4) 5 0)
      { r.1 with pre := some (s.h.lut x.c x.rule (traceIdx ((s.h.roast x.c).te.toNat % 65536) (bits w 15 0) (bits w 23 16) sh)) }
    | none => { r.1 with h := r.1.h.inc ROAST_UE_CNT x.c, pre := some 0 }
  else { s with pre := some 0 }

/-- The descriptors of an ordinal: number i at (bank, off), and its chain. -/
def walkChain (x : WalkCtx) (k ord : Nat) (s : Walk) (bank off i : Nat) : Nat → Walk
  | 0 => s
  | n + 1 =>
    let r := s.pair x bank off
    let s := { r.1 with descs := s.descs + 1 }
    match r.2 with
    | none => { s with h := s.h.inc ROAST_UE_CNT x.c }
    | some (lo, hi) =>
      let d := descOf lo hi
      if d.fmt = 3 then s
      else if descOk d i = false then { s with h := s.h.inc ROAST_DESC_ERR_CNT x.c }
      else
        let s :=
          if d.fmt = 1 then s
          else
            let s := if x.pass1 ∧ s.pre.isNone then walkPre x s ord else s
            walkLines x d s d.offset d.len (ceilDiv d.len 4)
        if d.chain then
          walkChain x k ord s (s.h.fld CHAIN_BASE k 4 0) (16 * s.h.fld CHAIN_BASE k 22 8 + 8 * d.next) (i + 1) n
        else s

/-- The walk of one source core; answers its cost in core cycles (R274). -/
def walkCore (x : WalkCtx) (s : Walk) (k : Nat) : Walk × Nat :=
  let m := (s.h.roast x.c).master
  let seed := seedVal (m ^^^ w32 (0x01000000 * x.seg) ^^^ w32 (0x00010001 * (k % 32 + 1)))
  let lo := s.h.fld DESC_ORD_LO k 17 0
  let hi := s.h.fld DESC_ORD_HI k 17 0
  let s0 := { s with lfsr := seed, lines := 0, descs := 0, wait := 0 }
  let s := (rangeIncl lo hi).foldl (fun s o =>
    let p := s.h.descAt k o
    walkChain x k o { s with pre := none } p.1 p.2 0 8) s0
  (s, 2 * (s.lines + s.descs) + s.wait)

/-- The finish time of four lanes that take the next core as soon as one is free (R272, R274). -/
def laneTime (costs : List Nat) : Nat :=
  let lanes := costs.foldl (fun (l : List Nat) c =>
    let m := l.foldl min (l.headD 0)
    match l.idxOf? m with
    | some i => l.set i (m + c)
    | none => l) [0, 0, 0, 0]
  lanes.foldl max 0

/-- The source cores of a segment. -/
def Hw.segCores (h : Hw) (c g : Nat) : List Nat := (coresOf c).filter fun k => bit (h.segWord c g 1) (k % 32)

/-- A pass over a segment; answers the block, the sums and the pass's cycles. -/
def Hw.walkSegment (h : Hw) (x : WalkCtx) : Walk × Nat :=
  let r := (h.segCores x.c x.seg).foldl (fun (a : Walk × List Nat) k => let q := walkCore x a.1 k; (q.1, a.2 ++ [q.2])) ({ h := h.preDrain x.c }, [])
  (r.1, laneTime r.2)

/-- The context of a walk of segment g. -/
def Hw.walkCtx (h : Hw) (c g : Nat) (pass1 : Bool) : WalkCtx :=
  let w := h.segWord c g 0
  { c := c, seg := g, tgt := bits w 4 0, rule := bits w 10 8, pass1 := pass1, recips := (h.roast c).recips
    copy := if pass1 then none else ((h.roast c).plan.find? fun p => p.1 == g).map Prod.snd }

/-- Segment g is VALID. -/
def Hw.segValid (h : Hw) (c g : Nat) : Bool := bit (h.segWord c g 0) 15

/-- The first valid segment from g on, 32 for none. -/
def Hw.nextSeg (h : Hw) (c g : Nat) : Nat := ((List.range 32).find? fun i => decide (g ≤ i) && h.segValid c i).getD 32

/-! ### Start, stages and end (R271–R275, R278) -/

/-- Lines that a walk of core k reads, with the words as they stand. -/
def Hw.chainLines (h : Hw) (c k bank off i : Nat) : Nat → Nat
  | 0 => 0
  | n + 1 =>
    let a := bankBase c bank + off
    if 40 ≤ h.mark a ∨ 40 ≤ h.mark (a + 4) then 0
    else
      let d := descOf (h.word a) (h.word (a + 4))
      if d.fmt = 3 ∨ descOk d i = false then 0
      else (if d.fmt = 1 then 0 else ceilDiv d.len 4) +
        (if d.chain then h.chainLines c k (h.fld CHAIN_BASE k 4 0) (16 * h.fld CHAIN_BASE k 22 8 + 8 * d.next) (i + 1) n else 0)

/-- The banks of the lists of a chain. -/
def Hw.chainBanks (h : Hw) (c k bank off i : Nat) : Nat → List Nat
  | 0 => []
  | n + 1 =>
    let d := descOf (h.word (bankBase c bank + off)) (h.word (bankBase c bank + off + 4))
    if d.fmt = 3 ∨ descOk d i = false then []
    else (if d.fmt = 1 then [] else [d.bank]) ++
      (if d.chain then h.fld CHAIN_BASE k 4 0 :: h.chainBanks c k (h.fld CHAIN_BASE k 4 0) (16 * h.fld CHAIN_BASE k 22 8 + 8 * d.next) (i + 1) n else [])

/-- Lines of a segment's lists. -/
def Hw.segLines (h : Hw) (c g : Nat) : Nat :=
  ((h.segCores c g).map fun k =>
    ((rangeIncl (h.fld DESC_ORD_LO k 17 0) (h.fld DESC_ORD_HI k 17 0)).map fun o =>
      let p := h.descAt k o
      h.chainLines c k p.1 p.2 0 8).foldl (· + ·) 0).foldl (· + ·) 0

/-- The copy plan: segments from `g` on, wrapping, while each fits (R278). -/
def Hw.copyPlan (h : Hw) (c g used : Nat) : Nat → List (Nat × Nat)
  | 0 => []
  | n + 1 =>
    let i := g % 32
    if h.segValid c i = false then h.copyPlan c (g + 1) used n
    else
      let l := h.segLines c i
      if used + l ≤ h.fld CKPT_SIZE c 15 0 then (i, used) :: h.copyPlan c (g + 1) (used + l) n else []

/-- The banks that hold a declared region of cluster c's roast (R270). -/
def Hw.declaredBanks (h : Hw) (c : Nat) : List Nat :=
  let segs := (List.range 32).filter (h.segValid c)
  let srcs := segs.flatMap (h.segCores c)
  let lists := srcs.flatMap fun k =>
    h.fld DESC_BASE k 4 0 :: (rangeIncl (h.fld DESC_ORD_LO k 17 0) (h.fld DESC_ORD_HI k 17 0)).flatMap fun o =>
      let p := h.descAt k o
      h.chainBanks c k p.1 p.2 0 8
  let snaps := segs.map fun g => (h.snapAt (32 * c + bits (h.segWord c g 0) 4 0) 0).1
  let pre := if h.fld PRE_ORD_LO c 17 0 ≤ h.fld PRE_ORD_HI c 17 0 then [h.fld PRE_BASE c 4 0] else []
  let n := if h.flag ROAST_CTRL c 2 then h.fld CKPT_SIZE c 15 0 else 0
  let shadow := (rangeIncl (h.shadowLine c 0).1 (h.shadowLine c (n - 1)).1).filter fun b => decide (0 < n) && decide (b < 32)
  (lists ++ snaps ++ pre ++ shadow).eraseDups

/-- A blocking roast takes over a bank that a core owns, by a handover (05 R158). -/
def Hw.roastTake (h : Hw) (c b : Nat) : Hw :=
  let o := h.bankOwner c b
  if o < 32 ∧ h.bankPending c b = false then
    ((h.updBank c b fun s => { s with roastFrom := some o }).setReg (BANK_OWNER b) c 0x21#32).setFlag BANK_HANDOVER_PENDING c b true
  else h

/-- The banks go back to their owners, by handovers of which those that the engine never used its own access in are still to come. -/
def Hw.roastGiveBack (h : Hw) (c : Nat) : Hw :=
  (List.range 32).foldl (fun h b =>
    match (h.bank c b).roastFrom with
    | some o => ((h.updBank c b fun s => { s with roastFrom := none }).setReg (BANK_OWNER b) c (w32 o)).setFlag BANK_HANDOVER_PENDING c b true
    | none => h) h

/-- The integrate phase of a step begins: a background roast that has not ended by that of an epoch's last step has overrun (R275). -/
def Hw.roastLate (h : Hw) (c : Nat) : Hw :=
  if (h.roast c).busy ∧ (h.roast c).blocking = false ∧ h.lastStep then h.updRoast c fun r => { r with late := true } else h

/-- The boundary that an overrun skips is counted and reported once (R275). -/
def Hw.roastOverrun (h : Hw) (c : Nat) : Hw :=
  let r := h.roast c
  if r.late ∧ r.skip = false then
    ((h.updRoast c fun r => { r with skip := true }).inc ROAST_SKIP_CNT c).raiseQCl fRoastOverrun c
  else h

/-- A background roast has not ended before the integrate phase of the next epoch's last step. -/
def execRoastOverrun (c : Cluster) (s : State) : Out := s.onHw fun h => h.roastOverrun c

/-- The roast of cluster c starts once the epoch-boundary pour has been broadcast, unless its overrun skips the epoch (R271, R275). -/
def Hw.roastStart (h : Hw) (c : Nat) : Hw :=
  let h := h.roastOverrun c
  let r := h.roast c
  if r.late ∨ r.busy then h.updRoast c fun r => { r with late := false, skip := false }
  else if h.roastEn c = false ∨ h.plastic = false ∨ (h.cl c).avail = false then h
  else
    let blk := h.flag ROAST_CTRL c 1
    let every := max 1 (h.fld ROAST_CTRL c 15 8)
    let copy := h.flag ROAST_CTRL c 2 && decide ((r.count + 1) % every = 0)
    let ready := h.flag CKPT_STAT c 31
    let h := if copy ∧ ready then h.inc CKPT_SKIP_CNT c else h
    let first := h.fld CKPT_NEXT c 4 0
    let plan := if copy ∧ ready = false then h.copyPlan c first 0 32 else []
    let h := if blk then (h.declaredBanks c).foldl (fun h b => h.roastTake c b) h else h
    let g := h.nextSeg c 0
    h.updRoast c fun r =>
      { r with busy := true, blocking := blk, stage := if g < 32 then .pass1 else .idle, seg := g, te := h.stepNum, master := h.reg ROAST_SEED c
               sums := [], recips := [], cyc := 16, plan := plan, planFirst := (plan.headD (first, 0)).1, planCount := plan.length
               planNext := if plan = [] then first else ((plan.getLastD (first, 0)).1 + 1) % 32, copying := copy && !ready, at_ := h.dev
               count := r.count + 1 }

/-- Go on to the next segment, or wait for the end. -/
def Hw.roastNext (h : Hw) (c : Nat) : Hw :=
  let g := h.nextSeg c ((h.roast c).seg + 1)
  h.updRoast c fun r => { r with stage := if g < 32 then .pass1 else .idle, seg := g, sums := [], recips := [] }

/-- Port-B cycles that a background roast lost to the lookup engine and to BUSY retries in a pass (R274). -/
def Hw.roastStall (h : Hw) (c lost : Nat) : Hw :=
  if (h.roast c).blocking then h else (h.inc ROAST_PORT_STALL_CNT c lost).updRoast c fun r => { r with cyc := r.cyc + lost }

/-- Pass 1 of the segment in progress (R272), which lost `lost` cycles of port B. -/
def Hw.roastPass1 (h : Hw) (c lost : Nat) : Hw :=
  let r := h.roast c
  if r.busy = false ∨ r.stage ≠ .pass1 then h
  else
    let q := h.walkSegment (h.walkCtx c r.seg true)
    (q.1.h.updRoast c fun r => { r with stage := .recip, sums := q.1.sums, cyc := r.cyc + q.2 }).roastStall c lost

/-- Pass 1 of a segment is complete. -/
def execRoastPass1Complete (e : PassEnd) (s : State) : Out := s.onHw fun h => h.roastPass1 e.cluster e.lost.toNat

/-- The scale factors of the neurons over NORM (R273). -/
def recipsOf (norm : Nat) (sums : Tbl Nat) : Tbl Nat :=
  if norm = 0 then [] else (sums.filter fun p => decide (norm < p.2)).map fun p => (p.1, 2 ^ 24 * norm / p.2)

/-- The reciprocal stage; pass 2 is skipped where it has nothing to do (R273, R278). -/
def Hw.roastRecip (h : Hw) (c : Nat) : Hw :=
  let r := h.roast c
  if r.busy = false ∨ r.stage ≠ .recip then h
  else
    let q := recipsOf (bits (h.segWord c r.seg 2) 23 0) r.sums
    let h := h.updRoast c fun r => { r with recips := q, cyc := r.cyc + 512 }
    if q = [] ∧ (r.plan.any fun p => p.1 == r.seg) = false then h.roastNext c
    else h.updRoast c fun r => { r with stage := .pass2 }

/-- The reciprocal stage is complete. -/
def execRoastReciprocalComplete (c : Cluster) (s : State) : Out := s.onHw fun h => h.roastRecip c

/-- The copy is complete: CKPT_STAT, CKPT_NEXT and READY are set and the roast-done pulse fires, at most once per PCLK for all clusters (R278, 11
R326). -/
def Hw.copyDone (h : Hw) (c : Nat) : Hw :=
  let r := h.roast c
  let h := (h.setReg CKPT_STAT c (w32 (r.planFirst + r.planCount * 2 ^ 5 + 2 ^ 31))).setReg CKPT_NEXT c (w32 r.planNext)
  let h := h.updRoast c fun r => { r with copying := false }
  if h.pulses.any fun p => h.xbSel p.sink == 3 && decide (p.fired / 4 = h.dev / 4) then h else h.fireAt 3 (c / 16)

/-- The copy of segment g is made; the last one completes the copy. -/
def Hw.roastCopied (h : Hw) (c g : Nat) : Hw :=
  if (h.roast c).plan.any fun p => p.1 == g then
    let h := h.updRoast c fun r => { r with plan := r.plan.filter fun p => p.1 != g }
    if (h.roast c).plan = [] then h.copyDone c else h
  else h

/-- Pass 2 of the segment in progress (R273). -/
def Hw.roastPass2 (h : Hw) (c lost : Nat) : Hw :=
  let r := h.roast c
  if r.busy = false ∨ r.stage ≠ .pass2 then h
  else
    let q := h.walkSegment (h.walkCtx c r.seg false)
    let h := q.1.h.inc ROAST_SCALE_CNT c r.recips.length
    let h := (h.updRoast c fun r => { r with cyc := r.cyc + q.2 }).roastStall c lost
    (h.roastCopied c r.seg).roastNext c

/-- Pass 2 of a segment is complete. -/
def execRoastPass2Complete (e : PassEnd) (s : State) : Out := s.onHw fun h => h.roastPass2 e.cluster e.lost.toNat

/-- The roast ends, after its cycles: a copy into which no segment fitted completes, banks go back, the seed advances, and the last blocking
roast closes the roast phase (R268, R271, R274, R278). -/
def Hw.roastEnd (h : Hw) (c : Nat) : Hw :=
  let r := h.roast c
  if r.busy = false ∨ r.stage ≠ .idle then h
  else
    let h := if r.copying then h.copyDone c else h
    let h := h.advTo (r.at_ + 2 * r.cyc)
    let h := (h.inc ROAST_CNT c).setReg ROAST_CYC c (w32 (r.cyc % 2 ^ 24))
    let h := h.setReg ROAST_SEED c (lfsrNext (h.reg ROAST_SEED c))
    let h := if r.blocking then h.roastGiveBack c else h
    let h := h.updRoast c fun r => { r with busy := false, blocking := false, seg := 0, plan := [], copying := false }
    if h.step.phase = .roast ∧ ((List.range 64).any fun i => (h.roast i).busy && (h.roast i).blocking) = false then
      h.updStep fun s => { s with phase := .pour, closed := h.dev, roastEnd := h.dev }
    else h

/-- A roast ends. -/
def execRoastEnd (c : Cluster) (s : State) : Out := s.onHw fun h => h.roastEnd c

/-- Cluster reset and power-down discard a roast in flight; banks it took go back (16 R435). -/
def Hw.roastAbort (h : Hw) (c : Nat) : Hw :=
  let h := h.roastGiveBack c
  let h := h.updRoast c fun r => { count := r.count }
  if h.step.phase = .roast ∧ ((List.range 64).any fun i => (h.roast i).busy && (h.roast i).blocking) = false then
    h.updStep fun s => { s with phase := .pour, closed := h.dev, roastEnd := h.dev }
  else h

/-- Writing 1 to CKPT_STAT.READY clears it (R278). -/
def Hw.ckptClear (h : Hw) (c : Nat) : Hw := h.setFlag CKPT_STAT c 31 false

end Sys2Proof.Machine
end

