-- ==== Sys2Proof/Machine/Integrate.lean ====
section
/-! DEFINITION. The integrate phase of a core: start, neuron updates, seal, dense list, egress, slice swaps, forcing and done (01 R42–R46,
02 R64–R71, 03 R92–R105, 04 R132). -/

namespace Sys2Proof.Machine

/-! ### Phases (02 R54, R67, R81) -/

/-- Every available cluster is done; an unavailable unit's done is held at 1 (R67). -/
def Hw.allDone (h : Hw) : Bool := (List.range 64).all fun c => !(h.cl c).avail || (h.cl c).done

/-- STEP_STAT.PHASE (R81): the pour runs from the last done to its broadcast, and the advance after it; 0 is also the idle machine. -/
def Hw.phaseCode (h : Hw) : Nat :=
  match h.step.phase with
  | .idle => 0
  | .delivery => 1
  | .integrate => if h.allDone then 3 else 2
  | .pour => 0
  | .roast => 4

/-! ### Sliced units and degraded pairs (01 R42–R44, 03 R108, R109) -/

/-- The logical core and the core's slice that slice i of a unit stands for. -/
def Hw.sliceTgt (h : Hw) (u i : Nat) : Nat × Nat := if h.paired u then (if i = 0 then (u, 0) else (h.partner u, 0)) else (u, i)

/-- The logical core whose image is resident in a unit. -/
def Hw.live (h : Hw) (u : Nat) : Nat := (h.sliceTgt u (h.core u).resident).1

/-- Slices of a unit. -/
def Hw.unitSlices (h : Hw) (u : Nat) : Nat := if h.paired u then 2 else h.slices u

/-- The number of neuron 0 of the image resident in logical core k. -/
def Hw.imageBase (h : Hw) (k : Nat) : Nat := if h.slices k = 1 then 0 else (h.core k).resident * h.sliceSize k

/-- Neurons of the image resident in logical core k. -/
def Hw.imageN (h : Hw) (k : Nat) : Nat := if h.slices k = 1 then h.neurons k else min (h.neurons k) (h.sliceSize k)

/-- Which pair of its cluster a host's pair is, in ascending order of hosts. -/
def Hw.pairNo (h : Hw) (u : Nat) : Nat := ((coresOf (u / 32)).filter fun k => decide (k < u) && h.paired k && h.pairHost k).length

/-- The bank and offset of image i of a pair in the degradation reserve (DESIGN CHOICE, log 20: image n in the n-th ascending bank). -/
def Hw.reserveAt (h : Hw) (u i : Nat) : Nat × Nat :=
  let c := u / 32
  ((bits (h.cl c).deg 4 0 + 2 * h.pairNo u + i) % 32, 16 * bits (h.cl c).deg 22 8)

/-- The pieces of a pair's swap image: offset in core-local space, offset in the image, bytes (R109). -/
def imagePieces : List (Nat × Nat × Nat) := [(0, 0, 0x20000), (0x24000, 0x20000, 0x2000), (0x28000, 0x22000, 0x1000), (0x20000, 0x23000, 0x2000)]

/-- Bytes of a swap image (R109). -/
def imageBytes : Nat := 0x25000

/-- The bank and byte offset that lie x bytes into the owned regions from bank b on, which follow one another (05 R144). -/
def ownedAt (b x : Nat) : Nat × Nat := ((b + x / ownedEnd) % 32, x % ownedEnd)

/-- Copy n bytes from core memory at a to the owned regions of cluster c, x bytes into those from bank b on, or back. -/
def Hw.reserveCopy (h : Hw) (c b x a n : Nat) (out : Bool) : Hw :=
  let m := min n (ownedEnd - x % ownedEnd)
  let part (h : Hw) (x a n : Nat) : Hw :=
    let p := ownedAt b x
    let d := bankBase c p.1 + p.2
    if n = 0 then h else if out then h.copy a d n else h.copy d a n
  part (part h x a m) (x + m) (a + m) (n - m)

/-- Write core k's memories to, or read them from, a reserve image; a bank the DMA engine does not own drops writes and reads zero. -/
def Hw.reserveMove (h : Hw) (u i k : Nat) (out : Bool) : Hw :=
  let c := u / 32
  let p := h.reserveAt u i
  match [p, ownedAt p.1 (p.2 + imageBytes - 1)].find? fun q => h.portA c q.1 q.2 ownDma == .denied with
  | some q =>
    let h := h.violation c q.1 q.2 ownDma false out
    if out then h else imagePieces.foldl (fun h x => h.zero (coreBase k + x.1) x.2.2) h
  | none => imagePieces.foldl (fun h x => h.reserveCopy c p.1 (p.2 + x.2.1) (coreBase k + x.1) x.2.2 out) h

/-- Core cycles of a pair's swap (03 R109). -/
def pairSwapCyc : Nat := 9472

/-- Swap the resident image of a unit for slice i (R43, R109). -/
def Hw.swapImage (h : Hw) (u i : Nat) : Hw :=
  let r := (h.core u).resident
  let h :=
    if h.paired u then (h.reserveMove u r (h.live u) true).reserveMove u i (h.sliceTgt u i).1 false
    else
      let b := 64 * h.sliceSize u
      (h.copy (coreBase u) (sliceBase h.ctx u r) b).copy (sliceBase h.ctx u i) (coreBase u) b
  let n := if h.paired u ∨ h.sliceSize u = 2048 then 2 else 1
  (h.inc SLICE_SWAP_CNT u n).updCore u fun c => { c with resident := i, paging := false }

/-- Drop or fold slot j of every neuron of the resident image from n on that is no bin cell (02 R71). -/
def Hw.skipFrom (h : Hw) (k n j : Nat) (fold : Bool) : Hw :=
  let cells := h.binCells k
  let l := ((List.range (h.imageN k)).drop n).filter fun i => !h.isBin k cells i
  l.foldl (fun h i => h.skipNeuron k i j fold) h

/-- Treat a paged-in slice as a forced step left it (02 R71). -/
def Hw.treatLeft (h : Hw) (u i : Nat) : Hw :=
  let l := (h.core u).left
  let h := h.updCore u fun c => { c with left := l.filter fun x => x.1 != i }
  (l.filter fun x => x.1 == i).foldl (fun h x => h.skipFrom (h.live u) 0 x.2.1 x.2.2) h

/-- Core cycles so far of the phase of unit u: 8 to leave Warm, 16 of fill for each image, and the work of its cores (R94, R110, 04 R132). -/
def Hw.integCycles (h : Hw) (u : Nat) : Nat :=
  let work (k : Nat) : Nat := let g := (h.core k).integ; g.groups + g.cyc
  8 + 16 * (h.core u).integ.images + work u + (if h.paired u then work (h.partner u) else 0)

/-- The cycles of unit u's phase so far reach the instant at which cores are forced (02 R69, R73). -/
def Hw.timeUp (h : Hw) (u : Nat) : Bool := decide (h.forceTime ≤ (h.core u).integ.begun + 2 * h.integCycles u)

/-- Replay inbox entries of p.1's slice p.2, oldest first, into the image now resident in unit u, until a bank holds one (R44). -/
def Hw.replayAll (h : Hw) (u : Nat) (p : Nat × Nat) : List InboxEnt → Hw × Option Nat
  | [] => (h, none)
  | e :: rest =>
    let k := p.1
    let c := k / 32
    let b := h.fld SLICE_INBOX k 4 0
    let off := 16 * h.fld SLICE_INBOX k 22 8 + 8 * e.at_
    if h.portA c b off (k % 32) = .held then (h, some b)
    else
      let r := h.portARead64 c b off (k % 32)
      let gone (h : Hw) : Hw := h.updCore k fun x => { x with inbox := x.inbox.erase e }
      match r.2 with
      | none => (gone (r.1.inc SYN_UE_CNT k)).replayAll u p rest
      | some (lo, hi) =>
        let o := inboxArrival e lo hi
        let d := h.descAt e.streamer o.ord
        let st := streamChain { k := e.streamer, arr := o.arr, chain := h.chainAt e.streamer, only := some p } { h := r.1 } d.1 d.2 0 8
        match st.wait with
        | some b => (h, some b)
        | none => (gone (st.h.integCyc u st.cyc)).replayAll u p rest

/-- Replay the inbox of slice i of unit u, which is resident. -/
def Hw.replay (h : Hw) (u i : Nat) : Hw × Option Nat :=
  let p := h.sliceTgt u i
  h.replayAll u p ((h.core p.1).inbox.filter fun e => e.slice == p.2)

/-! ### Neuron updates (R93, 04 R117, R132) -/

/-- The integrate state of a unit moves to a stage. -/
def Hw.setStage (h : Hw) (u : Nat) (s : IntStage) : Hw := h.updCore u fun c => { c with integ := { c.integ with stage := s } }

/-- Neuron n of core k is one for the microcode engine. -/
def Hw.isMc (h : Hw) (k n : Nat) : Bool := h.neuronEn k n && h.mcNeuron k (h.psetOf k n)

/-- One neuron that waits for nothing: a bin cell, a microcode neuron with ENABLE at 0, or a fixed-path neuron. -/
def Hw.updateOne (h : Hw) (k n cells : Nat) : Hw :=
  if h.isBin k cells n then h
  else if h.isMc k n then h.updateSkipped k n
  else h.updateFixed k (h.imageBase k) n

/-- The egress buffer of core k is full: the neuron path or the dense events stall, which the counter counts cycle by cycle (R102). -/
def Hw.egressStall (h : Hw) (k : Nat) : Hw := h.waitOn EGRESS_STALL_CNT k 2

/-- A stall on the egress buffer of core k is over; its cycles are part of the phase (R94, R102). -/
def Hw.egressGo (h : Hw) (k : Nat) : Hw :=
  let n := h.waited EGRESS_STALL_CNT k
  if n = 0 ∨ h.egressFull k then h else (h.waitOff EGRESS_STALL_CNT k).integCyc k n

/-- Neurons n, n + 1, … (m of them) of unit u, until one waits for the egress buffer or for its handler, or a group would begin at the instant
of forcing (R102, 02 R71, 04 R129). -/
def Hw.updLoop (h : Hw) (u k cells n : Nat) : Nat → Hw
  | 0 => h.setStage u (.update n)
  | m + 1 =>
    if h.egressFull k then (h.egressStall k).setStage u (.update n)
    else if !h.isBin k cells n && h.isMc k n && h.mcEnable k then h.setStage u (.update n)
    else if n % 4 = 0 ∧ h.timeUp u then h.setStage u (.update n)
    else (h.updateOne k n cells).updLoop u k cells (n + 1) m

/-- Queue dense events while the egress buffer has room; what does not fit waits. -/
def Hw.pushEvents (h : Hw) (k : Nat) : List Ev → Hw × List Ev
  | [] => (h, [])
  | e :: r => if h.egressFull k then (h.egressStall k, e :: r) else (h.egressPush k e).pushEvents k r

/-- The integrate phase of a unit ends (R94, R95, R112); a forced one has taken the time until it was forced, its skips and its flush (02 R71). -/
def Hw.integFinish (h : Hw) (u : Nat) : Hw :=
  let j := h.stepNum.toNat % 16
  let f := (h.core u).integ
  let len := if f.forced then (h.dev - f.begun) / 2 + f.skipCyc + 16 else h.integCycles u + 8
  let one (h : Hw) (k : Nat) : Hw :=
    let g := (h.core k).integ
    let h := (h.untouch k j).setReg CORE_INTEG_CYC k (w32 (len % 2 ^ 24))
    h.updCore k fun c => { c with quiet := g.atRest && !f.forced && !c.paging }
  let h := one h u
  let h := if h.paired u then one h (h.partner u) else h
  h.setStage u .finished

/-- After a slice: the next one is paged in, or the phase ends (R43). -/
def Hw.integNext (h : Hw) (u : Nat) : Hw :=
  match (h.core u).integ.slicesLeft with
  | [] => h.integFinish u
  | i :: r =>
    h.updCore u fun c =>
      { c with paging := true, pageTo := i, integ := { c.integ with stage := .paging i, slicesLeft := r, pageAt := max h.dev (c.integ.begun + 2 * h.integCycles u) } }

/-- Hand the waiting dense events to the egress buffer. -/
def Hw.integEmit (h : Hw) (u : Nat) (l : List Ev) : Hw :=
  let r := h.pushEvents (h.live u) l
  if r.2 = [] then r.1.integNext u else r.1.setStage u (.emit r.2)

/-- The dense list of the resident image, whose start is known: it runs at once if it ends before the core can be forced, and otherwise waits
for that (R239, 08 R254). -/
def Hw.integDense (h : Hw) (u : Nat) : Hw :=
  let k := h.live u
  let at_ := max h.dev ((h.core u).integ.begun + 2 * h.integCycles u)
  let r := h.denseList k none
  let span (h : Hw) : Hw := h.updCore u fun c => { c with integ := { c.integ with denseAt := at_, denseEnd := at_ + 2 * r.cyc } }
  if h.forceTime < at_ + 2 * r.cyc then (span h).setStage u .dense else ((span r.h).integCyc k r.cyc).integEmit u r.evs

/-- Slice of the resident image of unit u. -/
def Hw.sliceHere (h : Hw) (u : Nat) : Nat := (h.sliceTgt u (h.core u).resident).2

/-- The seal and the dense list of the resident image, once no bank they need is held (R239, R261). A seal that would still run at the instant
of forcing waits for it. -/
def Hw.integPost (h : Hw) (u : Nat) : Hw :=
  let k := h.live u
  let s := h.sliceHere u
  let at_ := (h.core u).integ.sealAt.getD (max h.dev ((h.core u).integ.begun + 2 * h.integCycles u))
  let c := k / 32
  let b := (h.snapAt k 0).1
  let sealWait := h.sealDue k && h.portA c b (h.snapAt k 0).2 (k % 32) == .held
  let wait := if sealWait then some b else if h.denseDue k then h.denseWaits k 0 16 else none
  match wait with
  | some b => h.wakeBank c b (whoDense k)
  | none =>
    if h.sealDue k ∧ h.forceTime < at_ + 2 * h.sealCyc k s then h.updCore u fun c => { c with integ := { c.integ with sealAt := some at_ } }
    else
      let h := if h.sealDue k then
          ((h.sealSlice k s 2048).integCyc k (h.sealCyc k s)).updCore u fun c => { c with integ := { c.integ with sealAt := none } }
        else h
      if h.denseDue k then h.integDense u else h.integNext u

/-! ### Forcing (02 R71, 08 R254) -/

/-- What a forced unit does with the neurons, slices, inboxes and list it has not got to. -/
def Hw.forceSkip (h : Hw) (u : Nat) : Hw :=
  let fold := decide (h.policy = .defer)
  let j := h.stepNum.toNat % 16
  let g := (h.core u).integ
  let k := h.live u
  let from_ := match g.stage with
    | .idle => some 0
    | .replay _ => some 0
    | .update n => some n
    | _ => none
  let h := match from_ with
    | some n =>
      ((h.skipFrom k n j fold).notAtRest k).updCore u fun c => { c with integ := { c.integ with skipCyc := ceilDiv (h.imageN k - n) 4 } }
    | none => h
  let h := match g.stage, g.sealAt with
    | .post, some t => h.sealSlice k (h.sliceHere u) (2 * ((h.dev - t) / 2 - sealHead (h.sliceHere u)))
    | _, _ => h
  let h := if (from_.isSome || g.stage == .post) && h.denseDue k then h.inc DENSE_ABORT_CNT k else h
  let skipped := match g.stage with
    | .idle => (List.range (h.unitSlices u)).filter (· != (h.core u).resident)
    | .paging i => i :: g.slicesLeft
    | _ => g.slicesLeft
  let h := h.updCore u fun c => { c with left := c.left ++ skipped.map fun i => (i, j, fold), integ := { c.integ with slicesLeft := [], forced := true } }
  let drop := match g.stage with
    | .replay i => i :: skipped
    | _ => skipped
  let h := drop.foldl (fun h i =>
    let p := h.sliceTgt u i
    if fold then
      h.updCore p.1 fun c => { c with inbox := c.inbox.map fun e => if e.slice = p.2 then { e with dstep := e.dstep + 1#32 } else e }
    else
      let m := ((h.core p.1).inbox.filter fun e => e.slice == p.2).length
      (h.updCore p.1 fun c => { c with inbox := c.inbox.filter fun e => e.slice != p.2 }).inc NEURON_SKIP_CNT (p.1 / 32) m) h
  match g.stage with
  | .emit l => h.integEmit u l
  | .dense =>
    let r := h.denseList k (some ((h.dev - g.denseAt) / 2))
    let h := if r.cut then r.h.inc DENSE_ABORT_CNT k else r.h
    (h.updCore u fun c => { c with integ := { c.integ with skipCyc := r.cyc - (h.dev - g.denseAt) / 2 } }).integEmit u r.evs
  | _ => h.integFinish u

/-- A forced unit finishes the 4-neuron group in progress, as far as the egress buffer lets it, and then skips the rest (02 R71). -/
def Hw.forceNow (h : Hw) (u : Nat) : Hw :=
  match (h.core u).integ.stage with
  | .update n =>
    let k := h.live u
    if n % 4 = 0 then h.forceSkip u
    else
      let h := h.updLoop u k (h.binCells k) n (min (4 - n % 4) (h.imageN k - n))
      if h.egressFull k ∧ (h.core u).integ.stage ≠ .update (min (n / 4 * 4 + 4) (h.imageN k)) then h else h.forceSkip u
  | _ => h.forceSkip u

/-- Force core k: a per-neuron handler in progress ends first. -/
def Hw.forceCore (h : Hw) (k : Nat) : Hw :=
  let c := h.core k
  if h.coreAvail k = false ∨ h.hostOf k ≠ k ∨ c.done ∨ c.integ.stage = .finished then h
  else
    let h := h.updCore k fun c =>
      { c with integ := { c.integ with forced := true, begun := if c.integ.stage = .idle then h.step.dclosedAt else c.integ.begun } }
    let e := (h.core (h.live k)).eng
    if e.running ∧ e.kind = .neuron then h else h.forceNow k

/-! ### The phase of a unit (R94, R95, R132) -/

/-- Go on with the integrate phase of unit u as far as it can. -/
def Hw.integGo (h : Hw) (u : Nat) : Hw :=
  let h := h.egressGo (h.live u)
  match (h.core u).integ.stage with
  | .update n =>
    let k := h.live u
    if (h.core u).integ.forced then h.forceNow u
    else
      let h := h.updLoop u k (h.binCells k) n (h.imageN k - n)
      if (h.core u).integ.stage = .update (max n (h.imageN k)) then (h.setStage u .post).integPost u else h
  | .post => h.integPost u
  | .dense => if (h.core u).integ.forced then h else h.integDense u
  | .emit l => h.integEmit u l
  | _ => h

/-- The core has nothing to integrate in the step in progress (R95). -/
def Hw.nothingToDo (h : Hw) (k : Nat) : Bool :=
  let c := h.core k
  h.flag CORE_CTRL k 0 && c.quiet && !(c.touched.getLsbD (if h.compact k then 0 else h.stepNum.toNat % 16)) && !h.anyMc k &&
    h.unitSlices k == 1 && !h.sealDue k && !h.denseDue k

/-- Slice i is resident: what its inbox holds is replayed, and it integrates once no bank holds an entry up (R43, R44). -/
def Hw.integReplay (h : Hw) (u i : Nat) : Hw :=
  let r := h.replay u i
  match r.2 with
  | some b => (r.1.setStage u (.replay i)).wakeBank (u / 32) b (whoInbox u)
  | none => ((r.1.updCore u fun c => { c with integ := { c.integ with images := c.integ.images + 1 } }).setStage u (.update 0)).integGo u

/-- A unit begins its integrate phase, at delivery close or once its engine is free (R95, R132). -/
def Hw.integBegin (h : Hw) (u : Nat) : Hw :=
  let at_ := max h.step.dclosedAt (h.core (h.live u)).eng.freeAt
  let h := h.updCore u fun c => { c with warm := false, integ := { begun := at_ } }
  if h.nothingToDo u then ((h.inc QUIET_SKIP_CNT u).setReg CORE_INTEG_CYC u 8#32).setStage u .finished
  else
    let r := (h.core u).resident
    let h := h.updCore u fun c => { c with integ := { c.integ with slicesLeft := (List.range (h.unitSlices u)).filter (· != r) } }
    h.integReplay u r

/-- A core starts, or goes on with, its integrate phase. The guest of a pair runs with its host. -/
def Hw.integStart (h : Hw) (k : Nat) : Hw :=
  let c := h.core k
  if h.step.phase ≠ .integrate ∨ h.coreAvail k = false ∨ h.hostOf k ≠ k ∨ c.done then h
  else match c.integ.stage with
    | .idle => if (h.core (h.live k)).eng.running ∨ (h.core (h.live k)).evq ≠ [] ∨ c.paging then h else h.integBegin k
    | .replay i => h.integReplay k i
    | _ => h.integGo k

/-- A core begins its integrate phase. -/
def execIntegrateStart (k : Core) (s : State) : Out := s.onHw fun h => h.integStart k

/-! ### Slice swaps -/

/-- A swap of unit u completes: a pair's takes its cycles and any other has taken the time since it was asked for; the slice is treated as a
forced step left it, its inbox is replayed and it integrates (R43, R110, 02 R71). A pair's swap that ends after the instant of forcing ends in
the background of a forced step alone. -/
def Hw.swapDone (h : Hw) (u : Nat) : Hw :=
  let c := h.core u
  if c.paging = false ∨ (h.paired u ∧ c.integ.stage = .paging c.pageTo ∧ h.forceTime < c.integ.pageAt + 2 * pairSwapCyc) then h
  else
    let i := c.pageTo
    let h := if h.paired u then h.advTo (c.integ.pageAt + 2 * pairSwapCyc) else h
    let cyc := if h.paired u then pairSwapCyc else (h.dev - c.integ.pageAt) / 2
    let h := (h.swapImage u i).treatLeft u i
    if c.integ.stage = .paging i then (h.integCyc u cyc).integReplay u i else (h.replay u i).1

/-- A slice or pair swap finishes. -/
def execSliceSwapComplete (k : Core) (s : State) : Out := s.onHw fun h => h.swapDone k

/-! ### Egress (R102) -/

/-- Events the local port of a cluster takes at once. -/
def portDepth : Nat := 16

/-- A refused offerer of cluster c waits (06 R191). -/
def Hw.offerWait (h : Hw) (c : Nat) : Hw := h.waitOn SPILL_STALL_CNT c 1

/-- What an offerer of cluster c waited with is gone (10 R300). -/
def Hw.offersDropped (h : Hw) (c : Nat) : Hw := if (h.cl c).port = [] ∧ (h.cl c).alias_ = [] then h.waitOff SPILL_STALL_CNT c else h

/-- An event joins the local port, in the order of core cycles and, within one, of its offerers (R186): the cores by number, then ingress
(`rank` 32), then the crossbar (33). -/
def Hw.portIn (h : Hw) (c rank : Nat) (e : Ev) : Hw :=
  let p : PortEv := { ev := e, ofCore := decide (rank < 32), key := h.dev / 2 * 64 + rank }
  h.updCl c fun v => { v with port := v.port.takeWhile (fun q => decide (q.key ≤ p.key)) ++ p :: v.port.dropWhile fun q => decide (q.key ≤ p.key) }

/-- The egress buffer of core k hands up to two events to the local port in the integrate phase. -/
def Hw.egressHandoff (h : Hw) (k : Nat) : Hw :=
  let c := k / 32
  if h.step.phase ≠ .integrate ∨ h.coreAvail k = false then h
  else
    let n := min 2 (portDepth - (h.cl c).port.length)
    let l := (h.core k).egress.take n
    let h := l.foldl (fun h e => h.portIn c (k % 32) e) (h.updCore k fun c => { c with egress := c.egress.drop n })
    h.integGo (h.hostOf k)

/-- The egress buffer hands events to the local port. -/
def execEgressHandoff (k : Core) (s : State) : Out := s.onHw fun h => h.egressHandoff k

/-! ### Done (02 R65–R67, R82) -/

/-- Every available core of cluster c is done. -/
def Hw.coresDone (h : Hw) (c : Nat) : Bool := (coresOf c).all fun k => !h.coreAvail k || (h.core k).done

/-- The router of cluster c has offered every event of the step to its injection stage (06 R193). -/
def Hw.routerEmpty (h : Hw) (c : Nat) : Bool := let v := h.cl c; v.port.isEmpty && v.alias_.isEmpty

/-- Raise the cluster's done once its cores are done and its router is empty. -/
def Hw.settleDone (h : Hw) (c : Nat) : Hw :=
  if h.step.phase = .integrate ∧ (h.cl c).avail ∧ (h.cl c).done = false ∧ h.coresDone c ∧ h.routerEmpty c then
    h.updCl c fun v => { v with done := true, doneTime := h.dev - h.step.start }
  else h

/-- Core k can raise done (R65). -/
def Hw.mayBeDone (h : Hw) (k : Nat) : Bool :=
  let u := h.hostOf k
  let c := h.core k
  let busy := c.eng.running && c.eng.kind != .message
  h.step.phase == .integrate && h.coreAvail k && !c.done && (h.core u).integ.stage == .finished && c.egress.isEmpty && !busy &&
    ((h.core u).integ.forced || (c.evq.isEmpty && !(h.core u).paging))

/-- When core k raises done: its phase has taken its cycles, and the event handlers that ran after it have ended (R64, R65). -/
def Hw.doneAt (h : Hw) (k : Nat) : Nat :=
  let e := (h.core k).eng
  max ((h.core (h.hostOf k)).integ.begun + 2 * (h.reg CORE_INTEG_CYC k).toNat) (if e.kind = .message then 0 else e.freeAt)

/-- A core raises done; the cluster follows when it can. -/
def Hw.coreDone (h : Hw) (k : Nat) : Hw :=
  if h.mayBeDone k then ((h.advTo (h.doneAt k)).updCore k fun c => { c with done := true }).settleDone (k / 32) else h

/-- A core raises done. -/
def execCoreDone (k : Core) (s : State) : Out := s.onHw fun h => h.coreDone k

end Sys2Proof.Machine
end

