-- ==== Sys2Proof/Machine/Unit.lean ====
section
/-! DEFINITION. Units of the package: availability, the mapping of logical to physical cores, spares and degraded pairs, core and cluster
reset, and memory initialisation (01 R21, R22, 02 R67, 03 R90, R106–R116, 04 R137, 15 R417, 16 R435). -/

namespace Sys2Proof.Machine

/-! ### Sets of registers and tables -/

/-- The cluster whose region a register stands in (19 R507, R508). -/
def regCluster (page u : Nat) : Option Nat :=
  if 0x200 ≤ page ∧ page < 0x300 then some u
  else if page = pgDRIPEP then some (u / 64)
  else if 0x300 ≤ page then some (u / 32)
  else none

/-- Page, unit and offset of a register's key. -/
def regKey (key : Nat) : Nat × Nat × Nat := let p := Nat.unpair key; (p.1, Nat.unpair p.2)

/-- Return to their reset values the registers that `f page unit offset` names. -/
def Hw.resetRegs (h : Hw) (f : Nat → Nat → Nat → Bool) : Hw :=
  { h with regs := h.regs.filter fun p => let k := regKey p.1; !f k.1 k.2.1 k.2.2 }

/-- Zero the tables that `f table unit` names. -/
def Hw.resetTabs (h : Hw) (f : Nat → Nat → Bool) : Hw :=
  { h with tabs := h.tabs.filter fun p => let k := regKey p.1; !f k.1 k.2.1 }

/-- The router tables (06 R178, R187, 07 R209, R221). -/
def routerTabs : List Tab := [.gt, .fseq, .flow, .dest, .dtree, .xtag, .itag]

/-- Memory initialisation of cluster c: every owned region, table segment, core-local memory and router table reads zero (15 R417). -/
def Hw.memInit (h : Hw) (c : Nat) : Hw :=
  let h := h.zero (coreBase (32 * c)) (32 * 2 ^ 24)
  let h := (h.zero (bankBase c 0) (32 * 2 ^ 24)).zero (parkBase c 0) (64 * 2 ^ 24)
  let codes := routerTabs.map Tab.code
  let h := h.resetTabs fun t u => decide (u = c) && codes.contains t
  let h := h.updCl c fun v => { v with banks := v.banks.map (fun b => (b.1, { b.2 with lost := false, scrubLines := [] })) }
  (coresOf c).foldl (fun h k => if (h.core k).touched = 0#16 then h else h.updCore k fun s => { s with touched := 0#16 }) h

/-! ### Availability (01 R21, 02 R67) -/

/-- The step machine holds (02 R83). -/
def Hw.holds (h : Hw) : Bool := !h.flag STEP_CTRL 0 0 && decide (h.step.phase = .idle) && !h.switching

/-- Cluster c is available from the advance on. -/
def Hw.clJoins (h : Hw) (c : Nat) : Bool :=
  let v := h.cl c
  h.resident c && decide (v.pst = .brew) && !v.inReset && !v.mappedOut

/-- Core k is available from the advance on, in an available cluster. -/
def Hw.coreJoins (h : Hw) (k : Nat) : Bool :=
  let v := h.cl (k / 32)
  !(h.core k).inReset && decide ((v.retire >>> h.phys k) % 2 = 0)

/-- Units become available or stop being so at an advance. -/
def Hw.joinUnits (h : Hw) : Hw :=
  (List.range 64).foldl (fun h c =>
    if h.clJoins c then
      let h := h.updCl c fun v => { v with avail := true }
      (coresOf c).foldl (fun h k => h.updCore k fun s => { s with avail := h.coreJoins k }) h
    else if (h.cl c).avail then h.updCl c fun v => { v with avail := false }
    else h) h

/-- Cluster c stops taking part at once. -/
def Hw.leaveCl (h : Hw) (c : Nat) : Hw := h.updCl c fun v => { v with avail := false }

/-! ### The mapping (03 R115, R116) -/

/-- REMAP[K] and PHYS_RETIRE as last written. -/
def Hw.remapReg (h : Hw) (c K : Nat) : Word := h.reg (REMAP K) c
def Hw.retireReg (h : Hw) (c : Nat) : Nat := (h.reg PHYS_RETIRE_LO c).toNat + h.fld PHYS_RETIRE_HI c 1 0 * 2 ^ 32

/-- Physical cores of cluster c that work. -/
def Hw.working (h : Hw) (c : Nat) : Nat := ((List.range 34).filter fun y => ((h.cl c).retire >>> y) % 2 == 0).length

/-- The entry of logical core K is one half of a pair that its PARTNER's entry completes. -/
def pairOk (m : Nat → Word) (K : Nat) : Bool :=
  let w := m K
  let p := bits w 20 16
  let v := m p
  decide (p ≠ K) && bit v 8 && decide (bits v 20 16 = K) && decide (bits v 5 0 = bits w 5 0) && (bit w 9 != bit v 9)

/-- A mapping is valid against the retired physical cores (R116). -/
def mapValid (m : Nat → Word) (retired : Nat) : Bool :=
  (List.range 32).all fun K =>
    let w := m K
    let y := bits w 5 0
    decide (y < 34) && decide ((retired >>> y) % 2 = 0) && (!bit w 8 || pairOk m K) &&
      (List.range 32).all fun L => decide (L = K) || decide (bits (m L) 5 0 ≠ y) || (bit w 8 && decide (bits w 20 16 = L))

/-- A mapping as the table of its entries that differ from K ↦ YK. -/
def mapTbl (m : Nat → Word) : Tbl Word := ((List.range 32).map fun K => (K, m K)).filter fun p => p.2 != w32 p.1

/-- The mapping in force. -/
def Hw.mapNow (h : Hw) (c K : Nat) : Word := h.mapOf (32 * c + K % 32)

/-- Spares put to use and pairs formed by a change of the mapping (R107, R115). -/
def remapCount (old new : Nat → Word) : Nat :=
  let used := (List.range 32).map fun K => bits (old K) 5 0
  ((List.range 32).filter fun K =>
    let w := new K
    if bit w 8 then bit w 9 && !bit (old K) 8 else !used.contains (bits w 5 0)).length

/-- A logical core shows the core-local SRAM of the physical core that serves it (01 R24): where the mapping of cluster c changes, what a
logical core showed stays with its old physical core, and it shows its new one's (DESIGN CHOICE, log 124). A
guest has none of its own. -/
def Hw.moveSrams (h : Hw) (c : Nat) (old new : Nat → Word) : Hw :=
  let guest (w : Word) : Bool := bit w 8 && !bit w 9
  let moved := (List.range 32).filter fun K => decide (bits (old K) 5 0 ≠ bits (new K) 5 0) || (guest (old K) != guest (new K))
  let move (h : Hw) (a b : Nat) : Hw := (h.copy a b (2 ^ 24)).zero a (2 ^ 24)
  let h := moved.foldl (fun h K => if guest (old K) then h else move h (coreBase (32 * c + K)) (parkBase c (bits (old K) 5 0))) h
  moved.foldl (fun h K => if guest (new K) then h else move h (parkBase c (bits (new K) 5 0)) (coreBase (32 * c + K))) h

/-- Put a valid mapping in force. -/
def Hw.setMap (h : Hw) (c : Nat) (m : Nat → Word) : Hw :=
  let n := remapCount (h.mapNow c) m
  let h := (h.moveSrams c (h.mapNow c) m).updCl c fun v => { v with map := mapTbl m, remapPend := false }
  if n = 0 then h else h.inc REMAP_CNT c n

/-- Every REMAP register returns to the mapping in force. -/
def Hw.remapBack (h : Hw) (c : Nat) : Hw :=
  (List.range 32).foldl (fun h K => h.setReg (REMAP K) c (h.mapNow c K)) (h.updCl c fun v => { v with remapPend := false })

/-- The pending set of cluster c is judged as one and takes effect, or is discarded with REMAP_INVALID (R116). -/
def Hw.remapApply (h : Hw) (c : Nat) : Hw :=
  if (h.cl c).remapPend = false then h
  else if mapValid (h.remapReg c) (h.retireReg c) then h.setMap c (h.remapReg c)
  else (h.remapBack c).raiseQCl fRemapInvalid c

/-- The loaded schedules that use a cluster of `cs` are invalid: firmware asks the host for a reload of each (01 R49, 14 R394). -/
def Hw.askReload (h : Hw) (cs : List Nat) : Hw :=
  let l := (List.range 16).filter fun n => decide (h.ctxState n ≠ 0) && cs.any (fun c => h.inPart n c) && !h.fw.stale.contains n
  if l = [] then h else { h with fw := { h.fw with stale := h.fw.stale ++ l } }

/-- Cluster c is mapped out, and the schedules that use it are invalid. -/
def Hw.mapOut (h : Hw) (c : Nat) : Hw := (h.updCl c fun v => { v with mappedOut := true, avail := false }).askReload [c]

/-- A cluster with fewer than 28 working physical cores is mapped out (R111). -/
def Hw.judgeMapped (h : Hw) (c : Nat) : Hw := if h.working c < 28 ∧ (h.cl c).mappedOut = false then h.mapOut c else h

/-- The page's other registers take effect (R115). -/
def Hw.remapPageApply (h : Hw) (c : Nat) : Hw :=
  let r := h.retireReg c
  let d := h.reg DEG_RESERVE c
  let n := h.fld DEG_RESERVE_SIZE c 2 0
  let v := h.cl c
  if v.retire = r ∧ v.deg = d ∧ v.degSize = n then h
  else (h.updCl c fun v => { v with retire := r, deg := d, degSize := n }).judgeMapped c

/-- A write of REMAP[K] (R116). -/
def Hw.remapWrite (h : Hw) (c K : Nat) (v : Word) : Hw :=
  let v := v &&& 0x001F033F#32
  if h.holds then
    let m (i : Nat) : Word := if i = K then v else h.mapNow c i
    if mapValid m (h.retireReg c) then (h.setReg (REMAP K) c v).setMap c m else h.raiseQCl fRemapInvalid c
  else (h.setReg (REMAP K) c v).updCl c fun s => { s with remapPend := true }

/-- A W1S write of PHYS_RETIRE_LO or PHYS_RETIRE_HI; firmware keeps its list of retired cores in flash (R106). -/
def Hw.retireWrite (h : Hw) (c : Nat) (hi : Bool) (v : Word) : Hw :=
  let r := if hi then PHYS_RETIRE_HI else PHYS_RETIRE_LO
  let h := h.setReg r c (h.reg r c ||| (if hi then v &&& 3#32 else v))
  let done (x : Nat) : Bool := decide (x / 64 = c) && decide ((h.retireReg c >>> (x % 64)) % 2 = 1)
  let h := { h with fw := { h.fw with
    retired := Tbl.set 0 h.fw.retired c (Tbl.get 0 h.fw.retired c ||| h.retireReg c), retireDue := h.fw.retireDue.filter fun x => !done x } }
  if h.holds then h.remapPageApply c else h

/-! ### Spares and pairs (R107, R108) -/

/-- The lowest physical core that works and serves no logical core. -/
def spareOf (m : Nat → Word) (retired : Nat) : Option Nat :=
  (List.range 34).find? fun y => decide ((retired >>> y) % 2 = 0) && (List.range 32).all fun K => decide (bits (m K) 5 0 ≠ y)

/-- Logical cores whose physical core is retired, in ascending K. -/
def orphans (m : Nat → Word) (retired : Nat) : List Nat := (List.range 32).filter fun K => (retired >>> bits (m K) 5 0) % 2 == 1

/-- Give spares to orphans in ascending K (16 R447). -/
def withSpares (retired : Nat) : (Nat → Word) → List Nat → (Nat → Word)
  | m, [] => m
  | m, K :: r =>
    match spareOf m retired with
    | some y => withSpares retired (fun i => if i = K then w32 y else m i) r
    | none => m

/-- A pair for the orphan K: the guest is K, or, where K is sliced, another unsliced core that gives its physical core to K (R108). -/
def withPair (sliced : Nat → Bool) (retired : Nat) (m : Nat → Word) (K : Nat) : Option (Nat → Word) :=
  let plain (i : Nat) : Bool := decide (i ≠ K) && !sliced i && !bit (m i) 8 && decide ((retired >>> bits (m i) 5 0) % 2 = 0)
  let guest := if sliced K then (List.range 32).find? plain else some K
  match guest with
  | none => none
  | some g =>
    match (List.range 32).find? fun i => plain i && decide (i ≠ g) with
    | none => none
    | some host =>
      let y := bits (m host) 5 0
      some fun i =>
        if i = host then w32 (y + 2 ^ 8 + 2 ^ 9 + g * 2 ^ 16)
        else if i = g then w32 (y + 2 ^ 8 + host * 2 ^ 16)
        else if i = K then w32 (bits (m g) 5 0)
        else m i

/-- Pairs for every orphan, at most n of them. -/
def withPairs (sliced : Nat → Bool) (retired : Nat) : Nat → (Nat → Word) → List Nat → Option (Nat → Word)
  | _, m, [] => some m
  | 0, _, _ :: _ => none
  | n + 1, m, K :: r =>
    match withPair sliced retired m K with
    | some m' => withPairs sliced retired n m' r
    | none => none

/-- Firmware's new mapping for cluster c: spares first, then pairs; none where the cluster must be mapped out (R107, R108). -/
def Hw.firmwareMap (h : Hw) (c : Nat) : Option (Nat → Word) :=
  let ret := h.retireReg c
  let m := withSpares ret (h.mapNow c) (orphans (h.mapNow c) ret)
  let used := ((List.range 32).filter fun K => bit (m K) 9).length
  withPairs (fun K => decide (1 < h.slices (32 * c + K))) ret (h.fld DEG_RESERVE_SIZE c 2 0 - used) m (orphans m ret)

/-- Firmware writes a whole mapping: pending until the advance, or in force at once while the machine holds (log 25). -/
def Hw.writeMap (h : Hw) (c : Nat) (m : Nat → Word) : Hw :=
  let h := (List.range 32).foldl (fun h K => h.setReg (REMAP K) c (m K)) h
  let h := h.updCl c fun v => { v with remapPend := true }
  if h.holds then (h.remapPageApply c).remapApply c else h

/-- Spares for cluster c at boot, when no image gives room for pairs (16 R447). -/
def Hw.bootSpares (h : Hw) (c : Nat) : Hw :=
  let ret := h.retireReg c
  let h := h.remapPageApply c
  let o := orphans (h.mapNow c) ret
  if o = [] then h
  else
    let m := withSpares ret (h.mapNow c) o
    let h := (List.range 32).foldl (fun h K => h.setReg (REMAP K) c (m K)) h
    h.setMap c m

/-! ### Core reset (03 R90, 04 R137, 16 R435) -/

/-- The effects of core reset on core k, which stays in reset. -/
def Hw.coreReset (h : Hw) (k : Nat) : Hw :=
  let c := k / 32
  let s := h.core k
  let e := epOfCore k
  let n := s.listq.length + s.held.length + s.egress.length + s.evq.length + (h.ep e).q.length
  let h := if n = 0 then h else h.inc UNAVAIL_DROP_CNT c n
  let h := h.setFld CORE_LAYOUT k 29 16 0
  let h := h.zero (psetAddr k 0) 0x2000
  let h := h.setReg MC_CTRL k (resetVal MC_CTRL k)
  let h := (h.updEp e fun v => { v with q := [] }).epReset e
  let h := ((h.waitOff MC_CYC_CNT k).waitOff EGRESS_STALL_CNT k).waitOff EGRESS_STALL_CNT k 1
  let h := (h.waitOff ACC_XBAR_STALL_CNT c k).waitOff DENSE_PORT_STALL_CNT k
  let h := h.setCore k { ({} : CoreSt) with
    inReset := true, touched := s.touched, resident := s.resident, paging := s.paging, pageTo := s.pageTo, inbox := s.inbox, left := s.left
    ceHigh := s.ceHigh, clipSeen := s.clipSeen, macRem := s.macRem, rstAt := h.dev }
  h.settleDone c

/-- A core reset request is ignored and counted (16 R436). -/
def Hw.coreResetIgn (h : Hw) (c : Nat) : Bool := decide (h.reg RST_STAT ≠ 0#32) || (h.cl c).inReset

/-- A CORE_RST_PULSE write. -/
def Hw.coreRstPulse (h : Hw) (c : Nat) (v : Word) : Hw :=
  let ks := (List.range 32).filter fun i => bit v i
  if h.coreResetIgn c then h.inc RST_IGN_CNT 0 ks.length
  else ks.foldl (fun h i => h.coreReset (32 * c + i)) h

/-- A CORE_RST_HOLD write: bits that rise hold their cores in reset; a bit that falls lets the reset end. -/
def Hw.coreRstHold (h : Hw) (c : Nat) (v : Word) : Hw :=
  let old := h.reg CORE_RST_HOLD c
  let up := (List.range 32).filter fun i => bit v i && !bit old i
  if h.coreResetIgn c then (h.setReg CORE_RST_HOLD c (old &&& v)).inc RST_IGN_CNT 0 up.length
  else up.foldl (fun h i => h.coreReset (32 * c + i)) (h.setReg CORE_RST_HOLD c v)

/-- A core reset ends, 1 µs after its start, unless the core is held. -/
def Hw.coreResetEnd (h : Hw) (k : Nat) : Hw :=
  if (h.core k).inReset = false ∨ h.flag CORE_RST_HOLD (k / 32) (k % 32) ∨ (h.cl (k / 32)).inReset then h
  else (h.advTo ((h.core k).rstAt + us)).updCore k fun s => { s with inReset := false }

/-! ### Cluster reset (16 R435) -/

/-- A cluster reset starts, or is ignored and counted (R436). `hold`: its cores stay held at its end (17 R461). -/
def Hw.clusterReset (h : Hw) (c : Nat) (hold : Bool) : Hw :=
  let v := h.cl c
  if h.reg RST_STAT ≠ 0#32 ∨ v.pst ≠ .brew then h.inc RST_IGN_CNT
  else
    let h := if v.lookq = [] then h else h.inc UNAVAIL_DROP_CNT c v.lookq.length
    let h := if v.preq = [] then h else h.inc PRE_DROP_CNT c v.preq.length
    let h := h.roastAbort c
    let h := (List.range 32).foldl (fun h b =>
      let h := (h.setReg (BANK_OWNER b) c (resetVal (BANK_OWNER b) c)).updBank c b fun s => { s with roastFrom := none }
      if h.bankPending c b then h.handoverDone c b else h) h
    let h := h.updCl c fun v =>
      { v with lookq := [], preq := [], retry := [], inReset := true, rstAt := h.dev, avail := false, holdCores := v.holdCores || hold }
    (coresOf c).foldl (fun h k => h.coreReset k) h

/-- A cluster reset ends, 2 µs after its start (17 R461). -/
def Hw.clusterResetEnd (h : Hw) (c : Nat) : Hw :=
  let v := h.cl c
  if v.inReset = false then h
  else
    let h := h.advTo (v.rstAt + 2 * us)
    let h := if v.holdCores then h.setReg CORE_RST_HOLD c 0xFFFFFFFF#32 else h
    let h := h.updCl c fun v => { v with inReset := false, holdCores := false }
    (coresOf c).foldl (fun h k => h.coreResetEnd k) h

/-- A cluster reset ends; the cluster is available from the next advance on. -/
def execClusterResetEnd (c : Cluster) (s : State) : Out := s.onHw fun h => h.clusterResetEnd c

/-- A core reset ends; the core is available from the next advance on. -/
def execCoreResetEnd (k : Core) (s : State) : Out := s.onHw fun h => h.coreResetEnd k

end Sys2Proof.Machine
end

