-- ==== Sys2Proof/Machine/Att.lean ====
section
/-! DEFINITION. Attestation: confidentiality in force, the package's capacity figures, the report and its signature (01 R50, 18 R490–R493, R496). -/

namespace Sys2Proof.Machine

/-- CTX_CONF bit of a context. -/
def Hw.conf (h : Hw) (n : Nat) : Bool := h.flag CTX_CONF 0 n

/-- A confidential context is resident. -/
def Hw.confResident (h : Hw) : Bool := h.someResident && h.conf h.ctx

/-- A switch runs into context n, or out of it. -/
def Hw.switchOf (h : Hw) (n : Nat) : Bool := h.switching && (decide (h.sw.out = some n) || decide (h.sw.to_ = n))

/-- A confidential context is resident, or a switch into one, or out of one up to interval 4, runs (R490). -/
def Hw.confActive (h : Hw) : Bool :=
  (h.confResident && decide (h.sw.stage ≤ 4)) || (h.switching && h.conf h.sw.to_) ||
    (h.switching && decide (h.sw.stage ≤ 4) && (match h.sw.out with
      | some n => h.conf n
      | none => false))

/-- The debug access port is closed by a fuse or by a confidential context (R490, R494). -/
def Hw.debugClosed (h : Hw) : Bool := h.flag FUSE_FLAGS 0 0 || h.flag FUSE_FLAGS 0 1 || h.confActive

/-- A confidential context that comes in ends the halt of every management processor (R490). -/
def Hw.debugEnd (h : Hw) (n : Nat) : Hw := if h.conf n then { h with mpHalted := 0#32 } else h

/-- Bit masks of mapped-out and of degraded clusters 32 × half on (01 R50). -/
def Hw.outMask (h : Hw) (half : Nat) : Word := w32 (((List.range 32).map fun i => b2n (h.cl (32 * half + i)).mappedOut * 2 ^ i).sum)
def Hw.degMask (h : Hw) (half : Nat) : Word := w32 (((List.range 32).map fun i => b2n (decide (h.working (32 * half + i) < 32)) * 2 ^ i).sum)

/-- TOPO_CAPACITY: the logical cores of clusters in service, and every working physical core. -/
def Hw.capacity (h : Hw) : Word :=
  let n := ((List.range 64).filter fun c => !(h.cl c).mappedOut).length
  w32 (32 * n + ((List.range 64).map h.working).sum * 2 ^ 16)

/-- The words of a digest as a byte string, lowest address first (R493). -/
def digestWords (d : BitVec 512) : List Word :=
  let byte (j : Nat) : Byte := (d >>> (8 * (63 - j))).setWidth 8
  (List.range 16).map fun i => bytesWord (byte (4 * i)) (byte (4 * i + 1)) (byte (4 * i + 2)) (byte (4 * i + 3))

/-- What a context holds. -/
def Hw.ctxSt (h : Hw) (n : Nat) : CtxSt := Tbl.get {} h.ctxs n

def Hw.updCtx (h : Hw) (n : Nat) (f : CtxSt → CtxSt) : Hw := { h with ctxs := Tbl.set {} h.ctxs n (f (h.ctxSt n)) }

/-- The report's signed words (R493). -/
def Hw.attWords (h : Hw) : List Word :=
  let z : List Word := [0#32, 0#32, 0#32]
  let img (n : Nat) : List Word :=
    let d := (h.ctxSt n).img
    let st := if h.ctxState n = 0 then 0 else h.ctxState n + b2n (h.conf n) * 4 + b2n (h.flag CTX_SAVE_INVALID 0 n) * 8
    digestWords ((d.map Image.digest).getD 0) ++ digestWords ((d.map Image.codeDigest).getD 0) ++ [w32 st, 0#32]
  [0x31545441#32, 0xA00#32] ++ (List.range 8).map (fun i => h.reg (ATT_NONCE i)) ++ (List.range 4).map (fun i => h.reg (DEV_ID i)) ++
    (List.range 16).map (fun i => h.reg (FW_DIGEST i)) ++ [h.reg FW_VER, h.reg FUSE_FLAGS,
      w32 (b2n (!h.debugClosed) + b2n h.pkg.attached * 2 + b2n h.confResident * 4), h.reg LIC_STAT, h.reg LIC_AR_CNT, h.stepNum,
      w32 (h.ctx + b2n (!h.someResident) * 16)] ++ z ++
    [h.outMask 0, h.outMask 1, h.degMask 0, h.degMask 1, h.capacity] ++ z ++
    (List.range 16).flatMap (fun n => [h.reg (CTX_PART_LO n), h.reg (CTX_PART_HI n)]) ++ digestWords h.fw.coreDigest ++
    (List.range 16).flatMap img

/-- Firmware takes the snapshot that a START asked for (R492). -/
def Hw.attSnapshot (h : Hw) : Hw := if h.attWait then { h with attWait := false, attReport := h.attWords } else h

/-- A START: ignored and counted while BUSY; else the snapshot comes at the next advance, or at once while RUN is 0 (R492). -/
def Hw.attStart (h : Hw) : Hw :=
  if h.flag ATT_STAT 0 0 then h.inc ATT_REQ_IGN_CNT
  else
    let h := { h.setReg ATT_STAT 0 1#32 with attWait := true }
    if h.flag STEP_CTRL 0 0 then h else h.attSnapshot

/-- The signing unit answers: READY with the signature behind the report, or FAIL. -/
def Hw.attSigned (h : Hw) (ok : Bool) : Hw :=
  if h.flag ATT_STAT 0 0 = false ∨ h.attWait then h
  else if ok then
    let r := h.attReport
    let r := r ++ Config.sign (Config.sha512 (r.flatMap wordBytes))
    ({ h with attReport := r }.setReg ATT_STAT 0 2#32).inc ATT_CNT
  else h.setReg ATT_STAT 0 4#32

/-- A report is signed, or the signing unit reports an error. -/
def execAttSignDone (ok : Bool) (s : State) : Out := s.onHw fun h => h.attSigned ok

end Sys2Proof.Machine
end

