-- ==== Sys2Proof/Machine/Fabric.lean ====
section
/-! DEFINITION. The scheduled event fabric: slots, flows, the injection stage, the hold store and the spill queue (06, 01 R29–R34). -/

namespace Sys2Proof.Machine

/-! ### Frames and lanes (R179–R181, R185) -/

/-- Fabric cycles of the frames of a step (R180). -/
def Hw.frameEnd (h : Hw) : Nat := 1024 * min 512 (h.fld FAB_FRAMES 0 9 0)

/-- D_SC (R198). -/
def Hw.dSc (h : Hw) : Nat := max 1 (min 256 (h.fld FAB_SC_DELAY 0 8 0))

/-- The direction of a lane from 8 to 15, and which of the two lanes of the port it is. -/
def laneDir (n : Nat) : Option Dir := dirOf (n / 2 - 3)

/-- The lane of the opposite port. -/
def oppLane (n : Nat) : Nat := if n < 12 then n + 4 else n - 4

/-- Where an output lane leads: a local queue, a neighbour's input lane after so many cycles, a Saune-C link, an unusable Saune-D lane, or
nothing. -/
inductive LaneEnd
  | local_ | mesh (c lane delay : Nat) | sc (link : Nat) | dead | none_
deriving DecidableEq, Repr

/-- The end of output lane n of router c. -/
def Hw.laneEnd (h : Hw) (c n : Nat) : LaneEnd :=
  if n < 8 then .local_
  else if n = 16 then (match scAt c with
    | some k => .sc k
    | none => .none_)
  else
    match laneDir n with
    | none => .none_
    | some d => match neighbour c d with
      | none => .none_
      | some m =>
        if h.clCold m then .dead
        else if m / 16 = c / 16 then .mesh m (oppLane n) 3
        else if n % 2 = 1 then .none_
        else if h.sdDead c d then .dead
        else .mesh m (oppLane n) 15

/-- The key of a flit in a router's lanes: the slot it is read in, and the input lane; 32 more for a flit bound for the lookup queue. -/
def laneKey (slot lane : Nat) : Nat := slot * 64 + lane

/-- Table errors and flit errors met in one slot: per input lane, a single-bit error in the upper or lower half of the flit, an uncorrectable
flit, a corrected and an uncorrectable slot entry; and the same two of the frame sequence entry. -/
structure SlotSt where
  h : Hw
  /-- Output lanes already driven in this slot. -/
  used : List Nat := []

/-! ### Flows (R187, R188) -/

/-- Word i of flow f. -/
def Hw.flowWord (h : Hw) (c f i : Nat) : Word := h.tab .flow c (i * 2 ^ 16 + f)

/-- Flow class, spill entry and budget of a flow. -/
def Hw.flowClass (h : Hw) (c f : Nat) : Nat := bits (h.flowWord c f 1) 31 28
def Hw.flowDest (h : Hw) (c f : Nat) : Nat := bits (h.flowWord c f 1) 27 20
def Hw.flowBudget (h : Hw) (c f : Nat) : Nat := bits (h.flowWord c f 2) 15 0

/-- The unit that an alias names holds cluster c (R188, 01 R31). -/
def Hw.aliasHere (h : Hw) (c : Nat) (a : Word) : Bool :=
  let lv := bits a 27 26
  lv == 3 || (bits a 25 22 == h.pkgNum && (lv == 2 || (bits a 21 20 == c / 16 && (lv == 1 || bits a 19 16 == c % 16))))

/-- Flow f matches a source address (R188). -/
def Hw.flowMatches (h : Hw) (c : Nat) (a : Word) (f : Nat) : Bool :=
  let f0 := h.flowWord c f 0
  let lo := bits f0 17 0
  let hi := bits (h.flowWord c f 1) 17 0
  let within (n : Nat) : Bool := decide (lo ≤ n) && decide (n ≤ hi)
  match bits f0 31 30 with
  | 1 => bits a 31 28 == 1 && bits a 23 18 == c && bits a 17 13 == bits f0 29 25 && within (bits a 12 0)
  | 2 => bits a 31 28 == 4 && h.aliasHere c a && within (bits a 15 0)
  | 3 => bits a 31 28 == 3 && within (bits a 17 0)
  | _ => false

/-- The lowest-numbered flow that matches. -/
def Hw.flowOf (h : Hw) (c : Nat) (a : Word) : Option Nat := (List.range 512).find? (h.flowMatches c a)

/-- HELD[f] and PASSED[f] (R189). -/
def Hw.held (h : Hw) (c f : Nat) : Nat := ((h.cl c).hold.filter fun x => x.1 == f).length
def Hw.passed (h : Hw) (c f : Nat) : Nat := Tbl.get 0 (h.cl c).passed f

/-- Take the first event of flow f out of a hold store. -/
def takeHeld (f : Nat) : List (Nat × Ev) → Option (Ev × List (Nat × Ev))
  | [] => none
  | x :: r => if x.1 = f then some (x.2, r) else (takeHeld f r).map fun p => (p.1, x :: p.2)

/-- A table error is counted, and an uncorrectable one raised (R197): `err` is 0 none, 1 single-bit, 2 double-bit. -/
def Hw.tableErr (h : Hw) (c err : Nat) : Hw :=
  if err = 1 then h.inc GT_CE_CNT c else if err = 2 then (h.inc GT_UE_CNT c).raiseQCl fFabGtUe c else h

/-- An event matches no flow (R188). -/
def Hw.noFlow (h : Hw) (c : Nat) : Hw := (h.inc NOFLOW_DROP_CNT c).raiseQCl fFabNoflow c

/-- A reserved slot of flow f goes by: the flit it carries, EMPTY if none is held (R189). A flow entry that cannot be read names no class: the
slot counts in none, and the event it would carry is one of no flow (R197, log 89). -/
def Hw.flowSlot (h : Hw) (c f err : Nat) : Hw × Option Ev :=
  let k := h.flowClass c f
  let h := (h.tableErr c err).updCl c fun v => { v with passed := Tbl.set 0 v.passed f (Tbl.get 0 v.passed f + 1) }
  let count (h : Hw) (r : Rg) : Hw := if err = 2 then h else h.inc r c
  let h := count h (FCLS_RESV_CNT k)
  match takeHeld f (h.cl c).hold with
  | some (e, r) =>
    let h := h.updCl c fun v => { v with hold := r }
    if err = 2 then (h.noFlow c, none) else (count h (FCLS_HIT_CNT k), some e)
  | none => (count h (FCLS_EMPTY_CNT k), none)

/-! ### Slots (R183–R185, R197) -/

/-- A wake hint raises the wake lines of a group's cores (02 R78); the Warm of a bank changes no state (15 R414). -/
def Hw.wakeGroup (h : Hw) (c i : Nat) : Hw :=
  let ks := h.reg (WAKE_GRP_CORE i) c
  (List.range 32).foldl (fun h j =>
    if bit ks j ∧ (h.core (32 * c + j)).warm then h.updCore (32 * c + j) fun s => { s with warm := false } else h) h

/-- Rewrite a source address on leaving the package (01 R29). -/
def Hw.addrOut (h : Hw) (a : Word) : Word :=
  if bits a 31 28 = 1 then setBits (setBits a 31 28 2) 27 24 h.pkgNum else a

/-- Rewrite a source address on entering the package (01 R29). -/
def Hw.addrIn (h : Hw) (a : Word) : Word :=
  if bits a 31 28 = 2 ∧ bits a 27 24 = h.pkgNum then setBits (setBits a 31 28 1) 27 24 0 else a

/-- A copy of a flit, none being EMPTY, goes onto output lane m of router c in slot s (R184, R185, 14 R399, R400). -/
def Hw.copyOut (h : Hw) (c s m : Nat) (e : Option Ev) (firstLocal : Bool) : Hw :=
  let put (h : Hw) (d key : Nat) : Hw :=
    match e with
    | some e => h.updCl d fun v => { v with lanes := Tbl.put v.lanes key e }
    | none => h
  match h.laneEnd c m with
  | .local_ => if firstLocal then put h c (laneKey (s + 3) (32 + m)) else h
  | .mesh d lane delay => put h d (laneKey (s + delay) lane)
  | .dead => h.inc SLOT_ERR_CNT c
  | .none_ => (h.inc SLOT_ERR_CNT c).raiseQCl fFabSlotErr c
  | .sc k =>
    if h.scState k = 0 then (h.inc SLOT_ERR_CNT c).raiseQCl fFabSlotErr c
    else if h.scOpen k = false then (if e.isSome then h.inc SC_UNAVAIL_DROP_CNT k else h)
    else if h.flag FAB_STAT 0 k then h.inc SLOT_ERR_CNT c
    else match e with
      | some e => h.send (.flit k { e with addr := h.addrOut e.addr })
      | none => h

/-- A flit on the outputs an entry names: an output already driven in the slot loses the copy (R184). -/
def SlotSt.copies (st : SlotSt) (c s mask : Nat) (e : Option Ev) : SlotSt :=
  let outs := (List.range 17).filter fun m => (mask >>> m) % 2 == 1
  let won := outs.filter fun m => !(st.used.contains m)
  let lost := outs.length - won.length
  let first := won.find? fun m => decide (m < 8)
  let h := won.foldl (fun h m => h.copyOut c s m e (first == some m)) st.h
  let h := (List.range lost).foldl (fun h _ => (h.inc FAB_CONFLICT_CNT c).raiseQCl fFabSlotErr c) h
  { h := h, used := st.used ++ won }

/-- A flit as a router forwards it: reserved flags cleared (R176). -/
def fwdEv (e : Ev) : Ev := { e with low := e.low &&& 0xFFFFFF1F#32 }

/-- The flit on input lane n of router c in slot s, checked (R177): none is EMPTY. -/
def Hw.inputFlit (h : Hw) (c s n : Nat) (x : SlotErr) : Hw × Option Ev :=
  let e := Tbl.find (h.cl c).lanes (laneKey s n)
  if x.ue.getLsbD n then ((h.inc FAB_UE_CNT c).raiseQCl fFabUe c, none)
  else
    let m := b2n (x.ceHigh.getLsbD n) + b2n (x.ceLow.getLsbD n)
    let h := if m = 0 then h else h.inc FAB_CE_CNT c m
    match e with
    | none => (h, none)
    | some e =>
      if n = 16 then
        let e := { e with addr := h.addrIn e.addr }
        if h.addrBad e.addr then (h.inc ADDR_DEPTH_ERR_CNT c, none) else (h, some (fwdEv e))
      else (h, some (fwdEv e))

/-- The entry of input lane n in slot s is applied (R183). -/
def SlotSt.entry (x : SlotErr) (c table s n : Nat) (st : SlotSt) : SlotSt :=
  let h := st.h
  if x.tableUe.getLsbD n then { st with h := h.tableErr c 2 }
  else
    let h := if x.tableCe.getLsbD n then h.tableErr c 1 else h
    let w := h.tab .gt c (table * 2 ^ 16 + n * 2 ^ 10 + s % 1024)
    let h := if bit w 30 then h.wakeGroup c (bits w 29 26) else h
    if bit w 31 = false then { st with h := h }
    else
      let err := if x.flowUe.getLsbD n then 2 else b2n (x.flowCe.getLsbD n)
      let r := if n < 8 then h.flowSlot c (bits w 25 17) err else h.inputFlit c s n x
      ({ st with h := r.1 } : SlotSt).copies c s (bits w 16 0) r.2

/-- Flits that reach the lookup queue of router c in slot s. -/
def Hw.localArrivals (h : Hw) (c s : Nat) : Hw :=
  (rangeIncl 32 39).foldl (fun h n =>
    match Tbl.find (h.cl c).lanes (laneKey s n) with
    | some e => h.lookupFabric c { ev := e, dstep := h.stepNum }
    | none => h) h

/-- One slot of router c (R183). It happens when its instant has come: the frames of the step run, and every router has read the flits that
could still reach it. -/
def Hw.fabricSlot (h : Hw) (c : Nat) (x : SlotErr) : Hw :=
  let s := (h.cl c).slot
  if h.step.phase ≠ .delivery ∨ h.step.framesDone ∨ h.frameEnd ≤ s ∨ ((List.range 64).any fun d => decide ((h.cl d).slot + 3 ≤ s)) then h
  else
    let h := h.advTo (h.step.start + s)
    let h := h.localArrivals c s
    let f := s / 1024
    let first := decide (s % 1024 = 0)
    let h := if first ∧ x.seqUe then (h.tableErr c 2).updCl c fun v => { v with idleFrame := some f }
      else if first ∧ x.seqCe then h.tableErr c 1 else h
    let q := h.tab .fseq c ((h.cl c).fseq * 2 ^ 16 + f)
    let h :=
      if bit q 7 ∨ (h.cl c).idleFrame = some f then h
      else ((List.range 17).foldl (fun st n => st.entry x c (bits q 2 0) s n) ({ h := h } : SlotSt)).h
    h.updCl c fun v => { v with slot := s + 1, lanes := v.lanes.filter fun p => decide (laneKey (s + 1) 0 ≤ p.1) }

/-- One slot of a router. -/
def execFabricSlot (c : Cluster) (err : SlotErr) (s : State) : Out := s.onHw fun h => h.fabricSlot c err

/-! ### Spilling (R189–R192, R197) -/

/-- A spill of a flow class counts at once, or at the end of the integrate phase it falls in (R194, R201). -/
def Hw.countSpill (h : Hw) (c k : Nat) : Hw :=
  if h.step.phase = .integrate then h.updCl c fun v => { v with spillCnt := Tbl.set 0 v.spillCnt k (Tbl.get 0 v.spillCnt k + 1) }
  else h.inc (FCLS_SPILL_CNT k) c

/-- The integrate phase ends: FCLS_SPILL_CNT takes in the spills of the phase (R201). -/
def Hw.foldSpills (h : Hw) : Hw :=
  h.clusters.foldl (fun h p =>
    if p.2.spillCnt = [] then h
    else p.2.spillCnt.foldl (fun h x => h.inc (FCLS_SPILL_CNT x.1) p.1 x.2) (h.updCl p.1 fun v => { v with spillCnt := [] })) h

/-- An event of flow f joins the spill queue for delivery step t; one whose entry names no package, or cannot be read, is dropped. -/
def Hw.spillEvent (h : Hw) (c f : Nat) (e : Ev) (t : Word) (err : Nat) : Hw :=
  let d := h.flowDest c f
  let h := ((h.countSpill c (h.flowClass c f)).inc SPILL_EVT_CNT c).tableErr c err
  if err = 2 ∨ h.destPkgs c d = 0 then h.inc NOFLOW_DROP_CNT c
  else
    let h := h.updCl c fun v => { v with spill := v.spill ++ [⟨e, t, d⟩] }
    h.hwm SPILL_HWM c (h.cl c).spill.length

/-- What the hold store holds becomes residue for delivery in the step in progress (R190). -/
def Hw.holdResidue (h : Hw) (c : Nat) : Hw :=
  if (h.cl c).hold = [] then h
  else h.updCl c fun v => { v with hold := [], residue := v.residue ++ v.hold.map fun x => (x.1, x.2, h.stepNum) }

/-- One event of residue moves into the spill queue, which has room for it (R190). -/
def Hw.residueMove (h : Hw) (c err : Nat) : Hw :=
  match (h.cl c).residue with
  | [] => h
  | (f, e, t) :: r =>
    if h.spillFull c then h
    else (((h.updCl c fun v => { v with residue := r }).inc HOLD_RESIDUE_CNT c).spillEvent c f e t err).spillRoom c

/-- The last frame of the step ends: what hold stores still hold is residue (R190); flits on their last hop reach the lookup queues. -/
def Hw.lastFrameEnd (h : Hw) : Hw :=
  if h.step.phase ≠ .delivery ∨ h.step.framesDone ∨ ((List.range 64).any fun d => decide ((h.cl d).slot < h.frameEnd)) then h
  else
    let n := h.frameEnd
    let h := h.advTo (h.step.start + n)
    let one (h : Hw) (c : Nat) : Hw :=
      (((((h.localArrivals c n).localArrivals c (n + 1)).localArrivals c (n + 2)).updCl c fun v => { v with lanes := [] })).holdResidue c
    ((List.range 64).foldl one h).updStep fun s => { s with framesDone := true }

/-- The last frame ends. -/
def execLastFrameEnd (s : State) : Out := s.onHw fun h => h.lastFrameEnd

/-- One event of hold-store residue moves into the spill queue; `err` is a table error of its destination entry. -/
def execHoldResidueMove (c : Cluster) (err : Fin 3) (s : State) : Out := s.onHw fun h => (h.residueMove c err).settleDone c

/-- Delivery closes for the fabric: no slot of the step is ahead any more (R189). A close forced before the last frame leaves what is held as
residue, and discards and counts the flits on lanes (log 89). -/
def Hw.fabricClose (h : Hw) : Hw :=
  h.clusters.foldl (fun h p =>
    let h := if p.2.passed = [] then h else h.updCl p.1 fun v => { v with passed := [] }
    if h.step.framesDone then h
    else ((if p.2.lanes = [] then h else (h.inc SLOT_ERR_CNT p.1 p.2.lanes.length).updCl p.1 fun v => { v with lanes := [] }).holdResidue p.1)) h

/-! ### The injection stage (R186–R191, 01 R33) -/

/-- The delivery step of an event offered now (R186). -/
def Hw.offerStep (h : Hw) : Word :=
  match h.step.phase with
  | .idle => h.stepNum
  | .delivery => h.stepNum
  | _ => h.stepNum + 1#32

/-- Event e of flow f is held, or spills (R189, R190). -/
def Hw.holdOrSpill (h : Hw) (c f : Nat) (e : Ev) (destErr : Nat) : Hw :=
  let late := h.step.phase == .delivery && h.step.framesDone
  if late = false ∧ h.held c f < h.flowBudget c f - h.passed c f then
    let h := h.updCl c fun v => { v with hold := v.hold ++ [(f, e)] }
    h.hwm HOLD_HWM c (h.cl c).hold.length
  else h.spillEvent c f e h.offerStep destErr

/-- An event goes to its flow, or is dropped where none matches (R188, R197). -/
def Hw.injectEvent (h : Hw) (c : Nat) (e : Ev) (flowErr destErr : Nat) : Hw :=
  let h := h.tableErr c flowErr
  match if flowErr = 2 then none else h.flowOf c e.addr with
  | some f => h.holdOrSpill c f e destErr
  | none => h.noFlow c

/-- The words of a cluster's alias membership table, from its base to the end of the owned region. -/
def Hw.aliasWords (h : Hw) (c : Nat) : List Word :=
  let off := 16 * h.fld UNIT_ALIAS_BASE c 22 8
  h.words (bankBase c (h.fld UNIT_ALIAS_BASE c 4 0) + off) ((ownedEnd - off) / 4)

/-- The alias that a core's event is merged into: one of the UNIT_ALIAS_NUM that the table holds (01 R34). -/
def Hw.aliasFor (h : Hw) (c : Nat) (e : Ev) : Option Word :=
  if h.flag UNIT_CTRL c 0 = false then none
  else match Config.aliasOf (h.aliasWords c) e.addr with
    | some i => if i < h.fld UNIT_ALIAS_NUM c 12 0 then some (Config.aliasNumber (h.aliasWords c) i) else none
    | none => none

/-- Merge a member's spike into its alias event: the members that spiked, the earliest sub-step, flags ORed (01 R33). -/
def Hw.mergeAlias (h : Hw) (c : Nat) (a : Word) (e : Ev) : Hw :=
  let k := a.toNat % 2 ^ 28
  let o := Tbl.find (h.cl c).alias_ k
  let low := match o with
    | none => evLow (bits e.low 31 24) 0 (bits e.low 7 0)
    | some o => evLow (min (bits o.ev.low 31 24) (bits e.low 31 24)) 0 (bits o.ev.low 7 0 ||| bits e.low 7 0)
  let ms := (o.map AliasSt.members).getD []
  let ms := if ms.contains e.addr then ms else ms ++ [e.addr]
  h.updCl c fun v => { v with alias_ := Tbl.put v.alias_ k ⟨⟨w32 (0x40000000 + k), low⟩, ms⟩ }

/-- The event that a merge offers: its payload is the number of members, saturating (01 R33). -/
def AliasSt.event (a : AliasSt) : Ev := { a.ev with low := evLow (bits a.ev.low 31 24) (min 0xFFFF a.members.length) (bits a.ev.low 7 0) }

/-- The injection stage takes the next event offered: the head of the local port, once its core cycle is over; then, once the cluster's
cores are done, a merged alias event (R186). `flowErr` and `destErr` are table errors of the flow and destination entries: 0 none, 1
single-bit, 2 double-bit. -/
def Hw.injectionOffer (h : Hw) (c flowErr destErr : Nat) : Hw :=
  let v := h.cl c
  match v.port with
  | p :: r =>
    if h.offerRefused c then h.offerWait c
    else
      let h := (h.advTo (p.key / 64 * 2 + 2)).updCl c fun v => { v with port := r }
      let h :=
        if h.addrBad p.ev.addr then h.inc ADDR_DEPTH_ERR_CNT c
        else
          let h := match if p.ofCore then h.aliasFor c p.ev else none with
            | some a => h.mergeAlias c a p.ev
            | none => h
          h.injectEvent c p.ev flowErr destErr
      h.settleDone c
  | [] =>
    match v.alias_ with
    | [] => h
    | (_, a) :: r =>
      if h.coresDone c = false then h
      else if h.offerRefused c then h.offerWait c
      else
        let h := (h.updCl c fun v => { v with alias_ := r }).inc ALIAS_EVT_CNT c
        let h := if 0xFFFF < a.members.length then h.inc ALIAS_SAT_CNT c else h
        (h.injectEvent c a.event flowErr destErr).settleDone c

/-- An event is offered to the injection stage of a cluster. -/
def execInjectionOffer (c : Cluster) (flowErr destErr : Fin 3) (s : State) : Out := s.onHw fun h => h.injectionOffer c flowErr destErr

/-! ### The table scrubber (R197) -/

/-- The router scrubs its next table entry in the integrate phase and between steps; `err`: 1 a single-bit error. -/
def Hw.tableScrub (h : Hw) (c err : Nat) : Hw :=
  if h.flag RT_CTRL c 1 = false ∨ h.step.phase = .delivery then h
  else
    let n := 8 * 17 * 1024 + 2 * 512 + 512 + 256
    (h.updCl c fun v => { v with tblScrub := (v.tblScrub + 1) % n }).tableErr c err

/-- The router scrubs one table entry. -/
def execRouterTableScrub (c : Cluster) (err : Fin 3) (s : State) : Out := s.onHw fun h => h.tableScrub c err

end Sys2Proof.Machine
end

