-- ==== Sys2Proof/Machine/Ingress.lean ====
section
/-! DEFINITION. Sensor ingress: CSI-2 receivers, the event-word decoder, frames, buses, the ADC, level crossing, ports, limiters and merging
(10). -/

namespace Sys2Proof.Machine

def Hw.csi (h : Hw) (k : Nat) : CsiSt := Tbl.get {} h.csis k

def Hw.updCsi (h : Hw) (k : Nat) (f : CsiSt → CsiSt) : Hw := { h with csis := Tbl.set {} h.csis k (f (h.csi k)) }

def Hw.ing (h : Hw) (q : Nat) : IngSt := Tbl.get {} h.ings q

def Hw.updIng (h : Hw) (q : Nat) (f : IngSt → IngSt) : Hw := { h with ings := Tbl.set {} h.ings q (f (h.ing q)) }

/-- A short-form memory-path address (12 R337). -/
def shortMpa (w : Word) : Nat := if bit w 31 then bits w 30 0 * 64 else 2 ^ 39 + bits w 30 0 * 32

/-- The cluster a receiver attaches at (01 R39). -/
def csiCluster (k : Nat) : Nat := [3, 12, 16, 31, 32, 47, 51, 60].getD k 3

/-- The cluster that port p of unit q attaches at (01 R39, R295). -/
def portCluster (q p : Nat) : Nat :=
  if p < 4 ∨ p = 9 then csiCluster (2 * q) else if p < 8 ∨ p = 10 then csiCluster (2 * q + 1) else if p = 8 then ethCluster q else 0

/-- A raw event enters the unit of a quadrant. -/
def Hw.rawIn (h : Hw) (q : Nat) (e : RawEv) : Hw := h.updIng q fun s => { s with raw := s.raw ++ [e] }

/-! ### CSI-2 packets (R284, R285) -/

/-- Receiver k is enabled, and its lanes are not in ultra-low-power state. -/
def Hw.csiOn (h : Hw) (k : Nat) : Bool := h.en CSI_CTRL k 0 && !(h.csi k).ulps

/-- The mode of a virtual channel: 1 events, 2 frames, 0 discard. -/
def Hw.vcMode (h : Hw) (k v : Nat) : Nat := let m := h.fld CSI_VC_MODE k (2 * v + 1) (2 * v); if m = 3 then 0 else m

/-- The whole words of an event packet's payload. -/
def eventWords (w16 be : Bool) : List Byte → List Word
  | a :: b :: r =>
    if w16 then (if be then (0#16 ++ (a ++ b)) else (0#16 ++ (b ++ a))) :: eventWords w16 be r
    else match r with
      | c :: d :: t => (if be then bytesWord d c b a else bytesWord a b c d) :: eventWords w16 be t
      | _ => []
  | _ => []

/-- Bytes of a word of an event packet. -/
def Hw.evBytes (h : Hw) (k : Nat) : Nat := if h.flag DEC_CFG k 0 then 2 else 4

/-- Put words into the input FIFO; one that finds it full is dropped and counted. -/
def Hw.fifoIn (h : Hw) (k v : Nat) (ws : List Word) : Hw :=
  ws.foldl (fun h w =>
    if 1024 ≤ (h.csi k).fifo.length then h.inc CSI_FIFO_DROP_CNT k
    else h.updCsi k fun s => { s with fifo := s.fifo ++ [⟨w, v, h.dev⟩] }) h

/-- The data type of RAW frames that FR_CTRL.RAW selects. -/
def rawType (code : Nat) : Nat := 0x2A + min code 2

/-- The pixels of a RAW payload (MIPI CSI-2 packing, PRESUMED, log 23). -/
def rawPixels (code : Nat) : List Byte → List Nat
  | a :: b :: c :: d :: e :: r =>
    if code = 0 then a.toNat :: rawPixels code (b :: c :: d :: e :: r)
    else if code = 1 then
      (a.toNat * 4 + e.toNat % 4) :: (b.toNat * 4 + e.toNat / 4 % 4) :: (c.toNat * 4 + e.toNat / 16 % 4) :: (d.toNat * 4 + e.toNat / 64) :: rawPixels code r
    else (a.toNat * 16 + c.toNat % 16) :: (b.toNat * 16 + c.toNat / 16) :: rawPixels code (d :: e :: r)
  | a :: r =>
    if code = 0 then a.toNat :: rawPixels code r
    else if code = 1 then []
    else match r with
      | b :: c :: t => (a.toNat * 16 + c.toNat % 16) :: (b.toNat * 16 + c.toNat / 16) :: rawPixels code t
      | _ => []
  | [] => []

/-- The INT8 value of a pixel (R290). -/
def Hw.pixelQ (h : Hw) (k v : Nat) : Byte :=
  BitVec.ofInt 8 (satS 8 (((v >>> h.fld FR_CTRL k 11 8 : Nat) : Int) + sext 16 (h.fld FR_CTRL k 31 16)))

/-! ### Frames (R290, R291) -/

/-- A virtual channel of receiver k is its frame channel. -/
def Hw.frameVc (h : Hw) (k v : Nat) : Bool := h.csiOn k && h.en FR_CTRL k 0 && h.fld FR_CTRL k 2 1 == v && h.vcMode k v == 2

/-- A frame start packet: the active buffer's time stamp is taken; while that buffer is FULL the frame is dropped. -/
def Hw.frameStart (h : Hw) (k v : Nat) : Hw :=
  if h.frameVc k v then
    let a := (h.csi k).active
    let full := h.flag FR_STAT k a
    let h := h.updCsi k fun s => { s with hs := true, inFrame := true, dropped := full, bad := false, row := 0 }
    if full then h.inc FR_DROP_CNT k else h.setReg (if a = 0 then FR_TS0 else FR_TS1) k (w32 h.dev)
  else h

/-- A frame start packet. -/
def execCsiFrameStart (k : CsiId) (vc : Fin 4) (s : State) : Out := s.onHw fun h => h.frameStart k vc

/-- A frame end packet: the buffer is FULL, FRAME_DONE fires and the receiver moves to the other buffer. -/
def Hw.frameEndPkt (h : Hw) (k v : Nat) : Hw :=
  let s := h.csi k
  if h.frameVc k v = false ∨ s.inFrame = false then h
  else
    let h := h.updCsi k fun s => { s with inFrame := false }
    if s.dropped then h
    else
      let h := (h.setFlag FR_STAT k s.active true).setFlag FR_STAT k (2 + s.active) s.bad
      let h := h.updCsi k fun s => { s with active := 1 - s.active }
      (h.setFlag FR_STAT k 4 (decide ((h.csi k).active = 1))).fire (8 + k)

/-- A frame end packet. -/
def execCsiFrameEnd (k : CsiId) (vc : Fin 4) (s : State) : Out := s.onHw fun h => h.frameEndPkt k vc

/-- Release the buffers of a mask: FULL and its ERR clear (R291, R305). -/
def Hw.frameRelease (h : Hw) (k mask : Nat) : Hw :=
  let one (h : Hw) (b : Nat) : Hw :=
    if (mask >>> b) % 2 = 1 ∧ h.flag FR_STAT k b then (h.setFlag FR_STAT k b false).setFlag FR_STAT k (2 + b) false else h
  one (one h 0) 1

/-- FRAME_REL releases the older FULL buffer: with both FULL, the one to be written next. -/
def Hw.frameRel (h : Hw) (k : Nat) : Hw :=
  let f0 := h.flag FR_STAT k 0
  let f1 := h.flag FR_STAT k 1
  if f0 ∧ f1 then h.frameRelease k (if (h.csi k).active = 0 then 1 else 2) else h.frameRelease k (b2n f0 + 2 * b2n f1)

/-- A receiver's lanes enter ultra-low-power state (R284). -/
def execCsiUlpsEntry (k : CsiId) (s : State) : Out := s.onHw fun h => h.updCsi k fun s => { s with ulps := true }

/-- A receiver's lanes leave ultra-low-power state. -/
def execCsiUlpsExit (k : CsiId) (s : State) : Out := s.onHw fun h => h.updCsi k fun s => { s with ulps := false }

/-! ### The event-word decoder (R286–R289) -/

/-- A field of a word: position and width of a descriptor; none where absent. -/
def decField (w : Word) (d : Nat) : Option Nat :=
  let wd := min 32 (d / 32 % 64)
  if wd = 0 then none else some (w.toNat / 2 ^ (d % 32) % 2 ^ wd)

/-- Field descriptors F0 to F4 of class i. -/
def Hw.decDesc (h : Hw) (k i j : Nat) : Nat :=
  match j with
  | 0 => h.fld (DEC_F01 i) k 10 0
  | 1 => h.fld (DEC_F01 i) k 26 16
  | 2 => h.fld (DEC_F23 i) k 10 0
  | 3 => h.fld (DEC_F23 i) k 26 16
  | _ => h.fld (DEC_F4 i) k 10 0

/-- The first class that a word matches. -/
def Hw.decClass (h : Hw) (k : Nat) (w : Word) : Option Nat :=
  (List.range (min 8 (h.fld DEC_CFG k 5 2))).find? fun i => w &&& h.reg (DEC_MASK i) k == h.reg (DEC_MATCH i) k

/-- The sensor time T of a TL (R288). -/
def Hw.sensorTime (h : Hw) (k tl : Nat) : Nat :=
  let s := h.csi k
  ((s.thx * 2 ^ h.fld DEC_CFG k 20 16 + s.th) * 2 ^ h.fld DEC_CFG k 12 8 + tl) % 2 ^ 48

/-- The device timestamp of an event with TL, from a packet whose header arrived at `at_` (R288). -/
def Hw.eventTime (h : Hw) (k tl at_ : Nat) : Hw × Int :=
  let t := h.sensorTime k tl
  let h := match (h.csi k).lastT with
    | some o => if t + 2 ^ h.fld DEC_CFG k 12 8 < o then h.inc TS_BACK_CNT k else h
    | none => h
  let h := h.updCsi k fun s => { s with lastT := some t }
  let d : Int := if h.flag DEC_CFG k 24 then at_ else (h.csi k).offset + ((t * (h.reg TS_RATE k).toNat / 65536 : Nat) : Int)
  if (h.dev : Int) < d then (h.inc TS_FUTURE_CNT k, h.dev) else (h, d)

/-- The pixel is listed in the hot-pixel table (R289). -/
def Hw.hotPixel (h : Hw) (k x y : Nat) : Bool :=
  h.pgEn pgCSIRX k && (List.range 64).any fun i => let w := h.tab .hotpix k i; bit w 31 && bits w 11 0 == x && bits w 23 12 == y

/-- The external ID of a pixel, or the counter that drops it (R289). -/
def Hw.pixelId (h : Hw) (k x y p : Nat) : Rg ⊕ Nat :=
  let x0 := h.fld MAP_WIN0 k 11 0
  let y0 := h.fld MAP_WIN0 k 27 16
  let w := h.fld MAP_WIN1 k 12 0
  let tx := min 4 (h.fld MAP_POOL k 2 0)
  let ty := min 4 (h.fld MAP_POOL k 6 4)
  let m := h.fld MAP_POOL k 9 8
  if h.hotPixel k x y then .inl HOTPIX_DROP_CNT
  else if x < x0 ∨ x0 + w ≤ x ∨ y < y0 ∨ y0 + h.fld MAP_WIN1 k 28 16 ≤ y then .inl ROI_DROP_CNT
  else
    let tile := (y - y0) / 2 ^ ty * ceilDiv w (2 ^ tx) + (x - x0) / 2 ^ tx
    let b := h.fld MAP_ID_BASE k 23 0
    if m = 0 then .inr (b + 2 * tile + p % 2)
    else if (m = 2 ∧ p % 2 = 0) ∨ (m = 3 ∧ p % 2 = 1) then .inl ROI_DROP_CNT
    else .inr (b + tile)

/-- One decoded pixel event. -/
def Hw.pixelEvent (h : Hw) (k vc x y p : Nat) (dt : Int) : Hw :=
  let h := h.inc DEC_EVT_CNT k
  match h.pixelId k x y p with
  | .inl r => h.inc r k
  | .inr i => h.rawIn (k / 2) { port := 4 * (k % 2) + vc, id := i, pay := 1, flags := p % 2, dt := dt }

/-- An EVENT word (R287). -/
def Hw.decEvent (h : Hw) (k i : Nat) (c : CsiWord) : Hw :=
  let f := fun j => decField c.w (h.decDesc k i j)
  let s := h.csi k
  let x := ((f 0).getD 0) % 4096
  let y := ((f 1).getD s.y) % 4096
  let p := (f 2).getD s.p
  let one (h : Hw) (x : Nat) : Hw := let r := h.eventTime k ((f 3).getD s.tl) c.at_; r.1.pixelEvent k c.vc x y p r.2
  match f 4 with
  | none => one h x
  | some v => (List.range 32).foldl (fun h b => if (v >>> b) % 2 = 1 then one h (x + b) else h) h

/-- One word of the input FIFO is decoded. -/
def Hw.decodeWord (h : Hw) (k : Nat) : Hw :=
  match (h.csi k).fifo with
  | [] => h
  | c :: rest =>
    let h := h.updCsi k fun s => { s with fifo := rest }
    match h.decClass k c.w with
    | none => h.inc DEC_UNK_CNT k
    | some i =>
      let f := fun j => decField c.w (h.decDesc k i j)
      match h.fld (DEC_KIND i) k 2 0 with
      | 0 => h.decEvent k i c
      | 1 => h.updCsi k fun s => { s with y := (f 1).getD s.y, p := (f 2).getD s.p, tl := (f 3).getD s.tl }
      | 2 => h.updCsi k fun s => let t := (f 0).getD 0; { s with thx := if t < s.th then s.thx + 1 else s.thx, th := t }
      | 3 =>
        let code := (f 0).getD 0
        let r := h.eventTime k (h.csi k).tl c.at_
        ((r.1.inc DEC_EVT_CNT k).setReg MARKER_LAST k (w32 code)).rawIn (k / 2) { port := 9 + k % 2, id := code, pay := 1, flags := 0, dt := r.2 }
      | _ => h

/-- The decoder takes a word. -/
def execDecoderWord (k : CsiId) (s : State) : Out := s.onHw fun h => h.decodeWord k

/-- Enabling a receiver clears its latched values and HS (R287, R305); it begins outside a frame, and keeps the words in its FIFO (log 126). -/
def Hw.csiEnable (h : Hw) (k : Nat) : Hw :=
  h.updCsi k fun s => { s with hs := false, y := 0, p := 0, tl := 0, th := 0, thx := 0, lastT := none, inFrame := false }

/-! ### Ports, limiters and merging (R295–R302) -/

/-- Word w of limiter l of unit q, as LIM_DATA shows it. -/
def Hw.lim (h : Hw) (q l w : Nat) : Word := h.tab .lim q (l + 1024 * w)

def Hw.setLim (h : Hw) (q l w : Nat) (v : Word) : Hw := h.setTab .lim q (l + 1024 * w) v

/-- RATE and DEPTH in force. -/
def Hw.limNow (h : Hw) (q l : Nat) : Word := (Tbl.find (h.ing q).limOld l).getD (h.lim q l 0)

/-- A limiter's entry for a raw event: it takes a token and passes, or it is dropped (R298). -/
def Hw.limTake (h : Hw) (q l : Nat) : Hw × Bool :=
  let w := h.lim q l 1
  if bits w 15 0 = 0 ∨ bit w 16 ∨ l ∈ (h.ing q).limMute then
    let h := (h.setLim q l 2 (satAdd32 (h.lim q l 2) 1)).inc LIM_DROP_TOT_CNT q
    (h.updIng q fun s => { s with limDrop := if l ∈ s.limDrop then s.limDrop else s.limDrop ++ [l] }, false)
  else (h.setLim q l 1 (setBits w 15 0 (bits w 15 0 - 1)), true)

/-- Count in a half of word 3 of a flow entry, saturating at 16 bits. -/
def Hw.ftCount (h : Hw) (q e hi lo : Nat) : Hw :=
  let w := h.tab .ft q (e + 65536 * 3)
  h.setTab .ft q (e + 65536 * 3) (setBits w hi lo (min 0xFFFF (bits w hi lo + 1)))

/-- Fold a raw event of ordinal o into the open bank (R299). -/
def Hw.mergeIn (h : Hw) (q o pmax : Nat) (last : Bool) (sub pay flg cl : Nat) : Hw :=
  let s := h.ing q
  let pm := if pmax = 0 then 0xFFFF else pmax
  let put (h : Hw) (raw sub flg cl : Nat) : Hw :=
    let h := h.updIng q fun s => { s with store := Tbl.put s.store o ⟨min raw pm, sub, if pm < raw then flg ||| 4 else flg, cl⟩ }
    if pm < raw then h.inc FT_PCLAMP_CNT q else h
  match Tbl.find s.store o with
  | none =>
    if 16384 ≤ s.touched.length then (h.inc MERGE_OVF_DROP_CNT q).raiseQ fIngressOvf q
    else
      let h := h.updIng q fun s => { s with touched := s.touched ++ [o] }
      (put h pay sub flg cl).hwm TOUCH_HWM q (h.ing q).touched.length
  | some m => if last then put h pay sub (m.flg ||| flg) m.cl else put h (m.pay + pay) (min m.sub sub) (m.flg ||| flg) m.cl

/-- The sub-step a timestamp is binned with, and whether it is late (R58): its bin is closed, or no step is in progress. -/
def Hw.binSub (h : Hw) (dt : Int) : Nat × Bool :=
  if h.step.phase = .idle ∨ dt < (h.step.start : Int) then (0, true) else (h.subStep dt.toNat, false)

/-- A table error: 1 corrected and counted, 2 counted and raised (R302). -/
def Hw.ingErr (h : Hw) (q err : Nat) : Hw :=
  if err = 1 then h.inc ING_CE_CNT q else if err = 2 then (h.inc ING_UE_CNT q).raiseQ fIngressUe q else h

/-- The ports take turns: the next one with a raw event, after the port served last, gives its oldest (R283). -/
def IngSt.next (s : IngSt) : Option RawEv :=
  ((List.range 16).map fun i => (s.turn + 1 + i) % 16).findSome? fun p => s.raw.find? fun r => r.port == p

/-- The next raw event goes through port lookup, limiter and merge; the errors are of its flow entry, limiter record and merge store. -/
def Hw.ingest (h : Hw) (q ftErr limErr mergeErr : Nat) : Hw :=
  match (h.ing q).next with
  | none => h
  | some r =>
    let h := h.updIng q fun s => { s with raw := s.raw.erase r, turn := r.port }
    let pw := h.reg (PORT r.port) q
    let g := min 16 (bits pw 20 16)
    let e := bits pw 15 0 + r.id / 2 ^ g
    if h.en (PORT r.port) q 31 = false ∨ h.switching ∨ h.fld (PORT_LIM r.port) q 23 0 ≤ r.id ∨ 65536 ≤ e then h.inc FT_MISS_CNT q
    else
      let h := h.ingErr q ftErr
      let w0 := h.tab .ft q e
      let o := bits (h.tab .ft q (e + 65536)) 17 0 + (if bit w0 30 then r.id % 2 ^ g else 0)
      if ftErr = 2 ∨ bit w0 31 = false ∨ 0x3FFFF < o then h.inc FT_MISS_CNT q
      else
        let l := bits w0 25 16
        let h := if bit w0 15 then h.ingErr q limErr else h
        let h := if bit w0 15 ∧ limErr = 2 then h.updIng q fun s => { s with limMute := if l ∈ s.limMute then s.limMute else s.limMute ++ [l] } else h
        let t := if bit w0 15 then h.limTake q l else (h, true)
        let h := t.1
        if t.2 = false then
          let h := h.ftCount q e 31 16
          h.updIng q fun s => match Tbl.find s.store o with
            | some m => { s with store := Tbl.put s.store o { m with flg := m.flg ||| 2 } }
            | none => s
        else
          let h := (h.inc ING_RAW_CNT q).ftCount q e 15 0
          let h := h.ingErr q mergeErr
          if mergeErr = 2 then h.updIng q fun s => { s with store := Tbl.del s.store o, touched := s.touched.filter (· != o) }
          else
            let b := h.binSub r.dt
            let h := if b.2 then h.inc BIN_LATE_CNT else h
            h.mergeIn q o (bits (h.tab .ft q (e + 65536 * 2)) 15 0) (bit w0 28) b.1 r.pay (r.flags % 2 + 8 * b2n (bit w0 27)) (portCluster q r.port)

/-- A raw event goes through port lookup, the limiter and merging. -/
def execRawEventIngest (q : Quad) (ftErr limErr mergeErr : Fin 3) (s : State) : Out := s.onHw fun h => h.ingest q ftErr limErr mergeErr

/-- The address of a flow-table source (R297). -/
def Hw.flowAddr (h : Hw) (o : Nat) : Word := w32 (0x30000000 + h.pkgNum * 2 ^ 24 + o % 2 ^ 18)

/-- The next merged event of the closed bank is offered, unless the local port or the stage refuses (R300). -/
def Hw.ingOffer (h : Hw) (q err : Nat) : Hw :=
  match (h.ing q).offers with
  | [] => h
  | (o, m) :: rest =>
    if h.offerRefused m.cl then h.offerWait m.cl
    else if portDepth ≤ (h.cl m.cl).port.length then h
    else
      let h := (h.updIng q fun s => { s with offers := rest }).ingErr q err
      if err = 2 then h
      else
        (h.inc ING_OFFER_CNT q).portIn m.cl 32 ⟨h.flowAddr o, evLow m.sub m.pay m.flg⟩

/-- One merged event of the closed bank is offered. -/
def execIngressOffer (q : Quad) (err : Fin 3) (s : State) : Out := s.onHw fun h => h.ingOffer q err

/-- The banks swap at the advance; what is still unoffered is dropped and counted (R300). -/
def Hw.bankSwap (h : Hw) (q : Nat) : Hw :=
  let s := h.ing q
  let h := if s.offers = [] then h else (s.offers.map fun p => p.2.cl).foldl (fun h c => h.offersDropped c) (h.inc OFFER_DROP_CNT q s.offers.length)
  h.updIng q fun s => { s with bank := 1 - s.bank, offers := s.touched.map fun o => (o, Tbl.get {} s.store o), touched := [], store := [] }

/-- Limiters whose words are not all at reset. -/
def Hw.limiters (h : Hw) (q : Nat) : List Nat := (List.range 1024).filter fun l => !(h.lim q l 0 == 0#32 && h.lim q l 1 == 0#32) || (h.ing q).limPend.contains l

/-- Refill at the advance: pending RATE and DEPTH take effect with TOK at DEPTH; every other limiter gains RATE (R298). -/
def Hw.refill (h : Hw) (q : Nat) : Hw :=
  let p := (h.ing q).limPend
  let h := (h.limiters q).foldl (fun h l =>
    let w0 := h.lim q l 0
    let w1 := h.lim q l 1
    h.setLim q l 1 (setBits w1 15 0 (if l ∈ p then bits w0 31 16 else min (bits w0 31 16) (bits w1 15 0 + bits w0 15 0)))) h
  h.updIng q fun s => { s with limOld := [], limPend := [], limMute := [] }

/-- Flood detection at the advance (R301). -/
def Hw.floodDetect (h : Hw) (q : Nat) : Hw :=
  let d := (h.ing q).limDrop
  let old := (h.ing q).stuck
  let h := h.updIng q fun s => { s with limDrop := [], stuck := [] }
  d.foldl (fun h l =>
    let w := h.lim q l 1
    let limit := bits w 31 24
    let was := Tbl.get (0, false) old l
    let n := was.1 + 1
    let h := if limit = 0 then h else h.updIng q fun s => { s with stuck := Tbl.put s.stuck l (n, was.2 || decide (limit ≤ n)) }
    if limit ≠ 0 ∧ limit ≤ n ∧ was.2 = false then
      let h := h.raiseQ fFlowFlood q l
      let h := if h.flag FLOOD_INFO q 31 then h else h.setReg FLOOD_INFO q (w32 (l + 2 ^ 31))
      if bit w 17 then h.setLim q l 1 (setBit w 16 true) else h
    else h) h

/-- A write of word 0 of a limiter: at once while no context is resident, at the next advance otherwise (R298, R302). -/
def Hw.limWrite0 (h : Hw) (q l : Nat) (v : Word) : Hw :=
  let old := h.limNow q l
  let h := h.setLim q l 0 v
  if h.someResident then
    h.updIng q fun s => { s with limOld := Tbl.put s.limOld l old, limPend := if l ∈ s.limPend then s.limPend else s.limPend ++ [l] }
  else h.setLim q l 1 (setBits (h.lim q l 1) 15 0 (bits v 31 16))

/-! ### Buses, the ADC and level crossing (R292–R294) -/

def Hw.bus (h : Hw) (b : Nat) : BusSt := Tbl.get {} h.buses b

def Hw.updBus (h : Hw) (b : Nat) (f : BusSt → BusSt) : Hw := { h with buses := Tbl.set {} h.buses b (f (h.bus b)) }

/-- Word w of poll descriptor d of bus b. -/
def Hw.poll (h : Hw) (b d w : Nat) : Word := h.tab .poll 0 (d + 16 * b + 256 * w)

/-- Word w of encoder c. -/
def Hw.lce (h : Hw) (c w : Nat) : Word := h.tab .lce 0 (c + 256 * w)

/-- An encoder's raw event (R294). -/
def Hw.lceEmit (h : Hw) (id pay up : Nat) : Hw :=
  (h.inc LCE_EVT_CNT).rawIn 0 { port := 11, id := id, pay := pay, flags := up, dt := (h.dev : Int) }

/-- One encoder takes a sample. -/
def Hw.lceSample (h : Hw) (c : Nat) (x : Int) : Hw :=
  match bits (h.lce c 0) 9 8 with
  | 1 =>
    let delta : Int := max 1 (bits (h.lce c 1) 15 0)
    let hyst : Int := bits (h.lce c 1) 31 16
    let rf := (h.lce c 2).toInt
    let last := Tbl.get 0 h.lceLast c
    let upTh := delta + (if last = 2 then hyst else 0)
    let dnTh := delta + (if last = 1 then hyst else 0)
    let fin (h : Hw) (k : Int) (dir : Nat) : Hw :=
      let h := h.setTab .lce 0 (c + 512) (wInt (if dir = 1 then rf + k * delta else rf - k * delta))
      let h := h.lceEmit (2 * c + (if dir = 1 then 1 else 0)) (sat16 k) (if dir = 1 then 1 else 0)
      { h with lceLast := Tbl.set 0 h.lceLast c dir }
    if upTh ≤ x - rf then fin h ((x - rf) / delta) 1
    else if dnTh ≤ rf - x then fin h ((rf - x) / delta) 2
    else h
  | 2 => h.lceEmit (2 * c) (ubits 16 x) 0
  | _ => h

/-- Every encoder of a source takes a sample. -/
def Hw.sample (h : Hw) (src : Nat) (x : Int) : Hw :=
  (List.range 32).foldl (fun h c => if bits (h.lce c 0) 6 0 = src then h.lceSample c x else h) h

/-- Bytes that a descriptor reads, and the command bytes it sends first; lengths outside the ranges of R292 are taken as the nearest in them
(log 126). -/
def Hw.pollLen (h : Hw) (b d : Nat) : Nat := max 1 (min 4 (bits (h.poll b d 0) 30 28))
def Hw.pollCmd (h : Hw) (b d : Nat) : List Byte :=
  let w := h.poll b d 1
  [w.setWidth 8, (w >>> 8).setWidth 8, (w >>> 16).setWidth 8, (w >>> 24).setWidth 8].take (min 4 (bits (h.poll b d 0) 26 24))

/-- A descriptor's transaction starts at the pins: SPI at 400 MHz / (DIV + 1), at most 50 MHz, or I²C with its one register byte. -/
def Hw.pollRun (h : Hw) (b d : Nat) : Hw :=
  let h := h.updBus b fun s => { s with running := some d, waits := Tbl.del s.waits d }
  let sel := bits (h.poll b d 0) 22 16
  let mode := h.fld (BUS_CFG b) 0 9 8
  let w : Wire := if b < 4 then .spi b (sel % 4) mode (max 7 (h.fld (BUS_CFG b) 0 7 0) + 1) (h.pollCmd b d) (h.pollLen b d)
    else .i2c (b - 4) sel mode ((h.poll b d 1).setWidth 8) (h.pollLen b d)
  { h with wire := h.wire ++ [w] }

/-- PERIOD of a descriptor in fabric cycles. -/
def Hw.pollPeriod (h : Hw) (b d : Nat) : Nat := bits (h.poll b d 0) 15 0 * us

/-- A descriptor and its bus are enabled. -/
def Hw.pollOn (h : Hw) (b d : Nat) : Bool := bit (h.poll b d 0) 31 && h.en (BUS_CFG b) 0 31

/-- A poll descriptor's PERIOD expires, a PERIOD after it last did: its transaction starts, or waits for the bus; one that still waited from the
PERIOD before is skipped. -/
def Hw.pollStart (h : Hw) (b d : Nat) : Hw :=
  if h.pollOn b d = false then h.updBus b fun s => { s with waits := Tbl.del s.waits d, next := Tbl.del s.next d }
  else
    let h := h.advTo ((Tbl.find (h.bus b).next d).getD h.dev)
    let h := h.updBus b fun s => { s with next := Tbl.put s.next d (h.dev + h.pollPeriod b d) }
    if (h.bus b).running.isNone then h.pollRun b d
    else
      let h := if (Tbl.find (h.bus b).waits d).isSome then h.inc POLL_SKIP_CNT else h
      h.updBus b fun s => { s with waits := Tbl.put s.waits d h.dev }

/-- The bus is free: of the transactions held back, those held for more than a PERIOD are skipped, and the one held longest starts. -/
def Hw.pollNext (h : Hw) (b : Nat) : Hw :=
  let w := (h.bus b).waits.filter fun p => h.pollOn b p.1
  let due := w.filter fun p => decide (h.dev - p.2 ≤ h.pollPeriod b p.1)
  let h := (h.inc POLL_SKIP_CNT 0 (w.length - due.length)).updBus b fun s => { s with waits := due }
  match due with
  | [] => h
  | p :: r => h.pollRun b (r.foldl (fun m q => if q.2 < m.2 then q else m) p).1

/-- A poll descriptor's PERIOD expires. -/
def execPollStart (b d : Fin 8) (s : State) : Out := s.onHw fun h => h.pollStart b d

/-- The bytes read, most significant first, give a sample of the descriptor's result slot. -/
def Hw.pollSample (h : Hw) (b d : Nat) (bytes : List Byte) : Hw :=
  let v := beNat (bytes.take (h.pollLen b d))
  let w2 := h.poll b d 2
  let wd := min 32 (bits w2 10 5)
  let f := v / 2 ^ bits w2 4 0 % 2 ^ wd
  let x : Int := if bit w2 11 ∧ wd ≠ 0 then sext wd f else f
  let h := h.setTab .poll 0 (d + 16 * b + 256 * 3) (wInt x)
  h.sample (0x10 + 8 * b + d) (wInt x).toInt

/-- A transaction of bus b ends: `bytes` are the bytes read; `err` is a NACK or a stretch timeout. -/
def Hw.pollComplete (h : Hw) (b : Nat) (bytes : List Byte) (err : Bool) : Hw :=
  match (h.bus b).running with
  | none => h
  | some d =>
    let h := h.updBus b fun s => { s with running := none }
    let h := if err then h.inc POLL_ERR_CNT else h.pollSample b d bytes
    h.pollNext b

/-- A poll transaction ends. -/
def execPollComplete (b : Fin 8) (bytes : List Byte) (err : Bool) (s : State) : Out := s.onHw fun h => h.pollComplete b bytes err

/-- The sequencer's next enabled slot from slot i on, in turn. -/
def Hw.adcNext (h : Hw) : Option Nat :=
  ((List.range 8).map fun j => (h.adcSlot + j) % 8).find? fun i => h.en ADC_SEQ 0 (4 * i + 3)

/-- A conversion takes 1 µs of the ADC's time, after the one before it (R293). -/
def Hw.adcTake (h : Hw) : Hw :=
  let h := h.advTo (h.adcAt + us)
  { h with adcAt := h.dev }

/-- An ADC conversion ends (R293). -/
def Hw.adcEnd (h : Hw) (v : Nat) : Hw :=
  match h.adcNext with
  | none => h
  | some i =>
    let h := h.adcTake
    let c := h.fld ADC_SEQ 0 (4 * i + 2) (4 * i)
    let h := ({ h with adcSlot := (i + 1) % 8 } : Hw).setReg (ADC_VAL c) 0 (w32 (v % 4096))
    (h.fire (192 + c)).sample c ((v % 4096 : Nat) : Int)

/-- An ADC conversion ends with a sample. -/
def execAdcConversionEnd (value : BitVec 12) (s : State) : Out := s.onHw fun h => h.adcEnd value.toNat

end Sys2Proof.Machine
end

