-- ==== Sys2Proof/Machine/Ddr.lean ====
section
/-! DEFINITION. DDR5 channels (14 R383–R393): capacity, queues, error checks, patrol scrub, self-refresh and training. -/

namespace Sys2Proof.Machine

def Hw.ddr (h : Hw) (q : Nat) : DdrSt := Tbl.get {} h.ddrs q

def Hw.updDdr (h : Hw) (q : Nat) (f : DdrSt → DdrSt) : Hw := { h with ddrs := Tbl.set {} h.ddrs q (f (h.ddr q)) }

/-- Capacity in GiB of an organisation of a channel, as a DDR_CFG word; none where the organisation is refused (R384). -/
def ddrCapacity (w : Word) : Option Nat :=
  let two := bit w 3
  match bit w 4, min (bits w 6 5) 2 with
  | false, 0 => some (if two then 32 else 16)
  | false, 1 => if two then none else some 24
  | false, _ => if two then none else some 32
  | true, 0 => if two then none else some 32
  | true, _ => none

/-- First channel byte address beyond the populated capacity (R385). -/
def Hw.ddrEnd (h : Hw) (q : Nat) : Nat := ((ddrCapacity (h.reg DDR_CFG q)).getD 0) * 2 ^ 30

/-- The channel is in self-refresh (R392). -/
def Hw.ddrSelf (h : Hw) (q : Nat) : Bool := h.flag DDR_STAT q 1

/-- A write of DDR_CFG: EN = 1 with a refused organisation leaves EN at 0 and sets CFG_ERR (R384). `w` is the word the write gives. -/
def Hw.ddrCfgWrite (h : Hw) (q : Nat) (w : Word) : Hw :=
  if bit w 0 ∧ ddrCapacity w = none then (h.setReg DDR_CFG q (setBit w 0 false)).setFlag DDR_STAT q 4 true
  else (h.setReg DDR_CFG q w).pllSync (4 + q)

/-- An error mark of a DDR5 beat is the mark of its 39-bit codeword, and 64 more where its APAR bit does not match the address (R389). -/
def markApar (m : Nat) : Bool := decide (64 ≤ m)

/-- Read the burst that holds channel byte address a (R389, R390): its sixteen words; none for an uncorrectable one. -/
def Hw.ddrBurst (h : Hw) (q a : Nat) : Hw × List (Option Word) :=
  let base := ddrBase q + a / 64 * 64
  let idx := List.range 16
  let mk (i : Nat) : Nat := h.mark (base + 4 * i)
  let par := (idx.filter fun i => markApar (mk i)).length
  let line := w32 (a / 64 % 2 ^ 29)
  if 12 ≤ par then ((h.inc DDR_APAR_CNT q).raiseQ fDdrApar q, idx.map fun _ => none)
  else
    let ce := (idx.filter fun i => decide (0 < markEcc (mk i)) && decide (markEcc (mk i) < 40)).length
    let ue := (idx.filter fun i => decide (40 ≤ markEcc (mk i))).length
    let h := if par = 0 then h else h.inc DDR_APAR_CE_CNT q
    let h := if ce = 0 then h else (h.inc DDR_CE_CNT q ce).setReg DDR_CE_LOG q line
    let h := if ue = 0 then h else ((h.inc DDR_UE_CNT q ue).setReg DDR_UE_LOG q line).raiseQ fDdrUe q
    (h, idx.map fun i => if 40 ≤ markEcc (mk i) then none else some (h.word (base + 4 * i)))

/-- The oldest bursts of a queue leave it for the devices until at most n are left. -/
def keepLast (n : Nat) (l : List Nat) : List Nat := l.drop (l.length - n)

/-- A burst joins the read or the write queue of its subchannel, A[6] (R385, R386). -/
def Hw.ddrQueue (h : Hw) (q a : Nat) (write : Bool) : Hw :=
  let sub := a / 64 % 2
  h.updDdr q fun s =>
    if write then { s with wq := Tbl.set [] s.wq sub (keepLast 64 (Tbl.get [] s.wq sub ++ [a / 64])) }
    else { s with rq := Tbl.set [] s.rq sub (keepLast 64 (Tbl.get [] s.rq sub ++ [a / 64])) }

/-- Every accepted write is in the devices (R388, R392). -/
def Hw.ddrDrain (h : Hw) (q : Nat) : Hw := h.updDdr q fun s => { s with wq := [], rq := [] }

/-- A word with the bytes that `be` enables replaced. -/
def mergeBytes (old v : Word) (be : Nat) : Word :=
  (List.range 4).foldl (fun w i => if be.testBit i then setBits w (8 * i + 7) (8 * i) (bits v (8 * i + 7) (8 * i)) else w) old

/-- Write the enabled bytes of the word at channel byte address a: part of a word is merged, and leaves an uncorrectable word as it
is; answers whether it was one (R387, 12 R340, R346). -/
def Hw.ddrWrite (h : Hw) (q a : Nat) (v : Word) (be : Nat) : Hw × Bool :=
  let p := ddrBase q + a / 4 * 4
  if be % 16 = 0 then (h, false)
  else if be % 16 ≠ 15 ∧ 40 ≤ markEcc (h.mark p) then (h, true)
  else (h.setWord p (mergeBytes (h.word p) v be), false)

/-- Perform an accepted request of a management processor: beyond the capacity or in self-refresh it reads zero and writes nothing. -/
def Hw.ddrPerform (h : Hw) (q : Nat) (r : DdrReq) : Hw :=
  let a := r.addr.toNat
  let answer (h : Hw) (v : Word) : Hw := { h with resp := ⟨v, .ok⟩ }
  if h.ddrSelf q then answer (h.inc DDR_RESET_DROP_CNT q) 0#32
  else if h.ddrEnd q ≤ a then answer (h.inc DDR_ADDR_ERR_CNT q) 0#32
  else
    match r.wr with
    | some v => answer ((h.ddrQueue q a true).ddrWrite q a v r.be.toNat).1 0#32
    | none =>
      let b := (h.ddrQueue q a false).ddrBurst q a
      match b.2.getD (a / 4 % 16) none with
      | some v => answer b.1 v
      | none => let f := b.1.free; answer f.2 f.1

/-- Requests of one cycle in the order they are accepted: the controller's own quadrant first, then ascending (R386). -/
def ddrOrder (q : Nat) (l : List DdrReq) : List DdrReq :=
  ([q] ++ (List.range 4).filter (· ≠ q)).flatMap fun j => l.filter fun r => r.src.val == j

/-- The queue a request goes to is full. -/
def Hw.ddrFull (h : Hw) (q : Nat) (r : DdrReq) : Bool :=
  let s := h.ddr q
  decide (64 ≤ (Tbl.get [] (if r.wr.isSome then s.wq else s.rq) (r.addr.toNat / 64 % 2)).length)

/-- A full queue sends its oldest burst to the devices. -/
def Hw.ddrIssue (h : Hw) (q : Nat) (r : DdrReq) : Hw :=
  let sub := r.addr.toNat / 64 % 2
  h.updDdr q fun s =>
    if r.wr.isSome then { s with wq := Tbl.set [] s.wq sub (Tbl.get [] s.wq sub).tail }
    else { s with rq := Tbl.set [] s.rq sub (Tbl.get [] s.rq sub).tail }

/-- One cycle of the controller's front end: new requests wait behind those held, and the first is accepted if its queue has room. -/
def Hw.ddrAccept (h : Hw) (q : Nat) (l : List DdrReq) : Hw :=
  let h := h.updDdr q fun s => { s with waiting := s.waiting ++ ddrOrder q l }
  match (h.ddr q).waiting with
  | [] => h
  | r :: rest =>
    if h.ddrSelf q = false ∧ h.ddrFull q r then h.ddrIssue q r
    else (h.updDdr q fun s => { s with waiting := rest }).ddrPerform q r

/-- The controller accepts one request. -/
def execDdrRequestAccept (q : Quad) (reqs : List DdrReq) (s : State) : Out := s.onHw fun h => h.ddrAccept q reqs

/-- A refresh; it runs at twice the rate while the devices are hot. -/
def execDdrRefresh (q : Quad) (hot : Bool) (s : State) : Out :=
  s.onHw fun h => if h.ddrSelf q then h else h.setFlag DDR_STAT q 2 hot

/-- Write back the corrected beats of a burst (R391). -/
def Hw.ddrScrubBack (h : Hw) (q a : Nat) : Hw :=
  (List.range 16).foldl (fun h i =>
    let p := ddrBase q + a / 64 * 64 + 4 * i
    let m := h.mark p
    if 0 < markEcc m ∧ markEcc m < 40 then h.setMark p 0 else h) h

/-- The patrol scrubber reads the next burst in address order, a DDR_SCRUB interval after the last (R391, R404). -/
def Hw.ddrPatrol (h : Hw) (q : Nat) (wrote : Bool) : Hw :=
  let e := h.ddrEnd q
  if h.en DDR_SCRUB q 0 = false ∨ h.en DDR_CFG q 0 = false ∨ h.ddrSelf q ∨ e = 0 then h
  else
    let h := match (h.ddr q).scrubbed with
      | some t => h.advTo (t + us * max 1 (h.fld DDR_SCRUB q 31 16))
      | none => h
    let a := (h.ddr q).scrubAt
    let a := if a < e then a else 0
    let b := h.ddrBurst q a
    let h := if wrote ∨ b.2.contains none then b.1 else b.1.ddrScrubBack q a
    let n := a + 64
    let h := h.updDdr q fun s => { s with scrubAt := if n < e then n else 0, scrubbed := some h.dev }
    if n < e then h else h.inc DDR_SCRUB_PASS_CNT q

/-- A patrol read falls due. -/
def execDdrPatrolScrub (q : Quad) (wrote : Bool) (s : State) : Out := s.onHw fun h => h.ddrPatrol q wrote

/-- The channel enters self-refresh after its accepted writes are in the devices (R392). -/
def Hw.ddrSelfEnter (h : Hw) (q : Nat) : Hw := ((h.ddrDrain q).setFlag DDR_STAT q 1 true).pllDrop (4 + q)

/-- The channel leaves self-refresh. -/
def Hw.ddrSelfExit (h : Hw) (q : Nat) : Hw := (h.setFlag DDR_STAT q 1 false).pllStart (4 + q)

/-- Contents are lost in Cold and at RESET_N, and the channel needs full training (R393). -/
def Hw.ddrLose (h : Hw) (q : Nat) : Hw :=
  let h := (h.zero (ddrBase q) (2 ^ 35)).updDdr q fun _ => {}
  (h.setFlag DDR_STAT q 0 false).setFlag DDR_STAT q 1 false

/-- Full training starts (R404). -/
def Hw.ddrTrain (h : Hw) (q : Nat) : Hw :=
  if h.en DDR_CFG q 0 = false ∨ h.ddrSelf q then h
  else (h.setFlag DDR_STAT q 0 false).updDdr q fun s => { s with training := 1 }

/-- Training ends well, or fails; full training is held until the DPLL has locked (15 R427). -/
def Hw.ddrTrained (h : Hw) (q : Nat) (ok : Bool) : Hw :=
  if (h.ddr q).training = 0 ∨ ((h.ddr q).training = 1 ∧ h.pllLocked (4 + q) = false) then h
  else ((h.updDdr q fun s => { s with training := 0, trained := some h.dev }).setFlag DDR_STAT q 0 ok).setFlag DDR_STAT q 3 (!ok)

/-- Training of a channel ends. -/
def execDdrTrainingComplete (q : Quad) (ok : Bool) (s : State) : Out := s.onHw fun h => h.ddrTrained q ok

/-- Periodic retraining starts, an interval after training last ended (R404). -/
def Hw.ddrRetrain (h : Hw) (q : Nat) : Hw :=
  if h.flag DDR_TRAIN q 1 = false ∨ h.flag DDR_STAT q 0 = false ∨ h.ddrSelf q ∨ (h.ddr q).training ≠ 0 then h
  else
    let h := match (h.ddr q).trained with
      | some t => h.advTo (t + us * 100000 * h.fld DDR_TRAIN q 15 8)
      | none => h
    h.updDdr q fun s => { s with training := 2 }

/-- Periodic retraining starts. -/
def execDdrPeriodicRetrain (q : Quad) (s : State) : Out := s.onHw fun h => h.ddrRetrain q

end Sys2Proof.Machine
end

