-- ==== Sys2Proof/Machine/Timer.lean ====
section
/-! DEFINITION. Timers, capture, PWM, the actuator map, the event crossbar's sinks and GPIO (11). -/

namespace Sys2Proof.Machine

def Hw.tmr (h : Hw) (k : Nat) : TmrSt := Tbl.get {} h.tmrs k

def Hw.updTmr (h : Hw) (k : Nat) (f : TmrSt → TmrSt) : Hw := { h with tmrs := Tbl.set {} h.tmrs k (f (h.tmr k)) }

def Hw.act (h : Hw) (k : Nat) : ActSt := Tbl.get {} h.acts k

def Hw.updAct (h : Hw) (k : Nat) (f : ActSt → ActSt) : Hw := { h with acts := Tbl.set {} h.acts k (f (h.act k)) }

/-- The shadow of timer k: a duty that has landed by now is in it (R322, R324). -/
def Hw.shadow (h : Hw) (k : Nat) : Word :=
  match (h.act k).pend with
  | some (t, v) => if t ≤ h.dev then v else h.reg TMR_CMP1_SH k
  | none => h.reg TMR_CMP1_SH k

/-- A register write of the shadow, after a duty that has landed. -/
def Hw.shadowPut (h : Hw) (k : Nat) (v : Word) : Hw :=
  (h.updAct k fun s => { s with pend := s.pend.filter fun p => decide (h.dev < p.1) }).setReg TMR_CMP1_SH k v

/-! ### Counting (R312–R315, R321, R322) -/

/-- The timer's TB_SEL, 5 to 7 taken as 0. -/
def Hw.tbSel (h : Hw) (k : Nat) : Nat := let t := h.fld TMR_CTRL k 3 1; if 4 < t then 0 else t

/-- TMR_CTRL.PWM of timer k. -/
def Hw.pwmMode (h : Hw) (k : Nat) : Bool := h.flag TMR_CTRL k 12

/-- The gate of timer k is at GATE_LVL (R312). -/
def Hw.gateOpen (h : Hw) (k : Nat) : Bool :=
  let g := h.fld TMR_CTRL k 10 5
  let l := h.flag TMR_CTRL k 4
  if 1 ≤ g ∧ g ≤ 32 then h.flag GPIO_IN 0 (g - 1) == l
  else if 33 ≤ g ∧ g ≤ 48 then (h.pwmMode (g - 33) && (h.tmr (g - 33)).pwm) == l
  else true

/-- A debugger halts the processor that timer k freezes with (R320). -/
def Hw.frozen (h : Hw) (k : Nat) : Bool := h.flag TMR_CTRL k 15 && bit h.mpHalted (h.fld TMR_CTRL k 17 16)

/-- Timer k takes a tick: it is enabled, not frozen, its gate is open, and its timebase gives ticks. -/
def Hw.tmrTicks (h : Hw) (k : Nat) : Bool :=
  h.en TMR_CTRL k 0 && !h.frozen k && h.gateOpen k && !(k == 0 && h.tbSel k == 3)

/-- The count after a gated tick (R313). -/
def tickCount (count top : Nat) : Nat := if top ≤ count then 0 else count + 1

/-- A status bit is set and its crossbar source fires (R315): 0 MATCH0, 1 MATCH1, 2 WRAP. -/
def Hw.tmrEvent (h : Hw) (k i : Nat) : Hw := ((h.setFlag TMR_STAT k i true).irqWatch (16 + 3 * k + i)).fire (16 + 5 * k + i)

/-- A tick of a timebase inside the block, if it is one for timer k and gated: timer k has it still to take (R312). -/
def Hw.tmrDue (h : Hw) (k tb : Nat) : Hw :=
  if k < 16 ∧ h.tbSel k = tb ∧ h.tmrTicks k then h.updTmr k fun s => { s with due := s.due + 1 } else h

/-- The step mark ticks every timer that counts it. -/
def Hw.stepTicks (h : Hw) : Hw := (List.range 16).foldl (fun h k => h.tmrDue k 2) h

/-- The effects of a count update to c (R314, R315, R321, R322): a wrap copies the shadow first in PWM mode, and inactive wins. -/
def Hw.tmrUpdate (h : Hw) (k c : Nat) (wrap : Bool) : Hw :=
  let h := h.setReg TMR_COUNT k (w32 c)
  let h := if wrap then (h.tmrEvent k 2).tmrDue (k + 1) 3 else h
  let h := if wrap ∧ h.pwmMode k then (h.setReg TMR_CMP1 k (h.shadow k)).updTmr k fun s => { s with pwm := true } else h
  let h := if (h.reg TMR_CMP0 k).toNat = c then h.tmrEvent k 0 else h
  if (h.reg TMR_CMP1 k).toNat = c then (h.tmrEvent k 1).updTmr k fun s => { s with pwm := false } else h

/-- The width counter gains n ticks. -/
def Hw.widthTicks (h : Hw) (k n : Nat) : Hw := h.updTmr k fun s => { s with width := s.width.map fun w => min 0xFFFFFFFF (w + n) }

/-- A crossbar pulse reaches a sink, at its time, and does what `act` says; without one in flight nothing happens (R326). -/
def Hw.withPulse (h : Hw) (sink : Nat) (act : Hw → Hw) : Hw :=
  match h.pulses.find? fun p => p.sink == sink with
  | none => h
  | some p => act { h.advTo p.at_ with pulses := h.pulses.erase p }

/-- Fabric cycles between two ticks of the timebases 0 and 1 (R312); 32.768 kHz is 24,414.06 of them. -/
def Hw.tickGap (h : Hw) (k : Nat) : Nat := if h.tbSel k = 0 then 4 * (h.fld TMR_PRESC k 15 0 + 1) else 24414

/-- A gated tick in the PCLK of a write of the count is lost (R313). -/
def Hw.tickLost (h : Hw) (k : Nat) : Hw := h.updTmr k fun s => { s with due := s.due - 1, tickAt := some h.dev }

/-- What a gated tick does to the count. -/
def Hw.tmrCount (h : Hw) (k : Nat) : Hw :=
  let p := (h.reg TMR_COUNT k).toNat
  let t := (h.reg TMR_TOP k).toNat
  (h.widthTicks k 1).tmrUpdate k (tickCount p t) (decide (t ≤ p))

/-- A gated tick of timer k: of a clock, no sooner than a period after its last; one that a step mark or a wrap gave; or a pulse in flight to its
TICK sink. -/
def Hw.tmrTick (h : Hw) (k : Nat) : Hw :=
  if h.tbSel k ≤ 1 then
    if h.tmrTicks k then
      let h := match (h.tmr k).tickAt with
        | some t => h.advTo (t + h.tickGap k)
        | none => h
      (h.updTmr k fun s => { s with tickAt := some h.dev }).tmrCount k
    else h
  else if h.tbSel k = 4 then h.withPulse (4 * k + 3) fun h => if h.tmrTicks k then h.tmrCount k else h
  else if (h.tmr k).due = 0 then h
  else (h.updTmr k fun s => { s with due := s.due - 1 }).tmrCount k

/-- A gated tick. -/
def execTmrGatedTick (k : TmrId) (s : State) : Out := s.onHw fun h => h.tmrTick k

/-- A gated tick at TOP or above: any other is not this command's. -/
def Hw.tmrWrap (h : Hw) (k : Nat) : Hw := if (h.reg TMR_TOP k).toNat ≤ (h.reg TMR_COUNT k).toNat then h.tmrTick k else h

/-- A tick wraps the count. -/
def execTmrWrap (k : TmrId) (s : State) : Out := s.onHw fun h => h.tmrWrap k

/-- A gated tick whose update makes the count equal CMP0 or CMP1: any other is not this command's. -/
def Hw.tmrMatch (h : Hw) (k : Nat) (x : Bool) : Hw :=
  let p := (h.reg TMR_COUNT k).toNat
  let t := (h.reg TMR_TOP k).toNat
  let c := if x then (if t ≤ p ∧ h.pwmMode k then h.shadow k else h.reg TMR_CMP1 k) else h.reg TMR_CMP0 k
  if tickCount p t = c.toNat then h.tmrTick k else h

/-- A tick makes the count equal a compare value. -/
def execTmrMatch (k : TmrId) (cmp1 : Bool) (s : State) : Out := s.onHw fun h => h.tmrMatch k cmp1

/-- A write of a compare register takes effect; with MATCH_ON_WRITE a value equal to the count matches at once (R314). In PWM mode CMP1 goes to
the shadow (R322). -/
def Hw.cmpWrite (h : Hw) (k : Nat) (cmp1 : Bool) (v : Word) : Hw :=
  if cmp1 ∧ h.pwmMode k then h.shadowPut k v
  else
    let h := h.setReg (if cmp1 then TMR_CMP1 else TMR_CMP0) k v
    if h.flag TMR_CTRL k 11 ∧ v = h.reg TMR_COUNT k then
      let h := h.tmrEvent k (b2n cmp1)
      if cmp1 then h.updTmr k fun s => { s with pwm := false } else h
    else h

/-! ### Capture (R316, R317) -/

/-- A rising edge of the capture pin; `read` is a read of TMR_CAPR in the same PCLK, which returns the previous value. -/
def Hw.capRise (h : Hw) (k : Nat) (read : Bool) : Hw :=
  if h.flag TMR_CTRL k 23 then
    let h := if read then { h with resp := { value := h.reg TMR_CAPR k } } else h
    let h := if h.flag TMR_CAPSTAT k 0 ∧ read = false then h.setFlag TMR_CAPSTAT k 2 true else h
    let h := (h.setReg TMR_CAPR k (h.reg TMR_COUNT k)).setFlag TMR_CAPSTAT k 0 true
    (h.fire (16 + 5 * k + 3)).updTmr k fun s => { s with width := some 0 }
  else h

/-- A falling edge; `read` is a read in the same PCLK: 1 of TMR_CAPF, 2 of TMR_WIDTH. -/
def Hw.capFall (h : Hw) (k read : Nat) : Hw :=
  if h.flag TMR_CTRL k 23 then
    match (h.tmr k).width with
    | none => h
    | some w =>
      let h := h.updTmr k fun s => { s with width := none }
      let h := if read = 1 then { h with resp := { value := h.reg TMR_CAPF k } }
        else if read = 2 then { h with resp := { value := h.reg TMR_WIDTH k } } else h
      if w < (h.reg TMR_MINW k).toNat then
        let h := if read = 0 then h else h.setFlag TMR_CAPSTAT k 1 false
        h.inc SHORT_CNT k
      else
        let h := if h.flag TMR_CAPSTAT k 1 ∧ read = 0 then h.setFlag TMR_CAPSTAT k 3 true else h
        let h := ((h.setReg TMR_CAPF k (h.reg TMR_COUNT k)).setReg TMR_WIDTH k (w32 w)).setFlag TMR_CAPSTAT k 1 true
        h.fire (16 + 5 * k + 4)
  else h

/-! ### Sleep make-up (R318, R319) -/

/-- The first tick, counted from 1, at which a count of c is reached from p. -/
def ticksTo (p top c : Nat) : Nat :=
  if top < p then c + 1
  else
    let d := (c + (top + 1) - p) % (top + 1)
    if d = 0 then top + 1 else d

/-- Advance timer k by n ticks at once (R318): status bits and one pulse of each source passed; the wraps passed are answered. -/
def Hw.tmrSkip (h : Hw) (k n : Nat) : Hw × Nat :=
  let p := (h.reg TMR_COUNT k).toNat
  let t := (h.reg TMR_TOP k).toNat
  let passed (c : Nat) : Bool := decide (c ≤ t) && decide (ticksTo p t c ≤ n)
  let wraps := if n = 0 then 0 else if t < p then 1 + (n - 1) / (t + 1) else (p + n) / (t + 1)
  let c := if n = 0 then p else if t < p then (n - 1) % (t + 1) else (p + n) % (t + 1)
  let old := (h.reg TMR_CMP1 k).toNat
  let h := ((h.setReg TMR_COUNT k (w32 c)).widthTicks k n).inc MKUP_CNT k
  let h := if 0 < wraps ∧ h.pwmMode k then h.setReg TMR_CMP1 k (h.shadow k) else h
  let h := if passed (h.reg TMR_CMP0 k).toNat then (h.tmrEvent k 0).setFlag TMR_STAT k 3 true else h
  let h := if passed old ∨ (0 < wraps ∧ passed (h.reg TMR_CMP1 k).toNat) then (h.tmrEvent k 1).setFlag TMR_STAT k 3 true else h
  let h := if 0 < wraps then (h.tmrEvent k 2).setFlag TMR_STAT k 3 true else h
  (h.updTmr k fun s => { s with pwm := if 0 < wraps then decide (c < (h.reg TMR_CMP1 k).toNat) else s.pwm && decide (c < old) }, wraps)

/-- The make-up of every timer after n slow ticks in Steep, in ascending order. -/
def Hw.makeUp (h : Hw) (n : Nat) : Hw :=
  let one (st : Hw × Nat) (k : Nat) : Hw × Nat :=
    let h := st.1
    let on := h.en TMR_CTRL k 0 && h.flag TMR_CTRL k 14 && !h.frozen k
    if on = false then (h, 0)
    else if h.tbSel k = 3 then (if 0 < st.2 ∧ k ≠ 0 then h.tmrSkip k st.2 else (h, 0))
    else if h.tbSel k ≤ 1 ∧ (h.tmr k).gated then
      let x := n * (h.reg TMR_RATIO k).toNat + h.fld TMR_FRAC k 15 0
      (h.setReg TMR_FRAC k (w32 (x % 65536))).tmrSkip k (x / 65536)
    else (h, 0)
  ((List.range 16).foldl one (h, 0)).1

/-! ### The actuator map (R323–R325) -/

/-- Word w of entry k. -/
def Hw.actWord (h : Hw) (k w : Nat) : Word := h.tab .act 0 (k + 16 * w)

/-- An event matched at Q0:C0 with an ordinal in a range of an entry adds or subtracts its payload. -/
def Hw.actAccumulate (h : Hw) (ord payload : Nat) : Hw :=
  let one (h : Hw) (k : Nat) : Hw :=
    let w := h.actWord k
    let inPos := decide (bits (w 0) 17 0 ≤ ord) && decide (ord ≤ bits (w 1) 17 0)
    let inNeg := bit (w 2) 31 && decide (bits (w 2) 17 0 ≤ ord) && decide (ord ≤ bits (w 3) 17 0)
    let addOne (h : Hw) (v : Int) : Hw :=
      let x := (h.act k).acc + v
      let h := if satS 32 x = x then h else h.inc ACT_SAT_CNT
      h.updAct k fun s => { s with acc := satS 32 x, got := true }
    if bit (w 0) 31 then
      let h := if inPos then addOne h payload else h
      if inNeg then addOne h (-(payload : Int)) else h
    else h
  (List.range 16).foldl one h

/-- A duty of the map sets out for the shadow of timer k, which it reaches 8 PCLK later. -/
def Hw.actShadow (h : Hw) (k : Nat) (v : Word) : Hw := (h.shadowPut k (h.shadow k)).updAct k fun s => { s with pend := some (h.dev + 32, v) }

/-- SAFE is written to the shadow, which holds it. -/
def Hw.actSafe (h : Hw) (k : Nat) (v : Word) : Hw := (h.shadowPut k v).updAct k fun s => { s with pend := none }

/-- The update of every entry at delivery close (R324). -/
def Hw.actUpdate (h : Hw) : Hw :=
  let one (h : Hw) (k : Nat) : Hw :=
    let w := h.actWord k
    if bit (w 0) 31 then
      let s := h.act k
      let h := if s.got then h.updAct k fun s => { s with since := h.dev } else h
      let h :=
        if s.got ∨ bit (w 4) 24 = false then
          let d := (w 5).toInt + s.acc * sext 16 (bits (w 4) 15 0) / ((2 ^ bits (w 4) 20 16 : Nat) : Int)
          let lo : Int := (w 6).toNat
          let hi : Int := (w 7).toNat
          let e := if d < lo then lo else if hi < d then hi else d
          let h := if e = d then h else h.inc ACT_CLAMP_CNT
          let h := h.setReg (ACT_LAST k) 0 (wInt e)
          if h.flag ACT_STAT 0 k then h else (h.inc ACT_UPD_CNT).actShadow k (wInt e)
        else h
      h.updAct k fun s => { s with acc := 0, got := false }
    else h
  (List.range 16).foldl one h

/-- The timeout of entry k passes: the shadow takes SAFE (R325). -/
def Hw.actTimeout (h : Hw) (k : Nat) : Hw :=
  let w := h.actWord k
  let t := bits (w 8) 15 0
  if bit (w 0) 31 = false ∨ t = 0 ∨ h.flag ACT_STAT 0 k ∨ (h.act k).got then h
  else
    let h := h.advTo ((h.act k).since + t * 10 * us)
    (((h.setFlag ACT_STAT 0 k true).actSafe k (w 9)).inc ACT_TMO_CNT).raisePkg fActTimeout k

/-- An actuator entry's timeout passes. -/
def execActTimeout (k : TmrId) (s : State) : Out := s.onHw fun h => h.actTimeout k

/-- SAFE[k] is cleared and the timeout restarts (R325). -/
def Hw.actSafeClear (h : Hw) (k : Nat) : Hw := (h.setFlag ACT_STAT 0 k false).updAct k fun s => { s with since := h.dev }

/-- A write of word w of entry k: setting EN restarts the timeout. -/
def Hw.actWrite (h : Hw) (k w : Nat) (v : Word) : Hw :=
  let on := decide (w = 0) && bit v 31 && !bit (h.actWord k 0) 31
  let h := h.setTab .act 0 (k + 16 * w) v
  if on then h.updAct k fun s => { s with since := h.dev } else h

/-! ### Crossbar sinks (R326–R330) -/

/-- STOP clears EN, and START sets it unless a STOP reaches the timer in the same PCLK (R328). -/
def Hw.xbStop (h : Hw) (k : Nat) : Hw := (h.setFlag TMR_CTRL k 0 false).updTmr k fun s => { s with stopAt := some h.dev }
def Hw.xbStart (h : Hw) (k : Nat) : Hw := if (h.tmr k).stopAt.any fun t => t / 4 == h.dev / 4 then h else h.setFlag TMR_CTRL k 0 true

/-- A pulse into a START sink. -/
def execXbTmrStart (k : TmrId) (s : State) : Out := s.onHw fun h => h.withPulse (4 * k.val) fun h => h.xbStart k

/-- A pulse into a STOP sink. -/
def execXbTmrStop (k : TmrId) (s : State) : Out := s.onHw fun h => h.withPulse (4 * k.val + 1) fun h => h.xbStop k

/-- A pulse into a CLEAR sink. -/
def execXbTmrClear (k : TmrId) (s : State) : Out := s.onHw fun h => h.withPulse (4 * k.val + 2) fun h => h.setReg TMR_COUNT k 0#32

/-- A pulse into latch j (R329). -/
def Hw.pulseLatch (h : Hw) (j : Nat) : Hw :=
  if h.flag PL_STAT 0 j then h.inc PL_OVR_CNT else (h.setFlag PL_STAT 0 j true).irqWatch (64 + j)

/-- A pulse into a pulse latch. -/
def execXbPulseLatch (j : Fin 32) (s : State) : Out := s.onHw fun h => h.withPulse (0x40 + j.val) fun h => h.pulseLatch j

/-- A pulse into FRAME_REL of receiver k. -/
def execXbFrameRel (k : CsiId) (s : State) : Out := s.onHw fun h => h.withPulse (0xA0 + k.val) fun h => h.frameRel k

def Hw.inj (h : Hw) (j : Nat) : InjSt := Tbl.get {} h.injs j

/-- A pulse into injection slot j is counted in its step's bin (R330). -/
def Hw.injPulse (h : Hw) (j : Nat) : Hw :=
  let s := h.inj j
  { h with injs := Tbl.put h.injs j { count := s.count + 1, sub := if s.count = 0 then (h.binSub h.dev).1 else s.sub } }

/-- A pulse into an injection slot. -/
def execXbInject (j : Fin 32) (s : State) : Out := s.onHw fun h => h.withPulse (0xA8 + j.val) fun h => h.injPulse j

/-- The event of each slot with a count is offered at Q0:C0 at the advance (R330). -/
def Hw.injOffer (h : Hw) : Hw :=
  let one (h : Hw) (j : Nat) : Hw :=
    let s := h.inj j
    let src := h.xbSel (0xA8 + j)
    if s.count = 0 ∨ src = 0 ∨ ((List.range j).any fun i => h.xbSel (0xA8 + i) == src) then h
    else
      let h := (if 0xFFFF < s.count then h.inc INJ_SAT_CNT else h).inc INJ_EVT_CNT
      let h := h.portIn 0 33 ⟨w32 (0x30000000 + h.pkgNum * 2 ^ 24 + 0x100000 + src), evLow s.sub (min 0xFFFF s.count) 0⟩
      if h.offerRefused 0 then h.offerWait 0 else h
  { (List.range 32).foldl one h with injs := [] }

/-! ### GPIO (R311, R316, R331) -/

/-- The capture pin of timer k. -/
def Hw.capPin (h : Hw) (k : Nat) : Nat := h.fld TMR_CTRL k 22 18

/-- An edge of pin g reaches every timer that watches it; `read` is the read of timer k's register in the same PCLK. -/
def Hw.capEdge (h : Hw) (g : Nat) (level : Bool) (k read : Nat) : Hw :=
  (List.range 16).foldl (fun h i =>
    let r := if i = k then read else 0
    if h.flag TMR_CTRL i 23 = false ∨ h.capPin i ≠ g then h
    else if level then h.capRise i (decide (r ≠ 0)) else h.capFall i r) h

/-- Device time before which the filter of pin g accepts no change: FILT + 1 PCLK after the last one (R311). -/
def Hw.filtAt (h : Hw) (g : Nat) : Nat := (Tbl.find h.gpioAt g).elim 0 fun t => t + 4 * (h.fld (GPIO_FILT g) 0 7 0 + 1)

/-- The filter of pin g accepts a level: GPIO_IN shows it, a selected edge fires its source, and the timers that watch the pin capture. -/
def Hw.gpioAccept (h : Hw) (g : Nat) (level : Bool) (k read : Nat) : Hw :=
  if h.flag GPIO_IN 0 g = level then h
  else
    let h := h.advTo (h.filtAt g)
    let h : Hw := { h.setFlag GPIO_IN 0 g level with gpioAt := Tbl.put h.gpioAt g h.dev }
    let e := if g < 16 then h.fld GPIO_EDGE_LO 0 (2 * g + 1) (2 * g) else h.fld GPIO_EDGE_HI 0 (2 * (g - 16) + 1) (2 * (g - 16))
    let h := if (level ∧ e % 2 = 1) ∨ (level = false ∧ 2 ≤ e) then h.fire (160 + g) else h
    h.capEdge g level k read

/-- The glitch filter accepts a new level. -/
def execGpioFilterAccept (g : Fin 32) (level : Bool) (s : State) : Out := s.onHw fun h => h.gpioAccept g level 16 0

/-- The filter of the capture pin of timer k accepts a level, with a read of timer k's register in the same PCLK; the timer watches no pin while
CAP_EN is 0. -/
def Hw.capPinEdge (h : Hw) (k : Nat) (level : Bool) (read : Nat) : Hw :=
  if h.flag TMR_CTRL k 23 then h.gpioAccept (h.capPin k) level k read else h

/-- A rising edge is captured. -/
def execTmrCaptureRise (k : TmrId) (read : Bool) (s : State) : Out := s.onHw fun h => h.capPinEdge k true (b2n read)

/-- A falling edge is captured. -/
def execTmrCaptureFall (k : TmrId) (read : Fin 3) (s : State) : Out := s.onHw fun h => h.capPinEdge k false read

end Sys2Proof.Machine
end

