-- ==== Sys2Proof/Machine/Dma.lean ====
section
/-! DEFINITION. DMA engines (12 R336–R348). A channel's key is 16 × engine + channel. -/

namespace Sys2Proof.Machine

def Hw.dma (h : Hw) (d : Nat) : DmaSt := Tbl.get {} h.dmas d

def Hw.updDma (h : Hw) (d : Nat) (f : DmaSt → DmaSt) : Hw := { h with dmas := Tbl.set {} h.dmas d (f (h.dma d)) }

/-- What a memory-path address names (R336): a DDR5 byte of a channel, a byte of a bank of a cluster, or a byte of a core. -/
inductive Mpa
  | ddr (ch a : Nat)
  | bank (c b off : Nat)
  | core (k off : Nat)
deriving DecidableEq, Repr

/-- Decode a memory-path address; none for an address error. -/
def Hw.mpa (h : Hw) (a : Nat) : Option Mpa :=
  if 2 ^ 40 ≤ a then none
  else if a < 2 ^ 39 then
    let ch := a / 2 ^ 35
    if 4 ≤ ch ∨ h.ddrEnd ch ≤ a % 2 ^ 35 then none else some (.ddr ch (a % 2 ^ 35))
  else
    let x := a - 2 ^ 39
    let off := x % 2 ^ 24
    let u := x / 2 ^ 24 % 2 ^ 11
    if 2 ^ 36 ≤ x ∨ 2 ^ 19 ≤ off then none
    else if x < 2 ^ 35 then (if off < ownedEnd then some (.bank (u / 32) (u % 32) off) else none)
    else if off < 0x22000 then some (.core u off) else none

/-- How an access to a granule ends: its words, a wait for the bank, or an address error. -/
inductive GranRead
  | words (l : List (Option Word))
  | wait (c b : Nat)
  | err
deriving DecidableEq, Repr

/-- Read n words at a, a multiple of 16: a granule of a source, or a list entry (R339, R340, R345, R346); a non-owner reads zeros. -/
def Hw.dmaRead (h : Hw) (e a n : Nat) : Hw × GranRead :=
  match h.mpa a with
  | none => (h, .err)
  | some (.ddr ch x) =>
    if h.ddrSelf ch then (h.inc DDR_RESET_DROP_CNT ch, .words (List.replicate n (some 0#32)))
    else
      let b := (h.ddrQueue ch x false).ddrBurst ch x
      (b.1, .words ((b.2.drop (x / 4 % 16)).take n))
  | some (.bank c b off) =>
    match h.portA c b off ownDma with
    | .held => (h.wakeBank c b (whoDma e), .wait c b)
    | .denied => (h.violation c b off ownDma false false, .words (List.replicate n (some 0#32)))
    | .ok =>
      let r := (List.range (n / 4)).foldl (fun (p : Hw × List (Option Word)) i => let x := p.1.bankLine c b (off / 16 + i); (x.1, p.2 ++ x.2)) (h, [])
      (r.1, .words r.2)
  | some (.core k _) =>
    let r := (List.range n).foldl (fun (p : Hw × List (Option Word)) i => let x := p.1.coreRead k (a + 4 * i); (x.1, p.2 ++ [x.2])) (h, [])
    (r.1, .words r.2)

/-- The bytes of a granule's words; the flag of a byte tells that its word is uncorrectable. -/
def granBytes (l : List (Option Word)) : List (Byte × Bool) :=
  l.flatMap fun o => match o with
    | some w => (wordBytes w).map fun b => (b, false)
    | none => List.replicate 4 (0#8, true)

/-- Uncorrectable words of a granule that hold none of the bytes [i, i + n), and those that do. -/
def ueOutside (l : List (Option Word)) (i n : Nat) : Nat :=
  ((List.range 8).filter fun w => (l.getD w (some 0#32)).isNone && (decide (4 * w + 4 ≤ i) || decide (i + n ≤ 4 * w))).length
def ueInside (l : List (Option Word)) (i n : Nat) : Nat := (l.filter Option.isNone).length - ueOutside l i n

/-- An uncorrectable word is met; inside the requested range it is raised (R346). -/
def Hw.dmaUe (h : Hw) (e inside outside : Nat) : Hw :=
  let h := if inside + outside = 0 then h else h.inc DMA_UE_CNT e (inside + outside)
  (List.range inside).foldl (fun h _ => h.raiseDma fDmaUe e) h

/-- Write the bytes that fall in the word at w: all of it, or merged into it (R340). An uncorrectable source word makes the word
uncorrectable; a partial write onto an uncorrectable word leaves it and is counted. -/
def Hw.dmaWord (h : Hw) (e w : Nat) (l : List (Nat × Byte × Bool)) : Hw :=
  let mine := l.filter fun x => x.1 / 4 == w / 4
  if mine = [] then h
  else if mine.length < 4 ∧ 40 ≤ markEcc (h.mark w) then h.inc DMA_UE_CNT e
  else
    let h := if mine.length = 4 then h else
      match h.mpa w with
      | some (.bank c b off) => (h.bankWord c b off).1
      | some (.core k _) => (h.coreRead k w).1
      | _ => h
    let v := mine.foldl (fun v x => setBits v (8 * (x.1 % 4) + 7) (8 * (x.1 % 4)) x.2.1.toNat) (h.word w)
    let h := h.setWord w v
    if mine.any fun x => x.2.2 then h.setMark w 40 else h

/-- How a write ends. -/
inductive GranWrite
  | done | wait (c b : Nat) | err
deriving DecidableEq, Repr

/-- Write bytes at a, all in one granule (R345): a non-owner's write is dropped. -/
def Hw.dmaWrite (h : Hw) (e a : Nat) (l : List (Byte × Bool)) : Hw × GranWrite :=
  let put (h : Hw) : Hw :=
    let xs := (List.range l.length).map fun i => (a + i, l.getD i (0#8, false))
    (List.range 8).foldl (fun h i => h.dmaWord e (a / 32 * 32 + 4 * i) xs) h
  match h.mpa a with
  | none => (h, .err)
  | some (.ddr ch x) => if h.ddrSelf ch then (h.inc DDR_RESET_DROP_CNT ch, .done) else (put (h.ddrQueue ch x true), .done)
  | some (.bank c b off) =>
    match h.portA c b off ownDma with
    | .held => (h.wakeBank c b (whoDma e), .wait c b)
    | .denied => (h.violation c b off ownDma false true, .done)
    | .ok => (put h, .done)
  | some (.core k off) => (put (if off < 0x20000 then h.unquiet k else h), .done)

/-- How a list fetch ends. -/
inductive Fetch
  | ok | wait (hold : Option (Nat × Nat)) | err
deriving DecidableEq, Repr

/-- Fetch entries of a list until one has bytes left or the LAST one is used up; entries of length 0 are skipped (R339, R340). -/
def Hw.dmaFetch (h : Hw) (e : Nat) (s : DmaSide) : Nat → Hw × DmaSide × Fetch
  | 0 => (h, s, .wait none)
  | n + 1 =>
    if 0 < s.left ∨ s.last then (h, s, .ok)
    else
      match h.dmaRead e s.ent 4 with
      | (h, .err) => (h, s, .err)
      | (h, .wait c b) => (h, s, .wait (some (c, b)))
      | (h, .words [some w0, some w1, some w2, some w3]) =>
        if bits w1 31 8 ≠ 0 ∨ bits w2 31 24 ≠ 0 ∨ bits w3 31 1 ≠ 0 then (h, s, .err)
        else h.dmaFetch e { ent := s.ent + 16, addr := w0.toNat + bits w1 7 0 * 2 ^ 32, left := bits w2 23 0, last := bit w3 0 } n
      | (h, .words _) => (h, s, .err)

/-- Read granules of the source until `need` bytes are at hand or the LAST entry is used up: each granule that an entry touches once, its
uncorrectable words counted inside or outside the entry (R340, R346). -/
def Hw.dmaGather (h : Hw) (e : Nat) (s : DmaSide) (buf : List (Byte × Bool)) (need : Nat) : Nat → Hw × DmaSide × List (Byte × Bool) × Fetch
  | 0 => (h, s, buf, .wait none)
  | n + 1 =>
    if need ≤ buf.length then (h, s, buf, .ok)
    else
      match h.dmaFetch e s 64 with
      | (h, s, .err) => (h, s, buf, .err)
      | (h, s, .wait w) => (h, s, buf, .wait w)
      | (h, s, .ok) =>
        if s.left = 0 then (h, s, buf, .ok)
        else
          let i := s.addr % 32
          let m := min s.left (32 - i)
          match h.dmaRead e (s.addr / 32 * 32) 8 with
          | (h, .err) => (h, s, buf, .err)
          | (h, .wait c b) => (h, s, buf, .wait (some (c, b)))
          | (h, .words l) =>
            let h := h.dmaUe e (ueInside l i m) (ueOutside l i m)
            h.dmaGather e { s with addr := s.addr + m, left := s.left - m } (buf ++ ((granBytes l).drop i).take m) need n

/-- A transfer begins at the start of both lists. -/
def Hw.dmaBegin (h : Hw) (d : Nat) : Hw :=
  h.updDma d fun _ =>
    { busy := true, src := { ent := shortMpa (h.reg (CH_SRC_LIST (d % 16)) (d / 16)) }, dst := { ent := shortMpa (h.reg (CH_DST_LIST (d % 16)) (d / 16)) } }

/-- A run ends: BUSY clears, or a latched start runs (R341). -/
def Hw.dmaEnd (h : Hw) (d : Nat) : Hw := if (h.dma d).latched then h.dmaBegin d else h.updDma d fun _ => {}

/-- The channel's EN field in force. -/
def Hw.dmaEn (h : Hw) (d : Nat) : Bool := h.en (CH_CTRL (d % 16)) (d / 16) 0

/-- A start (R341). -/
def Hw.dmaStart (h : Hw) (d : Nat) : Hw :=
  if h.dmaEn d = false then h
  else
    let s := h.dma d
    if s.busy = false then h.dmaBegin d
    else if s.latched then h.inc DMA_START_OVR_CNT (d / 16)
    else h.updDma d fun s => { s with latched := true }

/-- An abort (R342): of a channel that is not busy it discards a trigger of its cycle and is not counted (R348, log 128). -/
def Hw.dmaAbort (h : Hw) (d : Nat) : Hw :=
  if (h.dma d).busy then (h.updDma d fun _ => { abortAt := some h.dev }).inc DMA_ABORT_CNT (d / 16)
  else h.updDma d fun _ => { abortAt := some h.dev }

/-- A write of CH_CMD: ABORT wins (R347). -/
def Hw.dmaCmd (h : Hw) (d : Nat) (v : Word) : Hw := if bit v 1 then h.dmaAbort d else if bit v 0 then h.dmaStart d else h

/-- Compute reset aborts every channel (R348). -/
def Hw.dmaReset (h : Hw) : Hw := (List.range 64).foldl (fun h d => if (h.dma d).busy then h.dmaAbort d else h) h

/-- A pulse into the trigger sink of a channel starts it, unless an abort falls in the same cycle (R341, R348). -/
def Hw.dmaTrigger (h : Hw) (d : Nat) : Hw :=
  if h.flag (CH_CTRL (d % 16)) (d / 16) 1 = false ∨ (h.dma d).abortAt = some h.dev then h else h.dmaStart d

/-- A pulse into the trigger sink of a channel. -/
def execXbDmaTrigger (e : Quad) (c : Fin 16) (s : State) : Out :=
  s.onHw fun h => h.withPulse (0x60 + 16 * e.val + c.val) fun h => h.dmaTrigger (16 * e.val + c.val)

/-- An error ends the transfer (R346). -/
def Hw.dmaError (h : Hw) (d : Nat) : Hw := (((h.inc DMA_DESC_ERR_CNT (d / 16)).raiseDma fDmaDesc (d / 16))).dmaEnd d

/-- The channel keeps where its lists stand, and the bank that holds it, if any. -/
def Hw.dmaKeep (h : Hw) (d : Nat) (s t : DmaSide) (buf : List (Byte × Bool)) (hold : Option (Nat × Nat)) : Hw :=
  h.updDma d fun v => { v with src := s, dst := t, buf := buf, hold := hold }

/-- A stream is at its end: the LAST entry is used up. -/
def DmaSide.used (x : DmaSide) : Bool := x.last && decide (x.left = 0)

/-- The transfer ends when the LAST entry of either list is used up; the totals must be equal (R340, R346). -/
def Hw.dmaSettle (h : Hw) (d : Nat) (s t : DmaSide) (buf : List (Byte × Bool)) : Hw :=
  let h := h.dmaKeep d s t buf none
  let sEnd := s.used && buf.isEmpty
  if sEnd && t.used then h.updDma d fun v => { v with fin := true }
  else if sEnd || t.used then h.dmaError d
  else h

/-- Where a stream has run out, both lists are read on to what follows, so that the ends are compared (R340). -/
def Hw.dmaAfter (h : Hw) (d : Nat) (s t : DmaSide) (buf : List (Byte × Bool)) : Hw :=
  let e := d / 16
  if (s.used && buf.isEmpty) = false ∧ t.used = false then h.dmaKeep d s t buf none
  else
    match if buf.isEmpty then h.dmaFetch e s 64 else (h, s, .ok) with
    | (h, _, .err) => h.dmaError d
    | (h, s, .wait w) => h.dmaKeep d s t buf w
    | (h, s, .ok) =>
      match h.dmaFetch e t 64 with
      | (h, _, .err) => h.dmaError d
      | (h, t, .wait w) => h.dmaKeep d s t buf w
      | (h, t, .ok) => h.dmaSettle d s t buf

/-- One granule of the destination (R340): as many bytes as its entry has there are gathered from the source and written at once. -/
def Hw.dmaGranule (h : Hw) (d : Nat) : Hw :=
  let v := h.dma d
  let e := d / 16
  match h.dmaFetch e v.dst 64 with
  | (h, _, .err) => h.dmaError d
  | (h, t, .wait w) => h.dmaKeep d v.src t v.buf w
  | (h, t, .ok) =>
    let need := min t.left (32 - t.addr % 32)
    match h.dmaGather e v.src v.buf (max 1 need) 40 with
    | (h, _, _, .err) => h.dmaError d
    | (h, s, buf, .wait w) => h.dmaKeep d s t buf w
    | (h, s, buf, .ok) =>
      let n := min need buf.length
      if n = 0 then h.dmaSettle d s t buf
      else
        match h.dmaWrite e t.addr (buf.take n) with
        | (h, .err) => h.dmaError d
        | (h, .wait c b) => h.dmaKeep d s t buf (some (c, b))
        | (h, .done) => (h.inc DMA_GRAN_CNT e).dmaAfter d s { t with addr := t.addr + n, left := t.left - n } (buf.drop n)

/-- Channel d could move a granule: it is busy, its last write has not been made, and no bank holds its next access. -/
def Hw.dmaReady (h : Hw) (d : Nat) : Bool :=
  let v := h.dma d
  v.busy && !v.fin && (match v.hold with
    | some p => decide (h.portA p.1 p.2 0 ownDma ≠ .held)
    | none => true)

/-- The engine serves channel d next: of the channels that could move a granule, those of the highest PRIO take turns (R338). -/
def Hw.dmaServes (h : Hw) (d : Nat) : Bool :=
  let e := d / 16
  let prio (x : Nat) : Nat := h.fld (CH_CTRL (x % 16)) e 3 2
  let l := ((List.range 16).map fun i => 16 * e + (Tbl.get 0 h.dmaTurn e + i) % 16).filter h.dmaReady
  let top := (l.map prio).foldl max 0
  l.find? (fun x => prio x == top) == some d

/-- The granule of a channel whose turn it is. -/
def Hw.dmaTurnOf (h : Hw) (d : Nat) : Hw :=
  if h.dmaServes d then ({ h with dmaTurn := Tbl.set 0 h.dmaTurn (d / 16) (d % 16 + 1) } : Hw).dmaGranule d else h

/-- A channel moves one granule, when the engine serves it. -/
def execDmaGranule (e : Quad) (c : Fin 16) (s : State) : Out := s.onHw fun h => h.dmaTurnOf (16 * e.val + c.val)

/-- The last write leaves the engine: the completion source fires, and BUSY clears or a latched start runs (R343). -/
def Hw.dmaComplete (h : Hw) (d : Nat) : Hw := if (h.dma d).fin then (h.fire (96 + d)).dmaEnd d else h

/-- A transfer completes. -/
def execDmaComplete (e : Quad) (c : Fin 16) (s : State) : Out := s.onHw fun h => h.dmaComplete (16 * e.val + c.val)

/-- DMA_BUSY. -/
def Hw.dmaBusy (h : Hw) (e : Nat) : Word :=
  w32 ((List.range 16).foldl (fun a c => a + if (h.dma (16 * e + c)).busy then 2 ^ c else 0) 0)

end Sys2Proof.Machine
end

