-- ==== Sys2Proof/Machine/Eth.lean ====
section
/-! DEFINITION. Ethernet ports, MACsec, gPTP, time and event frames (13 R349–R362, R374–R378). The port of quadrant q is ETHq. -/

namespace Sys2Proof.Machine

def Hw.updEth (h : Hw) (q : Nat) (f : EthSt → EthSt) : Hw := { h with eths := Tbl.set {} h.eths q (f (h.eth q)) }

/-! ### Time (R358) -/

/-- PTP time in ns. -/
def Hw.ptpNs (h : Hw) : Nat := h.ptp / 2 ^ 30 % 2 ^ 64

/-- Step the PTP clock by a signed number of ns, modulo 2⁶⁴. -/
def Hw.ptpStep (h : Hw) (adj : Int) : Hw := { h with ptp := (((h.ptp : Int) + adj * 2 ^ 30) % (2 ^ 94 : Int)).toNat }

/-- A read of PTP_NS_LO: PTP_NS_HI and the device time are latched with it. -/
def Hw.ptpRead (h : Hw) : Hw × Word :=
  let h := h.setReg PTP_NS_HI 0 (w32 (h.ptpNs / 2 ^ 32))
  let h := h.setReg DEV_TIME_LO 0 (w32 h.dev)
  (h.setReg DEV_TIME_HI 0 (w32 (h.dev / 2 ^ 32)), w32 h.ptpNs)

/-- The instant at which PTP time has reached n ns: device time moves on to it. -/
def Hw.advToPtp (h : Hw) (n : Nat) : Hw :=
  let inc := (h.reg PTP_INC).toNat
  if inc = 0 then h else h.advTo (h.dev + ceilDiv (n * 2 ^ 30 - h.ptp) inc)

/-! ### The link (R349–R351) -/

/-- ETH_STAT.LINK. -/
def Hw.linkUp (h : Hw) (q : Nat) : Bool := h.flag ETH_STAT q 0

/-- PHY_CTRL.MODE; 4 to 7 are taken as 0 (R379). -/
def Hw.phyMode (h : Hw) (q : Nat) : Nat := let m := h.fld PHY_CTRL q 3 1; if 3 < m then 0 else m

/-- Training completes, once the EPLL has locked (15 R427): the mode and role in use, and whether auto-negotiation resolved the role. -/
def Hw.linkRise (h : Hw) (q : Nat) (master : Bool) : Hw :=
  let m := h.phyMode q
  if h.linkUp q ∨ h.en PHY_CTRL q 0 = false ∨ h.flag PAD_EN 0 (8 + q) = false ∨ (m ≠ 0 ∧ h.lic 3 = false) ∨ h.pllLocked (8 + q) = false then h
  else
    let an := decide (m = 0) && h.flag PHY_CTRL q 4
    let role := if an then master else h.flag PHY_CTRL q 5
    h.setFld ETH_STAT q 5 0 (1 + 2 * m + 16 * b2n role + 32 * b2n an)

/-- A link comes up. -/
def execLinkUp (q : Quad) (master : Bool) (s : State) : Out := s.onPort q fun h => h.linkRise q master

/-! ### Sizes (R352, R353) -/

/-- MAC_CTRL.MAX_FRAME in force. -/
def Hw.maxFrame (h : Hw) (q : Nat) : Nat := max 64 (min 9022 (h.fld MAC_CTRL q 29 16))

/-- MACsec protects what is sent. -/
def Hw.msTx (h : Hw) (q : Nat) : Bool := h.en MS_CTRL q 0 && h.flag MS_CTRL q 4

/-- PLIM. -/
def Hw.plim (h : Hw) (q : Nat) : Nat := h.maxFrame q - 22 - (if h.msTx q then 32 else 0)

/-- MAC_ADDR. -/
def Hw.macAddr (h : Hw) (q : Nat) : Nat := (h.reg MAC_ADDR_LO q).toNat + h.fld MAC_ADDR_HI q 15 0 * 2 ^ 32

/-- Broadcast, the gPTP address, and the gPTP EtherType. -/
def macBroadcast : Nat := 0xFFFFFFFFFFFF
def macGptp : Nat := 0x0180C200000E
def etGptp : Nat := 0x88F7

/-- The Roene EtherType. -/
def Hw.etype (h : Hw) (q : Nat) : Nat := h.fld ETYPE q 15 0

/-! ### MACsec (R360–R362) -/

/-- Word w of the SA with association number an of secure channel sc (0 transmit). -/
def saIdx (sc an w : Nat) : Nat := (sc * 4 + an) * 16 + w
def Hw.sa (h : Hw) (q sc an w : Nat) : Word := h.tab .sa q (saIdx sc an w)
def Hw.setSa (h : Hw) (q sc an w : Nat) (v : Word) : Hw := h.setTab .sa q (saIdx sc an w) v

/-- The next PN of an SA. -/
def Hw.saPn (h : Hw) (q sc an : Nat) : Nat := (h.sa q sc an 8).toNat + (h.sa q sc an 9).toNat * 2 ^ 32
def Hw.setSaPn (h : Hw) (q sc an n : Nat) : Hw := (h.setSa q sc an 8 (w32 n)).setSa q sc an 9 (w32 (n / 2 ^ 32))

/-- XPN is selected. -/
def Hw.msXpn (h : Hw) (q : Nat) : Bool := h.flag MS_CTRL q 6

/-- What validation says of a frame: dropped and counted, or accepted, and whether through a valid SA (R360). -/
inductive Verdict
  | unprot | noSa | notValid | late | accept (secure : Bool)
deriving DecidableEq, Repr

/-- The receive SC that a SCI names. -/
def Hw.rxSc (h : Hw) (q : Nat) (sci : Nat) : Option Nat :=
  [1, 2, 3, 4].find? fun s => (h.reg (MS_RXSC_SCI_LO s) q).toNat + (h.reg (MS_RXSC_SCI_HI s) q).toNat * 2 ^ 32 == sci

/-- Validation of a received frame, with the next PN of its SA moved on. -/
def Hw.msRx (h : Hw) (q : Nat) (f : EthFrame) : Hw × Verdict :=
  if h.en MS_CTRL q 0 = false then (h, .accept false)
  else
    let mode := min 2 (h.fld MS_CTRL q 2 1)
    match f.sec with
    | none =>
      if mode = 2 ∧ !(f.etype.toNat = etGptp ∧ h.flag MS_CTRL q 3) then (h, .unprot) else (h, .accept false)
    | some t =>
      if mode = 0 then (h, if t.enc then .notValid else .accept false)
      else
        match h.rxSc q t.sci.toNat with
        | none => (h, if mode = 2 ∨ t.enc then .noSa else .accept false)
        | some sc =>
          if bit (h.sa q sc t.an 14) 0 = false then (h, if mode = 2 ∨ t.enc then .noSa else .accept false)
          else
            let next := h.saPn q sc t.an
            if t.pn.toNat + (h.reg MS_REPLAY_WIN q).toNat < next then (h, .late)
            else if t.icvOk = false then (h, if mode = 2 ∨ t.enc then .notValid else .accept false)
            else (if next ≤ t.pn.toNat then h.setSaPn q sc t.an (t.pn.toNat + 1) else h, .accept true)

/-- The PN of the next protected frame, none when it is exhausted, until MS_TX_AN is written, or the transmit SA is not enabled; MACSEC_PN is raised when the PN
after it reaches the threshold (R361). -/
def Hw.msSend (h : Hw) (q : Nat) : Hw × Option Nat :=
  let an := h.fld MS_TX_AN q 1 0
  let pn := h.saPn q 0 an
  let top := if h.msXpn q then 2 ^ 64 else 2 ^ 32
  if top ≤ pn ∨ (h.eth q).pnOut then (h.updEth q fun e => { e with pnOut := true }, none)
  else if bit (h.sa q 0 an 14) 0 = false ∨ pn = 0 then (h, none)
  else
    let h := h.setSaPn q 0 an ((pn + 1) % 2 ^ 64)
    let thr := (h.reg MS_PN_THRESH_LO q).toNat + (if h.msXpn q then (h.reg MS_PN_THRESH_HI q).toNat * 2 ^ 32 else 0)
    (if pn + 1 = thr then h.raisePort fMacsecPn q else h, some pn)

/-- A key message of 64 bytes (R362): whether it is well formed and, if so, its effect. -/
def Hw.keyMessage (h : Hw) (q : Nat) (l : List Byte) : Hw :=
  let b (i : Nat) : Nat := (l.getD i 0#8).toNat
  let op := b 0
  let sc := b 1 % 8
  let an := b 1 / 16 % 4
  let word (i : Nat) : Word := w32 (beNat ((l.drop i).take 4))
  let res := (l.drop 2).take 2 ++ (l.drop 60).take 4
  let ok := decide (l.length = 64) && (op == 1 || op == 2 || op == 3) && decide (sc ≤ 4) && (op != 2 || sc == 0) &&
    decide (b 1 % 16 / 8 = 0) && decide (b 1 / 64 = 0) && res.all fun x => x == 0#8
  let stat (ok : Bool) (h : Hw) : Hw := h.setReg MS_KEY_STAT q (w32 (op + sc * 2 ^ 8 + an * 2 ^ 12 + (if ok then 2 ^ 16 else 2 ^ 17)))
  if ok = false then stat false h
  else
    let h :=
      if op = 1 then
        let h := (List.range 8).foldl (fun h i => h.setSa q sc an i (word (4 + 4 * i))) h
        let h := h.setSa q sc an 10 (word 36)
        let h := (List.range 3).foldl (fun h i => h.setSa q sc an (11 + i) (word (40 + 4 * i))) h
        let h := h.setSaPn q sc an (beNat ((l.drop 52).take 8))
        if sc = 0 then h else h.setSa q sc an 14 1#32
      else if op = 2 then ((h.setSa q 0 an 14 1#32).setFld MS_TX_AN q 1 0 an).updEth q fun e => { e with pnOut := false }
      else h.setSa q sc an 14 0#32
    stat true h

/-- The oldest message on port 240 of MPq's endpoint is taken and its slot given back. -/
def Hw.takeKeyMessage (h : Hw) (q : Nat) : Hw :=
  let e := 64 * mpCluster q + 33
  match (h.ep e).msgq.find? fun m => m.port == 240 with
  | none => h
  | some m =>
    let l := h.bytes (epMem e + (h.port e m.port).base + m.at_ + 4) m.len
    let h := h.updEp e fun s => { s with msgq := s.msgq.erase m }
    (h.messageEnd e m.port m.at_).keyMessage q l

/-- Firmware takes the oldest message on port 240 of MPq's endpoint. -/
def execMacsecKeyMessage (q : Quad) (s : State) : Out := s.onHw fun h => h.takeKeyMessage q

/-! ### The receive path (R352–R354) -/

/-- Octets of a frame from destination address to FCS. -/
def frameLen (f : EthFrame) : Nat := 18 + 4 * f.tags.length + f.payload.length + (if f.sec.isSome then 32 else 0)

/-- The address and tag filters of R352. -/
def Hw.ethFilter (h : Hw) (q : Nat) (f : EthFrame) : Bool :=
  let d := f.dst.toNat
  let okAddr := d == h.macAddr q || (d == macBroadcast && f.etype.toNat == h.etype q) || d == macGptp
  let pvid := h.fld VLAN_CFG q 11 0
  let okTag := match f.tags with
    | [] => !h.flag VLAN_CFG q 17
    | [t] => let v := t.toNat % 4096; if v = 0 then !h.flag VLAN_CFG q 17 else v == pvid
    | _ => false
  okAddr && okTag

/-- A received frame: checked, and accepted into the receive buffer or lost and counted. -/
def Hw.ethRx (h : Hw) (q : Nat) (f : EthFrame) : Hw :=
  if h.linkUp q = false ∨ h.flag MAC_CTRL q 0 = false then h
  else if f.fcsOk = false then h.inc RX_FCS_ERR_CNT q
  else if frameLen f < 64 ∨ h.maxFrame q < frameLen f ∨ h.plim q < f.payload.length then h.inc RX_LEN_ERR_CNT q
  else
    match h.msRx q f with
    | (h, .unprot) => h.inc MS_RX_UNPROT_DROP_CNT q
    | (h, .noSa) => h.inc MS_RX_NOSA_CNT q
    | (h, .notValid) => h.inc MS_RX_NOTVALID_CNT q
    | (h, .late) => h.inc MS_RX_LATE_DROP_CNT q
    | (h, .accept sec) =>
      if h.ethFilter q f = false then h.inc RX_FILTER_DROP_CNT q
      else if 65536 < ((h.eth q).rx.map RxFrame.len).sum + frameLen f then h.inc RX_OVF_DROP_CNT q
      else
        let r : RxFrame :=
          { src := f.src.toNat, etype := f.etype.toNat, payload := f.payload, len := frameLen f, secure := sec, dev := h.dev, ptp := h.ptpNs }
        (h.inc RX_FRAME_CNT q).updEth q fun e => { e with rx := e.rx ++ [r] }

/-- A frame arrives at a port. -/
def execEthFrameRx (q : Quad) (f : EthFrame) (s : State) : Out := s.onPort q fun h => h.ethRx q f

/-- Word i of a payload, in network byte order (R363). -/
def beWord (l : List Byte) (i : Nat) : Word := w32 (beNat ((l.drop (4 * i)).take 4))

/-- KIND of a Roene frame. -/
def roeneKind (l : List Byte) : Nat := bits (beWord l 0) 23 16

/-- Boot transfer (R373): its frames are never protected. -/
def bootKind (l : List Byte) : Bool := decide (0x10 ≤ roeneKind l) && decide (roeneKind l ≤ 0x14)

/-- REQs queued at a port, whether or not the engine has looked at them. -/
def EthSt.reqCount (e : EthSt) : Nat := (e.rcpIn.filter fun f => roeneKind f.payload == 1).length + e.reqs.length

/-- Event records that a REF frame carries. -/
def refCount (l : List Byte) : Nat := min (bits (beWord l 0) 15 0) ((l.length - 20) / 8)

/-- The oldest frame of the receive buffer is drained by its EtherType (R354, R363, R372). -/
def Hw.rxDispatch (h : Hw) (q : Nat) : Hw :=
  match (h.eth q).rx with
  | [] => h
  | f :: rest =>
    let h := h.updEth q fun e => { e with rx := rest }
    let w0 := beWord f.payload 0
    if f.etype = etGptp then
      (if 64 ≤ (h.eth q).fwq.length then h.inc FW_RX_DROP_CNT q else (h.updEth q fun e => { e with fwq := e.fwq ++ [f] }).irqWatch (8 + q))
    else if f.etype ≠ h.etype q ∨ bits w0 31 28 ≠ 1 then h.inc RX_FILTER_DROP_CNT q
    else if bits w0 27 24 = 1 then
      if bootKind f.payload then h.updEth q fun e => { e with rcpIn := e.rcpIn ++ [f] }
      else if h.flag RCP_CFG q 0 = false then h.inc RX_FILTER_DROP_CNT q
      else if h.flag RCP_CFG q 1 ∧ f.secure = false then h.inc MS_RX_UNPROT_DROP_CNT q
      else if roeneKind f.payload = 1 ∧ 16 ≤ (h.eth q).reqCount then h.inc RCP_WIN_DROP_CNT q
      else h.updEth q fun e => { e with rcpIn := e.rcpIn ++ [f] }
    else if bits w0 27 24 = 2 then
      if roeneKind f.payload ≠ 1 then h.inc RX_FILTER_DROP_CNT q
      else if h.flag REF_CFG q 2 ∧ f.secure = false then h.inc MS_RX_UNPROT_DROP_CNT q
      else
        let n := refCount f.payload
        let room := 2048 - ((h.eth q).refIn.map Prod.snd).sum
        let k := min n room
        (h.inc REF_IN_DROP_CNT q (n - k)).updEth q fun e => { e with refIn := e.refIn ++ [(f, k)] }
    else h.inc RX_FILTER_DROP_CNT q

/-- The receive buffer drains a frame. -/
def execRxDispatch (q : Quad) (s : State) : Out := s.onPort q fun h => h.rxDispatch q

/-! ### REF input (R375) -/

/-- Device time of an IN event: none for an event later than the frame's arrival. -/
def refTime (f : RxFrame) (inc ev : Nat) : Option Int :=
  if f.ptp < ev then none else some ((f.dev : Int) - (((f.ptp - ev) * 2 ^ 30 / inc : Nat) : Int))

/-- One IN record becomes a raw event on ingress port 8. -/
def Hw.refEvent (h : Hw) (q : Nat) (f : RxFrame) (i : Nat) : Hw :=
  let hi := (beWord f.payload (5 + 2 * i)).toNat
  let lo := beWord f.payload (6 + 2 * i)
  let base := (beWord f.payload 2).toNat * 2 ^ 32 + (beWord f.payload 3).toNat
  let inc := (h.reg PTP_INC).toNat
  let t : Hw × Int :=
    if h.flag REF_CFG q 3 then (h, (f.dev : Int))
    else match refTime f inc (base + 4 * bits lo 22 0) with
      | none => (h.inc REF_TS_FUTURE_CNT q, (f.dev : Int))
      | some d => if inc = 0 then let r := h.free; (r.2, (r.1.toNat : Int)) else (h, d)
  (t.1.inc REF_IN_EVT_CNT q).rawIn q { port := 8, id := hi / 2 ^ 8, pay := hi % 2 ^ 8 * 2 ^ 8 + bits lo 31 24, flags := bits lo 23 23, dt := t.2 }

/-- The oldest REF frame of the input FIFO becomes raw events; while IN_EN is 0 its events are dropped, and counted as those that find the FIFO full
are (log 126). -/
def Hw.refIn (h : Hw) (q : Nat) : Hw :=
  match (h.eth q).refIn with
  | [] => h
  | (f, n) :: rest =>
    let seq := (beWord f.payload 1).toNat
    let h := match (h.eth q).refRxSeq with
      | some l => if seq = (l + 1) % 2 ^ 32 then h else h.inc REF_IN_SEQ_GAP_CNT q
      | none => h
    let h := h.updEth q fun e => { e with refIn := rest, refRxSeq := some seq }
    if h.flag REF_CFG q 0 then (List.range n).foldl (fun h i => h.refEvent q f i) h else h.inc REF_IN_DROP_CNT q n

/-- A REF IN frame is taken. -/
def execRefInFrameRx (q : Quad) (s : State) : Out := s.onPort q fun h => h.refIn q

/-! ### Transmission (R355–R357) -/

/-- A source hands a frame to a transmit queue; while LINK is 0 it is discarded, and where the queue is full it waits (R351, R355). -/
def Hw.txPush (h : Hw) (q tq : Nat) (f : TxFrame) : Hw :=
  if h.linkUp q = false then h.inc TX_LINKDOWN_DROP_CNT q
  else
    let l := Tbl.get [] (h.eth q).tq tq
    if l.length < 32 ∧ ((h.eth q).txWait.any fun x => x.1 == tq) = false then
      h.updEth q fun e => { e with tq := Tbl.set [] e.tq tq (l ++ [f]) }
    else h.updEth q fun e => { e with txWait := e.txWait ++ [(tq, f)] }

/-- The queues that QMAP names. -/
def Hw.rcpQ (h : Hw) (q : Nat) : Nat := h.fld QMAP q 2 0
def Hw.refQ (h : Hw) (q : Nat) : Nat := h.fld QMAP q 6 4
def Hw.fwQ (h : Hw) (q : Nat) : Nat := h.fld QMAP q 10 8

/-- Most events of a REF frame (R374). -/
def Hw.refCap (h : Hw) (q : Nat) : Nat := min (max 1 (min 1122 (h.fld REF_CFG q 26 16))) ((h.plim q - 20) / 8)

/-- Payload of a REF-out frame (R374, R377). -/
def refPayload (seq : Nat) (step : Word) (base : Nat) (l : List Ev) : List Byte :=
  natBE 4 (0x12020000 + l.length % 65536) ++ natBE 4 seq ++ natBE 8 base ++ natBE 4 step.toNat ++
    l.flatMap fun e => natBE 4 e.addr.toNat ++ natBE 4 e.low.toNat

/-- Queue the REF-out frames that are due: full ones, and the rest of a step whose delivery has closed (R377), at most n. -/
def Hw.refPump (h : Hw) (q : Nat) : Nat → Hw
  | 0 => h
  | n + 1 =>
    let e := h.eth q
    match e.refOut with
    | [] => h
    | (st, base, _) :: _ =>
      let run := (e.refOut.takeWhile fun x => x.1 == st).length
      let run := if e.refShut = 0 then run else min run e.refShut
      let m := min run (h.refCap q)
      if m = 0 ∨ (e.refShut = 0 ∧ m < h.refCap q) ∨ 32 ≤ (Tbl.get [] e.tq (h.refQ q)).length then h
      else
        let f : TxFrame :=
          { kind := 1, dst := (h.reg REF_OUT_DST_LO q).toNat + h.fld REF_OUT_DST_HI q 15 0 * 2 ^ 32, etype := h.etype q
            payload := refPayload e.refTxSeq st base ((e.refOut.take m).map fun x => x.2.2), events := m }
        let h := h.updEth q fun e =>
          { e with refOut := e.refOut.drop m, refShut := e.refShut - m, refTxSeq := (e.refTxSeq + 1) % 2 ^ 32 }
        (h.txPush q (h.refQ q) f).refPump q n

/-- The link falls: counted and raised, and every queued transmit frame is discarded, those that waited
for room among them (R350, R351). -/
def Hw.linkFall (h : Hw) (q : Nat) : Hw :=
  if h.linkUp q then
    let h := (h.setFld ETH_STAT q 5 0 0).inc LINK_DOWN_CNT q
    let h := h.raisePort fEthLink q
    let e := h.eth q
    let n := e.txWait.length + (e.tq.map fun x => x.2.length).sum
    ((h.updEth q fun e => { e with tq := [], txWait := [] }).inc TX_LINKDOWN_DROP_CNT q n).refPump q 64
  else h

/-- A link falls. -/
def execLinkDown (q : Quad) (s : State) : Out := s.onPort q fun h => h.linkFall q

/-- An ordinal lies in an enabled tap range (R376). -/
def Hw.refTapped (h : Hw) (q ord : Nat) : Bool :=
  h.flag REF_CFG q 1 && (List.range 4).any fun r =>
    h.en (REF_TAP_LO r) q 31 && decide (h.fld (REF_TAP_LO r) q 17 0 ≤ ord) && decide (ord ≤ h.fld (REF_TAP_HI r) q 17 0)

/-- A matched event of cluster c is copied into the output buffer of the port that attaches there (R376). -/
def Hw.refTap (h : Hw) (c ord : Nat) (e : Ev) : Hw :=
  match ethAt c with
  | none => h
  | some q =>
    if h.refTapped q ord = false then h
    else if 4096 ≤ (h.eth q).refOut.length then h.inc REF_OUT_DROP_CNT q
    else (h.updEth q fun s => { s with refOut := s.refOut ++ [(h.stepNum - 1#32, h.ptpPrev, e)] }).refPump q 1

/-- Delivery closes: the step's last frames are queued. -/
def Hw.refClose (h : Hw) (q : Nat) : Hw := (h.updEth q fun e => { e with refShut := e.refOut.length }).refPump q 64

/-- Bytes of a frame on the wire, FCS aside, with the port's tag (R352). -/
def Hw.txBytes (h : Hw) (q tq : Nat) (f : TxFrame) : List Byte :=
  natBE 6 f.dst ++ natBE 6 (h.macAddr q) ++
    (if h.flag VLAN_CFG q 16 then natBE 4 (0x81000000 + tq * 2 ^ 13 + h.fld VLAN_CFG q 11 0) else []) ++ natBE 2 f.etype ++ f.payload

/-- A frame goes out protected (R360). -/
def Hw.txSecure (h : Hw) (q : Nat) (f : TxFrame) : Bool :=
  h.msTx q && !(f.etype == etGptp && h.flag MS_CTRL q 3) && !(f.kind == 0 && bootKind f.payload)

/-- Octets of a frame on the wire with FCS, padding and SecTAG. -/
def Hw.txLen (h : Hw) (q tq : Nat) (f : TxFrame) : Nat := max 60 ((h.txBytes q tq f).length + (if h.txSecure q f then 32 else 0)) + 4

/-- Time of a frame on the wire with preamble and gap, in ps. -/
def Hw.txPs (h : Hw) (q n : Nat) : Nat := (n + 20) * 8 * ([1000, 400, 200, 100].getD (h.fld ETH_STAT q 3 1) 1000)

/-- Entry i of gate list l; the low byte is stored inverted, so that an unwritten entry has every gate open. -/
def Hw.gcl (h : Hw) (q l i : Nat) : Word := h.tab .gcl q (128 * l + i) ^^^ 0xFF#32

/-- The operational list as gate states and durations in ps that fill one cycle (R356). -/
def fillCycle : Nat → List (Nat × Nat) → List (Nat × Nat)
  | left, [] => if left = 0 then [] else [(0xFF, left)]
  | left, [(g, _)] => if left = 0 then [] else [(g, left)]
  | left, (g, d) :: r => let m := min d left; (if m = 0 then [] else [(g, m)]) ++ fillCycle (left - m) r

def Hw.gateCycle (h : Hw) (q : Nat) : List (Nat × Nat) :=
  let g := (h.eth q).gates
  fillCycle (1000 * g.cycle) ((List.range (max 1 (min 128 g.len))).map fun i =>
    let w := h.gcl q (h.fld GCL_CTRL q 8 8) i
    (bits w 7 0, 1000 * bits w 31 8))

/-- Time that a gate stays open from an offset into a list; none if the list ends first. -/
def openFor (tq : Nat) : Nat → List (Nat × Nat) → Nat × Bool
  | _, [] => (0, true)
  | off, (g, d) :: r =>
    if d ≤ off then openFor tq (off - d) r
    else if g.testBit tq then let x := openFor tq 0 r; (d - off + x.1, x.2)
    else (0, false)

/-- Longest continuous open time of a gate over a list played twice. -/
def longestOpen (tq : Nat) (l : List (Nat × Nat)) : Nat :=
  (l.foldl (fun (a : Nat × Nat) x => if x.1.testBit tq then (a.1 + x.2, max a.2 (a.1 + x.2)) else (0, a.2)) (0, 0)).2

/-- QBV gating applies. -/
def Hw.qbv (h : Hw) (q : Nat) : Bool := h.flag GCL_CTRL q 0

/-- A frame of ps on the wire may start now from queue tq (R356). -/
def Hw.gateLets (h : Hw) (q tq ps : Nat) : Bool :=
  if h.qbv q = false then true
  else
    let g := (h.eth q).gates
    let l := h.gateCycle q
    let cyc := max 1 (1000 * g.cycle)
    let now := h.ptp * 1000 / 2 ^ 30
    if now < 1000 * g.base then false
    else
      let off := (now - 1000 * g.base) % cyc
      if (l.all fun x => x.1.testBit tq) then true else decide (ps ≤ (openFor tq off (l ++ l ++ l)).1)

/-- The head of a queue can never start. -/
def Hw.neverFits (h : Hw) (q tq ps : Nat) : Bool :=
  h.qbv q && (let l := h.gateCycle q; !(l.all fun x => x.1.testBit tq) && decide (longestOpen tq (l ++ l) < ps))

/-- The head frame of a queue leaves it, and one that waited takes its place. -/
def Hw.txPop (h : Hw) (q tq : Nat) : Hw :=
  let h := h.updEth q fun e =>
    let l := (Tbl.get [] e.tq tq).tail
    match e.txWait.find? fun x => x.1 == tq with
    | some x => { e with tq := Tbl.set [] e.tq tq (l ++ [x.2]), txWait := e.txWait.erase x }
    | none => { e with tq := Tbl.set [] e.tq tq l }
  h.refPump q 1

/-- The wire time in ps of the head of a queue. -/
def Hw.headPs (h : Hw) (q tq : Nat) : Nat := h.txPs q (h.txLen q tq ((Tbl.get [] (h.eth q).tq tq).headD {}))

/-- The frame that PCS loopback returns (R349). -/
def Hw.loopFrame (h : Hw) (q tq : Nat) (f : TxFrame) : EthFrame :=
  { fcsOk := true, dst := BitVec.ofNat 48 f.dst, src := BitVec.ofNat 48 (h.macAddr q)
    tags := if h.flag VLAN_CFG q 16 then [BitVec.ofNat 16 (tq * 2 ^ 13 + h.fld VLAN_CFG q 11 0)] else []
    sec := none, etype := BitVec.ofNat 16 f.etype
    payload := f.payload ++ List.replicate (46 - f.payload.length) 0#8 }

/-- A frame starts (R351, R356, R361): the wire is taken for its length, or the frame is discarded with PN exhausted. -/
def Hw.txStart (h : Hw) (q tq : Nat) (f : TxFrame) : Hw :=
  let ps := h.headPs q tq
  let bytes := h.txBytes q tq f
  let sec := h.txSecure q f
  let p : Hw × Option (Option Nat) := if sec then let r := h.msSend q; (r.1, r.2.map some) else (h, some none)
  match p with
  | (h, none) => (h.txPop q tq).inc MS_TX_PN_DROP_CNT q
  | (h, some pn) =>
    let h := (h.txPop q tq).updEth q fun e =>
      { e with txFree := h.dev + ceilDiv (ps * 4) 5000, stamps := if f.kind = 2 then e.stamps ++ [(h.dev, h.ptpNs)] else e.stamps }
    let h := ((h.irqWatch (12 + q)).inc TX_FRAME_CNT q).inc REF_OUT_EVT_CNT q f.events
    if h.flag PHY_CTRL q 6 then h.ethRx q (h.loopFrame q tq f)
    else match pn with
      | some pn => h.send (.secured q (h.fld MS_TX_AN q 1 0) pn bytes)
      | none => h.send (.frame q bytes)

/-- The port starts the next frame: heads that can never start are discarded, and the highest open queue whose head fits sends. -/
def Hw.txNext (h : Hw) (q : Nat) : Hw :=
  if h.linkUp q = false ∨ h.flag MAC_CTRL q 1 = false then h
  else
    let h := h.advTo (h.eth q).txFree
    let full (h : Hw) (t : Nat) : Bool := !(Tbl.get [] (h.eth q).tq t).isEmpty
    let tqs := [7, 6, 5, 4, 3, 2, 1, 0]
    let h := tqs.foldl (fun h t => if full h t && h.neverFits q t (h.headPs q t) then (h.txPop q t).inc TX_OVERSIZE_DROP_CNT q else h) h
    match tqs.find? fun t => full h t && h.gateLets q t (h.headPs q t) with
    | none => h
    | some t => match Tbl.get [] (h.eth q).tq t with
      | [] => h
      | f :: _ => h.txStart q t f

/-- A frame starts on a port. -/
def execTxFrameStart (q : Quad) (s : State) : Out := s.onPort q fun h => h.txNext q

/-- The instant at which a change written now takes effect (R357). -/
def Hw.gclInstant (h : Hw) (q : Nat) : Nat :=
  let base := (h.reg GCL_BASE_LO q).toNat + (h.reg GCL_BASE_HI q).toNat * 2 ^ 32
  let cyc := max 1 (h.fld GCL_CYCLE q 29 0)
  let g := (h.eth q).gates
  let now := h.ptpNs
  let op := max 1 g.cycle
  let endOp := if now < g.base then g.base else g.base + ceilDiv (now - g.base) op * op
  let t := max (now + 1000) endOp
  if t ≤ base then base else base + ceilDiv (t - base) cyc * cyc

/-- A write of GCL_CTRL: QBV_EN, and CHANGE, which replaces a pending change. -/
def Hw.gclWrite (h : Hw) (q : Nat) (v : Word) : Hw :=
  let h := h.setFlag GCL_CTRL q 0 (bit v 0)
  if bit v 1 then
    let g : Gates :=
      { base := (h.reg GCL_BASE_LO q).toNat + (h.reg GCL_BASE_HI q).toNat * 2 ^ 32, cycle := h.fld GCL_CYCLE q 29 0, len := h.fld GCL_LEN q 7 0 }
    (h.updEth q fun e => { e with change := some (h.gclInstant q, g) }).setFlag GCL_CTRL q 9 true
  else h

/-- The pending list becomes operational at its instant. -/
def Hw.gclSwitch (h : Hw) (q : Nat) : Hw :=
  match (h.eth q).change with
  | none => h
  | some (t, g) =>
    let h := (h.advToPtp t).updEth q fun e => { e with change := none, gates := g }
    (h.setFlag GCL_CTRL q 9 false).setFlag GCL_CTRL q 8 (!h.flag GCL_CTRL q 8)

/-- A gate list switch. -/
def execGclListSwitch (q : Quad) (s : State) : Out := s.onPort q fun h => h.gclSwitch q

/-! ### gPTP (R359) -/

/-- The oldest gPTP frame of port q is taken: the clock steps by what 802.1AS asks, and the answer, if any, goes out. -/
def Hw.takeGptp (h : Hw) (q : Nat) (adj : Int) (reply : Option (List Byte)) : Hw :=
  match (h.eth q).fwq with
  | [] => h
  | _ :: rest =>
    let h := (h.updEth q fun e => { e with fwq := rest }).ptpStep adj
    match reply with
    | some l => h.txPush q (h.fwQ q) { kind := 2, dst := macGptp, etype := etGptp, payload := l }
    | none => h

/-- MPq's firmware processes the oldest gPTP frame. -/
def execGptpFrame (q : Quad) (adj : BitVec 32) (reply : Option (List Byte)) (s : State) : Out := s.onHw fun h => h.takeGptp q adj.toInt reply

end Sys2Proof.Machine
end

