-- ==== Sys2Proof/Machine/Advance.lean ====
section
/-! DEFINITION. What every advance does, whoever calls for it (02 R68, 03 R92, R115, 06 R181, 08 R256, 09 R260, R265, 10 R298–R301, 11 R330,
13 R358). -/

namespace Sys2Proof.Machine

/-- PTP_STEP latches the PTP time of the advance (13 R358). -/
def Hw.latchPtpStep (h : Hw) : Hw :=
  let old := (h.reg PTP_STEP_LO).toNat + (h.reg PTP_STEP_HI).toNat * 2 ^ 32
  let n := h.ptpNs
  ({ h with ptpPrev := old }.setReg PTP_STEP_LO 0 (w32 n)).setReg PTP_STEP_HI 0 (w32 (n / 2 ^ 32))

/-- EPOCH_STAT.POS advances; after the last step it returns to 0, EPOCH_NUM increments, and source 2 fires with the step mark (09 R260,
11 R327). -/
def Hw.epochAdvance (h : Hw) : Hw :=
  if h.lastStep then
    ((h.setFld EPOCH_STAT 0 9 0 0).setReg EPOCH_NUM 0 (h.reg EPOCH_NUM + 1#32)).fire 2
  else h.setFld EPOCH_STAT 0 9 0 (h.fld EPOCH_STAT 0 9 0 + 1)

/-- The bins of the step close: floods are judged, limiters refill and the merge banks swap in every quadrant, and the injection slots offer
(10 R298–R301, 11 R330). -/
def Hw.closeBins (h : Hw) : Hw :=
  let h := (List.range 4).foldl (fun h q => ((h.floodDetect q).refill q).bankSwap q) h
  h.injOffer

/-- The frame sequence starts at entry 0, and the lanes hold nothing of the step before (06 R181). -/
def Hw.rewindFrames (h : Hw) : Hw :=
  h.clusters.foldl (fun h p =>
    if p.2.slot = 0 ∧ p.2.lanes = [] ∧ p.2.idleFrame = none then h
    else h.updCl p.1 fun v => { v with slot := 0, lanes := [], idleFrame := none }) h

/-- At an advance the list RT_CTRL.FSEQ_BANK selects comes into use (06 R181). -/
def Hw.restartFrames (h : Hw) : Hw :=
  (List.range 64).foldl (fun h c =>
    let f := h.fld RT_CTRL c 0 0
    if (h.cl c).fseq = f then h else h.updCl c fun v => { v with fseq := f }) h.rewindFrames

/-- Queued parameter-set commits of every core are applied in order (03 R92). -/
def Hw.psetApplyAll (h : Hw) : Hw :=
  h.cores.foldl (fun h p =>
    if p.2.psetq = [] then h
    else
      let h := p.2.psetq.foldl (fun h e => h.writePset p.1 e.set 0 e.words) h
      h.updCore p.1 fun c => { c with psetq := [], quiet := false }) h

/-- Queued dense descriptors and DENSE_BINQ values take effect (08 R256). -/
def Hw.dlApplyAll (h : Hw) : Hw :=
  h.cores.foldl (fun h p => if p.2.dlq = [] ∧ p.2.binq = none then h else h.dlApply p.1) h

/-- Steps 1, 2, 3, 5 and 6 of the advance, with the epoch position (02 R68, 16 R438). The ring slot is STEP_NUM mod 16. -/
def Hw.advanceCore (h : Hw) : Hw :=
  let h := h.closeBins
  let h := h.epochAdvance
  let h := h.setReg STEP_NUM 0 (h.stepNum + 1#32)
  (((h.latchPtpStep).restartFrames).fire 1).stepTicks

/-- Everything that waits for an advance takes effect. -/
def Hw.advanceApply (h : Hw) : Hw :=
  let h := (h.psetApplyAll).dlApplyAll
  let h := (List.range 64).foldl (fun h c => (h.remapPageApply c).remapApply c) h
  h.clusters.foldl (fun h p => if p.2.mods = [] then h else h.modDecay p.1) h

/-- The outage of every recovery that RESTORING no longer covers ends with the first step that starts (17 R469). -/
def Hw.endOutages (h : Hw) : Hw :=
  if h.flt.outages = [] ∨ h.flag FLT_STAT 0 1 then h
  else
    let n := (h.flt.outages.map fun t => (h.dev - t) / us).sum
    { h.inc OUTAGE_US_CNT 0 n with flt := { h.flt with outages := [] } }

/-- A step starts at an instant with its delivery phase. -/
def Hw.startStep (h : Hw) (t : Nat) : Hw :=
  (h.endOutages).setStep { phase := .delivery, start := t }

end Sys2Proof.Machine
end

