-- ==== Sys2Proof/Machine/Lookup.lean ====
section
/-! DEFINITION. The entry-table lookup and what a match does: offers, traces, modulators, actuators and taps (05 R147–R149, R162). -/

namespace Sys2Proof.Machine

/-- An offer of the trigger ordinal marks the core's dense list to run (08 R238). -/
def Hw.denseTrigger (h : Hw) (k ord : Nat) : Hw :=
  if h.coreAvail k ∧ h.flag DENSE_TRIG_ORD k 31 ∧ h.fld DENSE_TRIG_ORD k 17 0 = ord then h.updCore k fun c => { c with triggered := true } else h

/-- A matched event goes to the modulators, the pre-trace queue, the actuators at Q0:C0, the taps, and the cores of its groups (R149). -/
def Hw.matched (h : Hw) (c ord : Nat) (ks : List Nat) (a : Arrival) : Hw :=
  let pay := bits a.ev.low 23 8
  let h := (h.modInput c ord pay).preQueue c ord a
  let h := if c = 0 then h.actAccumulate ord pay else h
  let h := h.refTap c ord a.ev
  let n := (h.cl c).looked
  let h := h.updCl c fun v => { v with looked := n + 1 }
  ks.foldl (fun h k => (h.denseTrigger k ord).offerCore k { ord := ord, arr := a, seq := n }) h

/-- The event at the head of the lookup queue is looked up (R147): a miss is dropped and raised; a drip event with a full list queue
ahead of it waits (R149). -/
def Hw.lookupHead (h : Hw) (c : Nat) : Hw :=
  match (h.cl c).lookq with
  | [] => h
  | a :: rest =>
    let r := h.lookup c a.ev.addr
    match r.2 with
    | none => ((r.1.updCl c fun v => { v with lookq := rest }).inc LOOKUP_MISS_CNT c).raiseQCl fEntryMiss c
    | some e =>
      let ks := groupCores c (bits e 12 5)
      if a.fabric = false ∧ r.1.offerBlocked ks then h
      else (r.1.updCl c fun v => { v with lookq := rest }).matched c (bits e 30 13) ks a

/-- One lookup; a BUSY on port B puts it off (R162). -/
def Hw.entryLookup (h : Hw) (c : Nat) (busy : Bool) : Hw :=
  if (h.cl c).avail = false ∨ (h.cl c).lookq = [] ∨ (h.cl c).retry.contains .lookup then h
  else if busy then h.updCl c fun v => { v with retry := v.retry ++ [.lookup] }
  else h.lookupHead c

/-- The lookup engine takes an event. -/
def execEntryLookup (c : Cluster) (busy : Bool) (s : State) : Out := s.onHw fun h => h.entryLookup c busy

/-- The place of a requester in the priority of port B (R160). -/
def PortB.rank : PortB → Nat
  | .lookup => 0 | .preTrace => 1 | .scrub _ => 2 | .window _ _ _ => 3

/-- The access to repeat first: the oldest of the requester of the highest priority. -/
def nextRetry (l : List PortB) : Option PortB := [0, 1, 2, 3].findSome? fun i => l.find? fun p => p.rank == i

/-- An access of the cluster that received BUSY is repeated in the cycle it wins port B (R160, R162). -/
def Hw.portBRetry (h : Hw) (c : Nat) : Hw :=
  match nextRetry (h.cl c).retry with
  | none => h
  | some p =>
    let h := h.updCl c fun v => { v with retry := v.retry.erase p }
    match p with
    | .window b off w => h.setWord (bankBase c b + off) w
    | .lookup => if (h.cl c).avail then h.lookupHead c else h
    | .scrub b => h.scrubBank c b false false
    | .preTrace => h.preWrite c

/-- A port-B access that received BUSY is repeated. -/
def execPortBRetry (c : Cluster) (s : State) : Out := s.onHw fun h => h.portBRetry c

end Sys2Proof.Machine
end

