-- ==== Sys2Proof/Machine/Link.lean ====
section
/-! DEFINITION. Saune-D calibration, Saune-C links, relays and barrier tokens (07 R221, 14 R394–R402, 02 R75–R77). -/

namespace Sys2Proof.Machine

/-! ### Saune-D (R394) -/

/-- A set bit's number of a 4-bit mask, lowest first. -/
def laneBits (m : Nat) : List Nat := (List.range 4).filter fun i => m.testBit i

/-- Calibration of edge e of quadrant q, once after RESET_N: the first failing lane is replaced by the spare; any further one is unusable, and
firmware asks for a reload of what uses the quadrant. -/
def Hw.sdEdge (h : Hw) (q e fails : Nat) : Hw :=
  if h.flag SD_STAT q (8 * e) then h
  else
  let l := laneBits fails
  let bad := (l.drop 1).foldl (fun a i => a + 2 ^ i) 0
  let h := h.setFld SD_STAT q (8 * e + 7) (8 * e) (1 + 2 * b2n (!l.isEmpty) + 4 * bad)
  let h := if l.isEmpty then h else h.inc SD_CAL_CNT q
  if bad = 0 then h else (h.raiseQ fSdLane q e).askReload ((List.range 16).map fun c => 16 * q + c)

/-- Saune-D of a quadrant is calibrated. -/
def execSdCalibration (q : Quad) (fail0 fail1 : BitVec 4) (s : State) : Out :=
  s.onHw fun h => (h.sdEdge q 0 fail0.toNat).sdEdge q 1 fail1.toNat

/-! ### Directions and the tree (R402, 02 R75) -/

/-- The links of a direction. -/
def dirLinks : Dir → List Nat
  | .north => [0, 2]
  | .east => [3, 6]
  | .south => [5, 7]
  | .west => [1, 4]

/-- The direction of a link. -/
def linkDir (k : Nat) : Dir := if k = 0 ∨ k = 2 then .north else if k = 3 ∨ k = 6 then .east else if k = 5 ∨ k = 7 then .south else .west

/-- The neighbour's link that pairs with link k. -/
def peerLink (k : Nat) : Nat := [5, 3, 7, 1, 6, 0, 4, 2].getD k 0

/-- TOPO_POS's fields: X, Y, columns and rows. -/
def Hw.topoX (h : Hw) : Nat := h.fld TOPO_POS 0 1 0
def Hw.topoY (h : Hw) : Nat := h.fld TOPO_POS 0 5 4
def Hw.topoCols (h : Hw) : Nat := h.fld TOPO_POS 0 9 8 + 1
def Hw.topoRows (h : Hw) : Nat := h.fld TOPO_POS 0 13 12 + 1

/-- The package number of the neighbour in a direction; none in a dimension of size 1. -/
def Hw.neighbourPkg (h : Hw) (d : Dir) : Option Nat :=
  let x := h.topoX
  let y := h.topoY
  let c := h.topoCols
  let r := h.topoRows
  match d with
  | .north => if r = 1 then none else some (4 * ((y + r - 1) % r) + x)
  | .south => if r = 1 then none else some (4 * ((y + 1) % r) + x)
  | .west => if c = 1 then none else some (4 * y + (x + c - 1) % c)
  | .east => if c = 1 then none else some (4 * y + (x + 1) % c)

/-- The direction from package (x, y) towards P0: along its row to column 0 the shorter way, then along column 0; west and north where
both ways are as long. -/
def treeUp (x y cols rows : Nat) : Option Dir :=
  if x ≠ 0 then some (if x ≤ cols - x then .west else .east)
  else if y ≠ 0 then some (if y ≤ rows - y then .north else .south)
  else none

/-- This package's direction towards P0. -/
def Hw.treeParent (h : Hw) : Option Dir := if h.arrayEn then treeUp h.topoX h.topoY h.topoCols h.topoRows else none

/-- The directions of the packages just below this one. -/
def Hw.treeChildren (h : Hw) : List Dir :=
  if h.arrayEn = false then []
  else [Dir.north, .east, .south, .west].filter fun d =>
    match h.neighbourPkg d with
    | none => false
    | some p => treeUp (p % 4) (p / 4) h.topoCols h.topoRows == some d.opp

/-- A link carries tokens. -/
def Hw.scUp (h : Hw) (k : Nat) : Bool := decide (h.scState k = 2) && !(h.link k).wrong

/-- Send a token over every link of a direction that is UP (R399), twice as R397 says the link does. -/
def Hw.sendToken (h : Hw) (d : Dir) (type : Nat) (tag : Nat) : Hw :=
  ((dirLinks d).filter h.scUp).foldl (fun h k => h.send (.token k type tag)) h

/-- A child direction counts as present: a token has come over one of its links, or no link of it reaches an available package (R399, R400). -/
def Hw.childIn (h : Hw) (tok : Nat) (d : Dir) : Bool := (dirLinks d).any (fun k => tok.testBit k) || (dirLinks d).all fun k => !h.scOpen k

/-- Every package below has reported DONE, or DQUIET. -/
def Hw.childrenDone (h : Hw) : Bool := h.treeChildren.all (h.childIn h.step.doneTok)
def Hw.childrenQuiet (h : Hw) : Bool := h.treeChildren.all (h.childIn h.step.quietTok)

/-- STEP_NUM[3:0]. -/
def Hw.stepTag (h : Hw) : Nat := h.stepNum.toNat % 16

/-- MARK_ALIGN. -/
def Hw.markAlign (h : Hw) : Nat := if h.arrayEn then h.fld MARK_ALIGN 0 15 0 else 0

/-! ### Barrier tokens (02 R75–R77, R397) -/

/-- Take a token: a repeated copy is ignored, a stale one counted; one that comes while the package is in no array is as stale (DESIGN
CHOICE, log 121). -/
def Hw.takeToken (h : Hw) (k type tag : Nat) (f : Hw → Hw) : Hw :=
  if h.scUp k = false ∨ (h.link k).lastTok = some (type, tag) then h
  else
    let h := h.updLink k fun l => { l with lastTok := some (type, tag) }
    if h.arrayEn = false ∨ tag ≠ h.stepTag then h.inc TOKEN_STALE_CNT else f h

/-- A set bit in a mask. -/
def orBit (m k : Nat) : Nat := m ||| 2 ^ k

/-- DONE from below. -/
def Hw.tokenDone (h : Hw) (k tag : Nat) : Hw := h.takeToken k 1 tag fun h => h.updStep fun s => { s with doneTok := orBit s.doneTok k }

/-- DQUIET from below. -/
def Hw.tokenDquiet (h : Hw) (k tag : Nat) : Hw := h.takeToken k 2 tag fun h => h.updStep fun s => { s with quietTok := orBit s.quietTok k }

/-- A package below receives the token that came from above. -/
def Hw.forward (h : Hw) (type tag : Nat) : Hw := h.treeChildren.foldl (fun h d => h.sendToken d type tag) h

/-- After a POUR its sender places the number of the step being entered in STEPB, on every link that takes the token down (R401). -/
def Hw.sendStepNum (h : Hw) (n : Word) : Hw :=
  (h.treeChildren.flatMap fun d => (dirLinks d).filter h.scUp).foldl (fun h k => h.send (.stepb k n)) h

/-- A link is prepared to rejoin (R401). -/
def Hw.rejoining (h : Hw) : Bool := (List.range 8).any fun k => h.flag SC_CTRL k 2

/-- The first complete STEP_NUM after a POUR: the package takes it, sets UA = 1 and begins the step with its delivery phase at that
POUR's advance (R401). -/
def Hw.tryRejoin (h : Hw) (k : Nat) : Hw :=
  match h.step.rejoinAt with
  | none => h
  | some t =>
    let l := (h.link k).stepb
    let byte (i : Nat) : Option Nat := (l.find? fun x => x.1 == i).map Prod.snd
    match byte 0, byte 1, byte 2, byte 3 with
    | some a, some b, some c, some d =>
      if h.someResident = false then h
      else
        let h := h.advTo (t + h.markAlign)
        let n := w32 (a + b * 2 ^ 8 + c * 2 ^ 16 + d * 2 ^ 24)
        let h := (h.setReg STEP_NUM 0 n).sendStepNum n
        let h := (List.range 8).foldl (fun h k => h.setFlag SC_CTRL k 2 false) { h with uaHold := false }
        (h.joinUnits.restartFrames).startStep (t + h.markAlign)
    | _, _, _, _ => h

/-- POUR from above: passed on with the step's number; the package advances MARK_ALIGN cycles later (R76), or begins to rejoin. The first
copy counts, over whichever link of the direction it comes (R397). -/
def Hw.tokenPour (h : Hw) (k tag : Nat) : Hw :=
  if h.arrayEn ∧ h.rejoining ∧ h.step.phase = .idle then
    if h.scUp k = false ∨ (h.link k).lastTok = some (3, tag) then h
    else
      let again := h.links.any fun p => p.2.lastTok == some (3, tag)
      let h := h.updLink k fun l => { l with lastTok := some (3, tag), stepb := [] }
      if again then h else (h.forward 3 tag).updStep fun s => { s with rejoinAt := some h.dev }
  else h.takeToken k 3 tag fun h =>
    if h.step.pourTok.isSome then h
    else ((h.forward 3 tag).sendStepNum (h.stepNum + 1#32)).updStep fun s => { s with pourTok := some h.dev }

/-- DCLOSE from above; the first copy counts. -/
def Hw.tokenDclose (h : Hw) (k tag : Nat) : Hw :=
  h.takeToken k 4 tag fun h =>
    if h.step.dcloseTok.isSome then h else (h.forward 4 tag).updStep fun s => { s with dcloseTok := some h.dev }

/-- A DONE token arrives. -/
def execTokenDoneRx (k : Link) (tag : BitVec 4) (s : State) : Out := s.onHw fun h => h.tokenDone k tag.toNat

/-- A DQUIET token arrives. -/
def execTokenDquietRx (k : Link) (tag : BitVec 4) (s : State) : Out := s.onHw fun h => h.tokenDquiet k tag.toNat

/-- A POUR token arrives. -/
def execTokenPourRx (k : Link) (tag : BitVec 4) (s : State) : Out := s.onHw fun h => h.tokenPour k tag.toNat

/-- A DCLOSE token arrives. -/
def execTokenDcloseRx (k : Link) (tag : BitVec 4) (s : State) : Out := s.onHw fun h => h.tokenDclose k tag.toNat

/-- A barrier token of a block. -/
def Hw.token (h : Hw) (k type tag : Nat) : Hw :=
  match type with
  | 1 => h.tokenDone k tag
  | 2 => h.tokenDquiet k tag
  | 3 => h.tokenPour k tag
  | 4 => h.tokenDclose k tag
  | _ => h

/-! ### Groups (R395–R397) -/

/-- The peer's UA. -/
def Hw.uaChange (h : Hw) (k : Nat) (ua : Bool) : Hw := h.setFlag SC_STAT k 2 ua

/-- The peer's UA bit changes. -/
def execScUaChange (k : Link) (ua : Bool) (s : State) : Out := s.onHw fun h => h.uaChange k ua

/-- A drip flit from the link: a whole packet waits to enter the package, or is discarded if a flit of it was lost (R397) or the relay has no
room for it, which a peer that keeps to its credits never makes happen (07 R221). -/
def Hw.scDrip (h : Hw) (k vc : Nat) (f : DFlit) (lost : Bool) : Hw :=
  let l := h.link k
  let r := assemble (Tbl.get [] l.innAsm vc) [] f
  let bad := lost || Tbl.get false l.lost vc
  let whole := !r.2.isEmpty
  let h := h.updLink k fun l => { l with innAsm := Tbl.set [] l.innAsm vc r.1, lost := Tbl.set false l.lost vc (bad && !whole) }
  if whole = false then h
  else if bad || decide (64 ≤ (if vc = 0 then l.inn else l.innRsp).length) then h.inc SC_DRIP_LOSS_CNT k
  else h.updLink k fun l => if vc = 0 then { l with inn := l.inn ++ r.2 } else { l with innRsp := l.innRsp ++ r.2 }

/-- Credits that a cumulative count modulo 16 adds to the count received before (R395). -/
def credits (old new : Nat) : Nat := (new + 16 - old) % 16

/-- The peer's relay has passed packets on (R395, R397, 07 R221). -/
def Hw.scCredits (h : Hw) (k crq crs : Nat) : Hw :=
  h.updLink k fun l =>
    { l with credQ := min 64 (l.credQ + credits l.crq crq), credS := min 64 (l.credS + credits l.crs crs), crq := crq, crs := crs }

/-- The content of one payload block that arrives whole. A scheduled flit of a link that carries none, or too late for its slot, is lost and
counted with the link's lost flits (DESIGN CHOICE, log 121). -/
def Hw.scBlock (h : Hw) (k : Nat) (b : ScBlock) : Hw :=
  let c := scCluster k
  let h := match b.sch with
    | some (sent, a, lo) =>
      let slot := sent + 3 + h.dSc
      if h.flag FAB_STAT 0 k ∨ slot < (h.cl c).slot then h.inc SC_SCH_LOSS_CNT k
      else h.updCl c fun v => { v with lanes := Tbl.put v.lanes (laneKey slot 16) { addr := h.addrIn a, low := lo } }
    | none => h
  let h := match b.drip with
    | some (w, rsp, bad) => h.scDrip k (b2n rsp) ⟨w, bad⟩ false
    | none => h
  let h := h.scCredits k b.crq.toNat b.crs.toNat
  let h := if h.flag SC_STAT k 2 = b.ua then h else h.uaChange k b.ua
  let h := match b.tok with
    | some (t, g) => h.token k t g.toNat
    | none => h
  match b.stepb with
  | some (i, v) =>
    let h := h.updLink k fun l => { l with stepb := (l.stepb.filter fun x => x.1 != i.val) ++ [(i.val, v.toNat)] }
    h.tryRejoin k
  | none => h

/-- What a lost block held: its scheduled flits become EMPTY, and its drip packets are lost (R397). -/
def Hw.scLost (h : Hw) (k : Nat) (b : ScBlock) : Hw :=
  let h := if b.sch.isSome then h.inc SC_SCH_LOSS_CNT k else h
  match b.drip with
  | some (w, rsp, bad) => h.scDrip k (b2n rsp) ⟨w, bad⟩ true
  | none => h

/-- A group of eight blocks arrives; `fec` is 1 for one corrected and 2 for one that cannot be. -/
def Hw.scGroup (h : Hw) (k fec : Nat) (bs : List ScBlock) : Hw :=
  if h.scUp k = false then h
  else if fec = 2 then ((bs.take 5).foldl (fun h b => h.scLost k b) (h.inc SC_FEC_UE_CNT k)).raiseLink fScFecUe k
  else (bs.take 5).foldl (fun h b => h.scBlock k b) (if fec = 1 then h.inc SC_FEC_CE_CNT k else h)

/-- A Saune-C group arrives. -/
def execScGroupRx (k : Link) (fec : Fin 3) (blocks : List ScBlock) (s : State) : Out := s.onHw fun h => h.scGroup k fec blocks

/-! ### The relay (07 R221, R229) -/

/-- Events that an EVT packet carries. -/
def evtCount (p : List DFlit) : Nat := pLen (flitW p 0) / 2

/-- A packet with another header word. -/
def reHead (w : Word) : List DFlit → List DFlit
  | [] => []
  | f :: r => { f with w := w } :: r

/-- Rewrite the addresses of an EVT packet's events, but for flits that cannot be read. -/
def mapAddrs (f : Word → Word) : List DFlit → List DFlit
  | a :: lo :: r => (if a.bad then a else { a with w := f a.w }) :: lo :: mapAddrs f r
  | l => l

/-- The events of an EVT packet's payload whose address flit can be read and is no good (01 R30). -/
def Hw.badEvents (h : Hw) : List DFlit → List DFlit × Nat
  | a :: lo :: r =>
    let x := h.badEvents r
    if a.bad = false ∧ h.addrBad a.w then (x.1, x.2 + 1) else (a :: lo :: x.1, x.2)
  | l => (l, 0)

/-- A packet crosses a link whose peer's relay has room for it. -/
def Hw.relaySend (h : Hw) (k : Nat) (rsp : Bool) (p : List DFlit) : Hw :=
  (h.updLink k fun l => if rsp then { l with credS := l.credS - 1 } else { l with credQ := l.credQ - 1 }).send (.drip k p)

/-- The oldest REQ packet at a relay crosses its link, its tag rewritten; towards an unavailable peer it is discarded and counted, and a
message or a request is refused (R221, 14 R399, R400). -/
def Hw.relayOutReq (h : Hw) (k : Nat) (p : List DFlit) (rest : List (List DFlit)) : Hw :=
  let pop (h : Hw) : Hw := h.updLink k fun l => { l with out := rest }
  let c := scCluster k
  let w := flitW p 0
  let t := pType w
  let tree := t = tEVT ∨ t = tCFG
  let x := h.tab .xtag c (pScl w * 256 + pDest w)
  if h.scOpen k = false then
    let h := pop h
    if t = tEVT then (h.inc SC_UNAVAIL_DROP_CNT k (evtCount p)).dripMoved
    else if t = tCFG then h.inc CFG_REJ_CNT c
    else
      let h := h.inc SC_UNAVAIL_DROP_CNT k
      if t = tCTLQ ∨ bits (flitW p 2) 15 14 = 0 ∨ bits (flitW p 2) 15 14 = 1 then h.sendCtls c (flitW p 1) opNAK nUNREACH 0 0 0 else h
  else if tree ∧ bit x 8 = false then ((pop h).inc DRIP_TREE_ERR_CNT c).dripMoved
  else if (h.link k).credQ = 0 then h
  else if tree then
    (pop h).dripMoved.relaySend k false (reHead (setBits w 14 7 (bits x 7 0)) (if t = tEVT then p.take 1 ++ mapAddrs h.addrOut p.tail else p))
  else (pop h).relaySend k false p

/-- The oldest packet at a relay crosses its link, RSP before REQ (R204); an answer to an unavailable peer is lost and counted. -/
def Hw.relayOut (h : Hw) (k : Nat) : Hw :=
  match (h.link k).outRsp, (h.link k).out with
  | p :: rest, _ =>
    if h.scOpen k = false then (h.updLink k fun l => { l with outRsp := rest }).inc DRIP_UNREACH_CNT (scCluster k)
    else if (h.link k).credS = 0 then h
    else (h.updLink k fun l => { l with outRsp := rest }).relaySend k true p
  | [], p :: rest => h.relayOutReq k p rest
  | [], [] => h

/-- A CFG packet may pass a relay (R229). -/
def cfgPasses (w : Word) : Bool := decide (pEp w = 33) || pRly w

/-- An EVT packet whose tag has been rewritten leaves endpoint 35, once its windows are free and no packet of the endpoint waits (R212);
events with a bad address go no further (01 R30). -/
def Hw.relayEvt (h : Hw) (k : Nat) (p : List DFlit) (pop : Hw → Hw) (d : Nat) : Hw :=
  let c := scCluster k
  let e := 64 * c + 35
  let ds := h.destClusters c d
  let x := h.badEvents (mapAddrs h.addrIn p.tail)
  if x.1 = [] then (pop h).dripMoved.inc ADDR_DEPTH_ERR_CNT c x.2
  else if (h.ep e).txq ≠ [] then h
  else if h.windowsFree e ds = false then h.waitOn WIN_STALL_CNT e 1
  else
    let h := h.waitOff WIN_STALL_CNT e
    if h.mayStart c (1 + x.1.length) = false then h
    else
      let h := (pop h).dripMoved.updEp e fun s => { s with sent := s.sent ++ ds.map fun d => ⟨d, true, pStep (flitW p 0), h.dev⟩ }
      let h := (if x.2 = 0 then h else h.inc ADDR_DEPTH_ERR_CNT c x.2).inc DRIP_EVT_OUT_CNT c (x.1.length / 2)
      h.inject c 0 (⟨treeHdr tEVT x.1.length (pStep (flitW p 0)) 35 d c false, false⟩ :: x.1)

/-- The oldest REQ packet from the link enters the package as endpoint 35's: its tag is rewritten; an EVT packet waits for its windows. -/
def Hw.relayInReq (h : Hw) (k : Nat) (p : List DFlit) (rest : List (List DFlit)) : Hw :=
  let c := scCluster k
  let e := 64 * c + 35
  let w := flitW p 0
  let t := pType w
  let pop (h : Hw) : Hw := h.updLink k fun l => { l with inn := rest, retQ := l.retQ + 1 }
  if t = tEVT ∨ t = tCFG then
    let x := h.tab .itag c (pDest w)
    if bit x 8 = false then ((pop h).inc DRIP_TREE_ERR_CNT c).dripMoved
    else if t = tEVT then h.relayEvt k p pop (bits x 7 0)
    else if cfgPasses w = false then (pop h).inc CFG_REJ_CNT c
    else (pop h).sendReqFlits e (reHead (treeHdr t (pLen w) 0 35 (bits x 7 0) c true) p) (h.destClusters c (bits x 7 0))
  else (pop h).sendReqFlits e p (h.uniDest c (pDpkg w) (pDcl w)).toList

/-- The oldest packet from the link enters the package, RSP before REQ (R204). -/
def Hw.relayIn (h : Hw) (k : Nat) : Hw :=
  match (h.link k).innRsp, (h.link k).inn with
  | p :: rest, _ => (h.updLink k fun l => { l with innRsp := rest, retS := l.retS + 1 }).sendRspFlits (scCluster k) p
  | [], p :: rest => h.relayInReq k p rest
  | [], [] => h

/-- A relay passes a packet on, out of the package or into it. -/
def execRelayForward (k : Link) (inward : Bool) (s : State) : Out := s.onHw fun h => if inward then h.relayIn k else h.relayOut k

/-! ### Training and states (R398, R402) -/

/-- A link that TOPO_POS leaves without a neighbour stays in RESET. -/
def Hw.scCabled (h : Hw) (k : Nat) : Bool := !h.arrayEn || (h.neighbourPkg (linkDir k)).isSome

/-- SC_CTRL.TRAIN puts the link into TRAIN; without FEAT_SAUNE it stays in RESET and the licence violation is raised (00 R4). -/
def Hw.scTrain (h : Hw) (k : Nat) : Hw :=
  if h.lic 1 = false then h.raisePkg fLicence
  else if h.scCabled k then (h.setFld SC_STAT k 1 0 1).pllStart (12 + k / 2)
  else h

/-- FAB_STAT shows whether a link's trained latency exceeds D_SC; a link that comes to exceed it is raised (06 R185, R198). -/
def Hw.judgeLatency (h : Hw) (k : Nat) : Hw :=
  let over_ := decide (h.scState k = 2) && decide (h.dSc < h.fld SC_STAT k 24 16)
  let was := h.flag FAB_STAT 0 k
  let h := h.setFlag FAB_STAT 0 k over_
  if over_ && !was then h.raiseLink fScLatOver k else h

/-- A write of FAB_SC_DELAY compares every link again. -/
def Hw.judgeLatencies (h : Hw) : Hw := (List.range 8).foldl (fun h k => h.judgeLatency k) h

/-- Training completes: the link is UP with its peer and latency; a latency above D_SC, and a peer other than the topology's, are raised. -/
def Hw.scTrained (h : Hw) (k pkg peer lat : Nat) (rev : Bool) (pol : Nat) : Hw :=
  if h.scState k ≠ 1 ∨ h.pllLocked (12 + k / 2) = false then h
  else
    let h := (((h.setFld SC_STAT k 1 0 2).setFlag SC_STAT k 4 rev).setFld SC_STAT k 8 5 pol).setFld SC_STAT k 24 16 lat
    let h := (h.setReg SC_PEER k (w32 (pkg % 16 + peer % 8 * 16 + 256))).inc SC_RETRAIN_CNT k
    let h := (h.setFlag FAB_STAT 0 k false).judgeLatency k
    let bad := h.arrayEn && !(decide (h.neighbourPkg (linkDir k) = some pkg) && decide (peerLink k = peer))
    let h := h.updLink k fun l =>
      { l with wrong := bad, lastTok := none, stepb := [], credQ := 64, credS := 64, retQ := 0, retS := 0, crq := 0, crs := 0 }
    if bad then h.raiseLink fScTopo k else h

/-- Training of a link completes. -/
def execScTrainingComplete (k : Link) (pkg : Fin 16) (peer : Link) (lat : BitVec 9) (rev : Bool) (pol : BitVec 4) (s : State) : Out :=
  s.onHw fun h => h.scTrained k pkg peer lat.toNat rev pol.toNat

/-- Block lock is lost for more than 1 µs: DOWN, counted and raised; with AUTO_RETRAIN the link trains at once. -/
def Hw.scLose (h : Hw) (k : Nat) : Hw :=
  if h.scState k ≠ 2 then h
  else
    let h := ((h.setFld SC_STAT k 1 0 3).inc SC_LINK_DOWN_CNT k).raiseLink fScLinkDown k
    let h := h.updLink k fun l => { l with innAsm := [], lost := [], inn := l.inn, stepb := [] }
    if h.flag SC_CTRL k 1 ∧ h.lic 1 then (h.setFld SC_STAT k 1 0 1).pllStart (12 + k / 2) else h.pllDrop (12 + k / 2)

/-- A link loses block lock. -/
def execScBlockLockLoss (k : Link) (s : State) : Out := s.onHw fun h => h.scLose k

/-- Power-on and RESET_N put every link into RESET (R398). -/
def Hw.scReset (h : Hw) : Hw := { (List.range 8).foldl (fun h k => (h.setReg SC_STAT k 0#32).setReg SC_PEER k 0#32) h with links := [] }

end Sys2Proof.Machine
end

