-- ==== Sys2Proof/Machine/Power.lean ====
section
/-! DEFINITION. Power states, regulators and clocks of clusters and of the package (15 R409–R428). -/

namespace Sys2Proof.Machine

/-! ### Regulators (R410–R412) -/

/-- The CL_VTRIM code present on the way to the code written: one code per microsecond (R410). -/
def Hw.vPresent (h : Hw) (c : Nat) : Nat :=
  let v := h.cl c
  let t := h.fld CL_VTRIM c 5 0
  let n := (h.dev - v.vAt) / us
  if v.vFrom ≤ t then min t (v.vFrom + n) else max t (v.vFrom - n)

/-- A CL_VTRIM write: codes above 40 are written as 40, codes below VMIN as VMIN. -/
def Hw.vtrimWrite (h : Hw) (c : Nat) (v : Word) : Hw :=
  let x := max (h.fld CL_VTRIM c 13 8) (min 40 (bits v 5 0))
  let p := h.vPresent c
  (h.updCl c fun s => { s with vFrom := p, vAt := h.dev }).setFld CL_VTRIM c 5 0 x

/-- A regulator has stood at its limit for more than 1 µs, or the episode is over (R411). -/
def Hw.regOc (h : Hw) (c : Nat) (vm ended : Bool) : Hw :=
  let i := if vm then 5 else 4
  let s := (h.cl c).regStat
  if ended then h.updCl c fun v => { v with regStat := (w32 s &&& ~~~ w32 (2 ^ i)).toNat }
  else ((h.updCl c fun v => { v with regStat := (w32 s ||| w32 (2 ^ i)).toNat }).inc REG_OC_CNT c).raiseCl fRegOc c

/-- An episode at a regulator's current limit. -/
def execRegOvercurrent (c : Cluster) (vm ended : Bool) (s : State) : Out := s.onHw fun h => h.regOc c vm ended

/-! ### Cluster sequences (R415–R418, R424) -/

/-- A cluster loses everything it holds: memories, tables, registers and what moves in it (R412, R413). The endpoints of a processor, a port
and a relay are on the base die. -/
def Hw.clWipe (h : Hw) (c : Nat) : Hw :=
  let v := h.cl c
  let h := h.memInit c
  let h := h.resetTabs fun t u => decide (u = c) && ([Tab.seg, .rule, .spare].map Tab.code).contains t
  let h := h.resetRegs fun p u _ => regCluster p u == some c && !(p == pgDRIPEP && decide (33 ≤ u % 64))
  let h := (coresOf c).foldl (fun h k => (h.setCore k {}).setEp (epOfCore k) {}) h
  let h := { h with waits := h.waits.filter fun w => regCluster w.2.page w.2.unit != some c }
  h.setCl c { pst := .cold, regStat := 12, temp := v.temp }

/-- From a stable state, the sequence towards state t of CL_PWR_REQ starts, or waits for the advance (R418, R419). -/
def Hw.clGo (h : Hw) (c t : Nat) : Hw :=
  let go (h : Hw) (s : PState) : Hw :=
    (h.updCl c fun v => { v with pst := s, seqAt := h.dev, avail := false, waitAdv := false }).settleDone c
  match (h.cl c).pst, t with
  | .brew, 1 => if h.resident c ∧ h.flag STEP_CTRL 0 0 then h.updCl c fun v => { v with waitAdv := true } else go h .toSteep
  | .brew, 2 => go h .toCold
  | .steep, 0 => go h .fromSteep
  | .steep, 2 => go h .toCold
  | .cold, 0 => go h .fromCold
  | .cold, 1 => h.inc PWR_REQ_IGN_CNT
  | _, _ => h

/-- A STEEP request that waited for the advance starts (R418). -/
def Hw.clDeferred (h : Hw) (c : Nat) : Hw :=
  if (h.cl c).waitAdv then h.updCl c fun v => { v with pst := .toSteep, seqAt := h.dev, avail := false, waitAdv := false } else h

/-- The state that a running sequence ends in; none in a stable state. -/
def seqEnd : PState → Option Nat
  | .toSteep => some 1
  | .toCold => some 2
  | .fromSteep | .fromCold => some 0
  | _ => none

/-- A CL_PWR_REQ write (R424); during a compute reset it is ignored and counted (16 R436). -/
def Hw.clPwrReq (h : Hw) (c : Nat) (v : Word) : Hw :=
  let t := bits v 1 0
  let h := h.setFld CL_PWR_REQ c 1 0 t
  let s := h.cl c
  if t = 3 then h
  else if h.reg RST_STAT ≠ 0#32 then h.inc PWR_REQ_IGN_CNT
  else match seqEnd s.pst with
    | none => h.clGo c t
    | some e =>
      let h := if s.pend.isSome then h.inc PEND_REPL_CNT c else h
      h.updCl c fun v => { v with pend := if t = e then none else some t }

/-- A sequence of cluster c ends in a stable state; a pending target that differs starts its own. -/
def Hw.clSettle (h : Hw) (c : Nat) (now : Nat) : Hw :=
  match (h.cl c).pend with
  | none => h
  | some t =>
    let h := h.updCl c fun v => { v with pend := none }
    if t = now then h else h.clGo c t

/-- Every owned region that is powered is held in RET (05 R168). -/
def Hw.banksRet (h : Hw) (c : Nat) : Hw :=
  (List.range 32).foldl (fun h b =>
    h.updBank c b fun s => if s.pwr = 2 then s else { s with pwr := 1, waking := false, recorded := none }) h

/-- Every owned region returns to its BANK_PWR value (05 R168). -/
def Hw.banksBack (h : Hw) (c : Nat) : Hw :=
  (List.range 32).foldl (fun h b =>
    let p := [0, 1, 2, 1].getD (h.bankPwrReg c b) 1
    if (h.bank c b).pwr = p then h else h.updBank c b fun s => { s with pwr := p }) h

/-- Cluster c is in Steep: 1 with VL in normal mode, 2 with VL low too (R409, R421). -/
def Hw.clSteep (h : Hw) (c : Nat) (vl : Bool) : Hw :=
  ((h.banksRet c).updCl c fun v => { v with pst := .steep, regStat := if vl then 3 else 2, avail := false }).inc STEEP_CNT c

/-- Cluster c comes back from Steep. -/
def Hw.clBrew (h : Hw) (c : Nat) : Hw := (h.banksBack c).updCl c fun v => { v with pst := .brew, regStat := 0 }

/-- The sequence of cluster c that is in progress has run for n fabric cycles (R417). -/
def Hw.clSeqRan (h : Hw) (c n : Nat) : Hw := h.advTo ((h.cl c).seqAt + n)

/-- A cluster's Steep entry ends, 8.5 µs after its start. -/
def execClSteepEntryDone (c : Cluster) (s : State) : Out :=
  s.onHw fun h => if (h.cl c).pst = .toSteep then ((h.clSeqRan c 6800).clSteep c false).clSettle c 1 else h

/-- A cluster's Steep exit ends, 12.5 µs after its start. -/
def execClSteepExitDone (c : Cluster) (s : State) : Out :=
  s.onHw fun h => if (h.cl c).pst = .fromSteep then ((h.clSeqRan c 10000).clBrew c).clSettle c 0 else h

/-- Cluster c is in Cold. -/
def Hw.clColdNow (h : Hw) (c : Nat) : Hw := let p := (h.cl c).pend; (h.clWipe c).updCl c fun v => { v with pend := p }

/-- A cluster's Cold entry ends. -/
def execClColdEntryDone (c : Cluster) (s : State) : Out :=
  s.onHw fun h => if (h.cl c).pst = .toCold then (h.clColdNow c).clSettle c 2 else h

/-- Firmware applies a soft repair of its list to a bank that management owns for the purpose (05 R167). -/
def Hw.repair (h : Hw) (c : Nat) (sel data : Word) : Hw :=
  let b := bits sel 6 0 / 4
  let o := h.reg (BANK_OWNER b) c
  ((((h.setReg (BANK_OWNER b) c 0x22#32).setReg SR_SEL c sel).softRepair c data)).setReg (BANK_OWNER b) c o

/-- Fused and firmware's repairs of cluster c, and spares for its retired cores (16 R447): column repairs are Config's, retirements are
fused or in firmware's list, soft repairs are firmware's. -/
def Hw.repairs (h : Hw) (c : Nat) : Hw :=
  let r := Config.retired c % 2 ^ 34 ||| Tbl.get 0 h.fw.retired c
  let h := (h.setReg PHYS_RETIRE_LO c (w32 r)).setReg PHYS_RETIRE_HI c (w32 (r / 2 ^ 32 % 4))
  ((h.fw.repairs.filter fun x => x.1 == c).foldl (fun h x => h.repair c x.2.1 x.2.2) h).bootSpares c

/-- A cluster's Cold exit ends, 95.5 µs after its start: everything at reset, repairs applied. -/
def Hw.clColdExit (h : Hw) (c : Nat) : Hw :=
  if (h.cl c).pst = .fromCold then
    let h := (h.clSeqRan c 76400).updCl c fun v => { v with pst := .brew, regStat := 0 }
    (h.repairs c).clSettle c 0
  else h

/-- A cluster's Cold exit ends. -/
def execClColdExitDone (c : Cluster) (s : State) : Out := s.onHw fun h => h.clColdExit c

/-! ### The package (R420–R424) -/

def Hw.updPkg (h : Hw) (f : PkgSt → PkgSt) : Hw := { h with pkg := f h.pkg }

/-- A package request for Steep or Cold is honoured only with RUN at 0 and STEP_STAT.PHASE at 0, outside an array (R420). -/
def Hw.pkgMayRest (h : Hw) : Bool := !h.flag STEP_CTRL 0 0 && decide (h.phaseCode = 0) && !h.arrayEn

/-- A wake source is recorded, and the package sets out for Brew from Steep or Cold (R423). -/
def Hw.pkgWake (h : Hw) (src : Nat) : Hw :=
  let cool := (List.range 64).all fun c => decide (sext 12 (h.cl c).temp < ((h.fld THERM_CFG 0 7 0 : Nat) : Int) * 8)
  match h.pkg.pst with
  | .steep => (h.setFld PKG_PWR_STAT 0 11 8 src).updPkg fun p => { p with pst := .fromSteep }
  | .cold =>
    if src = 9 ∨ (h.pkg.thermal ∧ cool = false) then h
    else (h.setFld PKG_PWR_STAT 0 11 8 src).updPkg fun p => { p with pst := .fromCold, thermal := false, railWait := false }
  | _ => h

/-- From a stable state, the package's sequence towards state t starts. A way out of Steep by request is a wake by RCP (R423). -/
def Hw.pkgGo (h : Hw) (t : Nat) : Hw :=
  match h.pkg.pst, t with
  | .brew, 1 => if h.pkgMayRest then h.updPkg fun p => { p with pst := .toSteep, seqAt := h.dev } else h.inc PWR_REQ_IGN_CNT
  | .brew, 2 => if h.pkgMayRest then h.updPkg fun p => { p with pst := .toCold } else h.inc PWR_REQ_IGN_CNT
  | .steep, 0 => if h.flag WAKE_EN 0 9 then h.pkgWake 9 else h
  | .steep, 2 => h.updPkg fun p => { p with pst := .toCold }
  | _, _ => h

/-- A PKG_PWR_REQ write (R420, R424, 16 R436). -/
def Hw.pkgPwrReq (h : Hw) (v : Word) : Hw :=
  let t := bits v 1 0
  let h := h.setFld PKG_PWR_REQ 0 1 0 t
  if t = 3 then h
  else if h.reg RST_STAT ≠ 0#32 then h.inc PWR_REQ_IGN_CNT
  else match seqEnd h.pkg.pst with
    | none => h.pkgGo t
    | some e => h.updPkg fun p => { p with pend := if t = e then none else some t }

/-- The package's sequence has ended in a stable state; a pending target that differs starts its own. -/
def Hw.pkgSettle (h : Hw) (now : Nat) : Hw :=
  match h.pkg.pend with
  | none => h
  | some t =>
    let h := h.updPkg fun p => { p with pend := none }
    if t = now then h
    else if now = 1 ∧ t = 0 then h.updPkg fun p => { p with pst := .fromSteep }
    else h.pkgGo t

/-- Port q loses its registers outside the save, its MACsec keys and its link (R416). -/
def Hw.portSleep (h : Hw) (q : Nat) : Hw :=
  let h := (h.linkFall q).updEth q fun e => { refRxSeq := e.refRxSeq, refTxSeq := e.refTxSeq, gates := e.gates }
  let h := h.resetTabs fun t u => decide (u = q) && t == Tab.sa.code
  h.resetRegs fun p u _ => decide (u = q) && (p == pgMACSEC || p == pgETH)

/-- Package Steep is reached (R421, R422). -/
def Hw.pkgSteep (h : Hw) : Hw :=
  let h := (List.range 64).foldl (fun h c =>
    match (h.cl c).pst with
    | .brew => h.clSteep c true
    | .steep => h.updCl c fun v => { v with regStat := 3 }
    | _ => h) h
  let h := (List.range 4).foldl (fun h q =>
    let h := if h.en DDR_CFG q 0 ∧ h.ddrSelf q = false then h.ddrSelfEnter q else h
    if h.flag PKG_STEEP_CFG 0 q then h else h.portSleep q) h
  let h := (List.range 16).foldl (fun h k =>
    h.updTmr k fun t => { t with gated := h.gateOpen k }) h
  let h := h.resetRegs fun p _ _ => p == pgINGRESS || p == pgIMGLD || p == pgCSISTAT
  let h := h.setReg PLL_STAT 0 (h.reg PLL_STAT &&& w32 (h.fld PKG_STEEP_CFG 0 3 0 * 256))
  (h.setFlag PAD_STAT 0 3 true).updPkg fun p =>
    { p with pst := .steep, saved := true, pllAt := p.pllAt.filter fun x => decide (8 ≤ x.1) && decide (x.1 < 12) && h.flag PKG_STEEP_CFG 0 (x.1 - 8) }

/-- Package Steep entry ends, 15 µs after its start, once no cluster is in a sequence of its own. -/
def Hw.pkgSteepEnters (h : Hw) : Hw :=
  if h.pkg.pst = .toSteep ∧ (List.range 64).all fun c => (seqEnd (h.cl c).pst).isNone then
    ((h.advTo (h.pkg.seqAt + 15 * us)).pkgSteep).pkgSettle 1
  else h

/-- Package Steep entry ends. -/
def execPkgSteepEntryDone (s : State) : Out := s.onHw Hw.pkgSteepEnters

/-- The clocks advance by the always-on ticks of the Steep (R423): 24,414.0625 fabric cycles and 30,517.578125 ns each. -/
def Hw.clockMakeUp (h : Hw) (n : Nat) : Hw :=
  let x := n * 1600000000 + h.fld DEVT_FRAC 0 15 0
  let h := (h.setReg STEEP_TIME 0 (w32 n)).setReg DEVT_FRAC 0 (w32 (x % 65536))
  { h with dev := h.dev + x / 65536, ptp := h.ptp + n * 32768000000000 }

/-- Actuator timeouts that the advanced device time has passed (R423, 11 R325). -/
def Hw.actTimeoutsDue (h : Hw) : Hw :=
  (List.range 16).foldl (fun h k =>
    if (h.act k).since + bits (h.actWord k 8) 15 0 * 10 * us ≤ h.dev then h.actTimeout k else h) h

/-- Package Steep exit (R422, R423, 11 R318). -/
def Hw.pkgSteepExit (h : Hw) (n : Nat) : Hw :=
  let h := h.updPkg fun p => { p with pst := .brew }
  let h := (List.range 64).foldl (fun h c => if (h.cl c).pst = .steep then h.clBrew c else h) h
  let h := (List.range 4).foldl (fun h q =>
    let h := if h.ddrSelf q then (h.ddrSelfExit q).pllLock (4 + q) else h
    (h.pllLock q).pllStart (8 + q)) h
  (((h.clockMakeUp n).makeUp n).actTimeoutsDue).setFlag PAD_STAT 0 3 false

/-- Package Steep exit ends. -/
def execPkgSteepExitDone (ticks : Word) (s : State) : Out :=
  s.onAo fun h => if h.pkg.pst = .fromSteep ∧ h.pkg.inReset = false then (h.pkgSteepExit ticks.toNat).pkgSettle 0 else h

/-- A cell of the boot flash, or of always-on memory. -/
def inFlash (a : Nat) : Bool := decide (flashBase ≤ a) && decide (a < gatewayBase 0)
def inAom (a : Nat) : Bool := decide (aomBase ≤ a) && decide (a < aomBase + 0x10000)

/-- Registers that fuses hold. -/
def fuseReg (p off : Nat) : Bool := p == pgFUSE && (off == 0x050 || off == 0x054)

/-- Registers of the always-on domain (15 R432, 16 R435, R437, R448); with REF_STAT, which shows its clock, and the wake source. -/
def aoReg (p off : Nat) : Bool :=
  (p == pgPWR && [0x044, 0x048, 0x04C, 0x050, 0x054, 0x060].contains off) || (p == pgRST && off == 0x048) || (p == pgBOOT && off == 0x058) ||
    (p == pgCLK && off == 0x044)

/-- The package loses everything but fuses, flash and, unless `all`, the always-on domain (R413, 16 R435). The lists of what has left the
package and how many free values have been read are the model's own and stay. -/
def Hw.wipe (h : Hw) (all : Bool) : Hw :=
  { mem := h.mem.filter fun p => inFlash p.1 || (!all && inAom p.1)
    regs := h.regs.filter fun p => let k := regKey p.1; fuseReg k.1 k.2.2 || (!all && aoReg k.1 k.2.2)
    fw := { retired := h.fw.retired, repairs := h.fw.repairs, licences := h.fw.licences, newLicences := h.fw.newLicences
            setDone := h.fw.setFlash, setFlash := h.fw.setFlash, area := h.fw.area }
    wire := h.wire
    fresh := h.fresh }

/-- Package Cold is reached; RAIL_EN goes low, and the board takes PWR_GOOD low with the rails. -/
def Hw.pkgCold (h : Hw) : Hw :=
  let p := h.pkg
  let temps := h.clusters.filterMap fun x => if x.2.temp = 0 then none else some (x.1, ({ temp := x.2.temp } : ClusterSt))
  { h.wipe false with
    pkg := { pst := .cold, pend := p.pend, thermal := p.thermal, pwrGood := false }
    clusters := if p.thermal then temps else [] }

/-- Package Cold entry ends. -/
def execPkgColdEntryDone (s : State) : Out :=
  s.onAo fun h => if h.pkg.pst = .toCold ∧ h.pkg.inReset = false then (h.pkgCold).pkgSettle 2 else h

/-! ### Wake sources (R423) -/

/-- An edge on GPIO0–GPIO7 that WAKE_EN and WAKE_EDGE select wakes the package. -/
def execWakeGpioEdge (g : Fin 8) (rise : Bool) (s : State) : Out :=
  s.onAo fun h => if h.flag WAKE_EN 0 g ∧ h.flag WAKE_EDGE 0 (2 * g + b2n (!rise)) then h.pkgWake g else h

/-- A running AO_WAKE_TMR reaches 0, which wakes the package if it may. -/
def Hw.aoWakeExpires (h : Hw) : Hw :=
  if h.reg AO_WAKE_TMR = 0#32 then h
  else
    let h := h.setReg AO_WAKE_TMR 0 0#32
    if h.flag WAKE_EN 0 8 then h.pkgWake 8 else h

/-- AO_WAKE_TMR expires. -/
def execAoWakeTmrExpiry (s : State) : Out := s.onAo Hw.aoWakeExpires

/-- A low-power regulator trips (R412). -/
def Hw.brownout (h : Hw) (c : Nat) (vm : Bool) : Hw :=
  if ((h.cl c).regStat >>> b2n vm) % 2 = 0 ∨ (h.cl c).pst = .cold then h
  else
    let h := if (h.reg PWR_LOG).getLsbD 31 then h else h.setReg PWR_LOG 0 (w32 (c + (if vm then 2 else 1) * 2 ^ 8 + 2 ^ 31))
    let h := ((h.clWipe c).inc BROWNOUT_CNT).raiseCl fBrownout c
    if h.pkg.pst = .steep then h.pkgWake 10 else h

/-- Brown-out. -/
def execBrownout (c : Cluster) (vm : Bool) (s : State) : Out := s.onAo fun h => h.brownout c vm

/-! ### Temperature (R425) -/

/-- A reading of cluster c; at THERM_HI or above the source is raised. -/
def Hw.thermRead (h : Hw) (c : Nat) (t : BitVec 12) : Hw :=
  let h := h.updCl c fun v => { v with temp := t.toNat }
  if ((h.fld THERM_CFG 0 7 0 : Nat) : Int) * 8 ≤ t.toInt then h.raiseQCl fThermHi c else h

/-- A cluster's temperature is read at THERM_HI or above. -/
def execThermHiCross (c : Cluster) (temp : BitVec 12) (s : State) : Out := s.onAo fun h => h.thermRead c temp

/-- At 140 °C the always-on domain forces the package to Cold. -/
def Hw.thermShut (h : Hw) (c : Nat) (t : BitVec 12) : Hw :=
  if t.toInt < 1120 ∨ h.pkg.pst = .cold then h
  else
    let h := h.updCl c fun v => { v with temp := t.toNat }
    let h := h.setReg PWR_LOG 0 (w32 (c + 3 * 2 ^ 8 + 2 ^ 31))
    h.updPkg fun p => { p with pst := .toCold, pend := none, thermal := true }

/-- Thermal shutdown. -/
def execThermalShutdown (c : Cluster) (temp : BitVec 12) (s : State) : Out := s.onAo fun h => h.thermShut c temp

/-! ### Clocks (R426–R428) -/

/-- The 32.768 kHz crystal stops: the RC oscillator takes over. -/
def execClk32Fail (s : State) : Out :=
  s.onAo fun h => ((h.setFlag REF_STAT 0 1 false).setFlag REF_STAT 0 2 true).raisePkg fClk32Fail

/-- An FPLL or DPLL deviates, or loses lock. -/
def Hw.pllDeviates (h : Hw) (q : Nat) (dpll lost : Bool) : Hw :=
  let i := if dpll then 4 + q else q
  if h.pllLocked i = false then h
  else
    let h := if lost then (h.setFlag PLL_STAT 0 i false).pllStart i else h
    (h.inc PLL_UNLOCK_CNT).raiseQ fPllLock q

/-- A PLL deviates. -/
def execPllDeviation (q : Quad) (dpll lost : Bool) (s : State) : Out := s.onHw fun h => h.pllDeviates q dpll lost

/-- A PLL that something needs locks. -/
def execPllLocked (i : Fin 16) (s : State) : Out :=
  s.onPort (i.val % 4) fun h => h.pllLock i

/-- The board drives PWR_GOOD high (R422). -/
def execPwrGoodRise (s : State) : Out := s.onAo fun h => h.updPkg fun p => { p with pwrGood := true, railWait := false }

end Sys2Proof.Machine
end

