-- ==== Sys2Proof/Machine/StepM.lean ====
section
/-! DEFINITION. The step machine of the package: delivery close, forcing, the pour, the advance, RUN and SINGLE, and the first two
intervals of a context switch (02 R54–R83, 18 R483, R484). -/

namespace Sys2Proof.Machine

/-! ### Delivery close (R61–R63, R69) -/

/-- Every cluster and relay of the package is drip-quiet. -/
def Hw.localQuiet (h : Hw) : Bool := (List.range 64).all h.dquiet && (List.range 8).all h.relayQuiet

/-- The package is P0, or stands alone. -/
def Hw.isRoot (h : Hw) : Bool := !h.arrayEn || h.treeParent.isNone

/-- DQUIET of everything the package waits for has come. -/
def Hw.globalQuiet (h : Hw) : Bool :=
  if h.arrayEn = false then h.localQuiet
  else if h.isRoot then h.localQuiet && h.childrenQuiet
  else h.step.dcloseTok.isSome

/-- Fabric cycles that the pour and DQUIET take from the last input to the end of the broadcast (R62, R66). -/
def pourCyc : Nat := 160

/-- When the broadcast of DQUIET ends, for a package that is quiet (R62). -/
def Hw.quietAt (h : Hw) : Nat := max h.dev (max h.step.start h.step.dripAt + pourCyc)

/-- Delivery is to be forced at its deadline, and DQUIET comes after it (R69). -/
def Hw.quietLate (h : Hw) : Bool := decide (h.policy ≠ .stretch) && decide (h.deadline < h.quietAt)

/-- What delivery close does whatever phase follows: the hold stores, the forced flush under DROP, the actuators, the last REF-out frames (R69, 11 R324,
13 R377). -/
def Hw.deliveryEnd (h : Hw) : Hw :=
  let h := h.fabricClose
  let h := if h.step.forceDel ∧ h.policy = .drop then (List.range 64).foldl (fun h c => h.flushDrop c) h else h
  let h := h.actUpdate
  (List.range 4).foldl (fun h q => h.refClose q) h

/-- The integrate phase begins in every available cluster: its cores wake (R64, R80). DCLOSE-seen is set and POUR-seen cleared here (DESIGN
CHOICE, log 125). -/
def Hw.wakeAll (h : Hw) : Hw :=
  let core (h : Hw) (k : Nat) : Hw :=
    let s := h.core k
    if s.avail then
      (h.setCore k { s with trigNow := s.triggered, triggered := false, integ := {}, done := false, warm := false }).denseRanClear k
    else h
  let one (h : Hw) (c : Nat) : Hw :=
    if (h.cl c).avail then
      let h := h.updCl c fun v => { v with done := false, dclose := true, poured := false }
      ((coresOf c).foldl core h).settleDone c
    else h
  (List.range 64).foldl one h

/-- Delivery close in an array: P0 sends DCLOSE and closes MARK_ALIGN later; another package reports DQUIET once and closes MARK_ALIGN
after DCLOSE (R62, R75, R76). -/
def Hw.arrayClose (h : Hw) (close : Hw → Hw) : Hw :=
  if h.isRoot then
    if h.localQuiet ∧ h.childrenQuiet ∧ h.quietLate = false then
      let h := (h.advTo h.quietAt).forward 4 h.stepTag
      close (h.advTo (h.dev + h.markAlign))
    else h
  else match h.step.dcloseTok with
    | some t => close (h.advTo (t + h.markAlign))
    | none =>
      if h.localQuiet ∧ h.childrenQuiet ∧ h.step.quietSent = false then
        match h.treeParent with
        | some d => (h.sendToken d 2 h.stepTag).updStep fun s => { s with quietSent := true }
        | none => h
      else h

/-- The conditions of delivery close, and what it does. -/
def Hw.tryClose (h : Hw) (close : Hw → Hw) : Hw :=
  if h.step.phase ≠ .delivery then h
  else if h.step.forceDel then close h
  else if h.step.framesDone = false then h
  else if h.arrayEn then h.arrayClose close
  else if h.localQuiet ∧ h.quietLate = false then close (h.advTo h.quietAt)
  else h

/-- Delivery close is forced; FORCE_CNT counts a step once. -/
def Hw.countForced (h : Hw) : Hw :=
  if h.step.forced then h else (h.inc FORCE_CNT).updStep fun s => { s with forced := true }

/-- The delivery deadline passes (R63, R69). -/
def Hw.deadlinePasses (h : Hw) : Hw :=
  if h.step.phase ≠ .delivery then h
  else
    let h := h.advTo h.deadline
    if h.step.framesDone ∧ h.globalQuiet ∧ h.quietAt ≤ h.deadline then h
    else if h.policy = .stretch then
      (if h.step.overCnt then h else (h.inc DELIV_OVER_CNT).updStep fun s => { s with overCnt := true })
    else (h.updStep fun s => { s with forceDel := true }).countForced

/-- The delivery deadline. -/
def execDeliveryDeadline (s : State) : Out := s.onHw fun h => h.deadlinePasses

/-! ### Forcing (R69–R73) -/

/-- Cores of available clusters that are not done. -/
def Hw.notDone (h : Hw) : List Nat :=
  ((List.range 64).filter fun c => (h.cl c).avail && !(h.cl c).done).flatMap fun c => (coresOf c).filter fun k => h.coreAvail k && !(h.core k).done

/-- Every core not done is forced. -/
def Hw.forceAll (h : Hw) : Hw :=
  if h.notDone = [] then h
  else (h.notDone.foldl (fun h k => h.forceCore k) h).countForced

/-- Delivery closes; a core that a late close wakes when the step is due is forced at once (R69, R73). -/
def Hw.closeDelivery (h : Hw) : Hw :=
  let h := h.deliveryEnd
  let h := ((List.range 64).foldl (fun h c => h.roastLate c) (h.updStep fun s => { s with phase := .integrate, dclosedAt := h.dev })).wakeAll
  if h.policy ≠ .stretch ∧ h.nominal ≤ h.dev then h.forceAll else h

/-- Delivery closes, where a step runs. -/
def execDeliveryClose (s : State) : Out := s.onHw fun h => if h.switching then h else h.tryClose Hw.closeDelivery

/-- N(t+1) passes (R69). -/
def Hw.stepDue (h : Hw) : Hw :=
  if h.switching ∨ (h.step.phase ≠ .delivery ∧ h.step.phase ≠ .integrate) then h
  else
    let h := h.advTo h.nominal
    if h.policy ≠ .stretch ∧ h.step.phase = .integrate then h.forceAll else h

/-- The step is due. -/
def execStepDue (s : State) : Out := s.onHw fun h => h.stepDue

/-- STEP_STRETCH_MAX passes under STRETCH (R73). -/
def Hw.stretchExpires (h : Hw) : Hw :=
  if h.switching ∨ (h.step.phase ≠ .delivery ∧ h.step.phase ≠ .integrate) ∨ h.policy ≠ .stretch then h
  else
    let h := h.advTo (h.nominal + us * h.stretchMax)
    let h := (h.raisePkg fStepStretchOvf).updStep fun s => { s with asDrop := true }
    if h.step.phase = .delivery then (h.updStep fun s => { s with forceDel := true }).countForced else h.forceAll

/-- STEP_STRETCH_MAX expires. -/
def execStretchMaxExpiry (s : State) : Out := s.onHw fun h => h.stretchExpires

/-! ### The pour (R65–R67, R72, R75, 09 R260, R271) -/

/-- The instant of the last done. -/
def Hw.lastDone (h : Hw) : Nat :=
  (List.range 64).foldl (fun t c => if (h.cl c).avail then max t (h.step.start + (h.cl c).doneTime) else t) h.step.dclosedAt

/-- The epoch boundary: modulators are latched, clip evaluation falls due, error counts of the epoch restart (09 R260, R265, 08 R255, 03 R103). -/
def Hw.epochBoundary (h : Hw) : Hw :=
  let h := (List.range 64).foldl (fun h c => h.modLatch c) h
  let h := { h with epochs := h.epochs + 1 }
  h.cores.foldl (fun h p => if p.2.ceEpoch = 0 ∧ p.2.ceHigh = false then h else h.updCore p.1 fun s => { s with ceEpoch := 0, ceHigh := false }) h

/-- The pour has been broadcast (R66): the roast phase follows a boundary with a blocking roast. -/
def Hw.pourClosed (h : Hw) : Hw :=
  let last := h.lastDone
  let h := h.foldSpills
  let h := h.setReg POUR_LAT 0 (w32 (min 0xFFFF (h.dev - last)))
  let h := h.clusters.foldl (fun h p => if p.2.avail then h.updCl p.1 fun v => { v with poured := true } else h) h
  let h := h.updStep fun s => { s with phase := .pour, poured := h.dev, closed := h.dev }
  if h.lastStep then
    let h := (List.range 64).foldl (fun h c => h.roastStart c) h.epochBoundary
    if (List.range 64).any fun c => (h.roast c).busy && (h.roast c).blocking then h.updStep fun s => { s with phase := .roast } else h
  else h

/-- The pour in an array: P0 sends POUR with the number of the step being entered; another package reports DONE once and closes
MARK_ALIGN after POUR (R75, R76, 14 R401). -/
def Hw.arrayPour (h : Hw) : Hw :=
  if h.isRoot then
    if h.allDone ∧ h.childrenDone then
      let h := ((h.advTo (h.lastDone + pourCyc)).forward 3 h.stepTag).sendStepNum (h.stepNum + 1#32)
      (h.advTo (h.dev + h.markAlign)).pourClosed
    else h
  else match h.step.pourTok with
    | some t => if h.allDone then (h.advTo (t + h.markAlign)).pourClosed else h
    | none =>
      if h.allDone ∧ h.childrenDone ∧ h.step.doneSent = false then
        match h.treeParent with
        | some d => (h.sendToken d 1 h.stepTag).updStep fun s => { s with doneSent := true }
        | none => h
      else h

/-- The pour closes, where a step's integrate phase runs. -/
def Hw.pourClose (h : Hw) : Hw :=
  if h.switching ∨ h.step.phase ≠ .integrate then h
  else if h.arrayEn then h.arrayPour
  else if h.allDone then (h.advTo (h.lastDone + pourCyc)).pourClosed
  else h

/-- The pour closes. -/
def execPourClose (s : State) : Out := s.onHw fun h => h.pourClose

/-! ### The advance (R56, R68, R72, R83) -/

/-- Stretch counters of the step that ends at instant t (R72); where DROP or DEFER forced the step, its forcing time counts in
STRETCH_CYC_CNT alone (R69, log 35). -/
def Hw.countStretch (h : Hw) (t : Nat) : Hw :=
  let st := t - h.nominal
  if st = 0 then h
  else
    let roast := if h.step.roastEnd = 0 then 0 else t - max h.nominal h.step.poured
    let h := (h.inc STRETCH_CYC_CNT 0 (st - roast)).hwm STRETCH_HWM 0 (min st (2 ^ 24 - 1))
    let h := if h.step.forced = false ∨ h.ctxPolicy = .stretch ∨ roast ≠ 0 then h.inc STRETCH_STEP_CNT else h
    if roast = 0 then h else h.inc ROAST_STRETCH_CYC_CNT 0 roast

/-- The switch that CTX_NEXT asks for and that an advance begins (18 R483). -/
def Hw.switchDue (h : Hw) : Option Nat :=
  let n := h.fld CTX_NEXT 0 3 0
  if h.flag CTX_NEXT 0 4 ∧ h.ctxState n = 1 then some n else none

/-- The switch to context n begins (18 R484): with the flush of the resident context, or with the load where none is resident. -/
def Hw.switchBegin (h : Hw) (n : Nat) : Hw :=
  let out := if h.someResident then some h.ctx else none
  let h := h.setReg CTX_NEXT 0 0#32
  let h := { h with sw := { stage := if out.isSome then 1 else 5, out := out, to_ := n, start := h.dev }, uaHold := h.uaHold || h.arrayEn }
  if out.isSome then h.startStep h.dev else (h.debugEnd n).setStep { start := h.dev }

/-- Where a step may start at instant `h.dev`: a pending switch begins instead (R68); the machine holds with RUN at 0. -/
def Hw.nextStep (h : Hw) (run : Bool) : Hw :=
  match h.switchDue with
  | some n => h.switchBegin n
  | none => if run then h.startStep h.dev else h.setStep { start := h.dev }

/-- The advance that begins the next step, at max(N(t+1), close(t)) (R56, R68): what it ends, what takes effect, and what begins. RUN at 0
or SINGLE lets the machine hold (R83). -/
def Hw.advance (h : Hw) : Hw :=
  let t := max h.nominal h.step.closed
  let h := (h.countStretch t).advTo t
  let h := (h.advanceCore).advanceApply
  let h := (List.range 64).foldl (fun h c => h.clDeferred c) h
  let h := (h.joinUnits).attSnapshot
  let run := h.flag STEP_CTRL 0 0 && !h.flag STEP_CTRL 0 1
  let h := if run then h else h.setFld STEP_CTRL 0 1 0 0
  h.nextStep run

/-- The step advances, once the pour and any blocking roast are over. -/
def execStepAdvance (s : State) : Out := s.onHw fun h => if h.step.phase = .pour ∧ h.switching = false then h.advance else h

/-! ### RUN and SINGLE (R83) -/

/-- The held machine starts, the cycle after the write, or MARK_ALIGN later in an array; a package that is out of its array only arms
RUN and starts when it rejoins (14 R401). A step that a switch left at its integrate phase goes on there (18 R484). -/
def Hw.holdStart (h : Hw) : Hw :=
  if h.arrayEn ∧ h.uaHold then h
  else
    let h := h.advTo (h.dev + 1 + h.markAlign)
    let h := h.joinUnits
    if h.sw.resume ∧ h.switchDue = none then
      let h := { h with sw := { h.sw with resume := false } }
      ((h.endOutages).setStep { phase := .integrate, start := h.dev, framesDone := true, dclosedAt := h.dev }).wakeAll
    else (h.rewindFrames).nextStep true

/-- A write of STEP_CTRL. While the collector is HALTED, writes of RUN = 1 are ignored (17 R464). -/
def Hw.stepCtrl (h : Hw) (v : Word) : Hw :=
  let run := bit v 0
  let single := bit v 1
  if h.flag FLT_STAT 0 2 ∧ (run ∨ single) then h
  else
    let go := h.holds
    let h := h.setReg STEP_CTRL 0 (w32 (b2n (run || single) + 2 * b2n single))
    if go ∧ (run ∨ single) then h.holdStart else h

/-! ### The first intervals of a switch (18 R484) -/

/-- Interval 1 ends with the delivery close of the flush. -/
def Hw.flushDone (h : Hw) : Hw :=
  if h.sw.stage ≠ 1 then h
  else h.tryClose fun h =>
    let h := (h.deliveryEnd).updStep fun s => { s with phase := .idle }
    { h with sw := { h.sw with stage := 2 } }

/-- The flush of the outgoing context closes. -/
def execSwitchFlushDone (s : State) : Out := s.onHw fun h => h.flushDone

/-- Interval 2 ends once no roast of the outgoing partition is busy. -/
def Hw.roastWaited (h : Hw) : Hw :=
  match h.sw.out with
  | some n =>
    if h.sw.stage = 2 ∧ ((List.range 64).any fun c => h.inPart n c && (h.roast c).busy) = false then
      let h := (List.range 64).foldl (fun h c => if (h.cl c).avail then h.leaveCl c else h) h
      { h with sw := { h.sw with stage := 3 } }
    else h
  | none => h

/-- No roast is busy. -/
def execSwitchRoastWaitDone (s : State) : Out := s.onHw fun h => h.roastWaited

/-! ### Warm (15 R414) -/

/-- A core with nothing to do gates its clock; the Warm of a bank or router changes no state. -/
def Hw.warmEntry (h : Hw) : WarmUnit → Hw
  | .core k =>
    let s := h.core k
    let st := s.integ.stage
    if s.eng.running ∨ s.listq ≠ [] ∨ s.evq ≠ [] ∨ s.paging ∨ ¬ (st = .idle ∨ st = .finished) ∨ (st = .idle ∧ h.step.phase = .integrate ∧ s.avail) then h
    else h.updCore k fun s => { s with warm := true }
  | .bank _ _ => h
  | .router _ => h

/-- 64 idle cycles of a unit. -/
def execWarmEntry (u : WarmUnit) (s : State) : Out := s.onHw fun h => h.warmEntry u

end Sys2Proof.Machine
end

