-- ==== Sys2Proof/Machine/Reset.lean ====
section
/-! DEFINITION. The compute reset up to the assertion of reset, and the quiet timer that it pauses (16 R435–R438, 17 R468, 18 R486). -/

namespace Sys2Proof.Machine

/-! ### The quiet timer (17 R468) -/

/-- The quiet timer counts. -/
def Hw.quietRuns (h : Hw) : Bool :=
  h.flag FLT_STAT 0 0 && !h.flag FLT_STAT 0 1 && !h.flag FLT_STAT 0 2 && decide (h.reg RST_STAT = 0#32)

/-- Start or pause the quiet timer as its conditions say. -/
def Hw.quietSync (h : Hw) : Hw :=
  match h.flt.quietFrom with
  | none => if h.quietRuns then h.updFlt fun f => { f with quietFrom := some h.dev } else h
  | some t => if h.quietRuns then h else h.updFlt fun f => { f with quiet := f.quiet + (h.dev - t), quietFrom := none }

/-- The quiet timer restarts from zero. -/
def Hw.quietRestart (h : Hw) : Hw := (h.updFlt fun f => { f with quiet := 0, quietFrom := none }).quietSync

/-- Cycles of quiet so far. -/
def Hw.quietCycles (h : Hw) : Nat :=
  h.flt.quiet + (match h.flt.quietFrom with
    | some t => h.dev - t
    | none => 0)

/-! ### Compute reset (16 R438) -/

/-- A switch in interval 1 to 3 leaves its save invalid; every switch is abandoned, and the recovery owes the incoming context its
residency (18 R486). -/
def Hw.switchAbandon (h : Hw) : Hw :=
  if h.switching = false then h
  else
    let h := match h.sw.out with
      | some n =>
        let h := if h.sw.stage ≤ 3 then h.setFlag CTX_SAVE_INVALID 0 n true else h
        h.setFld CTX_STATE 0 (2 * n + 1) (2 * n) 1
      | none => h
    { h with sw := { owed := some h.sw.to_ } }

/-- Merged events still unoffered are counted, and the ingress units stop offering (R438). -/
def Hw.ingressStop (h : Hw) : Hw :=
  (List.range 4).foldl (fun h q =>
    let n := (h.ing q).offers.length
    if n = 0 then h else (h.inc OFFER_DROP_CNT q n).updIng q fun s => { s with offers := [] }) h

/-- A compute reset starts for the RST_CAUSE bit `cause`: interval 1 begins. -/
def Hw.computeReset (h : Hw) (cause : Nat) : Hw :=
  if h.reg RST_STAT ≠ 0#32 then h.inc RST_IGN_CNT
  else
    let h := h.setFlag RST_CAUSE 0 cause true
    let h := (h.setReg RST_STAT 0 1#32).setFld STEP_CTRL 0 1 0 0
    let h := h.updPkg fun p => { p with rstStart := h.dev, rstAt := h.dev, abandoned := decide (h.step.phase ≠ .idle) }
    let h := h.setStep { start := h.step.start }
    let h := ((h.switchAbandon).dmaReset).ingressStop
    let h := (List.range 4).foldl (fun h q => if h.en DDR_CFG q 0 ∧ h.ddrSelf q = false then h.ddrSelfEnter q else h) h
    let h := h.clusters.foldl (fun h x =>
      if x.2.avail ∨ x.2.pend ≠ none ∨ x.2.waitAdv then h.updCl x.1 fun v => { v with avail := false, pend := none, waitAdv := false } else h) h
    ({ h with uaHold := h.uaHold || h.arrayEn }).quietSync

/-- Registers that compute reset leaves in a cluster's region (R435). -/
def keptInReset (p off : Nat) : Bool :=
  p == pgPWRC || (p == pgREMAP && (off == 0x0C0 || off == 0x0C4)) || (p == pgCMCFG && (off == SR_SEL.off || off == SR_DATA.off))

/-- An endpoint beneath a router that is reset: its connections close with the epoch increment (07 R228), and nothing of it is in flight. -/
def Hw.epWipe (h : Hw) (e : Nat) : Hw :=
  if h.ep e = {} then h
  else (h.epReset e).updEp e fun v => { v with q := [], txq := [], sent := [] }

/-- Reset is asserted: cores, routers, cluster agents and the registers of the cluster and core regions (R435). Endpoints of processors,
ports and relays stay up. -/
def Hw.resetUnits (h : Hw) : Hw :=
  let h := h.eps.foldl (fun h x => if x.1 % 64 ≤ 32 then h.epWipe x.1 else h) h
  let h := h.resetRegs fun p u off => (regCluster p u).isSome && !keptInReset p off
  let h := h.resetTabs fun t _ => ([Tab.seg, .rule].map Tab.code).contains t
  let h := h.clusters.foldl (fun h x => if x.2.map = [] then h else h.moveSrams x.1 (h.mapNow x.1) w32) h
  { h with
    cores := []
    waits := []
    epochs := 0
    clusters := h.clusters.map fun x =>
      let v := x.2
      (x.1, { pst := v.pst, regStat := v.regStat, temp := v.temp, mappedOut := v.mappedOut, vFrom := v.vFrom, vAt := v.vAt, retire := v.retire
              bist := v.bist, banks := v.banks.map fun b => (b.1, { pwr := if v.pst = .steep then 1 else 0, lost := b.2.lost }) }) }

/-- A cluster that compute reset initialises: one in Brew. -/
def Hw.inBrew (h : Hw) (c : Nat) : Bool := decide ((h.cl c).pst = .brew)

end Sys2Proof.Machine
end

