-- ==== Sys2Proof/Machine/Fault.lean ====
section
/-! DEFINITION. The fault collector: log, first fault, severities, containment, recovery, HALTED and the quiet period (17 R456–R469, R527). -/

namespace Sys2Proof.Machine

/-- Whether a number is a source of the tables (R457–R459). -/
def isSource (n : Nat) : Bool :=
  decide (n < 0x300) || (decide (n < 0x3C0) && decide ((n - 0x300) % 48 ≤ 28)) || (decide (0x3C0 ≤ n) && decide (n ≤ 0x3C5)) ||
    (decide (0x3C8 ≤ n) && decide (n ≤ 0x3CF))

/-- Number of PLL_LOCK of some quadrant. -/
def isPllLock (n : Nat) : Bool := decide (0x300 ≤ n) && decide (n < 0x3C0) && decide ((n - 0x300) % 48 = fPllLock)

/-! ### Units (R476) -/

/-- The cluster of a unit, where it has one. -/
def unitCl : FUnit → Option Nat
  | .core k => some (k.val / 32)
  | .bank c _ => some c
  | .cluster c => some c
  | _ => none

/-- The quadrant of a unit. -/
def unitQuad : FUnit → Nat
  | .quad q _ => q
  | .dma q => q
  | .port q => q
  | .link k => k.val / 2
  | .pkg _ => 0
  | u => ((unitCl u).getD 0) / 16

/-- FAULT_FIRST_UNIT of a unit (R476). -/
def Hw.unitWord (h : Hw) (u : FUnit) : Word :=
  let put (y index kind : Nat) : Word :=
    w32 (h.pkgNum + unitQuad u * 2 ^ 4 + ((unitCl u).getD 0) % 16 * 2 ^ 6 + y * 2 ^ 10 + index % 1024 * 2 ^ 16 + kind * 2 ^ 26)
  match u with
  | .core k => put (h.phys k) (k.val % 32) 3
  | .bank _ b => put 0x3F b 4
  | .cluster _ => put 0x3F 0 2
  | .quad _ i => put 0x3F i 1
  | .dma _ => put 0x3F 0 7
  | .port _ => put 0x3F 0 6
  | .link k => put 0x3F k 5
  | .pkg i => put 0x3F i 0

/-- The unit that a word in the FAULT_FIRST_UNIT layout names (R477). -/
def unitOf (w : Word) : FUnit :=
  let q := bits w 5 4
  let c := 16 * q + bits w 9 6
  let i := bits w 25 16
  match bits w 29 26 with
  | 1 => .quad (Fin.ofNat 4 q) i
  | 2 => .cluster (Fin.ofNat 64 c)
  | 3 => .core (Fin.ofNat 2048 (32 * c + i % 32))
  | 4 => .bank (Fin.ofNat 64 c) (Fin.ofNat 32 i)
  | 5 => .link (Fin.ofNat 8 i)
  | 6 => .port (Fin.ofNat 4 q)
  | 7 => .dma (Fin.ofNat 4 q)
  | _ => .pkg i

/-- The page, and its instance, in whose PG_FLT a source of a unit reports (R527). -/
def faultPage (src : Nat) (u : FUnit) : Nat × Nat :=
  let core : Nat := match u with
    | .core k => k
    | _ => 32 * (unitCl u).getD 0
  let cl := (unitCl u).getD 0
  let q := unitQuad u
  if src < 0x300 then
    match src % 12 with
    | 0 | 1 | 6 | 8 => (pgCORE, core)
    | 4 | 5 => (pgMC, core)
    | 9 => (pgDENSE, core)
    | 10 | 11 => (pgPWRC, cl)
    | _ => (pgCMEM, cl)
  else if src < 0x3C0 then
    match (src - 0x300) % 48 with
    | 0 => (pgCORE, core)
    | 1 => (pgCMEM, cl)
    | 2 => (pgDENSE, core)
    | 3 => (pgROAST, cl)
    | 4 => (pgUNIT, cl)
    | 5 | 6 | 7 | 8 => (pgGRIND, cl)
    | 9 | 10 | 11 => (pgDRIP, cl)
    | 12 => (pgPWRC, cl)
    | 13 | 14 | 15 => (pgINGRESS, q)
    | 16 | 17 => (pgDMA, q)
    | 18 | 19 | 20 => (pgETH, q)
    | 21 | 22 => (pgDDR, q)
    | 23 => (pgSD, q)
    | 28 => (pgCLK, 0)
    | _ => (pgSC, match u with
      | .link k => k
      | _ => 2 * q)
  else match src with
    | 0x3C0 => (pgBOOT, 0)
    | 0x3C3 => (pgCLK, 0)
    | 0x3C5 => (pgIC, 0)
    | _ => (pgFLT, 0)

/-- A raise reports in its page: SOURCE, and RAISED unless masked (19 R500). -/
def Hw.pageFault (h : Hw) (src : Nat) (u : FUnit) : Hw :=
  let p := faultPage src u
  let h := h.setFld (pgFlt p.1) p.2 25 16 src
  if h.flag (pgFltMask p.1) p.2 0 then h else h.setFlag (pgFlt p.1) p.2 0 true

/-! ### Actions (R460–R464) -/

/-- The severity in force of a source; PLL_LOCK always acts at 3 (R428, R460). -/
def Hw.severity (h : Hw) (src : Nat) : Nat :=
  if isPllLock src then 3 else h.fld (FLT_SEV (src / 16)) 0 (2 * (src % 16) + 1) (2 * (src % 16))

/-- A severity-3 recovery is in progress: its compute reset, and the restore up to RESTORED, cover containment (R461, R463, log 68). -/
def Hw.recovering (h : Hw) : Bool := h.flag FLT_STAT 0 1 && !h.flag FLT_STAT 0 2

/-- Containment of a unit (R461). -/
def Hw.contain (h : Hw) (u : FUnit) : Hw :=
  match u with
  | .quad _ _ => h.inc CONTAIN_NA_CNT
  | .pkg _ => h.inc CONTAIN_NA_CNT
  | u =>
    if h.recovering then h
    else match u with
      | .core k => (h.coreRstHold (k.val / 32) (h.reg CORE_RST_HOLD (k.val / 32) ||| w32 (2 ^ (k.val % 32)))).inc CONTAIN_CNT
      | .bank c _ => (h.clusterReset c true).inc CONTAIN_CNT
      | .cluster c => (h.clusterReset c true).inc CONTAIN_CNT
      | .dma q => ((List.range 16).foldl (fun h i => h.dmaAbort (16 * q.val + i)) h).inc CONTAIN_CNT
      | .port q => (h.linkFall q).inc CONTAIN_CNT
      | .link k => (h.scTrain k).inc CONTAIN_CNT
      | _ => h

/-- Containment of a unit that has one. -/
def Hw.containUnit (h : Hw) (u : FUnit) : Hw :=
  match u with
  | .quad _ _ => h
  | .pkg _ => h
  | _ => h.contain u

/-- The collector enters HALTED: STEP_CTRL.RUN is held at 0 (R464). -/
def Hw.halt (h : Hw) : Hw := (((h.setFlag FLT_STAT 0 2 true).irqWatch 3).setFld STEP_CTRL 0 1 0 0).quietSync

/-- FLT_SEV3_MAX; 0 is taken as 1. -/
def Hw.sev3Max (h : Hw) : Nat := max 1 (h.fld FLT_SEV3_MAX 0 3 0)

/-- A severity-3 recovery, or HALTED (R463, R464, R469). A raise during a compute reset starts no recovery of its own (16 R436); the unit
is contained then, unless a recovery covers it (R460, R461). -/
def Hw.recover (h : Hw) (src : Nat) (u : FUnit) : Hw :=
  if h.flag FLT_STAT 0 2 ∨ h.sev3Max ≤ h.fld FLT_STAT 0 7 4 then (h.halt).containUnit u
  else if h.reg RST_STAT ≠ 0#32 then (h.inc RST_IGN_CNT).containUnit u
  else
    let h := ((h.setFld FLT_STAT 0 7 4 (h.fld FLT_STAT 0 7 4 + 1)).inc SEV3_CNT).setFlag FLT_STAT 0 1 true
    let h := h.updFlt fun f => { f with outages := f.outages ++ [h.dev] }
    h.computeReset (if isPllLock src then 5 else 4)

/-- The log takes the raise, or counts it (R465). -/
def Hw.logRaise (h : Hw) (e : Word × Word × Word) : Hw :=
  if h.flt.log.length < 64 then h.updFlt fun f => { f with log := f.log ++ [e] } else h.inc FLT_LOG_DROP_CNT

/-- NORMAL latches the first fault, FAULT counts another (R466). -/
def Hw.latchFault (h : Hw) (e : Word × Word × Word) : Hw :=
  if h.flag FLT_STAT 0 0 then (h.setFlag FLT_STAT 0 3 true).inc FLT_OVF_CNT
  else (((h.setReg FAULT_FIRST 0 e.1).setReg FAULT_FIRST_STEP 0 e.2.1).setReg FAULT_FIRST_UNIT 0 e.2.2).setFlag FLT_STAT 0 0 true

/-- What firmware keeps of core faults: a physical core is to be retired after a CORE_UE, and after two CORE_CE_HIGH in 24 hours (03 R106). -/
def Hw.noteCore (h : Hw) (src : Nat) : FUnit → Hw
  | .core k =>
    let y := 64 * (k.val / 32) + h.phys k
    let recent := h.fw.ceHighs.filter fun x => decide (h.dev < x.2 + day)
    let due (h : Hw) : Hw := if h.fw.retireDue.contains y then h else { h with fw := { h.fw with retireDue := h.fw.retireDue ++ [y] } }
    if src = srcCl fCoreUe (k.val / 32) then due h
    else if src = srcCl fCoreCeHigh (k.val / 32) then
      let h := if recent.any (fun x => x.1 == y) then due h else h
      { h with fw := { h.fw with ceHighs := recent ++ [(y, h.dev)] } }
    else h
  | _ => h

/-- Every action of a raise (R460). -/
def Hw.collect (h : Hw) (r : Report) : Hw :=
  let sev := h.severity r.src
  let e := (w32 (r.src + sev * 2 ^ 12 + 2 ^ 31), r.step, (r.raw.getD (h.unitWord r.unit)))
  let h := ((h.logRaise e).pageFault r.src r.unit).noteCore r.src r.unit
  if sev = 0 then h
  else
    let h := ((h.setFlag (FLT_PEND (r.src / 32)) 0 (r.src % 32) true).irqWatch 1).latchFault e
    let h := h.quietRestart
    if sev = 1 then h else if sev = 2 then h.contain r.unit else h.recover r.src r.unit

/-- The report that the collector takes next: of those of the oldest management-plane cycle, the lowest source (R467). -/
def nextReport : List Report → Option Report
  | [] => none
  | r :: rest =>
    some (rest.foldl (fun b x => if x.at_ / 8 = r.at_ / 8 ∧ x.src < b.src then x else b) r)

/-- The collector takes a raise. -/
def Hw.faultRaise (h : Hw) : Hw :=
  match nextReport h.reports with
  | none => h
  | some r => ({ h with reports := h.reports.erase r }).collect r

/-- A raised source reaches the collector. -/
def execFaultRaise (s : State) : Out := s.onHw fun h => h.faultRaise

/-! ### Firmware's side (R463–R465, R477) -/

/-- A FLT_RAISE write raises the source with the unit in FLT_RAISE_UNIT; a reserved number is never raised (R456). -/
def Hw.fltRaise (h : Hw) (v : Word) : Hw :=
  let w := h.reg FLT_RAISE_UNIT
  let n := bits v 9 0
  if bits v 31 16 = 0xFA17 ∧ isSource n then
    { h with reports := h.reports ++ [{ src := n, unit := unitOf w, step := h.stepNum, at_ := h.dev, raw := some w }] }
  else h

/-- A FLT_CTRL write: RESTORED, HALT, RELEASE (R463, R464), in that order (DESIGN CHOICE, log 130). -/
def Hw.fltCtrl (h : Hw) (v : Word) : Hw :=
  let h := if bit v 0 then (h.setFlag FLT_STAT 0 1 false).quietSync else h
  let h := if bit v 1 then h.halt else h
  if bit v 2 then ((h.setFlag FLT_STAT 0 2 false).setFld FLT_STAT 0 7 4 0).quietSync else h

/-- A read of FLT_LOG_POP: an MP takes the oldest entry, an RCP engine only sees it (R465, R475). -/
def Hw.logPop (h : Hw) (take : Bool) : Hw × Word :=
  match h.flt.log with
  | [] => (h, 0#32)
  | e :: r =>
    if take then ((((h.updFlt fun f => { f with log := r }).setReg FLT_LOG_STEP 0 e.2.1).setReg FLT_LOG_UNIT 0 e.2.2), e.1) else (h, e.1)

/-- FLT_QUIET in fabric cycles; 0 ms is taken as 1. -/
def Hw.quietTime (h : Hw) : Nat := max 1 (h.fld FLT_QUIET 0 13 0) * 1000 * us

/-- The quiet period ends, unless a raise falls in the same cycle (R467, R468). -/
def Hw.quietExpires (h : Hw) : Hw :=
  match h.flt.quietFrom with
  | none => h
  | some t =>
    let h := h.advTo (t + (h.quietTime - h.flt.quiet))
    if h.reports ≠ [] then h
    else
      let h := ((h.setReg FAULT_PREV 0 (h.reg FAULT_FIRST)).setReg FAULT_PREV_STEP 0 (h.reg FAULT_FIRST_STEP)).setReg FAULT_PREV_UNIT 0 (h.reg FAULT_FIRST_UNIT)
      let h := ((h.setReg FAULT_FIRST 0 0#32).setReg FAULT_FIRST_STEP 0 0#32).setReg FAULT_FIRST_UNIT 0 0#32
      let h := (((h.setReg FLT_STAT 0 0#32).inc RECOVERY_CNT).setFlag FLT_EVT 0 0 true).irqWatch 2
      h.updFlt fun f => { f with quiet := 0, quietFrom := none }

/-- The quiet timer reaches FLT_QUIET. -/
def execQuietPeriodExpiry (s : State) : Out := s.onHw fun h => h.quietExpires

end Sys2Proof.Machine
end

