-- ==== Sys2Proof/Machine/Irq.lean ====
section
/-! DEFINITION. The interrupt controller: pending, claim, complete, and the end of a guard window (17 R470–R475). -/

namespace Sys2Proof.Machine

/-- IC_PRIO of a source, and whether it targets MPm. -/
def Hw.irqPrio (h : Hw) (i : Nat) : Nat := h.fld (IC_PRIO (i / 8)) 0 (4 * (i % 8) + 3) (4 * (i % 8))
def Hw.irqTgt (h : Hw) (i m : Nat) : Bool := h.flag (IC_TGT (i / 8)) 0 (4 * (i % 8) + m)

/-- The MP that has claimed a source, plus 1. -/
def Hw.irqActive (h : Hw) (i : Nat) : Nat := Tbl.get 0 h.flt.active i

/-- A source is pending (R470). -/
def Hw.irqPending (h : Hw) (i : Nat) : Bool :=
  h.irqLevel i && !h.flag (IC_MASK (i / 32)) 0 (i % 32) && decide (h.irqPrio i ≠ 0) && decide (h.irqActive i = 0)

/-- 32 bits of a predicate on sources. -/
def irqWord (f : Nat → Bool) (i : Nat) : Word := w32 (((List.range 32).map fun j => b2n (f (32 * i + j)) * 2 ^ j).sum)

/-- The best pending source for MPm: the highest priority above its threshold, the lowest number among equals (R472). -/
def Hw.irqBest (h : Hw) (m : Nat) : Nat :=
  let th := h.fld IC_THRESH 0 (4 * m + 3) (4 * m)
  (List.range 256).foldl (fun b i =>
    if h.irqPending i ∧ h.irqTgt i m ∧ th < h.irqPrio i ∧ (b = 0 ∨ h.irqPrio b < h.irqPrio i) then i else b) 0

/-- MPm's interrupt line (R470). -/
def Hw.irqLine (h : Hw) (m : Nat) : Bool := decide (h.irqBest m ≠ 0)

/-- MPm reads its IC_CLAIM. -/
def Hw.claim (h : Hw) (m : Nat) : Hw × Word :=
  let i := h.irqBest m
  if h.irqLine m = false then (h.inc IC_SPUR_CNT, 0#32)
  else (h.updFlt fun f => { f with active := Tbl.set 0 f.active i (m + 1) }, w32 i)

/-- MPm writes IC_COMPLETE[m] (R473): the source's active state ends and a guard window opens. -/
def Hw.complete (h : Hw) (m i : Nat) : Hw :=
  if h.irqActive i ≠ m + 1 then h.inc IC_CMPL_IGN_CNT
  else
    let h := h.updFlt fun f => { f with active := Tbl.set 0 f.active i 0 }
    if h.stormEn i = false then h
    else
      let high := h.irqLevel i
      let h := h.updFlt fun f =>
        { f with guard := Tbl.set 0 f.guard i (1 + b2n high), guardEnd := Tbl.set 0 f.guardEnd i (h.dev + h.stormTime) }
      if high then h.stormUp i else h

/-- The guard window of a source closes (R474). A level that rose in a window opened low and fell again, `rose`, counts as a rise that stands
does in `irqWatch` (log 33). -/
def Hw.guardCloses (h : Hw) (i : Nat) (rose : Bool) : Hw :=
  if Tbl.get 0 h.flt.guard i = 0 then h
  else
    let h := h.advTo (Tbl.get 0 h.flt.guardEnd i)
    let h := if rose ∧ Tbl.get 0 h.flt.guard i = 1 then h.stormUp i else h
    let h := h.updFlt fun f => { f with guard := Tbl.set 0 f.guard i 0, guardEnd := Tbl.set 0 f.guardEnd i 0 }
    if h.irqLevel i then h else h.updFlt fun f => { f with storm := Tbl.set 0 f.storm i 0 }

/-- A storm guard window closes. -/
def execStormWindowExpiry (i : Fin 256) (rose : Bool) (s : State) : Out := s.onHw fun h => h.guardCloses i rose

/-- An IC_MASK[i] write: a bit written 0 sets the source's C to 0 (R473, R474). -/
def Hw.maskWrite (h : Hw) (i : Nat) (v : Word) : Hw :=
  (h.setReg (IC_MASK i) 0 v).updFlt fun f => { f with storm := f.storm.filter fun x => x.1 / 32 != i || bit v (x.1 % 32) }

/-- IC_SWI_SET and IC_SWI_CLR. -/
def Hw.swiSet (h : Hw) (v : Word) : Hw :=
  (List.range 16).foldl (fun h n => h.irqWatch (96 + n)) (h.updFlt fun f => { f with swi := f.swi ||| (v &&& 0xFFFF#32) })
def Hw.swiClr (h : Hw) (v : Word) : Hw := h.updFlt fun f => { f with swi := f.swi &&& ~~~ v }

end Sys2Proof.Machine
end

