-- ==== Sys2Proof/Machine/Operands.lean ====
section
/-! DEFINITION. The microcode instruction word: its formats and operands (04 R121, R122), decoded and encoded. -/

namespace Sys2Proof.Machine

/-- The operations of 04 R122, with the five channel functions of R128. -/
inductive MOp
  | add | sub | adds | subs | and | or | xor | shl | shr | sra | mul | mulq | min | max | sat24 | slt
  | addi | andi | ori | xori | shli | shri | srai | lui | ext | ins
  | ld | st | ldb | stb | radd
  | beq | bne | blt | bge | jmp | jal | jr | endh | emit
  | chanListen | chanOpen | chanSend | chanClose | chanStatus
  | rand | csr | trap
deriving DecidableEq, Repr

/-- The opcode in [31:26]. -/
def MOp.code : MOp → Nat
  | .add => 0x00 | .sub => 0x01 | .adds => 0x02 | .subs => 0x03 | .and => 0x04 | .or => 0x05 | .xor => 0x06 | .shl => 0x07 | .shr => 0x08
  | .sra => 0x09 | .mul => 0x0A | .mulq => 0x0B | .min => 0x0C | .max => 0x0D | .sat24 => 0x0E | .slt => 0x0F | .addi => 0x10 | .andi => 0x11
  | .ori => 0x12 | .xori => 0x13 | .shli => 0x14 | .shri => 0x15 | .srai => 0x16 | .lui => 0x17 | .ext => 0x18 | .ins => 0x19
  | .ld => 0x20 | .st => 0x21 | .ldb => 0x22 | .stb => 0x23 | .radd => 0x24
  | .beq => 0x30 | .bne => 0x31 | .blt => 0x32 | .bge => 0x33 | .jmp => 0x34 | .jal => 0x35 | .jr => 0x36 | .endh => 0x37 | .emit => 0x38
  | .chanListen => 0x39 | .chanOpen => 0x39 | .chanSend => 0x39 | .chanClose => 0x39 | .chanStatus => 0x39
  | .rand => 0x3A | .csr => 0x3B | .trap => 0x3C

/-- The channel function in [2:0]. -/
def MOp.func : MOp → Nat
  | .chanOpen => 1 | .chanSend => 2 | .chanClose => 3 | .chanStatus => 4 | _ => 0

/-- The operation of an opcode, and of a function for the channel opcode; none for a reserved one, which functions 5 to 7 are too (DEDUCED,
log 69). -/
def MOp.ofCode (c f : Nat) : Option MOp :=
  match c with
  | 0x00 => some .add | 0x01 => some .sub | 0x02 => some .adds | 0x03 => some .subs | 0x04 => some .and | 0x05 => some .or | 0x06 => some .xor
  | 0x07 => some .shl | 0x08 => some .shr | 0x09 => some .sra | 0x0A => some .mul | 0x0B => some .mulq | 0x0C => some .min | 0x0D => some .max
  | 0x0E => some .sat24 | 0x0F => some .slt | 0x10 => some .addi | 0x11 => some .andi | 0x12 => some .ori | 0x13 => some .xori | 0x14 => some .shli
  | 0x15 => some .shri | 0x16 => some .srai | 0x17 => some .lui | 0x18 => some .ext | 0x19 => some .ins
  | 0x20 => some .ld | 0x21 => some .st | 0x22 => some .ldb | 0x23 => some .stb | 0x24 => some .radd
  | 0x30 => some .beq | 0x31 => some .bne | 0x32 => some .blt | 0x33 => some .bge | 0x34 => some .jmp | 0x35 => some .jal | 0x36 => some .jr
  | 0x37 => some .endh | 0x38 => some .emit
  | 0x39 => (match f with
    | 0 => some .chanListen | 1 => some .chanOpen | 2 => some .chanSend | 3 => some .chanClose | 4 => some .chanStatus | _ => none)
  | 0x3A => some .rand | 0x3B => some .csr | 0x3C => some .trap
  | _ => none

/-- An instruction: its operation, the register fields [25:22] and [21:18], and [17:0]. -/
structure MInstr where
  op : MOp
  f1 : Nat
  f2 : Nat
  low : Nat
deriving DecidableEq, Repr

/-- Register field [17:14]. -/
def MInstr.f3 (i : MInstr) : Nat := i.low / 2 ^ 14

/-- Branch target [9:0]. -/
def MInstr.tgt (i : MInstr) : Nat := i.low % 1024

/-- The fields that R121 and R122 require to be 0 are 0, and the immediate of CSR is not reserved. -/
def MInstr.fieldsOk (i : MInstr) : Bool :=
  match i.op with
  | .sat24 => decide (i.low = 0)
  | .rand => decide (i.f2 = 0) && decide (i.low = 0)
  | .lui => decide (i.f2 = 0)
  | .csr => decide (i.f2 = 0) && decide (i.low < 5)
  | .trap => decide (i.f1 = 0) && decide (i.f2 = 0)
  | .emit => decide (i.f1 = 0) && decide (i.low % 2 ^ 14 = 0)
  | .radd => decide (i.f1 < 2) && decide (i.low % 2 ^ 14 < 8)
  | .beq | .bne | .blt | .bge => decide (i.low < 1024)
  | .jmp | .jal | .endh => decide (i.f1 = 0) && decide (i.f2 = 0) && decide (i.low < 1024)
  | .jr => decide (i.f2 = 0) && decide (i.low < 1024)
  | .chanListen | .chanOpen | .chanSend | .chanClose | .chanStatus => decide (i.low % 2 ^ 14 = i.op.func)
  | .addi | .andi | .ori | .xori | .shli | .shri | .srai | .ext | .ins | .ld | .st | .ldb | .stb => true
  | .add | .sub | .adds | .subs | .and | .or | .xor | .shl | .shr | .sra | .mul | .mulq | .min | .max | .slt => decide (i.low % 2 ^ 14 = 0)

/-- A well-formed instruction: every field in its width, and the zero fields 0. -/
def MInstr.wf (i : MInstr) : Bool := decide (i.f1 < 16) && decide (i.f2 < 16) && decide (i.low < 2 ^ 18) && i.fieldsOk

/-- The word of an instruction. -/
def mcEncode (i : MInstr) : Word := w32 (i.op.code * 2 ^ 26 + i.f1 * 2 ^ 22 + i.f2 * 2 ^ 18 + i.low)

/-- The instruction of a word; none for a reserved opcode or a non-zero field that must be 0 (R124). -/
def mcDecode (w : Word) : Option MInstr :=
  match MOp.ofCode (w.toNat / 2 ^ 26 % 64) (w.toNat % 8) with
  | none => none
  | some op =>
    let i : MInstr := { op := op, f1 := w.toNat / 2 ^ 22 % 16, f2 := w.toNat / 2 ^ 18 % 16, low := w.toNat % 2 ^ 18 }
    if i.fieldsOk then some i else none

/-- The 18-bit immediate sign-extended. -/
def MInstr.simm (i : MInstr) : Word := wInt (sext 18 i.low)

/-- The immediate zero-extended. -/
def MInstr.uimm (i : MInstr) : Word := w32 i.low

/-- EXT: field position, width, and its value (R121). -/
def extVal (w : Word) (imm : Nat) : Word :=
  let pos := imm % 32
  let wd := imm / 32 % 32 + 1
  let v := w.toNat / 2 ^ pos % 2 ^ wd
  if imm / 1024 % 2 = 1 then wInt (sext wd v) else w32 v

/-- INS: the field of rd replaced by the low bits of ra; bits above 31 are discarded. -/
def insVal (d a : Word) (imm : Nat) : Word :=
  let pos := imm % 32
  let wd := imm / 32 % 32 + 1
  let m := w32 ((2 ^ wd - 1) * 2 ^ pos)
  (d &&& ~~~ m) ||| (w32 (a.toNat % 2 ^ wd * 2 ^ pos) &&& m)

/-- Signed saturation at 32 bits. -/
def sat32 (v : Int) : Word := wInt (satS 32 v)

end Sys2Proof.Machine
end

