-- ==== Sys2Proof/Machine/Micro.lean ====
section
/-! DEFINITION. The microcode engine: dispatch, the instruction set, aborts and the watchdog (04 R117–R141). -/

namespace Sys2Proof.Machine

/-! ### The engine -/

def Hw.eng (h : Hw) (k : Nat) : Engine := (h.core k).eng

def Hw.updEng (h : Hw) (k : Nat) (f : Engine → Engine) : Hw := h.updCore k fun c => { c with eng := f c.eng }

/-- Register m_r; m0 reads 0 (R120). -/
def Hw.mcReg (h : Hw) (k r : Nat) : Word := if r = 0 then 0#32 else Tbl.get 0#32 (h.eng k).m r

/-- Write m_r; writes of m0 are ignored (R120). -/
def Hw.mcSet (h : Hw) (k r : Nat) (v : Word) : Hw := if r = 0 then h else h.updEng k fun e => { e with m := Tbl.set 0#32 e.m r v }

/-- The limit of a kind of handler in core cycles, 0 taken as 1 (R133, R140). -/
def Hw.mcLimit (h : Hw) (k : Nat) (d : Kind) : Nat :=
  max 1 (match d with
    | .neuron => h.fld MC_LIMIT_N k 15 0
    | .event => h.fld MC_LIMIT_E k 15 0
    | .message => h.fld MC_LIMIT_M k 15 0)

/-- Number of a kind, as MC_STAT.KIND. -/
def Kind.code : Kind → Nat
  | .neuron => 0 | .event => 1 | .message => 2

/-- The engine was busy n more cycles. -/
def Hw.mcCycles (h : Hw) (k n : Nat) : Hw := (h.inc MC_CYC_CNT k n).updEng k fun e => { e with cyc := e.cyc + n }

/-- Neuron n of core k ended its handler at rest (03 R95). -/
def Hw.mcAtRest (h : Hw) (k n : Nat) : Bool :=
  let a := h.recAddr k n
  let w0 := h.word a
  let b := if h.compact k then bits (h.word (psetAddr k (h.psetOf k n) + 16)) 31 8 else bits (h.word (a + 12)) 31 8
  decide (bits w0 31 4 = 0) && !bit w0 2 && decide (bits (h.word (a + 4)) 31 16 = 0) && decide (b = 0)

/-- The handler leaves the engine, by END or by an abort (R131, R133), and with it what MC_CTRL and the entry registers held while it ran
(R141); the integrate phase goes on after a per-neuron handler. -/
def Hw.mcLeave (h : Hw) (k : Nat) : Hw :=
  let e := h.eng k
  let u := h.hostOf k
  let h := (h.updCore k fun c => { c with mcForce := none }).updEng k fun e => { e with running := false, freeAt := e.startAt + 2 * e.cyc }
  match e.kind with
  | .event => h
  | .message => h.messageEnd (epOfCore k) e.port e.recAt
  | .neuron =>
    let h := (h.hwm MC_NEURON_HWM k (min e.cyc 0xFFFF)).integCyc k e.cyc
    let h := if h.mcAtRest k e.neuron then h else h.notAtRest k
    if h.step.phase = .integrate ∧ (h.core u).integ.stage = .update e.neuron then
      let h := h.setStage u (.update (e.neuron + 1))
      if (h.core u).integ.forced then h.forceSkip u else h.integGo u
    else h

/-- Abort the handler with a cause (0 WATCHDOG, 1 ILLEGAL, 2 ADDR, 3 UNCORR, 4 TRAP), recorded with a program counter (R133, R139). -/
def Hw.mcAbort (h : Hw) (k cause code pc : Nat) : Hw :=
  let h := match cause with
    | 0 => h.inc MC_ABORT_CNT k
    | 1 => h.inc MC_ILLEGAL_CNT k
    | 2 => h.inc MC_ADDR_ERR_CNT k
    | _ => h
  let h := h.setReg MC_ABORT_INFO k (w32 (pc % 1024 + (h.eng k).kind.code * 2 ^ 10 + cause * 2 ^ 12 + code % 256 * 2 ^ 16))
  (h.raiseCore fMcFault k).mcLeave k

/-- What one instruction does to the engine. -/
inductive MRes
  /-- It completes in so many cycles and goes on at the next index, or at a target. -/
  | done (h : Hw) (cyc : Nat) (goto : Option Nat)
  /-- It ends the handler. -/
  | ended (h : Hw)
  /-- It aborts the handler with a cause and code. -/
  | abort (h : Hw) (cause code : Nat)
  /-- It waits. -/
  | wait (h : Hw)

/-- The engine's wait is over: its cycles are part of the handler's time (R133). -/
def Hw.mcGo (h : Hw) (k : Nat) : Hw :=
  let n := h.waited MC_CYC_CNT k
  if n = 0 then h else ((h.waitOff MC_CYC_CNT k).waitOff EGRESS_STALL_CNT k 1).updEng k fun e => { e with cyc := e.cyc + n }

/-- The engine takes the result of the instruction at `pc`; one that waits keeps the engine busy, cycle by cycle (R122, R139). -/
def Hw.mcTake (h : Hw) (k pc : Nat) : MRes → Hw
  | .wait g => (g.setReg MC_PC k (w32 pc)).waitOn MC_CYC_CNT k 2
  | .ended g => (((g.setReg MC_PC k (w32 pc)).mcCycles k 1).inc MC_HANDLER_CNT k).mcLeave k
  | .abort g cause code => (((g.mcGo k).setReg MC_PC k (w32 pc)).mcCycles k 1).mcAbort k cause code pc
  | .done g cyc goto =>
    let g := ((g.mcGo k).setReg MC_PC k (w32 pc)).mcCycles k cyc
    match goto with
    | some t => g.updEng k fun e => { e with pc := t }
    | none =>
      if pc < 1023 then g.updEng k fun e => { e with pc := pc + 1 }
      else if h.mcLimit k (g.eng k).kind ≤ (g.eng k).cyc then g
      else g.mcAbort k 2 0 pc

/-- The engine's next instruction, if it is the row `want`: fetched, decoded and carried out (R121–R124, R136). The engine does nothing while
it is idle, while another instruction is next, or once the handler has reached its limit. -/
def Hw.mcRun (h : Hw) (k : Nat) (want : MOp) (sem : Hw → Nat → MInstr → MRes) : Hw :=
  let e := h.eng k
  if e.running = false ∨ h.mcLimit k e.kind ≤ e.cyc then h
  else
    let r := h.coreRead k (storeAddr k e.pc)
    match r.2 with
    | none => h.mcTake k e.pc (.abort (r.1.coreUe k) 3 0)
    | some w =>
      match mcDecode w with
      | none => h.mcTake k e.pc (.abort r.1 1 0)
      | some i => if i.op = want then h.mcTake k e.pc (sem r.1 k i) else h

/-- A meaning that runs one row. -/
def mcExec (k : Core) (want : MOp) (sem : Hw → Nat → MInstr → MRes) (s : State) : Out := s.onHw fun h => h.mcRun k want sem

/-! ### Dispatch (R117–R120, R129, R136) -/

/-- Load m1, m2, … from a list, clearing the rest up to m13 (R120). -/
def Hw.mcLoad (h : Hw) (k : Nat) (l : List Word) : Hw :=
  (rangeIncl 1 13).foldl (fun h i => h.mcSet k i (l.getD (i - 1) 0#32)) h

/-- The engine starts a handler. -/
def Hw.mcStart (h : Hw) (k : Nat) (d : Kind) (entry : Nat) (dstep : Word) : Hw :=
  h.updCore k fun c =>
    { c with
      warm := false
      eng := { c.eng with running := true, kind := d, pc := entry % 1024, cyc := 0, dstep := dstep, startAt := max h.dev c.eng.freeAt } }

/-- Dispatch the per-neuron handler of neuron n: its words are loaded, then its slot is cleared (DESIGN CHOICE of a compact C2, log 132); a
double-bit error in a loaded word aborts at the entry. -/
def Hw.dispatchNeuron (h : Hw) (k n : Nat) : Hw :=
  let entry := bits (h.reg MC_ENTRY k) 9 0
  let j := h.stepNum.toNat % 16
  let sa := h.slotAddr k n j
  let s := h.psetOf k n
  let h := (h.mcStart k .neuron entry h.stepNum).updEng k fun e => { e with neuron := n }
  let r := h.coreReads k (h.recWordsAt k n j)
  let p := r.h.coreReads k ([0, 1, 2, 5].map fun i => psetAddr k s + 4 * i)
  let slot := p.h.read24 sa
  let h := p.h.write24 sa 0
  let w i := r.ws.getD i 0#32
  let v i := p.ws.getD i 0#32
  if r.bad + p.bad = 0 then
    h.mcLoad k [w32 (h.imageBase k + n), w32 ((if h.compact k then 12 else 64) * n), wInt slot, h.stepNum, w 0, w 1, w 2,
      if h.compact k then 0#32 else w 3, w32 (0x24000 + 32 * s), v 0, v 1, v 2, v 3]
  else ((h.coreUes k (r.bad + p.bad)).notAtRest k).mcAbort k 3 0 entry

/-- Dispatch the oldest per-event handler. -/
def Hw.dispatchEvent (h : Hw) (k : Nat) (e : EvHandler) (rest : List EvHandler) : Hw :=
  let h := (h.updCore k fun c => { c with evq := rest }).mcStart k .event e.entry e.arr.dstep
  let lo := e.arr.ev.low
  h.mcLoad k [w32 e.ord, w32 (bits lo 23 8), w32 (bits lo 31 24 + bits lo 7 0 * 256), h.stepNum, e.desc0, e.desc1, e.arr.dstep]

/-- Dispatch the oldest per-message handler; m2 is an offset in data memory (DEDUCED, log 19). -/
def Hw.dispatchMessage (h : Hw) (k : Nat) (m : MsgRec) (rest : List MsgRec) : Hw :=
  let e := epOfCore k
  let l := h.port e m.port
  let h := (h.updEp e fun s => { s with msgq := rest }).mcStart k .message l.entry h.stepNum
  let h := h.updEng k fun e => { e with port := m.port, recAt := m.at_ }
  h.mcLoad k [w32 m.conn, w32 (l.base + m.at_ + 4), w32 m.len, h.stepNum, w32 m.port]

/-- The neuron whose handler the integrate phase of core k waits for. -/
def Hw.neuronWaits (h : Hw) (k : Nat) : Option Nat :=
  let u := h.hostOf k
  match (h.core u).integ.stage with
  | .update n =>
    if h.step.phase = .integrate ∧ h.live u = k ∧ h.egressFull k = false ∧ n < h.imageN k ∧ h.isMc k n ∧ h.timeUp u = false then some n else none
  | _ => none

/-- The core is in the neuron-update part of its integrate phase. -/
def Hw.updating (h : Hw) (k : Nat) : Bool :=
  match (h.core (h.hostOf k)).integ.stage with
  | .update _ => true
  | _ => false

/-- The engine of core k, when free, dispatches the next handler (R117, R129). -/
def Hw.mcDispatch (h : Hw) (k : Nat) : Hw :=
  if (h.eng k).running ∨ h.coreAvail k = false ∨ h.mcEnable k = false then h
  else if h.updating k then
    match h.neuronWaits k with
    | some n => h.dispatchNeuron k n
    | none => h
  else
    match (h.core k).evq with
    | e :: r => h.dispatchEvent k e r
    | [] =>
      match (h.ep (epOfCore k)).msgq with
      | m :: r => h.dispatchMessage k m r
      | [] => h

/-- The engine dispatches the next handler. -/
def execHandlerDispatch (k : Core) (s : State) : Out := s.onHw fun h => h.mcDispatch k

/-- A handler that has reached its limit is aborted (R133). -/
def Hw.mcWatchdog (h : Hw) (k : Nat) : Hw :=
  let e := h.eng k
  if e.running ∧ h.mcLimit k e.kind ≤ e.cyc then h.mcAbort k 0 0 (h.fld MC_PC k 9 0) else h

/-- The watchdog aborts a handler. -/
def execMcWatchdogAbort (k : Core) (s : State) : Out := s.onHw fun h => h.mcWatchdog k

/-! ### Register instructions (R122) -/

/-- rd = f(ra, rb). -/
def semR (cyc : Nat) (f : Word → Word → Word) (h : Hw) (k : Nat) (i : MInstr) : MRes :=
  .done (h.mcSet k i.f1 (f (h.mcReg k i.f2) (h.mcReg k i.f3))) cyc none

/-- MULQ: a quotient that 32 bits do not hold has no stated value and is free (log 132). -/
def semMulq (h : Hw) (k : Nat) (i : MInstr) : MRes :=
  let v := rtz (h.mcReg k i.f2).toInt (bits (h.mcReg k i.f3) 15 0)
  if -(2 ^ 31) ≤ v ∧ v < 2 ^ 31 then .done (h.mcSet k i.f1 (wInt v)) 2 none
  else let f := h.free; .done (f.2.mcSet k i.f1 f.1) 2 none

/-- rd = f(ra). -/
def semI (f : Word → Word) (h : Hw) (k : Nat) (i : MInstr) : MRes := .done (h.mcSet k i.f1 (f (h.mcReg k i.f2))) 1 none

def execMcAdd (k : Core) (s : State) : Out := mcExec k .add (semR 1 (· + ·)) s
def execMcSub (k : Core) (s : State) : Out := mcExec k .sub (semR 1 (· - ·)) s
def execMcAdds (k : Core) (s : State) : Out := mcExec k .adds (semR 1 fun a b => sat32 (a.toInt + b.toInt)) s
def execMcSubs (k : Core) (s : State) : Out := mcExec k .subs (semR 1 fun a b => sat32 (a.toInt - b.toInt)) s
def execMcAnd (k : Core) (s : State) : Out := mcExec k .and (semR 1 (· &&& ·)) s
def execMcOr (k : Core) (s : State) : Out := mcExec k .or (semR 1 (· ||| ·)) s
def execMcXor (k : Core) (s : State) : Out := mcExec k .xor (semR 1 (· ^^^ ·)) s
def execMcShl (k : Core) (s : State) : Out := mcExec k .shl (semR 1 fun a b => a <<< bits b 4 0) s
def execMcShr (k : Core) (s : State) : Out := mcExec k .shr (semR 1 fun a b => a >>> bits b 4 0) s
def execMcSra (k : Core) (s : State) : Out := mcExec k .sra (semR 1 fun a b => a.sshiftRight (bits b 4 0)) s
def execMcMul (k : Core) (s : State) : Out := mcExec k .mul (semR 2 (· * ·)) s
def execMcMulq (k : Core) (s : State) : Out := mcExec k .mulq semMulq s
def execMcMin (k : Core) (s : State) : Out := mcExec k .min (semR 1 fun a b => if a.toInt ≤ b.toInt then a else b) s
def execMcMax (k : Core) (s : State) : Out := mcExec k .max (semR 1 fun a b => if a.toInt ≤ b.toInt then b else a) s
def execMcSat24 (k : Core) (s : State) : Out := mcExec k .sat24 (semI fun a => wInt (sat24 a.toInt)) s
def execMcSlt (k : Core) (s : State) : Out := mcExec k .slt (semR 1 fun a b => if a.toInt < b.toInt then 1#32 else 0#32) s

/-- rd = f(ra, instruction). -/
def semImm (f : Word → MInstr → Word) (h : Hw) (k : Nat) (i : MInstr) : MRes := semI (fun a => f a i) h k i

def execMcAddi (k : Core) (s : State) : Out := mcExec k .addi (semImm fun a i => a + i.simm) s
def execMcAndi (k : Core) (s : State) : Out := mcExec k .andi (semImm fun a i => a &&& i.uimm) s
def execMcOri (k : Core) (s : State) : Out := mcExec k .ori (semImm fun a i => a ||| i.uimm) s
def execMcXori (k : Core) (s : State) : Out := mcExec k .xori (semImm fun a i => a ^^^ i.uimm) s
def execMcShli (k : Core) (s : State) : Out := mcExec k .shli (semImm fun a i => a <<< (i.low % 32)) s
def execMcShri (k : Core) (s : State) : Out := mcExec k .shri (semImm fun a i => a >>> (i.low % 32)) s
def execMcSrai (k : Core) (s : State) : Out := mcExec k .srai (semImm fun a i => a.sshiftRight (i.low % 32)) s
def execMcLui (k : Core) (s : State) : Out := mcExec k .lui (semImm fun _ i => w32 (i.low * 2 ^ 14)) s
def execMcExt (k : Core) (s : State) : Out := mcExec k .ext (semImm fun a i => extVal a i.low) s

/-- INS also reads rd. -/
def semIns (h : Hw) (k : Nat) (i : MInstr) : MRes := .done (h.mcSet k i.f1 (insVal (h.mcReg k i.f1) (h.mcReg k i.f2) i.low)) 1 none

def execMcIns (k : Core) (s : State) : Out := mcExec k .ins semIns s

/-! ### Memory instructions (R119, R125) -/

/-- Where a handler address points. -/
inductive HAddr
  | sram (a : Nat) | dm (a : Nat) | pram (a : Nat) | bad
deriving DecidableEq, Repr

/-- The handler address space (R119): word addresses relative to the core's memories. -/
def hAddr (w : Word) : HAddr :=
  let a := w.toNat / 4 * 4
  if a < 0x20000 then .sram a else if a < 0x22000 then .dm a else if 0x24000 ≤ a ∧ a < 0x26000 then .pram a else .bad

/-- A word of core memory into a register; a double-bit error aborts as UNCORR (R136). -/
def loadTo (h : Hw) (k a rd : Nat) : MRes :=
  let r := h.coreRead k (coreBase k + a)
  match r.2 with
  | some w => .done (r.1.mcSet k rd w) 2 none
  | none => .abort (r.1.coreUe k) 3 0

/-- LD. -/
def semLd (h : Hw) (k : Nat) (i : MInstr) : MRes :=
  match hAddr (h.mcReg k i.f2 + i.simm) with
  | .sram a => loadTo h k a i.f1
  | .dm a => loadTo h k a i.f1
  | .pram a => loadTo h k a i.f1
  | .bad => .abort h 2 0

def execMcLd (k : Core) (s : State) : Out := mcExec k .ld semLd s

/-- ST: a store to SRAM clears QUIET (03 R95); a store to parameter RAM is an address error. -/
def semSt (h : Hw) (k : Nat) (i : MInstr) : MRes :=
  match hAddr (h.mcReg k i.f2 + i.simm) with
  | .sram a => .done ((h.setWord (coreBase k + a) (h.mcReg k i.f1)).unquiet k) 1 none
  | .dm a => .done (h.setWord (coreBase k + a) (h.mcReg k i.f1)) 1 none
  | _ => .abort h 2 0

def execMcSt (k : Core) (s : State) : Out := mcExec k .st semSt s

/-- The bank and byte offset of a bank-path access; none outside a bank. -/
def bankPath (w : Word) (imm : Int) : Option (Nat × Nat) :=
  let o : Int := (bits w 18 0 : Int) + imm
  if 0 ≤ o ∧ o < 0x60000 then some (bits w 28 24, o.toNat / 4 * 4) else none

/-- A bank-path access: refused as ADDR, waiting for the bank, or carried out. -/
def semBank (write : Bool) (f : Hw → Nat → Nat → MRes) (h : Hw) (k : Nat) (i : MInstr) : MRes :=
  match bankPath (h.mcReg k i.f2) (sext 18 i.low) with
  | none => .abort h 2 0
  | some (b, off) =>
    match h.portA (k / 32) b off (k % 32) with
    | .ok => f h b off
    | .held => .wait (h.wakeBank (k / 32) b (whoPath k))
    | .denied => .abort (h.violation (k / 32) b off (k % 32) false write) 2 0

/-- LDB: a double-bit error is the bank's alone and aborts as UNCORR (05 R166). -/
def semLdb (h : Hw) (k : Nat) (i : MInstr) : MRes :=
  semBank false (fun h b off =>
    let r := h.bankRead (k / 32) b off
    match r.2 with
    | some w => .done (r.1.mcSet k i.f1 w) 6 none
    | none => .abort r.1 3 0) h k i

def execMcLdb (k : Core) (s : State) : Out := mcExec k .ldb semLdb s

/-- STB. -/
def semStb (h : Hw) (k : Nat) (i : MInstr) : MRes :=
  semBank true (fun h b off => .done (h.setWord (bankBase (k / 32) b + off) (h.mcReg k i.f1)) 2 none) h k i

def execMcStb (k : Core) (s : State) : Out := mcExec k .stb semStb s

/-- The step that a RADD counts its delay from: the delivery step in m7 of a per-event handler, STEP_NUM otherwise (R127). -/
def Hw.raddStep (h : Hw) (k : Nat) : Nat := (if (h.eng k).kind = .event then (h.eng k).dstep else h.stepNum).toNat

/-- RADD: a contribution rb to neuron ra[12:0] at delay d (R127). -/
def semRadd (h : Hw) (k : Nat) (i : MInstr) : MRes :=
  let n := bits (h.mcReg k i.f2) 12 0
  let d := i.low % 8 + 8 * (i.f1 % 2) + 1
  if h.imageN k ≤ n then .abort h 2 0
  else .done (h.contribute k n d (fun d => some (ringSlot (h.raddStep k) d)) (h.mcReg k i.f3).toInt) 1 none

def execMcRadd (k : Core) (s : State) : Out := mcExec k .radd semRadd s

/-! ### Control transfer (R122) -/

/-- Branch if p(ra, rb). -/
def semBranch (p : Word → Word → Bool) (h : Hw) (k : Nat) (i : MInstr) : MRes :=
  if p (h.mcReg k i.f1) (h.mcReg k i.f2) then .done h 2 (some i.tgt) else .done h 1 none

def execMcBeq (k : Core) (s : State) : Out := mcExec k .beq (semBranch (· == ·)) s
def execMcBne (k : Core) (s : State) : Out := mcExec k .bne (semBranch (· != ·)) s
def execMcBlt (k : Core) (s : State) : Out := mcExec k .blt (semBranch fun a b => decide (a.toInt < b.toInt)) s
def execMcBge (k : Core) (s : State) : Out := mcExec k .bge (semBranch fun a b => decide (b.toInt ≤ a.toInt)) s
def execMcJmp (k : Core) (s : State) : Out := mcExec k .jmp (fun h _ i => .done h 2 (some i.tgt)) s

/-- JAL: m15 takes the index of the next instruction. -/
def semJal (h : Hw) (k : Nat) (i : MInstr) : MRes := .done (h.mcSet k 15 (w32 ((h.eng k).pc + 1))) 2 (some i.tgt)

def execMcJal (k : Core) (s : State) : Out := mcExec k .jal semJal s
def execMcJr (k : Core) (s : State) : Out := mcExec k .jr (fun h k i => .done h 2 (some (bits (h.mcReg k i.f1) 9 0))) s
def execMcEnd (k : Core) (s : State) : Out := mcExec k .endh (fun h _ _ => .ended h) s

/-! ### Events, channels and the rest (R122, R126, R128, R530) -/

/-- EMIT: a full egress buffer stalls the engine in the integrate phase and drops the event in any other. -/
def semEmit (h : Hw) (k : Nat) (i : MInstr) : MRes :=
  let n := bits (h.mcReg k i.f2) 12 0
  let b := h.mcReg k i.f3
  if h.imageN k ≤ n then .abort h 2 0
  else if h.egressFull k then
    if h.step.phase = .integrate then .wait (h.waitOn EGRESS_STALL_CNT k 2 1) else .done (h.inc MC_EMIT_DROP_CNT k) 1 none
  else .done (h.egressPush k ⟨neuronAddr k (h.imageBase k + n), evLow (bits b 23 16) (bits b 15 0) (bits b 27 24)⟩) 1 none

def execMcEmit (k : Core) (s : State) : Out := mcExec k .emit semEmit s

/-- A channel function: rd takes its answer. -/
def semChan (cyc : Nat) (f : Hw → Nat → Word → Word → Hw × Word) (h : Hw) (k : Nat) (i : MInstr) : MRes :=
  let r := f h (epOfCore k) (h.mcReg k i.f2) (h.mcReg k i.f3)
  .done (r.1.mcSet k i.f1 r.2) cyc none

/-- LISTEN: bits [5:0] of the ring base are ignored, the base wraps at 8 KiB, and the port is bits [23:16] of ra (DESIGN CHOICE, log 21). -/
def semListen := semChan 4 fun h e a b => h.chanListen e (bits a 23 16) (bits a 12 6 * 64) (bits b 2 0) (bits b 25 16)

def execMcChanListen (k : Core) (s : State) : Out := mcExec k .chanListen semListen s

/-- OPEN of the endpoint address in ra (07 R205). -/
def execMcChanOpen (k : Core) (s : State) : Out :=
  mcExec k .chanOpen (semChan 4 fun h e a b => h.chanOpen e (bits a 19 16) (bits a 13 8) (bits a 5 0) (bits b 7 0)) s

/-- SEND: bytes are read from data memory before it returns; a range outside it is an address error; a length outside 1 to 256 is a free one
(log 21). -/
def semSend (h : Hw) (k : Nat) (i : MInstr) : MRes :=
  let b := h.mcReg k i.f3
  let l := bits b 31 16
  let f : Nat × Hw := if 1 ≤ l ∧ l ≤ 256 then (l, h) else let r := h.free; (r.1.toNat % 256 + 1, r.2)
  let a := bits b 15 0
  if 0x2000 < a + f.1 then .abort f.2 2 0
  else
    let ws := rangeIncl (a / 4) ((a + f.1 - 1) / 4)
    let g := ws.foldl (fun (g : Hw × Bool) w => let r := g.1.coreRead k (dmAddr k w); (r.1, g.2 && r.2.isSome)) (f.2, true)
    if g.2 then semChan (4 + ceilDiv f.1 16) (fun h e x _ => h.chanSend e x.toNat (h.bytes (dmAddr k 0 + a) f.1)) g.1 k i
    else .abort (g.1.coreUe k) 3 0

def execMcChanSend (k : Core) (s : State) : Out := mcExec k .chanSend semSend s

/-- CLOSE of a connection handle or of a port. -/
def semClose := semChan 4 fun h e a b => if bit b 0 then h.chanClosePort e a.toNat else h.chanCloseHandle e a.toNat

def execMcChanClose (k : Core) (s : State) : Out := mcExec k .chanClose semClose s

def execMcChanStatus (k : Core) (s : State) : Out := mcExec k .chanStatus (semChan 1 fun h e a _ => h.chanStatus e a.toNat) s

/-- RAND: the core's LFSR advances once. -/
def semRand (h : Hw) (k : Nat) (i : MInstr) : MRes :=
  let x := lfsrNext (h.reg MC_SEED k)
  .done ((h.setReg MC_SEED k x).mcSet k i.f1 x) 1 none

def execMcRand (k : Core) (s : State) : Out := mcExec k .rand semRand s

/-- The special values of CSR. -/
def Hw.csrVal (h : Hw) (k n : Nat) : Word :=
  match n with
  | 0 => h.stepNum
  | 1 => w32 (h.subStep h.dev)
  | 2 => neuronAddr k 0
  | 3 => w32 h.phaseCode
  | _ => w32 (h.eng k).cyc

def execMcCsr (k : Core) (s : State) : Out := mcExec k .csr (fun h k i => .done (h.mcSet k i.f1 (h.csrVal k i.low)) 1 none) s
def execMcTrap (k : Core) (s : State) : Out := mcExec k .trap (fun h _ i => .abort h 4 (i.low % 256)) s

end Sys2Proof.Machine
end

