-- ==== Sys2Proof/Machine/View.lean ====
section
/-! DEFINITION. What a register shows when it is read and no read of it has an effect: the value last written, or, for a field that reports,
what it reports (19 R500 and the register tables of every chapter). -/

namespace Sys2Proof.Machine

/-- Numbers of the power states (15 R431). -/
def PState.code : PState → Nat
  | .brew => 0 | .steep => 1 | .cold => 2 | .toSteep => 3 | .fromSteep => 4 | .toCold => 5 | .fromCold => 6

/-- Numbers of the roast's stages (09 R281). -/
def RStage.code : RStage → Nat
  | .idle => 0 | .pass1 => 1 | .recip => 2 | .pass2 => 3

/-- A manufacturing or test page (19 R499, R507). -/
def isMfg (p : Nat) : Bool := (decide (p < 0x300) && decide (0xF0 ≤ p % 256)) || decide (0x378 ≤ p)

/-! ### The common header (19 R500) -/

/-- PG_ID. A DRIPEP page of an endpoint above 31 counts as of the cluster region. -/
def pgId (p u : Nat) : Word :=
  let ep := u % 64
  let page := if p = pgDRIPEP ∧ 32 ≤ ep then 0x10 else p % 256
  let region := if p = pgDRIPEP ∧ 32 ≤ ep then 2 else p / 256
  let cls := if isMfg p then 2 else if p ∈ cfgPages then 1 else 0
  let inst := if p = pgTMR then u else if p = pgDRIPEP then ep else if p = pgCSIRX ∨ p = pgCSISTAT ∨ p = pgDEC ∨ p = pgSC then u % 2 else 0
  fields [(0, page % 256), (8, region), (10, cls), (12, inst)]

/-- The page's unit is unavailable (01 R21): a cluster, or a core. -/
def Hw.pageUnavail (h : Hw) (p u : Nat) : Bool :=
  if p = pgDRIPEP then
    (if u % 64 < 32 then !h.coreAvail (32 * (u / 64) + u % 64) else decide (u % 64 = 32) && !(h.cl (u / 64)).avail)
  else if 0x300 ≤ p then !h.coreAvail u
  else if 0x200 ≤ p then !(h.cl u).avail
  else false

/-- A register of the header; PG_FLT of a page that no source names stays 0. -/
def Hw.viewHeader (h : Hw) (p u off : Nat) : Word :=
  match off with
  | 0x000 => pgId p u
  | 0x004 => 0x100#32
  | 0x008 => fields [(0, b2n (h.pgEn p u)), (2, b2n (h.locked p u))]
  | 0x00C => fields [(0, b2n (h.pgEn p u)), (1, b2n (h.locked p u)), (2, b2n (h.pageUnavail p u))]
  | _ => h.reg ⟨p, off⟩ u

/-! ### Global pages -/

/-- TOPO (01 R50). -/
def Hw.viewTopo (h : Hw) (off : Nat) : Word :=
  match off with
  | 0x044 => w32 h.pkgNum
  | 0x048 =>
    let out (q : Nat) : Bool := (List.range 16).all fun i => (h.cl (16 * q + i)).mappedOut
    fields ((0, 0xF) :: (List.range 4).map fun q => (16 + q, b2n (out q)))
  | 0x04C => h.outMask 0
  | 0x050 => h.outMask 1
  | 0x054 => h.degMask 0
  | 0x058 => h.degMask 1
  | 0x05C => h.capacity
  | _ => h.reg ⟨pgTOPO, off⟩ 0

/-- DONE and DQUIET are of the current step: they read 0 while none runs, as at reset, though R21 holds an unavailable unit's at 1 for the
barrier (log 125). -/
def Hw.stepping (h : Hw) : Bool := decide (h.step.phase ≠ .idle)

/-- STEP (02 R81). -/
def Hw.viewStep (h : Hw) (off : Nat) : Word :=
  if off = STEP_STAT.off then
    let run := h.stepping
    fields [(0, h.phaseCode), (4, b2n (run && decide (h.nominal < h.dev))), (5, b2n h.step.forced),
      (8, if run then h.subStep h.dev else 0), (16, h.ctx)]
  else h.reg ⟨pgSTEP, off⟩ 0

/-- CTX_STAT (18 R495). -/
def Hw.ctxStat (h : Hw) : Word :=
  fields [(0, h.ctx), (4, b2n h.switching), (5, h.sw.stage), (8, b2n h.confResident), (9, b2n h.debugClosed), (10, b2n (!h.someResident))]

/-- A power state with its pending target (15 R431, R432). -/
def pwrStat (s : PState) (pend : Option Nat) (rest : Nat) : Word :=
  fields [(0, s.code), (4, b2n pend.isSome), (5, pend.getD 0), (8, rest)]

/-- PLL_STAT: the PLLs that run and have locked (15 R427, R433). -/
def Hw.pllStat (h : Hw) : Word := fields ((List.range 16).map fun i => (i, b2n (h.pllLocked i)))

/-- A word of always-on memory; the save area reads free while it holds register images (15 R416). -/
def Hw.aomRead (h : Hw) : Hw × Word :=
  let a := 4 * h.fld AOM_ADDR 0 15 2
  if a < 0xC000 ∧ h.pkg.saved then let f := h.free; (f.2, f.1) else (h, h.word (aomBase + a))

/-- IC (17 R478). -/
def Hw.viewIc (h : Hw) (off : Nat) : Word :=
  if 0x080 ≤ off ∧ off < 0x0A0 then irqWord h.irqLevel ((off - 0x080) / 4)
  else if 0x0A0 ≤ off ∧ off < 0x0C0 then irqWord h.irqPending ((off - 0x0A0) / 4)
  else if 0x0C0 ≤ off ∧ off < 0x0E0 then irqWord (fun i => decide (h.irqActive i ≠ 0)) ((off - 0x0C0) / 4)
  else h.reg ⟨pgIC, off⟩ 0

/-- Global pages. -/
def Hw.viewGlobal (h : Hw) (p u off : Nat) : Word :=
  if p = pgTOPO then h.viewTopo off
  else if p = pgSTEP then h.viewStep off
  else if p = pgIC then h.viewIc off
  else
    let r : Rg := ⟨p, off⟩
    if r = EPOCH_STAT then setBits (h.reg r) 19 16 h.ctx
    else if r = CTX_STAT then h.ctxStat
    else if r = FUSE_STAT then setBit (h.reg r) 0 h.pkg.blow.isSome
    else if r = PKG_PWR_STAT then pwrStat h.pkg.pst h.pkg.pend (h.fld r 0 11 8)
    else if r = PLL_STAT then h.pllStat
    else if r = FLT_STAT then setBits (h.reg r) 29 16 (h.quietCycles / (1000 * us))
    else if r = FLT_LOG_LVL then w32 h.flt.log.length
    else if r = PAD_STAT then setBit (h.reg r) 2 h.pkg.pwrGood
    else if r = TMR_CMP1_SH then h.shadow u
    else h.reg r u

/-! ### Quadrant pages -/

/-- Quadrant pages. -/
def Hw.viewQuad (h : Hw) (p u off : Nat) : Word :=
  let r : Rg := ⟨p, off⟩
  if r = DMA_BUSY then h.dmaBusy u
  else if r = ETH_STAT then setBits (h.reg r u) 11 8 (h.eth u).sessions.length
  else if r = SC_STAT then
    setBit (h.reg r u) 3 (h.someResident && !h.uaHold && decide (h.reg RST_STAT = 0#32) && !h.switching)
  else if r = CSI_STAT then let s := h.csi u; fields [(0, b2n s.hs), (1, b2n s.ulps), (16, s.fifo.length)]
  else if r = FR_STAT then setBits (h.reg r u) 4 4 (h.csi u).active
  else if r = ING_STAT then fields [(0, (h.ing u).bank), (16, (h.ing u).touched.length)]
  else h.reg r u

/-! ### Cluster pages -/

/-- A cluster's done; an unavailable unit's is held at 1 (01 R21). -/
def Hw.clDone (h : Hw) (c : Nat) : Bool := !(h.cl c).avail || (h.cl c).done

/-- RT_STAT (06 R199). -/
def Hw.rtStat (h : Hw) (c : Nat) : Word :=
  let v := h.cl c
  let f := v.slot / 1024
  fields [(0, v.fseq), (1, b2n (decide (v.fseq ≠ h.fld RT_CTRL c 0 0))), (8, bits (h.tab .fseq c (v.fseq * 2 ^ 16 + f)) 2 0), (16, f % 512)]

/-- Flits that wait at the local side of a drip router (07 R232). -/
def Hw.localFlits (h : Hw) (c : Nat) : Nat :=
  let v := h.cl c
  (v.dlocal.map fun x => x.2.length).sum + (v.dpkts.map fun x => (x.2.map List.length).sum).sum

/-- Cluster pages. -/
def Hw.viewCluster (h : Hw) (p c off : Nat) : Word :=
  let r : Rg := ⟨p, off⟩
  let v := h.cl c
  if r = UNIT_STAT then
    fields [(0, b2n v.avail), (1, b2n (h.stepping && h.clDone c)), (2, b2n (decide (h.working c < 32))), (3, b2n v.mappedOut), (8, h.working c)]
  else if r = STEPC_STAT then
    let n := ((coresOf c).filter fun k => h.coreAvail k && !(h.core k).done).length
    fields [(0, b2n (h.stepping && h.clDone c)), (1, b2n (h.stepping && h.dquiet c)), (2, b2n v.dclose), (3, b2n v.poured), (16, n)]
  else if r = STEPC_DONE_TIME then w32 (min (2 ^ 24 - 1) v.doneTime)
  else if r = DEG_STAT then fields [(0, ((coresOf c).filter fun k => h.pairHost k).length), (8, h.working c)]
  else if r = BANK_RDY then h.bankRdy c
  else if r = SR_DATA then h.srData c
  else if r = RT_STAT then h.rtStat c
  else if r = DRIP_STAT then fields [(0, b2n (h.throttling c)), (1, b2n (h.stepping && h.dquiet c)), (16, min 63 (h.localFlits c))]
  else if r = ROAST_STAT then
    let s := v.roast
    fields [(0, b2n s.busy), (1, s.stage.code), (3, min 31 s.seg), (8, b2n (s.busy && s.blocking))]
  else if p = pgROAST ∧ 0x090 ≤ off ∧ off < 0x0A0 then Tbl.get 0#32 v.mods ((off - 0x090) / 4)
  else if r = CL_PWR_STAT then pwrStat v.pst v.pend (b2n v.waitAdv)
  else if r = CL_VTRIM then setBits (h.reg r c) 21 16 (h.vPresent c)
  else if r = CL_REG_STAT then w32 v.regStat
  else if r = CL_TEMP then w32 v.temp
  else if r = RSTC_STAT then fields [(0, b2n v.inReset), (1, b2n (decide (h.reg RST_STAT = 4#32) && h.inBrew c))]
  else if r = BIST_FAIL_LO then w32 v.bist
  else if r = BIST_FAIL_HI then w32 (v.bist / 2 ^ 32 % 4)
  else h.reg r c

/-! ### Core pages -/

/-- DENSE_STAT.RUNNING (08 R257): the core's list runs, or its last events wait for the egress buffer. -/
def Hw.denseRuns (h : Hw) (k : Nat) : Bool :=
  match (h.core k).integ.stage with
  | .dense | .emit _ => true
  | _ => false

/-- CORE_STAT (03 R112). -/
def Hw.coreStat (h : Hw) (k : Nat) : Word :=
  let s := h.core k
  let busy := match s.integ.stage with
    | .idle | .finished => false
    | _ => true
  let stall := match s.integ.stage with
    | .emit (_ :: _) => true
    | _ => busy && h.egressFull k
  fields [(0, b2n s.quiet), (1, b2n busy), (2, b2n stall), (3, b2n s.warm), (4, b2n (decide (h.phys k ≠ k % 32))), (5, b2n (h.paired k)),
    (8, h.phys k)]

/-- An endpoint's EP_STAT and EP_CONN (07 R234). -/
def Hw.epStat (h : Hw) (e : Nat) : Word := fields [(0, (h.ep e).q.length), (16, ((h.ep e).ports.filter fun x => x.2.on).length)]
def Hw.epConn (h : Hw) (e : Nat) : Word :=
  fields [(0, ((h.ep e).slots.filter fun x => decide (x.2.st ≠ 0)).length), (16, ((h.ep e).handles.filter fun x => decide (x.2.st ≠ 0)).length)]

/-- Core pages. -/
def Hw.viewCore (h : Hw) (p k off : Nat) : Word :=
  let r : Rg := ⟨p, off⟩
  if p = pgDRIPEP then (if r = EP_STAT then h.epStat k else if r = EP_CONN then h.epConn k else h.reg r k)
  else
    let s := h.core k
    if r = SLICE_STAT then
      let u := h.core (h.hostOf k)
      fields [(0, u.resident), (4, b2n (decide (4 < h.slices k))), (8, b2n u.paging)]
    else if r = CORE_STAT then h.coreStat k
    else if r = PSET_STAT then setBits (h.reg r k) 3 0 s.psetq.length
    else if r = MC_STAT then
      let e := h.ep (epOfCore k)
      fields [(0, b2n s.eng.running), (1, s.eng.kind.code), (4, s.evq.length), (16, e.msgq.length),
        (24, (e.tickets.filter fun x => x.2.used).length)]
    else if r = DENSE_STAT then setBit (h.reg r k) 0 (h.denseRuns k)
    else if r = DL_STAT then setBits (h.reg r k) 2 0 s.dlq.length
    else h.reg r k

/-- What a register shows. -/
def Hw.view (h : Hw) (p u off : Nat) : Word :=
  if off < 0x040 then h.viewHeader p u off
  else if p < 0x100 then h.viewGlobal p u off
  else if p < 0x200 then h.viewQuad p u off
  else if p < 0x300 then h.viewCluster p u off
  else h.viewCore p u off

end Sys2Proof.Machine
end

