-- ==== Sys2Proof/Machine/Window.lean ====
section
/-! DEFINITION. Address–data windows: what a read or a write of a data register does to the entry its address register names, and how the
address advances (19 R528). A write is `some` of the word written, a read is `none`. -/

namespace Sys2Proof.Machine

/-- Field [hi:lo] of an address register counts on after an access: from its last valid value, and from the highest value of its bit
field, it returns to 0, carrying into `carry`. -/
def Hw.winNext (h : Hw) (r : Rg) (u hi lo last : Nat) (carry : Option (Nat × Nat)) : Hw :=
  let v := h.fld r u hi lo
  if v = last ∨ v + 1 = 2 ^ (hi + 1 - lo) then
    let h := h.setFld r u hi lo 0
    match carry with
    | none => h
    | some (a, b) => h.setFld r u a b (h.fld r u a b + 1)
  else h.setFld r u hi lo (v + 1)

/-- An access to a word of a table: a write stores the bits that are not reserved. -/
def Hw.tabAccess (h : Hw) (t : Tab) (u i : Nat) (mask : Word) : Option Word → Hw × Word
  | none => (h, h.tab t u i)
  | some v => (h.setTab t u i (v &&& mask), 0#32)

/-- A window's access, and then the advance of its address. -/
def winThen (x : Hw × Word) (f : Hw → Hw) : Hw × Word := (f x.1, x.2)

/-! ### Microcode (04 R138, R140) -/

/-- A word of core k's microcode store or data memory through a window: a write while the context is resident is ignored (R138); a read of
a word with two wrong bits counts and answers a free value. -/
def Hw.winCore (h : Hw) (k a : Nat) : Option Word → Hw × Word
  | some v => if h.resident (k / 32) ∧ h.coreAvail k then (h, 0#32) else (h.setWord a v, 0#32)
  | none =>
    let r := h.coreRead k a
    match r.2 with
    | some v => (r.1, v)
    | none => let f := (r.1.coreUe k).free; (f.2, f.1)

/-- MC_STORE_DATA. -/
def Hw.winStore (h : Hw) (k : Nat) (wr : Option Word) : Hw × Word :=
  winThen (h.winCore k (storeAddr k (h.fld MC_STORE_IDX k 9 0)) wr) fun h => h.winNext MC_STORE_IDX k 9 0 1023 none

/-- MC_DM_DATA. -/
def Hw.winDm (h : Hw) (k : Nat) (wr : Option Word) : Hw × Word :=
  winThen (h.winCore k (dmAddr k (h.fld MC_DM_ADDR k 12 2)) wr) fun h => h.winNext MC_DM_ADDR k 12 2 2047 none

/-! ### The router (06 R196, R199) -/

/-- The active frame sequence list of cluster c selects grind table t in a frame that is read and not IDLE (R196). -/
def Hw.tableInUse (h : Hw) (c t : Nat) : Bool :=
  (List.range (h.fld FAB_FRAMES 0 9 0)).any fun f =>
    let e := h.tab .fseq c ((h.cl c).fseq * 2 ^ 16 + f)
    !bit e 7 && decide (bits e 2 0 = t)

/-- An access to a router table; a write that R196 protects is ignored and counted. -/
def Hw.tabGuarded (h : Hw) (t : Tab) (c i : Nat) (mask : Word) (busy : Bool) (wr : Option Word) : Hw × Word :=
  if wr.isSome ∧ busy then (h.inc TBL_WRITE_IGN_CNT c, 0#32) else h.tabAccess t c i mask wr

/-- GT_DATA. -/
def Hw.winGt (h : Hw) (c : Nat) (wr : Option Word) : Hw × Word :=
  let slot := h.fld GT_ADDR c 9 0
  let lane := h.fld GT_ADDR c 14 10
  let t := h.fld GT_ADDR c 18 16
  let x := if 16 < lane then (h, 0#32)
    else h.tabGuarded .gt c (t * 2 ^ 16 + lane * 2 ^ 10 + slot) (if lane < 8 then 0xFFFFFFFF#32 else 0xFFC1FFFF#32)
      (h.resident c && h.tableInUse c t) wr
  winThen x fun h => h.winNext GT_ADDR c 9 0 1023 none

/-- FSEQ_DATA. -/
def Hw.winFseq (h : Hw) (c : Nat) (wr : Option Word) : Hw × Word :=
  let l := h.fld FSEQ_ADDR c 16 16
  winThen (h.tabGuarded .fseq c (l * 2 ^ 16 + h.fld FSEQ_ADDR c 8 0) 0x87#32 (h.resident c && decide (l = (h.cl c).fseq)) wr)
    fun h => h.winNext FSEQ_ADDR c 8 0 511 none

/-- FLOW_DATA (R187). -/
def Hw.winFlow (h : Hw) (c : Nat) (wr : Option Word) : Hw × Word :=
  let w := h.fld FLOW_ADDR c 17 16
  winThen (h.tabAccess .flow c (w * 2 ^ 16 + h.fld FLOW_ADDR c 8 0) ([0xFE03FFFF#32, 0xFFF3FFFF#32, 0xFFFF#32].getD w 0#32) wr)
    fun h => h.winNext FLOW_ADDR c 17 16 3 (some (8, 0))

/-- DEST_DATA (R192). -/
def Hw.winDest (h : Hw) (c : Nat) (wr : Option Word) : Hw × Word :=
  let w := h.fld DEST_ADDR c 17 16
  winThen (h.tabAccess .dest c (w * 2 ^ 16 + h.fld DEST_ADDR c 7 0) ([0xFFFFFFFF#32, 0xFFFFFFFF#32, 0xFFFF#32].getD w 0#32) wr)
    fun h => h.winNext DEST_ADDR c 17 16 3 (some (7, 0))

/-! ### Drip trees and relays (07 R233) -/

/-- DTREE_DATA. -/
def Hw.winDtree (h : Hw) (c : Nat) (wr : Option Word) : Hw × Word :=
  winThen (h.tabAccess .dtree c (h.fld DTREE_ADDR c 13 0) 0xBF#32 wr) fun h => h.winNext DTREE_ADDR c 13 0 16383 none

/-- XTAG_DATA: without a Saune-C relay it reads 0 and ignores writes, and its address register likewise. -/
def Hw.winXtag (h : Hw) (c : Nat) (wr : Option Word) : Hw × Word :=
  if (scAt c).isNone then (h, 0#32)
  else winThen (h.tabAccess .xtag c (h.fld XTAG_ADDR c 13 0) 0x1FF#32 wr) fun h => h.winNext XTAG_ADDR c 13 0 16383 none

/-- ITAG_DATA. -/
def Hw.winItag (h : Hw) (c : Nat) (wr : Option Word) : Hw × Word :=
  if (scAt c).isNone then (h, 0#32)
  else winThen (h.tabAccess .itag c (h.fld ITAG_ADDR c 7 0) 0x1FF#32 wr) fun h => h.winNext ITAG_ADDR c 7 0 255 none

/-! ### Plasticity (09 R266, R269, R282) -/

/-- A write of ROASTCFG while the roast is busy is ignored and counted. -/
def Hw.roastGuard (h : Hw) (c : Nat) (wr : Option Word) (x : Hw × Word) : Hw × Word :=
  if wr.isSome ∧ (h.cl c).roast.busy then (h.inc ROAST_WRITE_IGN_CNT c, 0#32) else x

/-- SEG_DATA. -/
def Hw.winSeg (h : Hw) (c : Nat) (wr : Option Word) : Hw × Word :=
  let w := h.fld SEG_SEL c 9 8
  let mask := [0x871F#32, 0xFFFFFFFF#32, 0xFFFFFF#32].getD w 0#32
  winThen (h.roastGuard c wr (h.tabAccess .seg c (h.fld SEG_SEL c 4 0 + 256 * w) mask wr)) fun h => h.winNext SEG_SEL c 9 8 3 (some (4, 0))

/-- RULE_DATA. -/
def Hw.winRule (h : Hw) (c : Nat) (wr : Option Word) : Hw × Word :=
  let w := h.fld RULE_ADDR c 8 3
  let mask := if w = 4 then 0x003F3F3F#32 else if w = 5 then 0xFFFF0FFF#32 else 0xFFFFFFFF#32
  let x := if 37 < w then (h, 0#32) else h.tabAccess .rule c (h.fld RULE_ADDR c 2 0 + 8 * w) mask wr
  winThen (h.roastGuard c wr x) fun h => h.winNext RULE_ADDR c 8 3 37 (some (2, 0))

/-! ### Sensors and ingress (10 R296, R298, R304, R308, R309) -/

/-- HOTPIX_DATA. -/
def Hw.winHotpix (h : Hw) (k : Nat) (wr : Option Word) : Hw × Word :=
  winThen (h.tabAccess .hotpix k (h.fld HOTPIX_IDX k 5 0) 0x80FFFFFF#32 wr) fun h => h.winNext HOTPIX_IDX k 5 0 63 none

/-- FT_DATA. -/
def Hw.winFt (h : Hw) (q : Nat) (wr : Option Word) : Hw × Word :=
  let w := h.fld FT_ADDR q 17 16
  winThen (h.tabAccess .ft q (h.fld FT_ADDR q 15 0 + 65536 * w) ([0xFBFF8000#32, 0x3FFFF#32, 0xFFFF#32, 0xFFFFFFFF#32].getD w 0#32) wr)
    fun h => h.winNext FT_ADDR q 17 16 3 (some (15, 0))

/-- Word w of limiter l: TOK is firmware's, MUTE can only be cleared, and a read of LIM_DROP_CNT clears it; `same` is an increment of it in the
same cycle, after which it stands at 1 (00 R16). -/
def Hw.limAccess (h : Hw) (q l w : Nat) (fw : Bool) (wr : Option Word) (same : Bool) : Hw × Word :=
  match w, wr with
  | 0, some v => (h.limWrite0 q l v, 0#32)
  | 1, some v =>
    let old := h.lim q l 1
    let x := setBits (setBits old 31 24 (bits v 31 24)) 17 16 (bits v 17 17 * 2 + bits (old &&& v) 16 16)
    (h.setLim q l 1 (if fw then setBits x 15 0 (bits v 15 0) else x), 0#32)
  | 2, none => (h.setLim q l 2 (w32 (b2n same)), h.lim q l 2)
  | 0, none => (h, h.lim q l 0)
  | 1, none => (h, h.lim q l 1)
  | _, _ => (h, 0#32)

/-- LIM_DATA. -/
def Hw.winLim (h : Hw) (q : Nat) (fw : Bool) (wr : Option Word) (same : Bool) : Hw × Word :=
  winThen (h.limAccess q (h.fld LIM_ADDR q 9 0) (h.fld LIM_ADDR q 17 16) fw wr same) fun h => h.winNext LIM_ADDR q 17 16 3 (some (9, 0))

/-- POLL_DATA. -/
def Hw.winPoll (h : Hw) (wr : Option Word) : Hw × Word :=
  let w := h.fld POLL_ADDR 0 9 8
  let i := h.fld POLL_ADDR 0 2 0 + 16 * h.fld POLL_ADDR 0 6 4 + 256 * w
  let x := if w = 3 ∧ wr.isSome then (h, 0#32) else h.tabAccess .poll 0 i ([0xF77FFFFF#32, 0xFFFFFFFF#32, 0xFFF#32].getD w 0#32) wr
  winThen x fun h => h.winNext POLL_ADDR 0 9 8 3 (some (2, 0))

/-- LCE_DATA. -/
def Hw.winLce (h : Hw) (wr : Option Word) : Hw × Word :=
  let w := h.fld LCE_ADDR 0 9 8
  winThen (h.tabAccess .lce 0 (h.fld LCE_ADDR 0 4 0 + 256 * w) ([0x37F#32, 0xFFFFFFFF#32, 0xFFFFFFFF#32].getD w 0#32) wr)
    fun h => h.winNext LCE_ADDR 0 9 8 3 (some (4, 0))

/-! ### Actuators (11 R334) -/

/-- Bits of the words of an actuator map entry. -/
def actMask (w : Nat) : Word :=
  [0x8003FFFF#32, 0x3FFFF#32, 0x8003FFFF#32, 0x3FFFF#32, 0x011FFFFF#32, 0xFFFFFFFF#32, 0xFFFFFFFF#32, 0xFFFFFFFF#32, 0xFFFF#32,
    0xFFFFFFFF#32].getD w 0#32

/-- ACT_DATA. -/
def Hw.winAct (h : Hw) (wr : Option Word) : Hw × Word :=
  let w := h.fld ACT_ADDR 0 11 8
  let k := h.fld ACT_ADDR 0 3 0
  let x := if 9 < w then (h, 0#32)
    else match wr with
      | some v => (h.actWrite k w (v &&& actMask w), 0#32)
      | none => (h, h.actWord k w)
  winThen x fun h => h.winNext ACT_ADDR 0 11 8 9 (some (3, 0))

/-! ### Ethernet (13 R379, R381) -/

/-- GCL_DATA: the operational list ignores writes. Gates are held inverted, so that an unlisted entry has every gate open. -/
def Hw.winGcl (h : Hw) (q : Nat) (wr : Option Word) : Hw × Word :=
  let l := h.fld GCL_ADDR q 8 8
  let i := h.fld GCL_ADDR q 6 0
  let x := match wr with
    | some v => if l = h.fld GCL_CTRL q 8 8 then (h, 0#32) else (h.setTab .gcl q (128 * l + i) (v ^^^ 0xFF#32), 0#32)
    | none => (h, h.gcl q l i)
  winThen x fun h => h.winNext GCL_ADDR q 6 0 127 none

/-- MS_SA_DATA: SAK words read 0. -/
def Hw.winSa (h : Hw) (q : Nat) (wr : Option Word) : Hw × Word :=
  let sc := h.fld MS_SA_SEL q 4 2
  let an := h.fld MS_SA_SEL q 1 0
  let w := h.fld MS_SA_SEL q 11 8
  let x := if 4 < sc then (h, 0#32)
    else match wr with
      | some v => (if w = 15 then h else h.setSa q sc an w (if w = 14 then v &&& 1#32 else v), 0#32)
      | none => (h, if w < 8 then 0#32 else h.sa q sc an w)
  winThen x fun h => h.winNext MS_SA_SEL q 11 8 15 none

/-! ### Always-on memory and attestation (15 R432, 18 R496) -/

/-- AOM_DATA, whose address does not advance. -/
def Hw.winAom (h : Hw) (rcp : Bool) : Option Word → Hw × Word
  | none => h.aomRead
  | some v =>
    let a := 4 * h.fld AOM_ADDR 0 15 2
    if a < 0xC000 ∨ rcp then (h, 0#32) else (h.setWord (aomBase + a) v, 0#32)

/-- ATT_DATA: a read answers the report's word and advances; a write does nothing to the report. -/
def Hw.winAtt (h : Hw) (wr : Option Word) : Hw × Word :=
  let v := if wr.isSome then 0#32 else h.attReport.getD (h.fld ATT_ADDR 0 11 2) 0#32
  winThen (h, v) fun h => h.winNext ATT_ADDR 0 11 2 1023 none

end Sys2Proof.Machine
end

