-- ==== Sys2Proof/Machine/Hook.lean ====
section
/-! DEFINITION. What reading and writing one register does, once the access has reached its page: access codes, locks, windows, and the effects
that the register tables of every chapter give (00 R4, R15, R16, 19 R500–R503). -/

namespace Sys2Proof.Machine

/-- Where an address leads: page, unit and offset, and the cluster and the core in whose region it lies (19 R497). -/
structure Loc where
  page : Nat := 0
  unit : Nat := 0
  off : Nat := 0
  cl : Option Nat := none
  core : Option Nat := none
deriving DecidableEq, Repr

/-- An access by firmware: a management processor, or the configuration agent, which performs a management processor's writes (07 R229). -/
def isFw : Requester → Bool
  | .rcp _ => false
  | _ => true

/-! ### Plain writes (00 R15, 19 R503) -/

/-- The register of an offset and its row. -/
def Hw.rowMask (h : Hw) (r : Rg) (u : Nat) : Word :=
  match rowOf r.page r.off with
  | some row => w32 row.rw ||| (if h.locked r.page u then 0#32 else w32 row.rwl)
  | none => 0#32

/-- The value a write leaves, by the access code of each field. -/
def Hw.written (h : Hw) (r : Rg) (u : Nat) (v : Word) : Word :=
  match rowOf r.page r.off with
  | some row =>
    let m := h.rowMask r u
    (((h.reg r u &&& ~~~ m) ||| (v &&& m)) &&& ~~~ (v &&& w32 row.w1c)) ||| (v &&& w32 row.w1s)
  | none => h.reg r u

/-- A write to an RWL field under the lock is counted once (19 R503). -/
def Hw.lockCount (h : Hw) (r : Rg) (u : Nat) : Hw :=
  match rowOf r.page r.off with
  | some row => if h.locked r.page u ∧ row.rwl ≠ 0 then h.inc MGMT_LOCK_IGN_CNT else h
  | none => h

/-- A write by the access codes alone, with `f` on the value stored. -/
def Hw.putReg (h : Hw) (r : Rg) (u : Nat) (v : Word) (f : Word → Word := id) : Hw :=
  (h.lockCount r u).setReg r u (if h.rowMask r u = 0#32 then h.written r u v else f (h.written r u v))

/-- A field that holds at most n: larger values are written as n. -/
def capFld (hi lo n : Nat) (w : Word) : Word := if n < bits w hi lo then setBits w hi lo n else w

/-- A register that a 1 in bit 31 clears whole. -/
def Hw.clear31 (h : Hw) (r : Rg) (u : Nat) (v : Word) : Hw := if bit v 31 then h.setReg r u 0#32 else h

/-! ### The header (19 R500–R502) -/

/-- What a soft reset takes with it beside the registers. -/
def Hw.softSide (h : Hw) (p u : Nat) : Hw :=
  if p = pgDMA then (List.range 16).foldl (fun h c => h.updDma (16 * u + c) fun _ => {}) h
  else if p = pgDENSECFG then h.updCore u fun s => { s with dlq := [], binq := none }
  else if p = pgTMR then h.updTmr u fun _ => {}
  else if p = pgETHCFG then (h.linkFall u).updEth u fun s => { s with change := none, gates := {} }
  else if p = pgDDRCFG then h.pllDrop (4 + u)
  else if p = pgCMCFG then (List.range 32).foldl (fun h b => h.bankPwrWrite u b 0) (h.resetTabs fun t c => decide (c = u) && t == Tab.spare.code)
  else if p = pgCSIRX then h.updCsi u fun s => { s with offset := 0 }
  else h

/-- A soft reset of a page. -/
def Hw.softReset (h : Hw) (p u : Nat) : Hw :=
  (h.resetRegs fun p' u' off => p' == p && u' == u && off != 0x018 && off != 0x01C).softSide p u

/-- A change of PG_CTRL.EN acts on what runs. -/
def Hw.pgEnSet (h : Hw) (p u : Nat) (on : Bool) : Hw :=
  let was := h.pgEn p u
  let h := h.setFlag (pgCtrl p) u 0 (!on)
  if was = on then h
  else if p = pgETHCFG then (if on then h else h.linkFall u).pllSync (8 + u)
  else if p = pgDDRCFG then h.pllSync (4 + u)
  else if p = pgCSIRX ∧ on ∧ h.flag CSI_CTRL u 0 then h.csiEnable u
  else h

/-- A write of PG_CTRL: the licence (00 R4), then EN, then SOFT_RST against EN and LOCKED as they then stand, then LOCK. -/
def Hw.pgCtrlWrite (h : Hw) (p u : Nat) (v : Word) : Hw :=
  if p = pgROASTCFG ∧ bit v 0 ∧ h.pgEn p u = false ∧ h.lic 0 = false then h.raisePkg fLicence
  else
    let h := if p ∈ enPages then h.pgEnSet p u (bit v 0) else h
    let h := if bit v 1 then (if h.pgEn p u ∨ h.locked p u then h.inc MGMT_LOCK_IGN_CNT else h.softReset p u) else h
    if bit v 2 then h.setFlag (pgLock p) u 0 true else h

/-- A write of PG_LOCK: 1 sets LOCKED; 0 clears it for firmware with the key. -/
def Hw.pgLockWrite (h : Hw) (p u : Nat) (fw : Bool) (v : Word) : Hw :=
  if bit v 0 then h.setFlag (pgLock p) u 0 true
  else if fw ∧ bits v 31 16 = 0x4C4B then h.setFlag (pgLock p) u 0 false
  else h

/-- A write of a register of the header. -/
def Hw.headerWrite (h : Hw) (p u off : Nat) (fw : Bool) (v : Word) : Hw :=
  match off with
  | 0x008 => h.pgCtrlWrite p u v
  | 0x010 => if bit v 0 then h.setFlag (pgFlt p) u 0 false else h
  | 0x014 => h.setFlag (pgFltMask p) u 0 (bit v 0)
  | 0x018 => if fw then h.setReg (pgOwner p) u (v &&& 0x3F#32) else h
  | 0x01C => h.pgLockWrite p u fw v
  | _ => h

/-! ### Global pages -/

/-- A write of CTX_NEXT (18 R483): one that names the resident context cancels, one that names a context that is not LOADED is ignored and
counted; during a switch it is recorded. -/
def Hw.ctxNext (h : Hw) (v : Word) : Hw :=
  let v := v &&& 0x1F#32
  let n := bits v 3 0
  if h.switching ∨ bit v 4 = false then h.setReg CTX_NEXT 0 v
  else if h.someResident ∧ n = h.ctx then h.setReg CTX_NEXT 0 0#32
  else if h.ctxState n = 1 then h.setReg CTX_NEXT 0 v
  else h.inc CTX_NEXT_IGN_CNT

/-- A write of FUSE_PROG (16 R454): a keyed write starts a blow, unless one runs. -/
def Hw.fuseProg (h : Hw) (v : Word) : Hw :=
  if bits v 31 16 = 0xB10E ∧ bits v 1 0 ≠ 0 ∧ h.pkg.blow = none then h.updPkg fun p => { p with blow := some (bits v 1 0) } else h

/-- A write of CL_RST_LO or CL_RST_HI (16 R435). -/
def Hw.clRst (h : Hw) (hi : Bool) (v : Word) : Hw :=
  (List.range 32).foldl (fun h i => if bit v i then h.clusterReset (32 * b2n hi + i) false else h) h

/-- A write of TMR_CTRL: CAP_EN set starts capture afresh (11 R316), and ticks not yet taken are lost with the timebase. -/
def Hw.tmrCtrl (h : Hw) (k : Nat) (v : Word) : Hw :=
  let was := h.flag TMR_CTRL k 23
  let h := (List.range 3).foldl (fun h b => h.irqWatch (16 + 3 * k + b)) (h.putReg TMR_CTRL k v)
  let h := h.updTmr k fun s => { s with width := if bit v 23 ∧ was = false then none else s.width, due := 0 }
  if bit v 12 then h else h.updTmr k fun s => { s with pwm := false }

/-- Pages 0x000–0x010, and MAP and PAD. -/
def Hw.writeGlobal (h : Hw) (who : Requester) (r : Rg) (v : Word) : Hw :=
  let off := r.off
  if r = STEP_CTRL then h.stepCtrl v
  else if r.page = pgSTEP ∧ 0x080 ≤ off ∧ off < 0x0C0 then h.putReg r 0 v fun w => w32 (max 50 (min 10000 (bits w 13 0)))
  else if r = FAB_FRAMES then h.putReg r 0 v (capFld 9 0 512)
  else if r = FAB_SC_DELAY then (h.putReg r 0 v (capFld 8 0 256)).judgeLatencies
  else if r.page = pgEPOCH ∧ 0x080 ≤ off then h.putReg r 0 v (capFld 10 0 1024)
  else if r = TOPO_POS then (if bit v 16 ∧ h.lic 1 = false ∧ h.locked pgTOPO 0 = false then h.raisePkg fLicence else h.putReg r 0 v)
  else if r = CTX_NEXT then h.ctxNext v
  else if r = ATT_CMD then (if bit v 0 then h.attStart else h)
  else if r.page = pgATT ∧ 0x048 ≤ off ∧ off < 0x068 then (if h.flag ATT_STAT 0 0 then h.inc ATT_REQ_IGN_CNT else h.putReg r 0 v)
  else if r = ATT_DATA then (h.winAtt (some v)).1
  else if r = RST_CMD then (if bit v 0 then h.computeReset 3 else h)
  else if r = CL_RST_LO then h.clRst false v
  else if r = CL_RST_HI then h.clRst true v
  else if r = FUSE_PROG then h.fuseProg v
  else if r = PKG_PWR_REQ then h.pkgPwrReq v
  else if r = WAKE_EN then h.putReg r 0 v fun w => setBit w 10 true
  else if r = PWR_LOG then h.clear31 r 0 v
  else if r = AOM_DATA then (h.winAom (!isFw who) (some v)).1
  else if r = FLT_CTRL then h.fltCtrl v
  else if r = FLT_RAISE then h.fltRaise v
  else if r = FLT_QUIET then h.putReg r 0 v (capFld 13 0 10000)
  else if r = IC_SWI_SET then h.swiSet v
  else if r = IC_SWI_CLR then h.swiClr v
  else if r.page = pgIC ∧ 0x050 ≤ off ∧ off < 0x060 then
    let m := (off - 0x050) / 4
    if who = .mp (Fin.ofNat 4 m) then h.complete m (bits v 7 0) else h.inc IC_CMPL_IGN_CNT
  else if r.page = pgIC ∧ 0x0E0 ≤ off ∧ off < 0x100 then h.maskWrite ((off - 0x0E0) / 4) v
  else if r = PTP_ADJ then h.ptpStep v.toInt
  else if r = MGMT_ERR_INFO then (if bit v 31 then (h.setReg r 0 0#32).setReg MGMT_ERR_ADDR 0 0#32 else h)
  else h.putReg r 0 v

/-- The peripheral island: SENSIO, XBAR, ACT, GPIO and the timers. -/
def Hw.writeIsland (h : Hw) (r : Rg) (u : Nat) (v : Word) : Hw :=
  if r = POLL_DATA then (h.winPoll (some v)).1
  else if r = LCE_DATA then (h.winLce (some v)).1
  else if r = ACT_DATA then (h.winAct (some v)).1
  else if r = ACT_STAT then (List.range 16).foldl (fun h k => if bit v k ∧ h.flag ACT_STAT 0 k then h.actSafeClear k else h) h
  else if r = GPIO_SET then h.setReg GPIO_OUT 0 (h.reg GPIO_OUT ||| v)
  else if r = GPIO_CLR then h.setReg GPIO_OUT 0 (h.reg GPIO_OUT &&& ~~~ v)
  else if r = TMR_CTRL then h.tmrCtrl u v
  else if r = TMR_CMP0 then h.cmpWrite u false v
  else if r = TMR_CMP1 then h.cmpWrite u true v
  else h.putReg r u v

/-! ### Quadrant pages -/

/-- A write of PHY_CTRL (13 R350): the link falls, and training starts again. -/
def Hw.phyWrite (h : Hw) (q : Nat) (v : Word) : Hw :=
  let m := bits v 3 1
  if 0 < m ∧ m < 4 ∧ h.lic 3 = false then h.raisePkg fLicence
  else ((h.linkFall q).putReg PHY_CTRL q v).pllSync (8 + q)

/-- A word staged through IMG_DATA (16 R449): a word for a channel that is not READY, or for no DDR5 address, is discarded and counted. -/
def Hw.imgData (h : Hw) (q : Nat) (v : Word) : Hw :=
  let n := (h.reg IMG_BYTES q).toNat
  match h.mpa (shortMpa (h.reg IMG_PTR q) + n) with
  | some (.ddr ch x) =>
    if h.flag DDR_STAT ch 0 = false then h.inc IMG_DROP_CNT q
    else
      let h := if h.ddrSelf ch then h.inc DDR_RESET_DROP_CNT ch else ((h.ddrQueue ch x true).ddrWrite ch x v 15).1
      h.setReg IMG_BYTES q (w32 (n + 4))
  | _ => h.inc IMG_DROP_CNT q

/-- A write of SC_CTRL (14 R398, R401): an unlicensed TRAIN has no other effect (00 R4). -/
def Hw.scCtrl (h : Hw) (k : Nat) (v : Word) : Hw :=
  if bit v 0 ∧ h.lic 1 = false then h.raisePkg fLicence
  else
    let h := h.putReg SC_CTRL k v
    let h := if bit v 2 then h.setFlag SC_CTRL k 2 true else h
    if bit v 0 then h.scTrain k else h

/-- A write of a DMA channel's registers (12 R341, R342, R347). -/
def Hw.dmaRegWrite (h : Hw) (e : Nat) (r : Rg) (v : Word) : Hw :=
  let d := 16 * e + (r.off - 0x100) / 16
  if r.off % 16 = 4 then h.dmaCmd d v
  else if (h.dma d).busy then h.inc DMA_WRITE_IGN_CNT e
  else h.putReg r e v

/-- Quadrant pages. -/
def Hw.writeQuad (h : Hw) (who : Requester) (r : Rg) (u : Nat) (v : Word) : Hw :=
  let off := r.off
  if r.page = pgINGCFG ∧ 0x040 ≤ off ∧ off < 0x080 then h.putReg r u v (capFld 20 16 16)
  else if r = FT_DATA then (h.winFt u (some v)).1
  else if r = LIM_DATA then (h.winLim u (isFw who) (some v) false).1
  else if r = FLOOD_INFO then h.clear31 r u v
  else if r.page = pgDMA ∧ 0x100 ≤ off then h.dmaRegWrite u r v
  else if r = PHY_CTRL then h.phyWrite u v
  else if r = MAC_CTRL then h.putReg r u v (capFld 29 16 9022)
  else if r = GCL_CTRL then h.gclWrite u v
  else if r = GCL_DATA then (h.winGcl u (some v)).1
  else if r = MS_TX_AN then (h.putReg r u v).updEth u fun e => { e with pnOut := false }
  else if r = MS_SA_DATA then (h.winSa u (some v)).1
  else if r = DDR_CFG then (h.lockCount r u).ddrCfgWrite u (h.written r u v)
  else if r = DDR_TRAIN then let h := h.putReg r u v; if bit v 0 then h.ddrTrain u else h
  else if r = SC_CTRL then h.scCtrl u v
  else if r = IMG_PTR then (h.putReg r u v).setReg IMG_BYTES u 0#32
  else if r = IMG_DATA then h.imgData u v
  else if r = CSI_CTRL then
    let h' := h.putReg r u v
    if h'.flag CSI_CTRL u 0 ∧ h.flag CSI_CTRL u 0 = false then h'.csiEnable u else h'
  else if r = MAP_POOL then h.putReg r u v fun w => capFld 6 4 4 (capFld 2 0 4 w)
  else if r = TS_OFFSET_HI then
    let h := h.putReg r u v
    h.updCsi u fun s => { s with offset := v.toInt * 2 ^ 32 + ((h.reg TS_OFFSET_LO u).toNat : Int) }
  else if r = HOTPIX_DATA then (h.winHotpix u (some v)).1
  else if r = FR_STAT then h.frameRelease u (bits v 1 0)
  else h.putReg r u v

/-! ### Cluster pages -/

/-- A write of a BANK_PWR register: each of its 16 banks takes the state written, also one that an access woke since the same was last written
(05 R168). -/
def Hw.bankPwrRegWrite (h : Hw) (c : Nat) (hi : Bool) (v : Word) : Hw :=
  let r := if hi then BANK_PWR_HI else BANK_PWR_LO
  let on := decide (h.rowMask r c ≠ 0#32)
  let h := h.putReg r c v
  if on then (List.range 16).foldl (fun h i => h.bankPwrWrite c (16 * b2n hi + i) (bits v (2 * i + 1) (2 * i))) h else h

/-- ROASTCFG (09 R282): while the roast is busy every write but those of ROAST_SEED and CKPT_NEXT is ignored and counted, though a window
advances. -/
def Hw.roastCfgWrite (h : Hw) (r : Rg) (c : Nat) (v : Word) : Hw :=
  if r = SEG_DATA then (h.winSeg c (some v)).1
  else if r = RULE_DATA then (h.winRule c (some v)).1
  else if r = ROAST_SEED then h.setReg r c (seedVal v)
  else if r = CKPT_NEXT then h.putReg r c v
  else if (h.cl c).roast.busy then h.inc ROAST_WRITE_IGN_CNT c
  else if r = ROAST_CTRL ∧ bit v 0 ∧ h.lic 0 = false ∧ h.locked pgROASTCFG c = false then h.raisePkg fLicence
  else if 0x080 ≤ r.off ∧ r.off < 0x0C0 ∧ r.off % 16 = 8 then h.putReg r c v (capFld 31 16 0x8000)
  else h.putReg r c v

/-- REMAP (03 R115, R116). -/
def Hw.remapRegWrite (h : Hw) (r : Rg) (c : Nat) (v : Word) : Hw :=
  if 0x040 ≤ r.off ∧ r.off < 0x0C0 then h.remapWrite c ((r.off - 0x040) / 4) v
  else if r = PHYS_RETIRE_LO then h.retireWrite c false v
  else if r = PHYS_RETIRE_HI then h.retireWrite c true v
  else
    let h := h.putReg r c v (if r = DEG_RESERVE_SIZE then capFld 2 0 4 else id)
    if h.holds then h.remapPageApply c else h

/-- A write of SR_DATA; firmware keeps the repairs it makes in its list in flash (05 R167, 16 R439). -/
def Hw.repairWrite (h : Hw) (fw : Bool) (c : Nat) (v : Word) : Hw :=
  let sel := h.reg SR_SEL c
  let keep := h.fw.repairs.filter fun x => !(x.1 == c && x.2.1 == sel)
  let h' := h.softRepair c v
  if fw ∧ h.softRepairOk c then { h' with fw := { h'.fw with repairs := keep ++ [(c, sel, v &&& 0x80FF#32)] } } else h'

/-- Cluster pages. -/
def Hw.writeCluster (h : Hw) (fw : Bool) (r : Rg) (c : Nat) (v : Word) : Hw :=
  if r = UNIT_ALIAS_NUM then h.putReg r c v (capFld 12 0 4096)
  else if r.page = pgREMAP then h.remapRegWrite r c v
  else if r = BANK_VIOL_INFO then h.clear31 r c v
  else if r = BANKWIN_DATA then (h.bankwin c (some v) false).1
  else if r.page = pgCMCFG ∧ 0x040 ≤ r.off ∧ r.off < 0x0C0 then h.bankOwnerWrite c ((r.off - 0x040) / 4) v
  else if r = BANK_PWR_LO then h.bankPwrRegWrite c false v
  else if r = BANK_PWR_HI then h.bankPwrRegWrite c true v
  else if r = ENTRY_SEED0 ∨ r = ENTRY_SEED1 then h.putReg r c v fun w => w ||| 1#32
  else if r = SR_DATA then h.repairWrite fw c v
  else if r = GT_DATA then (h.winGt c (some v)).1
  else if r = FSEQ_DATA then (h.winFseq c (some v)).1
  else if r = FLOW_DATA then (h.winFlow c (some v)).1
  else if r = DEST_DATA then (h.winDest c (some v)).1
  else if r = DTREE_DATA then (h.winDtree c (some v)).1
  else if r = XTAG_DATA then (h.winXtag c (some v)).1
  else if r = ITAG_DATA then (h.winItag c (some v)).1
  else if (r = XTAG_ADDR ∨ r = ITAG_ADDR) ∧ (scAt c).isNone then h
  else if r.page = pgROASTCFG then h.roastCfgWrite r c v
  else if r = CKPT_STAT then (if bit v 31 then h.ckptClear c else h)
  else if r = CL_PWR_REQ then h.clPwrReq c v
  else if r = CL_VTRIM then h.vtrimWrite c v
  else if r = CORE_RST_HOLD then h.coreRstHold c v
  else if r = CORE_RST_PULSE then h.coreRstPulse c v
  else h.putReg r c v

/-! ### Core pages -/

/-- The core's context is resident and the core available: what R114, R138 and R259 protect is closed. -/
def Hw.coreClosed (h : Hw) (k : Nat) : Bool := h.resident (k / 32) && h.coreAvail k

/-- A write of CORE_LAYOUT (03 R113, R114): NEURONS is at most the layout's maximum. -/
def Hw.layoutWrite (h : Hw) (k : Nat) (v : Word) : Hw :=
  if h.coreClosed k then h else h.putReg CORE_LAYOUT k v fun w => capFld 29 16 (if bit w 0 then 8192 else 2048) w

/-- A write of SLICE_CFG (01 R52, R53). -/
def Hw.sliceWrite (h : Hw) (k : Nat) (v : Word) : Hw :=
  if h.coreAvail k ∧ (h.core (h.hostOf k)).paging then h else h.putReg SLICE_CFG k v (capFld 3 0 8)

/-- PSET_CTRL.COMMIT (03 R92): the window joins the queue, or OVF is set. -/
def Hw.psetCommit (h : Hw) (k : Nat) : Hw :=
  if 8 ≤ (h.core k).psetq.length then h.setFlag PSET_STAT k 8 true
  else
    let e : PsetCommit := { set := h.fld PSET_SEL k 7 0, words := (List.range 8).map fun i => h.reg (PSET_WIN i) k }
    h.updCore k fun s => { s with psetq := s.psetq ++ [e] }

/-- PSET_CTRL.READBACK (03 R113): the live set goes to the window; a word with two wrong bits counts and leaves a free value. -/
def Hw.psetReadback (h : Hw) (k : Nat) : Hw :=
  (List.range 8).foldl (fun h i =>
    let x := h.winCore k (psetAddr k (h.fld PSET_SEL k 7 0) + 4 * i) none
    x.1.setReg (PSET_WIN i) k x.2) h

/-- PSET_CTRL.CLR_OVF. -/
def Hw.psetClrOvf (h : Hw) (k : Nat) : Hw := h.setFlag PSET_STAT k 8 false

/-- A write of PSET_CTRL: its commands act in ascending bit order (DESIGN CHOICE, log 130). -/
def Hw.psetCtrl (h : Hw) (k : Nat) (v : Word) : Hw :=
  let h := if bit v 0 then h.psetCommit k else h
  let h := if bit v 1 then h.psetReadback k else h
  if bit v 2 then h.psetClrOvf k else h

/-- A write of DL_CTRL (08 R256, R258), in ascending bit order (DESIGN CHOICE, log 130). -/
def Hw.dlCtrl (h : Hw) (k : Nat) (v : Word) : Hw :=
  let h := if bit v 0 then h.dlCommit k else h
  let h := if bit v 1 then h.dlReadback k else h
  if bit v 2 then h.dlClrOvf k else h

/-- A write of MC_CTRL, MC_ENTRY or the event window: while a handler runs, what was in force stays so until the next dispatch (04 R141). -/
def Hw.mcWrite (h : Hw) (r : Rg) (k : Nat) (v : Word) : Hw :=
  let now := h.mcNow k
  let h := if (h.core k).eng.running then h.updCore k fun s => { s with mcForce := some now } else h
  h.putReg r k v

/-- Core pages. -/
def Hw.writeCore (h : Hw) (r : Rg) (k : Nat) (v : Word) : Hw :=
  if r = SLICE_CFG then h.sliceWrite k v
  else if r = SLICE_INBOX_DEPTH then h.putReg r k v (capFld 15 0 47104)
  else if r = CORE_LAYOUT then h.layoutWrite k v
  else if r = PSET_CTRL then h.psetCtrl k v
  else if r = MC_CTRL ∨ r = MC_ENTRY ∨ r = MC_EVT_ORD_LO ∨ r = MC_EVT_ORD_HI then h.mcWrite r k v
  else if r = MC_SEED then h.setReg r k (seedVal v)
  else if r = MC_STORE_DATA then (h.winStore k (some v)).1
  else if r = MC_DM_DATA then (h.winDm k (some v)).1
  else if (r = DENSE_CTRL ∨ r = DENSE_LIST ∨ r = DENSE_BIN_BASE) ∧ h.coreClosed k then h
  else if r = DENSE_PERIOD then h.putReg r k v (capFld 10 0 1024)
  else if r = CLIP_THRESH then h.putReg r k v (capFld 19 0 1000000)
  else if r = DENSE_BINQ then h.binqWrite k (v &&& 0xFFFF#32)
  else if r = DL_CTRL then h.dlCtrl k v
  else if r = DRIFT_INFO then h.clear31 r k v
  else h.putReg r k v

/-! ### One register -/

/-- A write that has reached its page, and no hardware set falls in its cycle. -/
def Hw.regPut (h : Hw) (who : Requester) (p u off : Nat) (v : Word) : Hw :=
  let r : Rg := ⟨p, off⟩
  if isMfg p ∧ 0x040 ≤ off then h
  else if p = pgROASTCFG ∧ off < 0x040 ∧ (h.cl u).roast.busy then h.inc ROAST_WRITE_IGN_CNT u
  else if off < 0x040 then h.headerWrite p u off (isFw who) v
  else if p = pgSENSIO ∨ p = pgXBAR ∨ p = pgACT ∨ p = pgGPIO ∨ p = pgTMR then h.writeIsland r u v
  else if p < 0x100 then h.writeGlobal who r v
  else if p < 0x200 then h.writeQuad who r u v
  else if p < 0x300 then h.writeCluster (isFw who) r u v
  else if p = pgDRIPEP then h.putReg r u v
  else h.writeCore r u v

/-- Registers that a 1 in bit 31 clears whole. -/
def clear31Regs : List Rg := [PWR_LOG, MGMT_ERR_INFO, FLOOD_INFO, BANK_VIOL_INFO, CKPT_STAT, DRIFT_INFO]

/-- The W1C bits of a register. -/
def w1cMask (p off : Nat) : Word :=
  if off < 0x040 then (if off = 0x010 then 1#32 else 0#32)
  else if (⟨p, off⟩ : Rg) ∈ clear31Regs then 0x80000000#32
  else match rowOf p off with
    | some row => w32 row.w1c
    | none => 0#32

/-- A write that has reached its page; `same` holds the bits that hardware sets in the same cycle: a W1C bit among them ends set, whatever the
write says of it (00 R16). For TMR_COUNT it says whether a gated tick falls in the same PCLK (11 R313). -/
def Hw.regWrite (h : Hw) (who : Requester) (p u off : Nat) (v : Word) (same : Word := 0#32) : Hw :=
  let m := same &&& w1cMask p off
  if (⟨p, off⟩ : Rg) = TMR_COUNT ∧ same ≠ 0#32 then (h.regPut who p u off v).tickLost u
  else if m = 0#32 then h.regPut who p u off v
  else
    let h := h.regPut who p u off (v &&& ~~~ m)
    h.setReg ⟨p, off⟩ u (h.reg ⟨p, off⟩ u ||| m)

/-- The RC bits of a register. -/
def rcMask (p off : Nat) : Word :=
  match rowOf p off with
  | some row => w32 row.rc
  | none => 0#32

/-- A read of a register that no rule gives an effect but RC: the value, and what it leaves; `same` is an increment in the same cycle, after
which the counter stands at 1 (00 R15, R16). -/
def Hw.plainRead (h : Hw) (p u off : Nat) (same : Bool) : Hw × Word :=
  let v := h.view p u off
  let m := if off < 0x040 then 0#32 else rcMask p off
  if m = 0#32 then (h, v) else (h.setReg ⟨p, off⟩ u (if same then 1#32 else v &&& ~~~ m), v)

/-- A read of TMR_CAPR, TMR_CAPF or TMR_WIDTH clears its NEW bit (11 R316). -/
def Hw.capRead (h : Hw) (r : Rg) (k : Nat) : Hw × Word := (h.setFlag TMR_CAPSTAT k (if r = TMR_CAPR then 0 else 1) false, h.reg r k)

/-- Windows and registers whose read has an effect, on global and quadrant pages. -/
def Hw.readShared (h : Hw) (who : Requester) (r : Rg) (u : Nat) (same : Bool) : Hw × Word :=
  if r = ATT_DATA then h.winAtt none
  else if r = AOM_DATA then h.winAom (!isFw who) none
  else if r = FLT_LOG_POP then h.logPop (isFw who)
  else if r.page = pgIC ∧ 0x040 ≤ r.off ∧ r.off < 0x050 then
    (if who = .mp (Fin.ofNat 4 ((r.off - 0x040) / 4)) then h.claim ((r.off - 0x040) / 4) else (h, 0#32))
  else if r = PTP_NS_LO then h.ptpRead
  else if r = TMR_CAPR ∨ r = TMR_CAPF ∨ r = TMR_WIDTH then h.capRead r u
  else if r = POLL_DATA then h.winPoll none
  else if r = LCE_DATA then h.winLce none
  else if r = ACT_DATA then h.winAct none
  else if r = FT_DATA then h.winFt u none
  else if r = LIM_DATA then h.winLim u (isFw who) none same
  else if r = HOTPIX_DATA then h.winHotpix u none
  else if r = GCL_DATA then h.winGcl u none
  else if r = MS_SA_DATA then h.winSa u none
  else if r = DRAIN then (h.ddrDrain u, w32 (1 + 2 * b2n (h.ddrSelf u)))
  else h.plainRead r.page u r.off same

/-- The same on cluster and core pages. -/
def Hw.readUnit (h : Hw) (r : Rg) (u : Nat) (same : Bool) : Hw × Word :=
  if r = BANKWIN_DATA then h.bankwin u none false
  else if r = CM_FENCE then (h, 1#32)
  else if r = GT_DATA then h.winGt u none
  else if r = FSEQ_DATA then h.winFseq u none
  else if r = FLOW_DATA then h.winFlow u none
  else if r = DEST_DATA then h.winDest u none
  else if r = DTREE_DATA then h.winDtree u none
  else if r = XTAG_DATA then h.winXtag u none
  else if r = ITAG_DATA then h.winItag u none
  else if r = SEG_DATA then h.winSeg u none
  else if r = RULE_DATA then h.winRule u none
  else if r = MC_STORE_DATA then h.winStore u none
  else if r = MC_DM_DATA then h.winDm u none
  else h.plainRead r.page u r.off same

/-- A read that has reached its page; a manufacturing page's contents are not published. -/
def Hw.regRead (h : Hw) (who : Requester) (p u off : Nat) (same : Bool) : Hw × Word :=
  if 0x040 ≤ off ∧ isMfg p then let f := h.free; (f.2, f.1)
  else if off < 0x040 then h.plainRead p u off same
  else if p < 0x200 then h.readShared who ⟨p, off⟩ u same
  else h.readUnit ⟨p, off⟩ u same

end Sys2Proof.Machine
end

