-- ==== Sys2Proof/Machine/Mgmt.lean ====
section
/-! DEFINITION. The management plane: which page an address reaches, which accesses are refused and how they are recorded, and configuration
packets (07 R208, R229, 13 R368, R369, 18 R485, 19 R497–R509, R526). -/

namespace Sys2Proof.Machine

/-! ### Addresses (R497, R498, R507, R508) -/

/-- A page of the global region. -/
def locGlobal (pg off : Nat) : Option Loc :=
  if pg ≤ 0x16 then some { page := pg, off := off }
  else if 0x20 ≤ pg ∧ pg < 0x30 then some { page := pgTMR, unit := pg - 0x20, off := off }
  else if 0x30 ≤ pg ∧ pg < 0x34 then some { page := pgDRIPEP, unit := 64 * mpCluster (pg - 0x30) + 33, off := off }
  else if 0x34 ≤ pg ∧ pg < 0x38 then some { page := pgDRIPEP, unit := 64 * ethCluster (pg - 0x34) + 34, off := off }
  else if 0xF0 ≤ pg then some { page := pg, off := off }
  else none

/-- A page of quadrant q. -/
def locQuad (q pg off : Nat) : Option Loc :=
  if pg ≤ 0x09 ∨ 0xF0 ≤ pg then some { page := 0x100 + pg, unit := q, off := off }
  else if 0x10 ≤ pg ∧ pg < 0x16 then some { page := 0x100 + pg / 2 * 2, unit := 2 * q + pg % 2, off := off }
  else if 0x18 ≤ pg ∧ pg < 0x1A then some { page := pgSC, unit := 2 * q + pg % 2, off := off }
  else none

/-- A page of cluster c. -/
def locCluster (c pg off : Nat) : Option Loc :=
  if pg ≤ 0x0C ∨ 0xF0 ≤ pg then some { page := 0x200 + pg, unit := c, off := off, cl := some c }
  else if pg = 0x10 ∨ (pg = 0x11 ∧ (mpAt c).isSome) ∨ (pg = 0x12 ∧ (ethAt c).isSome) ∨ (pg = 0x13 ∧ (scAt c).isSome) then
    some { page := pgDRIPEP, unit := 64 * c + 32 + (pg - 0x10), off := off, cl := some c }
  else none

/-- A page of logical core k. -/
def locCore (k pg off : Nat) : Option Loc :=
  if pg ≤ 0x07 ∨ 0x78 ≤ pg then some { page := 0x300 + pg, unit := k, off := off, cl := some (k / 32), core := some k }
  else if pg = 0x08 then some { page := pgDRIPEP, unit := epOfCore k, off := off, cl := some (k / 32), core := some k }
  else none

/-- The page, unit and offset of a package register address; none for an address that reaches no page. -/
def locOf (a : Word) : Option Loc :=
  let off := 4 * bits a 11 2
  let q := bits a 29 28
  let c := 16 * q + bits a 27 24
  match bits a 31 30 with
  | 0 => if bits a 29 20 = 0 then locGlobal (bits a 19 12) off else none
  | 1 => if bits a 27 20 = 0 then locQuad q (bits a 19 12) off else none
  | 2 => if bits a 23 20 = 0 then locCluster c (bits a 19 12) off else none
  | _ => locCore (32 * c + bits a 23 19) (bits a 18 12) off

/-- The address of a register of the global region, of a quadrant, of a cluster and of a core, by page number and offset. -/
def gAddr (pg off : Nat) : Word := w32 (pg * 2 ^ 12 + off)
def qAddr (q pg off : Nat) : Word := w32 (2 ^ 30 + q * 2 ^ 28 + pg * 2 ^ 12 + off)
def cAddr (c pg off : Nat) : Word := w32 (2 ^ 31 + c / 16 * 2 ^ 28 + c % 16 * 2 ^ 24 + pg * 2 ^ 12 + off)
def kAddr (k pg off : Nat) : Word := w32 (3 * 2 ^ 30 + k / 512 * 2 ^ 28 + k / 32 % 16 * 2 ^ 24 + k % 32 * 2 ^ 19 + pg * 2 ^ 12 + off)

/-- The address of a register by name, in a unit of its page's kind. -/
def addrOf (r : Rg) (u : Nat) : Word :=
  let pg := r.page % 256
  if r.page = pgTMR then gAddr (0x20 + u) r.off
  else if r.page < 0x100 then gAddr pg r.off
  else if 0x110 ≤ r.page ∧ r.page < 0x11A then qAddr (u / 2) (pg + u % 2) r.off
  else if r.page < 0x200 then qAddr u pg r.off
  else if r.page < 0x300 then cAddr u pg r.off
  else kAddr u pg r.off

/-! ### Refusals (R526) -/

/-- A refusal: its code in MGMT_ERR_INFO, its counter and its status. -/
structure Refused where
  cause : Nat
  cnt : Rg
  status : Status
deriving DecidableEq, Repr

/-- The access comes from an RCP engine. -/
def isRcp : Requester → Bool
  | .rcp _ => true
  | _ => false

/-- The page belongs to a confidential context that is resident or being switched (R504). -/
def Hw.confOwner (h : Hw) (p u : Nat) : Bool :=
  let w := h.reg (pgOwner p) u
  let n := bits w 3 0
  bit w 4 && bit w 5 && ((h.someResident && decide (n = h.ctx)) || h.switchOf n)

/-- An RCP engine's access is denied: a manufacturing page, a page, register or header field that firmware alone writes, or a confidential
context's page (R369, R499, R504). -/
def Hw.rcpDenied (h : Hw) (l : Loc) (wr : Bool) : Bool :=
  isMfg l.page || (wr && (decide (l.page ∈ fwPages) || decide (l.off = 0x018) || decide (l.page = pgSC ∧ l.off = 0x040))) ||
    h.confOwner l.page l.unit

/-- The cluster is in Steep, in Cold or in a sequence, and the page is not PWRC (15 R415). -/
def Hw.clAsleep (h : Hw) (l : Loc) : Bool :=
  match l.cl with
  | some c => decide (l.page ≠ pgPWRC) && decide ((h.cl c).pst ≠ .brew)
  | none => false

/-- A compute reset closes the page (R506): in its intervals 1 to 3, and in interval 4 but for firmware's REMAP, RSTC and CMCFG. -/
def Hw.rstClosed (h : Hw) (who : Requester) (l : Loc) : Bool :=
  let i := (h.reg RST_STAT).toNat
  l.cl.isSome && decide (l.page ≠ pgPWRC) && ((decide (1 ≤ i) && decide (i ≤ 3)) ||
    (decide (i = 4) && !(isFw who && (decide (l.page = pgREMAP) || decide (l.page = pgRSTC) || decide (l.page = pgCMCFG)))))

/-- A switch closes the pages of both partitions to RCP (18 R485). -/
def Hw.switchClosed (h : Hw) (l : Loc) : Bool :=
  match l.cl with
  | some c => h.switching && (h.inPart h.sw.to_ c || (match h.sw.out with
      | some n => h.inPart n c
      | none => false))
  | none => false

/-- The package is in Steep, where a kept port reaches the PWR page only (15 R421). -/
def Hw.steepClosed (h : Hw) (l : Loc) : Bool := decide (h.pkg.pst = .steep) && decide (l.page ≠ pgPWR)

/-- The first refusal that applies to an access that reaches a page. -/
def Hw.refusal (h : Hw) (who : Requester) (l : Loc) (wr : Bool) : Option Refused :=
  if isMfg l.page ∧ h.flag FUSE_FLAGS 0 0 then some ⟨2, FLOCK_DENY_CNT, .denied⟩
  else if isRcp who ∧ h.rcpDenied l wr then some ⟨2, MGMT_DENY_CNT, .denied⟩
  else if h.steepClosed l ∨ h.clAsleep l then some ⟨1, PWR_ACC_DROP_CNT, .unavail⟩
  else if h.rstClosed who l ∨ (isRcp who ∧ h.switchClosed l) then some ⟨1, MGMT_UNAVAIL_CNT, .unavail⟩
  else none

/-- The requester's code in MGMT_ERR_INFO; the spec gives the configuration agents none. -/
def Hw.whoCode (h : Hw) : Requester → Hw × Nat
  | .mp m => (h, m)
  | .rcp q => (h, 4 + q)
  | .cfg _ => let f := h.free; (f.2, bits f.1 2 0)

/-- Count a refused access, record it if MGMT_ERR_INFO is free, and answer it. -/
def Hw.refuse (h : Hw) (who : Requester) (addr : Word) (wr : Bool) (x : Refused) : Hw :=
  let h := { h.inc x.cnt with resp := { status := x.status } }
  if h.flag MGMT_ERR_INFO 0 31 then h
  else
    let c := h.whoCode who
    (c.1.setReg MGMT_ERR_INFO 0 (fields [(0, c.2), (4, x.cause), (8, b2n wr), (31, 1)])).setReg MGMT_ERR_ADDR 0 addr

/-- An access that a core or cluster reset holds is performed once the reset has ended (R506). -/
def Hw.unhold (h : Hw) (l : Loc) : Hw :=
  let h := match l.cl with
    | some c => h.clusterResetEnd c
    | none => h
  match l.core with
  | some k => h.coreResetEnd k
  | none => h

/-- An access: refused, or performed by `act`, whose value is the answer. -/
def Hw.guarded (h : Hw) (who : Requester) (addr : Word) (wr : Bool) (act : Hw → Loc → Hw × Word) : Hw :=
  match locOf addr with
  | none => h.refuse who addr wr ⟨0, MGMT_NOPAGE_CNT, .nopage⟩
  | some l =>
    match h.refusal who l wr with
    | some x => h.refuse who addr wr x
    | none => let r := act (h.unhold l) l; { r.1 with resp := { value := r.2 } }

/-- A management write. -/
def Hw.mgmtWrite (h : Hw) (who : Requester) (addr v : Word) (same : Word := 0#32) : Hw :=
  h.guarded who addr true fun h l => (h.regWrite who l.page l.unit l.off v same, 0#32)

/-- A management read. -/
def Hw.mgmtRead (h : Hw) (who : Requester) (addr : Word) (same : Bool := false) : Hw :=
  h.guarded who addr false fun h l => h.regRead who l.page l.unit l.off same

/-- An access by a requester that has power: the package is powered, or it is the RCP engine of a port that Steep keeps. -/
def State.mgmt (s : State) (who : Requester) (f : Hw → Hw) : Out :=
  let up := s.hw.powered || (match who with
    | .rcp q => s.hw.kept q
    | _ => false)
  .next { s with hw := if up then f s.hw else s.hw }

/-- A write of a register by name. -/
def State.put (s : State) (who : Requester) (r : Rg) (u : Nat) (v : Word) : Out := s.mgmt who fun h => h.mgmtWrite who (addrOf r u) v

/-- A read of a register by name. -/
def State.look (s : State) (who : Requester) (r : Rg) (u : Nat) : Out := s.mgmt who fun h => h.mgmtRead who (addrOf r u)

/-- A read or a write of a data register. -/
def State.win (s : State) (who : Requester) (r : Rg) (u : Nat) (wr : Option Word) : Out :=
  match wr with
  | some v => s.put who r u v
  | none => s.look who r u

/-! ### Configuration packets (07 R208, R229) -/

/-- Registers without writable bits whose write is a command. -/
def actionRegs : List Rg :=
  [PSET_CTRL, DL_CTRL, GPIO_SET, GPIO_CLR, PTP_ADJ, RST_CMD, CL_RST_LO, CL_RST_HI, CORE_RST_PULSE, FUSE_PROG, IMG_DATA, FLT_CTRL, FLT_RAISE,
    IC_SWI_SET, IC_SWI_CLR, ATT_CMD, DRIFT_INFO, BANK_VIOL_INFO, CKPT_STAT, FLOOD_INFO, PWR_LOG, MGMT_ERR_INFO]

/-- The register's access codes or its lock ignore a write (R229). -/
def Hw.ignores (h : Hw) (p u off : Nat) : Bool :=
  if off < 0x040 then !(decide (off ∈ [0x008, 0x010, 0x014, 0x018, 0x01C]))
  else
    match rowOf p off with
    | none => false
    | some row => decide (h.rowMask ⟨p, off⟩ u ||| w32 row.w1c ||| w32 row.w1s = 0#32) && !(decide (⟨p, off⟩ ∈ actionRegs))

/-- One write of a configuration packet; one that the register ignores is counted. -/
def Hw.cfgWrite (h : Hw) (c : Nat) (addr v : Word) : Hw :=
  let who : Requester := .cfg (Fin.ofNat 64 c)
  let ign := match locOf addr with
    | some l => (h.refusal who l true).isNone && h.ignores l.page l.unit l.off
    | none => false
  let h := h.mgmtWrite who addr v
  if ign then h.inc CFG_REJ_CNT c else h

/-- The addresses in cluster c that a unit-relative address and a mask of logical cores name, lowest core first. -/
def cfgAddrs (c : Nat) (a mask : Word) : List Word :=
  let x := setBits (setBits a 29 28 (c / 16)) 27 24 (c % 16)
  match bits a 31 30 with
  | 2 => [x]
  | 3 => ((List.range 32).filter fun i => bit mask i).map fun i => setBits x 23 19 i
  | _ => []

/-- The writes of a packet, in order: every data word to each address, and the next word to the next register unless FIXED. -/
def Hw.cfgWrites (h : Hw) (c : Nat) (a mask : Word) (fixed : Bool) : List Word → Hw
  | [] => h
  | v :: r =>
    let h := (cfgAddrs c a mask).foldl (fun h x => h.cfgWrite c x v) h
    h.cfgWrites c (if fixed then a else a + 4#32) mask fixed r

/-- The configuration agent of cluster c takes a CFG packet: rejected and counted unless it comes from a management processor or through
a relay; with an uncorrectable flit it performs none of its writes. Its window place returns after the writes. -/
def Hw.cfgPacket (h : Hw) (c : Nat) : Hw :=
  h.withPkt c tCFG fun p h =>
    let w := flitW p 0
    let ok := decide (pEp w = 33) || (decide (pEp w = 35) && pRly w)
    let a := flitW p 1
    let h := h.popPkt c 0
    let h := if ok = false then h.inc CFG_REJ_CNT c
      else if pktBad p then h
      else if (bits a 31 30 = 0 ∨ bits a 31 30 = 1) then h.inc CFG_REJ_CNT c (p.length - 3)
      else h.cfgWrites c a (flitW p 2) (bit a 0) ((p.drop 3).map fun f => f.w)
    h.sendWret c (pScl w) (pEp w) false 0

/-- A CFG packet reaches the configuration agent. -/
def execCfgPacketRx (c : Cluster) (s : State) : Out := s.onHw fun h => h.cfgPacket c

end Sys2Proof.Machine
end

