-- ==== Sys2Proof/Machine/Loader.lean ====
section
/-! DEFINITION. The pieces of a Dremberok image and the refusals of the image loader, judged on a block that holds nothing but the image (16 R450
and the rules it gathers; which RESULT each refusal gives is a choice of log 127). -/

namespace Sys2Proof.Machine

/-- A management write by firmware's own programs, whose answer nobody sees. -/
def Hw.fwWrite (h : Hw) (a v : Word) : Hw := { h.mgmtWrite (.mp 0) a v with resp := h.resp }

/-- The logical core in whose core-local space an address of the memory path lies, and the offset (12 R336). -/
def coreOfAddr (a : Nat) : Option (Nat × Nat) :=
  if coreBase 0 ≤ a ∧ a < coreBase 2048 then some ((a - coreBase 0) / 2 ^ 24, (a - coreBase 0) % 2 ^ 24) else none

/-- The cluster in whose bank space an address lies. -/
def clOfAddr (a : Nat) : Option Nat := if bankBase 0 0 ≤ a ∧ a < bankBase 64 0 then some ((a - bankBase 0 0) / 2 ^ 29) else none

/-- Where a memory section's word goes. Offsets of core space from 0x4_0000 on are the slice images of the context (log 20); the low two bits
of an address are ignored. -/
def imgAddr (n a : Nat) : Nat :=
  let a := a / 4 * 4
  match coreOfAddr a with
  | some (k, o) => if 0x40000 ≤ o then sliceBase n k 0 + (o - 0x40000) else a
  | none => a

/-- A section for the slice images. -/
def toSlices (a : Nat) : Bool :=
  match coreOfAddr a with
  | some (_, o) => decide (0x40000 ≤ o)
  | none => false

/-- A word written to memory: one of a core's parameter RAM is stored as R91 says. -/
def imgWord (a : Nat) (v : Word) : Word :=
  match coreOfAddr a with
  | some (_, o) => if 0x24000 ≤ o ∧ o < 0x26000 then psetStored (o / 4 % 8) v else v
  | none => v

/-- Load one piece of context n's image; slice images are loaded for its first residency only. -/
def Hw.loadItem (h : Hw) (n : Nat) (first : Bool) : ImgItem → Hw
  | .mem a _ ws =>
    if toSlices a.toNat ∧ first = false then h
    else
      let d := imgAddr n a.toNat
      h.setWords d (ws.zipIdx.map fun p => imgWord (d + 4 * p.2) p.1)
  | .reg a v => h.fwWrite a v

/-- Set or clear LOCKED on pages. -/
def Hw.lockPages (h : Hw) (ps : List (Nat × Nat)) (on : Bool) : Hw := ps.foldl (fun h p => h.setFlag (pgLock p.1) p.2 0 on) h


/-! ### The block as the image would leave it -/

/-- The block with the image of context n loaded and nothing else: the package's own registers stand, and no cluster is asleep, in reset or locked
(log 127). -/
def Hw.alone (h : Hw) (n : Nat) (i : Image) : Hw :=
  let g : Hw := { regs := h.regs.filter fun p => decide ((regKey p.1).1 < 0x100) }
  let g := ((g.setReg RST_STAT 0 0#32).setReg CTX_STATE 0 0#32).lockPages [(pgSTEP, 0)] false
  i.items.foldl (fun g it => g.loadItem n true it) g

/-- The words of a table that are not 0, with their units and indices. -/
def Hw.tabWords (h : Hw) (t : Tab) : List (Nat × Nat × Word) :=
  h.tabs.filterMap fun p =>
    let k := Nat.unpair p.1
    if k.1 = t.code then some ((Nat.unpair k.2).1, (Nat.unpair k.2).2, p.2) else none

/-- The clusters that an image's partition names, and their cores. -/
def imgCls (i : Image) : List Nat := (List.range 64).filter fun c => i.part.getLsbD c
def imgCores (i : Image) : List Nat := (imgCls i).flatMap coresOf

/-- Some element of a list comes again after it. -/
def repeats : List Nat → Bool
  | [] => false
  | a :: r => r.contains a || repeats r

/-! ### 5 FABRIC: the schedule (06 R185, R195, R211, 14 R396) -/

/-- The frames of a step in which router c reads slot entries, with the table each uses (R180, R181). -/
def Hw.framesOf (h : Hw) (c : Nat) : List (Nat × Nat) :=
  (List.range (h.frameEnd / 1024)).filterMap fun f =>
    let q := h.tab .fseq c (h.fld RT_CTRL c 0 0 * 2 ^ 16 + f)
    if bit q 7 then none else some (f, bits q 2 0)

/-- The reserved entries of slot s of a table: input lane and word. -/
def Hw.slotWords (h : Hw) (c t s : Nat) : List (Nat × Word) :=
  ((List.range 17).map fun n => (n, h.tab .gt c (t * 2 ^ 16 + n * 2 ^ 10 + s))).filter fun p => bit p.2 31

/-- The output lanes that a slot entry names. -/
def outLanes (w : Word) : List Nat := (List.range 17).filter (bit w)

/-- Output lane m of router c cannot be used by a schedule: it does not exist, or its link stays in RESET. -/
def Hw.laneMissing (h : Hw) (c m : Nat) : Bool :=
  match h.laneEnd c m with
  | .none_ => true
  | .sc k => !h.lic 1 || !h.scCabled k
  | _ => false

/-- Fabric cycles of the crossing that output lane m of router c leads over (R185). -/
def Hw.laneDelay (h : Hw) (c m : Nat) : Nat :=
  match h.laneEnd c m with
  | .mesh _ _ d => d
  | .sc _ => 3 + h.dSc
  | _ => 3

/-- A slot that reserves an output lane twice, or one that cannot be used. -/
def Hw.slotClash (h : Hw) (c t s : Nat) : Bool :=
  let outs := (h.slotWords c t s).flatMap fun p => outLanes p.2
  repeats outs || outs.any (h.laneMissing c)

/-- A flit of slot s of frame f would still be on its way when the last frame ends. -/
def Hw.slotLate (h : Hw) (c f t s : Nat) : Bool :=
  (h.slotWords c t s).any fun p => (outLanes p.2).any fun m => decide (h.frameEnd ≤ 1024 * f + s + h.laneDelay c m)

/-- Lane 16 is reserved in slot s of a table. -/
def Hw.scSlot (h : Hw) (c t s : Nat) : Bool := (h.slotWords c t s).any fun p => bit p.2 16

/-- Slots of a table that reserve lane 16. -/
def Hw.scSlots (h : Hw) (c t : Nat) : Nat := ((List.range 1024).filter (h.scSlot c t)).length

/-- In some 8 consecutive slots of the step, lane 16 is reserved in more than 5 (R396). -/
def Hw.scDense (h : Hw) (c : Nat) (fs : List (Nat × Nat)) : Bool :=
  let used (a : Nat) : Bool := fs.any fun p => p.1 == a / 1024 && h.scSlot c p.2 (a % 1024)
  fs.any fun p => (List.range 1024).any fun s => decide (5 < ((List.range 8).filter fun j => used (1024 * p.1 + s + j)).length)

/-- Layout-L entries that name flow f in a table. -/
def Hw.flowSlots (h : Hw) (c t f : Nat) : Nat :=
  ((List.range 1024).map fun s => ((h.slotWords c t s).filter fun p => decide (p.1 < 8) && bits p.2 25 17 == f).length).foldl (· + ·) 0

/-- The flows of router c with a word that is not 0. -/
def Hw.flowsOf (h : Hw) (c : Nat) : List Nat := (((h.tabWords .flow).filter fun x => x.1 == c).map fun x => x.2.1 % 2 ^ 16).eraseDups

/-- The schedule of router c breaks a rule of R195 or R396; lat is the trained latency of its link where that is up. -/
def Hw.scheduleBad (h : Hw) (c : Nat) (lat : Option Nat) : Bool :=
  let fs := h.framesOf c
  let ts := (fs.map Prod.snd).eraseDups
  let flows := h.flowsOf c
  let budgets := flows ++ (if fs = [] then [] else List.range 512)
  ts.any (fun t => (List.range 1024).any fun s => h.slotClash c t s) ||
  fs.any (fun p => (List.range 1024).any fun s => h.slotLate c p.1 p.2 s) ||
  ts.any (fun t => decide (h.fld FAB_SC_SLOT_MAX 0 9 0 < h.scSlots c t)) ||
  h.scDense c fs ||
  (ts.any (fun t => decide (0 < h.scSlots c t)) && lat.any fun l => decide (h.dSc < l)) ||
  budgets.any (fun f => decide (h.flowBudget c f ≠ (fs.map fun p => h.flowSlots c p.2 f).foldl (· + ·) 0)) ||
  decide (16384 < (flows.map (h.flowBudget c)).foldl (fun a b => a + b) 0)

/-- A destination entry that firmware keeps is used: by a flow, a tree, or a destination of its own (07 R211). -/
def Hw.firmwareDest (h : Hw) (c : Nat) : Bool :=
  (h.flowsOf c).any (fun f => bits (h.flowWord c f 0) 31 30 != 0 && decide (0xFC ≤ h.flowDest c f)) ||
  (h.tabWords .dest).any (fun x => x.1 == c && decide (0xFC ≤ x.2.1 % 2 ^ 16)) ||
  (h.tabWords .dtree).any (fun x => x.1 == c && decide (0xFC ≤ x.2.1 % 256)) ||
  (h.tabWords .itag).any (fun x => x.1 == c && decide (0xFC ≤ bits x.2.2 7 0))

/-- A tree entry names a port without a link, or leaves the unicast routes from its source (07 R209, R210). -/
def Hw.treeBad (h : Hw) (c : Nat) : Bool :=
  (h.tabWords .dtree).any fun x =>
    x.1 == c && bit x.2.2 7 &&
      ((List.range 6).any (fun p => bit x.2.2 p && !portExists c p) ||
        (rangeIncl 1 4).any fun p => bit x.2.2 p && !bit (fullTree (x.2.1 / 256) c) p)

/-! ### 5 FABRIC: sources (10 R297, R299, 11 R330) -/

/-- Ordinals that a port of an ingress unit can produce, with their class: first, last, drip class, and the cluster they are offered at. -/
structure Ordinals where
  lo : Nat
  hi : Nat
  drip : Bool
  cl : Nat
deriving DecidableEq, Repr

/-- The ordinals of the entries that port p of unit q reaches (R297). -/
def Hw.portOrdinals (h : Hw) (q p : Nat) : List Ordinals :=
  let w := h.reg (PORT p) q
  let g := min 16 (bits w 20 16)
  let base := bits w 15 0
  let ids := h.fld (PORT_LIM p) q 23 0
  if h.flag (PORT p) q 31 = false then []
  else
    (h.tabWords .ft).filterMap fun x =>
      let e := x.2.1
      let first := (e - base) * 2 ^ g
      if x.1 = q ∧ e < 65536 ∧ bit x.2.2 31 ∧ base ≤ e ∧ first < ids then
        let o := bits (h.tab .ft q (e + 65536)) 17 0
        let span := if bit x.2.2 30 then min (2 ^ g) (ids - first) - 1 else 0
        some ⟨o, min 0x3FFFF (o + span), bit x.2.2 29, portCluster q p⟩
      else none

/-- The ordinals of an ingress unit. -/
def Hw.unitOrdinals (h : Hw) (q : Nat) : List Ordinals := (List.range 16).flatMap (h.portOrdinals q)

/-- Two ingress units can produce one ordinal. -/
def Hw.ordinalShared (h : Hw) : Bool :=
  (List.range 4).any fun q => (List.range q).any fun r =>
    (h.unitOrdinals q).any fun a => (h.unitOrdinals r).any fun b => decide (a.lo ≤ b.hi) && decide (b.lo ≤ a.hi)

/-- An entry's class does not fit the flow that its event reaches. -/
def Hw.classWrong (h : Hw) : Bool :=
  (List.range 4).any fun q => (h.unitOrdinals q).any fun a => (rangeIncl a.lo a.hi).any fun o =>
    match h.flowOf a.cl (h.flowAddr o) with
    | some f => a.drip != decide (h.flowBudget a.cl f = 0)
    | none => false

/-- The limiters of a unit hold more tokens than its touched list has places (R299). -/
def Hw.depthOver (h : Hw) (q : Nat) : Bool :=
  decide (16384 < (((h.tabWords .lim).filter fun x => x.1 == q && decide (x.2.1 < 1024)).map fun x => bits x.2.2 31 16).foldl (· + ·) 0)

/-- Two injection slots name one source (R330). -/
def Hw.injTwice (h : Hw) : Bool := repeats (((List.range 32).map fun j => h.xbSel (0xA8 + j)).filter (· ≠ 0))

/-- RESULT 5. -/
def Hw.fabricBad (h : Hw) (real : Hw) (n : Nat) (i : Image) : Bool :=
  let deliv := min (h.reg (STEP_CTX_DELIV n)).toNat ((h.reg (STEP_CTX_LEN n)).toNat - 1)
  let lat (c : Nat) : Option Nat := match scAt c with
    | some k => if real.scState k = 2 then some (real.fld SC_STAT k 24 16) else none
    | none => none
  decide (us * deliv < h.frameEnd) || (imgCls i).any (fun c => h.scheduleBad c (lat c) || h.firmwareDest c || h.treeBad c) || h.ordinalShared ||
    h.classWrong || (List.range 4).any h.depthOver || h.injTwice

/-! ### The lists of a core -/

/-- The descriptors of a chain, as they stand, with the one that ends it (05 R150, R151). -/
def Hw.chainDescs (h : Hw) (c k bank off i : Nat) : Nat → List Desc
  | 0 => []
  | n + 1 =>
    let d := descOf (h.word (bankBase c bank + off)) (h.word (bankBase c bank + off + 4))
    d :: (if d.fmt = 3 ∨ descOk d i = false ∨ d.chain = false then []
      else h.chainDescs c k (h.fld CHAIN_BASE k 4 0) (16 * h.fld CHAIN_BASE k 22 8 + 8 * d.next) (i + 1) n)

/-- The descriptors that the events of core k's window reach. -/
def Hw.coreDescs (h : Hw) (k : Nat) : List Desc :=
  (rangeIncl (h.fld DESC_ORD_LO k 17 0) (h.fld DESC_ORD_HI k 17 0)).flatMap fun o =>
    let p := h.descAt k o
    h.chainDescs (k / 32) k p.1 p.2 0 8

/-- The words of a descriptor's list. -/
def Hw.descWords (h : Hw) (c : Nat) (d : Desc) : List Word := h.words (bankBase c d.bank + 16 * d.offset) d.len

/-- A synapse as the loader sees it: target, delay code, and whether it has FD and is plastic. -/
structure SynAt where
  tgt : Nat
  delay : Nat
  fd : Bool
  plastic : Bool
deriving DecidableEq, Repr

/-- The synapses of a list word (R152): those of weight 0 only where the roast can change them. -/
def synsOf (c : Nat) (d : Desc) (w : Word) : List SynAt :=
  if d.fmt = 1 then
    ([bits w 31 16, bits w 15 0].filter fun v => decide (v / 4096 ≠ 0)).map fun _ => ⟨32 * c + d.tcore, d.delay, false, false⟩
  else if d.fmt = 2 then [⟨32 * c + bits w 15 11, bits w 19 16, false, true⟩]
  else if bits w 31 24 = 0 ∧ bit w 19 = false then []
  else [⟨32 * c + bits w 17 13, bits w 23 20, bit w 18, bit w 19⟩]

/-- The synapses into compact cores from the lists of core k. -/
def Hw.compactSyns (h : Hw) (k : Nat) : List SynAt :=
  (h.coreDescs k).flatMap fun d =>
    if d.fmt = 3 then [] else ((h.descWords (k / 32) d).flatMap (synsOf (k / 32) d)).filter fun s => h.compact s.tgt

/-! ### 6 MEMORY (03 R96, 05 R144, R153, 08 R238, R241) -/

/-- A structure of n bytes at an offset crosses the end of the owned region. -/
def crosses (off n : Nat) : Bool := decide (0 < n) && decide (ownedEnd < off + n)

/-- A structure of core k in its cluster's banks crosses 0x5_BFFF: its inbox, descriptor table, chain table, lists or snapshots. -/
def Hw.coreCrosses (h : Hw) (k : Nat) : Bool :=
  let c := k / 32
  let ds := h.coreDescs k
  let lo := h.fld DESC_ORD_LO k 17 0
  let hi := h.fld DESC_ORD_HI k 17 0
  crosses (16 * h.fld SLICE_INBOX k 22 8) (8 * (h.reg SLICE_INBOX_DEPTH k).toNat) ||
  crosses (16 * h.fld DESC_BASE k 22 8) (8 * (hi + 1 - lo)) ||
  ds.any (fun d => d.chain && decide (d.fmt ≠ 3) && crosses (16 * h.fld CHAIN_BASE k 22 8) (8 * d.next + 8)) ||
  ds.any (fun d => decide (d.fmt ≠ 3) && crosses (16 * d.offset) (4 * d.len)) ||
  (bit (h.reg (ROAST_SNAP (k % 32)) c) 31 && crosses (h.snapAt k 0).2 (8 * h.sealCount k))

/-- A structure of cluster c does: its pre-trace table, its checkpoint shadow past the last bank, or its degradation reserve (03 R109, R115). -/
def Hw.clCrosses (h : Hw) (c : Nat) : Bool :=
  let past (bank off n : Nat) : Bool := decide (0 < n) && (decide (ownedEnd ≤ off) || decide (32 * ownedEnd < bank * ownedEnd + off + n))
  let pairs := h.fld DEG_RESERVE_SIZE c 2 0
  crosses (16 * h.fld PRE_BASE c 22 8) (4 * (h.fld PRE_ORD_HI c 17 0 + 1 - h.fld PRE_ORD_LO c 17 0)) ||
  past (h.fld CKPT_BASE c 4 0) (16 * h.fld CKPT_BASE c 22 8) (if h.flag ROAST_CTRL c 2 then 16 * h.fld CKPT_SIZE c 15 0 else 0) ||
  past (h.fld DEG_RESERVE c 4 0 + (2 * pairs - 1)) (16 * h.fld DEG_RESERVE c 22 8) (if pairs = 0 then 0 else imageBytes)

/-- A layer that core k's list would reach has an invalid descriptor. -/
def Hw.layersBad (h : Hw) (k : Nat) : Nat → Nat → Bool
  | _, 0 => false
  | i, n + 1 => match h.peekLayer k i with
    | .stop => false
    | .bad => true
    | .ok _ => h.layersBad k (i + 1) n

/-- A dense core is sliced, or its list has an invalid descriptor. -/
def Hw.denseBad (h : Hw) (k : Nat) : Bool := h.flag DENSE_CTRL k 0 && (decide (1 < h.fld SLICE_CFG k 3 0) || h.layersBad k 0 16)

/-- RESULT 6. -/
def Hw.memoryBad (h : Hw) (i : Image) : Bool :=
  (imgCores i).any (fun k => h.coreCrosses k || h.denseBad k || (h.compactSyns k).any fun s => decide (s.delay ≠ 1) || s.fd) || (imgCls i).any h.clCrosses

/-! ### 8 TIMING (02 R63, R74) -/

/-- The core cycles that an instruction occupies the engine at least (04 R122). -/
def MOp.cyc : MOp → Nat
  | .mul | .mulq | .ld | .stb | .jmp | .jal | .jr | .beq | .bne | .blt | .bge => 2
  | .ldb => 6
  | .chanListen | .chanOpen | .chanSend | .chanClose | .chanStatus => 4
  | _ => 1

/-- The longest instruction of core k's microcode store, in cycles. -/
def Hw.longestOp (h : Hw) (k : Nat) : Nat :=
  ((List.range 1024).map fun j => match mcDecode (h.word (storeAddr k j)) with
    | some i => i.op.cyc
    | none => 1).foldl max 1

/-- F of core k (R71). -/
def Hw.forceCyc (h : Hw) (k : Nat) : Nat :=
  16 + ceilDiv (h.neurons k) 4 + (if h.anyMc k then max 1 (h.fld MC_LIMIT_N k 15 0) + h.longestOp k - 1 else 0)

/-- The longest tile of core k's dense list, in core cycles (08 R244, R254). -/
def Hw.tileMax (h : Hw) (k : Nat) : Nat → Nat → Nat
  | _, 0 => 0
  | i, n + 1 => match h.peekLayer k i with
    | .ok y =>
      let d : DIn := { x := #[], z := #[], out := if y.iolEn then (h.outlierSet k y.iol).2 else [] }
      max (((List.range (y.kk / 16)).map (y.tileCyc d y.pb)).foldl max 0) (h.tileMax k (i + 1) n)
    | _ => 0

/-- STEP_STRETCH_MAX of context n, in µs, covers forcing and the pour (R74). -/
def Hw.stretchCovers (h : Hw) (n : Nat) (i : Image) : Bool :=
  let w := h.reg (STEP_CTX_POLICY n)
  let f := ((imgCores i).map h.forceCyc).foldl max 0
  let t := ((imgCores i).map fun k => if h.flag DENSE_CTRL k 0 then h.tileMax k 0 16 else 0).foldl max 0
  decide (bits w 1 0 = 0) || decide (ceilDiv (f + t + 400) 400 ≤ max 2 (bits w 31 16))

/-- RESULT 8: the delivery window leaves less than the declared integrate time, or STEP_STRETCH_MAX falls short. -/
def Hw.timingBad (h : Hw) (n : Nat) (i : Image) : Bool :=
  let l := (h.reg (STEP_CTX_LEN n)).toNat
  decide (us * (l - min (h.reg (STEP_CTX_DELIV n)).toNat (l - 1)) < i.integ) || !h.stretchCovers n i

/-! ### 9 LEARNING (03 R89, 09 R270, R275) -/

/-- Core cycles of one pass over segment g, with the words as the image has them (R274). -/
def Hw.passCyc (h : Hw) (c g : Nat) : Nat :=
  laneTime ((h.segCores c g).map fun k =>
    ((h.coreDescs k).map fun d => 2 * (1 + if d.fmt = 3 ∨ d.fmt = 1 then 0 else ceilDiv d.len 4)).foldl (· + ·) 0)

/-- The compiled duration of cluster c's roast in core cycles. -/
def Hw.roastCyc (h : Hw) (c : Nat) : Nat :=
  (((List.range 32).filter (h.segValid c)).map fun g => 2 * h.passCyc c g + 512).foldl (· + ·) 16

/-- The segments of cluster c name a source core or a target twice, or a background roast is too long for the epoch of context n. -/
def Hw.roastBad (h : Hw) (n c : Nat) : Bool :=
  let gs := (List.range 32).filter (h.segValid c)
  let steps := max 1 (h.fld (EPOCH_CTX_LEN n) 0 10 0) - 1
  repeats (gs.flatMap (h.segCores c)) || repeats (gs.map fun g => bits (h.segWord c g 0) 4 0) ||
  (h.flag ROAST_CTRL c 0 && !h.flag ROAST_CTRL c 1 && decide (400 * (h.reg (STEP_CTX_LEN n)).toNat * steps < h.roastCyc c))

/-- RESULT 9. -/
def Hw.learningBad (h : Hw) (n : Nat) (i : Image) : Bool :=
  (imgCls i).any (h.roastBad n) || (imgCores i).any fun k => (h.compactSyns k).any SynAt.plastic

/-! ### The verdict (R450) -/

/-- Two DDR5 regions share a byte. -/
def overlap (a b : BitVec 40 × Nat) : Bool := decide (a.1.toNat < b.1.toNat + b.2) && decide (b.1.toNat < a.1.toNat + a.2)

/-- The regions of an image overlap those of another context (R481). -/
def Hw.regionsClash (h : Hw) (n : Nat) (i : Image) : Bool :=
  h.ctxs.any fun p => p.1 != n && (match p.2.img with
    | some j => i.regions.any fun a => j.regions.any (overlap a)
    | none => false)

/-- The first refusal of a LOAD into a FREE context, 0 for none (R450). What the items do not hold, the digests and the compiler's proofs among it,
is the image's own verdict (log 127). -/
def Hw.loadResult (h : Hw) (n : Nat) (i : Image) : Nat :=
  let v := i.verdict.val
  let lic := i.feats.toNat &&& h.fld LIC_STAT 0 4 0
  let g := h.alone n i
  let fails : List (Bool × Nat) :=
    [(decide (v ≠ 0), v), (!(decide (i.pos = h.reg TOPO_POS) && decide (i.pkg = h.reg TOPO_PKG)), 2),
      (!(decide (lic = i.feats.toNat) && (i.conf == false || h.lic 4) && (decide (n ≤ 1) || h.lic 2)), 3),
      ((imgCls i).any fun c => (h.cl c).mappedOut, 4), (g.fabricBad h n i, 5), (h.regionsClash n i || g.memoryBad i, 6), (g.timingBad n i, 8),
      (g.learningBad n i, 9)]
  ((fails.filter Prod.fst).map Prod.snd).foldl (fun a b => if a = 0 then b else min a b) 0

end Sys2Proof.Machine
end

