-- ==== Sys2Proof/Machine/Ctx.lean ====
section
/-! DEFINITION. Contexts: image loading and distribution, save areas, switches, destruction, state checkpoints, and the restores that firmware
makes (03 R107, 16 R449–R450, 17 R462, R463, 18 R480–R489). -/

namespace Sys2Proof.Machine

def Hw.updFw (h : Hw) (f : FwSt → FwSt) : Hw := { h with fw := f h.fw }

/-! ### Distribution (16 R450) -/

/-- A piece of an image belongs to core k: its core-local space or its registers. -/
def itemOfCore (k : Nat) : ImgItem → Bool
  | .mem a _ _ => (coreOfAddr a.toNat).map Prod.fst == some k
  | .reg a _ => match locOf a with
    | some l => l.core == some k
    | none => false

/-- A piece of an image belongs to cluster c, its cores among it. -/
def itemOfCl (c : Nat) : ImgItem → Bool
  | .mem a _ _ => clOfAddr a.toNat == some c || (coreOfAddr a.toNat).map (fun p => p.1 / 32) == some c
  | .reg a _ => match locOf a with
    | some l => l.cl == some c
    | none => false

/-- The pages of a cluster's region, and of its cores' regions, with the units they have. -/
def clPages (c : Nat) : List (Nat × Nat) :=
  (List.range 13).map (fun i => (0x200 + i, c)) ++ (List.range 33).map (fun e => (pgDRIPEP, 64 * c + e)) ++
    (coresOf c).flatMap fun k => (List.range 8).map fun i => (0x300 + i, k)

/-- Firmware loads pages: it clears their locks before, and sets them again after the loads (19 R503). -/
def Hw.unlocking (h : Hw) (ps : List (Nat × Nat)) (load : Hw → Hw) : Hw :=
  let ls := ps.filter fun p => h.locked p.1 p.2
  (load (h.lockPages ls false)).lockPages ls true

/-- The clusters of context n. -/
def Hw.part (h : Hw) (n : Nat) : List Nat := (List.range 64).filter (h.inPart n)

/-- The pages of context n's partition are owned by the context (19 R504). -/
def Hw.ownPart (h : Hw) (n : Nat) : Hw :=
  let w := w32 (n + 16 + 32 * b2n (h.conf n))
  (h.part n).foldl (fun h c => (clPages c).foldl (fun h p => h.setReg (pgOwner p.1) p.2 w) h) h

/-- The pages that a context's image is loaded into: those of its partition and the step page. -/
def Hw.loadPages (h : Hw) (n : Nat) : List (Nat × Nat) := (pgSTEP, 0) :: (h.part n).flatMap clPages

/-- Logical cores of cluster c that have lost their physical core get spares or pairs, or the cluster is mapped out (03 R107, R108). -/
def Hw.cover (h : Hw) (c : Nat) : Hw :=
  if (orphans (h.mapNow c) (h.retireReg c)).isEmpty then h
  else match h.firmwareMap c with
    | some m => h.writeMap c m
    | none => h.mapOut c

/-- The loaded memories of a guest, which is not resident, go to its image in the degradation reserve (03 R109). -/
def Hw.storeGuest (h : Hw) (k : Nat) : Hw :=
  let u := h.hostOf k
  if h.paired k ∧ k ≠ u ∧ h.live u ≠ k then (h.reserveMove u 1 k true).zero (coreBase k) (2 ^ 24) else h

/-- Distribute context n's image (step 6 of R450), which locks the step page (02 R81); its frame lists start with the one it selects. -/
def Hw.distribute (h : Hw) (n : Nat) (first : Bool) : Hw :=
  match (h.ctxSt n).img with
  | none => h
  | some i =>
    let h := (h.ownPart n).unlocking (h.loadPages n) fun h => i.items.foldl (fun h it => h.loadItem n first it) h
    (h.part n).foldl (fun h c =>
      let h := (h.cover c).updCl c fun v => { v with fseq := h.fld RT_CTRL c 0 0 }
      (coresOf c).foldl (fun h k => (h.storeGuest k).unquiet k) h) (h.lockPages [(pgSTEP, 0)] true)

/-! ### Mutable state (18 R482) -/

/-- An image marks the section of byte a mutable. -/
def imgChanges (i : Image) (a : Nat) : Bool :=
  i.items.any fun
    | .mem x ch ws => ch && decide (x.toNat / 4 * 4 ≤ a) && decide (a < x.toNat / 4 * 4 + 4 * ws.length)
    | .reg _ _ => false

/-- Byte a of core-local SRAM of context n's partition. -/
def Hw.isSram (h : Hw) (n a : Nat) : Bool :=
  match coreOfAddr a with
  | some (k, o) => h.inPart n (k / 32) && decide (o < 0x20000)
  | none => false

/-- Byte a is mutable state of context n: SRAM and microcode data memory of its cores, and what its image marks. -/
def Hw.isMut (h : Hw) (n a : Nat) : Bool :=
  (match coreOfAddr a with
    | some (k, o) => h.inPart n (k / 32) && decide (o < 0x22000)
    | none => false) ||
  (match (h.ctxSt n).img with
    | some i => toSlices a == false && imgChanges i a
    | none => false)

/-- A counter of context n's clusters or cores. -/
def Hw.isCounter (h : Hw) (n key : Nat) : Bool :=
  let k := regKey key
  rcMask k.1 k.2.2 != 0#32 && (match regCluster k.1 k.2.1 with
    | some c => h.inPart n c
    | none => false)

/-- What a context keeps of a core besides memory and registers: its slices, its slot books, its inbox and the trigger of its dense list. -/
def coreBook (s : CoreSt) : CoreSt :=
  { touched := s.touched, resident := s.resident, inbox := s.inbox, left := s.left, triggered := s.triggered, clipSeen := s.clipSeen
    macRem := s.macRem, ceEpoch := s.ceEpoch, ceHigh := s.ceHigh }

/-- Give a core the books of a save. -/
def withBook (s b : CoreSt) : CoreSt :=
  { s with
    touched := b.touched, resident := b.resident, paging := false, pageTo := 0, inbox := b.inbox, left := b.left, triggered := b.triggered
    clipSeen := b.clipSeen, macRem := b.macRem, ceEpoch := b.ceEpoch, ceHigh := b.ceHigh }

/-- The books of context n's cores that satisfy f. -/
def Hw.books (h : Hw) (n : Nat) (f : Nat → Bool) : Tbl CoreSt :=
  (h.cores.filter fun p => h.inPart n (p.1 / 32) && f p.1).map fun p => (p.1, coreBook p.2)

/-- Word 1, which holds the tokens, of every limiter that has a word other than 0 (10 R298). -/
def Hw.tokens (h : Hw) : Tbl Word :=
  (List.range 4).flatMap fun q => (h.limiters q).map fun l => (tk .lim q (1024 + l), h.lim q l 1)

/-- The mutable state of context n, as a switch saves it. -/
def Hw.saveOf (h : Hw) (n : Nat) : CtxSave :=
  { mem := h.mem.filter fun p => h.isMut n p.1
    marks := h.marks.filter fun p => h.isMut n (4 * p.1)
    regs := h.regs.filter fun p => h.isCounter n p.1
    tabs := h.tokens
    cores := h.books n fun _ => true
    mods := (h.clusters.filter fun p => h.inPart n p.1 && !p.2.mods.isEmpty).map fun p => (p.1, p.2.mods)
    step := h.stepNum, pos := h.fld EPOCH_STAT 0 9 0, num := h.reg EPOCH_NUM, epochs := h.epochs }

/-- Replace the bytes that f names, with their marks, by those of a save. -/
def Hw.overlay (h : Hw) (f : Nat → Bool) (s : CtxSave) : Hw :=
  { h with
    mem := (s.mem.filter fun p => f p.1).foldl (fun m p => Tbl.set 0#8 m p.1 p.2) (h.mem.filter fun p => !f p.1)
    marks := (s.marks.filter fun p => f (4 * p.1)).foldl (fun m p => Tbl.set 0 m p.1 p.2) (h.marks.filter fun p => !f (4 * p.1)) }

/-- Give context n's cores that satisfy f the books of a save, or none. -/
def Hw.setBooks (h : Hw) (n : Nat) (f : Nat → Bool) (b : Tbl CoreSt) : Hw :=
  (h.part n).foldl (fun h c => (coresOf c).foldl (fun h k => if f k then h.updCore k fun s => withBook s (Tbl.get {} b k) else h) h) h

/-- The counters of context n take the values of a save. -/
def Hw.setCounters (h : Hw) (n : Nat) (r : Tbl Word) : Hw :=
  { h with regs := r.foldl (fun t p => Tbl.put t p.1 p.2) (h.regs.filter fun p => !h.isCounter n p.1) }

/-- Every limiter's tokens take the value of a save, with bits 15:0 and the flags as the image set them (10 R302). -/
def Hw.setTokens (h : Hw) (t : Tbl Word) : Hw :=
  t.foldl (fun h p => { h with tabs := Tbl.set 0#32 h.tabs p.1 (setBits (Tbl.get 0#32 h.tabs p.1) 15 0 (bits p.2 15 0)) }) h

/-- The modulators of context n's clusters. -/
def Hw.setMods (h : Hw) (n : Nat) (m : Tbl (Tbl Word)) : Hw :=
  (h.part n).foldl (fun h c => h.updCl c fun v => { v with mods := Tbl.get [] m c }) h

/-- STEP_NUM and the epoch position of a save, with the epoch boundaries that its cores' books count. -/
def Hw.setPlace (h : Hw) (s : CtxSave) : Hw :=
  { ((h.setReg STEP_NUM 0 s.step).setFld EPOCH_STAT 0 9 0 s.pos).setReg EPOCH_NUM 0 s.num with epochs := s.epochs }

/-! ### Weights and neuron state (09 R279, 17 R463) -/

/-- Write cells of memory, which carry good check bits afterwards. -/
def Hw.putCells (h : Hw) (cs : List Host.Cell) : Hw := cs.foldl (fun h p => (h.setByte p.1 p.2).setMark p.1 0) h

/-- The last complete checkpoint set of context n. -/
def Hw.setOf (h : Hw) (n : Nat) : List (Nat × Nat × List Host.Cell) := if h.fw.setDone.ctx = n then h.fw.setDone.segs else []

/-- Write the learned weights of context n's last complete set into the clusters that f names. -/
def Hw.putWeights (h : Hw) (n : Nat) (f : Nat → Bool) : Hw :=
  (h.setOf n).foldl (fun h s => if f s.1 then h.putCells s.2.2 else h) h

/-- Pre-trace entries of cluster c become old, snapshot records get ECOUNT = 0, and the modulators are cleared (R263, R279). -/
def Hw.forgetTraces (h : Hw) (c : Nat) : Hw :=
  let old := w32 ((h.stepNum.toNat + 0x8000) % 0x10000)
  let h := (rangeIncl (h.fld PRE_ORD_LO c 17 0) (h.fld PRE_ORD_HI c 17 0)).foldl (fun h o =>
    let p := h.preAt c o
    h.setWord (bankBase c p.1 + p.2) old) h
  let h := (coresOf c).foldl (fun h k =>
    if bit (h.reg (ROAST_SNAP (k % 32)) c) 31 then
      (List.range (h.sealCount k)).foldl (fun h i =>
        let p := h.snapAt k i
        let a := bankBase c p.1 + p.2
        h.setWord a (setBits (h.word a) 31 16 0)) h
    else h) h
  h.updCl c fun v => { v with mods := [] }

/-- The neuron state of context n's last state checkpoint, for the cores that f names; the image's initial state stands where none holds one. -/
def Hw.putState (h : Hw) (n : Nat) (f : Nat → Bool) : Hw :=
  match (h.ctxSt n).ckpt with
  | none => h.setBooks n f []
  | some s =>
    let mine (a : Nat) : Bool := h.isSram n a && (match coreOfAddr a with
      | some (k, _) => f k
      | none => false)
    (h.overlay mine s).setBooks n f s.cores

/-- Restore context n after its restore copy has been distributed: weights, traces, neuron state (R463). -/
def Hw.restoreParts (h : Hw) (n : Nat) : Hw :=
  (h.part n).foldl (fun h c => h.forgetTraces c) ((h.putWeights n fun _ => true).putState n fun _ => true)

/-! ### Loading an image (16 R450, 18 R480, R481) -/

/-- A LOAD into a context that is not FREE fails; the spec names no RESULT for it. -/
def Hw.loadBusy (h : Hw) : Hw × Nat := let f := h.free; (f.2, f.1.toNat % 9 + 1)

/-- The context takes the image. -/
def Hw.takeImage (h : Hw) (n : Nat) (i : Image) : Hw :=
  let h := h.setReg (CTX_PART_LO n) 0 (i.part.setWidth 32)
  let h := h.setReg (CTX_PART_HI n) 0 ((i.part >>> 32).setWidth 32)
  let h := h.setFlag CTX_CONF 0 n i.conf
  let h := (h.setFlag CTX_SAVE_INVALID 0 n false).updCtx n fun _ => { img := some i }
  h.updFw fun f => { f with stale := f.stale.filter (· ≠ n) }

/-- Context m is the resident one. -/
def Hw.resideNow (h : Hw) (m : Nat) : Hw := (h.setFld CTX_STATE 0 (2 * m + 1) (2 * m) 2).setFld CTX_STAT 0 3 0 m

/-- Firmware restores the learned weights of context n's last complete set, if it has one (09 R279). -/
def Hw.putLearned (h : Hw) (n : Nat) : Hw :=
  if (h.setOf n).isEmpty then h else (h.part n).foldl (fun h c => h.forgetTraces c) (h.putWeights n fun _ => true)

/-- Context n becomes resident at step 0 with its image (R450), and after a boot with the weights of its last complete set (09 R279). -/
def Hw.firstResidency (h : Hw) (n : Nat) : Hw :=
  let h := h.distribute n true
  let h := (((h.setBooks n (fun _ => true) []).setMods n []).setPlace {}).putLearned n
  { (h.resideNow n).debugEnd n with sw := { h.sw with resume := false } }

/-- The loader ends with the image at the head of the requests. -/
def Hw.loadDone (h : Hw) : Hw :=
  match h.fw.loads with
  | [] => h
  | (n, i) :: rest =>
    let h := h.updFw fun f => { f with loads := rest }
    let r := if h.ctxState n = 0 then (h, h.loadResult n i) else h.loadBusy
    let next := (rest.head?.map Prod.fst).getD n
    let h := r.1.setReg IMG_STAT 0 (w32 (r.2 + next * 16 + b2n (!rest.isEmpty) * 256))
    if r.2 ≠ 0 then h
    else
      let h := (h.takeImage n i).inc IMG_LOAD_CNT
      if h.someResident ∨ h.switching then h.setFld CTX_STATE 0 (2 * n + 1) (2 * n) 1 else h.firstResidency n

/-- A LOAD message reaches port 241 of MP0's endpoint. -/
def Hw.loadAsk (h : Hw) (n : Nat) (i : Image) : Hw :=
  let h := if h.fw.loads.isEmpty then h.setReg IMG_STAT 0 (setBits (setBits (h.reg IMG_STAT) 7 4 n) 8 8 1) else h
  h.updFw fun f => { f with loads := f.loads ++ [(n, i)] }

/-- A LOAD message. -/
def execImageLoadMsg (n : Fin 16) (img : Image) (s : State) : Out := s.onHw fun h => h.loadAsk n img

/-- The loader's checks and distribution end. -/
def execImageLoadDone (s : State) : Out := s.onHw fun h => h.loadDone

/-! ### Switches, intervals 3 to 6 (18 R484–R488) -/

/-- The save ends with the last DRAIN. -/
def Hw.switchSaved (h : Hw) : Hw :=
  match h.sw.out with
  | some n =>
    if h.sw.stage = 3 then
      let h := h.updCtx n fun c => { c with save := some (h.saveOf n) }
      { h with sw := { h.sw with stage := 4, at_ := h.dev } }
    else h
  | none => h

/-- A context's state is in its save area. -/
def execSwitchSaveDone (s : State) : Out := s.onHw fun h => h.switchSaved

/-- The timer's page carries context n's owner. -/
def Hw.tmrOwned (h : Hw) (k n : Nat) : Bool := bit (h.reg (pgOwner pgTMR) k) 4 && decide (bits (h.reg (pgOwner pgTMR) k) 3 0 = n)

/-- What a context holds outside its clusters is cleared (R488). -/
def Hw.scrubOutside (h : Hw) (n : Nat) : Hw :=
  let h := { h with ings := [] }
  let h := (List.range 8).foldl (fun h k =>
    let h := if h.csi k = {} then h else h.updCsi k fun s => { hs := s.hs, ulps := s.ulps, offset := s.offset }
    ((((h.setReg MARKER_LAST k 0#32).setReg FR_TS0 k 0#32).setReg FR_TS1 k 0#32)).frameRelease k 3) h
  let h := (List.range 4).foldl (fun h q => if h.eth q = {} then h else h.updEth q fun e => { e with refIn := [], refOut := [], refShut := 0 }) h
  let h := (List.range 16).foldl (fun h i => h.setReg (ACT_LAST i) 0 0#32) { h with injs := [] }
  let keep (p : Nat × ActSt) : Option (Nat × ActSt) := if p.2.since = 0 ∧ p.2.pend = none then none else some (p.1, { since := p.2.since, pend := p.2.pend })
  let h := { h with acts := h.acts.filterMap keep }
  let h := (List.range 16).foldl (fun h k =>
    if h.tmrOwned k n then ((h.setReg TMR_CAPR k 0#32).setReg TMR_CAPF k 0#32).setReg TMR_WIDTH k 0#32 else h) h
  h.resetRegs fun p u off => p == pgDMA && decide (0x100 ≤ off) && !(h.dma (16 * u + (off - 0x100) / 16)).busy

/-- Interval 4 ends: the outgoing partition reads zero (R487). -/
def Hw.switchScrubbed (h : Hw) : Hw :=
  match h.sw.out with
  | some n =>
    if h.sw.stage = 4 then
      let h := h.advTo (h.sw.at_ + 71 * us)
      let h := (h.part n).foldl (fun h c =>
        let h := (h.memInit c).inc CTX_SCRUB_CNT
        let h := (h.updCl c fun v => { v with mods := [], residue := [], hold := [], alias_ := [], spillCnt := [], fseq := 0 }).spillRoom c
        (coresOf c).foldl (fun h k => if h.core k = {} then h else h.setCore k { inReset := (h.core k).inReset, rstAt := (h.core k).rstAt }) h) h
      let h := h.scrubOutside n
      { h.debugEnd h.sw.to_ with sw := { h.sw with stage := 5, at_ := h.dev } }
    else h
  | none => h

/-- The scrub of a switch ends. -/
def execSwitchScrubDone (s : State) : Out := s.onHw fun h => h.switchScrubbed

/-- The step and the epoch position to which a context with an invalid save goes back: its last state checkpoint's, else its last save's. -/
def backTo (c : CtxSt) : CtxSave :=
  match c.ckpt, c.save with
  | some s, _ => s
  | none, some s => s
  | none, none => {}

/-- Interval 5 writes in full what an image sets outside its clusters: what the incoming one leaves out of the flow tables, limiters,
decoder classes, hot pixels, windows, REF taps and the actuator map holds zeros (R488; a class and a window have no EN, log 129). -/
def Hw.emptyOutside (h : Hw) : Hw :=
  let h := h.resetTabs fun t _ => ([Tab.ft, .lim, .hotpix, .act].map Tab.code).contains t
  let h := h.resetRegs fun p _ off => p == pgDEC || (p == pgETHCFG && decide (0x064 ≤ off) && decide (off < 0x084))
  (List.range 8).foldl (fun h k => (h.setReg MAP_WIN0 k 0#32).setReg MAP_WIN1 k 0#32) h

/-- Load context m on chip: constant state, then its save area, its checkpoints where the save is invalid, or its initial state. Answers
whether it begins with a delivery phase. -/
def Hw.loadCtx (h : Hw) (m : Nat) : Hw × Bool :=
  let h := h.emptyOutside
  if h.flag CTX_SAVE_INVALID 0 m then
    let h := (h.distribute m false).setFlag CTX_SAVE_INVALID 0 m false
    ((h.setPlace (backTo (h.ctxSt m))).restoreParts m, true)
  else match (h.ctxSt m).save with
    | none => (h.firstResidency m, true)
    | some s =>
      let h := h.distribute m false
      let h := (h.overlay (h.isMut m) s).setBooks m (fun _ => true) s.cores
      ((((h.setCounters m s.regs).setTokens s.tabs).setMods m s.mods).setPlace s, false)

/-- Intervals 5 and 6: the outgoing context is LOADED, the incoming one is loaded and resident, and the machine goes on or holds. -/
def Hw.switchLoaded (h : Hw) : Hw :=
  if h.sw.stage ≠ 5 then h
  else
    let m := h.sw.to_
    let h := match h.sw.out with
      | some n => h.setFld CTX_STATE 0 (2 * n + 1) (2 * n) 1
      | none => h
    let r := h.loadCtx m
    let h := (r.1.resideNow m).inc CTX_SWITCH_CNT
    let h := h.setReg CTX_SWITCH_US 0 (w32 ((h.dev - h.sw.start) / us % 2 ^ 24))
    let h := { h with uaHold := false, sw := { resume := !r.2 && !h.flag STEP_CTRL 0 0 } }
    if h.flag STEP_CTRL 0 0 = false then h.setStep { start := h.dev }
    else if r.2 then ((h.joinUnits).rewindFrames).startStep h.dev
    else (((h.joinUnits).endOutages).setStep { phase := .integrate, start := h.dev, framesDone := true, dclosedAt := h.dev }).wakeAll

/-- The incoming context is loaded and fenced. -/
def execSwitchLoadDone (s : State) : Out := s.onHw fun h => h.switchLoaded

/-! ### Destruction (18 R489) -/

/-- A destroy request, refused unless the context is LOADED and no switch concerns it. Erasing its checkpoint areas waits for the hold-up
check. -/
def Hw.destroyAsk (h : Hw) (n : Nat) : Hw :=
  if h.ctxState n ≠ 1 ∨ h.switchOf n then h
  else
    let h := h.setFld CTX_STATE 0 (2 * n + 1) (2 * n) 3
    if h.fw.setFlash.segs.isEmpty ∨ h.fw.setFlash.ctx ≠ n then h
    else h.updFw fun f => { f with flash := f.flash ++ [{ job := 3, addr := n }, { job := 3, addr := n }] }

/-- A destroy request. -/
def execCtxDestroyMsg (n : Fin 16) (s : State) : Out := s.onHw fun h => h.destroyAsk n

/-- Zeros have been written over every region of the context. -/
def Hw.destroyEnd (h : Hw) (n : Nat) : Hw :=
  if h.ctxState n ≠ 3 then h
  else
    let rs := match (h.ctxSt n).img with
      | some i => i.regions
      | none => []
    let h := rs.foldl (fun h r => h.zero r.1.toNat r.2) (h.zero (sliceBase n 0 0) (2 ^ 36))
    let h := ((h.setReg (CTX_PART_LO n) 0 0#32).setReg (CTX_PART_HI n) 0 0#32).setFlag CTX_CONF 0 n false
    let h := ((h.setFlag CTX_SAVE_INVALID 0 n false).updCtx n fun _ => {}).setFld CTX_STATE 0 (2 * n + 1) (2 * n) 0
    h.updFw fun f =>
      { f with setNow := if f.setNow.ctx = n then {} else f.setNow, setDone := if f.setDone.ctx = n then {} else f.setDone }

/-- The destruction of a context ends. -/
def execCtxDestroyDone (n : Fin 16) (s : State) : Out := s.onHw fun h => h.destroyEnd n

/-! ### State checkpoints and restores (17 R462, R463) -/

/-- Firmware copies core-local SRAM of the resident context to DDR5. -/
def Hw.stateCkpt (h : Hw) : Hw :=
  let n := h.ctx
  if h.someResident = false ∨ h.switching then h
  else
    let s : CtxSave :=
      { mem := h.mem.filter fun p => h.isSram n p.1
        marks := h.marks.filter fun p => h.isSram n (4 * p.1)
        cores := h.books n fun _ => true
        step := h.stepNum, pos := h.fld EPOCH_STAT 0 9 0, num := h.reg EPOCH_NUM, epochs := h.epochs }
    h.updCtx n fun c => { c with ckpt := some s }

/-- A state checkpoint. -/
def execStateCheckpoint (s : State) : Out := s.onHw fun h => h.stateCkpt

/-- Firmware's restore after the compute reset of a recovery (R463): of the context that a switch owed its residency, else of the resident one. -/
def Hw.sev3Restore (h : Hw) (fails : Bool) : Hw :=
  if h.flag FLT_STAT 0 1 = false ∨ h.reg RST_STAT ≠ 0#32 then h
  else if fails then h.fltCtrl 2#32
  else
    let h := match h.sw.owed with
      | some m =>
        let r := h.loadCtx m
        { r.1.resideNow m with sw := { resume := !r.2 } }
      | none =>
        if h.someResident = false then h
        else
          let h := h.distribute h.ctx false
          { h.restoreParts h.ctx with sw := {}, epochs := (((h.ctxSt h.ctx).ckpt.map CtxSave.epochs).getD 0) }
    (h.fltCtrl 1#32).stepCtrl 1#32

/-- The restore after a severity-3 recovery. -/
def execSev3Restore (fails : Bool) (s : State) : Out := s.onHw fun h => h.sev3Restore fails

/-- Reload core k of the resident context from its restore copy and last state checkpoint (steps 3 and 4 of R107). -/
def Hw.reloadCore (h : Hw) (k : Nat) : Hw :=
  if h.resident (k / 32) = false then h
  else
    let n := h.ctx
    match (h.ctxSt n).img with
    | none => h
    | some i =>
      let h := h.unlocking ((List.range 8).map fun j => (0x300 + j, k)) fun h => (i.items.filter (itemOfCore k)).foldl (fun h it => h.loadItem n false it) h
      ((h.putState n fun x => decide (x = k)).storeGuest k).unquiet k

/-- Firmware lets core k out of its hold. -/
def Hw.releaseCore (h : Hw) (k : Nat) : Hw :=
  (h.coreRstHold (k / 32) (h.reg CORE_RST_HOLD (k / 32) &&& ~~~ w32 (2 ^ (k % 32)))).coreResetEnd k

/-- The retirement of core k's physical core leaves it without one. -/
def Hw.orphaned (h : Hw) (k : Nat) : Bool := (h.retireReg (k / 32) >>> h.phys k) % 2 == 1

/-- Firmware retires core k's physical core where its faults ask for it (R106). -/
def Hw.retireDue (h : Hw) (k : Nat) : Hw :=
  let c := k / 32
  let y := h.phys k
  if h.fw.retireDue.contains (64 * c + y) then h.retireWrite c (decide (32 ≤ y)) (w32 (2 ^ (y % 32))) else h

/-- Firmware's sequence for a logical core whose physical core is retired (R107): hold and remap it; once the new mapping is in force, reload
and release it. -/
def Hw.spareReplace (h : Hw) (k : Nat) : Hw :=
  let c := k / 32
  let h := h.retireDue k
  let held := bit (h.reg CORE_RST_HOLD c) (k % 32)
  if h.orphaned k ∧ (h.cl c).remapPend = false then
    let h := if held then h else h.coreRstHold c (h.reg CORE_RST_HOLD c ||| w32 (2 ^ (k % 32)))
    let h := h.cover c
    if h.orphaned k then h else (h.reloadCore k).releaseCore k
  else if held ∧ (h.cl c).remapPend = false then (h.reloadCore k).releaseCore k
  else h

/-- Firmware replaces a core. -/
def execSpareReplacement (k : Core) (s : State) : Out := s.onHw fun h => h.spareReplace k


/-- Firmware restores a contained core (R462). -/
def Hw.restoreCore (h : Hw) (k : Nat) : Hw :=
  let c := k / 32
  if bit (h.reg CORE_RST_HOLD c) (k % 32) = false then h
  else
    let h := (h.retireDue k).setFlag (pgFlt pgCORE) k 0 false
    if h.orphaned k then h.spareReplace k else (h.reloadCore k).releaseCore k

/-- Firmware restores a contained cluster: its memory sections, its cores and its learned weights (R462). -/
def Hw.restoreCl (h : Hw) (c : Nat) : Hw :=
  let h := h.clusterResetEnd c
  let h := if h.resident c then
      match (h.ctxSt h.ctx).img with
      | none => h
      | some i =>
        let n := h.ctx
        let h := h.unlocking (clPages c) fun h => (i.items.filter (itemOfCl c)).foldl (fun h it => h.loadItem n false it) h
        let h := (h.putWeights n fun x => decide (x = c)).putState n fun k => decide (k / 32 = c)
        (coresOf c).foldl (fun h k => (h.storeGuest k).unquiet k) h
    else h
  (coresOf c).foldl (fun h k => h.releaseCore k) h

/-- Firmware restores what a containment reset. -/
def execContainmentRestore (k : Core) (whole : Bool) (s : State) : Out :=
  s.onHw fun h => if whole then h.restoreCl (k.val / 32) else h.restoreCore k

end Sys2Proof.Machine
end

