-- ==== Sys2Proof/Machine/Firm.lean ====
section
/-! DEFINITION. Firmware's work on the boot flash: checkpoint sets, the hold-up check, image updates and licence records; fuse blows and debug
halts (09 R279, 11 R320, 15 R429, 16 R443, R446, R448, 18 R489, R490, R494). -/

namespace Sys2Proof.Machine

/-! ### Checkpoint sets (09 R278, R279) -/

/-- Line addresses of the lists of a chain, in walk order. -/
def Hw.chainAddrs (h : Hw) (c k bank off i : Nat) : Nat → List Nat
  | 0 => []
  | n + 1 =>
    let a := bankBase c bank + off
    if 40 ≤ h.mark a ∨ 40 ≤ h.mark (a + 4) then []
    else
      let d := descOf (h.word a) (h.word (a + 4))
      if d.fmt = 3 ∨ descOk d i = false then []
      else (if d.fmt = 1 then [] else (List.range (ceilDiv d.len 4)).map fun j => bankBase c d.bank + 16 * (d.offset + j)) ++
        (if d.chain then h.chainAddrs c k (h.fld CHAIN_BASE k 4 0) (16 * h.fld CHAIN_BASE k 22 8 + 8 * d.next) (i + 1) n else [])

/-- Line addresses of a segment's lists, in walk order. -/
def Hw.segAddrs (h : Hw) (c g : Nat) : List Nat :=
  (h.segCores c g).flatMap fun k =>
    (rangeIncl (h.fld DESC_ORD_LO k 17 0) (h.fld DESC_ORD_HI k 17 0)).flatMap fun o =>
      let p := h.descAt k o
      h.chainAddrs c k p.1 p.2 0 8

/-- n valid segments from g on, ascending and wrapping. -/
def Hw.segsFrom (h : Hw) (c g n : Nat) : List Nat := (((List.range 32).map fun i => (g + i) % 32).filter (h.segValid c)).take n

/-- The cells of a segment's home lines, as the shadow holds them from line f on. -/
def Hw.shadowCells (h : Hw) (c f : Nat) (lines : List Nat) : List Host.Cell :=
  lines.zipIdx.flatMap fun p =>
    let t := h.shadowLine c (f + p.2)
    (List.range 16).map fun j => (p.1 + j, h.byte (bankBase c t.1 + t.2 + j))

/-- The copies of segments that a shadow holds from line f on. -/
def Hw.shadowSegs (h : Hw) (c : Nat) : Nat → List Nat → List (Nat × Nat × List Host.Cell)
  | _, [] => []
  | f, g :: r =>
    let ls := h.segAddrs c g
    (c, g, h.shadowCells c f ls) :: h.shadowSegs c (f + ls.length) r

/-- Every valid segment of every plastic cluster of the resident context has been copied. -/
def Hw.setComplete (h : Hw) (segs : List (Nat × Nat × List Host.Cell)) : Bool :=
  (h.part h.ctx).all fun c => !h.roastEn c || (List.range 32).all fun g =>
    !h.segValid c g || segs.any fun s => decide (s.1 = c) && decide (s.2.1 = g)

/-- Erases and programs of n chunks of 4 KiB, the last of which completes a set in flash. -/
def setOps (n : Nat) (s : CkptSet) : List FlashOp :=
  (List.range n).map (fun i => { job := 2, addr := i }) ++
    (List.range n).map fun i => { job := 2, erase := false, addr := i, set := if i + 1 = n then some s else none }

/-- Firmware copies cluster c's shadow to DDR5 and releases it; a complete set goes on to flash (R279). -/
def Hw.fwCheckpoint (h : Hw) (c : Nat) : Hw :=
  if h.flag CKPT_STAT c 31 = false ∨ h.resident c = false then h
  else
    let gs := h.segsFrom c (h.fld CKPT_STAT c 4 0) (h.fld CKPT_STAT c 10 5)
    let new := h.shadowSegs c 0 gs
    let now := if h.fw.setNow.ctx = h.ctx then h.fw.setNow.segs else []
    let segs := now.filter (fun s => !(s.1 == c && gs.contains s.2.1)) ++ new
    let h := h.ckptClear c
    if h.setComplete segs then
      let s : CkptSet := { ctx := h.ctx, segs := segs }
      let bytes := (segs.map fun x => x.2.2.length).foldl (· + ·) 0
      h.updFw fun f => { f with setNow := {}, setDone := s, flash := f.flash ++ setOps (max 1 (ceilDiv bytes 4096)) s }
    else h.updFw fun f => { f with setNow := { ctx := h.ctx, segs := segs } }

/-- The firmware checkpoint of a ready shadow. -/
def execFirmwareCheckpoint (c : Cluster) (s : State) : Out := s.onHw fun h => h.fwCheckpoint c

/-! ### The hold-up check (15 R429) -/

/-- E_avail ≥ E_need for a sample and a time in µs, in whole numbers: V = code · 1.8 V · HU_DIV / (4095 · 256). -/
def Hw.holdupOk (h : Hw) (code : Nat) (erase : Bool) : Bool :=
  let cap := (h.reg HU_CAP).toNat
  let n := code * 18 * h.fld HU_DIV 0 15 0
  let d := 10 * 4095 * 256
  let v := h.fld HU_VMIN 0 15 0
  let t := h.fld (if erase then HU_T_ERASE else HU_T_PROG) 0 23 0
  let need := h.fld HU_PWR 0 15 0 * t * h.fld HU_MARGIN 0 7 0
  decide (cap ≠ 0) && decide (need * 1000 * d ^ 2 + cap * v ^ 2 * d ^ 2 * 8 ≤ cap * n ^ 2 * 10 ^ 6 * 8)

/-- Perform a flash operation. -/
def Hw.flashDo (h : Hw) (o : FlashOp) : Hw :=
  match o.job with
  | 0 => h.setBytes (flashBase + o.addr) (if o.erase then List.replicate 4096 0xFF#8 else o.data)
  | 1 =>
    if o.erase then h
    else h.updFw fun f => { f with licences := f.licences ++ f.newLicences.take 1, newLicences := f.newLicences.drop 1 }
  | 2 =>
    match o.set with
    | some s => h.updFw fun f => { f with setFlash := s, area := 1 - f.area }
    | none => h
  | _ => h.updFw fun f => { f with setFlash := if f.setFlash.ctx = o.addr then {} else f.setFlash }

/-- A sample before the chunk at the head, in a slot of the ADC's own (10 R293): the chunk starts, or waits. -/
def Hw.holdupSample (h : Hw) (code : Nat) : Hw :=
  match h.fw.flash with
  | [] => h
  | o :: rest =>
    let h := h.adcTake.setReg HU_LAST 0 (w32 code)
    if h.holdupOk code o.erase then (h.updFw fun f => { f with flash := rest, huFrom := none }).flashDo o
    else
      let t := h.fw.huFrom.getD h.dev
      (h.inc HU_DEFER_CNT).updFw fun f => { f with huFrom := some t }

/-- The check before a chunk. -/
def execHoldupCheck (code : BitVec 12) (s : State) : Out :=
  s.onHw fun h => if h.fw.huFrom.isSome then h else h.holdupSample code.toNat

/-- HU_MAXWAIT in fabric cycles. -/
def Hw.huMax (h : Hw) : Nat := h.fld HU_MAXWAIT 0 15 0 * 1000 * us

/-- The next sample, a whole number of milliseconds after the first that failed. -/
def Hw.holdupAgain (h : Hw) (code : Nat) : Hw :=
  match h.fw.huFrom with
  | none => h
  | some t =>
    let next := ((h.dev - t) / (1000 * us) + 1) * (1000 * us)
    if h.huMax < next then h else (h.advTo (t + next)).holdupSample code

/-- 1 ms of deferral passes. -/
def execHuDeferExpiry (code : BitVec 12) (s : State) : Out := s.onHw fun h => h.holdupAgain code.toNat

/-- The operations after the batch of the one at the head: those after its set, or after its job. -/
def dropBatch : List FlashOp → List FlashOp
  | [] => []
  | o :: r => if o.job = 2 ∧ o.set = none then dropBatch r else if o.job = 2 then r else r.dropWhile fun x => x.job == o.job

/-- HU_MAXWAIT passes: what was being programmed is abandoned. -/
def Hw.holdupGiveUp (h : Hw) : Hw :=
  match h.fw.huFrom with
  | none => h
  | some t =>
    let h := h.advTo (t + h.huMax)
    let lic := match h.fw.flash with
      | o :: _ => o.job == 1
      | [] => false
    let h := h.updFw fun f => { f with flash := dropBatch f.flash, huFrom := none, newLicences := if lic then [] else f.newLicences }
    (h.inc HU_ABANDON_CNT).raisePkg fHoldupLow

/-- HU_MAXWAIT expires. -/
def execHuMaxwaitExpiry (s : State) : Out := s.onHw fun h => h.holdupGiveUp

/-! ### Messages to firmware (16 R443, R448) -/

/-- Chunks of 4 KiB of an image, with their offsets. -/
def chunksOf (l : List Byte) : List (Nat × List Byte) :=
  (List.range (ceilDiv l.length 4096)).map fun i => (4096 * i, (l.drop (4096 * i)).take 4096)

/-- A staged image on port 243: firmware erases the slot's 2,048 sectors and programs the image; an image larger than the slot is ignored. -/
def Hw.imageUpdate (h : Hw) (image : List Byte) : Hw :=
  if 2 ^ 23 < image.length then h
  else
    let erases : List FlashOp := (List.range 2048).map fun i => { addr := 4096 * i }
    let progs : List FlashOp := (chunksOf image).map fun p => { erase := false, addr := p.1, data := p.2 }
    h.updFw fun f => { f with flash := f.flash ++ erases ++ progs }

/-- An image update message. -/
def execFwImageUpdateMsg (image : List Byte) (s : State) : Out := s.onHw fun h => h.imageUpdate image

/-- The device's identity. -/
def Hw.devId (h : Hw) : BitVec 128 :=
  h.reg (DEV_ID 3) ++ h.reg (DEV_ID 2) ++ h.reg (DEV_ID 1) ++ h.reg (DEV_ID 0)

/-- A licence record passes R1. -/
def Hw.licOk (h : Hw) (r : LicRec) : Bool := r.sigOk && decide (r.device = h.devId) && decide (h.fld LIC_AR_CNT 0 6 0 ≤ r.ar)

/-- A licence record on port 242: checked, and stored in the firmware records. -/
def Hw.licenceMsg (h : Hw) (r : LicRec) : Hw :=
  if h.licOk r = false then h
  else h.updFw fun f =>
    { f with newLicences := f.newLicences ++ [r]
             flash := f.flash ++ [{ job := 1, addr := 2 ^ 23 }, { job := 1, erase := false, addr := 2 ^ 23 }] }

/-- A licence record. -/
def execLicenceRecordMsg (r : LicRec) (s : State) : Out := s.onHw fun h => h.licenceMsg r

/-! ### Fuses (16 R446, R454, 18 R494) -/

/-- The blow in progress ends; one that verifies acts from the next cycle. The next one that was asked for starts. -/
def Hw.fuseBlown (h : Hw) (ok : Bool) : Hw :=
  match h.pkg.blow with
  | none => h
  | some sel =>
    let h := h.setFlag FUSE_STAT 0 1 (!ok)
    let h := if ok = false then h
      else if sel = 1 then { h.setFlag FUSE_FLAGS 0 0 true with mpHalted := 0#32 }
      else if sel = 2 then { h.setFlag FUSE_FLAGS 0 1 true with mpHalted := 0#32 }
      else h.setFld LIC_AR_CNT 0 6 0 (min 64 (h.fld LIC_AR_CNT 0 6 0 + 1))
    h.updPkg fun p => { p with blow := p.blowMsgs.head?, blowMsgs := p.blowMsgs.drop 1 }

/-- A blow ends. -/
def execFuseBlowComplete (ok : Bool) (s : State) : Out := s.onHw fun h => h.fuseBlown ok

/-- A request on port 245: firmware blows the fuse, after those asked for before it. -/
def Hw.fuseAsk (h : Hw) (sel : Nat) : Hw :=
  if sel = 0 then h
  else if h.pkg.blow = none then h.updPkg fun p => { p with blow := some sel }
  else h.updPkg fun p => { p with blowMsgs := p.blowMsgs ++ [sel] }

/-- A fuse blow message. -/
def execFuseBlowMsg (sel : Fin 4) (s : State) : Out := s.onHw fun h => h.fuseAsk sel

/-! ### Debug (11 R320, 18 R490, R494) -/

/-- A debugger asks to halt a management processor. -/
def Hw.debugHalt (h : Hw) (m : Nat) : Hw :=
  if h.debugClosed then h else { h.updPkg (fun p => { p with attached := true }) with mpHalted := setBit h.mpHalted m true }

/-- A halt request. -/
def execDebugHaltRequest (m : Quad) (s : State) : Out := s.onHw fun h => h.debugHalt m

/-- A halted management processor resumes. -/
def execDebugResume (m : Quad) (s : State) : Out := s.onHw fun h => { h with mpHalted := setBit h.mpHalted m false }

end Sys2Proof.Machine
end

