-- ==== Sys2Proof/Machine/Rcp.lean ====
section
/-! DEFINITION. The register control protocol at an Ethernet port: sessions, requests, operations on registers and on message channels, and
messages to the host (13 R363–R372). -/

namespace Sys2Proof.Machine

/-! ### Frames (R363, R364) -/

/-- KINDs of RCP frames. -/
def kREQ := 1
def kRSP := 2
def kACK := 3
def kMSGIN := 4
def kSYNC := 5
def kSYNCACK := 6
def kFIN := 7

/-- Frame statuses. -/
def fsSTALE := 1
def fsNOSESS := 2
def fsTOOBIG := 3
def fsFORMAT := 4

/-- An RCP frame: header and body words in network byte order. -/
def rcpFrame (kind sess : Nat) (seq ack : Word) (status count win : Nat) (body : List Byte) : List Byte :=
  natBE 4 (0x11000000 + kind * 2 ^ 16 + sess) ++ natBE 4 seq.toNat ++ natBE 4 ack.toNat ++
    natBE 4 (status * 2 ^ 24 + count % 256 * 2 ^ 16 + win) ++ body

/-- Hand a frame for a host to the port's RCP queue. -/
def Hw.rcpSend (h : Hw) (q mac : Nat) (payload : List Byte) : Hw :=
  h.txPush q (h.rcpQ q) { kind := 0, dst := mac, etype := h.etype q, payload := payload }

/-- Frames beyond ACKSEQ that the engine accepts. -/
def Hw.rcpWin (h : Hw) (q : Nat) : Nat := 16 - (h.eth q).reqCount

/-- The session in slot i. -/
def Hw.session (h : Hw) (q i : Nat) : Option Session := Tbl.find (h.eth q).sessions i

def Hw.putSession (h : Hw) (q i : Nat) (s : Session) : Hw := h.updEth q fun e => { e with sessions := Tbl.put e.sessions i s }

/-- The slot of the session of a SESSION value and a source address (R365). -/
def Hw.sessionOf (h : Hw) (q id mac : Nat) : Option (Nat × Session) := (h.eth q).sessions.find? fun x => x.2.id == id && x.2.mac == mac

/-- A frame of session i without a body. -/
def Hw.rcpPlain (h : Hw) (q i kind : Nat) (seq : Word) (status : Nat) : Hw :=
  match h.session q i with
  | none => h
  | some s => h.rcpSend q s.mac (rcpFrame kind s.id seq s.x status 0 (h.rcpWin q) [])

/-- The answer to a frame without a session. -/
def Hw.noSession (h : Hw) (q : Nat) (f : RxFrame) : Hw :=
  let k := roeneKind f.payload
  let kind := if k = kREQ then kRSP else if k = kSYNC then kSYNCACK else kACK
  let seq := if k = kREQ then beWord f.payload 1 else 0#32
  h.rcpSend q f.src (rcpFrame kind (bits (beWord f.payload 0) 15 0) seq 0#32 fsNOSESS 0 0 [])

/-! ### The gateway (R370, R371) -/

/-- The endpoint of port q's host gateway. -/
def gateway (q : Nat) : Nat := 64 * ethCluster q + 34

/-- Nobody waits for the ticket of an operation any more. -/
def Hw.loseTicket (h : Hw) (e t : Nat) : Hw :=
  let k := h.ticket e t
  if k.used = false then h else if k.st = 0 then h.setTicket e t { k with op := 9 } else h.setTicket e t {}

/-- A handle of the gateway is closed without waiting (R228). -/
def Hw.dropHandle (h : Hw) (q i : Nat) : Hw :=
  let e := gateway q
  let v := h.handle e i
  let h := h.setHandle e i {}
  let h := h.updEth q fun s => { s with owner := Tbl.set 0 s.owner i 0 }
  if v.st = 2 then
    match h.freeTicket e with
    | some t => (h.setTicket e t { used := true, op := 9, sentAt := h.dev }).closeOpen e t v
    | none => h.closeOpen e 0 v
  else h

/-- A port of the gateway stops listening, and what it holds is discarded (R228). -/
def Hw.dropPort (h : Hw) (q p : Nat) : Hw :=
  let e := gateway q
  let h := h.dropSlots e fun s => decide (s.port = p)
  let h := h.setPort e p {}
  h.updEth q fun s => { s with ports := Tbl.set 0 s.ports p 0 }

/-- What a session holds besides its identity is discarded: queued requests, responses, handles and ports (R365). -/
def Hw.clearSession (h : Hw) (q i : Nat) : Hw :=
  let s := h.eth q
  let h := s.reqs.foldl (fun h r => if r.sess = i ∧ r.since.isSome then h.loseTicket (gateway q) r.tkt else h) h
  let h := h.updEth q fun s => { s with reqs := s.reqs.filter fun r => r.sess != i }
  let h := (s.owner.filter fun x => x.2 == i + 1).foldl (fun h x => h.dropHandle q x.1) h
  (s.ports.filter fun x => x.2 == i + 1).foldl (fun h x => h.dropPort q x.1) h

/-- A session ends. -/
def Hw.endSession (h : Hw) (q i : Nat) : Hw := (h.clearSession q i).updEth q fun s => { s with sessions := Tbl.del s.sessions i }

/-! ### What any frame of a session does (R365, R371) -/

/-- A frame of a host is heard: ACKSEQ releases the messages it covers, and WIN says how many more frames the host takes. -/
def Hw.heard (h : Hw) (q i : Nat) (s : Session) (f : RxFrame) : Hw :=
  let ack := beWord f.payload 2
  let covered (m : MsgIn) : Bool := decide (0 ≤ (ack - m.seq).toInt)
  let done := s.unacked.filter covered
  let h := h.putSession q i { s with heard := h.dev, win := min 16 (bits (beWord f.payload 3) 15 0), unacked := s.unacked.filter fun m => !covered m }
  done.foldl (fun h m => m.recs.foldl (fun h r => h.messageEnd (gateway q) r.1 r.2) h) h

/-- Frames for which the port has no use: boot frames outside a network boot. -/
def Hw.rcpStray (h : Hw) (q : Nat) (f : RxFrame) : Bool :=
  bootKind f.payload && !(decide (q = 0) && h.fw.net && (roeneKind f.payload == 0x11 || roeneKind f.payload == 0x12))

/-- Take the oldest RCP frame that is of use, where its KIND satisfies p; those before it are refused (log 126). -/
def Hw.withRcp (h : Hw) (q : Nat) (p : Nat → Bool) (act : RxFrame → Hw → Hw) : Hw :=
  let l := (h.eth q).rcpIn.dropWhile (h.rcpStray q)
  let n := (h.eth q).rcpIn.length - l.length
  let h := if n = 0 then h else (h.updEth q fun e => { e with rcpIn := l }).inc RX_FILTER_DROP_CNT q n
  match l with
  | [] => h
  | f :: r => if p (roeneKind f.payload) then act f (h.updEth q fun e => { e with rcpIn := r }) else h

/-- The same for a frame of a session, whose ACKSEQ is taken first. -/
def Hw.withSession (h : Hw) (q : Nat) (p : Nat → Bool) (act : Nat → RxFrame → Hw → Hw) : Hw :=
  h.withRcp q p fun f h =>
    match h.sessionOf q (bits (beWord f.payload 0) 15 0) f.src with
    | none => h.noSession q f
    | some (i, s) => act i f (h.heard q i s f)

/-! ### Opening and ending (R365) -/

/-- A session opens in slot i, or is reset, with the host's base and a base of the device's own, which the spec leaves open. -/
def Hw.openSession (h : Hw) (q i id mac : Nat) (seq : Word) : Hw :=
  let h := h.clearSession q i
  let f := h.free
  let h := f.2.putSession q i { id := id, mac := mac, x := seq, tx := f.1, heard := f.2.dev }
  h.rcpPlain q i kSYNCACK f.1 0

/-- A SYNC. -/
def Hw.rcpSync (h : Hw) (q : Nat) : Hw :=
  h.withRcp q (· == kSYNC) fun f h =>
    let id := bits (beWord f.payload 0) 15 0
    match h.sessionOf q id f.src with
    | some (i, _) => h.openSession q i id f.src (beWord f.payload 1)
    | none =>
      match (List.range 4).find? fun i => (h.session q i).isNone with
      | some i => h.openSession q i id f.src (beWord f.payload 1)
      | none => h.noSession q f

/-- A SYNC arrives. -/
def execRcpSyncRx (q : Quad) (s : State) : Out := s.onPort q fun h => h.rcpSync q

/-- A FIN arrives. -/
def execRcpFinRx (q : Quad) (s : State) : Out := s.onPort q fun h => h.withSession q (· == kFIN) fun i _ h => h.endSession q i

/-- ACK, or a KIND that only the device sends, which acknowledges like one: none of the frames that ask for more. -/
def onlyAcks (k : Nat) : Bool := k != kREQ && k != kSYNC && k != kFIN && !(decide (0x10 ≤ k) && decide (k ≤ 0x14))

/-- An ACK arrives. -/
def execRcpAckRx (q : Quad) (s : State) : Out := s.onPort q fun h => h.withSession q onlyAcks fun _ _ h => h

/-- IDLE passes without a frame from the host. -/
def Hw.sessionIdle (h : Hw) (q i : Nat) : Hw :=
  let idle := h.fld RCP_CFG q 31 24
  match h.session q i with
  | none => h
  | some s => if idle = 0 then h else (h.advTo (s.heard + idle * 1000000 * us)).endSession q i

/-- A session is idle. -/
def execRcpSessionIdle (q : Quad) (i : Fin 4) (s : State) : Out := s.onPort q fun h => h.sessionIdle q i

/-! ### Requests (R366, R367) -/

/-- Operations. -/
def oREAD := 0
def oWRITE := 1
def oRMW := 2
def oWAIT := 3
def oOPEN := 8
def oSEND := 9
def oCLOSE := 10
def oLISTEN := 11

/-- Words that an operation takes, its own included, and data words that its response may have; none for a malformed one. -/
def opShape (ws : List Word) : Option (Nat × Nat) :=
  match ws with
  | [] => none
  | w :: r =>
    let n := bits w 23 16 + 1
    let len := bits (r.getD 1 0#32) 8 0
    let s : Option (Nat × Nat) := match bits w 31 28 with
      | 0 => some (2, n)
      | 1 => some (2 + n, 0)
      | 2 => if n = 1 then some (4, 1) else none
      | 3 => some (5, 1)
      | 8 => some (3, 1)
      | 9 => if 1 ≤ len ∧ len ≤ 256 then some (3 + ceilDiv len 4, 0) else none
      | 10 => some (3, 0)
      | 11 => if bits (r.getD 0 0#32) 10 8 < 5 then some (2, 0) else none
      | _ => none
    match s with
    | some (k, d) => if k ≤ ws.length then some (k, d) else none
    | none => none

/-- Response words of n operations; none where one is malformed. -/
def respWords (ws : List Word) : Nat → Option Nat
  | 0 => some 0
  | n + 1 =>
    match opShape ws with
    | none => none
    | some (k, d) => (respWords (ws.drop k) n).map (· + 1 + d)

/-- The frame status of a request of n operations. -/
def Hw.reqStatus (h : Hw) (q : Nat) (ws : List Word) (n : Nat) : Nat :=
  match respWords ws n with
  | none => fsFORMAT
  | some m => if h.plim q < 16 + 4 * m then fsTOOBIG else 0

/-- Send the response of a request whose operations are over, and keep it. -/
def Hw.respond (h : Hw) (q : Nat) (r : RcpReq) : Hw :=
  match h.session q r.sess with
  | none => h
  | some s =>
    let n := if r.status ≠ 0 then 0 else r.count
    let p := rcpFrame kRSP s.id r.seq s.x r.status n (h.rcpWin q) (r.resp.flatMap fun w => natBE 4 w.toNat)
    let c := s.cache ++ [(r.seq, p)]
    (h.putSession q r.sess { s with cache := c.drop (c.length - 16) }).rcpSend q s.mac p

/-- Operations of a request that have not been answered. -/
def opsLeft (r : RcpReq) : Bool := decide (r.status = 0) && !r.ops.isEmpty

/-- Every request at the head of the queue that has nothing left to do is answered, at most n of them. -/
def Hw.rcpPump (h : Hw) (q : Nat) : Nat → Hw
  | 0 => h
  | n + 1 =>
    match (h.eth q).reqs with
    | [] => h
    | r :: rest => if opsLeft r then h else ((h.updEth q fun e => { e with reqs := rest }).respond q r).rcpPump q n

/-- The words of n operations. -/
def opWords (ws : List Word) : Nat → List Word
  | 0 => []
  | n + 1 =>
    match opShape ws with
    | none => []
    | some (k, _) => ws.take k ++ opWords (ws.drop k) n

/-- The next request in order joins the queue. -/
def Hw.reqTake (h : Hw) (q i : Nat) (s : Session) (f : RxFrame) : Hw :=
  let seq := beWord f.payload 1
  let n := bits (beWord f.payload 3) 23 16
  let ws := (List.range ((f.payload.length - 16) / 4)).map fun j => beWord f.payload (4 + j)
  let r : RcpReq := { sess := i, seq := seq, count := n, ops := opWords ws n, status := h.reqStatus q ws n }
  ((h.putSession q i { s with x := seq }).updEth q fun e => { e with reqs := e.reqs ++ [r] }).rcpPump q 16

/-- A request that is queued, executing or answered is not executed again. -/
def Hw.reqAgain (h : Hw) (q i : Nat) (s : Session) (seq : Word) : Hw :=
  let h := h.inc RCP_DUP_CNT q
  if (h.eth q).reqs.any fun r => r.sess == i && r.seq == seq then h
  else match s.cache.find? fun x => x.1 == seq with
    | some x => h.rcpSend q s.mac x.2
    | none => h

/-- A REQ is judged by its sequence number against x, the highest received in order. -/
def Hw.rcpReq (h : Hw) (q : Nat) : Hw :=
  h.withSession q (· == kREQ) fun i f h =>
    match h.session q i with
    | none => h
    | some s =>
      let seq := beWord f.payload 1
      let d := (seq - s.x).toInt
      if d = 1 then h.reqTake q i s f
      else if 2 ≤ d ∧ d ≤ 16 then (h.inc RCP_OOO_DROP_CNT q).rcpPlain q i kACK 0#32 0
      else if 16 < d then h.inc RCP_WIN_DROP_CNT q
      else if -15 ≤ d then h.reqAgain q i s seq
      else (h.inc RCP_STALE_CNT q).rcpPlain q i kRSP seq fsSTALE

/-- A REQ arrives. -/
def execRcpReqRx (q : Quad) (s : State) : Out := s.onPort q fun h => h.rcpReq q

/-! ### Operations (R367, R368) -/

/-- How an operation ended: STATUS, NAK reason, data. -/
structure OpEnd where
  status : Nat := 0
  nak : Nat := 0
  data : List Word := []
deriving DecidableEq, Repr

/-- STATUS of a management access. -/
def statusCode : Status → Nat
  | .ok => 0
  | .denied => 1
  | .nopage => 2
  | .unavail => 3
  | .timeout => 4

/-- The response word of an operation. -/
def respWord (op : Nat) (r : OpEnd) : Word := w32 (op * 2 ^ 28 + r.data.length * 2 ^ 16 + r.nak % 16 * 2 ^ 8 + r.status)

/-- Every operation left is aborted, n at most. -/
def abortAll (ws : List Word) : Nat → List Word
  | 0 => []
  | n + 1 =>
    match opShape ws with
    | none => []
    | some (k, _) => respWord (bits (ws.headD 0#32) 31 28) { status := 5 } :: abortAll (ws.drop k) n

/-- The request at the head after its operation has ended. -/
def reqNext (r : RcpReq) (o : OpEnd) : RcpReq :=
  let w := r.ops.headD 0#32
  let rest := r.ops.drop ((opShape r.ops).map Prod.fst |>.getD r.ops.length)
  let resp := r.resp ++ respWord (bits w 31 28) o :: o.data
  if o.status ≠ 0 ∧ bit w 26 then { r with ops := [], resp := resp ++ abortAll rest 256, since := none, tkt := 0 }
  else { r with ops := rest, resp := resp, since := none, tkt := 0 }

/-- Run the operation at the head if it is `op`; `act` answers how it ended, or none while it goes on. -/
def Hw.withOp (h : Hw) (q op : Nat) (act : RcpReq → List Word → Hw → Hw × Option OpEnd) : Hw :=
  match (h.eth q).reqs with
  | [] => h
  | r :: _ =>
    if opsLeft r = false ∨ bits (r.ops.headD 0#32) 31 28 ≠ op then h
    else
      let x := act r r.ops h
      match x.2 with
      | none => x.1
      | some o =>
        let h := x.1.updEth q fun e =>
          match e.reqs with
          | [] => e
          | r :: rest => { e with reqs := reqNext r o :: rest }
        h.rcpPump q 16

/-- The operation at the head has begun to wait. -/
def Hw.opSince (h : Hw) (q t : Nat) : Hw :=
  h.updEth q fun e =>
    match e.reqs with
    | [] => e
    | r :: rest => { e with reqs := { r with since := some (r.since.getD h.dev), tkt := t } :: rest }

/-- The engine of port q as a requester. -/
def engineOf (q : Nat) : Requester := .rcp (Fin.ofNat 4 q)

/-- The address of word j of an operation. -/
def opAddr (fixed : Bool) (a : Word) (j : Nat) : Word := if fixed then a else a + w32 (4 * j)

/-- n reads; the first that is refused ends them. An increment falls in the cycle of read j where bit j of `same` is set (00 R16). -/
def Hw.rcpReads (h : Hw) (q : Nat) (same : BitVec 256) (fixed : Bool) (a : Word) (acc : List Word) : Nat → Hw × OpEnd
  | 0 => (h, { data := acc })
  | n + 1 =>
    let h := h.mgmtRead (engineOf q) (opAddr fixed a acc.length) (same.getLsbD acc.length)
    if h.resp.status = .ok then h.rcpReads q same fixed a (acc ++ [h.resp.value]) n else (h, { status := statusCode h.resp.status })

/-- The operation READ in front at port q, all its words at once. -/
def Hw.rcpReadOp (h : Hw) (q : Nat) (same : BitVec 256) : Hw :=
  h.withOp q oREAD fun _ ws h =>
    let w := ws.headD 0#32
    let x := h.rcpReads q same (bit w 27) (ws.getD 1 0#32) [] (bits w 23 16 + 1)
    (x.1, some x.2)

/-- READ. -/
def execRcpRead (o : PortReads) (s : State) : Out := s.onPort o.port fun h => h.rcpReadOp o.port o.same

/-- IMG_DATA of the port's own quadrant (16 R449). -/
def ownImg (q : Nat) (a : Word) : Bool :=
  match locOf a with
  | some l => decide (l.page = pgIMGLD) && decide (l.unit = q) && decide (l.off = IMG_DATA.off)
  | none => false

/-- Writes in order; the first that is refused ends them. A FIXED write to IMG_DATA of the own quadrant goes straight to the memory path. Word j
of `same` holds what hardware sets in the cycle of write j (00 R16). -/
def Hw.rcpWrites (h : Hw) (q : Nat) (same : List Word) (fixed : Bool) (a : Word) (j : Nat) : List Word → Hw × OpEnd
  | [] => (h, {})
  | v :: r =>
    let h := if fixed ∧ ownImg q a then { h.imgData q v with resp := {} } else h.mgmtWrite (engineOf q) (opAddr fixed a j) v (same.getD j 0#32)
    if h.resp.status = .ok then h.rcpWrites q same fixed a (j + 1) r else (h, { status := statusCode h.resp.status })

/-- The operation WRITE in front at port q, all its words at once. -/
def Hw.rcpWriteOp (h : Hw) (q : Nat) (same : List Word) : Hw :=
  h.withOp q oWRITE fun _ ws h =>
    let w := ws.headD 0#32
    let x := h.rcpWrites q same (bit w 27) (ws.getD 1 0#32) 0 ((ws.drop 2).take (bits w 23 16 + 1))
    (x.1, some x.2)

/-- WRITE. -/
def execRcpWrite (o : PortWrites) (s : State) : Out := s.onPort o.port fun h => h.rcpWriteOp o.port o.same

/-- Read, mask and write one register; `rsame` and `wsame` are what hardware does in the cycles of the read and of the write (00 R16). -/
def Hw.rcpRmw (h : Hw) (q : Nat) (rsame : Bool) (wsame : Word) (ws : List Word) : Hw × OpEnd :=
  let a := ws.getD 1 0#32
  let m := ws.getD 2 0#32
  let h := h.mgmtRead (engineOf q) a rsame
  if h.resp.status ≠ .ok then (h, { status := statusCode h.resp.status })
  else
    let old := h.resp.value
    let h := h.mgmtWrite (engineOf q) a ((old &&& ~~~ m) ||| (ws.getD 3 0#32 &&& m)) wsame
    (h, if h.resp.status = .ok then { data := [old] } else { status := statusCode h.resp.status })

/-- The operation RMW in front at port q. -/
def Hw.rcpRmwOp (h : Hw) (q : Nat) (rsame : Bool) (wsame : Word) : Hw :=
  h.withOp q oRMW fun _ ws h => let x := h.rcpRmw q rsame wsame ws; (x.1, some x.2)

/-- RMW. -/
def execRcpRmw (o : PortRmw) (s : State) : Out := s.onPort o.port fun h => h.rcpRmwOp o.port o.rsame o.wsame

/-- One poll of a WAIT; `same`: an increment falls in its cycle. -/
def Hw.rcpPoll (h : Hw) (q : Nat) (expired same : Bool) (r : RcpReq) (ws : List Word) : Hw × Option OpEnd :=
  let h := if expired then h.advTo (r.since.getD h.dev + (ws.getD 4 0#32).toNat * us) else h
  let h := h.mgmtRead (engineOf q) (ws.getD 1 0#32) same
  let v := h.resp.value
  if h.resp.status ≠ .ok then (h, some { status := statusCode h.resp.status })
  else if v &&& ws.getD 2 0#32 = ws.getD 3 0#32 then (h, some { data := [v] })
  else if expired then (h, some { status := 4, data := [v] })
  else (h.opSince q 0, none)

/-- WAIT. -/
def execRcpWait (q : Quad) (p : Poll) (s : State) : Out :=
  s.onPort q fun h => h.withOp q oWAIT fun r ws h => h.rcpPoll q p.expired p.same r ws

/-- The operation at the head accesses registers, this one among them. -/
def Hw.rcpAccesses (h : Hw) (q : Nat) (addr : Word) : Option Nat :=
  match (h.eth q).reqs with
  | [] => none
  | r :: _ =>
    let op := bits (r.ops.headD 0#32) 31 28
    if opsLeft r ∧ op ≤ oWAIT ∧ ((List.range (if op ≤ oWRITE then bits (r.ops.headD 0#32) 23 16 + 1 else 1)).any fun j =>
      opAddr (bit (r.ops.headD 0#32) 27) (r.ops.getD 1 0#32) j == addr) then some op else none

/-- An access that has no answer after 1 ms is counted and recorded as TIMEOUT, and ends the operation that made it (R368). -/
def Hw.accessTimeout (h : Hw) (who : Requester) (addr : Word) (wr : Bool) : Hw :=
  let h := h.refuse who addr wr ⟨3, MGMT_TMO_CNT, .timeout⟩
  match who with
  | .rcp q =>
    match h.rcpAccesses q addr with
    | some op => h.withOp q op fun _ _ h => (h, some { status := 4 })
    | none => h
  | _ => h

/-- An access without an answer. -/
def execMgmtAccessTimeout (who : Requester) (addr : Word) (write : Bool) (s : State) : Out := s.mgmt who fun h => h.accessTimeout who addr write

/-! ### Channel operations (R370) -/

/-- A handle, and a port, of the gateway that the request's session owns. -/
def Hw.ownsHandle (h : Hw) (q i slot : Nat) : Bool := Tbl.get 0 (h.eth q).owner i == slot + 1
def Hw.ownsPort (h : Hw) (q p slot : Nat) : Bool := Tbl.get 0 (h.eth q).ports p == slot + 1

/-- An operation that a ticket of the gateway answers: posted by `post` the first time, and over once the ticket is. `done` acts on success
with the handle that STATUS names, and says what the data are. -/
def Hw.chanOp (h : Hw) (q : Nat) (r : RcpReq) (post : Hw → Hw × Word) (done : Hw → Nat → Hw × List Word) : Hw × Option OpEnd :=
  let e := gateway q
  let settle (h : Hw) (t : Nat) : Hw × Option OpEnd :=
    let k := h.ticket e t
    let st := h.chanStatus e t
    if k.st = 0 then (h, none)
    else if k.st = 1 then let x := done st.1 (bits st.2 15 8); (x.1, some { data := x.2 })
    else (st.1, some { status := 6, nak := k.reason })
  match r.since with
  | some _ => settle h r.tkt
  | none =>
    let x := post h
    if x.2 = noTicket then (x.1, none)
    else
      let t := x.2.toNat
      settle (x.1.opSince q t) t

/-- OPEN: the handle belongs to the session. -/
def Hw.rcpOpen (h : Hw) (q : Nat) (r : RcpReq) (ws : List Word) : Hw × Option OpEnd :=
  let a := ws.getD 1 0#32
  h.chanOp q r (fun h => h.chanOpen (gateway q) (bits a 19 16) (bits a 13 8) (bits a 5 0) (bits (ws.getD 2 0#32) 7 0)) fun h i =>
    (h.updEth q fun s => { s with owner := Tbl.set 0 s.owner i (r.sess + 1) }, [w32 i])

/-- OPEN. -/
def execRcpOpen (q : Quad) (s : State) : Out := s.onPort q fun h => h.withOp q oOPEN fun r ws h => h.rcpOpen q r ws

/-- The bytes of a SEND, in the order in which the frame holds them. -/
def sendBytes (ws : List Word) : List Byte := ((ws.drop 3).flatMap fun w => natBE 4 w.toNat).take (bits (ws.getD 2 0#32) 8 0)

/-- SEND on a handle of the session. -/
def Hw.rcpSendOp (h : Hw) (q : Nat) (r : RcpReq) (ws : List Word) : Hw × Option OpEnd :=
  let i := (ws.getD 1 0#32).toNat
  if h.ownsHandle q i r.sess = false then (h, some { status := 6, nak := nCLOSED })
  else h.chanOp q r (fun h => h.chanSend (gateway q) i (sendBytes ws)) fun h _ => (h, [])

/-- SEND. -/
def execRcpSend (q : Quad) (s : State) : Out := s.onPort q fun h => h.withOp q oSEND fun r ws h => h.rcpSendOp q r ws

/-- CLOSE of a handle or a port of the session; any other is closed already. -/
def Hw.rcpCloseOp (h : Hw) (q : Nat) (r : RcpReq) (ws : List Word) : Hw × Option OpEnd :=
  let i := (ws.getD 1 0#32).toNat
  if bit (ws.getD 2 0#32) 0 then
    if h.ownsPort q i r.sess = false then (h, some {})
    else h.chanOp q r (fun h => h.chanClosePort (gateway q) i) fun h _ => (h.updEth q fun s => { s with ports := Tbl.set 0 s.ports i 0 }, [])
  else if h.ownsHandle q i r.sess = false then (h, some {})
  else h.chanOp q r (fun h => h.chanCloseHandle (gateway q) i) fun h _ => (h.updEth q fun s => { s with owner := Tbl.set 0 s.owner i 0 }, [])

/-- CLOSE. -/
def execRcpClose (q : Quad) (s : State) : Out := s.onPort q fun h => h.withOp q oCLOSE fun r ws h => h.rcpCloseOp q r ws

/-- The lowest place for a ring of n bytes in the gateway's 256 KiB. -/
def Hw.ringPlaceFor (h : Hw) (q n : Nat) : Option Nat :=
  let used := (h.ep (gateway q)).ports.filter fun x => x.2.on
  ((List.range 1024).map fun i => 256 * i).find? fun b =>
    decide (b + n ≤ 2 ^ 18) && used.all fun x => decide (b + n ≤ x.2.base) || decide (x.2.base + x.2.size ≤ b)

/-- LISTEN: the ring goes to the lowest place that holds it. -/
def Hw.rcpListenOp (h : Hw) (q : Nat) (r : RcpReq) (ws : List Word) : Hw × Option OpEnd :=
  let w := ws.getD 1 0#32
  let p := bits w 7 0
  let code := bits w 10 8
  match h.ringPlaceFor q (256 * 2 ^ code) with
  | none => (h, some { status := 6, nak := nBUSY })
  | some b =>
    h.chanOp q r (fun h => h.chanListen (gateway q) p b code 0) fun h _ =>
      (h.updEth q fun s => { s with ports := Tbl.set 0 s.ports p (r.sess + 1) }, [])

/-- LISTEN. -/
def execRcpListen (q : Quad) (s : State) : Out := s.onPort q fun h => h.withOp q oLISTEN fun r ws h => h.rcpListenOp q r ws

/-- 1 ms passes without an answer: TIMEOUT, and a later answer is discarded. The handle of an OPEN or a CLOSE is free. -/
def Hw.chanTimeout (h : Hw) (q : Nat) : Hw :=
  match (h.eth q).reqs with
  | [] => h
  | r :: _ =>
    let op := bits (r.ops.headD 0#32) 31 28
    match r.since with
    | none => h
    | some t =>
      if op = oOPEN ∨ op = oSEND ∨ op = oCLOSE then
        h.withOp q op fun r _ h =>
          let e := gateway q
          let h := h.advTo (t + 1000 * us)
          let k := h.ticket e r.tkt
          let h := h.loseTicket e r.tkt
          let h := if k.op = 1 ∨ k.op = 3 then
              (h.setHandle e k.handle {}).updEth q fun s => { s with owner := Tbl.set 0 s.owner k.handle 0 }
            else h
          (h, some { status := 4 })
      else h

/-- A channel operation has no answer. -/
def execRcpChanTimeout (q : Quad) (s : State) : Out := s.onPort q fun h => h.chanTimeout q

/-! ### Messages to the host (R371) -/

/-- A message as a MSG_IN frame carries it. -/
def Hw.msgBytes (h : Hw) (e : Nat) (m : MsgRec) : List Byte :=
  let d := h.bytes (epMem e + (h.port e m.port).base + m.at_ + 4) m.len
  natBE 4 (m.port * 2 ^ 24 + m.conn % 256 * 2 ^ 16 + m.len) ++ d ++ List.replicate (4 * ceilDiv m.len 4 - m.len) 0#8

/-- As many messages, from the first on, as fit into n bytes. -/
def msgFit (n : Nat) : List MsgRec → List MsgRec
  | [] => []
  | m :: r => if 4 + 4 * ceilDiv m.len 4 ≤ n then m :: msgFit (n - (4 + 4 * ceilDiv m.len 4)) r else []

/-- The messages of session i leave in a frame, while the host's window takes one. -/
def Hw.msgInSend (h : Hw) (q i : Nat) : Hw :=
  match h.session q i with
  | none => h
  | some s =>
    let e := gateway q
    let ms := msgFit (h.plim q - 16) ((h.ep e).msgq.filter fun m => h.ownsPort q m.port i)
    if ms.isEmpty ∨ s.win ≤ s.unacked.length then h
    else
      let seq := s.tx + 1#32
      let p := rcpFrame kMSGIN s.id seq s.x 0 ms.length (h.rcpWin q) (ms.flatMap fun m => h.msgBytes e m)
      let u : MsgIn := { seq := seq, payload := p, sentAt := h.dev, recs := ms.map fun m => (m.port, m.at_) }
      let h := h.updEp e fun v => { v with msgq := v.msgq.filter fun m => !ms.contains m }
      (h.putSession q i { s with tx := seq, unacked := s.unacked ++ [u] }).rcpSend q s.mac p

/-- A MSG_IN frame leaves. -/
def execRcpMsgInSend (q : Quad) (i : Fin 4) (s : State) : Out := s.onPort q fun h => h.msgInSend q i

/-- The unacknowledged frame sent longest ago. -/
def oldestSent : List MsgIn → Option MsgIn
  | [] => none
  | m :: r =>
    match oldestSent r with
    | some x => some (if x.sentAt < m.sentAt then x else m)
    | none => some m

/-- RTO passes for the frame sent longest ago: it is sent again, or the session ends. -/
def Hw.rcpRto (h : Hw) (q i : Nat) : Hw :=
  match h.session q i with
  | none => h
  | some s =>
    match oldestSent s.unacked with
    | none => h
    | some m =>
      let h := h.advTo (m.sentAt + max 1 (h.fld RCP_CFG q 15 8) * 1000 * us)
      if m.resends < h.fld RCP_CFG q 19 16 then
        let again (x : MsgIn) : MsgIn := if x.seq = m.seq then { x with sentAt := h.dev, resends := x.resends + 1 } else x
        ((h.putSession q i { s with unacked := s.unacked.map again }).inc RCP_RETX_CNT q).rcpSend q s.mac m.payload
      else ((h.endSession q i).inc RCP_SESS_FAIL_CNT q).raisePort fRcpSession q

/-- An unacknowledged frame is due again. -/
def execRcpRtoExpiry (q : Quad) (i : Fin 4) (s : State) : Out := s.onPort q fun h => h.rcpRto q i

end Sys2Proof.Machine
end

