-- ==== Sys2Proof/Machine/Boot.lean ====
section
/-! DEFINITION. Power-on, RESET_N, the ROM's boot from flash and from the network, licences, self-test and repair, the Cold exit, the intervals
of the compute reset, and the way out of DDR5 self-refresh (13 R373, 14 R392, 15 R422, 16 R435–R448). -/

namespace Sys2Proof.Machine

/-! ### Firmware images (16 R440–R442) -/

/-- The little-endian word at a byte offset. -/
def leWord (l : List Byte) (i : Nat) : Nat :=
  (bytesWord (l.getD i 0#8) (l.getD (i + 1) 0#8) (l.getD (i + 2) 0#8) (l.getD (i + 3) 0#8)).toNat

/-- TOTAL_LEN, MP_LEN, CORE_OFF and CORE_LEN. -/
def imgTotal (l : List Byte) : Nat := leWord l 0x00C
def imgMpLen (l : List Byte) : Nat := leWord l 0x010
def imgCoreOff (l : List Byte) : Nat := leWord l 0x014
def imgCoreLen (l : List Byte) : Nat := leWord l 0x018

/-- The lengths are in range: header, MP segment, core segment and signature lie in the image, which holds `n` bytes at most. -/
def lengthsOk (l : List Byte) (n : Nat) : Bool :=
  decide (imgTotal l ≤ n) && decide (imgTotal l ≤ 2 ^ 23) && decide (imgMpLen l ≤ 2 ^ 19) && decide (256 + imgMpLen l + 132 ≤ imgTotal l) &&
    decide (imgCoreOff l + imgCoreLen l + 132 ≤ imgTotal l)

/-- The root key hash fuse as a digest. -/
def Hw.rootKeyHash (h : Hw) : List Word := (List.range 16).map fun i => h.reg (ROOT_KEY_HASH i)

/-- The ROM's judgement of an image of which `n` bytes are there: 0 OK, 1 BADMAGIC, 2 BADKEY, 3 BADSIG, 4 TOOLONG (R441, R453). -/
def Hw.imageResult (h : Hw) (l : List Byte) (n : Nat) (sigOk : Bool) : Nat :=
  if h.flag FUSE_FLAGS 0 4 = false then 2
  else if leWord l 0 ≠ 0x57524E52 ∨ leWord l 4 ≠ 1 then 1
  else if lengthsOk l n = false then 4
  else if digestWords (Config.sha512 ((l.drop 0x20).take 133)) ≠ h.rootKeyHash then 2
  else if sigOk = false then 3
  else 0

/-- The image digest: of every byte before the signature. -/
def imgDigest (l : List Byte) : BitVec 512 := Config.sha512 (l.take (imgTotal l - 132))

/-- Byte i of the staging area: the owned regions of the banks of Q0:C5, one after another. -/
def stageAt (i : Nat) : Nat := bankBase 5 (i / ownedEnd) + i % ownedEnd

/-- Make every bank of Q0:C5 management's (R441). -/
def Hw.stageOwn (h : Hw) : Hw := (List.range 32).foldl (fun h b => h.setReg (BANK_OWNER b) 5 0x22#32) h

/-- Write bytes to staging from offset i on. -/
def Hw.stage (h : Hw) (i : Nat) : List Byte → Hw
  | [] => h
  | b :: r => (h.setByte (stageAt i) b).stage (i + 1) r

/-- n staged bytes. -/
def Hw.staged (h : Hw) (n : Nat) : List Byte := (List.range n).map fun i => h.byte (stageAt i)

/-! ### Licences (16 R448) -/

/-- The factory set of the ordering code; the spec gives none for code 3. -/
def Hw.factorySet (h : Hw) : Hw × Nat :=
  match h.fld FUSE_FLAGS 0 3 2 with
  | 0 => (h, 1)
  | 1 => (h, 31)
  | 2 => (h, 31)
  | _ => let f := h.free; (f.2, bits f.1 4 0)

/-- Evaluate records: the set so far, and how many have been accepted and refused. -/
def Hw.licRecords (h : Hw) (feats acc ref : Nat) : List LicRec → Hw
  | [] => h.setReg LIC_STAT 0 (w32 (feats + acc * 2 ^ 8 + ref * 2 ^ 16))
  | r :: rest =>
    if h.licOk r then
      let h := if h.fld LIC_AR_CNT 0 6 0 < r.ar ∧ r.ar ≤ 64 then h.setFld LIC_AR_CNT 0 6 0 r.ar else h
      h.licRecords (feats ||| r.feats.toNat) (acc + 1) ref rest
    else h.licRecords feats acc (ref + 1) rest

/-- Firmware evaluates the licence set, once after power-on and after each Cold. -/
def Hw.licences (h : Hw) : Hw :=
  if h.pkg.licDue = false then h
  else
    let f := h.factorySet
    (f.1.licRecords f.2 0 0 (f.1.fw.licences.take 16)).updPkg fun p => { p with licDue := false }

/-! ### Self-test and repair (16 R447) -/

/-- Physical cores of cluster c that failed the self-test. -/
def failMask (fails : List (Cluster × BitVec 34)) (c : Nat) : Nat :=
  (fails.filter fun x => x.1.val == c).foldl (fun m x => m ||| x.2.toNat) 0

/-- Self-test of cluster c: what fails is shown and retired, and logical cores get spares. -/
def Hw.selfTest (h : Hw) (fails : List (Cluster × BitVec 34)) (c : Nat) : Hw :=
  let m := failMask fails c
  let h := if (h.cl c).bist = m then h else h.updCl c fun v => { v with bist := m }
  let h := if m % 2 ^ 32 = 0 then h else h.retireWrite c false (w32 m)
  let h := if m / 2 ^ 32 = 0 then h else h.retireWrite c true (w32 (m / 2 ^ 32))
  h.bootSpares c

/-- The endpoint of MP0 (R445, 07 R205). -/
def mp0 : Nat := 64 * mpCluster 0 + 33

/-- The CFG packet of a configuration record, to destination entry 0xFF (R444, R445, 07 R208). -/
def cfgRecPacket (r : CfgRec) : List Word :=
  treeHdr tCFG (2 + min 14 r.words.length) 0 33 0xFF (mpCluster 0) false :: setBit (r.addr &&& 0xFFFFFFFC#32) 0 r.fixed :: r.mask :: r.words.take 14

/-- The core firmware broadcast: MP0 sends every record to every cluster (R445). -/
def Hw.broadcast (h : Hw) : Hw := h.fw.recs.foldl (fun h r => h.sendReq mp0 (cfgRecPacket r) (h.destClusters (mpCluster 0) 0xFF)) h

/-- Every window of the broadcast has come back from the clusters in Brew: it is complete (R445, 07 R229). -/
def Hw.broadcastOver (h : Hw) : Bool := (h.ep mp0).txq.isEmpty && (h.ep mp0).sent.all fun o => !h.inBrew o.dcl

/-! ### Firmware starts (16 R441, R445, R447, R448) -/

/-- The ROM has accepted an image: its MP segment goes to the local memory of MP0–MP3, and its digest and version are shown. `recs` are the
records its core segment spells. -/
def Hw.takeFirmware (h : Hw) (l : List Byte) (recs : List CfgRec) : Hw :=
  let mp := (l.drop 256).take (imgMpLen l)
  let h := (List.range 4).foldl (fun h m => h.setBytes (mpBase m + 2 ^ 20) mp) h
  let h := (digestWords (imgDigest l)).zipIdx.foldl (fun h p => h.setReg (FW_DIGEST p.2) 0 p.1) h
  let h := h.setReg FW_VER 0 (w32 (leWord l 8))
  h.updFw fun f => { f with recs := recs, coreDigest := Config.sha512 ((l.drop (imgCoreOff l)).take (imgCoreLen l)) }

/-- Firmware runs: licences, repairs, self-test, spares and the broadcast; `src` is BOOT_STAT.SOURCE. -/
def Hw.startFirmware (h : Hw) (src : Nat) (fails : List (Cluster × BitVec 34)) : Hw :=
  let h := h.setFld BOOT_STAT 0 1 0 src
  let h := h.setReg BOOT_TIME 0 (w32 (h.dev / us % 2 ^ 24))
  let h := (List.range 4).foldl (fun h q => h.pllLock q) h
  let h := h.licences
  let h := (List.range 64).foldl (fun h c => (h.repairs c).selfTest fails c) h
  let h := h.broadcast
  (h.updPkg fun p => { p with booting := false }).updFw fun f => { f with net := false, offer := none, nextOff := 0 }

/-- The ROM turns to ETH0 (13 R373, 16 R442): its pads are enabled, and it runs at 1000BASE-T1 with auto-negotiation. -/
def Hw.netBoot (h : Hw) : Hw :=
  let h := (h.setFlag PAD_EN 0 8 true).setReg PHY_CTRL 0 0x11#32
  let h := (h.setFlag MAC_CTRL 0 0 true).setFlag MAC_CTRL 0 1 true
  h.updFw fun f => { f with net := true, offer := none, nextOff := 0 }

/-- Microseconds to read n bytes of flash: at 400 MB/s, or, with VIO at 3.3 V, at 25 Mb/s (16 R441, 20 R514). -/
def Hw.flashTime (h : Hw) (n : Nat) : Nat := if h.flag PAD_STAT 0 0 then ceilDiv (8 * n) 25 else ceilDiv n 400

/-- The ROM's attempt on the flash, whose pads it enables; where VIOSEL disagrees with VIO they stay high-impedance (20 R514, R517). -/
def Hw.flashBoot (h : Hw) (answers sigOk : Bool) (recs : List CfgRec) (fails : List (Cluster × BitVec 34)) : Hw :=
  if h.pkg.booting = false ∨ h.fw.net then h
  else
    let h := h.stageOwn.setFlag PAD_EN 0 4 true
    if answers = false ∨ h.flag PAD_STAT 0 1 then (h.setFlag BOOT_STAT 0 8 true).netBoot
    else
      let hdr := h.bytes flashBase 256
      let r := h.imageResult hdr (2 ^ 23) sigOk
      let h := h.setFld BOOT_STAT 0 7 4 r
      if r ≠ 0 then h.netBoot
      else
        let l := h.bytes flashBase (imgTotal hdr)
        let h := h.advTo ((720 + h.flashTime (imgTotal hdr)) * us)
        ((h.stage 0 l).takeFirmware l recs).startFirmware 0 fails

/-- The ROM boots from flash, or falls back to the network. -/
def execRomFlashBoot (answers sigOk : Bool) (recs : List CfgRec) (fails : List (Cluster × BitVec 34)) (s : State) : Out :=
  s.onHw fun h => h.flashBoot answers sigOk recs fails

/-! ### Network boot (13 R373, 16 R442) -/

/-- The device boots from the network. -/
def Hw.netBooting (h : Hw) : Bool := h.pkg.booting && h.fw.net

/-- A boot frame of ETH0. -/
def Hw.bootSend (h : Hw) (dst kind : Nat) (w1 w2 : Word) (body : List Byte) : Hw := h.rcpSend 0 dst (rcpFrame kind 0 w1 w2 0 0 0 body)

/-- A SOLICIT to broadcast with the identity digest; the ROM version is not published. -/
def Hw.bootSolicit (h : Hw) : Hw :=
  if h.netBooting ∧ h.fw.offer = none then
    let f := h.free
    f.2.bootSend macBroadcast 0x10 0#32 f.1 ((List.range 4).flatMap fun i => wordBytes (f.2.reg (DEV_ID i)))
  else h

/-- The ROM solicits. -/
def execBootSolicit (s : State) : Out := s.onHw Hw.bootSolicit

/-- An OFFER; a longer image than a slot holds is turned down as TOOLONG. -/
def Hw.bootOffer (h : Hw) : Hw :=
  h.withRcp 0 (· == 0x11) fun f h =>
    let n := (beWord f.payload 2).toNat
    if h.netBooting = false ∨ h.fw.offer.isSome then h
    else if 2 ^ 23 < n then (h.setFld BOOT_STAT 0 15 12 4).bootSend f.src 0x14 0#32 4#32 []
    else h.updFw fun w => { w with offer := some n, nextOff := 0, host := f.src }

/-- An OFFER arrives. -/
def execBootOfferRx (s : State) : Out := s.onHw Hw.bootOffer

/-- A DATA chunk: staged where it is the one expected, and answered with the next expected offset either way. -/
def Hw.bootData (h : Hw) : Hw :=
  h.withRcp 0 (· == 0x12) fun f h =>
    match h.fw.offer with
    | none => h
    | some n =>
      let off := h.fw.nextOff
      let len := min 1024 (n - off)
      let chunk := (f.payload.drop 16).take len
      let ok := decide ((beWord f.payload 1).toNat = off) && decide ((beWord f.payload 2).toNat = len) && decide (chunk.length = len) && decide (0 < len)
      let h := if ok then (h.stage off chunk).updFw fun w => { w with nextOff := off + len } else h
      h.bootSend f.src 0x13 0#32 (w32 h.fw.nextOff) []

/-- A DATA chunk arrives. -/
def execBootDataRx (s : State) : Out := s.onHw Hw.bootData

/-- The image is whole: checked as one from flash, counted, and answered with DONE. -/
def Hw.netCheck (h : Hw) (sigOk : Bool) (recs : List CfgRec) (fails : List (Cluster × BitVec 34)) : Hw :=
  match h.fw.offer with
  | none => h
  | some n =>
    if h.netBooting = false ∨ h.fw.nextOff < n then h
    else
      let hdr := h.staged 256
      let r := h.imageResult hdr n sigOk
      let h := (h.inc BOOT_NET_CNT).setFld BOOT_STAT 0 15 12 r
      let h := h.bootSend h.fw.host 0x14 0#32 (w32 r) []
      if r ≠ 0 then h.updFw fun w => { w with offer := none, nextOff := 0 }
      else (h.takeFirmware (h.staged (imgTotal hdr)) recs).startFirmware 1 fails

/-- A network image is checked. -/
def execNetBootImageCheck (sigOk : Bool) (recs : List CfgRec) (fails : List (Cluster × BitVec 34)) (s : State) : Out :=
  s.onHw fun h => h.netCheck sigOk recs fails

/-! ### Power-on and RESET_N (16 R435–R437) -/

/-- VDD_AO rises: everything is at reset, and the full boot follows. -/
def execPowerOnReset (s : State) : Out := s.onAo fun h => h.wipe true

/-- RESET_N is low: everything but the always-on domain is at reset, and stays there. -/
def Hw.resetAssert (h : Hw) : Hw :=
  { h.wipe false with pkg := { inReset := true, licDue := h.pkg.licDue } }.setFlag RST_CAUSE 0 1 true

/-- RESET_N is held low. -/
def execResetNAssert (s : State) : Out := s.onAo Hw.resetAssert

/-- RESET_N is released: VIOSEL is sampled, and the full boot starts (20 R514). -/
def Hw.resetRelease (h : Hw) (vio33 mismatch : Bool) : Hw :=
  if h.pkg.inReset = false then h
  else ((h.updPkg fun p => { p with inReset := false }).setFlag PAD_STAT 0 0 vio33).setFlag PAD_STAT 0 1 mismatch

/-- RESET_N is released. -/
def execResetNRelease (vio33 mismatch : Bool) (s : State) : Out := s.onAo fun h => h.resetRelease vio33 mismatch

/-! ### Cold exit (15 R422) -/

/-- The Cold exit: it waits for power-good, counted once, and then ends with firmware running, or, where the digest does not match, with the
full boot. -/
def Hw.coldExit (h : Hw) (digestOk : Bool) (recs : List CfgRec) (fails : List (Cluster × BitVec 34)) : Hw :=
  if h.pkg.pst ≠ .fromCold ∨ h.pkg.inReset then h
  else if h.pkg.pwrGood = false then
    (if h.pkg.railWait then h else (h.inc PWR_RAIL_WAIT_CNT).updPkg fun p => { p with railWait := true })
  else
    let h := (h.updPkg fun p => { p with pst := .brew, railWait := false, booting := true }).setFlag RST_CAUSE 0 2 true
    let h := (h.advTo (3100 * us)).setFlag PAD_EN 0 4 true
    let h := if digestOk then
        let l := h.bytes flashBase (min (2 ^ 23) (imgTotal (h.bytes flashBase 256)))
        (h.takeFirmware l recs).startFirmware 2 fails
      else h
    h.pkgSettle 0

/-- The Cold exit ends. -/
def execPkgColdExitDone (digestOk : Bool) (recs : List CfgRec) (fails : List (Cluster × BitVec 34)) (s : State) : Out :=
  s.onAo fun h => h.coldExit digestOk recs fails

/-! ### The compute reset (16 R438) -/

/-- Go on to interval i of the compute reset. -/
def Hw.rstInterval (h : Hw) (i : Nat) : Hw := (h.setReg RST_STAT 0 (w32 i)).updPkg fun p => { p with rstAt := h.dev }

/-- Interval 1 ends: the abandoned step is closed, and reset is asserted. -/
def Hw.rstAssert (h : Hw) : Hw :=
  let h := if h.pkg.abandoned then h.advanceCore else h
  ((h.setStep { start := h.dev }).resetUnits).rstInterval 2

/-- Interval 2 ends: every FPLL has lock. -/
def Hw.rstRelock (h : Hw) : Hw :=
  let h := h.advTo (h.pkg.rstAt + 20 * us)
  ((List.range 4).foldl (fun h q => h.pllLock q) h).rstInterval 3

/-- Interval 3 ends: every cluster in Brew is initialised. -/
def Hw.rstInit (h : Hw) : Hw :=
  let h := h.advTo (h.pkg.rstAt + 71 * us)
  ((List.range 64).foldl (fun h c => if h.inBrew c then h.memInit c else h) h).rstInterval 4

/-- Interval 4 ends: those clusters have been tested and repaired, and the broadcast sets out. -/
def Hw.rstTest (h : Hw) (fails : List (Cluster × BitVec 34)) : Hw :=
  let h := h.advTo (h.pkg.rstAt + 1600 * us)
  (((List.range 64).foldl (fun h c => if h.inBrew c then h.selfTest fails c else h) h).rstInterval 5).broadcast

/-- Interval 5 ends with the broadcast, and the reset with it. -/
def Hw.rstEnd (h : Hw) : Hw :=
  let h := h.advTo (h.pkg.rstAt + 125 * us)
  let h := (List.range 4).foldl (fun h q => if h.ddrSelf q then h.ddrSelfExit q else h) h
  let h := (h.setReg RST_STAT 0 0#32).inc COMPUTE_RST_CNT
  let h := h.setReg RST_LAST_US 0 (w32 (min 0xFFFF ((h.dev - h.pkg.rstStart) / us)))
  (h.updPkg fun p => { p with abandoned := false }).quietSync

/-- The interval of the compute reset that RST_STAT shows ends; the last one only when the broadcast is over. -/
def Hw.rstIntervalEnd (h : Hw) (fails : List (Cluster × BitVec 34)) : Hw :=
  match (h.reg RST_STAT).toNat with
  | 1 => h.rstAssert
  | 2 => h.rstRelock
  | 3 => h.rstInit
  | 4 => h.rstTest fails
  | 5 => if h.broadcastOver then h.rstEnd else h
  | _ => h

/-- An interval of the compute reset ends. -/
def execComputeResetIntervalEnd (fails : List (Cluster × BitVec 34)) (s : State) : Out := s.onHw fun h => h.rstIntervalEnd fails

/-! ### DDR5 self-refresh (14 R392) -/

/-- A channel may leave self-refresh: outside a compute reset but for its last interval, or on the way out of package Steep. -/
def Hw.mayExitSelf (h : Hw) : Bool :=
  (h.powered && (decide (h.reg RST_STAT = 0#32) || decide (h.reg RST_STAT = 5#32))) || (decide (h.pkg.pst = .fromSteep) && !h.pkg.inReset)

/-- A channel leaves self-refresh. -/
def execDdrSelfRefreshExit (q : Quad) (s : State) : Out :=
  s.onAo fun h => if h.ddrSelf q ∧ h.mayExitSelf then h.ddrSelfExit q else h

end Sys2Proof.Machine
end

