-- ==== Sys2Proof/Machine/Frame.lean ====
section
/-! DEFINITION. CSI-2 packets and the lines of frames, which travel the memory path (10 R285, R290). -/

namespace Sys2Proof.Machine

/-- Write the bytes of one 32 B granule over the memory path under the owner code of DMA; an address that names nothing takes no
bytes, and an access that a bank holds is performed when the bank serves it (05 R156–R158, 12 R336, 14 R385, R392; DEDUCED, log 118). -/
def Hw.pathGran (h : Hw) (a : Nat) (l : List Byte) : Hw :=
  match h.mpa a with
  | none => if a / 2 ^ 35 < 4 then h.inc DDR_ADDR_ERR_CNT (a / 2 ^ 35) else h
  | some (.ddr ch x) => if h.ddrSelf ch then h.inc DDR_RESET_DROP_CNT ch else (h.ddrQueue ch x true).pathPut a l
  | some (.bank c b off) => h.pathBank c b off l
  | some (.core k off) => (if off < 0x20000 then h.unquiet k else h).pathPut a l

/-- Write consecutive bytes from a over the memory path, a granule at a time. -/
def Hw.pathBytes (h : Hw) (a : Nat) (l : List Byte) : Hw :=
  let z := a % 32 + l.length
  (List.range (ceilDiv z 32)).foldl (fun h i =>
    let lo := 32 * i - a % 32
    h.pathGran (a + lo) ((l.take (32 * (i + 1) - a % 32)).drop lo)) h

/-- One line of a frame is converted, cropped and written (R290). -/
def Hw.frameLine (h : Hw) (k : Nat) (px : List Nat) : Hw :=
  let s := h.csi k
  let x0 := h.fld FR_CROP0 k 11 0
  let y0 := h.fld FR_CROP0 k 27 16
  let h := h.updCsi k fun s => { s with row := s.row + 1 }
  if s.row < y0 ∨ y0 + h.fld FR_CROP1 k 28 16 ≤ s.row then h
  else
    let a := shortMpa (h.reg (if s.active = 0 then FR_BUF0 else FR_BUF1) k) + (s.row - y0) * h.fld FR_STRIDE k 15 0
    h.pathBytes a (((px.drop x0).take (h.fld FR_CROP1 k 12 0)).map (h.pixelQ k))

/-- A RAW packet of a frame channel: its line is written, with or without a CRC failure. One that the frame path has no frame for (another
channel, another RAW type, no frame begun) is discarded as of a type it does not take (log 126); those of a dropped frame count with it. -/
def Hw.framePacket (h : Hw) (k : Nat) (p : CsiPacket) : Hw :=
  let s := h.csi k
  if h.frameVc k p.vc = false ∨ p.dt.toNat ≠ rawType (h.fld FR_CTRL k 5 4) ∨ s.inFrame = false then h.inc CSI_DT_DROP_CNT k
  else if s.dropped then h
  else
    let h := if p.crcErr then h.updCsi k fun s => { s with bad := true } else h
    h.frameLine k (rawPixels (h.fld FR_CTRL k 5 4) p.payload)

/-- A CSI-2 packet arrives (R285). A part word at the end of an event packet matches no class (log 126). -/
def Hw.csiPacket (h : Hw) (k : Nat) (p : CsiPacket) : Hw :=
  if h.csiOn k = false then h
  else
    let h := h.updCsi k fun s => { s with hs := true }
    if p.hdrErr = 2 then h.inc CSI_HDR_DROP_CNT k
    else
      let h := if p.hdrErr = 1 then h.inc CSI_CE_CNT k else h
      let m := h.vcMode k p.vc
      if p.long = false ∨ m = 0 ∨ p.dt = 0x12#6 then h
      else if m = 1 then
        if p.dt.toNat ≠ h.fld CSI_CTRL k 23 16 then h.inc CSI_DT_DROP_CNT k
        else if p.crcErr then h.inc CSI_CRC_DROP_CNT k
        else
          let h := if p.payload.length % h.evBytes k = 0 then h else h.inc DEC_UNK_CNT k
          h.fifoIn k p.vc (eventWords (h.flag DEC_CFG k 0) (h.flag DEC_CFG k 1) p.payload)
      else h.framePacket k p

/-- A CSI-2 packet arrives. -/
def execCsiPacketRx (k : CsiId) (p : CsiPacket) (s : State) : Out := s.onHw fun h => h.csiPacket k p

end Sys2Proof.Machine
end

