-- ==== Sys2Proof/Machine/RegCmds.lean ====
section
/-! DEFINITION. The commands that are one access to one register. Each goes through the management plane (Mgmt.lean), where it may be refused,
to the register's own rule (Hook.lean). -/

namespace Sys2Proof.Machine

/-! ### Any register, counters and page controls (00 R15, R16, 19 R500–R503) -/

/-- A management write. -/
def execRegisterWrite (who : Requester) (addr : Word) (w : WriteWord) (s : State) : Out := s.mgmt who fun h => h.mgmtWrite who addr w.value w.same

/-- A read, which clears an RC field. -/
def execRcCounterRead (who : Requester) (addr : Word) (same : Bool) (s : State) : Out := s.mgmt who fun h => h.mgmtRead who addr same

/-- The address of a register of the header of the page in which an address lies. -/
def hdrAddr (addr : Word) (off : Nat) : Word := setBits addr 11 0 off

/-- A write of PG_CTRL with SOFT_RST. -/
def execPgSoftRst (who : Requester) (addr value : Word) (s : State) : Out :=
  s.mgmt who fun h => h.mgmtWrite who (hdrAddr addr 0x008) (setBit value 1 true)

/-- PG_CTRL.EN of the page in which an address lies. -/
def Hw.enAt (h : Hw) (addr : Word) : Bool :=
  match locOf addr with
  | some l => h.pgEn l.page l.unit
  | none => false

/-- A write that sets LOCKED: of PG_CTRL.LOCK, with EN as it stands, or of PG_LOCK. -/
def execPgLockSet (who : Requester) (addr : Word) (ctrl : Bool) (s : State) : Out :=
  s.mgmt who fun h => if ctrl then h.mgmtWrite who (hdrAddr addr 0x008) (w32 (4 + b2n (h.enAt addr))) else h.mgmtWrite who (hdrAddr addr 0x01C) 1#32

/-- A write of 0 to PG_LOCK. -/
def execPgLockClear (who : Requester) (addr value : Word) (s : State) : Out :=
  s.mgmt who fun h => h.mgmtWrite who (hdrAddr addr 0x01C) (setBit value 0 false)

/-! ### Windows (19 R528) -/

/-- An access to MC_STORE_DATA. -/
def execMcStoreData (who : Requester) (k : Core) (wr : Option Word) (s : State) : Out := s.win who MC_STORE_DATA k wr

/-- An access to MC_DM_DATA. -/
def execMcDmData (who : Requester) (k : Core) (wr : Option Word) (s : State) : Out := s.win who MC_DM_DATA k wr

/-- An access to BANKWIN_DATA; `busy` is a collision with port A in the same cycle. -/
def execBankwinData (who : Requester) (c : Cluster) (wr : Option Word) (busy : Bool) (s : State) : Out :=
  s.mgmt who fun h => h.guarded who (addrOf BANKWIN_DATA c) wr.isSome fun h l => h.bankwin l.unit wr busy

/-- An access to GT_DATA. -/
def execGtData (who : Requester) (c : Cluster) (wr : Option Word) (s : State) : Out := s.win who GT_DATA c wr

/-- An access to FSEQ_DATA. -/
def execFseqData (who : Requester) (c : Cluster) (wr : Option Word) (s : State) : Out := s.win who FSEQ_DATA c wr

/-- An access to FLOW_DATA. -/
def execFlowData (who : Requester) (c : Cluster) (wr : Option Word) (s : State) : Out := s.win who FLOW_DATA c wr

/-- An access to DEST_DATA. -/
def execDestData (who : Requester) (c : Cluster) (wr : Option Word) (s : State) : Out := s.win who DEST_DATA c wr

/-- An access to DTREE_DATA. -/
def execDtreeData (who : Requester) (c : Cluster) (wr : Option Word) (s : State) : Out := s.win who DTREE_DATA c wr

/-- An access to XTAG_DATA. -/
def execXtagData (who : Requester) (c : Cluster) (wr : Option Word) (s : State) : Out := s.win who XTAG_DATA c wr

/-- An access to ITAG_DATA. -/
def execItagData (who : Requester) (c : Cluster) (wr : Option Word) (s : State) : Out := s.win who ITAG_DATA c wr

/-- An access to SEG_DATA. -/
def execSegData (who : Requester) (c : Cluster) (wr : Option Word) (s : State) : Out := s.win who SEG_DATA c wr

/-- An access to RULE_DATA. -/
def execRuleData (who : Requester) (c : Cluster) (wr : Option Word) (s : State) : Out := s.win who RULE_DATA c wr

/-- An access to HOTPIX_DATA. -/
def execHotpixData (who : Requester) (k : CsiId) (wr : Option Word) (s : State) : Out := s.win who HOTPIX_DATA k wr

/-- An access to FT_DATA. -/
def execFtData (who : Requester) (q : Quad) (wr : Option Word) (s : State) : Out := s.win who FT_DATA q wr

/-- An access to LIM_DATA. -/
def execLimData (who : Requester) (q : Quad) (wr : LimAccess) (s : State) : Out :=
  match wr with
  | .write v => s.put who LIM_DATA q v
  | .read same => s.mgmt who fun h => h.mgmtRead who (addrOf LIM_DATA q) same

/-- An access to POLL_DATA. -/
def execPollData (who : Requester) (wr : Option Word) (s : State) : Out := s.win who POLL_DATA 0 wr

/-- An access to LCE_DATA. -/
def execLceData (who : Requester) (wr : Option Word) (s : State) : Out := s.win who LCE_DATA 0 wr

/-- An access to ACT_DATA. -/
def execActData (who : Requester) (wr : Option Word) (s : State) : Out := s.win who ACT_DATA 0 wr

/-- An access to GCL_DATA. -/
def execGclData (who : Requester) (q : Quad) (wr : Option Word) (s : State) : Out := s.win who GCL_DATA q wr

/-- An access to MS_SA_DATA. -/
def execMsSaData (who : Requester) (q : Quad) (wr : Option Word) (s : State) : Out := s.win who MS_SA_DATA q wr

/-- An access to AOM_DATA. -/
def execAomData (who : Requester) (wr : Option Word) (s : State) : Out := s.win who AOM_DATA 0 wr

/-- An access to ATT_DATA. -/
def execAttData (who : Requester) (wr : Option Word) (s : State) : Out := s.win who ATT_DATA 0 wr

/-! ### The step, cores and clusters -/

/-- A write of STEP_CTRL.RUN = 1. -/
def execStepRunStart (who : Requester) (s : State) : Out := s.put who STEP_CTRL 0 1#32

/-- A write of STEP_CTRL.RUN = 0. -/
def execStepRunStop (who : Requester) (s : State) : Out := s.put who STEP_CTRL 0 0#32

/-- A write of STEP_CTRL.SINGLE = 1. -/
def execStepSingle (who : Requester) (run : Bool) (s : State) : Out := s.put who STEP_CTRL 0 (w32 (2 + b2n run))

/-- A write of SLICE_CFG. -/
def execSliceCfgWrite (who : Requester) (k : Core) (value : Word) (s : State) : Out := s.put who SLICE_CFG k value

/-- PSET_CTRL.COMMIT. -/
def execPsetCommit (who : Requester) (k : Core) (s : State) : Out := s.put who PSET_CTRL k 1#32

/-- PSET_CTRL.READBACK. -/
def execPsetReadback (who : Requester) (k : Core) (s : State) : Out := s.put who PSET_CTRL k 2#32

/-- PSET_CTRL.CLR_OVF. -/
def execPsetClrOvf (who : Requester) (k : Core) (s : State) : Out := s.put who PSET_CTRL k 4#32

/-- A write of CORE_LAYOUT. -/
def execCoreLayoutWrite (who : Requester) (k : Core) (value : Word) (s : State) : Out := s.put who CORE_LAYOUT k value

/-- A write of REMAP[i]. -/
def execRemapWrite (who : Requester) (c : Cluster) (i : Fin 32) (value : Word) (s : State) : Out := s.put who (REMAP i) c value

/-- A write of PHYS_RETIRE_LO or PHYS_RETIRE_HI. -/
def execPhysRetireWrite (who : Requester) (c : Cluster) (hi : Bool) (value : Word) (s : State) : Out :=
  s.put who (if hi then PHYS_RETIRE_HI else PHYS_RETIRE_LO) c value

/-- A write of MC_SEED. -/
def execMcSeedWrite (who : Requester) (k : Core) (value : Word) (s : State) : Out := s.put who MC_SEED k value

/-- A write of BANK_OWNER[b]. -/
def execBankOwnerWrite (who : Requester) (c : Cluster) (b : Fin 32) (value : Word) (s : State) : Out := s.put who (BANK_OWNER b) c value

/-- A write of BANK_PWR_LO or BANK_PWR_HI. -/
def execBankPwrWrite (who : Requester) (c : Cluster) (hi : Bool) (value : Word) (s : State) : Out :=
  s.put who (if hi then BANK_PWR_HI else BANK_PWR_LO) c value

/-- A read of CM_FENCE: this model performs every write before the next command, so nothing is left to wait for. -/
def execCmFenceRead (who : Requester) (c : Cluster) (s : State) : Out := s.look who CM_FENCE c

/-- A write of SR_DATA. -/
def execSoftRepairWrite (who : Requester) (c : Cluster) (value : Word) (s : State) : Out := s.put who SR_DATA c value

/-- DL_CTRL.COMMIT. -/
def execDlCommit (who : Requester) (k : Core) (s : State) : Out := s.put who DL_CTRL k 1#32

/-- DL_CTRL.READBACK. -/
def execDlReadback (who : Requester) (k : Core) (s : State) : Out := s.put who DL_CTRL k 2#32

/-- DL_CTRL.CLR_OVF. -/
def execDlClrOvf (who : Requester) (k : Core) (s : State) : Out := s.put who DL_CTRL k 4#32

/-- A write of DENSE_BINQ. -/
def execDenseBinqWrite (who : Requester) (k : Core) (value : Word) (s : State) : Out := s.put who DENSE_BINQ k value

/-- A write of 1 to CKPT_STAT.READY. -/
def execCkptStatClear (who : Requester) (c : Cluster) (s : State) : Out := s.put who CKPT_STAT c 0x80000000#32

/-- A write of ROAST_SEED. -/
def execRoastSeedWrite (who : Requester) (c : Cluster) (value : Word) (s : State) : Out := s.put who ROAST_SEED c value

/-! ### Sensors, timers and pins -/

/-- A write of 1 to FULL bits of FR_STAT. -/
def execFrameBufferRelease (who : Requester) (k : CsiId) (mask : BitVec 2) (s : State) : Out := s.put who FR_STAT k (mask.setWidth 32)

/-- A write of TMR_COUNT. -/
def execTmrCountWrite (who : Requester) (k : TmrId) (value : Word) (s : State) : Out := s.put who TMR_COUNT k value

/-- A write of a compare register. -/
def execTmrCmpWrite (who : Requester) (k : TmrId) (one : Bool) (value : Word) (s : State) : Out :=
  s.put who (if one then TMR_CMP1 else TMR_CMP0) k value

/-- A write of TMR_CMP1, which goes to the shadow in PWM mode. -/
def execTmrCmp1ShadowWrite (who : Requester) (k : TmrId) (value : Word) (s : State) : Out := s.put who TMR_CMP1 k value

/-- The capture registers of a timer: 0 the rise, 1 the fall, 2 the width. -/
def captureReg (i : Fin 3) : Rg :=
  match i with
  | 0 => TMR_CAPR
  | 1 => TMR_CAPF
  | 2 => TMR_WIDTH

/-- A read of a capture register. -/
def execTmrCaptureRead (who : Requester) (k : TmrId) (i : Fin 3) (s : State) : Out := s.look who (captureReg i) k

/-- A write of 1 to bits of ACT_STAT.SAFE. -/
def execActSafeClear (who : Requester) (mask : BitVec 16) (s : State) : Out := s.put who ACT_STAT 0 (mask.setWidth 32)

/-- A write of GPIO_SET. -/
def execGpioSetWrite (who : Requester) (value : Word) (s : State) : Out := s.put who GPIO_SET 0 value

/-- A write of GPIO_CLR. -/
def execGpioClrWrite (who : Requester) (value : Word) (s : State) : Out := s.put who GPIO_CLR 0 value

/-- A write of PAD_EN. -/
def execPadEnWrite (who : Requester) (value : Word) (s : State) : Out := s.put who PAD_EN 0 value

/-! ### DMA, Ethernet, DDR5 and links -/

/-- CH_CMD.START. -/
def execDmaStart (who : Requester) (e : Quad) (c : Fin 16) (s : State) : Out := s.put who (CH_CMD c) e 1#32

/-- CH_CMD.ABORT. -/
def execDmaAbort (who : Requester) (e : Quad) (c : Fin 16) (s : State) : Out := s.put who (CH_CMD c) e 2#32

/-- A write of GCL_CTRL with CHANGE. -/
def execGclChangeWrite (who : Requester) (q : Quad) (value : Word) (s : State) : Out := s.put who GCL_CTRL q (setBit value 1 true)

/-- A write of PHY_CTRL. -/
def execPhyCtrlWrite (who : Requester) (q : Quad) (value : Word) (s : State) : Out := s.put who PHY_CTRL q value

/-- A write of PTP_ADJ. -/
def execPtpAdjWrite (who : Requester) (value : Word) (s : State) : Out := s.put who PTP_ADJ 0 value

/-- A read of PTP_NS_LO. -/
def execPtpNsLoRead (who : Requester) (s : State) : Out := s.look who PTP_NS_LO 0

/-- A write of MS_TX_AN. -/
def execMsTxAnWrite (who : Requester) (q : Quad) (value : Word) (s : State) : Out := s.put who MS_TX_AN q value

/-- A read of DRAIN. -/
def execDrainRead (who : Requester) (q : Quad) (s : State) : Out := s.look who DRAIN q

/-- A write of DDR_TRAIN with START. -/
def execDdrTrainStart (who : Requester) (q : Quad) (value : Word) (s : State) : Out := s.put who DDR_TRAIN q (setBit value 0 true)

/-- A write of DDR_CFG. -/
def execDdrCfgEnable (who : Requester) (q : Quad) (value : Word) (s : State) : Out := s.put who DDR_CFG q value

/-- A write of SC_CTRL with TRAIN, its other fields as they are. -/
def execScTrainStart (who : Requester) (k : Link) (s : State) : Out :=
  s.mgmt who fun h => h.mgmtWrite who (addrOf SC_CTRL k) (h.reg SC_CTRL k ||| 1#32)

/-- A write of SC_CTRL with REJOIN, its other fields as they are. -/
def execScRejoinWrite (who : Requester) (k : Link) (s : State) : Out :=
  s.mgmt who fun h => h.mgmtWrite who (addrOf SC_CTRL k) (h.reg SC_CTRL k ||| 4#32)

/-- A write of IMG_PTR. -/
def execImgPtrWrite (who : Requester) (q : Quad) (value : Word) (s : State) : Out := s.put who IMG_PTR q value

/-- A write of IMG_DATA: the RCP engine of the quadrant's own port carries it straight to the memory path (16 R449). -/
def execImgDataWrite (who : Requester) (q : Quad) (value : Word) (s : State) : Out :=
  s.mgmt who fun h => if who = .rcp q ∧ h.powered then { h.imgData q value with resp := {} } else h.mgmtWrite who (addrOf IMG_DATA q) value

/-! ### Power, reset and fuses -/

/-- A write of CL_PWR_REQ. -/
def execClPwrReqWrite (who : Requester) (c : Cluster) (value : Word) (s : State) : Out := s.put who CL_PWR_REQ c value

/-- A write of PKG_PWR_REQ. -/
def execPkgPwrReqWrite (who : Requester) (value : Word) (s : State) : Out := s.put who PKG_PWR_REQ 0 value

/-- A write of CL_VTRIM. -/
def execClVtrimWrite (who : Requester) (c : Cluster) (value : Word) (s : State) : Out := s.put who CL_VTRIM c value

/-- RST_CMD.COMPUTE. -/
def execComputeResetCmd (who : Requester) (s : State) : Out := s.put who RST_CMD 0 1#32

/-- A write of CL_RST_LO or CL_RST_HI. -/
def execClRstWrite (who : Requester) (hi : Bool) (value : Word) (s : State) : Out := s.put who (if hi then CL_RST_HI else CL_RST_LO) 0 value

/-- A write of CORE_RST_PULSE. -/
def execCoreRstPulseWrite (who : Requester) (c : Cluster) (value : Word) (s : State) : Out := s.put who CORE_RST_PULSE c value

/-- A write of CORE_RST_HOLD. -/
def execCoreRstHoldWrite (who : Requester) (c : Cluster) (value : Word) (s : State) : Out := s.put who CORE_RST_HOLD c value

/-- A write of FUSE_PROG. -/
def execFuseProgWrite (who : Requester) (value : Word) (s : State) : Out := s.put who FUSE_PROG 0 value

/-! ### Faults, interrupts, contexts and attestation -/

/-- A write of FLT_RAISE. -/
def execFltRaiseWrite (who : Requester) (value : Word) (s : State) : Out := s.put who FLT_RAISE 0 value

/-- FLT_CTRL.RESTORED. -/
def execFltRestored (who : Requester) (s : State) : Out := s.put who FLT_CTRL 0 1#32

/-- FLT_CTRL.HALT. -/
def execFltHalt (who : Requester) (s : State) : Out := s.put who FLT_CTRL 0 2#32

/-- FLT_CTRL.RELEASE. -/
def execFltRelease (who : Requester) (s : State) : Out := s.put who FLT_CTRL 0 4#32

/-- A read of FLT_LOG_POP. -/
def execFltLogPopRead (who : Requester) (s : State) : Out := s.look who FLT_LOG_POP 0

/-- A read of IC_CLAIM[m]. -/
def execIcClaimRead (who : Requester) (m : Quad) (s : State) : Out := s.look who (IC_CLAIM m) 0

/-- A write of IC_COMPLETE[m]. -/
def execIcCompleteWrite (who : Requester) (m : Quad) (value : Word) (s : State) : Out := s.put who (IC_COMPLETE m) 0 value

/-- A write of IC_MASK[i]. -/
def execIcMaskWrite (who : Requester) (i : Fin 8) (value : Word) (s : State) : Out := s.put who (IC_MASK i) 0 value

/-- A write of IC_SWI_SET. -/
def execIcSwiSetWrite (who : Requester) (value : Word) (s : State) : Out := s.put who IC_SWI_SET 0 value

/-- A write of IC_SWI_CLR. -/
def execIcSwiClrWrite (who : Requester) (value : Word) (s : State) : Out := s.put who IC_SWI_CLR 0 value

/-- A write of CTX_NEXT. -/
def execCtxNextWrite (who : Requester) (value : Word) (s : State) : Out := s.put who CTX_NEXT 0 value

/-- ATT_CMD.START. -/
def execAttStart (who : Requester) (s : State) : Out := s.put who ATT_CMD 0 1#32

end Sys2Proof.Machine
end

