-- ==== Sys2Proof/Machine/Dispatch.lean ====
section
/-! DEFINITION. The meaning of each command, one arm per row of the table. -/

namespace Sys2Proof.Machine

/-- The effect of a command on everything but the queue. -/
def exec (i : Instr) (s : State) : Host.Outcome State Fault Refusal :=
  match i with
  | .registerWrite who addr value => Sys2Proof.Machine.execRegisterWrite who addr value s
  | .rcCounterRead who addr same => Sys2Proof.Machine.execRcCounterRead who addr same s
  | .pgSoftRst who addr value => Sys2Proof.Machine.execPgSoftRst who addr value s
  | .pgLockSet who addr ctrl => Sys2Proof.Machine.execPgLockSet who addr ctrl s
  | .pgLockClear who addr value => Sys2Proof.Machine.execPgLockClear who addr value s
  | .mcStoreData who k wr => Sys2Proof.Machine.execMcStoreData who k wr s
  | .mcDmData who k wr => Sys2Proof.Machine.execMcDmData who k wr s
  | .bankwinData who c wr busy => Sys2Proof.Machine.execBankwinData who c wr busy s
  | .gtData who c wr => Sys2Proof.Machine.execGtData who c wr s
  | .fseqData who c wr => Sys2Proof.Machine.execFseqData who c wr s
  | .flowData who c wr => Sys2Proof.Machine.execFlowData who c wr s
  | .destData who c wr => Sys2Proof.Machine.execDestData who c wr s
  | .dtreeData who c wr => Sys2Proof.Machine.execDtreeData who c wr s
  | .xtagData who c wr => Sys2Proof.Machine.execXtagData who c wr s
  | .itagData who c wr => Sys2Proof.Machine.execItagData who c wr s
  | .segData who c wr => Sys2Proof.Machine.execSegData who c wr s
  | .ruleData who c wr => Sys2Proof.Machine.execRuleData who c wr s
  | .hotpixData who k wr => Sys2Proof.Machine.execHotpixData who k wr s
  | .ftData who q wr => Sys2Proof.Machine.execFtData who q wr s
  | .limData who q wr => Sys2Proof.Machine.execLimData who q wr s
  | .pollData who wr => Sys2Proof.Machine.execPollData who wr s
  | .lceData who wr => Sys2Proof.Machine.execLceData who wr s
  | .actData who wr => Sys2Proof.Machine.execActData who wr s
  | .gclData who q wr => Sys2Proof.Machine.execGclData who q wr s
  | .msSaData who q wr => Sys2Proof.Machine.execMsSaData who q wr s
  | .aomData who wr => Sys2Proof.Machine.execAomData who wr s
  | .attData who wr => Sys2Proof.Machine.execAttData who wr s
  | .stepRunStart who => Sys2Proof.Machine.execStepRunStart who s
  | .stepRunStop who => Sys2Proof.Machine.execStepRunStop who s
  | .stepSingle who run => Sys2Proof.Machine.execStepSingle who run s
  | .stepAdvance => Sys2Proof.Machine.execStepAdvance s
  | .deliveryDeadline => Sys2Proof.Machine.execDeliveryDeadline s
  | .deliveryClose => Sys2Proof.Machine.execDeliveryClose s
  | .integrateStart k => Sys2Proof.Machine.execIntegrateStart k s
  | .coreDone k => Sys2Proof.Machine.execCoreDone k s
  | .stepDue => Sys2Proof.Machine.execStepDue s
  | .stretchMaxExpiry => Sys2Proof.Machine.execStretchMaxExpiry s
  | .pourClose => Sys2Proof.Machine.execPourClose s
  | .tokenDoneRx k tag => Sys2Proof.Machine.execTokenDoneRx k tag s
  | .tokenDquietRx k tag => Sys2Proof.Machine.execTokenDquietRx k tag s
  | .tokenPourRx k tag => Sys2Proof.Machine.execTokenPourRx k tag s
  | .tokenDcloseRx k tag => Sys2Proof.Machine.execTokenDcloseRx k tag s
  | .wakeComplete k => Sys2Proof.Machine.execWakeComplete k s
  | .warmEntry u => Sys2Proof.Machine.execWarmEntry u s
  | .sliceSwapComplete k => Sys2Proof.Machine.execSliceSwapComplete k s
  | .sliceCfgWrite who k value => Sys2Proof.Machine.execSliceCfgWrite who k value s
  | .psetCommit who k => Sys2Proof.Machine.execPsetCommit who k s
  | .psetReadback who k => Sys2Proof.Machine.execPsetReadback who k s
  | .psetClrOvf who k => Sys2Proof.Machine.execPsetClrOvf who k s
  | .coreLayoutWrite who k value => Sys2Proof.Machine.execCoreLayoutWrite who k value s
  | .remapWrite who c idx value => Sys2Proof.Machine.execRemapWrite who c idx value s
  | .physRetireWrite who c hi value => Sys2Proof.Machine.execPhysRetireWrite who c hi value s
  | .spareReplacement k => Sys2Proof.Machine.execSpareReplacement k s
  | .egressHandoff k => Sys2Proof.Machine.execEgressHandoff k s
  | .handlerDispatch k => Sys2Proof.Machine.execHandlerDispatch k s
  | .mcWatchdogAbort k => Sys2Proof.Machine.execMcWatchdogAbort k s
  | .mcAdd k => Sys2Proof.Machine.execMcAdd k s
  | .mcSub k => Sys2Proof.Machine.execMcSub k s
  | .mcAdds k => Sys2Proof.Machine.execMcAdds k s
  | .mcSubs k => Sys2Proof.Machine.execMcSubs k s
  | .mcAnd k => Sys2Proof.Machine.execMcAnd k s
  | .mcOr k => Sys2Proof.Machine.execMcOr k s
  | .mcXor k => Sys2Proof.Machine.execMcXor k s
  | .mcShl k => Sys2Proof.Machine.execMcShl k s
  | .mcShr k => Sys2Proof.Machine.execMcShr k s
  | .mcSra k => Sys2Proof.Machine.execMcSra k s
  | .mcMul k => Sys2Proof.Machine.execMcMul k s
  | .mcMulq k => Sys2Proof.Machine.execMcMulq k s
  | .mcMin k => Sys2Proof.Machine.execMcMin k s
  | .mcMax k => Sys2Proof.Machine.execMcMax k s
  | .mcSat24 k => Sys2Proof.Machine.execMcSat24 k s
  | .mcSlt k => Sys2Proof.Machine.execMcSlt k s
  | .mcAddi k => Sys2Proof.Machine.execMcAddi k s
  | .mcAndi k => Sys2Proof.Machine.execMcAndi k s
  | .mcOri k => Sys2Proof.Machine.execMcOri k s
  | .mcXori k => Sys2Proof.Machine.execMcXori k s
  | .mcShli k => Sys2Proof.Machine.execMcShli k s
  | .mcShri k => Sys2Proof.Machine.execMcShri k s
  | .mcSrai k => Sys2Proof.Machine.execMcSrai k s
  | .mcLui k => Sys2Proof.Machine.execMcLui k s
  | .mcExt k => Sys2Proof.Machine.execMcExt k s
  | .mcIns k => Sys2Proof.Machine.execMcIns k s
  | .mcLd k => Sys2Proof.Machine.execMcLd k s
  | .mcSt k => Sys2Proof.Machine.execMcSt k s
  | .mcLdb k => Sys2Proof.Machine.execMcLdb k s
  | .mcStb k => Sys2Proof.Machine.execMcStb k s
  | .mcRadd k => Sys2Proof.Machine.execMcRadd k s
  | .mcBeq k => Sys2Proof.Machine.execMcBeq k s
  | .mcBne k => Sys2Proof.Machine.execMcBne k s
  | .mcBlt k => Sys2Proof.Machine.execMcBlt k s
  | .mcBge k => Sys2Proof.Machine.execMcBge k s
  | .mcJmp k => Sys2Proof.Machine.execMcJmp k s
  | .mcJal k => Sys2Proof.Machine.execMcJal k s
  | .mcJr k => Sys2Proof.Machine.execMcJr k s
  | .mcEnd k => Sys2Proof.Machine.execMcEnd k s
  | .mcEmit k => Sys2Proof.Machine.execMcEmit k s
  | .mcChanListen k => Sys2Proof.Machine.execMcChanListen k s
  | .mcChanOpen k => Sys2Proof.Machine.execMcChanOpen k s
  | .mcChanSend k => Sys2Proof.Machine.execMcChanSend k s
  | .mcChanClose k => Sys2Proof.Machine.execMcChanClose k s
  | .mcChanStatus k => Sys2Proof.Machine.execMcChanStatus k s
  | .mcRand k => Sys2Proof.Machine.execMcRand k s
  | .mcCsr k => Sys2Proof.Machine.execMcCsr k s
  | .mcTrap k => Sys2Proof.Machine.execMcTrap k s
  | .mcSeedWrite who k value => Sys2Proof.Machine.execMcSeedWrite who k value s
  | .entryLookup c busy => Sys2Proof.Machine.execEntryLookup c busy s
  | .dripLookupAdmit c => Sys2Proof.Machine.execDripLookupAdmit c s
  | .listOfferStream k => Sys2Proof.Machine.execListOfferStream k s
  | .bankOwnerWrite who c b value => Sys2Proof.Machine.execBankOwnerWrite who c b value s
  | .bankHandoverComplete c b => Sys2Proof.Machine.execBankHandoverComplete c b s
  | .portBRetry c => Sys2Proof.Machine.execPortBRetry c s
  | .scrubLineVisit c busy wrote => Sys2Proof.Machine.execScrubLineVisit c busy wrote s
  | .bankPwrWrite who c hi value => Sys2Proof.Machine.execBankPwrWrite who c hi value s
  | .bankWakeComplete c b => Sys2Proof.Machine.execBankWakeComplete c b s
  | .cmFenceRead who c => Sys2Proof.Machine.execCmFenceRead who c s
  | .softRepairWrite who c value => Sys2Proof.Machine.execSoftRepairWrite who c value s
  | .fabricSlot c err => Sys2Proof.Machine.execFabricSlot c err s
  | .injectionOffer c flowErr destErr => Sys2Proof.Machine.execInjectionOffer c flowErr destErr s
  | .lastFrameEnd => Sys2Proof.Machine.execLastFrameEnd s
  | .holdResidueMove c err => Sys2Proof.Machine.execHoldResidueMove c err s
  | .spillPortMove c => Sys2Proof.Machine.execSpillPortMove c s
  | .routerTableScrub c err => Sys2Proof.Machine.execRouterTableScrub c err s
  | .dripFlitForward c port rsp err => Sys2Proof.Machine.execDripFlitForward c port rsp err s
  | .evtPacketSend c ep => Sys2Proof.Machine.execEvtPacketSend c ep s
  | .dripEvtRx c => Sys2Proof.Machine.execDripEvtRx c s
  | .cfgPacketRx c => Sys2Proof.Machine.execCfgPacketRx c s
  | .msgSegmentRx c => Sys2Proof.Machine.execMsgSegmentRx c s
  | .ctlqOpenRx c => Sys2Proof.Machine.execCtlqOpenRx c s
  | .ctlqCloseRx c => Sys2Proof.Machine.execCtlqCloseRx c s
  | .ctlsOpenAckRx c => Sys2Proof.Machine.execCtlsOpenAckRx c s
  | .ctlsCloseAckRx c => Sys2Proof.Machine.execCtlsCloseAckRx c s
  | .ctlsAckRx c => Sys2Proof.Machine.execCtlsAckRx c s
  | .ctlsNakRx c => Sys2Proof.Machine.execCtlsNakRx c s
  | .wretRx c => Sys2Proof.Machine.execWretRx c s
  | .dripWinTimeout c ep => Sys2Proof.Machine.execDripWinTimeout c ep s
  | .relayForward k inward => Sys2Proof.Machine.execRelayForward k inward s
  | .dlCommit who k => Sys2Proof.Machine.execDlCommit who k s
  | .dlReadback who k => Sys2Proof.Machine.execDlReadback who k s
  | .dlClrOvf who k => Sys2Proof.Machine.execDlClrOvf who k s
  | .denseBinqWrite who k value => Sys2Proof.Machine.execDenseBinqWrite who k value s
  | .preTraceWrite c busy => Sys2Proof.Machine.execPreTraceWrite c busy s
  | .roastPass1Complete c => Sys2Proof.Machine.execRoastPass1Complete c s
  | .roastReciprocalComplete c => Sys2Proof.Machine.execRoastReciprocalComplete c s
  | .roastPass2Complete c => Sys2Proof.Machine.execRoastPass2Complete c s
  | .roastEnd c => Sys2Proof.Machine.execRoastEnd c s
  | .roastOverrun c => Sys2Proof.Machine.execRoastOverrun c s
  | .ckptStatClear who c => Sys2Proof.Machine.execCkptStatClear who c s
  | .roastSeedWrite who c value => Sys2Proof.Machine.execRoastSeedWrite who c value s
  | .firmwareCheckpoint c => Sys2Proof.Machine.execFirmwareCheckpoint c s
  | .holdupCheck code => Sys2Proof.Machine.execHoldupCheck code s
  | .huDeferExpiry code => Sys2Proof.Machine.execHuDeferExpiry code s
  | .huMaxwaitExpiry => Sys2Proof.Machine.execHuMaxwaitExpiry s
  | .csiPacketRx k p => Sys2Proof.Machine.execCsiPacketRx k p s
  | .csiFrameStart k vc => Sys2Proof.Machine.execCsiFrameStart k vc s
  | .csiFrameEnd k vc => Sys2Proof.Machine.execCsiFrameEnd k vc s
  | .decoderWord k => Sys2Proof.Machine.execDecoderWord k s
  | .rawEventIngest q ftErr limErr mergeErr => Sys2Proof.Machine.execRawEventIngest q ftErr limErr mergeErr s
  | .ingressOffer q err => Sys2Proof.Machine.execIngressOffer q err s
  | .pollStart b d => Sys2Proof.Machine.execPollStart b d s
  | .pollComplete b bytes err => Sys2Proof.Machine.execPollComplete b bytes err s
  | .adcConversionEnd value => Sys2Proof.Machine.execAdcConversionEnd value s
  | .frameBufferRelease who k mask => Sys2Proof.Machine.execFrameBufferRelease who k mask s
  | .gpioFilterAccept g level => Sys2Proof.Machine.execGpioFilterAccept g level s
  | .tmrGatedTick k => Sys2Proof.Machine.execTmrGatedTick k s
  | .tmrWrap k => Sys2Proof.Machine.execTmrWrap k s
  | .tmrMatch k cmp1 => Sys2Proof.Machine.execTmrMatch k cmp1 s
  | .tmrCountWrite who k value => Sys2Proof.Machine.execTmrCountWrite who k value s
  | .tmrCmpWrite who k one value => Sys2Proof.Machine.execTmrCmpWrite who k one value s
  | .tmrCmp1ShadowWrite who k value => Sys2Proof.Machine.execTmrCmp1ShadowWrite who k value s
  | .tmrCaptureRise k read => Sys2Proof.Machine.execTmrCaptureRise k read s
  | .tmrCaptureFall k read => Sys2Proof.Machine.execTmrCaptureFall k read s
  | .tmrCaptureRead who k idx => Sys2Proof.Machine.execTmrCaptureRead who k idx s
  | .actTimeout k => Sys2Proof.Machine.execActTimeout k s
  | .actSafeClear who mask => Sys2Proof.Machine.execActSafeClear who mask s
  | .xbTmrStart k => Sys2Proof.Machine.execXbTmrStart k s
  | .xbTmrStop k => Sys2Proof.Machine.execXbTmrStop k s
  | .xbTmrClear k => Sys2Proof.Machine.execXbTmrClear k s
  | .xbPulseLatch j => Sys2Proof.Machine.execXbPulseLatch j s
  | .xbDmaTrigger e c => Sys2Proof.Machine.execXbDmaTrigger e c s
  | .xbFrameRel k => Sys2Proof.Machine.execXbFrameRel k s
  | .xbInject j => Sys2Proof.Machine.execXbInject j s
  | .gpioSetWrite who value => Sys2Proof.Machine.execGpioSetWrite who value s
  | .gpioClrWrite who value => Sys2Proof.Machine.execGpioClrWrite who value s
  | .dmaStart who e c => Sys2Proof.Machine.execDmaStart who e c s
  | .dmaAbort who e c => Sys2Proof.Machine.execDmaAbort who e c s
  | .dmaGranule e c => Sys2Proof.Machine.execDmaGranule e c s
  | .dmaComplete e c => Sys2Proof.Machine.execDmaComplete e c s
  | .ethFrameRx q f => Sys2Proof.Machine.execEthFrameRx q f s
  | .rxDispatch q => Sys2Proof.Machine.execRxDispatch q s
  | .rcpReqRx q => Sys2Proof.Machine.execRcpReqRx q s
  | .rcpSyncRx q => Sys2Proof.Machine.execRcpSyncRx q s
  | .rcpFinRx q => Sys2Proof.Machine.execRcpFinRx q s
  | .rcpAckRx q => Sys2Proof.Machine.execRcpAckRx q s
  | .rcpSessionIdle q idx => Sys2Proof.Machine.execRcpSessionIdle q idx s
  | .rcpRead q => Sys2Proof.Machine.execRcpRead q s
  | .rcpWrite q => Sys2Proof.Machine.execRcpWrite q s
  | .rcpRmw q => Sys2Proof.Machine.execRcpRmw q s
  | .rcpWait q expired => Sys2Proof.Machine.execRcpWait q expired s
  | .rcpOpen q => Sys2Proof.Machine.execRcpOpen q s
  | .rcpSend q => Sys2Proof.Machine.execRcpSend q s
  | .rcpClose q => Sys2Proof.Machine.execRcpClose q s
  | .rcpListen q => Sys2Proof.Machine.execRcpListen q s
  | .mgmtAccessTimeout who addr write => Sys2Proof.Machine.execMgmtAccessTimeout who addr write s
  | .rcpMsgInSend q idx => Sys2Proof.Machine.execRcpMsgInSend q idx s
  | .rcpRtoExpiry q idx => Sys2Proof.Machine.execRcpRtoExpiry q idx s
  | .bootSolicit => Sys2Proof.Machine.execBootSolicit s
  | .bootOfferRx => Sys2Proof.Machine.execBootOfferRx s
  | .bootDataRx => Sys2Proof.Machine.execBootDataRx s
  | .netBootImageCheck sigOk recs fails => Sys2Proof.Machine.execNetBootImageCheck sigOk recs fails s
  | .refInFrameRx q => Sys2Proof.Machine.execRefInFrameRx q s
  | .txFrameStart q => Sys2Proof.Machine.execTxFrameStart q s
  | .gclChangeWrite who q value => Sys2Proof.Machine.execGclChangeWrite who q value s
  | .gclListSwitch q => Sys2Proof.Machine.execGclListSwitch q s
  | .phyCtrlWrite who q value => Sys2Proof.Machine.execPhyCtrlWrite who q value s
  | .linkUp q master => Sys2Proof.Machine.execLinkUp q master s
  | .linkDown q => Sys2Proof.Machine.execLinkDown q s
  | .ptpAdjWrite who value => Sys2Proof.Machine.execPtpAdjWrite who value s
  | .ptpNsLoRead who => Sys2Proof.Machine.execPtpNsLoRead who s
  | .gptpFrame q adj reply => Sys2Proof.Machine.execGptpFrame q adj reply s
  | .macsecKeyMessage q => Sys2Proof.Machine.execMacsecKeyMessage q s
  | .msTxAnWrite who q value => Sys2Proof.Machine.execMsTxAnWrite who q value s
  | .ddrRequestAccept q reqs => Sys2Proof.Machine.execDdrRequestAccept q reqs s
  | .drainRead who q => Sys2Proof.Machine.execDrainRead who q s
  | .ddrRefresh q hot => Sys2Proof.Machine.execDdrRefresh q hot s
  | .ddrPatrolScrub q wrote => Sys2Proof.Machine.execDdrPatrolScrub q wrote s
  | .ddrSelfRefreshExit q => Sys2Proof.Machine.execDdrSelfRefreshExit q s
  | .ddrTrainStart who q value => Sys2Proof.Machine.execDdrTrainStart who q value s
  | .ddrTrainingComplete q ok => Sys2Proof.Machine.execDdrTrainingComplete q ok s
  | .ddrPeriodicRetrain q => Sys2Proof.Machine.execDdrPeriodicRetrain q s
  | .ddrCfgEnable who q value => Sys2Proof.Machine.execDdrCfgEnable who q value s
  | .sdCalibration q fail0 fail1 => Sys2Proof.Machine.execSdCalibration q fail0 fail1 s
  | .scGroupRx k fec blocks => Sys2Proof.Machine.execScGroupRx k fec blocks s
  | .scTrainStart who k => Sys2Proof.Machine.execScTrainStart who k s
  | .scTrainingComplete k pkg peer lat rev pol => Sys2Proof.Machine.execScTrainingComplete k pkg peer lat rev pol s
  | .scBlockLockLoss k => Sys2Proof.Machine.execScBlockLockLoss k s
  | .scUaChange k ua => Sys2Proof.Machine.execScUaChange k ua s
  | .scRejoinWrite who k => Sys2Proof.Machine.execScRejoinWrite who k s
  | .clPwrReqWrite who c value => Sys2Proof.Machine.execClPwrReqWrite who c value s
  | .pkgPwrReqWrite who value => Sys2Proof.Machine.execPkgPwrReqWrite who value s
  | .clSteepEntryDone c => Sys2Proof.Machine.execClSteepEntryDone c s
  | .clSteepExitDone c => Sys2Proof.Machine.execClSteepExitDone c s
  | .clColdEntryDone c => Sys2Proof.Machine.execClColdEntryDone c s
  | .clColdExitDone c => Sys2Proof.Machine.execClColdExitDone c s
  | .pkgSteepEntryDone => Sys2Proof.Machine.execPkgSteepEntryDone s
  | .pkgSteepExitDone ticks => Sys2Proof.Machine.execPkgSteepExitDone ticks s
  | .pkgColdEntryDone => Sys2Proof.Machine.execPkgColdEntryDone s
  | .pkgColdExitDone digestOk recs fails => Sys2Proof.Machine.execPkgColdExitDone digestOk recs fails s
  | .wakeGpioEdge g rise => Sys2Proof.Machine.execWakeGpioEdge g rise s
  | .aoWakeTmrExpiry => Sys2Proof.Machine.execAoWakeTmrExpiry s
  | .brownout c vm => Sys2Proof.Machine.execBrownout c vm s
  | .regOvercurrent c vm ended => Sys2Proof.Machine.execRegOvercurrent c vm ended s
  | .thermHiCross c temp => Sys2Proof.Machine.execThermHiCross c temp s
  | .thermalShutdown c temp => Sys2Proof.Machine.execThermalShutdown c temp s
  | .clk32Fail => Sys2Proof.Machine.execClk32Fail s
  | .pllDeviation q dpll lost => Sys2Proof.Machine.execPllDeviation q dpll lost s
  | .pllLocked idx => Sys2Proof.Machine.execPllLocked idx s
  | .clVtrimWrite who c value => Sys2Proof.Machine.execClVtrimWrite who c value s
  | .powerOnReset => Sys2Proof.Machine.execPowerOnReset s
  | .resetNAssert => Sys2Proof.Machine.execResetNAssert s
  | .resetNRelease vio33 mismatch => Sys2Proof.Machine.execResetNRelease vio33 mismatch s
  | .computeResetCmd who => Sys2Proof.Machine.execComputeResetCmd who s
  | .computeResetIntervalEnd fails => Sys2Proof.Machine.execComputeResetIntervalEnd fails s
  | .clRstWrite who hi value => Sys2Proof.Machine.execClRstWrite who hi value s
  | .clusterResetEnd c => Sys2Proof.Machine.execClusterResetEnd c s
  | .coreRstPulseWrite who c value => Sys2Proof.Machine.execCoreRstPulseWrite who c value s
  | .coreRstHoldWrite who c value => Sys2Proof.Machine.execCoreRstHoldWrite who c value s
  | .coreResetEnd k => Sys2Proof.Machine.execCoreResetEnd k s
  | .romFlashBoot answers sigOk recs fails => Sys2Proof.Machine.execRomFlashBoot answers sigOk recs fails s
  | .fwImageUpdateMsg image => Sys2Proof.Machine.execFwImageUpdateMsg image s
  | .licenceRecordMsg r => Sys2Proof.Machine.execLicenceRecordMsg r s
  | .imgPtrWrite who q value => Sys2Proof.Machine.execImgPtrWrite who q value s
  | .imgDataWrite who q value => Sys2Proof.Machine.execImgDataWrite who q value s
  | .imageLoadMsg n img => Sys2Proof.Machine.execImageLoadMsg n img s
  | .imageLoadDone => Sys2Proof.Machine.execImageLoadDone s
  | .fuseProgWrite who value => Sys2Proof.Machine.execFuseProgWrite who value s
  | .fuseBlowComplete ok => Sys2Proof.Machine.execFuseBlowComplete ok s
  | .fuseBlowMsg sel => Sys2Proof.Machine.execFuseBlowMsg sel s
  | .faultRaise => Sys2Proof.Machine.execFaultRaise s
  | .containmentRestore k whole => Sys2Proof.Machine.execContainmentRestore k whole s
  | .sev3Restore fails => Sys2Proof.Machine.execSev3Restore fails s
  | .fltRaiseWrite who value => Sys2Proof.Machine.execFltRaiseWrite who value s
  | .fltRestored who => Sys2Proof.Machine.execFltRestored who s
  | .fltHalt who => Sys2Proof.Machine.execFltHalt who s
  | .fltRelease who => Sys2Proof.Machine.execFltRelease who s
  | .quietPeriodExpiry => Sys2Proof.Machine.execQuietPeriodExpiry s
  | .fltLogPopRead who => Sys2Proof.Machine.execFltLogPopRead who s
  | .icClaimRead who m => Sys2Proof.Machine.execIcClaimRead who m s
  | .icCompleteWrite who m value => Sys2Proof.Machine.execIcCompleteWrite who m value s
  | .icMaskWrite who idx value => Sys2Proof.Machine.execIcMaskWrite who idx value s
  | .icSwiSetWrite who value => Sys2Proof.Machine.execIcSwiSetWrite who value s
  | .icSwiClrWrite who value => Sys2Proof.Machine.execIcSwiClrWrite who value s
  | .stormWindowExpiry idx rose => Sys2Proof.Machine.execStormWindowExpiry idx rose s
  | .ctxNextWrite who value => Sys2Proof.Machine.execCtxNextWrite who value s
  | .switchFlushDone => Sys2Proof.Machine.execSwitchFlushDone s
  | .switchRoastWaitDone => Sys2Proof.Machine.execSwitchRoastWaitDone s
  | .switchSaveDone => Sys2Proof.Machine.execSwitchSaveDone s
  | .switchScrubDone => Sys2Proof.Machine.execSwitchScrubDone s
  | .switchLoadDone => Sys2Proof.Machine.execSwitchLoadDone s
  | .ctxDestroyMsg n => Sys2Proof.Machine.execCtxDestroyMsg n s
  | .ctxDestroyDone n => Sys2Proof.Machine.execCtxDestroyDone n s
  | .attStart who => Sys2Proof.Machine.execAttStart who s
  | .attSignDone ok => Sys2Proof.Machine.execAttSignDone ok s
  | .padEnWrite who value => Sys2Proof.Machine.execPadEnWrite who value s
  | .stateCheckpoint => Sys2Proof.Machine.execStateCheckpoint s
  | .pwrGoodRise => Sys2Proof.Machine.execPwrGoodRise s
  | .debugHaltRequest m => Sys2Proof.Machine.execDebugHaltRequest m s
  | .debugResume m => Sys2Proof.Machine.execDebugResume m s
  | .rcpChanTimeout q => Sys2Proof.Machine.execRcpChanTimeout q s
  | .csiUlpsEntry k => Sys2Proof.Machine.execCsiUlpsEntry k s
  | .csiUlpsExit k => Sys2Proof.Machine.execCsiUlpsExit k s

end Sys2Proof.Machine
end

