-- ==== Sys2Proof/Machine/Step.lean ====
section
/-! DEFINITION. One step: the front command of the queue, or one fabric cycle on an empty queue. -/

namespace Sys2Proof.Machine

/-- The step: the command at the front runs with the rest of the queue; with no command, time passes (DESIGN CHOICE, log 1). -/
def step (s : State) : Host.Outcome State Fault Refusal :=
  match s.pending with
  | [] => .next { s with hw := tick s.hw }
  | i :: r => exec i { s with pending := r }

/-- `s` with the command that a word spells at the front of its queue; no row of the table gives bits, so no word spells one. -/
def State.withFetchWord (s : State) (nbits w : Nat) : State :=
  match Sys2Proof.decodeTableWord nbits w with
  | some i => { s with pending := i :: s.pending }
  | none => s

end Sys2Proof.Machine
end

