-- ==== Sys2Proof/WellFormed.lean ====
section
/-! DEFINITION. Which operands a command can carry: the sizes that the spec gives what comes from outside. A meaning is total and is defined
on ill-formed operands too; no environment sends them. -/

namespace Sys2Proof

/-- A packet: the payload of a long packet has a 16-bit length, and a short packet carries a 16-bit data field (10 R285). -/
def CsiPacket.wf (p : CsiPacket) : Bool := if p.long then decide (p.payload.length < 65536) else decide (p.payload.length ≤ 2)

/-- A configuration record: 1 to 14 words for a cluster or core region address, as a CFG packet has (07 R208, 16 R444). -/
def CfgRec.wf (r : CfgRec) : Bool := decide (1 ≤ r.words.length) && decide (r.words.length ≤ 14) && r.addr.getLsbD 31

/-- A memory request names a word of the channel (14 R386). -/
def DdrReq.wf (r : DdrReq) : Bool := decide (r.addr.toNat % 4 = 0)

/-- A piece of an image: a memory section starts at a word and has words (16 R450). -/
def ImgItem.wf : ImgItem → Bool
  | .mem addr _ words => decide (addr.toNat % 4 = 0) && decide (words ≠ [])
  | .reg _ _ => true

/-- An image: its pieces are well formed (16 R450). -/
def Image.wf (i : Image) : Bool := i.items.all ImgItem.wf

/-- A command's operands have the sizes the spec gives them: a poll descriptor reads at most 4 bytes (10 R292), a group of a link carries 5
payload blocks (14 R395), the firmware slot holds 8 MiB (16 R443). -/
def Instr.wf (i : Instr) : Bool :=
  match i with
  | .registerWrite _ _ _ => true
  | .rcCounterRead _ _ _ => true
  | .pgSoftRst _ _ _ => true
  | .pgLockSet _ _ _ => true
  | .pgLockClear _ _ _ => true
  | .mcStoreData _ _ _ => true
  | .mcDmData _ _ _ => true
  | .bankwinData _ _ _ _ => true
  | .gtData _ _ _ => true
  | .fseqData _ _ _ => true
  | .flowData _ _ _ => true
  | .destData _ _ _ => true
  | .dtreeData _ _ _ => true
  | .xtagData _ _ _ => true
  | .itagData _ _ _ => true
  | .segData _ _ _ => true
  | .ruleData _ _ _ => true
  | .hotpixData _ _ _ => true
  | .ftData _ _ _ => true
  | .limData _ _ _ => true
  | .pollData _ _ => true
  | .lceData _ _ => true
  | .actData _ _ => true
  | .gclData _ _ _ => true
  | .msSaData _ _ _ => true
  | .aomData _ _ => true
  | .attData _ _ => true
  | .stepRunStart _ => true
  | .stepRunStop _ => true
  | .stepSingle _ _ => true
  | .stepAdvance => true
  | .deliveryDeadline => true
  | .deliveryClose => true
  | .integrateStart _ => true
  | .coreDone _ => true
  | .stepDue => true
  | .stretchMaxExpiry => true
  | .pourClose => true
  | .tokenDoneRx _ _ => true
  | .tokenDquietRx _ _ => true
  | .tokenPourRx _ _ => true
  | .tokenDcloseRx _ _ => true
  | .wakeComplete _ => true
  | .warmEntry _ => true
  | .sliceSwapComplete _ => true
  | .sliceCfgWrite _ _ _ => true
  | .psetCommit _ _ => true
  | .psetReadback _ _ => true
  | .psetClrOvf _ _ => true
  | .coreLayoutWrite _ _ _ => true
  | .remapWrite _ _ _ _ => true
  | .physRetireWrite _ _ _ _ => true
  | .spareReplacement _ => true
  | .egressHandoff _ => true
  | .handlerDispatch _ => true
  | .mcWatchdogAbort _ => true
  | .mcAdd _ => true
  | .mcSub _ => true
  | .mcAdds _ => true
  | .mcSubs _ => true
  | .mcAnd _ => true
  | .mcOr _ => true
  | .mcXor _ => true
  | .mcShl _ => true
  | .mcShr _ => true
  | .mcSra _ => true
  | .mcMul _ => true
  | .mcMulq _ => true
  | .mcMin _ => true
  | .mcMax _ => true
  | .mcSat24 _ => true
  | .mcSlt _ => true
  | .mcAddi _ => true
  | .mcAndi _ => true
  | .mcOri _ => true
  | .mcXori _ => true
  | .mcShli _ => true
  | .mcShri _ => true
  | .mcSrai _ => true
  | .mcLui _ => true
  | .mcExt _ => true
  | .mcIns _ => true
  | .mcLd _ => true
  | .mcSt _ => true
  | .mcLdb _ => true
  | .mcStb _ => true
  | .mcRadd _ => true
  | .mcBeq _ => true
  | .mcBne _ => true
  | .mcBlt _ => true
  | .mcBge _ => true
  | .mcJmp _ => true
  | .mcJal _ => true
  | .mcJr _ => true
  | .mcEnd _ => true
  | .mcEmit _ => true
  | .mcChanListen _ => true
  | .mcChanOpen _ => true
  | .mcChanSend _ => true
  | .mcChanClose _ => true
  | .mcChanStatus _ => true
  | .mcRand _ => true
  | .mcCsr _ => true
  | .mcTrap _ => true
  | .mcSeedWrite _ _ _ => true
  | .entryLookup _ _ => true
  | .dripLookupAdmit _ => true
  | .listOfferStream _ => true
  | .bankOwnerWrite _ _ _ _ => true
  | .bankHandoverComplete _ _ => true
  | .portBRetry _ => true
  | .scrubLineVisit _ _ _ => true
  | .bankPwrWrite _ _ _ _ => true
  | .bankWakeComplete _ _ => true
  | .cmFenceRead _ _ => true
  | .softRepairWrite _ _ _ => true
  | .fabricSlot _ _ => true
  | .injectionOffer _ _ _ => true
  | .lastFrameEnd => true
  | .holdResidueMove _ _ => true
  | .spillPortMove _ => true
  | .routerTableScrub _ _ => true
  | .dripFlitForward _ _ _ _ => true
  | .evtPacketSend _ _ => true
  | .dripEvtRx _ => true
  | .cfgPacketRx _ => true
  | .msgSegmentRx _ => true
  | .ctlqOpenRx _ => true
  | .ctlqCloseRx _ => true
  | .ctlsOpenAckRx _ => true
  | .ctlsCloseAckRx _ => true
  | .ctlsAckRx _ => true
  | .ctlsNakRx _ => true
  | .wretRx _ => true
  | .dripWinTimeout _ _ => true
  | .relayForward _ _ => true
  | .dlCommit _ _ => true
  | .dlReadback _ _ => true
  | .dlClrOvf _ _ => true
  | .denseBinqWrite _ _ _ => true
  | .preTraceWrite _ _ => true
  | .roastPass1Complete _ => true
  | .roastReciprocalComplete _ => true
  | .roastPass2Complete _ => true
  | .roastEnd _ => true
  | .roastOverrun _ => true
  | .ckptStatClear _ _ => true
  | .roastSeedWrite _ _ _ => true
  | .firmwareCheckpoint _ => true
  | .holdupCheck _ => true
  | .huDeferExpiry _ => true
  | .huMaxwaitExpiry => true
  | .csiPacketRx _ p => p.wf
  | .csiFrameStart _ _ => true
  | .csiFrameEnd _ _ => true
  | .decoderWord _ => true
  | .rawEventIngest _ _ _ _ => true
  | .ingressOffer _ _ => true
  | .pollStart _ _ => true
  | .pollComplete _ bytes _ => decide (bytes.length ≤ 4)
  | .adcConversionEnd _ => true
  | .frameBufferRelease _ _ _ => true
  | .gpioFilterAccept _ _ => true
  | .tmrGatedTick _ => true
  | .tmrWrap _ => true
  | .tmrMatch _ _ => true
  | .tmrCountWrite _ _ _ => true
  | .tmrCmpWrite _ _ _ _ => true
  | .tmrCmp1ShadowWrite _ _ _ => true
  | .tmrCaptureRise _ _ => true
  | .tmrCaptureFall _ _ => true
  | .tmrCaptureRead _ _ _ => true
  | .actTimeout _ => true
  | .actSafeClear _ _ => true
  | .xbTmrStart _ => true
  | .xbTmrStop _ => true
  | .xbTmrClear _ => true
  | .xbPulseLatch _ => true
  | .xbDmaTrigger _ _ => true
  | .xbFrameRel _ => true
  | .xbInject _ => true
  | .gpioSetWrite _ _ => true
  | .gpioClrWrite _ _ => true
  | .dmaStart _ _ _ => true
  | .dmaAbort _ _ _ => true
  | .dmaGranule _ _ => true
  | .dmaComplete _ _ => true
  | .ethFrameRx _ f => decide (f.payload.length < 65536)
  | .rxDispatch _ => true
  | .rcpReqRx _ => true
  | .rcpSyncRx _ => true
  | .rcpFinRx _ => true
  | .rcpAckRx _ => true
  | .rcpSessionIdle _ _ => true
  | .rcpRead _ => true
  | .rcpWrite _ => true
  | .rcpRmw _ => true
  | .rcpWait _ _ => true
  | .rcpOpen _ => true
  | .rcpSend _ => true
  | .rcpClose _ => true
  | .rcpListen _ => true
  | .mgmtAccessTimeout _ _ _ => true
  | .rcpMsgInSend _ _ => true
  | .rcpRtoExpiry _ _ => true
  | .bootSolicit => true
  | .bootOfferRx => true
  | .bootDataRx => true
  | .netBootImageCheck _ recs _ => recs.all CfgRec.wf
  | .refInFrameRx _ => true
  | .txFrameStart _ => true
  | .gclChangeWrite _ _ _ => true
  | .gclListSwitch _ => true
  | .phyCtrlWrite _ _ _ => true
  | .linkUp _ _ => true
  | .linkDown _ => true
  | .ptpAdjWrite _ _ => true
  | .ptpNsLoRead _ => true
  | .gptpFrame _ _ reply => (match reply with
    | some l => decide (l.length ≤ 9022)
    | none => true)
  | .macsecKeyMessage _ => true
  | .msTxAnWrite _ _ _ => true
  | .ddrRequestAccept _ reqs => reqs.all DdrReq.wf
  | .drainRead _ _ => true
  | .ddrRefresh _ _ => true
  | .ddrPatrolScrub _ _ => true
  | .ddrSelfRefreshExit _ => true
  | .ddrTrainStart _ _ _ => true
  | .ddrTrainingComplete _ _ => true
  | .ddrPeriodicRetrain _ => true
  | .ddrCfgEnable _ _ _ => true
  | .sdCalibration _ _ _ => true
  | .scGroupRx _ _ blocks => decide (blocks.length = 5)
  | .scTrainStart _ _ => true
  | .scTrainingComplete _ _ _ _ _ _ => true
  | .scBlockLockLoss _ => true
  | .scUaChange _ _ => true
  | .scRejoinWrite _ _ => true
  | .clPwrReqWrite _ _ _ => true
  | .pkgPwrReqWrite _ _ => true
  | .clSteepEntryDone _ => true
  | .clSteepExitDone _ => true
  | .clColdEntryDone _ => true
  | .clColdExitDone _ => true
  | .pkgSteepEntryDone => true
  | .pkgSteepExitDone _ => true
  | .pkgColdEntryDone => true
  | .pkgColdExitDone _ recs _ => recs.all CfgRec.wf
  | .wakeGpioEdge _ _ => true
  | .aoWakeTmrExpiry => true
  | .brownout _ _ => true
  | .regOvercurrent _ _ _ => true
  | .thermHiCross _ _ => true
  | .thermalShutdown _ _ => true
  | .clk32Fail => true
  | .pllDeviation _ _ _ => true
  | .pllLocked _ => true
  | .clVtrimWrite _ _ _ => true
  | .powerOnReset => true
  | .resetNAssert => true
  | .resetNRelease _ _ => true
  | .computeResetCmd _ => true
  | .computeResetIntervalEnd _ => true
  | .clRstWrite _ _ _ => true
  | .clusterResetEnd _ => true
  | .coreRstPulseWrite _ _ _ => true
  | .coreRstHoldWrite _ _ _ => true
  | .coreResetEnd _ => true
  | .romFlashBoot _ _ recs _ => recs.all CfgRec.wf
  | .fwImageUpdateMsg image => decide (image.length ≤ 0x800000)
  | .licenceRecordMsg _ => true
  | .imgPtrWrite _ _ _ => true
  | .imgDataWrite _ _ _ => true
  | .imageLoadMsg _ img => img.wf
  | .imageLoadDone => true
  | .fuseProgWrite _ _ => true
  | .fuseBlowComplete _ => true
  | .fuseBlowMsg _ => true
  | .faultRaise => true
  | .containmentRestore _ _ => true
  | .sev3Restore _ => true
  | .fltRaiseWrite _ _ => true
  | .fltRestored _ => true
  | .fltHalt _ => true
  | .fltRelease _ => true
  | .quietPeriodExpiry => true
  | .fltLogPopRead _ => true
  | .icClaimRead _ _ => true
  | .icCompleteWrite _ _ _ => true
  | .icMaskWrite _ _ _ => true
  | .icSwiSetWrite _ _ => true
  | .icSwiClrWrite _ _ => true
  | .stormWindowExpiry _ _ => true
  | .ctxNextWrite _ _ => true
  | .switchFlushDone => true
  | .switchRoastWaitDone => true
  | .switchSaveDone => true
  | .switchScrubDone => true
  | .switchLoadDone => true
  | .ctxDestroyMsg _ => true
  | .ctxDestroyDone _ => true
  | .attStart _ => true
  | .attSignDone _ => true
  | .padEnWrite _ _ => true
  | .stateCheckpoint => true
  | .pwrGoodRise => true
  | .debugHaltRequest _ => true
  | .debugResume _ => true
  | .rcpChanTimeout _ => true
  | .csiUlpsEntry _ => true
  | .csiUlpsExit _ => true

end Sys2Proof
end

