-- ==== Sys2Proof/Safety.lean ====
section
/-! DEFINITION. What claims are stated in: that a command answers a next state and what that state holds, when a management access is
performed, and when a microcode engine executes an instruction. -/

namespace Sys2Proof.Machine

/-! ### Runs -/

/-- A state from which n steps run without a stop. -/
def Safe (n : Nat) (s : State) : Prop := ∃ t, Host.Core.run Sys2Proof.core n s = .next t

/-! ### What a command does -/

/-- A command answers a next state: the queue is as it was, the block is as `P` says. -/
def Answers (i : Instr) (s : State) (P : Hw → Prop) : Prop := ∃ t, exec i s = .next t ∧ t.pending = s.pending ∧ P t.hw

/-- The block after: everything but the registers is as in `g`, each register listed holds the word beside it, and every other register
of every page holds what it held before. -/
def Hw.Now (h g : Hw) (l : List ((Rg × Nat) × Word)) (t : Hw) : Prop :=
  { t with regs := h.regs } = { g with regs := h.regs } ∧ ∀ r u, t.reg r u = (l.lookup (r, u)).getD (h.reg r u)

/-- A command answers a next state that differs from the state before as `g` and the listed registers say, and in nothing else. -/
def Effect (i : Instr) (s : State) (g : Hw) (l : List ((Rg × Nat) × Word)) : Prop := Answers i s (s.hw.Now g l)

/-- A command answers a next state that is the state before. -/
def Ignored (i : Instr) (s : State) : Prop := exec i s = .next s

/-- The block with the answer of a management access: the value read, 0 for a write, and status OK (13 R368). -/
def Hw.told (h : Hw) (v : Word) : Hw := { h with resp := { value := v } }

/-! ### Management accesses -/

/-- A write of register r of unit u has been performed and answered; `same` is what hardware sets in its cycle (00 R16). -/
def Hw.wrote (h : Hw) (who : Requester) (r : Rg) (u : Nat) (v : Word) (same : Word := 0#32) : Hw := (h.regWrite who r.page u r.off v same).told 0

/-- A read of register r of unit u has been performed and its value answered; `same`: an increment falls in its cycle (00 R16). -/
def Hw.looked (h : Hw) (who : Requester) (r : Rg) (u : Nat) (same : Bool := false) : Hw :=
  (h.regRead who r.page u r.off same).1.told (h.regRead who r.page u r.off same).2

/-- An access by `who` to register r of unit u is performed at once: the requester has power, the address reaches the page (19 R497),
nothing refuses it (19 R526), and no core or cluster reset holds it (19 R506). -/
def State.Grants (s : State) (who : Requester) (r : Rg) (u : Nat) (wr : Bool) : Prop :=
  s.hw.powered = true ∧ ∃ l, locOf (addrOf r u) = some l ∧ l.page = r.page ∧ l.unit = u ∧ l.off = r.off ∧
    s.hw.refusal who l wr = none ∧ s.hw.unhold l = s.hw

/-! ### The microcode engine (04 R117–R136) -/

/-- The engine of core k executes instruction i next: a handler runs within its limit, and the good word at its index spells i. -/
def State.Executes (s : State) (k : Nat) (i : MInstr) : Prop :=
  s.hw.powered = true ∧ (s.hw.eng k).running = true ∧ (s.hw.eng k).cyc < s.hw.mcLimit k (s.hw.eng k).kind ∧ (s.hw.eng k).pc < 1023 ∧
    s.hw.mark (storeAddr k (s.hw.eng k).pc) = 0 ∧ mcDecode (s.hw.word (storeAddr k (s.hw.eng k).pc)) = some i

/-- The block after the instruction at index `pc` has taken n cycles, after the cycles it was held, and `next` is the index to go on at
(04 R120, R133). -/
def Hw.mcDone (g : Hw) (k pc n next : Nat) : Hw :=
  ((((g.mcGo k).setReg MC_PC k (w32 pc)).inc MC_CYC_CNT k n).updEng k fun e => { e with cyc := e.cyc + n }).updEng k fun e => { e with pc := next }

/-- The block after the engine of core k has ended its handler: it is free from the end of the cycles that the handler took, two fabric cycles
each, and the ENABLE that was in force for it is forgotten (04 R117, R141). -/
def Hw.mcOff (g : Hw) (k : Nat) : Hw :=
  (g.updCore k fun x => { x with mcForce := none }).updEng k fun e => { e with running := false, freeAt := e.startAt + 2 * e.cyc }

/-- The command executes the instruction i of core k: the block is `g`, n cycles on, at index `next`. -/
def Executed (c : Instr) (s : State) (k : Nat) (g : Hw) (n next : Nat) : Prop := Answers c s (· = g.mcDone k (s.hw.eng k).pc n next)

/-- The command computes rd = v in n cycles and goes on at the next index. -/
def Computed (c : Instr) (s : State) (k rd n : Nat) (v : Word) : Prop := Executed c s k (s.hw.mcSet k rd v) n ((s.hw.eng k).pc + 1)

/-! ### The register control protocol (13 R366–R370) -/

/-- The block after the operation in progress at port q has ended as `o`: requests with nothing left to do are answered. -/
def Hw.opEnded (g : Hw) (q : Nat) (o : OpEnd) : Hw :=
  (g.updEth q fun e => match e.reqs with
    | [] => e
    | r :: l => { e with reqs := reqNext r o :: l }).rcpPump q 16

/-- Port q runs, and the request at the head of its queue is r, whose next operation has code `op`. -/
def State.Runs (s : State) (q : Nat) (r : RcpReq) (op : Nat) : Prop :=
  (s.hw.powered = true ∨ s.hw.kept q = true) ∧ (s.hw.eth q).reqs.head? = some r ∧ opsLeft r = true ∧ bits (r.ops.headD 0#32) 31 28 = op

/-! ### Timers and pulses (11 R311, R312, R326) -/

/-- A pulse in flight reaches the sink: `x` is the block at the time it arrives, with it taken; nobody waits for anything meanwhile. -/
def Hw.PulseAt (h : Hw) (sink : Nat) (x : Hw) : Prop :=
  h.waits = [] ∧ ∃ p, (h.pulses.find? fun p => p.sink == sink) = some p ∧ x = { h.advTo p.at_ with pulses := h.pulses.erase p }

/-- Timer k takes a gated tick and `x` is the block that takes it: of a clock, its first or a period after the last; of a step mark or of the
timer before it, which is owed; or of a pulse into its TICK sink. -/
def Hw.TicksIn (h : Hw) (k : Nat) (x : Hw) : Prop :=
  (h.tbSel k ≤ 1 ∧ h.tmrTicks k = true ∧ (h.tmr k).tickAt = none ∧ x = h.updTmr k fun s => { s with tickAt := some h.dev }) ∨
  (h.tbSel k ≤ 1 ∧ h.tmrTicks k = true ∧ h.waits = [] ∧ ∃ t, (h.tmr k).tickAt = some t ∧
    x = (h.advTo (t + h.tickGap k)).updTmr k fun s => { s with tickAt := some (max h.dev (t + h.tickGap k)) }) ∨
  ((h.tbSel k = 2 ∨ h.tbSel k = 3) ∧ (h.tmr k).due ≠ 0 ∧ x = h.updTmr k fun s => { s with due := s.due - 1 }) ∨
  (h.tbSel k = 4 ∧ h.tmrTicks k = true ∧ h.PulseAt (4 * k + 3) x)

/-- No guard of a steady interrupt source runs. -/
def Hw.Unguarded (h : Hw) : Prop := ∀ i, Tbl.get 0 h.flt.guard i ≠ 1

/-- The block after the filter of pin g has accepted a level, but for GPIO_IN and what the timers that watch the pin do: an edge that
GPIO_EDGE selects fires the pin's source. -/
def Hw.pinSeen (h : Hw) (g : Nat) (level : Bool) : Hw :=
  let x : Hw := { h.advTo (h.filtAt g) with gpioAt := Tbl.put h.gpioAt g (max h.dev (h.filtAt g)) }
  let e := if g < 16 then h.fld GPIO_EDGE_LO 0 (2 * g + 1) (2 * g) else h.fld GPIO_EDGE_HI 0 (2 * (g - 16) + 1) (2 * (g - 16))
  if level = true ∧ e % 2 = 1 ∨ level = false ∧ 2 ≤ e then x.fire (160 + g) else x

/-- Timer k captures the next edge to `level` of its pin: it watches the pin, which is at the other level, no other timer watches it, and nobody
waits for anything. -/
def Hw.Captures (h : Hw) (k : Nat) (level : Bool) : Prop :=
  h.waits = [] ∧ h.flag TMR_CTRL k 23 = true ∧ h.flag GPIO_IN 0 (h.capPin k) ≠ level ∧
    ∀ i, i < 16 → i = k ∨ h.flag TMR_CTRL i 23 = false ∨ h.capPin i ≠ h.capPin k

/-! ### RESET_N (16 R435, R437) -/

/-- RESET_N is low: every unit is as after reset, the clusters too but for what their temperature sensors read; memory is in its canonical
form and lists only flash and always-on memory; no command that ends the reset waits. Registers, fuses, firmware's flash and the raises that
wait for the collector may hold anything. -/
def State.InReset (s : State) : Prop :=
  s.hw.pkg.inReset = true ∧ (s.hw.pkg.pst = .brew ∨ s.hw.pkg.pst = .toCold) ∧
    { s.hw with mem := [], regs := [], clusters := [], pkg := {}, fw := {}, wire := [], reports := [], fresh := 0 } = ({} : Hw) ∧
    (∀ c, { s.hw.cl c with temp := 0 } = ({} : ClusterSt)) ∧ Memory.wf s.hw.mem = true ∧
    (∀ p ∈ s.hw.mem, inFlash p.1 = true ∨ inAom p.1 = true) ∧
    .powerOnReset ∉ s.pending ∧ ∀ vio33 mismatch, .resetNRelease vio33 mismatch ∉ s.pending

/-! ### Windows (19 R528) -/

/-- The value v of a field of n bits counts on: from its last valid value, and from the highest it can hold, it returns to 0. -/
def nextVal (v last n : Nat) : Nat := if v = last ∨ v + 1 = 2 ^ n then 0 else v + 1

/-- An address register whose field [hi:lo] has counted on. -/
def nextField (w : Word) (hi lo last : Nat) : Word := setBits w hi lo (nextVal (bits w hi lo) last (hi + 1 - lo))

/-- An address register whose field [hi:lo] has counted on and, where it returned to 0, has carried into [a:b]. -/
def nextCarry (w : Word) (hi lo last a b : Nat) : Word :=
  let x := nextField w hi lo last
  if bits w hi lo = last ∨ bits w hi lo + 1 = 2 ^ (hi + 1 - lo) then setBits x a b (bits x a b + 1) else x

end Sys2Proof.Machine
end

