-- ==== Sys2Proof/Certificates/Slice0/Obligations.lean ====
section
/-! DEFINITION. The statements for the provers. Each `Obligations.<Name>` says of the model what its docstring says of the hardware; rules R<n>
are numbered as in the spec, with the number of their file before them. -/

open Sys2Proof Sys2Proof.Machine

/-- A step takes the command at the front of the queue and runs it with the rest of the queue. One step with a command at the front of the queue is
that command's effect on the state with the rest of the queue. The queue of waiting commands is the model's own (log 1). -/
def Obligations.StepRunsFrontCommand : Prop :=
  ∀ (s : State) (i : Instr) (r : List Instr), step { s with pending := i :: r } = exec i { s with pending := r }

/-- Every command answers a next state and leaves the queue as it is. In every state, every command answers a next state, with the queue as it was:
none ends in a fault or a refusal. -/
def Obligations.EveryCommandCompletes : Prop :=
  ∀ (i : Instr) (s : State), ∃ t, exec i s = .next t ∧ t.pending = s.pending

/-- Every one of the 310 commands answers a next state, its own operation on the block, wherever it may act. For each constructor of Instr, the next
state that exec answers, under conditions on the state and the operands alone: a command of the block's clocked domain acts while the package has
power and is out of reset (15 R413, 16 R435); one of a port kept through a compute reset acts while its port is kept (16 R437); one of the always-on
domain acts always (15 R421); a register access of a management processor or RCP engine acts when it is granted: the requester has power, the
address reaches the page, and nothing refuses or holds the access (19 R497, R506, R526). A register access answers the value read or 0 with status
OK (13 R368). The operation named is the command's own; what it does is the other statements' matter. That an unpowered block's event has no effect
is the model's reading (log 3). -/
def Obligations.EveryCommandHasItsEffect : Prop :=
  ∀ s : State,
    (s.hw.powered = true →
      (exec .stepAdvance s = .next { s with hw := if s.hw.step.phase = .pour ∧ s.hw.switching = false then s.hw.advance else s.hw }) ∧
      (exec .deliveryDeadline s = .next { s with hw := s.hw.deadlinePasses }) ∧
      (exec .deliveryClose s = .next { s with hw := if s.hw.switching then s.hw else s.hw.tryClose Hw.closeDelivery }) ∧
      (∀ (k : Core), exec (.integrateStart k) s = .next { s with hw := s.hw.integStart k }) ∧
      (∀ (k : Core), exec (.coreDone k) s = .next { s with hw := s.hw.coreDone k }) ∧
      (exec .stepDue s = .next { s with hw := s.hw.stepDue }) ∧
      (exec .stretchMaxExpiry s = .next { s with hw := s.hw.stretchExpires }) ∧
      (exec .pourClose s = .next { s with hw := s.hw.pourClose }) ∧
      (∀ (k : Link) (tag : BitVec 4), exec (.tokenDoneRx k tag) s = .next { s with hw := s.hw.tokenDone k tag.toNat }) ∧
      (∀ (k : Link) (tag : BitVec 4), exec (.tokenDquietRx k tag) s = .next { s with hw := s.hw.tokenDquiet k tag.toNat }) ∧
      (∀ (k : Link) (tag : BitVec 4), exec (.tokenPourRx k tag) s = .next { s with hw := s.hw.tokenPour k tag.toNat }) ∧
      (∀ (k : Link) (tag : BitVec 4), exec (.tokenDcloseRx k tag) s = .next { s with hw := s.hw.tokenDclose k tag.toNat }) ∧
      (∀ (k : Core), exec (.wakeComplete k) s = .next { s with hw := s.hw.wakeDone k }) ∧
      (∀ (u : WarmUnit), exec (.warmEntry u) s = .next { s with hw := s.hw.warmEntry u }) ∧
      (∀ (k : Core), exec (.sliceSwapComplete k) s = .next { s with hw := s.hw.swapDone k }) ∧
      (∀ (k : Core), exec (.spareReplacement k) s = .next { s with hw := s.hw.spareReplace k }) ∧
      (∀ (k : Core), exec (.egressHandoff k) s = .next { s with hw := s.hw.egressHandoff k }) ∧
      (∀ (k : Core), exec (.handlerDispatch k) s = .next { s with hw := s.hw.mcDispatch k }) ∧
      (∀ (k : Core), exec (.mcWatchdogAbort k) s = .next { s with hw := s.hw.mcWatchdog k }) ∧
      (∀ (k : Core), exec (.mcAdd k) s = .next { s with hw := s.hw.mcRun k .add (semR 1 (· + ·)) }) ∧
      (∀ (k : Core), exec (.mcSub k) s = .next { s with hw := s.hw.mcRun k .sub (semR 1 (· - ·)) }) ∧
      (∀ (k : Core), exec (.mcAdds k) s = .next { s with hw := s.hw.mcRun k .adds (semR 1 fun a b => sat32 (a.toInt + b.toInt)) }) ∧
      (∀ (k : Core), exec (.mcSubs k) s = .next { s with hw := s.hw.mcRun k .subs (semR 1 fun a b => sat32 (a.toInt - b.toInt)) }) ∧
      (∀ (k : Core), exec (.mcAnd k) s = .next { s with hw := s.hw.mcRun k .and (semR 1 (· &&& ·)) }) ∧
      (∀ (k : Core), exec (.mcOr k) s = .next { s with hw := s.hw.mcRun k .or (semR 1 (· ||| ·)) }) ∧
      (∀ (k : Core), exec (.mcXor k) s = .next { s with hw := s.hw.mcRun k .xor (semR 1 (· ^^^ ·)) }) ∧
      (∀ (k : Core), exec (.mcShl k) s = .next { s with hw := s.hw.mcRun k .shl (semR 1 fun a b => a <<< bits b 4 0) }) ∧
      (∀ (k : Core), exec (.mcShr k) s = .next { s with hw := s.hw.mcRun k .shr (semR 1 fun a b => a >>> bits b 4 0) }) ∧
      (∀ (k : Core), exec (.mcSra k) s = .next { s with hw := s.hw.mcRun k .sra (semR 1 fun a b => a.sshiftRight (bits b 4 0)) }) ∧
      (∀ (k : Core), exec (.mcMul k) s = .next { s with hw := s.hw.mcRun k .mul (semR 2 (· * ·)) }) ∧
      (∀ (k : Core), exec (.mcMulq k) s = .next { s with hw := s.hw.mcRun k .mulq semMulq }) ∧
      (∀ (k : Core), exec (.mcMin k) s = .next { s with hw := s.hw.mcRun k .min (semR 1 fun a b => if a.toInt ≤ b.toInt then a else b) }) ∧
      (∀ (k : Core), exec (.mcMax k) s = .next { s with hw := s.hw.mcRun k .max (semR 1 fun a b => if a.toInt ≤ b.toInt then b else a) }) ∧
      (∀ (k : Core), exec (.mcSat24 k) s = .next { s with hw := s.hw.mcRun k .sat24 (semI fun a => wInt (sat24 a.toInt)) }) ∧
      (∀ (k : Core), exec (.mcSlt k) s = .next { s with hw := s.hw.mcRun k .slt (semR 1 fun a b => if a.toInt < b.toInt then 1#32 else 0#32) }) ∧
      (∀ (k : Core), exec (.mcAddi k) s = .next { s with hw := s.hw.mcRun k .addi (semImm fun a i => a + i.simm) }) ∧
      (∀ (k : Core), exec (.mcAndi k) s = .next { s with hw := s.hw.mcRun k .andi (semImm fun a i => a &&& i.uimm) }) ∧
      (∀ (k : Core), exec (.mcOri k) s = .next { s with hw := s.hw.mcRun k .ori (semImm fun a i => a ||| i.uimm) }) ∧
      (∀ (k : Core), exec (.mcXori k) s = .next { s with hw := s.hw.mcRun k .xori (semImm fun a i => a ^^^ i.uimm) }) ∧
      (∀ (k : Core), exec (.mcShli k) s = .next { s with hw := s.hw.mcRun k .shli (semImm fun a i => a <<< (i.low % 32)) }) ∧
      (∀ (k : Core), exec (.mcShri k) s = .next { s with hw := s.hw.mcRun k .shri (semImm fun a i => a >>> (i.low % 32)) }) ∧
      (∀ (k : Core), exec (.mcSrai k) s = .next { s with hw := s.hw.mcRun k .srai (semImm fun a i => a.sshiftRight (i.low % 32)) }) ∧
      (∀ (k : Core), exec (.mcLui k) s = .next { s with hw := s.hw.mcRun k .lui (semImm fun _ i => w32 (i.low * 2 ^ 14)) }) ∧
      (∀ (k : Core), exec (.mcExt k) s = .next { s with hw := s.hw.mcRun k .ext (semImm fun a i => extVal a i.low) }) ∧
      (∀ (k : Core), exec (.mcIns k) s = .next { s with hw := s.hw.mcRun k .ins semIns }) ∧
      (∀ (k : Core), exec (.mcLd k) s = .next { s with hw := s.hw.mcRun k .ld semLd }) ∧
      (∀ (k : Core), exec (.mcSt k) s = .next { s with hw := s.hw.mcRun k .st semSt }) ∧
      (∀ (k : Core), exec (.mcLdb k) s = .next { s with hw := s.hw.mcRun k .ldb semLdb }) ∧
      (∀ (k : Core), exec (.mcStb k) s = .next { s with hw := s.hw.mcRun k .stb semStb }) ∧
      (∀ (k : Core), exec (.mcRadd k) s = .next { s with hw := s.hw.mcRun k .radd semRadd }) ∧
      (∀ (k : Core), exec (.mcBeq k) s = .next { s with hw := s.hw.mcRun k .beq (semBranch (· == ·)) }) ∧
      (∀ (k : Core), exec (.mcBne k) s = .next { s with hw := s.hw.mcRun k .bne (semBranch (· != ·)) }) ∧
      (∀ (k : Core), exec (.mcBlt k) s = .next { s with hw := s.hw.mcRun k .blt (semBranch fun a b => decide (a.toInt < b.toInt)) }) ∧
      (∀ (k : Core), exec (.mcBge k) s = .next { s with hw := s.hw.mcRun k .bge (semBranch fun a b => decide (b.toInt ≤ a.toInt)) }) ∧
      (∀ (k : Core), exec (.mcJmp k) s = .next { s with hw := s.hw.mcRun k .jmp (fun h _ i => .done h 2 (some i.tgt)) }) ∧
      (∀ (k : Core), exec (.mcJal k) s = .next { s with hw := s.hw.mcRun k .jal semJal }) ∧
      (∀ (k : Core), exec (.mcJr k) s = .next { s with hw := s.hw.mcRun k .jr (fun h k i => .done h 2 (some (bits (h.mcReg k i.f1) 9 0))) }) ∧
      (∀ (k : Core), exec (.mcEnd k) s = .next { s with hw := s.hw.mcRun k .endh (fun h _ _ => .ended h) }) ∧
      (∀ (k : Core), exec (.mcEmit k) s = .next { s with hw := s.hw.mcRun k .emit semEmit }) ∧
      (∀ (k : Core), exec (.mcChanListen k) s = .next { s with hw := s.hw.mcRun k .chanListen semListen }) ∧
      (∀ (k : Core), exec (.mcChanOpen k) s =
        .next { s with hw := s.hw.mcRun k .chanOpen (semChan 4 fun h e a b => h.chanOpen e (bits a 19 16) (bits a 13 8) (bits a 5 0) (bits b 7 0)) }) ∧
      (∀ (k : Core), exec (.mcChanSend k) s = .next { s with hw := s.hw.mcRun k .chanSend semSend }) ∧
      (∀ (k : Core), exec (.mcChanClose k) s = .next { s with hw := s.hw.mcRun k .chanClose semClose }) ∧
      (∀ (k : Core), exec (.mcChanStatus k) s = .next { s with hw := s.hw.mcRun k .chanStatus (semChan 1 fun h e a _ => h.chanStatus e a.toNat) }) ∧
      (∀ (k : Core), exec (.mcRand k) s = .next { s with hw := s.hw.mcRun k .rand semRand }) ∧
      (∀ (k : Core), exec (.mcCsr k) s = .next { s with hw := s.hw.mcRun k .csr (fun h k i => .done (h.mcSet k i.f1 (h.csrVal k i.low)) 1 none) }) ∧
      (∀ (k : Core), exec (.mcTrap k) s = .next { s with hw := s.hw.mcRun k .trap (fun h _ i => .abort h 4 (i.low % 256)) }) ∧
      (∀ (c : Cluster) (busy : Bool), exec (.entryLookup c busy) s = .next { s with hw := s.hw.entryLookup c busy }) ∧
      (∀ (c : Cluster), exec (.dripLookupAdmit c) s = .next { s with hw := s.hw.admitDrip c 1 }) ∧
      (∀ (k : Core), exec (.listOfferStream k) s = .next { s with hw := s.hw.listOffer k }) ∧
      (∀ (c : Cluster) (b : Fin 32), exec (.bankHandoverComplete c b) s = .next { s with hw := s.hw.handoverDone c b }) ∧
      (∀ (c : Cluster), exec (.portBRetry c) s = .next { s with hw := s.hw.portBRetry c }) ∧
      (∀ (c : Cluster) (busy wrote : BitVec 32), exec (.scrubLineVisit c busy wrote) s = .next { s with hw := s.hw.scrubVisit c busy wrote }) ∧
      (∀ (c : Cluster) (b : Fin 32), exec (.bankWakeComplete c b) s = .next { s with hw := s.hw.bankWakeDone c b }) ∧
      (∀ (c : Cluster) (err : SlotErr), exec (.fabricSlot c err) s = .next { s with hw := s.hw.fabricSlot c err }) ∧
      (∀ (c : Cluster) (flowErr destErr : Fin 3), exec (.injectionOffer c flowErr destErr) s =
        .next { s with hw := s.hw.injectionOffer c flowErr destErr }) ∧
      (exec .lastFrameEnd s = .next { s with hw := s.hw.lastFrameEnd }) ∧
      (∀ (c : Cluster) (err : Fin 3), exec (.holdResidueMove c err) s = .next { s with hw := (s.hw.residueMove c err).settleDone c }) ∧
      (∀ (c : Cluster), exec (.spillPortMove c) s = .next { s with hw := s.hw.spillMove c }) ∧
      (∀ (c : Cluster) (err : Fin 3), exec (.routerTableScrub c err) s = .next { s with hw := s.hw.tableScrub c err }) ∧
      (∀ (c : Cluster) (port : Fin 6) (rsp : Bool) (err : Fin 3), exec (.dripFlitForward c port rsp err) s =
        .next { s with hw := s.hw.dripForward c port (b2n rsp) err }) ∧
      (∀ (c : Cluster) (ep : Fin 36), exec (.evtPacketSend c ep) s = .next { s with hw := s.hw.evtSend (64 * c.val + ep.val) }) ∧
      (∀ (c : Cluster), exec (.dripEvtRx c) s = .next { s with hw := s.hw.evtRx c }) ∧
      (∀ (c : Cluster), exec (.cfgPacketRx c) s = .next { s with hw := s.hw.cfgPacket c }) ∧
      (∀ (c : Cluster), exec (.msgSegmentRx c) s = .next { s with hw := s.hw.msgRx c }) ∧
      (∀ (c : Cluster), exec (.ctlqOpenRx c) s = .next { s with hw := s.hw.withCtlq c opOPEN fun e p0 p1 h => h.openRx e p0 p1 }) ∧
      (∀ (c : Cluster), exec (.ctlqCloseRx c) s = .next { s with hw := s.hw.withCtlq c opCLOSE fun e p0 p1 h => h.closeRx e p0 p1 }) ∧
      (∀ (c : Cluster), exec (.ctlsOpenAckRx c) s = .next { s with hw := s.hw.openAcked c }) ∧
      (∀ (c : Cluster), exec (.ctlsCloseAckRx c) s =
        .next { s with hw := s.hw.withCtls c opCLOSEACK fun e t k _ h => if k.op = 3 then (h.setHandle e k.handle {}).ticketDone e t else h }) ∧
      (∀ (c : Cluster), exec (.ctlsAckRx c) s =
        .next { s with hw := s.hw.withCtls c opACK fun e t k _ h => if k.op = 2 then h.ticketDone e t else h }) ∧
      (∀ (c : Cluster), exec (.ctlsNakRx c) s = .next { s with hw := s.hw.withCtls c opNAK fun e t k p1 h => h.nakRx e t k (bits p1 27 24) }) ∧
      (∀ (c : Cluster), exec (.wretRx c) s = .next { s with hw := s.hw.wretRx c }) ∧
      (∀ (c : Cluster) (ep : Fin 36), exec (.dripWinTimeout c ep) s = .next { s with hw := s.hw.winTimeout (64 * c.val + ep.val) }) ∧
      (∀ (k : Link) (inward : Bool), exec (.relayForward k inward) s = .next { s with hw := if inward then s.hw.relayIn k else s.hw.relayOut k }) ∧
      (∀ (c : Cluster) (busy : Bool), exec (.preTraceWrite c busy) s = .next { s with hw := s.hw.preVisit c busy }) ∧
      (∀ (e : PassEnd), exec (.roastPass1Complete e) s = .next { s with hw := s.hw.roastPass1 e.cluster e.lost.toNat }) ∧
      (∀ (c : Cluster), exec (.roastReciprocalComplete c) s = .next { s with hw := s.hw.roastRecip c }) ∧
      (∀ (e : PassEnd), exec (.roastPass2Complete e) s = .next { s with hw := s.hw.roastPass2 e.cluster e.lost.toNat }) ∧
      (∀ (c : Cluster), exec (.roastEnd c) s = .next { s with hw := s.hw.roastEnd c }) ∧
      (∀ (c : Cluster), exec (.roastOverrun c) s = .next { s with hw := s.hw.roastOverrun c }) ∧
      (∀ (c : Cluster), exec (.firmwareCheckpoint c) s = .next { s with hw := s.hw.fwCheckpoint c }) ∧
      (∀ (code : BitVec 12), exec (.holdupCheck code) s =
        .next { s with hw := if s.hw.fw.huFrom.isSome then s.hw else s.hw.holdupSample code.toNat }) ∧
      (∀ (code : BitVec 12), exec (.huDeferExpiry code) s = .next { s with hw := s.hw.holdupAgain code.toNat }) ∧
      (exec .huMaxwaitExpiry s = .next { s with hw := s.hw.holdupGiveUp }) ∧
      (∀ (k : CsiId) (p : CsiPacket), exec (.csiPacketRx k p) s = .next { s with hw := s.hw.csiPacket k p }) ∧
      (∀ (k : CsiId) (vc : Fin 4), exec (.csiFrameStart k vc) s = .next { s with hw := s.hw.frameStart k vc }) ∧
      (∀ (k : CsiId) (vc : Fin 4), exec (.csiFrameEnd k vc) s = .next { s with hw := s.hw.frameEndPkt k vc }) ∧
      (∀ (k : CsiId), exec (.decoderWord k) s = .next { s with hw := s.hw.decodeWord k }) ∧
      (∀ (q : Quad) (ftErr limErr mergeErr : Fin 3), exec (.rawEventIngest q ftErr limErr mergeErr) s =
        .next { s with hw := s.hw.ingest q ftErr limErr mergeErr }) ∧
      (∀ (q : Quad) (err : Fin 3), exec (.ingressOffer q err) s = .next { s with hw := s.hw.ingOffer q err }) ∧
      (∀ (b d : Fin 8), exec (.pollStart b d) s = .next { s with hw := s.hw.pollStart b d }) ∧
      (∀ (b : Fin 8) (bytes : List Byte) (err : Bool), exec (.pollComplete b bytes err) s = .next { s with hw := s.hw.pollComplete b bytes err }) ∧
      (∀ (value : BitVec 12), exec (.adcConversionEnd value) s = .next { s with hw := s.hw.adcEnd value.toNat }) ∧
      (∀ (g : Fin 32) (level : Bool), exec (.gpioFilterAccept g level) s = .next { s with hw := s.hw.gpioAccept g level 16 0 }) ∧
      (∀ (k : TmrId), exec (.tmrGatedTick k) s = .next { s with hw := s.hw.tmrTick k }) ∧
      (∀ (k : TmrId), exec (.tmrWrap k) s = .next { s with hw := s.hw.tmrWrap k }) ∧
      (∀ (k : TmrId) (cmp1 : Bool), exec (.tmrMatch k cmp1) s = .next { s with hw := s.hw.tmrMatch k cmp1 }) ∧
      (∀ (k : TmrId) (read : Bool), exec (.tmrCaptureRise k read) s = .next { s with hw := s.hw.capPinEdge k true (b2n read) }) ∧
      (∀ (k : TmrId) (read : Fin 3), exec (.tmrCaptureFall k read) s = .next { s with hw := s.hw.capPinEdge k false read }) ∧
      (∀ (k : TmrId), exec (.actTimeout k) s = .next { s with hw := s.hw.actTimeout k }) ∧
      (∀ (k : TmrId), exec (.xbTmrStart k) s = .next { s with hw := s.hw.withPulse (4 * k.val) fun h => h.xbStart k }) ∧
      (∀ (k : TmrId), exec (.xbTmrStop k) s = .next { s with hw := s.hw.withPulse (4 * k.val + 1) fun h => h.xbStop k }) ∧
      (∀ (k : TmrId), exec (.xbTmrClear k) s = .next { s with hw := s.hw.withPulse (4 * k.val + 2) fun h => h.setReg TMR_COUNT k 0#32 }) ∧
      (∀ (j : Fin 32), exec (.xbPulseLatch j) s = .next { s with hw := s.hw.withPulse (0x40 + j.val) fun h => h.pulseLatch j }) ∧
      (∀ (e : Quad) (c : Fin 16), exec (.xbDmaTrigger e c) s =
        .next { s with hw := s.hw.withPulse (0x60 + 16 * e.val + c.val) fun h => h.dmaTrigger (16 * e.val + c.val) }) ∧
      (∀ (k : CsiId), exec (.xbFrameRel k) s = .next { s with hw := s.hw.withPulse (0xA0 + k.val) fun h => h.frameRel k }) ∧
      (∀ (j : Fin 32), exec (.xbInject j) s = .next { s with hw := s.hw.withPulse (0xA8 + j.val) fun h => h.injPulse j }) ∧
      (∀ (e : Quad) (c : Fin 16), exec (.dmaGranule e c) s = .next { s with hw := s.hw.dmaTurnOf (16 * e.val + c.val) }) ∧
      (∀ (e : Quad) (c : Fin 16), exec (.dmaComplete e c) s = .next { s with hw := s.hw.dmaComplete (16 * e.val + c.val) }) ∧
      (∀ who addr write, exec (.mgmtAccessTimeout who addr write) s = .next { s with hw := s.hw.accessTimeout who addr write }) ∧
      (exec .bootSolicit s = .next { s with hw := s.hw.bootSolicit }) ∧
      (exec .bootOfferRx s = .next { s with hw := s.hw.bootOffer }) ∧
      (exec .bootDataRx s = .next { s with hw := s.hw.bootData }) ∧
      (∀ (sigOk : Bool) (recs : List CfgRec) (fails : List (Cluster × BitVec 34)), exec (.netBootImageCheck sigOk recs fails) s =
        .next { s with hw := s.hw.netCheck sigOk recs fails }) ∧
      (∀ (q : Quad) (adj : BitVec 32) (reply : Option (List Byte)), exec (.gptpFrame q adj reply) s =
        .next { s with hw := s.hw.takeGptp q adj.toInt reply }) ∧
      (∀ (q : Quad), exec (.macsecKeyMessage q) s = .next { s with hw := s.hw.takeKeyMessage q }) ∧
      (∀ (q : Quad) (reqs : List DdrReq), exec (.ddrRequestAccept q reqs) s = .next { s with hw := s.hw.ddrAccept q reqs }) ∧
      (∀ (q : Quad) (hot : Bool), exec (.ddrRefresh q hot) s =
        .next { s with hw := if s.hw.ddrSelf q then s.hw else s.hw.setFlag DDR_STAT q 2 hot }) ∧
      (∀ (q : Quad) (wrote : Bool), exec (.ddrPatrolScrub q wrote) s = .next { s with hw := s.hw.ddrPatrol q wrote }) ∧
      (∀ (q : Quad) (ok : Bool), exec (.ddrTrainingComplete q ok) s = .next { s with hw := s.hw.ddrTrained q ok }) ∧
      (∀ (q : Quad), exec (.ddrPeriodicRetrain q) s = .next { s with hw := s.hw.ddrRetrain q }) ∧
      (∀ (q : Quad) (fail0 fail1 : BitVec 4), exec (.sdCalibration q fail0 fail1) s =
        .next { s with hw := (s.hw.sdEdge q 0 fail0.toNat).sdEdge q 1 fail1.toNat }) ∧
      (∀ (k : Link) (fec : Fin 3) (blocks : List ScBlock), exec (.scGroupRx k fec blocks) s = .next { s with hw := s.hw.scGroup k fec blocks }) ∧
      (∀ (k : Link) (pkg : Fin 16) (peer : Link) (lat : BitVec 9) (rev : Bool) (pol : BitVec 4), exec (.scTrainingComplete k pkg peer lat rev pol) s =
        .next { s with hw := s.hw.scTrained k pkg peer lat.toNat rev pol.toNat }) ∧
      (∀ (k : Link), exec (.scBlockLockLoss k) s = .next { s with hw := s.hw.scLose k }) ∧
      (∀ (k : Link) (ua : Bool), exec (.scUaChange k ua) s = .next { s with hw := s.hw.uaChange k ua }) ∧
      (∀ (c : Cluster), exec (.clSteepEntryDone c) s =
        .next { s with hw := if (s.hw.cl c).pst = .toSteep then ((s.hw.clSeqRan c 6800).clSteep c false).clSettle c 1 else s.hw }) ∧
      (∀ (c : Cluster), exec (.clSteepExitDone c) s =
        .next { s with hw := if (s.hw.cl c).pst = .fromSteep then ((s.hw.clSeqRan c 10000).clBrew c).clSettle c 0 else s.hw }) ∧
      (∀ (c : Cluster), exec (.clColdEntryDone c) s =
        .next { s with hw := if (s.hw.cl c).pst = .toCold then (s.hw.clColdNow c).clSettle c 2 else s.hw }) ∧
      (∀ (c : Cluster), exec (.clColdExitDone c) s = .next { s with hw := s.hw.clColdExit c }) ∧
      (exec .pkgSteepEntryDone s = .next { s with hw := s.hw.pkgSteepEnters }) ∧
      (∀ (c : Cluster) (vm ended : Bool), exec (.regOvercurrent c vm ended) s = .next { s with hw := s.hw.regOc c vm ended }) ∧
      (∀ (q : Quad) (dpll lost : Bool), exec (.pllDeviation q dpll lost) s = .next { s with hw := s.hw.pllDeviates q dpll lost }) ∧
      (∀ (fails : List (Cluster × BitVec 34)), exec (.computeResetIntervalEnd fails) s = .next { s with hw := s.hw.rstIntervalEnd fails }) ∧
      (∀ (c : Cluster), exec (.clusterResetEnd c) s = .next { s with hw := s.hw.clusterResetEnd c }) ∧
      (∀ (k : Core), exec (.coreResetEnd k) s = .next { s with hw := s.hw.coreResetEnd k }) ∧
      (∀ (answers sigOk : Bool) (recs : List CfgRec) (fails : List (Cluster × BitVec 34)), exec (.romFlashBoot answers sigOk recs fails) s =
        .next { s with hw := s.hw.flashBoot answers sigOk recs fails }) ∧
      (∀ (image : List Byte), exec (.fwImageUpdateMsg image) s = .next { s with hw := s.hw.imageUpdate image }) ∧
      (∀ (r : LicRec), exec (.licenceRecordMsg r) s = .next { s with hw := s.hw.licenceMsg r }) ∧
      (∀ (n : Fin 16) (img : Image), exec (.imageLoadMsg n img) s = .next { s with hw := s.hw.loadAsk n img }) ∧
      (exec .imageLoadDone s = .next { s with hw := s.hw.loadDone }) ∧
      (∀ (ok : Bool), exec (.fuseBlowComplete ok) s = .next { s with hw := s.hw.fuseBlown ok }) ∧
      (∀ (sel : Fin 4), exec (.fuseBlowMsg sel) s = .next { s with hw := s.hw.fuseAsk sel }) ∧
      (exec .faultRaise s = .next { s with hw := s.hw.faultRaise }) ∧
      (∀ (k : Core) (whole : Bool), exec (.containmentRestore k whole) s =
        .next { s with hw := if whole then s.hw.restoreCl (k.val / 32) else s.hw.restoreCore k }) ∧
      (∀ (fails : Bool), exec (.sev3Restore fails) s = .next { s with hw := s.hw.sev3Restore fails }) ∧
      (exec .quietPeriodExpiry s = .next { s with hw := s.hw.quietExpires }) ∧
      (∀ (i : Fin 256) (rose : Bool), exec (.stormWindowExpiry i rose) s = .next { s with hw := s.hw.guardCloses i rose }) ∧
      (exec .switchFlushDone s = .next { s with hw := s.hw.flushDone }) ∧
      (exec .switchRoastWaitDone s = .next { s with hw := s.hw.roastWaited }) ∧
      (exec .switchSaveDone s = .next { s with hw := s.hw.switchSaved }) ∧
      (exec .switchScrubDone s = .next { s with hw := s.hw.switchScrubbed }) ∧
      (exec .switchLoadDone s = .next { s with hw := s.hw.switchLoaded }) ∧
      (∀ (n : Fin 16), exec (.ctxDestroyMsg n) s = .next { s with hw := s.hw.destroyAsk n }) ∧
      (∀ (n : Fin 16), exec (.ctxDestroyDone n) s = .next { s with hw := s.hw.destroyEnd n }) ∧
      (∀ (ok : Bool), exec (.attSignDone ok) s = .next { s with hw := s.hw.attSigned ok }) ∧
      (exec .stateCheckpoint s = .next { s with hw := s.hw.stateCkpt }) ∧
      (∀ (m : Quad), exec (.debugHaltRequest m) s = .next { s with hw := s.hw.debugHalt m }) ∧
      (∀ (m : Quad), exec (.debugResume m) s = .next { s with hw := { s.hw with mpHalted := setBit s.hw.mpHalted m false } }) ∧
      (∀ (k : CsiId), exec (.csiUlpsEntry k) s = .next { s with hw := s.hw.updCsi k fun s => { s with ulps := true } }) ∧
      (∀ (k : CsiId), exec (.csiUlpsExit k) s = .next { s with hw := s.hw.updCsi k fun s => { s with ulps := false } })) ∧
    (∀ (q : Quad) (f : EthFrame), (s.hw.powered = true ∨ s.hw.kept q = true) → exec (.ethFrameRx q f) s = .next { s with hw := s.hw.ethRx q f }) ∧
    (∀ (q : Quad), (s.hw.powered = true ∨ s.hw.kept q = true) → exec (.rxDispatch q) s = .next { s with hw := s.hw.rxDispatch q }) ∧
    (∀ (q : Quad), (s.hw.powered = true ∨ s.hw.kept q = true) → exec (.rcpReqRx q) s = .next { s with hw := s.hw.rcpReq q }) ∧
    (∀ (q : Quad), (s.hw.powered = true ∨ s.hw.kept q = true) → exec (.rcpSyncRx q) s = .next { s with hw := s.hw.rcpSync q }) ∧
    (∀ (q : Quad), (s.hw.powered = true ∨ s.hw.kept q = true) → exec (.rcpFinRx q) s =
      .next { s with hw := s.hw.withSession q (· == kFIN) fun i _ h => h.endSession q i }) ∧
    (∀ (q : Quad), (s.hw.powered = true ∨ s.hw.kept q = true) → exec (.rcpAckRx q) s =
      .next { s with hw := s.hw.withSession q onlyAcks fun _ _ h => h }) ∧
    (∀ (q : Quad) (i : Fin 4), (s.hw.powered = true ∨ s.hw.kept q = true) → exec (.rcpSessionIdle q i) s =
      .next { s with hw := s.hw.sessionIdle q i }) ∧
    (∀ (o : PortReads), (s.hw.powered = true ∨ s.hw.kept o.port = true) → exec (.rcpRead o) s =
      .next { s with hw := s.hw.rcpReadOp o.port o.same }) ∧
    (∀ (o : PortWrites), (s.hw.powered = true ∨ s.hw.kept o.port = true) → exec (.rcpWrite o) s =
      .next { s with hw := s.hw.rcpWriteOp o.port o.same }) ∧
    (∀ (o : PortRmw), (s.hw.powered = true ∨ s.hw.kept o.port = true) → exec (.rcpRmw o) s =
      .next { s with hw := s.hw.rcpRmwOp o.port o.rsame o.wsame }) ∧
    (∀ (q : Quad) (p : Poll), (s.hw.powered = true ∨ s.hw.kept q = true) → exec (.rcpWait q p) s =
      .next { s with hw := s.hw.withOp q oWAIT fun r ws h => h.rcpPoll q p.expired p.same r ws }) ∧
    (∀ (q : Quad), (s.hw.powered = true ∨ s.hw.kept q = true) → exec (.rcpOpen q) s =
      .next { s with hw := s.hw.withOp q oOPEN fun r ws h => h.rcpOpen q r ws }) ∧
    (∀ (q : Quad), (s.hw.powered = true ∨ s.hw.kept q = true) → exec (.rcpSend q) s =
      .next { s with hw := s.hw.withOp q oSEND fun r ws h => h.rcpSendOp q r ws }) ∧
    (∀ (q : Quad), (s.hw.powered = true ∨ s.hw.kept q = true) → exec (.rcpClose q) s =
      .next { s with hw := s.hw.withOp q oCLOSE fun r ws h => h.rcpCloseOp q r ws }) ∧
    (∀ (q : Quad), (s.hw.powered = true ∨ s.hw.kept q = true) → exec (.rcpListen q) s =
      .next { s with hw := s.hw.withOp q oLISTEN fun r ws h => h.rcpListenOp q r ws }) ∧
    (∀ (q : Quad) (i : Fin 4), (s.hw.powered = true ∨ s.hw.kept q = true) → exec (.rcpMsgInSend q i) s =
      .next { s with hw := s.hw.msgInSend q i }) ∧
    (∀ (q : Quad) (i : Fin 4), (s.hw.powered = true ∨ s.hw.kept q = true) → exec (.rcpRtoExpiry q i) s = .next { s with hw := s.hw.rcpRto q i }) ∧
    (∀ (q : Quad), (s.hw.powered = true ∨ s.hw.kept q = true) → exec (.refInFrameRx q) s = .next { s with hw := s.hw.refIn q }) ∧
    (∀ (q : Quad), (s.hw.powered = true ∨ s.hw.kept q = true) → exec (.txFrameStart q) s = .next { s with hw := s.hw.txNext q }) ∧
    (∀ (q : Quad), (s.hw.powered = true ∨ s.hw.kept q = true) → exec (.gclListSwitch q) s = .next { s with hw := s.hw.gclSwitch q }) ∧
    (∀ (q : Quad) (master : Bool), (s.hw.powered = true ∨ s.hw.kept q = true) → exec (.linkUp q master) s =
      .next { s with hw := s.hw.linkRise q master }) ∧
    (∀ (q : Quad), (s.hw.powered = true ∨ s.hw.kept q = true) → exec (.linkDown q) s = .next { s with hw := s.hw.linkFall q }) ∧
    (∀ (i : Fin 16), (s.hw.powered = true ∨ s.hw.kept (i.val % 4) = true) → exec (.pllLocked i) s = .next { s with hw := s.hw.pllLock i }) ∧
    (∀ (q : Quad), (s.hw.powered = true ∨ s.hw.kept q = true) → exec (.rcpChanTimeout q) s = .next { s with hw := s.hw.chanTimeout q }) ∧
    (∀ (q : Quad), exec (.ddrSelfRefreshExit q) s = .next { s with hw := if s.hw.ddrSelf q ∧ s.hw.mayExitSelf then s.hw.ddrSelfExit q else s.hw }) ∧
    (∀ (ticks : Word), exec (.pkgSteepExitDone ticks) s =
      .next { s with hw := if s.hw.pkg.pst = .fromSteep ∧ s.hw.pkg.inReset = false then (s.hw.pkgSteepExit ticks.toNat).pkgSettle 0 else s.hw }) ∧
    (exec .pkgColdEntryDone s =
      .next { s with hw := if s.hw.pkg.pst = .toCold ∧ s.hw.pkg.inReset = false then (s.hw.pkgCold).pkgSettle 2 else s.hw }) ∧
    (∀ (digestOk : Bool) (recs : List CfgRec) (fails : List (Cluster × BitVec 34)), exec (.pkgColdExitDone digestOk recs fails) s =
      .next { s with hw := s.hw.coldExit digestOk recs fails }) ∧
    (∀ (g : Fin 8) (rise : Bool), exec (.wakeGpioEdge g rise) s =
      .next { s with hw := if s.hw.flag WAKE_EN 0 g ∧ s.hw.flag WAKE_EDGE 0 (2 * g + b2n (!rise)) then s.hw.pkgWake g else s.hw }) ∧
    (exec .aoWakeTmrExpiry s = .next { s with hw := s.hw.aoWakeExpires }) ∧
    (∀ (c : Cluster) (vm : Bool), exec (.brownout c vm) s = .next { s with hw := s.hw.brownout c vm }) ∧
    (∀ (c : Cluster) (temp : BitVec 12), exec (.thermHiCross c temp) s = .next { s with hw := s.hw.thermRead c temp }) ∧
    (∀ (c : Cluster) (temp : BitVec 12), exec (.thermalShutdown c temp) s = .next { s with hw := s.hw.thermShut c temp }) ∧
    (exec .clk32Fail s = .next { s with hw := ((s.hw.setFlag REF_STAT 0 1 false).setFlag REF_STAT 0 2 true).raisePkg fClk32Fail }) ∧
    (exec .powerOnReset s = .next { s with hw := s.hw.wipe true }) ∧
    (exec .resetNAssert s = .next { s with hw := s.hw.resetAssert }) ∧
    (∀ (vio33 mismatch : Bool), exec (.resetNRelease vio33 mismatch) s = .next { s with hw := s.hw.resetRelease vio33 mismatch }) ∧
    (exec .pwrGoodRise s = .next { s with hw := s.hw.updPkg fun p => { p with pwrGood := true, railWait := false } }) ∧
    (∀ who r u value same, s.Grants who r u true → exec (.registerWrite who (addrOf r u) ⟨value, same⟩) s =
      .next { s with hw := s.hw.wrote who r u value same }) ∧
    (∀ who r u same, s.Grants who r u false → exec (.rcCounterRead who (addrOf r u) same) s = .next { s with hw := s.hw.looked who r u same }) ∧
    (∀ who addr value r u, hdrAddr addr 0x008 = addrOf r u → s.Grants who r u true → exec (.pgSoftRst who addr value) s =
      .next { s with hw := s.hw.wrote who r u (setBit value 1 true) }) ∧
    (∀ who addr r u, s.Grants who r u true → (hdrAddr addr 0x01C = addrOf r u → exec (.pgLockSet who addr false) s =
      .next { s with hw := s.hw.wrote who r u 1#32 }) ∧ (hdrAddr addr 0x008 = addrOf r u → exec (.pgLockSet who addr true) s =
      .next { s with hw := s.hw.wrote who r u (w32 (4 + b2n (s.hw.enAt addr))) })) ∧
    (∀ who addr value r u, hdrAddr addr 0x01C = addrOf r u → s.Grants who r u true → exec (.pgLockClear who addr value) s =
      .next { s with hw := s.hw.wrote who r u (setBit value 0 false) }) ∧
    (∀ (who : Requester) (k : Core), (∀ v, s.Grants who MC_STORE_DATA k true → exec (.mcStoreData who k (some v)) s =
      .next { s with hw := s.hw.wrote who MC_STORE_DATA k v }) ∧ (s.Grants who MC_STORE_DATA k false → exec (.mcStoreData who k none) s =
      .next { s with hw := s.hw.looked who MC_STORE_DATA k })) ∧
    (∀ (who : Requester) (k : Core), (∀ v, s.Grants who MC_DM_DATA k true → exec (.mcDmData who k (some v)) s =
      .next { s with hw := s.hw.wrote who MC_DM_DATA k v }) ∧ (s.Grants who MC_DM_DATA k false → exec (.mcDmData who k none) s =
      .next { s with hw := s.hw.looked who MC_DM_DATA k })) ∧
    (∀ who (c : Cluster) (wr : Option Word) busy, s.Grants who BANKWIN_DATA c wr.isSome → exec (.bankwinData who c wr busy) s =
      .next { s with hw := (s.hw.bankwin c wr busy).1.told (s.hw.bankwin c wr busy).2 }) ∧
    (∀ (who : Requester) (c : Cluster), (∀ v, s.Grants who GT_DATA c true → exec (.gtData who c (some v)) s =
      .next { s with hw := s.hw.wrote who GT_DATA c v }) ∧ (s.Grants who GT_DATA c false → exec (.gtData who c none) s =
      .next { s with hw := s.hw.looked who GT_DATA c })) ∧
    (∀ (who : Requester) (c : Cluster), (∀ v, s.Grants who FSEQ_DATA c true → exec (.fseqData who c (some v)) s =
      .next { s with hw := s.hw.wrote who FSEQ_DATA c v }) ∧ (s.Grants who FSEQ_DATA c false → exec (.fseqData who c none) s =
      .next { s with hw := s.hw.looked who FSEQ_DATA c })) ∧
    (∀ (who : Requester) (c : Cluster), (∀ v, s.Grants who FLOW_DATA c true → exec (.flowData who c (some v)) s =
      .next { s with hw := s.hw.wrote who FLOW_DATA c v }) ∧ (s.Grants who FLOW_DATA c false → exec (.flowData who c none) s =
      .next { s with hw := s.hw.looked who FLOW_DATA c })) ∧
    (∀ (who : Requester) (c : Cluster), (∀ v, s.Grants who DEST_DATA c true → exec (.destData who c (some v)) s =
      .next { s with hw := s.hw.wrote who DEST_DATA c v }) ∧ (s.Grants who DEST_DATA c false → exec (.destData who c none) s =
      .next { s with hw := s.hw.looked who DEST_DATA c })) ∧
    (∀ (who : Requester) (c : Cluster), (∀ v, s.Grants who DTREE_DATA c true → exec (.dtreeData who c (some v)) s =
      .next { s with hw := s.hw.wrote who DTREE_DATA c v }) ∧ (s.Grants who DTREE_DATA c false → exec (.dtreeData who c none) s =
      .next { s with hw := s.hw.looked who DTREE_DATA c })) ∧
    (∀ (who : Requester) (c : Cluster), (∀ v, s.Grants who XTAG_DATA c true → exec (.xtagData who c (some v)) s =
      .next { s with hw := s.hw.wrote who XTAG_DATA c v }) ∧ (s.Grants who XTAG_DATA c false → exec (.xtagData who c none) s =
      .next { s with hw := s.hw.looked who XTAG_DATA c })) ∧
    (∀ (who : Requester) (c : Cluster), (∀ v, s.Grants who ITAG_DATA c true → exec (.itagData who c (some v)) s =
      .next { s with hw := s.hw.wrote who ITAG_DATA c v }) ∧ (s.Grants who ITAG_DATA c false → exec (.itagData who c none) s =
      .next { s with hw := s.hw.looked who ITAG_DATA c })) ∧
    (∀ (who : Requester) (c : Cluster), (∀ v, s.Grants who SEG_DATA c true → exec (.segData who c (some v)) s =
      .next { s with hw := s.hw.wrote who SEG_DATA c v }) ∧ (s.Grants who SEG_DATA c false → exec (.segData who c none) s =
      .next { s with hw := s.hw.looked who SEG_DATA c })) ∧
    (∀ (who : Requester) (c : Cluster), (∀ v, s.Grants who RULE_DATA c true → exec (.ruleData who c (some v)) s =
      .next { s with hw := s.hw.wrote who RULE_DATA c v }) ∧ (s.Grants who RULE_DATA c false → exec (.ruleData who c none) s =
      .next { s with hw := s.hw.looked who RULE_DATA c })) ∧
    (∀ (who : Requester) (k : CsiId), (∀ v, s.Grants who HOTPIX_DATA k true → exec (.hotpixData who k (some v)) s =
      .next { s with hw := s.hw.wrote who HOTPIX_DATA k v }) ∧ (s.Grants who HOTPIX_DATA k false → exec (.hotpixData who k none) s =
      .next { s with hw := s.hw.looked who HOTPIX_DATA k })) ∧
    (∀ (who : Requester) (q : Quad), (∀ v, s.Grants who FT_DATA q true → exec (.ftData who q (some v)) s =
      .next { s with hw := s.hw.wrote who FT_DATA q v }) ∧ (s.Grants who FT_DATA q false → exec (.ftData who q none) s =
      .next { s with hw := s.hw.looked who FT_DATA q })) ∧
    (∀ who (q : Quad) same, (∀ v, s.Grants who LIM_DATA q true → exec (.limData who q (.write v)) s =
      .next { s with hw := s.hw.wrote who LIM_DATA q v }) ∧ (s.Grants who LIM_DATA q false → exec (.limData who q (.read same)) s =
      .next { s with hw := s.hw.looked who LIM_DATA q same })) ∧
    (∀ (who : Requester), (∀ v, s.Grants who POLL_DATA 0 true → exec (.pollData who (some v)) s =
      .next { s with hw := s.hw.wrote who POLL_DATA 0 v }) ∧ (s.Grants who POLL_DATA 0 false → exec (.pollData who none) s =
      .next { s with hw := s.hw.looked who POLL_DATA 0 })) ∧
    (∀ (who : Requester), (∀ v, s.Grants who LCE_DATA 0 true → exec (.lceData who (some v)) s =
      .next { s with hw := s.hw.wrote who LCE_DATA 0 v }) ∧ (s.Grants who LCE_DATA 0 false → exec (.lceData who none) s =
      .next { s with hw := s.hw.looked who LCE_DATA 0 })) ∧
    (∀ (who : Requester), (∀ v, s.Grants who ACT_DATA 0 true → exec (.actData who (some v)) s =
      .next { s with hw := s.hw.wrote who ACT_DATA 0 v }) ∧ (s.Grants who ACT_DATA 0 false → exec (.actData who none) s =
      .next { s with hw := s.hw.looked who ACT_DATA 0 })) ∧
    (∀ (who : Requester) (q : Quad), (∀ v, s.Grants who GCL_DATA q true → exec (.gclData who q (some v)) s =
      .next { s with hw := s.hw.wrote who GCL_DATA q v }) ∧ (s.Grants who GCL_DATA q false → exec (.gclData who q none) s =
      .next { s with hw := s.hw.looked who GCL_DATA q })) ∧
    (∀ (who : Requester) (q : Quad), (∀ v, s.Grants who MS_SA_DATA q true → exec (.msSaData who q (some v)) s =
      .next { s with hw := s.hw.wrote who MS_SA_DATA q v }) ∧ (s.Grants who MS_SA_DATA q false → exec (.msSaData who q none) s =
      .next { s with hw := s.hw.looked who MS_SA_DATA q })) ∧
    (∀ (who : Requester), (∀ v, s.Grants who AOM_DATA 0 true → exec (.aomData who (some v)) s =
      .next { s with hw := s.hw.wrote who AOM_DATA 0 v }) ∧ (s.Grants who AOM_DATA 0 false → exec (.aomData who none) s =
      .next { s with hw := s.hw.looked who AOM_DATA 0 })) ∧
    (∀ (who : Requester), (∀ v, s.Grants who ATT_DATA 0 true → exec (.attData who (some v)) s =
      .next { s with hw := s.hw.wrote who ATT_DATA 0 v }) ∧ (s.Grants who ATT_DATA 0 false → exec (.attData who none) s =
      .next { s with hw := s.hw.looked who ATT_DATA 0 })) ∧
    (∀ (who : Requester), s.Grants who STEP_CTRL 0 true → exec (.stepRunStart who) s = .next { s with hw := s.hw.wrote who STEP_CTRL 0 1#32 }) ∧
    (∀ (who : Requester), s.Grants who STEP_CTRL 0 true → exec (.stepRunStop who) s = .next { s with hw := s.hw.wrote who STEP_CTRL 0 0#32 }) ∧
    (∀ (who : Requester) (run : Bool), s.Grants who STEP_CTRL 0 true → exec (.stepSingle who run) s =
      .next { s with hw := s.hw.wrote who STEP_CTRL 0 (w32 (2 + b2n run)) }) ∧
    (∀ (who : Requester) (k : Core) (value : Word), s.Grants who SLICE_CFG k true → exec (.sliceCfgWrite who k value) s =
      .next { s with hw := s.hw.wrote who SLICE_CFG k value }) ∧
    (∀ (who : Requester) (k : Core), s.Grants who PSET_CTRL k true → exec (.psetCommit who k) s =
      .next { s with hw := s.hw.wrote who PSET_CTRL k 1#32 }) ∧
    (∀ (who : Requester) (k : Core), s.Grants who PSET_CTRL k true → exec (.psetReadback who k) s =
      .next { s with hw := s.hw.wrote who PSET_CTRL k 2#32 }) ∧
    (∀ (who : Requester) (k : Core), s.Grants who PSET_CTRL k true → exec (.psetClrOvf who k) s =
      .next { s with hw := s.hw.wrote who PSET_CTRL k 4#32 }) ∧
    (∀ (who : Requester) (k : Core) (value : Word), s.Grants who CORE_LAYOUT k true → exec (.coreLayoutWrite who k value) s =
      .next { s with hw := s.hw.wrote who CORE_LAYOUT k value }) ∧
    (∀ (who : Requester) (c : Cluster) (i : Fin 32) (value : Word), s.Grants who (REMAP i) c true → exec (.remapWrite who c i value) s =
      .next { s with hw := s.hw.wrote who (REMAP i) c value }) ∧
    (∀ (who : Requester) (c : Cluster) (hi : Bool) (value : Word), s.Grants who (if hi then PHYS_RETIRE_HI else PHYS_RETIRE_LO) c true →
      exec (.physRetireWrite who c hi value) s = .next { s with hw := s.hw.wrote who (if hi then PHYS_RETIRE_HI else PHYS_RETIRE_LO) c value }) ∧
    (∀ (who : Requester) (k : Core) (value : Word), s.Grants who MC_SEED k true → exec (.mcSeedWrite who k value) s =
      .next { s with hw := s.hw.wrote who MC_SEED k value }) ∧
    (∀ (who : Requester) (c : Cluster) (b : Fin 32) (value : Word), s.Grants who (BANK_OWNER b) c true → exec (.bankOwnerWrite who c b value) s =
      .next { s with hw := s.hw.wrote who (BANK_OWNER b) c value }) ∧
    (∀ (who : Requester) (c : Cluster) (hi : Bool) (value : Word), s.Grants who (if hi then BANK_PWR_HI else BANK_PWR_LO) c true →
      exec (.bankPwrWrite who c hi value) s = .next { s with hw := s.hw.wrote who (if hi then BANK_PWR_HI else BANK_PWR_LO) c value }) ∧
    (∀ (who : Requester) (c : Cluster), s.Grants who CM_FENCE c false → exec (.cmFenceRead who c) s =
      .next { s with hw := s.hw.looked who CM_FENCE c }) ∧
    (∀ (who : Requester) (c : Cluster) (value : Word), s.Grants who SR_DATA c true → exec (.softRepairWrite who c value) s =
      .next { s with hw := s.hw.wrote who SR_DATA c value }) ∧
    (∀ (who : Requester) (k : Core), s.Grants who DL_CTRL k true → exec (.dlCommit who k) s =
      .next { s with hw := s.hw.wrote who DL_CTRL k 1#32 }) ∧
    (∀ (who : Requester) (k : Core), s.Grants who DL_CTRL k true → exec (.dlReadback who k) s =
      .next { s with hw := s.hw.wrote who DL_CTRL k 2#32 }) ∧
    (∀ (who : Requester) (k : Core), s.Grants who DL_CTRL k true → exec (.dlClrOvf who k) s =
      .next { s with hw := s.hw.wrote who DL_CTRL k 4#32 }) ∧
    (∀ (who : Requester) (k : Core) (value : Word), s.Grants who DENSE_BINQ k true → exec (.denseBinqWrite who k value) s =
      .next { s with hw := s.hw.wrote who DENSE_BINQ k value }) ∧
    (∀ (who : Requester) (c : Cluster), s.Grants who CKPT_STAT c true → exec (.ckptStatClear who c) s =
      .next { s with hw := s.hw.wrote who CKPT_STAT c 0x80000000#32 }) ∧
    (∀ (who : Requester) (c : Cluster) (value : Word), s.Grants who ROAST_SEED c true → exec (.roastSeedWrite who c value) s =
      .next { s with hw := s.hw.wrote who ROAST_SEED c value }) ∧
    (∀ (who : Requester) (k : CsiId) (mask : BitVec 2), s.Grants who FR_STAT k true → exec (.frameBufferRelease who k mask) s =
      .next { s with hw := s.hw.wrote who FR_STAT k (mask.setWidth 32) }) ∧
    (∀ (who : Requester) (k : TmrId) (value : Word), s.Grants who TMR_COUNT k true → exec (.tmrCountWrite who k value) s =
      .next { s with hw := s.hw.wrote who TMR_COUNT k value }) ∧
    (∀ (who : Requester) (k : TmrId) (one : Bool) (value : Word), s.Grants who (if one then TMR_CMP1 else TMR_CMP0) k true →
      exec (.tmrCmpWrite who k one value) s = .next { s with hw := s.hw.wrote who (if one then TMR_CMP1 else TMR_CMP0) k value }) ∧
    (∀ (who : Requester) (k : TmrId) (value : Word), s.Grants who TMR_CMP1 k true → exec (.tmrCmp1ShadowWrite who k value) s =
      .next { s with hw := s.hw.wrote who TMR_CMP1 k value }) ∧
    (∀ (who : Requester) (k : TmrId) (i : Fin 3), s.Grants who (captureReg i) k false → exec (.tmrCaptureRead who k i) s =
      .next { s with hw := s.hw.looked who (captureReg i) k }) ∧
    (∀ (who : Requester) (mask : BitVec 16), s.Grants who ACT_STAT 0 true → exec (.actSafeClear who mask) s =
      .next { s with hw := s.hw.wrote who ACT_STAT 0 (mask.setWidth 32) }) ∧
    (∀ (who : Requester) (value : Word), s.Grants who GPIO_SET 0 true → exec (.gpioSetWrite who value) s =
      .next { s with hw := s.hw.wrote who GPIO_SET 0 value }) ∧
    (∀ (who : Requester) (value : Word), s.Grants who GPIO_CLR 0 true → exec (.gpioClrWrite who value) s =
      .next { s with hw := s.hw.wrote who GPIO_CLR 0 value }) ∧
    (∀ (who : Requester) (e : Quad) (c : Fin 16), s.Grants who (CH_CMD c) e true → exec (.dmaStart who e c) s =
      .next { s with hw := s.hw.wrote who (CH_CMD c) e 1#32 }) ∧
    (∀ (who : Requester) (e : Quad) (c : Fin 16), s.Grants who (CH_CMD c) e true → exec (.dmaAbort who e c) s =
      .next { s with hw := s.hw.wrote who (CH_CMD c) e 2#32 }) ∧
    (∀ (who : Requester) (q : Quad) (value : Word), s.Grants who GCL_CTRL q true → exec (.gclChangeWrite who q value) s =
      .next { s with hw := s.hw.wrote who GCL_CTRL q (setBit value 1 true) }) ∧
    (∀ (who : Requester) (q : Quad) (value : Word), s.Grants who PHY_CTRL q true → exec (.phyCtrlWrite who q value) s =
      .next { s with hw := s.hw.wrote who PHY_CTRL q value }) ∧
    (∀ (who : Requester) (value : Word), s.Grants who PTP_ADJ 0 true → exec (.ptpAdjWrite who value) s =
      .next { s with hw := s.hw.wrote who PTP_ADJ 0 value }) ∧
    (∀ (who : Requester), s.Grants who PTP_NS_LO 0 false → exec (.ptpNsLoRead who) s = .next { s with hw := s.hw.looked who PTP_NS_LO 0 }) ∧
    (∀ (who : Requester) (q : Quad) (value : Word), s.Grants who MS_TX_AN q true → exec (.msTxAnWrite who q value) s =
      .next { s with hw := s.hw.wrote who MS_TX_AN q value }) ∧
    (∀ (who : Requester) (q : Quad), s.Grants who DRAIN q false → exec (.drainRead who q) s = .next { s with hw := s.hw.looked who DRAIN q }) ∧
    (∀ (who : Requester) (q : Quad) (value : Word), s.Grants who DDR_TRAIN q true → exec (.ddrTrainStart who q value) s =
      .next { s with hw := s.hw.wrote who DDR_TRAIN q (setBit value 0 true) }) ∧
    (∀ (who : Requester) (q : Quad) (value : Word), s.Grants who DDR_CFG q true → exec (.ddrCfgEnable who q value) s =
      .next { s with hw := s.hw.wrote who DDR_CFG q value }) ∧
    (∀ who (k : Link), s.Grants who SC_CTRL k true → exec (.scTrainStart who k) s =
      .next { s with hw := s.hw.wrote who SC_CTRL k (s.hw.reg SC_CTRL k ||| 1#32) }) ∧
    (∀ who (k : Link), s.Grants who SC_CTRL k true → exec (.scRejoinWrite who k) s =
      .next { s with hw := s.hw.wrote who SC_CTRL k (s.hw.reg SC_CTRL k ||| 4#32) }) ∧
    (∀ (who : Requester) (c : Cluster) (value : Word), s.Grants who CL_PWR_REQ c true → exec (.clPwrReqWrite who c value) s =
      .next { s with hw := s.hw.wrote who CL_PWR_REQ c value }) ∧
    (∀ (who : Requester) (value : Word), s.Grants who PKG_PWR_REQ 0 true → exec (.pkgPwrReqWrite who value) s =
      .next { s with hw := s.hw.wrote who PKG_PWR_REQ 0 value }) ∧
    (∀ (who : Requester) (c : Cluster) (value : Word), s.Grants who CL_VTRIM c true → exec (.clVtrimWrite who c value) s =
      .next { s with hw := s.hw.wrote who CL_VTRIM c value }) ∧
    (∀ (who : Requester), s.Grants who RST_CMD 0 true → exec (.computeResetCmd who) s = .next { s with hw := s.hw.wrote who RST_CMD 0 1#32 }) ∧
    (∀ (who : Requester) (hi : Bool) (value : Word), s.Grants who (if hi then CL_RST_HI else CL_RST_LO) 0 true →
      exec (.clRstWrite who hi value) s = .next { s with hw := s.hw.wrote who (if hi then CL_RST_HI else CL_RST_LO) 0 value }) ∧
    (∀ (who : Requester) (c : Cluster) (value : Word), s.Grants who CORE_RST_PULSE c true → exec (.coreRstPulseWrite who c value) s =
      .next { s with hw := s.hw.wrote who CORE_RST_PULSE c value }) ∧
    (∀ (who : Requester) (c : Cluster) (value : Word), s.Grants who CORE_RST_HOLD c true → exec (.coreRstHoldWrite who c value) s =
      .next { s with hw := s.hw.wrote who CORE_RST_HOLD c value }) ∧
    (∀ (who : Requester) (q : Quad) (value : Word), s.Grants who IMG_PTR q true → exec (.imgPtrWrite who q value) s =
      .next { s with hw := s.hw.wrote who IMG_PTR q value }) ∧
    (∀ who (q : Quad) value, s.hw.powered = true → (who = .rcp q → exec (.imgDataWrite who q value) s =
      .next { s with hw := { s.hw.imgData q value with resp := {} } }) ∧ (who ≠ .rcp q → s.Grants who IMG_DATA q true →
      exec (.imgDataWrite who q value) s = .next { s with hw := s.hw.wrote who IMG_DATA q value })) ∧
    (∀ (who : Requester) (value : Word), s.Grants who FUSE_PROG 0 true → exec (.fuseProgWrite who value) s =
      .next { s with hw := s.hw.wrote who FUSE_PROG 0 value }) ∧
    (∀ (who : Requester) (value : Word), s.Grants who FLT_RAISE 0 true → exec (.fltRaiseWrite who value) s =
      .next { s with hw := s.hw.wrote who FLT_RAISE 0 value }) ∧
    (∀ (who : Requester), s.Grants who FLT_CTRL 0 true → exec (.fltRestored who) s = .next { s with hw := s.hw.wrote who FLT_CTRL 0 1#32 }) ∧
    (∀ (who : Requester), s.Grants who FLT_CTRL 0 true → exec (.fltHalt who) s = .next { s with hw := s.hw.wrote who FLT_CTRL 0 2#32 }) ∧
    (∀ (who : Requester), s.Grants who FLT_CTRL 0 true → exec (.fltRelease who) s = .next { s with hw := s.hw.wrote who FLT_CTRL 0 4#32 }) ∧
    (∀ (who : Requester), s.Grants who FLT_LOG_POP 0 false → exec (.fltLogPopRead who) s = .next { s with hw := s.hw.looked who FLT_LOG_POP 0 }) ∧
    (∀ (who : Requester) (m : Quad), s.Grants who (IC_CLAIM m) 0 false → exec (.icClaimRead who m) s =
      .next { s with hw := s.hw.looked who (IC_CLAIM m) 0 }) ∧
    (∀ (who : Requester) (m : Quad) (value : Word), s.Grants who (IC_COMPLETE m) 0 true → exec (.icCompleteWrite who m value) s =
      .next { s with hw := s.hw.wrote who (IC_COMPLETE m) 0 value }) ∧
    (∀ (who : Requester) (i : Fin 8) (value : Word), s.Grants who (IC_MASK i) 0 true → exec (.icMaskWrite who i value) s =
      .next { s with hw := s.hw.wrote who (IC_MASK i) 0 value }) ∧
    (∀ (who : Requester) (value : Word), s.Grants who IC_SWI_SET 0 true → exec (.icSwiSetWrite who value) s =
      .next { s with hw := s.hw.wrote who IC_SWI_SET 0 value }) ∧
    (∀ (who : Requester) (value : Word), s.Grants who IC_SWI_CLR 0 true → exec (.icSwiClrWrite who value) s =
      .next { s with hw := s.hw.wrote who IC_SWI_CLR 0 value }) ∧
    (∀ (who : Requester) (value : Word), s.Grants who CTX_NEXT 0 true → exec (.ctxNextWrite who value) s =
      .next { s with hw := s.hw.wrote who CTX_NEXT 0 value }) ∧
    (∀ (who : Requester), s.Grants who ATT_CMD 0 true → exec (.attStart who) s = .next { s with hw := s.hw.wrote who ATT_CMD 0 1#32 }) ∧
    (∀ (who : Requester) (value : Word), s.Grants who PAD_EN 0 true → exec (.padEnWrite who value) s =
      .next { s with hw := s.hw.wrote who PAD_EN 0 value })

/-- As many steps as commands wait run all of them, in order, and on an empty queue one fabric cycle passes. With no command waiting, one fabric
cycle passes (the model's choice, log 1): device time advances by one (10 R288) and PTP time by PTP_INC (13 R358) while the package has power and is
out of reset, and each wait in progress counts the cycle in its counter (log 11); nothing but those counters and the books of the waits changes, and
with no wait in progress nothing else at all. A package without power or in reset stays as it is. From any state, running as many steps as there are
commands in the queue takes no stop and leaves the queue empty; the first command runs first: if it leads to t, the rest runs from t. Any number of
steps from any state runs without a stop. -/
def Obligations.TimePassesAndTheQueueDrains : Prop :=
  (∀ s : State, s.pending = [] →
    (s.hw.powered = true → s.hw.waits = [] →
      step s = .next { s with hw := { s.hw with dev := s.hw.dev + 1, ptp := s.hw.ptp + (s.hw.reg PTP_INC).toNat } }) ∧
    (s.hw.powered = true → ∃ t, step s = .next t ∧ t.pending = [] ∧ { t.hw with regs := s.hw.regs, waits := s.hw.waits } =
      { s.hw with dev := s.hw.dev + 1, ptp := s.hw.ptp + (s.hw.reg PTP_INC).toNat }) ∧
    (s.hw.powered = true → ∀ key w, s.hw.waits = [(key, w)] → w.next = s.hw.dev → 1 ≤ w.per →
      step s = .next { s with hw := { (s.hw.inc ⟨w.page, w.off⟩ w.unit 1) with
        dev := s.hw.dev + 1, ptp := s.hw.ptp + (s.hw.reg PTP_INC).toNat, waits := [(key, { w with next := w.next + w.per, n := w.n + 1 })] } }) ∧
    (s.hw.powered = false → step s = .next s)) ∧
  ((∀ s : State, ∃ t, Host.Core.run Sys2Proof.core s.pending.length s = .next t ∧ t.pending = []) ∧
  (∀ (i : Instr) (r : List Instr) (s t : State), exec i { s with pending := r } = .next t →
    Host.Core.run Sys2Proof.core (r.length + 1) { s with pending := i :: r } = Host.Core.run Sys2Proof.core r.length t) ∧
  (∀ (n : Nat) (s : State), Safe n s))

/-- At reset every register holds its table's reset value, memory lists nothing and no command waits. Right after reset no command waits, no byte of
memory is listed, the step machine is idle, no unit is available, no context is resident, and every register holds the reset value of its row; of
these, STEP_CTX_LEN is 1,000 µs, ETYPE is 0x88B5 and THERM_HI its table's. -/
def Obligations.ResetLeavesTableValues : Prop :=
  State.reset.pending = [] ∧ State.reset.hw.mem = [] ∧ State.reset.hw.dev = 0 ∧ State.reset.hw.step.phase = .idle ∧
    (∀ r u, State.reset.hw.reg r u = resetVal r u) ∧ (∀ k, State.reset.hw.coreAvail k = false) ∧ State.reset.hw.someResident = false ∧
    (∀ n : Fin 16, State.reset.hw.reg (STEP_CTX_LEN n) = 1000#32) ∧ (∀ q : Quad, State.reset.hw.fld ETYPE q 15 0 = 0x88B5)

/-- While RESET_N is low, every step keeps the block in reset: units at reset, memory canonical and only flash and always-on memory. RESET_N held
low (16 R435, R437, 15 R413): a state with RESET_N low, every unit as after reset but for the temperature sensors, memory in canonical form listing
only flash and always-on memory, and no command waiting that ends the reset, keeps all of this in every step, whichever command is at the front of
the queue and on an empty queue. That events of units in reset do nothing is the model's reading (log 3). -/
def Obligations.ResetHoldsTheBlock : Prop :=
  ∀ s t : State, s.InReset → step s = .next t → t.InReset

/-- RESET_N going low puts any block with canonical memory in that state. RESET_N going low (16 R435, R437) leaves, from every state whose memory is
canonical and in whose queue no command ends the reset, a state that meets the invariant of ResetHoldsTheBlock. -/
def Obligations.ResetAssertionBeginsTheHold : Prop :=
  ∀ s : State, Memory.wf s.hw.mem = true → .powerOnReset ∉ s.pending → (∀ vio33 mismatch, .resetNRelease vio33 mismatch ∉ s.pending) →
    ∃ t, exec .resetNAssert s = .next t ∧ t.pending = s.pending ∧ t.InReset

/-- Decoding an encoded microcode instruction gives it back, and every word that decodes is the encoding of one well-formed instruction. Microcode
words (04 R121, R122, R124, R128): for every well-formed instruction, with every field at every value its format admits, the decoding of its word is
the instruction; and a word that decodes, decodes to a well-formed instruction whose word it is, so no two instructions share a word and no bit of a
word is dropped. -/
def Obligations.MicrocodeWordsRoundTrip : Prop :=
  (∀ i : MInstr, i.wf = true → mcDecode (mcEncode i) = some i) ∧ (∀ (w : Word) (i : MInstr), mcDecode w = some i → i.wf = true ∧ mcEncode i = w)

/-- A package in reset or without power is changed by no management access and by no command of its clocked domain. While RESET_N is low, no
management access and none of these commands changes anything: microcode, step, fabric, drip, list, roast, ingress, timer and DMA commands all leave
the state as it is (15 R413, 16 R435). That an event of a block without power has no effect is the model's reading (log 3). -/
def Obligations.UnpoweredBlockHoldsStill : Prop :=
  ∀ s : State, s.hw.pkg.inReset = true →
    (∀ who a v z, Ignored (.registerWrite who a ⟨v, z⟩) s) ∧ (∀ who a b, Ignored (.rcCounterRead who a b) s) ∧
    (∀ k, Ignored (.mcAdd k) s ∧ Ignored (.mcSt k) s ∧ Ignored (.mcEmit k) s ∧ Ignored (.handlerDispatch k) s) ∧
    Ignored .stepAdvance s ∧ Ignored .deliveryClose s ∧ Ignored .pourClose s ∧ (∀ k, Ignored (.integrateStart k) s) ∧
    (∀ c e, Ignored (.fabricSlot c e) s) ∧ (∀ c b, Ignored (.entryLookup c b) s) ∧ (∀ k, Ignored (.listOfferStream k) s) ∧
    (∀ c, Ignored (.roastEnd c) s) ∧ (∀ k p, Ignored (.csiPacketRx k p) s) ∧ (∀ k, Ignored (.tmrGatedTick k) s) ∧
    (∀ e c, Ignored (.dmaGranule e c) s) ∧ (∀ q f, Ignored (.ethFrameRx q f) s) ∧ Ignored .faultRaise s

/-- An address reaches exactly its page, unit and register, and an access that reaches no page reads 0, is counted and recorded. Addresses (19 R497,
R498): the address of an offset in a page of the global region, of a quadrant, of a cluster and of a logical core reaches that page of that unit, at
the offset with bits [1:0] ignored, or no page where the page is not assigned or absent there. No-page accesses (19 R498, R526) of a management
processor: MGMT_NOPAGE_CNT counts, the answer is 0 with status NOPAGE, MGMT_ERR_INFO and MGMT_ERR_ADDR record the access unless they hold one, and
nothing else changes. -/
def Obligations.AddressesReachTheirPage : Prop :=
  ((∀ pg off, pg < 256 → off < 4096 → locOf (gAddr pg off) = locGlobal pg (off / 4 * 4)) ∧
  (∀ (q : Quad) pg off, pg < 256 → off < 4096 → locOf (qAddr q pg off) = locQuad q pg (off / 4 * 4)) ∧
  (∀ (c : Cluster) pg off, pg < 256 → off < 4096 → locOf (cAddr c pg off) = locCluster c pg (off / 4 * 4)) ∧
  (∀ (k : Core) pg off, pg < 128 → off < 4096 → locOf (kAddr k pg off) = locCore k pg (off / 4 * 4))) ∧
  (∀ (s : State) (m : Quad) (a v z : Word), s.hw.powered = true → locOf a = none →
    (s.hw.flag MGMT_ERR_INFO 0 31 = true →
      Effect (.registerWrite (.mp m) a ⟨v, z⟩) s { s.hw with resp := { status := .nopage } }
        [((MGMT_NOPAGE_CNT, 0), satAdd32 (s.hw.reg MGMT_NOPAGE_CNT) 1)]) ∧
    (s.hw.flag MGMT_ERR_INFO 0 31 = false →
      Effect (.registerWrite (.mp m) a ⟨v, z⟩) s { s.hw with resp := { status := .nopage } }
        [((MGMT_ERR_ADDR, 0), a), ((MGMT_ERR_INFO, 0), fields [(0, m), (4, 0), (8, 1), (31, 1)]),
          ((MGMT_NOPAGE_CNT, 0), satAdd32 (s.hw.reg MGMT_NOPAGE_CNT) 1)]) ∧
    (s.hw.flag MGMT_ERR_INFO 0 31 = false → ∀ same,
      Effect (.rcCounterRead (.mp m) a same) s { s.hw with resp := { status := .nopage } }
        [((MGMT_ERR_ADDR, 0), a), ((MGMT_ERR_INFO, 0), fields [(0, m), (4, 0), (8, 0), (31, 1)]),
          ((MGMT_NOPAGE_CNT, 0), satAdd32 (s.hw.reg MGMT_NOPAGE_CNT) 1)]))

/-- An RCP engine writes no firmware page, and a granted write leaves in each bit what its access code says. Writer rules (19 R499, R526): an RCP
engine's write to a page that firmware alone writes, with no field fuse closing it, is counted in MGMT_DENY_CNT, recorded unless a refusal is on
record, and answered DENIED; no other register and nothing else changes. Access codes (00 R15, R16, 19 R503): a granted write of a register of the
GPIO page other than GPIO_SET and GPIO_CLR, while the page is not locked, leaves in each bit what its access code says, and changes nothing else;
one of TMR_STAT clears the bits written 1, but for those that hardware sets in the same cycle, which end set. Under the lock, RWL bits stay and a
write to a register that has some is counted once. -/
def Obligations.WriterRulesAndAccessCodes : Prop :=
  (∀ (s : State) (q : Quad) (a v z : Word) (l : Loc), s.hw.powered = true → locOf a = some l → l.page ∈ fwPages →
    (s.hw.flag MGMT_ERR_INFO 0 31 = true →
      Effect (.registerWrite (.rcp q) a ⟨v, z⟩) s { s.hw with resp := { status := .denied } }
        [((MGMT_DENY_CNT, 0), satAdd32 (s.hw.reg MGMT_DENY_CNT) 1)]) ∧
    (s.hw.flag MGMT_ERR_INFO 0 31 = false →
      Effect (.registerWrite (.rcp q) a ⟨v, z⟩) s { s.hw with resp := { status := .denied } }
        [((MGMT_ERR_ADDR, 0), a), ((MGMT_ERR_INFO, 0), fields [(0, 4 + q), (4, 2), (8, 1), (31, 1)]),
          ((MGMT_DENY_CNT, 0), satAdd32 (s.hw.reg MGMT_DENY_CNT) 1)])) ∧
  ((∀ (s : State) who (r : Rg) v, s.Grants who r 0 true → r.page = pgGPIO → 0x040 ≤ r.off → r ≠ GPIO_SET → r ≠ GPIO_CLR →
    s.hw.locked pgGPIO 0 = false → Effect (.registerWrite who (addrOf r 0) ⟨v, 0#32⟩) s (s.hw.told 0) [((r, 0), s.hw.written r 0 v)]) ∧
  (∀ (s : State) who (k : TmrId) (v z : Word), s.Grants who TMR_STAT k true → s.hw.locked pgTMR k = false →
    Effect (.registerWrite who (addrOf TMR_STAT k) ⟨v, z⟩) s (s.hw.told 0)
      [((TMR_STAT, k), (s.hw.reg TMR_STAT k &&& ~~~ (v &&& 0xF#32)) ||| (z &&& 0xF#32))]) ∧
  (∀ (h : Hw) (r : Rg) (u : Nat) (row : RegRow) (v : Word) (i : Nat), rowOf r.page r.off = some row → h.locked r.page u = false → i < 32 →
    bit (w32 row.w1c) i = false → bit (w32 row.w1s) i = false →
    bit (h.written r u v) i = if bit (w32 row.rw) i || bit (w32 row.rwl) i then bit v i else bit (h.reg r u) i) ∧
  (∀ (s : State) who v, s.Grants who FAB_FRAMES 0 true → s.hw.locked pgFAB 0 = true →
    Effect (.registerWrite who (addrOf FAB_FRAMES 0) ⟨v, 0#32⟩) s (s.hw.told 0)
      [((MGMT_LOCK_IGN_CNT, 0), satAdd32 (s.hw.reg MGMT_LOCK_IGN_CNT) 1)]))

/-- A read clears an RC counter, LOCKED is set and cleared as the rules say, and SOFT_RST acts only on a stopped, unlocked page. RC counters of a
cluster's CMEM page (00 R15, R16): a granted read answers the value and clears the counter; with an increment in the same cycle the counter ends at
1; nothing else changes. Page locks (19 R500, R502): PG_LOCK_SET through PG_LOCK sets LOCKED; through PG_CTRL.LOCK it does too and leaves EN;
PG_LOCK_CLEAR by firmware with the key clears it, and without the key, or by an RCP engine, leaves it; a soft reset of a page whose EN is read-only
1 is ignored and counted; on the page DENSECFG, one write that clears EN and resets returns every register of the page to its reset value but
PG_OWNER and PG_LOCK, and empties the page's queued writes. Nothing else changes. -/
def Obligations.ReadClearsAndPageLocks : Prop :=
  (∀ (s : State) who (r : Rg) (c : Cluster) (same : Bool), s.Grants who r c false → r.page = pgCMEM → 0x040 ≤ r.off →
    rcMask r.page r.off = 0xFFFFFFFF#32 →
    Effect (.rcCounterRead who (addrOf r c) same) s (s.hw.told (s.hw.reg r c)) [((r, c), if same then 1#32 else 0#32)]) ∧
  ((∀ (s : State) who (c : Cluster), s.Grants who (pgLock pgDRIPCFG) c true →
    Effect (.pgLockSet who (addrOf (pgLock pgDRIPCFG) c) false) s (s.hw.told 0)
      [((pgLock pgDRIPCFG, c), setBits (s.hw.reg (pgLock pgDRIPCFG) c) 0 0 1)]) ∧
  (∀ (s : State) who (c : Cluster), s.Grants who (pgCtrl pgDRIPCFG) c true →
    Effect (.pgLockSet who (addrOf (pgLock pgDRIPCFG) c) true) s (s.hw.told 0)
      [((pgLock pgDRIPCFG, c), setBits (s.hw.reg (pgLock pgDRIPCFG) c) 0 0 1)]) ∧
  (∀ (s : State) who (c : Cluster) (v : Word), s.Grants who (pgLock pgDRIPCFG) c true → isRcp who = false → bits v 31 16 = 0x4C4B →
    Effect (.pgLockClear who (addrOf (pgLock pgDRIPCFG) c) v) s (s.hw.told 0)
      [((pgLock pgDRIPCFG, c), setBits (s.hw.reg (pgLock pgDRIPCFG) c) 0 0 0)]) ∧
  (∀ (s : State) who (c : Cluster) (v : Word), s.Grants who (pgLock pgDRIPCFG) c true → isRcp who = true ∨ bits v 31 16 ≠ 0x4C4B →
    Effect (.pgLockClear who (addrOf (pgLock pgDRIPCFG) c) v) s (s.hw.told 0) []) ∧
  (∀ (s : State) who (c : Cluster) (v : Word), s.Grants who (pgCtrl pgDRIPCFG) c true → bit v 2 = false →
    Effect (.pgSoftRst who (addrOf (pgCtrl pgDRIPCFG) c) v) s (s.hw.told 0)
      [((MGMT_LOCK_IGN_CNT, 0), satAdd32 (s.hw.reg MGMT_LOCK_IGN_CNT) 1)]) ∧
  (∀ (s : State) who (k : Core) (v : Word), s.Grants who (pgCtrl pgDENSECFG) k true → s.hw.locked pgDENSECFG k = false → bit v 0 = false →
    bit v 2 = false →
    Answers (.pgSoftRst who (addrOf (pgCtrl pgDENSECFG) k) v) s fun t =>
      { t with regs := s.hw.regs } = (s.hw.updCore k fun x => { x with dlq := [], binq := none }).told 0 ∧
      ∀ r u, t.reg r u = if r.page = pgDENSECFG ∧ u = k ∧ r.off ≠ 0x018 ∧ r.off ≠ 0x01C then resetVal r u else s.hw.reg r u))

/-- Window reads and writes of router, roast, ingress, timer and pin tables reach the word the address registers name, and advance. Router windows
(06 R199, 19 R528): a granted write of GT_DATA, FSEQ_DATA, FLOW_DATA or DEST_DATA that R196 does not protect stores the bits that are not reserved
in the word that the address register names and advances the address; a granted read answers the word and advances the address; nothing else
changes. The third word of FLOW_ADDR and DEST_ADDR is followed by word 3, which has no bits. The windows of drip trees and tag maps (07 R233), roast
segments and rules (09 R282), hot pixels (10 R304), the flow table (10 R308) and the sensor tables (10 R309): as for the router windows. -/
def Obligations.RouterAndTableWindows : Prop :=
  ((∀ (s : State) who (c : Cluster) v, s.Grants who GT_DATA c true → s.hw.fld GT_ADDR c 14 10 ≤ 16 →
    ¬ (s.hw.resident c = true ∧ s.hw.tableInUse c (s.hw.fld GT_ADDR c 18 16) = true) →
    Effect (.gtData who c (some v)) s
      ((s.hw.setTab .gt c (s.hw.fld GT_ADDR c 18 16 * 2 ^ 16 + s.hw.fld GT_ADDR c 14 10 * 2 ^ 10 + s.hw.fld GT_ADDR c 9 0)
        (v &&& if s.hw.fld GT_ADDR c 14 10 < 8 then 0xFFFFFFFF#32 else 0xFFC1FFFF#32)).told 0)
      [((GT_ADDR, c), nextField (s.hw.reg GT_ADDR c) 9 0 1023)]) ∧
  (∀ (s : State) who (c : Cluster), s.Grants who GT_DATA c false → s.hw.fld GT_ADDR c 14 10 ≤ 16 →
    Effect (.gtData who c none) s
      (s.hw.told (s.hw.tab .gt c (s.hw.fld GT_ADDR c 18 16 * 2 ^ 16 + s.hw.fld GT_ADDR c 14 10 * 2 ^ 10 + s.hw.fld GT_ADDR c 9 0)))
      [((GT_ADDR, c), nextField (s.hw.reg GT_ADDR c) 9 0 1023)]) ∧
  (∀ (s : State) who (c : Cluster) v, s.Grants who FSEQ_DATA c true →
    ¬ (s.hw.resident c = true ∧ s.hw.fld FSEQ_ADDR c 16 16 = (s.hw.cl c).fseq) →
    Effect (.fseqData who c (some v)) s
      ((s.hw.setTab .fseq c (s.hw.fld FSEQ_ADDR c 16 16 * 2 ^ 16 + s.hw.fld FSEQ_ADDR c 8 0) (v &&& 0x87#32)).told 0)
      [((FSEQ_ADDR, c), nextField (s.hw.reg FSEQ_ADDR c) 8 0 511)]) ∧
  (∀ (s : State) who (c : Cluster), s.Grants who FSEQ_DATA c false →
    Effect (.fseqData who c none) s
      (s.hw.told (s.hw.tab .fseq c (s.hw.fld FSEQ_ADDR c 16 16 * 2 ^ 16 + s.hw.fld FSEQ_ADDR c 8 0)))
      [((FSEQ_ADDR, c), nextField (s.hw.reg FSEQ_ADDR c) 8 0 511)]) ∧
  (∀ (s : State) who (c : Cluster) v, s.Grants who FLOW_DATA c true →
    Effect (.flowData who c (some v)) s
      ((s.hw.setTab .flow c (s.hw.fld FLOW_ADDR c 17 16 * 2 ^ 16 + s.hw.fld FLOW_ADDR c 8 0)
        (v &&& [0xFE03FFFF#32, 0xFFF3FFFF#32, 0xFFFF#32].getD (s.hw.fld FLOW_ADDR c 17 16) 0#32)).told 0)
      [((FLOW_ADDR, c), nextCarry (s.hw.reg FLOW_ADDR c) 17 16 3 8 0)]) ∧
  (∀ (s : State) who (c : Cluster), s.Grants who FLOW_DATA c false →
    Effect (.flowData who c none) s
      (s.hw.told (s.hw.tab .flow c (s.hw.fld FLOW_ADDR c 17 16 * 2 ^ 16 + s.hw.fld FLOW_ADDR c 8 0)))
      [((FLOW_ADDR, c), nextCarry (s.hw.reg FLOW_ADDR c) 17 16 3 8 0)]) ∧
  (∀ (s : State) who (c : Cluster) v, s.Grants who DEST_DATA c true →
    Effect (.destData who c (some v)) s
      ((s.hw.setTab .dest c (s.hw.fld DEST_ADDR c 17 16 * 2 ^ 16 + s.hw.fld DEST_ADDR c 7 0)
        (v &&& [0xFFFFFFFF#32, 0xFFFFFFFF#32, 0xFFFF#32].getD (s.hw.fld DEST_ADDR c 17 16) 0#32)).told 0)
      [((DEST_ADDR, c), nextCarry (s.hw.reg DEST_ADDR c) 17 16 3 7 0)]) ∧
  (∀ (s : State) who (c : Cluster), s.Grants who DEST_DATA c false →
    Effect (.destData who c none) s
      (s.hw.told (s.hw.tab .dest c (s.hw.fld DEST_ADDR c 17 16 * 2 ^ 16 + s.hw.fld DEST_ADDR c 7 0)))
      [((DEST_ADDR, c), nextCarry (s.hw.reg DEST_ADDR c) 17 16 3 7 0)])) ∧
  ((∀ (s : State) who (c : Cluster) v, s.Grants who DTREE_DATA c true →
    Effect (.dtreeData who c (some v)) s ((s.hw.setTab .dtree c (s.hw.fld DTREE_ADDR c 13 0) (v &&& 0xBF#32)).told 0)
      [((DTREE_ADDR, c), nextField (s.hw.reg DTREE_ADDR c) 13 0 16383)]) ∧
  (∀ (s : State) who (c : Cluster), s.Grants who DTREE_DATA c false →
    Effect (.dtreeData who c none) s (s.hw.told (s.hw.tab .dtree c (s.hw.fld DTREE_ADDR c 13 0)))
      [((DTREE_ADDR, c), nextField (s.hw.reg DTREE_ADDR c) 13 0 16383)]) ∧
  (∀ (s : State) who (c : Cluster) v, s.Grants who XTAG_DATA c true → (scAt c).isSome = true →
    Effect (.xtagData who c (some v)) s ((s.hw.setTab .xtag c (s.hw.fld XTAG_ADDR c 13 0) (v &&& 0x1FF#32)).told 0)
      [((XTAG_ADDR, c), nextField (s.hw.reg XTAG_ADDR c) 13 0 16383)]) ∧
  (∀ (s : State) who (c : Cluster), s.Grants who XTAG_DATA c false → (scAt c).isSome = true →
    Effect (.xtagData who c none) s (s.hw.told (s.hw.tab .xtag c (s.hw.fld XTAG_ADDR c 13 0)))
      [((XTAG_ADDR, c), nextField (s.hw.reg XTAG_ADDR c) 13 0 16383)]) ∧
  (∀ (s : State) who (c : Cluster) v, s.Grants who ITAG_DATA c true → (scAt c).isSome = true →
    Effect (.itagData who c (some v)) s ((s.hw.setTab .itag c (s.hw.fld ITAG_ADDR c 7 0) (v &&& 0x1FF#32)).told 0)
      [((ITAG_ADDR, c), nextField (s.hw.reg ITAG_ADDR c) 7 0 255)]) ∧
  (∀ (s : State) who (c : Cluster), s.Grants who ITAG_DATA c false → (scAt c).isSome = true →
    Effect (.itagData who c none) s (s.hw.told (s.hw.tab .itag c (s.hw.fld ITAG_ADDR c 7 0)))
      [((ITAG_ADDR, c), nextField (s.hw.reg ITAG_ADDR c) 7 0 255)]) ∧
  (∀ (s : State) who (c : Cluster) v, s.Grants who SEG_DATA c true → (s.hw.cl c).roast.busy = false →
    Effect (.segData who c (some v)) s
      ((s.hw.setTab .seg c (s.hw.fld SEG_SEL c 4 0 + 256 * s.hw.fld SEG_SEL c 9 8)
        (v &&& [0x871F#32, 0xFFFFFFFF#32, 0xFFFFFF#32].getD (s.hw.fld SEG_SEL c 9 8) 0#32)).told 0)
      [((SEG_SEL, c), nextCarry (s.hw.reg SEG_SEL c) 9 8 3 4 0)]) ∧
  (∀ (s : State) who (c : Cluster), s.Grants who SEG_DATA c false →
    Effect (.segData who c none) s (s.hw.told (s.hw.tab .seg c (s.hw.fld SEG_SEL c 4 0 + 256 * s.hw.fld SEG_SEL c 9 8)))
      [((SEG_SEL, c), nextCarry (s.hw.reg SEG_SEL c) 9 8 3 4 0)]) ∧
  (∀ (s : State) who (c : Cluster) v, s.Grants who RULE_DATA c true → (s.hw.cl c).roast.busy = false → s.hw.fld RULE_ADDR c 8 3 < 4 →
    Effect (.ruleData who c (some v)) s ((s.hw.setTab .rule c (s.hw.fld RULE_ADDR c 2 0 + 8 * s.hw.fld RULE_ADDR c 8 3) v).told 0)
      [((RULE_ADDR, c), nextCarry (s.hw.reg RULE_ADDR c) 8 3 37 2 0)]) ∧
  (∀ (s : State) who (c : Cluster), s.Grants who RULE_DATA c false → s.hw.fld RULE_ADDR c 8 3 ≤ 37 →
    Effect (.ruleData who c none) s (s.hw.told (s.hw.tab .rule c (s.hw.fld RULE_ADDR c 2 0 + 8 * s.hw.fld RULE_ADDR c 8 3)))
      [((RULE_ADDR, c), nextCarry (s.hw.reg RULE_ADDR c) 8 3 37 2 0)]) ∧
  (∀ (s : State) who (k : CsiId) v, s.Grants who HOTPIX_DATA k true →
    Effect (.hotpixData who k (some v)) s ((s.hw.setTab .hotpix k (s.hw.fld HOTPIX_IDX k 5 0) (v &&& 0x80FFFFFF#32)).told 0)
      [((HOTPIX_IDX, k), nextField (s.hw.reg HOTPIX_IDX k) 5 0 63)]) ∧
  (∀ (s : State) who (k : CsiId), s.Grants who HOTPIX_DATA k false →
    Effect (.hotpixData who k none) s (s.hw.told (s.hw.tab .hotpix k (s.hw.fld HOTPIX_IDX k 5 0)))
      [((HOTPIX_IDX, k), nextField (s.hw.reg HOTPIX_IDX k) 5 0 63)]) ∧
  (∀ (s : State) who (q : Quad) v, s.Grants who FT_DATA q true →
    Effect (.ftData who q (some v)) s
      ((s.hw.setTab .ft q (s.hw.fld FT_ADDR q 15 0 + 65536 * s.hw.fld FT_ADDR q 17 16)
        (v &&& [0xFBFF8000#32, 0x3FFFF#32, 0xFFFF#32, 0xFFFFFFFF#32].getD (s.hw.fld FT_ADDR q 17 16) 0#32)).told 0)
      [((FT_ADDR, q), nextCarry (s.hw.reg FT_ADDR q) 17 16 3 15 0)]) ∧
  (∀ (s : State) who (q : Quad), s.Grants who FT_DATA q false →
    Effect (.ftData who q none) s (s.hw.told (s.hw.tab .ft q (s.hw.fld FT_ADDR q 15 0 + 65536 * s.hw.fld FT_ADDR q 17 16)))
      [((FT_ADDR, q), nextCarry (s.hw.reg FT_ADDR q) 17 16 3 15 0)]) ∧
  (∀ (s : State) who, s.Grants who POLL_DATA 0 false →
    Effect (.pollData who none) s
      (s.hw.told (s.hw.tab .poll 0 (s.hw.fld POLL_ADDR 0 2 0 + 16 * s.hw.fld POLL_ADDR 0 6 4 + 256 * s.hw.fld POLL_ADDR 0 9 8)))
      [((POLL_ADDR, 0), nextCarry (s.hw.reg POLL_ADDR 0) 9 8 3 2 0)]) ∧
  (∀ (s : State) who v, s.Grants who POLL_DATA 0 true → s.hw.fld POLL_ADDR 0 9 8 = 1 →
    Effect (.pollData who (some v)) s
      ((s.hw.setTab .poll 0 (s.hw.fld POLL_ADDR 0 2 0 + 16 * s.hw.fld POLL_ADDR 0 6 4 + 256) v).told 0)
      [((POLL_ADDR, 0), nextCarry (s.hw.reg POLL_ADDR 0) 9 8 3 2 0)]) ∧
  (∀ (s : State) who v, s.Grants who LCE_DATA 0 true →
    Effect (.lceData who (some v)) s
      ((s.hw.setTab .lce 0 (s.hw.fld LCE_ADDR 0 4 0 + 256 * s.hw.fld LCE_ADDR 0 9 8)
        (v &&& [0x37F#32, 0xFFFFFFFF#32, 0xFFFFFFFF#32].getD (s.hw.fld LCE_ADDR 0 9 8) 0#32)).told 0)
      [((LCE_ADDR, 0), nextCarry (s.hw.reg LCE_ADDR 0) 9 8 3 4 0)]) ∧
  (∀ (s : State) who, s.Grants who LCE_DATA 0 false →
    Effect (.lceData who none) s (s.hw.told (s.hw.tab .lce 0 (s.hw.fld LCE_ADDR 0 4 0 + 256 * s.hw.fld LCE_ADDR 0 9 8)))
      [((LCE_ADDR, 0), nextCarry (s.hw.reg LCE_ADDR 0) 9 8 3 4 0)]))

/-- An access to the microcode store, microcode data memory or always-on memory window moves one word of memory. Windows into memory: the microcode
store and the microcode data memory (04 R140), where a write while the context is resident and the core available is ignored but advances the
address, and a read of a good word answers it; and always-on memory (15 R432), whose address does not advance, where a write below 0xC000 or by an
RCP engine is ignored. A write stores one word; every other byte of memory stays. -/
def Obligations.MemoryWindows : Prop :=
  (∀ (s : State) who (k : Core) v, s.Grants who MC_STORE_DATA k true → ¬ (s.hw.resident (k / 32) = true ∧ s.hw.coreAvail k = true) →
    Effect (.mcStoreData who k (some v)) s ((s.hw.setWord (storeAddr k (s.hw.fld MC_STORE_IDX k 9 0)) v).told 0)
      [((MC_STORE_IDX, k), nextField (s.hw.reg MC_STORE_IDX k) 9 0 1023)]) ∧
  (∀ (s : State) who (k : Core) v, s.Grants who MC_STORE_DATA k true → s.hw.resident (k / 32) = true → s.hw.coreAvail k = true →
    Effect (.mcStoreData who k (some v)) s (s.hw.told 0) [((MC_STORE_IDX, k), nextField (s.hw.reg MC_STORE_IDX k) 9 0 1023)]) ∧
  (∀ (s : State) who (k : Core), s.Grants who MC_STORE_DATA k false → s.hw.mark (storeAddr k (s.hw.fld MC_STORE_IDX k 9 0)) = 0 →
    Effect (.mcStoreData who k none) s (s.hw.told (s.hw.word (storeAddr k (s.hw.fld MC_STORE_IDX k 9 0))))
      [((MC_STORE_IDX, k), nextField (s.hw.reg MC_STORE_IDX k) 9 0 1023)]) ∧
  (∀ (s : State) who (k : Core) v, s.Grants who MC_DM_DATA k true → ¬ (s.hw.resident (k / 32) = true ∧ s.hw.coreAvail k = true) →
    Effect (.mcDmData who k (some v)) s ((s.hw.setWord (dmAddr k (s.hw.fld MC_DM_ADDR k 12 2)) v).told 0)
      [((MC_DM_ADDR, k), nextField (s.hw.reg MC_DM_ADDR k) 12 2 2047)]) ∧
  (∀ (s : State) who (k : Core), s.Grants who MC_DM_DATA k false → s.hw.mark (dmAddr k (s.hw.fld MC_DM_ADDR k 12 2)) = 0 →
    Effect (.mcDmData who k none) s (s.hw.told (s.hw.word (dmAddr k (s.hw.fld MC_DM_ADDR k 12 2))))
      [((MC_DM_ADDR, k), nextField (s.hw.reg MC_DM_ADDR k) 12 2 2047)]) ∧
  (∀ (s : State) who v, s.Grants who AOM_DATA 0 true → 0xC000 ≤ 4 * s.hw.fld AOM_ADDR 0 15 2 → isRcp who = false →
    Effect (.aomData who (some v)) s ((s.hw.setWord (aomBase + 4 * s.hw.fld AOM_ADDR 0 15 2) v).told 0) []) ∧
  (∀ (s : State) who v, s.Grants who AOM_DATA 0 true → 4 * s.hw.fld AOM_ADDR 0 15 2 < 0xC000 ∨ isRcp who = true →
    Effect (.aomData who (some v)) s (s.hw.told 0) []) ∧
  (∀ (s : State) who, s.Grants who AOM_DATA 0 false → ¬ (4 * s.hw.fld AOM_ADDR 0 15 2 < 0xC000 ∧ s.hw.pkg.saved = true) →
    Effect (.aomData who none) s (s.hw.told (s.hw.word (aomBase + 4 * s.hw.fld AOM_ADDR 0 15 2))) [])

/-- RUN and SINGLE start, arm and stop the machine, and the deadlines of a step act by the overrun policy. Step control (02 R83, 17 R464): a write
of RUN = 0 clears RUN and SINGLE; while a step is in progress RUN = 1 or SINGLE = 1 only sets the bits; while the fault collector is HALTED neither
has an effect; a machine that holds alone starts step STEP_NUM with its delivery phase in the cycle after the write. The first three change nothing
else. Deadlines (02 R63, R69, R73): at the delivery deadline, with a frame still to end, STRETCH counts the step once and the other policies force
delivery close and count the forcing once; at N(t+1) a step in delivery, or in integrate under STRETCH, goes on; at STEP_STRETCH_MAX under STRETCH a
step in delivery raises STEP_STRETCH_OVF, goes on as under DROP and has its close forced. Device time reaches the instant (log 2); while no counter
counts a wait, nothing else changes. -/
def Obligations.StepControlAndDeadlines : Prop :=
  ((∀ (s : State) who, s.Grants who STEP_CTRL 0 true → Effect (.stepRunStop who) s (s.hw.told 0) [((STEP_CTRL, 0), 0#32)]) ∧
  (∀ (s : State) who, s.Grants who STEP_CTRL 0 true → s.hw.flag FLT_STAT 0 2 = false → s.hw.holds = false →
    Effect (.stepRunStart who) s (s.hw.told 0) [((STEP_CTRL, 0), 1#32)] ∧
    ∀ run, Effect (.stepSingle who run) s (s.hw.told 0) [((STEP_CTRL, 0), 3#32)]) ∧
  (∀ (s : State) who, s.Grants who STEP_CTRL 0 true → s.hw.flag FLT_STAT 0 2 = true →
    Effect (.stepRunStart who) s (s.hw.told 0) [] ∧ ∀ run, Effect (.stepSingle who run) s (s.hw.told 0) []) ∧
  (∀ (s : State) who, s.Grants who STEP_CTRL 0 true → s.hw.flag FLT_STAT 0 2 = false → s.hw.holds = true → s.hw.arrayEn = false →
    s.hw.sw.resume = false → s.hw.switchDue = none → s.hw.waits = [] →
    Answers (.stepRunStart who) s (fun t => t.step = { phase := .delivery, start := s.hw.dev + 1 } ∧ t.dev = s.hw.dev + 1 ∧
      t.reg STEP_CTRL 0 = 1#32 ∧ t.stepNum = s.hw.stepNum) ∧
    ∀ run, Answers (.stepSingle who run) s (fun t => t.step = { phase := .delivery, start := s.hw.dev + 1 } ∧ t.dev = s.hw.dev + 1 ∧
      t.reg STEP_CTRL 0 = 3#32 ∧ t.stepNum = s.hw.stepNum))) ∧
  ((∀ s : State, s.hw.powered = true → s.hw.step.phase = .delivery → s.hw.step.framesDone = false → s.hw.policy = .stretch → s.hw.step.overCnt = false → s.hw.waits = [] →
    Effect .deliveryDeadline s ((s.hw.advTo s.hw.deadline).updStep fun x => { x with overCnt := true })
      [((DELIV_OVER_CNT, 0), satAdd32 (s.hw.reg DELIV_OVER_CNT) 1)]) ∧
  (∀ s : State, s.hw.powered = true → s.hw.step.phase = .delivery → s.hw.step.framesDone = false → s.hw.policy ≠ .stretch → s.hw.step.forced = false → s.hw.waits = [] →
    Effect .deliveryDeadline s ((s.hw.advTo s.hw.deadline).updStep fun x => { x with forceDel := true, forced := true })
      [((FORCE_CNT, 0), satAdd32 (s.hw.reg FORCE_CNT) 1)]) ∧
  (∀ s : State, s.hw.powered = true → s.hw.switching = false → s.hw.waits = [] →
    (s.hw.step.phase = .delivery ∨ (s.hw.step.phase = .integrate ∧ s.hw.policy = .stretch)) →
    Effect .stepDue s (s.hw.advTo s.hw.nominal) []) ∧
  (∀ s : State, s.hw.powered = true → s.hw.switching = false → s.hw.step.phase = .delivery → s.hw.policy = .stretch → s.hw.step.forced = false → s.hw.waits = [] →
    Effect .stretchMaxExpiry s
      (((s.hw.advTo (s.hw.nominal + us * s.hw.stretchMax)).raisePkg fStepStretchOvf).updStep fun x => { x with asDrop := true, forceDel := true, forced := true })
      [((FORCE_CNT, 0), satAdd32 (s.hw.reg FORCE_CNT) 1)]))

/-- Delivery and pour close, and the advance begins the next step. Closes of a package that stands alone (02 R62, R64, R66): once the last frame has
ended and everything is drip-quiet, delivery close begins the integrate phase when the broadcast of DQUIET ends, 160 fabric cycles after the last
drip event was placed (where neither the deadline nor N(t+1) comes before); once every available cluster is done, and the step ends no epoch, the
pour closes 160 fabric cycles after the last done, and POUR_LAT holds the latency. The step number stays. The advance (02 R56, R68, R83) of a step
whose pour is over, with no switch due: STEP_NUM increments; with RUN set and SINGLE clear the next step begins with its delivery phase at
max(N(t+1), close(t)); with RUN clear or SINGLE set the machine holds and both bits read 0. -/
def Obligations.PhaseClosesAndAdvance : Prop :=
  ((∀ s : State, s.hw.powered = true → s.hw.switching = false → s.hw.step.phase = .delivery → s.hw.step.forceDel = false → s.hw.step.framesDone = true →
    s.hw.arrayEn = false → s.hw.localQuiet = true → s.hw.quietLate = false → s.hw.policy = .stretch ∨ s.hw.quietAt < s.hw.nominal → s.hw.waits = [] →
    Answers .deliveryClose s fun t =>
      t.step = { s.hw.step with phase := .integrate, dclosedAt := max s.hw.dev (max s.hw.step.start s.hw.step.dripAt + 160) } ∧
      t.dev = max s.hw.dev (max s.hw.step.start s.hw.step.dripAt + 160) ∧ t.stepNum = s.hw.stepNum) ∧
  (∀ s : State, s.hw.powered = true → s.hw.switching = false → s.hw.step.phase = .integrate → s.hw.arrayEn = false → s.hw.allDone = true →
    s.hw.lastStep = false → s.hw.dev < s.hw.lastDone + 160 → s.hw.waits = [] → (∀ p ∈ s.hw.clusters, p.2.spillCnt = []) →
    Answers .pourClose s fun t =>
      t.step = { s.hw.step with phase := .pour, poured := s.hw.lastDone + 160, closed := s.hw.lastDone + 160 } ∧ t.dev = s.hw.lastDone + 160 ∧
      t.reg POUR_LAT 0 = 160#32 ∧ ∀ r u, (r, u) ≠ (POUR_LAT, 0) → t.reg r u = s.hw.reg r u)) ∧
  ((∀ s : State, s.hw.powered = true → s.hw.step.phase = .pour → s.hw.switching = false → s.hw.switchDue = none → s.hw.dev ≤ max s.hw.nominal s.hw.step.closed → s.hw.waits = [] →
    s.hw.flag STEP_CTRL 0 0 = true → s.hw.flag STEP_CTRL 0 1 = false →
    Answers .stepAdvance s fun t => t.stepNum = s.hw.stepNum + 1#32 ∧ t.dev = max s.hw.nominal s.hw.step.closed ∧
      t.step = { phase := .delivery, start := max s.hw.nominal s.hw.step.closed } ∧ t.reg STEP_CTRL 0 = s.hw.reg STEP_CTRL 0) ∧
  (∀ s : State, s.hw.powered = true → s.hw.step.phase = .pour → s.hw.switching = false → s.hw.switchDue = none → s.hw.dev ≤ max s.hw.nominal s.hw.step.closed → s.hw.waits = [] →
    (s.hw.flag STEP_CTRL 0 0 = false ∨ s.hw.flag STEP_CTRL 0 1 = true) →
    Answers .stepAdvance s fun t => t.stepNum = s.hw.stepNum + 1#32 ∧ t.dev = max s.hw.nominal s.hw.step.closed ∧
      t.step = { start := max s.hw.nominal s.hw.step.closed } ∧ t.fld STEP_CTRL 0 1 0 = 0))

/-- Barrier tokens of the step in progress are recorded and passed on, and stale tokens are counted. Barrier tokens (02 R75, R76, 14 R397): over a
link that carries tokens, a token that is no repeat of the last is taken; one whose tag is not that of the step, or in a package outside an array,
is stale and counted; DONE and DQUIET set their link's bit; the first copy of POUR or DCLOSE is passed to the packages below, POUR with the step
number that begins, and its instant is recorded. Nothing else changes. -/
def Obligations.BarrierTokens : Prop :=
  (∀ (s : State) (k : Link) (g : BitVec 4), s.hw.powered = true → s.hw.scUp k = true → (s.hw.link k).lastTok ≠ some (1, g.toNat) → s.hw.arrayEn = true →
    g.toNat = s.hw.stepTag →
    Effect (.tokenDoneRx k g) s ((s.hw.updLink k fun l => { l with lastTok := some (1, g.toNat) }).updStep fun x => { x with doneTok := orBit x.doneTok k }) []) ∧
  (∀ (s : State) (k : Link) (g : BitVec 4), s.hw.powered = true → s.hw.scUp k = true → (s.hw.link k).lastTok ≠ some (2, g.toNat) → s.hw.arrayEn = true →
    g.toNat = s.hw.stepTag →
    Effect (.tokenDquietRx k g) s ((s.hw.updLink k fun l => { l with lastTok := some (2, g.toNat) }).updStep fun x => { x with quietTok := orBit x.quietTok k }) []) ∧
  (∀ (s : State) (k : Link) (g : BitVec 4), s.hw.powered = true → s.hw.scUp k = true → (s.hw.link k).lastTok ≠ some (3, g.toNat) → s.hw.arrayEn = true →
    s.hw.rejoining = false → g.toNat = s.hw.stepTag →
    (s.hw.step.pourTok = none → Effect (.tokenPourRx k g) s
      ((((s.hw.updLink k fun l => { l with lastTok := some (3, g.toNat) }).forward 3 g.toNat).sendStepNum (s.hw.stepNum + 1#32)).updStep fun x =>
        { x with pourTok := some s.hw.dev }) []) ∧
    (s.hw.step.pourTok ≠ none → Effect (.tokenPourRx k g) s (s.hw.updLink k fun l => { l with lastTok := some (3, g.toNat) }) [])) ∧
  (∀ (s : State) (k : Link) (g : BitVec 4), s.hw.powered = true → s.hw.scUp k = true → (s.hw.link k).lastTok ≠ some (4, g.toNat) → s.hw.arrayEn = true →
    g.toNat = s.hw.stepTag →
    (s.hw.step.dcloseTok = none → Effect (.tokenDcloseRx k g) s
      (((s.hw.updLink k fun l => { l with lastTok := some (4, g.toNat) }).forward 4 g.toNat).updStep fun x => { x with dcloseTok := some s.hw.dev }) []) ∧
    (s.hw.step.dcloseTok ≠ none → Effect (.tokenDcloseRx k g) s (s.hw.updLink k fun l => { l with lastTok := some (4, g.toNat) }) [])) ∧
  (∀ (s : State) (k : Link) (g : BitVec 4), s.hw.powered = true → s.hw.scUp k = true → (s.hw.link k).lastTok ≠ some (1, g.toNat) →
    s.hw.arrayEn = false ∨ g.toNat ≠ s.hw.stepTag →
    Effect (.tokenDoneRx k g) s (s.hw.updLink k fun l => { l with lastTok := some (1, g.toNat) })
      [((TOKEN_STALE_CNT, 0), satAdd32 (s.hw.reg TOKEN_STALE_CNT) 1)])

/-- Warm, wake, integrate start of a quiet core, egress handoff, slice swap and done of a core. What one core does in a step: an idle core gates its
clock (15 R414); a core whose wake ends takes the event it held into its list queue (02 R79); a quiet core with nothing to integrate skips the
phase, is counted and reports 8 cycles (03 R95); in the integrate phase the egress buffer of a core whose unit has finished hands up to two events
to the local port (03 R102); a swap pages in the slice for which nothing waits (01 R43); a core raises done once its unit has finished and nothing
is left (02 R65). -/
def Obligations.CoreStepCommands : Prop :=
  (∀ (s : State) (k : Core), s.hw.powered = true → (s.hw.core k).eng.running = false → (s.hw.core k).listq = [] → (s.hw.core k).evq = [] →
    (s.hw.core k).paging = false → (s.hw.core k).integ.stage = .finished →
    Effect (.warmEntry (.core k)) s (s.hw.updCore k fun x => { x with warm := true }) []) ∧
  (∀ (s : State) (k : Core) (o : Offer), s.hw.powered = true → s.hw.coreAvail k = true → (s.hw.core k).held = [o] → (s.hw.core k).listq = [] →
    0 < (s.hw.reg LISTQ_HWM k).toNat →
    Effect (.wakeComplete k) s
      ((s.hw.updCore k fun x => { x with warm := false, held := [] }).updCore k fun x => { x with listq := x.listq ++ [o] }) []) ∧
  (∀ (s : State) (k : Core), s.hw.powered = true → s.hw.step.phase = .integrate → s.hw.coreAvail k = true → s.hw.hostOf k = k → s.hw.live k = k →
    (s.hw.core k).done = false → (s.hw.core k).integ.stage = .idle → (s.hw.core k).eng.running = false → (s.hw.core k).evq = [] →
    (s.hw.core k).paging = false → (s.hw.updCore k fun x => { x with warm := false }).nothingToDo k = true →
    Effect (.integrateStart k) s
      ((s.hw.updCore k fun x => { x with warm := false }).updCore k fun x => { x with integ := { begun := max s.hw.step.dclosedAt (s.hw.core k).eng.freeAt, stage := .finished } })
      [((CORE_INTEG_CYC, k), 8#32), ((QUIET_SKIP_CNT, k), satAdd32 (s.hw.reg QUIET_SKIP_CNT k) 1)]) ∧
  (∀ (s : State) (k : Core), s.hw.powered = true → s.hw.step.phase = .integrate → s.hw.coreAvail k = true →
    (s.hw.core (s.hw.hostOf k)).integ.stage = .finished → s.hw.waited EGRESS_STALL_CNT (s.hw.live (s.hw.hostOf k)) = 0 →
    Effect (.egressHandoff k) s
      (((s.hw.core k).egress.take (min 2 (portDepth - (s.hw.cl (k / 32)).port.length))).foldl (fun h e => h.portIn (k / 32) (k % 32) e)
        (s.hw.updCore k fun x => { x with egress := x.egress.drop (min 2 (portDepth - (s.hw.cl (k / 32)).port.length)) })) []) ∧
  (∀ (s : State) (k : Core) (i : Nat), s.hw.powered = true → (s.hw.core k).paging = true → (s.hw.core k).pageTo = i → (s.hw.core k).integ.stage = .idle →
    s.hw.paired k = false → ((s.hw.core k).left.filter fun x => x.1 == i) = [] → ((s.hw.core k).inbox.filter fun e => e.slice == i) = [] →
    Effect (.sliceSwapComplete k) s
      (((((s.hw.copy (coreBase k) (sliceBase s.hw.ctx k (s.hw.core k).resident) (64 * s.hw.sliceSize k)).copy
        (sliceBase s.hw.ctx k i) (coreBase k) (64 * s.hw.sliceSize k)).updCore k fun x => { x with resident := i, paging := false }).updCore k fun x =>
        { x with left := x.left.filter fun y => y.1 != i }).updCore k fun x => { x with inbox := x.inbox.filter fun e => e.slice != i })
      [((SLICE_SWAP_CNT, k), satAdd32 (s.hw.reg SLICE_SWAP_CNT k) (if s.hw.sliceSize k = 2048 then 2 else 1))]) ∧
  (∀ (s : State) (k : Core), s.hw.powered = true → s.hw.mayBeDone k = true → s.hw.waits = [] →
    Answers (.coreDone k) s fun t => (t.core k) = { s.hw.core k with done := true } ∧ (∀ j, j ≠ (k : Nat) → t.core j = s.hw.core j) ∧
      (∀ c, c ≠ (k : Nat) / 32 → t.cl c = s.hw.cl c) ∧ t.step = s.hw.step ∧ ∀ r u, t.reg r u = s.hw.reg r u)

/-- Parameter-set, dense-descriptor, seed and queue writes of a core do exactly what their registers say. Core register commands (03 R92, R113, 04
R530, 08 R256, R258): a commit joins its queue of 8 or 4, or sets OVF; a readback copies the live words into the window; CLR_OVF clears OVF; a seed
of 0 is stored as 1; DENSE_BINQ waits for the advance while the context is resident and is written at once otherwise. Nothing else changes. -/
def Obligations.CoreRegisterCommands : Prop :=
  (∀ (s : State) who (k : Core), s.Grants who PSET_CTRL k true → (s.hw.core k).psetq.length < 8 →
    Effect (.psetCommit who k) s
      ((s.hw.updCore k fun x => { x with psetq := x.psetq ++
        [{ set := s.hw.fld PSET_SEL k 7 0, words := (List.range 8).map fun i => s.hw.reg (PSET_WIN i) k }] }).told 0) []) ∧
  (∀ (s : State) who (k : Core), s.Grants who PSET_CTRL k true → 8 ≤ (s.hw.core k).psetq.length →
    Effect (.psetCommit who k) s (s.hw.told 0) [((PSET_STAT, k), setBits (s.hw.reg PSET_STAT k) 8 8 1)]) ∧
  (∀ (s : State) who (k : Core), s.Grants who PSET_CTRL k true → (∀ i, i < 8 → s.hw.mark (psetAddr k (s.hw.fld PSET_SEL k 7 0) + 4 * i) = 0) →
    Effect (.psetReadback who k) s (s.hw.told 0)
      ((List.range 8).map fun i => ((PSET_WIN i, (k : Nat)), s.hw.word (psetAddr k (s.hw.fld PSET_SEL k 7 0) + 4 * i)))) ∧
  (∀ (s : State) who (k : Core), s.Grants who PSET_CTRL k true →
    Effect (.psetClrOvf who k) s (s.hw.told 0) [((PSET_STAT, k), setBits (s.hw.reg PSET_STAT k) 8 8 0)]) ∧
  (∀ (s : State) who (k : Core) v, s.Grants who MC_SEED k true →
    Effect (.mcSeedWrite who k v) s (s.hw.told 0) [((MC_SEED, k), if v = 0#32 then 1#32 else v)]) ∧
  (∀ (s : State) who (k : Core), s.Grants who DL_CTRL k true → (s.hw.core k).dlq.length < 4 →
    Effect (.dlCommit who k) s
      ((s.hw.updCore k fun x => { x with dlq := x.dlq ++
        [{ layer := s.hw.fld DL_SEL k 3 0, words := (List.range 8).map fun i => s.hw.reg (DL_WIN i) k }] }).told 0) []) ∧
  (∀ (s : State) who (k : Core), s.Grants who DL_CTRL k true → 4 ≤ (s.hw.core k).dlq.length →
    Effect (.dlCommit who k) s (s.hw.told 0) [((DL_STAT, k), setBits (s.hw.reg DL_STAT k) 8 8 1)]) ∧
  (∀ (s : State) who (k : Core), s.Grants who DL_CTRL k true →
    (s.hw.descInside k (s.hw.fld DL_SEL k 3 0) = true → Effect (.dlReadback who k) s (s.hw.told 0)
      ((List.range 8).map fun i => ((DL_WIN i, (k : Nat)), s.hw.word (s.hw.descAddr k (s.hw.fld DL_SEL k 3 0) + 4 * i)))) ∧
    (s.hw.descInside k (s.hw.fld DL_SEL k 3 0) = false → Effect (.dlReadback who k) s (({ s.hw with fresh := s.hw.fresh + 8 } : Hw).told 0)
      ((List.range 8).map fun i => ((DL_WIN i, (k : Nat)), Config.freeWord (s.hw.fresh + i))))) ∧
  (∀ (s : State) who (k : Core), s.Grants who DL_CTRL k true →
    Effect (.dlClrOvf who k) s (s.hw.told 0) [((DL_STAT, k), setBits (s.hw.reg DL_STAT k) 8 8 0)]) ∧
  (∀ (s : State) who (k : Core) v, s.Grants who DENSE_BINQ k true → s.hw.resident (k / 32) = true →
    Effect (.denseBinqWrite who k v) s ((s.hw.updCore k fun x => { x with binq := some (v &&& 0xFFFF#32) }).told 0) []) ∧
  (∀ (s : State) who (k : Core) v, s.Grants who DENSE_BINQ k true → s.hw.resident (k / 32) = false →
    Effect (.denseBinqWrite who k v) s (s.hw.told 0) [((DENSE_BINQ, k), v &&& 0xFFFF#32)])

/-- CORE_LAYOUT ignores a write while the core's context is resident and the core is available. R114: a write to CORE_LAYOUT is ignored while the
core's context is resident and the core is available, and changes nothing. -/
def Obligations.LayoutWriteIsClosedWhileInUse : Prop :=
  ∀ (s : State) who (k : Core) v, s.Grants who CORE_LAYOUT k true → s.hw.resident (k / 32) = true → s.hw.coreAvail k = true →
    Effect (.coreLayoutWrite who k v) s (s.hw.told 0) []

/-- SLICE_CFG ignores a write while the core is available and its slice pages. R53: a write to SLICE_CFG while the core is available and
SLICE_STAT.PAGING is 1 is ignored, and changes nothing. PAGING of a pair's guest is its host's. -/
def Obligations.SliceWriteIsClosedWhilePaging : Prop :=
  ∀ (s : State) who (k : Core) v, s.Grants who SLICE_CFG k true → s.hw.coreAvail k = true → (s.hw.core (s.hw.hostOf k)).paging = true →
    Effect (.sliceCfgWrite who k v) s (s.hw.told 0) []

/-- SLICE_CFG, CORE_LAYOUT, REMAP, PHYS_RETIRE and the cluster's memory registers take granted writes. Writes that change the shape of cores and
clusters: SLICE_CFG and CORE_LAYOUT (with NEURONS at most the layout's maximum) take unlocked writes outside R53 and R114; outside a hold, REMAP is
pending until the advance (03 R115) and PHYS_RETIRE gathers bits, which firmware keeps; BANK_OWNER starts a handover (05 R158); a bank's power field
moves an owned region to RET (05 R168); CM_FENCE reads 1; a soft repair that enables no column is stored and kept by firmware, on a factory-fused
spare ignored and counted (05 R167); ROAST_SEED stores 1 for 0 (09 R282); CKPT_STAT.READY clears. -/
def Obligations.ShapeRegistersTakeWrites : Prop :=
  (∀ (s : State) who (k : Core) v, s.Grants who SLICE_CFG k true → s.hw.coreAvail k = false → s.hw.locked pgSLICE k = false →
    Effect (.sliceCfgWrite who k v) s (s.hw.told 0) [((SLICE_CFG, k), capFld 3 0 8 (s.hw.written SLICE_CFG k v))]) ∧
  (∀ (s : State) who (k : Core) v, s.Grants who CORE_LAYOUT k true → s.hw.coreAvail k = false → s.hw.locked pgCORECFG k = false →
    Effect (.coreLayoutWrite who k v) s (s.hw.told 0)
      [((CORE_LAYOUT, k), capFld 29 16 (if bit (s.hw.written CORE_LAYOUT k v) 0 then 8192 else 2048) (s.hw.written CORE_LAYOUT k v))]) ∧
  (∀ (s : State) who (c : Cluster) (i : Fin 32) v, s.Grants who (REMAP i) c true → s.hw.holds = false →
    Effect (.remapWrite who c i v) s ((s.hw.updCl c fun x => { x with remapPend := true }).told 0) [((REMAP i, c), v &&& 0x001F033F#32)]) ∧
  (∀ (s : State) who (c : Cluster) v, s.Grants who PHYS_RETIRE_LO c true → s.hw.holds = false →
    Effect (.physRetireWrite who c false v) s
      (({ s.hw with fw := { s.hw.fw with retired := Tbl.set 0 s.hw.fw.retired c (Tbl.get 0 s.hw.fw.retired c |||
        ((s.hw.reg PHYS_RETIRE_LO c ||| v).toNat + s.hw.fld PHYS_RETIRE_HI c 1 0 * 2 ^ 32)) } }).told 0)
      [((PHYS_RETIRE_LO, c), s.hw.reg PHYS_RETIRE_LO c ||| v)]) ∧
  (∀ (s : State) who (c : Cluster) (b : Fin 32) v, s.Grants who (BANK_OWNER b) c true → ownerCodeOk (bits v 5 0) = true → s.hw.bankPending c b = false →
    bits v 5 0 ≠ s.hw.bankOwner c b →
    Effect (.bankOwnerWrite who c b v) s (s.hw.told 0)
      [((BANK_HANDOVER_PENDING, c), setBits (s.hw.reg BANK_HANDOVER_PENDING c) b b 1), ((BANK_OWNER b, c), w32 (bits v 5 0))]) ∧
  (∀ (s : State) who (c : Cluster) (b : Fin 16), s.Grants who BANK_PWR_LO c true → s.hw.locked pgCMCFG c = false →
    (∀ i, i < 16 → (s.hw.bank c i).waking = false ∧ (s.hw.bank c i).pwr = bits (s.hw.reg BANK_PWR_LO c) (2 * i + 1) (2 * i) ∧ (i = b.val ∨ (s.hw.bank c i).pwr < 2)) →
    bits (s.hw.reg BANK_PWR_LO c) (2 * b + 1) (2 * b) ≠ 1 →
    Answers (.bankPwrWrite who c false (setBits (s.hw.reg BANK_PWR_LO c) (2 * b + 1) (2 * b) 1)) s fun t =>
      (∀ i, t.bank c i = if i = b.val then { s.hw.bank c b with pwr := 1 } else s.hw.bank c i) ∧
      t.reg BANK_PWR_LO c = setBits (s.hw.reg BANK_PWR_LO c) (2 * b + 1) (2 * b) 1 ∧ (∀ r u, (r, u) ≠ (BANK_PWR_LO, c.val) → t.reg r u = s.hw.reg r u) ∧
      t.mem = s.hw.mem ∧ t.cores = s.hw.cores ∧ t.resp = {}) ∧
  (∀ (s : State) who (c : Cluster), s.Grants who CM_FENCE c false → Effect (.cmFenceRead who c) s (s.hw.told 1) []) ∧
  (∀ (s : State) who (c : Cluster) (v : Word) (sp : Nat), s.Grants who SR_DATA c true → isRcp who = false → sp = s.hw.fld SR_SEL c 6 0 → bit v 15 = false →
    (((s.hw.bankOwner c (sp / 4) = 0x22 ∨ s.hw.bankOwner c (sp / 4) = 0x3F) ∧ s.hw.bankPending c (sp / 4) = false) ∨ (s.hw.bank c (sp / 4)).pwr = 2) →
    if Config.factoryFused c sp = true then Effect (.softRepairWrite who c v) s (s.hw.told 0) [((OWNER_WRITE_IGN_CNT, c), satAdd32 (s.hw.reg OWNER_WRITE_IGN_CNT c) 1)]
    else Effect (.softRepairWrite who c v) s
      (({ s.hw.setTab .spare c sp (v &&& 0x80FF#32) with fw := { s.hw.fw with
        repairs := (s.hw.fw.repairs.filter fun x : Nat × Word × Word => !(x.1 == (c : Nat) && x.2.1 == s.hw.reg SR_SEL c)) ++ [((c : Nat), s.hw.reg SR_SEL c, v &&& 0x80FF#32)] } }).told 0) []) ∧
  (∀ (s : State) who (c : Cluster) v, s.Grants who ROAST_SEED c true →
    Effect (.roastSeedWrite who c v) s (s.hw.told 0) [((ROAST_SEED, c), if v = 0#32 then 1#32 else v)]) ∧
  (∀ (s : State) who (c : Cluster), s.Grants who CKPT_STAT c true →
    Effect (.ckptStatClear who c) s (s.hw.told 0) [((CKPT_STAT, c), setBits (s.hw.reg CKPT_STAT c) 31 31 0)])

/-- The bank window reaches the bank it names, and plasticity registers ignore writes while a roast is in progress. The bank window (05 R170) on the
region of a bank above its owned part: a write stores the word and reports 0; where port B is busy the access is held and repeated (05 R162), and a
0 is reported; each advances the offset. ROASTCFG while the roast is busy (09 R282): writes of segment and rule words are ignored and counted,
though the window advances; a write of ROAST_SEED still counts. -/
def Obligations.BankWindowAndPlasticityRegisters : Prop :=
  ((∀ (s : State) who (c : Cluster) v, s.Grants who BANKWIN_DATA c true → ownedEnd ≤ 4 * s.hw.fld BANKWIN_ADDR c 18 2 →
    4 * s.hw.fld BANKWIN_ADDR c 18 2 < 0x60000 →
    Effect (.bankwinData who c (some v) false) s
      ((s.hw.setWord (bankBase c (s.hw.fld BANKWIN_ADDR c 28 24) + 4 * s.hw.fld BANKWIN_ADDR c 18 2) v).told 0)
      [((BANKWIN_ADDR, c), setBits (s.hw.reg BANKWIN_ADDR c) 18 2 ((s.hw.fld BANKWIN_ADDR c 18 2 + 1) % 2 ^ 17)), ((BANKWIN_STAT, c), 0#32)] ∧
    Effect (.bankwinData who c (some v) true) s
      ((s.hw.updCl c fun x => { x with retry := x.retry ++ [.window (s.hw.fld BANKWIN_ADDR c 28 24) (4 * s.hw.fld BANKWIN_ADDR c 18 2) v] }).told 0)
      [((BANKWIN_ADDR, c), setBits (s.hw.reg BANKWIN_ADDR c) 18 2 ((s.hw.fld BANKWIN_ADDR c 18 2 + 1) % 2 ^ 17)), ((BANKWIN_STAT, c), 0#32)])) ∧
  ((∀ (s : State) who (c : Cluster) v, s.Grants who SEG_DATA c true → (s.hw.cl c).roast.busy = true →
    Effect (.segData who c (some v)) s (s.hw.told 0)
      [((SEG_SEL, c), nextCarry (s.hw.reg SEG_SEL c) 9 8 3 4 0), ((ROAST_WRITE_IGN_CNT, c), satAdd32 (s.hw.reg ROAST_WRITE_IGN_CNT c) 1)]) ∧
  (∀ (s : State) who (c : Cluster) v, s.Grants who RULE_DATA c true → (s.hw.cl c).roast.busy = true →
    Effect (.ruleData who c (some v)) s (s.hw.told 0)
      [((RULE_ADDR, c), nextCarry (s.hw.reg RULE_ADDR c) 8 3 37 2 0), ((ROAST_WRITE_IGN_CNT, c), satAdd32 (s.hw.reg ROAST_WRITE_IGN_CNT c) 1)]) ∧
  (∀ (s : State) who (c : Cluster) v, s.Grants who ROAST_SEED c true → (s.hw.cl c).roast.busy = true →
    Effect (.roastSeedWrite who c v) s (s.hw.told 0) [((ROAST_SEED, c), if v = 0#32 then 1#32 else v)]))

/-- Frame release, timer, actuator, GPIO and pad writes do exactly what their registers say. Peripheral register commands: releasing a full frame
buffer clears FULL and its error (10 R304); TMR_COUNT and the compare registers take the value written, a compare of 1 in PWM mode into its shadow
(11 R315, R319); reading a capture register answers it and clears its NEW bit (11 R316); clearing SAFE restarts the entry's timeout (11 R325);
GPIO_SET and GPIO_CLR change GPIO_OUT bit by bit (11 R331); PAD_EN takes the write. Nothing else changes. -/
def Obligations.TimerAndPinRegisters : Prop :=
  (∀ (s : State) who (k : CsiId), s.Grants who FR_STAT k true → s.hw.flag FR_STAT k 0 = true →
    Effect (.frameBufferRelease who k 1#2) s (s.hw.told 0) [((FR_STAT, k), setBits (setBits (s.hw.reg FR_STAT k) 0 0 0) 2 2 0)]) ∧
  (∀ (s : State) who (k : CsiId), s.Grants who FR_STAT k true → s.hw.flag FR_STAT k 1 = true →
    Effect (.frameBufferRelease who k 2#2) s (s.hw.told 0) [((FR_STAT, k), setBits (setBits (s.hw.reg FR_STAT k) 1 1 0) 3 3 0)]) ∧
  (∀ (s : State) who (k : TmrId) v, s.Grants who TMR_COUNT k true →
    Effect (.tmrCountWrite who k v) s (s.hw.told 0) [((TMR_COUNT, k), v)]) ∧
  (∀ (s : State) who (k : TmrId) v, s.Grants who TMR_CMP0 k true → ¬ (s.hw.flag TMR_CTRL k 11 = true ∧ v = s.hw.reg TMR_COUNT k) →
    Effect (.tmrCmpWrite who k false v) s (s.hw.told 0) [((TMR_CMP0, k), v)]) ∧
  (∀ (s : State) who (k : TmrId) v, s.Grants who TMR_CMP1 k true → s.hw.pwmMode k = false →
    ¬ (s.hw.flag TMR_CTRL k 11 = true ∧ v = s.hw.reg TMR_COUNT k) →
    Effect (.tmrCmpWrite who k true v) s (s.hw.told 0) [((TMR_CMP1, k), v)]) ∧
  (∀ (s : State) who (k : TmrId) v, s.Grants who TMR_CMP1 k true → s.hw.pwmMode k = true →
    Effect (.tmrCmp1ShadowWrite who k v) s ((s.hw.updAct k fun x => { x with pend := x.pend.filter fun p => decide (s.hw.dev < p.1) }).told 0) [((TMR_CMP1_SH, k), v)]) ∧
  (∀ (s : State) who (k : TmrId), s.Grants who TMR_CAPR k false →
    Effect (.tmrCaptureRead who k 0) s (s.hw.told (s.hw.reg TMR_CAPR k)) [((TMR_CAPSTAT, k), setBits (s.hw.reg TMR_CAPSTAT k) 0 0 0)]) ∧
  (∀ (s : State) who (k : TmrId), s.Grants who TMR_CAPF k false →
    Effect (.tmrCaptureRead who k 1) s (s.hw.told (s.hw.reg TMR_CAPF k)) [((TMR_CAPSTAT, k), setBits (s.hw.reg TMR_CAPSTAT k) 1 1 0)]) ∧
  (∀ (s : State) who (k : TmrId), s.Grants who TMR_WIDTH k false →
    Effect (.tmrCaptureRead who k 2) s (s.hw.told (s.hw.reg TMR_WIDTH k)) [((TMR_CAPSTAT, k), setBits (s.hw.reg TMR_CAPSTAT k) 1 1 0)]) ∧
  (∀ (s : State) who, s.Grants who ACT_STAT 0 true → s.hw.flag ACT_STAT 0 0 = true →
    Effect (.actSafeClear who 1#16) s ((s.hw.updAct 0 fun x => { x with since := s.hw.dev }).told 0)
      [((ACT_STAT, 0), setBits (s.hw.reg ACT_STAT 0) 0 0 0)]) ∧
  (∀ (s : State) who v, s.Grants who GPIO_SET 0 true → Effect (.gpioSetWrite who v) s (s.hw.told 0) [((GPIO_OUT, 0), s.hw.reg GPIO_OUT 0 ||| v)]) ∧
  (∀ (s : State) who v, s.Grants who GPIO_CLR 0 true → Effect (.gpioClrWrite who v) s (s.hw.told 0) [((GPIO_OUT, 0), s.hw.reg GPIO_OUT 0 &&& ~~~ v)]) ∧
  (∀ (s : State) who v, s.Grants who PAD_EN 0 true → Effect (.padEnWrite who v) s (s.hw.told 0) [((PAD_EN, 0), s.hw.written PAD_EN 0 v)])

/-- The limiter, actuator, gate-list, MACsec and attestation windows move their words. Windows whose words have rules of their own: a read of
LIM_DROP_CNT clears it, or leaves the 1 of an increment in the same cycle (10 R308, 00 R16); an actuator word above 0 is stored in its bits (11
R334); an entry of the gate list that is not operational takes a write, the operational one ignores it (13 R379); an SA word is stored, and a SAK
word reads 0 (13 R381); the report's word is answered (18 R496). Each access advances its address. -/
def Obligations.LimiterActuatorAndPortWindows : Prop :=
  (∀ (s : State) who (q : Quad), s.Grants who LIM_DATA q false → s.hw.fld LIM_ADDR q 17 16 = 2 →
    ∀ same, Effect (.limData who q (.read same)) s
      ((s.hw.setLim q (s.hw.fld LIM_ADDR q 9 0) 2 (if same then 1#32 else 0#32)).told (s.hw.lim q (s.hw.fld LIM_ADDR q 9 0) 2))
      [((LIM_ADDR, q), nextCarry (s.hw.reg LIM_ADDR q) 17 16 3 9 0)]) ∧
  (∀ (s : State) who v, s.Grants who ACT_DATA 0 true → 0 < s.hw.fld ACT_ADDR 0 11 8 → s.hw.fld ACT_ADDR 0 11 8 ≤ 9 →
    Effect (.actData who (some v)) s
      ((s.hw.setTab .act 0 (s.hw.fld ACT_ADDR 0 3 0 + 16 * s.hw.fld ACT_ADDR 0 11 8) (v &&& actMask (s.hw.fld ACT_ADDR 0 11 8))).told 0)
      [((ACT_ADDR, 0), nextCarry (s.hw.reg ACT_ADDR 0) 11 8 9 3 0)]) ∧
  (∀ (s : State) who, s.Grants who ACT_DATA 0 false → s.hw.fld ACT_ADDR 0 11 8 ≤ 9 →
    Effect (.actData who none) s (s.hw.told (s.hw.actWord (s.hw.fld ACT_ADDR 0 3 0) (s.hw.fld ACT_ADDR 0 11 8)))
      [((ACT_ADDR, 0), nextCarry (s.hw.reg ACT_ADDR 0) 11 8 9 3 0)]) ∧
  (∀ (s : State) who (q : Quad) v, s.Grants who GCL_DATA q true → s.hw.fld GCL_ADDR q 8 8 ≠ s.hw.fld GCL_CTRL q 8 8 →
    Effect (.gclData who q (some v)) s
      ((s.hw.setTab .gcl q (128 * s.hw.fld GCL_ADDR q 8 8 + s.hw.fld GCL_ADDR q 6 0) (v ^^^ 0xFF#32)).told 0)
      [((GCL_ADDR, q), nextField (s.hw.reg GCL_ADDR q) 6 0 127)]) ∧
  (∀ (s : State) who (q : Quad) v, s.Grants who GCL_DATA q true → s.hw.fld GCL_ADDR q 8 8 = s.hw.fld GCL_CTRL q 8 8 →
    Effect (.gclData who q (some v)) s (s.hw.told 0) [((GCL_ADDR, q), nextField (s.hw.reg GCL_ADDR q) 6 0 127)]) ∧
  (∀ (s : State) who (q : Quad), s.Grants who GCL_DATA q false →
    Effect (.gclData who q none) s (s.hw.told (s.hw.gcl q (s.hw.fld GCL_ADDR q 8 8) (s.hw.fld GCL_ADDR q 6 0)))
      [((GCL_ADDR, q), nextField (s.hw.reg GCL_ADDR q) 6 0 127)]) ∧
  (∀ (s : State) who (q : Quad) v, s.Grants who MS_SA_DATA q true → s.hw.fld MS_SA_SEL q 4 2 ≤ 4 → s.hw.fld MS_SA_SEL q 11 8 < 14 →
    Effect (.msSaData who q (some v)) s
      ((s.hw.setSa q (s.hw.fld MS_SA_SEL q 4 2) (s.hw.fld MS_SA_SEL q 1 0) (s.hw.fld MS_SA_SEL q 11 8) v).told 0)
      [((MS_SA_SEL, q), nextField (s.hw.reg MS_SA_SEL q) 11 8 15)]) ∧
  (∀ (s : State) who (q : Quad), s.Grants who MS_SA_DATA q false → s.hw.fld MS_SA_SEL q 4 2 ≤ 4 → s.hw.fld MS_SA_SEL q 11 8 < 8 →
    Effect (.msSaData who q none) s (s.hw.told 0) [((MS_SA_SEL, q), nextField (s.hw.reg MS_SA_SEL q) 11 8 15)]) ∧
  (∀ (s : State) who, s.Grants who ATT_DATA 0 false →
    Effect (.attData who none) s (s.hw.told (s.hw.attReport.getD (s.hw.fld ATT_ADDR 0 11 2) 0#32))
      [((ATT_ADDR, 0), nextField (s.hw.reg ATT_ADDR 0) 11 2 1023)])

/-- DMA channels start, abort and answer as their registers say, and port, link and memory-channel registers act as written. DMA channel commands
(12 R341, R342): START of an enabled idle channel begins at the first entries of both lists; of a busy one it is latched once and counted beyond
that; ABORT stops a busy channel and is counted; of an idle one it stops nothing. Nothing else changes, but that the model holds the instant of an
abort, since a start in the same cycle loses to it (12 R341). Register commands of ports, channels and links: GCL_CTRL.CHANGE schedules the other
list (13 R357); a PHY_CTRL write takes the link down, discarding what is queued, counted and raised (13 R350); PTP_ADJ steps the clock and a read of
PTP_NS_LO latches the rest (13 R358); MS_TX_AN takes the write (13 R361); a DRAIN read empties the queues (14 R388); DDR_TRAIN.START begins full
training (14 R404); a refused organisation leaves EN at 0 and sets CFG_ERR (14 R384); SC_CTRL.TRAIN puts a cabled, licensed link into TRAIN and
starts the pair's PLL (14 R398, 15 R427), and REJOIN is kept (14 R401); IMG_PTR clears IMG_BYTES (16 R455); a staged word goes to its DDR5 channel
(16 R449). -/
def Obligations.ChannelPortAndLinkRegisters : Prop :=
  ((∀ (s : State) who (e : Quad) (c : Fin 16), s.Grants who (CH_CMD c) e true → s.hw.en (CH_CTRL c) e 0 = true → (s.hw.dma (16 * e + c)).busy = false →
    Effect (.dmaStart who e c) s ((s.hw.updDma (16 * e + c) fun _ =>
      { busy := true, src := { ent := shortMpa (s.hw.reg (CH_SRC_LIST c) e) }, dst := { ent := shortMpa (s.hw.reg (CH_DST_LIST c) e) } }).told 0) []) ∧
  (∀ (s : State) who (e : Quad) (c : Fin 16), s.Grants who (CH_CMD c) e true → s.hw.en (CH_CTRL c) e 0 = true → (s.hw.dma (16 * e + c)).busy = true →
    (s.hw.dma (16 * e + c)).latched = false →
    Effect (.dmaStart who e c) s ((s.hw.updDma (16 * e + c) fun x => { x with latched := true }).told 0) []) ∧
  (∀ (s : State) who (e : Quad) (c : Fin 16), s.Grants who (CH_CMD c) e true → s.hw.en (CH_CTRL c) e 0 = true → (s.hw.dma (16 * e + c)).busy = true →
    (s.hw.dma (16 * e + c)).latched = true →
    Effect (.dmaStart who e c) s (s.hw.told 0) [((DMA_START_OVR_CNT, e), satAdd32 (s.hw.reg DMA_START_OVR_CNT e) 1)]) ∧
  (∀ (s : State) who (e : Quad) (c : Fin 16), s.Grants who (CH_CMD c) e true → (s.hw.dma (16 * e + c)).busy = true →
    Effect (.dmaAbort who e c) s ((s.hw.updDma (16 * e + c) fun _ => { abortAt := some s.hw.dev }).told 0)
      [((DMA_ABORT_CNT, e), satAdd32 (s.hw.reg DMA_ABORT_CNT e) 1)]) ∧
  (∀ (s : State) who (e : Quad) (c : Fin 16), s.Grants who (CH_CMD c) e true → (s.hw.dma (16 * e + c)).busy = false →
    Effect (.dmaAbort who e c) s ((s.hw.updDma (16 * e + c) fun _ => { abortAt := some s.hw.dev }).told 0) [])) ∧
  ((∀ (s : State) who (q : Quad) v, s.Grants who GCL_CTRL q true →
    Effect (.gclChangeWrite who q v) s
      ((s.hw.updEth q fun x => { x with change := some (s.hw.gclInstant q,
        { base := (s.hw.reg GCL_BASE_LO q).toNat + (s.hw.reg GCL_BASE_HI q).toNat * 2 ^ 32, cycle := s.hw.fld GCL_CYCLE q 29 0, len := s.hw.fld GCL_LEN q 7 0 }) }).told 0)
      [((GCL_CTRL, q), setBits (setBits (s.hw.reg GCL_CTRL q) 0 0 (b2n (bit v 0))) 9 9 1)]) ∧
  (∀ (s : State) who (q : Quad) v, s.Grants who PHY_CTRL q true → bits v 3 1 = 0 → s.hw.linkUp q = true → s.hw.pgEn pgETHCFG q = true → bit v 0 = true →
    (s.hw.eth q).refOut = [] → s.hw.flag PLL_STAT 0 (8 + q) = true →
    Effect (.phyCtrlWrite who q v) s (((s.hw.raisePort fEthLink q).updEth q fun x => { x with tq := [], txWait := [] }).told 0)
      [((PHY_CTRL, q), s.hw.written PHY_CTRL q v),
        ((TX_LINKDOWN_DROP_CNT, q), satAdd32 (s.hw.reg TX_LINKDOWN_DROP_CNT q) ((s.hw.eth q).txWait.length + ((s.hw.eth q).tq.map fun x => x.2.length).sum)),
        ((LINK_DOWN_CNT, q), satAdd32 (s.hw.reg LINK_DOWN_CNT q) 1), ((ETH_STAT, q), setBits (s.hw.reg ETH_STAT q) 5 0 0)]) ∧
  (∀ (s : State) who (v : Word), s.Grants who PTP_ADJ 0 true →
    Effect (.ptpAdjWrite who v) s (({ s.hw with ptp := (((s.hw.ptp : Int) + v.toInt * 2 ^ 30) % (2 ^ 94 : Int)).toNat }).told 0) []) ∧
  (∀ (s : State) who, s.Grants who PTP_NS_LO 0 false →
    Effect (.ptpNsLoRead who) s (s.hw.told (w32 s.hw.ptpNs))
      [((DEV_TIME_HI, 0), w32 (s.hw.dev / 2 ^ 32)), ((DEV_TIME_LO, 0), w32 s.hw.dev), ((PTP_NS_HI, 0), w32 (s.hw.ptpNs / 2 ^ 32))]) ∧
  (∀ (s : State) who (q : Quad) v, s.Grants who MS_TX_AN q true → Effect (.msTxAnWrite who q v) s ((s.hw.updEth q fun x => { x with pnOut := false }).told 0) [((MS_TX_AN, q), s.hw.written MS_TX_AN q v)]) ∧
  (∀ (s : State) who (q : Quad), s.Grants who DRAIN q false →
    Effect (.drainRead who q) s ((s.hw.updDdr q fun x => { x with wq := [], rq := [] }).told (w32 (1 + 2 * b2n (s.hw.ddrSelf q)))) []) ∧
  (∀ (s : State) who (q : Quad) v, s.Grants who DDR_TRAIN q true → s.hw.en DDR_CFG q 0 = true → s.hw.ddrSelf q = false →
    Effect (.ddrTrainStart who q v) s ((s.hw.updDdr q fun x => { x with training := 1 }).told 0)
      [((DDR_STAT, q), setBits (s.hw.reg DDR_STAT q) 0 0 0), ((DDR_TRAIN, q), s.hw.written DDR_TRAIN q (setBit v 0 true))]) ∧
  (∀ (s : State) who (q : Quad) v, s.Grants who DDR_CFG q true → s.hw.locked pgDDRCFG q = false → bit (s.hw.written DDR_CFG q v) 0 = true →
    ddrCapacity (s.hw.written DDR_CFG q v) = none →
    Effect (.ddrCfgEnable who q v) s (s.hw.told 0)
      [((DDR_STAT, q), setBits (s.hw.reg DDR_STAT q) 4 4 1), ((DDR_CFG, q), setBit (s.hw.written DDR_CFG q v) 0 false)]) ∧
  (∀ (s : State) who (q : Quad) v, s.Grants who DDR_CFG q true → s.hw.locked pgDDRCFG q = false → bit (s.hw.written DDR_CFG q v) 0 = true →
    ddrCapacity (s.hw.written DDR_CFG q v) ≠ none → s.hw.pgEn pgDDRCFG q = true → s.hw.ddrSelf q = false →
    s.hw.flag PLL_STAT 0 (4 + q) = true →
    Effect (.ddrCfgEnable who q v) s (s.hw.told 0) [((DDR_CFG, q), s.hw.written DDR_CFG q v)]) ∧
  (∀ (s : State) who (k : Link), s.Grants who SC_CTRL k true → s.hw.lic 1 = true → s.hw.scCabled k = true → bit (s.hw.reg SC_CTRL k) 2 = false →
    s.hw.flag PLL_STAT 0 (12 + k / 2) = false → Tbl.find s.hw.pkg.pllAt (12 + k / 2) = none →
    Effect (.scTrainStart who k) s (({ s.hw with pkg := { s.hw.pkg with pllAt := Tbl.put s.hw.pkg.pllAt (12 + k / 2) s.hw.dev } } : Hw).told 0)
      [((SC_STAT, k), setBits (s.hw.reg SC_STAT k) 1 0 1), ((SC_CTRL, k), s.hw.written SC_CTRL k (s.hw.reg SC_CTRL k ||| 1#32))]) ∧
  (∀ (s : State) who (k : Link), s.Grants who SC_CTRL k true → bit (s.hw.reg SC_CTRL k) 0 = false →
    Effect (.scRejoinWrite who k) s (s.hw.told 0) [((SC_CTRL, k), setBits (s.hw.written SC_CTRL k (s.hw.reg SC_CTRL k ||| 4#32)) 2 2 1)]) ∧
  (∀ (s : State) who (q : Quad) v, s.Grants who IMG_PTR q true →
    Effect (.imgPtrWrite who q v) s (s.hw.told 0) [((IMG_BYTES, q), 0#32), ((IMG_PTR, q), v)]) ∧
  (∀ (s : State) (q : Quad) v ch x, s.hw.powered = true → s.hw.mpa (shortMpa (s.hw.reg IMG_PTR q) + (s.hw.reg IMG_BYTES q).toNat) = some (.ddr ch x) →
    s.hw.flag DDR_STAT ch 0 = true → s.hw.ddrSelf ch = false →
    Effect (.imgDataWrite (.rcp q) q v) s (((s.hw.ddrQueue ch x true).ddrWrite ch x v 15).1.told 0)
      [((IMG_BYTES, q), w32 ((s.hw.reg IMG_BYTES q).toNat + 4))]))

/-- Power requests start, wait or are refused, and reset registers start and release resets. Power registers: a CL_PWR_REQ write sends a cluster in
Steep towards Brew, a resident cluster in Brew waits for the advance before Steep (15 R418), and a target written while a sequence runs is recorded
as pending (15 R424); during a compute reset a request is ignored and counted (16 R436). CL_VTRIM holds the code written, clamped to VMIN and 40,
and the ramp starts from the code present (15 R410). Nothing else changes. Reset registers: RST_CMD.COMPUTE begins interval 1 of a compute reset at
that instant, stopping RUN and abandoning the step (16 R438), and is counted while one runs (16 R436); a CL_RST bit puts a cluster in Brew and its
cores into reset, discarding its queues (16 R435); a CORE_RST_PULSE or CORE_RST_HOLD bit resets its core, and a hold that ends leaves the rest as it
was; a keyed FUSE_PROG starts the blow it names (16 R454). -/
def Obligations.PowerAndResetRequests : Prop :=
  ((∀ (s : State) who (c : Cluster) v, s.Grants who CL_PWR_REQ c true → s.hw.reg RST_STAT = 0#32 → (s.hw.cl c).pst = .steep → bits v 1 0 = 0 →
    Effect (.clPwrReqWrite who c v) s ((s.hw.updCl c fun x => { x with pst := .fromSteep, seqAt := s.hw.dev, avail := false, waitAdv := false }).told 0)
      [((CL_PWR_REQ, c), setBits (s.hw.reg CL_PWR_REQ c) 1 0 0)]) ∧
  (∀ (s : State) who (c : Cluster) v, s.Grants who CL_PWR_REQ c true → s.hw.reg RST_STAT = 0#32 → (s.hw.cl c).pst = .brew → s.hw.resident c = true →
    s.hw.flag STEP_CTRL 0 0 = true → bits v 1 0 = 1 →
    Effect (.clPwrReqWrite who c v) s ((s.hw.updCl c fun x => { x with waitAdv := true }).told 0)
      [((CL_PWR_REQ, c), setBits (s.hw.reg CL_PWR_REQ c) 1 0 1)]) ∧
  (∀ (s : State) who (c : Cluster) v, s.Grants who CL_PWR_REQ c true → s.hw.reg RST_STAT = 0#32 → (s.hw.cl c).pst = .toSteep → (s.hw.cl c).pend = none →
    bits v 1 0 = 2 →
    Effect (.clPwrReqWrite who c v) s ((s.hw.updCl c fun x => { x with pend := some 2 }).told 0)
      [((CL_PWR_REQ, c), setBits (s.hw.reg CL_PWR_REQ c) 1 0 2)]) ∧
  (∀ (s : State) who (c : Cluster) v, s.Grants who CL_PWR_REQ c true → s.hw.reg RST_STAT ≠ 0#32 → bits v 1 0 ≠ 3 →
    Effect (.clPwrReqWrite who c v) s (s.hw.told 0)
      [((PWR_REQ_IGN_CNT, 0), satAdd32 (s.hw.reg PWR_REQ_IGN_CNT) 1), ((CL_PWR_REQ, c), setBits (s.hw.reg CL_PWR_REQ c) 1 0 (bits v 1 0))]) ∧
  (∀ (s : State) who (c : Cluster) v, s.Grants who CL_VTRIM c true →
    Effect (.clVtrimWrite who c v) s ((s.hw.updCl c fun x => { x with vFrom := s.hw.vPresent c, vAt := s.hw.dev }).told 0)
      [((CL_VTRIM, c), setBits (s.hw.reg CL_VTRIM c) 5 0 (max (s.hw.fld CL_VTRIM c 13 8) (min 40 (bits v 5 0))))])) ∧
  ((∀ (s : State) who, s.Grants who RST_CMD 0 true → s.hw.reg RST_STAT = 0#32 →
    Answers (.computeResetCmd who) s fun t => t.reg RST_STAT = 1#32 ∧ t.flag RST_CAUSE 0 3 = true ∧ t.fld STEP_CTRL 0 1 0 = 0 ∧
      t.step = { start := s.hw.step.start } ∧ t.pkg.rstStart = s.hw.dev ∧ t.pkg.rstAt = s.hw.dev ∧
      ∀ c, c < 64 → (t.cl c).avail = false) ∧
  (∀ (s : State) who, s.Grants who RST_CMD 0 true → s.hw.reg RST_STAT ≠ 0#32 →
    Effect (.computeResetCmd who) s (s.hw.told 0) [((RST_IGN_CNT, 0), satAdd32 (s.hw.reg RST_IGN_CNT) 1)]) ∧
  (∀ (s : State) who (hi : Bool) (i : Fin 32) (c : Nat), s.Grants who (if hi then CL_RST_HI else CL_RST_LO) 0 true → s.hw.reg RST_STAT = 0#32 →
    c = 32 * b2n hi + i → (s.hw.cl c).pst = .brew →
    Answers (.clRstWrite who hi (w32 (2 ^ i.val))) s fun t => (t.cl c).inReset = true ∧ (t.cl c).avail = false ∧ (t.cl c).lookq = [] ∧ (t.cl c).preq = [] ∧
      ∀ k ∈ coresOf c, (t.core k).inReset = true ∧ (t.core k).avail = false) ∧
  (∀ (s : State) who (c : Cluster) (i : Fin 32), s.Grants who CORE_RST_PULSE c true → s.hw.coreResetIgn c = false →
    Answers (.coreRstPulseWrite who c (w32 (2 ^ i.val))) s fun t => (t.core (32 * c + i)).inReset = true ∧ (t.core (32 * c + i)).avail = false ∧
      (t.core (32 * c + i)).listq = [] ∧ t.fld CORE_LAYOUT (32 * c + i) 29 16 = 0 ∧
      ∀ k, k ≠ 32 * c.val + i.val → t.core k = s.hw.core k) ∧
  (∀ (s : State) who (c : Cluster) (i : Fin 32), s.Grants who CORE_RST_HOLD c true → s.hw.coreResetIgn c = false → s.hw.reg CORE_RST_HOLD c = 0#32 →
    Answers (.coreRstHoldWrite who c (w32 (2 ^ i.val))) s fun t => (t.core (32 * c + i)).inReset = true ∧ t.reg CORE_RST_HOLD c = w32 (2 ^ i.val) ∧
      ∀ k, k ≠ 32 * c.val + i.val → t.core k = s.hw.core k) ∧
  (∀ (s : State) who (c : Cluster) v, s.Grants who CORE_RST_HOLD c true → s.hw.coreResetIgn c = false → v &&& ~~~ s.hw.reg CORE_RST_HOLD c = 0#32 →
    Effect (.coreRstHoldWrite who c v) s (s.hw.told 0) [((CORE_RST_HOLD, c), v)]) ∧
  (∀ (s : State) who v, s.Grants who FUSE_PROG 0 true → bits v 31 16 = 0xB10E → bits v 1 0 ≠ 0 → s.hw.pkg.blow = none →
    Effect (.fuseProgWrite who v) s ((s.hw.updPkg fun p => { p with blow := some (bits v 1 0) }).told 0) []))

/-- A package STEEP or COLD request is honoured only with RUN 0, PHASE 0 and ARRAY_EN 0, and is otherwise ignored and counted. R420: a STEEP or COLD
request to a package in Brew, outside a compute reset, sets out for that state when STEP_CTRL.RUN is 0, STEP_STAT.PHASE is 0 and TOPO_POS.ARRAY_EN
is 0; otherwise it is ignored and counted in PWR_REQ_IGN_CNT. PKG_PWR_REQ keeps the target written; nothing else changes. -/
def Obligations.PackageRestNeedsAnIdleMachine : Prop :=
  ∀ (s : State) who (v : Word) (p : PState), s.Grants who PKG_PWR_REQ 0 true → s.hw.reg RST_STAT = 0#32 → s.hw.pkg.pst = .brew →
    ((bits v 1 0 = 1 ∧ p = .toSteep) ∨ (bits v 1 0 = 2 ∧ p = .toCold)) →
    ((s.hw.flag STEP_CTRL 0 0 = false ∧ s.hw.phaseCode = 0 ∧ s.hw.flag TOPO_POS 0 16 = false) →
      Effect (.pkgPwrReqWrite who v) s ((s.hw.updPkg fun x => { x with pst := p, seqAt := if p = .toSteep then s.hw.dev else x.seqAt }).told 0)
        [((PKG_PWR_REQ, 0), setBits (s.hw.reg PKG_PWR_REQ) 1 0 (bits v 1 0))]) ∧
    (¬ (s.hw.flag STEP_CTRL 0 0 = false ∧ s.hw.phaseCode = 0 ∧ s.hw.flag TOPO_POS 0 16 = false) →
      Effect (.pkgPwrReqWrite who v) s (s.hw.told 0)
        [((PWR_REQ_IGN_CNT, 0), satAdd32 (s.hw.reg PWR_REQ_IGN_CNT) 1), ((PKG_PWR_REQ, 0), setBits (s.hw.reg PKG_PWR_REQ) 1 0 (bits v 1 0))])

/-- FLT_RAISE, FLT_CTRL and FLT_LOG_POP do exactly what their fields say. Fault registers: a keyed FLT_RAISE of a source reports it with the unit in
FLT_RAISE_UNIT (17 R477); RESTORED clears RESTORING, HALT enters HALTED and stops RUN, RELEASE leaves it and clears SEV3 (17 R463, R464); a read of
FLT_LOG_POP by firmware takes the oldest entry and shows its step and unit, and by an RCP engine only shows it (17 R465). Beside the quiet timer (17
R468), nothing else changes. -/
def Obligations.FaultRegisterAccesses : Prop :=
  (∀ (s : State) who v, s.Grants who FLT_RAISE 0 true → bits v 31 16 = 0xFA17 → isSource (bits v 9 0) = true →
    Effect (.fltRaiseWrite who v) s (({ s.hw with reports := s.hw.reports ++
      [({ src := bits v 9 0, unit := unitOf (s.hw.reg FLT_RAISE_UNIT), step := s.hw.stepNum, at_ := s.hw.dev, raw := some (s.hw.reg FLT_RAISE_UNIT) } : Report)] }).told 0) []) ∧
  (∀ (s : State) who, s.Grants who FLT_CTRL 0 true →
    Answers (.fltRestored who) s fun t => (s.hw.Now (({ s.hw with flt := t.flt } : Hw).told 0) [((FLT_STAT, 0), setBits (s.hw.reg FLT_STAT) 1 1 0)] t) ∧
      t.flt.log = s.hw.flt.log) ∧
  (∀ (s : State) who, s.Grants who FLT_CTRL 0 true →
    Answers (.fltHalt who) s fun t => (s.hw.Now (({ s.hw with flt := t.flt } : Hw).told 0)
      [((STEP_CTRL, 0), setBits (s.hw.reg STEP_CTRL) 1 0 0), ((FLT_STAT, 0), setBits (s.hw.reg FLT_STAT) 2 2 1)] t) ∧ t.flt.quietFrom = none) ∧
  (∀ (s : State) who, s.Grants who FLT_CTRL 0 true →
    Answers (.fltRelease who) s fun t => (s.hw.Now (({ s.hw with flt := t.flt } : Hw).told 0)
      [((FLT_STAT, 0), setBits (setBits (s.hw.reg FLT_STAT) 2 2 0) 7 4 0)] t) ∧ t.flt.log = s.hw.flt.log) ∧
  (∀ (s : State) who e r, s.Grants who FLT_LOG_POP 0 false → isFw who = true → s.hw.flt.log = e :: r →
    Effect (.fltLogPopRead who) s ((s.hw.updFlt fun f => { f with log := r }).told e.1) [((FLT_LOG_UNIT, 0), e.2.2), ((FLT_LOG_STEP, 0), e.2.1)]) ∧
  (∀ (s : State) q e r, s.Grants (.rcp q) FLT_LOG_POP 0 false → s.hw.flt.log = e :: r →
    Effect (.fltLogPopRead (.rcp q)) s (s.hw.told e.1) []) ∧
  (∀ (s : State) who, s.Grants who FLT_LOG_POP 0 false → s.hw.flt.log = [] → Effect (.fltLogPopRead who) s (s.hw.told 0) [])

/-- Claim, complete, mask and software interrupts do exactly what the controller's rules say. Interrupt registers (17 R470–R474): IC_CLAIM read by
its management processor answers the best pending source and makes it active, or 0 counted as spurious; IC_COMPLETE of the claimer ends the active
state, of another is counted; an IC_MASK write stores the mask and zeroes the storm count of each source it unmasks; IC_SWI_SET and IC_SWI_CLR set
and clear software interrupts. Nothing else changes. -/
def Obligations.InterruptRegisterAccesses : Prop :=
  (∀ (s : State) (m : Quad), s.Grants (.mp m) (IC_CLAIM m) 0 false → s.hw.irqBest m ≠ 0 →
    Effect (.icClaimRead (.mp m) m) s ((s.hw.updFlt fun f => { f with active := Tbl.set 0 f.active (s.hw.irqBest m) (m + 1) }).told (w32 (s.hw.irqBest m))) []) ∧
  (∀ (s : State) (m : Quad), s.Grants (.mp m) (IC_CLAIM m) 0 false → s.hw.irqBest m = 0 →
    Effect (.icClaimRead (.mp m) m) s (s.hw.told 0) [((IC_SPUR_CNT, 0), satAdd32 (s.hw.reg IC_SPUR_CNT) 1)]) ∧
  (∀ (s : State) who (m : Quad), s.Grants who (IC_CLAIM m) 0 false → who ≠ .mp m → Effect (.icClaimRead who m) s (s.hw.told 0) []) ∧
  (∀ (s : State) (m : Quad) v, s.Grants (.mp m) (IC_COMPLETE m) 0 true → s.hw.irqActive (bits v 7 0) = m + 1 → s.hw.stormEn (bits v 7 0) = false →
    Effect (.icCompleteWrite (.mp m) m v) s ((s.hw.updFlt fun f => { f with active := Tbl.set 0 f.active (bits v 7 0) 0 }).told 0) []) ∧
  (∀ (s : State) who (m : Quad) v, s.Grants who (IC_COMPLETE m) 0 true → who ≠ .mp m ∨ s.hw.irqActive (bits v 7 0) ≠ m + 1 →
    Effect (.icCompleteWrite who m v) s (s.hw.told 0) [((IC_CMPL_IGN_CNT, 0), satAdd32 (s.hw.reg IC_CMPL_IGN_CNT) 1)]) ∧
  (∀ (s : State) who (i : Fin 8) v, s.Grants who (IC_MASK i) 0 true →
    Effect (.icMaskWrite who i v) s
      ((s.hw.updFlt fun f => { f with storm := f.storm.filter fun x => x.1 / 32 != i || bit v (x.1 % 32) }).told 0) [((IC_MASK i, 0), v)]) ∧
  (∀ (s : State) who v, s.Grants who IC_SWI_SET 0 true →
    Effect (.icSwiSetWrite who v) s ((s.hw.updFlt fun f => { f with swi := f.swi ||| (v &&& 0xFFFF#32) }).told 0) []) ∧
  (∀ (s : State) who v, s.Grants who IC_SWI_CLR 0 true →
    Effect (.icSwiClrWrite who v) s ((s.hw.updFlt fun f => { f with swi := f.swi &&& ~~~ v }).told 0) [])

/-- CTX_NEXT requests, cancels or counts a switch, and ATT_CMD.START asks for a report or is counted. Requests: CTX_NEXT naming a LOADED context
requests a switch, naming the resident one cancels it, naming one that is not LOADED is ignored and counted (18 R483); ATT_CMD.START while RUN is 1
waits for the next advance with BUSY set, and is counted while BUSY (18 R492). Nothing else changes. -/
def Obligations.ContextAndReportRequests : Prop :=
  (∀ (s : State) who (n : Fin 16), s.Grants who CTX_NEXT 0 true → s.hw.switching = false → s.hw.ctxState n = 1 → ¬ (s.hw.someResident = true ∧ n.val = s.hw.ctx) →
    Effect (.ctxNextWrite who (w32 (16 + n.val))) s (s.hw.told 0) [((CTX_NEXT, 0), w32 (16 + n.val))]) ∧
  (∀ (s : State) who (n : Fin 16), s.Grants who CTX_NEXT 0 true → s.hw.switching = false → s.hw.someResident = true → n.val = s.hw.ctx →
    Effect (.ctxNextWrite who (w32 (16 + n.val))) s (s.hw.told 0) [((CTX_NEXT, 0), 0#32)]) ∧
  (∀ (s : State) who (n : Fin 16), s.Grants who CTX_NEXT 0 true → s.hw.switching = false → s.hw.ctxState n ≠ 1 → ¬ (s.hw.someResident = true ∧ n.val = s.hw.ctx) →
    Effect (.ctxNextWrite who (w32 (16 + n.val))) s (s.hw.told 0) [((CTX_NEXT_IGN_CNT, 0), satAdd32 (s.hw.reg CTX_NEXT_IGN_CNT) 1)]) ∧
  (∀ (s : State) who, s.Grants who ATT_CMD 0 true → s.hw.flag ATT_STAT 0 0 = false → s.hw.flag STEP_CTRL 0 0 = true →
    Effect (.attStart who) s (({ s.hw with attWait := true }).told 0) [((ATT_STAT, 0), 1#32)]) ∧
  (∀ (s : State) who, s.Grants who ATT_CMD 0 true → s.hw.flag ATT_STAT 0 0 = true →
    Effect (.attStart who) s (s.hw.told 0) [((ATT_REQ_IGN_CNT, 0), satAdd32 (s.hw.reg ATT_REQ_IGN_CNT) 1)])

/-- A cluster's Steep and Cold sequences end in the state the sequence names, with its banks as the state says. Ends of cluster sequences with
nothing pending (15 R417), at the instant their time has run: Steep entry, 6,800 fabric cycles, leaves both regulators in low-power mode as the
state says, powered banks in RET and the cluster unavailable, and is counted; Steep exit, 10,000, gives each bank its BANK_PWR state back; Cold
entry leaves the cluster without memory contents and with every core at reset; Cold exit leaves it in Brew. A sequence that was not in progress does
not end. -/
def Obligations.ClusterPowerSequences : Prop :=
  (∀ (s : State) (c : Cluster), s.hw.powered = true → (s.hw.cl c).pst = .toSteep → (s.hw.cl c).pend = none → s.hw.waits = [] →
    Answers (.clSteepEntryDone c) s fun t => (t.cl c).pst = .steep ∧ (t.cl c).regStat = 2 ∧ (t.cl c).avail = false ∧
      (∀ b, b < 32 → (t.bank c b).pwr = if (s.hw.bank c b).pwr = 2 then 2 else 1) ∧ (∀ d, d ≠ c.val → t.cl d = s.hw.cl d) ∧
      s.hw.Now { s.hw.advTo ((s.hw.cl c).seqAt + 6800) with clusters := t.clusters } [((STEEP_CNT, c), satAdd32 (s.hw.reg STEEP_CNT c) 1)] t) ∧
  (∀ (s : State) (c : Cluster), s.hw.powered = true → (s.hw.cl c).pst = .fromSteep → (s.hw.cl c).pend = none → s.hw.waits = [] →
    Answers (.clSteepExitDone c) s fun t => (t.cl c).pst = .brew ∧ (t.cl c).regStat = 0 ∧
      (∀ b, b < 32 → (t.bank c b).pwr = [0, 1, 2, 1].getD (s.hw.bankPwrReg c b) 1) ∧ (∀ d, d ≠ c.val → t.cl d = s.hw.cl d) ∧
      s.hw.Now { s.hw.advTo ((s.hw.cl c).seqAt + 10000) with clusters := t.clusters } [] t) ∧
  (∀ (s : State) (c : Cluster), s.hw.powered = true → (s.hw.cl c).pst = .toCold → (s.hw.cl c).pend = none →
    Answers (.clColdEntryDone c) s fun t => t.cl c = { pst := .cold, regStat := 12, temp := (s.hw.cl c).temp } ∧ (∀ k ∈ coresOf c, t.core k = {}) ∧
      (∀ b x, b < 32 → x < 2 ^ 24 → t.byte (bankBase c b + x) = 0#8) ∧ ∀ d, d ≠ c.val → t.cl d = s.hw.cl d) ∧
  (∀ (s : State) (c : Cluster), s.hw.powered = true → (s.hw.cl c).pst = .fromCold → (s.hw.cl c).pend = none →
    Answers (.clColdExitDone c) s fun t => (t.cl c).pst = .brew ∧ (t.cl c).regStat = 0 ∧ ∀ d, d ≠ c.val → t.cl d = s.hw.cl d) ∧
  (∀ (s : State) (c : Cluster), (s.hw.cl c).pst = .brew →
    Ignored (.clSteepEntryDone c) s ∧ Ignored (.clSteepExitDone c) s ∧ Ignored (.clColdEntryDone c) s ∧ Ignored (.clColdExitDone c) s)

/-- The package's Steep and Cold sequences end in the state the sequence names. Ends of package sequences with nothing pending: Steep entry, once no
cluster is in a sequence of its own, leaves no cluster in Brew, the package without clocks and the save area filled (15 R421, R422); Steep exit
brings the package to Brew with STEEP_TIME the always-on ticks and device time advanced by at least as many fabric cycles (15 R423); Cold entry
drops every memory but flash and always-on memory, with no core and no register outside fuses and the always-on domain left, and PWR_GOOD low (15
R413). -/
def Obligations.PackagePowerSequences : Prop :=
  (∀ s : State, s.hw.powered = true → s.hw.pkg.pst = .toSteep → s.hw.pkg.pend = none → (∀ c, c < 64 → seqEnd (s.hw.cl c).pst = none) →
    Answers .pkgSteepEntryDone s fun t => t.pkg.pst = .steep ∧ t.pkg.saved = true ∧ t.powered = false ∧ t.flag PAD_STAT 0 3 = true ∧
      (∀ c, c < 64 → (t.cl c).pst = if (s.hw.cl c).pst = .cold then .cold else .steep) ∧ t.mem = s.hw.mem) ∧
  (∀ (s : State) (n : Word), s.hw.pkg.pst = .fromSteep → s.hw.pkg.inReset = false → s.hw.pkg.pend = none →
    Answers (.pkgSteepExitDone n) s fun t => t.pkg.pst = .brew ∧ t.powered = true ∧ t.reg STEEP_TIME = n ∧ t.flag PAD_STAT 0 3 = false ∧
      s.hw.dev + n.toNat * 24414 ≤ t.dev ∧ ∀ c, c < 64 → (t.cl c).pst = if (s.hw.cl c).pst = .steep then .brew else (s.hw.cl c).pst) ∧
  (∀ s : State, s.hw.pkg.pst = .toCold → s.hw.pkg.inReset = false → s.hw.pkg.pend = none →
    Answers .pkgColdEntryDone s fun t => t.pkg.pst = .cold ∧ t.pkg.pwrGood = false ∧ t.powered = false ∧ t.cores = [] ∧ t.tabs = [] ∧
      (∀ a, t.byte a = if inFlash a || inAom a then s.hw.byte a else 0#8) ∧
      ∀ r u, t.reg r u = if fuseReg r.page r.off || aoReg r.page r.off then s.hw.reg r u else resetVal r u)

/-- Wake sources, brown-outs, temperature and clock events act as their rules say. Wake sources (15 R423): an enabled GPIO edge that WAKE_EDGE
selects and an expiring AO_WAKE_TMR send a package in Steep towards Brew with the source in PKG_PWR_STAT; an edge that is not enabled changes
nothing; a low-power regulator that trips in Steep drops its cluster to Cold, is counted and raised, and wakes the package (15 R412). PWR_GOOD
rising is recorded (15 R422). Alarms: a regulator at its limit sets its bit, is counted and raised, and the end of the episode clears the bit (15
R411); a temperature reading at THERM_HI or above is kept and raised (15 R425); a reading of 140 °C or more in a package that is not Cold sends it
to Cold, logged (15 R425); a lost 32.768 kHz clock turns to the RC oscillator and is raised (15 R426); a PLL that something needs locks (15 R427),
20 µs after its start where it is an FPLL or DPLL and 50 µs where not, and one that deviates is counted and raised, losing its lock bit where the
lock is lost, to lock again (15 R428). Nothing else changes. -/
def Obligations.WakesAndAlarms : Prop :=
  ((∀ (s : State) (g : Fin 8) (rise : Bool), s.hw.flag WAKE_EN 0 g = true → s.hw.flag WAKE_EDGE 0 (2 * g + b2n (!rise)) = true → s.hw.pkg.pst = .steep →
    Effect (.wakeGpioEdge g rise) s (s.hw.updPkg fun p => { p with pst := .fromSteep }) [((PKG_PWR_STAT, 0), setBits (s.hw.reg PKG_PWR_STAT) 11 8 g)]) ∧
  (∀ (s : State) (g : Fin 8) (rise : Bool), s.hw.flag WAKE_EN 0 g = false ∨ s.hw.flag WAKE_EDGE 0 (2 * g + b2n (!rise)) = false →
    Ignored (.wakeGpioEdge g rise) s) ∧
  (∀ (s : State), s.hw.reg AO_WAKE_TMR ≠ 0#32 → s.hw.flag WAKE_EN 0 8 = true → s.hw.pkg.pst = .steep →
    Effect .aoWakeTmrExpiry s (s.hw.updPkg fun p => { p with pst := .fromSteep })
      [((PKG_PWR_STAT, 0), setBits (s.hw.reg PKG_PWR_STAT) 11 8 8), ((AO_WAKE_TMR, 0), 0#32)]) ∧
  (∀ (s : State) (c : Cluster) (vm : Bool), ((s.hw.cl c).regStat >>> b2n vm) % 2 = 1 → (s.hw.cl c).pst ≠ .cold →
    Answers (.brownout c vm) s fun t => t.cl c = { pst := .cold, regStat := 12, temp := (s.hw.cl c).temp } ∧ (∀ k ∈ coresOf c, t.core k = {}) ∧
      (∀ d, d ≠ c.val → t.cl d = s.hw.cl d) ∧ (s.hw.pkg.pst = .steep → t.pkg.pst = .fromSteep ∧ t.fld PKG_PWR_STAT 0 11 8 = 10) ∧
      (s.hw.flag PWR_LOG 0 31 = false → t.reg PWR_LOG = w32 (c.val + (if vm then 2 else 1) * 2 ^ 8 + 2 ^ 31)) ∧
      t.reports = s.hw.reports ++ [{ src := srcCl fBrownout c, unit := .cluster c, step := s.hw.stepNum, at_ := s.hw.dev }]) ∧
  (∀ s : State, Effect .pwrGoodRise s (s.hw.updPkg fun p => { p with pwrGood := true, railWait := false }) [])) ∧
  ((∀ (s : State) (c : Cluster) (vm : Bool), s.hw.powered = true →
    Effect (.regOvercurrent c vm false) s
      ((s.hw.updCl c fun v => { v with regStat := (w32 v.regStat ||| w32 (2 ^ (4 + b2n vm))).toNat }).raiseCl fRegOc c)
      [((REG_OC_CNT, c), satAdd32 (s.hw.reg REG_OC_CNT c) 1)]) ∧
  (∀ (s : State) (c : Cluster) (vm : Bool), s.hw.powered = true →
    Effect (.regOvercurrent c vm true) s (s.hw.updCl c fun v => { v with regStat := (w32 v.regStat &&& ~~~ w32 (2 ^ (4 + b2n vm))).toNat }) []) ∧
  (∀ (s : State) (c : Cluster) (x : BitVec 12), ((s.hw.fld THERM_CFG 0 7 0 : Nat) : Int) * 8 ≤ x.toInt →
    Effect (.thermHiCross c x) s ((s.hw.updCl c fun v => { v with temp := x.toNat }).raiseQCl fThermHi c) []) ∧
  (∀ (s : State) (c : Cluster) (x : BitVec 12), 1120 ≤ x.toInt → s.hw.pkg.pst ≠ .cold →
    Effect (.thermalShutdown c x) s
      ((s.hw.updCl c fun v => { v with temp := x.toNat }).updPkg fun p => { p with pst := .toCold, pend := none, thermal := true })
      [((PWR_LOG, 0), w32 (c.val + 3 * 2 ^ 8 + 2 ^ 31))]) ∧
  (∀ s : State, Effect .clk32Fail s (s.hw.raisePkg fClk32Fail) [((REF_STAT, 0), setBits (setBits (s.hw.reg REF_STAT) 1 1 0) 2 2 1)]) ∧
  (∀ (s : State) (i : Fin 16) (t0 : Nat), s.hw.powered = true → s.hw.pllNeeded i = true → s.hw.waits = [] → Tbl.find s.hw.pkg.pllAt i = some t0 →
    Effect (.pllLocked i) s ((s.hw.advTo (t0 + (if i.val < 8 then 16000 else 40000))).updPkg fun p => { p with pllAt := Tbl.del p.pllAt i })
      [((PLL_STAT, 0), setBits (s.hw.reg PLL_STAT) i i 1)]) ∧
  (∀ (s : State) (q : Quad) (dpll : Bool), s.hw.powered = true → s.hw.pllLocked (if dpll then 4 + q else q) = true →
    Effect (.pllDeviation q dpll false) s (s.hw.raiseQ fPllLock q) [((PLL_UNLOCK_CNT, 0), satAdd32 (s.hw.reg PLL_UNLOCK_CNT) 1)] ∧
    Effect (.pllDeviation q dpll true) s
      ((({ s.hw with pkg := { s.hw.pkg with pllAt := ((Tbl.find s.hw.pkg.pllAt (if dpll then 4 + q else q)).elim
        (Tbl.put s.hw.pkg.pllAt (if dpll then 4 + q else q) s.hw.dev) fun _ => s.hw.pkg.pllAt) } } : Hw)).raiseQ fPllLock q)
      [((PLL_UNLOCK_CNT, 0), satAdd32 (s.hw.reg PLL_UNLOCK_CNT) 1),
        ((PLL_STAT, 0), setBits (s.hw.reg PLL_STAT) (if dpll then 4 + q else q) (if dpll then 4 + q else q) 0)]))

/-- Power-on reset and RESET_N leave exactly fuses, flash and, for RESET_N, the always-on domain. Resets of the package (16 R435, R437): power-on
reset leaves every unit at reset, device time at zero, and of memories and registers only flash and fuses; RESET_N also leaves the always-on domain,
sets its cause and holds the package; its release samples VIOSEL and lets the full boot follow (20 R514), and changes nothing in a package that is
not held. -/
def Obligations.ResetsLeaveTheirDomains : Prop :=
  (∀ s : State, Answers .powerOnReset s fun t => t.pkg = {} ∧ t.step = {} ∧ t.cores = [] ∧ t.clusters = [] ∧ t.eps = [] ∧ t.tabs = [] ∧ t.dev = 0 ∧
    (∀ a, t.byte a = if inFlash a then s.hw.byte a else 0#8) ∧
    ∀ r u, t.reg r u = if fuseReg r.page r.off then s.hw.reg r u else resetVal r u) ∧
  (∀ s : State, Answers .resetNAssert s fun t => t.pkg = { inReset := true, licDue := s.hw.pkg.licDue } ∧ t.step = {} ∧ t.cores = [] ∧ t.clusters = [] ∧
    t.eps = [] ∧ t.tabs = [] ∧ t.dev = 0 ∧ t.powered = false ∧ (∀ a, t.byte a = if inFlash a || inAom a then s.hw.byte a else 0#8) ∧
    ∀ r u, t.reg r u = if r = RST_CAUSE ∧ u = 0 then setBits (s.hw.reg RST_CAUSE) 1 1 1
      else if fuseReg r.page r.off || aoReg r.page r.off then s.hw.reg r u else resetVal r u) ∧
  (∀ (s : State) (vio33 mismatch : Bool), s.hw.pkg.inReset = true →
    Effect (.resetNRelease vio33 mismatch) s (s.hw.updPkg fun p => { p with inReset := false })
      [((PAD_STAT, 0), setBits (setBits (s.hw.reg PAD_STAT) 0 0 (b2n vio33)) 1 1 (b2n mismatch))]) ∧
  (∀ (s : State) (vio33 mismatch : Bool), s.hw.pkg.inReset = false → Ignored (.resetNRelease vio33 mismatch) s)

/-- The compute reset goes through its five intervals in order, and cluster and core resets end. The compute reset (16 R438): each interval hands
over to the next in RST_STAT; at the end of interval 1 reset leaves every core as it is after reset; interval 2 ends with the four FPLLs locked, 20
µs on at the earliest; after interval 3 every bank byte of a cluster in Brew reads 0; the end clears RST_STAT with no channel left in self-refresh.
With no reset in progress nothing happens. Ends of unit resets (16 R435): a cluster reset ends, 2 µs after it began, and its cores that nothing
holds leave reset with it; after a containment the cores stay held by CORE_RST_HOLD (17 R461); a core reset ends, 1 µs after it began, unless the
core is held or its cluster is in reset, and then nothing changes. -/
def Obligations.ComputeResetAndUnitResets : Prop :=
  ((∀ (s : State) l, s.hw.powered = true → s.hw.reg RST_STAT = 1#32 →
    Answers (.computeResetIntervalEnd l) s fun t => t.reg RST_STAT = 2#32 ∧ t.cores = [] ∧ t.step.phase = .idle ∧ t.pkg.rstAt = t.dev ∧
      ∀ c, (t.cl c).inReset = false ∧ (t.cl c).avail = false ∧ (t.cl c).lookq = [] ∧ (t.cl c).pst = (s.hw.cl c).pst) ∧
  (∀ (s : State) l, s.hw.powered = true → s.hw.reg RST_STAT = 2#32 → s.hw.waits = [] →
    Answers (.computeResetIntervalEnd l) s fun t => t.reg RST_STAT = 3#32 ∧ t.dev = max s.hw.dev (s.hw.pkg.rstAt + 20 * us) ∧ t.pkg.rstAt = t.dev ∧
      (∀ q, q < 4 → t.flag PLL_STAT 0 q = true) ∧ ∀ r u, (r, u) ≠ (RST_STAT, 0) → (r, u) ≠ (PLL_STAT, 0) → t.reg r u = s.hw.reg r u) ∧
  (∀ (s : State) l, s.hw.powered = true → s.hw.reg RST_STAT = 3#32 → s.hw.waits = [] →
    Answers (.computeResetIntervalEnd l) s fun t => t.reg RST_STAT = 4#32 ∧ t.dev = max s.hw.dev (s.hw.pkg.rstAt + 71 * us) ∧
      (∀ c b x, c < 64 → b < 32 → x < 2 ^ 24 → (s.hw.cl c).pst = .brew → t.byte (bankBase c b + x) = 0#8) ∧
      ∀ r u, (r, u) ≠ (RST_STAT, 0) → t.reg r u = s.hw.reg r u) ∧
  (∀ (s : State) l, s.hw.powered = true → s.hw.reg RST_STAT = 4#32 →
    Answers (.computeResetIntervalEnd l) s fun t => t.reg RST_STAT = 5#32 ∧ t.dev = max s.hw.dev (s.hw.pkg.rstAt + 1600 * us)) ∧
  (∀ (s : State) l, s.hw.powered = true → s.hw.reg RST_STAT = 5#32 →
    Answers (.computeResetIntervalEnd l) s fun t => t.reg RST_STAT = 0#32 ∧ t.pkg.abandoned = false ∧ ∀ q, q < 4 → t.ddrSelf q = false) ∧
  (∀ (s : State) l, s.hw.reg RST_STAT = 0#32 → Ignored (.computeResetIntervalEnd l) s)) ∧
  ((∀ (s : State) (c : Cluster), s.hw.powered = true → (s.hw.cl c).inReset = true → (s.hw.cl c).holdCores = false → s.hw.reg CORE_RST_HOLD c = 0#32 →
    s.hw.waits = [] → (∀ k ∈ coresOf c, (s.hw.core k).inReset = true → (s.hw.core k).rstAt + us ≤ max s.hw.dev ((s.hw.cl c).rstAt + 2 * us)) →
    Answers (.clusterResetEnd c) s fun t => (t.cl c).inReset = false ∧ (∀ k ∈ coresOf c, t.core k = { s.hw.core k with inReset := false }) ∧
      s.hw.Now { s.hw.advTo ((s.hw.cl c).rstAt + 2 * us) with clusters := t.clusters, cores := t.cores } [] t) ∧
  (∀ (s : State) (c : Cluster), s.hw.powered = true → (s.hw.cl c).inReset = true → (s.hw.cl c).holdCores = true → s.hw.waits = [] →
    Effect (.clusterResetEnd c) s ((s.hw.advTo ((s.hw.cl c).rstAt + 2 * us)).updCl c fun v => { v with inReset := false, holdCores := false }) [((CORE_RST_HOLD, c), 0xFFFFFFFF#32)]) ∧
  (∀ (s : State) (k : Core), s.hw.powered = true → (s.hw.core k).inReset = true → s.hw.flag CORE_RST_HOLD (k / 32) (k % 32) = false →
    (s.hw.cl (k / 32)).inReset = false → s.hw.waits = [] →
    Effect (.coreResetEnd k) s ((s.hw.advTo ((s.hw.core k).rstAt + us)).updCore k fun x => { x with inReset := false }) []) ∧
  (∀ (s : State) (k : Core), s.hw.flag CORE_RST_HOLD (k / 32) (k % 32) = true → Ignored (.coreResetEnd k) s))

/-- The ROM boots from flash or the network, boot frames move the image, and a Cold exit ends with firmware running. Boot (16 R441, R442, 15 R422):
a flash that does not answer, or holds an image the ROM refuses, leads to network boot with the reason in BOOT_STAT; an accepted image, from flash,
from the network or at a Cold exit, ends with firmware running; a network image that is refused is counted and answered, and the ROM listens again;
a Cold exit without power-good waits, counted once, and one whose digest differs leads to the full boot. Network boot (13 R373, 16 R442): while the
device boots from the network and has no offer it broadcasts a SOLICIT with its identity; an OFFER of an image that fits a slot is taken; the chunk
that is expected is staged, and the next offset expected is answered; a chunk at any other offset is not staged. -/
def Obligations.BootPaths : Prop :=
  ((∀ (s : State) b recs l, s.hw.powered = true → s.hw.pkg.booting = true → s.hw.fw.net = false →
    Answers (.romFlashBoot false b recs l) s fun t => t.netBooting = true ∧ t.flag BOOT_STAT 0 8 = true ∧ t.flag PAD_EN 0 8 = true ∧ t.reg PHY_CTRL 0 = 0x11#32) ∧
  (∀ (s : State) b recs l, s.hw.powered = true → s.hw.pkg.booting = true → s.hw.fw.net = false →
    Answers (.romFlashBoot true b recs l) s fun t =>
      if s.hw.flag PAD_STAT 0 1 = true then t.netBooting = true ∧ t.flag BOOT_STAT 0 8 = true
      else if s.hw.imageResult (s.hw.bytes flashBase 256) (2 ^ 23) b = 0 then t.pkg.booting = false ∧ t.netBooting = false ∧ t.fw.offer = none
      else t.netBooting = true ∧ t.fld BOOT_STAT 0 7 4 = s.hw.imageResult (s.hw.bytes flashBase 256) (2 ^ 23) b) ∧
  (∀ (s : State) b recs l n, s.hw.powered = true → s.hw.netBooting = true → s.hw.fw.offer = some n → n ≤ s.hw.fw.nextOff →
    Answers (.netBootImageCheck b recs l) s fun t => t.fw.offer = none ∧
      if s.hw.imageResult (s.hw.staged 256) n b = 0 then t.pkg.booting = false ∧ t.netBooting = false
      else t.netBooting = true ∧ t.fw.nextOff = 0 ∧ t.reg BOOT_NET_CNT = satAdd32 (s.hw.reg BOOT_NET_CNT) 1 ∧
        t.fld BOOT_STAT 0 15 12 = s.hw.imageResult (s.hw.staged 256) n b) ∧
  (∀ (s : State) b recs l, s.hw.pkg.pst = .fromCold → s.hw.pkg.inReset = false → s.hw.pkg.pwrGood = false → s.hw.pkg.railWait = false →
    Effect (.pkgColdExitDone b recs l) s (s.hw.updPkg fun p => { p with railWait := true })
      [((PWR_RAIL_WAIT_CNT, 0), satAdd32 (s.hw.reg PWR_RAIL_WAIT_CNT) 1)]) ∧
  (∀ (s : State) recs l, s.hw.pkg.pst = .fromCold → s.hw.pkg.inReset = false → s.hw.pkg.pwrGood = true → s.hw.pkg.pend = none →
    s.hw.waits = [] →
    Effect (.pkgColdExitDone false recs l) s ((s.hw.updPkg fun p => { p with pst := .brew, railWait := false, booting := true }).advTo (3100 * us))
      [((PAD_EN, 0), setBits (s.hw.reg PAD_EN) 4 4 1), ((RST_CAUSE, 0), setBits (s.hw.reg RST_CAUSE) 2 2 1)]) ∧
  (∀ (s : State) recs l, s.hw.pkg.pst = .fromCold → s.hw.pkg.inReset = false → s.hw.pkg.pwrGood = true →
    Answers (.pkgColdExitDone true recs l) s fun t => t.pkg.booting = false ∧ t.fw.net = false)) ∧
  ((∀ s : State, s.hw.powered = true → s.hw.netBooting = true → s.hw.fw.offer = none →
    Answers .bootSolicit s (· = ({ s.hw with fresh := s.hw.fresh + 1 } : Hw).bootSend macBroadcast 0x10 0#32 (Config.freeWord s.hw.fresh)
      ((List.range 4).flatMap fun i => wordBytes (s.hw.reg (DEV_ID i))))) ∧
  (∀ s : State, (s.hw.netBooting = false ∨ s.hw.fw.offer ≠ none) → Ignored .bootSolicit s) ∧
  (∀ (s : State) (f : RxFrame) (l : List RxFrame), s.hw.powered = true → (s.hw.eth 0).rcpIn = f :: l → roeneKind f.payload = 0x11 → s.hw.netBooting = true →
    s.hw.fw.offer = none → (beWord f.payload 2).toNat ≤ 2 ^ 23 →
    Answers .bootOfferRx s (· = (s.hw.updEth 0 fun e => { e with rcpIn := l }).updFw fun w =>
      { w with offer := some (beWord f.payload 2).toNat, nextOff := 0, host := f.src })) ∧
  (∀ s : State, (s.hw.eth 0).rcpIn = [] → Ignored .bootOfferRx s ∧ Ignored .bootDataRx s) ∧
  (∀ (s : State) (f : RxFrame) (l : List RxFrame) (n o m : Nat), s.hw.powered = true → (s.hw.eth 0).rcpIn = f :: l → roeneKind f.payload = 0x12 → s.hw.netBooting = true →
    s.hw.fw.offer = some n → o = s.hw.fw.nextOff → o < n → m = min 1024 (n - o) → (beWord f.payload 1).toNat = o → (beWord f.payload 2).toNat = m →
    m ≤ f.payload.length - 16 →
    Answers .bootDataRx s (· = (((s.hw.updEth 0 fun e => { e with rcpIn := l }).stage o ((f.payload.drop 16).take m)).updFw fun w =>
      { w with nextOff := o + m }).bootSend f.src 0x13 0#32 (w32 (o + m)) [])) ∧
  (∀ (s : State) (f : RxFrame) (l : List RxFrame) (n : Nat), s.hw.powered = true → (s.hw.eth 0).rcpIn = f :: l → roeneKind f.payload = 0x12 → s.hw.netBooting = true →
    s.hw.fw.offer = some n → (beWord f.payload 1).toNat ≠ s.hw.fw.nextOff →
    Answers .bootDataRx s (· = (s.hw.updEth 0 fun e => { e with rcpIn := l }).bootSend f.src 0x13 0#32 (w32 s.hw.fw.nextOff) [])))

/-- The collector takes the oldest report and acts by severity; the quiet period and storm windows end. The collector (17 R460): with nothing
reported nothing happens; a report at severity 0 is logged and shown in its page alone; one at severity 1 is logged, pends, and is latched as the
first fault, or counted and flagged where one stands (17 R466); one at severity 2 at a package or quadrant unit, which has no containment, counts
CONTAIN_NA_CNT (17 R461): each for a source of the tables (17 R457-R459). The log counts what it has no room for (17 R465). Expiries: the quiet
period, with nothing reported, moves the first fault to FAULT_PREV, clears FLT_STAT, counts the recovery and sets the event (17 R468); a timer that
does not count does not expire. A guard window of a source whose level is low at its close clears its storm count, and one whose level is high keeps
it (17 R474); a level that rose in the window and fell again counts, and at STORM_N masks the source, flags the storm and counts it; one that is not
open does not close. -/
def Obligations.FaultCollector : Prop :=
  ((∀ s : State, s.hw.reports = [] → Ignored .faultRaise s) ∧
  (∀ (s : State) (r : Report), s.hw.powered = true → nextReport s.hw.reports = some r → s.hw.severity r.src = 0 → s.hw.flt.log.length < 64 →
    Answers .faultRaise s fun t => t.reports = s.hw.reports.erase r ∧
      t.flt = { s.hw.flt with log := s.hw.flt.log ++ [(w32 (r.src + 2 ^ 31), r.step, r.raw.getD (s.hw.unitWord r.unit))] } ∧
      t.fld (pgFlt (faultPage r.src r.unit).1) (faultPage r.src r.unit).2 25 16 = r.src % 1024 ∧ t.reg FLT_STAT = s.hw.reg FLT_STAT ∧
      t.reg FAULT_FIRST = s.hw.reg FAULT_FIRST) ∧
  (∀ (s : State) (r : Report), s.hw.powered = true → nextReport s.hw.reports = some r → isSource r.src = true → s.hw.severity r.src = 1 → s.hw.flt.log.length < 64 →
    s.hw.flag FLT_STAT 0 0 = false →
    Answers .faultRaise s fun t => t.reports = s.hw.reports.erase r ∧
      t.flt.log = s.hw.flt.log ++ [(w32 (r.src + 2 ^ 12 + 2 ^ 31), r.step, r.raw.getD (s.hw.unitWord r.unit))] ∧
      t.reg FAULT_FIRST = w32 (r.src + 2 ^ 12 + 2 ^ 31) ∧ t.reg FAULT_FIRST_STEP = r.step ∧ t.reg FAULT_FIRST_UNIT = r.raw.getD (s.hw.unitWord r.unit) ∧
      t.flag (FLT_PEND (r.src / 32)) 0 (r.src % 32) = true ∧ t.reg FLT_STAT = setBits (s.hw.reg FLT_STAT) 0 0 1 ∧
      t.cores = s.hw.cores ∧ t.clusters = s.hw.clusters ∧ t.step = s.hw.step) ∧
  (∀ (s : State) (r : Report), s.hw.powered = true → nextReport s.hw.reports = some r → isSource r.src = true → s.hw.severity r.src = 1 → 64 ≤ s.hw.flt.log.length →
    s.hw.flag FLT_STAT 0 0 = true →
    Answers .faultRaise s fun t => t.flt.log = s.hw.flt.log ∧ t.reg FLT_LOG_DROP_CNT = satAdd32 (s.hw.reg FLT_LOG_DROP_CNT) 1 ∧
      t.reg FLT_OVF_CNT = satAdd32 (s.hw.reg FLT_OVF_CNT) 1 ∧ t.reg FLT_STAT = setBits (s.hw.reg FLT_STAT) 3 3 1 ∧
      t.reg FAULT_FIRST = s.hw.reg FAULT_FIRST ∧ t.reg FAULT_FIRST_STEP = s.hw.reg FAULT_FIRST_STEP ∧ t.reg FAULT_FIRST_UNIT = s.hw.reg FAULT_FIRST_UNIT) ∧
  (∀ (s : State) (r : Report) (i : Nat), s.hw.powered = true → nextReport s.hw.reports = some r → isSource r.src = true → s.hw.severity r.src = 2 → r.unit = .pkg i →
    Answers .faultRaise s fun t => t.reg CONTAIN_NA_CNT = satAdd32 (s.hw.reg CONTAIN_NA_CNT) 1 ∧ t.reg CONTAIN_CNT = s.hw.reg CONTAIN_CNT ∧
      t.cores = s.hw.cores ∧ t.clusters = s.hw.clusters)) ∧
  ((∀ (s : State) (x : Nat), s.hw.powered = true → s.hw.flt.quietFrom = some x → s.hw.reports = [] → s.hw.waits = [] → Tbl.get 0 s.hw.flt.guard 2 ≠ 1 →
    Effect .quietPeriodExpiry s ((s.hw.advTo (x + (s.hw.quietTime - s.hw.flt.quiet))).updFlt fun f => { f with quiet := 0, quietFrom := none })
      [((FLT_EVT, 0), setBits (s.hw.reg FLT_EVT) 0 0 1), ((RECOVERY_CNT, 0), satAdd32 (s.hw.reg RECOVERY_CNT) 1), ((FLT_STAT, 0), 0#32),
        ((FAULT_FIRST, 0), 0#32), ((FAULT_FIRST_STEP, 0), 0#32), ((FAULT_FIRST_UNIT, 0), 0#32), ((FAULT_PREV, 0), s.hw.reg FAULT_FIRST),
        ((FAULT_PREV_STEP, 0), s.hw.reg FAULT_FIRST_STEP), ((FAULT_PREV_UNIT, 0), s.hw.reg FAULT_FIRST_UNIT)]) ∧
  (∀ s : State, s.hw.flt.quietFrom = none → Ignored .quietPeriodExpiry s) ∧
  (∀ (s : State) (i : Fin 256) (rose : Bool), s.hw.powered = true → Tbl.get 0 s.hw.flt.guard i ≠ 0 → s.hw.waits = [] →
    (rose = false ∨ Tbl.get 0 s.hw.flt.guard i ≠ 1) → s.hw.irqLevel i = false →
    Effect (.stormWindowExpiry i rose) s
      ((s.hw.advTo (Tbl.get 0 s.hw.flt.guardEnd i)).updFlt fun f =>
        { f with guard := Tbl.set 0 f.guard i 0, guardEnd := Tbl.set 0 f.guardEnd i 0, storm := Tbl.set 0 f.storm i 0 }) []) ∧
  (∀ (s : State) (i : Fin 256) (rose : Bool), s.hw.powered = true → Tbl.get 0 s.hw.flt.guard i ≠ 0 → s.hw.waits = [] →
    (rose = false ∨ Tbl.get 0 s.hw.flt.guard i ≠ 1) → s.hw.irqLevel i = true →
    Effect (.stormWindowExpiry i rose) s
      ((s.hw.advTo (Tbl.get 0 s.hw.flt.guardEnd i)).updFlt fun f =>
        { f with guard := Tbl.set 0 f.guard i 0, guardEnd := Tbl.set 0 f.guardEnd i 0 }) []) ∧
  (∀ (s : State) (i : Fin 256), s.hw.powered = true → Tbl.get 0 s.hw.flt.guard i = 1 → s.hw.waits = [] →
    s.hw.irqLevel i = true → Tbl.get 0 s.hw.flt.storm i + 1 < s.hw.stormN →
    Effect (.stormWindowExpiry i true) s
      ((s.hw.advTo (Tbl.get 0 s.hw.flt.guardEnd i)).updFlt fun f =>
        { f with guard := Tbl.set 0 f.guard i 0, guardEnd := Tbl.set 0 f.guardEnd i 0,
                 storm := Tbl.set 0 f.storm i (Tbl.get 0 f.storm i + 1) }) []) ∧
  (∀ (s : State) (i : Fin 256), s.hw.powered = true → Tbl.get 0 s.hw.flt.guard i = 1 → s.hw.waits = [] →
    s.hw.irqLevel i = false → s.hw.stormN ≤ Tbl.get 0 s.hw.flt.storm i + 1 →
    Answers (.stormWindowExpiry i true) s fun t => Tbl.get 0 t.flt.guard i = 0 ∧ Tbl.get 0 t.flt.storm i = 0 ∧
      t.flag (IC_MASK (i / 32)) 0 (i % 32) = true ∧ t.flag (IC_STORM_STAT (i / 32)) 0 (i % 32) = true ∧
      t.reg IC_STORM_CNT = satAdd32 (s.hw.reg IC_STORM_CNT) 1) ∧
  (∀ (s : State) (i : Fin 256) (rose : Bool), Tbl.get 0 s.hw.flt.guard i = 0 → Ignored (.stormWindowExpiry i rose) s))

/-- A context switch goes from flush to roast wait, save, scrub and load, and its end makes the incoming context resident. Intervals of a switch (18
R484): each interval that ends hands over to the next at that instant; the save takes the outgoing context's state; the scrub leaves every bank byte
of the outgoing partition 0 (18 R487); the load makes the incoming context resident, the outgoing one LOADED, and is counted. An interval that is
not in progress does not end. -/
def Obligations.ContextSwitchIntervals : Prop :=
  (∀ s : State, s.hw.powered = true → s.hw.sw.stage = 1 → s.hw.step.phase = .delivery → s.hw.step.forceDel = false → s.hw.step.framesDone = true →
    s.hw.arrayEn = false → s.hw.localQuiet = true → s.hw.quietLate = false → s.hw.waits = [] →
    Answers .switchFlushDone s fun t => t.sw.stage = 2 ∧ t.step.phase = .idle ∧ t.sw.out = s.hw.sw.out ∧ t.sw.to_ = s.hw.sw.to_ ∧ t.stepNum = s.hw.stepNum) ∧
  (∀ (s : State) (n : Nat), s.hw.powered = true → s.hw.sw.stage = 2 → s.hw.sw.out = some n →
    (∀ c, c < 64 → s.hw.inPart n c = true → (s.hw.roast c).busy = false) →
    Answers .switchRoastWaitDone s fun t => t.sw = { s.hw.sw with stage := 3 } ∧ (∀ c, c < 64 → t.cl c = { s.hw.cl c with avail := false }) ∧
      s.hw.Now { s.hw with sw := t.sw, clusters := t.clusters } [] t) ∧
  (∀ (s : State) (n : Nat), s.hw.powered = true → s.hw.sw.stage = 3 → s.hw.sw.out = some n →
    Effect .switchSaveDone s
      { s.hw.updCtx n fun c => { c with save := some (s.hw.saveOf n) } with sw := { s.hw.sw with stage := 4, at_ := s.hw.dev } } []) ∧
  (∀ (s : State) (n : Nat), s.hw.powered = true → s.hw.sw.stage = 4 → s.hw.sw.out = some n →
    Answers .switchScrubDone s fun t => t.sw = { s.hw.sw with stage := 5, at_ := t.dev } ∧ t.dev = max s.hw.dev (s.hw.sw.at_ + 71 * us) ∧
      ∀ c b x, c < 64 → b < 32 → x < 2 ^ 24 → s.hw.inPart n c = true → t.byte (bankBase c b + x) = 0#8) ∧
  (∀ (s : State) (m : Nat), s.hw.powered = true → s.hw.sw.stage = 5 → s.hw.sw.to_ = m → m < 16 →
    Answers .switchLoadDone s fun t => t.sw.stage = 0 ∧ t.ctxState m = 2 ∧ t.ctx = m ∧ t.uaHold = false) ∧
  (∀ s : State, s.hw.sw.stage = 0 → Ignored .switchFlushDone s ∧ Ignored .switchRoastWaitDone s ∧ Ignored .switchSaveDone s ∧ Ignored .switchScrubDone s ∧
    Ignored .switchLoadDone s)

/-- Contexts are loaded, destroyed and checkpointed, and firmware restores what a fault took away. Contexts: a LOAD message waits for the loader,
with BUSY and its context shown; a load that a check refuses leaves the context as it was with the lowest failing check in RESULT; one that passes
while a context is resident makes its context LOADED with the image's partition (16 R450, 18 R480); a LOADED context that no switch concerns is set
to DESTROYING (18 R489), and becomes FREE with its DDR5 regions 0; a state checkpoint keeps the resident context's neuron state (17 R463); a signed
report sets READY and is counted, a failed one FAIL (18 R492). Firmware's repairs, for units outside a resident context: a held core whose physical
core is good is released, leaving reset, with its page's flag cleared (17 R462); a core that nothing holds is left as it is; a contained cluster is
released with its cores; a held core with a good mapping is released by the replacement (03 R107); a recovery that fails leads to HALTED, and one
that succeeds with no context resident clears RESTORING and sets RUN, so that a machine that holds starts with a delivery phase (17 R463). Without a
recovery nothing happens. -/
def Obligations.ContextsAndRestores : Prop :=
  ((∀ (s : State) (n : Fin 16) (i : Image), s.hw.powered = true → s.hw.fw.loads = [] →
    Effect (.imageLoadMsg n i) s (s.hw.updFw fun f => { f with loads := [(n.val, i)] })
      [((IMG_STAT, 0), setBits (setBits (s.hw.reg IMG_STAT) 7 4 n) 8 8 1)]) ∧
  (∀ (s : State) (n : Fin 16) (i : Image) a l, s.hw.powered = true → s.hw.fw.loads = a :: l →
    Effect (.imageLoadMsg n i) s (s.hw.updFw fun f => { f with loads := f.loads ++ [(n.val, i)] }) []) ∧
  (∀ (s : State) (n : Nat) (i : Image), s.hw.powered = true → s.hw.fw.loads = [(n, i)] → s.hw.ctxState n = 0 → s.hw.loadResult n i ≠ 0 →
    Effect .imageLoadDone s (s.hw.updFw fun f => { f with loads := [] }) [((IMG_STAT, 0), w32 (s.hw.loadResult n i + n * 16))]) ∧
  (∀ (s : State) (n : Nat) (i : Image), s.hw.powered = true → s.hw.fw.loads = [(n, i)] → n < 16 → s.hw.ctxState n = 0 → s.hw.loadResult n i = 0 →
    s.hw.someResident = true →
    Effect .imageLoadDone s ((s.hw.updFw fun f => { f with loads := [], stale := f.stale.filter (· ≠ n) }).updCtx n fun _ => { img := some i })
      [((CTX_STATE, 0), setBits (s.hw.reg CTX_STATE) (2 * n + 1) (2 * n) 1), ((IMG_LOAD_CNT, 0), satAdd32 (s.hw.reg IMG_LOAD_CNT) 1),
        ((CTX_SAVE_INVALID, 0), setBits (s.hw.reg CTX_SAVE_INVALID) n n 0), ((CTX_CONF, 0), setBits (s.hw.reg CTX_CONF) n n (b2n i.conf)),
        ((CTX_PART_HI n, 0), (i.part >>> 32).setWidth 32), ((CTX_PART_LO n, 0), i.part.setWidth 32), ((IMG_STAT, 0), w32 (n * 16))]) ∧
  (∀ (s : State) (n : Fin 16), s.hw.powered = true → s.hw.ctxState n = 1 → s.hw.switchOf n = false → s.hw.fw.setFlash.segs = [] →
    Effect (.ctxDestroyMsg n) s s.hw [((CTX_STATE, 0), setBits (s.hw.reg CTX_STATE) (2 * n + 1) (2 * n) 3)]) ∧
  (∀ (s : State) (n : Fin 16), s.hw.ctxState n ≠ 1 ∨ s.hw.switchOf n = true → Ignored (.ctxDestroyMsg n) s) ∧
  (∀ (s : State) (n : Fin 16) (i : Image), s.hw.powered = true → s.hw.ctxState n = 3 → (s.hw.ctxSt n).img = some i →
    Answers (.ctxDestroyDone n) s fun t => t.ctxState n = 0 ∧ t.ctxSt n = {} ∧ t.reg (CTX_PART_LO n) = 0#32 ∧ t.reg (CTX_PART_HI n) = 0#32 ∧
      t.conf n = false ∧ (∀ r ∈ i.regions, ∀ a, r.1.toNat ≤ a → a < r.1.toNat + r.2 → t.byte a = 0#8) ∧ t.cores = s.hw.cores ∧ t.clusters = s.hw.clusters) ∧
  (∀ s : State, s.hw.powered = true → s.hw.someResident = true → s.hw.switching = false →
    Effect .stateCheckpoint s (s.hw.updCtx s.hw.ctx fun c => { c with
      ckpt := some
        ({ mem := (s.hw.mem.filter fun p => s.hw.isSram s.hw.ctx p.1), marks := (s.hw.marks.filter fun p => s.hw.isSram s.hw.ctx (4 * p.1)),
            cores := s.hw.books s.hw.ctx fun _ => true, step := s.hw.stepNum, pos := s.hw.fld EPOCH_STAT 0 9 0, num := s.hw.reg EPOCH_NUM, epochs := s.hw.epochs } : CtxSave) }) []) ∧
  (∀ s : State, s.hw.powered = true → s.hw.flag ATT_STAT 0 0 = true → s.hw.attWait = false →
    Effect (.attSignDone true) s { s.hw with attReport := s.hw.attReport ++ Config.sign (Config.sha512 (s.hw.attReport.flatMap wordBytes)) }
      [((ATT_CNT, 0), satAdd32 (s.hw.reg ATT_CNT) 1), ((ATT_STAT, 0), 2#32)] ∧
    Effect (.attSignDone false) s s.hw [((ATT_STAT, 0), 4#32)])) ∧
  ((∀ (s : State) (k : Core), s.hw.powered = true → s.hw.resident (k / 32) = false → s.hw.coreResetIgn (k / 32) = false →
    s.hw.flag CORE_RST_HOLD (k / 32) (k % 32) = true → s.hw.fw.retireDue.contains (64 * (k / 32) + s.hw.phys k) = false →
    s.hw.orphaned k = false → (s.hw.core k).inReset = true → s.hw.waits = [] →
    Effect (.containmentRestore k false) s ((s.hw.advTo ((s.hw.core k).rstAt + us)).updCore k fun x => { x with inReset := false })
      [((CORE_RST_HOLD, k / 32), s.hw.reg CORE_RST_HOLD (k / 32) &&& ~~~ w32 (2 ^ (k.val % 32))),
        ((pgFlt pgCORE, k), setBits (s.hw.reg (pgFlt pgCORE) k) 0 0 0)]) ∧
  (∀ (s : State) (k : Core), s.hw.flag CORE_RST_HOLD (k / 32) (k % 32) = false → Ignored (.containmentRestore k false) s) ∧
  (∀ (s : State) (k : Core) (c : Nat), s.hw.powered = true → k.val / 32 = c → s.hw.resident c = false → (s.hw.cl c).inReset = true →
    s.hw.reg RST_STAT = 0#32 →
    Answers (.containmentRestore k true) s fun t => (t.cl c).inReset = false ∧ (∀ j ∈ coresOf c, (t.core j).inReset = false) ∧
      t.reg CORE_RST_HOLD c = 0#32) ∧
  (∀ (s : State) (k : Core), s.hw.powered = true → s.hw.resident (k / 32) = false → s.hw.coreResetIgn (k / 32) = false →
    s.hw.flag CORE_RST_HOLD (k / 32) (k % 32) = true → s.hw.fw.retireDue.contains (64 * (k / 32) + s.hw.phys k) = false →
    s.hw.orphaned k = false → (s.hw.cl (k / 32)).remapPend = false → (s.hw.core k).inReset = true → s.hw.waits = [] →
    Effect (.spareReplacement k) s ((s.hw.advTo ((s.hw.core k).rstAt + us)).updCore k fun x => { x with inReset := false })
      [((CORE_RST_HOLD, k / 32), s.hw.reg CORE_RST_HOLD (k / 32) &&& ~~~ w32 (2 ^ (k.val % 32)))]) ∧
  (∀ s : State, s.hw.powered = true → s.hw.flag FLT_STAT 0 1 = true → s.hw.reg RST_STAT = 0#32 →
    Answers (.sev3Restore true) s fun t => t.flag FLT_STAT 0 2 = true ∧ t.fld STEP_CTRL 0 1 0 = 0 ∧ t.cores = s.hw.cores ∧ t.clusters = s.hw.clusters) ∧
  (∀ s : State, s.hw.powered = true → s.hw.flag FLT_STAT 0 1 = true → s.hw.flag FLT_STAT 0 2 = false → s.hw.reg RST_STAT = 0#32 → s.hw.sw.owed = none →
    s.hw.someResident = false → s.hw.holds = true → s.hw.arrayEn = false → s.hw.sw.resume = false → s.hw.switchDue = none → s.hw.waits = [] →
    Answers (.sev3Restore false) s fun t => t.flag FLT_STAT 0 1 = false ∧ t.reg STEP_CTRL = 1#32 ∧
      t.step = { phase := .delivery, start := s.hw.dev + 1 } ∧ t.stepNum = s.hw.stepNum) ∧
  (∀ (s : State) f, s.hw.flag FLT_STAT 0 1 = false → Ignored (.sev3Restore f) s))

/-- Flash operations wait for the hold-up check, start, are deferred or are given up, and checkpoint shadows are copied. Firmware's flash work (15
R429, 16 R443, R448): an image update queues 2,048 erases and a program for each 4 KiB; a licence record that passes is queued, and one that does
not is dropped; a sample, which takes its slot of the ADC (10 R293), with enough energy starts the operation at the head, one without defers it,
counted; the next sample comes a whole number of milliseconds after the first that failed; after HU_MAXWAIT what was being programmed is given up,
counted and raised. With nothing queued no check is made. A firmware checkpoint (09 R279) of a resident cluster whose shadow is ready: the shadow is
released, and the copies of its segments join the set in progress, or complete it and go on to flash; a shadow that is not ready is left. -/
def Obligations.FlashWorkAndCheckpointCopies : Prop :=
  ((∀ (s : State) (l : List Byte), s.hw.powered = true → l.length ≤ 2 ^ 23 →
    Effect (.fwImageUpdateMsg l) s (s.hw.updFw fun f => { f with flash := f.flash ++ ((List.range 2048).map fun i => { addr := 4096 * i }) ++
      ((List.range ((l.length + 4095) / 4096)).map fun i => { erase := false, addr := 4096 * i, data := (l.drop (4096 * i)).take 4096 }) }) []) ∧
  (∀ (s : State) (r : LicRec), s.hw.powered = true → s.hw.licOk r = true →
    Effect (.licenceRecordMsg r) s (s.hw.updFw fun f => { f with
      newLicences := f.newLicences ++ [r], flash := f.flash ++ [{ job := 1, addr := 2 ^ 23 }, { job := 1, erase := false, addr := 2 ^ 23 }] }) []) ∧
  (∀ (s : State) (r : LicRec), s.hw.licOk r = false → Ignored (.licenceRecordMsg r) s) ∧
  (∀ (s : State) (x : BitVec 12) o l, s.hw.powered = true → s.hw.fw.huFrom = none → s.hw.fw.flash = o :: l → s.hw.holdupOk x.toNat o.erase = true →
    s.hw.waits = [] → Effect (.holdupCheck x) s ((s.hw.adcTake.updFw fun f => { f with flash := l, huFrom := none }).flashDo o) [((HU_LAST, 0), w32 x.toNat)]) ∧
  (∀ (s : State) (x : BitVec 12) o l, s.hw.powered = true → s.hw.fw.huFrom = none → s.hw.fw.flash = o :: l → s.hw.holdupOk x.toNat o.erase = false →
    s.hw.waits = [] → Effect (.holdupCheck x) s (s.hw.adcTake.updFw fun f => { f with huFrom := some (max s.hw.dev (s.hw.adcAt + us)) })
      [((HU_DEFER_CNT, 0), satAdd32 (s.hw.reg HU_DEFER_CNT) 1), ((HU_LAST, 0), w32 x.toNat)]) ∧
  (∀ (s : State) (x : BitVec 12), s.hw.fw.flash = [] → s.hw.fw.huFrom = none → Ignored (.holdupCheck x) s ∧ Ignored (.huDeferExpiry x) s ∧ Ignored .huMaxwaitExpiry s) ∧
  (∀ (s : State) (x : BitVec 12) (n : Nat) o l, s.hw.powered = true → s.hw.fw.huFrom = some n → s.hw.fw.flash = o :: l →
    ((s.hw.dev - n) / (1000 * us) + 1) * (1000 * us) ≤ s.hw.huMax → s.hw.holdupOk x.toNat o.erase = false → s.hw.waits = [] →
    Effect (.huDeferExpiry x) s (s.hw.advTo (n + ((s.hw.dev - n) / (1000 * us) + 1) * (1000 * us))).adcTake
      [((HU_DEFER_CNT, 0), satAdd32 (s.hw.reg HU_DEFER_CNT) 1), ((HU_LAST, 0), w32 x.toNat)]) ∧
  (∀ (s : State) (n : Nat) o l, s.hw.powered = true → s.hw.fw.huFrom = some n → s.hw.fw.flash = o :: l → o.job = 0 → s.hw.waits = [] →
    Effect .huMaxwaitExpiry s
      (((s.hw.advTo (n + s.hw.huMax)).updFw fun f => { f with flash := l.dropWhile fun x => x.job == 0, huFrom := none }).raisePkg fHoldupLow)
      [((HU_ABANDON_CNT, 0), satAdd32 (s.hw.reg HU_ABANDON_CNT) 1)])) ∧
  ((∀ (s : State) (c : Cluster), s.hw.powered = true → s.hw.flag CKPT_STAT c 31 = true → s.hw.resident c = true → s.hw.fw.setNow.segs = [] →
    s.hw.segsFrom c (s.hw.fld CKPT_STAT c 4 0) (s.hw.fld CKPT_STAT c 10 5) = [] → s.hw.setComplete [] = false →
    Answers (.firmwareCheckpoint c) s fun t => t.flag CKPT_STAT c 31 = false ∧ t.fw = { s.hw.fw with setNow := { ctx := s.hw.ctx } } ∧ t.mem = s.hw.mem) ∧
  (∀ (s : State) (c : Cluster), s.hw.powered = true → s.hw.flag CKPT_STAT c 31 = true → s.hw.resident c = true →
    Answers (.firmwareCheckpoint c) s fun t => t.flag CKPT_STAT c 31 = false ∧ t.mem = s.hw.mem ∧ t.cores = s.hw.cores ∧
      (t.fw.setNow.ctx = s.hw.ctx ∨ t.fw.setNow = {} ∧ t.fw.setDone.ctx = s.hw.ctx)) ∧
  (∀ (s : State) (c : Cluster), s.hw.flag CKPT_STAT c 31 = false → Ignored (.firmwareCheckpoint c) s))

/-- Fuse blows and debugger requests act as the fuses allow. Fuses and debug: a blow that verifies sets its flag and ends every debug halt, or
raises the anti-rollback count, and the next asked for starts; one that fails sets FUSE_STAT alone (16 R454, 18 R494); a request on port 245 starts
or waits; a halt request is refused while the debug port is closed and otherwise halts its processor, and a resume lets it run (11 R320). -/
def Obligations.FuseAndDebugEvents : Prop :=
  (∀ (s : State) (sel : Nat), s.hw.powered = true → s.hw.pkg.blow = some sel → (sel = 1 ∨ sel = 2) →
    Effect (.fuseBlowComplete true) s
      ({ s.hw.updPkg fun p => { p with blow := p.blowMsgs.head?, blowMsgs := p.blowMsgs.drop 1 } with mpHalted := 0#32 })
      [((FUSE_FLAGS, 0), setBits (s.hw.reg FUSE_FLAGS) (sel - 1) (sel - 1) 1), ((FUSE_STAT, 0), setBits (s.hw.reg FUSE_STAT) 1 1 0)]) ∧
  (∀ (s : State), s.hw.powered = true → s.hw.pkg.blow = some 3 →
    Effect (.fuseBlowComplete true) s (s.hw.updPkg fun p => { p with blow := p.blowMsgs.head?, blowMsgs := p.blowMsgs.drop 1 })
      [((LIC_AR_CNT, 0), setBits (s.hw.reg LIC_AR_CNT) 6 0 (min 64 (s.hw.fld LIC_AR_CNT 0 6 0 + 1))), ((FUSE_STAT, 0), setBits (s.hw.reg FUSE_STAT) 1 1 0)]) ∧
  (∀ (s : State) (sel : Nat), s.hw.powered = true → s.hw.pkg.blow = some sel →
    Effect (.fuseBlowComplete false) s (s.hw.updPkg fun p => { p with blow := p.blowMsgs.head?, blowMsgs := p.blowMsgs.drop 1 })
      [((FUSE_STAT, 0), setBits (s.hw.reg FUSE_STAT) 1 1 1)]) ∧
  (∀ (s : State) ok, s.hw.pkg.blow = none → Ignored (.fuseBlowComplete ok) s) ∧
  (∀ (s : State) (sel : Fin 4), s.hw.powered = true → sel ≠ 0 → s.hw.pkg.blow = none →
    Effect (.fuseBlowMsg sel) s (s.hw.updPkg fun p => { p with blow := some sel.val }) []) ∧
  (∀ (s : State) (sel : Fin 4) (b : Nat), s.hw.powered = true → sel ≠ 0 → s.hw.pkg.blow = some b →
    Effect (.fuseBlowMsg sel) s (s.hw.updPkg fun p => { p with blowMsgs := p.blowMsgs ++ [sel.val] }) []) ∧
  (∀ (s : State) (m : Quad), s.hw.powered = true → s.hw.debugClosed = false →
    Effect (.debugHaltRequest m) s ({ s.hw.updPkg fun p => { p with attached := true } with mpHalted := setBit s.hw.mpHalted m true }) []) ∧
  (∀ (s : State) (m : Quad), s.hw.debugClosed = true → Ignored (.debugHaltRequest m) s) ∧
  (∀ (s : State) (m : Quad), s.hw.powered = true → Effect (.debugResume m) s { s.hw with mpHalted := setBit s.hw.mpHalted m false } [])

/-- Every register-form and immediate microcode instruction, CSR and RAND compute rd in their cycles. Register-form microcode (04 R122): for each
instruction, with a and b the registers of its fields, rd takes the value of its row, the handler has used its cycles, MC_PC shows its index, and
nothing else changes. A MULQ whose quotient 32 bits do not hold gives a free value (log 132). Immediate-form microcode (04 R121, R122): arithmetic
sign-extends the 18-bit field and logic zero-extends it; EXT takes a field of ra, zero- or sign-extended; INS replaces a field of rd; CSR reads a
special value; RAND advances the core's LFSR (04 R530). Nothing else changes. -/
def Obligations.MicrocodeComputes : Prop :=
  (∀ (s : State) (k : Core) (i : MInstr) (a b : Word), s.Executes k i → a = s.hw.mcReg k i.f2 → b = s.hw.mcReg k i.f3 →
    (i.op = .add → Computed (.mcAdd k) s k i.f1 1 (a + b)) ∧
    (i.op = .sub → Computed (.mcSub k) s k i.f1 1 (a - b)) ∧
    (i.op = .adds → Computed (.mcAdds k) s k i.f1 1 (sat32 (a.toInt + b.toInt))) ∧
    (i.op = .subs → Computed (.mcSubs k) s k i.f1 1 (sat32 (a.toInt - b.toInt))) ∧
    (i.op = .and → Computed (.mcAnd k) s k i.f1 1 (a &&& b)) ∧
    (i.op = .or → Computed (.mcOr k) s k i.f1 1 (a ||| b)) ∧
    (i.op = .xor → Computed (.mcXor k) s k i.f1 1 (a ^^^ b)) ∧
    (i.op = .shl → Computed (.mcShl k) s k i.f1 1 (a <<< (b.toNat % 32))) ∧
    (i.op = .shr → Computed (.mcShr k) s k i.f1 1 (a >>> (b.toNat % 32))) ∧
    (i.op = .sra → Computed (.mcSra k) s k i.f1 1 (a.sshiftRight (b.toNat % 32))) ∧
    (i.op = .mul → Computed (.mcMul k) s k i.f1 2 (a * b)) ∧
    (i.op = .mulq → -(2 ^ 31) ≤ (a.toInt * ((b.toNat % 65536 : Nat) : Int)).tdiv 32768 → (a.toInt * ((b.toNat % 65536 : Nat) : Int)).tdiv 32768 < 2 ^ 31 →
      Computed (.mcMulq k) s k i.f1 2 (wInt ((a.toInt * ((b.toNat % 65536 : Nat) : Int)).tdiv 32768))) ∧
    (i.op = .min → Computed (.mcMin k) s k i.f1 1 (if a.toInt ≤ b.toInt then a else b)) ∧
    (i.op = .max → Computed (.mcMax k) s k i.f1 1 (if a.toInt ≤ b.toInt then b else a)) ∧
    (i.op = .sat24 → Computed (.mcSat24 k) s k i.f1 1 (wInt (sat24 a.toInt))) ∧
    (i.op = .slt → Computed (.mcSlt k) s k i.f1 1 (if a.toInt < b.toInt then 1#32 else 0#32)) ∧
    (i.op = .mulq → ((a.toInt * ((b.toNat % 65536 : Nat) : Int)).tdiv 32768 < -(2 ^ 31) ∨ 2 ^ 31 ≤ (a.toInt * ((b.toNat % 65536 : Nat) : Int)).tdiv 32768) →
      Executed (.mcMulq k) s k (s.hw.free.2.mcSet k i.f1 s.hw.free.1) 2 ((s.hw.eng k).pc + 1))) ∧
  (∀ (s : State) (k : Core) (i : MInstr) (a : Word), s.Executes k i → a = s.hw.mcReg k i.f2 →
    (i.op = .addi → Computed (.mcAddi k) s k i.f1 1 (a + wInt (sext 18 i.low))) ∧
    (i.op = .andi → Computed (.mcAndi k) s k i.f1 1 (a &&& w32 i.low)) ∧
    (i.op = .ori → Computed (.mcOri k) s k i.f1 1 (a ||| w32 i.low)) ∧
    (i.op = .xori → Computed (.mcXori k) s k i.f1 1 (a ^^^ w32 i.low)) ∧
    (i.op = .shli → Computed (.mcShli k) s k i.f1 1 (a <<< (i.low % 32))) ∧
    (i.op = .shri → Computed (.mcShri k) s k i.f1 1 (a >>> (i.low % 32))) ∧
    (i.op = .srai → Computed (.mcSrai k) s k i.f1 1 (a.sshiftRight (i.low % 32))) ∧
    (i.op = .lui → Computed (.mcLui k) s k i.f1 1 (w32 (i.low * 2 ^ 14))) ∧
    (i.op = .ext → i.low / 1024 % 2 = 0 → Computed (.mcExt k) s k i.f1 1 (w32 (a.toNat / 2 ^ (i.low % 32) % 2 ^ (i.low / 32 % 32 + 1)))) ∧
    (i.op = .ext → i.low / 1024 % 2 = 1 →
      Computed (.mcExt k) s k i.f1 1 (wInt (sext (i.low / 32 % 32 + 1) (a.toNat / 2 ^ (i.low % 32) % 2 ^ (i.low / 32 % 32 + 1))))) ∧
    (i.op = .ins → ∃ v, Computed (.mcIns k) s k i.f1 1 v ∧ ∀ j, j < 32 → v.getLsbD j =
      if i.low % 32 ≤ j ∧ j < i.low % 32 + (i.low / 32 % 32 + 1) then a.getLsbD (j - i.low % 32) else (s.hw.mcReg k i.f1).getLsbD j) ∧
    (i.op = .csr → i.low = 0 → Computed (.mcCsr k) s k i.f1 1 s.hw.stepNum) ∧
    (i.op = .csr → i.low = 1 → Computed (.mcCsr k) s k i.f1 1 (w32 (s.hw.subStep s.hw.dev))) ∧
    (i.op = .csr → i.low = 2 → Computed (.mcCsr k) s k i.f1 1 (neuronAddr k 0)) ∧
    (i.op = .csr → i.low = 3 → Computed (.mcCsr k) s k i.f1 1 (w32 s.hw.phaseCode)) ∧
    (i.op = .csr → i.low = 4 → Computed (.mcCsr k) s k i.f1 1 (w32 (s.hw.eng k).cyc)) ∧
    (i.op = .rand → Executed (.mcRand k) s k ((s.hw.setReg MC_SEED k (lfsrNext (s.hw.reg MC_SEED k))).mcSet k i.f1 (lfsrNext (s.hw.reg MC_SEED k))) 1
      ((s.hw.eng k).pc + 1)))

/-- LD, ST, LDB, STB, RADD and EMIT reach the memory the address names, and nothing else. Memory microcode (04 R119, R122): with address ra plus the
sign-extended immediate, LD loads a good word of SRAM, data memory or parameter RAM; ST stores to SRAM, which clears QUIET (03 R95), or to data
memory, and every byte outside the stored word reads as before; a load or a store outside them is an address error (04 R124); LDB and STB reach an
owned bank that is ON; RADD accumulates into the ring slot (04 R127); EMIT puts the event into the egress buffer (04 R126). -/
def Obligations.MicrocodeMemory : Prop :=
  ∀ (s : State) (k : Core) (i : MInstr) (x : Word) (a : Nat), s.Executes k i → x = s.hw.mcReg k i.f2 + wInt (sext 18 i.low) → a = x.toNat / 4 * 4 →
    (i.op = .ld → (a < 0x22000 ∨ 0x24000 ≤ a ∧ a < 0x26000) → s.hw.mark (coreBase k + a) = 0 →
      Computed (.mcLd k) s k i.f1 2 (s.hw.word (coreBase k + a))) ∧
    (i.op = .st → a < 0x20000 →
      Executed (.mcSt k) s k ((s.hw.setWord (coreBase k + a) (s.hw.mcReg k i.f1)).unquiet k) 1 ((s.hw.eng k).pc + 1)) ∧
    (i.op = .st → 0x20000 ≤ a → a < 0x22000 →
      Executed (.mcSt k) s k (s.hw.setWord (coreBase k + a) (s.hw.mcReg k i.f1)) 1 ((s.hw.eng k).pc + 1)) ∧
    (i.op = .st → a < 0x22000 → Answers (.mcSt k) s fun t => t.word (coreBase k + a) = s.hw.mcReg k i.f1 ∧
      ∀ j, j < coreBase k + a ∨ coreBase k + a + 4 ≤ j → t.byte j = s.hw.byte j) ∧
    ((i.op = .ld ∧ (0x22000 ≤ a ∧ a < 0x24000 ∨ 0x26000 ≤ a) ∨ i.op = .st ∧ 0x22000 ≤ a) → (s.hw.eng k).kind = .event →
      Answers (if i.op = .ld then .mcLd k else .mcSt k) s fun t => (t.eng k).running = false ∧ t.reg MC_ADDR_ERR_CNT k = satAdd32 (s.hw.reg MC_ADDR_ERR_CNT k) 1 ∧
        t.mem = s.hw.mem ∧ t.reg MC_ABORT_INFO k = w32 ((s.hw.eng k).pc % 1024 + 1 * 2 ^ 10 + 2 * 2 ^ 12)) ∧
    (∀ b off, i.op = .ldb → bankPath (s.hw.mcReg k i.f2) (sext 18 i.low) = some (b, off) → s.hw.portA (k / 32) b off (k % 32) = .ok →
      (∀ j, j < 4 → s.hw.mark (bankBase (k / 32) b + off / 16 * 16 + 4 * j) = 0) →
      Computed (.mcLdb k) s k i.f1 6 (s.hw.word (bankBase (k / 32) b + off))) ∧
    (∀ b off, i.op = .stb → bankPath (s.hw.mcReg k i.f2) (sext 18 i.low) = some (b, off) → s.hw.portA (k / 32) b off (k % 32) = .ok →
      Executed (.mcStb k) s k (s.hw.setWord (bankBase (k / 32) b + off) (s.hw.mcReg k i.f1)) 2 ((s.hw.eng k).pc + 1)) ∧
    (∀ n d, i.op = .radd → n = bits (s.hw.mcReg k i.f2) 12 0 → n < s.hw.imageN k → d = i.low % 8 + 8 * (i.f1 % 2) + 1 → s.hw.compact k = false →
      Executed (.mcRadd k) s k (s.hw.accumulate k n ((s.hw.raddStep k + 15 + d) % 16) (s.hw.mcReg k i.f3).toInt) 1 ((s.hw.eng k).pc + 1)) ∧
    (∀ n b, i.op = .emit → n = bits (s.hw.mcReg k i.f2) 12 0 → b = s.hw.mcReg k i.f3 → n < s.hw.imageN k → (s.hw.core k).egress.length < 256 →
      Executed (.mcEmit k) s k
        (s.hw.egressPush k ⟨neuronAddr k (s.hw.imageBase k + n), w32 (bits b 23 16 * 2 ^ 24 + bits b 15 0 * 2 ^ 8 + bits b 27 24)⟩) 1 ((s.hw.eng k).pc + 1)) ∧
    (i.op = .emit → bits (s.hw.mcReg k i.f2) 12 0 < s.hw.imageN k → 256 ≤ (s.hw.core k).egress.length → s.hw.step.phase ≠ .integrate →
      Executed (.mcEmit k) s k (s.hw.inc MC_EMIT_DROP_CNT k) 1 ((s.hw.eng k).pc + 1))

/-- Branches, jumps, END and TRAP move or end the handler as their rows say. Control transfer (04 R122): a taken branch goes to its target in two
cycles, one not taken to the next index in one; JMP, JAL and JR go to their targets in two; END of a per-event handler frees the engine and is
counted; TRAP aborts it with cause TRAP and its code, recorded and raised (04 R139). A word that spells no instruction aborts as ILLEGAL, whichever
row is asked for (04 R124). -/
def Obligations.MicrocodeControl : Prop :=
  (∀ (s : State) (k : Core) (i : MInstr) (a b : Word) (next : Nat), s.Executes k i → a = s.hw.mcReg k i.f1 → b = s.hw.mcReg k i.f2 →
    next = (s.hw.eng k).pc + 1 →
    (i.op = .beq → if a = b then Executed (.mcBeq k) s k s.hw 2 (i.low % 1024) else Executed (.mcBeq k) s k s.hw 1 next) ∧
    (i.op = .bne → if a ≠ b then Executed (.mcBne k) s k s.hw 2 (i.low % 1024) else Executed (.mcBne k) s k s.hw 1 next) ∧
    (i.op = .blt → if a.toInt < b.toInt then Executed (.mcBlt k) s k s.hw 2 (i.low % 1024) else Executed (.mcBlt k) s k s.hw 1 next) ∧
    (i.op = .bge → if a.toInt ≥ b.toInt then Executed (.mcBge k) s k s.hw 2 (i.low % 1024) else Executed (.mcBge k) s k s.hw 1 next) ∧
    (i.op = .jmp → Executed (.mcJmp k) s k s.hw 2 (i.low % 1024)) ∧
    (i.op = .jal → Executed (.mcJal k) s k (s.hw.mcSet k 15 (w32 next)) 2 (i.low % 1024)) ∧
    (i.op = .jr → Executed (.mcJr k) s k s.hw 2 (a.toNat % 1024)) ∧
    (i.op = .endh → (s.hw.eng k).kind = .event → Effect (.mcEnd k) s
      ((s.hw.updEng k fun e => { e with cyc := e.cyc + 1 }).mcOff k)
      [((MC_HANDLER_CNT, k), satAdd32 (s.hw.reg MC_HANDLER_CNT k) 1), ((MC_CYC_CNT, k), satAdd32 (s.hw.reg MC_CYC_CNT k) 1), ((MC_PC, k), w32 (s.hw.eng k).pc)]) ∧
    (i.op = .trap → (s.hw.eng k).kind = .event → Effect (.mcTrap k) s
      ((((s.hw.mcGo k).updEng k fun e => { e with cyc := e.cyc + 1 }).raiseCore fMcFault k).mcOff k)
      [((MC_ABORT_INFO, k), w32 ((s.hw.eng k).pc % 1024 + 1 * 2 ^ 10 + 4 * 2 ^ 12 + i.low % 256 * 2 ^ 16)),
        ((MC_CYC_CNT, k), satAdd32 (s.hw.reg MC_CYC_CNT k) 1), ((MC_PC, k), w32 (s.hw.eng k).pc)])) ∧
  (∀ (s : State) (k : Core), s.hw.powered = true → (s.hw.eng k).running = true → (s.hw.eng k).kind = .event →
    (s.hw.eng k).cyc < s.hw.mcLimit k .event → s.hw.mark (storeAddr k (s.hw.eng k).pc) = 0 → mcDecode (s.hw.word (storeAddr k (s.hw.eng k).pc)) = none →
    Effect (.mcAdd k) s
      ((((s.hw.mcGo k).updEng k fun e => { e with cyc := e.cyc + 1 }).raiseCore fMcFault k).mcOff k)
      [((MC_ABORT_INFO, k), w32 ((s.hw.eng k).pc % 1024 + 1 * 2 ^ 10 + 1 * 2 ^ 12)), ((MC_ILLEGAL_CNT, k), satAdd32 (s.hw.reg MC_ILLEGAL_CNT k) 1),
        ((MC_CYC_CNT, k), satAdd32 (s.hw.reg MC_CYC_CNT k) 1), ((MC_PC, k), w32 (s.hw.eng k).pc)])

/-- LISTEN, OPEN, SEND, CLOSE and STATUS take a ticket and do exactly what their rows say. Channel functions (04 R128), with a and b the registers,
e the core's endpoint and t its lowest free ticket: LISTEN on a free port makes it listen; OPEN takes the lowest free handle and sends CTLQ OPEN, or
completes with NAK(NOCONN); SEND on an open handle sends the message's segments, on any other completes with NAK(CLOSED); CLOSE of an open handle
sends CTLQ CLOSE; CLOSE of a port that does not listen completes; STATUS answers a ticket's state and frees one that is done or NAKed; with no free
ticket a posted function answers 0xFFFF_FFFF and sends nothing. -/
def Obligations.ChannelFunctions : Prop :=
  ∀ (s : State) (k : Core) (i : MInstr) (a b : Word) (e next : Nat), s.Executes k i → a = s.hw.mcReg k i.f2 → b = s.hw.mcReg k i.f3 → e = epOfCore k →
    next = (s.hw.eng k).pc + 1 →
    (s.hw.freeTicket e = none →
      (i.op = .chanListen → Computed (.mcChanListen k) s k i.f1 4 0xFFFFFFFF#32) ∧ (i.op = .chanOpen → Computed (.mcChanOpen k) s k i.f1 4 0xFFFFFFFF#32) ∧
      (i.op = .chanClose → Computed (.mcChanClose k) s k i.f1 4 0xFFFFFFFF#32)) ∧
    (∀ t, s.hw.freeTicket e = some t →
      (∀ p, i.op = .chanListen → p = bits a 23 16 → s.hw.port e p = {} → ((s.hw.ep e).ports.filter fun x => x.2.on).length < 8 → bits b 2 0 < 5 →
        Executed (.mcChanListen k) s k
          ((((s.hw.setTicket e t { used := true, st := 0, op := 0, handle := 0, sentAt := s.hw.dev }).setPort e p
            { on := true, base := bits a 12 6 * 64, size := 256 * 2 ^ bits b 2 0, entry := bits b 25 16 }).ticketDone e t).mcSet k i.f1 (w32 t)) 4 next) ∧
      (∀ p, i.op = .chanListen → p = bits a 23 16 → (s.hw.port e p).on = true → (s.hw.port e p).closing = false →
        Executed (.mcChanListen k) s k
          (((s.hw.setTicket e t { used := true, st := 0, op := 0, handle := 0, sentAt := s.hw.dev }).ticketNak e t nBUSY).mcSet k i.f1 (w32 t)) 4 next) ∧
      (∀ j, i.op = .chanOpen → ((List.range (epHandles e)).find? fun i => (s.hw.handle e i).st == 0) = some j →
        Executed (.mcChanOpen k) s k
          (((((s.hw.setTicket e t { used := true, st := 0, op := 1, handle := j, sentAt := s.hw.dev }).setHandle e j
            { st := 1, dst := bits a 19 16 * 2 ^ 16 + bits a 13 8 * 2 ^ 8 + bits a 5 0, port := bits b 7 0 })).sendReq e
            [uniHdr tCTLQ 2 (bits a 19 16) (bits a 13 8) (bits a 5 0), retAddr s.hw.pkgNum (epCl e) (epNo e) t, ctlWord opOPEN 0 0 0 (bits b 7 0)]
            (s.hw.uniDest (epCl e) (bits a 19 16) (bits a 13 8)).toList).mcSet k i.f1 (w32 t)) 4 next) ∧
      (i.op = .chanOpen → ((List.range (epHandles e)).find? fun i => (s.hw.handle e i).st == 0) = none →
        Executed (.mcChanOpen k) s k
          (((s.hw.setTicket e t { used := true, st := 0, op := 1, handle := 0, sentAt := s.hw.dev }).ticketNak e t nNOCONN).mcSet k i.f1 (w32 t)) 4 next) ∧
      (∀ l x, i.op = .chanSend → l = bits b 31 16 → x = bits b 15 0 → 1 ≤ l → l ≤ 256 → x + l ≤ 0x2000 → (s.hw.handle e a.toNat).st = 2 →
        (∀ w, x / 4 ≤ w → w ≤ (x + l - 1) / 4 → s.hw.mark (dmAddr k w) = 0) →
        Executed (.mcChanSend k) s k
          (((s.hw.setTicket e t { used := true, st := 0, op := 2, handle := a.toNat, sentAt := s.hw.dev }).sendMessage e a.toNat t
            (s.hw.bytes (dmAddr k 0 + x) l)).mcSet k i.f1 (w32 t)) (4 + (l + 15) / 16) next) ∧
      (∀ l x, i.op = .chanSend → l = bits b 31 16 → x = bits b 15 0 → 1 ≤ l → l ≤ 256 → x + l ≤ 0x2000 → (s.hw.handle e a.toNat).st ≠ 2 →
        (∀ w, x / 4 ≤ w → w ≤ (x + l - 1) / 4 → s.hw.mark (dmAddr k w) = 0) →
        Executed (.mcChanSend k) s k
          (((s.hw.setTicket e t { used := true, st := 0, op := 2, handle := a.toNat, sentAt := s.hw.dev }).ticketNak e t nCLOSED).mcSet k i.f1 (w32 t))
          (4 + (l + 15) / 16) next) ∧
      (i.op = .chanClose → bit b 0 = false → (s.hw.handle e a.toNat).st = 0 →
        Executed (.mcChanClose k) s k
          (((s.hw.setTicket e t { used := true, st := 0, op := 3, handle := a.toNat, sentAt := s.hw.dev }).ticketDone e t).mcSet k i.f1 (w32 t)) 4 next) ∧
      (∀ d, i.op = .chanClose → bit b 0 = false → d = s.hw.handle e a.toNat → d.st = 2 →
        Executed (.mcChanClose k) s k
          ((((s.hw.setTicket e t { used := true, st := 0, op := 3, handle := a.toNat, sentAt := s.hw.dev }).setHandle e a.toNat { d with st := 4 }).sendReq e
            [uniHdr tCTLQ 2 (bits (w32 d.dst) 19 16) (bits (w32 d.dst) 13 8) (bits (w32 d.dst) 5 0), retAddr s.hw.pkgNum (epCl e) (epNo e) t,
              ctlWord opCLOSE 0 d.conn d.epoch d.port]
            (s.hw.uniDest (epCl e) (bits (w32 d.dst) 19 16) (bits (w32 d.dst) 13 8)).toList).mcSet k i.f1 (w32 t)) 4 next) ∧
      (i.op = .chanClose → bit b 0 = true → (s.hw.port e a.toNat).on = false →
        Executed (.mcChanClose k) s k
          (((s.hw.setTicket e t { used := true, st := 0, op := 4, handle := a.toNat, sentAt := s.hw.dev }).ticketDone e t).mcSet k i.f1 (w32 t)) 4 next)) ∧
    (i.op = .chanStatus → (16 ≤ a.toNat ∨ (s.hw.ticket e a.toNat).used = false) → Computed (.mcChanStatus k) s k i.f1 1 3#32) ∧
    (i.op = .chanStatus → a.toNat < 16 → (s.hw.ticket e a.toNat).used = true → (s.hw.ticket e a.toNat).op ≠ 9 → (s.hw.ticket e a.toNat).st = 0 →
      Computed (.mcChanStatus k) s k i.f1 1 0#32) ∧
    (∀ x, i.op = .chanStatus → a.toNat < 16 → x = s.hw.ticket e a.toNat → x.used = true → x.op ≠ 9 → x.st = 2 →
      Executed (.mcChanStatus k) s k ((s.hw.setTicket e a.toNat {}).mcSet k i.f1 (w32 (2 + x.reason % 16 * 16))) 1 next) ∧
    (∀ x, i.op = .chanStatus → a.toNat < 16 → x = s.hw.ticket e a.toNat → x.used = true → x.op = 1 → x.st = 1 →
      Executed (.mcChanStatus k) s k ((s.hw.setTicket e a.toNat {}).mcSet k i.f1 (w32 (1 + x.reason % 16 * 16 + x.handle % 256 * 256))) 1 next)

/-- A free engine dispatches the next handler with its registers loaded, and the watchdog aborts one at its limit. Dispatch (04 R120, R129): a free
engine of an available core with ENABLE set dispatches the oldest per-event handler outside the neuron-update part, the oldest per-message handler
where no per-event one waits, and within the neuron-update part the per-neuron handler the phase waits for, its slot cleared; the registers are
those of the table of R120, m14 and m15 as they were. An engine that runs, or whose ENABLE is 0, dispatches nothing. A per-event handler at its
limit is aborted with cause WATCHDOG (04 R133). -/
def Obligations.HandlerDispatch : Prop :=
  (∀ (s : State) (k : Core) (x : EvHandler) (l : List EvHandler), s.hw.powered = true → (s.hw.eng k).running = false → s.hw.coreAvail k = true →
    s.hw.mcEnable k = true → s.hw.updating k = false → (s.hw.core k).evq = x :: l →
    Answers (.handlerDispatch k) s fun t => (t.core k).evq = l ∧ (t.eng k).running = true ∧ (t.eng k).kind = .event ∧ (t.eng k).pc = x.entry % 1024 ∧
      (t.eng k).cyc = 0 ∧ (t.eng k).dstep = x.arr.dstep ∧ t.mcReg k 1 = w32 x.ord ∧ t.mcReg k 2 = w32 (bits x.arr.ev.low 23 8) ∧
      t.mcReg k 3 = w32 (bits x.arr.ev.low 31 24 + bits x.arr.ev.low 7 0 * 256) ∧ t.mcReg k 4 = s.hw.stepNum ∧ t.mcReg k 5 = x.desc0 ∧
      t.mcReg k 6 = x.desc1 ∧ t.mcReg k 7 = x.arr.dstep ∧ (∀ r, 8 ≤ r → r ≤ 13 → t.mcReg k r = 0#32) ∧
      t.mcReg k 14 = s.hw.mcReg k 14 ∧ t.mcReg k 15 = s.hw.mcReg k 15 ∧ s.hw.Now { s.hw with cores := t.cores } [] t) ∧
  (∀ (s : State) (k : Core) (x : MsgRec) (l : List MsgRec), s.hw.powered = true → (s.hw.eng k).running = false → s.hw.coreAvail k = true →
    s.hw.mcEnable k = true → s.hw.updating k = false → (s.hw.core k).evq = [] → (s.hw.ep (epOfCore k)).msgq = x :: l →
    Answers (.handlerDispatch k) s fun t => (t.ep (epOfCore k)).msgq = l ∧ (t.eng k).running = true ∧ (t.eng k).kind = .message ∧
      (t.eng k).pc = (s.hw.port (epOfCore k) x.port).entry % 1024 ∧ t.mcReg k 1 = w32 x.conn ∧
      t.mcReg k 2 = w32 ((s.hw.port (epOfCore k) x.port).base + x.at_ + 4) ∧ t.mcReg k 3 = w32 x.len ∧ t.mcReg k 4 = s.hw.stepNum ∧
      t.mcReg k 5 = w32 x.port ∧ (∀ r, 6 ≤ r → r ≤ 13 → t.mcReg k r = 0#32) ∧ t.mcReg k 14 = s.hw.mcReg k 14 ∧ t.mcReg k 15 = s.hw.mcReg k 15) ∧
  (∀ (s : State) (k : Core) (n : Nat), s.hw.powered = true → (s.hw.eng k).running = false → s.hw.coreAvail k = true →
    s.hw.mcEnable k = true → s.hw.updating k = true → s.hw.neuronWaits k = some n → s.hw.marks = [] →
    Answers (.handlerDispatch k) s fun t => (t.eng k).running = true ∧ (t.eng k).kind = .neuron ∧ (t.eng k).neuron = n ∧
      (t.eng k).pc = bits (s.hw.reg MC_ENTRY k) 9 0 ∧ t.mcReg k 1 = w32 (s.hw.imageBase k + n) ∧
      t.mcReg k 3 = wInt (s.hw.read24 (s.hw.slotAddr k n (s.hw.stepNum.toNat % 16))) ∧ t.mcReg k 4 = s.hw.stepNum ∧
      t.mcReg k 5 = s.hw.word (s.hw.recAddr k n) ∧ t.mcReg k 10 = s.hw.word (psetAddr k (s.hw.psetOf k n)) ∧
      t.mcReg k 13 = s.hw.word (psetAddr k (s.hw.psetOf k n) + 20) ∧ t.read24 (s.hw.slotAddr k n (s.hw.stepNum.toNat % 16)) = 0 ∧
      t.mcReg k 14 = s.hw.mcReg k 14 ∧ t.mcReg k 15 = s.hw.mcReg k 15) ∧
  (∀ (s : State) (k : Core), ((s.hw.eng k).running = true ∨ s.hw.mcEnable k = false) → Ignored (.handlerDispatch k) s) ∧
  (∀ (s : State) (k : Core), s.hw.powered = true → (s.hw.eng k).running = true → (s.hw.eng k).kind = .event → s.hw.mcLimit k .event ≤ (s.hw.eng k).cyc →
    Effect (.mcWatchdogAbort k) s ((s.hw.raiseCore fMcFault k).mcOff k)
      [((MC_ABORT_INFO, k), w32 (s.hw.fld MC_PC k 9 0 % 1024 + 1 * 2 ^ 10)), ((MC_ABORT_CNT, k), satAdd32 (s.hw.reg MC_ABORT_CNT k) 1)]) ∧
  (∀ (s : State) (k : Core), ((s.hw.eng k).running = false ∨ (s.hw.eng k).cyc < s.hw.mcLimit k (s.hw.eng k).kind) → Ignored (.mcWatchdogAbort k) s)

/-- Handovers and bank wakes complete, and a scrubber visit moves each bank to its next line. Bank events: a handover that completes clears its
PENDING bit (05 R158); a wake that ends makes the region ON, a region whose contents were lost reading 0, and a write recorded meanwhile is applied
(05 R168); a visit of the scrubber with no wrong bits takes every bank one line on and changes no memory, and one that finds port B busy everywhere
is put off (05 R162, R165). -/
def Obligations.BankAndScrubEvents : Prop :=
  (∀ (s : State) (c : Cluster) (b : Fin 32), s.hw.powered = true → (s.hw.bank c b).heldW = [] →
    Effect (.bankHandoverComplete c b) s s.hw [((BANK_HANDOVER_PENDING, c), setBits (s.hw.reg BANK_HANDOVER_PENDING c) b b 0)]) ∧
  (∀ (s : State) (c : Cluster) (b : Fin 32), s.hw.powered = true → (s.hw.bank c b).waking = true → (s.hw.bank c b).lost = false →
    (s.hw.bank c b).recorded = none → (s.hw.bank c b).heldW = [] →
    Effect (.bankWakeComplete c b) s (s.hw.updBank c b fun x => { x with waking := false, pwr := 0, lost := false, recorded := none, waiters := [] }) []) ∧
  (∀ (s : State) (c : Cluster) (b : Fin 32), s.hw.powered = true → (s.hw.bank c b).waking = true → (s.hw.bank c b).lost = true → (s.hw.bank c b).heldW = [] →
    Answers (.bankWakeComplete c b) s fun t => (t.bank c b).waking = false ∧ (∀ x, x < ownedEnd → t.byte (bankBase c b + x) = 0#8) ∧
      (t.bank c b).pwr = match (s.hw.bank c b).recorded with
        | none => 0
        | some v => if v = 0 then 0 else if v = 2 then 2 else 1) ∧
  (∀ (s : State) (c : Cluster) (b : Fin 32), (s.hw.bank c b).waking = false → Ignored (.bankWakeComplete c b) s) ∧
  (∀ (s : State) (c : Cluster), s.hw.powered = true → s.hw.en SCRUB_CTRL c 0 = true → s.hw.marks = [] →
    (∀ b, b < 32 → (s.hw.bank c b).scrubLines = [] ∧ (s.hw.bank c b).scrubAt < bankLines) → (∃ b, b < 32 ∧ (s.hw.bank c b).scrubAt + 1 < bankLines) →
    Answers (.scrubLineVisit c 0#32 0#32) s fun t => (∀ b, b < 32 → t.bank c b = { s.hw.bank c b with scrubAt := (s.hw.bank c b).scrubAt + 1 }) ∧
      s.hw.Now { s.hw with clusters := t.clusters } [] t) ∧
  (∀ (s : State) (c : Cluster) (w : BitVec 32), s.hw.powered = true → s.hw.en SCRUB_CTRL c 0 = true → (∃ b, b < 32 ∧ (s.hw.bank c b).scrubAt < bankLines) →
    Answers (.scrubLineVisit c 0xFFFFFFFF#32 w) s fun t => (t.cl c).retry = (s.hw.cl c).retry ++ (List.range 32).map PortB.scrub ∧
      s.hw.Now { s.hw with clusters := t.clusters } [] t) ∧
  (∀ (s : State) (c : Cluster) (x y : BitVec 32), s.hw.en SCRUB_CTRL c 0 = false → Ignored (.scrubLineVisit c x y) s)

/-- The lookup engine drops a miss and offers a match to its groups; a busy port puts it off; drip events are admitted. The lookup queue (05
R147-R149): an event whose two entries do not match is dropped, counted and raised; one that matches in way 0 leaves the queue, and each available
core of its groups that is awake with room gets the offer; a collision on port B is repeated later, lookups before scrubs before window writes (05
R160, R162); a waiting drip event enters a queue with 32 free entries, and the last of its packet returns the window place (07 R213). -/
def Obligations.LookupAndAdmission : Prop :=
  (∀ (s : State) (c : Cluster) (a : Arrival) (l : List Arrival), s.hw.powered = true → (s.hw.cl c).avail = true → (s.hw.cl c).lookq = a :: l →
    (s.hw.cl c).retry.contains .lookup = false → s.hw.marks = [] →
    (∀ w : Fin 2, ¬ (bit (s.hw.word (bankBase c (s.hw.entryAt c w a.ev.addr).1 + (s.hw.entryAt c w a.ev.addr).2)) 31 = true ∧
      s.hw.word (bankBase c (s.hw.entryAt c w a.ev.addr).1 + ((s.hw.entryAt c w a.ev.addr).2 + 4)) = a.ev.addr)) →
    Effect (.entryLookup c false) s ((s.hw.updCl c fun v => { v with lookq := l }).raiseQCl fEntryMiss c)
      [((LOOKUP_MISS_CNT, c), satAdd32 (s.hw.reg LOOKUP_MISS_CNT c) 1)]) ∧
  (∀ (s : State) (c : Cluster) (a : Arrival) (l : List Arrival) (p : Nat × Nat) (e : Word), s.hw.powered = true → (s.hw.cl c).avail = true →
    (s.hw.cl c).lookq = a :: l → (s.hw.cl c).retry.contains .lookup = false → s.hw.marks = [] → p = s.hw.entryAt c 0 a.ev.addr →
    e = s.hw.word (bankBase c p.1 + p.2) → bit e 31 = true → s.hw.word (bankBase c p.1 + (p.2 + 4)) = a.ev.addr → a.fabric = true →
    Answers (.entryLookup c false) s fun t => (t.cl c).lookq = l ∧ t.reg LOOKUP_MISS_CNT c = s.hw.reg LOOKUP_MISS_CNT c ∧
      ∀ k ∈ coresOf c, if bit e (5 + k % 32 / 4) = true ∧ s.hw.coreAvail k = true ∧ (s.hw.core k).warm = false ∧ (s.hw.core k).listq.length < 256
        then (t.core k).listq = (s.hw.core k).listq ++ [{ ord := bits e 30 13, arr := a, seq := (s.hw.cl c).looked }] else (t.core k).listq = (s.hw.core k).listq) ∧
  (∀ (s : State) (c : Cluster), s.hw.powered = true → (s.hw.cl c).avail = true → (s.hw.cl c).lookq ≠ [] → (s.hw.cl c).retry.contains .lookup = false →
    Effect (.entryLookup c true) s (s.hw.updCl c fun v => { v with retry := v.retry ++ [.lookup] }) []) ∧
  (∀ (s : State) (c : Cluster) (b : Bool), (s.hw.cl c).lookq = [] → Ignored (.entryLookup c b) s) ∧
  (∀ (s : State) (c : Cluster), s.hw.powered = true → nextRetry (s.hw.cl c).retry = some .lookup → (s.hw.cl c).avail = false →
    Effect (.portBRetry c) s (s.hw.updCl c fun v => { v with retry := v.retry.erase .lookup }) []) ∧
  (∀ (s : State) (c : Cluster) (b : Nat), s.hw.powered = true → nextRetry (s.hw.cl c).retry = some (.scrub b) →
    Answers (.portBRetry c) s (· = (s.hw.updCl c fun v => { v with retry := v.retry.erase (.scrub b) }).scrubBank c b false false)) ∧
  (∀ (s : State) (c : Cluster) (b off : Nat) (w : Word), s.hw.powered = true → nextRetry (s.hw.cl c).retry = some (.window b off w) →
    Effect (.portBRetry c) s ((s.hw.updCl c fun v => { v with retry := v.retry.erase (.window b off w) }).setWord (bankBase c b + off) w) []) ∧
  (∀ (s : State) (c : Cluster), (s.hw.cl c).retry = [] → Ignored (.portBRetry c) s) ∧
  (∀ (s : State) (c : Cluster) (a b : Arrival) (l : List Arrival), s.hw.powered = true → (s.hw.cl c).admitq = a :: b :: l → (s.hw.cl c).avail = true →
    (s.hw.cl c).lookq.length + 32 ≤ 256 → s.hw.neuronHigh a.ev.addr = false → s.hw.evtFate (a.dstep.toNat % 16) = .onTime →
    Answers (.dripLookupAdmit c) s fun t => (t.cl c).admitq = b :: l ∧ (t.cl c).lookq = (s.hw.cl c).lookq ++ [{ a with dstep := s.hw.stepNum }] ∧
      t.reg DRIP_EVT_IN_CNT c = satAdd32 (s.hw.reg DRIP_EVT_IN_CNT c) 1 ∧ (t.cl c).admitRet = (s.hw.cl c).admitRet ∧ t.cores = s.hw.cores) ∧
  (∀ (s : State) (c : Cluster) (a : Arrival) (l : List Arrival), s.hw.powered = true → (s.hw.cl c).admitq = a :: l → (s.hw.cl c).avail = true →
    256 < (s.hw.cl c).lookq.length + 32 → Ignored (.dripLookupAdmit c) s) ∧
  (∀ (s : State) (c : Cluster), (s.hw.cl c).admitq = [] → Ignored (.dripLookupAdmit c) s)

/-- A core takes its oldest offer: outside its window nothing streams, and one synapse adds its contribution to its slot. Streaming (05 R150-R155):
an offer outside the core's descriptor window is dropped; one whose descriptor is invalid streams nothing; a list of one S8 word adds the word's
contribution to the slot of its delay at the neuron it names, counted (03 R96, R97, 02 R60), for a full-layout core that is available, unsliced and
runs no handler for the ordinal, with no other core of the cluster asking; a bank that is held makes the offer wait, with its list and chain table
as they were when it started (05 R174). -/
def Obligations.ListStreaming : Prop :=
  (∀ (s : State) (k : Core) (o : Offer) (l : List Offer), s.hw.powered = true → s.hw.coreAvail k = true → (s.hw.core k).listq = o :: l →
    o.lists = none → s.hw.inWindow k o.ord = false →
    Effect (.listOfferStream k) s (s.hw.updCore k fun x => { x with listq := l }) []) ∧
  (∀ (s : State) (k : Core) (o : Offer) (l : List Offer) (p : Nat × Nat) (d : Desc), s.hw.powered = true → s.hw.coreAvail k = true →
    (s.hw.core k).listq = o :: l → o.lists = none → s.hw.step.phase ≠ .integrate → s.hw.waits = [] → (∀ j ∈ coresOf (k / 32), j ≠ k.val → (s.hw.core j).listq = []) →
    s.hw.inWindow k o.ord = true → s.hw.evtMode k o.ord = 0 → s.hw.marks = [] → p = s.hw.descAt k o.ord →
    s.hw.portA (k / 32) p.1 p.2 (k % 32) = .ok → p.2 % 8 = 0 →
    d = descOf (s.hw.word (bankBase (k / 32) p.1 + p.2)) (s.hw.word (bankBase (k / 32) p.1 + (p.2 + 4))) → d.fmt = 3 →
    Effect (.listOfferStream k) s (s.hw.updCore k fun x => { x with listq := l }) []) ∧
  (∀ (s : State) (k : Core) (o : Offer) (l : List Offer) (p : Nat × Nat) (d : Desc) (w : Word) (tgt : Nat), s.hw.powered = true →
    s.hw.coreAvail k = true → (s.hw.core k).listq = o :: l → o.lists = none → s.hw.step.phase ≠ .integrate → s.hw.waits = [] → (∀ j ∈ coresOf (k / 32), j ≠ k.val → (s.hw.core j).listq = []) →
    s.hw.inWindow k o.ord = true → s.hw.evtMode k o.ord = 0 → s.hw.marks = [] →
    p = s.hw.descAt k o.ord → s.hw.portA (k / 32) p.1 p.2 (k % 32) = .ok → p.2 % 8 = 0 →
    d = descOf (s.hw.word (bankBase (k / 32) p.1 + p.2)) (s.hw.word (bankBase (k / 32) p.1 + (p.2 + 4))) →
    d.fmt = 0 → d.len = 1 → d.chain = false → descOk d 0 = true → s.hw.portA (k / 32) d.bank (16 * d.offset) (k % 32) = .ok →
    w = s.hw.word (bankBase (k / 32) d.bank + 16 * d.offset) → sext 8 (bits w 31 24) ≠ 0 → tgt = k / 32 * 32 + bits w 17 13 → tgt ≠ k →
    s.hw.coreAvail tgt = true → s.hw.slices tgt = 1 → s.hw.paired tgt = false → s.hw.compact tgt = false → bits w 12 0 < s.hw.neurons tgt →
    bit w 18 = false → d.graded = false → o.arr.late = false →
    Answers (.listOfferStream k) s (· = ((((s.hw.updCore k fun x => { x with listq := l }).inc LIST_CNT k).inc SYN_CNT k).accumulate tgt (bits w 12 0)
      ((o.arr.dstep.toNat + 15 + (if bits w 23 20 = 0 then 16 else bits w 23 20)) % 16) (shiftRtz (sext 8 (bits w 31 24)) d.shift)))) ∧
  (∀ (s : State) (k : Core) (o : Offer) (l : List Offer) (p : Nat × Nat), s.hw.powered = true → s.hw.coreAvail k = true →
    (s.hw.core k).listq = o :: l → o.lists = none → s.hw.inWindow k o.ord = true → p = s.hw.descAt k o.ord →
    s.hw.portA (k / 32) p.1 p.2 (k % 32) = .held →
    Answers (.listOfferStream k) s (· = (s.hw.updCore k fun x =>
      { x with listq := { o with lists := some (p.1, p.2, s.hw.chainAt k) } :: l }).wakeBank (k / 32) p.1 (whoPipe k))) ∧
  (∀ (s : State) (k : Core), ((s.hw.core k).listq = [] ∨ s.hw.coreAvail k = false) → Ignored (.listOfferStream k) s)

/-- The fixed neuron path integrates, fires or refracts by the update of R93, and accumulation saturates at 24 bits. Neurons (03 R93, R97), for a
full-layout core with no wrong bits: the update of an enabled neuron leaves its slot of the step 0 and every byte outside its record as it was; with
REF above 0 the neuron does not fire and REF counts down; below the threshold V is the clamped sum of its leak, its slot and its bias; from the
threshold on it fires with REF = TREF, counted. An accumulation leaves the saturated sum in its slot and every byte outside it as it was. -/
def Obligations.FixedNeuronPath : Prop :=
  (∀ (h : Hw) (k base n : Nat) (ps : List Word) (w0 : Word) (v' : NVars) (x : Int), h.marks = [] → h.compact k = false → w0 = h.word (h.recAddr k n) →
    bit w0 0 = true → ps = h.words (psetAddr k (h.psetOf k n)) 8 → v' = recVars false w0 (h.word (h.recAddr k n + 4)) (h.word (h.recAddr k n + 8)) →
    x = max (sat24 (rtz v'.v (pvars ps).alpha + h.read24 (h.slotAddr k n (h.stepNum.toNat % 16)) + sext 24 (bits (h.word (h.recAddr k n + 12)) 31 8))) (pvars ps).vMin →
    (∀ j, j < h.recAddr k n ∨ h.recAddr k n + 64 ≤ j → (h.updateFixed k base n).byte j = h.byte j) ∧
    (h.updateFixed k base n).read24 (h.slotAddr k n (h.stepNum.toNat % 16)) = 0 ∧
    (0 < v'.ref → (h.updateFixed k base n).fld SPIKE_CNT k 31 0 = h.fld SPIKE_CNT k 31 0 ∧
      bits ((h.updateFixed k base n).word (h.recAddr k n)) 7 4 = v'.ref - 1 ∧ bit ((h.updateFixed k base n).word (h.recAddr k n)) 2 = false) ∧
    (v'.ref = 0 → x < (pvars ps).theta0 + ((v'.a * (pvars ps).beta / 32768 * 2 ^ (pvars ps).ashift : Nat) : Int) →
      sext 24 (bits ((h.updateFixed k base n).word (h.recAddr k n)) 31 8) = x ∧ bit ((h.updateFixed k base n).word (h.recAddr k n)) 2 = false ∧
      (h.updateFixed k base n).reg SPIKE_CNT k = h.reg SPIKE_CNT k) ∧
    (v'.ref = 0 → (pvars ps).theta0 + ((v'.a * (pvars ps).beta / 32768 * 2 ^ (pvars ps).ashift : Nat) : Int) ≤ x →
      bit ((h.updateFixed k base n).word (h.recAddr k n)) 2 = true ∧ bits ((h.updateFixed k base n).word (h.recAddr k n)) 7 4 = (pvars ps).tref ∧
      (h.updateFixed k base n).reg SPIKE_CNT k = satAdd32 (h.reg SPIKE_CNT k) 1)) ∧
  (∀ (h : Hw) (k n j : Nat) (c : Int), h.marks = [] →
    (h.accumulate k n j c).read24 (h.slotAddr k n j) = sat24 (h.read24 (h.slotAddr k n j) + c) ∧
    (∀ a, a < h.slotAddr k n j ∨ h.slotAddr k n j + 3 ≤ a → (h.accumulate k n j c).byte a = h.byte a) ∧
    ((h.accumulate k n j c).core k).quiet = false ∧ (∀ i, i ≠ k → (h.accumulate k n j c).core i = h.core i))

/-- A reserved slot sends its flow's held event or EMPTY; an offered event is held, spills or is dropped; residue moves to the spill queue. The
scheduled fabric (06 R180-R191): a slot outside the frames of the step, or ahead of a neighbour, does not happen; in an IDLE frame every input is
ignored; a layout-L entry with one local output sends the head of its flow's hold queue, in the lookup queue three slots on, or EMPTY; an offered
event is held while a reserved slot is ahead, else spills for its delivery step, and with no flow is dropped; a stage that refuses counts the stall,
from the cycle in which the event was offered on, and an event leaves the local port after its core cycle (06 R186, R191); the last frame's end
comes once; residue moves with the step it was for; the scrubber reads the tables in turn (06 R197). -/
def Obligations.FabricSlotsAndInjection : Prop :=
  (∀ (s : State) (c : Cluster) (x : SlotErr), (s.hw.step.phase ≠ .delivery ∨ s.hw.frameEnd ≤ (s.hw.cl c).slot ∨
    ∃ d, d < 64 ∧ (s.hw.cl d).slot + 3 ≤ (s.hw.cl c).slot) → Ignored (.fabricSlot c x) s) ∧
  (∀ (s : State) (c : Cluster), s.hw.powered = true → s.hw.step.phase = .delivery → s.hw.step.framesDone = false → (s.hw.cl c).slot < s.hw.frameEnd →
    (∀ d, d < 64 → (s.hw.cl c).slot < (s.hw.cl d).slot + 3) → (s.hw.cl c).lanes = [] → s.hw.waits = [] →
    bit (s.hw.tab .fseq c ((s.hw.cl c).fseq * 2 ^ 16 + (s.hw.cl c).slot / 1024)) 7 = true →
    Answers (.fabricSlot c {}) s (· = (s.hw.advTo (s.hw.step.start + (s.hw.cl c).slot)).updCl c fun v => { v with slot := (s.hw.cl c).slot + 1 })) ∧
  (∀ (s : State) (c : Cluster) (n f : Nat) (q w : Word) (e : Ev) (r : List (Nat × Ev)), s.hw.powered = true → s.hw.step.phase = .delivery →
    s.hw.step.framesDone = false → n = (s.hw.cl c).slot → n < s.hw.frameEnd → (∀ d, d < 64 → n < (s.hw.cl d).slot + 3) → (s.hw.cl c).lanes = [] → s.hw.waits = [] →
    q = s.hw.tab .fseq c ((s.hw.cl c).fseq * 2 ^ 16 + n / 1024) → bit q 7 = false → (s.hw.cl c).idleFrame ≠ some (n / 1024) →
    (∀ i, 1 ≤ i → i < 17 → s.hw.tab .gt c (bits q 2 0 * 2 ^ 16 + i * 2 ^ 10 + n % 1024) = 0#32) →
    w = s.hw.tab .gt c (bits q 2 0 * 2 ^ 16 + n % 1024) → bits w 31 30 = 2 → bits w 16 0 = 1 → f = bits w 25 17 → takeHeld f (s.hw.cl c).hold = some (e, r) →
    Answers (.fabricSlot c {}) s fun t => (t.cl c).hold = r ∧ (t.cl c).slot = n + 1 ∧ Tbl.find (t.cl c).lanes (laneKey (n + 3) 32) = some e ∧
      t.passed c f = s.hw.passed c f + 1 ∧ t.reg (FCLS_HIT_CNT (s.hw.flowClass c f)) c = satAdd32 (s.hw.reg (FCLS_HIT_CNT (s.hw.flowClass c f)) c) 1 ∧
      t.reg (FCLS_RESV_CNT (s.hw.flowClass c f)) c = satAdd32 (s.hw.reg (FCLS_RESV_CNT (s.hw.flowClass c f)) c) 1 ∧
      t.cores = s.hw.cores ∧ t.mem = s.hw.mem ∧ t.reports = s.hw.reports) ∧
  (∀ (s : State) (c : Cluster) (n f : Nat) (q w : Word), s.hw.powered = true → s.hw.step.phase = .delivery →
    s.hw.step.framesDone = false → n = (s.hw.cl c).slot → n < s.hw.frameEnd → (∀ d, d < 64 → n < (s.hw.cl d).slot + 3) → (s.hw.cl c).lanes = [] → s.hw.waits = [] →
    q = s.hw.tab .fseq c ((s.hw.cl c).fseq * 2 ^ 16 + n / 1024) → bit q 7 = false → (s.hw.cl c).idleFrame ≠ some (n / 1024) →
    (∀ i, 1 ≤ i → i < 17 → s.hw.tab .gt c (bits q 2 0 * 2 ^ 16 + i * 2 ^ 10 + n % 1024) = 0#32) →
    w = s.hw.tab .gt c (bits q 2 0 * 2 ^ 16 + n % 1024) → bits w 31 30 = 2 → bits w 16 0 = 1 → f = bits w 25 17 → takeHeld f (s.hw.cl c).hold = none →
    Answers (.fabricSlot c {}) s fun t => (t.cl c).hold = (s.hw.cl c).hold ∧ (t.cl c).slot = n + 1 ∧ (t.cl c).lanes = [] ∧
      t.passed c f = s.hw.passed c f + 1 ∧ t.reg (FCLS_EMPTY_CNT (s.hw.flowClass c f)) c = satAdd32 (s.hw.reg (FCLS_EMPTY_CNT (s.hw.flowClass c f)) c) 1 ∧
      t.reg (FCLS_RESV_CNT (s.hw.flowClass c f)) c = satAdd32 (s.hw.reg (FCLS_RESV_CNT (s.hw.flowClass c f)) c) 1) ∧
  (∀ (s : State) (c : Cluster) (a b : Fin 3) (p : PortEv) (r : List PortEv), s.hw.powered = true → (s.hw.cl c).port = p :: r →
    (1024 ≤ (s.hw.cl c).spill.length ∨ (s.hw.cl c).residue ≠ []) → s.hw.waits = [] →
    Effect (.injectionOffer c a b) s
      { s.hw with waits := [(waitKey SPILL_STALL_CNT c 0,
        { page := SPILL_STALL_CNT.page, off := SPILL_STALL_CNT.off, unit := c.val, next := s.hw.dev + 1, n := 1 })] }
      [((SPILL_STALL_CNT, c), satAdd32 (s.hw.reg SPILL_STALL_CNT c) 1)]) ∧
  (∀ (s : State) (c : Cluster) (p : PortEv) (r : List PortEv) (f : Nat), s.hw.powered = true → s.hw.step.phase ≠ .integrate → (s.hw.cl c).port = p :: r →
    (s.hw.cl c).spill.length < 1024 → (s.hw.cl c).residue = [] → s.hw.waits = [] → p.ofCore = false → s.hw.addrBad p.ev.addr = false → s.hw.flowOf c p.ev.addr = some f →
    s.hw.step.framesDone = false → s.hw.held c f + s.hw.passed c f < s.hw.flowBudget c f →
    Answers (.injectionOffer c 0 0) s (· = (((s.hw.advTo (p.key / 64 * 2 + 2)).updCl c fun v => { v with port := r }).updCl c fun v => { v with hold := v.hold ++ [(f, p.ev)] }).hwm
      HOLD_HWM c ((s.hw.cl c).hold.length + 1))) ∧
  (∀ (s : State) (c : Cluster) (p : PortEv) (r : List PortEv) (f k : Nat), s.hw.powered = true → s.hw.step.phase = .delivery → (s.hw.cl c).port = p :: r →
    (s.hw.cl c).spill.length < 1024 → (s.hw.cl c).residue = [] → s.hw.waits = [] → p.ofCore = false → s.hw.addrBad p.ev.addr = false → s.hw.flowOf c p.ev.addr = some f →
    (s.hw.step.framesDone = true ∨ s.hw.flowBudget c f ≤ s.hw.held c f + s.hw.passed c f) → k = s.hw.flowClass c f → s.hw.destPkgs c (s.hw.flowDest c f) ≠ 0 →
    Answers (.injectionOffer c 0 0) s (· = (((((s.hw.advTo (p.key / 64 * 2 + 2)).updCl c fun v => { v with port := r }).inc (FCLS_SPILL_CNT k) c).inc SPILL_EVT_CNT c).updCl c fun v =>
      { v with spill := v.spill ++ [⟨p.ev, s.hw.stepNum, s.hw.flowDest c f⟩] }).hwm SPILL_HWM c ((s.hw.cl c).spill.length + 1))) ∧
  (∀ (s : State) (c : Cluster) (p : PortEv) (r : List PortEv), s.hw.powered = true → s.hw.step.phase ≠ .integrate → (s.hw.cl c).port = p :: r →
    (s.hw.cl c).spill.length < 1024 → (s.hw.cl c).residue = [] → s.hw.waits = [] → p.ofCore = false → s.hw.addrBad p.ev.addr = false → s.hw.flowOf c p.ev.addr = none →
    Effect (.injectionOffer c 0 0) s (((s.hw.advTo (p.key / 64 * 2 + 2)).updCl c fun v => { v with port := r }).raiseQCl fFabNoflow c)
      [((NOFLOW_DROP_CNT, c), satAdd32 (s.hw.reg NOFLOW_DROP_CNT c) 1)]) ∧
  (∀ (s : State) (c : Cluster) (p : PortEv) (r : List PortEv), s.hw.powered = true → s.hw.step.phase ≠ .integrate → (s.hw.cl c).port = p :: r →
    (s.hw.cl c).spill.length < 1024 → (s.hw.cl c).residue = [] → s.hw.waits = [] → s.hw.addrBad p.ev.addr = true →
    Effect (.injectionOffer c 0 0) s ((s.hw.advTo (p.key / 64 * 2 + 2)).updCl c fun v => { v with port := r }) [((ADDR_DEPTH_ERR_CNT, c), satAdd32 (s.hw.reg ADDR_DEPTH_ERR_CNT c) 1)]) ∧
  (∀ (s : State) (c : Cluster) (a b : Fin 3), (s.hw.cl c).port = [] → (s.hw.cl c).alias_ = [] → Ignored (.injectionOffer c a b) s) ∧
  (∀ s : State, (s.hw.step.phase ≠ .delivery ∨ s.hw.step.framesDone = true ∨ ∃ d, d < 64 ∧ (s.hw.cl d).slot < s.hw.frameEnd) → Ignored .lastFrameEnd s) ∧
  (∀ s : State, s.hw.powered = true → s.hw.step.phase = .delivery → s.hw.step.framesDone = false →
    (∀ d, d < 64 → s.hw.frameEnd ≤ (s.hw.cl d).slot ∧ (s.hw.cl d).hold = [] ∧ (s.hw.cl d).lanes = []) → s.hw.waits = [] →
    Answers .lastFrameEnd s fun t => t.step = { s.hw.step with framesDone := true } ∧ t.dev = max s.hw.dev (s.hw.step.start + s.hw.frameEnd) ∧
      t.regs = s.hw.regs ∧ t.cores = s.hw.cores ∧ ∀ d, d < 64 → t.cl d = s.hw.cl d) ∧
  (∀ (s : State) (c : Cluster) (f k : Nat) (e : Ev) (n : Word) (r : List (Nat × Ev × Word)), s.hw.powered = true → s.hw.step.phase ≠ .integrate →
    (s.hw.cl c).residue = (f, e, n) :: r → (s.hw.cl c).spill.length < 1024 → k = s.hw.flowClass c f → s.hw.destPkgs c (s.hw.flowDest c f) ≠ 0 →
    Answers (.holdResidueMove c 0) s fun t => (t.cl c).residue = r ∧ (t.cl c).spill = (s.hw.cl c).spill ++ [⟨e, n, s.hw.flowDest c f⟩] ∧
      t.reg HOLD_RESIDUE_CNT c = satAdd32 (s.hw.reg HOLD_RESIDUE_CNT c) 1 ∧ t.reg SPILL_EVT_CNT c = satAdd32 (s.hw.reg SPILL_EVT_CNT c) 1 ∧
      t.reg (FCLS_SPILL_CNT k) c = satAdd32 (s.hw.reg (FCLS_SPILL_CNT k) c) 1 ∧ t.reports = s.hw.reports) ∧
  (∀ (s : State) (c : Cluster), s.hw.powered = true → s.hw.en RT_CTRL c 1 = true → s.hw.step.phase ≠ .delivery →
    Effect (.routerTableScrub c 1) s (s.hw.updCl c fun v => { v with tblScrub := (v.tblScrub + 1) % 141056 })
      [((GT_CE_CNT, c), satAdd32 (s.hw.reg GT_CE_CNT c) 1)]) ∧
  (∀ (s : State) (c : Cluster) (err : Fin 3), s.hw.flag RT_CTRL c 1 = true → s.hw.step.phase = .delivery → Ignored (.routerTableScrub c err) s)

/-- Drip flits are routed by header and credit, events are packed and taken, and window places return or time out. The drip plane (07 R202-R221): a
header flit of a well-formed message takes its XY output where it is its turn and there is room, a control packet that is whole and checked moves on
whole, and a header with no credit waits, counted by the cycle; a malformed header discards its packet, counted; the spill port moves the head of
the spill queue to its endpoint's queue; a full packet of seven events leaves as one EVT packet; a packet that came too late is dropped under DROP
and its window returned; a window return frees its place, and a place that times out is reclaimed, counted and raised. -/
def Obligations.DripForwardingAndEvents : Prop :=
  (∀ (s : State) (c : Cluster) (p : Fin 6) (rsp : Bool) (err : Fin 3), s.hw.dbufOf c p (b2n rsp) = [] → Ignored (.dripFlitForward c p rsp err) s) ∧
  (∀ (s : State) (c d : Cluster) (p : Fin 6) (w : Word) (l : List DFlit) (dir : Dir), s.hw.powered = true → p.val ≠ 0 →
    s.hw.dbufOf c p 0 = ⟨w, false⟩ :: l → s.hw.route c p 0 = {} → hdrOk w = true → pType w = tMSG → pDpkg w = s.hw.pkgNum →
    xyPort c (pDcl w) = dir.port → neighbour c dir = some d.val → s.hw.portDead c dir.port = false → s.hw.outsFree c p 0 [dir.port] = true →
    s.hw.turn c p 0 dir.port = true → (s.hw.dbufOf d dir.opp.port 0).length < 40 →
    Answers (.dripFlitForward c p false 0) s fun t => t.dbufOf c p 0 = l ∧ t.dbufOf d dir.opp.port 0 = s.hw.dbufOf d dir.opp.port 0 ++ [⟨w, false⟩] ∧
      t.route c p 0 = ⟨pLen w, [dir.port], false, 0⟩ ∧ t.cores = s.hw.cores ∧ t.mem = s.hw.mem) ∧
  (∀ (s : State) (c d : Cluster) (p : Fin 6) (w : Word) (q l : List DFlit) (dir : Dir), s.hw.powered = true → p.val ≠ 0 →
    s.hw.dbufOf c p 1 = (⟨w, false⟩ :: q) ++ l → q.length = pLen w → (∀ x ∈ q, x.bad = false) → s.hw.route c p 1 = { checked := pLen w } →
    hdrOk w = true → 4 ≤ pType w → pDpkg w = s.hw.pkgNum → xyPort c (pDcl w) = dir.port → neighbour c dir = some d.val →
    s.hw.portDead c dir.port = false → s.hw.outsFree c p 1 [dir.port] = true → s.hw.turn c p 1 dir.port = true →
    (s.hw.dbufOf d dir.opp.port 1).length + pLen w < 40 →
    Answers (.dripFlitForward c p true 0) s fun t => t.dbufOf c p 1 = l ∧
      t.dbufOf d dir.opp.port 1 = s.hw.dbufOf d dir.opp.port 1 ++ ⟨w, false⟩ :: q ∧ t.route c p 1 = {} ∧ t.regs = s.hw.regs ∧ t.cores = s.hw.cores) ∧
  (∀ (s : State) (c d : Cluster) (p : Fin 6) (w : Word) (l : List DFlit) (dir : Dir), s.hw.powered = true →
    s.hw.dbufOf c p 0 = ⟨w, false⟩ :: l → s.hw.route c p 0 = {} → hdrOk w = true → pType w = tMSG → pDpkg w = s.hw.pkgNum →
    xyPort c (pDcl w) = dir.port → neighbour c dir = some d.val → s.hw.portDead c dir.port = false → s.hw.outsFree c p 0 [dir.port] = true →
    s.hw.turn c p 0 dir.port = true → 40 ≤ (s.hw.dbufOf d dir.opp.port 0).length → s.hw.waits = [] →
    Effect (.dripFlitForward c p false 0) s
      { s.hw with waits := [(waitKey DRIP_CRED_STALL_CNT c (2 * p.val),
        { page := DRIP_CRED_STALL_CNT.page, off := DRIP_CRED_STALL_CNT.off, unit := c.val, next := s.hw.dev + 1, n := 1 })] }
      [((DRIP_CRED_STALL_CNT, c), satAdd32 (s.hw.reg DRIP_CRED_STALL_CNT c) 1)]) ∧
  (∀ (s : State) (c : Cluster) (p : Fin 6) (rsp : Bool) (w : Word) (l : List DFlit), s.hw.powered = true → p.val ≠ 0 → s.hw.waits = [] →
    s.hw.dbufOf c p (b2n rsp) = ⟨w, false⟩ :: l → s.hw.route c p (b2n rsp) = {} → hdrOk w = false →
    Answers (.dripFlitForward c p rsp 0) s fun t => t.dbufOf c p (b2n rsp) = l ∧
      t.route c p (b2n rsp) = ⟨pLen w, [], true, 0⟩ ∧ t.reg DRIP_TREE_ERR_CNT c = satAdd32 (s.hw.reg DRIP_TREE_ERR_CNT c) 1 ∧
      t.reports = s.hw.reports ∧ t.cores = s.hw.cores) ∧
  (∀ (s : State) (c : Cluster) (e : Spilled) (l : List Spilled) (k : Nat), s.hw.powered = true → (s.hw.cl c).spill = e :: l →
    k = 64 * c + s.hw.spillEp c e.ev.addr → (s.hw.ep k).q.length < 1024 →
    Answers (.spillPortMove c) s (· = (((s.hw.updCl c fun v => { v with spill := l }).spillRoom c).updEp k fun x => { x with q := x.q ++ [e], lastAt := s.hw.dev }).hwm
      EGQ_HWM k ((s.hw.ep k).q.length + 1))) ∧
  (∀ (s : State) (c : Cluster), ((s.hw.cl c).spill = [] ∨ ∃ e l, (s.hw.cl c).spill = e :: l ∧ 1024 ≤ (s.hw.ep (64 * c + s.hw.spillEp c e.ev.addr)).q.length) →
    Ignored (.spillPortMove c) s) ∧
  (∀ (s : State) (c : Cluster) (ep : Fin 36) (k : Nat) (x : Spilled) (l : List Spilled), s.hw.powered = true → k = 64 * c.val + ep.val →
    (s.hw.ep k).q = x :: l → (packEvents (s.hw.ep k).q).length = 7 → s.hw.stepStarted x.step = true → (s.hw.ep k).txq = [] →
    s.hw.windowsFree k (s.hw.destClusters c x.dest) = true → s.hw.mayStart c 15 = true → s.hw.waits = [] →
    Answers (.evtPacketSend c ep) s fun t => (t.ep k).q = (s.hw.ep k).q.drop 7 ∧
      (t.ep k).sent = (s.hw.ep k).sent ++ (s.hw.destClusters c x.dest).map (fun d => ⟨d, true, x.step.toNat % 16, s.hw.dev⟩) ∧
      t.dbufOf c 0 0 = s.hw.dbufOf c 0 0 ++ (treeHdr tEVT 14 (x.step.toNat % 16) ep x.dest c false ::
        (packEvents (s.hw.ep k).q).flatMap fun y => [y.ev.addr, y.ev.low]).map (fun w => ⟨w, false⟩) ∧
      t.reg DRIP_EVT_OUT_CNT c = satAdd32 (s.hw.reg DRIP_EVT_OUT_CNT c) 7 ∧ t.cores = s.hw.cores) ∧
  (∀ (s : State) (c : Cluster) (ep : Fin 36), (s.hw.ep (64 * c.val + ep.val)).q = [] → Ignored (.evtPacketSend c ep) s) ∧
  (∀ (s : State) (c : Cluster) (p : List DFlit), s.hw.powered = true → s.hw.headPkt c 0 = some p → pType (flitW p 0) = tEVT → pktBad p = false →
    (s.hw.cl c).admitRet = none → s.hw.step.phase = .integrate → s.hw.policy = .drop → pStep (flitW p 0) = s.hw.stepNum.toNat % 16 →
    (s.hw.cl c).rspq = [] → (s.hw.dbufOf c 0 1).length ≤ 38 →
    Answers (.dripEvtRx c) s fun t => t.reg DRIP_LATE_DROP_CNT c = satAdd32 (s.hw.reg DRIP_LATE_DROP_CNT c) (pLen (flitW p 0) / 2) ∧
      (t.cl c).lookq = (s.hw.cl c).lookq ∧ Tbl.get [] (t.cl c).dpkts 0 = (Tbl.get [] (s.hw.cl c).dpkts 0).tail ∧
      t.dbufOf c 0 1 = s.hw.dbufOf c 0 1 ++ [⟨uniHdr tWRET 1 s.hw.pkgNum (pScl (flitW p 0)) (pEp (flitW p 0)), false⟩,
        ⟨w32 (c.val * 2 ^ 26 + pStep (flitW p 0) * 2 ^ 22 + 2 ^ 21), false⟩] ∧ t.cores = s.hw.cores) ∧
  (∀ (s : State) (c : Cluster) (p : List DFlit) (k : Nat) (w : Word), s.hw.powered = true → s.hw.headPkt c 1 = some p → pType (flitW p 0) = tWRET →
    pktBad p = false → w = flitW p 1 → bit w 20 = false → bits w 15 0 = 0 → k = 64 * c.val + pDep (flitW p 0) → (s.hw.ep k).txq = [] →
    s.hw.epReady c (pDep (flitW p 0)) = true →
    Answers (.wretRx c) s fun t =>
      (t.ep k).sent = returnPlaces (bits w 31 26) (bit w 21) (bits w 25 22) (bits w 19 16 + 1) (s.hw.ep k).sent ∧
      Tbl.get [] (t.cl c).dpkts 1 = (Tbl.get [] (s.hw.cl c).dpkts 1).tail ∧ t.regs = s.hw.regs ∧ t.cores = s.hw.cores) ∧
  (∀ (s : State) (c : Cluster) (ep : Fin 36) (k : Nat) (o : Outstanding) (l : List Outstanding), s.hw.powered = true → k = 64 * c.val + ep.val →
    (s.hw.ep k).sent = o :: l → (s.hw.ep k).txq = [] → s.hw.waits = [] →
    Answers (.dripWinTimeout c ep) s (· = ((((s.hw.advTo (o.at_ + s.hw.winTmo c)).updEp k fun x => { x with sent := l }).inc DRIP_WIN_TMO_CNT c).raiseQCl
      fDripWinTmo c).dripMoved)) ∧
  (∀ (s : State) (c : Cluster), s.hw.headPkt c 0 = none → Ignored (.dripEvtRx c) s ∧ Ignored (.cfgPacketRx c) s ∧ Ignored (.msgSegmentRx c) s ∧ Ignored (.ctlqOpenRx c) s ∧
    Ignored (.ctlqCloseRx c) s)

/-- Connections open and close, messages are placed and acknowledged, answers complete tickets, and the configuration agent writes. Packets at their
receivers (07 R221-R229): a configuration packet from no management processor is counted and writes nothing, one from a management processor
performs its write; an OPEN of a listening port takes the lowest closed slot and is acknowledged, of no port is refused; a CLOSE of a slot that
holds no message closes it with a new epoch; a one-segment message is placed in the ring and acknowledged, and on a closed slot is refused as
CLOSED; each answer completes its ticket; a relay carries a packet over its link while the peer has room for it, and into the package. -/
def Obligations.MessagesAndConfigurationPackets : Prop :=
  (∀ (s : State) (c : Cluster) (p : List DFlit), s.hw.powered = true → s.hw.headPkt c 0 = some p → pType (flitW p 0) = tCFG → bit (flitW p 1) 1 = false →
    pEp (flitW p 0) ≠ 33 → pRly (flitW p 0) = false →
    Answers (.cfgPacketRx c) s fun t => t.reg CFG_REJ_CNT c = satAdd32 (s.hw.reg CFG_REJ_CNT c) 1 ∧ (∀ r u, (r, u) ≠ (CFG_REJ_CNT, c.val) → t.reg r u = s.hw.reg r u) ∧
      Tbl.get [] (t.cl c).dpkts 0 = (Tbl.get [] (s.hw.cl c).dpkts 0).tail ∧ t.mem = s.hw.mem ∧ t.cores = s.hw.cores) ∧
  (∀ (s : State) (c : Cluster) (p : List DFlit) (w a m v : Word), s.hw.powered = true → s.hw.headPkt c 0 = some p →
    p = [⟨w, false⟩, ⟨a, false⟩, ⟨m, false⟩, ⟨v, false⟩] → pType w = tCFG → bit a 1 = false → pEp w = 33 → bits a 31 30 = 2 →
    Answers (.cfgPacketRx c) s (· = (((s.hw.popPkt c 0).cfgWrite c (setBits (setBits a 29 28 (c / 16)) 27 24 (c % 16)) v).sendWret c (pScl w) 33 false 0))) ∧
  (∀ (s : State) (c : Cluster) (p : List DFlit) (e i pt : Nat) (p0 p1 : Word), s.hw.powered = true → s.hw.headPkt c 0 = some p →
    pType (flitW p 0) = tCTLQ → pktBad p = false → p0 = flitW p 1 → bits p0 11 0 = 0 → p1 = flitW p 2 → bits p1 31 28 = opOPEN → pt = bits p1 7 0 →
    s.hw.epReady c (pDep (flitW p 0)) = true → e = 64 * c.val + pDep (flitW p 0) → (s.hw.port e pt).on = true → (s.hw.port e pt).closing = false →
    (∀ x ∈ (s.hw.ep e).slots, x.2.st ≠ 2) → i < epSlots e → (s.hw.slot e i).st = 0 → (∀ j, j < i → (s.hw.slot e j).st ≠ 0) →
    bits p0 31 28 = s.hw.pkgNum → (s.hw.cl c).rspq = [] → (s.hw.dbufOf c 0 1).length ≤ 35 →
    Answers (.ctlqOpenRx c) s fun t => t.slot e i = { st := 1, epoch := (s.hw.slot e i).epoch, sender := bits p0 31 16, port := pt } ∧
      (∀ j, j ≠ i → t.slot e j = s.hw.slot e j) ∧
      t.dbufOf c 0 1 = s.hw.dbufOf c 0 1 ++ [⟨uniHdr tCTLS 2 (bits p0 31 28) (bits p0 27 22) (bits p0 21 16), false⟩,
        ⟨retAddr s.hw.pkgNum c 0 (bits p0 15 12), false⟩, ⟨ctlWord opOPENACK 0 i (s.hw.slot e i).epoch pt, false⟩,
        ⟨uniHdr tWRET 1 s.hw.pkgNum (bits p0 27 22) (bits p0 21 16), false⟩, ⟨w32 (c.val * 2 ^ 26), false⟩] ∧ t.regs = s.hw.regs) ∧
  (∀ (s : State) (c : Cluster) (p : List DFlit) (e : Nat) (p0 p1 : Word), s.hw.powered = true → s.hw.headPkt c 0 = some p →
    pType (flitW p 0) = tCTLQ → pktBad p = false → p0 = flitW p 1 → bits p0 11 0 = 0 → p1 = flitW p 2 → bits p1 31 28 = opOPEN →
    s.hw.epReady c (pDep (flitW p 0)) = true → e = 64 * c.val + pDep (flitW p 0) → (s.hw.port e (bits p1 7 0)).on = false →
    Answers (.ctlqOpenRx c) s (· = ((s.hw.popPkt c 0).sendCtls c p0 opNAK nNOPORT 0 0 (bits p1 7 0)).wretTo c p0)) ∧
  (∀ (s : State) (c : Cluster) (p : List DFlit) (e i : Nat) (p0 p1 : Word), s.hw.powered = true → s.hw.headPkt c 0 = some p →
    pType (flitW p 0) = tCTLQ → pktBad p = false → p0 = flitW p 1 → bits p0 11 0 = 0 → p1 = flitW p 2 → bits p1 31 28 = opCLOSE → i = bits p1 23 16 →
    s.hw.epReady c (pDep (flitW p 0)) = true → e = 64 * c.val + pDep (flitW p 0) → (s.hw.slot e i).st = 1 → (s.hw.slot e i).epoch = bits p1 15 8 →
    s.hw.slotBusy e i = false →
    Answers (.ctlqCloseRx c) s fun t => t.slot e i = { epoch := (bits p1 15 8 + 1) % 256 } ∧ t.regs = s.hw.regs ∧ t.mem = s.hw.mem) ∧
  (∀ (s : State) (c : Cluster) (p : List DFlit) (e i : Nat) (p0 p1 : Word), s.hw.powered = true → s.hw.headPkt c 0 = some p →
    pType (flitW p 0) = tCTLQ → pktBad p = false → p0 = flitW p 1 → bits p0 11 0 = 0 → p1 = flitW p 2 → bits p1 31 28 = opCLOSE → i = bits p1 23 16 →
    s.hw.epReady c (pDep (flitW p 0)) = true → e = 64 * c.val + pDep (flitW p 0) → ((s.hw.slot e i).st ≠ 1 ∨ (s.hw.slot e i).epoch ≠ bits p1 15 8) →
    Answers (.ctlqCloseRx c) s (· = ((s.hw.popPkt c 0).sendCtls c p0 opCLOSEACK 0 i (bits p1 15 8) (bits p1 7 0)).wretTo c p0)) ∧
  (∀ (s : State) (c : Cluster) (p : List DFlit) (e i n a : Nat) (p0 p1 v : Word) (l : Listener), s.hw.powered = true → s.hw.headPkt c 0 = some p →
    p = [⟨flitW p 0, false⟩, ⟨p0, false⟩, ⟨p1, false⟩, ⟨v, false⟩] → pType (flitW p 0) = tMSG → bits p0 11 0 = 0 → bits p1 13 8 = 0 →
    s.hw.epReady c (pDep (flitW p 0)) = true → e = 64 * c.val + pDep (flitW p 0) → i = bits p1 31 24 → (s.hw.slot e i).st = 1 →
    (s.hw.slot e i).epoch = bits p1 23 16 → bits p1 15 14 = 0 → n = bits p1 7 0 + 1 → n ≤ 4 → s.hw.msgBusy e = false →
    (Tbl.get {} (s.hw.ep e).resv i).used = false → l = s.hw.port e (s.hw.slot e i).port → l.used = 0 → 8 ≤ l.size → a = epMem e + l.base →
    Answers (.msgSegmentRx c) s fun t => (t.ep e).msgq = (s.hw.ep e).msgq ++ [{ conn := i, port := (s.hw.slot e i).port, at_ := 0, len := n }] ∧
      t.word a = w32 (i * 2 ^ 16 + n) ∧ t.word (a + 4) = v ∧ (∀ b, b < a ∨ a + 8 ≤ b → t.byte b = s.hw.byte b) ∧
      t.reg MSG_RX_CNT e = satAdd32 (s.hw.reg MSG_RX_CNT e) 1 ∧ t.cores = s.hw.cores) ∧
  (∀ (s : State) (c : Cluster) (p : List DFlit) (e i : Nat) (p0 p1 : Word), s.hw.powered = true → s.hw.headPkt c 0 = some p →
    pType (flitW p 0) = tMSG → pktBad p = false → p0 = flitW p 1 → bits p0 11 0 = 0 → p1 = flitW p 2 → bits p1 13 8 = 0 →
    s.hw.epReady c (pDep (flitW p 0)) = true → e = 64 * c.val + pDep (flitW p 0) → i = bits p1 31 24 → (s.hw.slot e i).st = 0 →
    bits p1 15 14 = 0 → (Tbl.get {} (s.hw.ep e).resv i).used = false →
    Answers (.msgSegmentRx c) s fun t => t.reg MSG_CLOSED_DROP_CNT e = satAdd32 (s.hw.reg MSG_CLOSED_DROP_CNT e) 1 ∧
      (t.ep e).msgq = (s.hw.ep e).msgq ∧ t.mem = s.hw.mem ∧ t.cores = s.hw.cores) ∧
  (∀ (s : State) (c : Cluster) (p : List DFlit) (e n : Nat) (k : Ticket) (p1 : Word), s.hw.powered = true → s.hw.headPkt c 1 = some p →
    pType (flitW p 0) = tCTLS → pktBad p = false → bits (flitW p 1) 11 0 = 0 → p1 = flitW p 2 → e = 64 * c.val + pDep (flitW p 0) →
    s.hw.epReady c (pDep (flitW p 0)) = true →
    n = bits (flitW p 1) 15 12 → k = s.hw.ticket e n → k.used = true → k.st = 0 →
    (bits p1 31 28 = opOPENACK → k.op = 1 → Answers (.ctlsOpenAckRx c) s (· = ((s.hw.popPkt c 1).setHandle e k.handle
      { s.hw.handle e k.handle with st := 2, conn := bits p1 23 16, epoch := bits p1 15 8 }).setTicket e n { k with st := 1 })) ∧
    (bits p1 31 28 = opCLOSEACK → k.op = 3 → Answers (.ctlsCloseAckRx c) s (· = ((s.hw.popPkt c 1).setHandle e k.handle {}).setTicket e n { k with st := 1 })) ∧
    (bits p1 31 28 = opACK → k.op = 2 → Answers (.ctlsAckRx c) s (· = (s.hw.popPkt c 1).setTicket e n { k with st := 1 })) ∧
    (bits p1 31 28 = opNAK → k.op = 2 → bits p1 27 24 = nCLOSED → Answers (.ctlsNakRx c) s (· = (((s.hw.popPkt c 1).setTicket e n
      { k with st := 2, reason := nCLOSED }).inc NAK_RX_CNT e).setHandle e k.handle { s.hw.handle e k.handle with st := 3 })) ∧
    (bits p1 31 28 = opNAK → k.op = 1 → Answers (.ctlsNakRx c) s (· = (((s.hw.popPkt c 1).setTicket e n
      { k with st := 2, reason := bits p1 27 24 }).inc NAK_RX_CNT e).setHandle e k.handle {}))) ∧
  (∀ (s : State) (c : Cluster), s.hw.headPkt c 1 = none →
    Ignored (.ctlsOpenAckRx c) s ∧ Ignored (.ctlsCloseAckRx c) s ∧ Ignored (.ctlsAckRx c) s ∧ Ignored (.ctlsNakRx c) s ∧ Ignored (.wretRx c) s) ∧
  (∀ (s : State) (k : Link) (p : List DFlit) (l : List (List DFlit)), s.hw.powered = true → (s.hw.link k).outRsp = p :: l →
    s.hw.scOpen k = true → (s.hw.link k).credS ≠ 0 →
    Answers (.relayForward k false) s (· = ((s.hw.updLink k fun x => { x with outRsp := l }).updLink k fun x => { x with credS := x.credS - 1 }).send (.drip k p))) ∧
  (∀ (s : State) (k : Link) (p : List DFlit) (l : List (List DFlit)), s.hw.powered = true → (s.hw.link k).outRsp = p :: l → s.hw.scOpen k = false →
    Effect (.relayForward k false) s (s.hw.updLink k fun x => { x with outRsp := l })
      [((DRIP_UNREACH_CNT, scCluster k), satAdd32 (s.hw.reg DRIP_UNREACH_CNT (scCluster k)) 1)]) ∧
  (∀ (s : State) (k : Link) (p : List DFlit) (l : List (List DFlit)), s.hw.powered = true → (s.hw.link k).outRsp = [] → (s.hw.link k).out = p :: l →
    (pType (flitW p 0) = tMSG ∨ pType (flitW p 0) = tCTLQ) → s.hw.scOpen k = true → (s.hw.link k).credQ ≠ 0 →
    Answers (.relayForward k false) s (· = ((s.hw.updLink k fun x => { x with out := l }).updLink k fun x => { x with credQ := x.credQ - 1 }).send (.drip k p))) ∧
  (∀ (s : State) (k : Link) (p : List DFlit) (l : List (List DFlit)), s.hw.powered = true → (s.hw.link k).innRsp = p :: l →
    Answers (.relayForward k true) s (· = (s.hw.updLink k fun x => { x with innRsp := l, retS := x.retS + 1 }).sendRspFlits (scCluster k) p)) ∧
  (∀ (s : State) (k : Link), (s.hw.link k).outRsp ≠ [] → s.hw.scOpen k = true → (s.hw.link k).credS = 0 → Ignored (.relayForward k false) s) ∧
  (∀ (s : State) (k : Link), ((s.hw.link k).outRsp = [] → (s.hw.link k).out = [] → Ignored (.relayForward k false) s) ∧
    ((s.hw.link k).innRsp = [] → (s.hw.link k).inn = [] → Ignored (.relayForward k true) s))

/-- A roast goes through its segments' passes, weights keep their range, and its end counts and advances the seed. The roast (09 R263-R275): a
queued pre trace is written at its ordinal's entry, or put off by a busy port; a step's change of weight stays within DW_MAX and the new weight
within its format, of the old sign with SIGN_KEEP; a word that is not plastic is left alone; pass 1 leads to the reciprocal stage, that to pass 2
where a sum is over NORM, else to the next valid segment, and a background pass counts the cycles of port B that it lost; the end comes after the
roast's cycles, counts, records them and advances the seed, and the last blocking one ends the roast phase; an overrun marks the boundary to come as
skipped, once. -/
def Obligations.RoastStages : Prop :=
  (∀ (s : State) (c : Cluster) (u : PreUpd) (l : List PreUpd) (p : Nat × Nat), s.hw.powered = true → (s.hw.cl c).preq = u :: l → p = s.hw.preAt c u.ord →
    p.2 < ownedEnd → (s.hw.bank c p.1).pwr = 0 → (s.hw.bank c p.1).waking = false →
    Answers (.preTraceWrite c false) s (· = (s.hw.updCl c fun v => { v with preq := l }).setWord (bankBase c p.1 + p.2)
      (w32 (u.pts % 65536 + u.psub % 256 * 65536)))) ∧
  (∀ (s : State) (c : Cluster), s.hw.powered = true → (s.hw.cl c).preq ≠ [] → ((s.hw.roast c).busy = false ∨ (s.hw.roast c).blocking = true) →
    Answers (.preTraceWrite c true) s (· = s.hw.updCl c fun v => { v with retry := v.retry ++ [.preTrace] })) ∧
  (∀ (s : State) (c : Cluster) (b : Bool), (s.hw.cl c).preq = [] → Ignored (.preTraceWrite c b) s) ∧
  (∀ (p12 keep : Bool) (w D v : Int) (u : Nat), v = newWeight p12 keep w D u →
    (p12 = true → -2048 ≤ v ∧ v ≤ 2047) ∧ (p12 = false → -128 ≤ v ∧ v ≤ 127) ∧ (keep = true → 0 ≤ w → 0 ≤ v) ∧ (keep = true → w < 0 → v ≤ 0)) ∧
  (∀ (f : Factors) (l : List Word) (m : Nat), -((m * 65536 : Nat) : Int) ≤ (deltaOf f l m).1 ∧ (deltaOf f l m).1 ≤ ((m * 65536 : Nat) : Int)) ∧
  (∀ (x : WalkCtx) (fmt : Nat) (k : Walk) (a : Nat) (w : Word), fmt ≠ 2 → bit w 19 = false → walkWord x fmt k a (some w) = k) ∧
  (∀ (s : State) (c : Cluster) (n : BitVec 24) (r : RoastSt), s.hw.powered = true → r = s.hw.roast c → r.busy = true → r.stage = .pass1 →
    s.hw.segWord c r.seg 1 = 0#32 → (s.hw.cl c).preq = [] →
    Answers (.roastPass1Complete ⟨c, n⟩) s fun t =>
      t.roast c = { r with stage := .recip, sums := [], cyc := r.cyc + if r.blocking then 0 else n.toNat } ∧ (∀ d, d ≠ c.val → t.cl d = s.hw.cl d) ∧
      s.hw.Now { s.hw with clusters := t.clusters }
        [((ROAST_PORT_STALL_CNT, c), satAdd32 (s.hw.reg ROAST_PORT_STALL_CNT c) (if r.blocking then 0 else n.toNat))] t) ∧
  (∀ (s : State) (c : Cluster) n, ((s.hw.roast c).busy = false ∨ (s.hw.roast c).stage ≠ .pass1) → Ignored (.roastPass1Complete ⟨c, n⟩) s) ∧
  (∀ (s : State) (c : Cluster) (r : RoastSt) (q : Tbl Nat), s.hw.powered = true → r = s.hw.roast c → r.busy = true → r.stage = .recip →
    q = recipsOf (bits (s.hw.segWord c r.seg 2) 23 0) r.sums → q ≠ [] →
    Answers (.roastReciprocalComplete c) s fun t => t.roast c = { r with recips := q, cyc := r.cyc + 512, stage := .pass2 } ∧
      (∀ d, d ≠ c.val → t.cl d = s.hw.cl d) ∧ s.hw.Now { s.hw with clusters := t.clusters } [] t) ∧
  (∀ (s : State) (c : Cluster) (r : RoastSt) (g : Nat), s.hw.powered = true → r = s.hw.roast c → r.busy = true → r.stage = .recip →
    recipsOf (bits (s.hw.segWord c r.seg 2) 23 0) r.sums = [] → (∀ p ∈ r.plan, p.1 ≠ r.seg) → g = s.hw.nextSeg c (r.seg + 1) →
    Answers (.roastReciprocalComplete c) s fun t =>
      t.roast c = { r with recips := [], cyc := r.cyc + 512, stage := if g < 32 then .pass1 else .idle, seg := g, sums := [] } ∧
      (∀ d, d ≠ c.val → t.cl d = s.hw.cl d) ∧ s.hw.Now { s.hw with clusters := t.clusters } [] t) ∧
  (∀ (s : State) (c : Cluster), ((s.hw.roast c).busy = false ∨ (s.hw.roast c).stage ≠ .recip) → Ignored (.roastReciprocalComplete c) s) ∧
  (∀ (s : State) (c : Cluster) (n : BitVec 24) (r : RoastSt) (g : Nat), s.hw.powered = true → r = s.hw.roast c → r.busy = true → r.stage = .pass2 →
    r.plan = [] → s.hw.segWord c r.seg 1 = 0#32 → (s.hw.cl c).preq = [] → g = s.hw.nextSeg c (r.seg + 1) →
    Answers (.roastPass2Complete ⟨c, n⟩) s fun t =>
      t.roast c = { r with
        stage := if g < 32 then .pass1 else .idle, seg := g, sums := [], recips := [],
        cyc := r.cyc + if r.blocking then 0 else n.toNat } ∧ (∀ d, d ≠ c.val → t.cl d = s.hw.cl d) ∧
      s.hw.Now { s.hw with clusters := t.clusters }
        [((ROAST_PORT_STALL_CNT, c), satAdd32 (s.hw.reg ROAST_PORT_STALL_CNT c) (if r.blocking then 0 else n.toNat)),
          ((ROAST_SCALE_CNT, c), satAdd32 (s.hw.reg ROAST_SCALE_CNT c) r.recips.length)] t) ∧
  (∀ (s : State) (c : Cluster) n, ((s.hw.roast c).busy = false ∨ (s.hw.roast c).stage ≠ .pass2) → Ignored (.roastPass2Complete ⟨c, n⟩) s) ∧
  (∀ (s : State) (c : Cluster) (r : RoastSt), s.hw.powered = true → r = s.hw.roast c → r.busy = true → r.stage = .idle → r.blocking = false →
    r.copying = false → s.hw.waits = [] → s.hw.step.phase ≠ .roast →
    Effect (.roastEnd c) s ((s.hw.advTo (r.at_ + 2 * r.cyc)).updRoast c fun r => { r with busy := false, blocking := false, seg := 0, plan := [], copying := false })
      [((ROAST_CNT, c), satAdd32 (s.hw.reg ROAST_CNT c) 1), ((ROAST_CYC, c), w32 (r.cyc % 2 ^ 24)), ((ROAST_SEED, c), lfsrNext (s.hw.reg ROAST_SEED c))]) ∧
  (∀ (s : State) (c : Cluster) (r : RoastSt), s.hw.powered = true → r = s.hw.roast c → r.busy = true → r.stage = .idle → r.blocking = true →
    r.copying = false → s.hw.waits = [] → s.hw.step.phase = .roast → (∀ b, b < 32 → (s.hw.bank c b).roastFrom = none) → (∀ i, i < 64 → i ≠ c.val → (s.hw.roast i).blocking = false) →
    Effect (.roastEnd c) s (((s.hw.advTo (r.at_ + 2 * r.cyc)).updRoast c fun r =>
        { r with busy := false, blocking := false, seg := 0, plan := [], copying := false }).updStep fun x =>
          { x with phase := .pour, closed := max s.hw.dev (r.at_ + 2 * r.cyc), roastEnd := max s.hw.dev (r.at_ + 2 * r.cyc) })
      [((ROAST_CNT, c), satAdd32 (s.hw.reg ROAST_CNT c) 1), ((ROAST_CYC, c), w32 (r.cyc % 2 ^ 24)), ((ROAST_SEED, c), lfsrNext (s.hw.reg ROAST_SEED c))]) ∧
  (∀ (s : State) (c : Cluster), ((s.hw.roast c).busy = false ∨ (s.hw.roast c).stage ≠ .idle) → Ignored (.roastEnd c) s) ∧
  (∀ (s : State) (c : Cluster) (r : RoastSt), s.hw.powered = true → r = s.hw.roast c → r.late = true → r.skip = false →
    Effect (.roastOverrun c) s ((s.hw.updRoast c fun r => { r with skip := true }).raiseQCl fRoastOverrun c)
      [((ROAST_SKIP_CNT, c), satAdd32 (s.hw.reg ROAST_SKIP_CNT c) 1)]) ∧
  (∀ (s : State) (c : Cluster), ((s.hw.roast c).late = false ∨ (s.hw.roast c).skip = true) →
    Ignored (.roastOverrun c) s)

/-- Packets, words, raw events, merged offers, polls and conversions each have their effect or the count that drops them. Sensor ingress (10
R284-R300): a receiver in ultra-low-power state, or off, takes no packet; a header error, a wrong data type and a CRC failure each drop their
packet, counted; frames begin and end in their buffer, or are dropped while it is FULL; a word of no class is counted, and an ADDRESS word latches;
a raw event is a miss, is limited, or is merged into the open bank; a merged event is offered to its cluster's port; polls start, wait for their bus
and end, and a conversion writes its channel and fires its trigger. -/
def Obligations.SensorIngress : Prop :=
  (∀ (s : State) (k : CsiId), s.hw.powered = true →
    Answers (.csiUlpsEntry k) s (· = s.hw.updCsi k fun x => { x with ulps := true }) ∧
    Answers (.csiUlpsExit k) s (· = s.hw.updCsi k fun x => { x with ulps := false })) ∧
  (∀ (s : State) (k : CsiId) (p : CsiPacket), s.hw.csiOn k = false → Ignored (.csiPacketRx k p) s) ∧
  (∀ (s : State) (k : CsiId) (p : CsiPacket), s.hw.powered = true → s.hw.csiOn k = true → p.hdrErr.val = 2 →
    Effect (.csiPacketRx k p) s (s.hw.updCsi k fun x => { x with hs := true }) [((CSI_HDR_DROP_CNT, k), satAdd32 (s.hw.reg CSI_HDR_DROP_CNT k) 1)]) ∧
  (∀ (s : State) (k : CsiId) (p : CsiPacket), s.hw.powered = true → s.hw.csiOn k = true → p.hdrErr.val = 0 → p.long = true → p.dt ≠ 0x12#6 →
    s.hw.vcMode k p.vc = 1 → p.dt.toNat ≠ s.hw.fld CSI_CTRL k 23 16 →
    Effect (.csiPacketRx k p) s (s.hw.updCsi k fun x => { x with hs := true }) [((CSI_DT_DROP_CNT, k), satAdd32 (s.hw.reg CSI_DT_DROP_CNT k) 1)]) ∧
  (∀ (s : State) (k : CsiId) (p : CsiPacket), s.hw.powered = true → s.hw.csiOn k = true → p.hdrErr.val = 0 → p.long = true → p.dt ≠ 0x12#6 →
    s.hw.vcMode k p.vc = 1 → p.dt.toNat = s.hw.fld CSI_CTRL k 23 16 → p.crcErr = true →
    Effect (.csiPacketRx k p) s (s.hw.updCsi k fun x => { x with hs := true }) [((CSI_CRC_DROP_CNT, k), satAdd32 (s.hw.reg CSI_CRC_DROP_CNT k) 1)]) ∧
  (∀ (s : State) (k : CsiId) (p : CsiPacket) (a b c d : Byte), s.hw.powered = true → s.hw.csiOn k = true → p.hdrErr.val = 0 → p.long = true → p.dt ≠ 0x12#6 →
    s.hw.vcMode k p.vc = 1 → p.dt.toNat = s.hw.fld CSI_CTRL k 23 16 → p.crcErr = false → p.payload = [a, b, c, d] → bits (s.hw.reg DEC_CFG k) 1 0 = 0 →
    (s.hw.csi k).fifo.length < 1024 →
    Answers (.csiPacketRx k p) s fun t => t.csi k = { s.hw.csi k with hs := true, fifo := (s.hw.csi k).fifo ++ [⟨bytesWord a b c d, p.vc, s.hw.dev⟩] } ∧
      t.regs = s.hw.regs ∧ t.mem = s.hw.mem) ∧
  (∀ (s : State) (k : CsiId) (v : Fin 4) (a : Nat), s.hw.powered = true → s.hw.frameVc k v = true → a = (s.hw.csi k).active → a ≤ 1 → s.hw.flag FR_STAT k a = false →
    Effect (.csiFrameStart k v) s (s.hw.updCsi k fun x => { x with hs := true, inFrame := true, dropped := false, bad := false, row := 0 })
      [((if a = 0 then FR_TS0 else FR_TS1, k), w32 s.hw.dev)]) ∧
  (∀ (s : State) (k : CsiId) (v : Fin 4), s.hw.powered = true → s.hw.frameVc k v = true → s.hw.flag FR_STAT k (s.hw.csi k).active = true →
    Effect (.csiFrameStart k v) s (s.hw.updCsi k fun x => { x with hs := true, inFrame := true, dropped := true, bad := false, row := 0 })
      [((FR_DROP_CNT, k), satAdd32 (s.hw.reg FR_DROP_CNT k) 1)]) ∧
  (∀ (s : State) (k : CsiId) (v : Fin 4), s.hw.frameVc k v = false → Ignored (.csiFrameStart k v) s ∧ Ignored (.csiFrameEnd k v) s) ∧
  (∀ (s : State) (k : CsiId) (v : Fin 4), s.hw.powered = true → s.hw.frameVc k v = true → (s.hw.csi k).inFrame = true → (s.hw.csi k).dropped = false →
    (s.hw.csi k).active = 0 →
    Answers (.csiFrameEnd k v) s fun t => t.csi k = { s.hw.csi k with inFrame := false, active := 1 } ∧
      t.reg FR_STAT k = setBits (setBits (setBits (s.hw.reg FR_STAT k) 0 0 1) 2 2 (b2n (s.hw.csi k).bad)) 4 4 1 ∧ t.pulses = (s.hw.fire (8 + k)).pulses ∧
      (∀ r u, (r, u) ≠ (FR_STAT, k.val) → t.reg r u = s.hw.reg r u) ∧ t.mem = s.hw.mem) ∧
  (∀ (s : State) (k : CsiId), (s.hw.csi k).fifo = [] → Ignored (.decoderWord k) s) ∧
  (∀ (s : State) (k : CsiId) (w : CsiWord) (l : List CsiWord), s.hw.powered = true → (s.hw.csi k).fifo = w :: l → s.hw.decClass k w.w = none →
    Effect (.decoderWord k) s (s.hw.updCsi k fun x => { x with fifo := l }) [((DEC_UNK_CNT, k), satAdd32 (s.hw.reg DEC_UNK_CNT k) 1)]) ∧
  (∀ (s : State) (k : CsiId) (w : CsiWord) (l : List CsiWord) (i : Nat), s.hw.powered = true → (s.hw.csi k).fifo = w :: l → s.hw.decClass k w.w = some i →
    s.hw.fld (DEC_KIND i) k 2 0 = 1 →
    Answers (.decoderWord k) s fun t => t.csi k = { s.hw.csi k with fifo := l, y := (decField w.w (s.hw.decDesc k i 1)).getD (s.hw.csi k).y, p := (decField w.w (s.hw.decDesc k i 2)).getD (s.hw.csi k).p, tl := (decField w.w (s.hw.decDesc k i 3)).getD (s.hw.csi k).tl } ∧
      s.hw.Now { s.hw with csis := t.csis } [] t) ∧
  (∀ (s : State) (q : Quad) (a b c : Fin 3), (s.hw.ing q).raw = [] → Ignored (.rawEventIngest q a b c) s) ∧
  (∀ (s : State) (q : Quad) (a b c : Fin 3) (r : RawEv), s.hw.powered = true → (s.hw.ing q).next = some r →
    (s.hw.en (PORT r.port) q 31 = false ∨ s.hw.switching = true ∨ s.hw.fld (PORT_LIM r.port) q 23 0 ≤ r.id) →
    Effect (.rawEventIngest q a b c) s (s.hw.updIng q fun x => { x with raw := x.raw.erase r, turn := r.port }) [((FT_MISS_CNT, q), satAdd32 (s.hw.reg FT_MISS_CNT q) 1)]) ∧
  (∀ (s : State) (q : Quad) (r : RawEv) (e o : Nat) (w : Word), s.hw.powered = true → (s.hw.ing q).next = some r →
    s.hw.en (PORT r.port) q 31 = true → s.hw.switching = false → r.id < s.hw.fld (PORT_LIM r.port) q 23 0 → bits (s.hw.reg (PORT r.port) q) 20 16 = 0 →
    e = bits (s.hw.reg (PORT r.port) q) 15 0 + r.id → e < 65536 → w = s.hw.tab .ft q e → bits w 31 30 = 2 → bit w 15 = false → bit w 28 = false →
    o = bits (s.hw.tab .ft q (e + 65536)) 17 0 → bits (s.hw.tab .ft q (e + 65536 * 2)) 15 0 = 0 → s.hw.step.phase = .idle →
    Tbl.find (s.hw.ing q).store o = none → (s.hw.ing q).touched.length < 16384 → r.pay ≤ 0xFFFF →
    Answers (.rawEventIngest q 0 0 0) s fun t => (t.ing q).raw = (s.hw.ing q).raw.erase r ∧ (t.ing q).touched = (s.hw.ing q).touched ++ [o] ∧
      Tbl.find (t.ing q).store o = some ⟨r.pay, 0, r.flags % 2 + 8 * b2n (bit w 27), portCluster q r.port⟩ ∧
      t.reg ING_RAW_CNT q = satAdd32 (s.hw.reg ING_RAW_CNT q) 1 ∧ t.reg BIN_LATE_CNT = satAdd32 (s.hw.reg BIN_LATE_CNT) 1 ∧
      (t.ing q).offers = (s.hw.ing q).offers ∧ t.clusters = s.hw.clusters) ∧
  (∀ (s : State) (q : Quad) (r : RawEv) (e n : Nat) (w : Word), s.hw.powered = true → (s.hw.ing q).next = some r →
    s.hw.en (PORT r.port) q 31 = true → s.hw.switching = false → r.id < s.hw.fld (PORT_LIM r.port) q 23 0 → bits (s.hw.reg (PORT r.port) q) 20 16 = 0 →
    e = bits (s.hw.reg (PORT r.port) q) 15 0 + r.id → e < 65536 → w = s.hw.tab .ft q e → bits w 31 30 = 2 → bit w 15 = true → n = bits w 25 16 →
    bits (s.hw.lim q n 1) 15 0 = 0 →
    Answers (.rawEventIngest q 0 0 0) s fun t => (t.ing q).raw = (s.hw.ing q).raw.erase r ∧ (t.ing q).touched = (s.hw.ing q).touched ∧
      t.reg LIM_DROP_TOT_CNT q = satAdd32 (s.hw.reg LIM_DROP_TOT_CNT q) 1 ∧ t.lim q n 2 = satAdd32 (s.hw.lim q n 2) 1 ∧
      t.reg ING_RAW_CNT q = s.hw.reg ING_RAW_CNT q ∧ t.clusters = s.hw.clusters) ∧
  (∀ (s : State) (q : Quad) (o : Nat) (m : Merged) (l : List (Nat × Merged)), s.hw.powered = true → (s.hw.ing q).offers = (o, m) :: l →
    s.hw.offerRefused m.cl = false → (s.hw.cl m.cl).port.length < portDepth →
    Effect (.ingressOffer q 0) s ((s.hw.updIng q fun x => { x with offers := l }).portIn m.cl 32
        ⟨w32 (0x30000000 + s.hw.pkgNum * 2 ^ 24 + o % 2 ^ 18), evLow m.sub m.pay m.flg⟩)
      [((ING_OFFER_CNT, q), satAdd32 (s.hw.reg ING_OFFER_CNT q) 1)]) ∧
  (∀ (s : State) (q : Quad) (err : Fin 3), (s.hw.ing q).offers = [] → Ignored (.ingressOffer q err) s) ∧
  (∀ (s : State) (b d : Fin 8), s.hw.powered = true → bit (s.hw.poll b d 0) 31 = true → s.hw.en (BUS_CFG b) 0 31 = true → (s.hw.bus b).running = none →
    Tbl.find (s.hw.bus b).next d = none →
    Answers (.pollStart b d) s (· = (s.hw.updBus b fun x => { x with next := Tbl.put x.next d (s.hw.dev + bits (s.hw.poll b d 0) 15 0 * us) }).pollRun b d)) ∧
  (∀ (s : State) (b d : Fin 8), s.hw.powered = true → bit (s.hw.poll b d 0) 31 = true → s.hw.en (BUS_CFG b) 0 31 = true → (s.hw.bus b).running ≠ none →
    Tbl.find (s.hw.bus b).next d = none → Tbl.find (s.hw.bus b).waits d = none →
    Answers (.pollStart b d) s (· = (s.hw.updBus b fun x => { x with next := Tbl.put x.next d (s.hw.dev + bits (s.hw.poll b d 0) 15 0 * us) }).updBus b
      fun x => { x with waits := Tbl.put x.waits d s.hw.dev })) ∧
  (∀ (s : State) (b d : Fin 8), s.hw.powered = true → (bit (s.hw.poll b d 0) 31 = false ∨ s.hw.en (BUS_CFG b) 0 31 = false) →
    Answers (.pollStart b d) s (· = s.hw.updBus b fun x => { x with waits := Tbl.del x.waits d, next := Tbl.del x.next d })) ∧
  (∀ (s : State) (b : Fin 8) (d : Nat) (l : List Byte), s.hw.powered = true → (s.hw.bus b).running = some d → (s.hw.bus b).waits = [] →
    Effect (.pollComplete b l true) s ((s.hw.updBus b fun x => { x with running := none }).updBus b fun x => { x with waits := [] }) [((POLL_ERR_CNT, 0), satAdd32 (s.hw.reg POLL_ERR_CNT) 1)]) ∧
  (∀ (s : State) (b : Fin 8) (d : Nat) (x y : Byte), s.hw.powered = true → (s.hw.bus b).running = some d → (s.hw.bus b).waits = [] → bits (s.hw.poll b d 0) 30 28 = 2 →
    bits (s.hw.poll b d 2) 11 0 = 16 * 32 → (∀ c, c < 32 → bits (s.hw.lce c 0) 6 0 ≠ 0x10 + 8 * b + d) →
    Answers (.pollComplete b [x, y] false) s fun t => t.poll b d 3 = w32 (x.toNat * 256 + y.toNat) ∧ (t.bus b).running = none ∧ (∀ r u, t.reg r u = s.hw.reg r u) ∧
      t.ings = s.hw.ings) ∧
  (∀ (s : State) (b : Fin 8) (l : List Byte) (err : Bool), (s.hw.bus b).running = none → Ignored (.pollComplete b l err) s) ∧
  (∀ (s : State) (v : BitVec 12) (i c : Nat), s.hw.powered = true → s.hw.adcNext = some i → c = s.hw.fld ADC_SEQ 0 (4 * i + 2) (4 * i) →
    (∀ n, n < 32 → bits (s.hw.lce n 0) 6 0 ≠ c) → s.hw.waits = [] →
    Effect (.adcConversionEnd v) s (({ s.hw.adcTake with adcSlot := (i + 1) % 8 } : Hw).fire (192 + c)) [((ADC_VAL c, 0), w32 v.toNat)]) ∧
  (∀ (s : State) (v : BitVec 12), s.hw.adcNext = none → Ignored (.adcConversionEnd v) s)

/-- A timer's tick counts, matches or wraps, edges are captured, sinks act on their pulse, and a channel moves a granule. Timers, pins, sinks and
channels (11 R311-R330, 12 R340-R343): a gated tick adds 1 to the count, or at TOP wraps it to 0, sets WRAP and fires, in PWM mode after the shadow;
a count that reaches CMP0 sets MATCH0 and fires; captures latch the count, and a pulse shorter than MINW is counted alone; a passed timeout drives
SAFE; each sink takes its pulse when it arrives and does its one act; a channel with bytes left on both sides copies a granule between cores byte
for byte; a transfer that is finished fires its completion and its channel is idle. -/
def Obligations.TimersCrossbarAndDma : Prop :=
  (∀ (s : State) (g : Fin 32) (v : Bool), s.hw.flag GPIO_IN 0 g = v → Ignored (.gpioFilterAccept g v) s) ∧
  (∀ (s : State) (g : Fin 32) (v : Bool), s.hw.powered = true → s.hw.waits = [] → s.hw.flag GPIO_IN 0 g ≠ v →
    (∀ i, i < 16 → s.hw.flag TMR_CTRL i 23 = false ∨ s.hw.capPin i ≠ g.val) →
    Effect (.gpioFilterAccept g v) s (s.hw.pinSeen g v) [((GPIO_IN, 0), setBits (s.hw.reg GPIO_IN) g g (b2n v))]) ∧
  (∀ (s : State) (k : TmrId), (s.hw.tbSel k ≤ 1 ∧ s.hw.tmrTicks k = false ∨ (s.hw.tbSel k = 2 ∨ s.hw.tbSel k = 3) ∧ (s.hw.tmr k).due = 0 ∨
      s.hw.tbSel k = 4 ∧ ∀ p ∈ s.hw.pulses, p.sink ≠ 4 * k.val + 3) →
    Ignored (.tmrGatedTick k) s ∧ Ignored (.tmrWrap k) s ∧ ∀ b, Ignored (.tmrMatch k b) s) ∧
  (∀ (s : State) (k : TmrId) (p : Nat) (x : Hw), s.hw.powered = true → s.hw.TicksIn k x → p = (s.hw.reg TMR_COUNT k).toNat →
    p < (s.hw.reg TMR_TOP k).toNat → (s.hw.reg TMR_CMP0 k).toNat ≠ p + 1 → (s.hw.reg TMR_CMP1 k).toNat ≠ p + 1 →
    Effect (.tmrGatedTick k) s (x.widthTicks k 1) [((TMR_COUNT, k), w32 (p + 1))]) ∧
  (∀ (s : State) (k : TmrId) (p : Nat) (x : Hw) (i : Instr), s.hw.powered = true → s.hw.TicksIn k x → s.hw.Unguarded → p = (s.hw.reg TMR_COUNT k).toNat →
    p < (s.hw.reg TMR_TOP k).toNat → (s.hw.reg TMR_CMP0 k).toNat = p + 1 → (s.hw.reg TMR_CMP1 k).toNat ≠ p + 1 → i ∈ [.tmrGatedTick k, .tmrMatch k false] →
    Effect i s ((x.widthTicks k 1).fire (16 + 5 * k))
      [((TMR_COUNT, k), w32 (p + 1)), ((TMR_STAT, k), setBits (s.hw.reg TMR_STAT k) 0 0 1)]) ∧
  (∀ (s : State) (k : TmrId) (p : Nat) (x : Hw), s.hw.powered = true → s.hw.TicksIn k x → s.hw.Unguarded → p = (s.hw.reg TMR_COUNT k).toNat →
    p < (s.hw.reg TMR_TOP k).toNat → (s.hw.reg TMR_CMP0 k).toNat ≠ p + 1 → (s.hw.reg TMR_CMP1 k).toNat = p + 1 →
    Effect (.tmrMatch k true) s (((x.widthTicks k 1).fire (16 + 5 * k + 1)).updTmr k fun v => { v with pwm := false })
      [((TMR_COUNT, k), w32 (p + 1)), ((TMR_STAT, k), setBits (s.hw.reg TMR_STAT k) 1 1 1)]) ∧
  (∀ (s : State) (k : TmrId) (x : Hw) (i : Instr), s.hw.powered = true → s.hw.TicksIn k x → s.hw.Unguarded → s.hw.pwmMode k = false →
    (k.val = 15 ∨ s.hw.tbSel (k.val + 1) ≠ 3) →
    (s.hw.reg TMR_TOP k).toNat ≤ (s.hw.reg TMR_COUNT k).toNat → s.hw.reg TMR_CMP0 k ≠ 0#32 → s.hw.reg TMR_CMP1 k ≠ 0#32 →
    i ∈ [.tmrGatedTick k, .tmrWrap k] →
    Effect i s ((x.widthTicks k 1).fire (16 + 5 * k + 2))
      [((TMR_COUNT, k), 0#32), ((TMR_STAT, k), setBits (s.hw.reg TMR_STAT k) 2 2 1)]) ∧
  (∀ (s : State) (k : TmrId) (x : Hw), s.hw.powered = true → s.hw.TicksIn k x → s.hw.Unguarded → s.hw.pwmMode k = true →
    (k.val = 15 ∨ s.hw.tbSel (k.val + 1) ≠ 3) →
    (s.hw.reg TMR_TOP k).toNat ≤ (s.hw.reg TMR_COUNT k).toNat → s.hw.reg TMR_CMP0 k ≠ 0#32 → x.shadow k ≠ 0#32 →
    Effect (.tmrWrap k) s (((x.widthTicks k 1).fire (16 + 5 * k + 2)).updTmr k fun v => { v with pwm := true })
      [((TMR_COUNT, k), 0#32), ((TMR_STAT, k), setBits (s.hw.reg TMR_STAT k) 2 2 1), ((TMR_CMP1, k), x.shadow k)]) ∧
  (∀ (s : State) (k : TmrId) (x : Hw), s.hw.powered = true → s.hw.TicksIn k x → k.val < 15 → s.hw.tbSel (k.val + 1) = 3 → s.hw.tmrTicks (k.val + 1) = true →
    (s.hw.reg TMR_TOP k).toNat ≤ (s.hw.reg TMR_COUNT k).toNat →
    Answers (.tmrWrap k) s fun t => (t.tmr (k.val + 1)).due = (s.hw.tmr (k.val + 1)).due + 1 ∧ t.reg TMR_COUNT k = 0#32) ∧
  (∀ (s : State) (k : TmrId), s.hw.flag TMR_CTRL k 23 = false → (∀ b, Ignored (.tmrCaptureRise k b) s) ∧ ∀ n, Ignored (.tmrCaptureFall k n) s) ∧
  (∀ (s : State) (k : TmrId) (g : Nat), s.hw.powered = true → s.hw.Captures k true → g = s.hw.capPin k → s.hw.flag TMR_CAPSTAT k 0 = false →
    Effect (.tmrCaptureRise k false) s (((s.hw.pinSeen g true).fire (16 + 5 * k + 3)).updTmr k fun x => { x with width := some 0 })
      [((GPIO_IN, 0), setBits (s.hw.reg GPIO_IN) g g 1), ((TMR_CAPR, k), s.hw.reg TMR_COUNT k), ((TMR_CAPSTAT, k), setBits (s.hw.reg TMR_CAPSTAT k) 0 0 1)]) ∧
  (∀ (s : State) (k : TmrId) (g : Nat), s.hw.powered = true → s.hw.Captures k true → g = s.hw.capPin k →
    Effect (.tmrCaptureRise k true) s ((((s.hw.pinSeen g true).told (s.hw.reg TMR_CAPR k)).fire (16 + 5 * k + 3)).updTmr k fun x => { x with width := some 0 })
      [((GPIO_IN, 0), setBits (s.hw.reg GPIO_IN) g g 1), ((TMR_CAPR, k), s.hw.reg TMR_COUNT k), ((TMR_CAPSTAT, k), setBits (s.hw.reg TMR_CAPSTAT k) 0 0 1)]) ∧
  (∀ (s : State) (k : TmrId) (g w : Nat), s.hw.powered = true → s.hw.Captures k false → g = s.hw.capPin k → (s.hw.tmr k).width = some w →
    (s.hw.reg TMR_MINW k).toNat ≤ w → s.hw.flag TMR_CAPSTAT k 1 = false →
    Effect (.tmrCaptureFall k 0) s (((s.hw.pinSeen g false).updTmr k fun x => { x with width := none }).fire (16 + 5 * k + 4))
      [((GPIO_IN, 0), setBits (s.hw.reg GPIO_IN) g g 0), ((TMR_CAPF, k), s.hw.reg TMR_COUNT k), ((TMR_WIDTH, k), w32 w),
        ((TMR_CAPSTAT, k), setBits (s.hw.reg TMR_CAPSTAT k) 1 1 1)]) ∧
  (∀ (s : State) (k : TmrId) (g w : Nat), s.hw.powered = true → s.hw.Captures k false → g = s.hw.capPin k → (s.hw.tmr k).width = some w →
    w < (s.hw.reg TMR_MINW k).toNat →
    Effect (.tmrCaptureFall k 0) s ((s.hw.pinSeen g false).updTmr k fun x => { x with width := none })
      [((GPIO_IN, 0), setBits (s.hw.reg GPIO_IN) g g 0), ((SHORT_CNT, k), satAdd32 (s.hw.reg SHORT_CNT k) 1)]) ∧
  (∀ (s : State) (k : TmrId) (n : Nat), s.hw.powered = true → bit (s.hw.actWord k 0) 31 = true → n = bits (s.hw.actWord k 8) 15 0 → n ≠ 0 →
    s.hw.flag ACT_STAT 0 k = false → (s.hw.act k).got = false → s.hw.waits = [] →
    Effect (.actTimeout k) s (((s.hw.advTo ((s.hw.act k).since + n * 10 * us)).updAct k fun v => { v with pend := none }).raisePkg fActTimeout k)
      [((ACT_STAT, 0), setBits (s.hw.reg ACT_STAT) k k 1), ((TMR_CMP1_SH, k), s.hw.actWord k 9), ((ACT_TMO_CNT, 0), satAdd32 (s.hw.reg ACT_TMO_CNT) 1)]) ∧
  (∀ (s : State) (k : TmrId), (bit (s.hw.actWord k 0) 31 = false ∨ bits (s.hw.actWord k 8) 15 0 = 0 ∨ s.hw.flag ACT_STAT 0 k = true ∨ (s.hw.act k).got = true) → Ignored (.actTimeout k) s) ∧
  (∀ (s : State) (k : TmrId) (x : Hw), s.hw.powered = true →
    (s.hw.PulseAt (4 * k) x → ((x.tmr k).stopAt.any fun t => t / 4 == x.dev / 4) = false →
      Effect (.xbTmrStart k) s x [((TMR_CTRL, k), setBits (s.hw.reg TMR_CTRL k) 0 0 1)]) ∧
    (s.hw.PulseAt (4 * k) x → ((x.tmr k).stopAt.any fun t => t / 4 == x.dev / 4) = true → Answers (.xbTmrStart k) s (· = x)) ∧
    (s.hw.PulseAt (4 * k + 1) x →
      Effect (.xbTmrStop k) s (x.updTmr k fun v => { v with stopAt := some x.dev }) [((TMR_CTRL, k), setBits (s.hw.reg TMR_CTRL k) 0 0 0)]) ∧
    (s.hw.PulseAt (4 * k + 2) x → Effect (.xbTmrClear k) s x [((TMR_COUNT, k), 0#32)])) ∧
  (∀ (s : State) (k : TmrId), (∀ p ∈ s.hw.pulses, p.sink ≠ 4 * k.val ∧ p.sink ≠ 4 * k.val + 1 ∧ p.sink ≠ 4 * k.val + 2) →
    Ignored (.xbTmrStart k) s ∧ Ignored (.xbTmrStop k) s ∧ Ignored (.xbTmrClear k) s) ∧
  (∀ (s : State) (j : Fin 32) (x : Hw), s.hw.powered = true → s.hw.PulseAt (0x40 + j) x → s.hw.Unguarded →
    Effect (.xbPulseLatch j) s x [if s.hw.flag PL_STAT 0 j = true then ((PL_OVR_CNT, 0), satAdd32 (s.hw.reg PL_OVR_CNT) 1)
      else ((PL_STAT, 0), setBits (s.hw.reg PL_STAT) j j 1)]) ∧
  (∀ (s : State) (k : CsiId) (x : Hw), s.hw.powered = true → s.hw.PulseAt (0xA0 + k) x → s.hw.flag FR_STAT k 0 = true → s.hw.flag FR_STAT k 1 = false →
    Effect (.xbFrameRel k) s x [((FR_STAT, k), setBits (setBits (s.hw.reg FR_STAT k) 0 0 0) 2 2 0)]) ∧
  (∀ (s : State) (j : Fin 32) (x : Hw), s.hw.powered = true → s.hw.PulseAt (0xA8 + j) x →
    Answers (.xbInject j) s fun t => t.inj j = { count := (s.hw.inj j).count + 1, sub := if (s.hw.inj j).count = 0 then (x.binSub x.dev).1 else (s.hw.inj j).sub } ∧
      s.hw.Now { x with injs := t.injs } [] t) ∧
  (∀ (s : State) (e : Quad) (c : Fin 16) (d : Nat) (x : Hw), s.hw.powered = true → d = 16 * e.val + c.val → s.hw.PulseAt (0x60 + d) x →
    (s.hw.flag (CH_CTRL c) e 1 = false → Answers (.xbDmaTrigger e c) s (· = x)) ∧
    (s.hw.flag (CH_CTRL c) e 1 = true → s.hw.en (CH_CTRL c) e 0 = true → (s.hw.dma d).abortAt ≠ some x.dev →
      ((s.hw.dma d).busy = false → Answers (.xbDmaTrigger e c) s (· = x.updDma d fun _ =>
        { busy := true, src := { ent := shortMpa (s.hw.reg (CH_SRC_LIST c) e) }, dst := { ent := shortMpa (s.hw.reg (CH_DST_LIST c) e) } })) ∧
      ((s.hw.dma d).busy = true → (s.hw.dma d).latched = false →
        Answers (.xbDmaTrigger e c) s (· = x.updDma d fun v => { v with latched := true })) ∧
      ((s.hw.dma d).busy = true → (s.hw.dma d).latched = true →
        Effect (.xbDmaTrigger e c) s x [((DMA_START_OVR_CNT, e), satAdd32 (s.hw.reg DMA_START_OVR_CNT e) 1)]))) ∧
  (∀ (s : State) (e : Quad) (c : Fin 16), ((s.hw.dma (16 * e.val + c.val)).busy = false ∨ (s.hw.dma (16 * e.val + c.val)).fin = true) → Ignored (.dmaGranule e c) s) ∧
  (∀ (s : State) (e : Quad) (c : Fin 16) (d k o m q : Nat) (v : DmaSt), s.hw.powered = true → d = 16 * e.val + c.val → v = s.hw.dma d → s.hw.dmaServes d = true → v.buf = [] →
    s.hw.marks = [] → v.src.left = 32 → v.src.last = false → v.dst.left = 64 → v.src.addr % 32 = 0 → v.dst.addr % 32 = 0 →
    s.hw.mpa v.src.addr = some (.core k o) → s.hw.mpa v.dst.addr = some (.core m q) →
    Answers (.dmaGranule e c) s fun t => (∀ i, i < 32 → t.byte (v.dst.addr + i) = s.hw.byte (v.src.addr + i)) ∧
      (∀ a, a < v.dst.addr ∨ v.dst.addr + 32 ≤ a → t.byte a = s.hw.byte a) ∧
      t.dma d = { v with src := { v.src with addr := v.src.addr + 32, left := 0 }, dst := { v.dst with addr := v.dst.addr + 32, left := 32 }, hold := none } ∧
      t.reg DMA_GRAN_CNT e = satAdd32 (s.hw.reg DMA_GRAN_CNT e) 1 ∧ (∀ r u, (r, u) ≠ (DMA_GRAN_CNT, e.val) → t.reg r u = s.hw.reg r u)) ∧
  (∀ (s : State) (e : Quad) (c : Fin 16) (d : Nat), s.hw.powered = true → d = 16 * e.val + c.val → (s.hw.dma d).fin = true → (s.hw.dma d).latched = false →
    Answers (.dmaComplete e c) s (· = (s.hw.fire (96 + d)).updDma d fun _ => {})) ∧
  (∀ (s : State) (e : Quad) (c : Fin 16), (s.hw.dma (16 * e.val + c.val)).fin = false → Ignored (.dmaComplete e c) s)

/-- A channel performs the requests it accepts, scrubs, refreshes and trains, and links calibrate, train and lose lock. DDR5 and Saune (14
R383-R402): an accepted write merges its enabled bytes into its word and no other, a read answers its word; in self-refresh or beyond the capacity a
request is counted and answers 0; the patrol scrubber goes through the channel and counts its passes; training ends in DONE or FAIL; the first
failing lane of a Saune-D edge is replaced and any further raised; a Saune-C link that trains is UP, and a latency above D_SC is flagged and raised;
a link that loses block lock is DOWN; an idle group carries only credits. -/
def Obligations.DdrChannelsAndSauneLinks : Prop :=
  (∀ (s : State) (q : Quad) (r : DdrReq) (v : Word) (p : Nat), s.hw.powered = true → (s.hw.ddr q).waiting = [] → s.hw.ddrSelf q = false → s.hw.ddrFull q r = false →
    r.addr.toNat < s.hw.ddrEnd q → s.hw.marks = [] → r.wr = some v → p = ddrBase q + r.addr.toNat / 4 * 4 →
    Answers (.ddrRequestAccept q [r]) s fun t => t.word p = mergeBytes (s.hw.word p) v r.be.toNat ∧ t.resp = { value := 0#32 } ∧ t.regs = s.hw.regs ∧
      (∀ a, a < p ∨ p + 4 ≤ a → t.byte a = s.hw.byte a) ∧ (t.ddr q).waiting = []) ∧
  (∀ (s : State) (q : Quad) (r : DdrReq), s.hw.powered = true → (s.hw.ddr q).waiting = [] → s.hw.ddrSelf q = false → s.hw.ddrFull q r = false →
    r.addr.toNat < s.hw.ddrEnd q → s.hw.marks = [] → r.wr = none →
    Answers (.ddrRequestAccept q [r]) s fun t => t.resp = { value := s.hw.word (ddrBase q + r.addr.toNat / 4 * 4) } ∧ t.regs = s.hw.regs ∧
      t.mem = s.hw.mem ∧ (t.ddr q).waiting = []) ∧
  (∀ (s : State) (q : Quad) (r : DdrReq), s.hw.powered = true → (s.hw.ddr q).waiting = [] → s.hw.ddrSelf q = true →
    Answers (.ddrRequestAccept q [r]) s fun t => t.resp = { value := 0#32 } ∧ t.mem = s.hw.mem ∧
      t.reg DDR_RESET_DROP_CNT q = satAdd32 (s.hw.reg DDR_RESET_DROP_CNT q) 1) ∧
  (∀ (s : State) (q : Quad) (r : DdrReq), s.hw.powered = true → (s.hw.ddr q).waiting = [] → s.hw.ddrSelf q = false → s.hw.ddrFull q r = false →
    s.hw.ddrEnd q ≤ r.addr.toNat →
    Answers (.ddrRequestAccept q [r]) s fun t => t.resp = { value := 0#32 } ∧ t.mem = s.hw.mem ∧
      t.reg DDR_ADDR_ERR_CNT q = satAdd32 (s.hw.reg DDR_ADDR_ERR_CNT q) 1) ∧
  (∀ (s : State) (q : Quad) (hot : Bool), s.hw.powered = true → s.hw.ddrSelf q = false →
    Effect (.ddrRefresh q hot) s s.hw [((DDR_STAT, q), setBits (s.hw.reg DDR_STAT q) 2 2 (b2n hot))]) ∧
  (∀ (s : State) (q : Quad) (b : Bool), s.hw.ddrSelf q = true → Ignored (.ddrRefresh q b) s ∧ Ignored (.ddrPatrolScrub q b) s ∧ Ignored (.ddrPeriodicRetrain q) s) ∧
  (∀ (s : State) (q : Quad) (b : Bool) (x : Hw), s.hw.powered = true → s.hw.waits = [] → x = ((s.hw.ddr q).scrubbed.map fun t => s.hw.advTo (t + us * max 1 (s.hw.fld DDR_SCRUB q 31 16))).getD s.hw →
    s.hw.en DDR_SCRUB q 0 = true → s.hw.en DDR_CFG q 0 = true → s.hw.ddrSelf q = false → s.hw.marks = [] →
    (s.hw.ddr q).scrubAt + 64 < s.hw.ddrEnd q →
    Answers (.ddrPatrolScrub q b) s (· = x.updDdr q fun v => { v with scrubAt := v.scrubAt + 64, scrubbed := some x.dev })) ∧
  (∀ (s : State) (q : Quad) (b : Bool) (x : Hw), s.hw.powered = true → s.hw.waits = [] → x = ((s.hw.ddr q).scrubbed.map fun t => s.hw.advTo (t + us * max 1 (s.hw.fld DDR_SCRUB q 31 16))).getD s.hw →
    s.hw.en DDR_SCRUB q 0 = true → s.hw.en DDR_CFG q 0 = true → s.hw.ddrSelf q = false → s.hw.marks = [] →
    (s.hw.ddr q).scrubAt + 64 = s.hw.ddrEnd q →
    Effect (.ddrPatrolScrub q b) s (x.updDdr q fun v => { v with scrubAt := 0, scrubbed := some x.dev }) [((DDR_SCRUB_PASS_CNT, q), satAdd32 (s.hw.reg DDR_SCRUB_PASS_CNT q) 1)]) ∧
  (∀ (s : State) (q : Quad), s.hw.ddrSelf q = true → s.hw.mayExitSelf = true →
    Effect (.ddrSelfRefreshExit q) s ((s.hw.setFlag DDR_STAT q 1 false).pllStart (4 + q)) [((DDR_STAT, q), setBits (s.hw.reg DDR_STAT q) 1 1 0)]) ∧
  (∀ (s : State) (q : Quad), s.hw.ddrSelf q = false → Ignored (.ddrSelfRefreshExit q) s) ∧
  (∀ (s : State) (q : Quad) (ok : Bool), s.hw.powered = true → (s.hw.ddr q).training ≠ 0 → ((s.hw.ddr q).training = 2 ∨ s.hw.pllLocked (4 + q) = true) →
    Effect (.ddrTrainingComplete q ok) s (s.hw.updDdr q fun x => { x with training := 0, trained := some s.hw.dev })
      [((DDR_STAT, q), setBits (setBits (s.hw.reg DDR_STAT q) 0 0 (b2n ok)) 3 3 (b2n (!ok)))]) ∧
  (∀ (s : State) (q : Quad) (ok : Bool), (s.hw.ddr q).training = 0 → Ignored (.ddrTrainingComplete q ok) s) ∧
  (∀ (s : State) (q : Quad) (x : Hw), s.hw.powered = true → s.hw.waits = [] → x = ((s.hw.ddr q).trained.map fun t => s.hw.advTo (t + us * 100000 * s.hw.fld DDR_TRAIN q 15 8)).getD s.hw →
    s.hw.flag DDR_TRAIN q 1 = true → s.hw.flag DDR_STAT q 0 = true → s.hw.ddrSelf q = false →
    (s.hw.ddr q).training = 0 → Answers (.ddrPeriodicRetrain q) s (· = x.updDdr q fun v => { v with training := 2 })) ∧
  (∀ (s : State) (q : Quad), s.hw.powered = true → s.hw.flag SD_STAT q 0 = false → s.hw.flag SD_STAT q 8 = false →
    Effect (.sdCalibration q 0#4 0#4) s s.hw [((SD_STAT, q), setBits (setBits (s.hw.reg SD_STAT q) 7 0 1) 15 8 1)]) ∧
  (∀ (s : State) (q : Quad), s.hw.powered = true → s.hw.flag SD_STAT q 0 = false → s.hw.flag SD_STAT q 8 = false →
    Effect (.sdCalibration q 3#4 4#4) s ((s.hw.raiseQ fSdLane q 0).askReload ((List.range 16).map fun c => 16 * q.val + c)) [((SD_STAT, q), setBits (setBits (s.hw.reg SD_STAT q) 7 0 11) 15 8 3),
      ((SD_CAL_CNT, q), satAdd32 (satAdd32 (s.hw.reg SD_CAL_CNT q) 1) 1)]) ∧
  (∀ (s : State) (k : Link) (ua : Bool), s.hw.powered = true → Effect (.scUaChange k ua) s s.hw [((SC_STAT, k), setBits (s.hw.reg SC_STAT k) 2 2 (b2n ua))]) ∧
  (∀ (s : State) (k peer : Link) (g : Fin 16) (lat : BitVec 9) (rev : Bool) (pol : BitVec 4), s.hw.powered = true → s.hw.scState k = 1 →
    s.hw.pllLocked (12 + k / 2) = true → s.hw.arrayEn = false →
    Effect (.scTrainingComplete k g peer lat rev pol) s
      ((if s.hw.dSc < lat.toNat then s.hw.raiseLink fScLatOver k else s.hw).updLink k fun x => { x with wrong := false, lastTok := none, stepb := [], credQ := 64, credS := 64, retQ := 0, retS := 0, crq := 0, crs := 0 })
      [((SC_STAT, k), setBits (setBits (setBits (setBits (s.hw.reg SC_STAT k) 1 0 2) 4 4 (b2n rev)) 8 5 pol.toNat) 24 16 lat.toNat),
        ((SC_PEER, k), w32 (g.val + peer.val * 16 + 256)), ((SC_RETRAIN_CNT, k), satAdd32 (s.hw.reg SC_RETRAIN_CNT k) 1),
        ((FAB_STAT, 0), setBits (s.hw.reg FAB_STAT) k k (b2n (decide (s.hw.dSc < lat.toNat))))]) ∧
  (∀ (s : State) (k peer : Link) (g : Fin 16) (lat : BitVec 9) (rev : Bool) (pol : BitVec 4), s.hw.scState k ≠ 1 →
    Ignored (.scTrainingComplete k g peer lat rev pol) s) ∧
  (∀ (s : State) (k : Link), s.hw.powered = true → s.hw.scState k = 2 → s.hw.flag SC_CTRL k 1 = true → s.hw.lic 1 = true →
    Effect (.scBlockLockLoss k) s ((((s.hw.setFld SC_STAT k 1 0 1).raiseLink fScLinkDown k).updLink k fun x => { x with innAsm := [], lost := [], stepb := [] }).pllStart (12 + k / 2))
      [((SC_STAT, k), setBits (setBits (s.hw.reg SC_STAT k) 1 0 3) 1 0 1), ((SC_LINK_DOWN_CNT, k), satAdd32 (s.hw.reg SC_LINK_DOWN_CNT k) 1)]) ∧
  (∀ (s : State) (k : Link), s.hw.powered = true → s.hw.scState k = 2 → s.hw.flag SC_CTRL k 1 = false →
    Answers (.scBlockLockLoss k) s fun t => t.reg SC_STAT k = setBits (s.hw.reg SC_STAT k) 1 0 3 ∧
      t.reg SC_LINK_DOWN_CNT k = satAdd32 (s.hw.reg SC_LINK_DOWN_CNT k) 1 ∧ t.reports = (s.hw.raiseLink fScLinkDown k).reports) ∧
  (∀ (s : State) (k : Link), s.hw.scState k ≠ 2 → Ignored (.scBlockLockLoss k) s ∧ ∀ f l, Ignored (.scGroupRx k f l) s) ∧
  (∀ (s : State) (k : Link) (b : ScBlock), s.hw.powered = true → s.hw.scUp k = true → b.sch = none → b.drip = none → b.tok = none → b.stepb = none →
    b.ua = s.hw.flag SC_STAT k 2 →
    Answers (.scGroupRx k 0 (List.replicate 5 b)) s fun t => t.link k = { s.hw.link k with crq := b.crq.toNat, crs := b.crs.toNat, credQ := min 64 ((s.hw.link k).credQ + credits (s.hw.link k).crq b.crq.toNat), credS := min 64 ((s.hw.link k).credS + credits (s.hw.link k).crs b.crs.toNat) } ∧
      s.hw.Now { s.hw with links := t.links } [] t) ∧
  (∀ (s : State) (k : Link) (b : ScBlock), s.hw.powered = true → s.hw.scUp k = true → b.sch = none → b.drip = none →
    Effect (.scGroupRx k 2 (List.replicate 5 b)) s (s.hw.raiseLink fScFecUe k) [((SC_FEC_UE_CNT, k), satAdd32 (s.hw.reg SC_FEC_UE_CNT k) 1)])

/-- Frames are checked, filtered, buffered and dispatched, transmit queues send in order, and the link, gates, clock and keys follow their commands.
Ethernet (13 R349-R362, R374-R375): a frame is counted as an FCS error, of wrong length, filtered out, or accepted into the receive buffer; the
buffer's oldest frame goes by its EtherType and version to firmware, RCP or the REF input, or is dropped; a REF record becomes a raw event; the only
frame queued goes out as the bytes of its header and payload; the link rises in its mode and falls with its queues; a pending gate list becomes
operational; firmware steps the clock; a key message writes, or is refused with KEY_ERR. -/
def Obligations.EthernetPorts : Prop :=
  (∀ (s : State) (q : Quad) (f : EthFrame), (s.hw.linkUp q = false ∨ s.hw.flag MAC_CTRL q 0 = false) → Ignored (.ethFrameRx q f) s) ∧
  (∀ (s : State) (q : Quad) (f : EthFrame), (s.hw.powered = true ∨ s.hw.kept q = true) → s.hw.linkUp q = true → s.hw.flag MAC_CTRL q 0 = true →
    (f.fcsOk = false → Effect (.ethFrameRx q f) s s.hw [((RX_FCS_ERR_CNT, q), satAdd32 (s.hw.reg RX_FCS_ERR_CNT q) 1)]) ∧
    (f.fcsOk = true → (frameLen f < 64 ∨ s.hw.maxFrame q < frameLen f) →
      Effect (.ethFrameRx q f) s s.hw [((RX_LEN_ERR_CNT, q), satAdd32 (s.hw.reg RX_LEN_ERR_CNT q) 1)]) ∧
    (f.fcsOk = true → 64 ≤ frameLen f → frameLen f ≤ s.hw.maxFrame q → f.payload.length ≤ s.hw.plim q → s.hw.en MS_CTRL q 0 = false →
      (s.hw.ethFilter q f = false → Effect (.ethFrameRx q f) s s.hw [((RX_FILTER_DROP_CNT, q), satAdd32 (s.hw.reg RX_FILTER_DROP_CNT q) 1)]) ∧
      (s.hw.ethFilter q f = true → ((s.hw.eth q).rx.map RxFrame.len).sum + frameLen f ≤ 65536 →
        Effect (.ethFrameRx q f) s (s.hw.updEth q fun e => { e with rx := e.rx ++ [({ src := f.src.toNat, etype := f.etype.toNat, payload := f.payload, len := frameLen f, secure := false, dev := s.hw.dev, ptp := s.hw.ptpNs } : RxFrame)] })
          [((RX_FRAME_CNT, q), satAdd32 (s.hw.reg RX_FRAME_CNT q) 1)]) ∧
      (s.hw.ethFilter q f = true → 65536 < ((s.hw.eth q).rx.map RxFrame.len).sum + frameLen f →
        Effect (.ethFrameRx q f) s s.hw [((RX_OVF_DROP_CNT, q), satAdd32 (s.hw.reg RX_OVF_DROP_CNT q) 1)]))) ∧
  (∀ (s : State) (q : Quad), (s.hw.eth q).rx = [] → Ignored (.rxDispatch q) s) ∧
  (∀ (s : State) (q : Quad) (f : RxFrame) (l : List RxFrame) (w : Word), (s.hw.powered = true ∨ s.hw.kept q = true) → (s.hw.eth q).rx = f :: l → w = beWord f.payload 0 →
    (f.etype = etGptp → (s.hw.eth q).fwq.length < 64 →
      Answers (.rxDispatch q) s fun t => t.eth q = { s.hw.eth q with rx := l, fwq := (s.hw.eth q).fwq ++ [f] } ∧ s.hw.Now { s.hw with eths := t.eths } [] t) ∧
    (f.etype ≠ etGptp → f.etype ≠ s.hw.etype q →
      Effect (.rxDispatch q) s (s.hw.updEth q fun e => { e with rx := l }) [((RX_FILTER_DROP_CNT, q), satAdd32 (s.hw.reg RX_FILTER_DROP_CNT q) 1)]) ∧
    (f.etype ≠ etGptp → f.etype = s.hw.etype q → bits w 31 24 = 0x11 → bootKind f.payload = false → s.hw.flag RCP_CFG q 0 = true → s.hw.flag RCP_CFG q 1 = false →
      (s.hw.eth q).reqCount < 16 →
      Answers (.rxDispatch q) s fun t => t.eth q = { s.hw.eth q with rx := l, rcpIn := (s.hw.eth q).rcpIn ++ [f] } ∧ s.hw.Now { s.hw with eths := t.eths } [] t) ∧
    (f.etype ≠ etGptp → f.etype = s.hw.etype q → bits w 31 24 = 0x12 → s.hw.flag REF_CFG q 2 = false →
      refCount f.payload + ((s.hw.eth q).refIn.map Prod.snd).sum ≤ 2048 →
      Answers (.rxDispatch q) s fun t => t.eth q = { s.hw.eth q with rx := l, refIn := (s.hw.eth q).refIn ++ [(f, refCount f.payload)] } ∧
        t.reg REF_IN_DROP_CNT q = satAdd32 (s.hw.reg REF_IN_DROP_CNT q) 0)) ∧
  (∀ (s : State) (q : Quad), (s.hw.eth q).refIn = [] → Ignored (.refInFrameRx q) s) ∧
  (∀ (s : State) (q : Quad) (f : RxFrame) (l : List (RxFrame × Nat)), (s.hw.powered = true ∨ s.hw.kept q = true) → (s.hw.eth q).refIn = (f, 1) :: l →
    (s.hw.eth q).refRxSeq = none → s.hw.flag REF_CFG q 0 = true → s.hw.flag REF_CFG q 3 = true →
    Effect (.refInFrameRx q) s ((s.hw.updEth q fun e => { e with refIn := l, refRxSeq := some (beWord f.payload 1).toNat }).rawIn q
        ({ port := 8, id := (beWord f.payload 5).toNat / 2 ^ 8, pay := (beWord f.payload 5).toNat % 2 ^ 8 * 2 ^ 8 + bits (beWord f.payload 6) 31 24, flags := bits (beWord f.payload 6) 23 23, dt := (f.dev : Int) } : RawEv))
      [((REF_IN_EVT_CNT, q), satAdd32 (s.hw.reg REF_IN_EVT_CNT q) 1)]) ∧
  (∀ (s : State) (q : Quad) (f : RxFrame) (l : List (RxFrame × Nat)) (n : Nat), (s.hw.powered = true ∨ s.hw.kept q = true) → (s.hw.eth q).refIn = (f, 1) :: l →
    (s.hw.eth q).refRxSeq = some n → (beWord f.payload 1).toNat ≠ (n + 1) % 2 ^ 32 → s.hw.flag REF_CFG q 0 = false →
    Effect (.refInFrameRx q) s (s.hw.updEth q fun e => { e with refIn := l, refRxSeq := some (beWord f.payload 1).toNat })
      [((REF_IN_SEQ_GAP_CNT, q), satAdd32 (s.hw.reg REF_IN_SEQ_GAP_CNT q) 1), ((REF_IN_DROP_CNT, q), satAdd32 (s.hw.reg REF_IN_DROP_CNT q) 1)]) ∧
  (∀ (s : State) (q : Quad), (s.hw.linkUp q = false ∨ s.hw.flag MAC_CTRL q 1 = false) → Ignored (.txFrameStart q) s) ∧
  (∀ (s : State) (q : Quad) (n : Fin 8) (f : TxFrame) (l : List TxFrame), (s.hw.powered = true ∨ s.hw.kept q = true) → s.hw.linkUp q = true →
    s.hw.flag MAC_CTRL q 1 = true → s.hw.flag PHY_CTRL q 6 = false → s.hw.qbv q = false → s.hw.txSecure q f = false →
    Tbl.get [] (s.hw.eth q).tq n = f :: l → (∀ i, i < 8 → i ≠ n.val → Tbl.get [] (s.hw.eth q).tq i = []) → (s.hw.eth q).txWait = [] → (s.hw.eth q).refOut = [] →
    Answers (.txFrameStart q) s fun t => t.wire = s.hw.wire ++ [.frame q (s.hw.txBytes q n f)] ∧ Tbl.get [] (t.eth q).tq n = l ∧
      (∀ i, i < 8 → i ≠ n.val → Tbl.get [] (t.eth q).tq i = []) ∧ t.reg TX_FRAME_CNT q = satAdd32 (s.hw.reg TX_FRAME_CNT q) 1 ∧
      t.reg REF_OUT_EVT_CNT q = satAdd32 (s.hw.reg REF_OUT_EVT_CNT q) f.events) ∧
  (∀ (s : State) (q : Quad), (s.hw.eth q).change = none → Ignored (.gclListSwitch q) s) ∧
  (∀ (s : State) (q : Quad) (n : Nat) (g : Gates), (s.hw.powered = true ∨ s.hw.kept q = true) → (s.hw.eth q).change = some (n, g) → s.hw.waits = [] →
    Effect (.gclListSwitch q) s ((s.hw.advToPtp n).updEth q fun e => { e with change := none, gates := g })
      [((GCL_CTRL, q), setBits (setBits (s.hw.reg GCL_CTRL q) 9 9 0) 8 8 (b2n (!s.hw.flag GCL_CTRL q 8)))]) ∧
  (∀ (s : State) (q : Quad) (m : Bool), (s.hw.powered = true ∨ s.hw.kept q = true) → s.hw.linkUp q = false → s.hw.en PHY_CTRL q 0 = true →
    s.hw.flag PAD_EN 0 (8 + q) = true → s.hw.phyMode q = 0 → s.hw.pllLocked (8 + q) = true →
    Effect (.linkUp q m) s s.hw [((ETH_STAT, q), setBits (s.hw.reg ETH_STAT q) 5 0
      (if s.hw.flag PHY_CTRL q 4 = true then 1 + 16 * b2n m + 32 else 1 + 16 * b2n (s.hw.flag PHY_CTRL q 5)))]) ∧
  (∀ (s : State) (q : Quad) (m : Bool), (s.hw.linkUp q = true ∨ s.hw.en PHY_CTRL q 0 = false) → Ignored (.linkUp q m) s) ∧
  (∀ (s : State) (q : Quad), (s.hw.powered = true ∨ s.hw.kept q = true) → s.hw.linkUp q = true →
    Effect (.linkDown q) s ((s.hw.raisePort fEthLink q).updEth q fun e => { e with tq := [], txWait := [] })
      [((ETH_STAT, q), setBits (s.hw.reg ETH_STAT q) 5 0 0), ((LINK_DOWN_CNT, q), satAdd32 (s.hw.reg LINK_DOWN_CNT q) 1),
        ((TX_LINKDOWN_DROP_CNT, q), satAdd32 (s.hw.reg TX_LINKDOWN_DROP_CNT q) ((s.hw.eth q).txWait.length + ((s.hw.eth q).tq.map fun x => x.2.length).sum))]) ∧
  (∀ (s : State) (q : Quad), s.hw.linkUp q = false → Ignored (.linkDown q) s) ∧
  (∀ (s : State) (q : Quad) (a : BitVec 32) (f : RxFrame) (l : List RxFrame), s.hw.powered = true → (s.hw.eth q).fwq = f :: l →
    Answers (.gptpFrame q a none) s (· = { s.hw.updEth q fun e => { e with fwq := l } with ptp := (((s.hw.ptp : Int) + a.toInt * 2 ^ 30) % (2 ^ 94 : Int)).toNat })) ∧
  (∀ (s : State) (q : Quad) (a : BitVec 32) (r : Option (List Byte)), (s.hw.eth q).fwq = [] → Ignored (.gptpFrame q a r) s) ∧
  (∀ (s : State) (q : Quad), (∀ m ∈ (s.hw.ep (64 * mpCluster q + 33)).msgq, m.port ≠ 240) → Ignored (.macsecKeyMessage q) s) ∧
  (∀ (s : State) (q : Quad) (e sc an : Nat) (m : MsgRec), s.hw.powered = true → e = 64 * mpCluster q + 33 →
    ((s.hw.ep e).msgq.find? fun m => m.port == 240) = some m → sc ≤ 4 → an < 4 →
    s.hw.bytes (epMem e + (s.hw.port e m.port).base + m.at_ + 4) m.len = 3#8 :: BitVec.ofNat 8 (sc + 16 * an) :: List.replicate 62 0#8 →
    Answers (.macsecKeyMessage q) s fun t => t.sa q sc an 14 = 0#32 ∧ t.reg MS_KEY_STAT q = w32 (3 + sc * 2 ^ 8 + an * 2 ^ 12 + 2 ^ 16) ∧
      (∀ i, i ≠ saIdx sc an 14 → t.tab .sa q i = s.hw.tab .sa q i)) ∧
  (∀ (s : State) (q : Quad) (e : Nat) (m : MsgRec), s.hw.powered = true → e = 64 * mpCluster q + 33 →
    ((s.hw.ep e).msgq.find? fun m => m.port == 240) = some m → m.len ≠ 64 →
    Answers (.macsecKeyMessage q) s fun t => bits (t.reg MS_KEY_STAT q) 17 16 = 2 ∧ ∀ i, t.tab .sa q i = s.hw.tab .sa q i)

/-- Sessions open and end, requests are taken in order, each operation ends with its status and data, and messages leave and are resent. RCP (13
R365-R372): a SYNC opens the first free session, a FIN ends one and so does idling; a request next in order joins the queue, one out of order or
stale is counted; READ, WRITE, RMW and WAIT make their accesses in order and end with their data or the first refusal's status; OPEN, SEND, CLOSE
and LISTEN act on the gateway's ports and handles, and on what the session does not own end as closed; an operation that is over is answered; 1 ms
without an answer is TIMEOUT; a message leaves within the host's window and is resent after RTO or fails. -/
def Obligations.RegisterControlProtocol : Prop :=
  (∀ (s : State) (q : Quad) (f : RxFrame), (s.hw.powered = true ∨ s.hw.kept q = true) → (s.hw.eth q).rcpIn = [f] → roeneKind f.payload = kSYNC →
    (s.hw.eth q).sessions = [] → (s.hw.eth q).reqs = [] → (s.hw.eth q).owner = [] → (s.hw.eth q).ports = [] →
    Answers (.rcpSyncRx q) s fun t => t.session q 0 = some { id := bits (beWord f.payload 0) 15 0, mac := f.src, x := beWord f.payload 1, tx := Config.freeWord s.hw.fresh, heard := s.hw.dev } ∧
      (t.eth q).rcpIn = [] ∧ t.fresh = s.hw.fresh + 1 ∧ t.cores = s.hw.cores) ∧
  (∀ (s : State) (q : Quad), (s.hw.eth q).rcpIn = [] → Ignored (.rcpSyncRx q) s ∧ Ignored (.rcpFinRx q) s ∧ Ignored (.rcpAckRx q) s ∧ Ignored (.rcpReqRx q) s) ∧
  (∀ (s : State) (q : Quad) (f : RxFrame) (l : List RxFrame) (i : Nat) (v : Session), (s.hw.powered = true ∨ s.hw.kept q = true) → (s.hw.eth q).rcpIn = f :: l →
    s.hw.sessionOf q (bits (beWord f.payload 0) 15 0) f.src = some (i, v) → v.unacked = [] →
    (roeneKind f.payload = kFIN → Answers (.rcpFinRx q) s fun t => t.session q i = none ∧ (∀ j, j ≠ i → t.session q j = s.hw.session q j) ∧
      (t.eth q).rcpIn = l) ∧
    (roeneKind f.payload = kACK → Answers (.rcpAckRx q) s fun t =>
      t.session q i = some { v with heard := s.hw.dev, win := min 16 (bits (beWord f.payload 3) 15 0) } ∧ (t.eth q).rcpIn = l ∧ t.regs = s.hw.regs) ∧
    (roeneKind f.payload = kREQ → 2 ≤ (beWord f.payload 1 - v.x).toInt → (beWord f.payload 1 - v.x).toInt ≤ 16 →
      Answers (.rcpReqRx q) s fun t => t.reg RCP_OOO_DROP_CNT q = satAdd32 (s.hw.reg RCP_OOO_DROP_CNT q) 1 ∧ (t.eth q).reqs = (s.hw.eth q).reqs ∧
        (t.eth q).rcpIn = l) ∧
    (roeneKind f.payload = kREQ → (beWord f.payload 1 - v.x).toInt < -15 →
      Answers (.rcpReqRx q) s fun t => t.reg RCP_STALE_CNT q = satAdd32 (s.hw.reg RCP_STALE_CNT q) 1 ∧ (t.eth q).reqs = (s.hw.eth q).reqs)) ∧
  (∀ (s : State) (q : Quad) (f : RxFrame) (l : List RxFrame) (i n m : Nat) (v : Session) (ws : List Word), (s.hw.powered = true ∨ s.hw.kept q = true) →
    (s.hw.eth q).rcpIn = f :: l → roeneKind f.payload = kREQ → s.hw.sessionOf q (bits (beWord f.payload 0) 15 0) f.src = some (i, v) → v.unacked = [] →
    beWord f.payload 1 = v.x + 1#32 → (s.hw.eth q).reqs = [] → n = bits (beWord f.payload 3) 23 16 →
    ws = (List.range ((f.payload.length - 16) / 4)).map (fun j => beWord f.payload (4 + j)) → respWords ws n = some m → 16 + 4 * m ≤ s.hw.plim q → opWords ws n ≠ [] →
    Answers (.rcpReqRx q) s fun t => (t.eth q).reqs = [{ sess := i, seq := beWord f.payload 1, count := n, ops := opWords ws n }] ∧
      (t.eth q).rcpIn = l ∧ (t.session q i).map Session.x = some (beWord f.payload 1) ∧ t.regs = s.hw.regs) ∧
  (∀ (s : State) (q : Quad) (i : Fin 4) (v : Session), (s.hw.powered = true ∨ s.hw.kept q = true) → s.hw.session q i = some v → s.hw.fld RCP_CFG q 31 24 ≠ 0 →
    Answers (.rcpSessionIdle q i) s fun t => t.session q i = none ∧ ∀ j, j ≠ i.val → t.session q j = s.hw.session q j) ∧
  (∀ (s : State) (q : Quad) (i : Fin 4), (s.hw.session q i = none ∨ s.hw.fld RCP_CFG q 31 24 = 0) → Ignored (.rcpSessionIdle q i) s) ∧
  (∀ (s : State) (q : Quad) (same : BitVec 256) (r : RcpReq) (x : Hw × OpEnd), s.Runs q r oREAD →
    x = s.hw.rcpReads q same (bit (r.ops.headD 0#32) 27) (r.ops.getD 1 0#32) [] (bits (r.ops.headD 0#32) 23 16 + 1) →
    Answers (.rcpRead ⟨q, same⟩) s (· = x.1.opEnded q x.2)) ∧
  (∀ (h g : Hw) (q n : Nat) (same : BitVec 256) (fx : Bool) (a : Word) (l : List Word),
    g = h.mgmtRead (engineOf q) (if fx = true then a else a + w32 (4 * l.length)) (same.getLsbD l.length) →
    h.rcpReads q same fx a l (n + 1) = if g.resp.status = .ok then g.rcpReads q same fx a (l ++ [g.resp.value]) n else (g, { status := statusCode g.resp.status })) ∧
  (∀ (s : State) (q : Quad) (same : List Word) (r : RcpReq) (x : Hw × OpEnd), s.Runs q r oWRITE →
    x = s.hw.rcpWrites q same (bit (r.ops.headD 0#32) 27) (r.ops.getD 1 0#32) 0 ((r.ops.drop 2).take (bits (r.ops.headD 0#32) 23 16 + 1)) →
    Answers (.rcpWrite ⟨q, same⟩) s (· = x.1.opEnded q x.2)) ∧
  (∀ (h g : Hw) (q j : Nat) (same : List Word) (a v : Word) (l : List Word), g = h.mgmtWrite (engineOf q) (a + w32 (4 * j)) v (same.getD j 0#32) →
    h.rcpWrites q same false a j (v :: l) = if g.resp.status = .ok then g.rcpWrites q same false a (j + 1) l else (g, { status := statusCode g.resp.status })) ∧
  (∀ (s : State) (q : Quad) (rs : Bool) (ws : Word) (r : RcpReq) (a m v : Word) (g k : Hw), s.Runs q r oRMW → a = r.ops.getD 1 0#32 → m = r.ops.getD 2 0#32 → v = r.ops.getD 3 0#32 →
    g = s.hw.mgmtRead (engineOf q) a rs → k = g.mgmtWrite (engineOf q) a ((g.resp.value &&& ~~~ m) ||| (v &&& m)) ws →
    (g.resp.status = .ok → k.resp.status = .ok → Answers (.rcpRmw ⟨q, rs, ws⟩) s (· = k.opEnded q { data := [g.resp.value] })) ∧
    (g.resp.status ≠ .ok → Answers (.rcpRmw ⟨q, rs, ws⟩) s (· = g.opEnded q { status := statusCode g.resp.status })) ∧
    (g.resp.status = .ok → k.resp.status ≠ .ok → Answers (.rcpRmw ⟨q, rs, ws⟩) s (· = k.opEnded q { status := statusCode k.resp.status }))) ∧
  (∀ (s : State) (q : Quad) (same : Bool) (r : RcpReq) (g : Hw), s.Runs q r oWAIT → g = s.hw.mgmtRead (engineOf q) (r.ops.getD 1 0#32) same →
    (g.resp.status = .ok → g.resp.value &&& r.ops.getD 2 0#32 = r.ops.getD 3 0#32 → Answers (.rcpWait q ⟨false, same⟩) s (· = g.opEnded q { data := [g.resp.value] })) ∧
    (g.resp.status = .ok → g.resp.value &&& r.ops.getD 2 0#32 ≠ r.ops.getD 3 0#32 → Answers (.rcpWait q ⟨false, same⟩) s (· = g.opSince q 0)) ∧
    (g.resp.status ≠ .ok → Answers (.rcpWait q ⟨false, same⟩) s (· = g.opEnded q { status := statusCode g.resp.status }))) ∧
  (∀ (s : State) (q : Quad) (same : Bool) (r : RcpReq) (g : Hw), s.Runs q r oWAIT →
    g = (s.hw.advTo (r.since.getD s.hw.dev + (r.ops.getD 4 0#32).toNat * us)).mgmtRead (engineOf q) (r.ops.getD 1 0#32) same → g.resp.status = .ok →
    g.resp.value &&& r.ops.getD 2 0#32 ≠ r.ops.getD 3 0#32 → Answers (.rcpWait q ⟨true, same⟩) s (· = g.opEnded q { status := 4, data := [g.resp.value] })) ∧
  (∀ (s : State) (q : Quad) (r : RcpReq) (a : Word) (x : Hw × Word), s.Runs q r oOPEN → r.since = none → a = r.ops.getD 1 0#32 →
    x = s.hw.chanOpen (gateway q) (bits a 19 16) (bits a 13 8) (bits a 5 0) (bits (r.ops.getD 2 0#32) 7 0) → x.2 ≠ noTicket →
    (x.1.ticket (gateway q) x.2.toNat).st = 0 → Answers (.rcpOpen q) s (· = x.1.opSince q x.2.toNat)) ∧
  (∀ (s : State) (q : Quad) (r : RcpReq) (i : Nat), s.Runs q r oSEND → i = (r.ops.getD 1 0#32).toNat →
    (s.hw.ownsHandle q i r.sess = false → Answers (.rcpSend q) s (· = s.hw.opEnded q { status := 6, nak := nCLOSED })) ∧
    (∀ x : Hw × Word, s.hw.ownsHandle q i r.sess = true → r.since = none → x = s.hw.chanSend (gateway q) i (sendBytes r.ops) → x.2 ≠ noTicket →
      (x.1.ticket (gateway q) x.2.toNat).st = 0 → Answers (.rcpSend q) s (· = x.1.opSince q x.2.toNat))) ∧
  (∀ (s : State) (q : Quad) (r : RcpReq) (i : Nat), s.Runs q r oCLOSE → i = (r.ops.getD 1 0#32).toNat →
    (bit (r.ops.getD 2 0#32) 0 = true → s.hw.ownsPort q i r.sess = false → Answers (.rcpClose q) s (· = s.hw.opEnded q {})) ∧
    (bit (r.ops.getD 2 0#32) 0 = false → s.hw.ownsHandle q i r.sess = false → Answers (.rcpClose q) s (· = s.hw.opEnded q {})) ∧
    (∀ x : Hw × Word, bit (r.ops.getD 2 0#32) 0 = false → s.hw.ownsHandle q i r.sess = true → r.since = none → x = s.hw.chanCloseHandle (gateway q) i →
      x.2 ≠ noTicket → (x.1.ticket (gateway q) x.2.toNat).st = 0 → Answers (.rcpClose q) s (· = x.1.opSince q x.2.toNat))) ∧
  (∀ (s : State) (q : Quad) (r : RcpReq) (p c b : Nat), s.Runs q r oLISTEN → r.since = none → p = bits (r.ops.getD 1 0#32) 7 0 → c = bits (r.ops.getD 1 0#32) 10 8 → c < 5 →
    (s.hw.ringPlaceFor q (256 * 2 ^ c) = none → Answers (.rcpListen q) s (· = s.hw.opEnded q { status := 6, nak := nBUSY })) ∧
    (s.hw.ringPlaceFor q (256 * 2 ^ c) = some b → s.hw.port (gateway q) p = {} → ((s.hw.ep (gateway q)).ports.filter fun x => x.2.on).length < 64 →
      (s.hw.freeTicket (gateway q)).isSome = true →
      Answers (.rcpListen q) s fun t => t.port (gateway q) p = { on := true, base := b, size := 256 * 2 ^ c } ∧ Tbl.get 0 (t.eth q).ports p = r.sess + 1)) ∧
  (∀ (h : Hw) (q : Nat) (r : RcpReq) (v : Session) (p : List Byte), (h.eth q).reqs = [r] → opsLeft r = false → h.session q r.sess = some v → v.cache = [] →
    (h.eth q).rcpIn = [] → p = rcpFrame kRSP v.id r.seq v.x r.status (if r.status ≠ 0 then 0 else r.count) 16 (r.resp.flatMap fun w => natBE 4 w.toNat) →
    ((h.rcpPump q 16).eth q).reqs = [] ∧ (h.rcpPump q 16).session q r.sess = some { v with cache := [(r.seq, p)] }) ∧
  (∀ (s : State) (q : Quad) (r : RcpReq) (n o : Nat) (k : Ticket) (g : Hw), s.Runs q r o → o ∈ [oOPEN, oSEND, oCLOSE] → r.since = some n →
    k = s.hw.ticket (gateway q) r.tkt → g = (s.hw.advTo (n + 1000 * us)).loseTicket (gateway q) r.tkt →
    Answers (.rcpChanTimeout q) s (· = (if k.op = 1 ∨ k.op = 3 then (g.setHandle (gateway q) k.handle {}).updEth q fun e =>
      { e with owner := Tbl.set 0 e.owner k.handle 0 } else g).opEnded q { status := 4 })) ∧
  (∀ (s : State) (q : Quad), (∀ r, (s.hw.eth q).reqs.head? = some r → r.since = none) → Ignored (.rcpChanTimeout q) s) ∧
  (∀ (s : State) (m : Quad) (a : Word) (wr : Bool), s.hw.powered = true →
    Answers (.mgmtAccessTimeout (.mp m) a wr) s fun t => t.reg MGMT_TMO_CNT = satAdd32 (s.hw.reg MGMT_TMO_CNT) 1 ∧ t.resp = { status := .timeout } ∧
      t.mem = s.hw.mem ∧ t.cores = s.hw.cores ∧ t.clusters = s.hw.clusters) ∧
  (∀ (s : State) (q : Quad) (i : Fin 4) (v : Session) (ms : List MsgRec) (p : List Byte), (s.hw.powered = true ∨ s.hw.kept q = true) → s.hw.session q i = some v →
    ms = msgFit (s.hw.plim q - 16) ((s.hw.ep (gateway q)).msgq.filter fun m => s.hw.ownsPort q m.port i) → ms ≠ [] → v.unacked.length < v.win →
    p = rcpFrame kMSGIN v.id (v.tx + 1#32) v.x 0 ms.length (s.hw.rcpWin q) (ms.flatMap fun m => s.hw.msgBytes (gateway q) m) →
    Answers (.rcpMsgInSend q i) s fun t => t.session q i = some { v with tx := v.tx + 1#32, unacked := v.unacked ++
        [{ seq := v.tx + 1#32, payload := p, sentAt := s.hw.dev, recs := ms.map fun m => (m.port, m.at_) }] } ∧
      (t.ep (gateway q)).msgq = (s.hw.ep (gateway q)).msgq.filter (fun m => !ms.contains m) ∧ t.mem = s.hw.mem) ∧
  (∀ (s : State) (q : Quad) (i : Fin 4), s.hw.session q i = none → Ignored (.rcpMsgInSend q i) s ∧ Ignored (.rcpRtoExpiry q i) s) ∧
  (∀ (s : State) (q : Quad) (i : Fin 4) (v : Session) (m : MsgIn), s.hw.powered = true → s.hw.session q i = some v → v.unacked = [m] →
    m.resends < s.hw.fld RCP_CFG q 19 16 → s.hw.waits = [] →
    Answers (.rcpRtoExpiry q i) s fun t => t.session q i = some { v with unacked := [{ m with sentAt := t.dev, resends := m.resends + 1 }] } ∧
      t.dev = max s.hw.dev (m.sentAt + max 1 (s.hw.fld RCP_CFG q 15 8) * 1000 * us) ∧ t.reg RCP_RETX_CNT q = satAdd32 (s.hw.reg RCP_RETX_CNT q) 1) ∧
  (∀ (s : State) (q : Quad) (i : Fin 4) (v : Session) (m : MsgIn), s.hw.powered = true → s.hw.session q i = some v → v.unacked = [m] →
    s.hw.fld RCP_CFG q 19 16 ≤ m.resends → s.hw.waits = [] →
    Answers (.rcpRtoExpiry q i) s fun t => t.session q i = none ∧ t.reg RCP_SESS_FAIL_CNT q = satAdd32 (s.hw.reg RCP_SESS_FAIL_CNT q) 1 ∧
      ∃ x, t.reports = s.hw.reports ++ [x] ∧ x.src = srcQ fRcpSession q)
end

