-- ==== Sys2Proof/Laws/State.lean ====
section
/-! SUPPORT. What each elementary update of the block leaves unchanged, field by field. -/

namespace Sys2Proof.Machine

variable (h : Hw)

/-! ### setReg -/

@[simp] theorem setReg_dev (r : Rg) (u : Nat) (v : Word) : (h.setReg r u v).dev = h.dev := rfl
@[simp] theorem setReg_ptp (r : Rg) (u : Nat) (v : Word) : (h.setReg r u v).ptp = h.ptp := rfl
@[simp] theorem setReg_mem (r : Rg) (u : Nat) (v : Word) : (h.setReg r u v).mem = h.mem := rfl
@[simp] theorem setReg_marks (r : Rg) (u : Nat) (v : Word) : (h.setReg r u v).marks = h.marks := rfl
@[simp] theorem setReg_tabs (r : Rg) (u : Nat) (v : Word) : (h.setReg r u v).tabs = h.tabs := rfl
@[simp] theorem setReg_step (r : Rg) (u : Nat) (v : Word) : (h.setReg r u v).step = h.step := rfl
@[simp] theorem setReg_cores (r : Rg) (u : Nat) (v : Word) : (h.setReg r u v).cores = h.cores := rfl
@[simp] theorem setReg_clusters (r : Rg) (u : Nat) (v : Word) : (h.setReg r u v).clusters = h.clusters := rfl
@[simp] theorem setReg_eps (r : Rg) (u : Nat) (v : Word) : (h.setReg r u v).eps = h.eps := rfl
@[simp] theorem setReg_links (r : Rg) (u : Nat) (v : Word) : (h.setReg r u v).links = h.links := rfl
@[simp] theorem setReg_csis (r : Rg) (u : Nat) (v : Word) : (h.setReg r u v).csis = h.csis := rfl
@[simp] theorem setReg_ings (r : Rg) (u : Nat) (v : Word) : (h.setReg r u v).ings = h.ings := rfl
@[simp] theorem setReg_buses (r : Rg) (u : Nat) (v : Word) : (h.setReg r u v).buses = h.buses := rfl
@[simp] theorem setReg_adcSlot (r : Rg) (u : Nat) (v : Word) : (h.setReg r u v).adcSlot = h.adcSlot := rfl
@[simp] theorem setReg_adcAt (r : Rg) (u : Nat) (v : Word) : (h.setReg r u v).adcAt = h.adcAt := rfl
@[simp] theorem setReg_lceLast (r : Rg) (u : Nat) (v : Word) : (h.setReg r u v).lceLast = h.lceLast := rfl
@[simp] theorem setReg_tmrs (r : Rg) (u : Nat) (v : Word) : (h.setReg r u v).tmrs = h.tmrs := rfl
@[simp] theorem setReg_acts (r : Rg) (u : Nat) (v : Word) : (h.setReg r u v).acts = h.acts := rfl
@[simp] theorem setReg_injs (r : Rg) (u : Nat) (v : Word) : (h.setReg r u v).injs = h.injs := rfl
@[simp] theorem setReg_dmas (r : Rg) (u : Nat) (v : Word) : (h.setReg r u v).dmas = h.dmas := rfl
@[simp] theorem setReg_dmaTurn (r : Rg) (u : Nat) (v : Word) : (h.setReg r u v).dmaTurn = h.dmaTurn := rfl
@[simp] theorem setReg_eths (r : Rg) (u : Nat) (v : Word) : (h.setReg r u v).eths = h.eths := rfl
@[simp] theorem setReg_ddrs (r : Rg) (u : Nat) (v : Word) : (h.setReg r u v).ddrs = h.ddrs := rfl
@[simp] theorem setReg_uaHold (r : Rg) (u : Nat) (v : Word) : (h.setReg r u v).uaHold = h.uaHold := rfl
@[simp] theorem setReg_ptpPrev (r : Rg) (u : Nat) (v : Word) : (h.setReg r u v).ptpPrev = h.ptpPrev := rfl
@[simp] theorem setReg_mpHalted (r : Rg) (u : Nat) (v : Word) : (h.setReg r u v).mpHalted = h.mpHalted := rfl
@[simp] theorem setReg_pkg (r : Rg) (u : Nat) (v : Word) : (h.setReg r u v).pkg = h.pkg := rfl
@[simp] theorem setReg_fw (r : Rg) (u : Nat) (v : Word) : (h.setReg r u v).fw = h.fw := rfl
@[simp] theorem setReg_flt (r : Rg) (u : Nat) (v : Word) : (h.setReg r u v).flt = h.flt := rfl
@[simp] theorem setReg_sw (r : Rg) (u : Nat) (v : Word) : (h.setReg r u v).sw = h.sw := rfl
@[simp] theorem setReg_ctxs (r : Rg) (u : Nat) (v : Word) : (h.setReg r u v).ctxs = h.ctxs := rfl
@[simp] theorem setReg_attWait (r : Rg) (u : Nat) (v : Word) : (h.setReg r u v).attWait = h.attWait := rfl
@[simp] theorem setReg_attReport (r : Rg) (u : Nat) (v : Word) : (h.setReg r u v).attReport = h.attReport := rfl
@[simp] theorem setReg_wire (r : Rg) (u : Nat) (v : Word) : (h.setReg r u v).wire = h.wire := rfl
@[simp] theorem setReg_reports (r : Rg) (u : Nat) (v : Word) : (h.setReg r u v).reports = h.reports := rfl
@[simp] theorem setReg_pulses (r : Rg) (u : Nat) (v : Word) : (h.setReg r u v).pulses = h.pulses := rfl
@[simp] theorem setReg_gpioAt (r : Rg) (u : Nat) (v : Word) : (h.setReg r u v).gpioAt = h.gpioAt := rfl
@[simp] theorem setReg_resp (r : Rg) (u : Nat) (v : Word) : (h.setReg r u v).resp = h.resp := rfl
@[simp] theorem setReg_epochs (r : Rg) (u : Nat) (v : Word) : (h.setReg r u v).epochs = h.epochs := rfl
@[simp] theorem setReg_waits (r : Rg) (u : Nat) (v : Word) : (h.setReg r u v).waits = h.waits := rfl
@[simp] theorem setReg_fresh (r : Rg) (u : Nat) (v : Word) : (h.setReg r u v).fresh = h.fresh := rfl

/-! ### setFld -/

@[simp] theorem setFld_dev (r : Rg) (u hi lo v : Nat) : (h.setFld r u hi lo v).dev = h.dev := rfl
@[simp] theorem setFld_ptp (r : Rg) (u hi lo v : Nat) : (h.setFld r u hi lo v).ptp = h.ptp := rfl
@[simp] theorem setFld_mem (r : Rg) (u hi lo v : Nat) : (h.setFld r u hi lo v).mem = h.mem := rfl
@[simp] theorem setFld_marks (r : Rg) (u hi lo v : Nat) : (h.setFld r u hi lo v).marks = h.marks := rfl
@[simp] theorem setFld_tabs (r : Rg) (u hi lo v : Nat) : (h.setFld r u hi lo v).tabs = h.tabs := rfl
@[simp] theorem setFld_step (r : Rg) (u hi lo v : Nat) : (h.setFld r u hi lo v).step = h.step := rfl
@[simp] theorem setFld_cores (r : Rg) (u hi lo v : Nat) : (h.setFld r u hi lo v).cores = h.cores := rfl
@[simp] theorem setFld_clusters (r : Rg) (u hi lo v : Nat) : (h.setFld r u hi lo v).clusters = h.clusters := rfl
@[simp] theorem setFld_eps (r : Rg) (u hi lo v : Nat) : (h.setFld r u hi lo v).eps = h.eps := rfl
@[simp] theorem setFld_links (r : Rg) (u hi lo v : Nat) : (h.setFld r u hi lo v).links = h.links := rfl
@[simp] theorem setFld_csis (r : Rg) (u hi lo v : Nat) : (h.setFld r u hi lo v).csis = h.csis := rfl
@[simp] theorem setFld_ings (r : Rg) (u hi lo v : Nat) : (h.setFld r u hi lo v).ings = h.ings := rfl
@[simp] theorem setFld_buses (r : Rg) (u hi lo v : Nat) : (h.setFld r u hi lo v).buses = h.buses := rfl
@[simp] theorem setFld_adcSlot (r : Rg) (u hi lo v : Nat) : (h.setFld r u hi lo v).adcSlot = h.adcSlot := rfl
@[simp] theorem setFld_adcAt (r : Rg) (u hi lo v : Nat) : (h.setFld r u hi lo v).adcAt = h.adcAt := rfl
@[simp] theorem setFld_lceLast (r : Rg) (u hi lo v : Nat) : (h.setFld r u hi lo v).lceLast = h.lceLast := rfl
@[simp] theorem setFld_tmrs (r : Rg) (u hi lo v : Nat) : (h.setFld r u hi lo v).tmrs = h.tmrs := rfl
@[simp] theorem setFld_acts (r : Rg) (u hi lo v : Nat) : (h.setFld r u hi lo v).acts = h.acts := rfl
@[simp] theorem setFld_injs (r : Rg) (u hi lo v : Nat) : (h.setFld r u hi lo v).injs = h.injs := rfl
@[simp] theorem setFld_dmas (r : Rg) (u hi lo v : Nat) : (h.setFld r u hi lo v).dmas = h.dmas := rfl
@[simp] theorem setFld_dmaTurn (r : Rg) (u hi lo v : Nat) : (h.setFld r u hi lo v).dmaTurn = h.dmaTurn := rfl
@[simp] theorem setFld_eths (r : Rg) (u hi lo v : Nat) : (h.setFld r u hi lo v).eths = h.eths := rfl
@[simp] theorem setFld_ddrs (r : Rg) (u hi lo v : Nat) : (h.setFld r u hi lo v).ddrs = h.ddrs := rfl
@[simp] theorem setFld_uaHold (r : Rg) (u hi lo v : Nat) : (h.setFld r u hi lo v).uaHold = h.uaHold := rfl
@[simp] theorem setFld_ptpPrev (r : Rg) (u hi lo v : Nat) : (h.setFld r u hi lo v).ptpPrev = h.ptpPrev := rfl
@[simp] theorem setFld_mpHalted (r : Rg) (u hi lo v : Nat) : (h.setFld r u hi lo v).mpHalted = h.mpHalted := rfl
@[simp] theorem setFld_pkg (r : Rg) (u hi lo v : Nat) : (h.setFld r u hi lo v).pkg = h.pkg := rfl
@[simp] theorem setFld_fw (r : Rg) (u hi lo v : Nat) : (h.setFld r u hi lo v).fw = h.fw := rfl
@[simp] theorem setFld_flt (r : Rg) (u hi lo v : Nat) : (h.setFld r u hi lo v).flt = h.flt := rfl
@[simp] theorem setFld_sw (r : Rg) (u hi lo v : Nat) : (h.setFld r u hi lo v).sw = h.sw := rfl
@[simp] theorem setFld_ctxs (r : Rg) (u hi lo v : Nat) : (h.setFld r u hi lo v).ctxs = h.ctxs := rfl
@[simp] theorem setFld_attWait (r : Rg) (u hi lo v : Nat) : (h.setFld r u hi lo v).attWait = h.attWait := rfl
@[simp] theorem setFld_attReport (r : Rg) (u hi lo v : Nat) : (h.setFld r u hi lo v).attReport = h.attReport := rfl
@[simp] theorem setFld_wire (r : Rg) (u hi lo v : Nat) : (h.setFld r u hi lo v).wire = h.wire := rfl
@[simp] theorem setFld_reports (r : Rg) (u hi lo v : Nat) : (h.setFld r u hi lo v).reports = h.reports := rfl
@[simp] theorem setFld_pulses (r : Rg) (u hi lo v : Nat) : (h.setFld r u hi lo v).pulses = h.pulses := rfl
@[simp] theorem setFld_gpioAt (r : Rg) (u hi lo v : Nat) : (h.setFld r u hi lo v).gpioAt = h.gpioAt := rfl
@[simp] theorem setFld_resp (r : Rg) (u hi lo v : Nat) : (h.setFld r u hi lo v).resp = h.resp := rfl
@[simp] theorem setFld_epochs (r : Rg) (u hi lo v : Nat) : (h.setFld r u hi lo v).epochs = h.epochs := rfl
@[simp] theorem setFld_waits (r : Rg) (u hi lo v : Nat) : (h.setFld r u hi lo v).waits = h.waits := rfl
@[simp] theorem setFld_fresh (r : Rg) (u hi lo v : Nat) : (h.setFld r u hi lo v).fresh = h.fresh := rfl

/-! ### setFlag -/

@[simp] theorem setFlag_dev (r : Rg) (u i : Nat) (b : Bool) : (h.setFlag r u i b).dev = h.dev := rfl
@[simp] theorem setFlag_ptp (r : Rg) (u i : Nat) (b : Bool) : (h.setFlag r u i b).ptp = h.ptp := rfl
@[simp] theorem setFlag_mem (r : Rg) (u i : Nat) (b : Bool) : (h.setFlag r u i b).mem = h.mem := rfl
@[simp] theorem setFlag_marks (r : Rg) (u i : Nat) (b : Bool) : (h.setFlag r u i b).marks = h.marks := rfl
@[simp] theorem setFlag_tabs (r : Rg) (u i : Nat) (b : Bool) : (h.setFlag r u i b).tabs = h.tabs := rfl
@[simp] theorem setFlag_step (r : Rg) (u i : Nat) (b : Bool) : (h.setFlag r u i b).step = h.step := rfl
@[simp] theorem setFlag_cores (r : Rg) (u i : Nat) (b : Bool) : (h.setFlag r u i b).cores = h.cores := rfl
@[simp] theorem setFlag_clusters (r : Rg) (u i : Nat) (b : Bool) : (h.setFlag r u i b).clusters = h.clusters := rfl
@[simp] theorem setFlag_eps (r : Rg) (u i : Nat) (b : Bool) : (h.setFlag r u i b).eps = h.eps := rfl
@[simp] theorem setFlag_links (r : Rg) (u i : Nat) (b : Bool) : (h.setFlag r u i b).links = h.links := rfl
@[simp] theorem setFlag_csis (r : Rg) (u i : Nat) (b : Bool) : (h.setFlag r u i b).csis = h.csis := rfl
@[simp] theorem setFlag_ings (r : Rg) (u i : Nat) (b : Bool) : (h.setFlag r u i b).ings = h.ings := rfl
@[simp] theorem setFlag_buses (r : Rg) (u i : Nat) (b : Bool) : (h.setFlag r u i b).buses = h.buses := rfl
@[simp] theorem setFlag_adcSlot (r : Rg) (u i : Nat) (b : Bool) : (h.setFlag r u i b).adcSlot = h.adcSlot := rfl
@[simp] theorem setFlag_adcAt (r : Rg) (u i : Nat) (b : Bool) : (h.setFlag r u i b).adcAt = h.adcAt := rfl
@[simp] theorem setFlag_lceLast (r : Rg) (u i : Nat) (b : Bool) : (h.setFlag r u i b).lceLast = h.lceLast := rfl
@[simp] theorem setFlag_tmrs (r : Rg) (u i : Nat) (b : Bool) : (h.setFlag r u i b).tmrs = h.tmrs := rfl
@[simp] theorem setFlag_acts (r : Rg) (u i : Nat) (b : Bool) : (h.setFlag r u i b).acts = h.acts := rfl
@[simp] theorem setFlag_injs (r : Rg) (u i : Nat) (b : Bool) : (h.setFlag r u i b).injs = h.injs := rfl
@[simp] theorem setFlag_dmas (r : Rg) (u i : Nat) (b : Bool) : (h.setFlag r u i b).dmas = h.dmas := rfl
@[simp] theorem setFlag_dmaTurn (r : Rg) (u i : Nat) (b : Bool) : (h.setFlag r u i b).dmaTurn = h.dmaTurn := rfl
@[simp] theorem setFlag_eths (r : Rg) (u i : Nat) (b : Bool) : (h.setFlag r u i b).eths = h.eths := rfl
@[simp] theorem setFlag_ddrs (r : Rg) (u i : Nat) (b : Bool) : (h.setFlag r u i b).ddrs = h.ddrs := rfl
@[simp] theorem setFlag_uaHold (r : Rg) (u i : Nat) (b : Bool) : (h.setFlag r u i b).uaHold = h.uaHold := rfl
@[simp] theorem setFlag_ptpPrev (r : Rg) (u i : Nat) (b : Bool) : (h.setFlag r u i b).ptpPrev = h.ptpPrev := rfl
@[simp] theorem setFlag_mpHalted (r : Rg) (u i : Nat) (b : Bool) : (h.setFlag r u i b).mpHalted = h.mpHalted := rfl
@[simp] theorem setFlag_pkg (r : Rg) (u i : Nat) (b : Bool) : (h.setFlag r u i b).pkg = h.pkg := rfl
@[simp] theorem setFlag_fw (r : Rg) (u i : Nat) (b : Bool) : (h.setFlag r u i b).fw = h.fw := rfl
@[simp] theorem setFlag_flt (r : Rg) (u i : Nat) (b : Bool) : (h.setFlag r u i b).flt = h.flt := rfl
@[simp] theorem setFlag_sw (r : Rg) (u i : Nat) (b : Bool) : (h.setFlag r u i b).sw = h.sw := rfl
@[simp] theorem setFlag_ctxs (r : Rg) (u i : Nat) (b : Bool) : (h.setFlag r u i b).ctxs = h.ctxs := rfl
@[simp] theorem setFlag_attWait (r : Rg) (u i : Nat) (b : Bool) : (h.setFlag r u i b).attWait = h.attWait := rfl
@[simp] theorem setFlag_attReport (r : Rg) (u i : Nat) (b : Bool) : (h.setFlag r u i b).attReport = h.attReport := rfl
@[simp] theorem setFlag_wire (r : Rg) (u i : Nat) (b : Bool) : (h.setFlag r u i b).wire = h.wire := rfl
@[simp] theorem setFlag_reports (r : Rg) (u i : Nat) (b : Bool) : (h.setFlag r u i b).reports = h.reports := rfl
@[simp] theorem setFlag_pulses (r : Rg) (u i : Nat) (b : Bool) : (h.setFlag r u i b).pulses = h.pulses := rfl
@[simp] theorem setFlag_gpioAt (r : Rg) (u i : Nat) (b : Bool) : (h.setFlag r u i b).gpioAt = h.gpioAt := rfl
@[simp] theorem setFlag_resp (r : Rg) (u i : Nat) (b : Bool) : (h.setFlag r u i b).resp = h.resp := rfl
@[simp] theorem setFlag_epochs (r : Rg) (u i : Nat) (b : Bool) : (h.setFlag r u i b).epochs = h.epochs := rfl
@[simp] theorem setFlag_waits (r : Rg) (u i : Nat) (b : Bool) : (h.setFlag r u i b).waits = h.waits := rfl
@[simp] theorem setFlag_fresh (r : Rg) (u i : Nat) (b : Bool) : (h.setFlag r u i b).fresh = h.fresh := rfl

/-! ### inc -/

@[simp] theorem inc_dev (r : Rg) (u n : Nat) : (h.inc r u n).dev = h.dev := rfl
@[simp] theorem inc_ptp (r : Rg) (u n : Nat) : (h.inc r u n).ptp = h.ptp := rfl
@[simp] theorem inc_mem (r : Rg) (u n : Nat) : (h.inc r u n).mem = h.mem := rfl
@[simp] theorem inc_marks (r : Rg) (u n : Nat) : (h.inc r u n).marks = h.marks := rfl
@[simp] theorem inc_tabs (r : Rg) (u n : Nat) : (h.inc r u n).tabs = h.tabs := rfl
@[simp] theorem inc_step (r : Rg) (u n : Nat) : (h.inc r u n).step = h.step := rfl
@[simp] theorem inc_cores (r : Rg) (u n : Nat) : (h.inc r u n).cores = h.cores := rfl
@[simp] theorem inc_clusters (r : Rg) (u n : Nat) : (h.inc r u n).clusters = h.clusters := rfl
@[simp] theorem inc_eps (r : Rg) (u n : Nat) : (h.inc r u n).eps = h.eps := rfl
@[simp] theorem inc_links (r : Rg) (u n : Nat) : (h.inc r u n).links = h.links := rfl
@[simp] theorem inc_csis (r : Rg) (u n : Nat) : (h.inc r u n).csis = h.csis := rfl
@[simp] theorem inc_ings (r : Rg) (u n : Nat) : (h.inc r u n).ings = h.ings := rfl
@[simp] theorem inc_buses (r : Rg) (u n : Nat) : (h.inc r u n).buses = h.buses := rfl
@[simp] theorem inc_adcSlot (r : Rg) (u n : Nat) : (h.inc r u n).adcSlot = h.adcSlot := rfl
@[simp] theorem inc_adcAt (r : Rg) (u n : Nat) : (h.inc r u n).adcAt = h.adcAt := rfl
@[simp] theorem inc_lceLast (r : Rg) (u n : Nat) : (h.inc r u n).lceLast = h.lceLast := rfl
@[simp] theorem inc_tmrs (r : Rg) (u n : Nat) : (h.inc r u n).tmrs = h.tmrs := rfl
@[simp] theorem inc_acts (r : Rg) (u n : Nat) : (h.inc r u n).acts = h.acts := rfl
@[simp] theorem inc_injs (r : Rg) (u n : Nat) : (h.inc r u n).injs = h.injs := rfl
@[simp] theorem inc_dmas (r : Rg) (u n : Nat) : (h.inc r u n).dmas = h.dmas := rfl
@[simp] theorem inc_dmaTurn (r : Rg) (u n : Nat) : (h.inc r u n).dmaTurn = h.dmaTurn := rfl
@[simp] theorem inc_eths (r : Rg) (u n : Nat) : (h.inc r u n).eths = h.eths := rfl
@[simp] theorem inc_ddrs (r : Rg) (u n : Nat) : (h.inc r u n).ddrs = h.ddrs := rfl
@[simp] theorem inc_uaHold (r : Rg) (u n : Nat) : (h.inc r u n).uaHold = h.uaHold := rfl
@[simp] theorem inc_ptpPrev (r : Rg) (u n : Nat) : (h.inc r u n).ptpPrev = h.ptpPrev := rfl
@[simp] theorem inc_mpHalted (r : Rg) (u n : Nat) : (h.inc r u n).mpHalted = h.mpHalted := rfl
@[simp] theorem inc_pkg (r : Rg) (u n : Nat) : (h.inc r u n).pkg = h.pkg := rfl
@[simp] theorem inc_fw (r : Rg) (u n : Nat) : (h.inc r u n).fw = h.fw := rfl
@[simp] theorem inc_flt (r : Rg) (u n : Nat) : (h.inc r u n).flt = h.flt := rfl
@[simp] theorem inc_sw (r : Rg) (u n : Nat) : (h.inc r u n).sw = h.sw := rfl
@[simp] theorem inc_ctxs (r : Rg) (u n : Nat) : (h.inc r u n).ctxs = h.ctxs := rfl
@[simp] theorem inc_attWait (r : Rg) (u n : Nat) : (h.inc r u n).attWait = h.attWait := rfl
@[simp] theorem inc_attReport (r : Rg) (u n : Nat) : (h.inc r u n).attReport = h.attReport := rfl
@[simp] theorem inc_wire (r : Rg) (u n : Nat) : (h.inc r u n).wire = h.wire := rfl
@[simp] theorem inc_reports (r : Rg) (u n : Nat) : (h.inc r u n).reports = h.reports := rfl
@[simp] theorem inc_pulses (r : Rg) (u n : Nat) : (h.inc r u n).pulses = h.pulses := rfl
@[simp] theorem inc_gpioAt (r : Rg) (u n : Nat) : (h.inc r u n).gpioAt = h.gpioAt := rfl
@[simp] theorem inc_resp (r : Rg) (u n : Nat) : (h.inc r u n).resp = h.resp := rfl
@[simp] theorem inc_epochs (r : Rg) (u n : Nat) : (h.inc r u n).epochs = h.epochs := rfl
@[simp] theorem inc_waits (r : Rg) (u n : Nat) : (h.inc r u n).waits = h.waits := rfl
@[simp] theorem inc_fresh (r : Rg) (u n : Nat) : (h.inc r u n).fresh = h.fresh := rfl

/-! ### setTab -/

@[simp] theorem setTab_dev (t : Tab) (u i : Nat) (v : Word) : (h.setTab t u i v).dev = h.dev := rfl
@[simp] theorem setTab_ptp (t : Tab) (u i : Nat) (v : Word) : (h.setTab t u i v).ptp = h.ptp := rfl
@[simp] theorem setTab_mem (t : Tab) (u i : Nat) (v : Word) : (h.setTab t u i v).mem = h.mem := rfl
@[simp] theorem setTab_marks (t : Tab) (u i : Nat) (v : Word) : (h.setTab t u i v).marks = h.marks := rfl
@[simp] theorem setTab_regs (t : Tab) (u i : Nat) (v : Word) : (h.setTab t u i v).regs = h.regs := rfl
@[simp] theorem setTab_step (t : Tab) (u i : Nat) (v : Word) : (h.setTab t u i v).step = h.step := rfl
@[simp] theorem setTab_cores (t : Tab) (u i : Nat) (v : Word) : (h.setTab t u i v).cores = h.cores := rfl
@[simp] theorem setTab_clusters (t : Tab) (u i : Nat) (v : Word) : (h.setTab t u i v).clusters = h.clusters := rfl
@[simp] theorem setTab_eps (t : Tab) (u i : Nat) (v : Word) : (h.setTab t u i v).eps = h.eps := rfl
@[simp] theorem setTab_links (t : Tab) (u i : Nat) (v : Word) : (h.setTab t u i v).links = h.links := rfl
@[simp] theorem setTab_csis (t : Tab) (u i : Nat) (v : Word) : (h.setTab t u i v).csis = h.csis := rfl
@[simp] theorem setTab_ings (t : Tab) (u i : Nat) (v : Word) : (h.setTab t u i v).ings = h.ings := rfl
@[simp] theorem setTab_buses (t : Tab) (u i : Nat) (v : Word) : (h.setTab t u i v).buses = h.buses := rfl
@[simp] theorem setTab_adcSlot (t : Tab) (u i : Nat) (v : Word) : (h.setTab t u i v).adcSlot = h.adcSlot := rfl
@[simp] theorem setTab_adcAt (t : Tab) (u i : Nat) (v : Word) : (h.setTab t u i v).adcAt = h.adcAt := rfl
@[simp] theorem setTab_lceLast (t : Tab) (u i : Nat) (v : Word) : (h.setTab t u i v).lceLast = h.lceLast := rfl
@[simp] theorem setTab_tmrs (t : Tab) (u i : Nat) (v : Word) : (h.setTab t u i v).tmrs = h.tmrs := rfl
@[simp] theorem setTab_acts (t : Tab) (u i : Nat) (v : Word) : (h.setTab t u i v).acts = h.acts := rfl
@[simp] theorem setTab_injs (t : Tab) (u i : Nat) (v : Word) : (h.setTab t u i v).injs = h.injs := rfl
@[simp] theorem setTab_dmas (t : Tab) (u i : Nat) (v : Word) : (h.setTab t u i v).dmas = h.dmas := rfl
@[simp] theorem setTab_dmaTurn (t : Tab) (u i : Nat) (v : Word) : (h.setTab t u i v).dmaTurn = h.dmaTurn := rfl
@[simp] theorem setTab_eths (t : Tab) (u i : Nat) (v : Word) : (h.setTab t u i v).eths = h.eths := rfl
@[simp] theorem setTab_ddrs (t : Tab) (u i : Nat) (v : Word) : (h.setTab t u i v).ddrs = h.ddrs := rfl
@[simp] theorem setTab_uaHold (t : Tab) (u i : Nat) (v : Word) : (h.setTab t u i v).uaHold = h.uaHold := rfl
@[simp] theorem setTab_ptpPrev (t : Tab) (u i : Nat) (v : Word) : (h.setTab t u i v).ptpPrev = h.ptpPrev := rfl
@[simp] theorem setTab_mpHalted (t : Tab) (u i : Nat) (v : Word) : (h.setTab t u i v).mpHalted = h.mpHalted := rfl
@[simp] theorem setTab_pkg (t : Tab) (u i : Nat) (v : Word) : (h.setTab t u i v).pkg = h.pkg := rfl
@[simp] theorem setTab_fw (t : Tab) (u i : Nat) (v : Word) : (h.setTab t u i v).fw = h.fw := rfl
@[simp] theorem setTab_flt (t : Tab) (u i : Nat) (v : Word) : (h.setTab t u i v).flt = h.flt := rfl
@[simp] theorem setTab_sw (t : Tab) (u i : Nat) (v : Word) : (h.setTab t u i v).sw = h.sw := rfl
@[simp] theorem setTab_ctxs (t : Tab) (u i : Nat) (v : Word) : (h.setTab t u i v).ctxs = h.ctxs := rfl
@[simp] theorem setTab_attWait (t : Tab) (u i : Nat) (v : Word) : (h.setTab t u i v).attWait = h.attWait := rfl
@[simp] theorem setTab_attReport (t : Tab) (u i : Nat) (v : Word) : (h.setTab t u i v).attReport = h.attReport := rfl
@[simp] theorem setTab_wire (t : Tab) (u i : Nat) (v : Word) : (h.setTab t u i v).wire = h.wire := rfl
@[simp] theorem setTab_reports (t : Tab) (u i : Nat) (v : Word) : (h.setTab t u i v).reports = h.reports := rfl
@[simp] theorem setTab_pulses (t : Tab) (u i : Nat) (v : Word) : (h.setTab t u i v).pulses = h.pulses := rfl
@[simp] theorem setTab_gpioAt (t : Tab) (u i : Nat) (v : Word) : (h.setTab t u i v).gpioAt = h.gpioAt := rfl
@[simp] theorem setTab_resp (t : Tab) (u i : Nat) (v : Word) : (h.setTab t u i v).resp = h.resp := rfl
@[simp] theorem setTab_epochs (t : Tab) (u i : Nat) (v : Word) : (h.setTab t u i v).epochs = h.epochs := rfl
@[simp] theorem setTab_waits (t : Tab) (u i : Nat) (v : Word) : (h.setTab t u i v).waits = h.waits := rfl
@[simp] theorem setTab_fresh (t : Tab) (u i : Nat) (v : Word) : (h.setTab t u i v).fresh = h.fresh := rfl

/-! ### setCore -/

@[simp] theorem setCore_dev (k : Nat) (c : CoreSt) : (h.setCore k c).dev = h.dev := rfl
@[simp] theorem setCore_ptp (k : Nat) (c : CoreSt) : (h.setCore k c).ptp = h.ptp := rfl
@[simp] theorem setCore_mem (k : Nat) (c : CoreSt) : (h.setCore k c).mem = h.mem := rfl
@[simp] theorem setCore_marks (k : Nat) (c : CoreSt) : (h.setCore k c).marks = h.marks := rfl
@[simp] theorem setCore_regs (k : Nat) (c : CoreSt) : (h.setCore k c).regs = h.regs := rfl
@[simp] theorem setCore_tabs (k : Nat) (c : CoreSt) : (h.setCore k c).tabs = h.tabs := rfl
@[simp] theorem setCore_step (k : Nat) (c : CoreSt) : (h.setCore k c).step = h.step := rfl
@[simp] theorem setCore_clusters (k : Nat) (c : CoreSt) : (h.setCore k c).clusters = h.clusters := rfl
@[simp] theorem setCore_eps (k : Nat) (c : CoreSt) : (h.setCore k c).eps = h.eps := rfl
@[simp] theorem setCore_links (k : Nat) (c : CoreSt) : (h.setCore k c).links = h.links := rfl
@[simp] theorem setCore_csis (k : Nat) (c : CoreSt) : (h.setCore k c).csis = h.csis := rfl
@[simp] theorem setCore_ings (k : Nat) (c : CoreSt) : (h.setCore k c).ings = h.ings := rfl
@[simp] theorem setCore_buses (k : Nat) (c : CoreSt) : (h.setCore k c).buses = h.buses := rfl
@[simp] theorem setCore_adcSlot (k : Nat) (c : CoreSt) : (h.setCore k c).adcSlot = h.adcSlot := rfl
@[simp] theorem setCore_adcAt (k : Nat) (c : CoreSt) : (h.setCore k c).adcAt = h.adcAt := rfl
@[simp] theorem setCore_lceLast (k : Nat) (c : CoreSt) : (h.setCore k c).lceLast = h.lceLast := rfl
@[simp] theorem setCore_tmrs (k : Nat) (c : CoreSt) : (h.setCore k c).tmrs = h.tmrs := rfl
@[simp] theorem setCore_acts (k : Nat) (c : CoreSt) : (h.setCore k c).acts = h.acts := rfl
@[simp] theorem setCore_injs (k : Nat) (c : CoreSt) : (h.setCore k c).injs = h.injs := rfl
@[simp] theorem setCore_dmas (k : Nat) (c : CoreSt) : (h.setCore k c).dmas = h.dmas := rfl
@[simp] theorem setCore_dmaTurn (k : Nat) (c : CoreSt) : (h.setCore k c).dmaTurn = h.dmaTurn := rfl
@[simp] theorem setCore_eths (k : Nat) (c : CoreSt) : (h.setCore k c).eths = h.eths := rfl
@[simp] theorem setCore_ddrs (k : Nat) (c : CoreSt) : (h.setCore k c).ddrs = h.ddrs := rfl
@[simp] theorem setCore_uaHold (k : Nat) (c : CoreSt) : (h.setCore k c).uaHold = h.uaHold := rfl
@[simp] theorem setCore_ptpPrev (k : Nat) (c : CoreSt) : (h.setCore k c).ptpPrev = h.ptpPrev := rfl
@[simp] theorem setCore_mpHalted (k : Nat) (c : CoreSt) : (h.setCore k c).mpHalted = h.mpHalted := rfl
@[simp] theorem setCore_pkg (k : Nat) (c : CoreSt) : (h.setCore k c).pkg = h.pkg := rfl
@[simp] theorem setCore_fw (k : Nat) (c : CoreSt) : (h.setCore k c).fw = h.fw := rfl
@[simp] theorem setCore_flt (k : Nat) (c : CoreSt) : (h.setCore k c).flt = h.flt := rfl
@[simp] theorem setCore_sw (k : Nat) (c : CoreSt) : (h.setCore k c).sw = h.sw := rfl
@[simp] theorem setCore_ctxs (k : Nat) (c : CoreSt) : (h.setCore k c).ctxs = h.ctxs := rfl
@[simp] theorem setCore_attWait (k : Nat) (c : CoreSt) : (h.setCore k c).attWait = h.attWait := rfl
@[simp] theorem setCore_attReport (k : Nat) (c : CoreSt) : (h.setCore k c).attReport = h.attReport := rfl
@[simp] theorem setCore_wire (k : Nat) (c : CoreSt) : (h.setCore k c).wire = h.wire := rfl
@[simp] theorem setCore_reports (k : Nat) (c : CoreSt) : (h.setCore k c).reports = h.reports := rfl
@[simp] theorem setCore_pulses (k : Nat) (c : CoreSt) : (h.setCore k c).pulses = h.pulses := rfl
@[simp] theorem setCore_gpioAt (k : Nat) (c : CoreSt) : (h.setCore k c).gpioAt = h.gpioAt := rfl
@[simp] theorem setCore_resp (k : Nat) (c : CoreSt) : (h.setCore k c).resp = h.resp := rfl
@[simp] theorem setCore_epochs (k : Nat) (c : CoreSt) : (h.setCore k c).epochs = h.epochs := rfl
@[simp] theorem setCore_waits (k : Nat) (c : CoreSt) : (h.setCore k c).waits = h.waits := rfl
@[simp] theorem setCore_fresh (k : Nat) (c : CoreSt) : (h.setCore k c).fresh = h.fresh := rfl

/-! ### updCore -/

@[simp] theorem updCore_dev (k : Nat) (f : CoreSt → CoreSt) : (h.updCore k f).dev = h.dev := rfl
@[simp] theorem updCore_ptp (k : Nat) (f : CoreSt → CoreSt) : (h.updCore k f).ptp = h.ptp := rfl
@[simp] theorem updCore_mem (k : Nat) (f : CoreSt → CoreSt) : (h.updCore k f).mem = h.mem := rfl
@[simp] theorem updCore_marks (k : Nat) (f : CoreSt → CoreSt) : (h.updCore k f).marks = h.marks := rfl
@[simp] theorem updCore_regs (k : Nat) (f : CoreSt → CoreSt) : (h.updCore k f).regs = h.regs := rfl
@[simp] theorem updCore_tabs (k : Nat) (f : CoreSt → CoreSt) : (h.updCore k f).tabs = h.tabs := rfl
@[simp] theorem updCore_step (k : Nat) (f : CoreSt → CoreSt) : (h.updCore k f).step = h.step := rfl
@[simp] theorem updCore_clusters (k : Nat) (f : CoreSt → CoreSt) : (h.updCore k f).clusters = h.clusters := rfl
@[simp] theorem updCore_eps (k : Nat) (f : CoreSt → CoreSt) : (h.updCore k f).eps = h.eps := rfl
@[simp] theorem updCore_links (k : Nat) (f : CoreSt → CoreSt) : (h.updCore k f).links = h.links := rfl
@[simp] theorem updCore_csis (k : Nat) (f : CoreSt → CoreSt) : (h.updCore k f).csis = h.csis := rfl
@[simp] theorem updCore_ings (k : Nat) (f : CoreSt → CoreSt) : (h.updCore k f).ings = h.ings := rfl
@[simp] theorem updCore_buses (k : Nat) (f : CoreSt → CoreSt) : (h.updCore k f).buses = h.buses := rfl
@[simp] theorem updCore_adcSlot (k : Nat) (f : CoreSt → CoreSt) : (h.updCore k f).adcSlot = h.adcSlot := rfl
@[simp] theorem updCore_adcAt (k : Nat) (f : CoreSt → CoreSt) : (h.updCore k f).adcAt = h.adcAt := rfl
@[simp] theorem updCore_lceLast (k : Nat) (f : CoreSt → CoreSt) : (h.updCore k f).lceLast = h.lceLast := rfl
@[simp] theorem updCore_tmrs (k : Nat) (f : CoreSt → CoreSt) : (h.updCore k f).tmrs = h.tmrs := rfl
@[simp] theorem updCore_acts (k : Nat) (f : CoreSt → CoreSt) : (h.updCore k f).acts = h.acts := rfl
@[simp] theorem updCore_injs (k : Nat) (f : CoreSt → CoreSt) : (h.updCore k f).injs = h.injs := rfl
@[simp] theorem updCore_dmas (k : Nat) (f : CoreSt → CoreSt) : (h.updCore k f).dmas = h.dmas := rfl
@[simp] theorem updCore_dmaTurn (k : Nat) (f : CoreSt → CoreSt) : (h.updCore k f).dmaTurn = h.dmaTurn := rfl
@[simp] theorem updCore_eths (k : Nat) (f : CoreSt → CoreSt) : (h.updCore k f).eths = h.eths := rfl
@[simp] theorem updCore_ddrs (k : Nat) (f : CoreSt → CoreSt) : (h.updCore k f).ddrs = h.ddrs := rfl
@[simp] theorem updCore_uaHold (k : Nat) (f : CoreSt → CoreSt) : (h.updCore k f).uaHold = h.uaHold := rfl
@[simp] theorem updCore_ptpPrev (k : Nat) (f : CoreSt → CoreSt) : (h.updCore k f).ptpPrev = h.ptpPrev := rfl
@[simp] theorem updCore_mpHalted (k : Nat) (f : CoreSt → CoreSt) : (h.updCore k f).mpHalted = h.mpHalted := rfl
@[simp] theorem updCore_pkg (k : Nat) (f : CoreSt → CoreSt) : (h.updCore k f).pkg = h.pkg := rfl
@[simp] theorem updCore_fw (k : Nat) (f : CoreSt → CoreSt) : (h.updCore k f).fw = h.fw := rfl
@[simp] theorem updCore_flt (k : Nat) (f : CoreSt → CoreSt) : (h.updCore k f).flt = h.flt := rfl
@[simp] theorem updCore_sw (k : Nat) (f : CoreSt → CoreSt) : (h.updCore k f).sw = h.sw := rfl
@[simp] theorem updCore_ctxs (k : Nat) (f : CoreSt → CoreSt) : (h.updCore k f).ctxs = h.ctxs := rfl
@[simp] theorem updCore_attWait (k : Nat) (f : CoreSt → CoreSt) : (h.updCore k f).attWait = h.attWait := rfl
@[simp] theorem updCore_attReport (k : Nat) (f : CoreSt → CoreSt) : (h.updCore k f).attReport = h.attReport := rfl
@[simp] theorem updCore_wire (k : Nat) (f : CoreSt → CoreSt) : (h.updCore k f).wire = h.wire := rfl
@[simp] theorem updCore_reports (k : Nat) (f : CoreSt → CoreSt) : (h.updCore k f).reports = h.reports := rfl
@[simp] theorem updCore_pulses (k : Nat) (f : CoreSt → CoreSt) : (h.updCore k f).pulses = h.pulses := rfl
@[simp] theorem updCore_gpioAt (k : Nat) (f : CoreSt → CoreSt) : (h.updCore k f).gpioAt = h.gpioAt := rfl
@[simp] theorem updCore_resp (k : Nat) (f : CoreSt → CoreSt) : (h.updCore k f).resp = h.resp := rfl
@[simp] theorem updCore_epochs (k : Nat) (f : CoreSt → CoreSt) : (h.updCore k f).epochs = h.epochs := rfl
@[simp] theorem updCore_waits (k : Nat) (f : CoreSt → CoreSt) : (h.updCore k f).waits = h.waits := rfl
@[simp] theorem updCore_fresh (k : Nat) (f : CoreSt → CoreSt) : (h.updCore k f).fresh = h.fresh := rfl

/-! ### setCl -/

@[simp] theorem setCl_dev (k : Nat) (c : ClusterSt) : (h.setCl k c).dev = h.dev := rfl
@[simp] theorem setCl_ptp (k : Nat) (c : ClusterSt) : (h.setCl k c).ptp = h.ptp := rfl
@[simp] theorem setCl_mem (k : Nat) (c : ClusterSt) : (h.setCl k c).mem = h.mem := rfl
@[simp] theorem setCl_marks (k : Nat) (c : ClusterSt) : (h.setCl k c).marks = h.marks := rfl
@[simp] theorem setCl_regs (k : Nat) (c : ClusterSt) : (h.setCl k c).regs = h.regs := rfl
@[simp] theorem setCl_tabs (k : Nat) (c : ClusterSt) : (h.setCl k c).tabs = h.tabs := rfl
@[simp] theorem setCl_step (k : Nat) (c : ClusterSt) : (h.setCl k c).step = h.step := rfl
@[simp] theorem setCl_cores (k : Nat) (c : ClusterSt) : (h.setCl k c).cores = h.cores := rfl
@[simp] theorem setCl_eps (k : Nat) (c : ClusterSt) : (h.setCl k c).eps = h.eps := rfl
@[simp] theorem setCl_links (k : Nat) (c : ClusterSt) : (h.setCl k c).links = h.links := rfl
@[simp] theorem setCl_csis (k : Nat) (c : ClusterSt) : (h.setCl k c).csis = h.csis := rfl
@[simp] theorem setCl_ings (k : Nat) (c : ClusterSt) : (h.setCl k c).ings = h.ings := rfl
@[simp] theorem setCl_buses (k : Nat) (c : ClusterSt) : (h.setCl k c).buses = h.buses := rfl
@[simp] theorem setCl_adcSlot (k : Nat) (c : ClusterSt) : (h.setCl k c).adcSlot = h.adcSlot := rfl
@[simp] theorem setCl_adcAt (k : Nat) (c : ClusterSt) : (h.setCl k c).adcAt = h.adcAt := rfl
@[simp] theorem setCl_lceLast (k : Nat) (c : ClusterSt) : (h.setCl k c).lceLast = h.lceLast := rfl
@[simp] theorem setCl_tmrs (k : Nat) (c : ClusterSt) : (h.setCl k c).tmrs = h.tmrs := rfl
@[simp] theorem setCl_acts (k : Nat) (c : ClusterSt) : (h.setCl k c).acts = h.acts := rfl
@[simp] theorem setCl_injs (k : Nat) (c : ClusterSt) : (h.setCl k c).injs = h.injs := rfl
@[simp] theorem setCl_dmas (k : Nat) (c : ClusterSt) : (h.setCl k c).dmas = h.dmas := rfl
@[simp] theorem setCl_dmaTurn (k : Nat) (c : ClusterSt) : (h.setCl k c).dmaTurn = h.dmaTurn := rfl
@[simp] theorem setCl_eths (k : Nat) (c : ClusterSt) : (h.setCl k c).eths = h.eths := rfl
@[simp] theorem setCl_ddrs (k : Nat) (c : ClusterSt) : (h.setCl k c).ddrs = h.ddrs := rfl
@[simp] theorem setCl_uaHold (k : Nat) (c : ClusterSt) : (h.setCl k c).uaHold = h.uaHold := rfl
@[simp] theorem setCl_ptpPrev (k : Nat) (c : ClusterSt) : (h.setCl k c).ptpPrev = h.ptpPrev := rfl
@[simp] theorem setCl_mpHalted (k : Nat) (c : ClusterSt) : (h.setCl k c).mpHalted = h.mpHalted := rfl
@[simp] theorem setCl_pkg (k : Nat) (c : ClusterSt) : (h.setCl k c).pkg = h.pkg := rfl
@[simp] theorem setCl_fw (k : Nat) (c : ClusterSt) : (h.setCl k c).fw = h.fw := rfl
@[simp] theorem setCl_flt (k : Nat) (c : ClusterSt) : (h.setCl k c).flt = h.flt := rfl
@[simp] theorem setCl_sw (k : Nat) (c : ClusterSt) : (h.setCl k c).sw = h.sw := rfl
@[simp] theorem setCl_ctxs (k : Nat) (c : ClusterSt) : (h.setCl k c).ctxs = h.ctxs := rfl
@[simp] theorem setCl_attWait (k : Nat) (c : ClusterSt) : (h.setCl k c).attWait = h.attWait := rfl
@[simp] theorem setCl_attReport (k : Nat) (c : ClusterSt) : (h.setCl k c).attReport = h.attReport := rfl
@[simp] theorem setCl_wire (k : Nat) (c : ClusterSt) : (h.setCl k c).wire = h.wire := rfl
@[simp] theorem setCl_reports (k : Nat) (c : ClusterSt) : (h.setCl k c).reports = h.reports := rfl
@[simp] theorem setCl_pulses (k : Nat) (c : ClusterSt) : (h.setCl k c).pulses = h.pulses := rfl
@[simp] theorem setCl_gpioAt (k : Nat) (c : ClusterSt) : (h.setCl k c).gpioAt = h.gpioAt := rfl
@[simp] theorem setCl_resp (k : Nat) (c : ClusterSt) : (h.setCl k c).resp = h.resp := rfl
@[simp] theorem setCl_epochs (k : Nat) (c : ClusterSt) : (h.setCl k c).epochs = h.epochs := rfl
@[simp] theorem setCl_waits (k : Nat) (c : ClusterSt) : (h.setCl k c).waits = h.waits := rfl
@[simp] theorem setCl_fresh (k : Nat) (c : ClusterSt) : (h.setCl k c).fresh = h.fresh := rfl

/-! ### updCl -/

@[simp] theorem updCl_dev (k : Nat) (f : ClusterSt → ClusterSt) : (h.updCl k f).dev = h.dev := rfl
@[simp] theorem updCl_ptp (k : Nat) (f : ClusterSt → ClusterSt) : (h.updCl k f).ptp = h.ptp := rfl
@[simp] theorem updCl_mem (k : Nat) (f : ClusterSt → ClusterSt) : (h.updCl k f).mem = h.mem := rfl
@[simp] theorem updCl_marks (k : Nat) (f : ClusterSt → ClusterSt) : (h.updCl k f).marks = h.marks := rfl
@[simp] theorem updCl_regs (k : Nat) (f : ClusterSt → ClusterSt) : (h.updCl k f).regs = h.regs := rfl
@[simp] theorem updCl_tabs (k : Nat) (f : ClusterSt → ClusterSt) : (h.updCl k f).tabs = h.tabs := rfl
@[simp] theorem updCl_step (k : Nat) (f : ClusterSt → ClusterSt) : (h.updCl k f).step = h.step := rfl
@[simp] theorem updCl_cores (k : Nat) (f : ClusterSt → ClusterSt) : (h.updCl k f).cores = h.cores := rfl
@[simp] theorem updCl_eps (k : Nat) (f : ClusterSt → ClusterSt) : (h.updCl k f).eps = h.eps := rfl
@[simp] theorem updCl_links (k : Nat) (f : ClusterSt → ClusterSt) : (h.updCl k f).links = h.links := rfl
@[simp] theorem updCl_csis (k : Nat) (f : ClusterSt → ClusterSt) : (h.updCl k f).csis = h.csis := rfl
@[simp] theorem updCl_ings (k : Nat) (f : ClusterSt → ClusterSt) : (h.updCl k f).ings = h.ings := rfl
@[simp] theorem updCl_buses (k : Nat) (f : ClusterSt → ClusterSt) : (h.updCl k f).buses = h.buses := rfl
@[simp] theorem updCl_adcSlot (k : Nat) (f : ClusterSt → ClusterSt) : (h.updCl k f).adcSlot = h.adcSlot := rfl
@[simp] theorem updCl_adcAt (k : Nat) (f : ClusterSt → ClusterSt) : (h.updCl k f).adcAt = h.adcAt := rfl
@[simp] theorem updCl_lceLast (k : Nat) (f : ClusterSt → ClusterSt) : (h.updCl k f).lceLast = h.lceLast := rfl
@[simp] theorem updCl_tmrs (k : Nat) (f : ClusterSt → ClusterSt) : (h.updCl k f).tmrs = h.tmrs := rfl
@[simp] theorem updCl_acts (k : Nat) (f : ClusterSt → ClusterSt) : (h.updCl k f).acts = h.acts := rfl
@[simp] theorem updCl_injs (k : Nat) (f : ClusterSt → ClusterSt) : (h.updCl k f).injs = h.injs := rfl
@[simp] theorem updCl_dmas (k : Nat) (f : ClusterSt → ClusterSt) : (h.updCl k f).dmas = h.dmas := rfl
@[simp] theorem updCl_dmaTurn (k : Nat) (f : ClusterSt → ClusterSt) : (h.updCl k f).dmaTurn = h.dmaTurn := rfl
@[simp] theorem updCl_eths (k : Nat) (f : ClusterSt → ClusterSt) : (h.updCl k f).eths = h.eths := rfl
@[simp] theorem updCl_ddrs (k : Nat) (f : ClusterSt → ClusterSt) : (h.updCl k f).ddrs = h.ddrs := rfl
@[simp] theorem updCl_uaHold (k : Nat) (f : ClusterSt → ClusterSt) : (h.updCl k f).uaHold = h.uaHold := rfl
@[simp] theorem updCl_ptpPrev (k : Nat) (f : ClusterSt → ClusterSt) : (h.updCl k f).ptpPrev = h.ptpPrev := rfl
@[simp] theorem updCl_mpHalted (k : Nat) (f : ClusterSt → ClusterSt) : (h.updCl k f).mpHalted = h.mpHalted := rfl
@[simp] theorem updCl_pkg (k : Nat) (f : ClusterSt → ClusterSt) : (h.updCl k f).pkg = h.pkg := rfl
@[simp] theorem updCl_fw (k : Nat) (f : ClusterSt → ClusterSt) : (h.updCl k f).fw = h.fw := rfl
@[simp] theorem updCl_flt (k : Nat) (f : ClusterSt → ClusterSt) : (h.updCl k f).flt = h.flt := rfl
@[simp] theorem updCl_sw (k : Nat) (f : ClusterSt → ClusterSt) : (h.updCl k f).sw = h.sw := rfl
@[simp] theorem updCl_ctxs (k : Nat) (f : ClusterSt → ClusterSt) : (h.updCl k f).ctxs = h.ctxs := rfl
@[simp] theorem updCl_attWait (k : Nat) (f : ClusterSt → ClusterSt) : (h.updCl k f).attWait = h.attWait := rfl
@[simp] theorem updCl_attReport (k : Nat) (f : ClusterSt → ClusterSt) : (h.updCl k f).attReport = h.attReport := rfl
@[simp] theorem updCl_wire (k : Nat) (f : ClusterSt → ClusterSt) : (h.updCl k f).wire = h.wire := rfl
@[simp] theorem updCl_reports (k : Nat) (f : ClusterSt → ClusterSt) : (h.updCl k f).reports = h.reports := rfl
@[simp] theorem updCl_pulses (k : Nat) (f : ClusterSt → ClusterSt) : (h.updCl k f).pulses = h.pulses := rfl
@[simp] theorem updCl_gpioAt (k : Nat) (f : ClusterSt → ClusterSt) : (h.updCl k f).gpioAt = h.gpioAt := rfl
@[simp] theorem updCl_resp (k : Nat) (f : ClusterSt → ClusterSt) : (h.updCl k f).resp = h.resp := rfl
@[simp] theorem updCl_epochs (k : Nat) (f : ClusterSt → ClusterSt) : (h.updCl k f).epochs = h.epochs := rfl
@[simp] theorem updCl_waits (k : Nat) (f : ClusterSt → ClusterSt) : (h.updCl k f).waits = h.waits := rfl
@[simp] theorem updCl_fresh (k : Nat) (f : ClusterSt → ClusterSt) : (h.updCl k f).fresh = h.fresh := rfl

/-! ### setEp -/

@[simp] theorem setEp_dev (k : Nat) (c : EpSt) : (h.setEp k c).dev = h.dev := rfl
@[simp] theorem setEp_ptp (k : Nat) (c : EpSt) : (h.setEp k c).ptp = h.ptp := rfl
@[simp] theorem setEp_mem (k : Nat) (c : EpSt) : (h.setEp k c).mem = h.mem := rfl
@[simp] theorem setEp_marks (k : Nat) (c : EpSt) : (h.setEp k c).marks = h.marks := rfl
@[simp] theorem setEp_regs (k : Nat) (c : EpSt) : (h.setEp k c).regs = h.regs := rfl
@[simp] theorem setEp_tabs (k : Nat) (c : EpSt) : (h.setEp k c).tabs = h.tabs := rfl
@[simp] theorem setEp_step (k : Nat) (c : EpSt) : (h.setEp k c).step = h.step := rfl
@[simp] theorem setEp_cores (k : Nat) (c : EpSt) : (h.setEp k c).cores = h.cores := rfl
@[simp] theorem setEp_clusters (k : Nat) (c : EpSt) : (h.setEp k c).clusters = h.clusters := rfl
@[simp] theorem setEp_links (k : Nat) (c : EpSt) : (h.setEp k c).links = h.links := rfl
@[simp] theorem setEp_csis (k : Nat) (c : EpSt) : (h.setEp k c).csis = h.csis := rfl
@[simp] theorem setEp_ings (k : Nat) (c : EpSt) : (h.setEp k c).ings = h.ings := rfl
@[simp] theorem setEp_buses (k : Nat) (c : EpSt) : (h.setEp k c).buses = h.buses := rfl
@[simp] theorem setEp_adcSlot (k : Nat) (c : EpSt) : (h.setEp k c).adcSlot = h.adcSlot := rfl
@[simp] theorem setEp_adcAt (k : Nat) (c : EpSt) : (h.setEp k c).adcAt = h.adcAt := rfl
@[simp] theorem setEp_lceLast (k : Nat) (c : EpSt) : (h.setEp k c).lceLast = h.lceLast := rfl
@[simp] theorem setEp_tmrs (k : Nat) (c : EpSt) : (h.setEp k c).tmrs = h.tmrs := rfl
@[simp] theorem setEp_acts (k : Nat) (c : EpSt) : (h.setEp k c).acts = h.acts := rfl
@[simp] theorem setEp_injs (k : Nat) (c : EpSt) : (h.setEp k c).injs = h.injs := rfl
@[simp] theorem setEp_dmas (k : Nat) (c : EpSt) : (h.setEp k c).dmas = h.dmas := rfl
@[simp] theorem setEp_dmaTurn (k : Nat) (c : EpSt) : (h.setEp k c).dmaTurn = h.dmaTurn := rfl
@[simp] theorem setEp_eths (k : Nat) (c : EpSt) : (h.setEp k c).eths = h.eths := rfl
@[simp] theorem setEp_ddrs (k : Nat) (c : EpSt) : (h.setEp k c).ddrs = h.ddrs := rfl
@[simp] theorem setEp_uaHold (k : Nat) (c : EpSt) : (h.setEp k c).uaHold = h.uaHold := rfl
@[simp] theorem setEp_ptpPrev (k : Nat) (c : EpSt) : (h.setEp k c).ptpPrev = h.ptpPrev := rfl
@[simp] theorem setEp_mpHalted (k : Nat) (c : EpSt) : (h.setEp k c).mpHalted = h.mpHalted := rfl
@[simp] theorem setEp_pkg (k : Nat) (c : EpSt) : (h.setEp k c).pkg = h.pkg := rfl
@[simp] theorem setEp_fw (k : Nat) (c : EpSt) : (h.setEp k c).fw = h.fw := rfl
@[simp] theorem setEp_flt (k : Nat) (c : EpSt) : (h.setEp k c).flt = h.flt := rfl
@[simp] theorem setEp_sw (k : Nat) (c : EpSt) : (h.setEp k c).sw = h.sw := rfl
@[simp] theorem setEp_ctxs (k : Nat) (c : EpSt) : (h.setEp k c).ctxs = h.ctxs := rfl
@[simp] theorem setEp_attWait (k : Nat) (c : EpSt) : (h.setEp k c).attWait = h.attWait := rfl
@[simp] theorem setEp_attReport (k : Nat) (c : EpSt) : (h.setEp k c).attReport = h.attReport := rfl
@[simp] theorem setEp_wire (k : Nat) (c : EpSt) : (h.setEp k c).wire = h.wire := rfl
@[simp] theorem setEp_reports (k : Nat) (c : EpSt) : (h.setEp k c).reports = h.reports := rfl
@[simp] theorem setEp_pulses (k : Nat) (c : EpSt) : (h.setEp k c).pulses = h.pulses := rfl
@[simp] theorem setEp_gpioAt (k : Nat) (c : EpSt) : (h.setEp k c).gpioAt = h.gpioAt := rfl
@[simp] theorem setEp_resp (k : Nat) (c : EpSt) : (h.setEp k c).resp = h.resp := rfl
@[simp] theorem setEp_epochs (k : Nat) (c : EpSt) : (h.setEp k c).epochs = h.epochs := rfl
@[simp] theorem setEp_waits (k : Nat) (c : EpSt) : (h.setEp k c).waits = h.waits := rfl
@[simp] theorem setEp_fresh (k : Nat) (c : EpSt) : (h.setEp k c).fresh = h.fresh := rfl

/-! ### updEp -/

@[simp] theorem updEp_dev (k : Nat) (f : EpSt → EpSt) : (h.updEp k f).dev = h.dev := rfl
@[simp] theorem updEp_ptp (k : Nat) (f : EpSt → EpSt) : (h.updEp k f).ptp = h.ptp := rfl
@[simp] theorem updEp_mem (k : Nat) (f : EpSt → EpSt) : (h.updEp k f).mem = h.mem := rfl
@[simp] theorem updEp_marks (k : Nat) (f : EpSt → EpSt) : (h.updEp k f).marks = h.marks := rfl
@[simp] theorem updEp_regs (k : Nat) (f : EpSt → EpSt) : (h.updEp k f).regs = h.regs := rfl
@[simp] theorem updEp_tabs (k : Nat) (f : EpSt → EpSt) : (h.updEp k f).tabs = h.tabs := rfl
@[simp] theorem updEp_step (k : Nat) (f : EpSt → EpSt) : (h.updEp k f).step = h.step := rfl
@[simp] theorem updEp_cores (k : Nat) (f : EpSt → EpSt) : (h.updEp k f).cores = h.cores := rfl
@[simp] theorem updEp_clusters (k : Nat) (f : EpSt → EpSt) : (h.updEp k f).clusters = h.clusters := rfl
@[simp] theorem updEp_links (k : Nat) (f : EpSt → EpSt) : (h.updEp k f).links = h.links := rfl
@[simp] theorem updEp_csis (k : Nat) (f : EpSt → EpSt) : (h.updEp k f).csis = h.csis := rfl
@[simp] theorem updEp_ings (k : Nat) (f : EpSt → EpSt) : (h.updEp k f).ings = h.ings := rfl
@[simp] theorem updEp_buses (k : Nat) (f : EpSt → EpSt) : (h.updEp k f).buses = h.buses := rfl
@[simp] theorem updEp_adcSlot (k : Nat) (f : EpSt → EpSt) : (h.updEp k f).adcSlot = h.adcSlot := rfl
@[simp] theorem updEp_adcAt (k : Nat) (f : EpSt → EpSt) : (h.updEp k f).adcAt = h.adcAt := rfl
@[simp] theorem updEp_lceLast (k : Nat) (f : EpSt → EpSt) : (h.updEp k f).lceLast = h.lceLast := rfl
@[simp] theorem updEp_tmrs (k : Nat) (f : EpSt → EpSt) : (h.updEp k f).tmrs = h.tmrs := rfl
@[simp] theorem updEp_acts (k : Nat) (f : EpSt → EpSt) : (h.updEp k f).acts = h.acts := rfl
@[simp] theorem updEp_injs (k : Nat) (f : EpSt → EpSt) : (h.updEp k f).injs = h.injs := rfl
@[simp] theorem updEp_dmas (k : Nat) (f : EpSt → EpSt) : (h.updEp k f).dmas = h.dmas := rfl
@[simp] theorem updEp_dmaTurn (k : Nat) (f : EpSt → EpSt) : (h.updEp k f).dmaTurn = h.dmaTurn := rfl
@[simp] theorem updEp_eths (k : Nat) (f : EpSt → EpSt) : (h.updEp k f).eths = h.eths := rfl
@[simp] theorem updEp_ddrs (k : Nat) (f : EpSt → EpSt) : (h.updEp k f).ddrs = h.ddrs := rfl
@[simp] theorem updEp_uaHold (k : Nat) (f : EpSt → EpSt) : (h.updEp k f).uaHold = h.uaHold := rfl
@[simp] theorem updEp_ptpPrev (k : Nat) (f : EpSt → EpSt) : (h.updEp k f).ptpPrev = h.ptpPrev := rfl
@[simp] theorem updEp_mpHalted (k : Nat) (f : EpSt → EpSt) : (h.updEp k f).mpHalted = h.mpHalted := rfl
@[simp] theorem updEp_pkg (k : Nat) (f : EpSt → EpSt) : (h.updEp k f).pkg = h.pkg := rfl
@[simp] theorem updEp_fw (k : Nat) (f : EpSt → EpSt) : (h.updEp k f).fw = h.fw := rfl
@[simp] theorem updEp_flt (k : Nat) (f : EpSt → EpSt) : (h.updEp k f).flt = h.flt := rfl
@[simp] theorem updEp_sw (k : Nat) (f : EpSt → EpSt) : (h.updEp k f).sw = h.sw := rfl
@[simp] theorem updEp_ctxs (k : Nat) (f : EpSt → EpSt) : (h.updEp k f).ctxs = h.ctxs := rfl
@[simp] theorem updEp_attWait (k : Nat) (f : EpSt → EpSt) : (h.updEp k f).attWait = h.attWait := rfl
@[simp] theorem updEp_attReport (k : Nat) (f : EpSt → EpSt) : (h.updEp k f).attReport = h.attReport := rfl
@[simp] theorem updEp_wire (k : Nat) (f : EpSt → EpSt) : (h.updEp k f).wire = h.wire := rfl
@[simp] theorem updEp_reports (k : Nat) (f : EpSt → EpSt) : (h.updEp k f).reports = h.reports := rfl
@[simp] theorem updEp_pulses (k : Nat) (f : EpSt → EpSt) : (h.updEp k f).pulses = h.pulses := rfl
@[simp] theorem updEp_gpioAt (k : Nat) (f : EpSt → EpSt) : (h.updEp k f).gpioAt = h.gpioAt := rfl
@[simp] theorem updEp_resp (k : Nat) (f : EpSt → EpSt) : (h.updEp k f).resp = h.resp := rfl
@[simp] theorem updEp_epochs (k : Nat) (f : EpSt → EpSt) : (h.updEp k f).epochs = h.epochs := rfl
@[simp] theorem updEp_waits (k : Nat) (f : EpSt → EpSt) : (h.updEp k f).waits = h.waits := rfl
@[simp] theorem updEp_fresh (k : Nat) (f : EpSt → EpSt) : (h.updEp k f).fresh = h.fresh := rfl

/-! ### setStep -/

@[simp] theorem setStep_dev (v : StepSt) : (h.setStep v).dev = h.dev := rfl
@[simp] theorem setStep_ptp (v : StepSt) : (h.setStep v).ptp = h.ptp := rfl
@[simp] theorem setStep_mem (v : StepSt) : (h.setStep v).mem = h.mem := rfl
@[simp] theorem setStep_marks (v : StepSt) : (h.setStep v).marks = h.marks := rfl
@[simp] theorem setStep_regs (v : StepSt) : (h.setStep v).regs = h.regs := rfl
@[simp] theorem setStep_tabs (v : StepSt) : (h.setStep v).tabs = h.tabs := rfl
@[simp] theorem setStep_cores (v : StepSt) : (h.setStep v).cores = h.cores := rfl
@[simp] theorem setStep_clusters (v : StepSt) : (h.setStep v).clusters = h.clusters := rfl
@[simp] theorem setStep_eps (v : StepSt) : (h.setStep v).eps = h.eps := rfl
@[simp] theorem setStep_links (v : StepSt) : (h.setStep v).links = h.links := rfl
@[simp] theorem setStep_csis (v : StepSt) : (h.setStep v).csis = h.csis := rfl
@[simp] theorem setStep_ings (v : StepSt) : (h.setStep v).ings = h.ings := rfl
@[simp] theorem setStep_buses (v : StepSt) : (h.setStep v).buses = h.buses := rfl
@[simp] theorem setStep_adcSlot (v : StepSt) : (h.setStep v).adcSlot = h.adcSlot := rfl
@[simp] theorem setStep_adcAt (v : StepSt) : (h.setStep v).adcAt = h.adcAt := rfl
@[simp] theorem setStep_lceLast (v : StepSt) : (h.setStep v).lceLast = h.lceLast := rfl
@[simp] theorem setStep_tmrs (v : StepSt) : (h.setStep v).tmrs = h.tmrs := rfl
@[simp] theorem setStep_acts (v : StepSt) : (h.setStep v).acts = h.acts := rfl
@[simp] theorem setStep_injs (v : StepSt) : (h.setStep v).injs = h.injs := rfl
@[simp] theorem setStep_dmas (v : StepSt) : (h.setStep v).dmas = h.dmas := rfl
@[simp] theorem setStep_dmaTurn (v : StepSt) : (h.setStep v).dmaTurn = h.dmaTurn := rfl
@[simp] theorem setStep_eths (v : StepSt) : (h.setStep v).eths = h.eths := rfl
@[simp] theorem setStep_ddrs (v : StepSt) : (h.setStep v).ddrs = h.ddrs := rfl
@[simp] theorem setStep_uaHold (v : StepSt) : (h.setStep v).uaHold = h.uaHold := rfl
@[simp] theorem setStep_ptpPrev (v : StepSt) : (h.setStep v).ptpPrev = h.ptpPrev := rfl
@[simp] theorem setStep_mpHalted (v : StepSt) : (h.setStep v).mpHalted = h.mpHalted := rfl
@[simp] theorem setStep_pkg (v : StepSt) : (h.setStep v).pkg = h.pkg := rfl
@[simp] theorem setStep_fw (v : StepSt) : (h.setStep v).fw = h.fw := rfl
@[simp] theorem setStep_flt (v : StepSt) : (h.setStep v).flt = h.flt := rfl
@[simp] theorem setStep_sw (v : StepSt) : (h.setStep v).sw = h.sw := rfl
@[simp] theorem setStep_ctxs (v : StepSt) : (h.setStep v).ctxs = h.ctxs := rfl
@[simp] theorem setStep_attWait (v : StepSt) : (h.setStep v).attWait = h.attWait := rfl
@[simp] theorem setStep_attReport (v : StepSt) : (h.setStep v).attReport = h.attReport := rfl
@[simp] theorem setStep_wire (v : StepSt) : (h.setStep v).wire = h.wire := rfl
@[simp] theorem setStep_reports (v : StepSt) : (h.setStep v).reports = h.reports := rfl
@[simp] theorem setStep_pulses (v : StepSt) : (h.setStep v).pulses = h.pulses := rfl
@[simp] theorem setStep_gpioAt (v : StepSt) : (h.setStep v).gpioAt = h.gpioAt := rfl
@[simp] theorem setStep_resp (v : StepSt) : (h.setStep v).resp = h.resp := rfl
@[simp] theorem setStep_epochs (v : StepSt) : (h.setStep v).epochs = h.epochs := rfl
@[simp] theorem setStep_waits (v : StepSt) : (h.setStep v).waits = h.waits := rfl
@[simp] theorem setStep_fresh (v : StepSt) : (h.setStep v).fresh = h.fresh := rfl

/-! ### updStep -/

@[simp] theorem updStep_dev (f : StepSt → StepSt) : (h.updStep f).dev = h.dev := rfl
@[simp] theorem updStep_ptp (f : StepSt → StepSt) : (h.updStep f).ptp = h.ptp := rfl
@[simp] theorem updStep_mem (f : StepSt → StepSt) : (h.updStep f).mem = h.mem := rfl
@[simp] theorem updStep_marks (f : StepSt → StepSt) : (h.updStep f).marks = h.marks := rfl
@[simp] theorem updStep_regs (f : StepSt → StepSt) : (h.updStep f).regs = h.regs := rfl
@[simp] theorem updStep_tabs (f : StepSt → StepSt) : (h.updStep f).tabs = h.tabs := rfl
@[simp] theorem updStep_cores (f : StepSt → StepSt) : (h.updStep f).cores = h.cores := rfl
@[simp] theorem updStep_clusters (f : StepSt → StepSt) : (h.updStep f).clusters = h.clusters := rfl
@[simp] theorem updStep_eps (f : StepSt → StepSt) : (h.updStep f).eps = h.eps := rfl
@[simp] theorem updStep_links (f : StepSt → StepSt) : (h.updStep f).links = h.links := rfl
@[simp] theorem updStep_csis (f : StepSt → StepSt) : (h.updStep f).csis = h.csis := rfl
@[simp] theorem updStep_ings (f : StepSt → StepSt) : (h.updStep f).ings = h.ings := rfl
@[simp] theorem updStep_buses (f : StepSt → StepSt) : (h.updStep f).buses = h.buses := rfl
@[simp] theorem updStep_adcSlot (f : StepSt → StepSt) : (h.updStep f).adcSlot = h.adcSlot := rfl
@[simp] theorem updStep_adcAt (f : StepSt → StepSt) : (h.updStep f).adcAt = h.adcAt := rfl
@[simp] theorem updStep_lceLast (f : StepSt → StepSt) : (h.updStep f).lceLast = h.lceLast := rfl
@[simp] theorem updStep_tmrs (f : StepSt → StepSt) : (h.updStep f).tmrs = h.tmrs := rfl
@[simp] theorem updStep_acts (f : StepSt → StepSt) : (h.updStep f).acts = h.acts := rfl
@[simp] theorem updStep_injs (f : StepSt → StepSt) : (h.updStep f).injs = h.injs := rfl
@[simp] theorem updStep_dmas (f : StepSt → StepSt) : (h.updStep f).dmas = h.dmas := rfl
@[simp] theorem updStep_dmaTurn (f : StepSt → StepSt) : (h.updStep f).dmaTurn = h.dmaTurn := rfl
@[simp] theorem updStep_eths (f : StepSt → StepSt) : (h.updStep f).eths = h.eths := rfl
@[simp] theorem updStep_ddrs (f : StepSt → StepSt) : (h.updStep f).ddrs = h.ddrs := rfl
@[simp] theorem updStep_uaHold (f : StepSt → StepSt) : (h.updStep f).uaHold = h.uaHold := rfl
@[simp] theorem updStep_ptpPrev (f : StepSt → StepSt) : (h.updStep f).ptpPrev = h.ptpPrev := rfl
@[simp] theorem updStep_mpHalted (f : StepSt → StepSt) : (h.updStep f).mpHalted = h.mpHalted := rfl
@[simp] theorem updStep_pkg (f : StepSt → StepSt) : (h.updStep f).pkg = h.pkg := rfl
@[simp] theorem updStep_fw (f : StepSt → StepSt) : (h.updStep f).fw = h.fw := rfl
@[simp] theorem updStep_flt (f : StepSt → StepSt) : (h.updStep f).flt = h.flt := rfl
@[simp] theorem updStep_sw (f : StepSt → StepSt) : (h.updStep f).sw = h.sw := rfl
@[simp] theorem updStep_ctxs (f : StepSt → StepSt) : (h.updStep f).ctxs = h.ctxs := rfl
@[simp] theorem updStep_attWait (f : StepSt → StepSt) : (h.updStep f).attWait = h.attWait := rfl
@[simp] theorem updStep_attReport (f : StepSt → StepSt) : (h.updStep f).attReport = h.attReport := rfl
@[simp] theorem updStep_wire (f : StepSt → StepSt) : (h.updStep f).wire = h.wire := rfl
@[simp] theorem updStep_reports (f : StepSt → StepSt) : (h.updStep f).reports = h.reports := rfl
@[simp] theorem updStep_pulses (f : StepSt → StepSt) : (h.updStep f).pulses = h.pulses := rfl
@[simp] theorem updStep_gpioAt (f : StepSt → StepSt) : (h.updStep f).gpioAt = h.gpioAt := rfl
@[simp] theorem updStep_resp (f : StepSt → StepSt) : (h.updStep f).resp = h.resp := rfl
@[simp] theorem updStep_epochs (f : StepSt → StepSt) : (h.updStep f).epochs = h.epochs := rfl
@[simp] theorem updStep_waits (f : StepSt → StepSt) : (h.updStep f).waits = h.waits := rfl
@[simp] theorem updStep_fresh (f : StepSt → StepSt) : (h.updStep f).fresh = h.fresh := rfl

/-! ### raise -/

@[simp] theorem raise_dev (src : Nat) (u : FUnit) : (h.raise src u).dev = h.dev := rfl
@[simp] theorem raise_ptp (src : Nat) (u : FUnit) : (h.raise src u).ptp = h.ptp := rfl
@[simp] theorem raise_mem (src : Nat) (u : FUnit) : (h.raise src u).mem = h.mem := rfl
@[simp] theorem raise_marks (src : Nat) (u : FUnit) : (h.raise src u).marks = h.marks := rfl
@[simp] theorem raise_regs (src : Nat) (u : FUnit) : (h.raise src u).regs = h.regs := rfl
@[simp] theorem raise_tabs (src : Nat) (u : FUnit) : (h.raise src u).tabs = h.tabs := rfl
@[simp] theorem raise_step (src : Nat) (u : FUnit) : (h.raise src u).step = h.step := rfl
@[simp] theorem raise_cores (src : Nat) (u : FUnit) : (h.raise src u).cores = h.cores := rfl
@[simp] theorem raise_clusters (src : Nat) (u : FUnit) : (h.raise src u).clusters = h.clusters := rfl
@[simp] theorem raise_eps (src : Nat) (u : FUnit) : (h.raise src u).eps = h.eps := rfl
@[simp] theorem raise_links (src : Nat) (u : FUnit) : (h.raise src u).links = h.links := rfl
@[simp] theorem raise_csis (src : Nat) (u : FUnit) : (h.raise src u).csis = h.csis := rfl
@[simp] theorem raise_ings (src : Nat) (u : FUnit) : (h.raise src u).ings = h.ings := rfl
@[simp] theorem raise_buses (src : Nat) (u : FUnit) : (h.raise src u).buses = h.buses := rfl
@[simp] theorem raise_adcSlot (src : Nat) (u : FUnit) : (h.raise src u).adcSlot = h.adcSlot := rfl
@[simp] theorem raise_adcAt (src : Nat) (u : FUnit) : (h.raise src u).adcAt = h.adcAt := rfl
@[simp] theorem raise_lceLast (src : Nat) (u : FUnit) : (h.raise src u).lceLast = h.lceLast := rfl
@[simp] theorem raise_tmrs (src : Nat) (u : FUnit) : (h.raise src u).tmrs = h.tmrs := rfl
@[simp] theorem raise_acts (src : Nat) (u : FUnit) : (h.raise src u).acts = h.acts := rfl
@[simp] theorem raise_injs (src : Nat) (u : FUnit) : (h.raise src u).injs = h.injs := rfl
@[simp] theorem raise_dmas (src : Nat) (u : FUnit) : (h.raise src u).dmas = h.dmas := rfl
@[simp] theorem raise_dmaTurn (src : Nat) (u : FUnit) : (h.raise src u).dmaTurn = h.dmaTurn := rfl
@[simp] theorem raise_eths (src : Nat) (u : FUnit) : (h.raise src u).eths = h.eths := rfl
@[simp] theorem raise_ddrs (src : Nat) (u : FUnit) : (h.raise src u).ddrs = h.ddrs := rfl
@[simp] theorem raise_uaHold (src : Nat) (u : FUnit) : (h.raise src u).uaHold = h.uaHold := rfl
@[simp] theorem raise_ptpPrev (src : Nat) (u : FUnit) : (h.raise src u).ptpPrev = h.ptpPrev := rfl
@[simp] theorem raise_mpHalted (src : Nat) (u : FUnit) : (h.raise src u).mpHalted = h.mpHalted := rfl
@[simp] theorem raise_pkg (src : Nat) (u : FUnit) : (h.raise src u).pkg = h.pkg := rfl
@[simp] theorem raise_fw (src : Nat) (u : FUnit) : (h.raise src u).fw = h.fw := rfl
@[simp] theorem raise_flt (src : Nat) (u : FUnit) : (h.raise src u).flt = h.flt := rfl
@[simp] theorem raise_sw (src : Nat) (u : FUnit) : (h.raise src u).sw = h.sw := rfl
@[simp] theorem raise_ctxs (src : Nat) (u : FUnit) : (h.raise src u).ctxs = h.ctxs := rfl
@[simp] theorem raise_attWait (src : Nat) (u : FUnit) : (h.raise src u).attWait = h.attWait := rfl
@[simp] theorem raise_attReport (src : Nat) (u : FUnit) : (h.raise src u).attReport = h.attReport := rfl
@[simp] theorem raise_wire (src : Nat) (u : FUnit) : (h.raise src u).wire = h.wire := rfl
@[simp] theorem raise_pulses (src : Nat) (u : FUnit) : (h.raise src u).pulses = h.pulses := rfl
@[simp] theorem raise_gpioAt (src : Nat) (u : FUnit) : (h.raise src u).gpioAt = h.gpioAt := rfl
@[simp] theorem raise_resp (src : Nat) (u : FUnit) : (h.raise src u).resp = h.resp := rfl
@[simp] theorem raise_epochs (src : Nat) (u : FUnit) : (h.raise src u).epochs = h.epochs := rfl
@[simp] theorem raise_waits (src : Nat) (u : FUnit) : (h.raise src u).waits = h.waits := rfl
@[simp] theorem raise_fresh (src : Nat) (u : FUnit) : (h.raise src u).fresh = h.fresh := rfl

/-! ### fire -/

@[simp] theorem fire_dev (src : Nat) : (h.fire src).dev = h.dev := rfl
@[simp] theorem fire_ptp (src : Nat) : (h.fire src).ptp = h.ptp := rfl
@[simp] theorem fire_mem (src : Nat) : (h.fire src).mem = h.mem := rfl
@[simp] theorem fire_marks (src : Nat) : (h.fire src).marks = h.marks := rfl
@[simp] theorem fire_regs (src : Nat) : (h.fire src).regs = h.regs := rfl
@[simp] theorem fire_tabs (src : Nat) : (h.fire src).tabs = h.tabs := rfl
@[simp] theorem fire_step (src : Nat) : (h.fire src).step = h.step := rfl
@[simp] theorem fire_cores (src : Nat) : (h.fire src).cores = h.cores := rfl
@[simp] theorem fire_clusters (src : Nat) : (h.fire src).clusters = h.clusters := rfl
@[simp] theorem fire_eps (src : Nat) : (h.fire src).eps = h.eps := rfl
@[simp] theorem fire_links (src : Nat) : (h.fire src).links = h.links := rfl
@[simp] theorem fire_csis (src : Nat) : (h.fire src).csis = h.csis := rfl
@[simp] theorem fire_ings (src : Nat) : (h.fire src).ings = h.ings := rfl
@[simp] theorem fire_buses (src : Nat) : (h.fire src).buses = h.buses := rfl
@[simp] theorem fire_adcSlot (src : Nat) : (h.fire src).adcSlot = h.adcSlot := rfl
@[simp] theorem fire_adcAt (src : Nat) : (h.fire src).adcAt = h.adcAt := rfl
@[simp] theorem fire_lceLast (src : Nat) : (h.fire src).lceLast = h.lceLast := rfl
@[simp] theorem fire_tmrs (src : Nat) : (h.fire src).tmrs = h.tmrs := rfl
@[simp] theorem fire_acts (src : Nat) : (h.fire src).acts = h.acts := rfl
@[simp] theorem fire_injs (src : Nat) : (h.fire src).injs = h.injs := rfl
@[simp] theorem fire_dmas (src : Nat) : (h.fire src).dmas = h.dmas := rfl
@[simp] theorem fire_dmaTurn (src : Nat) : (h.fire src).dmaTurn = h.dmaTurn := rfl
@[simp] theorem fire_eths (src : Nat) : (h.fire src).eths = h.eths := rfl
@[simp] theorem fire_ddrs (src : Nat) : (h.fire src).ddrs = h.ddrs := rfl
@[simp] theorem fire_uaHold (src : Nat) : (h.fire src).uaHold = h.uaHold := rfl
@[simp] theorem fire_ptpPrev (src : Nat) : (h.fire src).ptpPrev = h.ptpPrev := rfl
@[simp] theorem fire_mpHalted (src : Nat) : (h.fire src).mpHalted = h.mpHalted := rfl
@[simp] theorem fire_pkg (src : Nat) : (h.fire src).pkg = h.pkg := rfl
@[simp] theorem fire_fw (src : Nat) : (h.fire src).fw = h.fw := rfl
@[simp] theorem fire_flt (src : Nat) : (h.fire src).flt = h.flt := rfl
@[simp] theorem fire_sw (src : Nat) : (h.fire src).sw = h.sw := rfl
@[simp] theorem fire_ctxs (src : Nat) : (h.fire src).ctxs = h.ctxs := rfl
@[simp] theorem fire_attWait (src : Nat) : (h.fire src).attWait = h.attWait := rfl
@[simp] theorem fire_attReport (src : Nat) : (h.fire src).attReport = h.attReport := rfl
@[simp] theorem fire_wire (src : Nat) : (h.fire src).wire = h.wire := rfl
@[simp] theorem fire_reports (src : Nat) : (h.fire src).reports = h.reports := rfl
@[simp] theorem fire_gpioAt (src : Nat) : (h.fire src).gpioAt = h.gpioAt := rfl
@[simp] theorem fire_resp (src : Nat) : (h.fire src).resp = h.resp := rfl
@[simp] theorem fire_epochs (src : Nat) : (h.fire src).epochs = h.epochs := rfl
@[simp] theorem fire_waits (src : Nat) : (h.fire src).waits = h.waits := rfl
@[simp] theorem fire_fresh (src : Nat) : (h.fire src).fresh = h.fresh := rfl

/-! ### setByte -/

@[simp] theorem setByte_dev (a : Nat) (v : Byte) : (h.setByte a v).dev = h.dev := rfl
@[simp] theorem setByte_ptp (a : Nat) (v : Byte) : (h.setByte a v).ptp = h.ptp := rfl
@[simp] theorem setByte_marks (a : Nat) (v : Byte) : (h.setByte a v).marks = h.marks := rfl
@[simp] theorem setByte_regs (a : Nat) (v : Byte) : (h.setByte a v).regs = h.regs := rfl
@[simp] theorem setByte_tabs (a : Nat) (v : Byte) : (h.setByte a v).tabs = h.tabs := rfl
@[simp] theorem setByte_step (a : Nat) (v : Byte) : (h.setByte a v).step = h.step := rfl
@[simp] theorem setByte_cores (a : Nat) (v : Byte) : (h.setByte a v).cores = h.cores := rfl
@[simp] theorem setByte_clusters (a : Nat) (v : Byte) : (h.setByte a v).clusters = h.clusters := rfl
@[simp] theorem setByte_eps (a : Nat) (v : Byte) : (h.setByte a v).eps = h.eps := rfl
@[simp] theorem setByte_links (a : Nat) (v : Byte) : (h.setByte a v).links = h.links := rfl
@[simp] theorem setByte_csis (a : Nat) (v : Byte) : (h.setByte a v).csis = h.csis := rfl
@[simp] theorem setByte_ings (a : Nat) (v : Byte) : (h.setByte a v).ings = h.ings := rfl
@[simp] theorem setByte_buses (a : Nat) (v : Byte) : (h.setByte a v).buses = h.buses := rfl
@[simp] theorem setByte_adcSlot (a : Nat) (v : Byte) : (h.setByte a v).adcSlot = h.adcSlot := rfl
@[simp] theorem setByte_adcAt (a : Nat) (v : Byte) : (h.setByte a v).adcAt = h.adcAt := rfl
@[simp] theorem setByte_lceLast (a : Nat) (v : Byte) : (h.setByte a v).lceLast = h.lceLast := rfl
@[simp] theorem setByte_tmrs (a : Nat) (v : Byte) : (h.setByte a v).tmrs = h.tmrs := rfl
@[simp] theorem setByte_acts (a : Nat) (v : Byte) : (h.setByte a v).acts = h.acts := rfl
@[simp] theorem setByte_injs (a : Nat) (v : Byte) : (h.setByte a v).injs = h.injs := rfl
@[simp] theorem setByte_dmas (a : Nat) (v : Byte) : (h.setByte a v).dmas = h.dmas := rfl
@[simp] theorem setByte_dmaTurn (a : Nat) (v : Byte) : (h.setByte a v).dmaTurn = h.dmaTurn := rfl
@[simp] theorem setByte_eths (a : Nat) (v : Byte) : (h.setByte a v).eths = h.eths := rfl
@[simp] theorem setByte_ddrs (a : Nat) (v : Byte) : (h.setByte a v).ddrs = h.ddrs := rfl
@[simp] theorem setByte_uaHold (a : Nat) (v : Byte) : (h.setByte a v).uaHold = h.uaHold := rfl
@[simp] theorem setByte_ptpPrev (a : Nat) (v : Byte) : (h.setByte a v).ptpPrev = h.ptpPrev := rfl
@[simp] theorem setByte_mpHalted (a : Nat) (v : Byte) : (h.setByte a v).mpHalted = h.mpHalted := rfl
@[simp] theorem setByte_pkg (a : Nat) (v : Byte) : (h.setByte a v).pkg = h.pkg := rfl
@[simp] theorem setByte_fw (a : Nat) (v : Byte) : (h.setByte a v).fw = h.fw := rfl
@[simp] theorem setByte_flt (a : Nat) (v : Byte) : (h.setByte a v).flt = h.flt := rfl
@[simp] theorem setByte_sw (a : Nat) (v : Byte) : (h.setByte a v).sw = h.sw := rfl
@[simp] theorem setByte_ctxs (a : Nat) (v : Byte) : (h.setByte a v).ctxs = h.ctxs := rfl
@[simp] theorem setByte_attWait (a : Nat) (v : Byte) : (h.setByte a v).attWait = h.attWait := rfl
@[simp] theorem setByte_attReport (a : Nat) (v : Byte) : (h.setByte a v).attReport = h.attReport := rfl
@[simp] theorem setByte_wire (a : Nat) (v : Byte) : (h.setByte a v).wire = h.wire := rfl
@[simp] theorem setByte_reports (a : Nat) (v : Byte) : (h.setByte a v).reports = h.reports := rfl
@[simp] theorem setByte_pulses (a : Nat) (v : Byte) : (h.setByte a v).pulses = h.pulses := rfl
@[simp] theorem setByte_gpioAt (a : Nat) (v : Byte) : (h.setByte a v).gpioAt = h.gpioAt := rfl
@[simp] theorem setByte_resp (a : Nat) (v : Byte) : (h.setByte a v).resp = h.resp := rfl
@[simp] theorem setByte_epochs (a : Nat) (v : Byte) : (h.setByte a v).epochs = h.epochs := rfl
@[simp] theorem setByte_waits (a : Nat) (v : Byte) : (h.setByte a v).waits = h.waits := rfl
@[simp] theorem setByte_fresh (a : Nat) (v : Byte) : (h.setByte a v).fresh = h.fresh := rfl

/-! ### setMark -/

@[simp] theorem setMark_dev (a v : Nat) : (h.setMark a v).dev = h.dev := rfl
@[simp] theorem setMark_ptp (a v : Nat) : (h.setMark a v).ptp = h.ptp := rfl
@[simp] theorem setMark_mem (a v : Nat) : (h.setMark a v).mem = h.mem := rfl
@[simp] theorem setMark_regs (a v : Nat) : (h.setMark a v).regs = h.regs := rfl
@[simp] theorem setMark_tabs (a v : Nat) : (h.setMark a v).tabs = h.tabs := rfl
@[simp] theorem setMark_step (a v : Nat) : (h.setMark a v).step = h.step := rfl
@[simp] theorem setMark_cores (a v : Nat) : (h.setMark a v).cores = h.cores := rfl
@[simp] theorem setMark_clusters (a v : Nat) : (h.setMark a v).clusters = h.clusters := rfl
@[simp] theorem setMark_eps (a v : Nat) : (h.setMark a v).eps = h.eps := rfl
@[simp] theorem setMark_links (a v : Nat) : (h.setMark a v).links = h.links := rfl
@[simp] theorem setMark_csis (a v : Nat) : (h.setMark a v).csis = h.csis := rfl
@[simp] theorem setMark_ings (a v : Nat) : (h.setMark a v).ings = h.ings := rfl
@[simp] theorem setMark_buses (a v : Nat) : (h.setMark a v).buses = h.buses := rfl
@[simp] theorem setMark_adcSlot (a v : Nat) : (h.setMark a v).adcSlot = h.adcSlot := rfl
@[simp] theorem setMark_adcAt (a v : Nat) : (h.setMark a v).adcAt = h.adcAt := rfl
@[simp] theorem setMark_lceLast (a v : Nat) : (h.setMark a v).lceLast = h.lceLast := rfl
@[simp] theorem setMark_tmrs (a v : Nat) : (h.setMark a v).tmrs = h.tmrs := rfl
@[simp] theorem setMark_acts (a v : Nat) : (h.setMark a v).acts = h.acts := rfl
@[simp] theorem setMark_injs (a v : Nat) : (h.setMark a v).injs = h.injs := rfl
@[simp] theorem setMark_dmas (a v : Nat) : (h.setMark a v).dmas = h.dmas := rfl
@[simp] theorem setMark_dmaTurn (a v : Nat) : (h.setMark a v).dmaTurn = h.dmaTurn := rfl
@[simp] theorem setMark_eths (a v : Nat) : (h.setMark a v).eths = h.eths := rfl
@[simp] theorem setMark_ddrs (a v : Nat) : (h.setMark a v).ddrs = h.ddrs := rfl
@[simp] theorem setMark_uaHold (a v : Nat) : (h.setMark a v).uaHold = h.uaHold := rfl
@[simp] theorem setMark_ptpPrev (a v : Nat) : (h.setMark a v).ptpPrev = h.ptpPrev := rfl
@[simp] theorem setMark_mpHalted (a v : Nat) : (h.setMark a v).mpHalted = h.mpHalted := rfl
@[simp] theorem setMark_pkg (a v : Nat) : (h.setMark a v).pkg = h.pkg := rfl
@[simp] theorem setMark_fw (a v : Nat) : (h.setMark a v).fw = h.fw := rfl
@[simp] theorem setMark_flt (a v : Nat) : (h.setMark a v).flt = h.flt := rfl
@[simp] theorem setMark_sw (a v : Nat) : (h.setMark a v).sw = h.sw := rfl
@[simp] theorem setMark_ctxs (a v : Nat) : (h.setMark a v).ctxs = h.ctxs := rfl
@[simp] theorem setMark_attWait (a v : Nat) : (h.setMark a v).attWait = h.attWait := rfl
@[simp] theorem setMark_attReport (a v : Nat) : (h.setMark a v).attReport = h.attReport := rfl
@[simp] theorem setMark_wire (a v : Nat) : (h.setMark a v).wire = h.wire := rfl
@[simp] theorem setMark_reports (a v : Nat) : (h.setMark a v).reports = h.reports := rfl
@[simp] theorem setMark_pulses (a v : Nat) : (h.setMark a v).pulses = h.pulses := rfl
@[simp] theorem setMark_gpioAt (a v : Nat) : (h.setMark a v).gpioAt = h.gpioAt := rfl
@[simp] theorem setMark_resp (a v : Nat) : (h.setMark a v).resp = h.resp := rfl
@[simp] theorem setMark_epochs (a v : Nat) : (h.setMark a v).epochs = h.epochs := rfl
@[simp] theorem setMark_waits (a v : Nat) : (h.setMark a v).waits = h.waits := rfl
@[simp] theorem setMark_fresh (a v : Nat) : (h.setMark a v).fresh = h.fresh := rfl

/-! ### setWord -/

@[simp] theorem setWord_dev (a : Nat) (v : Word) : (h.setWord a v).dev = h.dev := rfl
@[simp] theorem setWord_ptp (a : Nat) (v : Word) : (h.setWord a v).ptp = h.ptp := rfl
@[simp] theorem setWord_regs (a : Nat) (v : Word) : (h.setWord a v).regs = h.regs := rfl
@[simp] theorem setWord_tabs (a : Nat) (v : Word) : (h.setWord a v).tabs = h.tabs := rfl
@[simp] theorem setWord_step (a : Nat) (v : Word) : (h.setWord a v).step = h.step := rfl
@[simp] theorem setWord_cores (a : Nat) (v : Word) : (h.setWord a v).cores = h.cores := rfl
@[simp] theorem setWord_clusters (a : Nat) (v : Word) : (h.setWord a v).clusters = h.clusters := rfl
@[simp] theorem setWord_eps (a : Nat) (v : Word) : (h.setWord a v).eps = h.eps := rfl
@[simp] theorem setWord_links (a : Nat) (v : Word) : (h.setWord a v).links = h.links := rfl
@[simp] theorem setWord_csis (a : Nat) (v : Word) : (h.setWord a v).csis = h.csis := rfl
@[simp] theorem setWord_ings (a : Nat) (v : Word) : (h.setWord a v).ings = h.ings := rfl
@[simp] theorem setWord_buses (a : Nat) (v : Word) : (h.setWord a v).buses = h.buses := rfl
@[simp] theorem setWord_adcSlot (a : Nat) (v : Word) : (h.setWord a v).adcSlot = h.adcSlot := rfl
@[simp] theorem setWord_adcAt (a : Nat) (v : Word) : (h.setWord a v).adcAt = h.adcAt := rfl
@[simp] theorem setWord_lceLast (a : Nat) (v : Word) : (h.setWord a v).lceLast = h.lceLast := rfl
@[simp] theorem setWord_tmrs (a : Nat) (v : Word) : (h.setWord a v).tmrs = h.tmrs := rfl
@[simp] theorem setWord_acts (a : Nat) (v : Word) : (h.setWord a v).acts = h.acts := rfl
@[simp] theorem setWord_injs (a : Nat) (v : Word) : (h.setWord a v).injs = h.injs := rfl
@[simp] theorem setWord_dmas (a : Nat) (v : Word) : (h.setWord a v).dmas = h.dmas := rfl
@[simp] theorem setWord_dmaTurn (a : Nat) (v : Word) : (h.setWord a v).dmaTurn = h.dmaTurn := rfl
@[simp] theorem setWord_eths (a : Nat) (v : Word) : (h.setWord a v).eths = h.eths := rfl
@[simp] theorem setWord_ddrs (a : Nat) (v : Word) : (h.setWord a v).ddrs = h.ddrs := rfl
@[simp] theorem setWord_uaHold (a : Nat) (v : Word) : (h.setWord a v).uaHold = h.uaHold := rfl
@[simp] theorem setWord_ptpPrev (a : Nat) (v : Word) : (h.setWord a v).ptpPrev = h.ptpPrev := rfl
@[simp] theorem setWord_mpHalted (a : Nat) (v : Word) : (h.setWord a v).mpHalted = h.mpHalted := rfl
@[simp] theorem setWord_pkg (a : Nat) (v : Word) : (h.setWord a v).pkg = h.pkg := rfl
@[simp] theorem setWord_fw (a : Nat) (v : Word) : (h.setWord a v).fw = h.fw := rfl
@[simp] theorem setWord_flt (a : Nat) (v : Word) : (h.setWord a v).flt = h.flt := rfl
@[simp] theorem setWord_sw (a : Nat) (v : Word) : (h.setWord a v).sw = h.sw := rfl
@[simp] theorem setWord_ctxs (a : Nat) (v : Word) : (h.setWord a v).ctxs = h.ctxs := rfl
@[simp] theorem setWord_attWait (a : Nat) (v : Word) : (h.setWord a v).attWait = h.attWait := rfl
@[simp] theorem setWord_attReport (a : Nat) (v : Word) : (h.setWord a v).attReport = h.attReport := rfl
@[simp] theorem setWord_wire (a : Nat) (v : Word) : (h.setWord a v).wire = h.wire := rfl
@[simp] theorem setWord_reports (a : Nat) (v : Word) : (h.setWord a v).reports = h.reports := rfl
@[simp] theorem setWord_pulses (a : Nat) (v : Word) : (h.setWord a v).pulses = h.pulses := rfl
@[simp] theorem setWord_gpioAt (a : Nat) (v : Word) : (h.setWord a v).gpioAt = h.gpioAt := rfl
@[simp] theorem setWord_resp (a : Nat) (v : Word) : (h.setWord a v).resp = h.resp := rfl
@[simp] theorem setWord_epochs (a : Nat) (v : Word) : (h.setWord a v).epochs = h.epochs := rfl
@[simp] theorem setWord_waits (a : Nat) (v : Word) : (h.setWord a v).waits = h.waits := rfl
@[simp] theorem setWord_fresh (a : Nat) (v : Word) : (h.setWord a v).fresh = h.fresh := rfl

/-! ### zero -/

@[simp] theorem zero_dev (a n : Nat) : (h.zero a n).dev = h.dev := rfl
@[simp] theorem zero_ptp (a n : Nat) : (h.zero a n).ptp = h.ptp := rfl
@[simp] theorem zero_regs (a n : Nat) : (h.zero a n).regs = h.regs := rfl
@[simp] theorem zero_tabs (a n : Nat) : (h.zero a n).tabs = h.tabs := rfl
@[simp] theorem zero_step (a n : Nat) : (h.zero a n).step = h.step := rfl
@[simp] theorem zero_cores (a n : Nat) : (h.zero a n).cores = h.cores := rfl
@[simp] theorem zero_clusters (a n : Nat) : (h.zero a n).clusters = h.clusters := rfl
@[simp] theorem zero_eps (a n : Nat) : (h.zero a n).eps = h.eps := rfl
@[simp] theorem zero_links (a n : Nat) : (h.zero a n).links = h.links := rfl
@[simp] theorem zero_csis (a n : Nat) : (h.zero a n).csis = h.csis := rfl
@[simp] theorem zero_ings (a n : Nat) : (h.zero a n).ings = h.ings := rfl
@[simp] theorem zero_buses (a n : Nat) : (h.zero a n).buses = h.buses := rfl
@[simp] theorem zero_adcSlot (a n : Nat) : (h.zero a n).adcSlot = h.adcSlot := rfl
@[simp] theorem zero_adcAt (a n : Nat) : (h.zero a n).adcAt = h.adcAt := rfl
@[simp] theorem zero_lceLast (a n : Nat) : (h.zero a n).lceLast = h.lceLast := rfl
@[simp] theorem zero_tmrs (a n : Nat) : (h.zero a n).tmrs = h.tmrs := rfl
@[simp] theorem zero_acts (a n : Nat) : (h.zero a n).acts = h.acts := rfl
@[simp] theorem zero_injs (a n : Nat) : (h.zero a n).injs = h.injs := rfl
@[simp] theorem zero_dmas (a n : Nat) : (h.zero a n).dmas = h.dmas := rfl
@[simp] theorem zero_dmaTurn (a n : Nat) : (h.zero a n).dmaTurn = h.dmaTurn := rfl
@[simp] theorem zero_eths (a n : Nat) : (h.zero a n).eths = h.eths := rfl
@[simp] theorem zero_ddrs (a n : Nat) : (h.zero a n).ddrs = h.ddrs := rfl
@[simp] theorem zero_uaHold (a n : Nat) : (h.zero a n).uaHold = h.uaHold := rfl
@[simp] theorem zero_ptpPrev (a n : Nat) : (h.zero a n).ptpPrev = h.ptpPrev := rfl
@[simp] theorem zero_mpHalted (a n : Nat) : (h.zero a n).mpHalted = h.mpHalted := rfl
@[simp] theorem zero_pkg (a n : Nat) : (h.zero a n).pkg = h.pkg := rfl
@[simp] theorem zero_fw (a n : Nat) : (h.zero a n).fw = h.fw := rfl
@[simp] theorem zero_flt (a n : Nat) : (h.zero a n).flt = h.flt := rfl
@[simp] theorem zero_sw (a n : Nat) : (h.zero a n).sw = h.sw := rfl
@[simp] theorem zero_ctxs (a n : Nat) : (h.zero a n).ctxs = h.ctxs := rfl
@[simp] theorem zero_attWait (a n : Nat) : (h.zero a n).attWait = h.attWait := rfl
@[simp] theorem zero_attReport (a n : Nat) : (h.zero a n).attReport = h.attReport := rfl
@[simp] theorem zero_wire (a n : Nat) : (h.zero a n).wire = h.wire := rfl
@[simp] theorem zero_reports (a n : Nat) : (h.zero a n).reports = h.reports := rfl
@[simp] theorem zero_pulses (a n : Nat) : (h.zero a n).pulses = h.pulses := rfl
@[simp] theorem zero_gpioAt (a n : Nat) : (h.zero a n).gpioAt = h.gpioAt := rfl
@[simp] theorem zero_resp (a n : Nat) : (h.zero a n).resp = h.resp := rfl
@[simp] theorem zero_epochs (a n : Nat) : (h.zero a n).epochs = h.epochs := rfl
@[simp] theorem zero_waits (a n : Nat) : (h.zero a n).waits = h.waits := rfl
@[simp] theorem zero_fresh (a n : Nat) : (h.zero a n).fresh = h.fresh := rfl

/-! ### copy -/

@[simp] theorem copy_dev (a b n : Nat) : (h.copy a b n).dev = h.dev := rfl
@[simp] theorem copy_ptp (a b n : Nat) : (h.copy a b n).ptp = h.ptp := rfl
@[simp] theorem copy_regs (a b n : Nat) : (h.copy a b n).regs = h.regs := rfl
@[simp] theorem copy_tabs (a b n : Nat) : (h.copy a b n).tabs = h.tabs := rfl
@[simp] theorem copy_step (a b n : Nat) : (h.copy a b n).step = h.step := rfl
@[simp] theorem copy_cores (a b n : Nat) : (h.copy a b n).cores = h.cores := rfl
@[simp] theorem copy_clusters (a b n : Nat) : (h.copy a b n).clusters = h.clusters := rfl
@[simp] theorem copy_eps (a b n : Nat) : (h.copy a b n).eps = h.eps := rfl
@[simp] theorem copy_links (a b n : Nat) : (h.copy a b n).links = h.links := rfl
@[simp] theorem copy_csis (a b n : Nat) : (h.copy a b n).csis = h.csis := rfl
@[simp] theorem copy_ings (a b n : Nat) : (h.copy a b n).ings = h.ings := rfl
@[simp] theorem copy_buses (a b n : Nat) : (h.copy a b n).buses = h.buses := rfl
@[simp] theorem copy_adcSlot (a b n : Nat) : (h.copy a b n).adcSlot = h.adcSlot := rfl
@[simp] theorem copy_adcAt (a b n : Nat) : (h.copy a b n).adcAt = h.adcAt := rfl
@[simp] theorem copy_lceLast (a b n : Nat) : (h.copy a b n).lceLast = h.lceLast := rfl
@[simp] theorem copy_tmrs (a b n : Nat) : (h.copy a b n).tmrs = h.tmrs := rfl
@[simp] theorem copy_acts (a b n : Nat) : (h.copy a b n).acts = h.acts := rfl
@[simp] theorem copy_injs (a b n : Nat) : (h.copy a b n).injs = h.injs := rfl
@[simp] theorem copy_dmas (a b n : Nat) : (h.copy a b n).dmas = h.dmas := rfl
@[simp] theorem copy_dmaTurn (a b n : Nat) : (h.copy a b n).dmaTurn = h.dmaTurn := rfl
@[simp] theorem copy_eths (a b n : Nat) : (h.copy a b n).eths = h.eths := rfl
@[simp] theorem copy_ddrs (a b n : Nat) : (h.copy a b n).ddrs = h.ddrs := rfl
@[simp] theorem copy_uaHold (a b n : Nat) : (h.copy a b n).uaHold = h.uaHold := rfl
@[simp] theorem copy_ptpPrev (a b n : Nat) : (h.copy a b n).ptpPrev = h.ptpPrev := rfl
@[simp] theorem copy_mpHalted (a b n : Nat) : (h.copy a b n).mpHalted = h.mpHalted := rfl
@[simp] theorem copy_pkg (a b n : Nat) : (h.copy a b n).pkg = h.pkg := rfl
@[simp] theorem copy_fw (a b n : Nat) : (h.copy a b n).fw = h.fw := rfl
@[simp] theorem copy_flt (a b n : Nat) : (h.copy a b n).flt = h.flt := rfl
@[simp] theorem copy_sw (a b n : Nat) : (h.copy a b n).sw = h.sw := rfl
@[simp] theorem copy_ctxs (a b n : Nat) : (h.copy a b n).ctxs = h.ctxs := rfl
@[simp] theorem copy_attWait (a b n : Nat) : (h.copy a b n).attWait = h.attWait := rfl
@[simp] theorem copy_attReport (a b n : Nat) : (h.copy a b n).attReport = h.attReport := rfl
@[simp] theorem copy_wire (a b n : Nat) : (h.copy a b n).wire = h.wire := rfl
@[simp] theorem copy_reports (a b n : Nat) : (h.copy a b n).reports = h.reports := rfl
@[simp] theorem copy_pulses (a b n : Nat) : (h.copy a b n).pulses = h.pulses := rfl
@[simp] theorem copy_gpioAt (a b n : Nat) : (h.copy a b n).gpioAt = h.gpioAt := rfl
@[simp] theorem copy_resp (a b n : Nat) : (h.copy a b n).resp = h.resp := rfl
@[simp] theorem copy_epochs (a b n : Nat) : (h.copy a b n).epochs = h.epochs := rfl
@[simp] theorem copy_waits (a b n : Nat) : (h.copy a b n).waits = h.waits := rfl
@[simp] theorem copy_fresh (a b n : Nat) : (h.copy a b n).fresh = h.fresh := rfl

end Sys2Proof.Machine
end

