-- ==== Sys2Proof/Laws/Tbl.lean ====
section
/-! SUPPORT. Laws of keyed lists: what reading gives after writing, and that writing and filtering keep the canonical form. -/

namespace Sys2Proof.Machine

variable {ν : Type}

theorem Tbl.find_put (t : Tbl ν) (k j : Nat) (v : ν) : Tbl.find (Tbl.put t k v) j = if k = j then some v else Tbl.find t j := by
  induction t with
  | nil => simp [Tbl.put, Tbl.find]
  | cons p r ih =>
    obtain ⟨i, w⟩ := p
    simp only [Tbl.put]
    split
    · simp [Tbl.find]
    · split
      · rename_i hij; subst hij; simp [Tbl.find]; split <;> rfl
      · rename_i h1 h2
        simp only [Tbl.find, ih]
        by_cases h3 : i = j
        · subst h3; simp [Ne.symm h2]
        · simp [h3]

theorem Tbl.find_del (t : Tbl ν) (k j : Nat) : Tbl.find (Tbl.del t k) j = if k = j then none else Tbl.find t j := by
  induction t with
  | nil => simp [Tbl.del, Tbl.find]
  | cons p r ih =>
    obtain ⟨i, w⟩ := p
    simp only [Tbl.del] at ih ⊢
    by_cases h1 : i = k
    · subst h1; simp only [List.filter, bne_self_eq_false, ih, Tbl.find]; split <;> simp_all
    · have : (i != k) = true := by simpa using h1
      simp only [List.filter, this, Tbl.find, ih]
      by_cases h2 : i = j
      · subst h2; simp [Ne.symm h1]
      · simp [h2]

variable [DecidableEq ν]

@[simp] theorem Tbl.get_set_same (d : ν) (t : Tbl ν) (k : Nat) (v : ν) : Tbl.get d (Tbl.set d t k v) k = v := by
  unfold Tbl.get Tbl.set
  split
  · simp [Tbl.find_del, *]
  · simp [Tbl.find_put]

theorem Tbl.get_set_ne (d : ν) (t : Tbl ν) (k j : Nat) (v : ν) (hk : k ≠ j) : Tbl.get d (Tbl.set d t k v) j = Tbl.get d t j := by
  unfold Tbl.get Tbl.set
  split
  · simp [Tbl.find_del, hk]
  · simp [Tbl.find_put, hk]

theorem Tbl.get_set (d : ν) (t : Tbl ν) (k j : Nat) (v : ν) : Tbl.get d (Tbl.set d t k v) j = if k = j then v else Tbl.get d t j := by
  split
  · subst_vars; simp
  · exact Tbl.get_set_ne d t k j v ‹_›

omit [DecidableEq ν] in
theorem Tbl.sorted_iff (t : Tbl ν) : Tbl.sorted t = true ↔ t.Pairwise (fun p q => p.1 < q.1) := by
  induction t with
  | nil => simp [Tbl.sorted]
  | cons p r ih =>
    cases r with
    | nil => simp [Tbl.sorted]
    | cons q r =>
      simp only [Tbl.sorted, Bool.and_eq_true, decide_eq_true_eq, ih]
      constructor
      · intro ⟨h1, h2⟩
        refine List.pairwise_cons.2 ⟨?_, h2⟩
        intro x hx
        rcases List.mem_cons.1 hx with rfl | hx
        · exact h1
        · exact lt_trans h1 ((List.pairwise_cons.1 h2).1 x hx)
      · intro h
        exact ⟨(List.pairwise_cons.1 h).1 q (by simp), (List.pairwise_cons.1 h).2⟩

theorem Tbl.wf_iff (d : ν) (t : Tbl ν) : Tbl.wf d t = true ↔ t.Pairwise (fun p q => p.1 < q.1) ∧ ∀ p ∈ t, p.2 ≠ d := by
  simp [Tbl.wf, Tbl.sorted_iff]

/-- Filtering keeps the canonical form. -/
theorem Tbl.wf_filter (d : ν) (t : Tbl ν) (f : Nat × ν → Bool) (ht : Tbl.wf d t = true) : Tbl.wf d (t.filter f) = true := by
  rw [Tbl.wf_iff] at ht ⊢
  exact ⟨ht.1.sublist List.filter_sublist, fun p hp => ht.2 p (List.mem_filter.1 hp).1⟩

omit [DecidableEq ν] in
theorem Tbl.mem_put (t : Tbl ν) (k : Nat) (v : ν) (p : Nat × ν) (hp : p ∈ Tbl.put t k v) : p = (k, v) ∨ p ∈ t := by
  induction t with
  | nil => simp [Tbl.put] at hp; exact .inl hp
  | cons q r ih =>
    obtain ⟨i, w⟩ := q
    simp only [Tbl.put] at hp
    split at hp
    · rcases List.mem_cons.1 hp with h | h
      · exact .inl h
      · exact .inr h
    · split at hp
      · rcases List.mem_cons.1 hp with h | h
        · exact .inl h
        · exact .inr (List.mem_cons_of_mem _ h)
      · rcases List.mem_cons.1 hp with h | h
        · exact .inr (h ▸ List.mem_cons_self)
        · rcases ih h with h | h
          · exact .inl h
          · exact .inr (List.mem_cons_of_mem _ h)

omit [DecidableEq ν] in
theorem Tbl.pairwise_put (t : Tbl ν) (k : Nat) (v : ν) (ht : t.Pairwise fun p q => p.1 < q.1) :
    (Tbl.put t k v).Pairwise fun p q => p.1 < q.1 := by
  induction t with
  | nil => simp [Tbl.put]
  | cons q r ih =>
    obtain ⟨i, w⟩ := q
    have hr := List.pairwise_cons.1 ht
    simp only [Tbl.put]
    split
    · rename_i h1
      refine List.pairwise_cons.2 ⟨?_, ht⟩
      intro x hx
      rcases List.mem_cons.1 hx with rfl | hx
      · exact h1
      · exact lt_trans h1 (hr.1 x hx)
    · split
      · rename_i h1; subst h1; exact List.pairwise_cons.2 ⟨hr.1, hr.2⟩
      · refine List.pairwise_cons.2 ⟨?_, ih hr.2⟩
        intro x hx
        rcases Tbl.mem_put r k v x hx with rfl | hx
        · simp only; omega
        · exact hr.1 x hx

/-- Writing keeps the canonical form. -/
theorem Tbl.wf_set (d : ν) (t : Tbl ν) (k : Nat) (v : ν) (ht : Tbl.wf d t = true) : Tbl.wf d (Tbl.set d t k v) = true := by
  unfold Tbl.set
  split
  · exact Tbl.wf_filter d t _ ht
  · rename_i hv
    rw [Tbl.wf_iff] at ht ⊢
    refine ⟨Tbl.pairwise_put t k v ht.1, fun p hp => ?_⟩
    rcases Tbl.mem_put t k v p hp with rfl | hp
    · exact hv
    · exact ht.2 p hp

theorem Tbl.wf_foldl (d : ν) {α : Type} (l : List α) (f : Tbl ν → α → Tbl ν) (hf : ∀ t a, Tbl.wf d t = true → Tbl.wf d (f t a) = true) (t : Tbl ν)
    (ht : Tbl.wf d t = true) : Tbl.wf d (l.foldl f t) = true := by
  induction l generalizing t with
  | nil => exact ht
  | cons a r ih => exact ih _ (hf t a ht)

end Sys2Proof.Machine
end

