-- ==== Sys2Proof/Laws/Reg.lean ====
section
/-! SUPPORT. Laws of registers, tables and units: what reading gives after writing (19 R507, R528). -/

namespace Sys2Proof.Machine

/-! ### Registers -/

theorem rk_inj (r r' : Rg) (u u' : Nat) : rk r u = rk r' u' ↔ r = r' ∧ u = u' := by
  obtain ⟨p, o⟩ := r
  obtain ⟨p', o'⟩ := r'
  simp only [rk, Nat.pair_eq_pair, Rg.mk.injEq]
  constructor
  · rintro ⟨rfl, rfl, rfl⟩; exact ⟨⟨rfl, rfl⟩, rfl⟩
  · rintro ⟨⟨rfl, rfl⟩, rfl⟩; exact ⟨rfl, rfl, rfl⟩

/-- Reading any register after one has been written. -/
theorem reg_setReg (h : Hw) (r r' : Rg) (u u' : Nat) (v : Word) : (h.setReg r u v).reg r' u' = if r = r' ∧ u = u' then v else h.reg r' u' := by
  unfold Hw.reg Hw.setReg
  by_cases hr : r = r' ∧ u = u'
  · obtain ⟨rfl, rfl⟩ := hr
    simp only [and_self, if_true]
    split
    · rename_i hv; simp [Tbl.find_del, hv]
    · simp [Tbl.find_put]
  · have hk : rk r u ≠ rk r' u' := fun h' => hr ((rk_inj r r' u u').1 h')
    simp only [hr, if_false]
    split
    · simp [Tbl.find_del, hk]
    · simp [Tbl.find_put, hk]

@[simp] theorem reg_setReg_same (h : Hw) (r : Rg) (u : Nat) (v : Word) : (h.setReg r u v).reg r u = v := by simp [reg_setReg]

theorem reg_setReg_ne (h : Hw) (r r' : Rg) (u u' : Nat) (v : Word) (hr : ¬ (r = r' ∧ u = u')) : (h.setReg r u v).reg r' u' = h.reg r' u' := by
  simp [reg_setReg, hr]

@[simp] theorem reg_inc_same (h : Hw) (r : Rg) (u n : Nat) : (h.inc r u n).reg r u = satAdd32 (h.reg r u) n := by simp [Hw.inc]

theorem reg_inc_ne (h : Hw) (r r' : Rg) (u u' n : Nat) (hr : ¬ (r = r' ∧ u = u')) : (h.inc r u n).reg r' u' = h.reg r' u' := by
  simp [Hw.inc, reg_setReg, hr]

@[simp] theorem reg_setFld_same (h : Hw) (r : Rg) (u hi lo v : Nat) : (h.setFld r u hi lo v).reg r u = setBits (h.reg r u) hi lo v := by
  simp [Hw.setFld]

theorem reg_setFld_ne (h : Hw) (r r' : Rg) (u u' hi lo v : Nat) (hr : ¬ (r = r' ∧ u = u')) : (h.setFld r u hi lo v).reg r' u' = h.reg r' u' := by
  simp [Hw.setFld, reg_setReg, hr]

/-- A register reads as stored in a block whose registers are the same. -/
theorem reg_of_regs (h h' : Hw) (r : Rg) (u : Nat) (e : h'.regs = h.regs) : h'.reg r u = h.reg r u := by simp [Hw.reg, e]

/-- The bits of a field after it has been written. -/
theorem bits_setBits (w : Word) (hi lo v : Nat) (hh : hi < 32) (hl : lo ≤ hi) : bits (setBits w hi lo v) hi lo = v % 2 ^ (hi + 1 - lo) := by
  have e : (setBits w hi lo v).toNat >>> lo % 2 ^ (hi + 1 - lo) = v % 2 ^ (hi + 1 - lo) := by
    apply Nat.eq_of_testBit_eq
    intro i
    simp only [Nat.testBit_mod_two_pow, Nat.testBit_shiftRight, BitVec.testBit_toNat, setBits, fldMask, w32, BitVec.getLsbD_or, BitVec.getLsbD_and,
      BitVec.getLsbD_not, BitVec.getLsbD_ofNat, Nat.testBit_shiftLeft, Nat.testBit_two_pow_sub_one]
    by_cases hi' : i < hi + 1 - lo
    · have h1 : lo + i < 32 := by omega
      simp [hi', h1]
    · simp [hi']
  exact e

@[simp] theorem setBits_self (w : Word) (hi lo : Nat) : setBits (setBits w hi lo 0) hi lo 0 = setBits w hi lo 0 := by
  simp only [setBits]
  ext i
  simp [fldMask, w32]

/-! ### Tables and units -/

theorem tk_inj (t t' : Tab) (u u' i i' : Nat) : tk t u i = tk t' u' i' ↔ t = t' ∧ u = u' ∧ i = i' := by
  simp only [tk, Nat.pair_eq_pair]
  constructor
  · rintro ⟨h1, h2, h3⟩
    refine ⟨?_, h2, h3⟩
    cases t <;> cases t' <;> first | rfl | simp [Tab.code] at h1
  · rintro ⟨rfl, rfl, rfl⟩; exact ⟨rfl, rfl, rfl⟩

theorem tab_setTab (h : Hw) (t t' : Tab) (u u' i i' : Nat) (v : Word) :
    (h.setTab t u i v).tab t' u' i' = if t = t' ∧ u = u' ∧ i = i' then v else h.tab t' u' i' := by
  simp [Hw.tab, Hw.setTab, Tbl.get_set, tk_inj]

@[simp] theorem core_setCore (h : Hw) (k j : Nat) (c : CoreSt) : (h.setCore k c).core j = if k = j then c else h.core j := by
  simp [Hw.core, Hw.setCore, Tbl.get_set]

@[simp] theorem cl_setCl (h : Hw) (k j : Nat) (c : ClusterSt) : (h.setCl k c).cl j = if k = j then c else h.cl j := by
  simp [Hw.cl, Hw.setCl, Tbl.get_set]

@[simp] theorem ep_setEp (h : Hw) (k j : Nat) (c : EpSt) : (h.setEp k c).ep j = if k = j then c else h.ep j := by
  simp [Hw.ep, Hw.setEp, Tbl.get_set]

@[simp] theorem core_updCore (h : Hw) (k j : Nat) (f : CoreSt → CoreSt) : (h.updCore k f).core j = if k = j then f (h.core k) else h.core j := by
  simp [Hw.updCore]

@[simp] theorem cl_updCl (h : Hw) (k j : Nat) (f : ClusterSt → ClusterSt) : (h.updCl k f).cl j = if k = j then f (h.cl k) else h.cl j := by
  simp [Hw.updCl]

/-! ### Where a meaning acts -/

@[simp] theorem onHw_pending (s t : State) (f : Hw → Hw) (e : s.onHw f = .next t) : t.pending = s.pending := by
  simp only [State.onHw, Host.Outcome.next.injEq] at e
  subst e; rfl

theorem onHw_powered (s : State) (f : Hw → Hw) (hp : s.hw.powered = true) : s.onHw f = .next { s with hw := f s.hw } := by simp [State.onHw, hp]

theorem onPort_powered (s : State) (q : Nat) (f : Hw → Hw) (hp : s.hw.powered = true) : s.onPort q f = .next { s with hw := f s.hw } := by
  simp [State.onPort, hp]

theorem onHw_off (s : State) (f : Hw → Hw) (hp : s.hw.powered = false) : s.onHw f = .next s := by
  cases s; simp_all [State.onHw]

end Sys2Proof.Machine
end

