-- ==== Sys2Proof/Laws/Mem.lean ====
section
/-! SUPPORT. Laws of memory: what a byte reads as after each operation, and that every operation keeps the canonical form (12 R336). -/

namespace Sys2Proof.Machine

/-! ### Reading after writing -/

theorem byte_setByte (h : Hw) (a x : Nat) (v : Byte) : (h.setByte a v).byte x = if a = x then v else h.byte x := by
  simp [Hw.byte, Hw.setByte, Tbl.get_set]

/-- A byte outside a written word reads as before. -/
theorem byte_setWord_ne (h : Hw) (a x : Nat) (v : Word) (hx : x < a ∨ a + 4 ≤ x) : (h.setWord a v).byte x = h.byte x := by
  simp only [Hw.byte, Hw.setWord, Tbl.get_set]
  repeat rw [if_neg (by omega)]

theorem byte_setWord_same (h : Hw) (a i : Nat) (v : Word) (hi : i < 4) : (h.setWord a v).byte (a + i) = (v >>> (8 * i)).setWidth 8 := by
  simp only [Hw.byte, Hw.setWord, Tbl.get_set]
  have : i = 0 ∨ i = 1 ∨ i = 2 ∨ i = 3 := by omega
  rcases this with rfl | rfl | rfl | rfl <;> simp

/-- A word reads as it was written. -/
theorem word_setWord_same (h : Hw) (a : Nat) (v : Word) : (h.setWord a v).word a = v := by
  have h0 := byte_setWord_same h a 0 v (by omega)
  have h1 := byte_setWord_same h a 1 v (by omega)
  have h2 := byte_setWord_same h a 2 v (by omega)
  have h3 := byte_setWord_same h a 3 v (by omega)
  simp only [Nat.add_zero] at h0
  simp only [Hw.word, h0, h1, h2, h3, bytesWord]
  ext i hi
  simp only [BitVec.getElem_append, BitVec.getElem_setWidth, BitVec.getLsbD_ushiftRight]
  have hb : v.getLsbD i = v[i] := by rw [BitVec.getLsbD_eq_getElem]
  split
  · rename_i h4; rw [← hb]; congr 1; all_goals omega
  · split
    · rename_i h4 h5; rw [← hb]; congr 1; all_goals omega
    · split
      · rename_i h4 h5 h6; rw [← hb]; congr 1; all_goals omega
      · rename_i h4 h5 h6; rw [← hb]; congr 1; all_goals omega

/-! ### The canonical form -/

theorem Memory.wf_setByte (h : Hw) (a : Nat) (v : Byte) (hm : Memory.wf h.mem = true) : Memory.wf (h.setByte a v).mem = true := Tbl.wf_set _ _ _ _ hm

theorem Memory.wf_setWord (h : Hw) (a : Nat) (v : Word) (hm : Memory.wf h.mem = true) : Memory.wf (h.setWord a v).mem = true :=
  Tbl.wf_set _ _ _ _ (Tbl.wf_set _ _ _ _ (Tbl.wf_set _ _ _ _ (Tbl.wf_set _ _ _ _ hm)))

theorem Memory.wf_setWords (h : Hw) (a : Nat) (l : List Word) (hm : Memory.wf h.mem = true) : Memory.wf (h.setWords a l).mem = true := by
  induction l generalizing h a with
  | nil => exact hm
  | cons v r ih => exact ih _ _ (Memory.wf_setWord h a v hm)

theorem Memory.wf_setBytes (h : Hw) (a : Nat) (l : List Byte) (hm : Memory.wf h.mem = true) : Memory.wf (h.setBytes a l).mem = true := by
  induction l generalizing h a with
  | nil => exact hm
  | cons v r ih => exact ih _ _ (Memory.wf_setByte h a v hm)

theorem Memory.wf_zero (h : Hw) (a n : Nat) (hm : Memory.wf h.mem = true) : Memory.wf (h.zero a n).mem = true := Tbl.wf_filter _ _ _ hm

theorem Memory.wf_copy (h : Hw) (a b n : Nat) (hm : Memory.wf h.mem = true) : Memory.wf (h.copy a b n).mem = true :=
  Tbl.wf_foldl _ _ _ (fun t _ ht => Tbl.wf_set _ t _ _ ht) _ (Tbl.wf_filter _ _ _ hm)

/-- Reset's memory lists nothing. -/
theorem Memory.wf_reset : Memory.wf State.reset.hw.mem = true := rfl

end Sys2Proof.Machine
end

