-- ==== Sys2Proof/Laws/Access.lean ====
section
/-! SUPPORT. Laws of management accesses and windows: what an access that is granted does, and how a window's address advances
(19 R526, R528). -/

namespace Sys2Proof.Machine

/-! ### The block after -/

theorem Hw.Now.intro (h g : Hw) (e : g.regs = h.regs) : h.Now g [] g := ⟨rfl, fun r u => by simp [Hw.reg, e]⟩

/-- A register written next: the word it holds now comes first. -/
theorem Hw.Now.set {h g t : Hw} {l : List ((Rg × Nat) × Word)} (n : h.Now g l t) (r : Rg) (u : Nat) (v : Word) :
    h.Now g (((r, u), v) :: l) (t.setReg r u v) := by
  refine ⟨n.1, fun r' u' => ?_⟩
  rw [reg_setReg, List.lookup_cons]
  by_cases hr : r = r' ∧ u = u'
  · obtain ⟨rfl, rfl⟩ := hr; simp
  · have : ((r', u') == (r, u)) = false := by
      rw [beq_eq_false_iff_ne]; rintro ⟨rfl, rfl⟩; exact hr ⟨rfl, rfl⟩
    simp [this, hr, n.2]

/-- The words after one register has been written. -/
theorem Hw.Now.one (h g : Hw) (e : g.regs = h.regs) (r : Rg) (u : Nat) (v : Word) : h.Now g [((r, u), v)] (g.setReg r u v) := (Hw.Now.intro h g e).set r u v

/-- The same words listed twice for one register: the later one does not count. -/
theorem Hw.Now.drop {h g t : Hw} {r : Rg} {u : Nat} {v w : Word} {l : List ((Rg × Nat) × Word)} (n : h.Now g (((r, u), v) :: ((r, u), w) :: l) t) :
    h.Now g (((r, u), v) :: l) t := by
  refine ⟨n.1, fun r' u' => ?_⟩
  rw [n.2, List.lookup_cons, List.lookup_cons, List.lookup_cons]
  by_cases hr : ((r', u') == (r, u)) = true <;> simp [hr]

/-- The answer of an access changes nothing but itself. -/
theorem Hw.Now.told {h g t : Hw} {l : List ((Rg × Nat) × Word)} (n : h.Now g l t) (v : Word) : h.Now (g.told v) l (t.told v) := by
  refine ⟨?_, n.2⟩
  have e : ({ ({ t with regs := h.regs } : Hw) with resp := { value := v } } : Hw) = { ({ g with regs := h.regs } : Hw) with resp := { value := v } } := by
    rw [n.1]
  exact e

/-! ### Accesses -/

/-- A granted access is performed on the block as it is. -/
theorem guarded_granted {s : State} {who : Requester} {r : Rg} {u : Nat} {wr : Bool} (hg : s.Grants who r u wr) (act : Hw → Loc → Hw × Word) :
    ∃ l, l.page = r.page ∧ l.unit = u ∧ l.off = r.off ∧ s.hw.guarded who (addrOf r u) wr act = (act s.hw l).1.told (act s.hw l).2 := by
  obtain ⟨-, l, hl, h1, h2, h3, hr, hu⟩ := hg
  exact ⟨l, h1, h2, h3, by simp [Hw.guarded, hl, hr, hu, Hw.told]⟩

theorem mgmt_powered (s : State) (who : Requester) (f : Hw → Hw) (hp : s.hw.powered = true) : s.mgmt who f = .next { s with hw := f s.hw } := by
  simp [State.mgmt, hp]

/-- A granted write of a register by name. -/
theorem put_granted {s : State} {who : Requester} {r : Rg} {u : Nat} (hg : s.Grants who r u true) (v : Word) :
    s.put who r u v = .next { s with hw := (s.hw.regWrite who r.page u r.off v).told 0#32 } := by
  obtain ⟨l, h1, h2, h3, e⟩ := guarded_granted hg fun h l => (h.regWrite who l.page l.unit l.off v, 0#32)
  rw [State.put, mgmt_powered _ _ _ hg.1, Hw.mgmtWrite, e, h1, h2, h3]

/-- A granted read of a register by name. -/
theorem look_granted {s : State} {who : Requester} {r : Rg} {u : Nat} (hg : s.Grants who r u false) :
    s.look who r u = .next { s with hw := (s.hw.regRead who r.page u r.off false).1.told (s.hw.regRead who r.page u r.off false).2 } := by
  obtain ⟨l, h1, h2, h3, e⟩ := guarded_granted hg fun h l => h.regRead who l.page l.unit l.off false
  rw [State.look, mgmt_powered _ _ _ hg.1, Hw.mgmtRead, e, h1, h2, h3]

/-- What a command answers when it is one granted write. -/
theorem answers_put {i : Instr} {s : State} {who : Requester} {r : Rg} {u : Nat} {v : Word} {P : Hw → Prop} (hi : exec i s = s.put who r u v)
    (hg : s.Grants who r u true) (h : P ((s.hw.regWrite who r.page u r.off v).told 0#32)) : Answers i s P :=
  ⟨_, hi.trans (put_granted hg v), rfl, h⟩

/-- What a command answers when it is one granted read. -/
theorem answers_look {i : Instr} {s : State} {who : Requester} {r : Rg} {u : Nat} {P : Hw → Prop} (hi : exec i s = s.look who r u)
    (hg : s.Grants who r u false) (h : P ((s.hw.regRead who r.page u r.off false).1.told (s.hw.regRead who r.page u r.off false).2)) :
    Answers i s P :=
  ⟨_, hi.trans (look_granted hg), rfl, h⟩

/-- What a command answers when it is one management access and the package has power. -/
theorem answers_mgmt {i : Instr} {s : State} {who : Requester} {f : Hw → Hw} {P : Hw → Prop} (hi : exec i s = s.mgmt who f)
    (hp : s.hw.powered = true) (h : P (f s.hw)) : Answers i s P :=
  ⟨_, hi.trans (mgmt_powered s who f hp), rfl, h⟩

/-- What a command of the clocked domain answers when the package has power. -/
theorem answers_onHw {i : Instr} {s : State} {f : Hw → Hw} {P : Hw → Prop} (hi : exec i s = s.onHw f) (hp : s.hw.powered = true)
    (h : P (f s.hw)) : Answers i s P :=
  ⟨_, hi.trans (onHw_powered s f hp), rfl, h⟩

/-- What an event of the always-on domain or of the pins answers. -/
theorem answers_onAo {i : Instr} {s : State} {f : Hw → Hw} {P : Hw → Prop} (hi : exec i s = s.onAo f) (h : P (f s.hw)) : Answers i s P :=
  ⟨_, hi, rfl, h⟩

/-- What a command of a port answers when the package has power. -/
theorem answers_onPort {i : Instr} {s : State} {q : Nat} {f : Hw → Hw} {P : Hw → Prop} (hi : exec i s = s.onPort q f)
    (hp : s.hw.powered = true) (h : P (f s.hw)) : Answers i s P :=
  ⟨_, hi.trans (onPort_powered s q f hp), rfl, h⟩

/-- Without power a command of the clocked domain leaves the state as it is. -/
theorem ignored_onHw {i : Instr} {s : State} {f : Hw → Hw} (hi : exec i s = s.onHw f) (hp : s.hw.powered = false) : Ignored i s :=
  hi.trans (onHw_off s f hp)

/-! ### A block in reset -/

theorem powered_of_inReset {s : State} (h : s.InReset) : s.hw.powered = false := by simp [Hw.powered, h.1]

theorem kept_of_inReset {s : State} (h : s.InReset) (q : Nat) : s.hw.kept q = false := by simp [Hw.kept, h.1]

/-- In reset, no management access, no command of the clocked domain and no command of a port changes anything. -/
theorem mgmt_of_inReset {s : State} (h : s.InReset) (who : Requester) (f : Hw → Hw) : s.mgmt who f = .next s := by
  unfold State.mgmt
  rw [powered_of_inReset h]
  cases who <;> simp [kept_of_inReset h]

theorem onHw_of_inReset {s : State} (h : s.InReset) (f : Hw → Hw) : s.onHw f = .next s := by simp [State.onHw, powered_of_inReset h]

theorem onPort_of_inReset {s : State} (h : s.InReset) (q : Nat) (f : Hw → Hw) : s.onPort q f = .next s := by
  simp [State.onPort, powered_of_inReset h, kept_of_inReset h]

/-! ### Windows -/

/-- A window's address after an access, where the field does not carry. -/
theorem now_winNext {h g t : Hw} {l : List ((Rg × Nat) × Word)} (n : h.Now g l t) (r : Rg) (u hi lo last : Nat) (e : t.reg r u = h.reg r u) :
    h.Now g (((r, u), nextField (h.reg r u) hi lo last) :: l) (t.winNext r u hi lo last none) := by
  have := n.set r u (nextField (h.reg r u) hi lo last)
  simp only [Hw.winNext, nextField, nextVal, Hw.fld, Hw.setFld, e] at this ⊢
  split <;> rename_i c <;> simpa [c] using this

/-- A window's address after an access, where the field carries into [a:b]. -/
theorem now_winNext_carry {h g t : Hw} {l : List ((Rg × Nat) × Word)} (n : h.Now g l t) (r : Rg) (u hi lo last a b : Nat) (e : t.reg r u = h.reg r u) :
    h.Now g (((r, u), nextCarry (h.reg r u) hi lo last a b) :: l) (t.winNext r u hi lo last (some (a, b))) := by
  simp only [Hw.winNext, nextCarry, nextField, nextVal, Hw.fld, Hw.setFld, e]
  split
  · simp only [reg_setReg_same]
    exact ((n.set r u _).set r u _).drop
  · exact n.set r u _

end Sys2Proof.Machine
end

