-- ==== Sys2Proof/Laws/Micro.lean ====
section
/-! SUPPORT. Laws of the microcode engine: what the command of the row that comes next does, and that every other row's does nothing (04 R120–R133). -/

namespace Sys2Proof.Machine

/-- A good word of core memory is read without any other effect. -/
theorem coreRead_good (h : Hw) (k a : Nat) (hm : h.mark a = 0) : h.coreRead k a = (h, some (h.word a)) := by
  simp [Hw.coreRead, hm]

/-- The instruction that comes next is carried out by the command of its row. -/
theorem mcRun_executes {s : State} {k : Nat} {i : MInstr} (e : s.Executes k i) (sem : Hw → Nat → MInstr → MRes) :
    s.hw.mcRun k i.op sem = s.hw.mcTake k (s.hw.eng k).pc (sem s.hw k i) := by
  obtain ⟨_, hr, hc, _, hm, hd⟩ := e
  simp [Hw.mcRun, hr, Nat.not_le.mpr hc, coreRead_good _ _ _ hm, hd]

/-- The command of another row leaves the block as it is. -/
theorem mcRun_other {s : State} {k : Nat} {i : MInstr} (e : s.Executes k i) {want : MOp} (hw : i.op ≠ want) (sem : Hw → Nat → MInstr → MRes) :
    s.hw.mcRun k want sem = s.hw := by
  obtain ⟨_, hr, hc, _, hm, hd⟩ := e
  simp [Hw.mcRun, hr, Nat.not_le.mpr hc, coreRead_good _ _ _ hm, hd, hw]

/-- A meaning that runs one row answers what the engine takes. -/
theorem mcExec_executes {s : State} {k : Core} {i : MInstr} (e : s.Executes k i) {want : MOp} (hw : i.op = want) (sem : Hw → Nat → MInstr → MRes) :
    mcExec k want sem s = .next { s with hw := s.hw.mcTake k (s.hw.eng k).pc (sem s.hw k i) } := by
  subst hw
  simp [mcExec, State.onHw, e.1, mcRun_executes e]

/-- An instruction that completes goes on at the next index, or at its target. -/
theorem mcTake_next (h g : Hw) (k pc n : Nat) (hp : pc < 1023) : h.mcTake k pc (.done g n none) = g.mcDone k pc n (pc + 1) := by
  simp [Hw.mcTake, Hw.mcCycles, Hw.mcDone, hp]

theorem mcTake_goto (h g : Hw) (k pc n t : Nat) : h.mcTake k pc (.done g n (some t)) = g.mcDone k pc n t := by
  simp [Hw.mcTake, Hw.mcCycles, Hw.mcDone]

/-- A row whose instruction completes is `Executed`. -/
theorem executed_of_done {c : Instr} {s : State} {k : Core} {i : MInstr} (e : s.Executes k i) {want : MOp} (hw : i.op = want)
    (sem : Hw → Nat → MInstr → MRes) (hc : exec c s = mcExec k want sem s) {g : Hw} {n : Nat} {goto : Option Nat}
    (hs : sem s.hw k i = .done g n goto) : Executed c s k g n (goto.getD ((s.hw.eng k).pc + 1)) := by
  refine ⟨_, hc.trans (mcExec_executes e hw sem), rfl, ?_⟩
  rw [hs]
  cases goto with
  | some t => exact mcTake_goto s.hw _ _ _ _ _
  | none => exact mcTake_next s.hw _ _ _ _ e.2.2.2.1

/-- A row whose instruction writes rd and goes on is `Computed`. -/
theorem computed_of_done {c : Instr} {s : State} {k : Core} {i : MInstr} (e : s.Executes k i) {want : MOp} (hw : i.op = want)
    {sem : Hw → Nat → MInstr → MRes} (hc : exec c s = mcExec k want sem s) {rd n : Nat} {v : Word}
    (hs : sem s.hw k i = .done (s.hw.mcSet k rd v) n none) : Computed c s k rd n v := executed_of_done e hw sem hc hs

end Sys2Proof.Machine
end

