-- ==== Sys2Proof/Machine/Pins.lean ====
section
/-! DEFINITION. What the device does at its pins in each package state: pad enables, held levels and high impedance (20 R514–R517). -/

namespace Sys2Proof.Machine

/-- The outputs of R516, each by its instance: a group of pins that its block drives as one is one pin here. -/
inductive Pin
  | pwm (k : Fin 16) | gpio (g : Fin 32) | spi | i2c | mck (n : Fin 8) | mdi (q : Fin 4) | scTx (k : Fin 8) | ddr (q : Fin 4) | xspi | tdo | railEn
deriving DecidableEq, Repr

/-- What an output does: `driven` by its block with signals of its protocol, `idle` for electrical idle, `selfRefresh` for the hold levels of
DDR5. -/
inductive PinState
  | highZ | low | high | driven | idle | selfRefresh
deriving DecidableEq, Repr

/-- A driven level. -/
def PinState.level (b : Bool) : PinState := if b then .high else .low

/-- Pins on VIO. -/
def Pin.onVio : Pin → Bool
  | .pwm _ | .gpio _ | .spi | .i2c | .mck _ | .xspi | .tdo => true
  | .mdi _ | .scTx _ | .ddr _ | .railEn => false

/-- PAD_EN's bit of a pin's group (R525); the others follow R516 alone. -/
def Pin.padBit : Pin → Option Nat
  | .pwm _ => some 0
  | .gpio _ => some 1
  | .spi => some 2
  | .i2c => some 3
  | .xspi => some 4
  | .mdi q => some (8 + q)
  | .mck n => some (16 + n)
  | .scTx _ | .ddr _ | .tdo | .railEn => none

/-- The pin's group is enabled, if it has an enable. -/
def Hw.padOn (h : Hw) (p : Pin) : Bool :=
  match p.padBit with
  | some i => h.flag PAD_EN 0 i
  | none => true

/-- The level that PWMk's timer gives: inactive outside PWM mode, active low with PWM_POL (11 R321). -/
def Hw.pwmLevel (h : Hw) (k : Nat) : Bool := (h.pwmMode k && (h.tmr k).pwm) != h.flag TMR_CTRL k 13

/-- What a pin's block gives while the switched rails are up. TDO shifts only under a JTAG master, which no command is (log 131). -/
def Hw.pinBlock (h : Hw) : Pin → PinState
  | .pwm k => .level (h.pwmLevel k)
  | .gpio g => if h.flag GPIO_OE 0 g then .level (h.flag GPIO_OUT 0 g) else .highZ
  | .spi | .i2c | .mck _ | .xspi => .driven
  | .mdi q => if h.en PHY_CTRL q 0 then .driven else .highZ
  | .scTx k => if h.fld SC_STAT k 1 0 = 0 then .highZ else .driven
  | .ddr q => if h.en DDR_CFG q 0 = false then .highZ else if h.ddrSelf q then .selfRefresh else .driven
  | .tdo => .highZ
  | .railEn => .high

/-- What remains of it in package Steep: PWM and GPIO hold, kept ports go on, DDR5 is in self-refresh. -/
def Hw.pinSteep (h : Hw) : Pin → PinState
  | .spi | .i2c | .mck _ | .xspi => .highZ
  | .mdi q => if h.flag PKG_STEEP_CFG 0 q then h.pinBlock (.mdi q) else .highZ
  | .scTx _ => .idle
  | .ddr q => if h.ddrSelf q then .selfRefresh else .highZ
  | p => h.pinBlock p

/-- The state of a pin (R514–R517). -/
def Hw.pin (h : Hw) (p : Pin) : PinState :=
  if p = .railEn then (if h.pkg.pst = .cold then .low else .high)
  else if h.pkg.inReset ∨ h.padOn p = false ∨ (p.onVio ∧ h.flag PAD_STAT 0 1) then .highZ
  else match h.pkg.pst with
    | .cold | .fromCold => .highZ
    | .steep | .fromSteep => h.pinSteep p
    | _ => h.pinBlock p

end Sys2Proof.Machine
end

