-- ==== Sys2Proof/Tests/Slice0.lean ====
section
/-! SUPPORT. Tests: ill-formed terms that the checks refuse, words and values written out from the spec, and for every statement with
hypotheses concrete states and operands that meet them. -/

open Sys2Proof Sys2Proof.Machine

section
set_option maxRecDepth 20000
set_option Elab.async false

/-! ### States of tests -/

/-- A state with nothing waiting, changed from reset by f. -/
def st (f : Hw → Hw) : State := { pending := [], hw := f State.reset.hw }

/-- `State.Grants`, as a test. -/
def grantsB (s : State) (who : Requester) (r : Rg) (u : Nat) (wr : Bool) : Bool :=
  s.hw.powered && match locOf (addrOf r u) with
    | some l => decide (l.page = r.page ∧ l.unit = u ∧ l.off = r.off ∧ s.hw.refusal who l wr = none ∧ s.hw.unhold l = s.hw)
    | none => false

theorem grants_of {s : State} {who : Requester} {r : Rg} {u : Nat} {wr : Bool} (h : grantsB s who r u wr = true) : s.Grants who r u wr := by
  unfold grantsB at h
  rw [Bool.and_eq_true] at h
  refine ⟨h.1, ?_⟩
  have h2 := h.2
  split at h2
  · rename_i l hl
    exact ⟨l, hl, of_decide_eq_true h2⟩
  · cases h2
/-- In a phase of a step. -/
def ph (p : Phase) (h : Hw) : Hw := h.updStep fun x => { x with phase := p }
/-- A packet waits at the local port of cluster 1, on channel vc. -/
def pk (vc : Nat) (ws : List Word) (h : Hw) : Hw := h.updCl 1 fun v => { v with dpkts := [(vc, [ws.map fun w => ⟨w, false⟩, []])] }
/-- A roast of cluster 1. -/
def rst (r : RoastSt) (h : Hw) : Hw := h.updCl 1 fun v => { v with roast := r }
/-- Receiver 1 on, taking events of data type 0x30 on channel 0 and frames on channel 2. -/
def csi1 (h : Hw) : Hw := ((h.setReg CSI_CTRL 1 0x300001#32).setReg CSI_VC_MODE 1 0x21#32).setReg FR_CTRL 1 5#32
/-- A raw event of port 2 at quadrant 1, with flow entry 7. -/
def raw1 (w0 : Word) (h : Hw) : Hw :=
  ((((h.setReg (PORT 2) 1 0x80000002#32).setReg (PORT_LIM 2) 1 16#32).setTab .ft 1 7 w0).setTab .ft 1 (7 + 65536) 0x123#32).updIng 1
    fun x => { x with raw := [{ port := 2, id := 5, pay := 3, flags := 1 }, { port := 5 }] }
/-- Timer 1 runs: TMR_CTRL, COUNT, TOP, CMP0, CMP1. -/
def tm1 (ctrl n top a b : Nat) (h : Hw) : Hw :=
  ((((h.setReg TMR_CTRL 1 (w32 ctrl)).setReg TMR_COUNT 1 (w32 n)).setReg TMR_TOP 1 (w32 top)).setReg TMR_CMP0 1 (w32 a)).setReg TMR_CMP1 1 (w32 b)
/-- Port 1 up, receiving and sending, with an EtherType. -/
def eth1 (h : Hw) : Hw := ((h.setReg ETH_STAT 1 1#32).setReg MAC_CTRL 1 0x5F20003#32).setReg ETYPE 1 0x88B5#32
theorem runs_of {s : State} {q : Nat} {r : RcpReq} {op : Nat}
    (h : (s.hw.powered = true ∨ s.hw.kept q = true) ∧ (s.hw.eth q).reqs.head? = some r ∧ opsLeft r = true ∧ bits (r.ops.headD 0#32) 31 28 = op) :
    s.Runs q r op := h
/-- A request of session 2 whose operations are ws. -/
def rq (ws : List Word) : RcpReq := { sess := 2, seq := 9#32, count := 1, ops := ws }
/-- It is at the head at port 1. -/
def rq1 (ws : List Word) (h : Hw) : Hw := h.updEth 1 fun x => { x with reqs := [rq ws] }
/-- A session in slot 2 of port 1, and a frame of words that has arrived for it. -/
def ses1 (v : Session) (h : Hw) : Hw := h.updEth 1 fun x => { x with sessions := [(2, v)] }
def rfr (ws : List Nat) : RxFrame := { src := 7, etype := 0x88B5, payload := ws.flatMap (natBE 4) }
def rcp1 (ws : List Nat) (h : Hw) : Hw := h.updEth 1 fun x => { x with rcpIn := [rfr ws] }
/-- Core 1 and its cluster are available. -/
def av1 (h : Hw) : Hw := (h.updCore 1 fun x => { x with avail := true }).updCl 0 fun v => { v with avail := true }
/-- Context 0 is resident in the lower half of the clusters. -/
def res0 (h : Hw) : Hw := ((h.setReg CTX_STAT 0 0#32).setReg CTX_STATE 0 2#32).setReg (CTX_PART_LO 0) 0 0xFFFFFFFF#32
theorem executes_of {s : State} {k : Nat} {i : MInstr}
    (h : s.hw.powered = true ∧ (s.hw.eng k).running = true ∧ (s.hw.eng k).cyc < s.hw.mcLimit k (s.hw.eng k).kind ∧ (s.hw.eng k).pc < 1023 ∧
      s.hw.mark (storeAddr k (s.hw.eng k).pc) = 0 ∧ mcDecode (s.hw.word (storeAddr k (s.hw.eng k).pc)) = some i) : s.Executes k i := h
/-- The engine of core 1 is at index 5 of a per-event handler, which holds i; m1, m2 and m3 hold values. -/
def mc1 (i : MInstr) (a b c : Nat) (h : Hw) : Hw :=
  (h.updCore 1 fun v => { v with eng := { running := true, kind := .event, pc := 5, cyc := 3, dstep := 9#32, m := [(1, w32 a), (2, w32 b), (3, w32 c)] } }).setWord
    (storeAddr 1 5) (mcEncode i)
theorem unguarded_of {h : Hw} (g : h.flt.guard = []) : h.Unguarded := by
  intro i
  rw [g]
  exact (by decide : Tbl.get 0 [] 0 ≠ 1)
theorem captures_of {h : Hw} {k : Nat} {l : Bool}
    (g : h.waits = [] ∧ h.flag TMR_CTRL k 23 = true ∧ h.flag GPIO_IN 0 (h.capPin k) ≠ l ∧
      ∀ i, i < 16 → i = k ∨ h.flag TMR_CTRL i 23 = false ∨ h.capPin i ≠ h.capPin k) : h.Captures k l := g
theorem pulse_at {h : Hw} {sink : Nat} (p : Pulse) (g : h.waits = [] ∧ (h.pulses.find? fun p => p.sink == sink) = some p) :
    h.PulseAt sink { h.advTo p.at_ with pulses := h.pulses.erase p } := ⟨g.1, p, g.2, rfl⟩
theorem ticks_first {h : Hw} {k : Nat} (g : h.tbSel k ≤ 1 ∧ h.tmrTicks k = true ∧ (h.tmr k).tickAt = none) :
    h.TicksIn k (h.updTmr k fun s => { s with tickAt := some h.dev }) := Or.inl ⟨g.1, g.2.1, g.2.2, rfl⟩
theorem ticks_next {h : Hw} {k : Nat} (t : Nat) (g : h.tbSel k ≤ 1 ∧ h.tmrTicks k = true ∧ h.waits = [] ∧ (h.tmr k).tickAt = some t) :
    h.TicksIn k ((h.advTo (t + h.tickGap k)).updTmr k fun s => { s with tickAt := some (max h.dev (t + h.tickGap k)) }) :=
  Or.inr (Or.inl ⟨g.1, g.2.1, g.2.2.1, t, g.2.2.2, rfl⟩)
theorem ticks_owed {h : Hw} {k : Nat} (g : (h.tbSel k = 2 ∨ h.tbSel k = 3) ∧ (h.tmr k).due ≠ 0) :
    h.TicksIn k (h.updTmr k fun s => { s with due := s.due - 1 }) := Or.inr (Or.inr (Or.inl ⟨g.1, g.2, rfl⟩))
theorem ticks_pulse {h : Hw} {k : Nat} (p : Pulse)
    (g : (h.tbSel k = 4 ∧ h.tmrTicks k = true) ∧ h.waits = [] ∧ (h.pulses.find? fun x => x.sink == 4 * k + 3) = some p) :
    h.TicksIn k { h.advTo p.at_ with pulses := h.pulses.erase p } := Or.inr (Or.inr (Or.inr ⟨g.1.1, g.1.2, pulse_at p g.2⟩))

/-- An image for context 3, in cluster 63. -/
def img0 : Image := { pos := 1#32, pkg := 1#32, feats := 0, part := 0x8000000000000000, conf := false, regions := [(0x1234, 8)], integ := 0, items := [], digest := 1, codeDigest := 2, verdict := 0 }
/-- The same, made for this package. -/
def imgOk : Image := { img0 with pos := State.reset.hw.reg TOPO_POS, pkg := State.reset.hw.reg TOPO_PKG }

/-- Hold-up settings that a full charge meets. -/
def huOn (h : Hw) : Hw := (((((h.setReg HU_CAP 0 10000#32).setReg HU_DIV 0 1000#32).setReg HU_VMIN 0 1000#32).setReg HU_PWR 0 1000#32).setReg HU_T_PROG 0 1000#32).setReg HU_MARGIN 0 10#32
/-- The fuses hold an identity of 0, these flags and an anti-rollback count of 5. -/
def fuses (flags : Word) : State :=
  st fun h => { h with regs := (List.range 4).map (fun i => (rk (DEV_ID i) 0, 0#32)) ++ [(rk FUSE_FLAGS 0, flags), (rk LIC_AR_CNT 0, 5#32)] }


/-- Core 1 takes events whose descriptors lie at the start of bank 7 of cluster 0, which it owns. -/
def win1 (h : Hw) : Hw := ((((av1 h).setReg (BANK_OWNER 7) 0 0x101#32).setReg DESC_BASE 1 7#32).setReg DESC_ORD_HI 1 100#32).setReg DESC_ORD_LO 1 0#32
/-- Core 1 at step 5, its neuron 2 with record words w0, w1, w2, w3, parameter set 3 and v in its slot. -/
def nr (w0 w1 w3 th : Nat) (v : Int) : Hw :=
  (st fun h => (((((((((h.setReg CORE_LAYOUT 1 0x640000#32).setReg STEP_NUM 0 5#32).setWords (coreBase 1 + 128) [w32 w0, w32 w1, 0x30000#32, w32 w3]).setWord (psetAddr 1 3) (w32 (th * 256))).setWord (psetAddr 1 3 + 4) 0x78004000#32).setWord (psetAddr 1 3 + 8) 0x00107300#32).setWord (psetAddr 1 3 + 12) 0x80000000#32).setWord (psetAddr 1 3 + 16) 0#32).write24 (coreBase 1 + 128 + 16 + 15) v)).hw

def fr (dst : BitVec 48) (n : Nat) (ok : Bool) : EthFrame := { fcsOk := ok, dst := dst, src := 5, tags := [], sec := none, etype := 0x88B5#16, payload := List.replicate n 1#8 }
def ms1 (l : List Byte) (h : Hw) : Hw :=
  let e := 64 * mpCluster 1 + 33
  (h.updEp e fun x => { x with ports := [(240, { on := true, base := 256, size := 1024 })], msgq := [{ port := 3 }, { port := 240, at_ := 8, len := l.length }] }).setBytes (epMem e + 256 + 8 + 4) l

/-! ### The hypotheses of the statements can be met -/

theorem witness_TimePassesAndTheQueueDrains :
    (∃ (s : State), (s.pending = []) ∧ (s.hw.powered = true) ∧ (s.hw.waits = [])) ∧
    (∃ (s : State) (key : _) (w : _), (s.pending = []) ∧ (s.hw.powered = true) ∧ (s.hw.waits = [(key, w)]) ∧ (w.next = s.hw.dev) ∧ (1 ≤ w.per)) ∧
    (∃ (s : State), (s.pending = []) ∧ (s.hw.powered = false)) ∧
    (∃ (i : Instr) (r : List Instr) (s : State) (t : State), (exec i { s with pending := r } = .next t)) :=
  ⟨⟨(st id), by decide +kernel⟩,
    ⟨(st fun h => { h with dev := 7, waits := [(5, { page := 0x20, off := 0x040, unit := 2, per := 4, next := 7, n := 3 })] }), (5), ({ page := 0x20, off := 0x040, unit := 2, per := 4, next := 7, n := 3 }), by decide +kernel⟩,
    ⟨(st fun h => { h with pkg := { h.pkg with inReset := true } }), by decide +kernel⟩,
    ⟨(.faultRaise), ([]), (st id), (_), rfl⟩⟩

theorem witness_ResetAssertionBeginsTheHold :
    ∃ (s : State), (Memory.wf s.hw.mem = true) ∧ (.powerOnReset ∉ s.pending) ∧ ((∀ vio33 mismatch, .resetNRelease vio33 mismatch ∉ s.pending)) :=
  ⟨(st id), by decide +kernel⟩

theorem witness_MicrocodeWordsRoundTrip :
    (∃ (i : MInstr), (i.wf = true)) ∧
    (∃ (w : Word) (i : MInstr), (mcDecode w = some i)) :=
  ⟨⟨({ op := .chanSend, f1 := 4, f2 := 1, low := 2 * 16384 + 2 }), by decide +kernel⟩,
    ⟨(0x00448000#32), ({ op := .add, f1 := 1, f2 := 1, low := 0x8000 }), by decide +kernel⟩⟩

theorem witness_UnpoweredBlockHoldsStill :
    ∃ (s : State), (s.hw.pkg.inReset = true) :=
  ⟨(st fun h => { h with pkg := { h.pkg with inReset := true } }), by decide +kernel⟩

theorem witness_AddressesReachTheirPage :
    (∃ (pg : _) (off : _), (pg < 256) ∧ (off < 4096)) ∧
    (∃ (pg : _) (off : _), (pg < 128) ∧ (off < 4096)) ∧
    (∃ (s : State) (a : Word), (s.hw.powered = true) ∧ (locOf a = none) ∧ (s.hw.flag MGMT_ERR_INFO 0 31 = true)) ∧
    (∃ (s : State) (a : Word), (s.hw.powered = true) ∧ (locOf a = none) ∧ (s.hw.flag MGMT_ERR_INFO 0 31 = false)) :=
  ⟨⟨(5), (7), by decide +kernel⟩,
    ⟨(5), (7), by decide +kernel⟩,
    ⟨(st fun h => h.setReg MGMT_ERR_INFO 0 0x80000000#32), (gAddr 0xE0 0x40), by decide +kernel⟩,
    ⟨(st id), (gAddr 0xE0 0x40), by decide +kernel⟩⟩

theorem witness_WriterRulesAndAccessCodes :
    (∃ (s : State) (a : Word) (l : Loc), (locOf a = some l) ∧ (s.hw.powered = true) ∧ (l.page ∈ fwPages) ∧ (s.hw.flag MGMT_ERR_INFO 0 31 = true)) ∧
    (∃ (s : State) (a : Word) (l : Loc), (locOf a = some l) ∧ (s.hw.powered = true) ∧ (l.page ∈ fwPages) ∧ (s.hw.flag MGMT_ERR_INFO 0 31 = false)) ∧
    (∃ (s : State) (who : Requester) (r : Rg), (s.Grants who r 0 true) ∧ (r.page = pgGPIO) ∧ (0x040 ≤ r.off) ∧ (r ≠ GPIO_SET) ∧ (r ≠ GPIO_CLR) ∧ (s.hw.locked pgGPIO 0 = false)) ∧
    (∃ (s : State) (who : Requester) (k : TmrId), (s.Grants who TMR_STAT k true) ∧ (s.hw.locked pgTMR k = false)) ∧
    (∃ (h : Hw) (r : Rg) (u : Nat) (row : RegRow) (i : Nat), (rowOf r.page r.off = some row) ∧ (h.locked r.page u = false) ∧ (i < 32) ∧ (bit (w32 row.w1c) i = false) ∧ (bit (w32 row.w1s) i = false)) ∧
    (∃ (s : State) (who : Requester), (s.Grants who FAB_FRAMES 0 true) ∧ (s.hw.locked pgFAB 0 = true)) :=
  ⟨⟨(st fun h => h.setReg MGMT_ERR_INFO 0 0x80000000#32), (addrOf FUSE_FLAGS 0), _, ⟨rfl, by decide +kernel⟩⟩,
    ⟨(st id), (addrOf FUSE_FLAGS 0), _, ⟨rfl, by decide +kernel⟩⟩,
    ⟨(st id), (.mp 0), (GPIO_EDGE_LO), ⟨grants_of (by decide +kernel), by decide +kernel⟩⟩,
    ⟨(st fun h => h.setReg TMR_STAT 1 0xC#32), (.mp 0), (1), ⟨grants_of (by decide +kernel), by decide +kernel⟩⟩,
    ⟨({}), (GPIO_EDGE_LO), (0), _, (3), ⟨rfl, by decide +kernel⟩⟩,
    ⟨(st fun h => h.setReg (pgLock pgFAB) 0 1#32), (.mp 0), ⟨grants_of (by decide +kernel), by decide +kernel⟩⟩⟩

theorem witness_ReadClearsAndPageLocks :
    (∃ (s : State) (who : Requester) (r : Rg) (c : Cluster), (s.Grants who r c false) ∧ (r.page = pgCMEM) ∧ (0x040 ≤ r.off) ∧ (rcMask r.page r.off = 0xFFFFFFFF#32)) ∧
    (∃ (s : State) (who : Requester) (c : Cluster) (v : Word), (s.Grants who (pgLock pgDRIPCFG) c true) ∧ (isRcp who = false) ∧ (bits v 31 16 = 0x4C4B)) ∧
    (∃ (s : State) (who : Requester) (c : Cluster) (v : Word), (s.Grants who (pgLock pgDRIPCFG) c true) ∧ (isRcp who = true ∨ bits v 31 16 ≠ 0x4C4B)) ∧
    (∃ (s : State) (who : Requester) (c : Cluster) (v : Word), (s.Grants who (pgCtrl pgDRIPCFG) c true) ∧ (bit v 2 = false)) ∧
    (∃ (s : State) (who : Requester) (k : Core) (v : Word), (s.Grants who (pgCtrl pgDENSECFG) k true) ∧ (s.hw.locked pgDENSECFG k = false) ∧ (bit v 0 = false) ∧ (bit v 2 = false)) :=
  ⟨⟨(st fun h => h.setReg BANK_CE_CNT 1 7#32), (.mp 0), (BANK_CE_CNT), (1), ⟨grants_of (by decide +kernel), by decide +kernel⟩⟩,
    ⟨(st id), (.mp 0), (1), (0x4C4B0000#32), ⟨grants_of (by decide +kernel), by decide +kernel⟩⟩,
    ⟨(st id), (.rcp 1), (1), (0x4C4B0000#32), ⟨grants_of (by decide +kernel), by decide +kernel⟩⟩,
    ⟨(st id), (.mp 0), (1), (3#32), ⟨grants_of (by decide +kernel), by decide +kernel⟩⟩,
    ⟨(st id), (.mp 0), (1), (2#32), ⟨grants_of (by decide +kernel), by decide +kernel⟩⟩⟩

theorem witness_RouterAndTableWindows :
    (∃ (s : State) (who : Requester) (c : Cluster), (s.Grants who GT_DATA c true) ∧ (s.hw.fld GT_ADDR c 14 10 ≤ 16) ∧ (¬ (s.hw.resident c = true ∧ s.hw.tableInUse c (s.hw.fld GT_ADDR c 18 16) = true))) ∧
    (∃ (s : State) (who : Requester) (c : Cluster), (s.Grants who GT_DATA c false) ∧ (s.hw.fld GT_ADDR c 14 10 ≤ 16)) ∧
    (∃ (s : State) (who : Requester) (c : Cluster), (s.Grants who FSEQ_DATA c true) ∧ (¬ (s.hw.resident c = true ∧ s.hw.fld FSEQ_ADDR c 16 16 = (s.hw.cl c).fseq))) ∧
    (∃ (s : State) (who : Requester) (c : Cluster), (s.Grants who FSEQ_DATA c false)) ∧
    (∃ (s : State) (who : Requester) (c : Cluster), (s.Grants who FLOW_DATA c true)) ∧
    (∃ (s : State) (who : Requester) (c : Cluster), (s.Grants who FLOW_DATA c false)) ∧
    (∃ (s : State) (who : Requester) (c : Cluster), (s.Grants who DEST_DATA c true)) ∧
    (∃ (s : State) (who : Requester) (c : Cluster), (s.Grants who DEST_DATA c false)) ∧
    (∃ (s : State) (who : Requester) (c : Cluster), (s.Grants who DTREE_DATA c true)) ∧
    (∃ (s : State) (who : Requester) (c : Cluster), (s.Grants who DTREE_DATA c false)) ∧
    (∃ (s : State) (who : Requester) (c : Cluster), (s.Grants who XTAG_DATA c true) ∧ ((scAt c).isSome = true)) ∧
    (∃ (s : State) (who : Requester) (c : Cluster), (s.Grants who XTAG_DATA c false) ∧ ((scAt c).isSome = true)) ∧
    (∃ (s : State) (who : Requester) (c : Cluster), (s.Grants who ITAG_DATA c true) ∧ ((scAt c).isSome = true)) ∧
    (∃ (s : State) (who : Requester) (c : Cluster), (s.Grants who ITAG_DATA c false) ∧ ((scAt c).isSome = true)) ∧
    (∃ (s : State) (who : Requester) (c : Cluster), (s.Grants who SEG_DATA c true) ∧ ((s.hw.cl c).roast.busy = false)) ∧
    (∃ (s : State) (who : Requester) (c : Cluster), (s.Grants who SEG_DATA c false)) ∧
    (∃ (s : State) (who : Requester) (c : Cluster), (s.Grants who RULE_DATA c true) ∧ ((s.hw.cl c).roast.busy = false) ∧ (s.hw.fld RULE_ADDR c 8 3 < 4)) ∧
    (∃ (s : State) (who : Requester) (c : Cluster), (s.Grants who RULE_DATA c false) ∧ (s.hw.fld RULE_ADDR c 8 3 ≤ 37)) ∧
    (∃ (s : State) (who : Requester) (k : CsiId), (s.Grants who HOTPIX_DATA k true)) ∧
    (∃ (s : State) (who : Requester) (k : CsiId), (s.Grants who HOTPIX_DATA k false)) ∧
    (∃ (s : State) (who : Requester) (q : Quad), (s.Grants who FT_DATA q true)) ∧
    (∃ (s : State) (who : Requester) (q : Quad), (s.Grants who FT_DATA q false)) ∧
    (∃ (s : State) (who : Requester), (s.Grants who POLL_DATA 0 false)) ∧
    (∃ (s : State) (who : Requester), (s.Grants who POLL_DATA 0 true) ∧ (s.hw.fld POLL_ADDR 0 9 8 = 1)) ∧
    (∃ (s : State) (who : Requester), (s.Grants who LCE_DATA 0 true)) ∧
    (∃ (s : State) (who : Requester), (s.Grants who LCE_DATA 0 false)) :=
  ⟨⟨(st id), (.mp 0), (1), ⟨grants_of (by decide +kernel), by decide +kernel⟩⟩,
    ⟨(st id), (.mp 0), (1), ⟨grants_of (by decide +kernel), by decide +kernel⟩⟩,
    ⟨(st id), (.mp 0), (1), ⟨grants_of (by decide +kernel), by decide +kernel⟩⟩,
    ⟨(st id), (.mp 0), (1), grants_of (by decide +kernel)⟩,
    ⟨(st id), (.mp 0), (1), grants_of (by decide +kernel)⟩,
    ⟨(st id), (.mp 0), (1), grants_of (by decide +kernel)⟩,
    ⟨(st id), (.mp 0), (1), grants_of (by decide +kernel)⟩,
    ⟨(st id), (.mp 0), (1), grants_of (by decide +kernel)⟩,
    ⟨(st id), (.mp 0), (1), grants_of (by decide +kernel)⟩,
    ⟨(st id), (.mp 0), (1), grants_of (by decide +kernel)⟩,
    ⟨(st id), (.mp 0), (8), ⟨grants_of (by decide +kernel), by decide +kernel⟩⟩,
    ⟨(st id), (.mp 0), (8), ⟨grants_of (by decide +kernel), by decide +kernel⟩⟩,
    ⟨(st id), (.mp 0), (8), ⟨grants_of (by decide +kernel), by decide +kernel⟩⟩,
    ⟨(st id), (.mp 0), (8), ⟨grants_of (by decide +kernel), by decide +kernel⟩⟩,
    ⟨(st id), (.mp 0), (1), ⟨grants_of (by decide +kernel), by decide +kernel⟩⟩,
    ⟨(st id), (.mp 0), (1), grants_of (by decide +kernel)⟩,
    ⟨(st id), (.mp 0), (1), ⟨grants_of (by decide +kernel), by decide +kernel⟩⟩,
    ⟨(st id), (.mp 0), (1), ⟨grants_of (by decide +kernel), by decide +kernel⟩⟩,
    ⟨(st id), (.mp 0), (1), grants_of (by decide +kernel)⟩,
    ⟨(st id), (.mp 0), (1), grants_of (by decide +kernel)⟩,
    ⟨(st id), (.mp 0), (1), grants_of (by decide +kernel)⟩,
    ⟨(st id), (.mp 0), (1), grants_of (by decide +kernel)⟩,
    ⟨(st id), (.mp 0), grants_of (by decide +kernel)⟩,
    ⟨(st fun h => h.setReg POLL_ADDR 0 0x123#32), (.mp 0), ⟨grants_of (by decide +kernel), by decide +kernel⟩⟩,
    ⟨(st id), (.mp 0), grants_of (by decide +kernel)⟩,
    ⟨(st id), (.mp 0), grants_of (by decide +kernel)⟩⟩

theorem witness_MemoryWindows :
    (∃ (s : State) (who : Requester) (k : Core), (s.Grants who MC_STORE_DATA k true) ∧ (¬ (s.hw.resident (k / 32) = true ∧ s.hw.coreAvail k = true))) ∧
    (∃ (s : State) (who : Requester) (k : Core), (s.Grants who MC_STORE_DATA k true) ∧ (s.hw.resident (k / 32) = true) ∧ (s.hw.coreAvail k = true)) ∧
    (∃ (s : State) (who : Requester) (k : Core), (s.Grants who MC_STORE_DATA k false) ∧ (s.hw.mark (storeAddr k (s.hw.fld MC_STORE_IDX k 9 0)) = 0)) ∧
    (∃ (s : State) (who : Requester) (k : Core), (s.Grants who MC_DM_DATA k true) ∧ (¬ (s.hw.resident (k / 32) = true ∧ s.hw.coreAvail k = true))) ∧
    (∃ (s : State) (who : Requester) (k : Core), (s.Grants who MC_DM_DATA k false) ∧ (s.hw.mark (dmAddr k (s.hw.fld MC_DM_ADDR k 12 2)) = 0)) ∧
    (∃ (s : State) (who : Requester), (s.Grants who AOM_DATA 0 true) ∧ (0xC000 ≤ 4 * s.hw.fld AOM_ADDR 0 15 2) ∧ (isRcp who = false)) ∧
    (∃ (s : State) (who : Requester), (s.Grants who AOM_DATA 0 true) ∧ (4 * s.hw.fld AOM_ADDR 0 15 2 < 0xC000 ∨ isRcp who = true)) ∧
    (∃ (s : State) (who : Requester), (s.Grants who AOM_DATA 0 false) ∧ (¬ (4 * s.hw.fld AOM_ADDR 0 15 2 < 0xC000 ∧ s.hw.pkg.saved = true))) :=
  ⟨⟨(st id), (.mp 0), (1), ⟨grants_of (by decide +kernel), by decide +kernel⟩⟩,
    ⟨(st fun h => res0 (av1 h)), (.mp 0), (1), ⟨grants_of (by decide +kernel), by decide +kernel⟩⟩,
    ⟨(st id), (.mp 0), (1), ⟨grants_of (by decide +kernel), by decide +kernel⟩⟩,
    ⟨(st id), (.mp 0), (1), ⟨grants_of (by decide +kernel), by decide +kernel⟩⟩,
    ⟨(st id), (.mp 0), (1), ⟨grants_of (by decide +kernel), by decide +kernel⟩⟩,
    ⟨(st fun h => h.setReg AOM_ADDR 0 0xC004#32), (.mp 0), ⟨grants_of (by decide +kernel), by decide +kernel⟩⟩,
    ⟨(st id), (.rcp 1), ⟨grants_of (by decide +kernel), by decide +kernel⟩⟩,
    ⟨(st id), (.mp 0), ⟨grants_of (by decide +kernel), by decide +kernel⟩⟩⟩

theorem witness_StepControlAndDeadlines :
    (∃ (s : State) (who : Requester), (s.Grants who STEP_CTRL 0 true) ∧ (s.hw.flag FLT_STAT 0 2 = false) ∧ (s.hw.holds = false)) ∧
    (∃ (s : State) (who : Requester), (s.Grants who STEP_CTRL 0 true) ∧ (s.hw.flag FLT_STAT 0 2 = true)) ∧
    (∃ (s : State) (who : Requester), (s.Grants who STEP_CTRL 0 true) ∧ (s.hw.flag FLT_STAT 0 2 = false) ∧ (s.hw.holds = true) ∧ (s.hw.arrayEn = false) ∧ (s.hw.sw.resume = false) ∧ (s.hw.switchDue = none) ∧ (s.hw.waits = [])) ∧
    (∃ (s : State), (s.hw.powered = true) ∧ (s.hw.step.phase = .delivery) ∧ (s.hw.step.framesDone = false) ∧ (s.hw.policy = .stretch) ∧ (s.hw.step.overCnt = false) ∧ (s.hw.waits = [])) ∧
    (∃ (s : State), (s.hw.powered = true) ∧ (s.hw.step.phase = .delivery) ∧ (s.hw.step.framesDone = false) ∧ (s.hw.policy ≠ .stretch) ∧ (s.hw.step.forced = false) ∧ (s.hw.waits = [])) ∧
    (∃ (s : State), (s.hw.powered = true) ∧ (s.hw.switching = false) ∧ (s.hw.waits = []) ∧ ((s.hw.step.phase = .delivery ∨ (s.hw.step.phase = .integrate ∧ s.hw.policy = .stretch)))) ∧
    (∃ (s : State), (s.hw.powered = true) ∧ (s.hw.switching = false) ∧ (s.hw.step.phase = .delivery) ∧ (s.hw.policy = .stretch) ∧ (s.hw.step.forced = false) ∧ (s.hw.waits = [])) :=
  ⟨⟨(st (ph .delivery)), (.mp 0), ⟨grants_of (by decide +kernel), by decide +kernel⟩⟩,
    ⟨(st fun h => h.setReg FLT_STAT 0 4#32), (.mp 0), ⟨grants_of (by decide +kernel), by decide +kernel⟩⟩,
    ⟨(st id), (.mp 0), ⟨grants_of (by decide +kernel), by decide +kernel⟩⟩,
    ⟨(st (ph .delivery)), by decide +kernel⟩,
    ⟨(st fun h => (ph .delivery h).setReg (STEP_CTX_POLICY 0) 0 1#32), by decide +kernel⟩,
    ⟨(st (ph .delivery)), by decide +kernel⟩,
    ⟨(st (ph .delivery)), by decide +kernel⟩⟩

theorem witness_PhaseClosesAndAdvance :
    (∃ (s : State), (s.hw.powered = true) ∧ (s.hw.switching = false) ∧ (s.hw.step.phase = .delivery) ∧ (s.hw.step.forceDel = false) ∧ (s.hw.step.framesDone = true) ∧ (s.hw.arrayEn = false) ∧ (s.hw.localQuiet = true) ∧ (s.hw.quietLate = false) ∧ (s.hw.policy = .stretch ∨ s.hw.quietAt < s.hw.nominal) ∧ (s.hw.waits = [])) ∧
    (∃ (s : State), (s.hw.powered = true) ∧ (s.hw.switching = false) ∧ (s.hw.step.phase = .integrate) ∧ (s.hw.arrayEn = false) ∧ (s.hw.allDone = true) ∧ (s.hw.lastStep = false) ∧ (s.hw.dev < s.hw.lastDone + 160) ∧ (s.hw.waits = []) ∧ ((∀ p ∈ s.hw.clusters, p.2.spillCnt = []))) ∧
    (∃ (s : State), (s.hw.powered = true) ∧ (s.hw.step.phase = .pour) ∧ (s.hw.switching = false) ∧ (s.hw.switchDue = none) ∧ (s.hw.dev ≤ max s.hw.nominal s.hw.step.closed) ∧ (s.hw.waits = []) ∧ (s.hw.flag STEP_CTRL 0 0 = true) ∧ (s.hw.flag STEP_CTRL 0 1 = false)) ∧
    (∃ (s : State), (s.hw.powered = true) ∧ (s.hw.step.phase = .pour) ∧ (s.hw.switching = false) ∧ (s.hw.switchDue = none) ∧ (s.hw.dev ≤ max s.hw.nominal s.hw.step.closed) ∧ (s.hw.waits = []) ∧ ((s.hw.flag STEP_CTRL 0 0 = false ∨ s.hw.flag STEP_CTRL 0 1 = true))) :=
  ⟨⟨(st fun h => h.updStep fun x => { x with phase := .delivery, framesDone := true }), by decide +kernel⟩,
    ⟨(st fun h => { ph .integrate h with dev := 100 }), by decide +kernel⟩,
    ⟨(st fun h => (ph .pour h).setReg STEP_CTRL 0 1#32), by decide +kernel⟩,
    ⟨(st (ph .pour)), by decide +kernel⟩⟩

theorem witness_BarrierTokens :
    (∃ (s : State) (k : Link) (g : BitVec 4), (s.hw.powered = true) ∧ (s.hw.scUp k = true) ∧ ((s.hw.link k).lastTok ≠ some (1, g.toNat)) ∧ (s.hw.arrayEn = true) ∧ (g.toNat = s.hw.stepTag)) ∧
    (∃ (s : State) (k : Link) (g : BitVec 4), (s.hw.powered = true) ∧ (s.hw.scUp k = true) ∧ ((s.hw.link k).lastTok ≠ some (2, g.toNat)) ∧ (s.hw.arrayEn = true) ∧ (g.toNat = s.hw.stepTag)) ∧
    (∃ (s : State) (k : Link) (g : BitVec 4), (s.hw.powered = true) ∧ (s.hw.scUp k = true) ∧ ((s.hw.link k).lastTok ≠ some (3, g.toNat)) ∧ (s.hw.arrayEn = true) ∧ (s.hw.rejoining = false) ∧ (g.toNat = s.hw.stepTag) ∧ (s.hw.step.pourTok = none)) ∧
    (∃ (s : State) (k : Link) (g : BitVec 4), (s.hw.powered = true) ∧ (s.hw.scUp k = true) ∧ ((s.hw.link k).lastTok ≠ some (3, g.toNat)) ∧ (s.hw.arrayEn = true) ∧ (s.hw.rejoining = false) ∧ (g.toNat = s.hw.stepTag) ∧ (s.hw.step.pourTok ≠ none)) ∧
    (∃ (s : State) (k : Link) (g : BitVec 4), (s.hw.powered = true) ∧ (s.hw.scUp k = true) ∧ ((s.hw.link k).lastTok ≠ some (4, g.toNat)) ∧ (s.hw.arrayEn = true) ∧ (g.toNat = s.hw.stepTag) ∧ (s.hw.step.dcloseTok = none)) ∧
    (∃ (s : State) (k : Link) (g : BitVec 4), (s.hw.powered = true) ∧ (s.hw.scUp k = true) ∧ ((s.hw.link k).lastTok ≠ some (4, g.toNat)) ∧ (s.hw.arrayEn = true) ∧ (g.toNat = s.hw.stepTag) ∧ (s.hw.step.dcloseTok ≠ none)) ∧
    (∃ (s : State) (k : Link) (g : BitVec 4), (s.hw.powered = true) ∧ (s.hw.scUp k = true) ∧ ((s.hw.link k).lastTok ≠ some (1, g.toNat)) ∧ (s.hw.arrayEn = false ∨ g.toNat ≠ s.hw.stepTag)) :=
  ⟨⟨(st fun h => (h.setReg SC_STAT 1 6#32).setReg TOPO_POS 0 0x10000#32), (1), (0), by decide +kernel⟩,
    ⟨(st fun h => (h.setReg SC_STAT 1 6#32).setReg TOPO_POS 0 0x10000#32), (1), (0), by decide +kernel⟩,
    ⟨(st fun h => (h.setReg SC_STAT 1 6#32).setReg TOPO_POS 0 0x10000#32), (1), (0), by decide +kernel⟩,
    ⟨(st fun h => ((h.setReg SC_STAT 1 6#32).setReg TOPO_POS 0 0x10000#32).updStep fun x => { x with pourTok := some 3 }), (1), (0), by decide +kernel⟩,
    ⟨(st fun h => (h.setReg SC_STAT 1 6#32).setReg TOPO_POS 0 0x10000#32), (1), (0), by decide +kernel⟩,
    ⟨(st fun h => ((h.setReg SC_STAT 1 6#32).setReg TOPO_POS 0 0x10000#32).updStep fun x => { x with dcloseTok := some 3 }), (1), (0), by decide +kernel⟩,
    ⟨(st fun h => h.setReg SC_STAT 1 6#32), (1), (0), by decide +kernel⟩⟩

theorem witness_CoreStepCommands :
    (∃ (s : State) (k : Core), (s.hw.powered = true) ∧ ((s.hw.core k).eng.running = false) ∧ ((s.hw.core k).listq = []) ∧ ((s.hw.core k).evq = []) ∧ ((s.hw.core k).paging = false) ∧ ((s.hw.core k).integ.stage = .finished)) ∧
    (∃ (s : State) (k : Core) (o : Offer), ((s.hw.core k).held = [o]) ∧ (s.hw.powered = true) ∧ (s.hw.coreAvail k = true) ∧ ((s.hw.core k).listq = []) ∧ (0 < (s.hw.reg LISTQ_HWM k).toNat)) ∧
    (∃ (s : State) (k : Core), (s.hw.powered = true) ∧ (s.hw.step.phase = .integrate) ∧ (s.hw.coreAvail k = true) ∧ (s.hw.hostOf k = k) ∧ (s.hw.live k = k) ∧ ((s.hw.core k).done = false) ∧ ((s.hw.core k).integ.stage = .idle) ∧ ((s.hw.core k).eng.running = false) ∧ ((s.hw.core k).evq = []) ∧ ((s.hw.core k).paging = false) ∧ ((s.hw.updCore k fun x => { x with warm := false }).nothingToDo k = true)) ∧
    (∃ (s : State) (k : Core), (s.hw.powered = true) ∧ (s.hw.step.phase = .integrate) ∧ (s.hw.coreAvail k = true) ∧ ((s.hw.core (s.hw.hostOf k)).integ.stage = .finished) ∧ (s.hw.waited EGRESS_STALL_CNT (s.hw.live (s.hw.hostOf k)) = 0)) ∧
    (∃ (s : State) (k : Core) (i : Nat), (s.hw.powered = true) ∧ ((s.hw.core k).paging = true) ∧ ((s.hw.core k).pageTo = i) ∧ ((s.hw.core k).integ.stage = .idle) ∧ (s.hw.paired k = false) ∧ (((s.hw.core k).left.filter fun x => x.1 == i) = []) ∧ (((s.hw.core k).inbox.filter fun e => e.slice == i) = [])) ∧
    (∃ (s : State) (k : Core), (s.hw.powered = true) ∧ (s.hw.mayBeDone k = true) ∧ (s.hw.waits = [])) :=
  ⟨⟨(st fun h => h.updCore 1 fun x => { x with integ := { x.integ with stage := .finished } }), (1), by decide +kernel⟩,
    ⟨(st fun h => av1 ((h.setReg LISTQ_HWM 1 3#32).updCore 1 fun x => { x with held := [{}] })), (1), _, ⟨rfl, by decide +kernel⟩⟩,
    ⟨(st fun h => av1 (((ph .integrate h).setReg CORE_CTRL 1 1#32).updCore 1 fun x => { x with quiet := true })), (1), by decide +kernel⟩,
    ⟨(st fun h => av1 ((ph .integrate h).updCore 1 fun x => { x with egress := [{}, {}, {}], integ := { x.integ with stage := .finished } })), (1), by decide +kernel⟩,
    ⟨(st fun h => h.updCore 1 fun x => { x with paging := true, pageTo := 2 }), (1), (2), by decide +kernel⟩,
    ⟨(st fun h => av1 ((ph .integrate h).updCore 1 fun x => { x with integ := { x.integ with stage := .finished } })), (1), by decide +kernel⟩⟩

theorem witness_CoreRegisterCommands :
    (∃ (s : State) (who : Requester) (k : Core), (s.Grants who PSET_CTRL k true) ∧ ((s.hw.core k).psetq.length < 8)) ∧
    (∃ (s : State) (who : Requester) (k : Core), (s.Grants who PSET_CTRL k true) ∧ (8 ≤ (s.hw.core k).psetq.length)) ∧
    (∃ (s : State) (who : Requester) (k : Core), (s.Grants who PSET_CTRL k true) ∧ ((∀ i, i < 8 → s.hw.mark (psetAddr k (s.hw.fld PSET_SEL k 7 0) + 4 * i) = 0))) ∧
    (∃ (s : State) (who : Requester) (k : Core), (s.Grants who MC_SEED k true)) ∧
    (∃ (s : State) (who : Requester) (k : Core), (s.Grants who DL_CTRL k true) ∧ ((s.hw.core k).dlq.length < 4)) ∧
    (∃ (s : State) (who : Requester) (k : Core), (s.Grants who DL_CTRL k true) ∧ (4 ≤ (s.hw.core k).dlq.length)) ∧
    (∃ (s : State) (who : Requester) (k : Core), (s.Grants who DL_CTRL k true) ∧ (s.hw.descInside k (s.hw.fld DL_SEL k 3 0) = true)) ∧
    (∃ (s : State) (who : Requester) (k : Core), (s.Grants who DL_CTRL k true) ∧ (s.hw.descInside k (s.hw.fld DL_SEL k 3 0) = false)) ∧
    (∃ (s : State) (who : Requester) (k : Core), (s.Grants who DENSE_BINQ k true) ∧ (s.hw.resident (k / 32) = true)) ∧
    (∃ (s : State) (who : Requester) (k : Core), (s.Grants who DENSE_BINQ k true) ∧ (s.hw.resident (k / 32) = false)) :=
  ⟨⟨(st id), (.mp 0), (1), ⟨grants_of (by decide +kernel), by decide +kernel⟩⟩,
    ⟨(st fun h => h.updCore 1 fun x => { x with psetq := List.replicate 8 {} }), (.mp 0), (1), ⟨grants_of (by decide +kernel), by decide +kernel⟩⟩,
    ⟨(st fun h => (h.setReg PSET_SEL 1 3#32).setWord (psetAddr 1 3 + 8) 77#32), (.mp 0), (1), ⟨grants_of (by decide +kernel), by decide +kernel⟩⟩,
    ⟨(st id), (.mp 0), (1), grants_of (by decide +kernel)⟩,
    ⟨(st id), (.mp 0), (1), ⟨grants_of (by decide +kernel), by decide +kernel⟩⟩,
    ⟨(st fun h => h.updCore 1 fun x => { x with dlq := List.replicate 4 {} }), (.mp 0), (1), ⟨grants_of (by decide +kernel), by decide +kernel⟩⟩,
    ⟨(st id), (.mp 0), (1), ⟨grants_of (by decide +kernel), by decide +kernel⟩⟩,
    ⟨(st fun h => h.setReg DENSE_LIST 1 0x1FFF#32), (.mp 0), (1), ⟨grants_of (by decide +kernel), by decide +kernel⟩⟩,
    ⟨(st res0), (.mp 0), (1), ⟨grants_of (by decide +kernel), by decide +kernel⟩⟩,
    ⟨(st id), (.mp 0), (1), ⟨grants_of (by decide +kernel), by decide +kernel⟩⟩⟩

theorem witness_LayoutWriteIsClosedWhileInUse :
    ∃ (s : State) (who : Requester) (k : Core), (s.Grants who CORE_LAYOUT k true) ∧ (s.hw.resident (k / 32) = true) ∧ (s.hw.coreAvail k = true) :=
  ⟨(st fun h => res0 (av1 h)), (.mp 0), (1), ⟨grants_of (by decide +kernel), by decide +kernel⟩⟩

theorem witness_SliceWriteIsClosedWhilePaging :
    ∃ (s : State) (who : Requester) (k : Core), (s.Grants who SLICE_CFG k true) ∧ (s.hw.coreAvail k = true) ∧ ((s.hw.core (s.hw.hostOf k)).paging = true) :=
  ⟨(st fun h => (av1 h).updCore 1 fun x => { x with paging := true }), (.mp 0), (1), ⟨grants_of (by decide +kernel), by decide +kernel⟩⟩

theorem witness_ShapeRegistersTakeWrites :
    (∃ (s : State) (who : Requester) (k : Core), (s.Grants who SLICE_CFG k true) ∧ (s.hw.coreAvail k = false) ∧ (s.hw.locked pgSLICE k = false)) ∧
    (∃ (s : State) (who : Requester) (k : Core), (s.Grants who CORE_LAYOUT k true) ∧ (s.hw.coreAvail k = false) ∧ (s.hw.locked pgCORECFG k = false)) ∧
    (∃ (s : State) (who : Requester) (c : Cluster) (i : Fin 32), (s.Grants who (REMAP i) c true) ∧ (s.hw.holds = false)) ∧
    (∃ (s : State) (who : Requester) (c : Cluster), (s.Grants who PHYS_RETIRE_LO c true) ∧ (s.hw.holds = false)) ∧
    (∃ (s : State) (who : Requester) (c : Cluster) (b : Fin 32) (v : Word), (s.Grants who (BANK_OWNER b) c true) ∧ (ownerCodeOk (bits v 5 0) = true) ∧ (s.hw.bankPending c b = false) ∧ (bits v 5 0 ≠ s.hw.bankOwner c b)) ∧
    (∃ (s : State) (who : Requester) (c : Cluster) (b : Fin 16), (s.Grants who BANK_PWR_LO c true) ∧ (s.hw.locked pgCMCFG c = false) ∧ ((∀ i, i < 16 → (s.hw.bank c i).waking = false ∧ (s.hw.bank c i).pwr = bits (s.hw.reg BANK_PWR_LO c) (2 * i + 1) (2 * i) ∧ (i = b.val ∨ (s.hw.bank c i).pwr < 2))) ∧ (bits (s.hw.reg BANK_PWR_LO c) (2 * b + 1) (2 * b) ≠ 1)) ∧
    (∃ (s : State) (who : Requester) (c : Cluster), (s.Grants who CM_FENCE c false)) ∧
    (∃ (s : State) (who : Requester) (c : Cluster) (v : Word) (sp : Nat), (s.Grants who SR_DATA c true) ∧ (sp = s.hw.fld SR_SEL c 6 0) ∧ (isRcp who = false) ∧ (bit v 15 = false) ∧ ((((s.hw.bankOwner c (sp / 4) = 0x22 ∨ s.hw.bankOwner c (sp / 4) = 0x3F) ∧ s.hw.bankPending c (sp / 4) = false) ∨ (s.hw.bank c (sp / 4)).pwr = 2))) ∧
    (∃ (s : State) (who : Requester) (c : Cluster), (s.Grants who ROAST_SEED c true)) ∧
    (∃ (s : State) (who : Requester) (c : Cluster), (s.Grants who CKPT_STAT c true)) :=
  ⟨⟨(st id), (.mp 0), (1), ⟨grants_of (by decide +kernel), by decide +kernel⟩⟩,
    ⟨(st id), (.mp 0), (1), ⟨grants_of (by decide +kernel), by decide +kernel⟩⟩,
    ⟨(st (ph .delivery)), (.mp 0), (1), (3), ⟨grants_of (by decide +kernel), by decide +kernel⟩⟩,
    ⟨(st (ph .delivery)), (.mp 0), (1), ⟨grants_of (by decide +kernel), by decide +kernel⟩⟩,
    ⟨(st id), (.mp 0), (1), (3), (0x20#32), ⟨grants_of (by decide +kernel), by decide +kernel⟩⟩,
    ⟨(st id), (.mp 0), (1), (3), ⟨grants_of (by decide +kernel), by decide +kernel⟩⟩,
    ⟨(st id), (.mp 0), (1), grants_of (by decide +kernel)⟩,
    ⟨(st fun h => (h.setReg SR_SEL 1 5#32).setReg (BANK_OWNER 1) 1 0x22#32), (.mp 0), (1), (0x45#32), _, ⟨grants_of (by decide +kernel), rfl, by decide +kernel⟩⟩,
    ⟨(st id), (.mp 0), (1), grants_of (by decide +kernel)⟩,
    ⟨(st fun h => h.setReg CKPT_STAT 1 0x80000005#32), (.mp 0), (1), grants_of (by decide +kernel)⟩⟩

theorem witness_BankWindowAndPlasticityRegisters :
    (∃ (s : State) (who : Requester) (c : Cluster), (s.Grants who BANKWIN_DATA c true) ∧ (ownedEnd ≤ 4 * s.hw.fld BANKWIN_ADDR c 18 2) ∧ (4 * s.hw.fld BANKWIN_ADDR c 18 2 < 0x60000)) ∧
    (∃ (s : State) (who : Requester) (c : Cluster), (s.Grants who SEG_DATA c true) ∧ ((s.hw.cl c).roast.busy = true)) ∧
    (∃ (s : State) (who : Requester) (c : Cluster), (s.Grants who RULE_DATA c true) ∧ ((s.hw.cl c).roast.busy = true)) ∧
    (∃ (s : State) (who : Requester) (c : Cluster), (s.Grants who ROAST_SEED c true) ∧ ((s.hw.cl c).roast.busy = true)) :=
  ⟨⟨(st fun h => h.setReg BANKWIN_ADDR 1 0x0305C000#32), (.mp 0), (1), ⟨grants_of (by decide +kernel), by decide +kernel⟩⟩,
    ⟨(st (rst { busy := true })), (.mp 0), (1), ⟨grants_of (by decide +kernel), by decide +kernel⟩⟩,
    ⟨(st (rst { busy := true })), (.mp 0), (1), ⟨grants_of (by decide +kernel), by decide +kernel⟩⟩,
    ⟨(st (rst { busy := true })), (.mp 0), (1), ⟨grants_of (by decide +kernel), by decide +kernel⟩⟩⟩

theorem witness_TimerAndPinRegisters :
    (∃ (s : State) (who : Requester) (k : CsiId), (s.Grants who FR_STAT k true) ∧ (s.hw.flag FR_STAT k 0 = true)) ∧
    (∃ (s : State) (who : Requester) (k : CsiId), (s.Grants who FR_STAT k true) ∧ (s.hw.flag FR_STAT k 1 = true)) ∧
    (∃ (s : State) (who : Requester) (k : TmrId), (s.Grants who TMR_COUNT k true)) ∧
    (∃ (s : State) (who : Requester) (k : TmrId) (v : Word), (s.Grants who TMR_CMP0 k true) ∧ (¬ (s.hw.flag TMR_CTRL k 11 = true ∧ v = s.hw.reg TMR_COUNT k))) ∧
    (∃ (s : State) (who : Requester) (k : TmrId) (v : Word), (s.Grants who TMR_CMP1 k true) ∧ (s.hw.pwmMode k = false) ∧ (¬ (s.hw.flag TMR_CTRL k 11 = true ∧ v = s.hw.reg TMR_COUNT k))) ∧
    (∃ (s : State) (who : Requester) (k : TmrId), (s.Grants who TMR_CMP1 k true) ∧ (s.hw.pwmMode k = true)) ∧
    (∃ (s : State) (who : Requester) (k : TmrId), (s.Grants who TMR_CAPR k false)) ∧
    (∃ (s : State) (who : Requester) (k : TmrId), (s.Grants who TMR_CAPF k false)) ∧
    (∃ (s : State) (who : Requester) (k : TmrId), (s.Grants who TMR_WIDTH k false)) ∧
    (∃ (s : State) (who : Requester), (s.Grants who ACT_STAT 0 true) ∧ (s.hw.flag ACT_STAT 0 0 = true)) ∧
    (∃ (s : State) (who : Requester), (s.Grants who GPIO_SET 0 true)) ∧
    (∃ (s : State) (who : Requester), (s.Grants who GPIO_CLR 0 true)) ∧
    (∃ (s : State) (who : Requester), (s.Grants who PAD_EN 0 true)) :=
  ⟨⟨(st fun h => h.setReg FR_STAT 1 0x1F#32), (.mp 0), (1), ⟨grants_of (by decide +kernel), by decide +kernel⟩⟩,
    ⟨(st fun h => h.setReg FR_STAT 1 0x1F#32), (.mp 0), (1), ⟨grants_of (by decide +kernel), by decide +kernel⟩⟩,
    ⟨(st (tm1 1 4 9 3 3)), (.mp 0), (1), grants_of (by decide +kernel)⟩,
    ⟨(st id), (.mp 0), (1), (0x12345678#32), ⟨grants_of (by decide +kernel), by decide +kernel⟩⟩,
    ⟨(st id), (.mp 0), (1), (0x12345678#32), ⟨grants_of (by decide +kernel), by decide +kernel⟩⟩,
    ⟨(st (tm1 0x1000 4 9 3 3)), (.mp 0), (1), ⟨grants_of (by decide +kernel), by decide +kernel⟩⟩,
    ⟨(st fun h => (h.setReg TMR_CAPR 1 77#32).setReg TMR_CAPSTAT 1 0xF#32), (.mp 0), (1), grants_of (by decide +kernel)⟩,
    ⟨(st fun h => (h.setReg TMR_CAPF 1 77#32).setReg TMR_CAPSTAT 1 0xF#32), (.mp 0), (1), grants_of (by decide +kernel)⟩,
    ⟨(st fun h => (h.setReg TMR_WIDTH 1 77#32).setReg TMR_CAPSTAT 1 0xF#32), (.mp 0), (1), grants_of (by decide +kernel)⟩,
    ⟨(st fun h => h.setReg ACT_STAT 0 3#32), (.mp 0), ⟨grants_of (by decide +kernel), by decide +kernel⟩⟩,
    ⟨(st id), (.mp 0), grants_of (by decide +kernel)⟩,
    ⟨(st id), (.mp 0), grants_of (by decide +kernel)⟩,
    ⟨(st id), (.mp 0), grants_of (by decide +kernel)⟩⟩

theorem witness_LimiterActuatorAndPortWindows :
    (∃ (s : State) (who : Requester) (q : Quad), (s.Grants who LIM_DATA q false) ∧ (s.hw.fld LIM_ADDR q 17 16 = 2)) ∧
    (∃ (s : State) (who : Requester), (s.Grants who ACT_DATA 0 true) ∧ (0 < s.hw.fld ACT_ADDR 0 11 8) ∧ (s.hw.fld ACT_ADDR 0 11 8 ≤ 9)) ∧
    (∃ (s : State) (who : Requester), (s.Grants who ACT_DATA 0 false) ∧ (s.hw.fld ACT_ADDR 0 11 8 ≤ 9)) ∧
    (∃ (s : State) (who : Requester) (q : Quad), (s.Grants who GCL_DATA q true) ∧ (s.hw.fld GCL_ADDR q 8 8 ≠ s.hw.fld GCL_CTRL q 8 8)) ∧
    (∃ (s : State) (who : Requester) (q : Quad), (s.Grants who GCL_DATA q true) ∧ (s.hw.fld GCL_ADDR q 8 8 = s.hw.fld GCL_CTRL q 8 8)) ∧
    (∃ (s : State) (who : Requester) (q : Quad), (s.Grants who GCL_DATA q false)) ∧
    (∃ (s : State) (who : Requester) (q : Quad), (s.Grants who MS_SA_DATA q true) ∧ (s.hw.fld MS_SA_SEL q 4 2 ≤ 4) ∧ (s.hw.fld MS_SA_SEL q 11 8 < 14)) ∧
    (∃ (s : State) (who : Requester) (q : Quad), (s.Grants who MS_SA_DATA q false) ∧ (s.hw.fld MS_SA_SEL q 4 2 ≤ 4) ∧ (s.hw.fld MS_SA_SEL q 11 8 < 8)) ∧
    (∃ (s : State) (who : Requester), (s.Grants who ATT_DATA 0 false)) :=
  ⟨⟨(st fun h => (h.setReg LIM_ADDR 1 0x20005#32).setTab .lim 1 (5 + 2048) 9#32), (.mp 0), (1), ⟨grants_of (by decide +kernel), by decide +kernel⟩⟩,
    ⟨(st fun h => h.setReg ACT_ADDR 0 0x903#32), (.mp 0), ⟨grants_of (by decide +kernel), by decide +kernel⟩⟩,
    ⟨(st fun h => h.setReg ACT_ADDR 0 0x903#32), (.mp 0), ⟨grants_of (by decide +kernel), by decide +kernel⟩⟩,
    ⟨(st fun h => h.setReg GCL_ADDR 1 0x103#32), (.mp 0), (1), ⟨grants_of (by decide +kernel), by decide +kernel⟩⟩,
    ⟨(st fun h => h.setReg GCL_ADDR 1 0x03#32), (.mp 0), (1), ⟨grants_of (by decide +kernel), by decide +kernel⟩⟩,
    ⟨(st fun h => h.setReg GCL_ADDR 1 0x7F#32), (.mp 0), (1), grants_of (by decide +kernel)⟩,
    ⟨(st fun h => h.setReg MS_SA_SEL 1 0xD13#32), (.mp 0), (1), ⟨grants_of (by decide +kernel), by decide +kernel⟩⟩,
    ⟨(st fun h => h.setReg MS_SA_SEL 1 0x713#32), (.mp 0), (1), ⟨grants_of (by decide +kernel), by decide +kernel⟩⟩,
    ⟨(st fun h => { h with attReport := [3#32, 4#32] }), (.mp 0), grants_of (by decide +kernel)⟩⟩

theorem witness_ChannelPortAndLinkRegisters :
    (∃ (s : State) (who : Requester) (e : Quad) (c : Fin 16), (s.Grants who (CH_CMD c) e true) ∧ (s.hw.en (CH_CTRL c) e 0 = true) ∧ ((s.hw.dma (16 * e + c)).busy = false)) ∧
    (∃ (s : State) (who : Requester) (e : Quad) (c : Fin 16), (s.Grants who (CH_CMD c) e true) ∧ (s.hw.en (CH_CTRL c) e 0 = true) ∧ ((s.hw.dma (16 * e + c)).busy = true) ∧ ((s.hw.dma (16 * e + c)).latched = false)) ∧
    (∃ (s : State) (who : Requester) (e : Quad) (c : Fin 16), (s.Grants who (CH_CMD c) e true) ∧ (s.hw.en (CH_CTRL c) e 0 = true) ∧ ((s.hw.dma (16 * e + c)).busy = true) ∧ ((s.hw.dma (16 * e + c)).latched = true)) ∧
    (∃ (s : State) (who : Requester) (q : Quad), (s.Grants who GCL_CTRL q true)) ∧
    (∃ (s : State) (who : Requester) (q : Quad) (v : Word), (s.Grants who PHY_CTRL q true) ∧ (bits v 3 1 = 0) ∧ (s.hw.linkUp q = true) ∧ (s.hw.pgEn pgETHCFG q = true) ∧ (bit v 0 = true) ∧ ((s.hw.eth q).refOut = []) ∧ (s.hw.flag PLL_STAT 0 (8 + q) = true)) ∧
    (∃ (s : State) (who : Requester), (s.Grants who PTP_ADJ 0 true)) ∧
    (∃ (s : State) (who : Requester), (s.Grants who PTP_NS_LO 0 false)) ∧
    (∃ (s : State) (who : Requester) (q : Quad), (s.Grants who MS_TX_AN q true)) ∧
    (∃ (s : State) (who : Requester) (q : Quad), (s.Grants who DRAIN q false)) ∧
    (∃ (s : State) (who : Requester) (q : Quad), (s.Grants who DDR_TRAIN q true) ∧ (s.hw.en DDR_CFG q 0 = true) ∧ (s.hw.ddrSelf q = false)) ∧
    (∃ (s : State) (who : Requester) (q : Quad) (v : Word), (s.Grants who DDR_CFG q true) ∧ (s.hw.locked pgDDRCFG q = false) ∧ (bit (s.hw.written DDR_CFG q v) 0 = true) ∧ (ddrCapacity (s.hw.written DDR_CFG q v) = none)) ∧
    (∃ (s : State) (who : Requester) (q : Quad) (v : Word), (s.Grants who DDR_CFG q true) ∧ (s.hw.locked pgDDRCFG q = false) ∧ (bit (s.hw.written DDR_CFG q v) 0 = true) ∧ (ddrCapacity (s.hw.written DDR_CFG q v) ≠ none) ∧ (s.hw.pgEn pgDDRCFG q = true) ∧ (s.hw.ddrSelf q = false) ∧ (s.hw.flag PLL_STAT 0 (4 + q) = true)) ∧
    (∃ (s : State) (who : Requester) (k : Link), (s.Grants who SC_CTRL k true) ∧ (s.hw.lic 1 = true) ∧ (s.hw.scCabled k = true) ∧ (bit (s.hw.reg SC_CTRL k) 2 = false) ∧ (s.hw.flag PLL_STAT 0 (12 + k / 2) = false) ∧ (Tbl.find s.hw.pkg.pllAt (12 + k / 2) = none)) ∧
    (∃ (s : State) (who : Requester) (k : Link), (s.Grants who SC_CTRL k true) ∧ (bit (s.hw.reg SC_CTRL k) 0 = false)) ∧
    (∃ (s : State) (who : Requester) (q : Quad), (s.Grants who IMG_PTR q true)) ∧
    (∃ (s : State) (q : Quad) (ch : _) (x : _), (s.hw.powered = true) ∧ (s.hw.mpa (shortMpa (s.hw.reg IMG_PTR q) + (s.hw.reg IMG_BYTES q).toNat) = some (.ddr ch x)) ∧ (s.hw.flag DDR_STAT ch 0 = true) ∧ (s.hw.ddrSelf ch = false)) :=
  ⟨⟨(st fun h => h.setReg (CH_CTRL 2) 1 1#32), (.mp 0), (1), (2), ⟨grants_of (by decide +kernel), by decide +kernel⟩⟩,
    ⟨(st fun h => (h.setReg (CH_CTRL 2) 1 1#32).updDma 18 fun x => { x with busy := true }), (.mp 0), (1), (2), ⟨grants_of (by decide +kernel), by decide +kernel⟩⟩,
    ⟨(st fun h => (h.setReg (CH_CTRL 2) 1 1#32).updDma 18 fun x => { x with busy := true, latched := true }), (.mp 0), (1), (2), ⟨grants_of (by decide +kernel), by decide +kernel⟩⟩,
    ⟨(st id), (.mp 0), (1), grants_of (by decide +kernel)⟩,
    ⟨(st fun h => ((eth1 h).setReg PLL_STAT 0 0xFFFF#32).updEth 1 fun x => { x with tq := [(3, [{ etype := 5, events := 2, payload := [1, 2] }, {}])], txWait := [(3, {})] }), (.mp 0), (1), (1#32), ⟨grants_of (by decide +kernel), by decide +kernel⟩⟩,
    ⟨(st id), (.mp 0), grants_of (by decide +kernel)⟩,
    ⟨(st fun h => { h with dev := 99, ptp := 2 ^ 80 }), (.mp 0), grants_of (by decide +kernel)⟩,
    ⟨(st id), (.mp 0), (1), grants_of (by decide +kernel)⟩,
    ⟨(st fun h => h.updDdr 1 fun x => { x with wq := [(0, [1])] }), (.mp 0), (1), grants_of (by decide +kernel)⟩,
    ⟨(st fun h => h.setReg DDR_CFG 1 1#32), (.mp 0), (1), ⟨grants_of (by decide +kernel), by decide +kernel⟩⟩,
    ⟨(st id), (.mp 0), (1), (0xFFFFFFFF#32), ⟨grants_of (by decide +kernel), by decide +kernel⟩⟩,
    ⟨(st fun h => h.setReg PLL_STAT 0 0xFFFF#32), (.mp 0), (1), (1#32), ⟨grants_of (by decide +kernel), by decide +kernel⟩⟩,
    ⟨(st fun h => h.setReg LIC_STAT 0 2#32), (.mp 0), (1), ⟨grants_of (by decide +kernel), by decide +kernel⟩⟩,
    ⟨(st id), (.mp 0), (1), ⟨grants_of (by decide +kernel), by decide +kernel⟩⟩,
    ⟨(st id), (.mp 0), (1), grants_of (by decide +kernel)⟩,
    ⟨(st fun h => ((h.setReg IMG_PTR 1 0x80000010#32).setReg DDR_STAT 0 1#32).setReg DDR_CFG 0 1#32), (1), (0), (0x400), by decide +kernel⟩⟩

theorem witness_PowerAndResetRequests :
    (∃ (s : State) (who : Requester) (c : Cluster) (v : Word), (s.Grants who CL_PWR_REQ c true) ∧ (s.hw.reg RST_STAT = 0#32) ∧ ((s.hw.cl c).pst = .steep) ∧ (bits v 1 0 = 0)) ∧
    (∃ (s : State) (who : Requester) (c : Cluster) (v : Word), (s.Grants who CL_PWR_REQ c true) ∧ (s.hw.reg RST_STAT = 0#32) ∧ ((s.hw.cl c).pst = .brew) ∧ (s.hw.resident c = true) ∧ (s.hw.flag STEP_CTRL 0 0 = true) ∧ (bits v 1 0 = 1)) ∧
    (∃ (s : State) (who : Requester) (c : Cluster) (v : Word), (s.Grants who CL_PWR_REQ c true) ∧ (s.hw.reg RST_STAT = 0#32) ∧ ((s.hw.cl c).pst = .toSteep) ∧ ((s.hw.cl c).pend = none) ∧ (bits v 1 0 = 2)) ∧
    (∃ (s : State) (who : Requester) (c : Cluster) (v : Word), (s.Grants who CL_PWR_REQ c true) ∧ (s.hw.reg RST_STAT ≠ 0#32) ∧ (bits v 1 0 ≠ 3)) ∧
    (∃ (s : State) (who : Requester) (c : Cluster), (s.Grants who CL_VTRIM c true)) ∧
    (∃ (s : State) (who : Requester), (s.Grants who RST_CMD 0 true) ∧ (s.hw.reg RST_STAT = 0#32)) ∧
    (∃ (s : State) (who : Requester), (s.Grants who RST_CMD 0 true) ∧ (s.hw.reg RST_STAT ≠ 0#32)) ∧
    (∃ (s : State) (who : Requester) (hi : Bool) (i : Fin 32) (c : Nat), (s.Grants who (if hi then CL_RST_HI else CL_RST_LO) 0 true) ∧ (c = 32 * b2n hi + i) ∧ (s.hw.reg RST_STAT = 0#32) ∧ ((s.hw.cl c).pst = .brew)) ∧
    (∃ (s : State) (who : Requester) (c : Cluster), (s.Grants who CORE_RST_PULSE c true) ∧ (s.hw.coreResetIgn c = false)) ∧
    (∃ (s : State) (who : Requester) (c : Cluster), (s.Grants who CORE_RST_HOLD c true) ∧ (s.hw.coreResetIgn c = false) ∧ (s.hw.reg CORE_RST_HOLD c = 0#32)) ∧
    (∃ (s : State) (who : Requester) (c : Cluster) (v : Word), (s.Grants who CORE_RST_HOLD c true) ∧ (s.hw.coreResetIgn c = false) ∧ (v &&& ~~~ s.hw.reg CORE_RST_HOLD c = 0#32)) ∧
    (∃ (s : State) (who : Requester) (v : Word), (s.Grants who FUSE_PROG 0 true) ∧ (bits v 31 16 = 0xB10E) ∧ (bits v 1 0 ≠ 0) ∧ (s.hw.pkg.blow = none)) :=
  ⟨⟨(st fun h => h.updCl 1 fun x => { x with pst := .steep, waitAdv := true }), (.mp 0), (1), (0#32), ⟨grants_of (by decide +kernel), by decide +kernel⟩⟩,
    ⟨(st fun h => (res0 h).setReg STEP_CTRL 0 1#32), (.mp 0), (1), (1#32), ⟨grants_of (by decide +kernel), by decide +kernel⟩⟩,
    ⟨(st fun h => h.updCl 1 fun x => { x with pst := .toSteep }), (.mp 0), (1), (2#32), ⟨grants_of (by decide +kernel), by decide +kernel⟩⟩,
    ⟨(st fun h => h.setReg RST_STAT 0 2#32), (.mp 0), (1), (2#32), ⟨grants_of (by decide +kernel), by decide +kernel⟩⟩,
    ⟨(st id), (.mp 0), (1), grants_of (by decide +kernel)⟩,
    ⟨(st fun h => av1 (ph .delivery (h.setReg STEP_CTRL 0 3#32))), (.mp 0), ⟨grants_of (by decide +kernel), by decide +kernel⟩⟩,
    ⟨(st fun h => h.setReg RST_STAT 0 2#32), (.mp 0), ⟨grants_of (by decide +kernel), by decide +kernel⟩⟩,
    ⟨(st id), (.mp 0), (true), (3), _, ⟨grants_of (by decide +kernel), rfl, by decide +kernel⟩⟩,
    ⟨(st fun h => av1 ((h.updCore 1 fun x => { x with listq := [{}] }).setReg CORE_LAYOUT 1 0x100000#32)), (.mp 0), (0), ⟨grants_of (by decide +kernel), by decide +kernel⟩⟩,
    ⟨(st av1), (.mp 0), (0), ⟨grants_of (by decide +kernel), by decide +kernel⟩⟩,
    ⟨(st fun h => h.setReg CORE_RST_HOLD 1 5#32), (.mp 0), (1), (1#32), ⟨grants_of (by decide +kernel), by decide +kernel⟩⟩,
    ⟨(st id), (.mp 0), (0xB10E0002#32), ⟨grants_of (by decide +kernel), by decide +kernel⟩⟩⟩

theorem witness_PackageRestNeedsAnIdleMachine :
    (∃ (s : State) (who : Requester) (v : Word) (p : PState), (s.Grants who PKG_PWR_REQ 0 true) ∧ (s.hw.reg RST_STAT = 0#32) ∧ (s.hw.pkg.pst = .brew) ∧ (((bits v 1 0 = 1 ∧ p = .toSteep) ∨ (bits v 1 0 = 2 ∧ p = .toCold))) ∧ ((s.hw.flag STEP_CTRL 0 0 = false ∧ s.hw.phaseCode = 0 ∧ s.hw.flag TOPO_POS 0 16 = false))) ∧
    (∃ (s : State) (who : Requester) (v : Word) (p : PState), (s.Grants who PKG_PWR_REQ 0 true) ∧ (s.hw.reg RST_STAT = 0#32) ∧ (s.hw.pkg.pst = .brew) ∧ (((bits v 1 0 = 1 ∧ p = .toSteep) ∨ (bits v 1 0 = 2 ∧ p = .toCold))) ∧ (¬ (s.hw.flag STEP_CTRL 0 0 = false ∧ s.hw.phaseCode = 0 ∧ s.hw.flag TOPO_POS 0 16 = false))) :=
  ⟨⟨(st id), (.mp 0), (1#32), (.toSteep), ⟨grants_of (by decide +kernel), by decide +kernel⟩⟩,
    ⟨(st fun h => h.setReg STEP_CTRL 0 1#32), (.mp 0), (1#32), (.toSteep), ⟨grants_of (by decide +kernel), by decide +kernel⟩⟩⟩

theorem witness_FaultRegisterAccesses :
    (∃ (s : State) (who : Requester) (v : Word), (s.Grants who FLT_RAISE 0 true) ∧ (bits v 31 16 = 0xFA17) ∧ (isSource (bits v 9 0) = true)) ∧
    (∃ (s : State) (who : Requester), (s.Grants who FLT_CTRL 0 true)) ∧
    (∃ (s : State) (who : Requester) (e : _) (r : _), (s.Grants who FLT_LOG_POP 0 false) ∧ (isFw who = true) ∧ (s.hw.flt.log = e :: r)) ∧
    (∃ (s : State) (q : Quad) (e : _) (r : _), (s.Grants (.rcp q) FLT_LOG_POP 0 false) ∧ (s.hw.flt.log = e :: r)) ∧
    (∃ (s : State) (who : Requester), (s.Grants who FLT_LOG_POP 0 false) ∧ (s.hw.flt.log = [])) :=
  ⟨⟨(st fun h => h.setReg FLT_RAISE_UNIT 0 5#32), (.mp 0), (0xFA170001#32), ⟨grants_of (by decide +kernel), by decide +kernel⟩⟩,
    ⟨(st fun h => (h.setReg FLT_STAT 0 0xFF#32).setReg STEP_CTRL 0 3#32), (.mp 0), grants_of (by decide +kernel)⟩,
    ⟨(st fun h => h.updFlt fun f => { f with log := [(1#32, 2#32, 3#32)] }), (.mp 0), ((1#32, 2#32, 3#32)), ([]), ⟨grants_of (by decide +kernel), by decide +kernel⟩⟩,
    ⟨(st fun h => h.updFlt fun f => { f with log := [(1#32, 2#32, 3#32)] }), (1), ((1#32, 2#32, 3#32)), ([]), ⟨grants_of (by decide +kernel), by decide +kernel⟩⟩,
    ⟨(st id), (.mp 0), ⟨grants_of (by decide +kernel), by decide +kernel⟩⟩⟩

theorem witness_InterruptRegisterAccesses :
    (∃ (s : State) (m : Quad), (s.Grants (.mp m) (IC_CLAIM m) 0 false) ∧ (s.hw.irqBest m ≠ 0)) ∧
    (∃ (s : State) (m : Quad), (s.Grants (.mp m) (IC_CLAIM m) 0 false) ∧ (s.hw.irqBest m = 0)) ∧
    (∃ (s : State) (who : Requester) (m : Quad), (s.Grants who (IC_CLAIM m) 0 false) ∧ (who ≠ .mp m)) ∧
    (∃ (s : State) (m : Quad) (v : Word), (s.Grants (.mp m) (IC_COMPLETE m) 0 true) ∧ (s.hw.irqActive (bits v 7 0) = m + 1) ∧ (s.hw.stormEn (bits v 7 0) = false)) ∧
    (∃ (s : State) (who : Requester) (m : Quad) (v : Word), (s.Grants who (IC_COMPLETE m) 0 true) ∧ (who ≠ .mp m ∨ s.hw.irqActive (bits v 7 0) ≠ m + 1)) ∧
    (∃ (s : State) (who : Requester) (i : Fin 8), (s.Grants who (IC_MASK i) 0 true)) ∧
    (∃ (s : State) (who : Requester), (s.Grants who IC_SWI_SET 0 true)) ∧
    (∃ (s : State) (who : Requester), (s.Grants who IC_SWI_CLR 0 true)) :=
  ⟨⟨(st fun h => (((h.updFlt fun f => { f with swi := 1#32 }).setReg (IC_MASK 3) 0 0#32).setReg (IC_PRIO 12) 0 5#32).setReg (IC_TGT 12) 0 2#32), (1), ⟨grants_of (by decide +kernel), by decide +kernel⟩⟩,
    ⟨(st id), (1), ⟨grants_of (by decide +kernel), by decide +kernel⟩⟩,
    ⟨(st id), (.mp 0), (1), ⟨grants_of (by decide +kernel), by decide +kernel⟩⟩,
    ⟨(st fun h => (h.updFlt fun f => { f with active := [(5, 2)] }).setReg (IC_STORM_EN 0) 0 0#32), (1), (5#32), ⟨grants_of (by decide +kernel), by decide +kernel⟩⟩,
    ⟨(st fun h => h.updFlt fun f => { f with active := [(5, 2)] }), (.mp 2), (1), (5#32), ⟨grants_of (by decide +kernel), by decide +kernel⟩⟩,
    ⟨(st fun h => h.updFlt fun f => { f with storm := [(3, 4), (32, 1), (33, 2)] }), (.mp 0), (1), grants_of (by decide +kernel)⟩,
    ⟨(st fun h => h.updFlt fun f => { f with swi := 0xFF#32 }), (.mp 0), grants_of (by decide +kernel)⟩,
    ⟨(st fun h => h.updFlt fun f => { f with swi := 0xFF#32 }), (.mp 0), grants_of (by decide +kernel)⟩⟩

theorem witness_ContextAndReportRequests :
    (∃ (s : State) (who : Requester) (n : Fin 16), (s.Grants who CTX_NEXT 0 true) ∧ (s.hw.switching = false) ∧ (s.hw.ctxState n = 1) ∧ (¬ (s.hw.someResident = true ∧ n.val = s.hw.ctx))) ∧
    (∃ (s : State) (who : Requester) (n : Fin 16), (s.Grants who CTX_NEXT 0 true) ∧ (s.hw.switching = false) ∧ (s.hw.someResident = true) ∧ (n.val = s.hw.ctx)) ∧
    (∃ (s : State) (who : Requester) (n : Fin 16), (s.Grants who CTX_NEXT 0 true) ∧ (s.hw.switching = false) ∧ (s.hw.ctxState n ≠ 1) ∧ (¬ (s.hw.someResident = true ∧ n.val = s.hw.ctx))) ∧
    (∃ (s : State) (who : Requester), (s.Grants who ATT_CMD 0 true) ∧ (s.hw.flag ATT_STAT 0 0 = false) ∧ (s.hw.flag STEP_CTRL 0 0 = true)) ∧
    (∃ (s : State) (who : Requester), (s.Grants who ATT_CMD 0 true) ∧ (s.hw.flag ATT_STAT 0 0 = true)) :=
  ⟨⟨(st fun h => h.setReg CTX_STATE 0 4#32), (.mp 0), (1), ⟨grants_of (by decide +kernel), by decide +kernel⟩⟩,
    ⟨(st res0), (.mp 0), (0), ⟨grants_of (by decide +kernel), by decide +kernel⟩⟩,
    ⟨(st res0), (.mp 0), (1), ⟨grants_of (by decide +kernel), by decide +kernel⟩⟩,
    ⟨(st fun h => h.setReg STEP_CTRL 0 1#32), (.mp 0), ⟨grants_of (by decide +kernel), by decide +kernel⟩⟩,
    ⟨(st fun h => h.setReg ATT_STAT 0 1#32), (.mp 0), ⟨grants_of (by decide +kernel), by decide +kernel⟩⟩⟩

theorem witness_ClusterPowerSequences :
    (∃ (s : State) (c : Cluster), (s.hw.powered = true) ∧ ((s.hw.cl c).pst = .toSteep) ∧ ((s.hw.cl c).pend = none) ∧ (s.hw.waits = [])) ∧
    (∃ (s : State) (c : Cluster), (s.hw.powered = true) ∧ ((s.hw.cl c).pst = .fromSteep) ∧ ((s.hw.cl c).pend = none) ∧ (s.hw.waits = [])) ∧
    (∃ (s : State) (c : Cluster), (s.hw.powered = true) ∧ ((s.hw.cl c).pst = .toCold) ∧ ((s.hw.cl c).pend = none)) ∧
    (∃ (s : State) (c : Cluster), (s.hw.powered = true) ∧ ((s.hw.cl c).pst = .fromCold) ∧ ((s.hw.cl c).pend = none)) ∧
    (∃ (s : State) (c : Cluster), ((s.hw.cl c).pst = .brew)) :=
  ⟨⟨(st fun h => (((h.updCl 1 fun x => { x with pst := .toSteep, avail := true }).updBank 1 3 fun b => { b with pwr := 2 }).updBank 1 4 fun b => { b with pwr := 1, waking := true })), (1), by decide +kernel⟩,
    ⟨(st fun h => ((h.updCl 1 fun x => { x with pst := .fromSteep, regStat := 2 }).updBank 1 3 fun b => { b with pwr := 2 }).setReg BANK_PWR_LO 1 0x98#32), (1), by decide +kernel⟩,
    ⟨(st fun h => ((h.updCl 1 fun x => { x with pst := .toCold, temp := 55 }).setWord (bankBase 1 5 + 0x5FFFC) 0x12345678#32).setWord (bankBase 1 31 + 4) 0x12345678#32), (1), by decide +kernel⟩,
    ⟨(st fun h => h.updCl 1 fun x => { x with pst := .fromCold, regStat := 12 }), (1), by decide +kernel⟩,
    ⟨(st id), (1), by decide +kernel⟩⟩

theorem witness_PackagePowerSequences :
    (∃ (s : State), (s.hw.powered = true) ∧ (s.hw.pkg.pst = .toSteep) ∧ (s.hw.pkg.pend = none) ∧ ((∀ c, c < 64 → seqEnd (s.hw.cl c).pst = none))) ∧
    (∃ (s : State), (s.hw.pkg.pst = .fromSteep) ∧ (s.hw.pkg.inReset = false) ∧ (s.hw.pkg.pend = none)) ∧
    (∃ (s : State), (s.hw.pkg.pst = .toCold) ∧ (s.hw.pkg.inReset = false) ∧ (s.hw.pkg.pend = none)) :=
  ⟨⟨(st fun h => ((h.updPkg fun p => { p with pst := .toSteep }).updCl 3 fun x => { x with pst := .cold }).updCl 4 fun x => { x with pst := .steep }), by decide +kernel⟩,
    ⟨(st fun h => ((h.updPkg fun p => { p with pst := .fromSteep }).updCl 3 fun x => { x with pst := .cold }).updCl 4 fun x => { x with pst := .steep }), by decide +kernel⟩,
    ⟨(st fun h => ((((h.updPkg fun p => { p with pst := .toCold }).setWord (bankBase 1 5 + 0x5FFFC) 0x12345678#32).setWord (aomBase + 4) 7#32).setReg STEP_NUM 0 5#32).setReg WAKE_EN 0 3#32), by decide +kernel⟩⟩

theorem witness_WakesAndAlarms :
    (∃ (s : State) (g : Fin 8) (rise : Bool), (s.hw.flag WAKE_EN 0 g = true) ∧ (s.hw.flag WAKE_EDGE 0 (2 * g + b2n (!rise)) = true) ∧ (s.hw.pkg.pst = .steep)) ∧
    (∃ (s : State) (g : Fin 8) (rise : Bool), (s.hw.flag WAKE_EN 0 g = false ∨ s.hw.flag WAKE_EDGE 0 (2 * g + b2n (!rise)) = false)) ∧
    (∃ (s : State), (s.hw.reg AO_WAKE_TMR ≠ 0#32) ∧ (s.hw.flag WAKE_EN 0 8 = true) ∧ (s.hw.pkg.pst = .steep)) ∧
    (∃ (s : State) (c : Cluster) (vm : Bool), (((s.hw.cl c).regStat >>> b2n vm) % 2 = 1) ∧ ((s.hw.cl c).pst ≠ .cold)) ∧
    (∃ (s : State) (x : BitVec 12), (((s.hw.fld THERM_CFG 0 7 0 : Nat) : Int) * 8 ≤ x.toInt)) ∧
    (∃ (s : State) (x : BitVec 12), (1120 ≤ x.toInt) ∧ (s.hw.pkg.pst ≠ .cold)) ∧
    (∃ (s : State) (i : Fin 16) (t0 : Nat), (s.hw.powered = true) ∧ (s.hw.pllNeeded i = true) ∧ (s.hw.waits = []) ∧ (Tbl.find s.hw.pkg.pllAt i = some t0)) ∧
    (∃ (s : State) (q : Quad) (dpll : Bool), (s.hw.powered = true) ∧ (s.hw.pllLocked (if dpll then 4 + q else q) = true)) :=
  ⟨⟨(st fun h => ((h.updPkg fun p => { p with pst := .steep }).setReg WAKE_EN 0 8#32).setReg WAKE_EDGE 0 0x80#32), (3), (false), by decide +kernel⟩,
    ⟨(st fun h => (h.updPkg fun p => { p with pst := .steep }).setReg WAKE_EN 0 8#32), (3), (false), by decide +kernel⟩,
    ⟨(st fun h => ((h.updPkg fun p => { p with pst := .steep }).setReg WAKE_EN 0 0x100#32).setReg AO_WAKE_TMR 0 0x80#32), by decide +kernel⟩,
    ⟨(st fun h => (h.updPkg fun p => { p with pst := .steep }).updCl 1 fun x => { x with pst := .steep, regStat := 2, temp := 5 }), (1), (true), by decide +kernel⟩,
    ⟨(st id), (1000#12), by decide +kernel⟩,
    ⟨(st id), (1120#12), by decide +kernel⟩,
    ⟨(st fun h => (h.setReg DDR_CFG 3 1#32).updPkg fun p => { p with pllAt := [(7, 30)] }), (7), (30), by decide +kernel⟩,
    ⟨(st fun h => (h.setReg PLL_STAT 0 0xFF#32).setReg DDR_CFG 1 1#32), (1), (true), by decide +kernel⟩⟩

theorem witness_ResetsLeaveTheirDomains :
    (∃ (s : State), (s.hw.pkg.inReset = true)) ∧
    (∃ (s : State), (s.hw.pkg.inReset = false)) :=
  ⟨⟨(st fun h => (h.updPkg fun p => { p with inReset := true }).setReg PAD_STAT 0 0xFF#32), by decide +kernel⟩,
    ⟨(st id), by decide +kernel⟩⟩

theorem witness_ComputeResetAndUnitResets :
    (∃ (s : State), (s.hw.powered = true) ∧ (s.hw.reg RST_STAT = 1#32)) ∧
    (∃ (s : State), (s.hw.powered = true) ∧ (s.hw.reg RST_STAT = 2#32) ∧ (s.hw.waits = [])) ∧
    (∃ (s : State), (s.hw.powered = true) ∧ (s.hw.reg RST_STAT = 3#32) ∧ (s.hw.waits = [])) ∧
    (∃ (s : State), (s.hw.powered = true) ∧ (s.hw.reg RST_STAT = 4#32)) ∧
    (∃ (s : State), (s.hw.powered = true) ∧ (s.hw.reg RST_STAT = 5#32)) ∧
    (∃ (s : State), (s.hw.reg RST_STAT = 0#32)) ∧
    (∃ (s : State) (c : Cluster), (s.hw.powered = true) ∧ ((s.hw.cl c).inReset = true) ∧ ((s.hw.cl c).holdCores = false) ∧ (s.hw.reg CORE_RST_HOLD c = 0#32) ∧ (s.hw.waits = []) ∧ ((∀ k ∈ coresOf c, (s.hw.core k).inReset = true → (s.hw.core k).rstAt + us ≤ max s.hw.dev ((s.hw.cl c).rstAt + 2 * us)))) ∧
    (∃ (s : State) (c : Cluster), (s.hw.powered = true) ∧ ((s.hw.cl c).inReset = true) ∧ ((s.hw.cl c).holdCores = true) ∧ (s.hw.waits = [])) ∧
    (∃ (s : State) (k : Core), (s.hw.powered = true) ∧ ((s.hw.core k).inReset = true) ∧ (s.hw.flag CORE_RST_HOLD (k / 32) (k % 32) = false) ∧ ((s.hw.cl (k / 32)).inReset = false) ∧ (s.hw.waits = [])) ∧
    (∃ (s : State) (k : Core), (s.hw.flag CORE_RST_HOLD (k / 32) (k % 32) = true)) :=
  ⟨⟨(st fun h => (((h.setReg RST_STAT 0 1#32).updCore 3 fun x => { x with avail := true }).updCl 2 fun v => { v with avail := true, pst := .brew }).updCl 3 fun v => { v with pst := .steep, inReset := true }), by decide +kernel⟩,
    ⟨(st fun h => (h.setReg RST_STAT 0 2#32).updPkg fun p => { p with rstAt := 5 }), by decide +kernel⟩,
    ⟨(st fun h => (((h.setReg RST_STAT 0 3#32).setWord (bankBase 1 5 + 0x5FFFC) 7#32).setWord (bankBase 0 31 + 4) 9#32).updCl 0 fun v => { v with pst := .steep }), by decide +kernel⟩,
    ⟨(st fun h => h.setReg RST_STAT 0 4#32), by decide +kernel⟩,
    ⟨(st fun h => ((h.setReg RST_STAT 0 5#32).setReg DDR_CFG 1 1#32).setReg DDR_STAT 1 2#32), by decide +kernel⟩,
    ⟨(st id), by decide +kernel⟩,
    ⟨(st fun h => ((h.updCl 1 fun v => { v with inReset := true }).updCore 33 fun x => { x with inReset := true }).updCore 34 fun x => { x with inReset := true, avail := true }), (1), by decide +kernel⟩,
    ⟨(st fun h => (h.updCl 1 fun v => { v with inReset := true, holdCores := true })), (1), by decide +kernel⟩,
    ⟨(st fun h => h.updCore 33 fun x => { x with inReset := true }), (33), by decide +kernel⟩,
    ⟨(st fun h => (h.updCore 33 fun x => { x with inReset := true }).setReg CORE_RST_HOLD 1 2#32), (33), by decide +kernel⟩⟩

theorem witness_BootPaths :
    (∃ (s : State), (s.hw.powered = true) ∧ (s.hw.pkg.booting = true) ∧ (s.hw.fw.net = false)) ∧
    (∃ (s : State) (n : _), (s.hw.powered = true) ∧ (s.hw.netBooting = true) ∧ (s.hw.fw.offer = some n) ∧ (n ≤ s.hw.fw.nextOff)) ∧
    (∃ (s : State), (s.hw.pkg.pst = .fromCold) ∧ (s.hw.pkg.inReset = false) ∧ (s.hw.pkg.pwrGood = false) ∧ (s.hw.pkg.railWait = false)) ∧
    (∃ (s : State), (s.hw.pkg.pst = .fromCold) ∧ (s.hw.pkg.inReset = false) ∧ (s.hw.pkg.pwrGood = true) ∧ (s.hw.pkg.pend = none) ∧ (s.hw.waits = [])) ∧
    (∃ (s : State), ((s.hw.netBooting = false ∨ s.hw.fw.offer ≠ none))) ∧
    (∃ (s : State) (f : RxFrame) (l : List RxFrame), ((s.hw.eth 0).rcpIn = f :: l) ∧ (s.hw.powered = true) ∧ (roeneKind f.payload = 0x11) ∧ (s.hw.netBooting = true) ∧ (s.hw.fw.offer = none) ∧ ((beWord f.payload 2).toNat ≤ 2 ^ 23)) ∧
    (∃ (s : State), ((s.hw.eth 0).rcpIn = [])) ∧
    (∃ (s : State) (f : RxFrame) (l : List RxFrame) (n : Nat) (o : Nat) (m : Nat), ((s.hw.eth 0).rcpIn = f :: l) ∧ (s.hw.fw.offer = some n) ∧ (o = s.hw.fw.nextOff) ∧ (m = min 1024 (n - o)) ∧ (s.hw.powered = true) ∧ (roeneKind f.payload = 0x12) ∧ (s.hw.netBooting = true) ∧ (o < n) ∧ ((beWord f.payload 1).toNat = o) ∧ ((beWord f.payload 2).toNat = m) ∧ (m ≤ f.payload.length - 16)) ∧
    (∃ (s : State) (f : RxFrame) (l : List RxFrame) (n : Nat), ((s.hw.eth 0).rcpIn = f :: l) ∧ (s.hw.fw.offer = some n) ∧ (s.hw.powered = true) ∧ (roeneKind f.payload = 0x12) ∧ (s.hw.netBooting = true) ∧ ((beWord f.payload 1).toNat ≠ s.hw.fw.nextOff)) :=
  ⟨⟨(st fun h => h.updPkg fun p => { p with booting := true }), by decide +kernel⟩,
    ⟨(st fun h => (h.updPkg fun p => { p with booting := true }).updFw fun w => { w with net := true, offer := some 300, nextOff := 300 }), (300), by decide +kernel⟩,
    ⟨(st fun h => h.updPkg fun p => { p with pst := .fromCold, pwrGood := false }), by decide +kernel⟩,
    ⟨(st fun h => h.updPkg fun p => { p with pst := .fromCold }), by decide +kernel⟩,
    ⟨(st id), by decide +kernel⟩,
    ⟨(st fun h => (h.updFw fun w => { w with net := true }).updEth 0 fun e => { e with rcpIn := [{ src := 7, payload := [0x11, 0x11, 0, 0, 0,0,0,0, 0,0,4,0] }] }), _, _, ⟨rfl, by decide +kernel⟩⟩,
    ⟨(st id), by decide +kernel⟩,
    ⟨(st fun h => (h.updFw fun w => { w with net := true, offer := some 20 }).updEth 0 fun e => { e with rcpIn := [{ src := 7, payload := [0x11, 0x12, 0, 0, 0,0,0,0, 0,0,0,20, 0,0,0,0] ++ List.replicate 20 5#8 }] }), _, _, _, _, _, ⟨rfl, rfl, rfl, rfl, by decide +kernel⟩⟩,
    ⟨(st fun h => (h.updFw fun w => { w with net := true, offer := some 20 }).updEth 0 fun e => { e with rcpIn := [{ src := 7, payload := [0x11, 0x12, 0, 0, 0,0,0,9, 0,0,0,20, 0,0,0,0] ++ List.replicate 20 5#8 }] }), _, _, _, ⟨rfl, rfl, by decide +kernel⟩⟩⟩

theorem witness_FaultCollector :
    (∃ (s : State) (r : Report), (s.hw.powered = true) ∧ (nextReport s.hw.reports = some r) ∧ (s.hw.severity r.src = 0) ∧ (s.hw.flt.log.length < 64)) ∧
    (∃ (s : State) (r : Report), (s.hw.powered = true) ∧ (nextReport s.hw.reports = some r) ∧ (isSource r.src = true) ∧ (s.hw.severity r.src = 1) ∧ (s.hw.flt.log.length < 64) ∧ (s.hw.flag FLT_STAT 0 0 = false)) ∧
    (∃ (s : State) (r : Report), (s.hw.powered = true) ∧ (nextReport s.hw.reports = some r) ∧ (isSource r.src = true) ∧ (s.hw.severity r.src = 1) ∧ (64 ≤ s.hw.flt.log.length) ∧ (s.hw.flag FLT_STAT 0 0 = true)) ∧
    (∃ (s : State) (r : Report) (i : Nat), (s.hw.powered = true) ∧ (nextReport s.hw.reports = some r) ∧ (isSource r.src = true) ∧ (s.hw.severity r.src = 2) ∧ (r.unit = .pkg i)) ∧
    (∃ (s : State) (x : Nat), (s.hw.powered = true) ∧ (s.hw.flt.quietFrom = some x) ∧ (s.hw.reports = []) ∧ (s.hw.waits = []) ∧ (Tbl.get 0 s.hw.flt.guard 2 ≠ 1)) ∧
    (∃ (s : State), (s.hw.flt.quietFrom = none)) ∧
    (∃ (s : State) (i : Fin 256) (rose : Bool), (s.hw.powered = true) ∧ (Tbl.get 0 s.hw.flt.guard i ≠ 0) ∧ (s.hw.waits = []) ∧ ((rose = false ∨ Tbl.get 0 s.hw.flt.guard i ≠ 1)) ∧ (s.hw.irqLevel i = false)) ∧
    (∃ (s : State) (i : Fin 256) (rose : Bool), (s.hw.powered = true) ∧ (Tbl.get 0 s.hw.flt.guard i ≠ 0) ∧ (s.hw.waits = []) ∧ ((rose = false ∨ Tbl.get 0 s.hw.flt.guard i ≠ 1)) ∧ (s.hw.irqLevel i = true)) ∧
    (∃ (s : State) (i : Fin 256), (s.hw.powered = true) ∧ (Tbl.get 0 s.hw.flt.guard i = 1) ∧ (s.hw.waits = []) ∧ (s.hw.irqLevel i = true) ∧ (Tbl.get 0 s.hw.flt.storm i + 1 < s.hw.stormN)) ∧
    (∃ (s : State) (i : Fin 256), (s.hw.powered = true) ∧ (Tbl.get 0 s.hw.flt.guard i = 1) ∧ (s.hw.waits = []) ∧ (s.hw.irqLevel i = false) ∧ (s.hw.stormN ≤ Tbl.get 0 s.hw.flt.storm i + 1)) ∧
    (∃ (s : State) (i : Fin 256), (Tbl.get 0 s.hw.flt.guard i = 0)) :=
  ⟨⟨(st fun h => { h.setReg (FLT_SEV 19) 0 0#32 with reports := [{ src := 0x3C3, at_ := 17 }, { src := 0x130, unit := .bank 3 5, step := 9#32, at_ := 16 }] }), ({ src := 0x130, unit := .bank 3 5, step := 9#32, at_ := 16 }), by decide +kernel⟩,
    ⟨(st fun h => { (h.setReg (FLT_SEV 48) 0 1#32) with reports := [{ src := 0x3C3, at_ := 17 }, { src := 0x300, unit := .core 40, step := 9#32, at_ := 16 }] }), ({ src := 0x300, unit := .core 40, step := 9#32, at_ := 16 }), by decide +kernel⟩,
    ⟨(st fun h => { ((h.setReg (FLT_SEV 48) 0 1#32).updFlt fun f => { f with log := List.replicate 64 (1#32,2#32,3#32) }).setReg FLT_STAT 0 1#32 with reports := [{ src := 0x300, unit := .core 40, step := 9#32, at_ := 16 }] }), ({ src := 0x300, unit := .core 40, step := 9#32, at_ := 16 }), by decide +kernel⟩,
    ⟨(st fun h => { h.setReg (FLT_SEV 60) 0 0xAAAAAAAA#32 with reports := [{ src := 0x3C3, unit := .pkg 3 }] }), ({ src := 0x3C3, unit := .pkg 3 }), (3), by decide +kernel⟩,
    ⟨(st fun h => ((h.updFlt fun f => { f with quietFrom := some 5, quiet := 3 }).setReg FLT_STAT 0 9#32).setReg FAULT_FIRST 0 0x80001005#32), (5), by decide +kernel⟩,
    ⟨(st id), by decide +kernel⟩,
    ⟨(st fun h => (h.updFlt fun f => { f with guard := Tbl.set 0 f.guard 3 2, guardEnd := Tbl.set 0 f.guardEnd 3 55, storm := Tbl.set 0 f.storm 3 4 })), (3), (true), by decide +kernel⟩,
    ⟨(st fun h => (h.updFlt fun f => { f with guard := Tbl.set 0 f.guard 3 2, guardEnd := Tbl.set 0 f.guardEnd 3 55, storm := Tbl.set 0 f.storm 3 4 }).setReg FLT_STAT 0 4#32), (3), (true), by decide +kernel⟩,
    ⟨(st fun h => (h.updFlt fun f => { f with guard := Tbl.set 0 f.guard 3 1, guardEnd := Tbl.set 0 f.guardEnd 3 55, storm := Tbl.set 0 f.storm 3 2 }).setReg FLT_STAT 0 4#32), (3), by decide +kernel⟩,
    ⟨(st fun h => (h.setReg IC_STORM_CFG 0 0x000A0000#32).updFlt fun f => { f with guard := Tbl.set 0 f.guard 3 1, guardEnd := Tbl.set 0 f.guardEnd 3 55, storm := Tbl.set 0 f.storm 3 9 }), (3), by decide +kernel⟩,
    ⟨(st id), (3), by decide +kernel⟩⟩

theorem witness_ContextSwitchIntervals :
    (∃ (s : State), (s.hw.powered = true) ∧ (s.hw.sw.stage = 1) ∧ (s.hw.step.phase = .delivery) ∧ (s.hw.step.forceDel = false) ∧ (s.hw.step.framesDone = true) ∧ (s.hw.arrayEn = false) ∧ (s.hw.localQuiet = true) ∧ (s.hw.quietLate = false) ∧ (s.hw.waits = [])) ∧
    (∃ (s : State) (n : Nat), (s.hw.powered = true) ∧ (s.hw.sw.stage = 2) ∧ (s.hw.sw.out = some n) ∧ ((∀ c, c < 64 → s.hw.inPart n c = true → (s.hw.roast c).busy = false))) ∧
    (∃ (s : State) (n : Nat), (s.hw.powered = true) ∧ (s.hw.sw.stage = 3) ∧ (s.hw.sw.out = some n)) ∧
    (∃ (s : State) (n : Nat), (s.hw.powered = true) ∧ (s.hw.sw.stage = 4) ∧ (s.hw.sw.out = some n)) ∧
    (∃ (s : State) (m : Nat), (s.hw.powered = true) ∧ (s.hw.sw.stage = 5) ∧ (s.hw.sw.to_ = m) ∧ (m < 16)) ∧
    (∃ (s : State), (s.hw.sw.stage = 0)) :=
  ⟨⟨(st fun h => { h.updStep fun x => { x with phase := .delivery, framesDone := true, forceDel := false } with sw := { stage := 1, out := some 0, to_ := 3 } }), by decide +kernel⟩,
    ⟨(st fun h => { (res0 h).updCl 1 fun v => { v with avail := true } with sw := { stage := 2, out := some 0, to_ := 3 } }), (0), by decide +kernel⟩,
    ⟨(st fun h => { ((res0 h).updCore 40 fun x => { x with resident := 3 }).setWord (coreBase 40) 9#32 with sw := { stage := 3, out := some 0, to_ := 3 } }), (0), by decide +kernel⟩,
    ⟨(st fun h => { ((res0 h).updCore 40 fun x => { x with resident := 3 }).setWord (bankBase 1 5 + 0x5FFFC) 9#32 with sw := { stage := 4, out := some 0, to_ := 3, at_ := 100 } }), (0), by decide +kernel⟩,
    ⟨(st fun h => { (res0 h).setReg CTX_STATE 0 0x42#32 with sw := { stage := 5, out := some 0, to_ := 3, at_ := 100 } }), (3), by decide +kernel⟩,
    ⟨(st id), by decide +kernel⟩⟩

theorem witness_ContextsAndRestores :
    (∃ (s : State), (s.hw.powered = true) ∧ (s.hw.fw.loads = [])) ∧
    (∃ (s : State) (a : Nat × Image) (l : List (Nat × Image)), (s.hw.powered = true) ∧ (s.hw.fw.loads = a :: l)) ∧
    (∃ (s : State) (n : Nat) (i : Image), (s.hw.powered = true) ∧ (s.hw.fw.loads = [(n, i)]) ∧ (s.hw.ctxState n = 0) ∧ (s.hw.loadResult n i ≠ 0)) ∧
    (∃ (s : State) (n : Nat) (i : Image), (s.hw.powered = true) ∧ (s.hw.fw.loads = [(n, i)]) ∧ (n < 16) ∧ (s.hw.ctxState n = 0) ∧ (s.hw.loadResult n i = 0) ∧ (s.hw.someResident = true)) ∧
    (∃ (s : State) (n : Fin 16), (s.hw.powered = true) ∧ (s.hw.ctxState n = 1) ∧ (s.hw.switchOf n = false) ∧ (s.hw.fw.setFlash.segs = [])) ∧
    (∃ (s : State) (n : Fin 16), (s.hw.ctxState n ≠ 1 ∨ s.hw.switchOf n = true)) ∧
    (∃ (s : State) (n : Fin 16) (i : Image), (s.hw.powered = true) ∧ (s.hw.ctxState n = 3) ∧ ((s.hw.ctxSt n).img = some i)) ∧
    (∃ (s : State), (s.hw.powered = true) ∧ (s.hw.someResident = true) ∧ (s.hw.switching = false)) ∧
    (∃ (s : State), (s.hw.powered = true) ∧ (s.hw.flag ATT_STAT 0 0 = true) ∧ (s.hw.attWait = false)) ∧
    (∃ (s : State) (k : Core), (s.hw.flag CORE_RST_HOLD (k / 32) (k % 32) = false)) ∧
    (∃ (s : State) (k : Core) (c : Nat), (s.hw.powered = true) ∧ (k.val / 32 = c) ∧ (s.hw.resident c = false) ∧ ((s.hw.cl c).inReset = true) ∧ (s.hw.reg RST_STAT = 0#32)) ∧
    (∃ (s : State) (k : Core), (s.hw.powered = true) ∧ (s.hw.resident (k / 32) = false) ∧ (s.hw.coreResetIgn (k / 32) = false) ∧ (s.hw.flag CORE_RST_HOLD (k / 32) (k % 32) = true) ∧ (s.hw.fw.retireDue.contains (64 * (k / 32) + s.hw.phys k) = false) ∧ (s.hw.orphaned k = false) ∧ ((s.hw.cl (k / 32)).remapPend = false) ∧ ((s.hw.core k).inReset = true) ∧ (s.hw.waits = [])) ∧
    (∃ (s : State), (s.hw.powered = true) ∧ (s.hw.flag FLT_STAT 0 1 = true) ∧ (s.hw.flag FLT_STAT 0 2 = false) ∧ (s.hw.reg RST_STAT = 0#32) ∧ (s.hw.sw.owed = none) ∧ (s.hw.someResident = false) ∧ (s.hw.holds = true) ∧ (s.hw.arrayEn = false) ∧ (s.hw.sw.resume = false) ∧ (s.hw.switchDue = none) ∧ (s.hw.waits = [])) ∧
    (∃ (s : State), (s.hw.flag FLT_STAT 0 1 = false)) :=
  ⟨⟨(st id), by decide +kernel⟩,
    ⟨(st fun h => h.updFw fun f => { f with loads := [(2, img0)] }), ((2, img0)), ([]), by decide +kernel⟩,
    ⟨(st fun h => h.updFw fun f => { f with loads := [(3, { img0 with verdict := 5 })] }), (3), ({ img0 with verdict := 5 }), by decide +kernel⟩,
    ⟨(st fun h => (((res0 h).setReg LIC_STAT 0 0x1F#32).setReg FAB_FRAMES 0 0#32).updFw fun f => { f with loads := [(3, imgOk)] }), (3), (imgOk), by decide +kernel⟩,
    ⟨(st fun h => h.setReg CTX_STATE 0 0x40#32), (3), by decide +kernel⟩,
    ⟨(st id), (3), Or.inl (by decide +kernel)⟩,
    ⟨(st fun h => ((h.setReg CTX_STATE 0 0xC0#32).updCtx 3 fun _ => { img := some imgOk }).setWord 0x1234 9#32), (3), (imgOk), by decide +kernel⟩,
    ⟨(st fun h => (((res0 h).updCore 40 fun x => { x with resident := 3 }).setWord (coreBase 40) 9#32).setWord (bankBase 1 5 + 0x5FFFC) 9#32), by decide +kernel⟩,
    ⟨(st fun h => { h.setReg ATT_STAT 0 1#32 with attReport := [1#32] }), by decide +kernel⟩,
    ⟨(st id), (40), by decide +kernel⟩,
    ⟨(st fun h => (h.setReg CORE_RST_HOLD 1 0x100#32).updCl 1 fun x => { x with inReset := true }), (40), (1), by decide +kernel⟩,
    ⟨(st fun h => (h.setReg CORE_RST_HOLD 1 0x100#32).updCore 40 fun x => { x with inReset := true }), (40), by decide +kernel⟩,
    ⟨(st fun h => h.setReg FLT_STAT 0 2#32), by decide +kernel⟩,
    ⟨(st id), by decide +kernel⟩⟩

theorem witness_FlashWorkAndCheckpointCopies :
    (∃ (s : State) (l : List Byte), (s.hw.powered = true) ∧ (l.length ≤ 2 ^ 23)) ∧
    (∃ (s : State) (r : LicRec), (s.hw.powered = true) ∧ (s.hw.licOk r = true)) ∧
    (∃ (s : State) (r : LicRec), (s.hw.licOk r = false)) ∧
    (∃ (s : State) (x : BitVec 12) (o : _) (l : List FlashOp), (s.hw.powered = true) ∧ (s.hw.fw.huFrom = none) ∧ (s.hw.fw.flash = o :: l) ∧ (s.hw.holdupOk x.toNat o.erase = true) ∧ (s.hw.waits = [])) ∧
    (∃ (s : State) (x : BitVec 12) (o : _) (l : List FlashOp), (s.hw.powered = true) ∧ (s.hw.fw.huFrom = none) ∧ (s.hw.fw.flash = o :: l) ∧ (s.hw.holdupOk x.toNat o.erase = false) ∧ (s.hw.waits = [])) ∧
    (∃ (s : State), (s.hw.fw.flash = []) ∧ (s.hw.fw.huFrom = none)) ∧
    (∃ (s : State) (x : BitVec 12) (n : Nat) (o : _) (l : List FlashOp), (s.hw.powered = true) ∧ (s.hw.fw.huFrom = some n) ∧ (s.hw.fw.flash = o :: l) ∧ (((s.hw.dev - n) / (1000 * us) + 1) * (1000 * us) ≤ s.hw.huMax) ∧ (s.hw.holdupOk x.toNat o.erase = false) ∧ (s.hw.waits = [])) ∧
    (∃ (s : State) (n : Nat) (o : _) (l : List FlashOp), (s.hw.powered = true) ∧ (s.hw.fw.huFrom = some n) ∧ (s.hw.fw.flash = o :: l) ∧ (o.job = 0) ∧ (s.hw.waits = [])) ∧
    (∃ (s : State) (c : Cluster), (s.hw.powered = true) ∧ (s.hw.flag CKPT_STAT c 31 = true) ∧ (s.hw.resident c = true) ∧ (s.hw.fw.setNow.segs = []) ∧ (s.hw.segsFrom c (s.hw.fld CKPT_STAT c 4 0) (s.hw.fld CKPT_STAT c 10 5) = []) ∧ (s.hw.setComplete [] = false)) ∧
    (∃ (s : State) (c : Cluster), (s.hw.flag CKPT_STAT c 31 = false)) :=
  ⟨⟨(st id), (List.replicate 5000 7#8), by decide +kernel⟩,
    ⟨(fuses 0), ({ device := 0, feats := 3, ar := 5, sigOk := true }), by decide +kernel⟩,
    ⟨(st id), ({ device := 0, feats := 3, ar := 5, sigOk := false }), by decide +kernel⟩,
    ⟨(st fun h => huOn { h with fw := { h.fw with flash := [{ addr := 5, data := [1#8, 2#8], erase := false }, { addr := 9 }] } }), (4095), ({ addr := 5, data := [1#8, 2#8], erase := false }), ([{ addr := 9 }]), by decide +kernel⟩,
    ⟨(st fun h => huOn { h with fw := { h.fw with flash := [{ addr := 5, data := [1#8, 2#8], erase := false }, { addr := 9 }] } }), (5), ({ addr := 5, data := [1#8, 2#8], erase := false }), ([{ addr := 9 }]), by decide +kernel⟩,
    ⟨(st id), by decide +kernel⟩,
    ⟨(st fun h => huOn { h with dev := 1900000, fw := { h.fw with huFrom := some 100, flash := [{ addr := 5, erase := false }, { addr := 9 }] } }), (5), (100), ({ addr := 5, erase := false }), ([{ addr := 9 }]), by decide +kernel⟩,
    ⟨(st fun h => huOn { h with dev := 1900000, fw := { h.fw with huFrom := some 100, flash := [{ addr := 5, erase := false }, { addr := 9 }, { job := 1, addr := 9 }] } }), (100), ({ addr := 5, erase := false }), ([{ addr := 9 }, { job := 1, addr := 9 }]), by decide +kernel⟩,
    ⟨(st fun h => (((res0 h).setReg CKPT_STAT 1 0x80000000#32).setReg ROAST_CTRL 2 1#32).setTab .seg 2 0 0x8000#32), (1), by decide +kernel⟩,
    ⟨(st id), (1), by decide +kernel⟩⟩

theorem witness_FuseAndDebugEvents :
    (∃ (s : State) (sel : Nat), ((sel = 1 ∨ sel = 2)) ∧ (s.hw.powered = true) ∧ (s.hw.pkg.blow = some sel)) ∧
    (∃ (s : State), (s.hw.powered = true) ∧ (s.hw.pkg.blow = some 3)) ∧
    (∃ (s : State) (sel : Fin 4), (s.hw.powered = true) ∧ (sel ≠ 0) ∧ (s.hw.pkg.blow = none)) ∧
    (∃ (s : State) (sel : Fin 4) (b : Nat), (s.hw.powered = true) ∧ (sel ≠ 0) ∧ (s.hw.pkg.blow = some b)) ∧
    (∃ (s : State), (s.hw.powered = true) ∧ (s.hw.debugClosed = false)) ∧
    (∃ (s : State), (s.hw.debugClosed = true)) :=
  ⟨⟨(st fun h => { h.updPkg fun p => { p with blow := some 2, blowMsgs := [3, 1] } with mpHalted := 3#32 }), (2), ⟨Or.inr rfl, by decide +kernel⟩⟩,
    ⟨(st fun h => (h.updPkg fun p => { p with blow := some 3, blowMsgs := [1] }).setReg LIC_AR_CNT 0 64#32), by decide +kernel⟩,
    ⟨(st id), (2), by decide +kernel⟩,
    ⟨(st fun h => (h.updPkg fun p => { p with blow := some 3, blowMsgs := [1] })), (2), (3), by decide +kernel⟩,
    ⟨(fuses 0), by decide +kernel⟩,
    ⟨(fuses 1), by decide +kernel⟩⟩

theorem witness_MicrocodeComputes :
    (∃ (s : State) (k : Core) (i : MInstr) (a : Word) (b : Word), (s.Executes k i) ∧ (a = s.hw.mcReg k i.f2) ∧ (b = s.hw.mcReg k i.f3) ∧ (i.op = .add)) ∧
    (∃ (s : State) (k : Core) (i : MInstr) (a : Word) (b : Word), (s.Executes k i) ∧ (a = s.hw.mcReg k i.f2) ∧ (b = s.hw.mcReg k i.f3) ∧ (i.op = .sub)) ∧
    (∃ (s : State) (k : Core) (i : MInstr) (a : Word) (b : Word), (s.Executes k i) ∧ (a = s.hw.mcReg k i.f2) ∧ (b = s.hw.mcReg k i.f3) ∧ (i.op = .adds)) ∧
    (∃ (s : State) (k : Core) (i : MInstr) (a : Word) (b : Word), (s.Executes k i) ∧ (a = s.hw.mcReg k i.f2) ∧ (b = s.hw.mcReg k i.f3) ∧ (i.op = .subs)) ∧
    (∃ (s : State) (k : Core) (i : MInstr) (a : Word) (b : Word), (s.Executes k i) ∧ (a = s.hw.mcReg k i.f2) ∧ (b = s.hw.mcReg k i.f3) ∧ (i.op = .and)) ∧
    (∃ (s : State) (k : Core) (i : MInstr) (a : Word) (b : Word), (s.Executes k i) ∧ (a = s.hw.mcReg k i.f2) ∧ (b = s.hw.mcReg k i.f3) ∧ (i.op = .or)) ∧
    (∃ (s : State) (k : Core) (i : MInstr) (a : Word) (b : Word), (s.Executes k i) ∧ (a = s.hw.mcReg k i.f2) ∧ (b = s.hw.mcReg k i.f3) ∧ (i.op = .xor)) ∧
    (∃ (s : State) (k : Core) (i : MInstr) (a : Word) (b : Word), (s.Executes k i) ∧ (a = s.hw.mcReg k i.f2) ∧ (b = s.hw.mcReg k i.f3) ∧ (i.op = .shl)) ∧
    (∃ (s : State) (k : Core) (i : MInstr) (a : Word) (b : Word), (s.Executes k i) ∧ (a = s.hw.mcReg k i.f2) ∧ (b = s.hw.mcReg k i.f3) ∧ (i.op = .shr)) ∧
    (∃ (s : State) (k : Core) (i : MInstr) (a : Word) (b : Word), (s.Executes k i) ∧ (a = s.hw.mcReg k i.f2) ∧ (b = s.hw.mcReg k i.f3) ∧ (i.op = .sra)) ∧
    (∃ (s : State) (k : Core) (i : MInstr) (a : Word) (b : Word), (s.Executes k i) ∧ (a = s.hw.mcReg k i.f2) ∧ (b = s.hw.mcReg k i.f3) ∧ (i.op = .mul)) ∧
    (∃ (s : State) (k : Core) (i : MInstr) (a : Word) (b : Word), (s.Executes k i) ∧ (a = s.hw.mcReg k i.f2) ∧ (b = s.hw.mcReg k i.f3) ∧ (i.op = .mulq) ∧ (-(2 ^ 31) ≤ (a.toInt * ((b.toNat % 65536 : Nat) : Int)).tdiv 32768) ∧ ((a.toInt * ((b.toNat % 65536 : Nat) : Int)).tdiv 32768 < 2 ^ 31)) ∧
    (∃ (s : State) (k : Core) (i : MInstr) (a : Word) (b : Word), (s.Executes k i) ∧ (a = s.hw.mcReg k i.f2) ∧ (b = s.hw.mcReg k i.f3) ∧ (i.op = .min)) ∧
    (∃ (s : State) (k : Core) (i : MInstr) (a : Word) (b : Word), (s.Executes k i) ∧ (a = s.hw.mcReg k i.f2) ∧ (b = s.hw.mcReg k i.f3) ∧ (i.op = .max)) ∧
    (∃ (s : State) (k : Core) (i : MInstr) (a : Word) (b : Word), (s.Executes k i) ∧ (a = s.hw.mcReg k i.f2) ∧ (b = s.hw.mcReg k i.f3) ∧ (i.op = .sat24)) ∧
    (∃ (s : State) (k : Core) (i : MInstr) (a : Word) (b : Word), (s.Executes k i) ∧ (a = s.hw.mcReg k i.f2) ∧ (b = s.hw.mcReg k i.f3) ∧ (i.op = .slt)) ∧
    (∃ (s : State) (k : Core) (i : MInstr) (a : Word) (b : Word), (s.Executes k i) ∧ (a = s.hw.mcReg k i.f2) ∧ (b = s.hw.mcReg k i.f3) ∧ (i.op = .mulq) ∧ (((a.toInt * ((b.toNat % 65536 : Nat) : Int)).tdiv 32768 < -(2 ^ 31) ∨ 2 ^ 31 ≤ (a.toInt * ((b.toNat % 65536 : Nat) : Int)).tdiv 32768))) ∧
    (∃ (s : State) (k : Core) (i : MInstr) (a : Word), (s.Executes k i) ∧ (a = s.hw.mcReg k i.f2) ∧ (i.op = .addi)) ∧
    (∃ (s : State) (k : Core) (i : MInstr) (a : Word), (s.Executes k i) ∧ (a = s.hw.mcReg k i.f2) ∧ (i.op = .andi)) ∧
    (∃ (s : State) (k : Core) (i : MInstr) (a : Word), (s.Executes k i) ∧ (a = s.hw.mcReg k i.f2) ∧ (i.op = .ori)) ∧
    (∃ (s : State) (k : Core) (i : MInstr) (a : Word), (s.Executes k i) ∧ (a = s.hw.mcReg k i.f2) ∧ (i.op = .xori)) ∧
    (∃ (s : State) (k : Core) (i : MInstr) (a : Word), (s.Executes k i) ∧ (a = s.hw.mcReg k i.f2) ∧ (i.op = .shli)) ∧
    (∃ (s : State) (k : Core) (i : MInstr) (a : Word), (s.Executes k i) ∧ (a = s.hw.mcReg k i.f2) ∧ (i.op = .shri)) ∧
    (∃ (s : State) (k : Core) (i : MInstr) (a : Word), (s.Executes k i) ∧ (a = s.hw.mcReg k i.f2) ∧ (i.op = .srai)) ∧
    (∃ (s : State) (k : Core) (i : MInstr) (a : Word), (s.Executes k i) ∧ (a = s.hw.mcReg k i.f2) ∧ (i.op = .lui)) ∧
    (∃ (s : State) (k : Core) (i : MInstr) (a : Word), (s.Executes k i) ∧ (a = s.hw.mcReg k i.f2) ∧ (i.op = .ext) ∧ (i.low / 1024 % 2 = 0)) ∧
    (∃ (s : State) (k : Core) (i : MInstr) (a : Word), (s.Executes k i) ∧ (a = s.hw.mcReg k i.f2) ∧ (i.op = .ext) ∧ (i.low / 1024 % 2 = 1)) ∧
    (∃ (s : State) (k : Core) (i : MInstr) (a : Word), (s.Executes k i) ∧ (a = s.hw.mcReg k i.f2) ∧ (i.op = .ins)) ∧
    (∃ (s : State) (k : Core) (i : MInstr) (a : Word), (s.Executes k i) ∧ (a = s.hw.mcReg k i.f2) ∧ (i.op = .csr) ∧ (i.low = 0)) ∧
    (∃ (s : State) (k : Core) (i : MInstr) (a : Word), (s.Executes k i) ∧ (a = s.hw.mcReg k i.f2) ∧ (i.op = .csr) ∧ (i.low = 1)) ∧
    (∃ (s : State) (k : Core) (i : MInstr) (a : Word), (s.Executes k i) ∧ (a = s.hw.mcReg k i.f2) ∧ (i.op = .csr) ∧ (i.low = 2)) ∧
    (∃ (s : State) (k : Core) (i : MInstr) (a : Word), (s.Executes k i) ∧ (a = s.hw.mcReg k i.f2) ∧ (i.op = .csr) ∧ (i.low = 3)) ∧
    (∃ (s : State) (k : Core) (i : MInstr) (a : Word), (s.Executes k i) ∧ (a = s.hw.mcReg k i.f2) ∧ (i.op = .csr) ∧ (i.low = 4)) ∧
    (∃ (s : State) (k : Core) (i : MInstr) (a : Word), (s.Executes k i) ∧ (a = s.hw.mcReg k i.f2) ∧ (i.op = .rand)) :=
  ⟨⟨(st fun h => mc1 ({ op := .add, f1 := 4, f2 := 1, low := 32768 } : MInstr) 2147483649 2147483632 35 (h)), (1), (({ op := .add, f1 := 4, f2 := 1, low := 32768 } : MInstr)), _, _, ⟨executes_of (by decide +kernel), rfl, rfl, by decide +kernel⟩⟩,
    ⟨(st fun h => mc1 ({ op := .sub, f1 := 4, f2 := 1, low := 32768 } : MInstr) 2147483649 2147483632 35 (h)), (1), (({ op := .sub, f1 := 4, f2 := 1, low := 32768 } : MInstr)), _, _, ⟨executes_of (by decide +kernel), rfl, rfl, by decide +kernel⟩⟩,
    ⟨(st fun h => mc1 ({ op := .adds, f1 := 4, f2 := 1, low := 32768 } : MInstr) 2147483649 2147483632 35 (h)), (1), (({ op := .adds, f1 := 4, f2 := 1, low := 32768 } : MInstr)), _, _, ⟨executes_of (by decide +kernel), rfl, rfl, by decide +kernel⟩⟩,
    ⟨(st fun h => mc1 ({ op := .subs, f1 := 4, f2 := 1, low := 32768 } : MInstr) 2147483649 2147483632 35 (h)), (1), (({ op := .subs, f1 := 4, f2 := 1, low := 32768 } : MInstr)), _, _, ⟨executes_of (by decide +kernel), rfl, rfl, by decide +kernel⟩⟩,
    ⟨(st fun h => mc1 ({ op := .and, f1 := 4, f2 := 1, low := 32768 } : MInstr) 2147483649 2147483632 35 (h)), (1), (({ op := .and, f1 := 4, f2 := 1, low := 32768 } : MInstr)), _, _, ⟨executes_of (by decide +kernel), rfl, rfl, by decide +kernel⟩⟩,
    ⟨(st fun h => mc1 ({ op := .or, f1 := 4, f2 := 1, low := 32768 } : MInstr) 2147483649 2147483632 35 (h)), (1), (({ op := .or, f1 := 4, f2 := 1, low := 32768 } : MInstr)), _, _, ⟨executes_of (by decide +kernel), rfl, rfl, by decide +kernel⟩⟩,
    ⟨(st fun h => mc1 ({ op := .xor, f1 := 4, f2 := 1, low := 32768 } : MInstr) 2147483649 2147483632 35 (h)), (1), (({ op := .xor, f1 := 4, f2 := 1, low := 32768 } : MInstr)), _, _, ⟨executes_of (by decide +kernel), rfl, rfl, by decide +kernel⟩⟩,
    ⟨(st fun h => mc1 ({ op := .shl, f1 := 4, f2 := 1, low := 32768 } : MInstr) 2147483649 2147483632 35 (h)), (1), (({ op := .shl, f1 := 4, f2 := 1, low := 32768 } : MInstr)), _, _, ⟨executes_of (by decide +kernel), rfl, rfl, by decide +kernel⟩⟩,
    ⟨(st fun h => mc1 ({ op := .shr, f1 := 4, f2 := 1, low := 32768 } : MInstr) 2147483649 2147483632 35 (h)), (1), (({ op := .shr, f1 := 4, f2 := 1, low := 32768 } : MInstr)), _, _, ⟨executes_of (by decide +kernel), rfl, rfl, by decide +kernel⟩⟩,
    ⟨(st fun h => mc1 ({ op := .sra, f1 := 4, f2 := 1, low := 32768 } : MInstr) 2147483649 2147483632 35 (h)), (1), (({ op := .sra, f1 := 4, f2 := 1, low := 32768 } : MInstr)), _, _, ⟨executes_of (by decide +kernel), rfl, rfl, by decide +kernel⟩⟩,
    ⟨(st fun h => mc1 ({ op := .mul, f1 := 4, f2 := 1, low := 32768 } : MInstr) 2147483649 2147483632 35 (h)), (1), (({ op := .mul, f1 := 4, f2 := 1, low := 32768 } : MInstr)), _, _, ⟨executes_of (by decide +kernel), rfl, rfl, by decide +kernel⟩⟩,
    ⟨(st fun h => mc1 ({ op := .mulq, f1 := 4, f2 := 1, low := 32768 } : MInstr) 2147483647 32767 35 (h)), (1), (({ op := .mulq, f1 := 4, f2 := 1, low := 32768 } : MInstr)), _, _, ⟨executes_of (by decide +kernel), rfl, rfl, by decide +kernel⟩⟩,
    ⟨(st fun h => mc1 ({ op := .min, f1 := 4, f2 := 1, low := 32768 } : MInstr) 2147483649 2147483632 35 (h)), (1), (({ op := .min, f1 := 4, f2 := 1, low := 32768 } : MInstr)), _, _, ⟨executes_of (by decide +kernel), rfl, rfl, by decide +kernel⟩⟩,
    ⟨(st fun h => mc1 ({ op := .max, f1 := 4, f2 := 1, low := 32768 } : MInstr) 2147483649 2147483632 35 (h)), (1), (({ op := .max, f1 := 4, f2 := 1, low := 32768 } : MInstr)), _, _, ⟨executes_of (by decide +kernel), rfl, rfl, by decide +kernel⟩⟩,
    ⟨(st fun h => mc1 ({ op := .sat24, f1 := 4, f2 := 1, low := 0 } : MInstr) 2147483649 2147483632 35 (h)), (1), (({ op := .sat24, f1 := 4, f2 := 1, low := 0 } : MInstr)), _, _, ⟨executes_of (by decide +kernel), rfl, rfl, by decide +kernel⟩⟩,
    ⟨(st fun h => mc1 ({ op := .slt, f1 := 4, f2 := 1, low := 32768 } : MInstr) 2147483649 2147483632 35 (h)), (1), (({ op := .slt, f1 := 4, f2 := 1, low := 32768 } : MInstr)), _, _, ⟨executes_of (by decide +kernel), rfl, rfl, by decide +kernel⟩⟩,
    ⟨(st fun h => mc1 ({ op := .mulq, f1 := 4, f2 := 1, low := 32768 } : MInstr) 2147483647 32769 35 (h)), (1), (({ op := .mulq, f1 := 4, f2 := 1, low := 32768 } : MInstr)), _, _, ⟨executes_of (by decide +kernel), rfl, rfl, by decide +kernel⟩⟩,
    ⟨(st fun h => mc1 ({ op := .addi, f1 := 4, f2 := 1, low := 262143 } : MInstr) 2147483649 2147483632 35 (h)), (1), (({ op := .addi, f1 := 4, f2 := 1, low := 262143 } : MInstr)), _, ⟨executes_of (by decide +kernel), rfl, by decide +kernel⟩⟩,
    ⟨(st fun h => mc1 ({ op := .andi, f1 := 4, f2 := 1, low := 262143 } : MInstr) 2147483649 2147483632 35 (h)), (1), (({ op := .andi, f1 := 4, f2 := 1, low := 262143 } : MInstr)), _, ⟨executes_of (by decide +kernel), rfl, by decide +kernel⟩⟩,
    ⟨(st fun h => mc1 ({ op := .ori, f1 := 4, f2 := 1, low := 262143 } : MInstr) 2147483649 2147483632 35 (h)), (1), (({ op := .ori, f1 := 4, f2 := 1, low := 262143 } : MInstr)), _, ⟨executes_of (by decide +kernel), rfl, by decide +kernel⟩⟩,
    ⟨(st fun h => mc1 ({ op := .xori, f1 := 4, f2 := 1, low := 262143 } : MInstr) 2147483649 2147483632 35 (h)), (1), (({ op := .xori, f1 := 4, f2 := 1, low := 262143 } : MInstr)), _, ⟨executes_of (by decide +kernel), rfl, by decide +kernel⟩⟩,
    ⟨(st fun h => mc1 ({ op := .shli, f1 := 4, f2 := 1, low := 31 } : MInstr) 2147483649 2147483632 35 (h)), (1), (({ op := .shli, f1 := 4, f2 := 1, low := 31 } : MInstr)), _, ⟨executes_of (by decide +kernel), rfl, by decide +kernel⟩⟩,
    ⟨(st fun h => mc1 ({ op := .shri, f1 := 4, f2 := 1, low := 31 } : MInstr) 2147483649 2147483632 35 (h)), (1), (({ op := .shri, f1 := 4, f2 := 1, low := 31 } : MInstr)), _, ⟨executes_of (by decide +kernel), rfl, by decide +kernel⟩⟩,
    ⟨(st fun h => mc1 ({ op := .srai, f1 := 4, f2 := 1, low := 31 } : MInstr) 2147483649 2147483632 35 (h)), (1), (({ op := .srai, f1 := 4, f2 := 1, low := 31 } : MInstr)), _, ⟨executes_of (by decide +kernel), rfl, by decide +kernel⟩⟩,
    ⟨(st fun h => mc1 ({ op := .lui, f1 := 4, f2 := 0, low := 262143 } : MInstr) 2147483649 2147483632 35 (h)), (1), (({ op := .lui, f1 := 4, f2 := 0, low := 262143 } : MInstr)), _, ⟨executes_of (by decide +kernel), rfl, by decide +kernel⟩⟩,
    ⟨(st fun h => mc1 ({ op := .ext, f1 := 4, f2 := 1, low := 228 } : MInstr) 2147483649 2147483632 35 (h)), (1), (({ op := .ext, f1 := 4, f2 := 1, low := 228 } : MInstr)), _, ⟨executes_of (by decide +kernel), rfl, by decide +kernel⟩⟩,
    ⟨(st fun h => mc1 ({ op := .ext, f1 := 4, f2 := 1, low := 1252 } : MInstr) 2147483649 2147483632 35 (h)), (1), (({ op := .ext, f1 := 4, f2 := 1, low := 1252 } : MInstr)), _, ⟨executes_of (by decide +kernel), rfl, by decide +kernel⟩⟩,
    ⟨(st fun h => mc1 ({ op := .ins, f1 := 4, f2 := 1, low := 228 } : MInstr) 2147483649 2147483632 35 (h)), (1), (({ op := .ins, f1 := 4, f2 := 1, low := 228 } : MInstr)), _, ⟨executes_of (by decide +kernel), rfl, by decide +kernel⟩⟩,
    ⟨(st fun h => mc1 ({ op := .csr, f1 := 4, f2 := 0, low := 0 } : MInstr) 2147483649 2147483632 35 (h)), (1), (({ op := .csr, f1 := 4, f2 := 0, low := 0 } : MInstr)), _, ⟨executes_of (by decide +kernel), rfl, by decide +kernel⟩⟩,
    ⟨(st fun h => mc1 ({ op := .csr, f1 := 4, f2 := 0, low := 1 } : MInstr) 2147483649 2147483632 35 (h)), (1), (({ op := .csr, f1 := 4, f2 := 0, low := 1 } : MInstr)), _, ⟨executes_of (by decide +kernel), rfl, by decide +kernel⟩⟩,
    ⟨(st fun h => mc1 ({ op := .csr, f1 := 4, f2 := 0, low := 2 } : MInstr) 2147483649 2147483632 35 (h)), (1), (({ op := .csr, f1 := 4, f2 := 0, low := 2 } : MInstr)), _, ⟨executes_of (by decide +kernel), rfl, by decide +kernel⟩⟩,
    ⟨(st fun h => mc1 ({ op := .csr, f1 := 4, f2 := 0, low := 3 } : MInstr) 2147483649 2147483632 35 (h)), (1), (({ op := .csr, f1 := 4, f2 := 0, low := 3 } : MInstr)), _, ⟨executes_of (by decide +kernel), rfl, by decide +kernel⟩⟩,
    ⟨(st fun h => mc1 ({ op := .csr, f1 := 4, f2 := 0, low := 4 } : MInstr) 2147483649 2147483632 35 (h)), (1), (({ op := .csr, f1 := 4, f2 := 0, low := 4 } : MInstr)), _, ⟨executes_of (by decide +kernel), rfl, by decide +kernel⟩⟩,
    ⟨(st fun h => mc1 ({ op := .rand, f1 := 4, f2 := 0, low := 0 } : MInstr) 2147483649 2147483632 35 (h)), (1), (({ op := .rand, f1 := 4, f2 := 0, low := 0 } : MInstr)), _, ⟨executes_of (by decide +kernel), rfl, by decide +kernel⟩⟩⟩

theorem witness_MicrocodeMemory :
    (∃ (s : State) (k : Core) (i : MInstr) (x : Word) (a : Nat), (s.Executes k i) ∧ (x = s.hw.mcReg k i.f2 + wInt (sext 18 i.low)) ∧ (a = x.toNat / 4 * 4) ∧ (i.op = .ld) ∧ ((a < 0x22000 ∨ 0x24000 ≤ a ∧ a < 0x26000)) ∧ (s.hw.mark (coreBase k + a) = 0)) ∧
    (∃ (s : State) (k : Core) (i : MInstr) (x : Word) (a : Nat), (s.Executes k i) ∧ (x = s.hw.mcReg k i.f2 + wInt (sext 18 i.low)) ∧ (a = x.toNat / 4 * 4) ∧ (i.op = .st) ∧ (a < 0x20000)) ∧
    (∃ (s : State) (k : Core) (i : MInstr) (x : Word) (a : Nat), (s.Executes k i) ∧ (x = s.hw.mcReg k i.f2 + wInt (sext 18 i.low)) ∧ (a = x.toNat / 4 * 4) ∧ (i.op = .st) ∧ (0x20000 ≤ a) ∧ (a < 0x22000)) ∧
    (∃ (s : State) (k : Core) (i : MInstr) (x : Word) (a : Nat), (s.Executes k i) ∧ (x = s.hw.mcReg k i.f2 + wInt (sext 18 i.low)) ∧ (a = x.toNat / 4 * 4) ∧ ((i.op = .ld ∧ (0x22000 ≤ a ∧ a < 0x24000 ∨ 0x26000 ≤ a) ∨ i.op = .st ∧ 0x22000 ≤ a)) ∧ ((s.hw.eng k).kind = .event)) ∧
    (∃ (s : State) (k : Core) (i : MInstr) (x : Word) (a : Nat) (b : Nat) (off : _), (s.Executes k i) ∧ (x = s.hw.mcReg k i.f2 + wInt (sext 18 i.low)) ∧ (a = x.toNat / 4 * 4) ∧ (i.op = .ldb) ∧ (bankPath (s.hw.mcReg k i.f2) (sext 18 i.low) = some (b, off)) ∧ (s.hw.portA (k / 32) b off (k % 32) = .ok) ∧ ((∀ j, j < 4 → s.hw.mark (bankBase (k / 32) b + off / 16 * 16 + 4 * j) = 0))) ∧
    (∃ (s : State) (k : Core) (i : MInstr) (x : Word) (a : Nat) (b : Nat) (off : _), (s.Executes k i) ∧ (x = s.hw.mcReg k i.f2 + wInt (sext 18 i.low)) ∧ (a = x.toNat / 4 * 4) ∧ (i.op = .stb) ∧ (bankPath (s.hw.mcReg k i.f2) (sext 18 i.low) = some (b, off)) ∧ (s.hw.portA (k / 32) b off (k % 32) = .ok)) ∧
    (∃ (s : State) (k : Core) (i : MInstr) (x : Word) (a : Nat) (n : _) (d : _), (s.Executes k i) ∧ (x = s.hw.mcReg k i.f2 + wInt (sext 18 i.low)) ∧ (a = x.toNat / 4 * 4) ∧ (i.op = .radd) ∧ (n = bits (s.hw.mcReg k i.f2) 12 0) ∧ (n < s.hw.imageN k) ∧ (d = i.low % 8 + 8 * (i.f1 % 2) + 1) ∧ (s.hw.compact k = false)) ∧
    (∃ (s : State) (k : Core) (i : MInstr) (x : Word) (a : Nat) (n : _) (b : Word), (s.Executes k i) ∧ (x = s.hw.mcReg k i.f2 + wInt (sext 18 i.low)) ∧ (a = x.toNat / 4 * 4) ∧ (i.op = .emit) ∧ (n = bits (s.hw.mcReg k i.f2) 12 0) ∧ (b = s.hw.mcReg k i.f3) ∧ (n < s.hw.imageN k) ∧ ((s.hw.core k).egress.length < 256)) ∧
    (∃ (s : State) (k : Core) (i : MInstr) (x : Word) (a : Nat), (s.Executes k i) ∧ (x = s.hw.mcReg k i.f2 + wInt (sext 18 i.low)) ∧ (a = x.toNat / 4 * 4) ∧ (i.op = .emit) ∧ (bits (s.hw.mcReg k i.f2) 12 0 < s.hw.imageN k) ∧ (256 ≤ (s.hw.core k).egress.length) ∧ (s.hw.step.phase ≠ .integrate)) :=
  ⟨⟨(st fun h => mc1 ({ op := .ld, f1 := 4, f2 := 1, low := 4 } : MInstr) 4096 2147483632 35 (h)), (1), (({ op := .ld, f1 := 4, f2 := 1, low := 4 } : MInstr)), _, _, ⟨executes_of (by decide +kernel), rfl, rfl, by decide +kernel⟩⟩,
    ⟨(st fun h => mc1 ({ op := .st, f1 := 2, f2 := 1, low := 4 } : MInstr) 131064 2147483632 35 (h)), (1), (({ op := .st, f1 := 2, f2 := 1, low := 4 } : MInstr)), _, _, ⟨executes_of (by decide +kernel), rfl, rfl, by decide +kernel⟩⟩,
    ⟨(st fun h => mc1 ({ op := .st, f1 := 2, f2 := 1, low := 0 } : MInstr) 131072 2147483632 35 (h)), (1), (({ op := .st, f1 := 2, f2 := 1, low := 0 } : MInstr)), _, _, ⟨executes_of (by decide +kernel), rfl, rfl, by decide +kernel⟩⟩,
    ⟨(st fun h => mc1 ({ op := .ld, f1 := 4, f2 := 1, low := 0 } : MInstr) 139264 2147483632 35 (h)), (1), (({ op := .ld, f1 := 4, f2 := 1, low := 0 } : MInstr)), _, _, ⟨executes_of (by decide +kernel), rfl, rfl, Or.inl (by decide +kernel), by decide +kernel⟩⟩,
    ⟨(st fun h => mc1 ({ op := .ldb, f1 := 4, f2 := 1, low := 0 } : MInstr) 117440768 2147483632 35 (((h.setReg (BANK_OWNER 7) 0 0x101#32).updBank 0 7 fun x => x).setWord (bankBase 0 7 + 0x100) 0x55#32)), (1), (({ op := .ldb, f1 := 4, f2 := 1, low := 0 } : MInstr)), _, _, (7), (0x100), ⟨executes_of (by decide +kernel), rfl, rfl, by decide +kernel⟩⟩,
    ⟨(st fun h => mc1 ({ op := .stb, f1 := 2, f2 := 1, low := 4 } : MInstr) 117440768 2147483632 35 (((h.setReg (BANK_OWNER 7) 0 0x101#32).updBank 0 7 fun x => x).setWord (bankBase 0 7 + 0x100) 0x55#32)), (1), (({ op := .stb, f1 := 2, f2 := 1, low := 4 } : MInstr)), _, _, (7), (0x104), ⟨executes_of (by decide +kernel), rfl, rfl, by decide +kernel⟩⟩,
    ⟨(st fun h => mc1 ({ op := .radd, f1 := 1, f2 := 1, low := 49159 } : MInstr) 5 2147483632 35 (h.setReg CORE_LAYOUT 1 0x640000#32)), (1), (({ op := .radd, f1 := 1, f2 := 1, low := 49159 } : MInstr)), _, _, (5), (16), ⟨executes_of (by decide +kernel), rfl, rfl, by decide +kernel⟩⟩,
    ⟨(st fun h => mc1 ({ op := .emit, f1 := 0, f2 := 1, low := 49152 } : MInstr) 5 2147483632 255110093 (h.setReg CORE_LAYOUT 1 0x640000#32)), (1), (({ op := .emit, f1 := 0, f2 := 1, low := 49152 } : MInstr)), _, _, (5), (0x0F34ABCD#32), ⟨executes_of (by decide +kernel), rfl, rfl, by decide +kernel⟩⟩,
    ⟨(st fun h => mc1 ({ op := .emit, f1 := 0, f2 := 1, low := 49152 } : MInstr) 5 2147483632 255110093 ((h.setReg CORE_LAYOUT 1 0x640000#32).updCore 1 fun x => { x with egress := List.replicate 256 ⟨0#32, 0#32⟩ })), (1), (({ op := .emit, f1 := 0, f2 := 1, low := 49152 } : MInstr)), _, _, ⟨executes_of (by decide +kernel), rfl, rfl, by decide +kernel⟩⟩⟩

theorem witness_MicrocodeControl :
    (∃ (s : State) (k : Core) (i : MInstr) (a : Word) (b : Word) (next : Nat), (s.Executes k i) ∧ (a = s.hw.mcReg k i.f1) ∧ (b = s.hw.mcReg k i.f2) ∧ (next = (s.hw.eng k).pc + 1) ∧ (i.op = .beq)) ∧
    (∃ (s : State) (k : Core) (i : MInstr) (a : Word) (b : Word) (next : Nat), (s.Executes k i) ∧ (a = s.hw.mcReg k i.f1) ∧ (b = s.hw.mcReg k i.f2) ∧ (next = (s.hw.eng k).pc + 1) ∧ (i.op = .bne)) ∧
    (∃ (s : State) (k : Core) (i : MInstr) (a : Word) (b : Word) (next : Nat), (s.Executes k i) ∧ (a = s.hw.mcReg k i.f1) ∧ (b = s.hw.mcReg k i.f2) ∧ (next = (s.hw.eng k).pc + 1) ∧ (i.op = .blt)) ∧
    (∃ (s : State) (k : Core) (i : MInstr) (a : Word) (b : Word) (next : Nat), (s.Executes k i) ∧ (a = s.hw.mcReg k i.f1) ∧ (b = s.hw.mcReg k i.f2) ∧ (next = (s.hw.eng k).pc + 1) ∧ (i.op = .bge)) ∧
    (∃ (s : State) (k : Core) (i : MInstr) (a : Word) (b : Word) (next : Nat), (s.Executes k i) ∧ (a = s.hw.mcReg k i.f1) ∧ (b = s.hw.mcReg k i.f2) ∧ (next = (s.hw.eng k).pc + 1) ∧ (i.op = .jmp)) ∧
    (∃ (s : State) (k : Core) (i : MInstr) (a : Word) (b : Word) (next : Nat), (s.Executes k i) ∧ (a = s.hw.mcReg k i.f1) ∧ (b = s.hw.mcReg k i.f2) ∧ (next = (s.hw.eng k).pc + 1) ∧ (i.op = .jal)) ∧
    (∃ (s : State) (k : Core) (i : MInstr) (a : Word) (b : Word) (next : Nat), (s.Executes k i) ∧ (a = s.hw.mcReg k i.f1) ∧ (b = s.hw.mcReg k i.f2) ∧ (next = (s.hw.eng k).pc + 1) ∧ (i.op = .jr)) ∧
    (∃ (s : State) (k : Core) (i : MInstr) (a : Word) (b : Word) (next : Nat), (s.Executes k i) ∧ (a = s.hw.mcReg k i.f1) ∧ (b = s.hw.mcReg k i.f2) ∧ (next = (s.hw.eng k).pc + 1) ∧ (i.op = .endh) ∧ ((s.hw.eng k).kind = .event)) ∧
    (∃ (s : State) (k : Core) (i : MInstr) (a : Word) (b : Word) (next : Nat), (s.Executes k i) ∧ (a = s.hw.mcReg k i.f1) ∧ (b = s.hw.mcReg k i.f2) ∧ (next = (s.hw.eng k).pc + 1) ∧ (i.op = .trap) ∧ ((s.hw.eng k).kind = .event)) ∧
    (∃ (s : State) (k : Core), (s.hw.powered = true) ∧ ((s.hw.eng k).running = true) ∧ ((s.hw.eng k).kind = .event) ∧ ((s.hw.eng k).cyc < s.hw.mcLimit k .event) ∧ (s.hw.mark (storeAddr k (s.hw.eng k).pc) = 0) ∧ (mcDecode (s.hw.word (storeAddr k (s.hw.eng k).pc)) = none)) :=
  ⟨⟨(st fun h => mc1 ({ op := .beq, f1 := 1, f2 := 2, low := 341 } : MInstr) 2147483649 2147483632 35 (h)), (1), (({ op := .beq, f1 := 1, f2 := 2, low := 341 } : MInstr)), _, _, _, ⟨executes_of (by decide +kernel), rfl, rfl, rfl, by decide +kernel⟩⟩,
    ⟨(st fun h => mc1 ({ op := .bne, f1 := 1, f2 := 2, low := 341 } : MInstr) 2147483649 2147483632 35 (h)), (1), (({ op := .bne, f1 := 1, f2 := 2, low := 341 } : MInstr)), _, _, _, ⟨executes_of (by decide +kernel), rfl, rfl, rfl, by decide +kernel⟩⟩,
    ⟨(st fun h => mc1 ({ op := .blt, f1 := 1, f2 := 2, low := 341 } : MInstr) 2147483649 2147483632 35 (h)), (1), (({ op := .blt, f1 := 1, f2 := 2, low := 341 } : MInstr)), _, _, _, ⟨executes_of (by decide +kernel), rfl, rfl, rfl, by decide +kernel⟩⟩,
    ⟨(st fun h => mc1 ({ op := .bge, f1 := 1, f2 := 2, low := 341 } : MInstr) 2147483649 2147483632 35 (h)), (1), (({ op := .bge, f1 := 1, f2 := 2, low := 341 } : MInstr)), _, _, _, ⟨executes_of (by decide +kernel), rfl, rfl, rfl, by decide +kernel⟩⟩,
    ⟨(st fun h => mc1 ({ op := .jmp, f1 := 0, f2 := 0, low := 341 } : MInstr) 2147483649 2147483632 35 (h)), (1), (({ op := .jmp, f1 := 0, f2 := 0, low := 341 } : MInstr)), _, _, _, ⟨executes_of (by decide +kernel), rfl, rfl, rfl, by decide +kernel⟩⟩,
    ⟨(st fun h => mc1 ({ op := .jal, f1 := 0, f2 := 0, low := 341 } : MInstr) 2147483649 2147483632 35 (h)), (1), (({ op := .jal, f1 := 0, f2 := 0, low := 341 } : MInstr)), _, _, _, ⟨executes_of (by decide +kernel), rfl, rfl, rfl, by decide +kernel⟩⟩,
    ⟨(st fun h => mc1 ({ op := .jr, f1 := 1, f2 := 0, low := 0 } : MInstr) 2147483649 2147483632 35 (h)), (1), (({ op := .jr, f1 := 1, f2 := 0, low := 0 } : MInstr)), _, _, _, ⟨executes_of (by decide +kernel), rfl, rfl, rfl, by decide +kernel⟩⟩,
    ⟨(st fun h => mc1 ({ op := .endh, f1 := 0, f2 := 0, low := 0 } : MInstr) 2147483649 2147483632 35 (h)), (1), (({ op := .endh, f1 := 0, f2 := 0, low := 0 } : MInstr)), _, _, _, ⟨executes_of (by decide +kernel), rfl, rfl, rfl, by decide +kernel⟩⟩,
    ⟨(st fun h => mc1 ({ op := .trap, f1 := 0, f2 := 0, low := 85 } : MInstr) 2147483649 2147483632 35 (h)), (1), (({ op := .trap, f1 := 0, f2 := 0, low := 85 } : MInstr)), _, _, _, ⟨executes_of (by decide +kernel), rfl, rfl, rfl, by decide +kernel⟩⟩,
    ⟨(st fun h => (mc1 ({ op := .add, f1 := 4, f2 := 1, low := 32768 } : MInstr) 1 2 3 h).setWord (storeAddr 1 5) 0xFFFFFFFF#32), (1), by decide +kernel⟩⟩

theorem witness_ChannelFunctions :
    (∃ (s : State) (k : Core) (i : MInstr) (a : Word) (b : Word) (e : Nat) (next : Nat), (s.Executes k i) ∧ (a = s.hw.mcReg k i.f2) ∧ (b = s.hw.mcReg k i.f3) ∧ (e = epOfCore k) ∧ (next = (s.hw.eng k).pc + 1) ∧ (s.hw.freeTicket e = none) ∧ (i.op = .chanListen)) ∧
    (∃ (s : State) (k : Core) (i : MInstr) (a : Word) (b : Word) (e : Nat) (next : Nat), (s.Executes k i) ∧ (a = s.hw.mcReg k i.f2) ∧ (b = s.hw.mcReg k i.f3) ∧ (e = epOfCore k) ∧ (next = (s.hw.eng k).pc + 1) ∧ (s.hw.freeTicket e = none) ∧ (i.op = .chanOpen)) ∧
    (∃ (s : State) (k : Core) (i : MInstr) (a : Word) (b : Word) (e : Nat) (next : Nat), (s.Executes k i) ∧ (a = s.hw.mcReg k i.f2) ∧ (b = s.hw.mcReg k i.f3) ∧ (e = epOfCore k) ∧ (next = (s.hw.eng k).pc + 1) ∧ (s.hw.freeTicket e = none) ∧ (i.op = .chanClose)) ∧
    (∃ (s : State) (k : Core) (i : MInstr) (a : Word) (b : Word) (e : Nat) (next : Nat) (t : _) (p : _), (s.Executes k i) ∧ (a = s.hw.mcReg k i.f2) ∧ (b = s.hw.mcReg k i.f3) ∧ (e = epOfCore k) ∧ (next = (s.hw.eng k).pc + 1) ∧ (s.hw.freeTicket e = some t) ∧ (i.op = .chanListen) ∧ (p = bits a 23 16) ∧ (s.hw.port e p = {}) ∧ (((s.hw.ep e).ports.filter fun x => x.2.on).length < 8) ∧ (bits b 2 0 < 5)) ∧
    (∃ (s : State) (k : Core) (i : MInstr) (a : Word) (b : Word) (e : Nat) (next : Nat) (t : _) (p : _), (s.Executes k i) ∧ (a = s.hw.mcReg k i.f2) ∧ (b = s.hw.mcReg k i.f3) ∧ (e = epOfCore k) ∧ (next = (s.hw.eng k).pc + 1) ∧ (s.hw.freeTicket e = some t) ∧ (i.op = .chanListen) ∧ (p = bits a 23 16) ∧ ((s.hw.port e p).on = true) ∧ ((s.hw.port e p).closing = false)) ∧
    (∃ (s : State) (k : Core) (i : MInstr) (a : Word) (b : Word) (e : Nat) (next : Nat) (t : _) (j : _), (s.Executes k i) ∧ (a = s.hw.mcReg k i.f2) ∧ (b = s.hw.mcReg k i.f3) ∧ (e = epOfCore k) ∧ (next = (s.hw.eng k).pc + 1) ∧ (s.hw.freeTicket e = some t) ∧ (i.op = .chanOpen) ∧ (((List.range (epHandles e)).find? fun i => (s.hw.handle e i).st == 0) = some j)) ∧
    (∃ (s : State) (k : Core) (i : MInstr) (a : Word) (b : Word) (e : Nat) (next : Nat) (t : _), (s.Executes k i) ∧ (a = s.hw.mcReg k i.f2) ∧ (b = s.hw.mcReg k i.f3) ∧ (e = epOfCore k) ∧ (next = (s.hw.eng k).pc + 1) ∧ (s.hw.freeTicket e = some t) ∧ (i.op = .chanOpen) ∧ (((List.range (epHandles e)).find? fun i => (s.hw.handle e i).st == 0) = none)) ∧
    (∃ (s : State) (k : Core) (i : MInstr) (a : Word) (b : Word) (e : Nat) (next : Nat) (t : _) (l : _) (x : Nat), (s.Executes k i) ∧ (a = s.hw.mcReg k i.f2) ∧ (b = s.hw.mcReg k i.f3) ∧ (e = epOfCore k) ∧ (next = (s.hw.eng k).pc + 1) ∧ ((∀ w, x / 4 ≤ w → w ≤ (x + l - 1) / 4 → s.hw.mark (dmAddr k w) = 0)) ∧ (s.hw.freeTicket e = some t) ∧ (i.op = .chanSend) ∧ (l = bits b 31 16) ∧ (x = bits b 15 0) ∧ (1 ≤ l) ∧ (l ≤ 256) ∧ (x + l ≤ 0x2000) ∧ ((s.hw.handle e a.toNat).st = 2)) ∧
    (∃ (s : State) (k : Core) (i : MInstr) (a : Word) (b : Word) (e : Nat) (next : Nat) (t : _) (l : _) (x : Nat), (s.Executes k i) ∧ (a = s.hw.mcReg k i.f2) ∧ (b = s.hw.mcReg k i.f3) ∧ (e = epOfCore k) ∧ (next = (s.hw.eng k).pc + 1) ∧ ((∀ w, x / 4 ≤ w → w ≤ (x + l - 1) / 4 → s.hw.mark (dmAddr k w) = 0)) ∧ (s.hw.freeTicket e = some t) ∧ (i.op = .chanSend) ∧ (l = bits b 31 16) ∧ (x = bits b 15 0) ∧ (1 ≤ l) ∧ (l ≤ 256) ∧ (x + l ≤ 0x2000) ∧ ((s.hw.handle e a.toNat).st ≠ 2)) ∧
    (∃ (s : State) (k : Core) (i : MInstr) (a : Word) (b : Word) (e : Nat) (next : Nat) (t : _), (s.Executes k i) ∧ (a = s.hw.mcReg k i.f2) ∧ (b = s.hw.mcReg k i.f3) ∧ (e = epOfCore k) ∧ (next = (s.hw.eng k).pc + 1) ∧ (s.hw.freeTicket e = some t) ∧ (i.op = .chanClose) ∧ (bit b 0 = false) ∧ ((s.hw.handle e a.toNat).st = 0)) ∧
    (∃ (s : State) (k : Core) (i : MInstr) (a : Word) (b : Word) (e : Nat) (next : Nat) (t : _) (d : _), (s.Executes k i) ∧ (a = s.hw.mcReg k i.f2) ∧ (b = s.hw.mcReg k i.f3) ∧ (e = epOfCore k) ∧ (next = (s.hw.eng k).pc + 1) ∧ (d = s.hw.handle e a.toNat) ∧ (s.hw.freeTicket e = some t) ∧ (i.op = .chanClose) ∧ (bit b 0 = false) ∧ (d.st = 2)) ∧
    (∃ (s : State) (k : Core) (i : MInstr) (a : Word) (b : Word) (e : Nat) (next : Nat) (t : _), (s.Executes k i) ∧ (a = s.hw.mcReg k i.f2) ∧ (b = s.hw.mcReg k i.f3) ∧ (e = epOfCore k) ∧ (next = (s.hw.eng k).pc + 1) ∧ (s.hw.freeTicket e = some t) ∧ (i.op = .chanClose) ∧ (bit b 0 = true) ∧ ((s.hw.port e a.toNat).on = false)) ∧
    (∃ (s : State) (k : Core) (i : MInstr) (a : Word) (b : Word) (e : Nat) (next : Nat), (s.Executes k i) ∧ (a = s.hw.mcReg k i.f2) ∧ (b = s.hw.mcReg k i.f3) ∧ (e = epOfCore k) ∧ (next = (s.hw.eng k).pc + 1) ∧ ((16 ≤ a.toNat ∨ (s.hw.ticket e a.toNat).used = false)) ∧ (i.op = .chanStatus)) ∧
    (∃ (s : State) (k : Core) (i : MInstr) (a : Word) (b : Word) (e : Nat) (next : Nat), (s.Executes k i) ∧ (a = s.hw.mcReg k i.f2) ∧ (b = s.hw.mcReg k i.f3) ∧ (e = epOfCore k) ∧ (next = (s.hw.eng k).pc + 1) ∧ (i.op = .chanStatus) ∧ (a.toNat < 16) ∧ ((s.hw.ticket e a.toNat).used = true) ∧ ((s.hw.ticket e a.toNat).op ≠ 9) ∧ ((s.hw.ticket e a.toNat).st = 0)) ∧
    (∃ (s : State) (k : Core) (i : MInstr) (a : Word) (b : Word) (e : Nat) (next : Nat) (x : _), (s.Executes k i) ∧ (a = s.hw.mcReg k i.f2) ∧ (b = s.hw.mcReg k i.f3) ∧ (e = epOfCore k) ∧ (next = (s.hw.eng k).pc + 1) ∧ (x = s.hw.ticket e a.toNat) ∧ (i.op = .chanStatus) ∧ (a.toNat < 16) ∧ (x.used = true) ∧ (x.op ≠ 9) ∧ (x.st = 2)) ∧
    (∃ (s : State) (k : Core) (i : MInstr) (a : Word) (b : Word) (e : Nat) (next : Nat) (x : _), (s.Executes k i) ∧ (a = s.hw.mcReg k i.f2) ∧ (b = s.hw.mcReg k i.f3) ∧ (e = epOfCore k) ∧ (next = (s.hw.eng k).pc + 1) ∧ (x = s.hw.ticket e a.toNat) ∧ (i.op = .chanStatus) ∧ (a.toNat < 16) ∧ (x.used = true) ∧ (x.op = 1) ∧ (x.st = 1)) :=
  ⟨⟨(st fun h => mc1 ({ op := .chanListen, f1 := 4, f2 := 1, low := 32768 } : MInstr) 1 2 0 (h.updEp 1 fun e => { e with tickets := (List.range 16).map fun i => (i, { used := true }) })), (1), (({ op := .chanListen, f1 := 4, f2 := 1, low := 32768 } : MInstr)), _, _, _, _, ⟨executes_of (by decide +kernel), rfl, rfl, rfl, rfl, by decide +kernel⟩⟩,
    ⟨(st fun h => mc1 ({ op := .chanOpen, f1 := 4, f2 := 1, low := 32769 } : MInstr) 1 2 0 (h.updEp 1 fun e => { e with tickets := (List.range 16).map fun i => (i, { used := true }) })), (1), (({ op := .chanOpen, f1 := 4, f2 := 1, low := 32769 } : MInstr)), _, _, _, _, ⟨executes_of (by decide +kernel), rfl, rfl, rfl, rfl, by decide +kernel⟩⟩,
    ⟨(st fun h => mc1 ({ op := .chanClose, f1 := 4, f2 := 1, low := 32771 } : MInstr) 1 2 0 (h.updEp 1 fun e => { e with tickets := (List.range 16).map fun i => (i, { used := true }) })), (1), (({ op := .chanClose, f1 := 4, f2 := 1, low := 32771 } : MInstr)), _, _, _, _, ⟨executes_of (by decide +kernel), rfl, rfl, rfl, rfl, by decide +kernel⟩⟩,
    ⟨(st fun h => mc1 ({ op := .chanListen, f1 := 4, f2 := 1, low := 32768 } : MInstr) 2163264 4521987 0 (h.updEp 1 fun e => { e with tickets := [(0, { used := true })] })), (1), (({ op := .chanListen, f1 := 4, f2 := 1, low := 32768 } : MInstr)), _, _, _, _, (1), (0x21), ⟨executes_of (by decide +kernel), rfl, rfl, rfl, rfl, by decide +kernel⟩⟩,
    ⟨(st fun h => mc1 ({ op := .chanListen, f1 := 4, f2 := 1, low := 32768 } : MInstr) 2163264 4521987 0 (h.updEp 1 fun e => { e with ports := [(0x21, { on := true })] })), (1), (({ op := .chanListen, f1 := 4, f2 := 1, low := 32768 } : MInstr)), _, _, _, _, (0), (0x21), ⟨executes_of (by decide +kernel), rfl, rfl, rfl, rfl, by decide +kernel⟩⟩,
    ⟨(st fun h => mc1 ({ op := .chanOpen, f1 := 4, f2 := 1, low := 32769 } : MInstr) 66051 33 0 ((h.updEp 1 fun e => { e with tickets := [(0, { used := true })] }).setHandle 1 0 { st := 2 })), (1), (({ op := .chanOpen, f1 := 4, f2 := 1, low := 32769 } : MInstr)), _, _, _, _, (1), (1), ⟨executes_of (by decide +kernel), rfl, rfl, rfl, rfl, by decide +kernel⟩⟩,
    ⟨(st fun h => mc1 ({ op := .chanOpen, f1 := 4, f2 := 1, low := 32769 } : MInstr) 66051 33 0 (h.updEp 1 fun e => { e with handles := (List.range 64).map fun i => (i, { st := 2 }) })), (1), (({ op := .chanOpen, f1 := 4, f2 := 1, low := 32769 } : MInstr)), _, _, _, _, (0), ⟨executes_of (by decide +kernel), rfl, rfl, rfl, rfl, by decide +kernel⟩⟩,
    ⟨(st fun h => mc1 ({ op := .chanSend, f1 := 4, f2 := 1, low := 32770 } : MInstr) 3 4587778 0 (((h.setHandle 1 3 { st := 2, dst := 0x00000203, conn := 5, epoch := 6, port := 7 }).setWord (dmAddr 1 0x40) 0x11223344#32))), (1), (({ op := .chanSend, f1 := 4, f2 := 1, low := 32770 } : MInstr)), _, _, _, _, (0), (70), (0x102), ⟨executes_of (by decide +kernel), rfl, rfl, rfl, rfl, (fun _ _ _ => rfl), by decide +kernel⟩⟩,
    ⟨(st fun h => mc1 ({ op := .chanSend, f1 := 4, f2 := 1, low := 32770 } : MInstr) 3 4587778 0 (((h.setHandle 1 3 { st := 1, dst := 0x00000203, conn := 5, epoch := 6, port := 7 }).setWord (dmAddr 1 0x40) 0x11223344#32))), (1), (({ op := .chanSend, f1 := 4, f2 := 1, low := 32770 } : MInstr)), _, _, _, _, (0), (70), (0x102), ⟨executes_of (by decide +kernel), rfl, rfl, rfl, rfl, (fun _ _ _ => rfl), by decide +kernel⟩⟩,
    ⟨(st fun h => mc1 ({ op := .chanClose, f1 := 4, f2 := 1, low := 32771 } : MInstr) 3 0 0 (h)), (1), (({ op := .chanClose, f1 := 4, f2 := 1, low := 32771 } : MInstr)), _, _, _, _, (0), ⟨executes_of (by decide +kernel), rfl, rfl, rfl, rfl, by decide +kernel⟩⟩,
    ⟨(st fun h => mc1 ({ op := .chanClose, f1 := 4, f2 := 1, low := 32771 } : MInstr) 3 0 0 (h.setHandle 1 3 { st := 2, dst := 0x00010203, conn := 5, epoch := 6, port := 7 })), (1), (({ op := .chanClose, f1 := 4, f2 := 1, low := 32771 } : MInstr)), _, _, _, _, (0), _, ⟨executes_of (by decide +kernel), rfl, rfl, rfl, rfl, rfl, by decide +kernel⟩⟩,
    ⟨(st fun h => mc1 ({ op := .chanClose, f1 := 4, f2 := 1, low := 32771 } : MInstr) 3 1 0 (h)), (1), (({ op := .chanClose, f1 := 4, f2 := 1, low := 32771 } : MInstr)), _, _, _, _, (0), ⟨executes_of (by decide +kernel), rfl, rfl, rfl, rfl, by decide +kernel⟩⟩,
    ⟨(st fun h => mc1 ({ op := .chanStatus, f1 := 4, f2 := 1, low := 4 } : MInstr) 3 2 0 (h)), (1), (({ op := .chanStatus, f1 := 4, f2 := 1, low := 4 } : MInstr)), _, _, _, _, ⟨executes_of (by decide +kernel), rfl, rfl, rfl, rfl, Or.inr (by decide +kernel), by decide +kernel⟩⟩,
    ⟨(st fun h => mc1 ({ op := .chanStatus, f1 := 4, f2 := 1, low := 4 } : MInstr) 0 2 0 (h.updEp 1 fun e => { e with tickets := [(0, { used := true })] })), (1), (({ op := .chanStatus, f1 := 4, f2 := 1, low := 4 } : MInstr)), _, _, _, _, ⟨executes_of (by decide +kernel), rfl, rfl, rfl, rfl, by decide +kernel⟩⟩,
    ⟨(st fun h => mc1 ({ op := .chanStatus, f1 := 4, f2 := 1, low := 4 } : MInstr) 0 2 0 (h.updEp 1 fun e => { e with tickets := [(0, { used := true, st := 2, op := 1, reason := 5, handle := 3 })] })), (1), (({ op := .chanStatus, f1 := 4, f2 := 1, low := 4 } : MInstr)), _, _, _, _, _, ⟨executes_of (by decide +kernel), rfl, rfl, rfl, rfl, rfl, by decide +kernel⟩⟩,
    ⟨(st fun h => mc1 ({ op := .chanStatus, f1 := 4, f2 := 1, low := 4 } : MInstr) 0 2 0 (h.updEp 1 fun e => { e with tickets := [(0, { used := true, st := 1, op := 1, reason := 0, handle := 3 })] })), (1), (({ op := .chanStatus, f1 := 4, f2 := 1, low := 4 } : MInstr)), _, _, _, _, _, ⟨executes_of (by decide +kernel), rfl, rfl, rfl, rfl, rfl, by decide +kernel⟩⟩⟩

theorem witness_HandlerDispatch :
    (∃ (s : State) (k : Core) (x : EvHandler) (l : List EvHandler), (s.hw.powered = true) ∧ ((s.hw.eng k).running = false) ∧ (s.hw.coreAvail k = true) ∧ (s.hw.mcEnable k = true) ∧ (s.hw.updating k = false) ∧ ((s.hw.core k).evq = x :: l)) ∧
    (∃ (s : State) (k : Core) (x : MsgRec) (l : List MsgRec), (s.hw.powered = true) ∧ ((s.hw.eng k).running = false) ∧ (s.hw.coreAvail k = true) ∧ (s.hw.mcEnable k = true) ∧ (s.hw.updating k = false) ∧ ((s.hw.core k).evq = []) ∧ ((s.hw.ep (epOfCore k)).msgq = x :: l)) ∧
    (∃ (s : State) (k : Core) (n : Nat), (s.hw.powered = true) ∧ ((s.hw.eng k).running = false) ∧ (s.hw.coreAvail k = true) ∧ (s.hw.mcEnable k = true) ∧ (s.hw.updating k = true) ∧ (s.hw.neuronWaits k = some n) ∧ (s.hw.marks = [])) ∧
    (∃ (s : State) (k : Core), (((s.hw.eng k).running = true ∨ s.hw.mcEnable k = false))) ∧
    (∃ (s : State) (k : Core), (s.hw.powered = true) ∧ ((s.hw.eng k).running = true) ∧ ((s.hw.eng k).kind = .event) ∧ (s.hw.mcLimit k .event ≤ (s.hw.eng k).cyc)) ∧
    (∃ (s : State) (k : Core), (((s.hw.eng k).running = false ∨ (s.hw.eng k).cyc < s.hw.mcLimit k (s.hw.eng k).kind))) :=
  ⟨⟨(st fun h => ((av1 h).setReg MC_CTRL 1 1#32).updCore 1 fun v => { v with evq := [{ ord := 3, arr := { ev := { low := 0x12345678#32 }, dstep := 4#32 }, desc0 := 5#32, desc1 := 6#32, entry := 1030 }, {}], eng := { m := [(8, 7#32), (14, 8#32), (15, 9#32)] } }), (1), ({ ord := 3, arr := { ev := { low := 0x12345678#32 }, dstep := 4#32 }, desc0 := 5#32, desc1 := 6#32, entry := 1030 }), ([{}]), by decide +kernel⟩,
    ⟨(st fun h => (((av1 h).setReg MC_CTRL 1 1#32).updCore 1 fun v => { v with eng := { m := [(8, 7#32), (14, 8#32), (15, 9#32)] } }).updEp 1 fun e => { e with msgq := [{ conn := 3, port := 5, at_ := 16, len := 20 }], ports := [(5, { on := true, base := 64, entry := 77 })] }), (1), ({ conn := 3, port := 5, at_ := 16, len := 20 }), ([]), by decide +kernel⟩,
    ⟨(st fun h => (((((((av1 h).setReg MC_CTRL 1 1#32).setReg CORE_LAYOUT 1 0x640000#32).setReg MC_ENTRY 1 0x33#32).setWord (coreBase 1 + 128) 0x11#32).setWord (coreBase 1 + 144) 0x1234567#32).setWord (psetAddr 1 0 + 8) 0x10#32).updStep (fun p => { p with phase := .integrate }) |>.updCore 1 fun v => { v with integ := { v.integ with stage := .update 2 }, eng := { m := [(8, 7#32), (14, 8#32), (15, 9#32)] } }), (1), (2), by decide +kernel⟩,
    ⟨(st id), (1), Or.inr (by decide +kernel)⟩,
    ⟨(st fun h => h.updCore 1 fun v => { v with eng := { running := true, kind := .event, pc := 5, cyc := 100000 } }), (1), by decide +kernel⟩,
    ⟨(st id), (1), Or.inl (by decide +kernel)⟩⟩

theorem witness_BankAndScrubEvents :
    (∃ (s : State) (c : Cluster) (b : Fin 32), (s.hw.powered = true) ∧ ((s.hw.bank c b).waking = true) ∧ ((s.hw.bank c b).lost = false) ∧ ((s.hw.bank c b).recorded = none) ∧ ((s.hw.bank c b).heldW = [])) ∧
    (∃ (s : State) (c : Cluster) (b : Fin 32), (s.hw.powered = true) ∧ ((s.hw.bank c b).waking = true) ∧ ((s.hw.bank c b).lost = true) ∧ ((s.hw.bank c b).heldW = [])) ∧
    (∃ (s : State) (c : Cluster) (b : Fin 32), ((s.hw.bank c b).waking = false)) ∧
    (∃ (s : State) (c : Cluster), ((∃ b, b < 32 ∧ (s.hw.bank c b).scrubAt + 1 < bankLines)) ∧ (s.hw.powered = true) ∧ (s.hw.en SCRUB_CTRL c 0 = true) ∧ (s.hw.marks = []) ∧ ((∀ b, b < 32 → (s.hw.bank c b).scrubLines = [] ∧ (s.hw.bank c b).scrubAt < bankLines))) ∧
    (∃ (s : State) (c : Cluster), ((∃ b, b < 32 ∧ (s.hw.bank c b).scrubAt < bankLines)) ∧ (s.hw.powered = true) ∧ (s.hw.en SCRUB_CTRL c 0 = true)) ∧
    (∃ (s : State) (c : Cluster), (s.hw.en SCRUB_CTRL c 0 = false)) :=
  ⟨⟨(st fun h => h.updBank 1 3 fun x => { x with waking := true, pwr := 1 }), (1), (3), by decide +kernel⟩,
    ⟨(st fun h => (h.updBank 1 3 fun x => { x with waking := true, pwr := 1, lost := true, recorded := some 1 }).setWord (bankBase 1 3 + 0x5FFFC) 5#32), (1), (3), by decide +kernel⟩,
    ⟨(st id), (1), (3), by decide +kernel⟩,
    ⟨(st fun h => (h.setReg SCRUB_CTRL 1 1#32).updBank 1 3 fun x => { x with scrubAt := 7 }), (1), ⟨⟨0, by decide⟩, by decide +kernel⟩⟩,
    ⟨(st fun h => (h.setReg SCRUB_CTRL 1 1#32).updCl 1 fun x => { x with retry := [.lookup] }), (1), ⟨⟨0, by decide⟩, by decide +kernel⟩⟩,
    ⟨(st fun h => h.setReg SCRUB_CTRL 1 0#32), (1), by decide +kernel⟩⟩

theorem witness_LookupAndAdmission :
    (∃ (s : State) (c : Cluster) (a : Arrival) (l : List Arrival), (s.hw.powered = true) ∧ ((s.hw.cl c).avail = true) ∧ ((s.hw.cl c).lookq = a :: l) ∧ ((s.hw.cl c).retry.contains .lookup = false) ∧ (s.hw.marks = []) ∧ ((∀ w : Fin 2, ¬ (bit (s.hw.word (bankBase c (s.hw.entryAt c w a.ev.addr).1 + (s.hw.entryAt c w a.ev.addr).2)) 31 = true ∧ s.hw.word (bankBase c (s.hw.entryAt c w a.ev.addr).1 + ((s.hw.entryAt c w a.ev.addr).2 + 4)) = a.ev.addr)))) ∧
    (∃ (s : State) (c : Cluster) (a : Arrival) (l : List Arrival) (p : Nat × Nat) (e : Word), (s.hw.powered = true) ∧ ((s.hw.cl c).avail = true) ∧ ((s.hw.cl c).lookq = a :: l) ∧ ((s.hw.cl c).retry.contains .lookup = false) ∧ (s.hw.marks = []) ∧ (p = s.hw.entryAt c 0 a.ev.addr) ∧ (e = s.hw.word (bankBase c p.1 + p.2)) ∧ (bit e 31 = true) ∧ (s.hw.word (bankBase c p.1 + (p.2 + 4)) = a.ev.addr) ∧ (a.fabric = true)) ∧
    (∃ (s : State) (c : Cluster), (s.hw.powered = true) ∧ ((s.hw.cl c).avail = true) ∧ ((s.hw.cl c).lookq ≠ []) ∧ ((s.hw.cl c).retry.contains .lookup = false)) ∧
    (∃ (s : State) (c : Cluster), ((s.hw.cl c).lookq = [])) ∧
    (∃ (s : State) (c : Cluster), (s.hw.powered = true) ∧ (nextRetry (s.hw.cl c).retry = some .lookup) ∧ ((s.hw.cl c).avail = false)) ∧
    (∃ (s : State) (c : Cluster) (b : Nat), (s.hw.powered = true) ∧ (nextRetry (s.hw.cl c).retry = some (.scrub b))) ∧
    (∃ (s : State) (c : Cluster) (b : Nat) (off : Nat) (w : Word), (s.hw.powered = true) ∧ (nextRetry (s.hw.cl c).retry = some (.window b off w))) ∧
    (∃ (s : State) (c : Cluster), ((s.hw.cl c).retry = [])) ∧
    (∃ (s : State) (c : Cluster) (a : Arrival) (b : Arrival) (l : List Arrival), (s.hw.powered = true) ∧ ((s.hw.cl c).admitq = a :: b :: l) ∧ ((s.hw.cl c).avail = true) ∧ ((s.hw.cl c).lookq.length + 32 ≤ 256) ∧ (s.hw.neuronHigh a.ev.addr = false) ∧ (s.hw.evtFate (a.dstep.toNat % 16) = .onTime)) ∧
    (∃ (s : State) (c : Cluster) (a : Arrival) (l : List Arrival), (s.hw.powered = true) ∧ ((s.hw.cl c).admitq = a :: l) ∧ ((s.hw.cl c).avail = true) ∧ (256 < (s.hw.cl c).lookq.length + 32)) ∧
    (∃ (s : State) (c : Cluster), ((s.hw.cl c).admitq = [])) :=
  ⟨⟨(st fun h => (h.updCl 1 fun v => { v with avail := true, lookq := [{ ev := { addr := 0x11000005#32 } }, {}] })), (1), ({ ev := { addr := 0x11000005#32 } }), ([{}]), by decide +kernel⟩,
    ⟨(st fun h => ((((av1 h).updCore 9 fun x => { x with avail := true, warm := true }).updCl 0 fun v => { v with lookq := [{ ev := { addr := 0x11000005#32 } }, {}] }).setWord (bankBase 0 (h.entryAt 0 0 0x11000005#32).1 + (h.entryAt 0 0 0x11000005#32).2) 0x80C06040#32).setWord (bankBase 0 (h.entryAt 0 0 0x11000005#32).1 + ((h.entryAt 0 0 0x11000005#32).2 + 4)) 0x11000005#32), (0), ({ ev := { addr := 0x11000005#32 } }), ([{}]), ((st id).hw.entryAt 0 0 0x11000005#32), (0x80C06040#32), by decide +kernel⟩,
    ⟨(st fun h => h.updCl 1 fun v => { v with avail := true, lookq := [{}] }), (1), by decide +kernel⟩,
    ⟨(st id), (1), by decide +kernel⟩,
    ⟨(st fun h => h.updCl 1 fun v => { v with retry := [.scrub 3, .lookup, .lookup] }), (1), by decide +kernel⟩,
    ⟨(st fun h => (h.updCl 1 fun v => { v with retry := [.window 3 0x5C004 77#32, .scrub 3] }).setReg SCRUB_CTRL 1 1#32), (1), (3), by decide +kernel⟩,
    ⟨(st fun h => h.updCl 1 fun v => { v with retry := [.window 3 0x5C004 77#32, .window 4 0x5C004 78#32] }), (1), (3), (0x5C004), (77#32), by decide +kernel⟩,
    ⟨(st id), (1), by decide +kernel⟩,
    ⟨(st fun h => h.updCl 1 fun v => { v with avail := true, admitq := [{ ev := { addr := 0x10040005#32 } }, {}], lookq := List.replicate 224 {} }), (1), ({ ev := { addr := 0x10040005#32 } }), ({}), ([]), by decide +kernel⟩,
    ⟨(st fun h => h.updCl 1 fun v => { v with avail := true, admitq := [{ ev := { addr := 0x10040005#32 } }], lookq := List.replicate 225 {} }), (1), ({ ev := { addr := 0x10040005#32 } }), ([]), by decide +kernel⟩,
    ⟨(st id), (1), by decide +kernel⟩⟩

theorem witness_ListStreaming :
    (∃ (s : State) (k : Core) (o : Offer) (l : List Offer), (s.hw.powered = true) ∧ (s.hw.coreAvail k = true) ∧ ((s.hw.core k).listq = o :: l) ∧ (o.lists = none) ∧ (s.hw.inWindow k o.ord = false)) ∧
    (∃ (s : State) (k : Core) (o : Offer) (l : List Offer) (p : Nat × Nat) (d : Desc), (s.hw.powered = true) ∧ (s.hw.coreAvail k = true) ∧ ((s.hw.core k).listq = o :: l) ∧ (o.lists = none) ∧ (s.hw.step.phase ≠ .integrate) ∧ (s.hw.waits = []) ∧ ((∀ j ∈ coresOf (k / 32), j ≠ k.val → (s.hw.core j).listq = [])) ∧ (s.hw.inWindow k o.ord = true) ∧ (s.hw.evtMode k o.ord = 0) ∧ (s.hw.marks = []) ∧ (p = s.hw.descAt k o.ord) ∧ (s.hw.portA (k / 32) p.1 p.2 (k % 32) = .ok) ∧ (p.2 % 8 = 0) ∧ (d = descOf (s.hw.word (bankBase (k / 32) p.1 + p.2)) (s.hw.word (bankBase (k / 32) p.1 + (p.2 + 4)))) ∧ (d.fmt = 3)) ∧
    (∃ (s : State) (k : Core) (o : Offer) (l : List Offer) (p : Nat × Nat) (d : Desc) (w : Word) (tgt : Nat), (s.hw.powered = true) ∧ (s.hw.coreAvail k = true) ∧ ((s.hw.core k).listq = o :: l) ∧ (o.lists = none) ∧ (s.hw.step.phase ≠ .integrate) ∧ (s.hw.waits = []) ∧ ((∀ j ∈ coresOf (k / 32), j ≠ k.val → (s.hw.core j).listq = [])) ∧ (s.hw.inWindow k o.ord = true) ∧ (s.hw.evtMode k o.ord = 0) ∧ (s.hw.marks = []) ∧ (p = s.hw.descAt k o.ord) ∧ (s.hw.portA (k / 32) p.1 p.2 (k % 32) = .ok) ∧ (p.2 % 8 = 0) ∧ (d = descOf (s.hw.word (bankBase (k / 32) p.1 + p.2)) (s.hw.word (bankBase (k / 32) p.1 + (p.2 + 4)))) ∧ (d.fmt = 0) ∧ (d.len = 1) ∧ (d.chain = false) ∧ (descOk d 0 = true) ∧ (s.hw.portA (k / 32) d.bank (16 * d.offset) (k % 32) = .ok) ∧ (w = s.hw.word (bankBase (k / 32) d.bank + 16 * d.offset)) ∧ (sext 8 (bits w 31 24) ≠ 0) ∧ (tgt = k / 32 * 32 + bits w 17 13) ∧ (tgt ≠ k) ∧ (s.hw.coreAvail tgt = true) ∧ (s.hw.slices tgt = 1) ∧ (s.hw.paired tgt = false) ∧ (s.hw.compact tgt = false) ∧ (bits w 12 0 < s.hw.neurons tgt) ∧ (bit w 18 = false) ∧ (d.graded = false) ∧ (o.arr.late = false)) ∧
    (∃ (s : State) (k : Core) (o : Offer) (l : List Offer) (p : Nat × Nat), (s.hw.powered = true) ∧ (s.hw.coreAvail k = true) ∧ ((s.hw.core k).listq = o :: l) ∧ (o.lists = none) ∧ (s.hw.inWindow k o.ord = true) ∧ (p = s.hw.descAt k o.ord) ∧ (s.hw.portA (k / 32) p.1 p.2 (k % 32) = .held)) ∧
    (∃ (s : State) (k : Core), (((s.hw.core k).listq = [] ∨ s.hw.coreAvail k = false))) :=
  ⟨⟨(st fun h => (win1 h).updCore 1 fun x => { x with listq := [{ ord := 101 }, {}] }), (1), ({ ord := 101 }), ([{}]), by decide +kernel⟩,
    ⟨(st fun h => ((win1 h).setWord (bankBase 0 7 + 44) 0xC0000000#32).updCore 1 fun x => { x with listq := [{ ord := 5 }, {}] }), (1), ({ ord := 5 }), ([{}]), ((7, 40)), ({ fmt := 3 }), by decide +kernel⟩,
    ⟨(st fun h => (((((win1 h).setWord (bankBase 0 7 + 44) 0x04000000#32).setWord (bankBase 0 7 + 40) 0x00138009#32).setWord (bankBase 0 7 + 144) 0x85206004#32).setReg CORE_LAYOUT 3 0x640000#32).updCore 1 (fun x => { x with listq := [{ ord := 5, arr := { dstep := 3#32 } }, {}] }) |>.updCore 3 fun x => { x with avail := true }), (1), ({ ord := 5, arr := { dstep := 3#32 } }), ([{}]), ((7, 40)), ({ len := 1, bank := 7, offset := 9, shift := 2 }), (0x85206004#32), (3), by decide +kernel⟩,
    ⟨(st fun h => ((win1 h).setReg BANK_HANDOVER_PENDING 0 0x80#32).updCore 1 fun x => { x with listq := [{ ord := 5 }, {}] }), (1), ({ ord := 5 }), ([{}]), ((7, 40)), by decide +kernel⟩,
    ⟨(st id), (1), Or.inl (by decide +kernel)⟩⟩

theorem witness_FixedNeuronPath :
    (∃ (h : Hw) (k : Nat) (n : Nat) (ps : List Word) (w0 : Word) (v' : NVars) (x : Int) (j : Nat), (w0 = h.word (h.recAddr k n)) ∧ (ps = h.words (psetAddr k (h.psetOf k n)) 8) ∧ (v' = recVars false w0 (h.word (h.recAddr k n + 4)) (h.word (h.recAddr k n + 8))) ∧ (x = max (sat24 (rtz v'.v (pvars ps).alpha + h.read24 (h.slotAddr k n (h.stepNum.toNat % 16)) + sext 24 (bits (h.word (h.recAddr k n + 12)) 31 8))) (pvars ps).vMin) ∧ (j < h.recAddr k n ∨ h.recAddr k n + 64 ≤ j) ∧ (h.marks = []) ∧ (h.compact k = false) ∧ (bit w0 0 = true)) ∧
    (∃ (h : Hw) (k : Nat) (n : Nat) (ps : List Word) (w0 : Word) (v' : NVars) (x : Int), (w0 = h.word (h.recAddr k n)) ∧ (ps = h.words (psetAddr k (h.psetOf k n)) 8) ∧ (v' = recVars false w0 (h.word (h.recAddr k n + 4)) (h.word (h.recAddr k n + 8))) ∧ (x = max (sat24 (rtz v'.v (pvars ps).alpha + h.read24 (h.slotAddr k n (h.stepNum.toNat % 16)) + sext 24 (bits (h.word (h.recAddr k n + 12)) 31 8))) (pvars ps).vMin) ∧ (h.marks = []) ∧ (h.compact k = false) ∧ (bit w0 0 = true) ∧ (0 < v'.ref)) ∧
    (∃ (h : Hw) (k : Nat) (n : Nat) (ps : List Word) (w0 : Word) (v' : NVars) (x : Int), (w0 = h.word (h.recAddr k n)) ∧ (ps = h.words (psetAddr k (h.psetOf k n)) 8) ∧ (v' = recVars false w0 (h.word (h.recAddr k n + 4)) (h.word (h.recAddr k n + 8))) ∧ (x = max (sat24 (rtz v'.v (pvars ps).alpha + h.read24 (h.slotAddr k n (h.stepNum.toNat % 16)) + sext 24 (bits (h.word (h.recAddr k n + 12)) 31 8))) (pvars ps).vMin) ∧ (h.marks = []) ∧ (h.compact k = false) ∧ (bit w0 0 = true) ∧ (v'.ref = 0) ∧ (x < (pvars ps).theta0 + ((v'.a * (pvars ps).beta / 32768 * 2 ^ (pvars ps).ashift : Nat) : Int))) ∧
    (∃ (h : Hw) (k : Nat) (n : Nat) (ps : List Word) (w0 : Word) (v' : NVars) (x : Int), (w0 = h.word (h.recAddr k n)) ∧ (ps = h.words (psetAddr k (h.psetOf k n)) 8) ∧ (v' = recVars false w0 (h.word (h.recAddr k n + 4)) (h.word (h.recAddr k n + 8))) ∧ (x = max (sat24 (rtz v'.v (pvars ps).alpha + h.read24 (h.slotAddr k n (h.stepNum.toNat % 16)) + sext 24 (bits (h.word (h.recAddr k n + 12)) 31 8))) (pvars ps).vMin) ∧ (h.marks = []) ∧ (h.compact k = false) ∧ (bit w0 0 = true) ∧ (v'.ref = 0) ∧ ((pvars ps).theta0 + ((v'.a * (pvars ps).beta / 32768 * 2 ^ (pvars ps).ashift : Nat) : Int) ≤ x)) ∧
    (∃ (h : Hw) (k : Nat) (n : Nat) (j : Nat) (a : Nat), (a < h.slotAddr k n j ∨ h.slotAddr k n j + 3 ≤ a) ∧ (h.marks = [])) ∧
    (∃ (h : Hw) (k : Nat) (i : Nat), (h.marks = []) ∧ (i ≠ k)) :=
  ⟨⟨(nr 0x00012303 0x100 0x500 100 7), (1), (2), _, _, _, _, (coreBase 1 + 192), ⟨rfl, rfl, rfl, rfl, Or.inr (by decide +kernel), by decide +kernel⟩⟩,
    ⟨(nr 0x00012353 0x100 0x500 100 7), (1), (2), _, _, _, _, ⟨rfl, rfl, rfl, rfl, by decide +kernel⟩⟩,
    ⟨(nr 0x00012303 0x80000100 0x500 10000 7), (1), (2), _, _, _, _, ⟨rfl, rfl, rfl, rfl, by decide +kernel⟩⟩,
    ⟨(nr 0x7F012303 0x80000100 0x500 100 7), (1), (2), _, _, _, _, ⟨rfl, rfl, rfl, rfl, by decide +kernel⟩⟩,
    ⟨(nr 3 0 0 0 7), (1), (2), (5), (coreBase 1 + 162), ⟨Or.inr (by decide +kernel), by decide +kernel⟩⟩,
    ⟨(nr 3 0 0 0 7), (1), (2), by decide +kernel⟩⟩

theorem witness_FabricSlotsAndInjection :
    (∃ (s : State) (c : Cluster), ((s.hw.step.phase ≠ .delivery ∨ s.hw.frameEnd ≤ (s.hw.cl c).slot ∨ ∃ d, d < 64 ∧ (s.hw.cl d).slot + 3 ≤ (s.hw.cl c).slot))) ∧
    (∃ (s : State) (c : Cluster), (s.hw.powered = true) ∧ (s.hw.step.phase = .delivery) ∧ (s.hw.step.framesDone = false) ∧ ((s.hw.cl c).slot < s.hw.frameEnd) ∧ ((∀ d, d < 64 → (s.hw.cl c).slot < (s.hw.cl d).slot + 3)) ∧ ((s.hw.cl c).lanes = []) ∧ (s.hw.waits = []) ∧ (bit (s.hw.tab .fseq c ((s.hw.cl c).fseq * 2 ^ 16 + (s.hw.cl c).slot / 1024)) 7 = true)) ∧
    (∃ (s : State) (c : Cluster) (n : Nat) (f : Nat) (q : Word) (w : Word) (e : Ev) (r : List (Nat × Ev)), (n = (s.hw.cl c).slot) ∧ (q = s.hw.tab .fseq c ((s.hw.cl c).fseq * 2 ^ 16 + n / 1024)) ∧ (w = s.hw.tab .gt c (bits q 2 0 * 2 ^ 16 + n % 1024)) ∧ (f = bits w 25 17) ∧ (takeHeld f (s.hw.cl c).hold = some (e, r)) ∧ (s.hw.powered = true) ∧ (s.hw.step.phase = .delivery) ∧ (s.hw.step.framesDone = false) ∧ (n < s.hw.frameEnd) ∧ ((∀ d, d < 64 → n < (s.hw.cl d).slot + 3)) ∧ ((s.hw.cl c).lanes = []) ∧ (s.hw.waits = []) ∧ (bit q 7 = false) ∧ ((s.hw.cl c).idleFrame ≠ some (n / 1024)) ∧ ((∀ i, 1 ≤ i → i < 17 → s.hw.tab .gt c (bits q 2 0 * 2 ^ 16 + i * 2 ^ 10 + n % 1024) = 0#32)) ∧ (bits w 31 30 = 2) ∧ (bits w 16 0 = 1)) ∧
    (∃ (s : State) (c : Cluster) (n : Nat) (f : Nat) (q : Word) (w : Word), (n = (s.hw.cl c).slot) ∧ (q = s.hw.tab .fseq c ((s.hw.cl c).fseq * 2 ^ 16 + n / 1024)) ∧ (w = s.hw.tab .gt c (bits q 2 0 * 2 ^ 16 + n % 1024)) ∧ (f = bits w 25 17) ∧ (s.hw.powered = true) ∧ (s.hw.step.phase = .delivery) ∧ (s.hw.step.framesDone = false) ∧ (n < s.hw.frameEnd) ∧ ((∀ d, d < 64 → n < (s.hw.cl d).slot + 3)) ∧ ((s.hw.cl c).lanes = []) ∧ (s.hw.waits = []) ∧ (bit q 7 = false) ∧ ((s.hw.cl c).idleFrame ≠ some (n / 1024)) ∧ ((∀ i, 1 ≤ i → i < 17 → s.hw.tab .gt c (bits q 2 0 * 2 ^ 16 + i * 2 ^ 10 + n % 1024) = 0#32)) ∧ (bits w 31 30 = 2) ∧ (bits w 16 0 = 1) ∧ (takeHeld f (s.hw.cl c).hold = none)) ∧
    (∃ (s : State) (c : Cluster) (p : PortEv) (r : List PortEv), ((s.hw.cl c).port = p :: r) ∧ (s.hw.powered = true) ∧ ((1024 ≤ (s.hw.cl c).spill.length ∨ (s.hw.cl c).residue ≠ [])) ∧ (s.hw.waits = [])) ∧
    (∃ (s : State) (c : Cluster) (p : PortEv) (r : List PortEv) (f : Nat), ((s.hw.cl c).port = p :: r) ∧ (s.hw.flowOf c p.ev.addr = some f) ∧ (s.hw.powered = true) ∧ (s.hw.step.phase ≠ .integrate) ∧ ((s.hw.cl c).spill.length < 1024) ∧ ((s.hw.cl c).residue = []) ∧ (s.hw.waits = []) ∧ (p.ofCore = false) ∧ (s.hw.addrBad p.ev.addr = false) ∧ (s.hw.step.framesDone = false) ∧ (s.hw.held c f + s.hw.passed c f < s.hw.flowBudget c f)) ∧
    (∃ (s : State) (c : Cluster) (p : PortEv) (r : List PortEv) (f : Nat) (k : Nat), ((s.hw.cl c).port = p :: r) ∧ (s.hw.flowOf c p.ev.addr = some f) ∧ (k = s.hw.flowClass c f) ∧ (s.hw.powered = true) ∧ (s.hw.step.phase = .delivery) ∧ ((s.hw.cl c).spill.length < 1024) ∧ ((s.hw.cl c).residue = []) ∧ (s.hw.waits = []) ∧ (p.ofCore = false) ∧ (s.hw.addrBad p.ev.addr = false) ∧ ((s.hw.step.framesDone = true ∨ s.hw.flowBudget c f ≤ s.hw.held c f + s.hw.passed c f)) ∧ (s.hw.destPkgs c (s.hw.flowDest c f) ≠ 0)) ∧
    (∃ (s : State) (c : Cluster) (p : PortEv) (r : List PortEv), ((s.hw.cl c).port = p :: r) ∧ (s.hw.powered = true) ∧ (s.hw.step.phase ≠ .integrate) ∧ ((s.hw.cl c).spill.length < 1024) ∧ ((s.hw.cl c).residue = []) ∧ (s.hw.waits = []) ∧ (p.ofCore = false) ∧ (s.hw.addrBad p.ev.addr = false) ∧ (s.hw.flowOf c p.ev.addr = none)) ∧
    (∃ (s : State) (c : Cluster) (p : PortEv) (r : List PortEv), ((s.hw.cl c).port = p :: r) ∧ (s.hw.powered = true) ∧ (s.hw.step.phase ≠ .integrate) ∧ ((s.hw.cl c).spill.length < 1024) ∧ ((s.hw.cl c).residue = []) ∧ (s.hw.waits = []) ∧ (s.hw.addrBad p.ev.addr = true)) ∧
    (∃ (s : State) (c : Cluster), ((s.hw.cl c).port = []) ∧ ((s.hw.cl c).alias_ = [])) ∧
    (∃ (s : State), ((s.hw.step.phase ≠ .delivery ∨ s.hw.step.framesDone = true ∨ ∃ d, d < 64 ∧ (s.hw.cl d).slot < s.hw.frameEnd))) ∧
    (∃ (s : State), (s.hw.powered = true) ∧ (s.hw.step.phase = .delivery) ∧ (s.hw.step.framesDone = false) ∧ ((∀ d, d < 64 → s.hw.frameEnd ≤ (s.hw.cl d).slot ∧ (s.hw.cl d).hold = [] ∧ (s.hw.cl d).lanes = [])) ∧ (s.hw.waits = [])) ∧
    (∃ (s : State) (c : Cluster) (f : Nat) (k : Nat) (e : Ev) (n : Word) (r : List (Nat × Ev × Word)), ((s.hw.cl c).residue = (f, e, n) :: r) ∧ (k = s.hw.flowClass c f) ∧ (s.hw.powered = true) ∧ (s.hw.step.phase ≠ .integrate) ∧ ((s.hw.cl c).spill.length < 1024) ∧ (s.hw.destPkgs c (s.hw.flowDest c f) ≠ 0)) ∧
    (∃ (s : State) (c : Cluster), (s.hw.powered = true) ∧ (s.hw.en RT_CTRL c 1 = true) ∧ (s.hw.step.phase ≠ .delivery)) ∧
    (∃ (s : State) (c : Cluster), (s.hw.flag RT_CTRL c 1 = true) ∧ (s.hw.step.phase = .delivery)) :=
  ⟨⟨(st id), (1), by decide +kernel⟩,
    ⟨(st fun h => ((ph .delivery h).setReg FAB_FRAMES 0 2#32).setTab .fseq 1 0 0x80#32), (1), by decide +kernel⟩,
    ⟨(st fun h => (((ph .delivery h).setReg FAB_FRAMES 0 2#32).setTab .gt 1 0 0x800A0001#32).updCl 1 fun v => { v with hold := [(3, {}), (5, { addr := 7#32 }), (5, {})] }), (1), _, _, _, _, _, _, ⟨rfl, rfl, rfl, rfl, rfl, by decide +kernel⟩⟩,
    ⟨(st fun h => (((ph .delivery h).setReg FAB_FRAMES 0 2#32).setTab .gt 1 0 0x800A0001#32).updCl 1 fun v => { v with hold := [(3, {})] }), (1), _, _, _, _, ⟨rfl, rfl, rfl, rfl, by decide +kernel⟩⟩,
    ⟨(st fun h => h.updCl 1 fun v => { v with port := [{}], residue := [(0, {}, 0#32)] }), (1), _, _, ⟨rfl, by decide +kernel⟩⟩,
    ⟨(st fun h => (((h.setTab .flow 1 5 0xC0000000#32).setTab .flow 1 0x10005 0x00000300#32).setTab .flow 1 0x20005 4#32).updCl 1 fun v => { v with port := [{ ev := { addr := 0x30000200#32 }, ofCore := false }], hold := [(5, {})] }), (1), _, _, _, ⟨rfl, rfl, by decide +kernel⟩⟩,
    ⟨(st fun h => ((((((ph .delivery h).setTab .flow 1 5 0xC0000000#32).setTab .flow 1 0x10005 0x20300300#32).setTab .flow 1 0x20005 1#32).setTab .dest 1 0x20003 1#32)).updCl 1 fun v => { v with port := [{ ev := { addr := 0x30000200#32 }, ofCore := false }], hold := [(5, {})] }), (1), _, _, _, _, ⟨rfl, rfl, rfl, by decide +kernel⟩⟩,
    ⟨(st fun h => h.updCl 1 fun v => { v with port := [{ ev := { addr := 0x30000200#32 }, ofCore := false }], hold := [(5, {})] }), (1), _, _, ⟨rfl, by decide +kernel⟩⟩,
    ⟨(st fun h => h.updCl 1 fun v => { v with port := [{ ev := { addr := 0xF0000200#32 }, ofCore := false }], hold := [(5, {})] }), (1), _, _, ⟨rfl, by decide +kernel⟩⟩,
    ⟨(st id), (1), by decide +kernel⟩,
    ⟨(st id), by decide +kernel⟩,
    ⟨(st fun h => ph .delivery h), by decide +kernel⟩,
    ⟨(st fun h => (h.setTab .dest 1 0x20000 1#32).updCl 1 fun v => { v with residue := [(2, {}, 9#32), (3, {}, 0#32)] }), (1), _, _, _, (9#32), _, ⟨rfl, rfl, by decide +kernel⟩⟩,
    ⟨(st fun h => (h.setReg RT_CTRL 1 2#32)), (1), by decide +kernel⟩,
    ⟨(st fun h => (ph .delivery h).setReg RT_CTRL 1 2#32), (1), by decide +kernel⟩⟩

theorem witness_DripForwardingAndEvents :
    (∃ (s : State) (c : Cluster) (p : Fin 6) (rsp : Bool), (s.hw.dbufOf c p (b2n rsp) = [])) ∧
    (∃ (s : State) (c : Cluster) (d : Cluster) (p : Fin 6) (w : Word) (l : List DFlit) (dir : Dir), (s.hw.dbufOf c p 0 = ⟨w, false⟩ :: l) ∧ (s.hw.powered = true) ∧ (p.val ≠ 0) ∧ (s.hw.route c p 0 = {}) ∧ (hdrOk w = true) ∧ (pType w = tMSG) ∧ (pDpkg w = s.hw.pkgNum) ∧ (xyPort c (pDcl w) = dir.port) ∧ (neighbour c dir = some d.val) ∧ (s.hw.portDead c dir.port = false) ∧ (s.hw.outsFree c p 0 [dir.port] = true) ∧ (s.hw.turn c p 0 dir.port = true) ∧ ((s.hw.dbufOf d dir.opp.port 0).length < 40)) ∧
    (∃ (s : State) (c : Cluster) (d : Cluster) (p : Fin 6) (w : Word) (q : List DFlit) (l : List DFlit) (dir : Dir), (s.hw.powered = true) ∧ (p.val ≠ 0) ∧ (s.hw.dbufOf c p 1 = (⟨w, false⟩ :: q) ++ l) ∧ (q.length = pLen w) ∧ ((∀ x ∈ q, x.bad = false)) ∧ (s.hw.route c p 1 = { checked := pLen w }) ∧ (hdrOk w = true) ∧ (4 ≤ pType w) ∧ (pDpkg w = s.hw.pkgNum) ∧ (xyPort c (pDcl w) = dir.port) ∧ (neighbour c dir = some d.val) ∧ (s.hw.portDead c dir.port = false) ∧ (s.hw.outsFree c p 1 [dir.port] = true) ∧ (s.hw.turn c p 1 dir.port = true) ∧ ((s.hw.dbufOf d dir.opp.port 1).length + pLen w < 40)) ∧
    (∃ (s : State) (c : Cluster) (d : Cluster) (p : Fin 6) (w : Word) (l : List DFlit) (dir : Dir), (s.hw.dbufOf c p 0 = ⟨w, false⟩ :: l) ∧ (s.hw.powered = true) ∧ (s.hw.route c p 0 = {}) ∧ (hdrOk w = true) ∧ (pType w = tMSG) ∧ (pDpkg w = s.hw.pkgNum) ∧ (xyPort c (pDcl w) = dir.port) ∧ (neighbour c dir = some d.val) ∧ (s.hw.portDead c dir.port = false) ∧ (s.hw.outsFree c p 0 [dir.port] = true) ∧ (s.hw.turn c p 0 dir.port = true) ∧ (40 ≤ (s.hw.dbufOf d dir.opp.port 0).length) ∧ (s.hw.waits = [])) ∧
    (∃ (s : State) (c : Cluster) (p : Fin 6) (rsp : Bool) (w : Word) (l : List DFlit), (s.hw.dbufOf c p (b2n rsp) = ⟨w, false⟩ :: l) ∧ (s.hw.powered = true) ∧ (p.val ≠ 0) ∧ (s.hw.waits = []) ∧ (s.hw.route c p (b2n rsp) = {}) ∧ (hdrOk w = false)) ∧
    (∃ (s : State) (c : Cluster) (e : Spilled) (l : List Spilled) (k : Nat), ((s.hw.cl c).spill = e :: l) ∧ (k = 64 * c + s.hw.spillEp c e.ev.addr) ∧ (s.hw.powered = true) ∧ ((s.hw.ep k).q.length < 1024)) ∧
    (∃ (s : State) (c : Cluster), (((s.hw.cl c).spill = [] ∨ ∃ e l, (s.hw.cl c).spill = e :: l ∧ 1024 ≤ (s.hw.ep (64 * c + s.hw.spillEp c e.ev.addr)).q.length))) ∧
    (∃ (s : State) (c : Cluster) (ep : Fin 36) (k : Nat) (x : Spilled) (l : List Spilled), (k = 64 * c.val + ep.val) ∧ ((s.hw.ep k).q = x :: l) ∧ (s.hw.powered = true) ∧ ((packEvents (s.hw.ep k).q).length = 7) ∧ (s.hw.stepStarted x.step = true) ∧ ((s.hw.ep k).txq = []) ∧ (s.hw.windowsFree k (s.hw.destClusters c x.dest) = true) ∧ (s.hw.mayStart c 15 = true) ∧ (s.hw.waits = [])) ∧
    (∃ (s : State) (c : Cluster) (ep : Fin 36), ((s.hw.ep (64 * c.val + ep.val)).q = [])) ∧
    (∃ (s : State) (c : Cluster) (p : List DFlit), (s.hw.headPkt c 0 = some p) ∧ (s.hw.powered = true) ∧ (pType (flitW p 0) = tEVT) ∧ (pktBad p = false) ∧ ((s.hw.cl c).admitRet = none) ∧ (s.hw.step.phase = .integrate) ∧ (s.hw.policy = .drop) ∧ (pStep (flitW p 0) = s.hw.stepNum.toNat % 16) ∧ ((s.hw.cl c).rspq = []) ∧ ((s.hw.dbufOf c 0 1).length ≤ 38)) ∧
    (∃ (s : State) (c : Cluster) (p : List DFlit) (k : Nat) (w : Word), (s.hw.headPkt c 1 = some p) ∧ (w = flitW p 1) ∧ (k = 64 * c.val + pDep (flitW p 0)) ∧ (s.hw.powered = true) ∧ (pType (flitW p 0) = tWRET) ∧ (pktBad p = false) ∧ (bit w 20 = false) ∧ (bits w 15 0 = 0) ∧ ((s.hw.ep k).txq = []) ∧ (s.hw.epReady c (pDep (flitW p 0)) = true)) ∧
    (∃ (s : State) (c : Cluster) (ep : Fin 36) (k : Nat) (o : Outstanding) (l : List Outstanding), (k = 64 * c.val + ep.val) ∧ ((s.hw.ep k).sent = o :: l) ∧ (s.hw.powered = true) ∧ ((s.hw.ep k).txq = []) ∧ (s.hw.waits = [])) ∧
    (∃ (s : State) (c : Cluster), (s.hw.headPkt c 0 = none)) :=
  ⟨⟨(st id), (1), (2), (true), by decide +kernel⟩,
    ⟨(st fun h => h.updCl 1 fun v => { v with dbuf := [(4, [⟨0x44010000#32, false⟩, ⟨1#32, false⟩])] }), (1), (2), (2), _, _, (.east), ⟨rfl, by decide +kernel⟩⟩,
    ⟨(st fun h => h.updCl 1 fun v => { v with dbuf := [(5, [⟨0x82010000#32, false⟩, ⟨1#32, false⟩, ⟨7#32, false⟩, ⟨3#32, false⟩])], droute := [(5, { checked := 2 })] }), (1), (2), (2), (0x82010000#32), ([⟨1#32, false⟩, ⟨7#32, false⟩]), ([⟨3#32, false⟩]), (.east), by decide +kernel⟩,
    ⟨(st fun h => (h.updCl 1 fun v => { v with dbuf := [(4, [⟨0x44010000#32, false⟩, ⟨1#32, false⟩])] }).updCl 2 fun v => { v with dbuf := [(8, List.replicate 40 {})] }), (1), (2), (2), _, _, (.east), ⟨rfl, by decide +kernel⟩⟩,
    ⟨(st fun h => h.updCl 1 fun v => { v with dbuf := [(5, [⟨0x86010000#32, false⟩, ⟨1#32,false⟩])] }), (1), (2), (true), _, _, ⟨rfl, by decide +kernel⟩⟩,
    ⟨(st fun h => h.updCl 1 fun v => { v with spill := [⟨{ addr := 0x10042200#32 }, 3#32, 4⟩, {}] }), (1), _, _, _, ⟨rfl, rfl, by decide +kernel⟩⟩,
    ⟨(st id), (1), Or.inl rfl⟩,
    ⟨(st fun h => (h.setTab .dest 1 0x20000 3#32).setTab .dest 1 0 5#32 |>.updEp 66 fun x => { x with q := List.replicate 9 { step := 0xFFFFFFFE#32 } }), (1), (2), _, _, _, ⟨rfl, rfl, by decide +kernel⟩⟩,
    ⟨(st id), (1), (1), by decide +kernel⟩,
    ⟨(st fun h => (((ph .integrate h).setReg STEP_NUM 0 0x13#32).setReg (STEP_CTX_POLICY 0) 0 1#32).updCl 1 fun v => { v with dpkts := [(0, [[⟨0x02600080#32, false⟩, ⟨0x30000001#32, false⟩, ⟨5#32, false⟩]])] }), (1), _, ⟨rfl, by decide +kernel⟩⟩,
    ⟨(st fun h => (h.updCl 1 fun v => { v with dpkts := [(1, [[⟨0xA0004000#32, false⟩, ⟨0x08610000#32, false⟩], []])] }).updEp 96 fun x => { x with sent := [⟨2, true, 1, 5⟩, ⟨2, false, 1, 5⟩, ⟨3, true, 1, 5⟩, ⟨2, true, 1, 9⟩] }), (1), _, _, _, ⟨rfl, rfl, rfl, by decide +kernel⟩⟩,
    ⟨(st fun h => h.updEp 67 fun x => { x with sent := [⟨2, true, 1, 5⟩] }), (1), (3), _, _, _, ⟨rfl, rfl, by decide +kernel⟩⟩,
    ⟨(st id), (1), by decide +kernel⟩⟩

theorem witness_MessagesAndConfigurationPackets :
    (∃ (s : State) (c : Cluster) (p : List DFlit), (s.hw.headPkt c 0 = some p) ∧ (s.hw.powered = true) ∧ (pType (flitW p 0) = tCFG) ∧ (bit (flitW p 1) 1 = false) ∧ (pEp (flitW p 0) ≠ 33) ∧ (pRly (flitW p 0) = false)) ∧
    (∃ (s : State) (c : Cluster) (p : List DFlit) (w : Word) (a : Word) (m : Word) (v : Word), (s.hw.headPkt c 0 = some p) ∧ (s.hw.powered = true) ∧ (p = [⟨w, false⟩, ⟨a, false⟩, ⟨m, false⟩, ⟨v, false⟩]) ∧ (pType w = tCFG) ∧ (bit a 1 = false) ∧ (pEp w = 33) ∧ (bits a 31 30 = 2)) ∧
    (∃ (s : State) (c : Cluster) (p : List DFlit) (e : Nat) (i : Nat) (pt : Nat) (p0 : Word) (p1 : Word), (s.hw.headPkt c 0 = some p) ∧ (p0 = flitW p 1) ∧ (p1 = flitW p 2) ∧ (pt = bits p1 7 0) ∧ (e = 64 * c.val + pDep (flitW p 0)) ∧ (s.hw.powered = true) ∧ (pType (flitW p 0) = tCTLQ) ∧ (pktBad p = false) ∧ (bits p0 11 0 = 0) ∧ (bits p1 31 28 = opOPEN) ∧ (s.hw.epReady c (pDep (flitW p 0)) = true) ∧ ((s.hw.port e pt).on = true) ∧ ((s.hw.port e pt).closing = false) ∧ ((∀ x ∈ (s.hw.ep e).slots, x.2.st ≠ 2)) ∧ (i < epSlots e) ∧ ((s.hw.slot e i).st = 0) ∧ ((∀ j, j < i → (s.hw.slot e j).st ≠ 0)) ∧ (bits p0 31 28 = s.hw.pkgNum) ∧ ((s.hw.cl c).rspq = []) ∧ ((s.hw.dbufOf c 0 1).length ≤ 35)) ∧
    (∃ (s : State) (c : Cluster) (p : List DFlit) (e : Nat) (p0 : Word) (p1 : Word), (s.hw.headPkt c 0 = some p) ∧ (p0 = flitW p 1) ∧ (p1 = flitW p 2) ∧ (e = 64 * c.val + pDep (flitW p 0)) ∧ (s.hw.powered = true) ∧ (pType (flitW p 0) = tCTLQ) ∧ (pktBad p = false) ∧ (bits p0 11 0 = 0) ∧ (bits p1 31 28 = opOPEN) ∧ (s.hw.epReady c (pDep (flitW p 0)) = true) ∧ ((s.hw.port e (bits p1 7 0)).on = false)) ∧
    (∃ (s : State) (c : Cluster) (p : List DFlit) (e : Nat) (i : Nat) (p0 : Word) (p1 : Word), (s.hw.headPkt c 0 = some p) ∧ (p0 = flitW p 1) ∧ (p1 = flitW p 2) ∧ (i = bits p1 23 16) ∧ (e = 64 * c.val + pDep (flitW p 0)) ∧ (s.hw.powered = true) ∧ (pType (flitW p 0) = tCTLQ) ∧ (pktBad p = false) ∧ (bits p0 11 0 = 0) ∧ (bits p1 31 28 = opCLOSE) ∧ (s.hw.epReady c (pDep (flitW p 0)) = true) ∧ ((s.hw.slot e i).st = 1) ∧ ((s.hw.slot e i).epoch = bits p1 15 8) ∧ (s.hw.slotBusy e i = false)) ∧
    (∃ (s : State) (c : Cluster) (p : List DFlit) (e : Nat) (i : Nat) (p0 : Word) (p1 : Word), (s.hw.headPkt c 0 = some p) ∧ (p0 = flitW p 1) ∧ (p1 = flitW p 2) ∧ (i = bits p1 23 16) ∧ (e = 64 * c.val + pDep (flitW p 0)) ∧ (s.hw.powered = true) ∧ (pType (flitW p 0) = tCTLQ) ∧ (pktBad p = false) ∧ (bits p0 11 0 = 0) ∧ (bits p1 31 28 = opCLOSE) ∧ (s.hw.epReady c (pDep (flitW p 0)) = true) ∧ (((s.hw.slot e i).st ≠ 1 ∨ (s.hw.slot e i).epoch ≠ bits p1 15 8))) ∧
    (∃ (s : State) (c : Cluster) (p : List DFlit) (e : Nat) (i : Nat) (n : Nat) (a : Nat) (p0 : Word) (p1 : Word) (v : Word) (l : Listener), (s.hw.headPkt c 0 = some p) ∧ (e = 64 * c.val + pDep (flitW p 0)) ∧ (i = bits p1 31 24) ∧ (n = bits p1 7 0 + 1) ∧ (l = s.hw.port e (s.hw.slot e i).port) ∧ (a = epMem e + l.base) ∧ (s.hw.powered = true) ∧ (p = [⟨flitW p 0, false⟩, ⟨p0, false⟩, ⟨p1, false⟩, ⟨v, false⟩]) ∧ (pType (flitW p 0) = tMSG) ∧ (bits p0 11 0 = 0) ∧ (bits p1 13 8 = 0) ∧ (s.hw.epReady c (pDep (flitW p 0)) = true) ∧ ((s.hw.slot e i).st = 1) ∧ ((s.hw.slot e i).epoch = bits p1 23 16) ∧ (bits p1 15 14 = 0) ∧ (n ≤ 4) ∧ (s.hw.msgBusy e = false) ∧ ((Tbl.get {} (s.hw.ep e).resv i).used = false) ∧ (l.used = 0) ∧ (8 ≤ l.size)) ∧
    (∃ (s : State) (c : Cluster) (p : List DFlit) (e : Nat) (i : Nat) (p0 : Word) (p1 : Word), (s.hw.headPkt c 0 = some p) ∧ (p0 = flitW p 1) ∧ (p1 = flitW p 2) ∧ (e = 64 * c.val + pDep (flitW p 0)) ∧ (i = bits p1 31 24) ∧ (s.hw.powered = true) ∧ (pType (flitW p 0) = tMSG) ∧ (pktBad p = false) ∧ (bits p0 11 0 = 0) ∧ (bits p1 13 8 = 0) ∧ (s.hw.epReady c (pDep (flitW p 0)) = true) ∧ ((s.hw.slot e i).st = 0) ∧ (bits p1 15 14 = 0) ∧ ((Tbl.get {} (s.hw.ep e).resv i).used = false)) ∧
    (∃ (s : State) (c : Cluster) (p : List DFlit) (e : Nat) (n : Nat) (k : Ticket) (p1 : Word), (s.hw.headPkt c 1 = some p) ∧ (p1 = flitW p 2) ∧ (e = 64 * c.val + pDep (flitW p 0)) ∧ (n = bits (flitW p 1) 15 12) ∧ (k = s.hw.ticket e n) ∧ (s.hw.powered = true) ∧ (pType (flitW p 0) = tCTLS) ∧ (pktBad p = false) ∧ (bits (flitW p 1) 11 0 = 0) ∧ (s.hw.epReady c (pDep (flitW p 0)) = true) ∧ (k.used = true) ∧ (k.st = 0) ∧ (bits p1 31 28 = opOPENACK) ∧ (k.op = 1)) ∧
    (∃ (s : State) (c : Cluster) (p : List DFlit) (e : Nat) (n : Nat) (k : Ticket) (p1 : Word), (s.hw.headPkt c 1 = some p) ∧ (p1 = flitW p 2) ∧ (e = 64 * c.val + pDep (flitW p 0)) ∧ (n = bits (flitW p 1) 15 12) ∧ (k = s.hw.ticket e n) ∧ (s.hw.powered = true) ∧ (pType (flitW p 0) = tCTLS) ∧ (pktBad p = false) ∧ (bits (flitW p 1) 11 0 = 0) ∧ (s.hw.epReady c (pDep (flitW p 0)) = true) ∧ (k.used = true) ∧ (k.st = 0) ∧ (bits p1 31 28 = opCLOSEACK) ∧ (k.op = 3)) ∧
    (∃ (s : State) (c : Cluster) (p : List DFlit) (e : Nat) (n : Nat) (k : Ticket) (p1 : Word), (s.hw.headPkt c 1 = some p) ∧ (p1 = flitW p 2) ∧ (e = 64 * c.val + pDep (flitW p 0)) ∧ (n = bits (flitW p 1) 15 12) ∧ (k = s.hw.ticket e n) ∧ (s.hw.powered = true) ∧ (pType (flitW p 0) = tCTLS) ∧ (pktBad p = false) ∧ (bits (flitW p 1) 11 0 = 0) ∧ (s.hw.epReady c (pDep (flitW p 0)) = true) ∧ (k.used = true) ∧ (k.st = 0) ∧ (bits p1 31 28 = opACK) ∧ (k.op = 2)) ∧
    (∃ (s : State) (c : Cluster) (p : List DFlit) (e : Nat) (n : Nat) (k : Ticket) (p1 : Word), (s.hw.headPkt c 1 = some p) ∧ (p1 = flitW p 2) ∧ (e = 64 * c.val + pDep (flitW p 0)) ∧ (n = bits (flitW p 1) 15 12) ∧ (k = s.hw.ticket e n) ∧ (s.hw.powered = true) ∧ (pType (flitW p 0) = tCTLS) ∧ (pktBad p = false) ∧ (bits (flitW p 1) 11 0 = 0) ∧ (s.hw.epReady c (pDep (flitW p 0)) = true) ∧ (k.used = true) ∧ (k.st = 0) ∧ (bits p1 31 28 = opNAK) ∧ (k.op = 2) ∧ (bits p1 27 24 = nCLOSED)) ∧
    (∃ (s : State) (c : Cluster) (p : List DFlit) (e : Nat) (n : Nat) (k : Ticket) (p1 : Word), (s.hw.headPkt c 1 = some p) ∧ (p1 = flitW p 2) ∧ (e = 64 * c.val + pDep (flitW p 0)) ∧ (n = bits (flitW p 1) 15 12) ∧ (k = s.hw.ticket e n) ∧ (s.hw.powered = true) ∧ (pType (flitW p 0) = tCTLS) ∧ (pktBad p = false) ∧ (bits (flitW p 1) 11 0 = 0) ∧ (s.hw.epReady c (pDep (flitW p 0)) = true) ∧ (k.used = true) ∧ (k.st = 0) ∧ (bits p1 31 28 = opNAK) ∧ (k.op = 1)) ∧
    (∃ (s : State) (c : Cluster), (s.hw.headPkt c 1 = none)) ∧
    (∃ (s : State) (k : Link) (p : List DFlit) (l : List (List DFlit)), ((s.hw.link k).outRsp = p :: l) ∧ (s.hw.powered = true) ∧ (s.hw.scOpen k = true) ∧ ((s.hw.link k).credS ≠ 0)) ∧
    (∃ (s : State) (k : Link) (p : List DFlit) (l : List (List DFlit)), ((s.hw.link k).outRsp = p :: l) ∧ (s.hw.powered = true) ∧ (s.hw.scOpen k = false)) ∧
    (∃ (s : State) (k : Link) (p : List DFlit) (l : List (List DFlit)), ((s.hw.link k).out = p :: l) ∧ (s.hw.powered = true) ∧ ((s.hw.link k).outRsp = []) ∧ ((pType (flitW p 0) = tMSG ∨ pType (flitW p 0) = tCTLQ)) ∧ (s.hw.scOpen k = true) ∧ ((s.hw.link k).credQ ≠ 0)) ∧
    (∃ (s : State) (k : Link) (p : List DFlit) (l : List (List DFlit)), ((s.hw.link k).innRsp = p :: l) ∧ (s.hw.powered = true)) ∧
    (∃ (s : State) (k : Link), ((s.hw.link k).outRsp ≠ []) ∧ (s.hw.scOpen k = true) ∧ ((s.hw.link k).credS = 0)) ∧
    (∃ (s : State) (k : Link), ((s.hw.link k).outRsp = []) ∧ ((s.hw.link k).out = [])) ∧
    (∃ (s : State) (k : Link), ((s.hw.link k).innRsp = []) ∧ ((s.hw.link k).inn = [])) :=
  ⟨⟨(st fun h => pk 0 [0x26100000#32, 0x80000000#32, 0#32, 5#32] h), (1), _, ⟨rfl, by decide +kernel⟩⟩,
    ⟨(st fun h => pk 0 [0x24108008#32, 0x80012004#32, 0#32, 5#32] h), (1), _, (0x24108008#32), (0x80012004#32), (0#32), (5#32), ⟨rfl, by decide +kernel⟩⟩,
    ⟨(st fun h => (pk 0 [0x62004000#32, 0x00835000#32, 0x10000007#32] h).updEp 96 fun x => { x with slots := [(0, { st := 1 }), (1, { st := 1 }), (2, { epoch := 9 })], ports := [(7, { on := true })] }), (1), _, _, (2), _, _, _, ⟨rfl, rfl, rfl, rfl, rfl, by decide +kernel⟩⟩,
    ⟨(st fun h => (pk 0 [0x62004000#32, 0x00835000#32, 0x10000007#32] h)), (1), _, _, _, _, ⟨rfl, rfl, rfl, rfl, by decide +kernel⟩⟩,
    ⟨(st fun h => (pk 0 [0x62004000#32, 0x00835000#32, 0x2002FF07#32] h).updEp 96 fun x => { x with slots := [(0, { st := 1 }), (1, { st := 1 }), (2, { st := 1, epoch := 255, port := 7 })], ports := [(7, { on := true })] }), (1), _, _, _, _, _, ⟨rfl, rfl, rfl, rfl, rfl, by decide +kernel⟩⟩,
    ⟨(st fun h => (pk 0 [0x62004000#32, 0x00835000#32, 0x2002FE07#32] h).updEp 96 fun x => { x with slots := [(0, { st := 1 }), (1, { st := 1 }), (2, { st := 1, epoch := 255, port := 7 })], ports := [(7, { on := true })] }), (1), _, _, _, _, _, ⟨rfl, rfl, rfl, rfl, rfl, by decide +kernel⟩⟩,
    ⟨(st fun h => (pk 0 [0x44004000#32, 0x00835000#32, 0x02010003#32, 0x11223344#32] h).updEp 96 fun x => { x with slots := [(2, { st := 1, epoch := 1, port := 7 })], ports := [(7, { on := true, base := 256, size := 64 })] }), (1), _, _, _, _, _, (0x00835000#32), (0x02010003#32), (0x11223344#32), _, ⟨rfl, rfl, rfl, rfl, rfl, rfl, by decide +kernel⟩⟩,
    ⟨(st fun h => (pk 0 [0x44004000#32, 0x00835000#32, 0x02010003#32, 0x11223344#32] h)), (1), _, _, _, _, _, ⟨rfl, rfl, rfl, rfl, rfl, by decide +kernel⟩⟩,
    ⟨(st fun h => (pk 1 [0x82004000#32, 0x00835000#32, 0x3002FF07#32] h).updEp 96 fun x => { x with tickets := [(5, { used := true, op := 1, handle := 9 })], handles := [(9, { st := 1, port := 3 })] }), (1), _, _, _, _, _, ⟨rfl, rfl, rfl, rfl, rfl, by decide +kernel⟩⟩,
    ⟨(st fun h => (pk 1 [0x82004000#32, 0x00835000#32, 0x4002FF07#32] h).updEp 96 fun x => { x with tickets := [(5, { used := true, op := 3, handle := 9 })], handles := [(9, { st := 1, port := 3 })] }), (1), _, _, _, _, _, ⟨rfl, rfl, rfl, rfl, rfl, by decide +kernel⟩⟩,
    ⟨(st fun h => (pk 1 [0x82004000#32, 0x00835000#32, 0x5002FF07#32] h).updEp 96 fun x => { x with tickets := [(5, { used := true, op := 2, handle := 9 })], handles := [(9, { st := 1, port := 3 })] }), (1), _, _, _, _, _, ⟨rfl, rfl, rfl, rfl, rfl, by decide +kernel⟩⟩,
    ⟨(st fun h => (pk 1 [0x82004000#32, 0x00835000#32, 0x0302FF07#32] h).updEp 96 fun x => { x with tickets := [(5, { used := true, op := 2, handle := 9 })], handles := [(9, { st := 1, port := 3 })] }), (1), _, _, _, _, _, ⟨rfl, rfl, rfl, rfl, rfl, by decide +kernel⟩⟩,
    ⟨(st fun h => (pk 1 [0x82004000#32, 0x00835000#32, 0x0202FF07#32] h).updEp 96 fun x => { x with tickets := [(5, { used := true, op := 1, handle := 9 })], handles := [(9, { st := 1, port := 3 })] }), (1), _, _, _, _, _, ⟨rfl, rfl, rfl, rfl, rfl, by decide +kernel⟩⟩,
    ⟨(st id), (1), by decide +kernel⟩,
    ⟨(st fun h => (h.setReg SC_STAT 1 6#32).updLink 1 fun x => { x with outRsp := [[⟨0x82004000#32, false⟩, ⟨1#32, false⟩], []] }), (1), _, _, ⟨rfl, by decide +kernel⟩⟩,
    ⟨(st fun h => h.updLink 1 fun x => { x with outRsp := [[⟨0x82004000#32, false⟩, ⟨1#32, false⟩], []] }), (1), _, _, ⟨rfl, by decide +kernel⟩⟩,
    ⟨(st fun h => (h.setReg SC_STAT 1 6#32).updLink 1 fun x => { x with out := [[⟨0x44004000#32, false⟩, ⟨1#32, false⟩], []] }), (1), _, _, ⟨rfl, by decide +kernel⟩⟩,
    ⟨(st fun h => (h.setReg SC_STAT 1 6#32).updLink 1 fun x => { x with innRsp := [[⟨0x82004000#32, false⟩, ⟨1#32, false⟩], []] }), (1), _, _, ⟨rfl, by decide +kernel⟩⟩,
    ⟨(st fun h => (h.setReg SC_STAT 1 6#32).updLink 1 fun x => { x with outRsp := [[]], credS := 0 }), (1), by decide +kernel⟩,
    ⟨(st id), (1), by decide +kernel⟩,
    ⟨(st id), (1), by decide +kernel⟩⟩

theorem witness_RoastStages :
    (∃ (s : State) (c : Cluster) (u : PreUpd) (l : List PreUpd) (p : Nat × Nat), ((s.hw.cl c).preq = u :: l) ∧ (p = s.hw.preAt c u.ord) ∧ (s.hw.powered = true) ∧ (p.2 < ownedEnd) ∧ ((s.hw.bank c p.1).pwr = 0) ∧ ((s.hw.bank c p.1).waking = false)) ∧
    (∃ (s : State) (c : Cluster), (s.hw.powered = true) ∧ ((s.hw.cl c).preq ≠ []) ∧ (((s.hw.roast c).busy = false ∨ (s.hw.roast c).blocking = true))) ∧
    (∃ (p12 : Bool) (keep : Bool) (w : Int) (D : Int) (v : Int) (u : Nat), (v = newWeight p12 keep w D u) ∧ (p12 = true)) ∧
    (∃ (p12 : Bool) (keep : Bool) (w : Int) (D : Int) (v : Int) (u : Nat), (v = newWeight p12 keep w D u) ∧ (p12 = false)) ∧
    (∃ (p12 : Bool) (keep : Bool) (w : Int) (D : Int) (v : Int) (u : Nat), (v = newWeight p12 keep w D u) ∧ (keep = true) ∧ (0 ≤ w)) ∧
    (∃ (p12 : Bool) (keep : Bool) (w : Int) (D : Int) (v : Int) (u : Nat), (v = newWeight p12 keep w D u) ∧ (keep = true) ∧ (w < 0)) ∧
    (∃ (fmt : Nat) (w : Word), (fmt ≠ 2) ∧ (bit w 19 = false)) ∧
    (∃ (s : State) (c : Cluster) (r : RoastSt), (r = s.hw.roast c) ∧ (s.hw.powered = true) ∧ (r.busy = true) ∧ (r.stage = .pass1) ∧ (s.hw.segWord c r.seg 1 = 0#32) ∧ ((s.hw.cl c).preq = [])) ∧
    (∃ (s : State) (c : Cluster), (((s.hw.roast c).busy = false ∨ (s.hw.roast c).stage ≠ .pass1))) ∧
    (∃ (s : State) (c : Cluster) (r : RoastSt) (q : Tbl Nat), (r = s.hw.roast c) ∧ (q = recipsOf (bits (s.hw.segWord c r.seg 2) 23 0) r.sums) ∧ (s.hw.powered = true) ∧ (r.busy = true) ∧ (r.stage = .recip) ∧ (q ≠ [])) ∧
    (∃ (s : State) (c : Cluster) (r : RoastSt) (g : Nat), (r = s.hw.roast c) ∧ (g = s.hw.nextSeg c (r.seg + 1)) ∧ (s.hw.powered = true) ∧ (r.busy = true) ∧ (r.stage = .recip) ∧ (recipsOf (bits (s.hw.segWord c r.seg 2) 23 0) r.sums = []) ∧ ((∀ p ∈ r.plan, p.1 ≠ r.seg))) ∧
    (∃ (s : State) (c : Cluster), (((s.hw.roast c).busy = false ∨ (s.hw.roast c).stage ≠ .recip))) ∧
    (∃ (s : State) (c : Cluster) (r : RoastSt) (g : Nat), (r = s.hw.roast c) ∧ (g = s.hw.nextSeg c (r.seg + 1)) ∧ (s.hw.powered = true) ∧ (r.busy = true) ∧ (r.stage = .pass2) ∧ (r.plan = []) ∧ (s.hw.segWord c r.seg 1 = 0#32) ∧ ((s.hw.cl c).preq = [])) ∧
    (∃ (s : State) (c : Cluster), (((s.hw.roast c).busy = false ∨ (s.hw.roast c).stage ≠ .pass2))) ∧
    (∃ (s : State) (c : Cluster) (r : RoastSt), (r = s.hw.roast c) ∧ (s.hw.powered = true) ∧ (r.busy = true) ∧ (r.stage = .idle) ∧ (r.blocking = false) ∧ (r.copying = false) ∧ (s.hw.waits = []) ∧ (s.hw.step.phase ≠ .roast)) ∧
    (∃ (s : State) (c : Cluster) (r : RoastSt), (r = s.hw.roast c) ∧ (s.hw.powered = true) ∧ (r.busy = true) ∧ (r.stage = .idle) ∧ (r.blocking = true) ∧ (r.copying = false) ∧ (s.hw.waits = []) ∧ (s.hw.step.phase = .roast) ∧ ((∀ b, b < 32 → (s.hw.bank c b).roastFrom = none)) ∧ ((∀ i, i < 64 → i ≠ c.val → (s.hw.roast i).blocking = false))) ∧
    (∃ (s : State) (c : Cluster), (((s.hw.roast c).busy = false ∨ (s.hw.roast c).stage ≠ .idle))) ∧
    (∃ (s : State) (c : Cluster) (r : RoastSt), (r = s.hw.roast c) ∧ (s.hw.powered = true) ∧ (r.late = true) ∧ (r.skip = false)) ∧
    (∃ (s : State) (c : Cluster), (((s.hw.roast c).late = false ∨ (s.hw.roast c).skip = true))) :=
  ⟨⟨(st fun h => (h.setReg PRE_BASE 1 0x203#32).updCl 1 fun v => { v with preq := [⟨5, 0x12345, 7⟩, ⟨6, 1, 1⟩] }), (1), _, _, _, ⟨rfl, rfl, by decide +kernel⟩⟩,
    ⟨(st fun h => (h.setReg PRE_BASE 1 0x203#32).updCl 1 fun v => { v with preq := [⟨5, 0x12345, 7⟩, ⟨6, 1, 1⟩] }), (1), by decide +kernel⟩,
    ⟨(true), (false), (-2000), (-80000000), _, (3), ⟨rfl, by decide +kernel⟩⟩,
    ⟨(false), (false), (-120), (-80000000), _, (3), ⟨rfl, by decide +kernel⟩⟩,
    ⟨(false), (true), (120), (-80000000000), _, (3), ⟨rfl, by decide +kernel⟩⟩,
    ⟨(true), (true), (-120), (80000000000), _, (3), ⟨rfl, by decide +kernel⟩⟩,
    ⟨(0), (0#32), by decide +kernel⟩,
    ⟨(st (rst { busy := true, stage := .pass1, seg := 3, sums := [(1, 2)] })), (1), _, ⟨rfl, by decide +kernel⟩⟩,
    ⟨(st id), (1), by decide +kernel⟩,
    ⟨(st fun h => (rst { busy := true, stage := .recip, seg := 3, sums := [(1, 2), (4, 9), (5, 16)] } h).setTab .seg 1 (3 + 512) 8#32), (1), _, _, ⟨rfl, rfl, by decide +kernel⟩⟩,
    ⟨(st fun h => (rst { busy := true, stage := .recip, seg := 3, sums := [(1, 2), (4, 9), (5, 16)], plan := [(7, 0)] } h).setTab .seg 1 9 0x8000#32), (1), _, _, ⟨rfl, rfl, by decide +kernel⟩⟩,
    ⟨(st id), (1), by decide +kernel⟩,
    ⟨(st fun h => (rst { busy := true, stage := .pass2, seg := 3, recips := [(1, 2), (4, 9), (5, 16)] } h).setTab .seg 1 9 0x8000#32), (1), _, _, ⟨rfl, rfl, by decide +kernel⟩⟩,
    ⟨(st id), (1), by decide +kernel⟩,
    ⟨(st (rst { busy := true, stage := .idle, seg := 3, cyc := 2 ^ 24 + 7 })), (1), _, ⟨rfl, by decide +kernel⟩⟩,
    ⟨(st fun h => ph .roast (rst { busy := true, blocking := true, stage := .idle, seg := 3, cyc := 2 ^ 24 + 7 } h)), (1), _, ⟨rfl, by decide +kernel⟩⟩,
    ⟨(st id), (1), by decide +kernel⟩,
    ⟨(st (rst { busy := true, stage := .pass1, seg := 3, late := true })), (1), _, ⟨rfl, by decide +kernel⟩⟩,
    ⟨(st id), (1), by decide +kernel⟩⟩

theorem witness_SensorIngress :
    (∃ (s : State) (k : CsiId), (s.hw.csiOn k = false)) ∧
    (∃ (s : State) (k : CsiId) (p : CsiPacket), (s.hw.powered = true) ∧ (s.hw.csiOn k = true) ∧ (p.hdrErr.val = 2)) ∧
    (∃ (s : State) (k : CsiId) (p : CsiPacket), (s.hw.powered = true) ∧ (s.hw.csiOn k = true) ∧ (p.hdrErr.val = 0) ∧ (p.long = true) ∧ (p.dt ≠ 0x12#6) ∧ (s.hw.vcMode k p.vc = 1) ∧ (p.dt.toNat ≠ s.hw.fld CSI_CTRL k 23 16)) ∧
    (∃ (s : State) (k : CsiId) (p : CsiPacket), (s.hw.powered = true) ∧ (s.hw.csiOn k = true) ∧ (p.hdrErr.val = 0) ∧ (p.long = true) ∧ (p.dt ≠ 0x12#6) ∧ (s.hw.vcMode k p.vc = 1) ∧ (p.dt.toNat = s.hw.fld CSI_CTRL k 23 16) ∧ (p.crcErr = true)) ∧
    (∃ (s : State) (k : CsiId) (p : CsiPacket) (a : Byte) (b : Byte) (c : Byte) (d : Byte), (s.hw.powered = true) ∧ (s.hw.csiOn k = true) ∧ (p.hdrErr.val = 0) ∧ (p.long = true) ∧ (p.dt ≠ 0x12#6) ∧ (s.hw.vcMode k p.vc = 1) ∧ (p.dt.toNat = s.hw.fld CSI_CTRL k 23 16) ∧ (p.crcErr = false) ∧ (p.payload = [a, b, c, d]) ∧ (bits (s.hw.reg DEC_CFG k) 1 0 = 0) ∧ ((s.hw.csi k).fifo.length < 1024)) ∧
    (∃ (s : State) (k : CsiId) (v : Fin 4) (a : Nat), (a = (s.hw.csi k).active) ∧ (s.hw.powered = true) ∧ (s.hw.frameVc k v = true) ∧ (a ≤ 1) ∧ (s.hw.flag FR_STAT k a = false)) ∧
    (∃ (s : State) (k : CsiId) (v : Fin 4), (s.hw.powered = true) ∧ (s.hw.frameVc k v = true) ∧ (s.hw.flag FR_STAT k (s.hw.csi k).active = true)) ∧
    (∃ (s : State) (k : CsiId) (v : Fin 4), (s.hw.frameVc k v = false)) ∧
    (∃ (s : State) (k : CsiId) (v : Fin 4), (s.hw.powered = true) ∧ (s.hw.frameVc k v = true) ∧ ((s.hw.csi k).inFrame = true) ∧ ((s.hw.csi k).dropped = false) ∧ ((s.hw.csi k).active = 0)) ∧
    (∃ (s : State) (k : CsiId), ((s.hw.csi k).fifo = [])) ∧
    (∃ (s : State) (k : CsiId) (w : CsiWord) (l : List CsiWord), ((s.hw.csi k).fifo = w :: l) ∧ (s.hw.powered = true) ∧ (s.hw.decClass k w.w = none)) ∧
    (∃ (s : State) (k : CsiId) (w : CsiWord) (l : List CsiWord) (i : Nat), ((s.hw.csi k).fifo = w :: l) ∧ (s.hw.decClass k w.w = some i) ∧ (s.hw.powered = true) ∧ (s.hw.fld (DEC_KIND i) k 2 0 = 1)) ∧
    (∃ (s : State) (q : Quad), ((s.hw.ing q).raw = [])) ∧
    (∃ (s : State) (q : Quad) (r : RawEv), ((s.hw.ing q).next = some r) ∧ (s.hw.powered = true) ∧ ((s.hw.en (PORT r.port) q 31 = false ∨ s.hw.switching = true ∨ s.hw.fld (PORT_LIM r.port) q 23 0 ≤ r.id))) ∧
    (∃ (s : State) (q : Quad) (r : RawEv) (e : Nat) (o : Nat) (w : Word), (e = bits (s.hw.reg (PORT r.port) q) 15 0 + r.id) ∧ (w = s.hw.tab .ft q e) ∧ (o = bits (s.hw.tab .ft q (e + 65536)) 17 0) ∧ (s.hw.powered = true) ∧ ((s.hw.ing q).next = some r) ∧ (s.hw.en (PORT r.port) q 31 = true) ∧ (s.hw.switching = false) ∧ (r.id < s.hw.fld (PORT_LIM r.port) q 23 0) ∧ (bits (s.hw.reg (PORT r.port) q) 20 16 = 0) ∧ (e < 65536) ∧ (bits w 31 30 = 2) ∧ (bit w 15 = false) ∧ (bit w 28 = false) ∧ (bits (s.hw.tab .ft q (e + 65536 * 2)) 15 0 = 0) ∧ (s.hw.step.phase = .idle) ∧ (Tbl.find (s.hw.ing q).store o = none) ∧ ((s.hw.ing q).touched.length < 16384) ∧ (r.pay ≤ 0xFFFF)) ∧
    (∃ (s : State) (q : Quad) (r : RawEv) (e : Nat) (n : Nat) (w : Word), (e = bits (s.hw.reg (PORT r.port) q) 15 0 + r.id) ∧ (w = s.hw.tab .ft q e) ∧ (n = bits w 25 16) ∧ (s.hw.powered = true) ∧ ((s.hw.ing q).next = some r) ∧ (s.hw.en (PORT r.port) q 31 = true) ∧ (s.hw.switching = false) ∧ (r.id < s.hw.fld (PORT_LIM r.port) q 23 0) ∧ (bits (s.hw.reg (PORT r.port) q) 20 16 = 0) ∧ (e < 65536) ∧ (bits w 31 30 = 2) ∧ (bit w 15 = true) ∧ (bits (s.hw.lim q n 1) 15 0 = 0)) ∧
    (∃ (s : State) (q : Quad) (o : Nat) (m : Merged) (l : List (Nat × Merged)), ((s.hw.ing q).offers = (o, m) :: l) ∧ (s.hw.powered = true) ∧ (s.hw.offerRefused m.cl = false) ∧ ((s.hw.cl m.cl).port.length < portDepth)) ∧
    (∃ (s : State) (q : Quad), ((s.hw.ing q).offers = [])) ∧
    (∃ (s : State) (b : Fin 8) (d : Fin 8), (s.hw.powered = true) ∧ (bit (s.hw.poll b d 0) 31 = true) ∧ (s.hw.en (BUS_CFG b) 0 31 = true) ∧ ((s.hw.bus b).running = none) ∧ (Tbl.find (s.hw.bus b).next d = none)) ∧
    (∃ (s : State) (b : Fin 8) (d : Fin 8), (s.hw.powered = true) ∧ (bit (s.hw.poll b d 0) 31 = true) ∧ (s.hw.en (BUS_CFG b) 0 31 = true) ∧ ((s.hw.bus b).running ≠ none) ∧ (Tbl.find (s.hw.bus b).next d = none) ∧ (Tbl.find (s.hw.bus b).waits d = none)) ∧
    (∃ (s : State) (b : Fin 8) (d : Fin 8), ((bit (s.hw.poll b d 0) 31 = false ∨ s.hw.en (BUS_CFG b) 0 31 = false)) ∧ (s.hw.powered = true)) ∧
    (∃ (s : State) (b : Fin 8) (d : Nat), ((s.hw.bus b).running = some d) ∧ (s.hw.powered = true) ∧ ((s.hw.bus b).waits = []) ∧ (bits (s.hw.poll b d 0) 30 28 = 2) ∧ (bits (s.hw.poll b d 2) 11 0 = 16 * 32) ∧ ((∀ c, c < 32 → bits (s.hw.lce c 0) 6 0 ≠ 0x10 + 8 * b + d))) ∧
    (∃ (s : State) (i : Nat) (c : Nat), (s.hw.adcNext = some i) ∧ (c = s.hw.fld ADC_SEQ 0 (4 * i + 2) (4 * i)) ∧ (s.hw.powered = true) ∧ ((∀ n, n < 32 → bits (s.hw.lce n 0) 6 0 ≠ c)) ∧ (s.hw.waits = [])) ∧
    (∃ (s : State), (s.hw.adcNext = none)) :=
  ⟨⟨(st id), (1), by decide +kernel⟩,
    ⟨(st csi1), (1), (⟨0, 0x30#6, true, 2, false, [1, 2, 3, 4]⟩), by decide +kernel⟩,
    ⟨(st csi1), (1), (⟨0, 0x31#6, true, 0, false, [1, 2, 3, 4]⟩), by decide +kernel⟩,
    ⟨(st csi1), (1), (⟨0, 0x30#6, true, 0, true, [1, 2, 3, 4]⟩), by decide +kernel⟩,
    ⟨(st csi1), (1), (⟨0, 0x30#6, true, 0, false, [1, 2, 3, 4]⟩), (1), (2), (3), (4), by decide +kernel⟩,
    ⟨(st fun h => csi1 { h with dev := 99 }), (1), (2), _, ⟨rfl, by decide +kernel⟩⟩,
    ⟨(st fun h => (csi1 { h with dev := 99 }).setReg FR_STAT 1 1#32), (1), (2), by decide +kernel⟩,
    ⟨(st csi1), (1), (0), by decide +kernel⟩,
    ⟨(st fun h => (csi1 h).updCsi 1 fun x => { x with inFrame := true, bad := true }), (1), (2), by decide +kernel⟩,
    ⟨(st id), (1), by decide +kernel⟩,
    ⟨(st fun h => (csi1 h).updCsi 1 fun x => { x with fifo := [⟨5#32, 0, 3⟩, {}] }), (1), _, _, ⟨rfl, by decide +kernel⟩⟩,
    ⟨(st fun h => ((((csi1 h).setReg DEC_CFG 1 0x4#32).setReg (DEC_KIND 0) 1 1#32).setReg (DEC_F01 0) 1 0x01040000#32).updCsi 1 fun x => { x with fifo := [⟨0x5A0#32, 0, 3⟩, {}], p := 7 }), (1), _, _, _, ⟨rfl, rfl, by decide +kernel⟩⟩,
    ⟨(st id), (1), by decide +kernel⟩,
    ⟨(st fun h => h.updIng 1 fun x => { x with raw := [{}, {}] }), (1), _, ⟨rfl, by decide +kernel⟩⟩,
    ⟨(st (raw1 0x88000000#32)), (1), ({ port := 2, id := 5, pay := 3, flags := 1 }), _, _, _, ⟨rfl, rfl, rfl, by decide +kernel⟩⟩,
    ⟨(st (raw1 0x80098000#32)), (1), ({ port := 2, id := 5, pay := 3, flags := 1 }), _, _, _, ⟨rfl, rfl, rfl, by decide +kernel⟩⟩,
    ⟨(st fun h => h.updIng 1 fun x => { x with offers := [(7, { pay := 3, sub := 4, flg := 2, cl := 5 }), (8, {})] }), (1), _, _, _, ⟨rfl, by decide +kernel⟩⟩,
    ⟨(st id), (1), by decide +kernel⟩,
    ⟨(st fun h => (h.setTab .poll 0 17 0x80000005#32).setReg (BUS_CFG 1) 0 0x80000000#32), (1), (1), by decide +kernel⟩,
    ⟨(st fun h => ((h.setTab .poll 0 17 0x80000005#32).setReg (BUS_CFG 1) 0 0x80000000#32).updBus 1 fun x => { x with running := some 3 }), (1), (1), by decide +kernel⟩,
    ⟨(st fun h => h.updBus 1 fun x => { x with waits := [(1, 4), (2, 3)] }), (1), (1), ⟨Or.inl (by decide +kernel), by decide +kernel⟩⟩,
    ⟨(st fun h => ((h.setTab .poll 0 (3 + 16) 0x20000000#32).setTab .poll 0 (3 + 16 + 512) 0x200#32).updBus 1 fun x => { x with running := some 3 }), (1), _, ⟨rfl, by decide +kernel⟩⟩,
    ⟨(st fun h => h.setReg ADC_SEQ 0 0xD00#32), _, _, ⟨rfl, rfl, by decide +kernel⟩⟩,
    ⟨(st id), by decide +kernel⟩⟩

theorem witness_TimersCrossbarAndDma :
    (∃ (s : State) (g : Fin 32) (v : Bool), (s.hw.flag GPIO_IN 0 g = v)) ∧
    (∃ (s : State) (g : Fin 32) (v : Bool), (s.hw.powered = true) ∧ (s.hw.waits = []) ∧ (s.hw.flag GPIO_IN 0 g ≠ v) ∧ ((∀ i, i < 16 → s.hw.flag TMR_CTRL i 23 = false ∨ s.hw.capPin i ≠ g.val))) ∧
    (∃ (s : State) (k : TmrId), ((s.hw.tbSel k ≤ 1 ∧ s.hw.tmrTicks k = false ∨ (s.hw.tbSel k = 2 ∨ s.hw.tbSel k = 3) ∧ (s.hw.tmr k).due = 0 ∨ s.hw.tbSel k = 4 ∧ ∀ p ∈ s.hw.pulses, p.sink ≠ 4 * k.val + 3))) ∧
    (∃ (s : State) (k : TmrId) (p : Nat) (x : Hw), (s.hw.TicksIn k x) ∧ (p = (s.hw.reg TMR_COUNT k).toNat) ∧ (s.hw.powered = true) ∧ (p < (s.hw.reg TMR_TOP k).toNat) ∧ ((s.hw.reg TMR_CMP0 k).toNat ≠ p + 1) ∧ ((s.hw.reg TMR_CMP1 k).toNat ≠ p + 1)) ∧
    (∃ (s : State) (k : TmrId) (p : Nat) (x : Hw) (i : Instr), (s.hw.TicksIn k x) ∧ (s.hw.Unguarded) ∧ (p = (s.hw.reg TMR_COUNT k).toNat) ∧ (i ∈ [.tmrGatedTick k, .tmrMatch k false]) ∧ (s.hw.powered = true) ∧ (p < (s.hw.reg TMR_TOP k).toNat) ∧ ((s.hw.reg TMR_CMP0 k).toNat = p + 1) ∧ ((s.hw.reg TMR_CMP1 k).toNat ≠ p + 1)) ∧
    (∃ (s : State) (k : TmrId) (p : Nat) (x : Hw), (s.hw.TicksIn k x) ∧ (s.hw.Unguarded) ∧ (p = (s.hw.reg TMR_COUNT k).toNat) ∧ (s.hw.powered = true) ∧ (p < (s.hw.reg TMR_TOP k).toNat) ∧ ((s.hw.reg TMR_CMP0 k).toNat ≠ p + 1) ∧ ((s.hw.reg TMR_CMP1 k).toNat = p + 1)) ∧
    (∃ (s : State) (k : TmrId) (x : Hw) (i : Instr), (s.hw.TicksIn k x) ∧ (s.hw.Unguarded) ∧ (i ∈ [.tmrGatedTick k, .tmrWrap k]) ∧ (s.hw.powered = true) ∧ (s.hw.pwmMode k = false) ∧ ((k.val = 15 ∨ s.hw.tbSel (k.val + 1) ≠ 3)) ∧ ((s.hw.reg TMR_TOP k).toNat ≤ (s.hw.reg TMR_COUNT k).toNat) ∧ (s.hw.reg TMR_CMP0 k ≠ 0#32) ∧ (s.hw.reg TMR_CMP1 k ≠ 0#32)) ∧
    (∃ (s : State) (k : TmrId) (x : Hw), (s.hw.TicksIn k x) ∧ (s.hw.Unguarded) ∧ (s.hw.powered = true) ∧ (s.hw.pwmMode k = true) ∧ ((k.val = 15 ∨ s.hw.tbSel (k.val + 1) ≠ 3)) ∧ ((s.hw.reg TMR_TOP k).toNat ≤ (s.hw.reg TMR_COUNT k).toNat) ∧ (s.hw.reg TMR_CMP0 k ≠ 0#32) ∧ (x.shadow k ≠ 0#32)) ∧
    (∃ (s : State) (k : TmrId) (x : Hw), (s.hw.TicksIn k x) ∧ (s.hw.powered = true) ∧ (k.val < 15) ∧ (s.hw.tbSel (k.val + 1) = 3) ∧ (s.hw.tmrTicks (k.val + 1) = true) ∧ ((s.hw.reg TMR_TOP k).toNat ≤ (s.hw.reg TMR_COUNT k).toNat)) ∧
    (∃ (s : State) (k : TmrId), (s.hw.flag TMR_CTRL k 23 = false)) ∧
    (∃ (s : State) (k : TmrId) (g : Nat), (s.hw.Captures k true) ∧ (g = s.hw.capPin k) ∧ (s.hw.powered = true) ∧ (s.hw.flag TMR_CAPSTAT k 0 = false)) ∧
    (∃ (s : State) (k : TmrId) (g : Nat) (w : Nat), (s.hw.Captures k false) ∧ (g = s.hw.capPin k) ∧ ((s.hw.tmr k).width = some w) ∧ (s.hw.powered = true) ∧ ((s.hw.reg TMR_MINW k).toNat ≤ w) ∧ (s.hw.flag TMR_CAPSTAT k 1 = false)) ∧
    (∃ (s : State) (k : TmrId) (g : Nat) (w : Nat), (s.hw.Captures k false) ∧ (g = s.hw.capPin k) ∧ ((s.hw.tmr k).width = some w) ∧ (s.hw.powered = true) ∧ (w < (s.hw.reg TMR_MINW k).toNat)) ∧
    (∃ (s : State) (k : TmrId) (n : Nat), (n = bits (s.hw.actWord k 8) 15 0) ∧ (s.hw.powered = true) ∧ (bit (s.hw.actWord k 0) 31 = true) ∧ (n ≠ 0) ∧ (s.hw.flag ACT_STAT 0 k = false) ∧ ((s.hw.act k).got = false) ∧ (s.hw.waits = [])) ∧
    (∃ (s : State) (k : TmrId), ((bit (s.hw.actWord k 0) 31 = false ∨ bits (s.hw.actWord k 8) 15 0 = 0 ∨ s.hw.flag ACT_STAT 0 k = true ∨ (s.hw.act k).got = true))) ∧
    (∃ (s : State) (k : TmrId) (x : Hw), (s.hw.PulseAt (4 * k) x) ∧ (s.hw.powered = true) ∧ (((x.tmr k).stopAt.any fun t => t / 4 == x.dev / 4) = false)) ∧
    (∃ (s : State) (k : TmrId) (x : Hw), (s.hw.PulseAt (4 * k) x) ∧ (s.hw.powered = true) ∧ (((x.tmr k).stopAt.any fun t => t / 4 == x.dev / 4) = true)) ∧
    (∃ (s : State) (k : TmrId) (x : Hw), (s.hw.PulseAt (4 * k + 1) x) ∧ (s.hw.powered = true)) ∧
    (∃ (s : State) (k : TmrId) (x : Hw), (s.hw.PulseAt (4 * k + 2) x) ∧ (s.hw.powered = true)) ∧
    (∃ (s : State) (k : TmrId), ((∀ p ∈ s.hw.pulses, p.sink ≠ 4 * k.val ∧ p.sink ≠ 4 * k.val + 1 ∧ p.sink ≠ 4 * k.val + 2))) ∧
    (∃ (s : State) (j : Fin 32) (x : Hw), (s.hw.PulseAt (0x40 + j) x) ∧ (s.hw.Unguarded) ∧ (s.hw.powered = true)) ∧
    (∃ (s : State) (k : CsiId) (x : Hw), (s.hw.PulseAt (0xA0 + k) x) ∧ (s.hw.powered = true) ∧ (s.hw.flag FR_STAT k 0 = true) ∧ (s.hw.flag FR_STAT k 1 = false)) ∧
    (∃ (s : State) (j : Fin 32) (x : Hw), (s.hw.PulseAt (0xA8 + j) x) ∧ (s.hw.powered = true)) ∧
    (∃ (s : State) (e : Quad) (c : Fin 16) (d : Nat) (x : Hw), (d = 16 * e.val + c.val) ∧ (s.hw.PulseAt (0x60 + d) x) ∧ (s.hw.powered = true) ∧ (s.hw.flag (CH_CTRL c) e 1 = false)) ∧
    (∃ (s : State) (e : Quad) (c : Fin 16) (d : Nat) (x : Hw), (d = 16 * e.val + c.val) ∧ (s.hw.PulseAt (0x60 + d) x) ∧ (s.hw.powered = true) ∧ (s.hw.flag (CH_CTRL c) e 1 = true) ∧ (s.hw.en (CH_CTRL c) e 0 = true) ∧ ((s.hw.dma d).abortAt ≠ some x.dev) ∧ ((s.hw.dma d).busy = false)) ∧
    (∃ (s : State) (e : Quad) (c : Fin 16) (d : Nat) (x : Hw), (d = 16 * e.val + c.val) ∧ (s.hw.PulseAt (0x60 + d) x) ∧ (s.hw.powered = true) ∧ (s.hw.flag (CH_CTRL c) e 1 = true) ∧ (s.hw.en (CH_CTRL c) e 0 = true) ∧ ((s.hw.dma d).abortAt ≠ some x.dev) ∧ ((s.hw.dma d).busy = true) ∧ ((s.hw.dma d).latched = false)) ∧
    (∃ (s : State) (e : Quad) (c : Fin 16) (d : Nat) (x : Hw), (d = 16 * e.val + c.val) ∧ (s.hw.PulseAt (0x60 + d) x) ∧ (s.hw.powered = true) ∧ (s.hw.flag (CH_CTRL c) e 1 = true) ∧ (s.hw.en (CH_CTRL c) e 0 = true) ∧ ((s.hw.dma d).abortAt ≠ some x.dev) ∧ ((s.hw.dma d).busy = true) ∧ ((s.hw.dma d).latched = true)) ∧
    (∃ (s : State) (e : Quad) (c : Fin 16), (((s.hw.dma (16 * e.val + c.val)).busy = false ∨ (s.hw.dma (16 * e.val + c.val)).fin = true))) ∧
    (∃ (s : State) (e : Quad) (c : Fin 16) (d : Nat) (k : Nat) (o : Nat) (m : Nat) (q : Nat) (v : DmaSt), (d = 16 * e.val + c.val) ∧ (v = s.hw.dma d) ∧ (s.hw.powered = true) ∧ (s.hw.dmaServes d = true) ∧ (v.buf = []) ∧ (s.hw.marks = []) ∧ (v.src.left = 32) ∧ (v.src.last = false) ∧ (v.dst.left = 64) ∧ (v.src.addr % 32 = 0) ∧ (v.dst.addr % 32 = 0) ∧ (s.hw.mpa v.src.addr = some (.core k o)) ∧ (s.hw.mpa v.dst.addr = some (.core m q))) ∧
    (∃ (s : State) (e : Quad) (c : Fin 16) (d : Nat), (d = 16 * e.val + c.val) ∧ (s.hw.powered = true) ∧ ((s.hw.dma d).fin = true) ∧ ((s.hw.dma d).latched = false)) ∧
    (∃ (s : State) (e : Quad) (c : Fin 16), ((s.hw.dma (16 * e.val + c.val)).fin = false)) :=
  ⟨⟨(st id), (3), (false), by decide +kernel⟩,
    ⟨(st fun h => h.setReg GPIO_EDGE_LO 0 0x40#32), (3), (true), by decide +kernel⟩,
    ⟨(st id), (1), by decide +kernel⟩,
    ⟨(st fun h => (tm1 1 5 10 7 8 h).updTmr 1 fun x => { x with width := some 4 }), (1), _, _, ⟨ticks_first (by decide +kernel), rfl, by decide +kernel⟩⟩,
    ⟨(st fun h => (tm1 1 5 10 6 8 h).updTmr 1 fun x => { x with width := some 4 }), (1), _, _, (.tmrGatedTick 1), ⟨ticks_first (by decide +kernel), unguarded_of (by decide +kernel), rfl, List.mem_cons_self, by decide +kernel⟩⟩,
    ⟨(st fun h => (tm1 1 5 10 8 6 h).updTmr 1 fun x => { x with pwm := true }), (1), _, _, ⟨ticks_first (by decide +kernel), unguarded_of (by decide +kernel), rfl, by decide +kernel⟩⟩,
    ⟨(st fun h => (tm1 1 10 10 6 8 h)), (1), _, (.tmrGatedTick 1), ⟨ticks_first (by decide +kernel), unguarded_of (by decide +kernel), List.mem_cons_self, by decide +kernel⟩⟩,
    ⟨(st fun h => (tm1 0x1001 10 10 6 8 h).setReg TMR_CMP1_SH 1 4#32), (1), _, ⟨ticks_first (by decide +kernel), unguarded_of (by decide +kernel), by decide +kernel⟩⟩,
    ⟨(st fun h => (tm1 1 10 10 6 8 h).setReg TMR_CTRL 2 7#32), (1), _, ⟨ticks_first (by decide +kernel), by decide +kernel⟩⟩,
    ⟨(st id), (1), by decide +kernel⟩,
    ⟨(st fun h => (tm1 0x8C0001 5 10 6 8 h)), (1), _, ⟨captures_of (by decide +kernel), rfl, by decide +kernel⟩⟩,
    ⟨(st fun h => (((tm1 0x8C0001 5 10 6 8 h).setReg TMR_MINW 1 4#32).setReg GPIO_IN 0 8#32).updTmr 1 fun x => { x with width := some 4 }), (1), _, _, ⟨captures_of (by decide +kernel), rfl, rfl, by decide +kernel⟩⟩,
    ⟨(st fun h => (((tm1 0x8C0001 5 10 6 8 h).setReg TMR_MINW 1 4#32).setReg GPIO_IN 0 8#32).updTmr 1 fun x => { x with width := some 3 }), (1), _, _, ⟨captures_of (by decide +kernel), rfl, rfl, by decide +kernel⟩⟩,
    ⟨(st fun h => ((h.setTab .act 0 1 0x80000000#32).setTab .act 0 (1 + 128) 3#32).setTab .act 0 (1 + 144) 0x77#32), (1), _, ⟨rfl, by decide +kernel⟩⟩,
    ⟨(st id), (1), by decide +kernel⟩,
    ⟨(st fun h => { h with pulses := [⟨1, 2, 3⟩, ⟨4, 2, 30⟩] }), (1), _, ⟨pulse_at ⟨4, 2, 30⟩ (by decide +kernel), by decide +kernel⟩⟩,
    ⟨(st fun h => ({ h with pulses := [⟨1, 2, 3⟩, ⟨4, 2, 30⟩] } : Hw).updTmr 1 fun x => { x with stopAt := some 31 }), (1), _, ⟨pulse_at ⟨4, 2, 30⟩ (by decide +kernel), by decide +kernel⟩⟩,
    ⟨(st fun h => { h with pulses := [⟨1, 2, 3⟩, ⟨5, 2, 30⟩] }), (1), _, ⟨pulse_at ⟨5, 2, 30⟩ (by decide +kernel), by decide +kernel⟩⟩,
    ⟨(st fun h => { h with pulses := [⟨1, 2, 3⟩, ⟨6, 2, 30⟩] }), (1), _, ⟨pulse_at ⟨6, 2, 30⟩ (by decide +kernel), by decide +kernel⟩⟩,
    ⟨(st id), (1), by decide +kernel⟩,
    ⟨(st fun h => { h with pulses := [⟨1, 2, 3⟩, ⟨0x43, 2, 30⟩] }), (3), _, ⟨pulse_at ⟨0x43, 2, 30⟩ (by decide +kernel), unguarded_of (by decide +kernel), by decide +kernel⟩⟩,
    ⟨(st fun h => ({ h with pulses := [⟨1, 2, 3⟩, ⟨0xA1, 2, 30⟩] } : Hw).setReg FR_STAT 1 5#32), (1), _, ⟨pulse_at ⟨0xA1, 2, 30⟩ (by decide +kernel), by decide +kernel⟩⟩,
    ⟨(st fun h => { h with pulses := [⟨1, 2, 3⟩, ⟨0xAB, 2, 30⟩] }), (3), _, ⟨pulse_at ⟨0xAB, 2, 30⟩ (by decide +kernel), by decide +kernel⟩⟩,
    ⟨(st fun h => { h with pulses := [⟨1, 2, 3⟩, ⟨0x72, 2, 30⟩] }), (1), (2), _, _, ⟨rfl, pulse_at ⟨0x72, 2, 30⟩ (by decide +kernel), by decide +kernel⟩⟩,
    ⟨(st fun h => (({ h with pulses := [⟨0x72, 2, 30⟩] } : Hw).setReg (CH_CTRL 2) 1 3#32).setReg (CH_SRC_LIST 2) 1 0x80000004#32), (1), (2), _, _, ⟨rfl, pulse_at ⟨0x72, 2, 30⟩ (by decide +kernel), by decide +kernel⟩⟩,
    ⟨(st fun h => (({ h with pulses := [⟨0x72, 2, 30⟩] } : Hw).setReg (CH_CTRL 2) 1 3#32).updDma 18 fun x => { x with busy := true }), (1), (2), _, _, ⟨rfl, pulse_at ⟨0x72, 2, 30⟩ (by decide +kernel), by decide +kernel⟩⟩,
    ⟨(st fun h => (({ h with pulses := [⟨0x72, 2, 30⟩] } : Hw).setReg (CH_CTRL 2) 1 3#32).updDma 18 fun x => { x with busy := true, latched := true }), (1), (2), _, _, ⟨rfl, pulse_at ⟨0x72, 2, 30⟩ (by decide +kernel), by decide +kernel⟩⟩,
    ⟨(st id), (1), (2), by decide +kernel⟩,
    ⟨(st fun h => (h.setWord (2 ^ 39 + 2 ^ 35 + 2 ^ 24 * 5 + 64 + 4) 0x12345678#32).updDma 18 fun x => { busy := true, src := { ent := 7, addr := 2 ^ 39 + 2 ^ 35 + 2 ^ 24 * 5 + 64, left := 32 }, dst := { ent := 5, addr := 2 ^ 39 + 2 ^ 35 + 2 ^ 24 * 6 + 128, left := 64 } }), (1), (2), _, (5), (64), (6), (128), _, ⟨rfl, rfl, by decide +kernel⟩⟩,
    ⟨(st fun h => h.updDma 18 fun x => { x with busy := true, fin := true }), (1), (2), _, ⟨rfl, by decide +kernel⟩⟩,
    ⟨(st id), (1), (2), by decide +kernel⟩⟩

theorem witness_DdrChannelsAndSauneLinks :
    (∃ (s : State) (q : Quad) (r : DdrReq) (v : Word) (p : Nat), (r.wr = some v) ∧ (p = ddrBase q + r.addr.toNat / 4 * 4) ∧ (s.hw.powered = true) ∧ ((s.hw.ddr q).waiting = []) ∧ (s.hw.ddrSelf q = false) ∧ (s.hw.ddrFull q r = false) ∧ (r.addr.toNat < s.hw.ddrEnd q) ∧ (s.hw.marks = [])) ∧
    (∃ (s : State) (q : Quad) (r : DdrReq), (s.hw.powered = true) ∧ ((s.hw.ddr q).waiting = []) ∧ (s.hw.ddrSelf q = false) ∧ (s.hw.ddrFull q r = false) ∧ (r.addr.toNat < s.hw.ddrEnd q) ∧ (s.hw.marks = []) ∧ (r.wr = none)) ∧
    (∃ (s : State) (q : Quad), (s.hw.powered = true) ∧ ((s.hw.ddr q).waiting = []) ∧ (s.hw.ddrSelf q = true)) ∧
    (∃ (s : State) (q : Quad) (r : DdrReq), (s.hw.powered = true) ∧ ((s.hw.ddr q).waiting = []) ∧ (s.hw.ddrSelf q = false) ∧ (s.hw.ddrFull q r = false) ∧ (s.hw.ddrEnd q ≤ r.addr.toNat)) ∧
    (∃ (s : State) (q : Quad) (x : Hw), (x = ((s.hw.ddr q).scrubbed.map fun t => s.hw.advTo (t + us * max 1 (s.hw.fld DDR_SCRUB q 31 16))).getD s.hw) ∧ (s.hw.powered = true) ∧ (s.hw.waits = []) ∧ (s.hw.en DDR_SCRUB q 0 = true) ∧ (s.hw.en DDR_CFG q 0 = true) ∧ (s.hw.ddrSelf q = false) ∧ (s.hw.marks = []) ∧ ((s.hw.ddr q).scrubAt + 64 < s.hw.ddrEnd q)) ∧
    (∃ (s : State) (q : Quad) (x : Hw), (x = ((s.hw.ddr q).scrubbed.map fun t => s.hw.advTo (t + us * max 1 (s.hw.fld DDR_SCRUB q 31 16))).getD s.hw) ∧ (s.hw.powered = true) ∧ (s.hw.waits = []) ∧ (s.hw.en DDR_SCRUB q 0 = true) ∧ (s.hw.en DDR_CFG q 0 = true) ∧ (s.hw.ddrSelf q = false) ∧ (s.hw.marks = []) ∧ ((s.hw.ddr q).scrubAt + 64 = s.hw.ddrEnd q)) ∧
    (∃ (s : State) (q : Quad), (s.hw.ddrSelf q = true) ∧ (s.hw.mayExitSelf = true)) ∧
    (∃ (s : State) (q : Quad), (s.hw.powered = true) ∧ ((s.hw.ddr q).training ≠ 0) ∧ (((s.hw.ddr q).training = 2 ∨ s.hw.pllLocked (4 + q) = true))) ∧
    (∃ (s : State) (q : Quad) (x : Hw), (x = ((s.hw.ddr q).trained.map fun t => s.hw.advTo (t + us * 100000 * s.hw.fld DDR_TRAIN q 15 8)).getD s.hw) ∧ (s.hw.powered = true) ∧ (s.hw.waits = []) ∧ (s.hw.flag DDR_TRAIN q 1 = true) ∧ (s.hw.flag DDR_STAT q 0 = true) ∧ (s.hw.ddrSelf q = false) ∧ ((s.hw.ddr q).training = 0)) ∧
    (∃ (s : State) (q : Quad), (s.hw.powered = true) ∧ (s.hw.flag SD_STAT q 0 = false) ∧ (s.hw.flag SD_STAT q 8 = false)) ∧
    (∃ (s : State) (k : Link), (s.hw.powered = true) ∧ (s.hw.scState k = 1) ∧ (s.hw.pllLocked (12 + k / 2) = true) ∧ (s.hw.arrayEn = false)) ∧
    (∃ (s : State) (k : Link), (s.hw.scState k ≠ 1)) ∧
    (∃ (s : State) (k : Link), (s.hw.powered = true) ∧ (s.hw.scState k = 2) ∧ (s.hw.flag SC_CTRL k 1 = true) ∧ (s.hw.lic 1 = true)) ∧
    (∃ (s : State) (k : Link), (s.hw.powered = true) ∧ (s.hw.scState k = 2) ∧ (s.hw.flag SC_CTRL k 1 = false)) ∧
    (∃ (s : State) (k : Link), (s.hw.scState k ≠ 2)) ∧
    (∃ (s : State) (k : Link) (b : ScBlock), (s.hw.powered = true) ∧ (s.hw.scUp k = true) ∧ (b.sch = none) ∧ (b.drip = none) ∧ (b.tok = none) ∧ (b.stepb = none) ∧ (b.ua = s.hw.flag SC_STAT k 2)) :=
  ⟨⟨(st fun h => (h.setReg DDR_CFG 1 1#32).setWord (ddrBase 1 + 0x1004) 0x11223344#32), (1), ({ addr := 0x1004#35, wr := some 0xAABBCCDD#32, be := 5#4 }), _, _, ⟨rfl, rfl, by decide +kernel⟩⟩,
    ⟨(st fun h => (h.setReg DDR_CFG 1 1#32).setWord (ddrBase 1 + 0x1044) 0x11223344#32), (1), ({ addr := 0x1044#35 }), by decide +kernel⟩,
    ⟨(st fun h => h.setReg DDR_STAT 1 2#32), (1), by decide +kernel⟩,
    ⟨(st fun h => h.setReg DDR_CFG 1 1#32), (1), ({ addr := 0x400000000#35 }), by decide +kernel⟩,
    ⟨(st fun h => (h.setReg DDR_CFG 1 1#32).setReg DDR_SCRUB 1 1#32), (1), _, ⟨rfl, by decide +kernel⟩⟩,
    ⟨(st fun h => ((h.setReg DDR_CFG 1 1#32).setReg DDR_SCRUB 1 1#32).updDdr 1 fun x => { x with scrubAt := 2 ^ 34 - 64 }), (1), _, ⟨rfl, by decide +kernel⟩⟩,
    ⟨(st fun h => h.setReg DDR_STAT 1 2#32), (1), by decide +kernel⟩,
    ⟨(st fun h => ((h.setReg DDR_CFG 1 1#32).setReg PLL_STAT 0 0x20#32).updDdr 1 fun x => { x with training := 1 }), (1), by decide +kernel⟩,
    ⟨(st fun h => (h.setReg DDR_STAT 1 1#32).setReg DDR_TRAIN 1 2#32), (1), _, ⟨rfl, by decide +kernel⟩⟩,
    ⟨(st id), (1), by decide +kernel⟩,
    ⟨(st fun h => (h.setReg SC_STAT 1 1#32).setReg PLL_STAT 0 0x1000#32), (1), by decide +kernel⟩,
    ⟨(st id), (1), by decide +kernel⟩,
    ⟨(st fun h => ((h.setReg SC_STAT 1 2#32).setReg SC_CTRL 1 2#32).setReg LIC_STAT 0 2#32), (1), by decide +kernel⟩,
    ⟨(st fun h => (h.setReg SC_STAT 1 2#32).setReg SC_CTRL 1 0#32), (1), by decide +kernel⟩,
    ⟨(st id), (1), by decide +kernel⟩,
    ⟨(st fun h => (h.setReg SC_STAT 1 6#32).updLink 1 fun x => { x with credQ := 4, credS := 3, crq := 1 }), (1), ({ crq := 3#4, crs := 2#4 }), by decide +kernel⟩⟩

theorem witness_EthernetPorts :
    (∃ (s : State) (q : Quad), ((s.hw.linkUp q = false ∨ s.hw.flag MAC_CTRL q 0 = false))) ∧
    (∃ (s : State) (q : Quad) (f : EthFrame), ((s.hw.powered = true ∨ s.hw.kept q = true)) ∧ (s.hw.linkUp q = true) ∧ (s.hw.flag MAC_CTRL q 0 = true) ∧ (f.fcsOk = false)) ∧
    (∃ (s : State) (q : Quad) (f : EthFrame), ((s.hw.powered = true ∨ s.hw.kept q = true)) ∧ (s.hw.linkUp q = true) ∧ (s.hw.flag MAC_CTRL q 0 = true) ∧ (f.fcsOk = true) ∧ ((frameLen f < 64 ∨ s.hw.maxFrame q < frameLen f))) ∧
    (∃ (s : State) (q : Quad) (f : EthFrame), ((s.hw.powered = true ∨ s.hw.kept q = true)) ∧ (s.hw.linkUp q = true) ∧ (s.hw.flag MAC_CTRL q 0 = true) ∧ (f.fcsOk = true) ∧ (64 ≤ frameLen f) ∧ (frameLen f ≤ s.hw.maxFrame q) ∧ (f.payload.length ≤ s.hw.plim q) ∧ (s.hw.en MS_CTRL q 0 = false) ∧ (s.hw.ethFilter q f = false)) ∧
    (∃ (s : State) (q : Quad) (f : EthFrame), ((s.hw.powered = true ∨ s.hw.kept q = true)) ∧ (s.hw.linkUp q = true) ∧ (s.hw.flag MAC_CTRL q 0 = true) ∧ (f.fcsOk = true) ∧ (64 ≤ frameLen f) ∧ (frameLen f ≤ s.hw.maxFrame q) ∧ (f.payload.length ≤ s.hw.plim q) ∧ (s.hw.en MS_CTRL q 0 = false) ∧ (s.hw.ethFilter q f = true) ∧ (((s.hw.eth q).rx.map RxFrame.len).sum + frameLen f ≤ 65536)) ∧
    (∃ (s : State) (q : Quad) (f : EthFrame), ((s.hw.powered = true ∨ s.hw.kept q = true)) ∧ (s.hw.linkUp q = true) ∧ (s.hw.flag MAC_CTRL q 0 = true) ∧ (f.fcsOk = true) ∧ (64 ≤ frameLen f) ∧ (frameLen f ≤ s.hw.maxFrame q) ∧ (f.payload.length ≤ s.hw.plim q) ∧ (s.hw.en MS_CTRL q 0 = false) ∧ (s.hw.ethFilter q f = true) ∧ (65536 < ((s.hw.eth q).rx.map RxFrame.len).sum + frameLen f)) ∧
    (∃ (s : State) (q : Quad), ((s.hw.eth q).rx = [])) ∧
    (∃ (s : State) (q : Quad) (f : RxFrame) (l : List RxFrame) (w : Word), ((s.hw.eth q).rx = f :: l) ∧ (w = beWord f.payload 0) ∧ ((s.hw.powered = true ∨ s.hw.kept q = true)) ∧ (f.etype = etGptp) ∧ ((s.hw.eth q).fwq.length < 64)) ∧
    (∃ (s : State) (q : Quad) (f : RxFrame) (l : List RxFrame) (w : Word), ((s.hw.eth q).rx = f :: l) ∧ (w = beWord f.payload 0) ∧ ((s.hw.powered = true ∨ s.hw.kept q = true)) ∧ (f.etype ≠ etGptp) ∧ (f.etype ≠ s.hw.etype q)) ∧
    (∃ (s : State) (q : Quad) (f : RxFrame) (l : List RxFrame) (w : Word), ((s.hw.eth q).rx = f :: l) ∧ (w = beWord f.payload 0) ∧ ((s.hw.powered = true ∨ s.hw.kept q = true)) ∧ (f.etype ≠ etGptp) ∧ (f.etype = s.hw.etype q) ∧ (bits w 31 24 = 0x11) ∧ (bootKind f.payload = false) ∧ (s.hw.flag RCP_CFG q 0 = true) ∧ (s.hw.flag RCP_CFG q 1 = false) ∧ ((s.hw.eth q).reqCount < 16)) ∧
    (∃ (s : State) (q : Quad) (f : RxFrame) (l : List RxFrame) (w : Word), ((s.hw.eth q).rx = f :: l) ∧ (w = beWord f.payload 0) ∧ ((s.hw.powered = true ∨ s.hw.kept q = true)) ∧ (f.etype ≠ etGptp) ∧ (f.etype = s.hw.etype q) ∧ (bits w 31 24 = 0x12) ∧ (s.hw.flag REF_CFG q 2 = false) ∧ (refCount f.payload + ((s.hw.eth q).refIn.map Prod.snd).sum ≤ 2048)) ∧
    (∃ (s : State) (q : Quad), ((s.hw.eth q).refIn = [])) ∧
    (∃ (s : State) (q : Quad) (f : RxFrame) (l : List (RxFrame × Nat)), ((s.hw.powered = true ∨ s.hw.kept q = true)) ∧ ((s.hw.eth q).refIn = (f, 1) :: l) ∧ ((s.hw.eth q).refRxSeq = none) ∧ (s.hw.flag REF_CFG q 0 = true) ∧ (s.hw.flag REF_CFG q 3 = true)) ∧
    (∃ (s : State) (q : Quad) (f : RxFrame) (l : List (RxFrame × Nat)) (n : Nat), ((s.hw.powered = true ∨ s.hw.kept q = true)) ∧ ((s.hw.eth q).refIn = (f, 1) :: l) ∧ ((s.hw.eth q).refRxSeq = some n) ∧ ((beWord f.payload 1).toNat ≠ (n + 1) % 2 ^ 32) ∧ (s.hw.flag REF_CFG q 0 = false)) ∧
    (∃ (s : State) (q : Quad), ((s.hw.linkUp q = false ∨ s.hw.flag MAC_CTRL q 1 = false))) ∧
    (∃ (s : State) (q : Quad) (n : Fin 8) (f : TxFrame) (l : List TxFrame), (s.hw.txSecure q f = false) ∧ (Tbl.get [] (s.hw.eth q).tq n = f :: l) ∧ ((s.hw.powered = true ∨ s.hw.kept q = true)) ∧ (s.hw.linkUp q = true) ∧ (s.hw.flag MAC_CTRL q 1 = true) ∧ (s.hw.flag PHY_CTRL q 6 = false) ∧ (s.hw.qbv q = false) ∧ ((∀ i, i < 8 → i ≠ n.val → Tbl.get [] (s.hw.eth q).tq i = [])) ∧ ((s.hw.eth q).txWait = []) ∧ ((s.hw.eth q).refOut = [])) ∧
    (∃ (s : State) (q : Quad), ((s.hw.eth q).change = none)) ∧
    (∃ (s : State) (q : Quad) (n : Nat) (g : Gates), ((s.hw.eth q).change = some (n, g)) ∧ ((s.hw.powered = true ∨ s.hw.kept q = true)) ∧ (s.hw.waits = [])) ∧
    (∃ (s : State) (q : Quad), ((s.hw.powered = true ∨ s.hw.kept q = true)) ∧ (s.hw.linkUp q = false) ∧ (s.hw.en PHY_CTRL q 0 = true) ∧ (s.hw.flag PAD_EN 0 (8 + q) = true) ∧ (s.hw.phyMode q = 0) ∧ (s.hw.pllLocked (8 + q) = true)) ∧
    (∃ (s : State) (q : Quad), ((s.hw.linkUp q = true ∨ s.hw.en PHY_CTRL q 0 = false))) ∧
    (∃ (s : State) (q : Quad) (f : RxFrame) (l : List RxFrame), ((s.hw.eth q).fwq = f :: l) ∧ (s.hw.powered = true)) ∧
    (∃ (s : State) (q : Quad), ((s.hw.eth q).fwq = [])) ∧
    (∃ (s : State) (q : Quad), ((∀ m ∈ (s.hw.ep (64 * mpCluster q + 33)).msgq, m.port ≠ 240))) ∧
    (∃ (s : State) (q : Quad) (e : Nat) (sc : Nat) (an : Nat) (m : MsgRec), (e = 64 * mpCluster q + 33) ∧ (((s.hw.ep e).msgq.find? fun m => m.port == 240) = some m) ∧ (s.hw.powered = true) ∧ (sc ≤ 4) ∧ (an < 4) ∧ (s.hw.bytes (epMem e + (s.hw.port e m.port).base + m.at_ + 4) m.len = 3#8 :: BitVec.ofNat 8 (sc + 16 * an) :: List.replicate 62 0#8)) ∧
    (∃ (s : State) (q : Quad) (e : Nat) (m : MsgRec), (e = 64 * mpCluster q + 33) ∧ (((s.hw.ep e).msgq.find? fun m => m.port == 240) = some m) ∧ (s.hw.powered = true) ∧ (m.len ≠ 64)) :=
  ⟨⟨(st id), (1), by decide +kernel⟩,
    ⟨(st eth1), (1), (fr 0xFFFFFFFFFFFF#48 46 false), by decide +kernel⟩,
    ⟨(st eth1), (1), (fr 0xFFFFFFFFFFFF#48 45 true), by decide +kernel⟩,
    ⟨(st eth1), (1), (fr 0xEFFFFFFFFFFF#48 46 true), by decide +kernel⟩,
    ⟨(st eth1), (1), (fr 0xFFFFFFFFFFFF#48 46 true), by decide +kernel⟩,
    ⟨(st fun h => (eth1 h).updEth 1 fun x => { x with rx := [{ len := 65473 }] }), (1), (fr 0xFFFFFFFFFFFF#48 46 true), by decide +kernel⟩,
    ⟨(st id), (1), by decide +kernel⟩,
    ⟨(st fun h => (eth1 h).updEth 1 fun x => { x with rx := [{ etype := 0x88F7 }, {}] }), (1), _, _, _, ⟨rfl, rfl, by decide +kernel⟩⟩,
    ⟨(st fun h => (eth1 h).updEth 1 fun x => { x with rx := [{ etype := 0x88F8 }, {}] }), (1), _, _, _, ⟨rfl, rfl, by decide +kernel⟩⟩,
    ⟨(st fun h => ((eth1 h).setReg RCP_CFG 1 1#32).updEth 1 fun x => { x with rx := [{ etype := 0x88B5, payload := [0x11, 1, 0, 0] }, {}] }), (1), _, _, _, ⟨rfl, rfl, by decide +kernel⟩⟩,
    ⟨(st fun h => ((eth1 h).setReg REF_CFG 1 0#32).updEth 1 fun x => { x with rx := [{ etype := 0x88B5, payload := [0x12, 1, 0, 2] ++ List.replicate 40 0 }, {}] }), (1), _, _, _, ⟨rfl, rfl, by decide +kernel⟩⟩,
    ⟨(st id), (1), by decide +kernel⟩,
    ⟨(st fun h => ((eth1 h).setReg REF_CFG 1 9#32).updEth 1 fun x => { x with refIn := [({ dev := 77, payload := [0x12, 1, 0, 1, 0, 0, 0, 9] ++ List.replicate 12 0 ++ [0, 1, 2, 3, 4, 0x85, 6, 7] }, 1)] }), (1), ({ dev := 77, payload := [0x12, 1, 0, 1, 0, 0, 0, 9] ++ List.replicate 12 0 ++ [0, 1, 2, 3, 4, 0x85, 6, 7] }), ([]), by decide +kernel⟩,
    ⟨(st fun h => ((eth1 h).setReg REF_CFG 1 8#32).updEth 1 fun x => { x with refRxSeq := some 7, refIn := [({ dev := 77, payload := [0x12, 1, 0, 1, 0, 0, 0, 9] ++ List.replicate 12 0 ++ [0, 1, 2, 3, 4, 0x85, 6, 7] }, 1)] }), (1), ({ dev := 77, payload := [0x12, 1, 0, 1, 0, 0, 0, 9] ++ List.replicate 12 0 ++ [0, 1, 2, 3, 4, 0x85, 6, 7] }), ([]), (7), by decide +kernel⟩,
    ⟨(st id), (1), by decide +kernel⟩,
    ⟨(st fun h => (eth1 h).updEth 1 fun x => { x with tq := [(3, [{ etype := 5, events := 2, payload := [1, 2] }, {}])] }), (1), (3), _, _, ⟨rfl, rfl, by decide +kernel⟩⟩,
    ⟨(st id), (1), by decide +kernel⟩,
    ⟨(st fun h => (eth1 h).updEth 1 fun x => { x with change := some (55, { base := 3 }) }), (1), _, _, ⟨rfl, by decide +kernel⟩⟩,
    ⟨(st fun h => ((h.setReg PHY_CTRL 1 0x11#32).setReg PAD_EN 0 0x200#32).setReg PLL_STAT 0 0x200#32), (1), by decide +kernel⟩,
    ⟨(st id), (1), by decide +kernel⟩,
    ⟨(st fun h => { (eth1 h).updEth 1 fun x => { x with fwq := [{}, {}] } with ptp := 5 * 2 ^ 30 }), (1), _, _, ⟨rfl, by decide +kernel⟩⟩,
    ⟨(st id), (1), by decide +kernel⟩,
    ⟨(st id), (1), by decide +kernel⟩,
    ⟨(st fun h => (ms1 (3#8 :: 0x32#8 :: List.replicate 62 0) h).setTab .sa 1 (saIdx 2 3 14) 1#32), (1), _, (2), (3), _, ⟨rfl, rfl, by decide +kernel⟩⟩,
    ⟨(st fun h => ms1 [1, 2] h), (1), _, _, ⟨rfl, rfl, by decide +kernel⟩⟩⟩

theorem witness_RegisterControlProtocol :
    (∃ (s : State) (q : Quad) (f : RxFrame), ((s.hw.powered = true ∨ s.hw.kept q = true)) ∧ ((s.hw.eth q).rcpIn = [f]) ∧ (roeneKind f.payload = kSYNC) ∧ ((s.hw.eth q).sessions = []) ∧ ((s.hw.eth q).reqs = []) ∧ ((s.hw.eth q).owner = []) ∧ ((s.hw.eth q).ports = [])) ∧
    (∃ (s : State) (q : Quad), ((s.hw.eth q).rcpIn = [])) ∧
    (∃ (s : State) (q : Quad) (f : RxFrame) (l : List RxFrame) (i : Nat) (v : Session), ((s.hw.eth q).rcpIn = f :: l) ∧ ((s.hw.powered = true ∨ s.hw.kept q = true)) ∧ (s.hw.sessionOf q (bits (beWord f.payload 0) 15 0) f.src = some (i, v)) ∧ (v.unacked = []) ∧ (roeneKind f.payload = kFIN)) ∧
    (∃ (s : State) (q : Quad) (f : RxFrame) (l : List RxFrame) (i : Nat) (v : Session), ((s.hw.eth q).rcpIn = f :: l) ∧ ((s.hw.powered = true ∨ s.hw.kept q = true)) ∧ (s.hw.sessionOf q (bits (beWord f.payload 0) 15 0) f.src = some (i, v)) ∧ (v.unacked = []) ∧ (roeneKind f.payload = kACK)) ∧
    (∃ (s : State) (q : Quad) (f : RxFrame) (l : List RxFrame) (i : Nat) (v : Session), ((s.hw.eth q).rcpIn = f :: l) ∧ ((s.hw.powered = true ∨ s.hw.kept q = true)) ∧ (s.hw.sessionOf q (bits (beWord f.payload 0) 15 0) f.src = some (i, v)) ∧ (v.unacked = []) ∧ (roeneKind f.payload = kREQ) ∧ (2 ≤ (beWord f.payload 1 - v.x).toInt) ∧ ((beWord f.payload 1 - v.x).toInt ≤ 16)) ∧
    (∃ (s : State) (q : Quad) (f : RxFrame) (l : List RxFrame) (i : Nat) (v : Session), ((s.hw.eth q).rcpIn = f :: l) ∧ ((s.hw.powered = true ∨ s.hw.kept q = true)) ∧ (s.hw.sessionOf q (bits (beWord f.payload 0) 15 0) f.src = some (i, v)) ∧ (v.unacked = []) ∧ (roeneKind f.payload = kREQ) ∧ ((beWord f.payload 1 - v.x).toInt < -15)) ∧
    (∃ (s : State) (q : Quad) (f : RxFrame) (l : List RxFrame) (i : Nat) (n : Nat) (m : Nat) (v : Session) (ws : List Word), ((s.hw.eth q).rcpIn = f :: l) ∧ (ws = (List.range ((f.payload.length - 16) / 4)).map (fun j => beWord f.payload (4 + j))) ∧ (respWords ws n = some m) ∧ ((s.hw.powered = true ∨ s.hw.kept q = true)) ∧ (roeneKind f.payload = kREQ) ∧ (s.hw.sessionOf q (bits (beWord f.payload 0) 15 0) f.src = some (i, v)) ∧ (v.unacked = []) ∧ (beWord f.payload 1 = v.x + 1#32) ∧ ((s.hw.eth q).reqs = []) ∧ (n = bits (beWord f.payload 3) 23 16) ∧ (16 + 4 * m ≤ s.hw.plim q) ∧ (opWords ws n ≠ [])) ∧
    (∃ (s : State) (q : Quad) (i : Fin 4) (v : Session), (s.hw.session q i = some v) ∧ ((s.hw.powered = true ∨ s.hw.kept q = true)) ∧ (s.hw.fld RCP_CFG q 31 24 ≠ 0)) ∧
    (∃ (s : State) (q : Quad) (i : Fin 4), ((s.hw.session q i = none ∨ s.hw.fld RCP_CFG q 31 24 = 0))) ∧
    (∃ (s : State) (q : Quad) (same : BitVec 256) (r : RcpReq) (x : Hw × OpEnd), (s.Runs q r oREAD) ∧ (x = s.hw.rcpReads q same (bit (r.ops.headD 0#32) 27) (r.ops.getD 1 0#32) [] (bits (r.ops.headD 0#32) 23 16 + 1))) ∧
    (∃ (h : Hw) (g : Hw) (q : Nat) (same : BitVec 256) (fx : Bool) (a : Word) (l : List Word), (g = h.mgmtRead (engineOf q) (if fx = true then a else a + w32 (4 * l.length)) (same.getLsbD l.length))) ∧
    (∃ (s : State) (q : Quad) (same : List Word) (r : RcpReq) (x : Hw × OpEnd), (s.Runs q r oWRITE) ∧ (x = s.hw.rcpWrites q same (bit (r.ops.headD 0#32) 27) (r.ops.getD 1 0#32) 0 ((r.ops.drop 2).take (bits (r.ops.headD 0#32) 23 16 + 1)))) ∧
    (∃ (h : Hw) (g : Hw) (q : Nat) (j : Nat) (same : List Word) (a : Word) (v : Word), (g = h.mgmtWrite (engineOf q) (a + w32 (4 * j)) v (same.getD j 0#32))) ∧
    (∃ (s : State) (q : Quad) (rs : Bool) (ws : Word) (r : RcpReq) (a : Word) (m : Word) (v : Word) (g : Hw) (k : Hw), (s.Runs q r oRMW) ∧ (a = r.ops.getD 1 0#32) ∧ (m = r.ops.getD 2 0#32) ∧ (v = r.ops.getD 3 0#32) ∧ (g = s.hw.mgmtRead (engineOf q) a rs) ∧ (k = g.mgmtWrite (engineOf q) a ((g.resp.value &&& ~~~ m) ||| (v &&& m)) ws) ∧ (g.resp.status = .ok) ∧ (k.resp.status = .ok)) ∧
    (∃ (s : State) (q : Quad) (rs : Bool) (ws : Word) (r : RcpReq) (a : Word) (m : Word) (v : Word) (g : Hw) (k : Hw), (s.Runs q r oRMW) ∧ (a = r.ops.getD 1 0#32) ∧ (m = r.ops.getD 2 0#32) ∧ (v = r.ops.getD 3 0#32) ∧ (g = s.hw.mgmtRead (engineOf q) a rs) ∧ (k = g.mgmtWrite (engineOf q) a ((g.resp.value &&& ~~~ m) ||| (v &&& m)) ws) ∧ (g.resp.status ≠ .ok)) ∧
    (∃ (s : State) (q : Quad) (rs : Bool) (ws : Word) (r : RcpReq) (a : Word) (m : Word) (v : Word) (g : Hw) (k : Hw), (s.Runs q r oRMW) ∧ (a = r.ops.getD 1 0#32) ∧ (m = r.ops.getD 2 0#32) ∧ (v = r.ops.getD 3 0#32) ∧ (g = s.hw.mgmtRead (engineOf q) a rs) ∧ (k = g.mgmtWrite (engineOf q) a ((g.resp.value &&& ~~~ m) ||| (v &&& m)) ws) ∧ (g.resp.status = .ok) ∧ (k.resp.status ≠ .ok)) ∧
    (∃ (s : State) (q : Quad) (same : Bool) (r : RcpReq) (g : Hw), (s.Runs q r oWAIT) ∧ (g = s.hw.mgmtRead (engineOf q) (r.ops.getD 1 0#32) same) ∧ (g.resp.status = .ok) ∧ (g.resp.value &&& r.ops.getD 2 0#32 = r.ops.getD 3 0#32)) ∧
    (∃ (s : State) (q : Quad) (same : Bool) (r : RcpReq) (g : Hw), (s.Runs q r oWAIT) ∧ (g = s.hw.mgmtRead (engineOf q) (r.ops.getD 1 0#32) same) ∧ (g.resp.status = .ok) ∧ (g.resp.value &&& r.ops.getD 2 0#32 ≠ r.ops.getD 3 0#32)) ∧
    (∃ (s : State) (q : Quad) (same : Bool) (r : RcpReq) (g : Hw), (s.Runs q r oWAIT) ∧ (g = s.hw.mgmtRead (engineOf q) (r.ops.getD 1 0#32) same) ∧ (g.resp.status ≠ .ok)) ∧
    (∃ (s : State) (q : Quad) (same : Bool) (r : RcpReq) (g : Hw), (s.Runs q r oWAIT) ∧ (g = (s.hw.advTo (r.since.getD s.hw.dev + (r.ops.getD 4 0#32).toNat * us)).mgmtRead (engineOf q) (r.ops.getD 1 0#32) same) ∧ (g.resp.status = .ok) ∧ (g.resp.value &&& r.ops.getD 2 0#32 ≠ r.ops.getD 3 0#32)) ∧
    (∃ (s : State) (q : Quad) (r : RcpReq) (a : Word) (x : Hw × Word), (s.Runs q r oOPEN) ∧ (a = r.ops.getD 1 0#32) ∧ (x = s.hw.chanOpen (gateway q) (bits a 19 16) (bits a 13 8) (bits a 5 0) (bits (r.ops.getD 2 0#32) 7 0)) ∧ (r.since = none) ∧ (x.2 ≠ noTicket) ∧ ((x.1.ticket (gateway q) x.2.toNat).st = 0)) ∧
    (∃ (s : State) (q : Quad) (r : RcpReq) (i : Nat), (s.Runs q r oSEND) ∧ (i = (r.ops.getD 1 0#32).toNat) ∧ (s.hw.ownsHandle q i r.sess = false)) ∧
    (∃ (s : State) (q : Quad) (r : RcpReq) (i : Nat) (x : Hw × Word), (s.Runs q r oSEND) ∧ (i = (r.ops.getD 1 0#32).toNat) ∧ (x = s.hw.chanSend (gateway q) i (sendBytes r.ops)) ∧ (s.hw.ownsHandle q i r.sess = true) ∧ (r.since = none) ∧ (x.2 ≠ noTicket) ∧ ((x.1.ticket (gateway q) x.2.toNat).st = 0)) ∧
    (∃ (s : State) (q : Quad) (r : RcpReq) (i : Nat), (s.Runs q r oCLOSE) ∧ (i = (r.ops.getD 1 0#32).toNat) ∧ (bit (r.ops.getD 2 0#32) 0 = true) ∧ (s.hw.ownsPort q i r.sess = false)) ∧
    (∃ (s : State) (q : Quad) (r : RcpReq) (i : Nat), (s.Runs q r oCLOSE) ∧ (i = (r.ops.getD 1 0#32).toNat) ∧ (bit (r.ops.getD 2 0#32) 0 = false) ∧ (s.hw.ownsHandle q i r.sess = false)) ∧
    (∃ (s : State) (q : Quad) (r : RcpReq) (i : Nat) (x : Hw × Word), (s.Runs q r oCLOSE) ∧ (i = (r.ops.getD 1 0#32).toNat) ∧ (x = s.hw.chanCloseHandle (gateway q) i) ∧ (bit (r.ops.getD 2 0#32) 0 = false) ∧ (s.hw.ownsHandle q i r.sess = true) ∧ (r.since = none) ∧ (x.2 ≠ noTicket) ∧ ((x.1.ticket (gateway q) x.2.toNat).st = 0)) ∧
    (∃ (s : State) (q : Quad) (r : RcpReq) (p : Nat) (c : Nat), (s.Runs q r oLISTEN) ∧ (r.since = none) ∧ (p = bits (r.ops.getD 1 0#32) 7 0) ∧ (c = bits (r.ops.getD 1 0#32) 10 8) ∧ (c < 5) ∧ (s.hw.ringPlaceFor q (256 * 2 ^ c) = none)) ∧
    (∃ (s : State) (q : Quad) (r : RcpReq) (p : Nat) (c : Nat) (b : Nat), (s.Runs q r oLISTEN) ∧ (r.since = none) ∧ (p = bits (r.ops.getD 1 0#32) 7 0) ∧ (c = bits (r.ops.getD 1 0#32) 10 8) ∧ (c < 5) ∧ (s.hw.ringPlaceFor q (256 * 2 ^ c) = some b) ∧ (s.hw.port (gateway q) p = {}) ∧ (((s.hw.ep (gateway q)).ports.filter fun x => x.2.on).length < 64) ∧ ((s.hw.freeTicket (gateway q)).isSome = true)) ∧
    (∃ (h : Hw) (q : Nat) (r : RcpReq) (v : Session) (p : List Byte), ((h.eth q).reqs = [r]) ∧ (opsLeft r = false) ∧ (h.session q r.sess = some v) ∧ (v.cache = []) ∧ ((h.eth q).rcpIn = []) ∧ (p = rcpFrame kRSP v.id r.seq v.x r.status (if r.status ≠ 0 then 0 else r.count) 16 (r.resp.flatMap fun w => natBE 4 w.toNat))) ∧
    (∃ (s : State) (q : Quad) (r : RcpReq) (n : Nat) (o : Nat) (k : Ticket) (g : Hw), (s.Runs q r o) ∧ (k = s.hw.ticket (gateway q) r.tkt) ∧ (g = (s.hw.advTo (n + 1000 * us)).loseTicket (gateway q) r.tkt) ∧ (o ∈ [oOPEN, oSEND, oCLOSE]) ∧ (r.since = some n)) ∧
    (∃ (s : State) (q : Quad), ((∀ r, (s.hw.eth q).reqs.head? = some r → r.since = none))) ∧
    (∃ (s : State) (q : Quad) (i : Fin 4) (v : Session) (ms : List MsgRec) (p : List Byte), (p = rcpFrame kMSGIN v.id (v.tx + 1#32) v.x 0 ms.length (s.hw.rcpWin q) (ms.flatMap fun m => s.hw.msgBytes (gateway q) m)) ∧ ((s.hw.powered = true ∨ s.hw.kept q = true)) ∧ (s.hw.session q i = some v) ∧ (ms = msgFit (s.hw.plim q - 16) ((s.hw.ep (gateway q)).msgq.filter fun m => s.hw.ownsPort q m.port i)) ∧ (ms ≠ []) ∧ (v.unacked.length < v.win)) ∧
    (∃ (s : State) (q : Quad) (i : Fin 4), (s.hw.session q i = none)) ∧
    (∃ (s : State) (q : Quad) (i : Fin 4) (v : Session) (m : MsgIn), (s.hw.powered = true) ∧ (s.hw.session q i = some v) ∧ (v.unacked = [m]) ∧ (m.resends < s.hw.fld RCP_CFG q 19 16) ∧ (s.hw.waits = [])) ∧
    (∃ (s : State) (q : Quad) (i : Fin 4) (v : Session) (m : MsgIn), (s.hw.powered = true) ∧ (s.hw.session q i = some v) ∧ (v.unacked = [m]) ∧ (s.hw.fld RCP_CFG q 19 16 ≤ m.resends) ∧ (s.hw.waits = [])) :=
  ⟨⟨(st fun h => rcp1 [0x11050077, 5, 0, 0] (eth1 h)), (1), (rfr [0x11050077, 5, 0, 0]), by decide +kernel⟩,
    ⟨(st id), (1), by decide +kernel⟩,
    ⟨(st fun h => rcp1 [0x11070077, 5, 0, 0] (ses1 { id := 0x77, mac := 7 } (eth1 h))), (1), _, _, (2), ({ id := 0x77, mac := 7 }), ⟨rfl, by decide +kernel⟩⟩,
    ⟨(st fun h => rcp1 [0x11030077, 5, 0, 9] (ses1 { id := 0x77, mac := 7 } (eth1 h))), (1), _, _, (2), ({ id := 0x77, mac := 7 }), ⟨rfl, by decide +kernel⟩⟩,
    ⟨(st fun h => rcp1 [0x11010077, 11, 0, 9] (ses1 { id := 0x77, mac := 7, x := 9#32 } (eth1 h))), (1), _, _, (2), ({ id := 0x77, mac := 7, x := 9#32 }), ⟨rfl, by decide +kernel⟩⟩,
    ⟨(st fun h => rcp1 [0x11010077, 0xFFFFFFF9, 0, 9] (ses1 { id := 0x77, mac := 7, x := 9#32 } (eth1 h))), (1), _, _, (2), ({ id := 0x77, mac := 7, x := 9#32 }), ⟨rfl, by decide +kernel⟩⟩,
    ⟨(st fun h => rcp1 [0x11010077, 10, 0, 0x10000, 0, 4] (ses1 { id := 0x77, mac := 7, x := 9#32 } (eth1 h))), (1), _, _, (2), (1), _, ({ id := 0x77, mac := 7, x := 9#32 }), _, ⟨rfl, rfl, rfl, by decide +kernel⟩⟩,
    ⟨(st fun h => ses1 { id := 0x77, mac := 7, x := 9#32 } ((eth1 h).setReg RCP_CFG 1 0x5000000#32)), (1), (2), _, ⟨rfl, by decide +kernel⟩⟩,
    ⟨(st id), (1), (2), by decide +kernel⟩,
    ⟨(st (rq1 [0x10000#32, addrOf STEP_NUM 0])), (1), (1#256), (rq [0x10000#32, addrOf STEP_NUM 0]), _, ⟨runs_of (by decide +kernel), rfl⟩⟩,
    ⟨({}), (({} : Hw).mgmtRead (engineOf 1) (0#32 + w32 (4 * 0))), (1), (0), (false), (0#32), ([]), by decide +kernel⟩,
    ⟨(st (rq1 [0x10000000#32, addrOf STEP_NUM 0, 5#32])), (1), ([1#32]), (rq [0x10000000#32, addrOf STEP_NUM 0, 5#32]), _, ⟨runs_of (by decide +kernel), rfl⟩⟩,
    ⟨({}), (({} : Hw).mgmtWrite (engineOf 1) (0#32 + w32 (4 * 1)) 5#32), (1), (1), ([]), (0#32), (5#32), by decide +kernel⟩,
    ⟨(st (rq1 [0x20000000#32, addrOf GPIO_EDGE_LO 0, 5#32, 1#32])), (1), (true), (0#32), (rq [0x20000000#32, addrOf GPIO_EDGE_LO 0, 5#32, 1#32]), _, _, _, _, _, ⟨runs_of (by decide +kernel), rfl, rfl, rfl, rfl, rfl, by decide +kernel⟩⟩,
    ⟨(st (rq1 [0x20000000#32, 0x00017000#32, 5#32, 1#32])), (1), (true), (0#32), (rq [0x20000000#32, 0x00017000#32, 5#32, 1#32]), _, _, _, _, _, ⟨runs_of (by decide +kernel), rfl, rfl, rfl, rfl, rfl, by decide +kernel⟩⟩,
    ⟨(st (rq1 [0x20000000#32, addrOf FUSE_FLAGS 0, 5#32, 1#32])), (1), (true), (0#32), (rq [0x20000000#32, addrOf FUSE_FLAGS 0, 5#32, 1#32]), _, _, _, _, _, ⟨runs_of (by decide +kernel), rfl, rfl, rfl, rfl, rfl, by decide +kernel⟩⟩,
    ⟨(st (rq1 [0x30000000#32, addrOf GPIO_EDGE_LO 0, 5#32, 0#32, 7#32])), (1), (true), (rq [0x30000000#32, addrOf GPIO_EDGE_LO 0, 5#32, 0#32, 7#32]), _, ⟨runs_of (by decide +kernel), rfl, by decide +kernel⟩⟩,
    ⟨(st (rq1 [0x30000000#32, addrOf GPIO_EDGE_LO 0, 5#32, 1#32, 7#32])), (1), (true), (rq [0x30000000#32, addrOf GPIO_EDGE_LO 0, 5#32, 1#32, 7#32]), _, ⟨runs_of (by decide +kernel), rfl, by decide +kernel⟩⟩,
    ⟨(st (rq1 [0x30000000#32, 0x00017000#32, 5#32, 1#32, 7#32])), (1), (true), (rq [0x30000000#32, 0x00017000#32, 5#32, 1#32, 7#32]), _, ⟨runs_of (by decide +kernel), rfl, by decide +kernel⟩⟩,
    ⟨(st (rq1 [0x30000000#32, addrOf GPIO_EDGE_LO 0, 5#32, 1#32, 7#32])), (1), (true), (rq [0x30000000#32, addrOf GPIO_EDGE_LO 0, 5#32, 1#32, 7#32]), _, ⟨runs_of (by decide +kernel), rfl, by decide +kernel⟩⟩,
    ⟨(st (rq1 [0x80000000#32, 0x102#32, 7#32])), (1), (rq [0x80000000#32, 0x102#32, 7#32]), _, _, ⟨runs_of (by decide +kernel), rfl, rfl, by decide +kernel⟩⟩,
    ⟨(st (rq1 [0x90000000#32, 3#32, 4#32, 0x01020304#32])), (1), (rq [0x90000000#32, 3#32, 4#32, 0x01020304#32]), _, ⟨runs_of (by decide +kernel), rfl, by decide +kernel⟩⟩,
    ⟨(st fun h => ((rq1 [0x90000000#32, 3#32, 4#32, 0x01020304#32] h).updEth 1 fun x => { x with owner := [(3, 3)] }).updEp (gateway 1) fun x => { x with handles := [(3, { st := 2, dst := 0x102, port := 7 })] }), (1), (rq [0x90000000#32, 3#32, 4#32, 0x01020304#32]), _, _, ⟨runs_of (by decide +kernel), rfl, rfl, by decide +kernel⟩⟩,
    ⟨(st (rq1 [0xA0000000#32, 3#32, 1#32])), (1), (rq [0xA0000000#32, 3#32, 1#32]), _, ⟨runs_of (by decide +kernel), rfl, by decide +kernel⟩⟩,
    ⟨(st (rq1 [0xA0000000#32, 3#32, 0#32])), (1), (rq [0xA0000000#32, 3#32, 0#32]), _, ⟨runs_of (by decide +kernel), rfl, by decide +kernel⟩⟩,
    ⟨(st fun h => ((rq1 [0xA0000000#32, 3#32, 0#32] h).updEth 1 fun x => { x with owner := [(3, 3)] }).updEp (gateway 1) fun x => { x with handles := [(3, { st := 2, dst := 0x102, port := 7 })] }), (1), (rq [0xA0000000#32, 3#32, 0#32]), _, _, ⟨runs_of (by decide +kernel), rfl, rfl, by decide +kernel⟩⟩,
    ⟨(st fun h => (rq1 [0xB0000000#32, 0x405#32] h).updEp (gateway 1) fun x => { x with ports := [(9, { on := true, base := 0, size := 2 ^ 18 })] }), (1), (rq [0xB0000000#32, 0x405#32]), (5), (4), ⟨runs_of (by decide +kernel), by decide +kernel⟩⟩,
    ⟨(st fun h => (rq1 [0xB0000000#32, 0x405#32] h).updEp (gateway 1) fun x => { x with ports := [(9, { on := true, base := 0, size := 4096 })] }), (1), (rq [0xB0000000#32, 0x405#32]), (5), (4), (4096), ⟨runs_of (by decide +kernel), by decide +kernel⟩⟩,
    ⟨((ses1 { id := 3 } (rq1 [] (eth1 {})))), (1), (rq []), ({ id := 3 }), (rcpFrame kRSP 3 9#32 0#32 0 1 16 []), by decide +kernel⟩,
    ⟨(st fun h => (h.updEth 1 fun x => { x with reqs := [{ rq [0x90000000#32, 3#32, 4#32, 0x01020304#32] with since := some 40, tkt := 3 }] }).updEp (gateway 1) fun x => { x with tickets := [(3, { used := true, op := 2, handle := 3 })] }), (1), ({ rq [0x90000000#32, 3#32, 4#32, 0x01020304#32] with since := some 40, tkt := 3 }), (40), (9), _, _, ⟨runs_of (by decide +kernel), rfl, rfl, by decide +kernel⟩⟩,
    ⟨(st id), (1), (fun _ h => by cases h)⟩,
    ⟨(st fun h => ((ses1 { id := 3, tx := 8#32 } (eth1 h)).updEth 1 fun x => { x with ports := [(5, 3)] }).updEp (gateway 1) fun x => { x with msgq := [{ port := 5, at_ := 0, len := 3 }, { port := 6 }], ports := [(5, { on := true, base := 256, size := 256 })] }), (1), (2), ({ id := 3, tx := 8#32 }), ([{ port := 5, at_ := 0, len := 3 }]), _, ⟨rfl, by decide +kernel⟩⟩,
    ⟨(st id), (1), (2), by decide +kernel⟩,
    ⟨(st fun h => (ses1 { id := 3, tx := 8#32, unacked := [{ seq := 8#32, sentAt := 4 }] } (eth1 h)).setReg RCP_CFG 1 0x20301#32), (1), (2), ({ id := 3, tx := 8#32, unacked := [{ seq := 8#32, sentAt := 4 }] }), ({ seq := 8#32, sentAt := 4 }), by decide +kernel⟩,
    ⟨(st fun h => (ses1 { id := 3, tx := 8#32, unacked := [{ seq := 8#32, sentAt := 4, resends := 2 }] } (eth1 h)).setReg RCP_CFG 1 0x20301#32), (1), (2), ({ id := 3, tx := 8#32, unacked := [{ seq := 8#32, sentAt := 4, resends := 2 }] }), ({ seq := 8#32, sentAt := 4, resends := 2 }), by decide +kernel⟩⟩

/-- A block in reset, in which always-on memory holds a byte. -/
def held : State := { pending := [.faultRaise], hw := { pkg := { inReset := true }, mem := [(aomBase, 5#8)] } }

theorem held_inReset : held.InReset :=
  ⟨rfl, .inl rfl, rfl, fun _ => rfl, by decide +kernel, by decide +kernel, by decide +kernel, by simp [held]⟩

theorem witness_ResetHoldsTheBlock : held.InReset ∧ step held = .next { held with pending := [] } := ⟨held_inReset, rfl⟩

/-! ### What the checks of well-formedness refuse -/

theorem test_wf_shortPacket : ¬ (Instr.csiPacketRx 0 { vc := 0, dt := 0x30, long := false, hdrErr := 0, crcErr := false, payload := [1, 2, 3] }).wf = true := by decide
theorem test_wf_pollBytes : ¬ (Instr.pollComplete 0 [1, 2, 3, 4, 5] false).wf = true := by decide
theorem test_wf_framePayload : ¬ (Instr.ethFrameRx 0 { fcsOk := true, dst := 1, src := 2, tags := [], sec := none, etype := 0x88B5, payload := List.replicate 65536 0 }).wf = true := by simp only [Instr.wf, List.length_replicate]; decide
theorem test_wf_gptpReply : ¬ (Instr.gptpFrame 0 0 (some (List.replicate 9023 0))).wf = true := by simp only [Instr.wf, List.length_replicate]; decide
theorem test_wf_groupBlocks : ¬ (Instr.scGroupRx 0 0 [{}, {}, {}, {}]).wf = true := by decide
theorem test_wf_memoryRequest : ¬ (Instr.ddrRequestAccept 0 [{ addr := 2 }]).wf = true := by decide
theorem test_wf_record : ¬ (Instr.romFlashBoot true true [{ addr := 0x80000000, mask := 0, fixed := false, words := [] }] []).wf = true := by decide
theorem test_wf_recordRegion : ¬ (Instr.netBootImageCheck true [{ addr := 0x40000000, mask := 0, fixed := false, words := [1] }] []).wf = true := by decide
theorem test_wf_coldExitRecord : ¬ (Instr.pkgColdExitDone true [{ addr := 0x40000000, mask := 0, fixed := false, words := [1] }] []).wf = true := by decide
theorem test_wf_slotSize : ¬ (Instr.fwImageUpdateMsg (List.replicate 0x800001 0)).wf = true := by simp only [Instr.wf, List.length_replicate]; decide
theorem test_wf_imageSection : ¬ (Instr.imageLoadMsg 0 { img0 with items := [.mem 2 false [1]] }).wf = true := by decide
theorem test_wf_microcode : ({ op := .add, f1 := 16, f2 := 0, low := 0 } : MInstr).wf = false ∧ ({ op := .jmp, f1 := 0, f2 := 0, low := 1024 } : MInstr).wf = false := by decide

/-! ### Microcode words, bit by bit from 04 R121 and R122 -/

/-- ADD m1, m2, m3 in format R. -/
theorem test_word_add : mcDecode (0b000000#6 ++ 0b0001#4 ++ 0b0010#4 ++ 0b0011#4 ++ 0#14) = some { op := .add, f1 := 1, f2 := 2, low := 3 * 2 ^ 14 } := by decide
/-- ADDI m4, m5, −1 in format I. -/
theorem test_word_addi : mcDecode (0b010000#6 ++ 0b0100#4 ++ 0b0101#4 ++ 0x3FFFF#18) = some { op := .addi, f1 := 4, f2 := 5, low := 0x3FFFF } := by decide
/-- BGE m9, m10, 0x053 in format B. -/
theorem test_word_bge : mcDecode (0b110011#6 ++ 0b1001#4 ++ 0b1010#4 ++ 0#8 ++ 0x053#10) = some { op := .bge, f1 := 9, f2 := 10, low := 0x053 } := by decide
/-- CHAN m1, m2, m3, SEND in format X. -/
theorem test_word_chan : mcDecode (0b111001#6 ++ 0b0001#4 ++ 0b0010#4 ++ 0b0011#4 ++ 0#11 ++ 0b010#3) = some { op := .chanSend, f1 := 1, f2 := 2, low := 3 * 2 ^ 14 + 2 } := by
  decide
/-- NOP is ADD m0, m0, m0; a reserved opcode and a field that must be 0 spell nothing (04 R124). -/
theorem test_word_reserved : mcDecode 0#32 = some { op := .add, f1 := 0, f2 := 0, low := 0 } ∧ mcDecode (0b011010#6 ++ 0#26) = none ∧ mcDecode 1#32 = none := by decide

/-! ### Worked values of the spec -/

/-- The worked addresses of 19, and an address of an unassigned page. -/
theorem test_addresses : addrOf SPIKE_CNT (512 + 320 + 17) = 0xDA88004C#32 ∧ addrOf CM_FENCE 38 = 0xA6003040#32 ∧ addrOf STEP_NUM 0 = 0x00001044#32 ∧
    locOf 0xDA88F040#32 = none := by decide +kernel
/-- The worked lookup of 05: two indexes, and the descriptor. -/
theorem test_lookup : entryIdx 0x00010003#32 0x1064644C#32 = 0x399D ∧ entryIdx 0x00040005#32 0x1064644C#32 = 0x1659 ∧
    descOf 0x00989F40#32 0x0C000000#32 = { shift := 6, len := 9, bank := 17, offset := 0x1F40 } := by decide +kernel
/-- Neuron P0:Q1:C9:K3:N1100 (05). -/
theorem test_neuronAddress : neuronAddr (512 + 288 + 3) 1100 = 0x1064644C#32 := by decide +kernel
/-- Steps t + 1, t + 2 and t + 4 of the worked neuron of 03. -/
def reflex : PVars := pvars [0x00400000#32, 0x78007000#32, 0x08002280#32, 0xFFC00000#32]
theorem test_neuron_fires : (fixedUpdate reflex { v := 9600 } 12800 0 0x3A11).n.v = 5416 ∧ (fixedUpdate reflex { v := 9600 } 12800 0 0x3A11).n.a = 2048 := by
  decide +kernel
theorem test_neuron_refractory : (fixedUpdate reflex { v := 5416, a := 2048, ref := 2 } 6400 0 0x3A12).n = { v := 11477, a := 1792, ref := 1 } := by decide +kernel
theorem test_neuron_adapts : recWords false 3#32 0x00030001#32 (fixedUpdate reflex { v := 20359, a := 1568, ecount := 1 } 3200 0 0x3A14).n =
    [0x00019E27#32, 0x0D5C3A14#32, 0x00030002#32] := by decide +kernel
/-- The worked hold-up checks of 15: 22,000 µF, an 8:1 divider, 6.0 V, 12 W, margin 1.25. -/
def board : Hw :=
  ((((((State.reset.hw.setReg HU_CAP 0 22000#32).setReg HU_DIV 0 2048#32).setReg HU_VMIN 0 6000#32).setReg HU_PWR 0 12000#32).setReg HU_T_ERASE 0 40000#32).setReg
    HU_T_PROG 0 4000#32).setReg HU_MARGIN 0 20#32
theorem test_holdup : (board.holdupOk 3185 true, board.holdupOk 2706 true, board.holdupOk 2600 true, board.holdupOk 2600 false) = (true, true, false, true) := by
  decide +kernel
/-- The worked make-up of 11: TMR3 after 3,277 slow ticks. -/
def tmr3 : Hw :=
  (((((((State.reset.hw.setReg TMR_CTRL 3 0xC74001#32).setReg TMR_RATIO 3 2000000#32).setReg TMR_COUNT 3 950000#32).setReg TMR_TOP 3 999999#32).setReg TMR_CMP0 3
    20000#32).setReg TMR_CMP1 3 990000#32).updTmr 3 fun x => { x with gated := true }).makeUp 3277
theorem test_makeUp : tmr3.reg TMR_COUNT 3 = 50006#32 ∧ tmr3.fld TMR_FRAC 3 15 0 = 6784 := by decide +kernel

/-- Registers whose accesses `Obligations.EveryCommandHasItsEffect` speaks of: register, unit, whether written. -/
def reached : List (Rg × Nat × Bool) :=
  [(MC_STORE_DATA, 1, true), (MC_STORE_DATA, 1, false), (MC_DM_DATA, 1, true), (MC_DM_DATA, 1, false), (BANKWIN_DATA, 1, true), (BANKWIN_DATA, 1,
    false), (GT_DATA, 1, true), (GT_DATA, 1, false), (FSEQ_DATA, 1, true), (FSEQ_DATA, 1, false), (FLOW_DATA, 1, true), (FLOW_DATA, 1, false),
    (DEST_DATA, 1, true), (DEST_DATA, 1, false), (DTREE_DATA, 1, true), (DTREE_DATA, 1, false), (XTAG_DATA, 1, true), (XTAG_DATA, 1, false),
    (ITAG_DATA, 1, true), (ITAG_DATA, 1, false), (SEG_DATA, 1, true), (SEG_DATA, 1, false), (RULE_DATA, 1, true), (RULE_DATA, 1, false),
    (HOTPIX_DATA, 1, true), (HOTPIX_DATA, 1, false), (FT_DATA, 1, true), (FT_DATA, 1, false), (LIM_DATA, 1, true), (LIM_DATA, 1, false), (POLL_DATA,
    0, true), (POLL_DATA, 0, false), (LCE_DATA, 0, true), (LCE_DATA, 0, false), (ACT_DATA, 0, true), (ACT_DATA, 0, false), (GCL_DATA, 1, true),
    (GCL_DATA, 1, false), (MS_SA_DATA, 1, true), (MS_SA_DATA, 1, false)] ++
  [(AOM_DATA, 0, true), (AOM_DATA, 0, false), (ATT_DATA, 0, true), (ATT_DATA, 0, false), (STEP_CTRL, 0, true), (SLICE_CFG, 1, true), (PSET_CTRL, 1,
    true), (CORE_LAYOUT, 1, true), (REMAP 1, 1, true), (PHYS_RETIRE_HI, 1, true), (PHYS_RETIRE_LO, 1, true), (MC_SEED, 1, true), (BANK_OWNER 1, 1,
    true), (BANK_PWR_HI, 1, true), (BANK_PWR_LO, 1, true), (CM_FENCE, 1, false), (SR_DATA, 1, true), (DL_CTRL, 1, true), (DENSE_BINQ, 1, true),
    (CKPT_STAT, 1, true), (ROAST_SEED, 1, true), (FR_STAT, 1, true), (TMR_COUNT, 1, true), (TMR_CMP1, 1, true), (TMR_CMP0, 1, true), (TMR_CAPR, 1,
    false), (TMR_CAPF, 1, false), (TMR_WIDTH, 1, false), (ACT_STAT, 0, true), (GPIO_SET, 0, true), (GPIO_CLR, 0, true), (CH_CMD 1, 1, true),
    (GCL_CTRL, 1, true), (PHY_CTRL, 1, true), (PTP_ADJ, 0, true), (PTP_NS_LO, 0, false), (MS_TX_AN, 1, true), (DRAIN, 1, false), (DDR_TRAIN, 1,
    true), (DDR_CFG, 1, true)] ++
  [(SC_CTRL, 1, true), (CL_PWR_REQ, 1, true), (PKG_PWR_REQ, 0, true), (CL_VTRIM, 1, true), (RST_CMD, 0, true), (CL_RST_HI, 0, true), (CL_RST_LO, 0,
    true), (CORE_RST_PULSE, 1, true), (CORE_RST_HOLD, 1, true), (IMG_PTR, 1, true), (IMG_DATA, 1, true), (FUSE_PROG, 0, true), (FLT_RAISE, 0, true),
    (FLT_CTRL, 0, true), (FLT_LOG_POP, 0, false), (IC_CLAIM 1, 0, false), (IC_COMPLETE 1, 0, true), (IC_MASK 1, 0, true), (IC_SWI_SET, 0, true),
    (IC_SWI_CLR, 0, true), (CTX_NEXT, 0, true), (ATT_CMD, 0, true), (PAD_EN, 0, true)]

/-- Everything grants them right after reset with RESET_N high. -/
theorem reached_granted : ∀ x ∈ reached, (st id).Grants (.mp 0) x.1 x.2.1 x.2.2 := by
  have h : (reached.all fun x => grantsB (st id) (.mp 0) x.1 x.2.1 x.2.2) = true := by decide +kernel
  intro x hx
  exact grants_of (List.all_eq_true.1 h x hx)

/-- STEP's registers 0x008 and 0x01C: the page header's PG_CTRL and PG_LOCK. -/
def pgCtrl : Rg := ⟨pgSTEP, 0x008⟩
def pgLock : Rg := ⟨pgSTEP, 0x01C⟩

theorem witness_EveryCommandHasItsEffect :
    (st id).hw.powered = true ∧ (∀ x ∈ reached, (st id).Grants (.mp 0) x.1 x.2.1 x.2.2) ∧
    (hdrAddr 0x00001044#32 0x008 = addrOf pgCtrl 0 ∧ (st id).Grants (.mp 0) pgCtrl 0 true) ∧
    (hdrAddr 0x00001044#32 0x01C = addrOf pgLock 0 ∧ (st id).Grants (.mp 0) pgLock 0 true) :=
  ⟨by decide +kernel, reached_granted, ⟨by decide +kernel, grants_of (by decide +kernel)⟩, ⟨by decide +kernel, grants_of (by decide +kernel)⟩⟩

end
end

section
/-! SUPPORT. Where a command of each row of the table acts, and the statements on commands in general and on the state after reset
(00_scope.md). -/

namespace Sys2Proof.Machine

/-! ### Where a command acts -/

/-- In a package without power only the RCP engine of a port that Steep keeps makes management accesses (15 R421). -/
def Hw.keptFor (h : Hw) : Requester → Bool
  | .rcp q => h.kept q
  | _ => false

/-- What a command answers, by the domain that it belongs to: the block becomes `h` where the domain has power, and stays as it is elsewhere.
An event of the clocked domain (15 R413), of the always-on domain or the pins, of a port that Steep may keep (15 R421), or a management access
(19 R497). -/
inductive State.ActsIn (s : State) : Out → Prop
  | clocked (h : Hw) : s.ActsIn (.next { s with hw := if s.hw.powered then h else s.hw })
  | alwaysOn (h : Hw) : s.ActsIn (.next { s with hw := h })
  | port (q : Nat) (h : Hw) : s.ActsIn (.next { s with hw := if s.hw.powered || s.hw.kept q then h else s.hw })
  | access (who : Requester) (h : Hw) : s.ActsIn (.next { s with hw := if s.hw.powered || s.hw.keptFor who then h else s.hw })

/-- Every command acts in one domain: the rows of the table, by theirs. An access to a window's data register is a management access, whether
it reads or writes (19 R528). -/
theorem exec_actsIn (i : Instr) (s : State) : s.ActsIn (exec i s) := by
  cases i with
  | stepAdvance | deliveryDeadline | deliveryClose | integrateStart | coreDone | stepDue | stretchMaxExpiry | pourClose | tokenDoneRx
  | tokenDquietRx | tokenPourRx | tokenDcloseRx | wakeComplete | warmEntry | sliceSwapComplete | spareReplacement | egressHandoff | handlerDispatch
  | mcWatchdogAbort | mcAdd | mcSub | mcAdds | mcSubs | mcAnd | mcOr | mcXor | mcShl | mcShr | mcSra | mcMul | mcMulq | mcMin | mcMax | mcSat24
  | mcSlt | mcAddi | mcAndi | mcOri | mcXori | mcShli | mcShri | mcSrai | mcLui | mcExt | mcIns | mcLd | mcSt | mcLdb | mcStb | mcRadd | mcBeq
  | mcBne | mcBlt | mcBge | mcJmp | mcJal | mcJr | mcEnd | mcEmit | mcChanListen | mcChanOpen | mcChanSend | mcChanClose | mcChanStatus | mcRand
  | mcCsr | mcTrap | entryLookup | dripLookupAdmit | listOfferStream | bankHandoverComplete | portBRetry | scrubLineVisit | bankWakeComplete
  | fabricSlot | injectionOffer | lastFrameEnd | holdResidueMove | spillPortMove | routerTableScrub | dripFlitForward | evtPacketSend | dripEvtRx
  | cfgPacketRx | msgSegmentRx | ctlqOpenRx | ctlqCloseRx | ctlsOpenAckRx | ctlsCloseAckRx | ctlsAckRx | ctlsNakRx | wretRx | dripWinTimeout
  | relayForward | preTraceWrite | roastPass1Complete | roastReciprocalComplete | roastPass2Complete | roastEnd | roastOverrun | firmwareCheckpoint
  | holdupCheck | huDeferExpiry | huMaxwaitExpiry | csiPacketRx | csiFrameStart | csiFrameEnd | decoderWord | rawEventIngest | ingressOffer
  | pollStart | pollComplete | adcConversionEnd | gpioFilterAccept | tmrGatedTick | tmrWrap | tmrMatch | tmrCaptureRise | tmrCaptureFall
  | actTimeout | xbTmrStart | xbTmrStop | xbTmrClear | xbPulseLatch | xbDmaTrigger | xbFrameRel | xbInject | dmaGranule | dmaComplete | bootSolicit
  | bootOfferRx | bootDataRx | netBootImageCheck | gptpFrame | macsecKeyMessage | ddrRequestAccept | ddrRefresh | ddrPatrolScrub
  | ddrTrainingComplete | ddrPeriodicRetrain | sdCalibration | scGroupRx | scTrainingComplete | scBlockLockLoss | scUaChange | clSteepEntryDone
  | clSteepExitDone | clColdEntryDone | clColdExitDone | pkgSteepEntryDone | regOvercurrent | pllDeviation | computeResetIntervalEnd
  | clusterResetEnd | coreResetEnd | romFlashBoot | fwImageUpdateMsg | licenceRecordMsg | imageLoadMsg | imageLoadDone | fuseBlowComplete
  | fuseBlowMsg | faultRaise | containmentRestore | sev3Restore | quietPeriodExpiry | stormWindowExpiry | switchFlushDone | switchRoastWaitDone
  | switchSaveDone | switchScrubDone | switchLoadDone | ctxDestroyMsg | ctxDestroyDone | attSignDone | stateCheckpoint | debugHaltRequest
  | debugResume | csiUlpsEntry | csiUlpsExit => exact .clocked _
  | ddrSelfRefreshExit | pkgSteepExitDone | pkgColdEntryDone | pkgColdExitDone | wakeGpioEdge | aoWakeTmrExpiry | brownout | thermHiCross
  | thermalShutdown | clk32Fail | powerOnReset | resetNAssert | resetNRelease | pwrGoodRise => exact .alwaysOn _
  | ethFrameRx | rxDispatch | rcpReqRx | rcpSyncRx | rcpFinRx | rcpAckRx | rcpSessionIdle | rcpRead | rcpWrite | rcpRmw | rcpWait | rcpOpen
  | rcpSend | rcpClose | rcpListen | rcpMsgInSend | rcpRtoExpiry | refInFrameRx | txFrameStart | gclListSwitch | linkUp | linkDown | pllLocked
  | rcpChanTimeout => exact .port _ _
  | registerWrite who | rcCounterRead who | pgSoftRst who | pgLockSet who | pgLockClear who | bankwinData who | stepRunStart who | stepRunStop who
  | stepSingle who | sliceCfgWrite who | psetCommit who | psetReadback who | psetClrOvf who | coreLayoutWrite who | remapWrite who
  | physRetireWrite who | mcSeedWrite who | bankOwnerWrite who | bankPwrWrite who | cmFenceRead who | softRepairWrite who | dlCommit who
  | dlReadback who | dlClrOvf who | denseBinqWrite who | ckptStatClear who | roastSeedWrite who | frameBufferRelease who | tmrCountWrite who
  | tmrCmpWrite who | tmrCmp1ShadowWrite who | tmrCaptureRead who | actSafeClear who | gpioSetWrite who | gpioClrWrite who | dmaStart who
  | dmaAbort who | mgmtAccessTimeout who | gclChangeWrite who | phyCtrlWrite who | ptpAdjWrite who | ptpNsLoRead who | msTxAnWrite who
  | drainRead who | ddrTrainStart who | ddrCfgEnable who | scTrainStart who | scRejoinWrite who | clPwrReqWrite who | pkgPwrReqWrite who
  | clVtrimWrite who | computeResetCmd who | clRstWrite who | coreRstPulseWrite who | coreRstHoldWrite who | imgPtrWrite who | imgDataWrite who
  | fuseProgWrite who | fltRaiseWrite who | fltRestored who | fltHalt who | fltRelease who | fltLogPopRead who | icClaimRead who
  | icCompleteWrite who | icMaskWrite who | icSwiSetWrite who | icSwiClrWrite who | ctxNextWrite who | attStart who | padEnWrite who => exact .access who _
  | mcStoreData who _ wr | mcDmData who _ wr | gtData who _ wr | fseqData who _ wr | flowData who _ wr | destData who _ wr | dtreeData who _ wr
  | xtagData who _ wr | itagData who _ wr | segData who _ wr | ruleData who _ wr | hotpixData who _ wr | ftData who _ wr | pollData who wr
  | lceData who wr | actData who wr | gclData who _ wr | msSaData who _ wr | aomData who wr | attData who wr =>
    cases wr with
    | some | none => exact .access who _
  | limData who _ wr =>
    cases wr with
    | write | read => exact .access who _

/-- Whatever its domain, a command answers a next state, and takes nothing from the queue and adds nothing to it. -/
theorem State.ActsIn.completes {s : State} {o : Out} (h : s.ActsIn o) : ∃ t, o = .next t ∧ t.pending = s.pending := by
  cases h with
  | clocked | alwaysOn | port | access => exact ⟨_, rfl, rfl⟩

/-- Settles O2: every command acts in one domain, and in each of them the answer is a next state with the queue as it was. -/
theorem everyCommandCompletes : Obligations.EveryCommandCompletes := by
  intro i s
  exact (exec_actsIn i s).completes

/-! ### The state after reset -/

/-- After reset no register is away from its table's value (19 R507). -/
@[simp] theorem reset_reg (r : Rg) (u : Nat) : State.reset.hw.reg r u = resetVal r u := rfl

/-- After reset no core is available (01 R21). -/
theorem reset_coreAvail (k : Nat) : State.reset.hw.coreAvail k = false := rfl

/-- After reset no context is resident (18 R483). -/
theorem reset_someResident : State.reset.hw.someResident = false := by decide

/-- The table's value of STEP_CTX_LEN is 1,000 µs for every context (02 R81). -/
theorem resetVal_stepCtxLen (n : Fin 16) : resetVal (STEP_CTX_LEN n) 0 = 1000#32 := by decide +revert

/-- The table's value of ETYPE is 0x88B5 for every port (13 R379). -/
theorem resetVal_etype (q : Nat) : resetVal ETYPE q = 0x88B5#32 := rfl

/-- Settles O5: the state after reset lists no register, no byte and no unit, so each reads as its default. -/
theorem resetLeavesTableValues : Obligations.ResetLeavesTableValues := by
  refine ⟨rfl, rfl, rfl, rfl, reset_reg, reset_coreAvail, reset_someResident, fun n => ?_, fun q => ?_⟩
  · rw [reset_reg, resetVal_stepCtxLen]
  · rw [Hw.fld, reset_reg, resetVal_etype]
    decide

end Sys2Proof.Machine
end

section
/-! SUPPORT. Core commands of a step (01 R43, 02 R65, R79, 03 R95, R102, 15 R414) and the writes that change the shape of cores and clusters
(01 R53, 03 R106): what the operations of the integrate phase do under plain conditions, and the statements on them. -/

namespace Sys2Proof.Machine

/-! ### Keyed lists written twice -/

section
variable {ν : Type}

theorem Tbl.put_put (t : Tbl ν) (k : Nat) (v w : ν) : Tbl.put (Tbl.put t k v) k w = Tbl.put t k w := by
  induction t with
  | nil => simp [Tbl.put]
  | cons p r ih =>
    obtain ⟨j, x⟩ := p
    by_cases hlt : k < j
    · simp [Tbl.put, hlt]
    · by_cases hj : j = k
      · simp [Tbl.put, hj]
      · simp [Tbl.put, hlt, hj, ih]

theorem Tbl.del_put (t : Tbl ν) (k : Nat) (v : ν) : Tbl.del (Tbl.put t k v) k = Tbl.del t k := by
  induction t with
  | nil => simp [Tbl.put, Tbl.del]
  | cons p r ih =>
    obtain ⟨j, x⟩ := p
    simp only [Tbl.del] at ih
    by_cases hlt : k < j
    · simp [Tbl.put, Tbl.del, hlt]
    · by_cases hj : j = k
      · simp [Tbl.put, Tbl.del, hj]
      · simp [Tbl.put, Tbl.del, hlt, hj, ih]

variable [DecidableEq ν]

/-- Of two writes of a key the later one counts. (A first write of the default unlists every entry of the key, which in a list that is not in
canonical form are several.) -/
theorem Tbl.set_set (d : ν) (t : Tbl ν) (k : Nat) {v : ν} (w : ν) (hv : v ≠ d) : Tbl.set d (Tbl.set d t k v) k w = Tbl.set d t k w := by
  simp only [Tbl.set, hv, if_false, Tbl.del_put, Tbl.put_put]

/-- Writing a key again with the same value changes nothing. -/
theorem Tbl.set_set_same (d : ν) (t : Tbl ν) (k : Nat) (v : ν) : Tbl.set d (Tbl.set d t k v) k v = Tbl.set d t k v := by
  by_cases hv : v = d
  · simp [Tbl.set, hv, Tbl.del]
  · exact Tbl.set_set d t k v hv

end

/-! ### Two updates of one core -/

theorem updCore_updCore (h : Hw) (k : Nat) (f g : CoreSt → CoreSt) (hf : f (h.core k) ≠ {}) :
    (h.updCore k f).updCore k g = h.updCore k fun c => g (f c) := by
  rw [Hw.updCore, core_updCore, if_pos rfl]
  simp only [Hw.updCore, Hw.setCore]
  rw [Tbl.set_set _ _ _ _ hf]

theorem updCore_updCore_self (h : Hw) (k : Nat) (f g : CoreSt → CoreSt) (hg : g (f (h.core k)) = f (h.core k)) :
    (h.updCore k f).updCore k g = h.updCore k f := by
  rw [Hw.updCore, core_updCore, if_pos rfl, hg]
  simp only [Hw.updCore, Hw.setCore]
  rw [Tbl.set_set_same]

/-- An available core is listed: its state is not the default. -/
theorem ne_default_of_avail {c : CoreSt} (hc : c.avail = true) : c ≠ {} := by
  rintro rfl
  simp at hc

theorem core_avail_of_coreAvail {h : Hw} {k : Nat} (ha : h.coreAvail k = true) : (h.core k).avail = true := by
  rw [Hw.coreAvail, Bool.and_eq_true] at ha
  exact ha.1

/-! ### What an update of a core leaves of mapping and layout -/

section
variable (h : Hw) (k j : Nat) (f : CoreSt → CoreSt)

@[simp] theorem updCore_reg (r : Rg) (u : Nat) : (h.updCore k f).reg r u = h.reg r u := rfl
@[simp] theorem updCore_cl (c : Nat) : (h.updCore k f).cl c = h.cl c := rfl
@[simp] theorem updCore_mapOf : (h.updCore k f).mapOf j = h.mapOf j := rfl
@[simp] theorem updCore_paired : (h.updCore k f).paired j = h.paired j := rfl
@[simp] theorem updCore_hostOf : (h.updCore k f).hostOf j = h.hostOf j := rfl
@[simp] theorem updCore_sliceTgt (i : Nat) : (h.updCore k f).sliceTgt j i = h.sliceTgt j i := rfl
@[simp] theorem updCore_unitSlices : (h.updCore k f).unitSlices j = h.unitSlices j := rfl
@[simp] theorem updCore_anyMc : (h.updCore k f).anyMc j = h.anyMc j := rfl
@[simp] theorem updCore_sealDue : (h.updCore k f).sealDue j = h.sealDue j := rfl

@[simp] theorem setReg_core (r : Rg) (u : Nat) (v : Word) : (h.setReg r u v).core j = h.core j := rfl
@[simp] theorem setReg_paired (r : Rg) (u : Nat) (v : Word) : (h.setReg r u v).paired j = h.paired j := rfl

/-- A register and a core are written in either order. -/
theorem updCore_setReg (r : Rg) (u : Nat) (v : Word) : (h.setReg r u v).updCore k f = (h.updCore k f).setReg r u v := rfl

end

/-- Availability follows the bits of the core and of its cluster. -/
theorem coreAvail_updCore (h : Hw) (k : Nat) (f : CoreSt → CoreSt) (hf : (f (h.core k)).avail = (h.core k).avail) :
    (h.updCore k f).coreAvail k = h.coreAvail k := by
  simp [Hw.coreAvail, hf]

/-! ### Warm and wake (15 R414, 02 R79) -/

/-- A core whose integrate phase has ended, and which has nothing queued and pages nothing, enters Warm. -/
theorem warmEntry_idle (h : Hw) (k : Core) (hrun : (h.core k).eng.running = false) (hl : (h.core k).listq = []) (he : (h.core k).evq = [])
    (hp : (h.core k).paging = false) (hs : (h.core k).integ.stage = .finished) :
    h.warmEntry (.core k) = h.updCore k fun x => { x with warm := true } := by
  simp [Hw.warmEntry, hrun, hl, he, hp, hs]

/-- An offer to an available core that is awake and has no list queued is queued; a high-water mark above 0 stays. -/
theorem offerCore_first (h : Hw) (k : Nat) (o : Offer) (ha : h.coreAvail k = true) (hw : (h.core k).warm = false) (hl : (h.core k).listq = [])
    (hm : 0 < (h.reg LISTQ_HWM k).toNat) : h.offerCore k o = h.updCore k fun x => { x with listq := x.listq ++ [o] } := by
  have hmark : ¬ (h.reg LISTQ_HWM k).toNat < 1 := by omega
  simp [Hw.offerCore, Hw.hwm, ha, hw, hl, hmark]

theorem wakeDone_one (h : Hw) (k : Nat) (o : Offer) (ha : h.coreAvail k = true) (hh : (h.core k).held = [o]) (hl : (h.core k).listq = [])
    (hm : 0 < (h.reg LISTQ_HWM k).toNat) :
    h.wakeDone k = (h.updCore k fun x => { x with warm := false, held := [] }).updCore k fun x => { x with listq := x.listq ++ [o] } := by
  simp only [Hw.wakeDone, hh, List.foldl_cons, List.foldl_nil]
  apply offerCore_first
  · rw [coreAvail_updCore _ _ _ rfl, ha]
  · simp
  · simpa using hl
  · exact hm

/-! ### The start of a quiet core (03 R95) -/

/-- Whether a core has anything to integrate reads of its state QUIET, the touched slots and the trigger alone. -/
theorem nothingToDo_updCore (h : Hw) (k : Nat) (f : CoreSt → CoreSt) (hq : (f (h.core k)).quiet = (h.core k).quiet)
    (ht : (f (h.core k)).touched = (h.core k).touched) (hn : (f (h.core k)).trigNow = (h.core k).trigNow) :
    (h.updCore k f).nothingToDo k = h.nothingToDo k := by
  have hd : (h.updCore k f).denseDue k = h.denseDue k := by
    simp only [Hw.denseDue, core_updCore, if_true, hn]
    rfl
  simp only [Hw.nothingToDo, core_updCore, if_true, hq, ht, hd, updCore_anyMc, updCore_unitSlices, updCore_sealDue]
  rfl

/-- A core with nothing to integrate has finished as it begins: the skip is counted, and the phase reports 8 cycles. -/
theorem integBegin_quiet (h : Hw) (k : Nat) (hlive : h.live k = k) (ha : h.coreAvail k = true)
    (hn : (h.updCore k fun x => { x with warm := false }).nothingToDo k = true) :
    h.integBegin k =
      ((((h.updCore k fun x => { x with warm := false }).updCore k fun x =>
        { x with integ := { begun := max h.step.dclosedAt (h.core k).eng.freeAt, stage := .finished } }).inc QUIET_SKIP_CNT k).setReg CORE_INTEG_CYC k
          8#32) := by
  have hav := core_avail_of_coreAvail ha
  have hn' : (h.updCore k fun x =>
      { x with warm := false, integ := { begun := max h.step.dclosedAt (h.core k).eng.freeAt } }).nothingToDo k = true := by
    rw [nothingToDo_updCore _ _ _ rfl rfl rfl, ← hn, nothingToDo_updCore _ _ _ rfl rfl rfl]
  simp only [Hw.integBegin, hlive, hn', if_true, Hw.setStage, Hw.inc, updCore_setReg, updCore_reg]
  rw [updCore_updCore _ _ _ _ (ne_default_of_avail hav), updCore_updCore _ _ _ _ (ne_default_of_avail hav)]

/-- An available unit of its own that waits for nothing begins its integrate phase when it is told to. -/
theorem integStart_begins (h : Hw) (k : Nat) (hph : h.step.phase = .integrate) (ha : h.coreAvail k = true) (hhost : h.hostOf k = k)
    (hlive : h.live k = k) (hd : (h.core k).done = false) (hs : (h.core k).integ.stage = .idle) (hrun : (h.core k).eng.running = false)
    (he : (h.core k).evq = []) (hp : (h.core k).paging = false) : h.integStart k = h.integBegin k := by
  simp [Hw.integStart, hph, ha, hhost, hlive, hd, hs, hrun, he, hp]

/-! ### Egress (03 R102) -/

/-- A unit whose phase has ended, and whose resident core waits for no room in its egress buffer, has nothing to go on with. -/
theorem integGo_finished (h : Hw) (u : Nat) (hs : (h.core u).integ.stage = .finished) (hw : h.waited EGRESS_STALL_CNT (h.live u) = 0) :
    h.integGo u = h := by
  simp [Hw.integGo, Hw.egressGo, hw, hs]

/-- Events that join a local port leave what the integrate phase of a unit reads of cores, waits and mapping. -/
structure SameUnits (h t : Hw) : Prop where
  regs : t.regs = h.regs
  cores : t.cores = h.cores
  waits : t.waits = h.waits
  mapOf : ∀ j, t.mapOf j = h.mapOf j

theorem SameUnits.refl (h : Hw) : SameUnits h h := ⟨rfl, rfl, rfl, fun _ => rfl⟩

theorem SameUnits.trans {a b c : Hw} (x : SameUnits a b) (y : SameUnits b c) : SameUnits a c :=
  ⟨y.regs.trans x.regs, y.cores.trans x.cores, y.waits.trans x.waits, fun j => (y.mapOf j).trans (x.mapOf j)⟩

theorem SameUnits.core {h t : Hw} (e : SameUnits h t) (k : Nat) : t.core k = h.core k := by rw [Hw.core, e.cores]; rfl

theorem SameUnits.paired {h t : Hw} (e : SameUnits h t) (u : Nat) : t.paired u = h.paired u := by rw [Hw.paired, e.mapOf]; rfl

theorem SameUnits.pairHost {h t : Hw} (e : SameUnits h t) (u : Nat) : t.pairHost u = h.pairHost u := by rw [Hw.pairHost, e.mapOf]; rfl

theorem SameUnits.partner {h t : Hw} (e : SameUnits h t) (u : Nat) : t.partner u = h.partner u := by rw [Hw.partner, e.mapOf]; rfl

theorem SameUnits.hostOf {h t : Hw} (e : SameUnits h t) (u : Nat) : t.hostOf u = h.hostOf u := by
  simp only [Hw.hostOf, e.paired, e.pairHost, e.partner]

theorem SameUnits.live {h t : Hw} (e : SameUnits h t) (u : Nat) : t.live u = h.live u := by
  simp only [Hw.live, Hw.sliceTgt, e.paired, e.partner, e.core]

theorem SameUnits.waited {h t : Hw} (e : SameUnits h t) (r : Rg) (u : Nat) : t.waited r u = h.waited r u := by rw [Hw.waited, e.waits]; rfl

theorem sameUnits_portIn (h : Hw) (c rank : Nat) (e : Ev) : SameUnits h (h.portIn c rank e) := by
  refine ⟨rfl, rfl, rfl, fun j => ?_⟩
  simp only [Hw.mapOf, Hw.portIn, cl_updCl]
  split <;> simp_all

theorem sameUnits_portIns (c rank : Nat) (l : List Ev) (h : Hw) : SameUnits h (l.foldl (fun h e => h.portIn c rank e) h) := by
  induction l generalizing h with
  | nil => exact .refl h
  | cons e r ih => exact (sameUnits_portIn h c rank e).trans (ih _)

/-- Which image is resident in a unit depends of the cores' states on RESIDENT alone. -/
theorem live_updCore (h : Hw) (k u : Nat) (f : CoreSt → CoreSt) (hf : (f (h.core k)).resident = (h.core k).resident) :
    (h.updCore k f).live u = h.live u := by
  simp only [Hw.live, updCore_sliceTgt, core_updCore]
  split
  · rename_i hk; rw [hf, hk]
  · rfl

/-- The handoff of a core whose unit has finished: its events leave the buffer and join the port, and nothing goes on with them. -/
theorem egressHandoff_finished (h : Hw) (k : Nat) (hph : h.step.phase = .integrate) (ha : h.coreAvail k = true)
    (hs : (h.core (h.hostOf k)).integ.stage = .finished) (hw : h.waited EGRESS_STALL_CNT (h.live (h.hostOf k)) = 0) :
    h.egressHandoff k =
      ((h.core k).egress.take (min 2 (portDepth - (h.cl (k / 32)).port.length))).foldl (fun h e => h.portIn (k / 32) (k % 32) e)
        (h.updCore k fun x => { x with egress := x.egress.drop (min 2 (portDepth - (h.cl (k / 32)).port.length)) }) := by
  simp only [Hw.egressHandoff, hph, ha]
  rw [if_neg (by simp)]
  generalize min 2 (portDepth - (h.cl (k / 32)).port.length) = n
  have hsame := sameUnits_portIns (k / 32) (k % 32) ((h.core k).egress.take n) (h.updCore k fun x => { x with egress := x.egress.drop n })
  generalize ((h.core k).egress.take n).foldl (fun h e => h.portIn (k / 32) (k % 32) e)
    (h.updCore k fun x => { x with egress := x.egress.drop n }) = t at hsame
  rw [hsame.hostOf, updCore_hostOf]
  apply integGo_finished
  · rw [hsame.core, core_updCore]
    split
    · rename_i hk; simpa [← hk] using hs
    · exact hs
  · rw [hsame.waited, hsame.live, live_updCore _ _ _ _ (by rfl)]
    exact hw

/-! ### Slice swaps (01 R43) -/

/-- No entry waits for a slice: nothing is replayed. -/
theorem replay_none (h : Hw) (u i : Nat) (hp : h.paired u = false) (hi : ((h.core u).inbox.filter fun e => e.slice == i) = []) :
    h.replay u i = (h, none) := by
  have htgt : h.sliceTgt u i = (u, i) := by simp [Hw.sliceTgt, hp]
  rw [Hw.replay, htgt, hi]
  rfl

/-- A forced step left no treatment for a slice: only the entry of what is left is rewritten. -/
theorem treatLeft_none (h : Hw) (u i : Nat) (hl : ((h.core u).left.filter fun x => x.1 == i) = []) :
    h.treatLeft u i = h.updCore u fun c => { c with left := c.left.filter fun x => x.1 != i } := by
  simp only [Hw.treatLeft, hl, List.foldl_nil]
  rfl

/-- The slices of unit u that is no pair have been copied: the resident one out to its place, and slice i in. -/
def Hw.slicesCopied (h : Hw) (u i : Nat) : Hw :=
  (h.copy (coreBase u) (sliceBase h.ctx u (h.core u).resident) (64 * h.sliceSize u)).copy (sliceBase h.ctx u i) (coreBase u) (64 * h.sliceSize u)

@[simp] theorem slicesCopied_core (h : Hw) (u i k : Nat) : (h.slicesCopied u i).core k = h.core k := rfl
@[simp] theorem slicesCopied_paired (h : Hw) (u i k : Nat) : (h.slicesCopied u i).paired k = h.paired k := rfl

/-- A swap of a unit that is no pair copies the images and counts one image, or two of 2,048 neurons (01 R43, R52). -/
theorem swapImage_unpaired (h : Hw) (u i : Nat) (hp : h.paired u = false) :
    h.swapImage u i =
      ((h.slicesCopied u i).updCore u fun c => { c with resident := i, paging := false }).setReg SLICE_SWAP_CNT u
        (satAdd32 (h.reg SLICE_SWAP_CNT u) (if h.sliceSize u = 2048 then 2 else 1)) := by
  have hp' : (h.slicesCopied u i).paired u = false := hp
  simp only [Hw.slicesCopied] at hp' ⊢
  simp only [Hw.swapImage, hp, hp', Bool.false_eq_true, if_false, false_or, Hw.inc, updCore_setReg]
  rfl

/-- Taking the entries of a slice out of an inbox that holds none changes nothing. -/
theorem filter_inbox_of_none (l : List InboxEnt) (i : Nat) (hl : (l.filter fun e => e.slice == i) = []) : (l.filter fun e => e.slice != i) = l := by
  rw [List.filter_eq_nil_iff] at hl
  rw [List.filter_eq_self]
  intro e he
  simpa using hl e he

theorem updCore_inbox_of_none (h : Hw) (k i : Nat) (f : CoreSt → CoreSt) (hf : (f (h.core k)).inbox = (h.core k).inbox)
    (hi : ((h.core k).inbox.filter fun e => e.slice == i) = []) :
    ((h.updCore k f).updCore k fun c => { c with inbox := c.inbox.filter fun e => e.slice != i }) = h.updCore k f :=
  updCore_updCore_self _ _ _ _ (by rw [filter_inbox_of_none _ _ (hf ▸ hi)])

/-- A swap that no unit's phase waits for, for a slice that nothing waits for and that no forced step left, is the swap of the images. -/
theorem swapDone_unawaited (h : Hw) (u : Nat) (hpg : (h.core u).paging = true) (hs : (h.core u).integ.stage = .idle) (hp : h.paired u = false)
    (hl : ((h.core u).left.filter fun x => x.1 == (h.core u).pageTo) = [])
    (hi : ((h.core u).inbox.filter fun e => e.slice == (h.core u).pageTo) = []) :
    h.swapDone u =
      ((((h.slicesCopied u (h.core u).pageTo).updCore u fun c => { c with resident := (h.core u).pageTo, paging := false }).updCore u
        fun c => { c with left := c.left.filter fun x => x.1 != (h.core u).pageTo }).updCore u
        fun c => { c with inbox := c.inbox.filter fun e => e.slice != (h.core u).pageTo }).setReg SLICE_SWAP_CNT u
        (satAdd32 (h.reg SLICE_SWAP_CNT u) (if h.sliceSize u = 2048 then 2 else 1)) := by
  generalize hto : (h.core u).pageTo = i at hl hi ⊢
  have hswap : h.swapDone u = (((h.swapImage u i).treatLeft u i).replay u i).1 := by
    simp [Hw.swapDone, hpg, hs, hp, hto]
  rw [hswap, swapImage_unpaired _ _ _ hp, treatLeft_none, replay_none, updCore_inbox_of_none _ _ _ _ rfl]
  · rfl
  · simpa using hi
  · exact hp
  · simpa using hi
  · simpa using hl

/-! ### Done (02 R65) -/

/-- Where no wait is counted, time that passes moves device time and PTP time and nothing else. -/
theorem advTo_of_noWaits (h : Hw) (t : Nat) (hw : h.waits = []) : ∃ d p, h.advTo t = { h with dev := d, ptp := p } := by
  unfold Hw.advTo
  split
  · refine ⟨t, h.ptp + (t - h.dev) * (h.reg PTP_INC).toNat, ?_⟩
    simp only [Hw.countWaits, hw, List.foldl_nil]
  · exact ⟨h.dev, h.ptp, rfl⟩

/-- Where a cluster's done follows a core's, nothing else changes. -/
theorem settleDone_frame (h : Hw) (c : Nat) :
    (h.settleDone c).cores = h.cores ∧ (h.settleDone c).regs = h.regs ∧ (h.settleDone c).step = h.step ∧
      ∀ d, d ≠ c → (h.settleDone c).cl d = h.cl d := by
  unfold Hw.settleDone
  split
  · exact ⟨rfl, rfl, rfl, fun d hd => by rw [cl_updCl, if_neg (Ne.symm hd)]⟩
  · exact ⟨rfl, rfl, rfl, fun _ _ => rfl⟩

/-- A core that may raise done raises it, and of the rest only time and its own cluster's done move. -/
theorem coreDone_frame (h : Hw) (k : Nat) (hm : h.mayBeDone k = true) (hw : h.waits = []) :
    (h.coreDone k).core k = { h.core k with done := true } ∧ (∀ j, j ≠ k → (h.coreDone k).core j = h.core j) ∧
      (∀ c, c ≠ k / 32 → (h.coreDone k).cl c = h.cl c) ∧ (h.coreDone k).step = h.step ∧ ∀ r u, (h.coreDone k).reg r u = h.reg r u := by
  obtain ⟨d, p, ht⟩ := advTo_of_noWaits h (h.doneAt k) hw
  have hdone : h.coreDone k = (({ h with dev := d, ptp := p } : Hw).updCore k fun c => { c with done := true }).settleDone (k / 32) := by
    rw [Hw.coreDone, if_pos hm, ht]
  obtain ⟨hcores, hregs, hstep, hcl⟩ :=
    settleDone_frame (({ h with dev := d, ptp := p } : Hw).updCore k fun c => { c with done := true }) (k / 32)
  rw [← hdone] at hcores hregs hstep hcl
  have hcore (j : Nat) : (h.coreDone k).core j = if k = j then { h.core k with done := true } else h.core j := by
    rw [Hw.core, hcores]
    exact core_updCore _ k j _
  refine ⟨?_, fun j hj => ?_, hcl, hstep, fun r u => reg_of_regs _ _ r u hregs⟩
  · rw [hcore, if_pos rfl]
  · rw [hcore, if_neg (Ne.symm hj)]

/-- Settles O18: each command is its operation on the block, and each clause is the law of that operation under the clause's conditions. -/
theorem coreStepCommands : Obligations.CoreStepCommands := by
  refine ⟨?warm, ?wake, ?start, ?egress, ?swap, ?done⟩
  case warm =>
    intro s k hp hrun hl he hpg hs
    refine answers_onHw (f := fun h => h.warmEntry (.core k)) rfl hp ?_
    rw [warmEntry_idle _ _ hrun hl he hpg hs]
    exact .intro _ _ rfl
  case wake =>
    intro s k o hp ha hh hl hm
    refine answers_onHw (f := fun h => h.wakeDone k) rfl hp ?_
    rw [wakeDone_one _ _ _ ha hh hl hm]
    exact .intro _ _ rfl
  case start =>
    intro s k hp hph ha hhost hlive hd hs hrun he hpg hn
    refine answers_onHw (f := fun h => h.integStart k) rfl hp ?_
    rw [integStart_begins _ _ hph ha hhost hlive hd hs hrun he hpg, integBegin_quiet _ _ hlive ha hn]
    exact (Hw.Now.one _ _ rfl _ _ _).set _ _ _
  case egress =>
    intro s k hp hph ha hs hw
    refine answers_onHw (f := fun h => h.egressHandoff k) rfl hp ?_
    rw [egressHandoff_finished _ _ hph ha hs hw]
    exact .intro _ _ (sameUnits_portIns _ _ _ _).regs
  case swap =>
    intro s k i hp hpg hi hs hpair hl hin
    subst hi
    refine answers_onHw (f := fun h => h.swapDone k) rfl hp ?_
    rw [swapDone_unawaited _ _ hpg hs hpair hl hin]
    exact .one _ _ rfl _ _ _
  case done =>
    intro s k hp hm hw
    exact answers_onHw (f := fun h => h.coreDone k) rfl hp (coreDone_frame _ _ hm hw)

/-! ### Writes of SLICE_CFG and PHYS_RETIRE (01 R53, 03 R106) -/

/-- A write in whose cycle hardware sets nothing. -/
theorem regWrite_alone (h : Hw) (who : Requester) (p u off : Nat) (v : Word) : h.regWrite who p u off v = h.regPut who p u off v := by
  simp [Hw.regWrite]

theorem regWrite_sliceCfg (h : Hw) (who : Requester) (k : Nat) (v : Word) :
    h.regWrite who SLICE_CFG.page k SLICE_CFG.off v = h.sliceWrite k v := by
  rw [regWrite_alone]
  rfl

theorem regWrite_physRetireLo (h : Hw) (who : Requester) (c : Nat) (v : Word) :
    h.regWrite who PHYS_RETIRE_LO.page c PHYS_RETIRE_LO.off v = h.retireWrite c false v := by
  rw [regWrite_alone]
  rfl

/-- SLICE_CFG is closed while an available core's unit pages (01 R53). -/
theorem sliceWrite_paging (h : Hw) (k : Nat) (v : Word) (ha : h.coreAvail k = true) (hp : (h.core (h.hostOf k)).paging = true) :
    h.sliceWrite k v = h := by
  rw [Hw.sliceWrite, if_pos ⟨ha, hp⟩]

/-- Settles O21: the granted write reaches SLICE_CFG, which is closed, and nothing but the answer is left. -/
theorem sliceWriteIsClosedWhilePaging : Obligations.SliceWriteIsClosedWhilePaging := by
  intro s who k v hg ha hp
  refine answers_put (r := SLICE_CFG) (u := k) (v := v) rfl hg ?_
  rw [regWrite_sliceCfg, sliceWrite_paging _ _ _ ha hp]
  exact .intro _ _ rfl

/-- A step runs, and firmware has physical core 3 of cluster 0 among those it is to retire (03 R106). -/
def retireDueState : State :=
  { pending := []
    hw := { State.reset.hw with step := { State.reset.hw.step with phase := .delivery }, fw := { State.reset.hw.fw with retireDue := [3] } } }

theorem retireDueState_grants : retireDueState.Grants (.mp 0) PHYS_RETIRE_LO 0 true :=
  ⟨by decide, ⟨pgREMAP, 0, 0x0C0, some 0, none⟩, by decide, rfl, rfl, rfl, by decide, rfl⟩

theorem retireDueState_holds : retireDueState.hw.holds = false := by decide

/-- The write that retires core 3 takes it off the list of cores to retire. -/
theorem retireDueState_write : (retireDueState.hw.retireWrite 0 false 8#32).fw.retireDue = [] := by decide

/-- Refutes O22: a write of PHYS_RETIRE that retires a core which firmware had still to retire also takes that core off firmware's list of cores
to retire. The PHYS_RETIRE clause leaves that list as it was. The counterexample: core 3 of cluster 0 is on the list, and its bit is written. -/
theorem not_shapeRegistersTakeWrites : ¬ Obligations.ShapeRegistersTakeWrites := by
  rintro ⟨-, -, -, hretire, -⟩
  obtain ⟨t, ht, -, hnow, -⟩ := hretire retireDueState (.mp 0) 0 8#32 retireDueState_grants retireDueState_holds
  have hput : exec (.physRetireWrite (.mp 0) 0 false 8#32) retireDueState =
      .next { retireDueState with hw := (retireDueState.hw.retireWrite 0 false 8#32).told 0#32 } := by
    rw [← regWrite_physRetireLo _ (.mp 0)]
    exact put_granted retireDueState_grants 8#32
  rw [hput, Host.Outcome.next.injEq] at ht
  subst ht
  have hdue : (retireDueState.hw.retireWrite 0 false 8#32).fw.retireDue = [3] := congrArg (fun h => h.fw.retireDue) hnow
  rw [retireDueState_write] at hdue
  cases hdue

end Sys2Proof.Machine
end

section
/-! SUPPORT. Barrier tokens: what a token that is taken does, and the statement on them (02 R75, R76, 14 R397). -/

namespace Sys2Proof.Machine

/-! ### Folds that keep a projection -/

/-- What every step of a fold keeps, the fold keeps. -/
theorem foldl_keeps {α β γ : Type} (p : β → γ) (f : β → α → β) (hf : ∀ b a, p (f b a) = p b) (l : List α) (b : β) :
    p (l.foldl f b) = p b :=
  (List.foldl_hom p (g₂ := fun x _ => x) fun x a => (hf x a).symm).symm.trans (List.foldl_fixed _)

/-! ### Barrier tokens (02 R75, R76, 14 R397) -/

@[simp] theorem updLink_regs (h : Hw) (k : Nat) (f : LinkSt → LinkSt) : (h.updLink k f).regs = h.regs := rfl
@[simp] theorem updLink_step (h : Hw) (k : Nat) (f : LinkSt → LinkSt) : (h.updLink k f).step = h.step := rfl

/-- A token that is taken is its link's last one from then on. -/
abbrev Hw.tokenNoted (h : Hw) (k type tag : Nat) : Hw := h.updLink k fun l => { l with lastTok := some (type, tag) }

/-- A token of the step in progress is noted and does what its type says. -/
theorem takeToken_current {h : Hw} {k type tag : Nat} (f : Hw → Hw) (hup : h.scUp k = true) (hnew : (h.link k).lastTok ≠ some (type, tag))
    (ha : h.arrayEn = true) (htag : tag = h.stepTag) : h.takeToken k type tag f = f (h.tokenNoted k type tag) := by
  have hcur : ¬ ((h.tokenNoted k type tag).arrayEn = false ∨ tag ≠ (h.tokenNoted k type tag).stepTag) := by
    rintro (hoff | hother)
    · exact absurd (ha.symm.trans hoff) (by decide)
    · exact hother htag
  rw [Hw.takeToken, if_neg (by simp [hup, hnew])]
  exact if_neg hcur

/-- A token of another step, or outside an array, is noted and counted. -/
theorem takeToken_stale {h : Hw} {k type tag : Nat} (f : Hw → Hw) (hup : h.scUp k = true) (hnew : (h.link k).lastTok ≠ some (type, tag))
    (hstale : h.arrayEn = false ∨ tag ≠ h.stepTag) : h.takeToken k type tag f = (h.tokenNoted k type tag).inc TOKEN_STALE_CNT := by
  rw [Hw.takeToken, if_neg (by simp [hup, hnew])]
  exact if_pos hstale

/-- What goes out over a link writes no register. -/
theorem sendToken_regs (h : Hw) (d : Dir) (type tag : Nat) : (h.sendToken d type tag).regs = h.regs :=
  foldl_keeps Hw.regs (fun h k => h.send (.token k type tag)) (fun _ _ => rfl) _ h

@[simp] theorem forward_regs (h : Hw) (type tag : Nat) : (h.forward type tag).regs = h.regs :=
  foldl_keeps Hw.regs (fun h d => h.sendToken d type tag) (fun h d => sendToken_regs h d type tag) _ h

@[simp] theorem sendStepNum_regs (h : Hw) (n : Word) : (h.sendStepNum n).regs = h.regs :=
  foldl_keeps Hw.regs (fun h k => h.send (.stepb k n)) (fun _ _ => rfl) _ h

section
variable {h : Hw} {k tag : Nat} (hup : h.scUp k = true) (ha : h.arrayEn = true) (htag : tag = h.stepTag)
include hup ha htag

/-- Outside a rejoin the first POUR of a step is passed on, and the number of the step that begins after it. -/
theorem tokenPour_first (hnew : (h.link k).lastTok ≠ some (3, tag)) (hr : h.rejoining = false) (hfirst : h.step.pourTok = none) :
    h.tokenPour k tag =
      (((h.tokenNoted k 3 tag).forward 3 tag).sendStepNum (h.stepNum + 1#32)).updStep fun x => { x with pourTok := some h.dev } := by
  rw [Hw.tokenPour, if_neg (by simp [hr]), takeToken_current _ hup hnew ha htag, if_neg (by simp [hfirst])]
  rfl

theorem tokenPour_again (hnew : (h.link k).lastTok ≠ some (3, tag)) (hr : h.rejoining = false) (hagain : h.step.pourTok ≠ none) :
    h.tokenPour k tag = h.tokenNoted k 3 tag := by
  rw [Hw.tokenPour, if_neg (by simp [hr]), takeToken_current _ hup hnew ha htag,
    if_pos (by simpa [Option.isSome_iff_ne_none] using hagain)]

/-- The first DCLOSE of a step is passed on. -/
theorem tokenDclose_first (hnew : (h.link k).lastTok ≠ some (4, tag)) (hfirst : h.step.dcloseTok = none) :
    h.tokenDclose k tag = ((h.tokenNoted k 4 tag).forward 4 tag).updStep fun x => { x with dcloseTok := some h.dev } := by
  rw [Hw.tokenDclose, takeToken_current _ hup hnew ha htag, if_neg (by simp [hfirst])]
  rfl

theorem tokenDclose_again (hnew : (h.link k).lastTok ≠ some (4, tag)) (hagain : h.step.dcloseTok ≠ none) :
    h.tokenDclose k tag = h.tokenNoted k 4 tag := by
  rw [Hw.tokenDclose, takeToken_current _ hup hnew ha htag,
    if_pos (by simpa [Option.isSome_iff_ne_none] using hagain)]

end

/-- Settles O17: a token of the step in progress does its type's work once its link has noted it, and one of another step is counted. -/
theorem barrierTokens : Obligations.BarrierTokens := by
  refine ⟨?done, ?dquiet, ?pour, ?dclose, ?stale⟩
  case done =>
    intro s k g hp hup hnew ha htag
    refine answers_onHw (f := fun h => h.tokenDone k g.toNat) rfl hp ?_
    rw [Hw.tokenDone, takeToken_current _ hup hnew ha htag]
    exact .intro _ _ rfl
  case dquiet =>
    intro s k g hp hup hnew ha htag
    refine answers_onHw (f := fun h => h.tokenDquiet k g.toNat) rfl hp ?_
    rw [Hw.tokenDquiet, takeToken_current _ hup hnew ha htag]
    exact .intro _ _ rfl
  case pour =>
    intro s k g hp hup hnew ha hr htag
    constructor
    · intro hfirst
      refine answers_onHw (f := fun h => h.tokenPour k g.toNat) rfl hp ?_
      rw [tokenPour_first hup ha htag hnew hr hfirst]
      exact .intro _ _ (by simp)
    · intro hagain
      refine answers_onHw (f := fun h => h.tokenPour k g.toNat) rfl hp ?_
      rw [tokenPour_again hup ha htag hnew hr hagain]
      exact .intro _ _ rfl
  case dclose =>
    intro s k g hp hup hnew ha htag
    constructor
    · intro hfirst
      refine answers_onHw (f := fun h => h.tokenDclose k g.toNat) rfl hp ?_
      rw [tokenDclose_first hup ha htag hnew hfirst]
      exact .intro _ _ (by simp)
    · intro hagain
      refine answers_onHw (f := fun h => h.tokenDclose k g.toNat) rfl hp ?_
      rw [tokenDclose_again hup ha htag hnew hagain]
      exact .intro _ _ rfl
  case stale =>
    intro s k g hp hup hnew hstale
    refine answers_onHw (f := fun h => h.tokenDone k g.toNat) rfl hp ?_
    rw [Hw.tokenDone, takeToken_stale _ hup hnew hstale]
    exact .one _ _ rfl _ _ _

end Sys2Proof.Machine
end

section
/-! SUPPORT. The closes of a step's phases and its advance: the work that leaves the step machine alone, what is left of each close and of the
advance, and the statement on them (02 R56, R62, R64, R66, R68, R83). -/

namespace Sys2Proof.Machine

/-! ### Work that leaves the step machine alone -/

/-- What is found under a key is listed there. -/
theorem Tbl.mem_of_find {ν : Type} {t : Tbl ν} {k : Nat} {v : ν} (hf : Tbl.find t k = some v) : (k, v) ∈ t := by
  induction t with
  | nil => cases hf
  | cons p r ih =>
    rw [Tbl.find] at hf
    split at hf
    · obtain rfl := Option.some.inj hf
      subst_vars
      exact List.mem_cons_self
    · exact List.mem_cons_of_mem _ (ih hf)

/-- What the step machine goes by in its own pages: the control and number of the step, the contexts' timing and policy, and the context page. The
counters between them are results. -/
def Rg.steers (r : Rg) : Bool := r.page == pgCTX || (r.page == pgSTEP && (decide (r.off < 0x048) || decide (0x080 ≤ r.off)))

/-- No wait in progress counts in a register that the step machine goes by. -/
def Hw.WaitsApart (h : Hw) : Prop := ∀ p ∈ h.waits, Rg.steers ⟨p.2.page, p.2.off⟩ = false

/-- From h to t the step, device time and what the step machine goes by stay. -/
structure Calm (h t : Hw) : Prop where
  step : t.step = h.step
  dev : t.dev = h.dev
  pkg : t.pkg = h.pkg
  waits : h.WaitsApart → t.WaitsApart
  regs : h.WaitsApart → ∀ r u, r.steers = true → t.reg r u = h.reg r u

/-- The parts of the block that a calm change is about. -/
def Hw.stepPart (h : Hw) : StepSt × Nat × PkgSt × Tbl Wait × Tbl Word := (h.step, h.dev, h.pkg, h.waits, h.regs)

theorem Hw.WaitsApart.of_nil {h : Hw} (hw : h.waits = []) : h.WaitsApart := by simp [Hw.WaitsApart, hw]

theorem Hw.WaitsApart.find {h : Hw} (hapart : h.WaitsApart) {key : Nat} {w : Wait} (hf : Tbl.find h.waits key = some w) :
    Rg.steers ⟨w.page, w.off⟩ = false :=
  hapart (key, w) (Tbl.mem_of_find hf)

namespace Calm

theorem refl (h : Hw) : Calm h h := ⟨rfl, rfl, rfl, id, fun _ _ _ _ => rfl⟩

theorem trans {a b c : Hw} (x : Calm a b) (y : Calm b c) : Calm a c :=
  ⟨y.step.trans x.step, y.dev.trans x.dev, y.pkg.trans x.pkg, fun w => y.waits (x.waits w),
    fun w r u hr => (y.regs (x.waits w) r u hr).trans (x.regs w r u hr)⟩

theorem ite {h a b : Hw} {p : Prop} [Decidable p] (ha : Calm h a) (hb : Calm h b) : Calm h (if p then a else b) := by
  split
  · exact ha
  · exact hb

/-! #### Elementary updates -/

section
variable {h t : Hw} (c : Calm h t)
include c

/-- A change of other parts of the block. -/
theorem frame {t' : Hw} (e : t'.stepPart = t.stepPart) : Calm h t' := by
  simp only [Hw.stepPart, Prod.mk.injEq] at e
  obtain ⟨hstep, hdev, hpkg, hwaits, hregs⟩ := e
  exact c.trans ⟨hstep, hdev, hpkg, fun w => by rwa [Hw.WaitsApart, hwaits], fun _ r u _ => reg_of_regs _ _ r u hregs⟩

theorem foldl {α : Type} {f : Hw → α → Hw} (hf : ∀ x a, Calm x (f x a)) (l : List α) : Calm h (l.foldl f t) := by
  induction l generalizing t with
  | nil => exact c
  | cons a r ih => exact ih (c.trans (hf t a))

theorem setReg (r : Rg) (u : Nat) (v : Word) (hr : r.steers = false := by rfl) : Calm h (t.setReg r u v) :=
  c.trans ⟨rfl, rfl, rfl, id, fun _ r' u' hr' => reg_setReg_ne _ _ _ _ _ _ fun e => by simp [e.1, hr'] at hr⟩

theorem setFld (r : Rg) (u hi lo v : Nat) (hr : r.steers = false := by rfl) : Calm h (t.setFld r u hi lo v) := c.setReg r _ _ hr

theorem setFlag (r : Rg) (u i : Nat) (b : Bool) (hr : r.steers = false := by rfl) : Calm h (t.setFlag r u i b) := c.setReg r _ _ hr

theorem inc (r : Rg) (u n : Nat) (hr : r.steers = false := by rfl) : Calm h (t.inc r u n) := c.setReg r _ _ hr

theorem hwm (r : Rg) (u n : Nat) (hr : r.steers = false := by rfl) : Calm h (t.hwm r u n) := .ite (c.setReg r _ _ hr) c

theorem updCl (k : Nat) (f : ClusterSt → ClusterSt) : Calm h (t.updCl k f) := c.frame rfl
theorem updCore (k : Nat) (f : CoreSt → CoreSt) : Calm h (t.updCore k f) := c.frame rfl
theorem setCore (k : Nat) (v : CoreSt) : Calm h (t.setCore k v) := c.frame rfl
theorem updAct (k : Nat) (f : ActSt → ActSt) : Calm h (t.updAct k f) := c.frame rfl
theorem updEth (q : Nat) (f : EthSt → EthSt) : Calm h (t.updEth q f) := c.frame rfl
theorem updIng (q : Nat) (f : IngSt → IngSt) : Calm h (t.updIng q f) := c.frame rfl
theorem updTmr (k : Nat) (f : TmrSt → TmrSt) : Calm h (t.updTmr k f) := c.frame rfl
theorem setTab (b : Tab) (u i : Nat) (v : Word) : Calm h (t.setTab b u i v) := c.frame rfl
theorem setWord (a : Nat) (v : Word) : Calm h (t.setWord a v) := c.frame rfl
theorem copy (a b n : Nat) : Calm h (t.copy a b n) := c.frame rfl
theorem zero (a n : Nat) : Calm h (t.zero a n) := c.frame rfl
theorem raise (src : Nat) (u : FUnit) : Calm h (t.raise src u) := c.frame rfl
theorem fire (src : Nat) : Calm h (t.fire src) := c.frame rfl
theorem setInjs (l : Tbl InjSt) : Calm h { t with injs := l } := c.frame rfl
theorem setPtpPrev (n : Nat) : Calm h { t with ptpPrev := n } := c.frame rfl

/-! #### Waits -/

theorem countWait {key : Nat} {w : Wait} (hw : t.WaitsApart → Rg.steers ⟨w.page, w.off⟩ = false) (n : Nat) : Calm h (t.countWait key w n) := by
  refine ite c (c.trans ⟨rfl, rfl, rfl, fun hapart p hp => ?_, fun hapart => ((refl t).inc _ _ _ (hw hapart)).regs hapart⟩)
  obtain rfl | hold := Tbl.mem_put _ _ _ _ hp
  · exact hw hapart
  · exact hapart p hold

/-- A wait that begins, or goes on, for a counter that steers nothing. -/
theorem waitOn (r : Rg) (u per who : Nat) (hr : r.steers = false := by rfl) : Calm h (t.waitOn r u per who) := by
  refine c.countWait (fun hapart => ?_) _
  cases hfound : Tbl.find t.waits (waitKey r u who) with
  | none => exact hr
  | some w => exact hapart.find hfound

theorem waitOff (r : Rg) (u who : Nat) : Calm h (t.waitOff r u who) := by
  unfold Hw.waitOff
  split
  · exact c.trans ⟨rfl, rfl, rfl, fun hapart p hp => hapart p (List.mem_of_mem_filter hp), fun _ _ _ _ => rfl⟩
  · exact c

/-! #### Delivery close (02 R62, R64, R80) -/

theorem holdResidue (k : Nat) : Calm h (t.holdResidue k) := .ite c (c.updCl _ _)

theorem settleDone (k : Nat) : Calm h (t.settleDone k) := .ite (c.updCl _ _) c

theorem fabricClose : Calm h t.fabricClose := by
  unfold Hw.fabricClose
  refine c.foldl (fun x p => ?_) _
  refine .ite ?_ (holdResidue (.ite ?_ (updCl (inc ?_ SLOT_ERR_CNT _ _) _ _)) _) <;> exact .ite (refl x) ((refl x).updCl _ _)

theorem actShadow (k : Nat) (v : Word) : Calm h (t.actShadow k v) := ((c.updAct _ _).setReg _ _ _).updAct _ _

theorem actUpdate : Calm h t.actUpdate := by
  unfold Hw.actUpdate
  refine c.foldl (fun x k => ?_) (List.range 16)
  have hgot := ite (p := (x.act k).got = true) ((refl x).updAct k fun s => { s with since := x.dev }) (refl x)
  have hlast (e d : Int) (v : Word) := (ite (p := e = d) hgot (hgot.inc ACT_CLAMP_CNT 0 1)).setReg (ACT_LAST k) 0 v
  exact .ite (updAct (.ite (.ite (hlast _ _ _) (((hlast _ _ _).inc ACT_UPD_CNT _ _).actShadow _ _)) hgot) _ _) (refl x)

theorem txPush (q tq : Nat) (f : TxFrame) : Calm h (t.txPush q tq f) := .ite (c.inc _ _ _) (.ite (c.updEth _ _) (c.updEth _ _))

theorem refPump (q n : Nat) : Calm h (t.refPump q n) := by
  induction n generalizing t with
  | zero => exact c
  | succ n ih =>
    rw [Hw.refPump]
    split
    · exact c
    · exact .ite c (ih ((c.updEth _ _).txPush _ _ _))

theorem refClose (q : Nat) : Calm h (t.refClose q) := (c.updEth _ _).refPump _ _

theorem roastLate (k : Nat) : Calm h (t.roastLate k) := .ite (c.updCl _ _) c

theorem denseRanClear (k : Nat) : Calm h (t.denseRanClear k) := .ite (c.setFlag _ _ _ _) c

theorem wakeAll : Calm h t.wakeAll := by
  refine c.foldl (fun x k => ?_) _
  refine .ite (settleDone (foldl (updCl (.refl x) _ _) (fun y j => ?_) _) _) (.refl x)
  exact .ite (((refl y).setCore _ _).denseRanClear _) (refl y)

/-! #### The advance (02 R68) -/

theorem countStretch (n : Nat) : Calm h (t.countStretch n) := by
  have hs := (c.inc STRETCH_CYC_CNT 0 (n - t.nominal - if t.step.roastEnd = 0 then 0 else n - max t.nominal t.step.poured)).hwm
    STRETCH_HWM 0 (min (n - t.nominal) (2 ^ 24 - 1))
  exact .ite c (.ite (.ite (hs.inc _ _ _) hs) (inc (.ite (hs.inc _ _ _) hs) _ _ _))

theorem floodDetect (q : Nat) : Calm h (t.floodDetect q) := by
  unfold Hw.floodDetect
  refine foldl (c.updIng _ _) (fun x l => ?_) _
  have hstuck (p : Prop) [Decidable p] (f : IngSt → IngSt) := ite (p := p) (refl x) ((refl x).updIng q f)
  have hinfo (p r : Prop) [Decidable p] [Decidable r] (f : IngSt → IngSt) (v : Word) :=
    ite (p := r) ((hstuck p f).raise (srcQ fFlowFlood q) (.quad (Fin.ofNat 4 q) l))
      (((hstuck p f).raise (srcQ fFlowFlood q) (.quad (Fin.ofNat 4 q) l)).setReg FLOOD_INFO q v)
  exact .ite (.ite ((hinfo _ _ _ _).setTab _ _ _ _) (hinfo _ _ _ _)) (hstuck _ _)

theorem refill (q : Nat) : Calm h (t.refill q) := by
  unfold Hw.refill
  exact (c.foldl (fun x _ => (refl x).setTab _ _ _ _) _).updIng _ _

theorem bankSwap (q : Nat) : Calm h (t.bankSwap q) := by
  unfold Hw.bankSwap
  refine updIng (.ite c (foldl (c.inc OFFER_DROP_CNT _ _) (fun x k => ?_) _)) _ _
  exact .ite ((refl x).waitOff _ _ _) (refl x)

theorem portIn (k rank : Nat) (e : Ev) : Calm h (t.portIn k rank e) := c.frame rfl

theorem injOffer : Calm h t.injOffer := by
  unfold Hw.injOffer
  refine setInjs (c.foldl (fun x j => ?_) (List.range 32)) _
  have hevt (p : Prop) [Decidable p] (e : Ev) := ((ite (p := p) ((refl x).inc INJ_SAT_CNT 0 1) (refl x)).inc INJ_EVT_CNT 0 1).portIn 0 33 e
  exact .ite (refl x) (.ite ((hevt _ _).waitOn SPILL_STALL_CNT _ _ _) (hevt _ _))

theorem closeBins : Calm h t.closeBins := by
  unfold Hw.closeBins
  exact injOffer (c.foldl (fun x q => (((refl x).floodDetect q).refill q).bankSwap q) _)

theorem epochAdvance : Calm h t.epochAdvance := .ite (((c.setFld _ _ _ _ _).setReg _ _ _).fire _) (c.setFld _ _ _ _ _)

theorem latchPtpStep : Calm h t.latchPtpStep := by
  unfold Hw.latchPtpStep
  exact ((c.setPtpPrev _).setReg PTP_STEP_LO _ _).setReg PTP_STEP_HI _ _

theorem restartFrames : Calm h t.restartFrames :=
  (c.foldl (fun x _ => .ite (refl x) ((refl x).updCl _ _)) _).foldl (fun x _ => .ite (refl x) ((refl x).updCl _ _)) _

theorem stepTicks : Calm h t.stepTicks := by
  unfold Hw.stepTicks
  exact c.foldl (fun x _ => .ite ((refl x).updTmr _ _) (refl x)) _

theorem writePset (k s i : Nat) (ws : List Word) : Calm h (t.writePset k s i ws) := by
  induction ws generalizing t i with
  | nil => exact c
  | cons w r ih => exact ih (c.setWord _ _) _

theorem setWords (a : Nat) (ws : List Word) : Calm h (t.setWords a ws) := by
  induction ws generalizing t a with
  | nil => exact c
  | cons w r ih => exact ih (c.setWord _ _) _

theorem psetApplyAll : Calm h t.psetApplyAll := by
  refine c.foldl (fun x p => .ite (refl x) (updCore (foldl (refl x) (fun y e => ?_) _) _ _)) _
  exact (refl y).writePset _ _ _ _

theorem dlApply (k : Nat) : Calm h (t.dlApply k) := by
  have hq (l : List DlCommit) := (c.updCore k fun v => { v with dlq := [], binq := none }).foldl
    (f := fun h e => (h.setWords (h.descAddr k e.layer) (if h.descInside k e.layer then e.words else [])).unquiet k)
    (fun x e => ((refl x).setWords _ _).updCore _ _) l
  unfold Hw.dlApply
  dsimp only
  split
  · exact (hq _).setReg _ _ _
  · exact hq _

theorem dlApplyAll : Calm h t.dlApplyAll := c.foldl (fun x _ => .ite (refl x) ((refl x).dlApply _)) _

theorem askReload (cs : List Nat) : Calm h (t.askReload cs) := .ite c (c.frame rfl)

theorem remapPageApply (k : Nat) : Calm h (t.remapPageApply k) :=
  .ite c (.ite (((c.updCl _ _).updCl _ _).askReload _) (c.updCl _ _))

theorem moveSrams (k : Nat) (old new : Nat → Word) : Calm h (t.moveSrams k old new) :=
  (c.foldl (fun x _ => .ite (refl x) (((refl x).copy _ _ _).zero _ _)) _).foldl
    (fun x _ => .ite (refl x) (((refl x).copy _ _ _).zero _ _)) _

theorem setMap (k : Nat) (m : Nat → Word) : Calm h (t.setMap k m) :=
  have hm := (c.moveSrams k (t.mapNow k) m).updCl k fun v => { v with map := mapTbl m, remapPend := false }
  .ite hm (hm.inc _ _ _)

theorem remapBack (k : Nat) : Calm h (t.remapBack k) := (c.updCl _ _).foldl (fun x _ => (refl x).setReg _ _ _) _

theorem remapApply (k : Nat) : Calm h (t.remapApply k) := .ite c (.ite (c.setMap _ _) ((c.remapBack _).raise _ _))

theorem modDecay (k : Nat) : Calm h (t.modDecay k) := .ite (c.foldl (fun x _ => (refl x).updCl _ _) _) c

theorem advanceApply : Calm h t.advanceApply :=
  ((c.psetApplyAll.dlApplyAll).foldl (fun x k => ((refl x).remapPageApply k).remapApply k) _).foldl
    (fun x _ => .ite (refl x) ((refl x).modDecay _)) _

theorem clDeferred (k : Nat) : Calm h (t.clDeferred k) := .ite (c.updCl _ _) c

theorem joinUnits : Calm h t.joinUnits := by
  refine c.foldl (fun x k => .ite (foldl (updCl (.refl x) _ _) (fun y j => ?_) _) (.ite ((refl x).updCl _ _) (refl x))) _
  exact (refl y).updCore _ _

theorem attSnapshot : Calm h t.attSnapshot := .ite (c.frame rfl) c

theorem endOutages : Calm h t.endOutages := .ite c ((c.inc OUTAGE_US_CNT 0 _).frame rfl)

end
end Calm

/-! ### What a calm change leaves to be read -/

theorem steers_stepCtxLen (i : Nat) : (STEP_CTX_LEN i).steers = true := by simp [Rg.steers, STEP_CTX_LEN]

theorem steers_stepCtxPolicy (i : Nat) : (STEP_CTX_POLICY i).steers = true := by
  have hoff : 0x080 ≤ 0x0C0 + 4 * i := by omega
  simp [Rg.steers, STEP_CTX_POLICY, hoff]

section
variable {h t : Hw} (c : Calm h t)
include c

/-- The same change of the step on both sides. -/
theorem Calm.updStep (f : StepSt → StepSt) : Calm (h.updStep f) (t.updStep f) := ⟨congrArg f c.step, c.dev, c.pkg, c.waits, c.regs⟩

/-- The same write of a register on both sides. -/
theorem Calm.setReg_both (r : Rg) (u : Nat) (v : Word) : Calm (h.setReg r u v) (t.setReg r u v) :=
  ⟨c.step, c.dev, c.pkg, c.waits, fun hapart r' u' hr => by rw [reg_setReg, reg_setReg, c.regs hapart r' u' hr]⟩

theorem Calm.powered : t.powered = h.powered := by simp only [Hw.powered, c.pkg]

theorem Calm.nominal (hapart : h.WaitsApart) : t.nominal = h.nominal := by
  simp only [Hw.nominal, Hw.stepLen, Hw.ctx, Hw.fld, c.step, c.regs hapart CTX_STAT 0 rfl, c.regs hapart (STEP_CTX_LEN _) 0 (steers_stepCtxLen _)]

theorem Calm.policy (hapart : h.WaitsApart) : t.policy = h.policy := by
  simp only [Hw.policy, Hw.ctxPolicy, Hw.ctx, Hw.fld, c.step, c.regs hapart CTX_STAT 0 rfl,
    c.regs hapart (STEP_CTX_POLICY _) 0 (steers_stepCtxPolicy _)]

end

/-- Whether a switch is due, the context page says. -/
theorem switchDue_of_ctxPage {h t : Hw} (e : ∀ r : Rg, r.page = pgCTX → t.reg r 0 = h.reg r 0) : t.switchDue = h.switchDue := by
  have hfld : t.fld CTX_NEXT 0 3 0 = h.fld CTX_NEXT 0 3 0 := by rw [Hw.fld, e CTX_NEXT rfl]; rfl
  have hflag : t.flag CTX_NEXT 0 4 = h.flag CTX_NEXT 0 4 := by rw [Hw.flag, e CTX_NEXT rfl]; rfl
  have hstate (n : Nat) : t.ctxState n = h.ctxState n := by rw [Hw.ctxState, Hw.fld, e CTX_STATE rfl]; rfl
  simp only [Hw.switchDue, hfld, hflag, hstate]

section
variable (h : Hw) (n : Nat)

@[simp] theorem startStep_step : (h.startStep n).step = { phase := .delivery, start := n } := rfl

@[simp] theorem startStep_dev : (h.startStep n).dev = h.dev := (Calm.refl h).endOutages.dev

theorem startStep_reg (hapart : h.WaitsApart) {r : Rg} (u : Nat) (hr : r.steers = true) : (h.startStep n).reg r u = h.reg r u :=
  (Calm.refl h).endOutages.regs hapart r u hr

@[simp] theorem setStep_reg (v : StepSt) (r : Rg) (u : Nat) : (h.setStep v).reg r u = h.reg r u := rfl

end

/-- The block at another instant of device time and of PTP time. -/
def Hw.atTime (h : Hw) (n p : Nat) : Hw := { h with dev := n, ptp := p }

/-- Time that passes up to an instant, where no wait is counted. -/
theorem advTo_at (h : Hw) (n : Nat) (hp : h.powered = true) (hw : h.waits = []) (hn : h.dev ≤ n) : ∃ p, h.advTo n = h.atTime n p := by
  unfold Hw.advTo
  split
  · exact ⟨h.ptp + (n - h.dev) * (h.reg PTP_INC).toNat, by simp only [Hw.countWaits, hw, List.foldl_nil, Hw.atTime]⟩
  · rename_i hnow
    obtain rfl : n = h.dev := by simp only [hp, and_true] at hnow; omega
    exact ⟨h.ptp, rfl⟩

/-! ### Delivery close (02 R62, R64) -/

/-- The work of a delivery close that is not forced. -/
theorem deliveryEnd_calm (h : Hw) (hf : h.step.forceDel = false) : Calm h h.deliveryEnd := by
  have hfab := (Calm.refl h).fabricClose
  have hend : h.deliveryEnd = (List.range 4).foldl (fun h q => h.refClose q) h.fabricClose.actUpdate := by
    rw [Hw.deliveryEnd, if_neg (by simp [hfab.step, hf])]
  rw [hend]
  exact hfab.actUpdate.foldl (fun x q => (Calm.refl x).refClose q) _

/-- Delivery has closed and every core of an available cluster has woken. -/
def Hw.deliveryWoken (h : Hw) : Hw :=
  ((List.range 64).foldl (fun h c => h.roastLate c)
    (h.deliveryEnd.updStep fun s => { s with phase := .integrate, dclosedAt := h.deliveryEnd.dev })).wakeAll

theorem closeDelivery_eq (h : Hw) : h.closeDelivery =
    if h.deliveryWoken.policy ≠ .stretch ∧ h.deliveryWoken.nominal ≤ h.deliveryWoken.dev then h.deliveryWoken.forceAll else h.deliveryWoken := rfl

theorem deliveryWoken_calm (h : Hw) (hf : h.step.forceDel = false) :
    Calm (h.updStep fun s => { s with phase := .integrate, dclosedAt := h.dev }) h.deliveryWoken := by
  have hend := deliveryEnd_calm h hf
  rw [Hw.deliveryWoken, hend.dev]
  exact ((hend.updStep _).foldl (fun x k => (Calm.refl x).roastLate k) _).wakeAll

/-- A delivery close that is not forced, and that comes in time, begins the integrate phase. -/
theorem closeDelivery_intime (h : Hw) (hapart : h.WaitsApart) (hf : h.step.forceDel = false) (hintime : h.policy = .stretch ∨ h.dev < h.nominal) :
    h.closeDelivery = h.deliveryWoken := by
  have hcalm := deliveryWoken_calm h hf
  have hpol : h.deliveryWoken.policy = h.policy := hcalm.policy hapart
  have hnom : h.deliveryWoken.nominal = h.nominal := hcalm.nominal hapart
  have hdev : h.deliveryWoken.dev = h.dev := hcalm.dev
  rw [closeDelivery_eq, hpol, hnom, hdev, if_neg]
  rintro ⟨hforced, hlate⟩
  obtain hstretch | hbefore := hintime
  · exact hforced hstretch
  · omega

/-- A package of its own that is quiet in time closes its delivery when the broadcast of DQUIET ends. -/
theorem tryClose_alone (h : Hw) (close : Hw → Hw) (hph : h.step.phase = .delivery) (hf : h.step.forceDel = false) (hd : h.step.framesDone = true)
    (ha : h.arrayEn = false) (hq : h.localQuiet = true) (hl : h.quietLate = false) : h.tryClose close = close (h.advTo h.quietAt) := by
  simp [Hw.tryClose, hph, hf, hd, ha, hq, hl]

/-! ### The pour (02 R66) -/

theorem foldSpills_none (h : Hw) (hs : ∀ p ∈ h.clusters, p.2.spillCnt = []) : h.foldSpills = h := by
  rw [Hw.foldSpills, List.foldl_ext _ (fun x _ => x) _ fun x p hp => if_pos (hs p hp)]
  exact List.foldl_fixed _

/-- The latency of the pour is held, and every available cluster has seen it. -/
def Hw.pourShown (h : Hw) : Hw :=
  h.clusters.foldl (fun h p => if p.2.avail then h.updCl p.1 fun v => { v with poured := true } else h)
    (h.setReg POUR_LAT 0 (w32 (min 0xFFFF (h.dev - h.lastDone))))

/-- The pour has been broadcast. -/
def Hw.pourSeen (h : Hw) : Hw :=
  h.pourShown.updStep fun s => { s with phase := .pour, poured := h.pourShown.dev, closed := h.pourShown.dev }

/-- Of the step, of time and of the registers, the broadcast of the pour changes the phase with its instants and POUR_LAT. -/
theorem pourSeen_frame (h : Hw) :
    h.pourSeen.step = { h.step with phase := .pour, poured := h.dev, closed := h.dev } ∧ h.pourSeen.dev = h.dev ∧
      h.pourSeen.regs = (h.setReg POUR_LAT 0 (w32 (min 0xFFFF (h.dev - h.lastDone)))).regs := by
  have hpart : h.pourShown.stepPart = (h.setReg POUR_LAT 0 (w32 (min 0xFFFF (h.dev - h.lastDone)))).stepPart :=
    foldl_keeps Hw.stepPart (fun (h : Hw) (p : Nat × ClusterSt) => if p.2.avail then h.updCl p.1 fun v => { v with poured := true } else h)
      (fun x p => by split <;> rfl) _ _
  simp only [Hw.stepPart, Prod.mk.injEq] at hpart
  obtain ⟨hstep, hdev, -, -, hregs⟩ := hpart
  exact ⟨by rw [Hw.pourSeen, Hw.updStep, hstep, hdev]; rfl, hdev, hregs⟩

theorem pourSeen_reg (h : Hw) (r : Rg) (u : Nat) (hr : ¬ (POUR_LAT = r ∧ 0 = u)) : h.pourSeen.reg r u = h.reg r u := by
  obtain ⟨-, -, hregs⟩ := pourSeen_frame h
  rw [reg_of_regs _ _ r u hregs, reg_setReg_ne _ _ _ _ _ _ hr]

/-- Whether a step ends its epoch, the broadcast of the pour leaves as it was. -/
theorem pourSeen_lastStep (h : Hw) : h.pourSeen.lastStep = h.lastStep := by
  have hreg (r : Rg) (hr : r.page ≠ pgSTEP) : h.pourSeen.reg r 0 = h.reg r 0 := pourSeen_reg _ _ _ fun e => hr (e.1 ▸ rfl)
  have hpos : h.pourSeen.fld EPOCH_STAT 0 9 0 = h.fld EPOCH_STAT 0 9 0 := by rw [Hw.fld, hreg EPOCH_STAT (by decide)]; rfl
  have hctx : h.pourSeen.ctx = h.ctx := by rw [Hw.ctx, Hw.fld, hreg CTX_STAT (by decide)]; rfl
  have hlen : h.pourSeen.epochLen = h.epochLen := by rw [Hw.epochLen, hctx, Hw.fld, hreg (EPOCH_CTX_LEN _) (by simp [EPOCH_CTX_LEN])]; rfl
  simp only [Hw.lastStep, hpos, hlen]

/-- In a step that ends no epoch, and in which nothing spilled, the pour closes with its broadcast. -/
theorem pourClosed_midEpoch (h : Hw) (hspill : ∀ p ∈ h.clusters, p.2.spillCnt = []) (hlast : h.lastStep = false) : h.pourClosed = h.pourSeen := by
  rw [Hw.pourClosed, foldSpills_none h hspill]
  exact if_neg (c := h.pourSeen.lastStep = true) (by simp [pourSeen_lastStep, hlast])

/-- A package of its own whose clusters are done closes its pour 160 fabric cycles after the last done. -/
theorem pourClose_alone (h : Hw) (hsw : h.switching = false) (hph : h.step.phase = .integrate) (ha : h.arrayEn = false) (hd : h.allDone = true) :
    h.pourClose = (h.advTo (h.lastDone + 160)).pourClosed := by
  simp [Hw.pourClose, hsw, hph, ha, hd, pourCyc]

/-! ### The advance (02 R56, R68, R83) -/

theorem countStretch_waits (h : Hw) (n : Nat) : (h.countStretch n).waits = h.waits := by
  have hhwm (x : Hw) (r : Rg) (u m : Nat) : (x.hwm r u m).waits = x.waits := by rw [Hw.hwm, apply_ite Hw.waits, setReg_waits, ite_self]
  simp only [Hw.countStretch, apply_ite Hw.waits, inc_waits, hhwm, ite_self]

/-- When the step's advance comes (02 R56). -/
abbrev Hw.advanceAt (h : Hw) : Nat := max h.nominal h.step.closed

/-- What the advance ends and puts into effect, before it begins what follows. -/
def Hw.advanced (h : Hw) : Hw :=
  ((List.range 64).foldl (fun h c => h.clDeferred c)
    ((h.countStretch h.advanceAt).advTo h.advanceAt).advanceCore.advanceApply).joinUnits.attSnapshot

/-- RUN is set and SINGLE is clear: the next step begins. -/
def Hw.goesOn (h : Hw) : Bool := h.flag STEP_CTRL 0 0 && !h.flag STEP_CTRL 0 1

theorem advance_eq (h : Hw) :
    h.advance = (if h.advanced.goesOn then h.advanced else h.advanced.setFld STEP_CTRL 0 1 0 0).nextStep h.advanced.goesOn := rfl

section
variable {h : Hw} (hp : h.powered = true) (hw : h.waits = []) (ht : h.dev ≤ h.advanceAt)
include hp hw ht

/-- Of what the step machine goes by, the advance changes time and the step's number. -/
theorem advanced_calm : Calm (({ h with dev := h.advanceAt } : Hw).setReg STEP_NUM 0 (h.stepNum + 1#32)) h.advanced := by
  have hstretch := (Calm.refl h).countStretch h.advanceAt
  obtain ⟨p, hadv⟩ := advTo_at (h.countStretch h.advanceAt) h.advanceAt (hstretch.powered.trans hp)
    ((countStretch_waits _ _).trans hw) (hstretch.dev.trans_le ht)
  have htime : Calm { h with dev := h.advanceAt } ((h.countStretch h.advanceAt).advTo h.advanceAt) := by
    rw [hadv]
    exact ⟨hstretch.step, rfl, hstretch.pkg, hstretch.waits, hstretch.regs⟩
  have hbins := htime.closeBins.epochAdvance
  have hnum : Hw.stepNum _ = h.stepNum := hbins.regs (.of_nil hw) STEP_NUM 0 rfl
  have hcore := ((hbins.setReg_both STEP_NUM 0 (h.stepNum + 1#32)).latchPtpStep.restartFrames.fire 1).stepTicks
  -- The number that is written comes from the block in which the bins have closed; the step's was the same.
  rw [← hnum] at hcore
  rw [← hnum]
  exact (hcore.advanceApply.foldl (fun x k => (Calm.refl x).clDeferred k) _).joinUnits.attSnapshot

theorem advanced_reg {r : Rg} {u : Nat} (hr : r.steers = true) (hnum : r ≠ STEP_NUM) : h.advanced.reg r u = h.reg r u := by
  rw [(advanced_calm hp hw ht).regs (.of_nil hw) r u hr]
  exact reg_setReg_ne _ _ _ _ _ _ fun e => hnum e.1.symm

theorem advanced_dev : h.advanced.dev = h.advanceAt := (advanced_calm hp hw ht).dev

theorem advanced_stepNum : h.advanced.stepNum = h.stepNum + 1#32 :=
  ((advanced_calm hp hw ht).regs (.of_nil hw) STEP_NUM 0 rfl).trans (reg_setReg_same _ _ _ _)

theorem advanced_switchDue : h.advanced.switchDue = h.switchDue :=
  switchDue_of_ctxPage fun r hr => advanced_reg hp hw ht (by simp [Rg.steers, hr]) (by rintro rfl; exact absurd hr (by decide))

theorem advanced_goesOn : h.advanced.goesOn = h.goesOn := by
  rw [Hw.goesOn, Hw.flag, Hw.flag, advanced_reg hp hw ht (r := STEP_CTRL) (by decide) (by decide)]
  rfl

/-- With RUN set and SINGLE clear the advance begins a step. -/
theorem advance_run (hs : h.switchDue = none) (hrun : h.goesOn = true) : h.advance = h.advanced.startStep h.advanceAt := by
  rw [advance_eq, advanced_goesOn hp hw ht, hrun, Hw.nextStep, if_pos rfl, advanced_switchDue hp hw ht, hs, advanced_dev hp hw ht]
  rfl

/-- With RUN clear or SINGLE set the machine holds after the advance, and both bits read 0. -/
theorem advance_hold (hs : h.switchDue = none) (hrun : h.goesOn = false) :
    h.advance = (h.advanced.setFld STEP_CTRL 0 1 0 0).setStep { start := h.advanceAt } := by
  have hdue : (h.advanced.setFld STEP_CTRL 0 1 0 0).switchDue = none := by
    have hctx (r : Rg) (hr : r.page = pgCTX) : (h.advanced.setFld STEP_CTRL 0 1 0 0).reg r 0 = h.advanced.reg r 0 :=
      reg_setFld_ne _ _ _ _ _ _ _ _ fun e => absurd (e.1 ▸ hr) (by decide)
    rw [switchDue_of_ctxPage hctx, advanced_switchDue hp hw ht, hs]
  rw [advance_eq, advanced_goesOn hp hw ht, hrun, Hw.nextStep, if_neg (by decide), hdue, setFld_dev, advanced_dev hp hw ht]
  rfl

end

/-! ### The statement -/

/-- Settles O16: each command is its operation; a close or an advance does its own work on the step, and all the rest it does is calm. -/
theorem phaseClosesAndAdvance : Obligations.PhaseClosesAndAdvance := by
  refine ⟨⟨?delivery, ?pour⟩, ?run, ?hold⟩
  case delivery =>
    intro s hp hsw hph hf hd ha hq hl hpol hw
    refine answers_onHw (f := fun h => if h.switching then h else h.tryClose Hw.closeDelivery) rfl hp ?_
    dsimp only
    rw [if_neg (by simp [hsw]), tryClose_alone _ _ hph hf hd ha hq hl]
    obtain ⟨p, hadv⟩ := advTo_at s.hw s.hw.quietAt hp hw (le_max_left _ _)
    rw [hadv]
    have hapart : (s.hw.atTime s.hw.quietAt p).WaitsApart := .of_nil hw
    rw [closeDelivery_intime _ hapart hf hpol]
    have hcalm := deliveryWoken_calm (s.hw.atTime s.hw.quietAt p) hf
    exact ⟨hcalm.step, hcalm.dev, hcalm.regs hapart STEP_NUM 0 rfl⟩
  case pour =>
    intro s hp hsw hph ha hdone hlast hdev hw hspill
    refine answers_onHw (f := fun h => h.pourClose) rfl hp ?_
    obtain ⟨p, hadv⟩ := advTo_at s.hw (s.hw.lastDone + 160) hp hw hdev.le
    rw [pourClose_alone _ hsw hph ha hdone, hadv, pourClosed_midEpoch (s.hw.atTime _ p) hspill hlast]
    obtain ⟨hstep, htime, hregs⟩ := pourSeen_frame (s.hw.atTime (s.hw.lastDone + 160) p)
    refine ⟨hstep, htime, ?_, fun r u hr => pourSeen_reg _ r u fun e => hr (by rw [e.1, e.2])⟩
    rw [reg_of_regs _ _ _ _ hregs, reg_setReg_same]
    have hlat : (s.hw.atTime (s.hw.lastDone + 160) p).dev - (s.hw.atTime (s.hw.lastDone + 160) p).lastDone = 160 := Nat.add_sub_cancel_left _ _
    rw [hlat]
    rfl
  case run =>
    intro s hp hph hsw hs ht hw hrun hsingle
    refine answers_onHw (f := fun h => if h.step.phase = .pour ∧ h.switching = false then h.advance else h) rfl hp ?_
    rw [if_pos ⟨hph, hsw⟩, advance_run hp hw ht hs (by simp [Hw.goesOn, hrun, hsingle])]
    have hapart := (advanced_calm hp hw ht).waits (.of_nil hw)
    refine ⟨?_, ?_, startStep_step _ _, ?_⟩
    · rw [Hw.stepNum, startStep_reg _ _ hapart _ rfl]
      exact advanced_stepNum hp hw ht
    · rw [startStep_dev, advanced_dev hp hw ht]
    · rw [startStep_reg _ _ hapart _ rfl, advanced_reg hp hw ht rfl (by decide)]
  case hold =>
    intro s hp hph hsw hs ht hw hrun
    have hstop : s.hw.goesOn = false := by obtain hclear | hsingle := hrun <;> simp [Hw.goesOn, *]
    refine answers_onHw (f := fun h => if h.step.phase = .pour ∧ h.switching = false then h.advance else h) rfl hp ?_
    rw [if_pos ⟨hph, hsw⟩, advance_hold hp hw ht hs hstop]
    refine ⟨?_, ?_, rfl, ?_⟩
    · rw [Hw.stepNum, setStep_reg, reg_setFld_ne _ _ _ _ _ _ _ _ (by decide)]
      exact advanced_stepNum hp hw ht
    · rw [setStep_dev, setFld_dev, advanced_dev hp hw ht]
    · rw [Hw.fld, setStep_reg, reg_setFld_same, bits_setBits _ _ _ _ (by decide) (by decide), Nat.zero_mod]

end Sys2Proof.Machine
end

section
/-! SUPPORT. Writes of a core's parameter-set, dense-descriptor, seed, queue and layout registers (03 R92, R113, R114, 04 R530, 08 R256, R258):
what each granted write leaves, and the statements on them. -/

namespace Sys2Proof.Machine

/-! ### Several registers written in a row -/

/-- Write the listed registers, first to last. -/
def Hw.setRegs (h : Hw) (l : List ((Rg × Nat) × Word)) : Hw := l.foldl (fun t p => t.setReg p.1.1 p.1.2 p.2) h

/-- The block at another count of the free values that have been read. -/
def Hw.withFresh (h : Hw) (n : Nat) : Hw := { h with fresh := n }

section
variable (h : Hw) (l : List ((Rg × Nat) × Word))

theorem setRegs_append (p : (Rg × Nat) × Word) : h.setRegs (l ++ [p]) = (h.setRegs l).setReg p.1.1 p.1.2 p.2 := by
  simp [Hw.setRegs]

/-- Registers are all that such a write changes. -/
theorem setRegs_eq : h.setRegs l = { h with regs := (h.setRegs l).regs } := by
  induction l generalizing h with
  | nil => rfl
  | cons p r ih => exact ih _

@[simp] theorem setRegs_fresh : (h.setRegs l).fresh = h.fresh := by rw [setRegs_eq]
@[simp] theorem setRegs_mark (a : Nat) : (h.setRegs l).mark a = h.mark a := by rw [setRegs_eq]; rfl
@[simp] theorem setRegs_word (a : Nat) : (h.setRegs l).word a = h.word a := by rw [setRegs_eq]; rfl

/-- How many free values have been read does not matter to registers. -/
theorem setRegs_withFresh (n : Nat) : (h.withFresh n).setRegs l = (h.setRegs l).withFresh n := by
  induction l generalizing h with
  | nil => rfl
  | cons p r ih => exact ih (h.setReg p.1.1 p.1.2 p.2)

theorem setRegs_reg_of_notMem (r : Rg) (u : Nat) (hr : (r, u) ∉ l.map Prod.fst) : (h.setRegs l).reg r u = h.reg r u := by
  induction l generalizing h with
  | nil => rfl
  | cons p q ih =>
    rw [List.map_cons, List.mem_cons, not_or] at hr
    exact (ih _ hr.2).trans (reg_setReg_ne _ _ _ _ _ _ fun e => hr.1 (Prod.ext e.1.symm e.2.symm))

/-- Where no register is listed twice, each of them holds its word. -/
theorem setRegs_reg (hl : (l.map Prod.fst).Nodup) (r : Rg) (u : Nat) : (h.setRegs l).reg r u = (l.lookup (r, u)).getD (h.reg r u) := by
  induction l generalizing h with
  | nil => rfl
  | cons p q ih =>
    obtain ⟨⟨r', u'⟩, v⟩ := p
    rw [List.map_cons, List.nodup_cons] at hl
    by_cases he : (r, u) = (r', u')
    · obtain ⟨rfl, rfl⟩ := Prod.mk.inj he
      have hrest := setRegs_reg_of_notMem (h.setReg r u v) q r u hl.1
      rw [reg_setReg_same] at hrest
      rw [List.lookup_cons_self]
      exact hrest
    · have hne : ((r, u) == (r', u')) = false := beq_eq_false_iff_ne.2 he
      have hkeep : (h.setReg r' u' v).reg r u = h.reg r u :=
        reg_setReg_ne _ _ _ _ _ _ fun e => he (Prod.ext e.1.symm e.2.symm)
      rw [List.lookup_cons, hne, ← hkeep]
      exact ih _ hl.2

end

/-- The block after listed registers, none of them twice, have been written. -/
theorem Hw.Now.all (h g : Hw) (e : g.regs = h.regs) (l : List ((Rg × Nat) × Word)) (hl : (l.map Prod.fst).Nodup) : h.Now g l (g.setRegs l) := by
  refine ⟨by rw [setRegs_eq], fun r u => ?_⟩
  rw [setRegs_reg _ _ hl, reg_of_regs h g r u e]

/-- The registers of an indexed family are all different. -/
theorem nodup_family {r : Nat → Rg} (hr : Function.Injective r) (n k : Nat) (v : Nat → Word) :
    (((List.range n).map fun i => ((r i, k), v i)).map Prod.fst).Nodup := by
  rw [List.map_map]
  exact List.nodup_range.map fun i j e => hr (Prod.mk.inj e).1

theorem psetWin_injective : Function.Injective PSET_WIN := fun i j e => by
  have := (Rg.mk.inj e).2
  omega

theorem dlWin_injective : Function.Injective DL_WIN := fun i j e => by
  have := (Rg.mk.inj e).2
  omega

/-! ### Parameter sets (03 R92, R113) -/

section
variable (h : Hw) (who : Requester) (k : Nat) (v : Word)

theorem regWrite_psetCommit : h.regWrite who PSET_CTRL.page k PSET_CTRL.off 1#32 = h.psetCommit k := by
  rw [regWrite_alone]
  rfl

theorem regWrite_psetReadback : h.regWrite who PSET_CTRL.page k PSET_CTRL.off 2#32 = h.psetReadback k := by
  rw [regWrite_alone]
  rfl

theorem regWrite_psetClrOvf : h.regWrite who PSET_CTRL.page k PSET_CTRL.off 4#32 = h.psetClrOvf k := by
  rw [regWrite_alone]
  rfl

/-- A good word is read through a window without any other effect. -/
theorem winCore_read_good (a : Nat) (hm : h.mark a = 0) : h.winCore k a none = (h, h.word a) := by
  simp [Hw.winCore, coreRead_good _ _ _ hm]

/-- The words of a parameter set that a readback puts into the window, up to word n. -/
def Hw.psetWinWords (h : Hw) (k n : Nat) : List ((Rg × Nat) × Word) :=
  (List.range n).map fun i => ((PSET_WIN i, k), h.word (psetAddr k (h.fld PSET_SEL k 7 0) + 4 * i))

theorem psetWinWords_succ (n : Nat) : h.psetWinWords k (n + 1) =
    h.psetWinWords k n ++ [((PSET_WIN n, k), h.word (psetAddr k (h.fld PSET_SEL k 7 0) + 4 * n))] := by
  rw [Hw.psetWinWords, List.range_succ, List.map_append]
  rfl

theorem psetWinWords_keeps_sel (n : Nat) : (h.setRegs (h.psetWinWords k n)).fld PSET_SEL k 7 0 = h.fld PSET_SEL k 7 0 := by
  rw [Hw.fld, setRegs_reg_of_notMem]
  · rfl
  · simp only [Hw.psetWinWords, List.map_map, List.mem_map, not_exists, not_and]
    intro i _ e
    have hoff : 0x050 + 4 * i = 0x048 := congrArg (fun p : Rg × Nat => p.1.off) e
    omega

/-- A readback of a set whose words are good copies them. -/
theorem psetReadback_good (hm : ∀ i, i < 8 → h.mark (psetAddr k (h.fld PSET_SEL k 7 0) + 4 * i) = 0) :
    h.psetReadback k = h.setRegs (h.psetWinWords k 8) := by
  rw [Hw.psetReadback]
  suffices hn : ∀ n, n ≤ 8 → (List.range n).foldl (fun h i =>
      let x := h.winCore k (psetAddr k (h.fld PSET_SEL k 7 0) + 4 * i) none
      x.1.setReg (PSET_WIN i) k x.2) h = h.setRegs (h.psetWinWords k n) from hn 8 le_rfl
  intro n hn
  induction n with
  | zero => rfl
  | succ n ih =>
    have hgood : (h.setRegs (h.psetWinWords k n)).mark (psetAddr k (h.fld PSET_SEL k 7 0) + 4 * n) = 0 := by
      rw [setRegs_mark, hm n (by omega)]
    rw [List.range_succ, List.foldl_append, ih (by omega), List.foldl_cons, List.foldl_nil, psetWinWords_keeps_sel,
      winCore_read_good _ _ _ hgood, setRegs_word, psetWinWords_succ, setRegs_append]

/-! ### Dense descriptors (08 R256, R258) -/

theorem regWrite_dlCommit : h.regWrite who DL_CTRL.page k DL_CTRL.off 1#32 = h.dlCommit k := by
  rw [regWrite_alone]
  rfl

theorem regWrite_dlReadback : h.regWrite who DL_CTRL.page k DL_CTRL.off 2#32 = h.dlReadback k := by
  rw [regWrite_alone]
  rfl

theorem regWrite_dlClrOvf : h.regWrite who DL_CTRL.page k DL_CTRL.off 4#32 = h.dlClrOvf k := by
  rw [regWrite_alone]
  rfl

/-- Words copied into an indexed family of registers. -/
theorem foldl_copyWords (r : Nat → Rg) (a n : Nat) : (List.range n).foldl (fun h i => h.setReg (r i) k (h.word (a + 4 * i))) h =
    h.setRegs ((List.range n).map fun i => ((r i, k), h.word (a + 4 * i))) := by
  induction n with
  | zero => rfl
  | succ n ih =>
    rw [List.range_succ, List.foldl_append, ih, List.map_append, List.map_singleton, setRegs_append, List.foldl_cons, List.foldl_nil,
      setRegs_word]

/-- Free values put into an indexed family of registers. -/
theorem foldl_freeWords (r : Nat → Rg) (n : Nat) : (List.range n).foldl (fun h i => let f := h.free; f.2.setReg (r i) k f.1) h =
    (h.setRegs ((List.range n).map fun i => ((r i, k), Config.freeWord (h.fresh + i)))).withFresh (h.fresh + n) := by
  induction n with
  | zero => rfl
  | succ n ih =>
    rw [List.range_succ, List.foldl_append, ih, List.map_append, List.map_singleton, setRegs_append]
    rfl

/-- A readback of a descriptor inside core SRAM copies it. -/
theorem dlReadback_inside (hd : h.descInside k (h.fld DL_SEL k 3 0) = true) : h.dlReadback k =
    h.setRegs ((List.range 8).map fun i => ((DL_WIN i, k), h.word (h.descAddr k (h.fld DL_SEL k 3 0) + 4 * i))) := by
  rw [Hw.dlReadback, if_pos hd, foldl_copyWords]

/-- A readback of a descriptor past the end of core SRAM reads free values (log 119). -/
theorem dlReadback_outside (hd : h.descInside k (h.fld DL_SEL k 3 0) = false) : h.dlReadback k =
    (h.withFresh (h.fresh + 8)).setRegs ((List.range 8).map fun i => ((DL_WIN i, k), Config.freeWord (h.fresh + i))) := by
  rw [Hw.dlReadback, if_neg (by simp [hd]), foldl_freeWords, setRegs_withFresh]

/-! ### Seed, queue and layout (03 R114, 04 R530, 08 R256) -/

theorem regWrite_mcSeed : h.regWrite who MC_SEED.page k MC_SEED.off v = h.setReg MC_SEED k (if v = 0#32 then 1#32 else v) := by
  rw [regWrite_alone]
  rfl

theorem regWrite_denseBinq : h.regWrite who DENSE_BINQ.page k DENSE_BINQ.off v = h.binqWrite k (v &&& 0xFFFF#32) := by
  rw [regWrite_alone]
  rfl

theorem regWrite_coreLayout : h.regWrite who CORE_LAYOUT.page k CORE_LAYOUT.off v = h.layoutWrite k v := by
  rw [regWrite_alone]
  rfl

end

/-- Settles O19: each granted write is the operation of its register, whose effect is the one stated. -/
theorem coreRegisterCommands : Obligations.CoreRegisterCommands := by
  refine ⟨?psetCommit, ?psetOvf, ?psetReadback, ?psetClrOvf, ?seed, ?dlCommit, ?dlOvf, ?dlReadback, ?dlClrOvf, ?binqLater, ?binqNow⟩
  case psetCommit =>
    intro s who k hg hroom
    refine answers_put (r := PSET_CTRL) rfl hg ?_
    rw [regWrite_psetCommit, Hw.psetCommit, if_neg (by omega)]
    exact (Hw.Now.intro _ _ rfl).told 0
  case psetOvf =>
    intro s who k hg hfull
    refine answers_put (r := PSET_CTRL) rfl hg ?_
    rw [regWrite_psetCommit, Hw.psetCommit, if_pos hfull]
    exact (Hw.Now.one _ _ rfl _ _ _).told 0
  case psetReadback =>
    intro s who k hg hgood
    refine answers_put (r := PSET_CTRL) rfl hg ?_
    rw [regWrite_psetReadback, psetReadback_good _ _ hgood]
    exact (Hw.Now.all _ _ rfl _ (nodup_family psetWin_injective _ _ _)).told 0
  case psetClrOvf =>
    intro s who k hg
    refine answers_put (r := PSET_CTRL) rfl hg ?_
    rw [regWrite_psetClrOvf]
    exact (Hw.Now.one _ _ rfl _ _ _).told 0
  case seed =>
    intro s who k v hg
    refine answers_put (r := MC_SEED) rfl hg ?_
    rw [regWrite_mcSeed]
    exact (Hw.Now.one _ _ rfl _ _ _).told 0
  case dlCommit =>
    intro s who k hg hroom
    refine answers_put (r := DL_CTRL) rfl hg ?_
    rw [regWrite_dlCommit, Hw.dlCommit, if_neg (by omega)]
    exact (Hw.Now.intro _ _ rfl).told 0
  case dlOvf =>
    intro s who k hg hfull
    refine answers_put (r := DL_CTRL) rfl hg ?_
    rw [regWrite_dlCommit, Hw.dlCommit, if_pos hfull]
    exact (Hw.Now.one _ _ rfl _ _ _).told 0
  case dlReadback =>
    intro s who k hg
    refine ⟨fun hin => ?_, fun hout => ?_⟩ <;> refine answers_put (r := DL_CTRL) rfl hg ?_ <;> rw [regWrite_dlReadback]
    · rw [dlReadback_inside _ _ hin]
      exact (Hw.Now.all _ _ rfl _ (nodup_family dlWin_injective _ _ _)).told 0
    · rw [dlReadback_outside _ _ hout]
      exact (Hw.Now.all _ _ rfl _ (nodup_family dlWin_injective _ _ _)).told 0
  case dlClrOvf =>
    intro s who k hg
    refine answers_put (r := DL_CTRL) rfl hg ?_
    rw [regWrite_dlClrOvf]
    exact (Hw.Now.one _ _ rfl _ _ _).told 0
  case binqLater =>
    intro s who k v hg hres
    refine answers_put (r := DENSE_BINQ) rfl hg ?_
    rw [regWrite_denseBinq, Hw.binqWrite, if_pos hres]
    exact (Hw.Now.intro _ _ rfl).told 0
  case binqNow =>
    intro s who k v hg hres
    refine answers_put (r := DENSE_BINQ) rfl hg ?_
    rw [regWrite_denseBinq, Hw.binqWrite, if_neg (by simp [hres])]
    exact (Hw.Now.one _ _ rfl _ _ _).told 0

/-- CORE_LAYOUT is closed while the core's context is resident and the core is available (03 R114). -/
theorem layoutWrite_closed (h : Hw) (k : Nat) (v : Word) (hres : h.resident (k / 32) = true) (ha : h.coreAvail k = true) : h.layoutWrite k v = h := by
  rw [Hw.layoutWrite, if_pos (by rw [Hw.coreClosed, hres, ha]; rfl)]

/-- Settles O20: the granted write reaches CORE_LAYOUT, which is closed, and nothing but the answer is left. -/
theorem layoutWriteIsClosedWhileInUse : Obligations.LayoutWriteIsClosedWhileInUse := by
  intro s who k v hg hres ha
  refine answers_put (r := CORE_LAYOUT) rfl hg ?_
  rw [regWrite_coreLayout, layoutWrite_closed _ _ _ hres ha]
  exact .intro _ _ rfl

end Sys2Proof.Machine
end

section
/-! SUPPORT. Bytes, words and 24-bit values of a core's memories after they have been written (03 R87, 12 R336), reads of good words (03 R103), and
fields of a word. -/

namespace Sys2Proof.Machine

/-! ### Blocks whose memories agree -/

theorem byte_of_mem {h t : Hw} (e : t.mem = h.mem) (a : Nat) : t.byte a = h.byte a := by rw [Hw.byte, Hw.byte, e]

theorem word_of_mem {h t : Hw} (e : t.mem = h.mem) (a : Nat) : t.word a = h.word a := by simp only [Hw.word, byte_of_mem e]

theorem read24_of_mem {h t : Hw} (e : t.mem = h.mem) (a : Nat) : t.read24 a = h.read24 a := by simp only [Hw.read24, Hw.bytes, byte_of_mem e]

/-- A word whose four bytes agree. -/
theorem word_of_bytes {h t : Hw} {a : Nat} (e : ∀ x, a ≤ x → x < a + 4 → t.byte x = h.byte x) : t.word a = h.word a := by
  simp only [Hw.word]
  rw [e a (by omega) (by omega), e (a + 1) (by omega) (by omega), e (a + 2) (by omega) (by omega), e (a + 3) (by omega) (by omega)]

/-- A 24-bit value whose three bytes agree. -/
theorem read24_of_bytes {h t : Hw} {a : Nat} (e : ∀ x, a ≤ x → x < a + 3 → t.byte x = h.byte x) : t.read24 a = h.read24 a := by
  have hbytes : t.bytes a 3 = h.bytes a 3 := List.map_congr_left fun i hi => e _ (by omega) (by have := List.mem_range.1 hi; omega)
  rw [Hw.read24, Hw.read24, hbytes]

/-! ### Bytes written in a row -/

/-- Memory is all that a write of bytes changes. -/
theorem setBytes_eq (h : Hw) (a : Nat) (l : List Byte) : h.setBytes a l = { h with mem := (h.setBytes a l).mem } := by
  induction l generalizing h a with
  | nil => rfl
  | cons v r ih => exact ih (h.setByte a v) (a + 1)

/-- A byte outside the written ones reads as before. -/
theorem byte_setBytes_ne (h : Hw) (a x : Nat) (l : List Byte) (hx : x < a ∨ a + l.length ≤ x) : (h.setBytes a l).byte x = h.byte x := by
  induction l generalizing h a with
  | nil => rfl
  | cons v r ih =>
    rw [List.length_cons] at hx
    exact (ih _ _ (by omega)).trans (by rw [byte_setByte, if_neg (by omega)])

/-- The bytes written are read back. -/
theorem bytes_setBytes_same (h : Hw) (a : Nat) (l : List Byte) : (h.setBytes a l).bytes a l.length = l := by
  induction l generalizing h a with
  | nil => rfl
  | cons v r ih =>
    have hhead : (h.setBytes a (v :: r)).byte a = v := by
      rw [Hw.setBytes, byte_setBytes_ne _ _ _ _ (.inl (by omega)), byte_setByte, if_pos rfl]
    have htail : (h.setBytes a (v :: r)).bytes (a + 1) r.length = r := ih (h.setByte a v) (a + 1)
    rw [Hw.bytes, List.map_congr_left fun i _ => congrArg (Hw.byte _) (Nat.add_right_comm a 1 i)] at htail
    rw [Hw.bytes, List.length_cons, List.range_succ_eq_map, List.map_cons, List.map_map, Nat.add_zero, hhead]
    exact congrArg (v :: ·) htail

/-! ### Words written in a row -/

/-- Memory and error marks are all that a write of words changes. -/
theorem setWords_eq (h : Hw) (a : Nat) (l : List Word) :
    h.setWords a l = { h with mem := (h.setWords a l).mem, marks := (h.setWords a l).marks } := by
  induction l generalizing h a with
  | nil => rfl
  | cons v r ih => exact ih (h.setWord a v) (a + 4)

/-- A byte outside the written words reads as before. -/
theorem byte_setWords_ne (h : Hw) (a x : Nat) (l : List Word) (hx : x < a ∨ a + 4 * l.length ≤ x) : (h.setWords a l).byte x = h.byte x := by
  induction l generalizing h a with
  | nil => rfl
  | cons v r ih =>
    rw [List.length_cons] at hx
    exact (ih _ _ (by omega)).trans (byte_setWord_ne _ _ _ _ (by omega))

/-- The first of the words written is read back. -/
theorem word_setWords_head (h : Hw) (a : Nat) (v : Word) (l : List Word) : (h.setWords a (v :: l)).word a = v := by
  rw [Hw.setWords, word_of_bytes fun x _ hx => byte_setWords_ne _ _ _ l (.inl hx), word_setWord_same]

/-! ### 24-bit values -/

theorem leNat_natLE_three (n : Nat) : leNat (natLE 3 n) = n % 2 ^ 24 := by
  have hrange : List.range 3 = [0, 1, 2] := rfl
  simp only [leNat, natLE, hrange, List.map_cons, List.map_nil, List.foldr_cons, List.foldr_nil, BitVec.toNat_ofNat, Nat.shiftRight_eq_div_pow]
  omega

/-- A value that 24 bits hold is read back from its 24 bits. -/
theorem sext_ubits (v : Int) (hlo : -2 ^ 23 ≤ v) (hhi : v < 2 ^ 23) : sext 24 (ubits 24 v) = v := by
  simp only [sext, ubits]
  omega

theorem ubits_lt (v : Int) : ubits 24 v < 2 ^ 24 := by
  simp only [ubits]
  omega

theorem sext_bounds (n : Nat) : -2 ^ 23 ≤ sext 24 n ∧ sext 24 n < 2 ^ 23 := by
  simp only [sext]
  omega

theorem sat24_bounds (v : Int) : -2 ^ 23 ≤ sat24 v ∧ sat24 v < 2 ^ 23 := by
  simp only [sat24, satS]
  omega

/-- Memory is all that a write of a 24-bit value changes. -/
theorem write24_eq (h : Hw) (a : Nat) (v : Int) : h.write24 a v = { h with mem := (h.write24 a v).mem } := setBytes_eq _ _ _

/-- A byte outside a written 24-bit value reads as before. -/
theorem byte_write24_ne (h : Hw) (a x : Nat) (v : Int) (hx : x < a ∨ a + 3 ≤ x) : (h.write24 a v).byte x = h.byte x :=
  byte_setBytes_ne h a x _ (by simpa [natLE] using hx)

/-- A 24-bit value reads as it was written. -/
theorem read24_write24_same (h : Hw) (a : Nat) (v : Int) (hlo : -2 ^ 23 ≤ v) (hhi : v < 2 ^ 23) : (h.write24 a v).read24 a = v := by
  have hbytes : (h.write24 a v).bytes a 3 = natLE 3 (ubits 24 v) := bytes_setBytes_same h a (natLE 3 (ubits 24 v))
  rw [Hw.read24, hbytes, leNat_natLE_three, Nat.mod_eq_of_lt (ubits_lt v), sext_ubits v hlo hhi]

/-! ### Reads of good words (03 R103) -/

theorem mark_of_marks_nil {h : Hw} (hm : h.marks = []) (a : Nat) : h.mark a = 0 := by
  rw [Hw.mark, hm]
  rfl

/-- Good words are read without any other effect. -/
theorem coreReads_good {h : Hw} (hm : h.marks = []) (k : Nat) (l : List Nat) : h.coreReads k l = { h := h, ws := l.map h.word, bad := 0 } := by
  induction l with
  | nil => rfl
  | cons a r ih =>
    simp only [Hw.coreReads, coreRead_good _ _ _ (mark_of_marks_nil hm a), ih]
    rfl

/-! ### Fields of a word -/

theorem testBit_setBits (w : Word) (hi lo v i : Nat) :
    (setBits w hi lo v).getLsbD i = if lo ≤ i ∧ i ≤ hi ∧ i < 32 then v.testBit (i - lo) else w.getLsbD i := by
  simp only [setBits, fldMask, w32, BitVec.getLsbD_or, BitVec.getLsbD_and, BitVec.getLsbD_not, BitVec.getLsbD_ofNat, Nat.testBit_shiftLeft,
    Nat.testBit_two_pow_sub_one]
  by_cases h32 : i < 32
  · by_cases hin : lo ≤ i ∧ i ≤ hi
    · have hlt : i - lo < hi + 1 - lo := by omega
      simp [h32, hin, hlt]
    · have hout : ¬ (lo ≤ i ∧ i - lo < hi + 1 - lo) := by omega
      simp only [← and_assoc, hin, false_and, if_false]
      by_cases hlo : lo ≤ i
      · have hge : ¬ i - lo < hi + 1 - lo := fun hlt => hout ⟨hlo, hlt⟩
        simp [h32, hlo, hge]
      · simp [h32, hlo]
  · simp [h32, BitVec.getLsbD_of_ge w i (by omega)]

/-- A bit outside the field written is as before. -/
theorem bit_setBits_ne (w : Word) (hi lo v i : Nat) (hne : i < lo ∨ hi < i) : bit (setBits w hi lo v) i = bit w i := by
  rw [bit, testBit_setBits, if_neg (by omega), bit]

theorem bit_setBit_same (w : Word) (i : Nat) (b : Bool) (hi : i < 32) : bit (setBit w i b) i = b := by
  rw [bit, setBit, testBit_setBits, if_pos (by omega)]
  cases b <;> simp

/-- A field apart from the one written is as before. -/
theorem bits_setBits_ne (w : Word) (hi lo v a b : Nat) (hne : a < lo ∨ hi < b) : bits (setBits w hi lo v) a b = bits w a b := by
  rw [bits, bits]
  apply Nat.eq_of_testBit_eq
  intro i
  simp only [Nat.testBit_mod_two_pow, Nat.testBit_shiftRight, BitVec.testBit_toNat, testBit_setBits]
  by_cases hin : i < a + 1 - b
  · rw [if_neg (by omega)]
  · simp [hin]

theorem bits_setBit_ne (w : Word) (i : Nat) (v : Bool) (a b : Nat) (hne : a < i ∨ i < b) : bits (setBit w i v) a b = bits w a b :=
  bits_setBits_ne w i i _ a b hne

theorem bits_lt (w : Word) (hi lo : Nat) : bits w hi lo < 2 ^ (hi + 1 - lo) := Nat.mod_lt _ (Nat.two_pow_pos _)

end Sys2Proof.Machine
end

section
/-! SUPPORT. The fixed neuron path and accumulation into the ring (03 R93, R97): what the update computes, what it leaves in the record, and the
statement on them. -/

namespace Sys2Proof.Machine

/-! ### The update of R93 -/

section
variable (p : PVars) (n : NVars) (slot bias : Int) (t : Nat)

/-- A refractory neuron counts REF down and does not fire. -/
theorem fixedUpdate_refractory (hr : 0 < n.ref) :
    (fixedUpdate p n slot bias t).n.ref = n.ref - 1 ∧ (fixedUpdate p n slot bias t).n.fired = false := by
  simp [fixedUpdate, hr]

/-- Below the threshold V is the clamped sum and the neuron does not fire. -/
theorem fixedUpdate_below (hr : n.ref = 0) (hv : clampedV p (leakSum p n slot bias) < threshold p (decayedA p n)) :
    (fixedUpdate p n slot bias t).n.v = clampedV p (leakSum p n slot bias) ∧ (fixedUpdate p n slot bias t).n.fired = false := by
  simp [fixedUpdate, hr, Int.not_le.2 hv]

/-- From the threshold on the neuron fires and is refractory for TREF steps. -/
theorem fixedUpdate_fires (hr : n.ref = 0) (hv : threshold p (decayedA p n) ≤ clampedV p (leakSum p n slot bias)) :
    (fixedUpdate p n slot bias t).n.ref = p.tref ∧ (fixedUpdate p n slot bias t).n.fired = true := by
  simp [fixedUpdate, hr, hv]

end

theorem threshold_eq (p : PVars) (a : Nat) : threshold p a = p.theta0 + ((a * 2 ^ p.ashift : Nat) : Int) := by
  rw [threshold, Nat.shiftLeft_eq]

/-- The clamps keep V within 24 bits. -/
theorem clampedV_bounds (l : List Word) (x : Int) : -2 ^ 23 ≤ clampedV (pvars l) x ∧ clampedV (pvars l) x < 2 ^ 23 := by
  obtain ⟨hsatLo, hsatHi⟩ := sat24_bounds x
  obtain ⟨-, hminHi⟩ := sext_bounds (bits (l.getD 3 0#32) 31 8)
  exact ⟨le_max_of_le_left hsatLo, max_lt hsatHi hminHi⟩

theorem tref_lt (l : List Word) : (pvars l).tref < 16 := bits_lt (l.getD 2 0#32) 15 12

/-! ### The first word of a record (03 R87) -/

/-- The first word of a record with the state of its neuron. -/
def recHead (w0 : Word) (n : NVars) : Word := setBits (setBit (setBit (setBits w0 31 8 (ubits 24 n.v)) 2 n.fired) 3 n.sat) 7 4 n.ref

section
variable (w0 : Word) (n : NVars)

theorem recHead_v (hlo : -2 ^ 23 ≤ n.v) (hhi : n.v < 2 ^ 23) : sext 24 (bits (recHead w0 n) 31 8) = n.v := by
  rw [recHead, bits_setBits_ne _ _ _ _ _ _ (.inr (by omega)), bits_setBit_ne _ _ _ _ _ (.inr (by omega)),
    bits_setBit_ne _ _ _ _ _ (.inr (by omega)), bits_setBits _ _ _ _ (by omega) (by omega), Nat.mod_eq_of_lt (ubits_lt n.v), sext_ubits _ hlo hhi]

theorem recHead_fired : bit (recHead w0 n) 2 = n.fired := by
  rw [recHead, bit_setBits_ne _ _ _ _ _ (.inl (by omega)), setBit, bit_setBits_ne _ _ _ _ _ (.inl (by omega)), bit_setBit_same _ _ _ (by omega)]

theorem recHead_ref (hr : n.ref < 16) : bits (recHead w0 n) 7 4 = n.ref := by
  rw [recHead, bits_setBits _ _ _ _ (by omega) (by omega), Nat.mod_eq_of_lt (by omega)]

end

/-! ### What an update leaves of memory and of the spike count -/

section
variable (h : Hw) (k : Nat)

theorem ite_reg (p : Prop) [Decidable p] (a b : Hw) (r : Rg) (u : Nat) : (if p then a else b).reg r u = if p then a.reg r u else b.reg r u :=
  apply_ite (fun x : Hw => x.reg r u) p a b

@[simp] theorem hwm_mem (r : Rg) (u n : Nat) : (h.hwm r u n).mem = h.mem := by
  unfold Hw.hwm
  split <;> rfl

theorem hwm_reg_ne (r r' : Rg) (u u' n : Nat) (hr : r ≠ r') : (h.hwm r u n).reg r' u' = h.reg r' u' := by
  unfold Hw.hwm
  split
  · exact reg_setReg_ne _ _ _ _ _ _ fun e => hr e.1
  · rfl

@[simp] theorem egressPush_mem (e : Ev) : (h.egressPush k e).mem = h.mem := hwm_mem _ _ _ _
@[simp] theorem egressPush_spikes (e : Ev) : (h.egressPush k e).reg SPIKE_CNT k = h.reg SPIKE_CNT k := hwm_reg_ne _ _ _ _ _ _ (by decide)
@[simp] theorem notAtRest_mem : (h.notAtRest k).mem = h.mem := rfl
@[simp] theorem notAtRest_spikes : (h.notAtRest k).reg SPIKE_CNT k = h.reg SPIKE_CNT k := rfl
@[simp] theorem vSat_spikes : (h.inc V_SAT_CNT k).reg SPIKE_CNT k = h.reg SPIKE_CNT k := reg_inc_ne _ _ _ _ _ _ fun e => absurd e.1 (by decide)

end

/-- The update that R93 makes of neuron n of core k in the step in progress. -/
def Hw.fixedNext (h : Hw) (k n : Nat) : Updated :=
  fixedUpdate (pvars (h.words (psetAddr k (h.psetOf k n)) 8))
    (recVars false (h.word (h.recAddr k n)) (h.word (h.recAddr k n + 4)) (h.word (h.recAddr k n + 8)))
    (h.read24 (h.slotAddr k n (h.stepNum.toNat % 16))) (sext 24 (bits (h.word (h.recAddr k n + 12)) 31 8)) h.stepNum.toNat

/-- The block with neuron n's slot of the step cleared and its record rewritten. -/
def Hw.fixedStored (h : Hw) (k n : Nat) : Hw :=
  (h.write24 (h.slotAddr k n (h.stepNum.toNat % 16)) 0).setWords (h.recAddr k n)
    (recWords false (h.word (h.recAddr k n)) (h.word (h.recAddr k n + 8)) (h.fixedNext k n).n)

theorem fixedStored_reg (h : Hw) (k n : Nat) (r : Rg) (u : Nat) : (h.fixedStored k n).reg r u = h.reg r u := by
  rw [Hw.fixedStored, setWords_eq, write24_eq]
  rfl

section
variable (h : Hw) (k n : Nat)

theorem slotAddr_full (hc : h.compact k = false) (j : Nat) : h.slotAddr k n j = h.recAddr k n + 16 + 3 * j := by simp [Hw.slotAddr, hc]

/-- A byte outside the record is as before. -/
theorem fixedStored_byte_ne (hc : h.compact k = false) (j : Nat) (hj : j < h.recAddr k n ∨ h.recAddr k n + 64 ≤ j) :
    (h.fixedStored k n).byte j = h.byte j := by
  have hslot := slotAddr_full h k n hc (h.stepNum.toNat % 16)
  rw [Hw.fixedStored, byte_setWords_ne _ _ _ _ (by simp only [recWords, Bool.false_eq_true, if_false, List.length_cons, List.length_nil]; omega),
    byte_write24_ne _ _ _ _ (by omega)]

/-- The slot of the step is 0. -/
theorem fixedStored_slot (hc : h.compact k = false) : (h.fixedStored k n).read24 (h.slotAddr k n (h.stepNum.toNat % 16)) = 0 := by
  have hslot := slotAddr_full h k n hc (h.stepNum.toNat % 16)
  refine (read24_of_bytes fun x hx _ => byte_setWords_ne _ _ _ _ (.inr ?_)).trans (read24_write24_same _ _ 0 (by decide) (by decide))
  simp only [recWords, Bool.false_eq_true, if_false, List.length_cons, List.length_nil]
  omega

/-- The record begins with the state after the update. -/
theorem fixedStored_head : (h.fixedStored k n).word (h.recAddr k n) = recHead (h.word (h.recAddr k n)) (h.fixedNext k n).n :=
  word_setWords_head _ _ _ _

end

/-- The block after a neuron's update has been stored: what is counted, sent and noted of it. -/
def Hw.fixedNoted (h : Hw) (k : Nat) (u : Updated) (sends : Prop) [Decidable sends] (e : Ev) (bias : Int) : Hw :=
  let h := if u.vsat then h.inc V_SAT_CNT k else h
  let h := if u.n.fired then h.inc SPIKE_CNT k else h
  let h := if sends then h.egressPush k e else h
  if u.n.v = 0 ∧ u.n.ref = 0 ∧ u.n.a = 0 ∧ bias = 0 ∧ u.n.fired = false then h else h.notAtRest k

section
variable (h : Hw) (k : Nat) (u : Updated) (sends : Prop) [Decidable sends] (e : Ev) (bias : Int)

theorem fixedNoted_mem : (h.fixedNoted k u sends e bias).mem = h.mem := by
  simp only [Hw.fixedNoted, apply_ite Hw.mem, notAtRest_mem, egressPush_mem, inc_mem, ite_self]

theorem fixedNoted_spikes : (h.fixedNoted k u sends e bias).reg SPIKE_CNT k =
    if u.n.fired = true then satAdd32 (h.reg SPIKE_CNT k) 1 else h.reg SPIKE_CNT k := by
  simp only [Hw.fixedNoted, ite_reg, notAtRest_spikes, egressPush_spikes, reg_inc_same, vSat_spikes, ite_self]

end

/-- The update of an enabled neuron whose words are good: it is counted in its group, stored and noted. -/
theorem updateFixed_full (h : Hw) (k base n : Nat) (hm : h.marks = []) (hc : h.compact k = false) (hen : bit (h.word (h.recAddr k n)) 0 = true) :
    ∃ e bias, h.updateFixed k base n = ((h.countGroup k n).fixedStored k n).fixedNoted k (h.fixedNext k n)
      ((h.fixedNext k n).n.fired = true ∧ bit (h.word (h.recAddr k n)) 1 = true) e bias := by
  have hrange : List.range 4 = [0, 1, 2, 3] := rfl
  have hset : bits (h.word (h.recAddr k n + 8)) 23 16 = h.psetOf k n := by simp [Hw.psetOf, hc]
  have hm' : (h.countGroup k n).marks = [] := hm
  have hwords : (psetWords k (h.psetOf k n)).map (h.countGroup k n).word = h.words (psetAddr k (h.psetOf k n)) 8 := by
    rw [psetWords, List.map_map]
    rfl
  rw [Hw.updateFixed]
  simp only [hc, hm, hm', coreReads_good, Hw.recWordsAt, hrange, List.map_cons, List.map_nil, List.cons_append, List.getD_cons_zero,
    List.getD_cons_succ, if_true, if_false, Bool.false_eq_true, ne_eq, not_true_eq_false, Nat.mul_zero, Nat.add_zero, Nat.reduceMul, hen,
    hset, hwords]
  exact ⟨_, _, rfl⟩

/-- What the update of an enabled neuron whose words are good leaves to be read. -/
theorem updateFixed_reads (h : Hw) (k base n : Nat) (hm : h.marks = []) (hc : h.compact k = false) (hen : bit (h.word (h.recAddr k n)) 0 = true) :
    (∀ j, j < h.recAddr k n ∨ h.recAddr k n + 64 ≤ j → (h.updateFixed k base n).byte j = h.byte j) ∧
    (h.updateFixed k base n).read24 (h.slotAddr k n (h.stepNum.toNat % 16)) = 0 ∧
    (h.updateFixed k base n).word (h.recAddr k n) = recHead (h.word (h.recAddr k n)) (h.fixedNext k n).n ∧
    (h.updateFixed k base n).reg SPIKE_CNT k = if (h.fixedNext k n).n.fired = true then satAdd32 (h.reg SPIKE_CNT k) 1 else h.reg SPIKE_CNT k := by
  obtain ⟨e, bias, hfull⟩ := updateFixed_full h k base n hm hc hen
  have hmem : (h.updateFixed k base n).mem = ((h.countGroup k n).fixedStored k n).mem := by rw [hfull, fixedNoted_mem]
  refine ⟨fun j hj => ?_, ?_, ?_, ?_⟩
  · exact (byte_of_mem hmem j).trans (fixedStored_byte_ne (h.countGroup k n) k n hc j hj)
  · exact (read24_of_mem hmem _).trans (fixedStored_slot (h.countGroup k n) k n hc)
  · exact (word_of_mem hmem _).trans (fixedStored_head (h.countGroup k n) k n)
  · rw [hfull, fixedNoted_spikes, fixedStored_reg]
    rfl

/-! ### Accumulation (03 R97) -/

/-- An accumulation into a slot whose words are good stores the saturated sum, may count a saturation, and marks the core as not quiet. -/
theorem accumulate_good (h : Hw) (k n j : Nat) (c : Int) (hm : h.marks = []) :
    ∃ (g : Hw) (f : CoreSt → CoreSt),
    h.accumulate k n j c = (g.write24 (h.slotAddr k n j) (sat24 (h.read24 (h.slotAddr k n j) + c))).updCore k f ∧
      g.mem = h.mem ∧ g.cores = h.cores ∧ ∀ s, (f s).quiet = false := by
  rw [Hw.accumulate]
  simp only [coreReads_good hm, if_true]
  refine ⟨_, _, rfl, ?_, ?_, fun s => rfl⟩ <;> split <;> rfl

/-- Settles O51: the update stores what R93 computes from the record, the slot and the parameter set, in each of R93's three cases, and an
accumulation stores the saturated sum. -/
theorem fixedNeuronPath : Obligations.FixedNeuronPath := by
  refine ⟨?update, ?accumulate⟩
  case update =>
    intro h k base n ps w0 v' x hm hc hw0 hen hps hv' hx
    subst hw0 hps hv' hx
    obtain ⟨hbyte, hslot, hhead, hspikes⟩ := updateFixed_reads h k base n hm hc hen
    have hunfired (hf : (h.fixedNext k n).n.fired = false) : (h.updateFixed k base n).reg SPIKE_CNT k = h.reg SPIKE_CNT k := by
      rw [hspikes, hf, if_neg Bool.false_ne_true]
    refine ⟨hbyte, hslot, fun href => ?refractory, fun href hbelow => ?below, fun href habove => ?fires⟩
    case refractory =>
      obtain ⟨hcount, hf⟩ : (h.fixedNext k n).n.ref = _ ∧ (h.fixedNext k n).n.fired = false := fixedUpdate_refractory _ _ _ _ _ href
      have hlt := bits_lt (h.word (h.recAddr k n)) 7 4
      refine ⟨by rw [Hw.fld, Hw.fld, hunfired hf], ?_, by rw [hhead, recHead_fired, hf]⟩
      rw [hhead, recHead_ref _ _ (by rw [hcount]; exact (Nat.sub_le _ _).trans_lt hlt), hcount]
    case below =>
      rw [← threshold_eq] at hbelow
      obtain ⟨hv, hf⟩ : (h.fixedNext k n).n.v = _ ∧ (h.fixedNext k n).n.fired = false := fixedUpdate_below _ _ _ _ _ href hbelow
      obtain ⟨hlo, hhi⟩ := clampedV_bounds (h.words (psetAddr k (h.psetOf k n)) 8) (leakSum _ _ _ _)
      refine ⟨?_, by rw [hhead, recHead_fired, hf], hunfired hf⟩
      rw [hhead, recHead_v _ _ (hv ▸ hlo) (hv ▸ hhi), hv]
      rfl
    case fires =>
      rw [← threshold_eq] at habove
      obtain ⟨hnext, hf⟩ : (h.fixedNext k n).n.ref = _ ∧ (h.fixedNext k n).n.fired = true := fixedUpdate_fires _ _ _ _ _ href habove
      refine ⟨by rw [hhead, recHead_fired, hf], ?_, by rw [hspikes, if_pos hf]⟩
      rw [hhead, recHead_ref _ _ (hnext ▸ tref_lt _), hnext]
  case accumulate =>
    intro h k n j c hm
    obtain ⟨g, f, hacc, hmem, hcores, hquiet⟩ := accumulate_good h k n j c hm
    have hcore (v : Int) (i : Nat) : (g.write24 (h.slotAddr k n j) v).core i = h.core i := by
      rw [write24_eq]
      exact congrArg (fun t => Tbl.get {} t i) hcores
    obtain ⟨hlo, hhi⟩ := sat24_bounds (h.read24 (h.slotAddr k n j) + c)
    rw [hacc]
    refine ⟨?_, fun a ha => ?_, ?_, fun i hi => ?_⟩
    · exact (read24_of_mem (updCore_mem _ _ _) _).trans (read24_write24_same _ _ _ hlo hhi)
    · exact ((byte_of_mem (updCore_mem _ _ _) a).trans (byte_write24_ne _ _ _ _ ha)).trans (byte_of_mem hmem a)
    · rw [core_updCore, if_pos rfl]
      exact hquiet _
    · rw [core_updCore, if_neg (Ne.symm hi), hcore]

end Sys2Proof.Machine
end

section
/-! SUPPORT. Memory microcode (04 R119, R122–R127): where a handler address leads, what an access to good words does, what an address error does to a
per-event handler, and the statement on them. -/

namespace Sys2Proof.Machine

/-! ### What goes on in the engine leaves memory alone -/

section
variable (h : Hw) (r : Rg) (u who k : Nat)

/-- The end of a wait changes the list of waits and nothing else. -/
theorem waitOff_eq : h.waitOff r u who = { h with waits := (h.waitOff r u who).waits } := by
  unfold Hw.waitOff
  split <;> rfl

@[simp] theorem waitOff_mem : (h.waitOff r u who).mem = h.mem := by rw [waitOff_eq]
@[simp] theorem waitOff_core : (h.waitOff r u who).core k = h.core k := by rw [waitOff_eq]; rfl
@[simp] theorem waitOff_reg (r' : Rg) (u' : Nat) : (h.waitOff r u who).reg r' u' = h.reg r' u' := by rw [waitOff_eq]; rfl

@[simp] theorem updEng_eng (f : Engine → Engine) : (h.updEng k f).eng k = f (h.eng k) := by simp [Hw.updEng, Hw.eng]
@[simp] theorem updEng_mem (f : Engine → Engine) : (h.updEng k f).mem = h.mem := rfl
@[simp] theorem updEng_reg (f : Engine → Engine) (r : Rg) (u : Nat) : (h.updEng k f).reg r u = h.reg r u := rfl

/-- Going on counts the cycles of the engine's wait, where there was one, and ends it. -/
theorem mcGo_cases : h.mcGo k = h ∨
    h.mcGo k = ((h.waitOff MC_CYC_CNT k).waitOff EGRESS_STALL_CNT k 1).updEng k fun e => { e with cyc := e.cyc + h.waited MC_CYC_CNT k } := by
  by_cases hn : h.waited MC_CYC_CNT k = 0
  · exact .inl (if_pos hn)
  · exact .inr (if_neg hn)

@[simp] theorem mcGo_mem : (h.mcGo k).mem = h.mem := by
  obtain e | e := mcGo_cases h k <;> rw [e]
  simp

@[simp] theorem mcGo_reg : (h.mcGo k).reg r u = h.reg r u := by
  obtain e | e := mcGo_cases h k <;> rw [e]
  simp

@[simp] theorem mcGo_kind : ((h.mcGo k).eng k).kind = (h.eng k).kind := by
  obtain e | e := mcGo_cases h k <;> rw [e]
  rw [updEng_eng, Hw.eng, waitOff_core, waitOff_core, Hw.eng]

/-- The cycles of an instruction leave memory as it is. -/
@[simp] theorem mcDone_mem (pc n next : Nat) : (h.mcDone k pc n next).mem = h.mem := by simp [Hw.mcDone]

end

/-! ### Address errors (04 R124, R133, R139) -/

section
variable (g : Hw) (k pc : Nat)

/-- An address error counted, recorded in a word of MC_ABORT_INFO, and raised. -/
def Hw.addrErrored (g : Hw) (k : Nat) (info : Word) : Hw := ((g.inc MC_ADDR_ERR_CNT k).setReg MC_ABORT_INFO k info).raiseCore fMcFault k

section
variable (info : Word)

@[simp] theorem addrErrored_eng : (g.addrErrored k info).eng k = g.eng k := rfl
@[simp] theorem addrErrored_mem : (g.addrErrored k info).mem = g.mem := rfl
@[simp] theorem addrErrored_info : (g.addrErrored k info).reg MC_ABORT_INFO k = info := reg_setReg_same _ MC_ABORT_INFO k info

@[simp] theorem addrErrored_count : (g.addrErrored k info).reg MC_ADDR_ERR_CNT k = satAdd32 (g.reg MC_ADDR_ERR_CNT k) 1 :=
  (reg_setReg_ne _ MC_ABORT_INFO _ _ _ _ fun e => absurd e.1 (by decide)).trans (reg_inc_same g MC_ADDR_ERR_CNT k 1)

end

@[simp] theorem mcOff_running : ((g.mcOff k).eng k).running = false := by rw [Hw.mcOff, updEng_eng]
@[simp] theorem mcOff_mem : (g.mcOff k).mem = g.mem := rfl
@[simp] theorem mcOff_reg (r : Rg) (u : Nat) : (g.mcOff k).reg r u = g.reg r u := rfl

/-- A per-event handler that leaves the engine frees it, and that is all. -/
theorem mcLeave_event (hk : (g.eng k).kind = .event) : g.mcLeave k = g.mcOff k := by simp [Hw.mcLeave, Hw.mcOff, hk]

/-- An address error of a per-event handler is counted, recorded and raised, and frees the engine. -/
theorem mcAbort_addrError (hk : (g.eng k).kind = .event) : g.mcAbort k 2 0 pc =
    (g.addrErrored k (w32 (pc % 1024 + 1 * 2 ^ 10 + 2 * 2 ^ 12))).mcOff k := by
  have hkind : ((g.inc MC_ADDR_ERR_CNT k).eng k).kind.code = 1 := congrArg Kind.code hk
  have hinfo : pc % 1024 + ((g.inc MC_ADDR_ERR_CNT k).eng k).kind.code * 2 ^ 10 + 2 * 2 ^ 12 + 0 % 256 * 2 ^ 16 =
      pc % 1024 + 1 * 2 ^ 10 + 2 * 2 ^ 12 := by
    omega
  rw [← hinfo]
  exact mcLeave_event (g.addrErrored k _) k ((congrArg Engine.kind (addrErrored_eng g k _)).trans hk)

/-- The engine after `cyc` cycles of an instruction at `pc` that goes no further. -/
def Hw.mcSpent (g : Hw) (k pc cyc : Nat) : Hw := ((g.mcGo k).setReg MC_PC k (w32 pc)).mcCycles k cyc

@[simp] theorem mcSpent_mem (cyc : Nat) : (g.mcSpent k pc cyc).mem = g.mem := mcGo_mem g k

theorem mcSpent_kind (cyc : Nat) : ((g.mcSpent k pc cyc).eng k).kind = (g.eng k).kind := by
  rw [Hw.mcSpent, Hw.mcCycles, updEng_eng, ← mcGo_kind g k]
  rfl

theorem mcSpent_addrErrors (cyc : Nat) : (g.mcSpent k pc cyc).reg MC_ADDR_ERR_CNT k = g.reg MC_ADDR_ERR_CNT k := by
  rw [Hw.mcSpent, Hw.mcCycles, updEng_reg, reg_inc_ne _ _ _ _ _ _ (fun e => absurd e.1 (by decide)),
    reg_setReg_ne _ _ _ _ _ _ (fun e => absurd e.1 (by decide)), mcGo_reg]

/-- The engine takes an address error of a per-event handler. -/
theorem mcTake_addrError (h : Hw) (hk : (g.eng k).kind = .event) :
    h.mcTake k pc (.abort g 2 0) = ((g.mcSpent k pc 1).addrErrored k (w32 (pc % 1024 + 1 * 2 ^ 10 + 2 * 2 ^ 12))).mcOff k :=
  mcAbort_addrError (g.mcSpent k pc 1) k pc ((mcSpent_kind g k pc 1).trans hk)

end

/-! ### Handler addresses (04 R119) -/

section
variable {w : Word} {a : Nat} (ha : a = w.toNat / 4 * 4)
include ha

theorem hAddr_sram (h : a < 0x20000) : hAddr w = .sram a := by simp [hAddr, ← ha, h]

theorem hAddr_dm (hlo : 0x20000 ≤ a) (hhi : a < 0x22000) : hAddr w = .dm a := by simp [hAddr, ← ha, hhi, Nat.not_lt.2 hlo]

theorem hAddr_pram (hlo : 0x24000 ≤ a) (hhi : a < 0x26000) : hAddr w = .pram a := by
  have hsram : ¬ a < 0x20000 := by omega
  have hdm : ¬ a < 0x22000 := by omega
  simp [hAddr, ← ha, hsram, hdm, hlo, hhi]

theorem hAddr_bad (h : 0x22000 ≤ a ∧ a < 0x24000 ∨ 0x26000 ≤ a) : hAddr w = .bad := by
  have hsram : ¬ a < 0x20000 := by omega
  have hdm : ¬ a < 0x22000 := by omega
  have hpram : ¬ (0x24000 ≤ a ∧ a < 0x26000) := by omega
  simp only [hAddr, ← ha, hsram, hdm, hpram, if_false]

end

/-! ### Loads and stores -/

section
variable (h : Hw) (k : Nat) (i : MInstr) {a : Nat} (ha : a = (h.mcReg k i.f2 + i.simm).toNat / 4 * 4)

/-- A load of a good word. -/
theorem loadTo_good (rd : Nat) (hm : h.mark (coreBase k + a) = 0) :
    loadTo h k a rd = .done (h.mcSet k rd (h.word (coreBase k + a))) 2 none := by
  simp only [loadTo, coreRead_good _ _ _ hm]

include ha

/-- LD reads SRAM, data memory and parameter RAM. -/
theorem semLd_good (hin : a < 0x22000 ∨ 0x24000 ≤ a ∧ a < 0x26000) (hm : h.mark (coreBase k + a) = 0) :
    semLd h k i = .done (h.mcSet k i.f1 (h.word (coreBase k + a))) 2 none := by
  rw [← loadTo_good h k i.f1 hm, semLd]
  obtain hlow | ⟨hlo, hhi⟩ := hin
  · by_cases hsram : a < 0x20000
    · rw [hAddr_sram ha hsram]
    · rw [hAddr_dm ha (Nat.not_lt.1 hsram) hlow]
  · rw [hAddr_pram ha hlo hhi]

theorem semLd_bad (hout : 0x22000 ≤ a ∧ a < 0x24000 ∨ 0x26000 ≤ a) : semLd h k i = .abort h 2 0 := by rw [semLd, hAddr_bad ha hout]

theorem semSt_sram (hin : a < 0x20000) : semSt h k i = .done ((h.setWord (coreBase k + a) (h.mcReg k i.f1)).unquiet k) 1 none := by
  rw [semSt, hAddr_sram ha hin]

theorem semSt_dm (hlo : 0x20000 ≤ a) (hhi : a < 0x22000) : semSt h k i = .done (h.setWord (coreBase k + a) (h.mcReg k i.f1)) 1 none := by
  rw [semSt, hAddr_dm ha hlo hhi]

/-- ST writes neither parameter RAM nor anything past data memory. -/
theorem semSt_bad (hout : 0x22000 ≤ a) : semSt h k i = .abort h 2 0 := by
  rw [semSt]
  by_cases hpram : 0x24000 ≤ a ∧ a < 0x26000
  · rw [hAddr_pram ha hpram.1 hpram.2]
  · rw [hAddr_bad ha (by omega)]

end

/-! ### The bank path (04 R125, 05 R157, R164) -/

/-- The offset of a bank-path access is that of a word. -/
theorem bankPath_aligned {w : Word} {imm : Int} {b off : Nat} (hp : bankPath w imm = some (b, off)) : off % 4 = 0 := by
  rw [bankPath] at hp
  split at hp
  · obtain ⟨-, rfl⟩ := Prod.mk.inj (Option.some.inj hp)
    exact Nat.mul_mod_left _ 4
  · cases hp

section
variable (h : Hw) (c b : Nat)

theorem bankWord_good (off : Nat) (hm : h.mark (bankBase c b + off) = 0) : h.bankWord c b off = (h, some (h.word (bankBase c b + off))) := by
  simp only [Hw.bankWord, hm, if_true]

/-- A line of good words is read without any other effect. -/
theorem bankLine_good (line : Nat) (hm : ∀ j, j < 4 → h.mark (bankBase c b + (16 * line + 4 * j)) = 0) :
    h.bankLine c b line = (h, (List.range 4).map fun j => some (h.word (bankBase c b + (16 * line + 4 * j)))) := by
  have h0 := bankWord_good h c b _ (hm 0 (by omega))
  have h1 := bankWord_good h c b _ (hm 1 (by omega))
  have h2 := bankWord_good h c b _ (hm 2 (by omega))
  have h3 := bankWord_good h c b _ (hm 3 (by omega))
  simp only [Nat.mul_zero, Nat.add_zero, Nat.mul_one, Nat.reduceMul] at h0 h1 h2 h3
  simp only [Hw.bankLine, h0, h1, h2, h3]
  rfl

/-- A word of a line of good words. -/
theorem bankRead_good (off : Nat) (h4 : off % 4 = 0) (hm : ∀ j, j < 4 → h.mark (bankBase c b + off / 16 * 16 + 4 * j) = 0) :
    h.bankRead c b off = (h, some (h.word (bankBase c b + off))) := by
  have hline : ∀ j, j < 4 → h.mark (bankBase c b + (16 * (off / 16) + 4 * j)) = 0 := fun j hj => by
    rw [← hm j hj, Nat.mul_comm 16, Nat.add_assoc]
  have hoff : 16 * (off / 16) + 4 * (off / 4 % 4) = off := by omega
  have hlt : off / 4 % 4 < 4 := by omega
  rw [Hw.bankRead, bankLine_good h c b _ hline]
  simp [List.getD_eq_getElem?_getD, hlt, hoff]

end

section
variable (h : Hw) (k : Nat) (i : MInstr) {b off : Nat} (hp : bankPath (h.mcReg k i.f2) (sext 18 i.low) = some (b, off))
  (hok : h.portA (k / 32) b off (k % 32) = .ok)
include hp hok

/-- LDB reads a good word of an owned bank that is ON. -/
theorem semLdb_good (hm : ∀ j, j < 4 → h.mark (bankBase (k / 32) b + off / 16 * 16 + 4 * j) = 0) :
    semLdb h k i = .done (h.mcSet k i.f1 (h.word (bankBase (k / 32) b + off))) 6 none := by
  simp only [semLdb, semBank, hp, hok, bankRead_good h _ _ _ (bankPath_aligned hp) hm]

/-- STB writes a word of an owned bank that is ON. -/
theorem semStb_ok : semStb h k i = .done (h.setWord (bankBase (k / 32) b + off) (h.mcReg k i.f1)) 2 none := by
  simp only [semStb, semBank, hp, hok]

end

/-! ### Accumulation and events (04 R126, R127) -/

section
variable (h : Hw) (k : Nat) (i : MInstr)

/-- RADD to a neuron of a full-layout core accumulates into the slot of the delivery step and the delay. -/
theorem semRadd_full (hn : bits (h.mcReg k i.f2) 12 0 < h.imageN k) (hc : h.compact k = false) : semRadd h k i =
    .done (h.accumulate k (bits (h.mcReg k i.f2) 12 0) ((h.raddStep k + 15 + (i.low % 8 + 8 * (i.f1 % 2) + 1)) % 16) (h.mcReg k i.f3).toInt)
      1 none := by
  simp only [semRadd, Nat.not_le.2 hn, if_false, Hw.contribute, hc, Bool.false_eq_true, false_and, ringSlot]

/-- EMIT with room in the egress buffer puts the event there. -/
theorem semEmit_room (hn : bits (h.mcReg k i.f2) 12 0 < h.imageN k) (hroom : (h.core k).egress.length < 256) : semEmit h k i =
    .done (h.egressPush k ⟨neuronAddr k (h.imageBase k + bits (h.mcReg k i.f2) 12 0), evLow (bits (h.mcReg k i.f3) 23 16)
      (bits (h.mcReg k i.f3) 15 0) (bits (h.mcReg k i.f3) 27 24)⟩) 1 none := by
  have hfree : h.egressFull k = false := by rw [Hw.egressFull, decide_eq_false (Nat.not_le.2 hroom)]
  simp only [semEmit, Nat.not_le.2 hn, if_false, hfree, Bool.false_eq_true]

/-- EMIT outside the integrate phase drops its event where the egress buffer is full. -/
theorem semEmit_full (hn : bits (h.mcReg k i.f2) 12 0 < h.imageN k) (hfull : 256 ≤ (h.core k).egress.length) (hph : h.step.phase ≠ .integrate) :
    semEmit h k i = .done (h.inc MC_EMIT_DROP_CNT k) 1 none := by
  have hno : h.egressFull k = true := by rw [Hw.egressFull, decide_eq_true hfull]
  simp only [semEmit, Nat.not_le.2 hn, if_false, hno, if_true, hph]

end

/-- The low word of an event with an 8-bit sub-step, a 16-bit payload and 4 bits of flags. -/
theorem evLow_fields (b : Word) : evLow (bits b 23 16) (bits b 15 0) (bits b 27 24) =
    w32 (bits b 23 16 * 2 ^ 24 + bits b 15 0 * 2 ^ 8 + bits b 27 24) := by
  have hsub : bits b 23 16 < 256 := bits_lt b 23 16
  have hpayload : bits b 15 0 < 65536 := bits_lt b 15 0
  have hflags : bits b 27 24 < 16 := bits_lt b 27 24
  rw [evLow, Nat.mod_eq_of_lt hsub, Nat.mod_eq_of_lt hpayload, Nat.mod_eq_of_lt (hflags.trans (by decide))]

/-- A row whose instruction goes on at the next index. -/
theorem executed_of_next {c : Instr} {s : State} {k : Core} {i : MInstr} (e : s.Executes k i) {want : MOp} (hw : i.op = want)
    {sem : Hw → Nat → MInstr → MRes} (hc : exec c s = mcExec k want sem s) {g : Hw} {n : Nat} (hs : sem s.hw k i = .done g n none) :
    Executed c s k g n ((s.hw.eng k).pc + 1) := executed_of_done e hw sem hc hs

/-- A statement on the block after an instruction follows from what the instruction does. -/
theorem answers_of_executed {c : Instr} {s : State} {k : Nat} {g : Hw} {n next : Nat} {P : Hw → Prop} (hx : Executed c s k g n next)
    (hP : P (g.mcDone k (s.hw.eng k).pc n next)) : Answers c s P := by
  obtain ⟨t, ht, hpend, hhw⟩ := hx
  exact ⟨t, ht, hpend, hhw ▸ hP⟩

/-- A row whose instruction of a per-event handler meets an address error: the engine is free, the error is counted and recorded, and memory is as
it was. -/
theorem answers_addrError {c : Instr} {s : State} {k : Core} {i : MInstr} (e : s.Executes k i) {want : MOp} (hw : i.op = want)
    {sem : Hw → Nat → MInstr → MRes} (hc : exec c s = mcExec k want sem s) (hs : sem s.hw k i = .abort s.hw 2 0)
    (hk : (s.hw.eng k).kind = .event) :
    Answers c s fun t => (t.eng k).running = false ∧ t.reg MC_ADDR_ERR_CNT k = satAdd32 (s.hw.reg MC_ADDR_ERR_CNT k) 1 ∧
      t.mem = s.hw.mem ∧ t.reg MC_ABORT_INFO k = w32 ((s.hw.eng k).pc % 1024 + 1 * 2 ^ 10 + 2 * 2 ^ 12) := by
  refine ⟨_, hc.trans (mcExec_executes e hw sem), rfl, ?_⟩
  simp only [hs, mcTake_addrError _ _ _ _ hk, mcOff_running, mcOff_reg, addrErrored_count, addrErrored_info, mcSpent_addrErrors, mcOff_mem,
    addrErrored_mem, mcSpent_mem, and_self]

/-- Settles O44: each row's instruction is carried out where its address or operand leads, by the lemma on that instruction. -/
theorem microcodeMemory : Obligations.MicrocodeMemory := by
  intro s k i x a e hx ha
  subst hx
  refine ⟨?ld, ?stSram, ?stDm, ?stMemory, ?outside, ?ldb, ?stb, ?radd, ?emit, ?emitDrop⟩
  case ld =>
    intro hop hin hm
    exact computed_of_done e hop rfl (semLd_good s.hw k i ha hin hm)
  case stSram =>
    intro hop hin
    exact executed_of_next e hop rfl (semSt_sram s.hw k i ha hin)
  case stDm =>
    intro hop hlo hhi
    exact executed_of_next e hop rfl (semSt_dm s.hw k i ha hlo hhi)
  case stMemory =>
    intro hop hin
    have hstored {t : Hw} (ht : t.mem = (s.hw.setWord (coreBase k + a) (s.hw.mcReg k i.f1)).mem) :
        t.word (coreBase k + a) = s.hw.mcReg k i.f1 ∧ ∀ j, j < coreBase k + a ∨ coreBase k + a + 4 ≤ j → t.byte j = s.hw.byte j :=
      ⟨(word_of_mem ht _).trans (word_setWord_same _ _ _), fun j hj => (byte_of_mem ht j).trans (byte_setWord_ne _ _ _ _ hj)⟩
    by_cases hsram : a < 0x20000
    · exact answers_of_executed (executed_of_next e hop rfl (semSt_sram s.hw k i ha hsram)) (hstored (mcDone_mem _ _ _ _ _))
    · exact answers_of_executed (executed_of_next e hop rfl (semSt_dm s.hw k i ha (Nat.not_lt.1 hsram) hin)) (hstored (mcDone_mem _ _ _ _ _))
  case outside =>
    rintro (⟨hop, hout⟩ | ⟨hop, hout⟩) hk
    · rw [if_pos hop]
      exact answers_addrError e hop rfl (semLd_bad s.hw k i ha hout) hk
    · rw [if_neg (by simp [hop])]
      exact answers_addrError e hop rfl (semSt_bad s.hw k i ha hout) hk
  case ldb =>
    intro b off hop hp hok hm
    exact computed_of_done e hop rfl (semLdb_good s.hw k i hp hok hm)
  case stb =>
    intro b off hop hp hok
    exact executed_of_next e hop rfl (semStb_ok s.hw k i hp hok)
  case radd =>
    rintro n d hop rfl hn rfl hc
    exact executed_of_next e hop rfl (semRadd_full s.hw k i hn hc)
  case emit =>
    rintro n b hop rfl rfl hn hroom
    rw [← evLow_fields]
    exact executed_of_next e hop rfl (semEmit_room s.hw k i hn hroom)
  case emitDrop =>
    intro hop hn hfull hph
    exact executed_of_next e hop rfl (semEmit_full s.hw k i hn hfull hph)

end Sys2Proof.Machine
end

section
/-! SUPPORT. Microcode words (04 R121, R122, R124): the operation of an opcode, what decodes a word and what a word's fields are, and the
statement on them. -/

namespace Sys2Proof.Machine

/-! ### Opcodes -/

theorem MOp.code_lt (op : MOp) : op.code < 64 := by cases op <;> decide

/-- An opcode gives its operation, and of the channel opcode the function tells which. -/
theorem MOp.ofCode_code (op : MOp) (f : Nat) (hf : op.code = 0x39 → f = op.func) : MOp.ofCode op.code f = some op := by
  cases op with
  | chanListen | chanOpen | chanSend | chanClose | chanStatus => rw [hf rfl]; rfl
  | _ => rfl

/-- No opcode but its own gives an operation. -/
theorem MOp.code_of_ofCode {c f : Nat} {op : MOp} (h : MOp.ofCode c f = some op) : op.code = c := by
  unfold MOp.ofCode at h
  split at h
  -- The channel opcode, whose function tells the operation.
  case h_41 => split at h <;> cases h <;> rfl
  all_goals cases h
  all_goals rfl

/-! ### Words -/

/-- The fields that must be 0 leave of [13:0] of a channel instruction its function alone. -/
theorem MInstr.low_of_chan {i : MInstr} (hok : i.fieldsOk = true) (hc : i.op.code = 0x39) : i.low % 2 ^ 14 = i.op.func := by
  obtain ⟨op, f1, f2, low⟩ := i
  cases op with
  | chanListen | chanOpen | chanSend | chanClose | chanStatus => exact of_decide_eq_true hok
  | _ => simp [MOp.code] at hc

theorem MOp.func_lt (op : MOp) : op.func < 8 := by cases op <;> decide

theorem MInstr.wf_iff (i : MInstr) : i.wf = true ↔ i.f1 < 16 ∧ i.f2 < 16 ∧ i.low < 2 ^ 18 ∧ i.fieldsOk = true := by
  simp [MInstr.wf, and_assoc]

/-- The word of an instruction, as a number. -/
theorem mcEncode_toNat {i : MInstr} (hf1 : i.f1 < 16) (hf2 : i.f2 < 16) (hlow : i.low < 2 ^ 18) :
    (mcEncode i).toNat = i.op.code * 2 ^ 26 + i.f1 * 2 ^ 22 + i.f2 * 2 ^ 18 + i.low := by
  have hcode := i.op.code_lt
  rw [mcEncode, w32, BitVec.toNat_ofNat, Nat.mod_eq_of_lt (by omega)]

/-- A word decodes to the instruction whose opcode, register fields and low bits it holds, where no field of it must be 0 and is not. -/
theorem mcDecode_eq_some_iff (w : Word) (i : MInstr) : mcDecode w = some i ↔
    MOp.ofCode (w.toNat / 2 ^ 26 % 64) (w.toNat % 8) = some i.op ∧ w.toNat / 2 ^ 22 % 16 = i.f1 ∧ w.toNat / 2 ^ 18 % 16 = i.f2 ∧
      w.toNat % 2 ^ 18 = i.low ∧ i.fieldsOk = true := by
  obtain ⟨op, f1, f2, low⟩ := i
  rw [mcDecode]
  cases hop : MOp.ofCode (w.toNat / 2 ^ 26 % 64) (w.toNat % 8) with
  | none => simp
  | some op' =>
    simp only [Option.ite_none_right_eq_some, Option.some.injEq, MInstr.mk.injEq]
    constructor
    · rintro ⟨hok, rfl, rfl, rfl, rfl⟩
      exact ⟨rfl, rfl, rfl, rfl, hok⟩
    · rintro ⟨rfl, rfl, rfl, rfl, hok⟩
      exact ⟨hok, rfl, rfl, rfl, rfl⟩

/-- The word of a well-formed instruction decodes to it. -/
theorem mcDecode_mcEncode {i : MInstr} (hi : i.wf = true) : mcDecode (mcEncode i) = some i := by
  obtain ⟨hf1, hf2, hlow, hok⟩ := i.wf_iff.1 hi
  have hcode := i.op.code_lt
  have hword := mcEncode_toNat hf1 hf2 hlow
  have hopcode : (mcEncode i).toNat / 2 ^ 26 % 64 = i.op.code := by omega
  have hfunc : i.op.code = 0x39 → (mcEncode i).toNat % 8 = i.op.func := fun hc => by
    have hlt := i.op.func_lt
    have hlo := i.low_of_chan hok hc
    omega
  refine (mcDecode_eq_some_iff _ _).2 ⟨?_, by omega, by omega, by omega, hok⟩
  rw [hopcode]
  exact i.op.ofCode_code _ hfunc

/-- A word that decodes is the word of a well-formed instruction, the one it decodes to. -/
theorem wf_of_mcDecode {w : Word} {i : MInstr} (hd : mcDecode w = some i) : i.wf = true ∧ mcEncode i = w := by
  obtain ⟨hop, hf1, hf2, hlow, hok⟩ := (mcDecode_eq_some_iff w i).1 hd
  have hcode := MOp.code_of_ofCode hop
  refine ⟨i.wf_iff.2 ⟨by omega, by omega, by omega, hok⟩, BitVec.eq_of_toNat_eq ?_⟩
  have hw := w.isLt
  rw [mcEncode_toNat (by omega) (by omega) (by omega)]
  omega

/-- Settles O8: encoding then decoding, and decoding then encoding, give back what they began with. -/
theorem microcodeWordsRoundTrip : Obligations.MicrocodeWordsRoundTrip :=
  ⟨fun _ hi => mcDecode_mcEncode hi, fun _ _ hd => wf_of_mcDecode hd⟩

end Sys2Proof.Machine
end

section
/-! SUPPORT. Microcode that computes (04 R121–R123, R133, R530): what a row's instruction leaves in rd, and the statement on the register-form and
immediate rows, CSR and RAND. -/

namespace Sys2Proof.Machine

/-- A shift is by the low five bits of rb (04 R122). -/
theorem bits_shiftAmount (w : Word) : bits w 4 0 = w.toNat % 32 := rfl

/-! ### MULQ (04 R122, log 132) -/

section
variable (h : Hw) (k : Nat) (i : MInstr) {a b : Word} (ha : a = h.mcReg k i.f2) (hb : b = h.mcReg k i.f3)
include ha hb

/-- A quotient that 32 bits hold is the result. -/
theorem semMulq_fits (hlo : -(2 ^ 31) ≤ (a.toInt * ((b.toNat % 65536 : Nat) : Int)).tdiv 32768)
    (hhi : (a.toInt * ((b.toNat % 65536 : Nat) : Int)).tdiv 32768 < 2 ^ 31) :
    semMulq h k i = .done (h.mcSet k i.f1 (wInt ((a.toInt * ((b.toNat % 65536 : Nat) : Int)).tdiv 32768))) 2 none := by
  subst ha hb
  exact if_pos ⟨hlo, hhi⟩

/-- A quotient that 32 bits do not hold leaves a free value. -/
theorem semMulq_free (hout : (a.toInt * ((b.toNat % 65536 : Nat) : Int)).tdiv 32768 < -(2 ^ 31) ∨
      2 ^ 31 ≤ (a.toInt * ((b.toNat % 65536 : Nat) : Int)).tdiv 32768) :
    semMulq h k i = .done (h.free.2.mcSet k i.f1 h.free.1) 2 none := by
  subst ha hb
  exact if_neg fun hin => hout.elim (not_lt.2 hin.1) (not_le.2 hin.2)

end

/-! ### Fields of a word: EXT and INS (04 R121) -/

theorem extVal_zero (w : Word) (imm : Nat) (hz : imm / 1024 % 2 = 0) :
    extVal w imm = w32 (w.toNat / 2 ^ (imm % 32) % 2 ^ (imm / 32 % 32 + 1)) := if_neg (by omega)

theorem extVal_sign (w : Word) (imm : Nat) (hs : imm / 1024 % 2 = 1) :
    extVal w imm = wInt (sext (imm / 32 % 32 + 1) (w.toNat / 2 ^ (imm % 32) % 2 ^ (imm / 32 % 32 + 1))) := if_pos hs

/-- INS takes the bits of its field from the low bits of ra and all others from rd. -/
theorem insVal_bit (d a : Word) (imm j : Nat) (hj : j < 32) : (insVal d a imm).getLsbD j =
    if imm % 32 ≤ j ∧ j < imm % 32 + (imm / 32 % 32 + 1) then a.getLsbD (j - imm % 32) else d.getLsbD j := by
  simp only [insVal, w32, BitVec.getLsbD_or, BitVec.getLsbD_and, BitVec.getLsbD_not, BitVec.getLsbD_ofNat, Nat.testBit_mul_two_pow,
    Nat.testBit_two_pow_sub_one, Nat.testBit_mod_two_pow, BitVec.testBit_toNat, hj, decide_true, Bool.true_and]
  by_cases hlo : imm % 32 ≤ j
  · by_cases hhi : j - imm % 32 < imm / 32 % 32 + 1
    · have hin : j < imm % 32 + (imm / 32 % 32 + 1) := by omega
      simp [hlo, hhi, hin]
    · have hout : ¬ j < imm % 32 + (imm / 32 % 32 + 1) := by omega
      simp [hhi, hout]
  · simp [hlo]

/-! ### The statement -/

/-- Settles O43: each row's instruction completes with the function of its row in rd. -/
theorem microcodeComputes : Obligations.MicrocodeComputes := by
  refine ⟨fun s k i a b e ha hb => ?registers, fun s k i a e ha => ?immediates⟩
  case registers =>
    refine ⟨?add, ?sub, ?adds, ?subs, ?and, ?or, ?xor, ?shl, ?shr, ?sra, ?mul, ?mulq, ?min, ?max, ?sat24, ?slt, ?mulqFree⟩
    case mulq => exact fun hop hlo hhi => computed_of_done e hop rfl (semMulq_fits s.hw k i ha hb hlo hhi)
    case mulqFree => exact fun hop hout => executed_of_next e hop rfl (semMulq_free s.hw k i ha hb hout)
    all_goals subst ha hb
    case shl | shr | sra =>
      intro hop
      rw [← bits_shiftAmount]
      exact computed_of_done e hop rfl rfl
    all_goals exact fun hop => computed_of_done e hop rfl rfl
  case immediates =>
    subst ha
    refine ⟨?addi, ?andi, ?ori, ?xori, ?shli, ?shri, ?srai, ?lui, ?extZero, ?extSign, ?ins, ?step, ?subStep, ?address, ?phase, ?cycles, ?rand⟩
    case extZero =>
      intro hop hz
      rw [← extVal_zero _ _ hz]
      exact computed_of_done e hop rfl rfl
    case extSign =>
      intro hop hs
      rw [← extVal_sign _ _ hs]
      exact computed_of_done e hop rfl rfl
    case ins => exact fun hop => ⟨_, computed_of_done e hop rfl rfl, insVal_bit _ _ i.low⟩
    case rand => exact fun hop => executed_of_next e hop rfl rfl
    case step | subStep | address | phase | cycles =>
      intro hop hlow
      refine computed_of_done e hop rfl ?_
      rw [hlow]
      rfl
    all_goals exact fun hop => computed_of_done e hop rfl rfl

end Sys2Proof.Machine
end

section
/-! SUPPORT. Channel functions of the microcode (04 R128, 07 R222–R227): what posting one takes, what each function does with its ticket, and the
statement on them. -/

namespace Sys2Proof.Machine

/-! ### Endpoints, tickets, handles and ports -/

/-- A core's endpoint is one of the first 32 of its cluster (07 R205). -/
theorem epIsCore_epOfCore (k : Nat) : epIsCore (epOfCore k) = true := by
  have hno : epNo (epOfCore k) < 32 := by
    simp only [epNo, epOfCore]
    omega
  exact decide_eq_true hno

section
variable (h : Hw) (e t : Nat) (v : Ticket)

/-- A ticket is written in its endpoint's table alone. -/
@[simp] theorem setTicket_ep : (h.setTicket e t v).ep e = { h.ep e with tickets := Tbl.set {} (h.ep e).tickets t v } := by
  rw [Hw.setTicket, Hw.updEp, ep_setEp, if_pos rfl]

@[simp] theorem setTicket_port (p : Nat) : (h.setTicket e t v).port e p = h.port e p := by simp only [Hw.port, setTicket_ep]
@[simp] theorem setTicket_handle (i : Nat) : (h.setTicket e t v).handle e i = h.handle e i := by simp only [Hw.handle, setTicket_ep]

end

/-! ### Posting a function -/

section
variable (h : Hw) (e op i : Nat) (f : Nat → Hw → Hw)

/-- The block with ticket t taken for a function. -/
abbrev Hw.ticketTaken (h : Hw) (e t op i : Nat) : Hw := h.setTicket e t { used := true, st := 0, op := op, handle := i, sentAt := h.dev }

/-- With no free ticket a posted function does nothing. -/
theorem post_none (hn : h.freeTicket e = none) : h.post e op i f = (h, 0xFFFFFFFF#32) := by
  rw [Hw.post, hn]
  rfl

/-- A posted function takes the lowest free ticket and answers its number. -/
theorem post_some {t : Nat} (ht : h.freeTicket e = some t) : h.post e op i f = (f t (h.ticketTaken e t op i), w32 t) := by
  rw [Hw.post, ht]

end

/-! ### LISTEN -/

section
variable (h : Hw) (e p base size entry : Nat)

theorem chanListen_noTicket (hn : h.freeTicket e = none) : h.chanListen e p base size entry = (h, 0xFFFFFFFF#32) := post_none _ _ _ _ _ hn

section
variable {t : Nat} (ht : h.freeTicket e = some t)
include ht

/-- A port that nobody has taken listens, while its core endpoint has fewer than eight that do. -/
theorem chanListen_free (he : epIsCore e = true) (hp : h.port e p = {}) (hroom : ((h.ep e).ports.filter fun x => x.2.on).length < 8)
    (hsize : size < 5) : h.chanListen e p base size entry =
      (((h.ticketTaken e t 0 0).setPort e p { on := true, base := base, size := 256 * 2 ^ size, entry := entry }).ticketDone e t, w32 t) := by
  have hports : epPorts e = 8 := if_pos he
  simp [Hw.chanListen, post_some _ _ _ _ _ ht, hp, hports, Nat.not_le.2 hroom, hsize]

/-- A port that listens is not taken again. -/
theorem chanListen_busy (hon : (h.port e p).on = true) (hcl : (h.port e p).closing = false) :
    h.chanListen e p base size entry = ((h.ticketTaken e t 0 0).ticketNak e t nBUSY, w32 t) := by
  simp [Hw.chanListen, post_some _ _ _ _ _ ht, hon, hcl]

end
end

/-! ### OPEN -/

section
variable (h : Hw) (e pkg cl ep p : Nat)

theorem chanOpen_noTicket (hn : h.freeTicket e = none) : h.chanOpen e pkg cl ep p = (h, 0xFFFFFFFF#32) := by
  rw [Hw.chanOpen]
  split <;> exact post_none _ _ _ _ _ hn

section
variable {t : Nat} (ht : h.freeTicket e = some t)
include ht

/-- The lowest free handle begins to open and its request leaves. -/
theorem chanOpen_free {j : Nat} (hj : ((List.range (epHandles e)).find? fun i => (h.handle e i).st == 0) = some j) :
    h.chanOpen e pkg cl ep p =
      (((h.ticketTaken e t 1 j).setHandle e j { st := 1, dst := pkg * 2 ^ 16 + cl * 2 ^ 8 + ep, port := p }).sendReq e
        [uniHdr tCTLQ 2 pkg cl ep, retAddr h.pkgNum (epCl e) (epNo e) t, ctlWord opOPEN 0 0 0 p] (h.uniDest (epCl e) pkg cl).toList, w32 t) := by
  simp only [Hw.chanOpen, hj, post_some _ _ _ _ _ ht]
  rfl

/-- With every handle in use the ticket ends with NAK(NOCONN). -/
theorem chanOpen_full (hn : ((List.range (epHandles e)).find? fun i => (h.handle e i).st == 0) = none) :
    h.chanOpen e pkg cl ep p = ((h.ticketTaken e t 1 0).ticketNak e t nNOCONN, w32 t) := by
  rw [Hw.chanOpen, hn, post_some _ _ _ _ _ ht]

end
end

/-! ### SEND -/

/-- Good words are read one after another without any other effect. -/
theorem foldl_coreRead_good (h : Hw) (k : Nat) (ws : List Nat) (hm : ∀ w ∈ ws, h.mark (dmAddr k w) = 0) :
    ws.foldl (fun (g : Hw × Bool) w => ((g.1.coreRead k (dmAddr k w)).1, g.2 && (g.1.coreRead k (dmAddr k w)).2.isSome)) (h, true) = (h, true) := by
  induction ws with
  | nil => rfl
  | cons w r ih =>
    rw [List.foldl_cons, coreRead_good _ _ _ (hm w List.mem_cons_self)]
    exact ih fun x hx => hm x (List.mem_cons_of_mem _ hx)

theorem mem_rangeIncl {lo hi x : Nat} : x ∈ rangeIncl lo hi ↔ lo ≤ x ∧ x ≤ hi := by
  simp only [rangeIncl, List.mem_map, List.mem_range]
  constructor
  · rintro ⟨y, hy, rfl⟩
    omega
  · rintro ⟨hlo, hhi⟩
    exact ⟨x - lo, by omega, by omega⟩

section
variable (h : Hw) (e i : Nat) (msg : List Byte) {t : Nat} (ht : h.freeTicket e = some t)
include ht

theorem chanSend_open (hst : (h.handle e i).st = 2) : h.chanSend e i msg = ((h.ticketTaken e t 2 i).sendMessage e i t msg, w32 t) := by
  simp [Hw.chanSend, post_some _ _ _ _ _ ht, hst]

theorem chanSend_closed (hst : (h.handle e i).st ≠ 2) : h.chanSend e i msg = ((h.ticketTaken e t 2 i).ticketNak e t nCLOSED, w32 t) := by
  simp [Hw.chanSend, post_some _ _ _ _ _ ht, hst]

end

/-- SEND of 1 to 256 good bytes inside data memory sends those bytes. -/
theorem semSend_good (h : Hw) (k : Nat) (i : MInstr) {l x : Nat} (hl : l = bits (h.mcReg k i.f3) 31 16) (hx : x = bits (h.mcReg k i.f3) 15 0)
    (hlo : 1 ≤ l) (hhi : l ≤ 256) (hin : x + l ≤ 0x2000) (hm : ∀ w, x / 4 ≤ w → w ≤ (x + l - 1) / 4 → h.mark (dmAddr k w) = 0)
    {g : Hw} {v : Word} (hs : h.chanSend (epOfCore k) (h.mcReg k i.f2).toNat (h.bytes (dmAddr k 0 + x) l) = (g, v)) :
    semSend h k i = .done (g.mcSet k i.f1 v) (4 + (l + 15) / 16) none := by
  have hgood := foldl_coreRead_good h k (rangeIncl (x / 4) ((x + l - 1) / 4)) fun w hw =>
    hm w (mem_rangeIncl.1 hw).1 (mem_rangeIncl.1 hw).2
  simp only [semSend, ← hl, ← hx, hlo, hhi, and_self, if_true, Nat.not_lt.2 hin, if_false, hgood, semChan, hs]
  rfl

/-! ### CLOSE -/

section
variable (h : Hw) (e i : Nat)

theorem chanCloseHandle_noTicket (hn : h.freeTicket e = none) : h.chanCloseHandle e i = (h, 0xFFFFFFFF#32) := post_none _ _ _ _ _ hn

theorem chanClosePort_noTicket (hn : h.freeTicket e = none) : h.chanClosePort e i = (h, 0xFFFFFFFF#32) := post_none _ _ _ _ _ hn

section
variable {t : Nat} (ht : h.freeTicket e = some t)
include ht

/-- CLOSE of a free handle completes. -/
theorem chanCloseHandle_free (hst : (h.handle e i).st = 0) : h.chanCloseHandle e i = ((h.ticketTaken e t 3 i).ticketDone e t, w32 t) := by
  simp [Hw.chanCloseHandle, post_some _ _ _ _ _ ht, hst]

/-- An open handle begins to close and its request leaves. -/
theorem chanCloseHandle_open {d : Handle} (hd : d = h.handle e i) (hst : d.st = 2) : h.chanCloseHandle e i =
    (((h.ticketTaken e t 3 i).setHandle e i { d with st := 4 }).sendReq e
      [uniHdr tCTLQ 2 (bits (w32 d.dst) 19 16) (bits (w32 d.dst) 13 8) (bits (w32 d.dst) 5 0), retAddr h.pkgNum (epCl e) (epNo e) t,
        ctlWord opCLOSE 0 d.conn d.epoch d.port] (h.uniDest (epCl e) (bits (w32 d.dst) 19 16) (bits (w32 d.dst) 13 8)).toList, w32 t) := by
  simp only [Hw.chanCloseHandle, post_some _ _ _ _ _ ht, setTicket_handle, ← hd, hst, if_true]
  rfl

/-- CLOSE of a port that does not listen completes. -/
theorem chanClosePort_off (hoff : (h.port e i).on = false) : h.chanClosePort e i = ((h.ticketTaken e t 4 i).ticketDone e t, w32 t) := by
  simp [Hw.chanClosePort, post_some _ _ _ _ _ ht, hoff]

end
end

/-! ### STATUS -/

section
variable (h : Hw) (e t : Nat)

theorem chanStatus_invalid (hi : 16 ≤ t ∨ (h.ticket e t).used = false) : h.chanStatus e t = (h, 3#32) := by
  rw [Hw.chanStatus, if_pos (hi.imp_right .inl)]

section
variable (ht : t < 16) {x : Ticket} (hx : x = h.ticket e t) (hu : x.used = true) (hop : x.op ≠ 9)
include ht hx hu hop

theorem ticket_valid : ¬ (16 ≤ t ∨ (h.ticket e t).used = false ∨ (h.ticket e t).op = 9) := by
  rw [← hx, hu]
  simp [hop, ht]

theorem chanStatus_pending (hst : x.st = 0) : h.chanStatus e t = (h, 0#32) := by
  rw [Hw.chanStatus, if_neg (ticket_valid h e t ht hx hu hop), if_pos (hx ▸ hst)]

/-- A ticket that has ended is freed. -/
theorem chanStatus_ended (hst : x.st ≠ 0) : h.chanStatus e t =
    (h.setTicket e t {}, w32 (x.st + x.reason % 16 * 16 + (if x.op = 1 ∧ x.st = 1 then x.handle % 256 * 256 else 0))) := by
  rw [Hw.chanStatus, if_neg (ticket_valid h e t ht hx hu hop), if_neg (hx ▸ hst), ← hx]

end
end

/-! ### The statement -/

/-- A channel function does what it does at the core's endpoint, and rd takes its answer. -/
theorem semChan_eq {f : Hw → Nat → Word → Word → Hw × Word} {h : Hw} {k : Nat} {i : MInstr} {g : Hw} {v : Word}
    (hf : f h (epOfCore k) (h.mcReg k i.f2) (h.mcReg k i.f3) = (g, v)) (n : Nat) : semChan n f h k i = .done (g.mcSet k i.f1 v) n none := by
  rw [semChan, hf]

/-- CLOSE reads from bit 0 of rb whether ra names a handle or a port. -/
theorem semClose_handle (h : Hw) (k : Nat) (i : MInstr) (hb : bit (h.mcReg k i.f3) 0 = false) {g : Hw} {v : Word}
    (hf : h.chanCloseHandle (epOfCore k) (h.mcReg k i.f2).toNat = (g, v)) : semClose h k i = .done (g.mcSet k i.f1 v) 4 none :=
  semChan_eq ((if_neg (by simp [hb])).trans hf) 4

theorem semClose_port (h : Hw) (k : Nat) (i : MInstr) (hb : bit (h.mcReg k i.f3) 0 = true) {g : Hw} {v : Word}
    (hf : h.chanClosePort (epOfCore k) (h.mcReg k i.f2).toNat = (g, v)) : semClose h k i = .done (g.mcSet k i.f1 v) 4 none :=
  semChan_eq ((if_pos hb).trans hf) 4

theorem semClose_noTicket (h : Hw) (k : Nat) (i : MInstr) (hn : h.freeTicket (epOfCore k) = none) :
    semClose h k i = .done (h.mcSet k i.f1 0xFFFFFFFF#32) 4 none := by
  by_cases hb : bit (h.mcReg k i.f3) 0 = true
  · exact semClose_port h k i hb (chanClosePort_noTicket _ _ _ hn)
  · exact semClose_handle h k i (by simpa using hb) (chanCloseHandle_noTicket _ _ _ hn)

/-- Settles O46: each row's instruction is the channel function of its row, by the lemma on that function in that case. -/
theorem channelFunctions : Obligations.ChannelFunctions := by
  intro s k i a b e next ex ha hb he hnext
  subst ha hb he hnext
  refine ⟨fun hn => ⟨?listenNone, ?openNone, ?closeNone⟩, fun t ht => ?posted, ?statusInvalid, ?statusPending, ?statusNak, ?statusOpen⟩
  case listenNone => exact fun hop => computed_of_done ex hop rfl (semChan_eq (chanListen_noTicket _ _ _ _ _ _ hn) 4)
  case openNone => exact fun hop => computed_of_done ex hop rfl (semChan_eq (chanOpen_noTicket _ _ _ _ _ _ hn) 4)
  case closeNone => exact fun hop => computed_of_done ex hop rfl (semClose_noTicket _ _ _ hn)
  case posted =>
    refine ⟨?listenFree, ?listenBusy, ?openFree, ?openFull, ?sendOpen, ?sendClosed, ?closeFree, ?closeOpen, ?closePort⟩
    case listenFree =>
      rintro p hop rfl hp hroom hsize
      exact executed_of_next ex hop rfl (semChan_eq (chanListen_free _ _ _ _ _ _ ht (epIsCore_epOfCore k) hp hroom hsize) 4)
    case listenBusy =>
      rintro p hop rfl hon hcl
      exact executed_of_next ex hop rfl (semChan_eq (chanListen_busy _ _ _ _ _ _ ht hon hcl) 4)
    case openFree =>
      intro j hop hj
      exact executed_of_next ex hop rfl (semChan_eq (chanOpen_free _ _ _ _ _ _ ht hj) 4)
    case openFull =>
      intro hop hn
      exact executed_of_next ex hop rfl (semChan_eq (chanOpen_full _ _ _ _ _ _ ht hn) 4)
    case sendOpen =>
      intro l x hop hl hx hlo hhi hin hst hm
      exact executed_of_next ex hop rfl (semSend_good _ _ _ hl hx hlo hhi hin hm (chanSend_open _ _ _ _ ht hst))
    case sendClosed =>
      intro l x hop hl hx hlo hhi hin hst hm
      exact executed_of_next ex hop rfl (semSend_good _ _ _ hl hx hlo hhi hin hm (chanSend_closed _ _ _ _ ht hst))
    case closeFree =>
      intro hop hb hst
      exact executed_of_next ex hop rfl (semClose_handle _ _ _ hb (chanCloseHandle_free _ _ _ ht hst))
    case closeOpen =>
      intro d hop hb hd hst
      exact executed_of_next ex hop rfl (semClose_handle _ _ _ hb (chanCloseHandle_open _ _ _ ht hd hst))
    case closePort =>
      intro hop hb hoff
      exact executed_of_next ex hop rfl (semClose_port _ _ _ hb (chanClosePort_off _ _ _ ht hoff))
  case statusInvalid =>
    intro hop hi
    exact computed_of_done ex hop rfl (semChan_eq (chanStatus_invalid _ _ _ hi) 1)
  case statusPending =>
    intro hop ht hu h9 hst
    exact computed_of_done ex hop rfl (semChan_eq (chanStatus_pending _ _ _ ht rfl hu h9 hst) 1)
  case statusNak =>
    intro x hop ht hx hu h9 hst
    have hended := chanStatus_ended _ _ _ ht hx hu h9 (by omega)
    simp only [hst, OfNat.ofNat_ne_one, and_false, if_false, Nat.add_zero] at hended
    exact executed_of_next ex hop rfl (semChan_eq hended 1)
  case statusOpen =>
    intro x hop ht hx hu h1 hst
    have hended := chanStatus_ended _ _ _ ht hx hu (by omega) (by omega)
    simp only [h1, hst, and_self, if_true] at hended
    exact executed_of_next ex hop rfl (semChan_eq hended 1)

end Sys2Proof.Machine
end

section
/-! SUPPORT. Dispatch of handlers and the watchdog (04 R117–R120, R129–R133): what loading registers and starting a handler leave, what each
kind of handler is dispatched with, and the statement on them. -/

namespace Sys2Proof.Machine

/-! ### Registers of the engine (04 R120) -/

/-- m0 reads 0 and is not written; any other register reads as it was last written. -/
theorem mcReg_mcSet (h : Hw) (k r r' : Nat) (v : Word) : (h.mcSet k r v).mcReg k r' = if r = r' ∧ r ≠ 0 then v else h.mcReg k r' := by
  by_cases hr : r = 0
  · simp [Hw.mcSet, hr]
  · by_cases hr' : r' = 0
    · simp [Hw.mcReg, hr', hr]
    · simp [Hw.mcSet, Hw.mcReg, hr, hr', Tbl.get_set]

/-- A block whose core k differs from that of `h` in the registers of its engine alone, and which is otherwise as `h`. -/
def Hw.RegsLoaded (h : Hw) (k : Nat) (t : Hw) : Prop :=
  t = { h with cores := t.cores } ∧ ∃ m, t.core k = { h.core k with eng := { (h.core k).eng with m := m } }

namespace Hw.RegsLoaded

variable {h t : Hw} {k : Nat}

theorem refl (h : Hw) (k : Nat) : h.RegsLoaded k h := ⟨rfl, _, rfl⟩

theorem mcSet (l : h.RegsLoaded k t) (r : Nat) (v : Word) : h.RegsLoaded k (t.mcSet k r v) := by
  by_cases hr : r = 0
  · rwa [Hw.mcSet, if_pos hr]
  · obtain ⟨hblock, m, hcore⟩ := l
    refine ⟨?_, Tbl.set 0#32 m r v, ?_⟩
    · rw [Hw.mcSet, if_neg hr, hblock]
      rfl
    · rw [Hw.mcSet, if_neg hr, Hw.updEng, core_updCore, if_pos rfl, hcore]

end Hw.RegsLoaded

/-- Loading a list of registers changes them alone. -/
theorem foldl_mcSet_loaded (h : Hw) (k : Nat) (f : Nat → Word) (rs : List Nat) : h.RegsLoaded k (rs.foldl (fun h i => h.mcSet k i (f i)) h) := by
  suffices hx : ∀ t, h.RegsLoaded k t → h.RegsLoaded k (rs.foldl (fun h i => h.mcSet k i (f i)) t) from hx h (.refl h k)
  induction rs with
  | nil => exact fun _ l => l
  | cons r rs ih => exact fun t l => ih _ (l.mcSet r _)

/-- A register of the list holds its value, any other what it held. -/
theorem mcReg_foldl_mcSet (h : Hw) (k : Nat) (f : Nat → Word) (rs : List Nat) (r : Nat) :
    (rs.foldl (fun h i => h.mcSet k i (f i)) h).mcReg k r = if r ∈ rs ∧ r ≠ 0 then f r else h.mcReg k r := by
  induction rs generalizing h with
  | nil => simp
  | cons x rs ih =>
    rw [List.foldl_cons, ih, mcReg_mcSet]
    by_cases hin : r ∈ rs ∧ r ≠ 0
    · simp [hin]
    · by_cases hx : x = r ∧ x ≠ 0
      · obtain ⟨rfl, h0⟩ := hx
        simp [h0]
      · have hout : ¬ (r ∈ x :: rs ∧ r ≠ 0) := by
          rintro ⟨hmem, h0⟩
          obtain rfl | hmem := List.mem_cons.1 hmem
          · exact hx ⟨rfl, h0⟩
          · exact hin ⟨hmem, h0⟩
        rw [if_neg hin, if_neg hx, if_neg hout]

theorem mcReg_of_eng {h t : Hw} {k : Nat} (e : (t.eng k).m = (h.eng k).m) (r : Nat) : t.mcReg k r = h.mcReg k r := by
  rw [Hw.mcReg, Hw.mcReg, e]

/-- The engine of core k has been loaded with `ws`: m1 to m13 hold these words, and 0 past the last of them; nothing else has changed. -/
structure Hw.Loaded (h : Hw) (k : Nat) (ws : List Word) (t : Hw) : Prop where
  regs : h.RegsLoaded k t
  word : ∀ {r : Nat}, 1 ≤ r → r ≤ 13 → t.mcReg k r = ws.getD (r - 1) 0#32
  kept : ∀ {r : Nat}, 13 < r → t.mcReg k r = h.mcReg k r

theorem mcLoad_loaded (h : Hw) (k : Nat) (ws : List Word) : h.Loaded k ws (h.mcLoad k ws) where
  regs := foldl_mcSet_loaded h k (fun i => ws.getD (i - 1) 0#32) _
  word := by
    intro r hlo hhi
    rw [Hw.mcLoad, mcReg_foldl_mcSet h k fun i => ws.getD (i - 1) 0#32, if_pos ⟨mem_rangeIncl.2 ⟨hlo, hhi⟩, by omega⟩]
  kept := by
    intro r hr
    have hout : ¬ (r ∈ rangeIncl 1 13 ∧ r ≠ 0) := fun hin => absurd (mem_rangeIncl.1 hin.1).2 (by omega)
    rw [Hw.mcLoad, mcReg_foldl_mcSet h k fun i => ws.getD (i - 1) 0#32, if_neg hout]

namespace Hw.Loaded

variable {h t : Hw} {k : Nat} {ws : List Word} (l : h.Loaded k ws t)
include l

theorem past {r : Nat} (hr : ws.length < r) (hhi : r ≤ 13) : t.mcReg k r = 0#32 := by
  rw [l.word (by omega) hhi, List.getD_eq_default _ _ (by omega)]

theorem block : t = { h with cores := t.cores } := l.regs.1

/-- Of the engine the registers alone differ. -/
theorem eng : ∃ m, t.eng k = { h.eng k with m := m } := by
  obtain ⟨-, m, hcore⟩ := l.regs
  exact ⟨m, by rw [Hw.eng, hcore]; rfl⟩

theorem evq : (t.core k).evq = (h.core k).evq := by
  obtain ⟨-, m, hcore⟩ := l.regs
  rw [hcore]

theorem ep (e : Nat) : t.ep e = h.ep e := by
  rw [l.block]
  rfl

theorem read24 (a : Nat) : t.read24 a = h.read24 a := read24_of_mem (by rw [l.block]) a

end Hw.Loaded

/-! ### Starting a handler -/

section
variable (h : Hw) (k : Nat) (d : Kind) (entry : Nat) (dstep : Word)

/-- The engine of a handler that has just started. -/
theorem mcStart_core : (h.mcStart k d entry dstep).core k = { h.core k with
    warm := false
    eng := { (h.core k).eng with
      running := true, kind := d, pc := entry % 1024, cyc := 0, dstep := dstep, startAt := max h.dev (h.core k).eng.freeAt } } := by
  rw [Hw.mcStart, core_updCore, if_pos rfl]

theorem mcStart_eng : (h.mcStart k d entry dstep).eng k = { h.eng k with
    running := true, kind := d, pc := entry % 1024, cyc := 0, dstep := dstep, startAt := max h.dev (h.eng k).freeAt } := by
  rw [Hw.eng, mcStart_core]
  rfl

end

/-- The block after, where cores are all that differs. -/
theorem Hw.Now.cores {h t : Hw} (ht : t = { h with cores := t.cores }) : h.Now { h with cores := t.cores } [] t := by
  refine ⟨?_, fun r u => ?_⟩ <;> rw [ht]
  rfl

/-! ### Per-event handlers (04 R120, R130) -/

section
variable (h : Hw) (k : Nat) (x : EvHandler) (l : List EvHandler)

/-- The block with a per-event handler taken from its queue and started. -/
def Hw.eventStarted (h : Hw) (k : Nat) (x : EvHandler) (l : List EvHandler) : Hw :=
  (h.updCore k fun c => { c with evq := l }).mcStart k .event x.entry x.arr.dstep

/-- What m1 to m7 of a per-event handler hold. -/
def Hw.eventWords (h : Hw) (x : EvHandler) : List Word :=
  [w32 x.ord, w32 (bits x.arr.ev.low 23 8), w32 (bits x.arr.ev.low 31 24 + bits x.arr.ev.low 7 0 * 256), h.stepNum, x.desc0, x.desc1, x.arr.dstep]

theorem dispatchEvent_eq : h.dispatchEvent k x l = (h.eventStarted k x l).mcLoad k (h.eventWords x) := rfl

theorem eventStarted_core : (h.eventStarted k x l).core k = { h.core k with
    evq := l
    warm := false
    eng := { h.eng k with
      running := true, kind := .event, pc := x.entry % 1024, cyc := 0, dstep := x.arr.dstep, startAt := max h.dev (h.eng k).freeAt } } := by
  rw [Hw.eventStarted, mcStart_core, core_updCore, if_pos rfl]
  rfl

theorem eventStarted_eng : (h.eventStarted k x l).eng k = { h.eng k with
    running := true, kind := .event, pc := x.entry % 1024, cyc := 0, dstep := x.arr.dstep, startAt := max h.dev (h.eng k).freeAt } := by
  rw [Hw.eng, eventStarted_core]

theorem eventStarted_mcReg (r : Nat) : (h.eventStarted k x l).mcReg k r = h.mcReg k r := mcReg_of_eng (by rw [eventStarted_eng]) r

end

/-! ### Per-message handlers (04 R120, R131) -/

section
variable (h : Hw) (k : Nat) (x : MsgRec) (l : List MsgRec)

/-- The block with a per-message handler taken from its queue and started. -/
def Hw.messageStarted (h : Hw) (k : Nat) (x : MsgRec) (l : List MsgRec) : Hw :=
  ((h.updEp (epOfCore k) fun s => { s with msgq := l }).mcStart k .message (h.port (epOfCore k) x.port).entry h.stepNum).updEng k fun e =>
    { e with port := x.port, recAt := x.at_ }

/-- What m1 to m5 of a per-message handler hold. -/
def Hw.messageWords (h : Hw) (k : Nat) (x : MsgRec) : List Word :=
  [w32 x.conn, w32 ((h.port (epOfCore k) x.port).base + x.at_ + 4), w32 x.len, h.stepNum, w32 x.port]

theorem dispatchMessage_eq : h.dispatchMessage k x l = (h.messageStarted k x l).mcLoad k (h.messageWords k x) := rfl

theorem messageStarted_eng : (h.messageStarted k x l).eng k = { h.eng k with
    running := true, kind := .message, pc := (h.port (epOfCore k) x.port).entry % 1024, cyc := 0, dstep := h.stepNum,
    startAt := max h.dev (h.eng k).freeAt, port := x.port, recAt := x.at_ } := by
  rw [Hw.messageStarted, updEng_eng, mcStart_eng]
  rfl

theorem messageStarted_mcReg (r : Nat) : (h.messageStarted k x l).mcReg k r = h.mcReg k r := mcReg_of_eng (by rw [messageStarted_eng]) r

theorem messageStarted_msgq : ((h.messageStarted k x l).ep (epOfCore k)).msgq = l := by
  have hep : (h.messageStarted k x l).ep (epOfCore k) = (h.updEp (epOfCore k) fun s => { s with msgq := l }).ep (epOfCore k) := rfl
  rw [hep, Hw.updEp, ep_setEp, if_pos rfl]

end

/-! ### Per-neuron handlers (04 R120, R132, R136) -/

section
variable (h : Hw) (a : Nat) (v : Int)

/-- A 24-bit write leaves cores and registers as they are, and what they say of the image. -/
theorem write24_eng (k : Nat) : (h.write24 a v).eng k = h.eng k := by
  rw [write24_eq]
  rfl

theorem write24_mcReg (k r : Nat) : (h.write24 a v).mcReg k r = h.mcReg k r := mcReg_of_eng (by rw [write24_eng]) r

theorem write24_stepNum : (h.write24 a v).stepNum = h.stepNum := by
  rw [write24_eq]
  rfl

theorem write24_compact (k : Nat) : (h.write24 a v).compact k = h.compact k := by
  rw [write24_eq]
  rfl

theorem write24_imageBase (k : Nat) : (h.write24 a v).imageBase k = h.imageBase k := by
  rw [write24_eq]
  rfl

end

section
variable (h : Hw) (k n : Nat)

/-- The block with the per-neuron handler of neuron n started. -/
def Hw.neuronStarted (h : Hw) (k n : Nat) : Hw :=
  (h.mcStart k .neuron (bits (h.reg MC_ENTRY k) 9 0) h.stepNum).updEng k fun e => { e with neuron := n }

/-- The address of neuron n's slot of the step. -/
abbrev Hw.slotNow (h : Hw) (k n : Nat) : Nat := h.slotAddr k n (h.stepNum.toNat % 16)

/-- What m1 to m13 of the per-neuron handler of neuron n hold. -/
def Hw.neuronWords (h : Hw) (k n : Nat) : List Word :=
  [w32 (h.imageBase k + n), w32 ((if h.compact k then 12 else 64) * n), wInt (h.read24 (h.slotNow k n)), h.stepNum,
    h.word (h.recAddr k n), h.word (h.recAddr k n + 4), h.word (h.recAddr k n + 8), if h.compact k then 0#32 else h.word (h.recAddr k n + 12),
    w32 (0x24000 + 32 * h.psetOf k n), h.word (psetAddr k (h.psetOf k n)), h.word (psetAddr k (h.psetOf k n) + 4),
    h.word (psetAddr k (h.psetOf k n) + 8), h.word (psetAddr k (h.psetOf k n) + 20)]

theorem neuronStarted_core : (h.neuronStarted k n).core k = { h.core k with
    warm := false
    eng := { h.eng k with
      running := true, kind := .neuron, pc := bits (h.reg MC_ENTRY k) 9 0 % 1024, cyc := 0, dstep := h.stepNum,
      startAt := max h.dev (h.eng k).freeAt, neuron := n } } := by
  rw [Hw.neuronStarted, Hw.updEng, core_updCore, if_pos rfl, mcStart_core]
  rfl

theorem neuronStarted_eng : (h.neuronStarted k n).eng k = { h.eng k with
    running := true, kind := .neuron, pc := bits (h.reg MC_ENTRY k) 9 0 % 1024, cyc := 0, dstep := h.stepNum,
    startAt := max h.dev (h.eng k).freeAt, neuron := n } := by
  rw [Hw.eng, neuronStarted_core]

theorem neuronStarted_mcReg (r : Nat) : (h.neuronStarted k n).mcReg k r = h.mcReg k r := mcReg_of_eng (by rw [neuronStarted_eng]) r

theorem neuronStarted_imageBase : (h.neuronStarted k n).imageBase k = h.imageBase k := by
  have hres : ((h.neuronStarted k n).core k).resident = (h.core k).resident := by rw [neuronStarted_core]
  rw [Hw.imageBase, hres]
  rfl

/-- The words of a record that a handler is given: the first three, and of a full record the fourth. -/
theorem recWordsAt_getD (j : Nat) {i : Nat} (hi : i < 3 ∨ i = 3 ∧ h.compact k = false) :
    ((h.recWordsAt k n j).map h.word).getD i 0#32 = h.word (h.recAddr k n + 4 * i) := by
  cases hc : h.compact k with
  | true =>
    have hlt : i < 3 := by simpa [hc] using hi
    simp [Hw.recWordsAt, hc, List.getD_eq_getElem?_getD, hlt]
  | false =>
    have hlt : i < 4 := by omega
    simp [Hw.recWordsAt, hc, List.getD_eq_getElem?_getD, List.getElem?_append_left, hlt]

/-- A dispatch whose words are good clears the slot and loads them. -/
theorem dispatchNeuron_good (hm : h.marks = []) :
    h.dispatchNeuron k n = ((h.neuronStarted k n).write24 (h.slotNow k n) 0).mcLoad k (h.neuronWords k n) := by
  have hm' : (h.neuronStarted k n).marks = [] := hm
  rw [Hw.dispatchNeuron, ← Hw.neuronStarted]
  simp only [coreReads_good hm', Nat.add_zero, if_true, write24_imageBase, neuronStarted_imageBase, write24_compact, write24_stepNum]
  have hrec (i : Nat) : (((h.neuronStarted k n).recWordsAt k n (h.stepNum.toNat % 16)).map (h.neuronStarted k n).word).getD i 0#32 =
      ((h.recWordsAt k n (h.stepNum.toNat % 16)).map h.word).getD i 0#32 := rfl
  have hthree (i : Nat) (hi : i < 3) := recWordsAt_getD h k n (h.stepNum.toNat % 16) (.inl hi)
  have hfour : (if h.compact k = true then 0#32 else ((h.recWordsAt k n (h.stepNum.toNat % 16)).map h.word).getD 3 0#32) =
      if h.compact k = true then 0#32 else h.word (h.recAddr k n + 12) := by
    by_cases hc : h.compact k = true
    · rw [if_pos hc, if_pos hc]
    · rw [if_neg hc, if_neg hc]
      exact recWordsAt_getD h k n _ (.inr ⟨rfl, by simpa using hc⟩)
  have hcompact : (h.neuronStarted k n).compact k = h.compact k := rfl
  rw [hrec, hrec, hrec, hrec, hthree 0 (by omega), hthree 1 (by omega), hthree 2 (by omega), hcompact, hfour]
  rfl

end

/-! ### The watchdog (04 R133, R139) -/

section
variable (g : Hw) (k pc : Nat)

/-- A report names the step in progress, which no other register changes. -/
theorem raiseCore_setReg (t j : Nat) (r : Rg) (u : Nat) (v : Word) (hr : r ≠ STEP_NUM) :
    (g.setReg r u v).raiseCore t j = (g.raiseCore t j).setReg r u v := by
  have hstep : (g.setReg r u v).stepNum = g.stepNum := reg_setReg_ne _ _ _ _ _ _ fun e => hr e.1
  rw [Hw.raiseCore, Hw.raise, hstep]
  rfl

/-- An abort by the watchdog counted, recorded in a word of MC_ABORT_INFO, and raised. -/
def Hw.timedOut (g : Hw) (k : Nat) (info : Word) : Hw := ((g.inc MC_ABORT_CNT k).setReg MC_ABORT_INFO k info).raiseCore fMcFault k

theorem timedOut_eq (info : Word) : g.timedOut k info = ((g.raiseCore fMcFault k).inc MC_ABORT_CNT k).setReg MC_ABORT_INFO k info := by
  rw [Hw.timedOut, raiseCore_setReg _ _ _ _ _ _ (by decide), Hw.inc, raiseCore_setReg _ _ _ _ _ _ (by decide)]
  rfl

/-- A register written before the engine is freed holds its word after. -/
theorem mcOff_setReg (r : Rg) (u : Nat) (v : Word) : (g.setReg r u v).mcOff k = (g.mcOff k).setReg r u v := rfl

/-- A per-event handler at its limit is aborted, and frees the engine. -/
theorem mcAbort_watchdog (hk : (g.eng k).kind = .event) : g.mcAbort k 0 0 pc = (g.timedOut k (w32 (pc % 1024 + 1 * 2 ^ 10))).mcOff k := by
  have hkind : ((g.inc MC_ABORT_CNT k).eng k).kind.code = 1 := congrArg Kind.code hk
  have hinfo : pc % 1024 + ((g.inc MC_ABORT_CNT k).eng k).kind.code * 2 ^ 10 + 0 * 2 ^ 12 + 0 % 256 * 2 ^ 16 = pc % 1024 + 1 * 2 ^ 10 := by
    omega
  rw [← hinfo]
  exact mcLeave_event (g.timedOut k _) k hk

end

/-! ### The statement -/

section
variable (h : Hw) (k : Nat) (hr : (h.eng k).running = false) (ha : h.coreAvail k = true) (he : h.mcEnable k = true)
include hr ha he

theorem mcDispatch_event (hu : h.updating k = false) {x : EvHandler} {l : List EvHandler} (hq : (h.core k).evq = x :: l) :
    h.mcDispatch k = h.dispatchEvent k x l := by
  simp [Hw.mcDispatch, hr, ha, he, hu, hq]

theorem mcDispatch_message (hu : h.updating k = false) (hq : (h.core k).evq = []) {x : MsgRec} {l : List MsgRec}
    (hm : (h.ep (epOfCore k)).msgq = x :: l) : h.mcDispatch k = h.dispatchMessage k x l := by
  simp [Hw.mcDispatch, hr, ha, he, hu, hq, hm]

theorem mcDispatch_neuron (hu : h.updating k = true) {n : Nat} (hn : h.neuronWaits k = some n) : h.mcDispatch k = h.dispatchNeuron k n := by
  simp [Hw.mcDispatch, hr, ha, he, hu, hn]

end

theorem mcDispatch_none (h : Hw) (k : Nat) (hoff : (h.eng k).running = true ∨ h.mcEnable k = false) : h.mcDispatch k = h := by
  rw [Hw.mcDispatch, if_pos (hoff.imp_right .inr)]

theorem mcWatchdog_limit (h : Hw) (k : Nat) (hr : (h.eng k).running = true) (hk : (h.eng k).kind = .event)
    (hlim : h.mcLimit k .event ≤ (h.eng k).cyc) : h.mcWatchdog k = h.mcAbort k 0 0 (h.fld MC_PC k 9 0) := by
  rw [Hw.mcWatchdog, if_pos ⟨hr, hk ▸ hlim⟩]

theorem mcWatchdog_none (h : Hw) (k : Nat) (hoff : (h.eng k).running = false ∨ (h.eng k).cyc < h.mcLimit k (h.eng k).kind) :
    h.mcWatchdog k = h := by
  have hno : ¬ ((h.eng k).running = true ∧ h.mcLimit k (h.eng k).kind ≤ (h.eng k).cyc) := by
    rintro ⟨hrun, hle⟩
    obtain hidle | hlt := hoff
    · simp [hidle] at hrun
    · omega
  rw [Hw.mcWatchdog, if_neg hno]

/-- A command that leaves the block as it is is ignored, with power and without. -/
theorem ignored_of_same {i : Instr} {s : State} {f : Hw → Hw} (hi : exec i s = s.onHw f) (hf : f s.hw = s.hw) : Ignored i s := by
  rw [Ignored, hi, State.onHw, hf, ite_self]

/-- Settles O47: each kind of handler is dispatched with the words loaded for it, an engine that is not free or not enabled dispatches nothing, and
the watchdog aborts a handler at its limit and no other. -/
theorem handlerDispatch : Obligations.HandlerDispatch := by
  refine ⟨?event, ?message, ?neuron, ?nothing, ?watchdog, ?within⟩
  case event =>
    intro s k x l hp hr ha he hu hq
    refine answers_onHw (f := fun h => h.mcDispatch k) rfl hp ?_
    rw [mcDispatch_event _ _ hr ha he hu hq, dispatchEvent_eq]
    have hloaded := mcLoad_loaded (s.hw.eventStarted k x l) k (s.hw.eventWords x)
    obtain ⟨m, heng⟩ := hloaded.eng
    rw [eventStarted_eng] at heng
    have hqueue := hloaded.evq
    rw [eventStarted_core] at hqueue
    have hkept {r : Nat} (hr : 13 < r) := (hloaded.kept hr).trans (eventStarted_mcReg s.hw k x l r)
    exact ⟨hqueue, by rw [heng], by rw [heng], by rw [heng], by rw [heng], by rw [heng], hloaded.word (by decide) (by decide),
      hloaded.word (by decide) (by decide), hloaded.word (by decide) (by decide), hloaded.word (by decide) (by decide),
      hloaded.word (by decide) (by decide), hloaded.word (by decide) (by decide), hloaded.word (by decide) (by decide),
      fun r => hloaded.past, hkept (by decide), hkept (by decide), .cores hloaded.block⟩
  case message =>
    intro s k x l hp hr ha he hu hq hm
    refine answers_onHw (f := fun h => h.mcDispatch k) rfl hp ?_
    rw [mcDispatch_message _ _ hr ha he hu hq hm, dispatchMessage_eq]
    have hloaded := mcLoad_loaded (s.hw.messageStarted k x l) k (s.hw.messageWords k x)
    obtain ⟨m, heng⟩ := hloaded.eng
    rw [messageStarted_eng] at heng
    have hqueue := (congrArg EpSt.msgq (hloaded.ep (epOfCore k))).trans (messageStarted_msgq s.hw k x l)
    have hkept {r : Nat} (hr : 13 < r) := (hloaded.kept hr).trans (messageStarted_mcReg s.hw k x l r)
    exact ⟨hqueue, by rw [heng], by rw [heng], by rw [heng], hloaded.word (by decide) (by decide), hloaded.word (by decide) (by decide),
      hloaded.word (by decide) (by decide), hloaded.word (by decide) (by decide), hloaded.word (by decide) (by decide),
      fun r => hloaded.past, hkept (by decide), hkept (by decide)⟩
  case neuron =>
    intro s k n hp hr ha he hu hn hm
    refine answers_onHw (f := fun h => h.mcDispatch k) rfl hp ?_
    rw [mcDispatch_neuron _ _ hr ha he hu hn, dispatchNeuron_good _ _ _ hm]
    have hloaded := mcLoad_loaded ((s.hw.neuronStarted k n).write24 (s.hw.slotNow k n) 0) k (s.hw.neuronWords k n)
    obtain ⟨m, heng⟩ := hloaded.eng
    rw [write24_eng, neuronStarted_eng] at heng
    have hentry : bits (s.hw.reg MC_ENTRY k) 9 0 % 1024 = bits (s.hw.reg MC_ENTRY k) 9 0 := Nat.mod_eq_of_lt (bits_lt _ 9 0)
    have hslot := (hloaded.read24 _).trans (read24_write24_same (s.hw.neuronStarted k n) (s.hw.slotNow k n) 0 (by decide) (by decide))
    have hkept {r : Nat} (hr : 13 < r) := (hloaded.kept hr).trans ((write24_mcReg _ _ _ _ _).trans (neuronStarted_mcReg s.hw k n r))
    exact ⟨by rw [heng], by rw [heng], by rw [heng], by rw [heng, hentry], hloaded.word (by decide) (by decide),
      hloaded.word (by decide) (by decide), hloaded.word (by decide) (by decide), hloaded.word (by decide) (by decide),
      hloaded.word (by decide) (by decide), hloaded.word (by decide) (by decide), hslot, hkept (by decide), hkept (by decide)⟩
  case nothing =>
    exact fun s k hoff => ignored_of_same (f := fun h => h.mcDispatch k) rfl (mcDispatch_none _ _ hoff)
  case watchdog =>
    intro s k hp hr hk hlim
    refine answers_onHw (f := fun h => h.mcWatchdog k) rfl hp ?_
    rw [mcWatchdog_limit _ _ hr hk hlim, mcAbort_watchdog _ _ _ hk, timedOut_eq, mcOff_setReg, Hw.inc, mcOff_setReg]
    exact ((Hw.Now.intro s.hw ((s.hw.raiseCore fMcFault k).mcOff k) rfl).set MC_ABORT_CNT k _).set MC_ABORT_INFO k _
  case within =>
    exact fun s k hoff => ignored_of_same (f := fun h => h.mcWatchdog k) rfl (mcWatchdog_none _ _ hoff)

end Sys2Proof.Machine
end

section
/-! SUPPORT. The bank window and the plasticity windows (05 R162, R170, 09 R282): what a granted write leaves, and the statement on them. -/

namespace Sys2Proof.Machine

/-! ### The bank window (05 R162, R170) -/

/-- What a granted access through the bank window answers. -/
theorem answers_bankwin {s : State} {who : Requester} {c : Cluster} {wr : Option Word} {busy : Bool} {P : Hw → Prop}
    (hg : s.Grants who BANKWIN_DATA c wr.isSome) (h : P ((s.hw.bankwin c wr busy).1.told (s.hw.bankwin c wr busy).2)) :
    Answers (.bankwinData who c wr busy) s P := by
  refine answers_mgmt (f := fun h => h.guarded who (addrOf BANKWIN_DATA c) wr.isSome fun h l => h.bankwin l.unit wr busy) rfl hg.1 ?_
  obtain ⟨l, -, hunit, -, hact⟩ := guarded_granted hg fun h l => h.bankwin l.unit wr busy
  rw [hact, hunit]
  exact h

section
variable (h : Hw) (c : Nat) (v : Word) (hlo : ownedEnd ≤ 4 * h.fld BANKWIN_ADDR c 18 2) (hhi : 4 * h.fld BANKWIN_ADDR c 18 2 < 0x60000)
include hlo hhi

/-- Above the owned region a write is performed, whoever owns the bank. -/
theorem bankwin_write_above : h.bankwin c (some v) false =
    (((h.setWord (bankBase c (h.fld BANKWIN_ADDR c 28 24) + 4 * h.fld BANKWIN_ADDR c 18 2) v).setReg BANKWIN_STAT c 0#32).bankwinNext c, 0#32) := by
  simp [Hw.bankwin, Nat.not_lt.2 hlo, hhi]

/-- There a write that finds port B busy is kept, to be repeated. -/
theorem bankwin_write_above_busy : h.bankwin c (some v) true =
    (((h.updCl c fun x => { x with retry := x.retry ++ [.window (h.fld BANKWIN_ADDR c 28 24) (4 * h.fld BANKWIN_ADDR c 18 2) v] }).setReg
      BANKWIN_STAT c 0#32).bankwinNext c, 0#32) := by
  simp [Hw.bankwin, Nat.not_lt.2 hlo, hhi]

end

/-- How an access through the bank window ends: its status is stored, and the address advances. -/
theorem now_bankwinNext {h g t : Hw} {l : List ((Rg × Nat) × Word)} (n : h.Now g l t) (c : Nat) (st : Word)
    (e : t.reg BANKWIN_ADDR c = h.reg BANKWIN_ADDR c) :
    h.Now g (((BANKWIN_ADDR, c), setBits (h.reg BANKWIN_ADDR c) 18 2 ((h.fld BANKWIN_ADDR c 18 2 + 1) % 2 ^ 17)) :: ((BANKWIN_STAT, c), st) :: l)
      ((t.setReg BANKWIN_STAT c st).bankwinNext c) := by
  have haddr : (t.setReg BANKWIN_STAT c st).reg BANKWIN_ADDR c = h.reg BANKWIN_ADDR c := by
    rw [reg_setReg_ne _ _ _ _ _ _ fun hr => absurd hr.1 (by decide), e]
  simp only [Hw.bankwinNext, Hw.setFld, Hw.fld, haddr]
  exact (n.set BANKWIN_STAT c st).set BANKWIN_ADDR c _

/-! ### Plasticity registers while a roast is busy (09 R282) -/

section
variable (h : Hw) (who : Requester) (c : Nat) (v : Word)

theorem regWrite_segData : h.regWrite who SEG_DATA.page c SEG_DATA.off v = (h.winSeg c (some v)).1 := by
  rw [regWrite_alone]
  rfl

theorem regWrite_ruleData : h.regWrite who RULE_DATA.page c RULE_DATA.off v = (h.winRule c (some v)).1 := by
  rw [regWrite_alone]
  rfl

theorem regWrite_roastSeed : h.regWrite who ROAST_SEED.page c ROAST_SEED.off v = h.setReg ROAST_SEED c (if v = 0#32 then 1#32 else v) := by
  rw [regWrite_alone]
  rfl

variable (hb : (h.cl c).roast.busy = true)
include hb

/-- While the roast is busy a write of a plasticity window is only counted. -/
theorem roastGuard_busy (x : Hw × Word) : h.roastGuard c (some v) x = (h.inc ROAST_WRITE_IGN_CNT c, 0#32) := by
  simp [Hw.roastGuard, hb]

theorem winSeg_busy : (h.winSeg c (some v)).1 = (h.inc ROAST_WRITE_IGN_CNT c).winNext SEG_SEL c 9 8 3 (some (4, 0)) := by
  simp only [Hw.winSeg, winThen, roastGuard_busy _ _ _ hb]

theorem winRule_busy : (h.winRule c (some v)).1 = (h.inc ROAST_WRITE_IGN_CNT c).winNext RULE_ADDR c 8 3 37 (some (2, 0)) := by
  simp only [Hw.winRule, winThen, roastGuard_busy _ _ _ hb]

end

/-- Settles O23: a granted access through the bank window is the window's own operation, whose write above the owned region is performed or kept;
and each granted plasticity write is that of its register, which a busy roast makes a count, but for the seed's. -/
theorem bankWindowAndPlasticityRegisters : Obligations.BankWindowAndPlasticityRegisters := by
  refine ⟨?window, ?segment, ?rule, ?seed⟩
  case window =>
    intro s who c v hg hlo hhi
    constructor
    · refine answers_bankwin hg ?_
      rw [bankwin_write_above _ _ _ hlo hhi]
      exact (now_bankwinNext (.intro _ _ rfl) _ _ rfl).told 0
    · refine answers_bankwin hg ?_
      rw [bankwin_write_above_busy _ _ _ hlo hhi]
      exact (now_bankwinNext (.intro _ _ rfl) _ _ rfl).told 0
  case segment =>
    intro s who c v hg hb
    refine answers_put (r := SEG_DATA) rfl hg ?_
    rw [regWrite_segData, winSeg_busy _ _ _ hb]
    have hsel := reg_inc_ne s.hw ROAST_WRITE_IGN_CNT SEG_SEL c c 1 fun e => absurd e.1 (by decide)
    exact (now_winNext_carry (.one _ _ rfl _ _ _) _ _ _ _ _ _ _ hsel).told 0
  case rule =>
    intro s who c v hg hb
    refine answers_put (r := RULE_DATA) rfl hg ?_
    rw [regWrite_ruleData, winRule_busy _ _ _ hb]
    have haddr := reg_inc_ne s.hw ROAST_WRITE_IGN_CNT RULE_ADDR c c 1 fun e => absurd e.1 (by decide)
    exact (now_winNext_carry (.one _ _ rfl _ _ _) _ _ _ _ _ _ _ haddr).told 0
  case seed =>
    intro s who c v hg _
    refine answers_put (r := ROAST_SEED) rfl hg ?_
    rw [regWrite_roastSeed]
    exact (Hw.Now.one _ _ rfl _ _ _).told 0

end Sys2Proof.Machine
end

section
/-! SUPPORT. Handovers, bank wakes and the visits of the scrubber (05 R158, R162, R164, R165, R168): what each of them does to a bank and leaves of
the rest, and the statement on them. -/

namespace Sys2Proof.Machine

/-! ### One bank updated -/

section
variable (h : Hw) (c b : Nat) (f : BankSt → BankSt)

theorem bank_updBank (j : Nat) : (h.updBank c b f).bank c j = if b = j then f (h.bank c b) else h.bank c j := by
  simp [Hw.updBank, Hw.bank, Tbl.get_set]

theorem bank_updBank_same : (h.updBank c b f).bank c b = f (h.bank c b) := by rw [bank_updBank, if_pos rfl]

/-- An update that leaves a bank as the update before it made it changes nothing. -/
theorem updBank_updBank_self (g : BankSt → BankSt) (hg : g (f (h.bank c b)) = f (h.bank c b)) :
    (h.updBank c b f).updBank c b g = h.updBank c b f := by
  have hbank : g (Tbl.get {} (Tbl.set {} (h.cl c).banks b (f (h.bank c b))) b) = f (h.bank c b) := by rw [Tbl.get_set_same, hg]
  have hcl : (h.updBank c b f).cl c = { h.cl c with banks := Tbl.set {} (h.cl c).banks b (f (h.bank c b)) } := by
    rw [Hw.updBank, cl_updCl, if_pos rfl]
    rfl
  rw [Hw.updBank, Hw.updCl, hcl, hbank, Tbl.set_set_same]
  simp only [Hw.updBank, Hw.updCl, Hw.setCl, Hw.bank, Tbl.set_set_same]

end

/-! ### What a bank serves when it is free again (05 R158, R168) -/

section
variable (h : Hw) (c b : Nat)

/-- A bank that held no write serves none. -/
theorem bankServe_none (hw : (h.bank c b).heldW = []) : h.bankServe c b = h := by
  rw [Hw.bankServe]
  exact if_pos hw

theorem handoverDone_noneHeld (hw : (h.bank c b).heldW = []) : h.handoverDone c b = h.setFlag BANK_HANDOVER_PENDING c b false :=
  bankServe_none _ _ _ hw

theorem bankWakeDone_none (hw : (h.bank c b).waking = false) : h.bankWakeDone c b = h := by
  rw [Hw.bankWakeDone]
  exact if_neg (by simp [hw])

/-- The bank has come out of its wake, with its contents as they are. -/
def Hw.bankWoken (h : Hw) (c b : Nat) : Hw :=
  h.updBank c b fun x => { x with waking := false, pwr := 0, lost := false, recorded := none, waiters := [] }

theorem bankWoken_bank : (h.bankWoken c b).bank c b =
    { h.bank c b with waking := false, pwr := 0, lost := false, recorded := none, waiters := [] } := bank_updBank_same _ _ _ _

theorem bankServe_bankWoken (hw : (h.bank c b).heldW = []) : (h.bankWoken c b).bankServe c b = h.bankWoken c b :=
  bankServe_none _ _ _ (by rw [bankWoken_bank, hw])

/-- A wake with nothing lost, nothing recorded and nothing held ends. -/
theorem bankWakeDone_kept (hk : (h.bank c b).waking = true) (hl : (h.bank c b).lost = false) (hr : (h.bank c b).recorded = none)
    (hw : (h.bank c b).heldW = []) : h.bankWakeDone c b = h.bankWoken c b := by
  have hserve := bankServe_bankWoken h c b hw
  rw [Hw.bankWoken] at hserve
  simp only [Hw.bankWakeDone, hk, hl, hr, if_true, Bool.false_eq_true, if_false, hserve, Hw.bankWoken]

/-- The write recorded while the bank woke takes effect. -/
def Hw.recordedApplied (h : Hw) (c b : Nat) : Option Nat → Hw
  | some v => h.bankPwrApply c b v
  | none => h

/-- A wake of a region whose contents were lost, with nothing held, ends: the region is zero, and then a recorded write takes effect. -/
theorem bankWakeDone_lost (hk : (h.bank c b).waking = true) (hl : (h.bank c b).lost = true) (hw : (h.bank c b).heldW = []) :
    h.bankWakeDone c b = ((h.zero (bankBase c b) ownedEnd).bankWoken c b).recordedApplied c b (h.bank c b).recorded := by
  have hserve := bankServe_bankWoken (h.zero (bankBase c b) ownedEnd) c b hw
  rw [Hw.bankWoken] at hserve
  simp only [Hw.bankWakeDone, hk, hl, if_true, hserve, Hw.bankWoken]
  cases (h.bank c b).recorded <;> rfl

/-- A power state written takes effect on the bank's state alone. -/
theorem recordedApplied_mem (r : Option Nat) : (h.recordedApplied c b r).mem = h.mem := by cases r <;> rfl

/-- The power state of a bank that has just woken, once a recorded write has taken effect. -/
theorem recordedApplied_bankWoken (r : Option Nat) :
    (((h.bankWoken c b).recordedApplied c b r).bank c b).waking = false ∧
      (((h.bankWoken c b).recordedApplied c b r).bank c b).pwr = match r with
        | none => 0
        | some v => if v = 0 then 0 else if v = 2 then 2 else 1 := by
  cases r with
  | none => simp [Hw.recordedApplied, bankWoken_bank]
  | some v =>
    simp only [Hw.recordedApplied, Hw.bankPwrApply, bank_updBank_same, bankWoken_bank, if_true]
    split_ifs <;> exact ⟨rfl, rfl⟩

end

/-- A key that a filter takes off a list is not found there. -/
theorem Tbl.find_filter_of_not {ν : Type} (t : Tbl ν) (p : Nat × ν → Bool) (k : Nat) (hp : ∀ v, p (k, v) = false) :
    Tbl.find (t.filter p) k = none := by
  cases hf : Tbl.find (t.filter p) k with
  | none => rfl
  | some v => exact absurd (List.of_mem_filter (Tbl.mem_of_find hf)) (by simp [hp])

/-- Memory that has been zeroed reads 0. -/
theorem byte_zero (h : Hw) (a n x : Nat) (hx : x < n) : (h.zero a n).byte (a + x) = 0#8 := by
  rw [Hw.byte, Hw.zero, Tbl.get, Tbl.find_filter_of_not]
  · rfl
  · intro v
    simp only [Bool.or_eq_false_iff, decide_eq_false_iff_not]
    omega

/-! ### A visit of the scrubber (05 R162, R165) -/

/-- A block in which clusters are all that differs. -/
def Hw.ClustersOnly (h t : Hw) : Prop := t = { h with clusters := t.clusters }

theorem Hw.ClustersOnly.refl (h : Hw) : h.ClustersOnly h := rfl

theorem Hw.ClustersOnly.updCl (h : Hw) (c : Nat) (f : ClusterSt → ClusterSt) : h.ClustersOnly (h.updCl c f) := rfl

theorem Hw.ClustersOnly.trans {h t u : Hw} (x : h.ClustersOnly t) (y : t.ClustersOnly u) : h.ClustersOnly u := by
  rw [Hw.ClustersOnly] at x y ⊢
  rw [y, x]

theorem Hw.ClustersOnly.now {h t : Hw} (x : h.ClustersOnly t) : h.Now { h with clusters := t.clusters } [] t := by
  rw [Hw.ClustersOnly] at x
  refine ⟨?_, fun r u => ?_⟩ <;> rw [x]
  rfl

/-- The part of each listed bank in a visit. -/
def Hw.scrubBanks (h : Hw) (c : Nat) (busy wrote : BitVec 32) (l : List Nat) : Hw :=
  l.foldl (fun h b => h.scrubBank c b (busy.getLsbD b) (wrote.getLsbD b)) h

section
variable (h : Hw) (c : Nat) (busy wrote : BitVec 32)

theorem scrubBanks_cons (b : Nat) (r : List Nat) :
    h.scrubBanks c busy wrote (b :: r) = (h.scrubBank c b (busy.getLsbD b) (wrote.getLsbD b)).scrubBanks c busy wrote r := rfl

theorem scrubVisit_off (hen : h.en SCRUB_CTRL c 0 = false) : h.scrubVisit c busy wrote = h := by
  rw [Hw.scrubVisit]
  exact if_neg (by simp [hen])

/-- A visit that leaves a bank with lines to read is the part of each bank, and no pass ends. -/
theorem scrubVisit_midPass (hen : h.en SCRUB_CTRL c 0 = true)
    (hleft : ∃ b, b < 32 ∧ ((h.scrubBanks c busy wrote (List.range 32)).bank c b).scrubAt < bankLines) :
    h.scrubVisit c busy wrote = h.scrubBanks c busy wrote (List.range 32) := by
  obtain ⟨b, hb, hlt⟩ := hleft
  rw [Hw.scrubVisit, if_pos hen]
  refine if_neg fun hall => ?_
  exact absurd (of_decide_eq_true (List.all_eq_true.1 hall b (List.mem_range.2 hb))) (Nat.not_le.2 hlt)

/-! #### Port B is busy everywhere -/

/-- The scrubber's visit of a bank is kept, to be repeated. -/
def Hw.scrubLater (h : Hw) (c b : Nat) : Hw := h.updCl c fun v => { v with retry := v.retry ++ [.scrub b] }

theorem scrubBank_busy (b : Nat) (w : Bool) : h.scrubBank c b true w = h.scrubLater c b := if_pos rfl

theorem scrubLater_retry (b : Nat) : ((h.scrubLater c b).cl c).retry = (h.cl c).retry ++ [.scrub b] := by
  rw [Hw.scrubLater, cl_updCl, if_pos rfl]

theorem scrubLater_bank (b j : Nat) : (h.scrubLater c b).bank c j = h.bank c j := by
  rw [Hw.bank, Hw.scrubLater, cl_updCl, if_pos rfl]
  rfl

/-- What a visit leaves that is put off in each listed bank. -/
structure Hw.ScrubPutOff (h : Hw) (c : Nat) (l : List Nat) (t : Hw) : Prop where
  retry : (t.cl c).retry = (h.cl c).retry ++ l.map PortB.scrub
  bank : ∀ b, t.bank c b = h.bank c b
  rest : h.ClustersOnly t

theorem scrubBanks_busy (l : List Nat) (hl : ∀ b ∈ l, busy.getLsbD b = true) : h.ScrubPutOff c l (h.scrubBanks c busy wrote l) := by
  induction l generalizing h with
  | nil => exact ⟨(List.append_nil _).symm, fun _ => rfl, .refl h⟩
  | cons b r ih =>
    rw [scrubBanks_cons, hl b List.mem_cons_self, scrubBank_busy]
    obtain ⟨hretry, hbank, hrest⟩ := ih (h.scrubLater c b) fun j hj => hl j (List.mem_cons_of_mem b hj)
    refine ⟨?_, fun j => (hbank j).trans (scrubLater_bank _ _ _ _), .trans (.updCl _ _ _) hrest⟩
    rw [hretry, scrubLater_retry, List.append_assoc, List.map_cons, List.singleton_append]

/-! #### Every word is good and every port free -/

/-- The scrubber's next line of a bank in turn is the one after. -/
def Hw.scrubNext (h : Hw) (c b : Nat) : Hw := h.updBank c b fun s => { s with scrubAt := s.scrubAt + 1 }

/-- A line of good words, read by the scrubber, leaves a bank as its last update did. -/
theorem scrubLine_good (b line : Nat) (w : Bool) (f : BankSt → BankSt) (hm : h.marks = []) :
    (h.updBank c b f).scrubLine c b line w = h.updBank c b f := by
  have hmark (a : Nat) : (h.updBank c b f).mark a = 0 := mark_of_marks_nil hm a
  have hline := bankLine_good (h.updBank c b f) c b line fun _ _ => hmark _
  have hself := updBank_updBank_self h c b f (fun t => { t with scrubLines := (f (h.bank c b)).scrubLines }) rfl
  simp [Hw.scrubLine, hmark, hline, bank_updBank_same, hself]

/-- A bank with no line queued is taken one line on. -/
theorem scrubBank_good (b : Nat) (w : Bool) (hm : h.marks = []) (hq : (h.bank c b).scrubLines = []) (hat : (h.bank c b).scrubAt < bankLines) :
    h.scrubBank c b false w = h.scrubNext c b := by
  have hline := scrubLine_good h c b (h.bank c b).scrubAt w (fun s => { s with scrubAt := (h.bank c b).scrubAt + 1 }) hm
  simp only [Hw.scrubBank, hq, Bool.false_eq_true, if_false, Nat.not_le.2 hat, hline]
  rfl

/-- What a visit leaves that takes each listed bank one line on. -/
structure Hw.ScrubMoved (h : Hw) (c : Nat) (l : List Nat) (t : Hw) : Prop where
  bank : ∀ b, t.bank c b = if b ∈ l then { h.bank c b with scrubAt := (h.bank c b).scrubAt + 1 } else h.bank c b
  rest : h.ClustersOnly t

theorem scrubBanks_good (l : List Nat) (hm : h.marks = []) (hnd : l.Nodup)
    (hl : ∀ b ∈ l, (h.bank c b).scrubLines = [] ∧ (h.bank c b).scrubAt < bankLines) : h.ScrubMoved c l (h.scrubBanks c 0#32 wrote l) := by
  induction l generalizing h with
  | nil => exact ⟨fun _ => rfl, .refl h⟩
  | cons b r ih =>
    obtain ⟨hnotin, hnd⟩ := List.nodup_cons.1 hnd
    obtain ⟨hq, hat⟩ := hl b List.mem_cons_self
    have hkeep {j : Nat} (hj : j ≠ b) : (h.scrubNext c b).bank c j = h.bank c j := by rw [Hw.scrubNext, bank_updBank, if_neg (Ne.symm hj)]
    have htail : ∀ j ∈ r, ((h.scrubNext c b).bank c j).scrubLines = [] ∧ ((h.scrubNext c b).bank c j).scrubAt < bankLines := fun j hj => by
      rw [hkeep (ne_of_mem_of_not_mem hj hnotin)]
      exact hl j (List.mem_cons_of_mem b hj)
    obtain ⟨hbank, hrest⟩ := ih (h.scrubNext c b) hm hnd htail
    rw [scrubBanks_cons, BitVec.getLsbD_zero, scrubBank_good _ _ _ _ hm hq hat]
    refine ⟨fun j => (hbank j).trans ?_, .trans (.updCl _ _ _) hrest⟩
    by_cases hj : j = b
    · subst hj
      rw [if_neg hnotin, if_pos List.mem_cons_self, Hw.scrubNext, bank_updBank_same]
    · simp only [hkeep hj, List.mem_cons, hj, false_or]

end

/-- Settles O48: each command is its operation on the block; a bank that held no write has nothing to serve after its handover or wake, and a visit
that ends no pass is the part of each of its banks. -/
theorem bankAndScrubEvents : Obligations.BankAndScrubEvents := by
  refine ⟨?handover, ?woken, ?lost, ?awake, ?moved, ?putOff, ?off⟩
  case handover =>
    intro s c b hp hw
    refine answers_onHw (f := fun h => h.handoverDone c b) rfl hp ?_
    rw [handoverDone_noneHeld _ _ _ hw]
    exact .one _ _ rfl _ _ _
  case woken =>
    intro s c b hp hk hl hr hw
    refine answers_onHw (f := fun h => h.bankWakeDone c b) rfl hp ?_
    rw [bankWakeDone_kept _ _ _ hk hl hr hw]
    exact .intro _ _ rfl
  case lost =>
    intro s c b hp hk hl hw
    refine answers_onHw (f := fun h => h.bankWakeDone c b) rfl hp ?_
    rw [bankWakeDone_lost _ _ _ hk hl hw]
    obtain ⟨hwaking, hpwr⟩ := recordedApplied_bankWoken (s.hw.zero (bankBase c b) ownedEnd) c b (s.hw.bank c b).recorded
    refine ⟨hwaking, fun x hx => ?_, hpwr⟩
    exact (byte_of_mem (recordedApplied_mem _ _ _ _) _).trans (byte_zero s.hw (bankBase c b) ownedEnd x hx)
  case awake =>
    exact fun s c b hk => ignored_of_same (f := fun h => h.bankWakeDone c b) rfl (bankWakeDone_none _ _ _ hk)
  case moved =>
    intro s c hp hen hm hall hleft
    obtain ⟨hbank, hrest⟩ := scrubBanks_good s.hw c 0#32 (List.range 32) hm List.nodup_range fun b hb => hall b (List.mem_range.1 hb)
    have hmoved (b : Nat) (hb : b < 32) := (hbank b).trans (if_pos (List.mem_range.2 hb))
    refine answers_onHw (f := fun h => h.scrubVisit c 0#32 0#32) rfl hp ?_
    rw [scrubVisit_midPass _ _ _ _ hen (hleft.imp fun b hb => ⟨hb.1, by rw [hmoved b hb.1]; exact hb.2⟩)]
    exact ⟨hmoved, hrest.now⟩
  case putOff =>
    intro s c w hp hen hleft
    have hbusy : ∀ b ∈ List.range 32, (0xFFFFFFFF#32).getLsbD b = true := by decide
    obtain ⟨hretry, hbank, hrest⟩ := scrubBanks_busy s.hw c 0xFFFFFFFF#32 w (List.range 32) hbusy
    refine answers_onHw (f := fun h => h.scrubVisit c 0xFFFFFFFF#32 w) rfl hp ?_
    rw [scrubVisit_midPass _ _ _ _ hen (hleft.imp fun b hb => ⟨hb.1, by rw [hbank]; exact hb.2⟩)]
    exact ⟨hretry, hrest.now⟩
  case off =>
    exact fun s c x y hen => ignored_of_same (f := fun h => h.scrubVisit c x y) rfl (scrubVisit_off _ _ _ _ hen)

end Sys2Proof.Machine
end

section
/-! SUPPORT. Windows into tables: what a granted read or write of a data register leaves, and the statement on the windows of the router, of drip
trees and tag maps, of the roast, of ingress, polls and pins (06 R199, 07 R233, 09 R282, 10 R304, R308, R309, 19 R528). -/

namespace Sys2Proof.Machine

/-! ### A granted access through a window (19 R528) -/

section
variable {h g : Hw} {a : Rg} {u hi lo last c b : Nat} (e : g.regs = h.regs)
include e

/-- The address of a window counts on after an access that left the registers alone. -/
theorem now_advance : h.Now g [((a, u), nextField (h.reg a u) hi lo last)] (g.winNext a u hi lo last none) :=
  now_winNext (.intro h g e) _ _ _ _ _ (reg_of_regs _ _ _ _ e)

/-- The same where the address carries into the field [c:b]. -/
theorem now_advance_carry : h.Now g [((a, u), nextCarry (h.reg a u) hi lo last c b)] (g.winNext a u hi lo last (some (c, b))) :=
  now_winNext_carry (.intro h g e) _ _ _ _ _ _ _ (reg_of_regs _ _ _ _ e)

end

section
variable {i : Instr} {s : State} {who : Requester} {r : Rg} {u j : Nat} {v mask : Word} {t : Tab} {next : Hw → Hw} {l : List ((Rg × Nat) × Word)}

/-- A granted write of a data register stores the bits of a table's word that are not reserved, and then the address advances. -/
theorem effect_tableWrite (hexec : exec i s = s.put who r u v) (hg : s.Grants who r u true)
    (hwin : s.hw.regPut who r.page u r.off v = (winThen (s.hw.tabAccess t u j mask (some v)) next).1)
    (hnext : s.hw.Now (s.hw.setTab t u j (v &&& mask)) l (next (s.hw.setTab t u j (v &&& mask)))) :
    Effect i s ((s.hw.setTab t u j (v &&& mask)).told 0) l := by
  refine answers_put hexec hg ?_
  rw [regWrite_alone, hwin]
  exact hnext.told 0

/-- A granted read of a data register answers a table's word, and then the address advances. -/
theorem effect_tableRead {x : Hw × Word} (hexec : exec i s = s.look who r u) (hg : s.Grants who r u false)
    (hwin : s.hw.regRead who r.page u r.off false = x) (hword : x.2 = s.hw.tab t u j) (hnext : s.hw.Now s.hw l x.1) :
    Effect i s (s.hw.told (s.hw.tab t u j)) l := by
  refine answers_look hexec hg ?_
  rw [hwin, hword]
  exact hnext.told _

end

/-! ### Windows whose access has a condition -/

section
variable (h : Hw) (c : Nat) (wr : Option Word)

/-- An access to GT_DATA that names an entry, and that R196 does not protect if it is a write, reaches the word. -/
theorem winGt_free (hlane : h.fld GT_ADDR c 14 10 ≤ 16)
    (hfree : ¬ (wr.isSome = true ∧ (h.resident c && h.tableInUse c (h.fld GT_ADDR c 18 16)) = true)) :
    h.winGt c wr = winThen (h.tabAccess .gt c (h.fld GT_ADDR c 18 16 * 2 ^ 16 + h.fld GT_ADDR c 14 10 * 2 ^ 10 + h.fld GT_ADDR c 9 0)
      (if h.fld GT_ADDR c 14 10 < 8 then 0xFFFFFFFF#32 else 0xFFC1FFFF#32) wr) fun h => h.winNext GT_ADDR c 9 0 1023 none := by
  simp only [Hw.winGt, Hw.tabGuarded, if_neg (Nat.not_lt.2 hlane), if_neg hfree]

/-- So does an access to FSEQ_DATA. -/
theorem winFseq_free (hfree : ¬ (wr.isSome = true ∧ (h.resident c && decide (h.fld FSEQ_ADDR c 16 16 = (h.cl c).fseq)) = true)) :
    h.winFseq c wr = winThen (h.tabAccess .fseq c (h.fld FSEQ_ADDR c 16 16 * 2 ^ 16 + h.fld FSEQ_ADDR c 8 0) 0x87#32 wr)
      fun h => h.winNext FSEQ_ADDR c 8 0 511 none := by
  simp only [Hw.winFseq, Hw.tabGuarded, if_neg hfree]

/-- A cluster with a Saune-C relay has the maps of R233. -/
theorem winXtag_relay (hrelay : (scAt c).isSome = true) :
    h.winXtag c wr = winThen (h.tabAccess .xtag c (h.fld XTAG_ADDR c 13 0) 0x1FF#32 wr) fun h => h.winNext XTAG_ADDR c 13 0 16383 none :=
  if_neg (by simp [Option.isSome_iff_ne_none.1 hrelay])

theorem winItag_relay (hrelay : (scAt c).isSome = true) :
    h.winItag c wr = winThen (h.tabAccess .itag c (h.fld ITAG_ADDR c 7 0) 0x1FF#32 wr) fun h => h.winNext ITAG_ADDR c 7 0 255 none :=
  if_neg (by simp [Option.isSome_iff_ne_none.1 hrelay])

/-- While no roast is busy an access to ROASTCFG is performed. -/
theorem roastGuard_free (x : Hw × Word) (hb : wr.isSome = true → (h.cl c).roast.busy = false) : h.roastGuard c wr x = x :=
  if_neg fun hw => by simp [hb hw.1] at hw

/-- The bits of a word of a segment that are not reserved. -/
def segMask (w : Nat) : Word := [0x871F#32, 0xFFFFFFFF#32, 0xFFFFFF#32].getD w 0#32

theorem winSeg_free (hb : wr.isSome = true → (h.cl c).roast.busy = false) :
    h.winSeg c wr = winThen (h.tabAccess .seg c (h.fld SEG_SEL c 4 0 + 256 * h.fld SEG_SEL c 9 8) (segMask (h.fld SEG_SEL c 9 8)) wr)
      fun h => h.winNext SEG_SEL c 9 8 3 (some (4, 0)) := by
  simp only [Hw.winSeg, roastGuard_free _ _ _ _ hb, segMask]

/-- The bits of a word of a rule that are not reserved. -/
def ruleMask (w : Nat) : Word := if w = 4 then 0x003F3F3F#32 else if w = 5 then 0xFFFF0FFF#32 else 0xFFFFFFFF#32

theorem winRule_free (hw : h.fld RULE_ADDR c 8 3 ≤ 37) (hb : wr.isSome = true → (h.cl c).roast.busy = false) :
    h.winRule c wr = winThen (h.tabAccess .rule c (h.fld RULE_ADDR c 2 0 + 8 * h.fld RULE_ADDR c 8 3) (ruleMask (h.fld RULE_ADDR c 8 3)) wr)
      fun h => h.winNext RULE_ADDR c 8 3 37 (some (2, 0)) := by
  simp only [Hw.winRule, roastGuard_free _ _ _ _ hb, if_neg (Nat.not_lt.2 hw), ruleMask]

/-- Every bit of the first words of a rule is stored. -/
theorem and_ruleMask (v : Word) (w : Nat) (hw : w < 4) : v &&& ruleMask w = v := by
  rw [ruleMask, if_neg hw.ne, if_neg (by omega)]
  exact BitVec.and_allOnes

/-- An access to a word of a poll that is stored reaches it. -/
theorem winPoll_word (hw : h.fld POLL_ADDR 0 9 8 ≠ 3 ∨ wr = none) :
    h.winPoll wr = winThen (h.tabAccess .poll 0 (h.fld POLL_ADDR 0 2 0 + 16 * h.fld POLL_ADDR 0 6 4 + 256 * h.fld POLL_ADDR 0 9 8)
      ([0xF77FFFFF#32, 0xFFFFFFFF#32, 0xFFF#32].getD (h.fld POLL_ADDR 0 9 8) 0#32) wr) fun h => h.winNext POLL_ADDR 0 9 8 3 (some (2, 0)) := by
  have hstored : ¬ (h.fld POLL_ADDR 0 9 8 = 3 ∧ wr.isSome = true) := by
    rintro ⟨h3, hsome⟩
    obtain hne | rfl := hw
    · exact hne h3
    · cases hsome
  simp only [Hw.winPoll, if_neg hstored]

end

/-! ### The statement -/

/-- Settles O13: each access is that of its register, which is a window; where the window has a condition the case meets it, and what is left is one
word of the table and the advance of the address. -/
theorem routerAndTableWindows : Obligations.RouterAndTableWindows := by
  refine ⟨⟨?gtW, ?gtR, ?fseqW, ?fseqR, ?flowW, ?flowR, ?destW, ?destR⟩, ?dtreeW, ?dtreeR, ?xtagW, ?xtagR, ?itagW, ?itagR, ?segW, ?segR, ?ruleW,
    ?ruleR, ?hotpixW, ?hotpixR, ?ftW, ?ftR, ?pollR, ?pollW, ?lceW, ?lceR⟩
  case gtW =>
    intro s who c v hg hlane hfree
    have hwin := congrArg Prod.fst (winGt_free s.hw c (some v) hlane (by simpa using hfree))
    exact effect_tableWrite (r := GT_DATA) rfl hg hwin (now_advance rfl)
  case gtR =>
    intro s who c hg hlane
    exact effect_tableRead (r := GT_DATA) rfl hg (winGt_free s.hw c none hlane (by simp)) rfl (now_advance rfl)
  case fseqW =>
    intro s who c v hg hfree
    have hwin := congrArg Prod.fst (winFseq_free s.hw c (some v) (by simpa using hfree))
    exact effect_tableWrite (r := FSEQ_DATA) rfl hg hwin (now_advance rfl)
  case fseqR =>
    intro s who c hg
    exact effect_tableRead (r := FSEQ_DATA) rfl hg (winFseq_free s.hw c none (by simp)) rfl (now_advance rfl)
  case flowW => exact fun s who c v hg => effect_tableWrite (r := FLOW_DATA) rfl hg rfl (now_advance_carry rfl)
  case flowR => exact fun s who c hg => effect_tableRead (r := FLOW_DATA) rfl hg rfl rfl (now_advance_carry rfl)
  case destW => exact fun s who c v hg => effect_tableWrite (r := DEST_DATA) rfl hg rfl (now_advance_carry rfl)
  case destR => exact fun s who c hg => effect_tableRead (r := DEST_DATA) rfl hg rfl rfl (now_advance_carry rfl)
  case dtreeW => exact fun s who c v hg => effect_tableWrite (r := DTREE_DATA) rfl hg rfl (now_advance rfl)
  case dtreeR => exact fun s who c hg => effect_tableRead (r := DTREE_DATA) rfl hg rfl rfl (now_advance rfl)
  case xtagW =>
    intro s who c v hg hrelay
    exact effect_tableWrite (r := XTAG_DATA) rfl hg (congrArg Prod.fst (winXtag_relay s.hw c (some v) hrelay)) (now_advance rfl)
  case xtagR =>
    intro s who c hg hrelay
    exact effect_tableRead (r := XTAG_DATA) rfl hg (winXtag_relay s.hw c none hrelay) rfl (now_advance rfl)
  case itagW =>
    intro s who c v hg hrelay
    exact effect_tableWrite (r := ITAG_DATA) rfl hg (congrArg Prod.fst (winItag_relay s.hw c (some v) hrelay)) (now_advance rfl)
  case itagR =>
    intro s who c hg hrelay
    exact effect_tableRead (r := ITAG_DATA) rfl hg (winItag_relay s.hw c none hrelay) rfl (now_advance rfl)
  case segW =>
    intro s who c v hg hb
    have hwin := congrArg Prod.fst (winSeg_free s.hw c (some v) fun _ => hb)
    exact effect_tableWrite (r := SEG_DATA) rfl hg hwin (now_advance_carry rfl)
  case segR =>
    intro s who c hg
    exact effect_tableRead (r := SEG_DATA) rfl hg (winSeg_free s.hw c none (by simp)) rfl (now_advance_carry rfl)
  case ruleW =>
    intro s who c v hg hb hw
    have hwin := congrArg Prod.fst (winRule_free s.hw c (some v) (by omega) fun _ => hb)
    have hstored := effect_tableWrite (i := .ruleData who c (some v)) (r := RULE_DATA) rfl hg hwin (now_advance_carry rfl)
    rwa [and_ruleMask v _ hw] at hstored
  case ruleR =>
    intro s who c hg hw
    exact effect_tableRead (r := RULE_DATA) rfl hg (winRule_free s.hw c none hw (by simp)) rfl (now_advance_carry rfl)
  case hotpixW => exact fun s who k v hg => effect_tableWrite (r := HOTPIX_DATA) rfl hg rfl (now_advance rfl)
  case hotpixR => exact fun s who k hg => effect_tableRead (r := HOTPIX_DATA) rfl hg rfl rfl (now_advance rfl)
  case ftW => exact fun s who q v hg => effect_tableWrite (r := FT_DATA) rfl hg rfl (now_advance_carry rfl)
  case ftR => exact fun s who q hg => effect_tableRead (r := FT_DATA) rfl hg rfl rfl (now_advance_carry rfl)
  case pollR =>
    intro s who hg
    exact effect_tableRead (r := POLL_DATA) rfl hg (winPoll_word s.hw none (.inr rfl)) rfl (now_advance_carry rfl)
  case pollW =>
    intro s who v hg hw
    have hwin := congrArg Prod.fst (winPoll_word s.hw (some v) (.inl (by omega)))
    have hstored := effect_tableWrite (i := .pollData who (some v)) (r := POLL_DATA) rfl hg hwin (now_advance_carry rfl)
    have hmask : v &&& [0xF77FFFFF#32, 0xFFFFFFFF#32, 0xFFF#32].getD 1 0#32 = v := BitVec.and_allOnes
    rwa [hw, hmask] at hstored
  case lceW => exact fun s who v hg => effect_tableWrite (r := LCE_DATA) rfl hg rfl (now_advance_carry rfl)
  case lceR => exact fun s who hg => effect_tableRead (r := LCE_DATA) rfl hg rfl rfl (now_advance_carry rfl)

end Sys2Proof.Machine
end

section
/-! SUPPORT. The scheduled fabric (06 R180-R191, R197): what a slot of a router, an offer to the injection stage, the end of the last frame, a move of
residue and a visit of the table scrubber do, and the statement on them. -/

namespace Sys2Proof.Machine

/-! ### Time, clusters and registers -/

/-- Where no wait is counted, only time passes, and never back. -/
theorem advTo_noWaits (h : Hw) (n : Nat) (hp : h.powered = true) (hw : h.waits = []) : ∃ p, h.advTo n = h.atTime (max h.dev n) p := by
  obtain hle | hge := le_total h.dev n
  · rw [max_eq_right hle]
    exact advTo_at h n hp hw hle
  · rw [max_eq_left hge, Hw.advTo, if_neg (by omega)]
    exact ⟨h.ptp, rfl⟩

section
variable (h : Hw) (c : Nat)

theorem cl_updCl_same (f : ClusterSt → ClusterSt) : (h.updCl c f).cl c = f (h.cl c) := by rw [cl_updCl, if_pos rfl]

/-- Two updates that agree on the cluster as it is are the same. -/
theorem updCl_congr {f g : ClusterSt → ClusterSt} (e : f (h.cl c) = g (h.cl c)) : h.updCl c f = h.updCl c g := congrArg (h.setCl c) e

@[simp] theorem cl_inc (r : Rg) (u n : Nat) : (h.inc r u n).cl c = h.cl c := rfl
@[simp] theorem cl_hwm (r : Rg) (u n : Nat) : (h.hwm r u n).cl c = h.cl c := by rw [Hw.hwm, apply_ite (Hw.cl · c)]; exact ite_self _
@[simp] theorem step_hwm (r : Rg) (u n : Nat) : (h.hwm r u n).step = h.step := by rw [Hw.hwm, apply_ite Hw.step]; exact ite_self _
@[simp] theorem reports_hwm (r : Rg) (u n : Nat) : (h.hwm r u n).reports = h.reports := by rw [Hw.hwm, apply_ite Hw.reports]; exact ite_self _
@[simp] theorem reg_updCl (f : ClusterSt → ClusterSt) (r : Rg) (u : Nat) : (h.updCl c f).reg r u = h.reg r u := rfl

end

/-- A fold whose every step leaves the start as it is leaves it as it is. -/
theorem foldl_unmoved {α β : Type} {f : α → β → α} {a : α} {l : List β} (hf : ∀ b ∈ l, f a b = a) : l.foldl f a = a := by
  induction l with
  | nil => rfl
  | cons b r ih =>
    rw [List.foldl_cons, hf b List.mem_cons_self]
    exact ih fun x hx => hf x (List.mem_cons_of_mem b hx)

namespace Hw.ClustersOnly

variable {h t : Hw} (x : h.ClustersOnly t)
include x

theorem thenUpdCl (c : Nat) (f : ClusterSt → ClusterSt) : h.ClustersOnly (t.updCl c f) := x.trans (.updCl t c f)
theorem reg (r : Rg) (u : Nat) : t.reg r u = h.reg r u := by rw [Hw.ClustersOnly] at x; rw [x]; rfl
theorem regs : t.regs = h.regs := by rw [Hw.ClustersOnly] at x; rw [x]
theorem step : t.step = h.step := by rw [Hw.ClustersOnly] at x; rw [x]
theorem dev : t.dev = h.dev := by rw [Hw.ClustersOnly] at x; rw [x]
theorem cores : t.cores = h.cores := by rw [Hw.ClustersOnly] at x; rw [x]
theorem mem : t.mem = h.mem := by rw [Hw.ClustersOnly] at x; rw [x]
theorem reports : t.reports = h.reports := by rw [Hw.ClustersOnly] at x; rw [x]

end Hw.ClustersOnly

/-! ### Slots (06 R180, R183, R185) -/

/-- With no flit on a router's lanes, none reaches its lookup queue. -/
theorem localArrivals_none (h : Hw) (c s : Nat) (hl : (h.cl c).lanes = []) : h.localArrivals c s = h :=
  foldl_unmoved fun n _ => by rw [hl]; rfl

/-- The instant of a router's next slot has come: the frames of the step run, and no router is so far behind that a flit of it could still arrive. -/
structure Hw.SlotDue (h : Hw) (c : Nat) : Prop where
  phase : h.step.phase = .delivery
  running : h.step.framesDone = false
  inside : (h.cl c).slot < h.frameEnd
  near : ∀ d, d < 64 → (h.cl c).slot < (h.cl d).slot + 3

/-- A slot outside the frames of the step, or ahead of a router, does not happen. -/
theorem fabricSlot_notDue (h : Hw) (c : Nat) (x : SlotErr)
    (hno : h.step.phase ≠ .delivery ∨ h.frameEnd ≤ (h.cl c).slot ∨ ∃ d, d < 64 ∧ (h.cl d).slot + 3 ≤ (h.cl c).slot) :
    h.fabricSlot c x = h := by
  refine if_pos ?_
  obtain hph | hend | ⟨d, hd, hahead⟩ := hno
  · exact .inl hph
  · exact .inr (.inr (.inl hend))
  · exact .inr (.inr (.inr (List.any_eq_true.2 ⟨d, List.mem_range.2 hd, decide_eq_true hahead⟩)))

/-- The entry of a router's frame sequence list in use for the frame of slot n. -/
abbrev Hw.frameEntry (h : Hw) (c n : Nat) : Word := h.tab .fseq c ((h.cl c).fseq * 2 ^ 16 + n / 1024)

/-- The entries of a grind table for slot n are applied in the order of their lanes, with no error met. -/
def Hw.slotEntries (h : Hw) (c table n : Nat) : Hw :=
  ((List.range 17).foldl (fun st m => st.entry {} c table n m) ({ h := h } : SlotSt)).h

/-- What slot n leaves of a cluster's own part: the next slot comes, and flits read in it are gone. -/
def ClusterSt.slotOver (n : Nat) (v : ClusterSt) : ClusterSt :=
  { v with slot := n + 1, lanes := v.lanes.filter fun p => decide (laneKey (n + 1) 0 ≤ p.1) }

/-- A slot that is due, of a router with nothing on its lanes, and in which no error is met: time passes to it, its entries are applied unless the
frame is IDLE, and it is over. -/
theorem fabricSlot_due {h : Hw} {c : Nat} (hdue : h.SlotDue c) (hl : (h.cl c).lanes = []) {g : Hw} (hg : g = h.advTo (h.step.start + (h.cl c).slot))
    (hcl : g.cl c = h.cl c) :
    h.fabricSlot c {} = (if bit (g.frameEntry c (h.cl c).slot) 7 = true ∨ (h.cl c).idleFrame = some ((h.cl c).slot / 1024) then g
      else g.slotEntries c (bits (g.frameEntry c (h.cl c).slot) 2 0) (h.cl c).slot).updCl c (ClusterSt.slotOver (h.cl c).slot) := by
  have hgo : ¬ (h.step.phase ≠ .delivery ∨ h.step.framesDone = true ∨ h.frameEnd ≤ (h.cl c).slot ∨
      ((List.range 64).any fun d => decide ((h.cl d).slot + 3 ≤ (h.cl c).slot)) = true) := by
    obtain ⟨hph, hrun, hin, hnear⟩ := hdue
    simpa [hph, hrun, hin] using hnear
  rw [Hw.fabricSlot, if_neg hgo]
  dsimp only
  rw [← hg, localArrivals_none g c _ (by rw [hcl, hl])]
  simp only [Bool.false_eq_true, and_false, if_false, Hw.frameEntry, hcl]
  rfl

/-! ### Entries (06 R183, R184, R189) -/

/-- An entry that reads w is applied with no error met: it may wake a group, and if it is reserved it sends what its lane carries. -/
theorem entry_clean {st : SlotSt} {c table s n : Nat} {w : Word} (hw : st.h.tab .gt c (table * 2 ^ 16 + n * 2 ^ 10 + s % 1024) = w) {g : Hw}
    (hg : g = if bit w 30 = true then st.h.wakeGroup c (bits w 29 26) else st.h) {r : Hw × Option Ev}
    (hr : r = if n < 8 then g.flowSlot c (bits w 25 17) 0 else g.inputFlit c s n {}) :
    st.entry {} c table s n = if bit w 31 = false then { st with h := g } else ({ st with h := r.1 } : SlotSt).copies c s (bits w 16 0) r.2 := by
  simp only [SlotSt.entry, BitVec.getLsbD_zero, Bool.false_eq_true, if_false, b2n, hw, ← hg, ← hr]

/-- An entry of zeros, with no error met, does nothing. -/
theorem entry_zero {st : SlotSt} {c table s n : Nat} (hw : st.h.tab .gt c (table * 2 ^ 16 + n * 2 ^ 10 + s % 1024) = 0#32) :
    st.entry {} c table s n = st :=
  entry_clean hw rfl rfl

/-- A flit, unless it is EMPTY, is put on its last hop: it reaches the lookup queue three slots on. -/
def Hw.toLookup (h : Hw) (c s : Nat) : Option Ev → Hw
  | some e => h.updCl c fun v => { v with lanes := Tbl.put v.lanes (laneKey (s + 3) 32) e }
  | none => h

/-- A flit on local output 0 alone, the first of its slot. -/
theorem copies_local (h : Hw) (c s : Nat) (e : Option Ev) : ({ h := h } : SlotSt).copies c s 1 e = ⟨h.toLookup c s e, [0]⟩ := by
  have houts : ((List.range 17).filter fun m => (1 >>> m) % 2 == 1) = [0] := by decide
  simp only [SlotSt.copies, houts]
  cases e <;> rfl

/-- An entry of layout L is reserved and wakes no group. -/
theorem bit_of_layoutL {w : Word} (hlay : bits w 31 30 = 2) : bit w 31 = true ∧ bit w 30 = false := by
  have hbit (i : Nat) (hi : i < 2) : bit w (30 + i) = Nat.testBit (bits w 31 30) i := by
    simp only [bits, bit, Nat.testBit_mod_two_pow, Nat.testBit_shiftRight, BitVec.testBit_toNat, Nat.reduceAdd, Nat.reduceSub, hi, decide_true,
      Bool.true_and]
  rw [hlay] at hbit
  exact ⟨hbit 1 (by decide), hbit 0 (by decide)⟩

/-- An entry of layout L whose one output is local sends what the slot of its flow carries to the lookup queue. -/
theorem entry_local {h : Hw} {c table s : Nat} {w : Word} (hw : h.tab .gt c (table * 2 ^ 16 + s % 1024) = w) (hlay : bits w 31 30 = 2)
    (hout : bits w 16 0 = 1) : ({ h := h } : SlotSt).entry {} c table s 0 =
      ⟨(h.flowSlot c (bits w 25 17) 0).1.toLookup c s (h.flowSlot c (bits w 25 17) 0).2, [0]⟩ := by
  obtain ⟨h31, h30⟩ := bit_of_layoutL hlay
  have hw0 : h.tab .gt c (table * 2 ^ 16 + 0 * 2 ^ 10 + s % 1024) = w := by rw [← hw, Nat.zero_mul, Nat.add_zero]
  rw [entry_clean (st := { h := h }) hw0 rfl rfl, h31, h30, hout, ← copies_local]
  rfl

/-! ### Reserved slots (06 R183, R189) -/

/-- The counters of flow classes are kept apart by their offsets. -/
theorem fclsHit_ne_resv (i j : Nat) : FCLS_HIT_CNT i ≠ FCLS_RESV_CNT j := fun e => by
  have := (Rg.mk.inj e).2
  omega

theorem fclsEmpty_ne_resv (i j : Nat) : FCLS_EMPTY_CNT i ≠ FCLS_RESV_CNT j := fun e => by
  have := (Rg.mk.inj e).2
  omega

/-- A register that is counted before another one. -/
theorem reg_inc_inc {h : Hw} {r r' : Rg} {u : Nat} (hr : r' ≠ r) : ((h.inc r u).inc r' u).reg r u = satAdd32 (h.reg r u) 1 := by
  rw [reg_inc_ne _ _ _ _ _ _ fun e => hr e.1, reg_inc_same]

/-- A register that is counted after another one. -/
theorem reg_inc_inc_last {h : Hw} {r r' : Rg} {u : Nat} (hr : r' ≠ r) : ((h.inc r u).inc r' u).reg r' u = satAdd32 (h.reg r' u) 1 := by
  rw [reg_inc_same, reg_inc_ne _ _ _ _ _ _ fun e => hr e.1.symm]

section
variable {h : Hw} {c f : Nat}

@[simp] theorem tableErr_none : h.tableErr c 0 = h := rfl

/-- A register is counted before a cluster is updated, or after it. -/
theorem inc_updCl (g : ClusterSt → ClusterSt) (r : Rg) (u n : Nat) : (h.updCl c g).inc r u n = (h.inc r u n).updCl c g := rfl

/-- The slots of its flow that have gone by, with one more. -/
def ClusterSt.slotPassed (f : Nat) (v : ClusterSt) : ClusterSt := { v with passed := Tbl.set 0 v.passed f (Tbl.get 0 v.passed f + 1) }

/-- A reserved slot whose flow holds an event carries it, and counts twice for the flow's class. -/
theorem flowSlot_held {e : Ev} {r : List (Nat × Ev)} (ht : takeHeld f (h.cl c).hold = some (e, r)) : h.flowSlot c f 0 =
    ((((h.inc (FCLS_RESV_CNT (h.flowClass c f)) c).inc (FCLS_HIT_CNT (h.flowClass c f)) c).updCl c fun v => v.slotPassed f).updCl c fun v =>
      { v with hold := r }, some e) := by
  simp only [Hw.flowSlot, tableErr_none, OfNat.zero_ne_ofNat, if_false, inc_updCl, cl_updCl_same, cl_inc, ht, ClusterSt.slotPassed]

/-- A reserved slot whose flow holds none carries EMPTY, and counts as such. -/
theorem flowSlot_empty (ht : takeHeld f (h.cl c).hold = none) : h.flowSlot c f 0 =
    (((h.inc (FCLS_RESV_CNT (h.flowClass c f)) c).inc (FCLS_EMPTY_CNT (h.flowClass c f)) c).updCl c fun v => v.slotPassed f, none) := by
  simp only [Hw.flowSlot, tableErr_none, OfNat.zero_ne_ofNat, if_false, inc_updCl, cl_updCl_same, cl_inc, ht, ClusterSt.slotPassed]

/-- No table changes when a reserved slot sends what it carries. -/
theorem toLookup_flowSlot_tabs (n : Nat) : ((h.flowSlot c f 0).1.toLookup c n (h.flowSlot c f 0).2).tabs = h.tabs := by
  cases ht : takeHeld f (h.cl c).hold with
  | none => simp only [flowSlot_empty ht, Hw.toLookup, inc_tabs, updCl_tabs]
  | some p => simp only [flowSlot_held (e := p.1) (r := p.2) ht, Hw.toLookup, inc_tabs, updCl_tabs]

/-- Of a slot whose first entry is one of layout L with one local output, and whose other entries are zeros, only the first acts. -/
theorem slotEntries_local {table n : Nat} {w : Word} (hw : h.tab .gt c (table * 2 ^ 16 + n % 1024) = w) (hlay : bits w 31 30 = 2)
    (hout : bits w 16 0 = 1) (hrest : ∀ i, 1 ≤ i → i < 17 → h.tab .gt c (table * 2 ^ 16 + i * 2 ^ 10 + n % 1024) = 0#32) :
    h.slotEntries c table n = (h.flowSlot c (bits w 25 17) 0).1.toLookup c n (h.flowSlot c (bits w 25 17) 0).2 := by
  have hlanes : List.range 17 = 0 :: List.range' 1 16 := by decide
  have htabs (i : Nat) : ((h.flowSlot c (bits w 25 17) 0).1.toLookup c n (h.flowSlot c (bits w 25 17) 0).2).tab .gt c i = h.tab .gt c i := by
    rw [Hw.tab, toLookup_flowSlot_tabs]
    rfl
  rw [Hw.slotEntries, hlanes, List.foldl_cons, entry_local hw hlay hout, foldl_unmoved]
  intro i hi
  rw [List.mem_range'_1] at hi
  exact entry_zero ((htabs _).trans (hrest i hi.1 (by omega)))

/-- With nothing on a cluster's lanes, a slot that is over leaves none there. -/
theorem slotOver_noLanes {v : ClusterSt} (n : Nat) (hl : v.lanes = []) : v.slotOver n = { v with slot := n + 1 } := by simp [ClusterSt.slotOver, hl]

/-- A slot of flow f whose one output is local is over. -/
def Hw.localSlot (h : Hw) (c f n : Nat) : Hw :=
  ((h.flowSlot c f 0).1.toLookup c n (h.flowSlot c f 0).2).updCl c (ClusterSt.slotOver n)

/-- What such a slot leaves of its cluster, if it sends an event. -/
theorem localSlot_held_cl {n : Nat} {e : Ev} {r : List (Nat × Ev)} (hl : (h.cl c).lanes = []) (ht : takeHeld f (h.cl c).hold = some (e, r)) :
    (h.localSlot c f n).cl c = { (h.cl c).slotPassed f with hold := r, lanes := [(laneKey (n + 3) 32, e)], slot := n + 1 } := by
  have hahead : laneKey (n + 1) 0 ≤ laneKey (n + 3) 32 := by simp only [laneKey]; omega
  rw [Hw.localSlot, flowSlot_held ht, Hw.toLookup]
  simp only [cl_updCl_same, cl_inc, ClusterSt.slotPassed, hl, Tbl.put, ClusterSt.slotOver, List.filter, hahead, decide_true]

/-- Of the rest, it changes the counts of the flow's class. -/
theorem localSlot_held_rest {n : Nat} {e : Ev} {r : List (Nat × Ev)} (ht : takeHeld f (h.cl c).hold = some (e, r)) :
    ((h.inc (FCLS_RESV_CNT (h.flowClass c f)) c).inc (FCLS_HIT_CNT (h.flowClass c f)) c).ClustersOnly (h.localSlot c f n) := by
  simp only [Hw.localSlot, flowSlot_held ht, Hw.toLookup]
  exact (((Hw.ClustersOnly.updCl _ _ _).thenUpdCl _ _).thenUpdCl _ _).thenUpdCl _ _

/-- What it leaves of its cluster, if it sends EMPTY. -/
theorem localSlot_empty_cl {n : Nat} (hl : (h.cl c).lanes = []) (ht : takeHeld f (h.cl c).hold = none) :
    (h.localSlot c f n).cl c = { (h.cl c).slotPassed f with slot := n + 1 } := by
  rw [Hw.localSlot, flowSlot_empty ht, Hw.toLookup]
  simp only [cl_updCl_same, cl_inc]
  exact slotOver_noLanes n hl

theorem localSlot_empty_rest {n : Nat} (ht : takeHeld f (h.cl c).hold = none) :
    ((h.inc (FCLS_RESV_CNT (h.flowClass c f)) c).inc (FCLS_EMPTY_CNT (h.flowClass c f)) c).ClustersOnly (h.localSlot c f n) := by
  simp only [Hw.localSlot, flowSlot_empty ht, Hw.toLookup]
  exact (Hw.ClustersOnly.updCl _ _ _).thenUpdCl _ _

/-- A cluster in which one more reserved slot of the flow has gone by. -/
theorem passed_of_slotPassed {t : Hw} (hcl : (t.cl c).passed = ((h.cl c).slotPassed f).passed) : t.passed c f = h.passed c f + 1 := by
  rw [Hw.passed, hcl]
  exact Tbl.get_set_same (0 : Nat) (h.cl c).passed f (h.passed c f + 1)

/-- A slot that is due, in a frame that is not IDLE, whose first entry is one of layout L with one local output and whose other entries are zeros. -/
theorem fabricSlot_local {n : Nat} {q w : Word} (hp : h.powered = true) (hw : h.waits = []) (hdue : h.SlotDue c) (hl : (h.cl c).lanes = [])
    (hn : n = (h.cl c).slot) (hq : q = h.frameEntry c n) (hbusy : bit q 7 = false) (hidle : (h.cl c).idleFrame ≠ some (n / 1024))
    (hrest : ∀ i, 1 ≤ i → i < 17 → h.tab .gt c (bits q 2 0 * 2 ^ 16 + i * 2 ^ 10 + n % 1024) = 0#32)
    (hword : w = h.tab .gt c (bits q 2 0 * 2 ^ 16 + n % 1024)) (hlay : bits w 31 30 = 2) (hout : bits w 16 0 = 1) :
    ∃ m p, h.fabricSlot c {} = (h.atTime m p).localSlot c (bits w 25 17) n := by
  obtain ⟨p, hadv⟩ := advTo_noWaits h (h.step.start + (h.cl c).slot) hp hw
  generalize max h.dev _ = m at hadv
  subst hn hq hword
  have hgo : ¬ (bit ((h.atTime m p).frameEntry c (h.cl c).slot) 7 = true ∨ (h.cl c).idleFrame = some ((h.cl c).slot / 1024)) :=
    not_or.2 ⟨Bool.eq_false_iff.1 hbusy, hidle⟩
  refine ⟨m, p, ?_⟩
  rw [fabricSlot_due hdue hl hadv.symm rfl, if_neg hgo]
  exact congrArg (Hw.updCl · c _) (slotEntries_local (h := h.atTime m p) rfl hlay hout hrest)

end

/-! ### Offers (06 R186, R191) -/

section
variable (h : Hw) (c : Nat)

/-- Outside the integrate phase no cluster raises done. -/
theorem settleDone_off (hph : h.step.phase ≠ .integrate) : h.settleDone c = h := if_neg fun hall => hph hall.1

theorem offerRefused_iff : h.offerRefused c = true ↔ 1024 ≤ (h.cl c).spill.length ∨ (h.cl c).residue ≠ [] := by
  simp [Hw.offerRefused, Hw.spillFull]

theorem offerRefused_false {h : Hw} {c : Nat} (hroom : (h.cl c).spill.length < 1024) (hres : (h.cl c).residue = []) : h.offerRefused c = false :=
  Bool.eq_false_iff.2 fun hfull => ((offerRefused_iff h c).1 hfull).elim (Nat.not_le.2 hroom) (absurd hres)

/-- The block with other waits in progress. -/
def Hw.withWaits (h : Hw) (w : Tbl Wait) : Hw := { h with waits := w }

@[simp] theorem cl_withWaits (w : Tbl Wait) : (h.withWaits w).cl c = h.cl c := rfl
@[simp] theorem reg_withWaits (w : Tbl Wait) (r : Rg) (u : Nat) : (h.withWaits w).reg r u = h.reg r u := rfl
@[simp] theorem step_withWaits (w : Tbl Wait) : (h.withWaits w).step = h.step := rfl
@[simp] theorem reports_withWaits (w : Tbl Wait) : (h.withWaits w).reports = h.reports := rfl

/-- An offerer that begins to wait is counted from the present cycle on. -/
theorem offerWait_first (hw : h.waits = []) : h.offerWait c = (h.withWaits [(waitKey SPILL_STALL_CNT c 0,
    { page := SPILL_STALL_CNT.page, off := SPILL_STALL_CNT.off, unit := c, next := h.dev + 1, n := 1 })]).inc SPILL_STALL_CNT c := by
  have hdue : ({ page := SPILL_STALL_CNT.page, off := SPILL_STALL_CNT.off, unit := c, per := 1, next := h.dev } : Wait).due (h.dev + 1) = 1 := by
    simp [Wait.due, ceilDiv]
  rw [Hw.offerWait, Hw.waitOn, hw]
  simp only [Tbl.find, Option.getD_none, Hw.countWait, hdue, one_ne_zero, if_false, hw, Tbl.put]
  rfl

end

section
variable {h : Hw} {c : Nat} {p : PortEv} {r : List PortEv} (a b : Nat) (hport : (h.cl c).port = p :: r)
include hport

theorem injectionOffer_refused (hfull : h.offerRefused c = true) : h.injectionOffer c a b = h.offerWait c := by
  simp only [Hw.injectionOffer, hport, hfull, if_true]

/-- The head of the local port has left it, its core cycle being over. -/
abbrev Hw.portTaken (h : Hw) (c : Nat) (p : PortEv) (r : List PortEv) : Hw :=
  (h.advTo (p.key / 64 * 2 + 2)).updCl c fun v => { v with port := r }

variable (hopen : h.offerRefused c = false)
include hopen

/-- An event that is offered by no core, and whose address is as R30 requires, goes to its flow. -/
theorem injectionOffer_taken (hcore : p.ofCore = false) (hgood : (h.portTaken c p r).addrBad p.ev.addr = false) :
    h.injectionOffer c a b = ((h.portTaken c p r).injectEvent c p.ev a b).settleDone c := by
  simp only [Hw.injectionOffer, hport, hopen, hgood, hcore, Bool.false_eq_true, if_false]

/-- An event whose address is not as R30 requires is dropped, counted. -/
theorem injectionOffer_addrBad (hbad : (h.portTaken c p r).addrBad p.ev.addr = true) :
    h.injectionOffer c a b = ((h.portTaken c p r).inc ADDR_DEPTH_ERR_CNT c).settleDone c := by
  simp only [Hw.injectionOffer, hport, hopen, hbad, Bool.false_eq_true, if_false, if_true]

end

/-! #### What an offer that is taken leaves to be read -/

section
variable {h : Hw} {c : Nat} (p : PortEv) (r : List PortEv) (hp : h.powered = true) (hw : h.waits = [])
include hp hw

/-- Where no wait is counted, all that has changed is time and the port. -/
theorem portTaken_eq : ∃ m tp, h.portTaken c p r = (h.atTime m tp).updCl c fun v => { v with port := r } := by
  obtain ⟨tp, hadv⟩ := advTo_noWaits h (p.key / 64 * 2 + 2) hp hw
  exact ⟨_, tp, by rw [Hw.portTaken, hadv]⟩

/-- What depends neither on time nor on the clusters stays. -/
theorem portTaken_keeps {α : Type} (part : Hw → α) (hpart : ∀ m tp f, part ((h.atTime m tp).updCl c f) = part h) :
    part (h.portTaken c p r) = part h := by
  obtain ⟨m, tp, e⟩ := portTaken_eq (c := c) p r hp hw
  rw [e, hpart]

theorem portTaken_cl : (h.portTaken c p r).cl c = { h.cl c with port := r } := by
  obtain ⟨m, tp, e⟩ := portTaken_eq (c := c) p r hp hw
  rw [e, cl_updCl_same]
  rfl

theorem portTaken_step : (h.portTaken c p r).step = h.step := portTaken_keeps p r hp hw Hw.step fun _ _ _ => rfl

theorem portTaken_regs : (h.portTaken c p r).regs = h.regs := portTaken_keeps p r hp hw Hw.regs fun _ _ _ => rfl

theorem portTaken_reg (q : Rg) (u : Nat) : (h.portTaken c p r).reg q u = h.reg q u := reg_of_regs _ _ _ _ (portTaken_regs p r hp hw)

theorem portTaken_addrBad (a : Word) : (h.portTaken c p r).addrBad a = h.addrBad a := portTaken_keeps p r hp hw (·.addrBad a) fun _ _ _ => rfl

theorem portTaken_flowOf (a : Word) : (h.portTaken c p r).flowOf c a = h.flowOf c a := portTaken_keeps p r hp hw (·.flowOf c a) fun _ _ _ => rfl

theorem portTaken_flowBudget (f : Nat) : (h.portTaken c p r).flowBudget c f = h.flowBudget c f :=
  portTaken_keeps p r hp hw (·.flowBudget c f) fun _ _ _ => rfl

theorem portTaken_flowClass (f : Nat) : (h.portTaken c p r).flowClass c f = h.flowClass c f :=
  portTaken_keeps p r hp hw (·.flowClass c f) fun _ _ _ => rfl

theorem portTaken_flowDest (f : Nat) : (h.portTaken c p r).flowDest c f = h.flowDest c f :=
  portTaken_keeps p r hp hw (·.flowDest c f) fun _ _ _ => rfl

theorem portTaken_destPkgs (d : Nat) : (h.portTaken c p r).destPkgs c d = h.destPkgs c d :=
  portTaken_keeps p r hp hw (·.destPkgs c d) fun _ _ _ => rfl

/-- The events that are held, and the slots that have gone by. -/
theorem portTaken_counts (f : Nat) : (h.portTaken c p r).held c f + (h.portTaken c p r).passed c f = h.held c f + h.passed c f := by
  simp only [Hw.held, Hw.passed, portTaken_cl p r hp hw]

end

theorem injectionOffer_none (h : Hw) (c a b : Nat) (hport : (h.cl c).port = []) (halias : (h.cl c).alias_ = []) : h.injectionOffer c a b = h := by
  simp only [Hw.injectionOffer, hport, halias]

/-! ### Holding and spilling (06 R188-R190, R192) -/

section
variable {h : Hw} {c f : Nat} {e : Ev}

theorem injectEvent_flow (b : Nat) (hf : h.flowOf c e.addr = some f) : h.injectEvent c e 0 b = h.holdOrSpill c f e b := by
  simp only [Hw.injectEvent, tableErr_none, OfNat.zero_ne_ofNat, if_false, hf]

theorem injectEvent_noFlow (b : Nat) (hf : h.flowOf c e.addr = none) : h.injectEvent c e 0 b = h.noFlow c := by
  simp only [Hw.injectEvent, tableErr_none, OfNat.zero_ne_ofNat, if_false, hf]

/-- The drop is counted, and reported with the number of the step. -/
theorem noFlow_eq : h.noFlow c = (h.raiseQCl fFabNoflow c).inc NOFLOW_DROP_CNT c := by
  have hnum : (h.inc NOFLOW_DROP_CNT c).stepNum = h.stepNum := reg_inc_ne _ _ _ _ _ _ fun e => absurd e.1 (by decide)
  rw [Hw.noFlow, Hw.raiseQCl, Hw.raise, hnum]
  rfl

/-- While a reserved slot of its flow is ahead, an event is held. -/
theorem holdOrSpill_held (b : Nat) (hrun : h.step.framesDone = false) (hroom : h.held c f + h.passed c f < h.flowBudget c f) :
    h.holdOrSpill c f e b = (h.updCl c fun v => { v with hold := v.hold ++ [(f, e)] }).hwm HOLD_HWM c ((h.cl c).hold.length + 1) := by
  rw [Hw.holdOrSpill, if_pos ⟨by simp [hrun], by omega⟩]
  simp only [cl_updCl_same, List.length_append, List.length_singleton]

/-- In delivery, once no such slot is ahead, it spills for the step in progress. -/
theorem holdOrSpill_spilled (b : Nat) (hph : h.step.phase = .delivery)
    (hnone : h.step.framesDone = true ∨ h.flowBudget c f ≤ h.held c f + h.passed c f) :
    h.holdOrSpill c f e b = h.spillEvent c f e h.stepNum b := by
  have hoff : h.offerStep = h.stepNum := by rw [Hw.offerStep, hph]
  rw [Hw.holdOrSpill, if_neg, hoff]
  rintro ⟨hearly, hroom⟩
  obtain hend | hfull := hnone
  · simp [hph, hend] at hearly
  · omega

/-- A count leaves the packages of an entry as they are: they depend on the table and on the package's own number. -/
theorem destPkgs_inc (r : Rg) (u n d : Nat) (hr : r ≠ TOPO_POS) : (h.inc r u n).destPkgs c d = h.destPkgs c d := by
  have htopo : (h.inc r u n).reg TOPO_POS 0 = h.reg TOPO_POS 0 := reg_inc_ne _ _ _ _ _ _ fun e => hr e.1
  have hnum : (h.inc r u n).pkgNum = h.pkgNum := by unfold Hw.pkgNum Hw.flag Hw.fld; rw [htopo]
  rw [Hw.destPkgs, Hw.destPkgs, Hw.destWord, Hw.destWord, hnum]
  rfl

theorem fclsSpill_ne_topoPos (k : Nat) : FCLS_SPILL_CNT k ≠ TOPO_POS := fun e => absurd (Rg.mk.inj e).1 (by decide)

/-- Outside the integrate phase a spill for a package is counted, and joins the spill queue. -/
theorem spillEvent_queued (t : Word) (hph : h.step.phase ≠ .integrate) (hdest : h.destPkgs c (h.flowDest c f) ≠ 0) :
    h.spillEvent c f e t 0 = (((h.inc (FCLS_SPILL_CNT (h.flowClass c f)) c).inc SPILL_EVT_CNT c).updCl c fun v =>
      { v with spill := v.spill ++ [⟨e, t, h.flowDest c f⟩] }).hwm SPILL_HWM c ((h.cl c).spill.length + 1) := by
  have hcounted : h.countSpill c (h.flowClass c f) = h.inc (FCLS_SPILL_CNT (h.flowClass c f)) c := if_neg hph
  have hpkgs : ((h.inc (FCLS_SPILL_CNT (h.flowClass c f)) c).inc SPILL_EVT_CNT c).destPkgs c (h.flowDest c f) ≠ 0 := by
    rwa [destPkgs_inc _ _ _ _ (by decide), destPkgs_inc _ _ _ _ (fclsSpill_ne_topoPos _)]
  simp only [Hw.spillEvent, hcounted, if_neg hpkgs, tableErr_none, OfNat.zero_ne_ofNat, false_or, cl_updCl_same, cl_inc,
    List.length_append, List.length_singleton]

end

/-! ### The end of the last frame (06 R190) -/

/-- The part of router c in the end of the last frame, at slot n: flits on their last hop reach its lookup queue, and what it holds is residue. -/
def Hw.routerEnd (h : Hw) (n c : Nat) : Hw :=
  ((((h.localArrivals c n).localArrivals c (n + 1)).localArrivals c (n + 2)).updCl c fun v => { v with lanes := [] }).holdResidue c

theorem lastFrameEnd_notYet (h : Hw)
    (hno : h.step.phase ≠ .delivery ∨ h.step.framesDone = true ∨ ∃ d, d < 64 ∧ (h.cl d).slot < h.frameEnd) : h.lastFrameEnd = h := by
  refine if_pos ?_
  obtain hph | hdone | ⟨d, hd, hslot⟩ := hno
  · exact .inl hph
  · exact .inr (.inl hdone)
  · exact .inr (.inr (List.any_eq_true.2 ⟨d, List.mem_range.2 hd, decide_eq_true hslot⟩))

/-- Once every router is through the frames of the step, their end comes. -/
theorem lastFrameEnd_due (h : Hw) (hph : h.step.phase = .delivery) (hrun : h.step.framesDone = false)
    (hall : ∀ d, d < 64 → h.frameEnd ≤ (h.cl d).slot) : h.lastFrameEnd =
      ((List.range 64).foldl (fun g c => g.routerEnd h.frameEnd c) (h.advTo (h.step.start + h.frameEnd))).updStep fun s =>
        { s with framesDone := true } := by
  refine if_neg ?_
  simpa [hph, hrun] using hall

/-- Every cluster is in t as it is in h, and nothing but the list of clusters may differ. -/
structure Hw.SameClusters (h t : Hw) : Prop where
  rest : h.ClustersOnly t
  cl : ∀ d, t.cl d = h.cl d

/-- A router with nothing held and nothing on its lanes leaves the end of the last frame as it came to it. -/
theorem routerEnd_empty (h : Hw) (n c : Nat) (hh : (h.cl c).hold = []) (hl : (h.cl c).lanes = []) : h.SameClusters (h.routerEnd n c) := by
  have hsame : (h.updCl c fun v => { v with lanes := [] }).cl c = h.cl c := by rw [cl_updCl_same, ← hl]
  have hend : h.routerEnd n c = h.updCl c fun v => { v with lanes := [] } := by
    simp only [Hw.routerEnd, localArrivals_none h c _ hl]
    exact if_pos (by rw [hsame, hh])
  rw [hend]
  refine ⟨.updCl _ _ _, fun d => ?_⟩
  by_cases hd : c = d
  · rw [← hd, hsame]
  · rw [cl_updCl, if_neg hd]

/-- So do all of them in turn. -/
theorem foldl_routerEnd_empty (h : Hw) (n : Nat) (l : List Nat) (hl : ∀ d ∈ l, (h.cl d).hold = [] ∧ (h.cl d).lanes = []) :
    h.SameClusters (l.foldl (fun g c => g.routerEnd n c) h) := by
  induction l generalizing h with
  | nil => exact ⟨.refl h, fun _ => rfl⟩
  | cons c r ih =>
    obtain ⟨hhold, hlanes⟩ := hl c List.mem_cons_self
    obtain ⟨hrest, hcl⟩ := routerEnd_empty h n c hhold hlanes
    obtain ⟨hrest', hcl'⟩ := ih (h.routerEnd n c) fun d hd => by
      rw [hcl]
      exact hl d (List.mem_cons_of_mem c hd)
    rw [List.foldl_cons]
    exact ⟨hrest.trans hrest', fun d => (hcl' d).trans (hcl d)⟩

/-- Where no router has anything held or on its lanes, the end of the last frame takes time, and the frames are done. -/
theorem lastFrameEnd_empty (h : Hw) (hp : h.powered = true) (hw : h.waits = []) (hph : h.step.phase = .delivery) (hrun : h.step.framesDone = false)
    (hall : ∀ d, d < 64 → h.frameEnd ≤ (h.cl d).slot ∧ (h.cl d).hold = [] ∧ (h.cl d).lanes = []) :
    ∃ tp g, (h.atTime (max h.dev (h.step.start + h.frameEnd)) tp).SameClusters g ∧
      h.lastFrameEnd = g.updStep fun s => { s with framesDone := true } := by
  obtain ⟨tp, hadv⟩ := advTo_noWaits h (h.step.start + h.frameEnd) hp hw
  refine ⟨tp, _, foldl_routerEnd_empty _ h.frameEnd (List.range 64) fun d hd => (hall d (List.mem_range.1 hd)).2, ?_⟩
  rw [lastFrameEnd_due h hph hrun fun d hd => (hall d hd).1, hadv]

/-! ### Residue and the table scrubber (06 R190, R197) -/

section
variable {h : Hw} {c : Nat}

theorem spillRoom_eq : ∃ w, h.spillRoom c = h.withWaits w := by
  unfold Hw.spillRoom Hw.waitOff
  split
  · exact ⟨_, rfl⟩
  · split <;> exact ⟨_, rfl⟩

/-- The head of the residue, which is r then, has left it and is counted as moved. -/
def Hw.residueTaken (h : Hw) (c : Nat) (r : List (Nat × Ev × Word)) : Hw := (h.updCl c fun v => { v with residue := r }).inc HOLD_RESIDUE_CNT c

/-- The head of the residue is spilled. -/
theorem residueMove_head {f : Nat} {e : Ev} {n : Word} {r : List (Nat × Ev × Word)} (err : Nat) (hres : (h.cl c).residue = (f, e, n) :: r)
    (hroom : (h.cl c).spill.length < 1024) : h.residueMove c err = ((h.residueTaken c r).spillEvent c f e n err).spillRoom c := by
  have hfull : h.spillFull c = false := decide_eq_false (Nat.not_le.2 hroom)
  simp only [Hw.residueMove, hres, hfull, Bool.false_eq_true, if_false, Hw.residueTaken]

/-- The block after an event of class k has moved from the residue of a cluster, which is then r, to the spill queue. -/
def Hw.residueMoved (h : Hw) (c k : Nat) (r : List (Nat × Ev × Word)) (x : Spilled) : Hw :=
  (((((h.inc HOLD_RESIDUE_CNT c).inc (FCLS_SPILL_CNT k) c).inc SPILL_EVT_CNT c).updCl c fun v => { v with residue := r }).updCl c fun v =>
    { v with spill := v.spill ++ [x] }).hwm SPILL_HWM c ((h.cl c).spill.length + 1)

theorem residueMoved_cl (k : Nat) (r : List (Nat × Ev × Word)) (x : Spilled) :
    (h.residueMoved c k r x).cl c = { h.cl c with residue := r, spill := (h.cl c).spill ++ [x] } := by
  simp only [Hw.residueMoved, cl_hwm, cl_updCl_same, cl_inc]

theorem residueMoved_step (k : Nat) (r : List (Nat × Ev × Word)) (x : Spilled) : (h.residueMoved c k r x).step = h.step := by
  simp only [Hw.residueMoved, step_hwm, updCl_step, inc_step]

theorem residueMoved_reports (k : Nat) (r : List (Nat × Ev × Word)) (x : Spilled) : (h.residueMoved c k r x).reports = h.reports := by
  simp only [Hw.residueMoved, reports_hwm, updCl_reports, inc_reports]

/-- Each of the three counts it makes is one of its own. -/
theorem residueMoved_reg (k : Nat) (r : List (Nat × Ev × Word)) (x : Spilled) {q : Rg}
    (hq : q = HOLD_RESIDUE_CNT ∨ q = SPILL_EVT_CNT ∨ q = FCLS_SPILL_CNT k) : (h.residueMoved c k r x).reg q c = satAdd32 (h.reg q c) 1 := by
  have hclass : (FCLS_SPILL_CNT k).off ≠ HOLD_RESIDUE_CNT.off ∧ (FCLS_SPILL_CNT k).off ≠ SPILL_EVT_CNT.off ∧
      (FCLS_SPILL_CNT k).off ≠ SPILL_HWM.off := by simp only [FCLS_SPILL_CNT, HOLD_RESIDUE_CNT, SPILL_EVT_CNT, SPILL_HWM]; omega
  obtain ⟨hres, hevt, hhwm⟩ := hclass
  obtain rfl | rfl | rfl := hq
  · rw [Hw.residueMoved, hwm_reg_ne _ _ _ _ _ _ (by decide), reg_updCl, reg_updCl, reg_inc_ne _ _ _ _ _ _ fun e => absurd e.1 (by decide),
      reg_inc_ne _ _ _ _ _ _ fun e => hres (congrArg Rg.off e.1), reg_inc_same]
  · rw [Hw.residueMoved, hwm_reg_ne _ _ _ _ _ _ (by decide), reg_updCl, reg_updCl, reg_inc_same,
      reg_inc_ne _ _ _ _ _ _ fun e => hevt (congrArg Rg.off e.1), reg_inc_ne _ _ _ _ _ _ fun e => absurd e.1 (by decide)]
  · rw [Hw.residueMoved, hwm_reg_ne _ _ _ _ _ _ fun e => hhwm (congrArg Rg.off e.symm), reg_updCl, reg_updCl,
      reg_inc_ne _ _ _ _ _ _ fun e => hevt (congrArg Rg.off e.1.symm), reg_inc_same,
      reg_inc_ne _ _ _ _ _ _ fun e => hres (congrArg Rg.off e.1.symm)]

/-- Outside the integrate phase an event of residue with packages to go to moves to the spill queue. -/
theorem residueMove_queued {f : Nat} {e : Ev} {n : Word} {r : List (Nat × Ev × Word)} (hph : h.step.phase ≠ .integrate)
    (hres : (h.cl c).residue = (f, e, n) :: r) (hroom : (h.cl c).spill.length < 1024) (hdest : h.destPkgs c (h.flowDest c f) ≠ 0) :
    ∃ w, h.residueMove c 0 = (h.residueMoved c (h.flowClass c f) r ⟨e, n, h.flowDest c f⟩).withWaits w := by
  have hclass : (h.residueTaken c r).flowClass c f = h.flowClass c f := rfl
  have hentry : (h.residueTaken c r).flowDest c f = h.flowDest c f := rfl
  have hdest' : (h.residueTaken c r).destPkgs c ((h.residueTaken c r).flowDest c f) ≠ 0 := by
    rw [hentry, Hw.residueTaken, destPkgs_inc _ _ _ _ (by decide)]
    exact hdest
  obtain ⟨w, hw⟩ := spillRoom_eq (c := c) (h := (h.residueTaken c r).spillEvent c f e n 0)
  refine ⟨w, ?_⟩
  rw [residueMove_head 0 hres hroom, hw, spillEvent_queued (h := h.residueTaken c r) n hph hdest', hclass, hentry]
  simp only [Hw.residueTaken, Hw.residueMoved, inc_updCl, cl_updCl_same, cl_inc]

theorem flag_of_en {r : Rg} {u i : Nat} (hen : h.en r u i = true) : h.flag r u i = true := by
  rw [Hw.en, Bool.and_eq_true] at hen
  exact hen.2

theorem tableScrub_visit (err : Nat) (hen : h.flag RT_CTRL c 1 = true) (hph : h.step.phase ≠ .delivery) :
    h.tableScrub c err = (h.updCl c fun v => { v with tblScrub := (v.tblScrub + 1) % 141056 }).tableErr c err :=
  if_neg (by simp [hen, hph])

theorem tableScrub_delivery (err : Nat) (hph : h.step.phase = .delivery) : h.tableScrub c err = h := if_pos (.inr hph)

end

/-! ### The statement -/

/-- Settles O52: each command is its operation on the block. A slot that is due takes time to its instant and applies its entries, of which all but
one are zeros; an offer that is taken leaves the port, and is held, spilled or dropped by what its flow has ahead; every router that is empty leaves
the last frame's end as it came; and a command whose time has not come does nothing. -/
theorem fabricSlotsAndInjection : Obligations.FabricSlotsAndInjection := by
  refine ⟨?notDue, ?idle, ?hit, ?empty, ?stall, ?hold, ?spill, ?noFlow, ?addrBad, ?noOffer, ?notEnd, ?lastEnd, ?residue, ?scrub, ?noScrub⟩
  case notDue => exact fun s c x hno => ignored_of_same (f := fun h => h.fabricSlot c x) rfl (fabricSlot_notDue _ _ _ hno)
  case idle =>
    intro s c hp hph hrun hin hnear hl hw hq
    refine answers_onHw (f := fun h => h.fabricSlot c {}) rfl hp ?_
    obtain ⟨tp, hadv⟩ := advTo_noWaits s.hw (s.hw.step.start + (s.hw.cl c).slot) hp hw
    rw [fabricSlot_due ⟨hph, hrun, hin, hnear⟩ hl hadv.symm rfl, hadv, if_pos (.inl hq)]
    exact updCl_congr _ _ (slotOver_noLanes _ hl)
  case hit =>
    intro s c n f q w e r hp hph hrun hn hin hnear hl hw hq hbusy hidle hrest hword hlay hout hf ht
    refine answers_onHw (f := fun h => h.fabricSlot c {}) rfl hp ?_
    obtain ⟨m, tp, hslot⟩ := fabricSlot_local hp hw ⟨hph, hrun, hn ▸ hin, hn ▸ hnear⟩ hl hn hq hbusy hidle hrest hword hlay hout
    have hcl := localSlot_held_cl (h := s.hw.atTime m tp) (n := n) hl ht
    have hkept := localSlot_held_rest (h := s.hw.atTime m tp) (n := n) ht
    rw [hslot, ← hf]
    refine ⟨by rw [hcl], by rw [hcl], by rw [hcl]; exact if_pos rfl, passed_of_slotPassed (by rw [hcl]; rfl), ?_, ?_, hkept.cores, hkept.mem,
      hkept.reports⟩
    · exact (hkept.reg _ _).trans (reg_inc_inc_last (fclsHit_ne_resv _ _))
    · exact (hkept.reg _ _).trans (reg_inc_inc (fclsHit_ne_resv _ _))
  case empty =>
    intro s c n f q w hp hph hrun hn hin hnear hl hw hq hbusy hidle hrest hword hlay hout hf ht
    refine answers_onHw (f := fun h => h.fabricSlot c {}) rfl hp ?_
    obtain ⟨m, tp, hslot⟩ := fabricSlot_local hp hw ⟨hph, hrun, hn ▸ hin, hn ▸ hnear⟩ hl hn hq hbusy hidle hrest hword hlay hout
    have hcl := localSlot_empty_cl (h := s.hw.atTime m tp) (n := n) hl ht
    have hkept := localSlot_empty_rest (h := s.hw.atTime m tp) (n := n) ht
    rw [hslot, ← hf]
    refine ⟨by rw [hcl]; rfl, by rw [hcl], by rw [hcl]; exact hl, passed_of_slotPassed (by rw [hcl]; rfl), ?_, ?_⟩
    · exact (hkept.reg _ _).trans (reg_inc_inc_last (fclsEmpty_ne_resv _ _))
    · exact (hkept.reg _ _).trans (reg_inc_inc (fclsEmpty_ne_resv _ _))
  case stall =>
    intro s c a b p r hp hport hfull hw
    refine answers_onHw (f := fun h => h.injectionOffer c a b) rfl hp ?_
    rw [injectionOffer_refused _ _ hport ((offerRefused_iff _ _).2 hfull), offerWait_first _ _ hw]
    exact .one _ _ rfl _ _ _
  case hold =>
    intro s c p r f hp hph hport hroom hres hw hcore hgood hflow hrun hahead
    refine answers_onHw (f := fun h => h.injectionOffer c 0 0) rfl hp ?_
    have hahead' : (s.hw.portTaken c p r).held c f + (s.hw.portTaken c p r).passed c f < (s.hw.portTaken c p r).flowBudget c f := by
      rwa [portTaken_counts p r hp hw, portTaken_flowBudget p r hp hw]
    rw [injectionOffer_taken _ _ hport (offerRefused_false hroom hres) hcore (by rw [portTaken_addrBad p r hp hw, hgood]),
      injectEvent_flow _ ((portTaken_flowOf p r hp hw _).trans hflow), holdOrSpill_held _ (by rw [portTaken_step p r hp hw, hrun]) hahead',
      settleDone_off _ _ (by rwa [step_hwm, updCl_step, portTaken_step p r hp hw]), portTaken_cl p r hp hw]
  case spill =>
    intro s c p r f k hp hph hport hroom hres hw hcore hgood hflow hnone hk hdest
    refine answers_onHw (f := fun h => h.injectionOffer c 0 0) rfl hp ?_
    have hnot : s.hw.step.phase ≠ .integrate := by rw [hph]; decide
    have hnone' : (s.hw.portTaken c p r).step.framesDone = true ∨
        (s.hw.portTaken c p r).flowBudget c f ≤ (s.hw.portTaken c p r).held c f + (s.hw.portTaken c p r).passed c f := by
      rwa [portTaken_step p r hp hw, portTaken_counts p r hp hw, portTaken_flowBudget p r hp hw]
    have hdest' : (s.hw.portTaken c p r).destPkgs c ((s.hw.portTaken c p r).flowDest c f) ≠ 0 := by
      rwa [portTaken_flowDest p r hp hw, portTaken_destPkgs p r hp hw]
    rw [injectionOffer_taken _ _ hport (offerRefused_false hroom hres) hcore (by rw [portTaken_addrBad p r hp hw, hgood]),
      injectEvent_flow _ ((portTaken_flowOf p r hp hw _).trans hflow), holdOrSpill_spilled _ (by rw [portTaken_step p r hp hw, hph]) hnone',
      spillEvent_queued _ (by rwa [portTaken_step p r hp hw]) hdest',
      settleDone_off _ _ (by rwa [step_hwm, updCl_step, inc_step, inc_step, portTaken_step p r hp hw]), portTaken_cl p r hp hw,
      portTaken_flowClass p r hp hw, portTaken_flowDest p r hp hw, Hw.stepNum, portTaken_reg p r hp hw, hk]
    rfl
  case noFlow =>
    intro s c p r hp hph hport hroom hres hw hcore hgood hflow
    refine answers_onHw (f := fun h => h.injectionOffer c 0 0) rfl hp ?_
    have hreg : ((s.hw.portTaken c p r).raiseQCl fFabNoflow c).reg NOFLOW_DROP_CNT c = s.hw.reg NOFLOW_DROP_CNT c :=
      portTaken_reg (c := c) p r hp hw _ _
    rw [injectionOffer_taken _ _ hport (offerRefused_false hroom hres) hcore (by rw [portTaken_addrBad p r hp hw, hgood]),
      injectEvent_noFlow _ ((portTaken_flowOf p r hp hw _).trans hflow), noFlow_eq,
      settleDone_off _ _ (by rwa [inc_step, Hw.raiseQCl, raise_step, portTaken_step p r hp hw]), Hw.inc, hreg]
    exact .one _ ((s.hw.portTaken c p r).raiseQCl fFabNoflow c) (portTaken_regs (c := c) p r hp hw) _ _ _
  case addrBad =>
    intro s c p r hp hph hport hroom hres hw hbad
    refine answers_onHw (f := fun h => h.injectionOffer c 0 0) rfl hp ?_
    rw [injectionOffer_addrBad _ _ hport (offerRefused_false hroom hres) (by rw [portTaken_addrBad p r hp hw, hbad]),
      settleDone_off _ _ (by rwa [inc_step, portTaken_step p r hp hw]), Hw.inc, portTaken_reg p r hp hw]
    exact .one _ _ (portTaken_regs p r hp hw) _ _ _
  case residue =>
    intro s c f k e n r hp hph hres hroom hk hdest
    refine answers_onHw (f := fun h => (h.residueMove c 0).settleDone c) rfl hp ?_
    obtain ⟨w, hmove⟩ := residueMove_queued hph hres hroom hdest
    rw [hmove, settleDone_off _ _ (by rwa [step_withWaits, residueMoved_step]), ← hk]
    refine ⟨?_, ?_, ?_, ?_, ?_, ?_⟩
    · rw [cl_withWaits, residueMoved_cl]
    · rw [cl_withWaits, residueMoved_cl]
    · rw [reg_withWaits, residueMoved_reg _ _ _ (.inl rfl)]
    · rw [reg_withWaits, residueMoved_reg _ _ _ (.inr (.inl rfl))]
    · rw [reg_withWaits, residueMoved_reg _ _ _ (.inr (.inr rfl))]
    · rw [reports_withWaits, residueMoved_reports]
  case notEnd => exact fun s hno => ignored_of_same (f := fun h => h.lastFrameEnd) rfl (lastFrameEnd_notYet _ hno)
  case lastEnd =>
    intro s hp hph hrun hall hw
    refine answers_onHw (f := fun h => h.lastFrameEnd) rfl hp ?_
    obtain ⟨tp, g, ⟨hrest, hcl⟩, hend⟩ := lastFrameEnd_empty s.hw hp hw hph hrun hall
    rw [hend]
    refine ⟨?_, hrest.dev, hrest.regs, hrest.cores, fun d _ => hcl d⟩
    rw [Hw.updStep, hrest.step]
    rfl
  case scrub =>
    intro s c hp hen hph
    refine answers_onHw (f := fun h => h.tableScrub c 1) rfl hp ?_
    rw [tableScrub_visit _ (flag_of_en hen) hph]
    exact .one _ _ rfl _ _ _
  case noScrub => exact fun s c err _ hph => ignored_of_same (f := fun h => h.tableScrub c err) rfl (tableScrub_delivery _ hph)
  case noOffer =>
    exact fun s c a b hport halias => ignored_of_same (f := fun h => h.injectionOffer c a b) rfl (injectionOffer_none _ _ _ _ hport halias)

end Sys2Proof.Machine
end

section
/-! SUPPORT. What the traffic of the drip plane is made of (07 R203, R206, R208, R212, R213): waits, input buffers, packets at the local port and RSP
packets, what each of them changes and what it leaves. -/

namespace Sys2Proof.Machine

/-! ### Waits -/

section
variable (h : Hw) (r : Rg) (u per who : Nat)

theorem countWait_eq (key : Nat) (w : Wait) (n : Nat) :
    h.countWait key w n = { h with regs := (h.countWait key w n).regs, waits := (h.countWait key w n).waits } := by
  unfold Hw.countWait
  dsimp only
  split <;> rfl

theorem waitOn_eq : h.waitOn r u per who = { h with regs := (h.waitOn r u per who).regs, waits := (h.waitOn r u per who).waits } :=
  countWait_eq _ _ _ _

/-- Where no wait is counted, one that begins counts the present cycle. -/
theorem waitOn_first (hw : h.waits = []) : h.waitOn r u 1 who =
    (h.withWaits [(waitKey r u who, { page := r.page, off := r.off, unit := u, next := h.dev + 1, n := 1 })]).inc r u := by
  have hdue : ({ page := r.page, off := r.off, unit := u, per := 1, next := h.dev } : Wait).due (h.dev + 1) = 1 := by simp [Wait.due, ceilDiv]
  rw [Hw.waitOn, hw]
  simp only [Tbl.find, Option.getD_none, Hw.countWait, hdue, one_ne_zero, if_false, hw, Tbl.put]
  rfl

/-- Where no wait is counted, none ends. -/
theorem waitOff_none (hw : h.waits = []) : h.waitOff r u who = h := by
  rw [Hw.waitOff, hw]
  rfl

@[simp] theorem cl_waitOn (c : Nat) : (h.waitOn r u per who).cl c = h.cl c := by rw [waitOn_eq]; rfl
@[simp] theorem cl_waitOff (c : Nat) : (h.waitOff r u who).cl c = h.cl c := by rw [waitOff_eq]; rfl
@[simp] theorem ep_waitOff (e : Nat) : (h.waitOff r u who).ep e = h.ep e := by rw [waitOff_eq]; rfl

end

/-! ### Endpoints -/

section
variable (h : Hw) (e : Nat)

theorem ep_updEp_same (f : EpSt → EpSt) : (h.updEp e f).ep e = f (h.ep e) := by rw [Hw.updEp, ep_setEp, if_pos rfl]

@[simp] theorem ep_inc (r : Rg) (u n : Nat) : (h.inc r u n).ep e = h.ep e := rfl
@[simp] theorem ep_raiseQCl (t c : Nat) : (h.raiseQCl t c).ep e = h.ep e := rfl

end

/-! ### Blocks that differ in their traffic alone -/

/-- A block in which clusters, registers and waits are all that differs: what packets on their way may change. -/
def Hw.TrafficOnly (h t : Hw) : Prop := t = { h with clusters := t.clusters, regs := t.regs, waits := t.waits }

theorem Hw.ClustersOnly.eps {h t : Hw} (x : h.ClustersOnly t) : t.eps = h.eps := by rw [Hw.ClustersOnly] at x; rw [x]

namespace Hw.TrafficOnly

theorem refl (h : Hw) : h.TrafficOnly h := rfl

variable {h t : Hw} (x : h.TrafficOnly t)
include x

theorem trans {u : Hw} (y : t.TrafficOnly u) : h.TrafficOnly u := by
  rw [Hw.TrafficOnly] at x y ⊢
  rw [y, x]

theorem cores : t.cores = h.cores := by rw [Hw.TrafficOnly] at x; rw [x]
theorem mem : t.mem = h.mem := by rw [Hw.TrafficOnly] at x; rw [x]
theorem reports : t.reports = h.reports := by rw [Hw.TrafficOnly] at x; rw [x]
theorem eps : t.eps = h.eps := by rw [Hw.TrafficOnly] at x; rw [x]
theorem ep (e : Nat) : t.ep e = h.ep e := by rw [Hw.ep, x.eps]; rfl

theorem updCl (c : Nat) (f : ClusterSt → ClusterSt) : h.TrafficOnly (t.updCl c f) := x.trans rfl
theorem inc (r : Rg) (u n : Nat) : h.TrafficOnly (t.inc r u n) := x.trans rfl
theorem waitOn (r : Rg) (u per who : Nat) : h.TrafficOnly (t.waitOn r u per who) :=
  x.trans (by rw [Hw.TrafficOnly, waitOn_eq])

theorem waitOff (r : Rg) (u who : Nat) : h.TrafficOnly (t.waitOff r u who) :=
  x.trans (by rw [Hw.TrafficOnly, waitOff_eq])

theorem setDbuf (c p vc : Nat) (l : List DFlit) : h.TrafficOnly (t.setDbuf c p vc l) := by
  unfold Hw.setDbuf
  dsimp only
  split
  · split
    · exact (x.updCl _ _).waitOn _ _ _ _
    · exact (x.updCl _ _).waitOff _ _ _
  · exact x.updCl _ _

end Hw.TrafficOnly

/-! ### Input buffers (07 R203) -/

section
variable (h : Hw) (c p vc : Nat) (l : List DFlit)

theorem cl_setDbuf (d : Nat) : (h.setDbuf c p vc l).cl d =
    if c = d then { h.cl c with dbuf := Tbl.set [] (h.cl c).dbuf (2 * p + vc) l } else h.cl d := by
  unfold Hw.setDbuf
  dsimp only
  split
  · split
    · rw [cl_waitOn, cl_updCl]
    · rw [cl_waitOff, cl_updCl]
  · rw [cl_updCl]

theorem cl_setDbuf_same : (h.setDbuf c p vc l).cl c = { h.cl c with dbuf := Tbl.set [] (h.cl c).dbuf (2 * p + vc) l } := by
  rw [cl_setDbuf, if_pos rfl]

theorem cl_setDbuf_ne {d : Nat} (hd : c ≠ d) : (h.setDbuf c p vc l).cl d = h.cl d := by rw [cl_setDbuf, if_neg hd]

/-- A buffer reads as it was written. -/
theorem dbufOf_setDbuf_same : (h.setDbuf c p vc l).dbufOf c p vc = l := by rw [Hw.dbufOf, cl_setDbuf_same, Tbl.get_set_same]

/-- On RSP nothing but the buffer changes: no throttling is counted there (07 R215). -/
theorem setDbuf_rsp : h.setDbuf c p 1 l = h.updCl c fun v => { v with dbuf := Tbl.set [] v.dbuf (2 * p + 1) l } := by
  unfold Hw.setDbuf
  exact if_neg one_ne_zero

/-- Where no wait is counted, a buffer's change counts in DRIP_THR_CYC_CNT at most. -/
theorem reg_setDbuf (hw : h.waits = []) {r : Rg} (hr : r ≠ DRIP_THR_CYC_CNT) (u : Nat) : (h.setDbuf c p vc l).reg r u = h.reg r u := by
  unfold Hw.setDbuf
  dsimp only
  split
  · split
    · rw [waitOn_first (h.updCl c _) _ _ _ hw, reg_inc_ne _ _ _ _ _ _ fun e => hr e.1.symm]
      rfl
    · rw [waitOff_none (h.updCl c _) _ _ _ hw]
      rfl
  · rfl

theorem dbufOf_eq_of_cl {t : Hw} {d : Nat} (e : (t.cl d).dbuf = (h.cl d).dbuf) : t.dbufOf d p vc = h.dbufOf d p vc := by rw [Hw.dbufOf, Hw.dbufOf, e]

/-- An RSP packet of an endpoint is not throttled. -/
theorem inject_rsp : h.inject c 1 l = h.setDbuf c 0 1 (h.dbufOf c 0 1 ++ l) := by
  unfold Hw.inject
  exact if_neg one_ne_zero

/-- A packet joins what the local input buffer holds. -/
theorem dbufOf_inject : (h.inject c vc l).dbufOf c 0 vc = h.dbufOf c 0 vc ++ l := by
  unfold Hw.inject
  dsimp only
  split
  · rw [dbufOf_eq_of_cl (h.setDbuf c 0 vc _), dbufOf_setDbuf_same]
    rw [cl_updCl_same]
  · rw [dbufOf_setDbuf_same]

end

/-! ### RSP packets (07 R203, R213) -/

/-- A block in which RSP packets of cluster c's endpoints have been sent: they are in the local input buffer or wait for room there. -/
def Hw.RspSent (h : Hw) (c : Nat) (t : Hw) : Prop :=
  h.ClustersOnly t ∧ ∃ b q, t.cl c = { h.cl c with dbuf := b, rspq := q }

namespace Hw.RspSent

theorem refl (h : Hw) (c : Nat) : h.RspSent c h := ⟨.refl h, _, _, rfl⟩

theorem queued (h : Hw) (c : Nat) (q : List (List DFlit) → List (List DFlit)) : h.RspSent c (h.updCl c fun v => { v with rspq := q v.rspq }) :=
  ⟨.updCl _ _ _, _, _, cl_updCl_same _ _ _⟩

theorem entered (h : Hw) (c : Nat) (p : List DFlit) : h.RspSent c (h.inject c 1 p) := by
  rw [inject_rsp, setDbuf_rsp]
  exact ⟨.updCl _ _ _, _, (h.cl c).rspq, cl_updCl_same _ _ _⟩

variable {h t : Hw} {c : Nat} (x : h.RspSent c t)
include x

theorem trans {u : Hw} (y : t.RspSent c u) : h.RspSent c u := by
  obtain ⟨xo, b, q, xc⟩ := x
  obtain ⟨yo, b', q', yc⟩ := y
  exact ⟨xo.trans yo, b', q', by rw [yc, xc]⟩

theorem flushRsp (n : Nat) : h.RspSent c (t.flushRsp c n) := by
  induction n generalizing t with
  | zero => exact x
  | succ n ih =>
    rw [Hw.flushRsp]
    split
    · exact x
    · split
      · exact ih ((x.trans (queued _ _ fun _ => _)).trans (entered _ _ _))
      · exact x

theorem sendRspFlits (p : List DFlit) : h.RspSent c (t.sendRspFlits c p) :=
  flushRsp (x.trans (queued _ _ (· ++ [p]))) _

theorem sendWret (scl sep : Nat) (evt : Bool) (step : Nat) : h.RspSent c (t.sendWret c scl sep evt step) := x.sendRspFlits _

theorem sendCtls (p0 : Word) (op reason conn epoch port : Nat) : h.RspSent c (t.sendCtls c p0 op reason conn epoch port) := x.sendRspFlits _

theorem wretTo (p0 : Word) : h.RspSent c (t.wretTo c p0) := by
  unfold Hw.wretTo
  split
  · exact x.sendWret _ _ _ _
  · split
    · exact x.sendWret _ _ _ _
    · exact x

theorem answer (p0 : Word) (op reason conn epoch port : Nat) : h.RspSent c (t.answer c p0 op reason conn epoch port) :=
  (x.sendCtls _ _ _ _ _ _).wretTo _

theorem eps : t.eps = h.eps := x.1.eps
theorem regs : t.regs = h.regs := x.1.regs
theorem mem : t.mem = h.mem := x.1.mem
theorem cores : t.cores = h.cores := x.1.cores
theorem reg (r : Rg) (u : Nat) : t.reg r u = h.reg r u := x.1.reg r u
theorem ep (e : Nat) : t.ep e = h.ep e := by rw [Hw.ep, x.eps]; rfl

theorem dpkts : (t.cl c).dpkts = (h.cl c).dpkts := by
  obtain ⟨-, b, q, e⟩ := x
  rw [e]

theorem lookq : (t.cl c).lookq = (h.cl c).lookq := by
  obtain ⟨-, b, q, e⟩ := x
  rw [e]

end Hw.RspSent

/-- An RSP packet for which nothing waits and there is room enters the local input buffer at once. -/
theorem sendRspFlits_room {h : Hw} {c : Nat} {p : List DFlit} (hq : (h.cl c).rspq = []) (hroom : (h.dbufOf c 0 1).length + p.length ≤ 40) :
    (h.sendRspFlits c p).dbufOf c 0 1 = h.dbufOf c 0 1 ++ p ∧ ((h.sendRspFlits c p).cl c).rspq = [] := by
  have hfits : p.length ≤ (h.updCl c fun v => { v with rspq := v.rspq ++ [p] }).dbufRoom c 0 1 := by
    rw [Hw.dbufRoom, dbufOf_eq_of_cl h]
    · omega
    · rw [cl_updCl_same]
  have hone : h.sendRspFlits c p =
      ((h.updCl c fun v => { v with rspq := v.rspq ++ [p] }).updCl c fun v => { v with rspq := [] }).inject c 1 p := by
    simp only [Hw.sendRspFlits, Hw.flushRsp, cl_updCl_same, hq, List.nil_append, List.length_singleton] at hfits ⊢
    rw [if_pos hfits]
  rw [hone]
  refine ⟨?_, ?_⟩
  · rw [dbufOf_inject, dbufOf_eq_of_cl h]
    rw [cl_updCl_same, cl_updCl_same]
  · rw [Hw.inject]
    simp only [one_ne_zero, if_false, cl_setDbuf_same, cl_updCl_same]

/-! ### Packets at the local port (07 R208, R230) -/

section
variable (h : Hw) (c vc : Nat)

theorem cl_popPkt : (h.popPkt c vc).cl c = { h.cl c with dpkts := Tbl.set [] (h.cl c).dpkts vc (Tbl.get [] (h.cl c).dpkts vc).tail } :=
  cl_updCl_same _ _ _

theorem dpkts_popPkt : Tbl.get [] ((h.popPkt c vc).cl c).dpkts vc = (Tbl.get [] (h.cl c).dpkts vc).tail := by rw [cl_popPkt, Tbl.get_set_same]

@[simp] theorem ep_popPkt (e : Nat) : (h.popPkt c vc).ep e = h.ep e := rfl
@[simp] theorem reg_popPkt (r : Rg) (u : Nat) : (h.popPkt c vc).reg r u = h.reg r u := rfl
@[simp] theorem regs_popPkt : (h.popPkt c vc).regs = h.regs := rfl
@[simp] theorem mem_popPkt : (h.popPkt c vc).mem = h.mem := rfl
@[simp] theorem cores_popPkt : (h.popPkt c vc).cores = h.cores := rfl

/-- A packet taken from a local port leaves every core as available as it was. -/
theorem epReady_popPkt (d e : Nat) : (h.popPkt c vc).epReady d e = h.epReady d e := by
  have havail (x : Nat) : ((h.popPkt c vc).cl x).avail = (h.cl x).avail := by
    rw [Hw.popPkt, cl_updCl]
    split
    · subst_vars; rfl
    · rfl
  simp only [Hw.epReady, Hw.coreAvail, havail]
  rfl

variable {h c} {type : Nat} {f : List DFlit → Hw → Hw}

theorem withPkt_none (hn : h.headPkt c (vcOf type) = none) : h.withPkt c type f = h := by rw [Hw.withPkt, hn]

/-- The head packet, of the type asked for and well-formed, is handled. -/
theorem withPkt_good {p : List DFlit} (hh : h.headPkt c (vcOf type) = some p) (ht : pType (flitW p 0) = type)
    (hgood : isCtl type = true → pktBad p = false) (hpay : payloadOk type (flitW p 1) (flitW p 2) = true) : h.withPkt c type f = f p h := by
  have hctl : ¬ (isCtl type = true ∧ pktBad p = true) := fun hb => by simp [hgood hb.1] at hb
  simp only [Hw.withPkt, hh, ht, ne_eq, not_true_eq_false, if_false, hctl, hpay, Bool.true_eq_false]

end

end Sys2Proof.Machine
end

section
/-! SUPPORT. Drip routers (07 R203, R208–R210), event packets and their receivers (R216–R218) and window places (R212–R214), and the statement on
them. -/

namespace Sys2Proof.Machine

/-! ### Neighbours (01 R39) -/

theorem neighbour_ne_self (c : Cluster) (dir : Dir) : neighbour c dir ≠ some c.val := by
  cases dir <;> decide +revert

section
variable {c d : Nat} {dir : Dir} (hn : neighbour c dir = some d) (h : Hw) (vc : Nat)
include hn

/-- The credits of an output towards a neighbour are the free places of the buffer there. -/
theorem credit_neighbour (n : Nat) : h.credit c dir.port vc n = decide (n ≤ h.dbufRoom d dir.opp.port vc) := by
  cases dir <;> simp only [Hw.credit, Dir.port, dirOf, hn]

/-- A flit that leaves towards a neighbour joins the buffer there. -/
theorem dripOut_neighbour (f : DFlit) : h.dripOut c dir.port vc f = h.setDbuf d dir.opp.port vc (h.dbufOf d dir.opp.port vc ++ [f]) := by
  cases dir <;> simp only [Hw.dripOut, Dir.port, dirOf, hn]

end

/-! ### Flits that join a buffer -/

/-- Flits join an input buffer one after another. -/
def Hw.appendFlits (h : Hw) (d o vc : Nat) (q : List DFlit) : Hw := q.foldl (fun h g => h.setDbuf d o vc (h.dbufOf d o vc ++ [g])) h

theorem dripOuts_neighbour {c d : Nat} {dir : Dir} (hn : neighbour c dir = some d) (h : Hw) (vc : Nat) (q : List DFlit) :
    h.dripOuts c vc [dir.port] q = h.appendFlits d dir.opp.port vc q := by
  simp only [Hw.dripOuts, List.foldl_cons, List.foldl_nil, dripOut_neighbour hn]
  rfl

section
variable (h : Hw) (d o vc : Nat) (q : List DFlit)

theorem appendFlits_cons (f : DFlit) : h.appendFlits d o vc (f :: q) = (h.setDbuf d o vc (h.dbufOf d o vc ++ [f])).appendFlits d o vc q := rfl

theorem dbufOf_appendFlits : (h.appendFlits d o vc q).dbufOf d o vc = h.dbufOf d o vc ++ q := by
  induction q generalizing h with
  | nil => exact (List.append_nil _).symm
  | cons f r ih => rw [appendFlits_cons, ih, dbufOf_setDbuf_same, List.append_assoc, List.singleton_append]

theorem cl_appendFlits_ne {c : Nat} (hc : d ≠ c) : (h.appendFlits d o vc q).cl c = h.cl c := by
  induction q generalizing h with
  | nil => rfl
  | cons f r ih => rw [appendFlits_cons, ih, cl_setDbuf_ne _ _ _ _ _ hc]

theorem appendFlits_traffic : h.TrafficOnly (h.appendFlits d o vc q) := by
  induction q generalizing h with
  | nil => exact .refl h
  | cons f r ih => exact ((Hw.TrafficOnly.refl h).setDbuf _ _ _ _).trans (ih _)

theorem regs_appendFlits_rsp : (h.appendFlits d o 1 q).regs = h.regs := by
  induction q generalizing h with
  | nil => rfl
  | cons f r ih => rw [appendFlits_cons, ih, setDbuf_rsp, updCl_regs]

end

/-! ### Flits taken from a buffer -/

section
variable (h : Hw) (c p vc : Nat) (l : List DFlit) (r : DRoute)

theorem dbufOf_takeFlits : (h.takeFlits c p vc l r).dbufOf c p vc = l := by
  rw [Hw.takeFlits, dbufOf_eq_of_cl (h.setDbuf c p vc l), dbufOf_setDbuf_same]
  rw [cl_updCl_same]

theorem route_takeFlits : (h.takeFlits c p vc l r).route c p vc = r := by
  rw [Hw.route, Hw.takeFlits, cl_updCl_same, Tbl.get_set_same]

theorem cl_takeFlits_ne {d : Nat} (hd : c ≠ d) : (h.takeFlits c p vc l r).cl d = h.cl d := by
  rw [Hw.takeFlits, cl_updCl, if_neg hd, cl_setDbuf_ne _ _ _ _ _ hd]

theorem takeFlits_traffic : h.TrafficOnly (h.takeFlits c p vc l r) := ((Hw.TrafficOnly.refl h).setDbuf _ _ _ _).updCl _ _

end

/-! ### Headers (07 R203, R208–R210) -/

section
variable {h : Hw} {c p vc : Nat} {w : Word} {l : List DFlit}

/-- A header that is not well-formed discards its packet. -/
theorem dripForward_malformed (hbuf : h.dbufOf c p vc = ⟨w, false⟩ :: l) (hroute : h.route c p vc = {}) (hok : hdrOk w = false) :
    h.dripForward c p vc 0 = ((h.inc DRIP_TREE_ERR_CNT c).takeFlits c p vc l ⟨pLen w, [], true, 0⟩).dripSettle c p := by
  have hr : h.routeOf c w = .malformed := if_pos hok
  simp [Hw.dripForward, hbuf, hroute, hr, Hw.dripErr]

/-- The header w of a unicast packet of this package at input p goes towards neighbour d, over a lane that works, where no packet is in its way and
it is its turn. -/
structure Hw.MayGo (h : Hw) (c p vc : Nat) (w : Word) (dir : Dir) (d : Nat) : Prop where
  ok : hdrOk w = true
  unicast : 2 ≤ pType w
  own : pDpkg w = h.pkgNum
  xy : xyPort c (pDcl w) = dir.port
  next : neighbour c dir = some d
  alive : h.portDead c dir.port = false
  free : h.outsFree c p vc [dir.port] = true
  turn : h.turn c p vc dir.port = true

variable {dir : Dir} {d : Nat} (x : h.MayGo c p vc w dir d)
include x

theorem routeOf_mayGo : h.routeOf c w = .out [dir.port] 0 := by
  obtain ⟨hok, huni, hown, hxy, -, -, -, -⟩ := x
  have htree : ¬ (pType w = tEVT ∨ pType w = tCFG) := by simp only [tEVT, tCFG]; omega
  simp only [Hw.routeOf, hok, Bool.true_eq_false, if_false, htree, hown, if_true, hxy]

/-- Its packet starts where there are credits for the flits that leave together, and else waits, counted. -/
theorem dripStart_mayGo (n : Nat) (f : List Nat → Hw → Hw) : h.dripStart c p vc [dir.port] 0 n f =
    if n ≤ h.dbufRoom d dir.opp.port vc then f [dir.port] ((h.waitOff DRIP_CRED_STALL_CNT c (2 * p + vc)).served c p vc [dir.port])
    else h.waitOn DRIP_CRED_STALL_CNT c 1 (2 * p + vc) := by
  obtain ⟨-, -, -, -, hnext, halive, hfree, hturn⟩ := x
  have hlive : h.liveOuts c [dir.port] = [dir.port] := by simp [Hw.liveOuts, halive]
  have hcredit : h.outsCredit c vc n [dir.port] = decide (n ≤ h.dbufRoom d dir.opp.port vc) := by
    simp [Hw.outsCredit, credit_neighbour hnext]
  simp [Hw.dripStart, hlive, hturn, Hw.dripGo, hfree, hcredit]

/-- A header on its way to the next router, if it is not a control packet's. -/
theorem dripForward_mayGo (hbuf : h.dbufOf c p vc = ⟨w, false⟩ :: l) (hroute : h.route c p vc = {}) (hctl : isCtl (pType w) = false) :
    h.dripForward c p vc 0 = h.dripStart c p vc [dir.port] 0 1 fun outs h =>
      ((h.takeFlits c p vc l ⟨pLen w, outs, outs.isEmpty, 0⟩).dripOuts c vc outs [⟨w, false⟩]).dripSettle c p := by
  simp [Hw.dripForward, hbuf, hroute, routeOf_mayGo x, hctl, Hw.dripErr]

/-- A control packet that is whole, with its last flit checked, on its way to the next router. -/
theorem dripForward_mayGo_control {q : List DFlit} (hbuf : h.dbufOf c p vc = (⟨w, false⟩ :: q) ++ l) (hlen : q.length = pLen w)
    (hgood : ∀ f ∈ q, f.bad = false) (hroute : h.route c p vc = { checked := pLen w }) (hctl : isCtl (pType w) = true) :
    h.dripForward c p vc 0 = h.dripStart c p vc [dir.port] 0 (pLen w + 1) fun outs h =>
      ((h.takeFlits c p vc l {}).dripOuts c vc outs (⟨w, false⟩ :: q)).dripSettle c p := by
  have hlast : ((⟨w, false⟩ :: (q ++ l)).getD (pLen w) ({} : DFlit)).bad = false := by
    cases q with
    | nil => rw [← hlen]; rfl
    | cons f r =>
      refine hgood _ ?_
      rw [← hlen, List.length_cons, List.getD_cons_succ, List.getD_append _ _ _ _ (by simp), List.getD_eq_getElem _ _ (by simp)]
      exact List.getElem_mem _
  have htake : (⟨w, false⟩ :: (q ++ l)).take (pLen w + 1) = (⟨w, false⟩ :: q : List DFlit) := by
    rw [List.take_succ_cons, ← hlen, List.take_left]
  have hdrop : (⟨w, false⟩ :: (q ++ l)).drop (pLen w + 1) = l := by rw [List.drop_succ_cons, ← hlen, List.drop_left]
  have hwhole : ¬ (⟨w, false⟩ :: (q ++ l) : List DFlit).length < pLen w + 1 := by
    simp only [List.length_cons, List.length_append, hlen]
    omega
  rw [List.cons_append] at hbuf
  simp only [Hw.dripForward, hbuf, hroute, routeOf_mayGo x, hctl, Hw.dripControl, List.getD_cons_zero, hwhole, hlast, htake, hdrop]
  simp [Hw.dripErr]

end

/-! ### What a packet that moves on leaves -/

/-- Flits q of input p of router c have gone on over output `out` to input o of router d; `rest` remains, and r is the packet's passage. -/
def Hw.movedOn (h : Hw) (c p vc out : Nat) (rest : List DFlit) (r : DRoute) (d o : Nat) (q : List DFlit) : Hw :=
  ((((h.waitOff DRIP_CRED_STALL_CNT c (2 * p + vc)).served c p vc [out]).takeFlits c p vc rest r).appendFlits d o vc q)

section
variable (h : Hw) {c d : Nat} (p vc out : Nat) (rest : List DFlit) (r : DRoute) (o : Nat) (q : List DFlit)

theorem movedOn_traffic : h.TrafficOnly (h.movedOn c p vc out rest r d o q) :=
  ((((Hw.TrafficOnly.refl h).waitOff _ _ _).updCl _ _).trans (takeFlits_traffic _ _ _ _ _ _)).trans (appendFlits_traffic _ _ _ _ _)

theorem regs_movedOn_rsp : (h.movedOn c p 1 out rest r d o q).regs = h.regs := by
  rw [Hw.movedOn, regs_appendFlits_rsp, Hw.takeFlits, setDbuf_rsp, Hw.served, updCl_regs, updCl_regs, updCl_regs, waitOff_eq]

variable (hd : d ≠ c)
include hd

theorem movedOn_source : (h.movedOn c p vc out rest r d o q).dbufOf c p vc = rest := by
  rw [Hw.movedOn, dbufOf_eq_of_cl _ _ _ (congrArg _ (cl_appendFlits_ne _ _ _ _ _ hd)), dbufOf_takeFlits]

theorem movedOn_route : (h.movedOn c p vc out rest r d o q).route c p vc = r := by
  rw [Hw.route, Hw.movedOn, cl_appendFlits_ne _ _ _ _ _ hd]
  exact route_takeFlits _ _ _ _ _ _

theorem movedOn_next : (h.movedOn c p vc out rest r d o q).dbufOf d o vc = h.dbufOf d o vc ++ q := by
  rw [Hw.movedOn, dbufOf_appendFlits, dbufOf_eq_of_cl h]
  rw [cl_takeFlits_ne _ _ _ _ _ _ hd.symm, Hw.served, cl_updCl, if_neg hd.symm, cl_waitOff]

end

/-! ### The spill port (07 R216) -/

section
variable {h : Hw} {c k : Nat} {e : Spilled} {l : List Spilled} (hs : (h.cl c).spill = e :: l) (hk : k = 64 * c + h.spillEp c e.ev.addr)
include hs hk

/-- The head of the spill queue joins the queue of its endpoint. -/
theorem spillMove_room (hroom : (h.ep k).q.length < 1024) : h.spillMove c =
    (((h.updCl c fun v => { v with spill := l }).spillRoom c).updEp k fun x => { x with q := x.q ++ [e], lastAt := h.dev }).hwm
      EGQ_HWM k ((h.ep k).q.length + 1) := by
  obtain ⟨w, hw⟩ := spillRoom_eq (h := h.updCl c fun v => { v with spill := l }) (c := c)
  have hep : ((h.updCl c fun v => { v with spill := l }).spillRoom c).ep k = h.ep k := by rw [hw]; rfl
  have hdev : ((h.updCl c fun v => { v with spill := l }).spillRoom c).dev = h.dev := by rw [hw]; rfl
  simp only [Hw.spillMove, hs, ← hk, if_neg (Nat.not_le.2 hroom), hdev, ep_updEp_same, hep, List.length_append, List.length_singleton]

/-- While that queue is full, it waits. -/
theorem spillMove_full (hfull : 1024 ≤ (h.ep k).q.length) : h.spillMove c = h := by simp only [Hw.spillMove, hs, ← hk, if_pos hfull]

end

theorem spillMove_none (h : Hw) (c : Nat) (hs : (h.cl c).spill = []) : h.spillMove c = h := by simp only [Hw.spillMove, hs]

/-! ### Traffic that a step waits for -/

section
variable (h : Hw)

theorem dripMoved_eq : h.dripMoved = { h with step := h.dripMoved.step } := by
  unfold Hw.dripMoved
  split <;> rfl

@[simp] theorem dripMoved_waits : h.dripMoved.waits = h.waits := by rw [dripMoved_eq]
@[simp] theorem dripMoved_regs : h.dripMoved.regs = h.regs := by rw [dripMoved_eq]
@[simp] theorem dripMoved_cores : h.dripMoved.cores = h.cores := by rw [dripMoved_eq]
@[simp] theorem dripMoved_cl (c : Nat) : h.dripMoved.cl c = h.cl c := by rw [dripMoved_eq]; rfl
@[simp] theorem dripMoved_ep (e : Nat) : h.dripMoved.ep e = h.ep e := by rw [dripMoved_eq]; rfl
@[simp] theorem dripMoved_reg (r : Rg) (u : Nat) : h.dripMoved.reg r u = h.reg r u := by rw [dripMoved_eq]; rfl

end

/-! ### Packets that enter a router -/

section
variable (h : Hw) (c vc : Nat) (l : List DFlit)

theorem inject_traffic : h.TrafficOnly (h.inject c vc l) := by
  unfold Hw.inject
  dsimp only
  split
  · exact ((Hw.TrafficOnly.refl h).setDbuf _ _ _ _).updCl _ _
  · exact (Hw.TrafficOnly.refl h).setDbuf _ _ _ _

theorem reg_inject (hw : h.waits = []) {r : Rg} (hr : r ≠ DRIP_THR_CYC_CNT) (u : Nat) : (h.inject c vc l).reg r u = h.reg r u := by
  unfold Hw.inject
  dsimp only
  split
  · rw [reg_updCl, reg_setDbuf _ _ _ _ _ hw hr]
  · rw [reg_setDbuf _ _ _ _ _ hw hr]

end

/-! ### EVT packets (07 R212, R217) -/

/-- The first event of a packet is the head of its queue. -/
theorem packEvents_head (x : Spilled) (l : List Spilled) : ∃ r, packEvents (x :: l) = x :: r := by
  simp [packEvents]

/-- The block after endpoint e of cluster c has put seven events for entry and step of x into a packet. -/
def Hw.evtTaken (h : Hw) (e c : Nat) (x : Spilled) : Hw :=
  ((h.updEp e fun s => { s with
    q := s.q.drop 7, sent := s.sent ++ (h.destClusters c x.dest).map fun d => ⟨d, true, x.step.toNat % 16, h.dev⟩ }).inc
      DRIP_EVT_OUT_CNT c 7).dripMoved

theorem ep_evtTaken (h : Hw) (e c : Nat) (x : Spilled) : (h.evtTaken e c x).ep e = { h.ep e with
    q := (h.ep e).q.drop 7, sent := (h.ep e).sent ++ (h.destClusters c x.dest).map fun d => ⟨d, true, x.step.toNat % 16, h.dev⟩ } := by
  rw [Hw.evtTaken, dripMoved_ep, ep_inc, ep_updEp_same]

/-- Seven events that share entry and step leave at once, where windows and throttling let them. -/
theorem evtSend_seven {h : Hw} {c ep k : Nat} {x : Spilled} {l : List Spilled} (hep : ep < 36) (hk : k = 64 * c + ep) (hq : (h.ep k).q = x :: l)
    (hseven : (packEvents (h.ep k).q).length = 7) (hstart : h.stepStarted x.step = true) (htx : (h.ep k).txq = [])
    (hwin : h.windowsFree k (h.destClusters c x.dest) = true) (hmay : h.mayStart c 15 = true) (hw : h.waits = []) :
    h.evtSend k = (h.evtTaken k c x).inject c 0 (goodFlits
      (treeHdr tEVT 14 (x.step.toNat % 16) ep x.dest c false :: (packEvents (h.ep k).q).flatMap fun y => [y.ev.addr, y.ev.low])) := by
  obtain ⟨r, hr⟩ := packEvents_head x l
  rw [← hq] at hr
  rw [hr] at hseven
  have hc : k / 64 = c := by omega
  have hno : k % 64 = ep := by omega
  simp only [Hw.evtSend, hr, hc, hno, hseven, hstart, htx, hwin, hmay, waitOff_none h _ _ _ hw, decide_true, Bool.true_or, Bool.true_eq_false,
    ne_eq, not_true_eq_false, or_self, if_false, Nat.reduceMul, Nat.reduceAdd]
  rfl

theorem evtSend_none (h : Hw) (e : Nat) (hq : (h.ep e).q = []) : h.evtSend e = h := by simp only [Hw.evtSend, hq, packEvents]

/-! ### Receivers of EVT packets (07 R218, 02 R69) -/

theorem flitBad_of_good {p : List DFlit} (hgood : pktBad p = false) (i : Nat) : flitBad p i = false := by
  rw [pktBad, List.any_eq_false] at hgood
  rw [flitBad, List.getD_eq_getElem?_getD]
  cases hf : p[i]? with
  | none => rfl
  | some f => simpa using hgood f (List.mem_of_getElem? hf)

/-- A packet without an uncorrectable flit holds as many events as its length says. -/
theorem length_evtEvents_good {p : List DFlit} (hgood : pktBad p = false) (i n : Nat) : (evtEvents p i n).length = n := by
  induction n generalizing i with
  | zero => rfl
  | succ n ih => simp [evtEvents, flitBad_of_good hgood, ih]

/-- Under DROP an event of the step in progress is late once delivery has closed. -/
theorem evtFate_late {h : Hw} {g : Nat} (hph : h.step.phase = .integrate) (hpol : h.policy = .drop) (hg : g = h.stepNum.toNat % 16) :
    h.evtFate g = .lateDrop := by
  have hover : h.deliveryOver = true := by rw [Hw.deliveryOver, hph]
  simp only [Hw.evtFate, hg, if_true, hover, Bool.true_eq_false, if_false, hpol]

/-- The events of a late packet are dropped and counted, and its window place returns. -/
theorem evtRx_late {h : Hw} {c : Nat} {p : List DFlit} {w : Word} (hw : w = flitW p 0) (hh : h.headPkt c 0 = some p) (ht : pType w = tEVT)
    (hgood : pktBad p = false) (hret : (h.cl c).admitRet = none) (hph : h.step.phase = .integrate) (hpol : h.policy = .drop)
    (hstep : pStep w = h.stepNum.toNat % 16) :
    h.evtRx c = ((h.popPkt c 0).inc DRIP_LATE_DROP_CNT c (pLen w / 2)).sendWret c (pScl w) (pEp w) true (pStep w) := by
  subst hw
  have hfate : (h.popPkt c 0).evtFate (pStep (flitW p 0)) = .lateDrop := evtFate_late (h := h.popPkt c 0) hph hpol hstep
  rw [Hw.evtRx, withPkt_good hh ht (fun _ => hgood) rfl]
  simp [hret, length_evtEvents_good hgood, hfate, Hw.dropFate]

/-- A count leaves the package's number as it is. -/
theorem pkgNum_inc (h : Hw) {r : Rg} (u n : Nat) (hr : r ≠ TOPO_POS) : (h.inc r u n).pkgNum = h.pkgNum := by
  have htopo : (h.inc r u n).reg TOPO_POS 0 = h.reg TOPO_POS 0 := reg_inc_ne _ _ _ _ _ _ fun e => hr e.1
  unfold Hw.pkgNum Hw.flag Hw.fld
  rw [htopo]

/-- A window return is an RSP packet of two flits. -/
theorem sendWret_eq (h : Hw) (c : Cluster) (scl sep : Nat) (evt : Bool) (step : Nat) : h.sendWret c scl sep evt step =
    h.sendRspFlits c [⟨uniHdr tWRET 1 h.pkgNum scl sep, false⟩,
      ⟨w32 (c.val * 2 ^ 26 + (if evt then step % 16 else 0) * 2 ^ 22 + b2n evt * 2 ^ 21), false⟩] := by
  rw [Hw.sendWret, Nat.mod_eq_of_lt c.isLt]
  rfl

theorem pStep_lt (w : Word) : pStep w < 16 := bits_lt w 24 21

/-! ### Window places (07 R213, R214) -/

/-- A field of one bit. -/
theorem bits_one (w : Word) (i : Nat) : bits w i i = b2n (bit w i) := by
  rw [bits, bit, BitVec.getLsbD, Nat.testBit_eq_decide_div_mod_eq, Nat.add_sub_cancel_left, pow_one, Nat.shiftRight_eq_div_pow, b2n]
  split <;> simp_all

/-- With no packet waiting to leave, freed window places end a wait at most. -/
theorem winFreed_idle {h : Hw} {e : Nat} (htx : (h.ep e).txq = []) :
    h.winFreed e = if h.dripMoved.winWaits e then h.dripMoved else h.dripMoved.waitOff WIN_STALL_CNT e := by
  have hidle (t : Hw) (ht : t.ep e = h.ep e) : t.drainTx e (t.ep e).txq.length = t := by rw [ht, htx]; rfl
  rw [Hw.winFreed]
  split
  · exact hidle _ (dripMoved_ep _ _)
  · exact hidle _ (by rw [ep_waitOff, dripMoved_ep])

/-- What depends neither on the step nor on the waits stays. -/
theorem winFreed_keeps {h : Hw} {e : Nat} (htx : (h.ep e).txq = []) {α : Type} (part : Hw → α) (hstep : ∀ t : Hw, part t.dripMoved = part t)
    (hwait : ∀ t : Hw, part (t.waitOff WIN_STALL_CNT e) = part t) : part (h.winFreed e) = part h := by
  rw [winFreed_idle htx]
  split
  · exact hstep h
  · rw [hwait, hstep]

/-- A window return frees the places that it covers at an endpoint that can take it. -/
theorem wretRx_frees {h : Hw} {c k : Nat} {p : List DFlit} {w : Word} (hh : h.headPkt c 1 = some p) (ht : pType (flitW p 0) = tWRET)
    (hgood : pktBad p = false) (hw : w = flitW p 1) (h20 : bit w 20 = false) (h15 : bits w 15 0 = 0) (hk : k = 64 * c + pDep (flitW p 0))
    (hready : h.epReady c (pDep (flitW p 0)) = true) :
    h.wretRx c = ((h.popPkt c 1).updEp k fun s => { s with
      sent := returnPlaces (bits w 31 26) (bit w 21) (bits w 25 22) (bits w 19 16 + 1) s.sent }).winFreed k := by
  have hpay : payloadOk tWRET (flitW p 1) (flitW p 2) = true := by
    rw [← hw]
    simp [payloadOk, tWRET, bits_one, h20, h15, b2n]
  rw [Hw.wretRx, withPkt_good hh ht (fun _ => hgood) hpay, hk, hw]
  simp only [epReady_popPkt, hready, Bool.true_eq_false, if_false]

/-- The oldest window place of an endpoint is reclaimed once it has timed out. -/
theorem winTimeout_idle {h : Hw} {c ep k : Nat} {o : Outstanding} {l : List Outstanding} (hp : h.powered = true) (hw : h.waits = []) (hep : ep < 36)
    (hk : k = 64 * c + ep) (hs : (h.ep k).sent = o :: l) (htx : (h.ep k).txq = []) : h.winTimeout k =
      ((((h.advTo (o.at_ + h.winTmo c)).updEp k fun x => { x with sent := l }).inc DRIP_WIN_TMO_CNT c).raiseQCl fDripWinTmo c).dripMoved := by
  have hc : k / 64 = c := by omega
  obtain ⟨tp, hadv⟩ := advTo_noWaits h (o.at_ + h.winTmo c) hp hw
  rw [Hw.winTimeout, hs]
  simp only [hc, hadv]
  rw [winFreed_idle, waitOff_none _ _ _ _ (by rw [dripMoved_waits]; exact hw), ite_self]
  rw [ep_raiseQCl, ep_inc, ep_updEp_same]
  exact htx


/-! ### The statement -/

/-- Settles O53: a header goes by its route and its credit, a full packet of events leaves, a late one is dropped, and window places return or are
reclaimed, each by the lemma on that operation in that case. -/
theorem dripForwardingAndEvents : Obligations.DripForwardingAndEvents := by
  refine ⟨?noFlit, ?header, ?control, ?stall, ?malformed, ?spill, ?noSpill, ?send, ?noSend, ?late, ?freed, ?timeout, ?noPacket⟩
  case noFlit =>
    intro s c p rsp err hbuf
    refine ignored_of_same (f := fun h => h.dripForward c p (b2n rsp) err) rfl ?_
    simp only [Hw.dripForward, hbuf]
  case header =>
    intro s c d p w l dir hp hport hbuf hroute hok htype hown hxy hnext halive hfree hturn hroom
    refine answers_onHw (f := fun h => h.dripForward c p 0 0) rfl hp ?_
    have hgo : s.hw.MayGo c p 0 w dir d := ⟨hok, htype ▸ le_rfl, hown, hxy, hnext, halive, hfree, hturn⟩
    have hd : d.val ≠ c.val := fun e => neighbour_ne_self c dir (e ▸ hnext)
    have hcredit : 1 ≤ s.hw.dbufRoom d dir.opp.port 0 := by rw [Hw.dbufRoom]; omega
    have hmoved : s.hw.dripForward c p 0 0 =
        s.hw.movedOn c p 0 dir.port l ⟨pLen w, [dir.port], false, 0⟩ d dir.opp.port [⟨w, false⟩] := by
      rw [dripForward_mayGo hgo hbuf hroute (by rw [htype]; rfl), dripStart_mayGo hgo, if_pos hcredit,
        dripOuts_neighbour hnext, Hw.dripSettle, if_neg hport]
      rfl
    have htraffic := movedOn_traffic s.hw (c := c) p 0 dir.port l ⟨pLen w, [dir.port], false, 0⟩ (d := d) dir.opp.port [⟨w, false⟩]
    rw [hmoved]
    exact ⟨movedOn_source _ _ _ _ _ _ _ _ hd, movedOn_next _ _ _ _ _ _ _ _ hd, movedOn_route _ _ _ _ _ _ _ _ hd, htraffic.cores, htraffic.mem⟩
  case control =>
    intro s c d p w q l dir hp hport hbuf hlen hgood hroute hok htype hown hxy hnext halive hfree hturn hroom
    refine answers_onHw (f := fun h => h.dripForward c p 1 0) rfl hp ?_
    have hgo : s.hw.MayGo c p 1 w dir d := ⟨hok, by omega, hown, hxy, hnext, halive, hfree, hturn⟩
    have hd : d.val ≠ c.val := fun e => neighbour_ne_self c dir (e ▸ hnext)
    have hcredit : pLen w + 1 ≤ s.hw.dbufRoom d dir.opp.port 1 := by rw [Hw.dbufRoom]; omega
    have hmoved : s.hw.dripForward c p 1 0 = s.hw.movedOn c p 1 dir.port l {} d dir.opp.port (⟨w, false⟩ :: q) := by
      rw [dripForward_mayGo_control hgo hbuf hlen hgood hroute (decide_eq_true (by omega)), dripStart_mayGo hgo, if_pos hcredit,
        dripOuts_neighbour hnext, Hw.dripSettle, if_neg hport]
      rfl
    rw [hmoved]
    exact ⟨movedOn_source _ _ _ _ _ _ _ _ hd, movedOn_next _ _ _ _ _ _ _ _ hd, movedOn_route _ _ _ _ _ _ _ _ hd, regs_movedOn_rsp _ _ _ _ _ _ _,
      (movedOn_traffic _ _ _ _ _ _ _ _).cores⟩
  case stall =>
    intro s c d p w l dir hp hbuf hroute hok htype hown hxy hnext halive hfree hturn hfull hw
    refine answers_onHw (f := fun h => h.dripForward c p 0 0) rfl hp ?_
    have hgo : s.hw.MayGo c p 0 w dir d := ⟨hok, htype ▸ le_rfl, hown, hxy, hnext, halive, hfree, hturn⟩
    have hnone : ¬ 1 ≤ s.hw.dbufRoom d dir.opp.port 0 := by rw [Hw.dbufRoom]; omega
    rw [dripForward_mayGo hgo hbuf hroute (by rw [htype]; rfl), dripStart_mayGo hgo, if_neg hnone, waitOn_first _ _ _ _ hw]
    exact .one _ _ rfl _ _ _
  case malformed =>
    intro s c p rsp w l hp hport hw hbuf hroute hok
    refine answers_onHw (f := fun h => h.dripForward c p (b2n rsp) 0) rfl hp ?_
    rw [dripForward_malformed hbuf hroute hok, Hw.dripSettle, if_neg hport]
    have htraffic := ((Hw.TrafficOnly.refl s.hw).inc DRIP_TREE_ERR_CNT c 1).trans
      (takeFlits_traffic _ c p (b2n rsp) l ⟨pLen w, [], true, 0⟩)
    refine ⟨dbufOf_takeFlits _ _ _ _ _ _, route_takeFlits _ _ _ _ _ _, ?_, htraffic.reports, htraffic.cores⟩
    rw [Hw.takeFlits, reg_updCl, reg_setDbuf (s.hw.inc DRIP_TREE_ERR_CNT c) _ _ _ _ hw (by decide), reg_inc_same]
  case spill =>
    intro s c e l k hp hs hk hroom
    exact answers_onHw (f := fun h => h.spillMove c) rfl hp (spillMove_room hs hk hroom)
  case noSpill =>
    intro s c hno
    refine ignored_of_same (f := fun h => h.spillMove c) rfl ?_
    obtain hnone | ⟨e, l, hs, hfull⟩ := hno
    · exact spillMove_none _ _ hnone
    · exact spillMove_full hs rfl hfull
  case send =>
    intro s c ep k x l hp hk hq hseven hstart htx hwin hmay hw
    refine answers_onHw (f := fun h => h.evtSend (64 * c.val + ep.val)) rfl hp ?_
    have hwaits : (s.hw.evtTaken k c x).waits = [] := (dripMoved_waits _).trans hw
    have hbuf : (s.hw.evtTaken k c x).dbufOf c 0 0 = s.hw.dbufOf c 0 0 := dbufOf_eq_of_cl _ _ _ (congrArg _ (dripMoved_cl _ _))
    rw [← hk, evtSend_seven ep.isLt hk hq hseven hstart htx hwin hmay hw]
    have htraffic := inject_traffic (s.hw.evtTaken k c x) c 0 (goodFlits
      (treeHdr tEVT 14 (x.step.toNat % 16) ep x.dest c false :: (packEvents (s.hw.ep k).q).flatMap fun y => [y.ev.addr, y.ev.low]))
    refine ⟨?_, ?_, ?_, ?_, ?_⟩
    · rw [htraffic.ep, ep_evtTaken]
    · rw [htraffic.ep, ep_evtTaken]
    · rw [dbufOf_inject, hbuf]
      rfl
    · rw [reg_inject _ _ _ _ hwaits (by decide), Hw.evtTaken, dripMoved_reg, reg_inc_same]
      rfl
    · rw [htraffic.cores]
      exact dripMoved_cores _
  case noSend =>
    intro s c ep hq
    exact ignored_of_same (f := fun h => h.evtSend (64 * c.val + ep.val)) rfl (evtSend_none _ _ hq)
  case late =>
    intro s c p hp hh ht hgood hret hph hpol hstep hq hroom
    refine answers_onHw (f := fun h => h.evtRx c) rfl hp ?_
    rw [evtRx_late rfl hh ht hgood hret hph hpol hstep]
    generalize hg : (s.hw.popPkt c 0).inc DRIP_LATE_DROP_CNT c (pLen (flitW p 0) / 2) = g
    have hcl : g.cl c = (s.hw.popPkt c 0).cl c := by rw [← hg, cl_inc]
    have hbuf : g.dbufOf c 0 1 = s.hw.dbufOf c 0 1 := dbufOf_eq_of_cl _ _ _ (by rw [hcl, cl_popPkt])
    have hpkg : g.pkgNum = s.hw.pkgNum := by rw [← hg, pkgNum_inc _ _ _ (by decide)]; rfl
    have hsent := (Hw.RspSent.refl g c).sendWret (pScl (flitW p 0)) (pEp (flitW p 0)) true (pStep (flitW p 0))
    refine ⟨?_, ?_, ?_, ?_, ?_⟩
    · rw [hsent.reg, ← hg, reg_inc_same, reg_popPkt]
    · rw [hsent.lookq, hcl, cl_popPkt]
    · rw [hsent.dpkts, hcl, dpkts_popPkt]
    · rw [sendWret_eq, (sendRspFlits_room (by rw [hcl, cl_popPkt]; exact hq) (by rw [hbuf]; exact Nat.add_le_add_right hroom 2)).1, hbuf, hpkg,
        if_pos rfl, Nat.mod_eq_of_lt (pStep_lt _)]
      simp only [b2n, if_true, one_mul]
    · rw [hsent.cores, ← hg]
      rfl
  case freed =>
    intro s c p k w hp hh ht hgood hw h20 h15 hk htx hready
    refine answers_onHw (f := fun h => h.wretRx c) rfl hp ?_
    rw [wretRx_frees hh ht hgood hw h20 h15 hk hready]
    generalize hg : (s.hw.popPkt c 1).updEp k _ = g
    have hep : g.ep k = _ := hg ▸ ep_updEp_same _ _ _
    have htx' : (g.ep k).txq = [] := by rw [hep]; exact htx
    refine ⟨?_, ?_, ?_, ?_⟩
    · rw [winFreed_keeps htx' (·.ep k) (fun _ => dripMoved_ep _ _) fun _ => ep_waitOff _ _ _ _ _, hep, ep_popPkt]
    · rw [winFreed_keeps htx' (·.cl c) (fun _ => dripMoved_cl _ _) fun _ => cl_waitOff _ _ _ _ _, ← hg]
      exact dpkts_popPkt s.hw c 1
    · rw [winFreed_keeps htx' Hw.regs dripMoved_regs fun t => by rw [waitOff_eq], ← hg, updEp_regs]
      rfl
    · rw [winFreed_keeps htx' Hw.cores dripMoved_cores fun t => by rw [waitOff_eq], ← hg, updEp_cores]
      rfl
  case timeout =>
    intro s c ep k o l hp hk hs htx hw
    refine answers_onHw (f := fun h => h.winTimeout (64 * c.val + ep.val)) rfl hp ?_
    rw [← hk]
    exact winTimeout_idle hp hw ep.isLt hk hs htx
  case noPacket =>
    intro s c hn
    exact ⟨ignored_of_same (f := fun h => h.evtRx c) rfl (withPkt_none hn), ignored_of_same (f := fun h => h.cfgPacket c) rfl (withPkt_none hn),
      ignored_of_same (f := fun h => h.msgRx c) rfl (withPkt_none hn),
      ignored_of_same (f := fun h => h.withCtlq c opOPEN fun e p0 p1 h => h.openRx e p0 p1) rfl (withPkt_none hn),
      ignored_of_same (f := fun h => h.withCtlq c opCLOSE fun e p0 p1 h => h.closeRx e p0 p1) rfl (withPkt_none hn)⟩

end Sys2Proof.Machine
end

section
/-! SUPPORT. Packets at their receivers (07 R222–R227, R229): configuration packets, requests to open and to close a connection, and the first segment
of a message; what each of them does, and what it leaves. -/

namespace Sys2Proof.Machine

/-! ### Endpoints -/

/-- The cluster of an endpoint that a header names. -/
theorem epCl_dep (c : Nat) (w : Word) : epCl (64 * c + pDep w) = c := by
  have hdep : pDep w < 64 := bits_lt w 14 9
  rw [epCl]
  omega

section
variable (h : Hw) (e : Nat)

@[simp] theorem slot_popPkt (c vc i : Nat) : (h.popPkt c vc).slot e i = h.slot e i := rfl
@[simp] theorem ticket_popPkt (c vc t : Nat) : (h.popPkt c vc).ticket e t = h.ticket e t := rfl

theorem ep_setSlot (i : Nat) (v : Slot) : (h.setSlot e i v).ep e = { h.ep e with slots := Tbl.set {} (h.ep e).slots i v } := ep_updEp_same _ _ _
theorem ep_setPort (p : Nat) (v : Listener) : (h.setPort e p v).ep e = { h.ep e with ports := Tbl.set {} (h.ep e).ports p v } := ep_updEp_same _ _ _
theorem ep_setResv (i : Nat) (v : Resv) : (h.setResv e i v).ep e = { h.ep e with resv := Tbl.set {} (h.ep e).resv i v } := ep_updEp_same _ _ _
theorem ep_setHandle (i : Nat) (v : Handle) : (h.setHandle e i v).ep e = { h.ep e with handles := Tbl.set {} (h.ep e).handles i v } :=
  ep_updEp_same _ _ _

theorem slot_of_ep {t : Hw} (x : t.ep e = h.ep e) (i : Nat) : t.slot e i = h.slot e i := by rw [Hw.slot, Hw.slot, x]

theorem slot_setSlot (i j : Nat) (v : Slot) : (h.setSlot e i v).slot e j = if i = j then v else h.slot e j := by
  rw [Hw.slot, ep_setSlot, Tbl.get_set]
  rfl

@[simp] theorem slot_setPort (p i : Nat) (v : Listener) : (h.setPort e p v).slot e i = h.slot e i := by rw [Hw.slot, ep_setPort]; rfl
@[simp] theorem slot_setTicket (t i : Nat) (v : Ticket) : (h.setTicket e t v).slot e i = h.slot e i := by rw [Hw.slot, setTicket_ep]; rfl
@[simp] theorem slot_setResv (i j : Nat) (v : Resv) : (h.setResv e i v).slot e j = h.slot e j := by rw [Hw.slot, ep_setResv]; rfl
@[simp] theorem port_setResv (i p : Nat) (v : Resv) : (h.setResv e i v).port e p = h.port e p := by rw [Hw.port, ep_setResv]; rfl
@[simp] theorem regs_setSlot (i : Nat) (v : Slot) : (h.setSlot e i v).regs = h.regs := rfl
@[simp] theorem cl_setSlot (i c : Nat) (v : Slot) : (h.setSlot e i v).cl c = h.cl c := rfl
@[simp] theorem reg_setResv (i : Nat) (v : Resv) (r : Rg) (u : Nat) : (h.setResv e i v).reg r u = h.reg r u := rfl
@[simp] theorem regs_setResv (i : Nat) (v : Resv) : (h.setResv e i v).regs = h.regs := rfl
@[simp] theorem mem_setResv (i : Nat) (v : Resv) : (h.setResv e i v).mem = h.mem := rfl
@[simp] theorem cores_setResv (i : Nat) (v : Resv) : (h.setResv e i v).cores = h.cores := rfl
@[simp] theorem regs_setPort (p : Nat) (v : Listener) : (h.setPort e p v).regs = h.regs := rfl
@[simp] theorem cores_setPort (p : Nat) (v : Listener) : (h.setPort e p v).cores = h.cores := rfl
@[simp] theorem ticket_setHandle (i t : Nat) (v : Handle) : (h.setHandle e i v).ticket e t = h.ticket e t := by rw [Hw.ticket, ep_setHandle]; rfl

end

/-! ### Answers of a receiver (07 R213, R227) -/

/-- An answer is an RSP packet of three flits. -/
theorem sendCtls_eq (h : Hw) (c : Nat) (p0 : Word) (op reason conn epoch port : Nat) : h.sendCtls c p0 op reason conn epoch port =
    h.sendRspFlits c [⟨uniHdr tCTLS 2 (bits p0 31 28) (bits p0 27 22) (bits p0 21 16), false⟩, ⟨retAddr h.pkgNum c 0 (bits p0 15 12), false⟩,
      ⟨ctlWord op reason conn epoch port, false⟩] := rfl

theorem pkgNum_of_regs {h t : Hw} (e : t.regs = h.regs) : t.pkgNum = h.pkgNum := by
  unfold Hw.pkgNum Hw.flag Hw.fld
  rw [reg_of_regs _ _ _ _ e]

/-- An answer within the package, and the window return with it, in a local input buffer with room for both. -/
theorem answer_room {h : Hw} {c : Cluster} {p0 : Word} (hown : bits p0 31 28 = h.pkgNum) (hq : (h.cl c).rspq = [])
    (hroom : (h.dbufOf c 0 1).length ≤ 35) (op reason conn epoch port : Nat) : (h.answer c p0 op reason conn epoch port).dbufOf c 0 1 =
      h.dbufOf c 0 1 ++ [⟨uniHdr tCTLS 2 (bits p0 31 28) (bits p0 27 22) (bits p0 21 16), false⟩, ⟨retAddr h.pkgNum c 0 (bits p0 15 12), false⟩,
        ⟨ctlWord op reason conn epoch port, false⟩, ⟨uniHdr tWRET 1 h.pkgNum (bits p0 27 22) (bits p0 21 16), false⟩,
        ⟨w32 (c.val * 2 ^ 26), false⟩] := by
  have hpkg : (h.sendCtls c p0 op reason conn epoch port).pkgNum = h.pkgNum := pkgNum_of_regs ((Hw.RspSent.refl h c).sendCtls _ _ _ _ _ _).regs
  obtain ⟨hfirst, hempty⟩ := sendRspFlits_room (p := [⟨uniHdr tCTLS 2 (bits p0 31 28) (bits p0 27 22) (bits p0 21 16), false⟩,
    ⟨retAddr h.pkgNum c 0 (bits p0 15 12), false⟩, ⟨ctlWord op reason conn epoch port, false⟩]) hq (Nat.add_le_add_right (by omega) 3)
  rw [← sendCtls_eq] at hfirst hempty
  rw [Hw.answer, Hw.wretTo, if_pos (hown.trans hpkg.symm), sendWret_eq, hpkg, (sendRspFlits_room hempty ?_).1, hfirst, List.append_assoc]
  · simp [b2n]
  · rw [hfirst, List.length_append]
    exact Nat.add_le_add_right (Nat.add_le_add_right hroom 3) 2

/-! ### Configuration packets (07 R208, R229) -/

/-- A packet from no management processor, and through no relay, is counted and writes nothing. -/
theorem cfgPacket_rejected {h : Hw} {c : Nat} {p : List DFlit} {w : Word} (hw : w = flitW p 0) (hh : h.headPkt c 0 = some p) (ht : pType w = tCFG)
    (hz : bit (flitW p 1) 1 = false) (hep : pEp w ≠ 33) (hr : pRly w = false) :
    h.cfgPacket c = ((h.popPkt c 0).inc CFG_REJ_CNT c).sendWret c (pScl w) (pEp w) false 0 := by
  subst hw
  rw [Hw.cfgPacket, withPkt_good hh ht (fun hc => absurd hc (by decide)) (by simp [payloadOk, tCFG, hz])]
  simp [hep, hr]

/-- A packet of one data word from a management processor, to the cluster's own registers, performs its write. -/
theorem cfgPacket_write {h : Hw} {c : Nat} {p : List DFlit} {w a m v : Word} (hh : h.headPkt c 0 = some p)
    (hp : p = [⟨w, false⟩, ⟨a, false⟩, ⟨m, false⟩, ⟨v, false⟩]) (ht : pType w = tCFG) (hz : bit a 1 = false) (hep : pEp w = 33)
    (hform : bits a 31 30 = 2) : h.cfgPacket c =
      ((h.popPkt c 0).cfgWrite c (setBits (setBits a 29 28 (c / 16)) 27 24 (c % 16)) v).sendWret c (pScl w) 33 false 0 := by
  have hw : flitW p 0 = w := by rw [hp]; rfl
  have ha : flitW p 1 = a := by rw [hp]; rfl
  have hm : flitW p 2 = m := by rw [hp]; rfl
  have hv : (p.drop 3).map (fun f => f.w) = [v] := by rw [hp]; rfl
  have hgood : pktBad p = false := by rw [hp]; rfl
  rw [Hw.cfgPacket, withPkt_good hh (hw ▸ ht) (fun _ => hgood) (by simp [payloadOk, tCFG, ha, hz])]
  simp [hw, ha, hm, hv, hep, hgood, hform, Hw.cfgWrites, cfgAddrs]

/-! ### Requests (07 R222–R224) -/

/-- A good request for an endpoint that can take it is handled there. -/
theorem withCtlq_taken {h : Hw} {c op : Nat} {p : List DFlit} {p0 p1 : Word} (hh : h.headPkt c 0 = some p) (ht : pType (flitW p 0) = tCTLQ)
    (hgood : pktBad p = false) (h0 : p0 = flitW p 1) (hz : bits p0 11 0 = 0) (h1 : p1 = flitW p 2) (ho : bits p1 31 28 = op)
    (hready : h.epReady c (pDep (flitW p 0)) = true) (f : Nat → Word → Word → Hw → Hw) :
    h.withCtlq c op f = f (64 * c + pDep (flitW p 0)) p0 p1 (h.popPkt c 0) := by
  subst h0 h1
  rw [Hw.withCtlq, withPkt_good hh ht (fun _ => hgood) (by simp [payloadOk, tCTLQ, hz])]
  simp [ho, epReady_popPkt, hready]

section
variable {h : Hw} {e i pt : Nat} {p0 p1 : Word}

/-- An OPEN of a port that does not listen is refused. -/
theorem openRx_noPort (hoff : (h.port e (bits p1 7 0)).on = false) :
    h.openRx e p0 p1 = (h.sendCtls (epCl e) p0 opNAK nNOPORT 0 0 (bits p1 7 0)).wretTo (epCl e) p0 := if_pos hoff

/-- An OPEN of a port that listens takes the lowest closed slot, where none is closing. -/
theorem openRx_free (hpt : pt = bits p1 7 0) (hon : (h.port e pt).on = true) (hcl : (h.port e pt).closing = false)
    (hno : ∀ x ∈ (h.ep e).slots, x.2.st ≠ 2) (hi : i < epSlots e) (hst : (h.slot e i).st = 0) (hlow : ∀ j, j < i → (h.slot e j).st ≠ 0) :
    h.openRx e p0 p1 = (h.setSlot e i { st := 1, epoch := (h.slot e i).epoch, sender := bits p0 31 16, port := pt }).answer (epCl e) p0
      opOPENACK 0 i (h.slot e i).epoch pt := by
  subst hpt
  have hfirst : ((List.range (epSlots e)).find? fun j => (h.slot e j).st == 0) = some i := by
    rw [List.find?_range_eq_some]
    exact ⟨by simp [hst], List.mem_range.2 hi, fun j hj => by simpa using hlow j hj⟩
  have hclosing : ¬ ((h.port e (bits p1 7 0)).closing = true ∨
      ((h.ep e).slots.any fun x => x.2.st == 2 && x.2.port == bits p1 7 0 && x.2.sender == senderOf p0) = true) := by
    rw [hcl, List.any_eq_true]
    rintro (hc | ⟨x, hx, hm⟩)
    · cases hc
    · simp [hno x hx] at hm
  simp only [Hw.openRx, hon, Bool.true_eq_false, if_false, hclosing, hfirst]
  rfl

/-- A CLOSE that matches an open slot puts it into CLOSING. -/
theorem closeRx_match (hi : i = bits p1 23 16) (hst : (h.slot e i).st = 1) (hep : (h.slot e i).epoch = bits p1 15 8) :
    h.closeRx e p0 p1 = (h.setSlot e i { h.slot e i with st := 2, ackTo := some p0 }).closeSweep e := by
  subst hi
  exact if_pos ⟨hst, hep⟩

/-- Any other is answered at once. -/
theorem closeRx_other (hi : i = bits p1 23 16) (hno : (h.slot e i).st ≠ 1 ∨ (h.slot e i).epoch ≠ bits p1 15 8) :
    h.closeRx e p0 p1 = (h.sendCtls (epCl e) p0 opCLOSEACK 0 i (bits p1 15 8) (bits p1 7 0)).wretTo (epCl e) p0 := by
  subst hi
  exact if_neg fun x => hno.elim (absurd x.1) (absurd x.2)

end

/-! ### Slots and ports that can be closed are closed (07 R222, R224) -/

/-- A block in which clusters and endpoints are all that differs. -/
def Hw.EndpointsOnly (h t : Hw) : Prop := t = { h with clusters := t.clusters, eps := t.eps }

namespace Hw.EndpointsOnly

theorem refl (h : Hw) : h.EndpointsOnly h := rfl

variable {h t : Hw} (x : h.EndpointsOnly t)
include x

theorem trans {u : Hw} (y : t.EndpointsOnly u) : h.EndpointsOnly u := by
  rw [Hw.EndpointsOnly] at x y ⊢
  rw [y, x]

theorem regs : t.regs = h.regs := by rw [Hw.EndpointsOnly] at x; rw [x]
theorem mem : t.mem = h.mem := by rw [Hw.EndpointsOnly] at x; rw [x]

theorem updEp (e : Nat) (f : EpSt → EpSt) : h.EndpointsOnly (t.updEp e f) := x.trans rfl

theorem ticketDone (e t' : Nat) : h.EndpointsOnly (t.ticketDone e t') := by
  unfold Hw.ticketDone Hw.setTicket
  exact x.updEp _ _

theorem answer (c : Nat) (p0 : Word) (op reason conn epoch port : Nat) : h.EndpointsOnly (t.answer c p0 op reason conn epoch port) := by
  have hsent := ((Hw.RspSent.refl t c).answer p0 op reason conn epoch port).1
  rw [Hw.ClustersOnly] at hsent
  exact x.trans (by rw [Hw.EndpointsOnly, hsent])

theorem foldl {α : Type} {f : Hw → α → Hw} (hf : ∀ u a, Hw.EndpointsOnly u (f u a)) (l : List α) : h.EndpointsOnly (l.foldl f t) := by
  induction l generalizing t with
  | nil => exact x
  | cons a r ih => exact ih (x.trans (hf t a))

theorem slotSweep (e i : Nat) : h.EndpointsOnly (t.slotSweep e i) := by
  unfold Hw.slotSweep
  dsimp only
  split
  · split
    · exact (x.updEp _ _).answer _ _ _ _ _ _ _
    · exact x.updEp _ _
  · exact x

theorem portSweep (e p : Nat) : h.EndpointsOnly (t.portSweep e p) := by
  unfold Hw.portSweep
  dsimp only
  split
  · exact (x.updEp _ _).foldl (fun u t => (refl u).ticketDone e t) _
  · exact x

theorem closeSweep (e : Nat) : h.EndpointsOnly (t.closeSweep e) :=
  (x.foldl (fun u _ => (refl u).slotSweep _ _) _).foldl (fun u _ => (refl u).portSweep _ _) _

end Hw.EndpointsOnly

section
variable (h : Hw) (e : Nat)

/-- What the sweep of one slot does to its endpoint. -/
theorem ep_slotSweep (j : Nat) : (h.slotSweep e j).ep e = if (h.slot e j).st = 2 ∧ h.slotBusy e j = false then
    { h.ep e with slots := Tbl.set {} (h.ep e).slots j { epoch := ((h.slot e j).epoch + 1) % 256 } } else h.ep e := by
  unfold Hw.slotSweep
  dsimp only
  split
  · rw [← ep_setSlot]
    split
    · exact ((Hw.RspSent.refl _ _).answer _ _ _ _ _ _).ep e
    · rfl
  · rfl

/-- No message of any slot is touched. -/
theorem slotBusy_slotSweep (i j : Nat) : (h.slotSweep e j).slotBusy e i = h.slotBusy e i := by
  have hlive : ((h.slotSweep e j).ep e).live = (h.ep e).live := by rw [ep_slotSweep, apply_ite EpSt.live, ite_self]
  have hresv : ((h.slotSweep e j).ep e).resv = (h.ep e).resv := by rw [ep_slotSweep, apply_ite EpSt.resv, ite_self]
  rw [Hw.slotBusy, Hw.slotBusy, hlive, hresv]

theorem slot_slotSweep (i j : Nat) : (h.slotSweep e j).slot e i =
    if j = i ∧ (h.slot e i).st = 2 ∧ h.slotBusy e i = false then { epoch := ((h.slot e i).epoch + 1) % 256 } else h.slot e i := by
  rw [Hw.slot, ep_slotSweep]
  by_cases hj : j = i
  · subst hj
    by_cases hcloses : (h.slot e j).st = 2 ∧ h.slotBusy e j = false
    · rw [if_pos hcloses, if_pos ⟨rfl, hcloses⟩, Tbl.get_set_same]
    · rw [if_neg hcloses, if_neg fun x => hcloses x.2]
      rfl
  · rw [if_neg fun x : j = i ∧ _ => hj x.1]
    split
    · rw [Tbl.get_set_ne _ _ _ _ _ hj]
      rfl
    · rfl

variable {i : Nat}

/-- A slot that is not closing stays as it is. -/
theorem slot_foldl_slotSweep_still (l : List Nat) (hst : (h.slot e i).st ≠ 2) : (l.foldl (fun h j => h.slotSweep e j) h).slot e i = h.slot e i := by
  induction l generalizing h with
  | nil => rfl
  | cons j r ih =>
    have hone : (h.slotSweep e j).slot e i = h.slot e i := by rw [slot_slotSweep, if_neg fun x => hst x.2.1]
    rw [List.foldl_cons, ih _ (by rwa [hone]), hone]

/-- A closing slot that holds no message is closed, with a new epoch, once its turn comes. -/
theorem slot_foldl_slotSweep (l : List Nat) (hi : i ∈ l) (hst : (h.slot e i).st = 2) (hbusy : h.slotBusy e i = false) :
    (l.foldl (fun h j => h.slotSweep e j) h).slot e i = { epoch := ((h.slot e i).epoch + 1) % 256 } := by
  induction l generalizing h with
  | nil => cases hi
  | cons j r ih =>
    rw [List.foldl_cons]
    by_cases hj : j = i
    · have hone : (h.slotSweep e j).slot e i = { epoch := ((h.slot e i).epoch + 1) % 256 } := by rw [slot_slotSweep, if_pos ⟨hj, hst, hbusy⟩]
      rw [slot_foldl_slotSweep_still _ _ _ (by simp [hone]), hone]
    · have hone : (h.slotSweep e j).slot e i = h.slot e i := by rw [slot_slotSweep, if_neg fun x => hj x.1]
      rw [ih _ ((List.mem_cons.1 hi).resolve_left (Ne.symm hj)) (by rwa [hone]) (by rwa [slotBusy_slotSweep]), hone]

@[simp] theorem slot_portSweep (p i : Nat) : (h.portSweep e p).slot e i = h.slot e i := by
  unfold Hw.portSweep
  dsimp only
  split
  · exact (foldl_keeps (Hw.slot · e i) _ (fun t x => slot_setTicket t e x i _) _ _).trans (slot_setPort _ _ _ _ _)
  · rfl

/-- The sweep of an endpoint closes a slot that has just begun to close and holds no message. -/
theorem slot_closeSweep {v : Slot} (hv : v.st = 2) (hbusy : h.slotBusy e i = false) :
    ((h.setSlot e i v).closeSweep e).slot e i = { epoch := (v.epoch + 1) % 256 } := by
  have hslot : (h.setSlot e i v).slot e i = v := by rw [slot_setSlot, if_pos rfl]
  have hstill : (h.setSlot e i v).slotBusy e i = false := by
    rw [Hw.slotBusy, ep_setSlot]
    exact hbusy
  have hlisted : i ∈ ((h.setSlot e i v).ep e).slots.map Prod.fst := by
    have hne : v ≠ {} := by
      rintro rfl
      cases hv
    rw [ep_setSlot]
    refine List.mem_map_of_mem (f := Prod.fst) (Tbl.mem_of_find (k := i) (v := v) ?_)
    simp only [Tbl.set, hne, if_false, Tbl.find_put, if_true]
  rw [Hw.closeSweep, foldl_keeps (Hw.slot · e i) _ (fun t p => slot_portSweep t e p i), slot_foldl_slotSweep _ _ _ hlisted (by rw [hslot, hv]) hstill,
    hslot]

end

end Sys2Proof.Machine
end

section
/-! SUPPORT. Message segments (07 R225, R226), answers at their senders (R223–R227) and the relay (R221), and the statement on packets at their
receivers. -/

namespace Sys2Proof.Machine

/-! ### The storm guard (17 R474) -/

/-- A block in which the collector, its reports and registers of the interrupt controller's page are all that differs. -/
structure Hw.GuardOnly (h t : Hw) : Prop where
  rest : t = { h with regs := t.regs, flt := t.flt, reports := t.reports }
  reg : ∀ q u, q.page ≠ pgIC → t.reg q u = h.reg q u

namespace Hw.GuardOnly

theorem refl (h : Hw) : h.GuardOnly h := ⟨rfl, fun _ _ _ => rfl⟩

variable {h t : Hw} (x : h.GuardOnly t)
include x

theorem trans {v : Hw} (y : t.GuardOnly v) : h.GuardOnly v :=
  ⟨by rw [y.rest, x.rest], fun q u hq => (y.reg q u hq).trans (x.reg q u hq)⟩

theorem setReg (r : Rg) (u : Nat) (w : Word) (hr : r.page = pgIC) : h.GuardOnly (t.setReg r u w) :=
  x.trans ⟨rfl, fun _ _ hq => reg_setReg_ne _ _ _ _ _ _ fun e => hq (e.1 ▸ hr)⟩

theorem updFlt (f : FltSt → FltSt) : h.GuardOnly (t.updFlt f) := x.trans ⟨rfl, fun _ _ _ => rfl⟩
theorem raise (src : Nat) (u : FUnit) : h.GuardOnly (t.raise src u) := x.trans ⟨rfl, fun _ _ _ => rfl⟩

theorem stormUp (i : Nat) : h.GuardOnly (t.stormUp i) := by
  have hcount := x.updFlt fun f => { f with storm := Tbl.set 0 f.storm i (Tbl.get 0 t.flt.storm i + 1) }
  unfold Hw.stormUp
  dsimp only
  split
  · exact hcount
  · exact (((hcount.setReg (IC_MASK (i / 32)) 0 _ rfl).setReg (IC_STORM_STAT (i / 32)) 0 _ rfl).setReg IC_STORM_CNT 0 _ rfl).raise _ _

theorem irqWatch (i : Nat) : h.GuardOnly (t.irqWatch i) := by
  unfold Hw.irqWatch
  split
  · exact (x.updFlt _).stormUp i
  · exact x

theorem mem : t.mem = h.mem := by rw [x.rest]
theorem cores : t.cores = h.cores := by rw [x.rest]
theorem ep (e : Nat) : t.ep e = h.ep e := by rw [x.rest]; rfl

end Hw.GuardOnly

/-! ### What completing a message leaves (07 R225) -/

section
variable (h : Hw) (e i : Nat) (r : Resv) (p0 : Word)

/-- The block in which a whole message has joined the dispatch queue of its endpoint. -/
def Hw.msgQueued (h : Hw) (e i : Nat) (r : Resv) : Hw := h.updEp e fun s => { s with
  msgq := s.msgq ++ [{ conn := i, port := r.port, at_ := r.at_, len := r.mlen }],
  live := s.live ++ [{ conn := i, port := r.port, at_ := r.at_, len := r.mlen }], reserved := s.reserved - 1 }

/-- A message that has joined the queue is counted and acknowledged; that of a management processor is watched by the storm guard. -/
theorem msgWhole_eq : ∃ g, (h.msgQueued e i r).GuardOnly g ∧
    h.msgWhole e i r p0 = ((g.setResv e i {}).inc MSG_RX_CNT e).sendCtls (epCl e) p0 opACK 0 i 0 r.port := by
  unfold Hw.msgWhole
  dsimp only
  split
  · exact ⟨_, (Hw.GuardOnly.refl (h.msgQueued e i r)).irqWatch _, rfl⟩
  · exact ⟨_, Hw.GuardOnly.refl (h.msgQueued e i r), rfl⟩

/-- A message that is complete is one more in its queue and in its count; memory and cores stay. -/
theorem msgWhole_reads : ((h.msgWhole e i r p0).ep e).msgq = (h.ep e).msgq ++ [{ conn := i, port := r.port, at_ := r.at_, len := r.mlen }] ∧
    (h.msgWhole e i r p0).reg MSG_RX_CNT e = satAdd32 (h.reg MSG_RX_CNT e) 1 ∧ (h.msgWhole e i r p0).mem = h.mem ∧
    (h.msgWhole e i r p0).cores = h.cores := by
  obtain ⟨g, hg, hwhole⟩ := msgWhole_eq h e i r p0
  have hsent := (Hw.RspSent.refl ((g.setResv e i {}).inc MSG_RX_CNT e) (epCl e)).sendCtls p0 opACK 0 i 0 r.port
  have hreg : (g.setResv e i {}).reg MSG_RX_CNT e = h.reg MSG_RX_CNT e := hg.reg MSG_RX_CNT e (by decide)
  rw [hwhole]
  refine ⟨?_, ?_, hsent.mem.trans hg.mem, hsent.cores.trans hg.cores⟩
  · rw [hsent.ep, ep_inc, ep_setResv, hg.ep, Hw.msgQueued, ep_updEp_same]
  · rw [hsent.reg, reg_inc_same, hreg]

end

/-! ### The first segment of a message (07 R225, R226) -/

section
variable {h : Hw} {e i : Nat} (hfree : (Tbl.get {} (h.ep e).resv i).used = false)
include hfree

/-- A connection on which no message is in progress has none to give up. -/
theorem dropResv_unused (v : Resv) : h.dropResv e i v = h.setResv e i v := by simp [Hw.dropResv, Hw.resvLive, hfree]

theorem abandonResv_unused : h.abandonResv e i = h.setResv e i {} := by
  rw [← dropResv_unused hfree]
  simp [Hw.abandonResv, Hw.resvLive, hfree]

end

/-- A reservation says nothing of the dispatch queue. -/
theorem msgBusy_setResv (h : Hw) (e i : Nat) (v : Resv) : (h.setResv e i v).msgBusy e = h.msgBusy e := by
  rw [Hw.msgBusy, Hw.msgBusy, ep_setResv]
  rfl

/-- A message of one to four bytes in an empty ring: its record is the first. -/
theorem ringPlace_empty {h : Hw} {e p n : Nat} (i : Nat) (h1 : 1 ≤ n) (h4 : n ≤ 4) {l : Listener} (hl : l = h.port e p) (hu : l.used = 0)
    (hsize : 8 ≤ l.size) : h.ringPlace e p i n = some ((h.setWord (epMem e + l.base) (w32 (i % 256 * 2 ^ 16 + n))).setPort e p
      { l with head := 0, tail := if 8 = l.size then 0 else 8, used := 8 }, 0) := by
  have hrec : ringRec n = 8 := by simp only [ringRec, ceilDiv]; omega
  have hfit : ringFit { l with head := 0, tail := 0, used := 0 } 8 = some (0, false) := by simp [ringFit, hsize]
  have hn : n % 512 = n := Nat.mod_eq_of_lt (by omega)
  simp only [Hw.ringPlace, ← hl, hu, if_true, hrec, hfit, hn, Bool.false_eq_true, if_false, Nat.add_zero, Nat.zero_add]

/-- The block in which a segment of one word, the whole of a message of n bytes on connection i, has been placed as the first record of the empty ring
of port p. -/
def Hw.wordPlaced (h : Hw) (e p i n ep : Nat) (l : Listener) (v : Word) : Hw :=
  ((((h.setWord (epMem e + l.base) (w32 (i % 256 * 2 ^ 16 + n))).setPort e p
    { l with head := 0, tail := if 8 = l.size then 0 else 8, used := 8 }).updEp e fun s => { s with reserved := s.reserved + 1 }).setWord
      (epMem e + l.base + 4) v).setResv e i { used := true, port := p, mlen := n, epoch := ep, got := 1 }

theorem segFirst_placed {h : Hw} {e i n ep : Nat} {p0 v : Word} {l : Listener} (hbusy : h.msgBusy e = false) (h1 : 1 ≤ n) (h4 : n ≤ 4)
    (hl : l = h.port e (h.slot e i).port) (hu : l.used = 0) (hsize : 8 ≤ l.size) : h.segFirst e i ep n p0 [v] false false =
      (h.wordPlaced e (h.slot e i).port i n ep l v).msgWhole e i { used := true, port := (h.slot e i).port, mlen := n, epoch := ep } p0 := by
  have hwords : ceilDiv n 4 - 0 = 1 := by simp only [ceilDiv]; omega
  have hport : ((((h.setWord (epMem e + l.base) (w32 (i % 256 * 2 ^ 16 + n))).setPort e (h.slot e i).port
      { l with head := 0, tail := if 8 = l.size then 0 else 8, used := 8 }).updEp e fun s => { s with reserved := s.reserved + 1 }).port e
        (h.slot e i).port).base = l.base := by
    rw [Hw.port, ep_updEp_same, ep_setPort, Tbl.get_set_same]
  simp only [Hw.segFirst, hbusy, Bool.false_eq_true, if_false, ringPlace_empty i h1 h4 hl hu hsize, Hw.fillRing, hport, hwords, List.take_succ_cons,
    List.take_zero, Hw.setWords, Nat.mul_zero, Nat.add_zero, List.length_singleton]
  rfl

section
variable (h : Hw) (e p i n ep : Nat) (l : Listener) (v : Word)

/-- The record is its header and its word. -/
theorem mem_wordPlaced : (h.wordPlaced e p i n ep l v).mem =
    ((h.setWord (epMem e + l.base) (w32 (i % 256 * 2 ^ 16 + n))).setWord (epMem e + l.base + 4) v).mem := rfl

theorem header_wordPlaced : (h.wordPlaced e p i n ep l v).word (epMem e + l.base) = w32 (i % 256 * 2 ^ 16 + n) := by
  rw [word_of_mem (mem_wordPlaced h e p i n ep l v), word_of_bytes fun x _ hx => byte_setWord_ne _ _ _ _ (.inl hx), word_setWord_same]

theorem word_wordPlaced : (h.wordPlaced e p i n ep l v).word (epMem e + l.base + 4) = v := by
  rw [word_of_mem (mem_wordPlaced h e p i n ep l v), word_setWord_same]

theorem byte_wordPlaced {b : Nat} (hb : b < epMem e + l.base ∨ epMem e + l.base + 8 ≤ b) : (h.wordPlaced e p i n ep l v).byte b = h.byte b := by
  rw [byte_of_mem (mem_wordPlaced h e p i n ep l v), byte_setWord_ne _ _ _ _ (by omega), byte_setWord_ne _ _ _ _ (by omega)]

theorem cores_wordPlaced : (h.wordPlaced e p i n ep l v).cores = h.cores := by
  rw [Hw.wordPlaced, cores_setResv, setWord_cores, updEp_cores, cores_setPort, setWord_cores]

theorem reg_wordPlaced (r : Rg) (u : Nat) : (h.wordPlaced e p i n ep l v).reg r u = h.reg r u := by
  refine reg_of_regs _ _ _ _ ?_
  rw [Hw.wordPlaced, regs_setResv, setWord_regs, updEp_regs, regs_setPort, setWord_regs]

theorem msgq_wordPlaced : ((h.wordPlaced e p i n ep l v).ep e).msgq = (h.ep e).msgq := by
  have hword (t : Hw) (a : Nat) (w : Word) : (t.setWord a w).ep e = t.ep e := rfl
  rw [Hw.wordPlaced, ep_setResv, hword, ep_updEp_same, ep_setPort, hword]

end

section
variable {h : Hw} {e i : Nat} {p0 p1 : Word} (hi : i = bits p1 31 24) (hone : bits p1 15 14 = 0)
  (hfree : (Tbl.get {} (h.ep e).resv i).used = false)
include hi hone hfree

/-- The only segment of a message on an open slot, with no message in progress there, is the first of one that is whole. -/
theorem segRx_open {n ep : Nat} (hep : ep = bits p1 23 16) (hn : n = bits p1 7 0 + 1) (hst : (h.slot e i).st = 1)
    (heq : (h.slot e i).epoch = ep) (ws : List Word) (bad : Bool) :
    h.segRx e p0 p1 ws bad = (h.setResv e i {}).segFirst e i ep n p0 ws bad false := by
  subst hi hn hep
  simp [Hw.segRx, hone, hst, heq, abandonResv_unused hfree]

/-- On a closed slot a message is refused as CLOSED. -/
theorem segRx_closed (hst : (h.slot e i).st = 0) (ws : List Word) (bad : Bool) : h.segRx e p0 p1 ws bad =
    (((h.setResv e i {}).setResv e i {}).inc MSG_CLOSED_DROP_CNT e).sendCtls (epCl e) p0 opNAK nCLOSED i 0 0 := by
  have hagain : (Tbl.get {} ((h.setResv e i {}).ep e).resv i).used = false := by rw [ep_setResv, Tbl.get_set_same]
  subst hi
  simp only [Hw.segRx, hone, hst, Hw.resvLive, hfree, abandonResv_unused hfree, Hw.refuseMsg, dropResv_unused hagain, Hw.nakMsg]
  simp [nCLOSED, nFULL, nBUSY]

end

/-- A well-formed segment for an endpoint that can take it is taken there, and its window place returns. -/
theorem msgRx_taken {h : Hw} {c : Nat} {p : List DFlit} {p0 p1 : Word} (hh : h.headPkt c 0 = some p) (ht : pType (flitW p 0) = tMSG)
    (h0 : p0 = flitW p 1) (hz0 : bits p0 11 0 = 0) (h1 : p1 = flitW p 2) (hz1 : bits p1 13 8 = 0)
    (hready : h.epReady c (pDep (flitW p 0)) = true) : h.msgRx c =
      ((h.popPkt c 0).segRx (64 * c + pDep (flitW p 0)) p0 p1 ((p.drop 3).map fun f => f.w) (pktBad p)).wretTo c p0 := by
  subst h0 h1
  rw [Hw.msgRx, withPkt_good hh ht (fun hc => absurd hc (by decide)) (by simp [payloadOk, tMSG, hz0, hz1])]
  simp [epReady_popPkt, hready]

/-! ### Answers at their sender (07 R223–R227) -/

/-- A good answer reaches the pending ticket that it names. -/
theorem withCtls_pending {h : Hw} {c e n op : Nat} {p : List DFlit} {p1 : Word} {k : Ticket} (hh : h.headPkt c 1 = some p)
    (ht : pType (flitW p 0) = tCTLS) (hgood : pktBad p = false) (hz : bits (flitW p 1) 11 0 = 0) (h1 : p1 = flitW p 2)
    (he : e = 64 * c + pDep (flitW p 0)) (hready : h.epReady c (pDep (flitW p 0)) = true) (hn : n = bits (flitW p 1) 15 12) (hk : k = h.ticket e n)
    (hused : k.used = true) (hst : k.st = 0) (ho : bits p1 31 28 = op) (hop : k.op ≠ 9) (f : Nat → Nat → Ticket → Word → Hw → Hw) :
    h.withCtls c op f = f e n k p1 (h.popPkt c 1) := by
  subst h1 he hn hk
  rw [Hw.withCtls, withPkt_good hh ht (fun _ => hgood) (by simp [payloadOk, tCTLS, hz])]
  simp [ho, epReady_popPkt, hready, hused, hst, hop]

theorem withCtls_none {h : Hw} {c op : Nat} {f : Nat → Nat → Ticket → Word → Hw → Hw} (hn : h.headPkt c 1 = none) : h.withCtls c op f = h :=
  withPkt_none hn

/-- A ticket that ends done, after its handle has changed. -/
theorem ticketDone_setHandle (h : Hw) (e i n : Nat) (v : Handle) :
    (h.setHandle e i v).ticketDone e n = (h.setHandle e i v).setTicket e n { h.ticket e n with st := 1 } := by
  rw [Hw.ticketDone, ticket_setHandle]

section
variable {h : Hw} {e n reason : Nat} {k : Ticket} (hk : k = h.ticket e n)
include hk

/-- A SEND refused as CLOSED closes its handle. -/
theorem nakRx_send (hop : k.op = 2) (hr : reason = nCLOSED) : h.nakRx e n k reason =
    ((h.setTicket e n { k with st := 2, reason := nCLOSED }).inc NAK_RX_CNT e).setHandle e k.handle { h.handle e k.handle with st := 3 } := by
  have hhandle (v : Ticket) : ((h.setTicket e n v).inc NAK_RX_CNT e).handle e k.handle = h.handle e k.handle := by
    rw [← setTicket_handle h e n v]
    rfl
  simp only [Hw.nakRx, Hw.ticketNak, hop, hr, true_or, if_true, ← hk, hhandle]

/-- A refused OPEN frees its handle. -/
theorem nakRx_open (hop : k.op = 1) : h.nakRx e n k reason =
    ((h.setTicket e n { k with st := 2, reason := reason }).inc NAK_RX_CNT e).setHandle e k.handle {} := by
  simp [Hw.nakRx, Hw.ticketNak, hop, ← hk]

end

/-! ### The relay (07 R221) -/

section
variable {h : Hw} {k : Nat} {p : List DFlit} {l : List (List DFlit)}

/-- An RSP packet crosses a link whose peer has room for it. -/
theorem relayOut_rsp (hq : (h.link k).outRsp = p :: l) (hopen : h.scOpen k = true) (hc : (h.link k).credS ≠ 0) : h.relayOut k =
    ((h.updLink k fun x => { x with outRsp := l }).updLink k fun x => { x with credS := x.credS - 1 }).send (.drip k p) := by
  simp only [Hw.relayOut, hq, hopen, Bool.true_eq_false, if_false, hc, Hw.relaySend, if_true]

/-- Towards an unavailable peer it is lost and counted. -/
theorem relayOut_rsp_closed (hq : (h.link k).outRsp = p :: l) (hopen : h.scOpen k = false) :
    h.relayOut k = (h.updLink k fun x => { x with outRsp := l }).inc DRIP_UNREACH_CNT (scCluster k) := by
  simp only [Hw.relayOut, hq, hopen, if_true]

/-- Without a credit the oldest RSP packet waits. -/
theorem relayOut_rsp_waits (hq : (h.link k).outRsp ≠ []) (hopen : h.scOpen k = true) (hc : (h.link k).credS = 0) : h.relayOut k = h := by
  obtain ⟨p, l, hpl⟩ := List.exists_cons_of_ne_nil hq
  simp only [Hw.relayOut, hpl, hopen, Bool.true_eq_false, if_false, hc, if_true]

/-- With no RSP packet before it, a message or a request crosses a link whose peer has room for it. -/
theorem relayOut_req (hr : (h.link k).outRsp = []) (hq : (h.link k).out = p :: l) (ht : pType (flitW p 0) = tMSG ∨ pType (flitW p 0) = tCTLQ)
    (hopen : h.scOpen k = true) (hc : (h.link k).credQ ≠ 0) : h.relayOut k =
    ((h.updLink k fun x => { x with out := l }).updLink k fun x => { x with credQ := x.credQ - 1 }).send (.drip k p) := by
  have htree : ¬ (pType (flitW p 0) = tEVT ∨ pType (flitW p 0) = tCFG) := by
    simp only [tMSG, tCTLQ, tEVT, tCFG] at ht ⊢
    omega
  simp only [Hw.relayOut, hr, hq, Hw.relayOutReq, hopen, Bool.true_eq_false, if_false, htree, false_and, hc, Hw.relaySend, Bool.false_eq_true]

theorem relayOut_none (hr : (h.link k).outRsp = []) (hq : (h.link k).out = []) : h.relayOut k = h := by simp only [Hw.relayOut, hr, hq]

/-- An RSP packet from the link enters the package. -/
theorem relayIn_rsp (hq : (h.link k).innRsp = p :: l) :
    h.relayIn k = (h.updLink k fun x => { x with innRsp := l, retS := x.retS + 1 }).sendRspFlits (scCluster k) p := by
  simp only [Hw.relayIn, hq]

theorem relayIn_none (hr : (h.link k).innRsp = []) (hq : (h.link k).inn = []) : h.relayIn k = h := by simp only [Hw.relayIn, hr, hq]

end

/-! ### The statement -/

/-- Settles O54: each packet is handled at its receiver by the lemma on that operation in that case. -/
theorem messagesAndConfigurationPackets : Obligations.MessagesAndConfigurationPackets := by
  refine ⟨?rejected, ?written, ?openFree, ?openNoPort, ?closeMatch, ?closeOther, ?placed, ?refused, ?answered, ?noAnswer, ?rspCrosses, ?rspLost,
    ?reqCrosses, ?rspEnters, ?rspWaits, ?noRelay⟩
  case rejected =>
    intro s c p hp hh ht hz hep hr
    refine answers_onHw (f := fun h => h.cfgPacket c) rfl hp ?_
    have hsent := (Hw.RspSent.refl ((s.hw.popPkt c 0).inc CFG_REJ_CNT c) c).sendWret (pScl (flitW p 0)) (pEp (flitW p 0)) false 0
    rw [cfgPacket_rejected rfl hh ht hz hep hr]
    refine ⟨?_, fun r u hne => ?_, ?_, hsent.mem, hsent.cores⟩
    · rw [hsent.reg, reg_inc_same, reg_popPkt]
    · rw [hsent.reg, reg_inc_ne _ _ _ _ _ _ fun e => hne (Prod.ext e.1.symm e.2.symm), reg_popPkt]
    · rw [hsent.dpkts, cl_inc, dpkts_popPkt]
  case written =>
    intro s c p w a m v hp hh hpk ht hz hep hform
    exact answers_onHw (f := fun h => h.cfgPacket c) rfl hp (cfgPacket_write hh hpk ht hz hep hform)
  case openFree =>
    intro s c p e i pt p0 p1 hp hh ht hgood h0 hz h1 ho hpt hready he hon hcl hno hi hst hlow hown hq hroom
    refine answers_onHw (f := fun h => h.withCtlq c opOPEN fun e p0 p1 h => h.openRx e p0 p1) rfl hp ?_
    rw [withCtlq_taken hh ht hgood h0 hz h1 ho hready, ← he,
      openRx_free (h := s.hw.popPkt c 0) hpt hon hcl hno hi hst hlow, he, epCl_dep, ← he, slot_popPkt]
    generalize hg : (s.hw.popPkt c 0).setSlot e i _ = g
    have hcl' : g.cl c = (s.hw.popPkt c 0).cl c := by rw [← hg, cl_setSlot]
    have hbuf : g.dbufOf c 0 1 = s.hw.dbufOf c 0 1 := dbufOf_eq_of_cl _ _ _ (by rw [hcl', cl_popPkt])
    have hregs : g.regs = s.hw.regs := by rw [← hg, regs_setSlot, regs_popPkt]
    have hpkg : g.pkgNum = s.hw.pkgNum := pkgNum_of_regs hregs
    have hsent := (Hw.RspSent.refl g c).answer p0 opOPENACK 0 i (s.hw.slot e i).epoch pt
    have hslot (j : Nat) : (g.answer c p0 opOPENACK 0 i (s.hw.slot e i).epoch pt).slot e j = g.slot e j := slot_of_ep _ _ (hsent.ep e) j
    refine ⟨?_, fun j hj => ?_, ?_, ?_⟩
    · rw [hslot, ← hg, slot_setSlot, if_pos rfl]
    · rw [hslot, ← hg, slot_setSlot, if_neg hj.symm, slot_popPkt]
    · rw [answer_room (hown.trans hpkg.symm) (by rw [hcl', cl_popPkt]; exact hq) (by rwa [hbuf]), hbuf, hpkg]
    · rw [hsent.regs, hregs]
  case openNoPort =>
    intro s c p e p0 p1 hp hh ht hgood h0 hz h1 ho hready he hoff
    refine answers_onHw (f := fun h => h.withCtlq c opOPEN fun e p0 p1 h => h.openRx e p0 p1) rfl hp ?_
    rw [withCtlq_taken hh ht hgood h0 hz h1 ho hready, ← he, openRx_noPort (h := s.hw.popPkt c 0) hoff, he, epCl_dep]
  case closeMatch =>
    intro s c p e i p0 p1 hp hh ht hgood h0 hz h1 ho hi hready he hst hep hbusy
    refine answers_onHw (f := fun h => h.withCtlq c opCLOSE fun e p0 p1 h => h.closeRx e p0 p1) rfl hp ?_
    rw [withCtlq_taken hh ht hgood h0 hz h1 ho hready, ← he, closeRx_match (h := s.hw.popPkt c 0) hi hst hep]
    have hrest : s.hw.EndpointsOnly (((s.hw.popPkt c 0).setSlot e i
        { (s.hw.popPkt c 0).slot e i with st := 2, ackTo := some p0 }).closeSweep e) :=
      Hw.EndpointsOnly.closeSweep (by rw [Hw.EndpointsOnly]; rfl) _
    refine ⟨?_, hrest.regs, hrest.mem⟩
    rw [slot_closeSweep (s.hw.popPkt c 0) e rfl hbusy, slot_popPkt, hep]
  case closeOther =>
    intro s c p e i p0 p1 hp hh ht hgood h0 hz h1 ho hi hready he hno
    refine answers_onHw (f := fun h => h.withCtlq c opCLOSE fun e p0 p1 h => h.closeRx e p0 p1) rfl hp ?_
    rw [withCtlq_taken hh ht hgood h0 hz h1 ho hready, ← he, closeRx_other (h := s.hw.popPkt c 0) hi hno, he, epCl_dep]
  case placed =>
    intro s c p e i n a p0 p1 v l hp hh hpk ht hz0 hz1 hready he hi hst hep hone hn h4 hbusy hfree hl hu hsize ha
    refine answers_onHw (f := fun h => h.msgRx c) rfl hp ?_
    have hw0 : p0 = flitW p 1 := by rw [hpk]; rfl
    have hw1 : p1 = flitW p 2 := by rw [hpk]; rfl
    have hws : (p.drop 3).map (fun f => f.w) = [v] := by rw [hpk]; rfl
    have hgood : pktBad p = false := by rw [hpk]; rfl
    have hidle : ((s.hw.popPkt c 0).setResv e i {}).msgBusy e = false := (msgBusy_setResv _ _ _ _).trans hbusy
    rw [msgRx_taken hh ht hw0 hz0 hw1 hz1 hready, ← he, segRx_open (h := s.hw.popPkt c 0) hi hone hfree rfl hn hst hep, hgood, hws,
      segFirst_placed (h := (s.hw.popPkt c 0).setResv e i {}) hidle (by omega) h4 (by rw [slot_setResv, port_setResv]; exact hl) hu hsize,
      slot_setResv, slot_popPkt]
    generalize hg : ((s.hw.popPkt c 0).setResv e i {}).wordPlaced e (s.hw.slot e i).port i n _ l v = g
    generalize hr : ({ used := true, port := (s.hw.slot e i).port, mlen := n, epoch := _ } : Resv) = r
    obtain ⟨hqueue, hcount, hmem, hcores⟩ := msgWhole_reads g e i r p0
    have hsent := (Hw.RspSent.refl (g.msgWhole e i r p0) c).wretTo p0
    have hmem' := hsent.mem.trans hmem
    have hi' : i % 256 = i := Nat.mod_eq_of_lt (hi ▸ bits_lt p1 31 24)
    subst ha
    refine ⟨?_, ?_, ?_, fun b hb => ?_, ?_, ?_⟩
    · rw [hsent.ep, hqueue, ← hg, msgq_wordPlaced, ep_setResv, ← hr]
      rfl
    · rw [word_of_mem hmem', ← hg, header_wordPlaced, hi']
    · rw [word_of_mem hmem', ← hg, word_wordPlaced]
    · rw [byte_of_mem hmem', ← hg, byte_wordPlaced _ _ _ _ _ _ _ _ hb]
      exact byte_of_mem ((mem_setResv _ _ _ _).trans (mem_popPkt _ _ _)) b
    · rw [hsent.reg, hcount, ← hg, reg_wordPlaced, reg_setResv, reg_popPkt]
    · rw [hsent.cores, hcores, ← hg, cores_wordPlaced, cores_setResv, cores_popPkt]
  case refused =>
    intro s c p e i p0 p1 hp hh ht hgood h0 hz0 h1 hz1 hready he hi hst hone hfree
    refine answers_onHw (f := fun h => h.msgRx c) rfl hp ?_
    rw [msgRx_taken hh ht h0 hz0 h1 hz1 hready, ← he, segRx_closed (h := s.hw.popPkt c 0) hi hone hfree hst]
    generalize hg : (((s.hw.popPkt c 0).setResv e i {}).setResv e i {}).inc MSG_CLOSED_DROP_CNT e = g
    have hsent := ((Hw.RspSent.refl g c).sendCtls p0 opNAK nCLOSED i 0 0).wretTo p0
    rw [he, epCl_dep, ← he]
    refine ⟨?_, ?_, ?_, ?_⟩
    · rw [hsent.reg, ← hg, reg_inc_same, reg_setResv, reg_setResv, reg_popPkt]
    · rw [hsent.ep, ← hg, ep_inc, ep_setResv, ep_setResv, ep_popPkt]
    · rw [hsent.mem, ← hg, inc_mem, mem_setResv, mem_setResv, mem_popPkt]
    · rw [hsent.cores, ← hg, inc_cores, cores_setResv, cores_setResv, cores_popPkt]
  case answered =>
    intro s c p e n k p1 hp hh ht hgood hz h1 he hready hn hk hused hst
    have hpend {op : Nat} (ho : bits p1 31 28 = op) (hop : k.op ≠ 9) (f : Nat → Nat → Ticket → Word → Hw → Hw) :
        s.hw.withCtls c op f = f e n k p1 (s.hw.popPkt c 1) :=
      withCtls_pending hh ht hgood hz h1 he hready hn hk hused hst ho hop f
    refine ⟨fun ho hop => ?_, fun ho hop => ?_, fun ho hop => ?_, fun ho hop hr => ?_, fun ho hop => ?_⟩
    · refine answers_onHw (f := fun h => h.openAcked c) rfl hp ?_
      rw [Hw.openAcked, hpend ho (by omega), if_pos hop, ticketDone_setHandle, ticket_popPkt, ← hk]
      rfl
    · refine answers_onHw (f := fun h => h.withCtls c opCLOSEACK fun e t k _ h =>
        if k.op = 3 then (h.setHandle e k.handle {}).ticketDone e t else h) rfl hp ?_
      rw [hpend ho (by omega), if_pos hop, ticketDone_setHandle, ticket_popPkt, ← hk]
    · refine answers_onHw (f := fun h => h.withCtls c opACK fun e t k _ h => if k.op = 2 then h.ticketDone e t else h) rfl hp ?_
      rw [hpend ho (by omega), if_pos hop, Hw.ticketDone, ticket_popPkt, ← hk]
    · refine answers_onHw (f := fun h => h.withCtls c opNAK fun e t k p1 h => h.nakRx e t k (bits p1 27 24)) rfl hp ?_
      rw [hpend ho (by omega), nakRx_send (h := s.hw.popPkt c 1) hk hop hr]
      rfl
    · refine answers_onHw (f := fun h => h.withCtls c opNAK fun e t k p1 h => h.nakRx e t k (bits p1 27 24)) rfl hp ?_
      rw [hpend ho (by omega), nakRx_open (h := s.hw.popPkt c 1) hk hop]
  case noAnswer =>
    intro s c hn
    exact ⟨ignored_of_same (f := fun h => h.openAcked c) rfl (by rw [Hw.openAcked, withCtls_none hn]),
      ignored_of_same (f := fun h => h.withCtls c opCLOSEACK fun e t k _ h => if k.op = 3 then (h.setHandle e k.handle {}).ticketDone e t else h) rfl
        (withCtls_none hn),
      ignored_of_same (f := fun h => h.withCtls c opACK fun e t k _ h => if k.op = 2 then h.ticketDone e t else h) rfl (withCtls_none hn),
      ignored_of_same (f := fun h => h.withCtls c opNAK fun e t k p1 h => h.nakRx e t k (bits p1 27 24)) rfl (withCtls_none hn),
      ignored_of_same (f := fun h => h.wretRx c) rfl (withPkt_none hn)⟩
  case rspCrosses =>
    intro s k p l hp hq hopen hc
    exact answers_onHw (f := fun h => h.relayOut k) rfl hp (relayOut_rsp hq hopen hc)
  case rspLost =>
    intro s k p l hp hq hopen
    refine answers_onHw (f := fun h => h.relayOut k) rfl hp ?_
    rw [relayOut_rsp_closed hq hopen]
    exact .one _ _ rfl _ _ _
  case reqCrosses =>
    intro s k p l hp hr hq ht hopen hc
    exact answers_onHw (f := fun h => h.relayOut k) rfl hp (relayOut_req hr hq ht hopen hc)
  case rspEnters =>
    intro s k p l hp hq
    exact answers_onHw (f := fun h => h.relayIn k) rfl hp (relayIn_rsp hq)
  case rspWaits =>
    exact fun s k hq hopen hc => ignored_of_same (f := fun h => h.relayOut k) rfl (relayOut_rsp_waits hq hopen hc)
  case noRelay =>
    exact fun s k => ⟨fun hr hq => ignored_of_same (f := fun h => h.relayOut k) rfl (relayOut_none hr hq),
      fun hr hq => ignored_of_same (f := fun h => h.relayIn k) rfl (relayIn_none hr hq)⟩

end Sys2Proof.Machine
end

section
/-! SUPPORT. The queue drains and time passes: what a run of n steps leaves of the queue, and what a fabric cycle with no command does to a block with
power and to one without (log 1, log 11, 10 R288, 13 R358). -/

namespace Sys2Proof.Machine

/-! ### Runs -/

/-- A step answers a next state, and takes the command at the front from the queue. -/
theorem step_completes (s : State) : ∃ t, step s = .next t ∧ t.pending = s.pending.tail := by
  rw [step]
  cases hq : s.pending with
  | nil => exact ⟨_, rfl, rfl⟩
  | cons i r => exact everyCommandCompletes i { s with pending := r }

/-- A run goes on from where its first step leads. -/
theorem run_succ {s t : State} (n : Nat) (h : step s = .next t) : Host.Core.run Sys2Proof.core (n + 1) s = Host.Core.run Sys2Proof.core n t := by
  have hcore : Sys2Proof.core.step s = .next t := h
  simp only [Host.Core.run, hcore]

/-- A run takes no stop, and each of its steps takes one command. -/
theorem run_completes (n : Nat) (s : State) : ∃ t, Host.Core.run Sys2Proof.core n s = .next t ∧ t.pending = s.pending.drop n := by
  induction n generalizing s with
  | zero => exact ⟨s, rfl, rfl⟩
  | succ n ih =>
    obtain ⟨t, hstep, ht⟩ := step_completes s
    obtain ⟨t', hrun, ht'⟩ := ih t
    exact ⟨t', (run_succ n hstep).trans hrun, by rw [ht', ht, List.drop_tail]⟩

/-! ### A fabric cycle with no command -/

/-- The next fabric cycle of device time, and PTP time with it. -/
def Hw.nextCycle (h : Hw) : Hw := { h with dev := h.dev + 1, ptp := h.ptp + (h.reg PTP_INC).toNat }

section
variable (h : Hw)

/-- Counting waits changes nothing but their counters and books. -/
theorem countWaits_eq (t : Nat) : h.countWaits t = { h with regs := (h.countWaits t).regs, waits := (h.countWaits t).waits } := by
  suffices hl : ∀ (l : Tbl Wait) (g : Hw), l.foldl (fun g p => g.countWait p.1 p.2 t) g =
      { g with regs := (l.foldl (fun g p => g.countWait p.1 p.2 t) g).regs, waits := (l.foldl (fun g p => g.countWait p.1 p.2 t) g).waits } from
    hl h.waits h
  intro l
  induction l with
  | nil => exact fun _ => rfl
  | cons p r ih =>
    intro g
    rw [List.foldl_cons, ih, countWait_eq]

/-- While the package has power, the cycle passes and the waits in progress count it. -/
theorem tick_powered (hp : h.powered = true) : tick h = h.nextCycle.countWaits (h.dev + 1) := by
  rw [tick, Hw.advTo, if_pos ⟨Nat.lt_succ_self _, hp⟩]
  simp only [Nat.add_sub_cancel_left, one_mul, Hw.nextCycle]

/-- Without power, or in reset, none does. -/
theorem tick_unpowered (hp : h.powered = false) : tick h = h := by
  rw [tick, Hw.advTo, if_neg (by simp [hp])]

/-- One wait that is due in a cycle counts it. -/
theorem countWaits_one {key : Nat} {w : Wait} (hw : h.waits = [(key, w)]) (hnext : w.next = h.dev) (hper : 1 ≤ w.per) :
    h.nextCycle.countWaits (h.dev + 1) =
      { h.nextCycle.inc ⟨w.page, w.off⟩ w.unit 1 with waits := [(key, { w with next := w.next + w.per, n := w.n + 1 })] } := by
  have hdue : w.due (h.dev + 1) = 1 := by
    rw [Wait.due, if_pos (by omega), ceilDiv, hnext, Nat.add_sub_cancel_left, Nat.add_sub_cancel_left, Nat.div_self hper]
  have hwaits : h.nextCycle.waits = [(key, w)] := hw
  rw [Hw.countWaits, hwaits, List.foldl_cons, List.foldl_nil, Hw.countWait, hdue]
  simp [hwaits, Tbl.put]

end

/-- With no command waiting, a step is a fabric cycle. -/
theorem step_idle {s : State} (hq : s.pending = []) : step s = .next { s with hw := tick s.hw } := by
  rw [step, hq]

/-- Settles O4: with an empty queue a step is a fabric cycle, which passes where there is power; otherwise each step takes the command at the front,
so that a run takes as many commands as it has steps. -/
theorem timePassesAndTheQueueDrains : Obligations.TimePassesAndTheQueueDrains := by
  refine ⟨fun s hq => ⟨?noWaits, ?waits, ?oneWait, ?unpowered⟩, ?drains, ?firstRuns, ?safe⟩
  case noWaits =>
    intro hp hw
    rw [step_idle hq, tick_powered _ hp, Hw.countWaits, show s.hw.nextCycle.waits = [] from hw]
    rfl
  case waits =>
    intro hp
    refine ⟨_, step_idle hq, hq, ?_⟩
    rw [tick_powered _ hp, countWaits_eq]
    rfl
  case oneWait =>
    intro hp key w hw hnext hper
    rw [step_idle hq, tick_powered _ hp, countWaits_one _ hw hnext hper]
    rfl
  case unpowered =>
    intro hp
    rw [step_idle hq, tick_unpowered _ hp]
  case drains =>
    intro s
    obtain ⟨t, hrun, ht⟩ := run_completes s.pending.length s
    exact ⟨t, hrun, by rw [ht, List.drop_length]⟩
  case firstRuns => exact fun i r s t hi => run_succ r.length hi
  case safe =>
    intro n s
    obtain ⟨t, hrun, -⟩ := run_completes n s
    exact ⟨t, hrun⟩

end Sys2Proof.Machine
end

section
/-! SUPPORT. Registers of frames, timers, actuators and pins: what a granted write or read of each leaves, and the statement on them (00 R15, 10 R304,
11 R315-R331). -/

namespace Sys2Proof.Machine

/-! ### Plain writes (00 R15, 19 R503) -/

section
variable (h : Hw) {r : Rg} {row : RegRow} (hrow : rowOf r.page r.off = some row) (hlock : row.rwl = 0) (u : Nat) (v : Word)
include hrow hlock

/-- A register without lockable fields takes what its access codes leave, locked or not. -/
theorem putReg_unlockable : h.putReg r u v = h.setReg r u (h.written r u v) := by
  simp [Hw.putReg, Hw.lockCount, hrow, hlock]

/-- One whose every bit is writable takes the word written. -/
theorem putReg_whole (hrw : row.rw = 0xFFFFFFFF) (hw1c : row.w1c = 0) (hw1s : row.w1s = 0) : h.putReg r u v = h.setReg r u v := by
  have hmask : h.rowMask r u = 0xFFFFFFFF#32 := by simp [Hw.rowMask, hrow, hlock, hrw, w32]
  have hall : v &&& 0xFFFFFFFF#32 = v := BitVec.and_allOnes
  rw [putReg_unlockable h hrow hlock, Hw.written, hrow]
  simp [hmask, hw1c, hw1s, hall, w32]

end

/-! ### Bits of a register written -/

section
variable (h : Hw) (r : Rg) (u i j : Nat) (a b : Bool)

@[simp] theorem reg_setFlag_same : (h.setFlag r u i a).reg r u = setBits (h.reg r u) i i (b2n a) := reg_setFld_same ..

theorem reg_setFlag_ne {r' : Rg} {u' : Nat} (hne : ¬ (r = r' ∧ u = u')) : (h.setFlag r u i a).reg r' u' = h.reg r' u' :=
  reg_setFld_ne _ _ _ _ _ _ _ _ hne

/-- One bit of a register written. -/
theorem now_setFlag : h.Now h [((r, u), setBits (h.reg r u) i i (b2n a))] (h.setFlag r u i a) := .one h h rfl _ _ _

/-- Two bits of a register written, one after the other. -/
theorem now_setFlag_setFlag :
    h.Now h [((r, u), setBits (setBits (h.reg r u) i i (b2n a)) j j (b2n b))] ((h.setFlag r u i a).setFlag r u j b) := by
  rw [← reg_setFlag_same h r u i a]
  exact ((now_setFlag h r u i a).set r u _).drop

end

section
variable (h : Hw) (who : Requester) (k : Nat) (v : Word)

/-! ### Frame buffers (10 R304) -/

theorem regWrite_frStat : h.regWrite who FR_STAT.page k FR_STAT.off v = h.frameRelease k (bits v 1 0) := by
  rw [regWrite_alone]
  rfl

/-- Of two buffers, a mask of one bit releases the one it names, if that is FULL. -/
theorem frameRelease_first (hfull : h.flag FR_STAT k 0 = true) :
    h.frameRelease k 1 = (h.setFlag FR_STAT k 0 false).setFlag FR_STAT k 2 false := by
  simp [Hw.frameRelease, hfull]

theorem frameRelease_second (hfull : h.flag FR_STAT k 1 = true) :
    h.frameRelease k 2 = (h.setFlag FR_STAT k 1 false).setFlag FR_STAT k 3 false := by
  simp [Hw.frameRelease, hfull]

/-! ### Timers (11 R315, R316, R319) -/

theorem regWrite_tmrCount : h.regWrite who TMR_COUNT.page k TMR_COUNT.off v = h.setReg TMR_COUNT k v := by
  rw [regWrite_alone]
  exact putReg_whole h (r := TMR_COUNT) rfl rfl k v rfl rfl rfl

theorem regWrite_tmrCmp (one : Bool) : h.regWrite who (if one then TMR_CMP1 else TMR_CMP0).page k (if one then TMR_CMP1 else TMR_CMP0).off v =
    h.cmpWrite k one v := by
  rw [regWrite_alone]
  cases one <;> rfl

theorem regWrite_tmrCmp1 : h.regWrite who TMR_CMP1.page k TMR_CMP1.off v = h.cmpWrite k true v := regWrite_tmrCmp h who k v true

/-- A compare value that is not to match at once goes to its register. -/
theorem cmpWrite_register (one : Bool) (hpwm : one = true → h.pwmMode k = false)
    (hlater : ¬ (h.flag TMR_CTRL k 11 = true ∧ v = h.reg TMR_COUNT k)) :
    h.cmpWrite k one v = h.setReg (if one then TMR_CMP1 else TMR_CMP0) k v := by
  have hkeeps (r : Rg) (hr : (if one then TMR_CMP1 else TMR_CMP0) ≠ r) : (h.setReg (if one then TMR_CMP1 else TMR_CMP0) k v).reg r k = h.reg r k :=
    reg_setReg_ne _ _ _ _ _ _ fun e => hr e.1
  have hctrl := hkeeps TMR_CTRL (by cases one <;> decide)
  have hcount := hkeeps TMR_COUNT (by cases one <;> decide)
  have hshadow : ¬ (one = true ∧ h.pwmMode k = true) := fun ⟨h1, h2⟩ => by simp [hpwm h1] at h2
  simp only [Hw.cmpWrite, hshadow, if_false, Hw.flag, hctrl, hcount]
  exact if_neg hlater

/-- In PWM mode compare 1 goes to the shadow. -/
theorem cmpWrite_shadow (hpwm : h.pwmMode k = true) : h.cmpWrite k true v = h.shadowPut k v := by
  rw [Hw.cmpWrite, if_pos ⟨rfl, hpwm⟩]

/-- A read of a capture register answers it and clears its NEW bit. -/
theorem regRead_capture (i : Fin 3) : h.regRead who (captureReg i).page k (captureReg i).off false =
    (h.setFlag TMR_CAPSTAT k (if i = 0 then 0 else 1) false, h.reg (captureReg i) k) := by
  match i with
  | 0 | 1 | 2 => rfl

/-! ### Actuators and pins (11 R325, R331, R334) -/

theorem regWrite_actStat : h.regWrite who ACT_STAT.page 0 ACT_STAT.off v =
    (List.range 16).foldl (fun h k => if bit v k ∧ h.flag ACT_STAT 0 k then h.actSafeClear k else h) h := by
  rw [regWrite_alone]
  rfl

/-- A write of a 1 to SAFE of entry 0 alone clears it. -/
theorem regWrite_actStat_first (hsafe : h.flag ACT_STAT 0 0 = true) :
    h.regWrite who ACT_STAT.page 0 ACT_STAT.off ((1#16).setWidth 32) = h.actSafeClear 0 := by
  have hothers : ∀ i ∈ List.range' 1 15, ¬ bit ((1#16).setWidth 32) i = true := by decide
  have hfirst : bit ((1#16).setWidth 32) 0 = true := rfl
  rw [regWrite_actStat, show List.range 16 = 0 :: List.range' 1 15 from rfl, List.foldl_cons, if_pos ⟨hfirst, hsafe⟩]
  exact foldl_unmoved fun i hi => if_neg fun hi' => hothers i hi hi'.1

theorem regWrite_gpioSet : h.regWrite who GPIO_SET.page 0 GPIO_SET.off v = h.setReg GPIO_OUT 0 (h.reg GPIO_OUT ||| v) := by
  rw [regWrite_alone]
  rfl

theorem regWrite_gpioClr : h.regWrite who GPIO_CLR.page 0 GPIO_CLR.off v = h.setReg GPIO_OUT 0 (h.reg GPIO_OUT &&& ~~~ v) := by
  rw [regWrite_alone]
  rfl

theorem regWrite_padEn : h.regWrite who PAD_EN.page 0 PAD_EN.off v = h.setReg PAD_EN 0 (h.written PAD_EN 0 v) := by
  rw [regWrite_alone]
  exact putReg_unlockable h (r := PAD_EN) rfl rfl 0 v

end

/-! ### The statement -/

section
variable {s : State} {who : Requester} {k : TmrId}

theorem effect_tmrCmpWrite (one : Bool) (v : Word) (hg : s.Grants who (if one then TMR_CMP1 else TMR_CMP0) k true)
    (hpwm : one = true → s.hw.pwmMode k = false) (hlater : ¬ (s.hw.flag TMR_CTRL k 11 = true ∧ v = s.hw.reg TMR_COUNT k)) :
    Effect (.tmrCmpWrite who k one v) s (s.hw.told 0) [((if one then TMR_CMP1 else TMR_CMP0, k), v)] := by
  refine answers_put (r := if one then TMR_CMP1 else TMR_CMP0) rfl hg ?_
  rw [regWrite_tmrCmp, cmpWrite_register _ _ _ _ hpwm hlater]
  exact (Hw.Now.one _ _ rfl _ _ _).told 0

theorem effect_tmrCaptureRead (i : Fin 3) (hg : s.Grants who (captureReg i) k false) :
    Effect (.tmrCaptureRead who k i) s (s.hw.told (s.hw.reg (captureReg i) k))
      [((TMR_CAPSTAT, k), setBits (s.hw.reg TMR_CAPSTAT k) (if i = 0 then 0 else 1) (if i = 0 then 0 else 1) 0)] := by
  refine answers_look (r := captureReg i) rfl hg ?_
  rw [regRead_capture]
  exact (now_setFlag _ _ _ _ false).told _

end

/-- Settles O24: each granted access is the operation of its register, which leaves the words stated. -/
theorem timerAndPinRegisters : Obligations.TimerAndPinRegisters := by
  refine ⟨?first, ?second, ?count, ?cmp0, ?cmp1, ?shadow, ?rise, ?fall, ?width, ?safe, ?gpioSet, ?gpioClr, ?padEn⟩
  case first =>
    intro s who k hg hfull
    refine answers_put (r := FR_STAT) rfl hg ?_
    rw [regWrite_frStat, show bits ((1#2).setWidth 32) 1 0 = 1 from rfl, frameRelease_first _ _ hfull]
    exact (now_setFlag_setFlag _ _ _ _ _ false false).told 0
  case second =>
    intro s who k hg hfull
    refine answers_put (r := FR_STAT) rfl hg ?_
    rw [regWrite_frStat, show bits ((2#2).setWidth 32) 1 0 = 2 from rfl, frameRelease_second _ _ hfull]
    exact (now_setFlag_setFlag _ _ _ _ _ false false).told 0
  case count =>
    intro s who k v hg
    refine answers_put (r := TMR_COUNT) rfl hg ?_
    rw [regWrite_tmrCount]
    exact (Hw.Now.one _ _ rfl _ _ _).told 0
  case cmp0 => exact fun s who k v hg hlater => effect_tmrCmpWrite false v hg nofun hlater
  case cmp1 => exact fun s who k v hg hpwm hlater => effect_tmrCmpWrite true v hg (fun _ => hpwm) hlater
  case shadow =>
    intro s who k v hg hpwm
    refine answers_put (r := TMR_CMP1) rfl hg ?_
    rw [regWrite_tmrCmp1, cmpWrite_shadow _ _ _ hpwm]
    exact (Hw.Now.one _ _ rfl _ _ _).told 0
  case rise => exact fun s who k hg => effect_tmrCaptureRead 0 hg
  case fall => exact fun s who k hg => effect_tmrCaptureRead 1 hg
  case width => exact fun s who k hg => effect_tmrCaptureRead 2 hg
  case safe =>
    intro s who hg hsafe
    refine answers_put (r := ACT_STAT) rfl hg ?_
    rw [regWrite_actStat_first _ _ hsafe]
    exact (Hw.Now.one s.hw (s.hw.updAct 0 fun x => { x with since := s.hw.dev }) rfl _ _ _).told 0
  case gpioSet =>
    intro s who v hg
    refine answers_put (r := GPIO_SET) rfl hg ?_
    rw [regWrite_gpioSet]
    exact (Hw.Now.one _ _ rfl _ _ _).told 0
  case gpioClr =>
    intro s who v hg
    refine answers_put (r := GPIO_CLR) rfl hg ?_
    rw [regWrite_gpioClr]
    exact (Hw.Now.one _ _ rfl _ _ _).told 0
  case padEn =>
    intro s who v hg
    refine answers_put (r := PAD_EN) rfl hg ?_
    rw [regWrite_padEn]
    exact (Hw.Now.one _ _ rfl _ _ _).told 0

end Sys2Proof.Machine
end

section
/-! SUPPORT. Windows whose words have rules of their own: limiters, actuators, gate lists, secure associations and the attestation report, and the
statement on them (10 R308, 11 R334, 13 R379, R381, 18 R496, 19 R528). -/

namespace Sys2Proof.Machine

/-! ### A granted access to a data register -/

section
variable {i : Instr} {s : State} {who : Requester} {r : Rg} {u : Nat} {l : List ((Rg × Nat) × Word)}

/-- A granted write of a data register does what its window does. -/
theorem effect_windowWrite {v : Word} {g t : Hw} (hexec : exec i s = s.put who r u v) (hg : s.Grants who r u true)
    (hwin : s.hw.regPut who r.page u r.off v = t) (hnow : s.hw.Now g l t) : Effect i s (g.told 0) l := by
  refine answers_put hexec hg ?_
  rw [regWrite_alone, hwin]
  exact hnow.told 0

/-- A granted read of a data register answers its window's word; `same`: an increment falls in its cycle (00 R16). -/
theorem effect_windowRead {same : Bool} {x : Hw × Word} {g : Hw} (hexec : exec i s = s.mgmt who fun h => h.mgmtRead who (addrOf r u) same)
    (hg : s.Grants who r u false) (hwin : s.hw.regRead who r.page u r.off same = x) (hnow : s.hw.Now g l x.1) : Effect i s (g.told x.2) l := by
  obtain ⟨loc, hpage, hunit, hoff, e⟩ := guarded_granted hg fun h loc => h.regRead who loc.page loc.unit loc.off same
  refine answers_mgmt hexec hg.1 ?_
  rw [Hw.mgmtRead, e, hpage, hunit, hoff, hwin]
  exact hnow.told x.2

end

/-! ### The windows -/

section
variable (h : Hw) (q : Nat)

/-- A read of LIM_DROP_CNT leaves 0, or the 1 of an increment in its cycle. -/
theorem winLim_dropCnt (fw same : Bool) (hw : h.fld LIM_ADDR q 17 16 = 2) : h.winLim q fw none same =
    winThen (h.setLim q (h.fld LIM_ADDR q 9 0) 2 (if same then 1#32 else 0#32), h.lim q (h.fld LIM_ADDR q 9 0) 2)
      fun h => h.winNext LIM_ADDR q 17 16 3 (some (9, 0)) := by
  rw [Hw.winLim, hw]
  cases same <;> rfl

/-- Only a write of word 0 of an entry may restart its timeout. -/
theorem actWrite_word (k w : Nat) (v : Word) (hw : w ≠ 0) : h.actWrite k w v = h.setTab .act 0 (k + 16 * w) v := by
  simp [Hw.actWrite, hw]

/-- An access to a word of the actuator map reaches it; a write of word 0 does more. -/
theorem winAct_word (wr : Option Word) (hlast : h.fld ACT_ADDR 0 11 8 ≤ 9) (hpos : wr.isSome = true → 0 < h.fld ACT_ADDR 0 11 8) : h.winAct wr =
    winThen (h.tabAccess .act 0 (h.fld ACT_ADDR 0 3 0 + 16 * h.fld ACT_ADDR 0 11 8) (actMask (h.fld ACT_ADDR 0 11 8)) wr)
      fun h => h.winNext ACT_ADDR 0 11 8 9 (some (3, 0)) := by
  simp only [Hw.winAct, if_neg (Nat.not_lt.2 hlast)]
  cases wr with
  | none => rfl
  | some v =>
    dsimp only
    rw [actWrite_word _ _ _ _ (hpos rfl).ne']
    rfl

/-- A gate list that is not operational takes a write. -/
theorem winGcl_other (v : Word) (hl : h.fld GCL_ADDR q 8 8 ≠ h.fld GCL_CTRL q 8 8) : h.winGcl q (some v) =
    winThen (h.setTab .gcl q (128 * h.fld GCL_ADDR q 8 8 + h.fld GCL_ADDR q 6 0) (v ^^^ 0xFF#32), 0#32)
      fun h => h.winNext GCL_ADDR q 6 0 127 none := by
  simp only [Hw.winGcl, if_neg hl]

/-- The operational one ignores it. -/
theorem winGcl_operational (v : Word) (hl : h.fld GCL_ADDR q 8 8 = h.fld GCL_CTRL q 8 8) : h.winGcl q (some v) =
    winThen (h, 0#32) fun h => h.winNext GCL_ADDR q 6 0 127 none := by
  simp only [Hw.winGcl, if_pos hl]

/-- A word of a secure association below 14 is stored whole. -/
theorem winSa_write (v : Word) (hsc : h.fld MS_SA_SEL q 4 2 ≤ 4) (hw : h.fld MS_SA_SEL q 11 8 < 14) : h.winSa q (some v) =
    winThen (h.setSa q (h.fld MS_SA_SEL q 4 2) (h.fld MS_SA_SEL q 1 0) (h.fld MS_SA_SEL q 11 8) v, 0#32)
      fun h => h.winNext MS_SA_SEL q 11 8 15 none := by
  have h15 : h.fld MS_SA_SEL q 11 8 ≠ 15 := by omega
  simp only [Hw.winSa, if_neg (Nat.not_lt.2 hsc), if_neg h15, if_neg hw.ne]

/-- A word of its key reads 0. -/
theorem winSa_key (hsc : h.fld MS_SA_SEL q 4 2 ≤ 4) (hw : h.fld MS_SA_SEL q 11 8 < 8) : h.winSa q none =
    winThen (h, 0#32) fun h => h.winNext MS_SA_SEL q 11 8 15 none := by
  simp only [Hw.winSa, if_neg (Nat.not_lt.2 hsc), if_pos hw]

end

/-! ### The statement -/

/-- Settles O25: each granted access is its window's, which does its one act on the word addressed and then advances. -/
theorem limiterActuatorAndPortWindows : Obligations.LimiterActuatorAndPortWindows := by
  refine ⟨?limDrop, ?actW, ?actR, ?gclW, ?gclIgnored, ?gclR, ?saW, ?saKey, ?att⟩
  case limDrop =>
    intro s who q hg hw same
    exact effect_windowRead (r := LIM_DATA) rfl hg (winLim_dropCnt s.hw q (isFw who) same hw) (now_advance_carry rfl)
  case actW =>
    intro s who v hg hpos hlast
    have hwin := congrArg Prod.fst (winAct_word s.hw (some v) hlast fun _ => hpos)
    exact effect_tableWrite (r := ACT_DATA) rfl hg hwin (now_advance_carry rfl)
  case actR =>
    intro s who hg hlast
    exact effect_tableRead (r := ACT_DATA) rfl hg (winAct_word s.hw none hlast nofun) rfl (now_advance_carry rfl)
  case gclW =>
    intro s who q v hg hl
    exact effect_windowWrite (r := GCL_DATA) rfl hg (congrArg Prod.fst (winGcl_other s.hw q v hl)) (now_advance rfl)
  case gclIgnored =>
    intro s who q v hg hl
    exact effect_windowWrite (r := GCL_DATA) rfl hg (congrArg Prod.fst (winGcl_operational s.hw q v hl)) (now_advance rfl)
  case gclR => exact fun s who q hg => effect_windowRead (r := GCL_DATA) (same := false) rfl hg rfl (now_advance rfl)
  case saW =>
    intro s who q v hg hsc hw
    exact effect_windowWrite (r := MS_SA_DATA) rfl hg (congrArg Prod.fst (winSa_write s.hw q v hsc hw)) (now_advance rfl)
  case saKey =>
    intro s who q hg hsc hw
    exact effect_windowRead (r := MS_SA_DATA) (same := false) rfl hg (winSa_key s.hw q hsc hw) (now_advance rfl)
  case att => exact fun s who hg => effect_windowRead (r := ATT_DATA) (same := false) rfl hg rfl (now_advance rfl)

end Sys2Proof.Machine
end

section
/-! SUPPORT. Receivers, frames and the event-word decoder (10 R284, R285, R287, R290, R291): what a packet, a frame's start and end and a word of the
input FIFO leave. -/

namespace Sys2Proof.Machine

/-! ### Fields of a word -/

/-- A field of a word, bit by bit. -/
theorem testBit_bits (w : Word) (hi lo i : Nat) : (bits w hi lo).testBit i = (decide (i < hi + 1 - lo) && bit w (lo + i)) := by
  simp only [bits, bit, Nat.testBit_mod_two_pow, Nat.testBit_shiftRight, BitVec.testBit_toNat]

/-- A field that is 0 has no bit set. -/
theorem bit_of_bits_zero {w : Word} {hi lo i : Nat} (hz : bits w hi lo = 0) (hlo : lo ≤ i) (hhi : i ≤ hi) : bit w i = false := by
  have hbit := testBit_bits w hi lo (i - lo)
  rw [hz, Nat.zero_testBit, decide_eq_true (by omega), Bool.true_and, Nat.add_sub_cancel' hlo] at hbit
  exact hbit.symm

/-! ### One receiver updated -/

section
variable (h : Hw) (k : Nat) (f : CsiSt → CsiSt)

@[simp] theorem csi_updCsi_same : (h.updCsi k f).csi k = f (h.csi k) := Tbl.get_set_same ..
@[simp] theorem updCsi_reg (r : Rg) (u : Nat) : (h.updCsi k f).reg r u = h.reg r u := rfl
@[simp] theorem updCsi_mem : (h.updCsi k f).mem = h.mem := rfl
@[simp] theorem updCsi_pulses : (h.updCsi k f).pulses = h.pulses := rfl
@[simp] theorem updCsi_fld (r : Rg) (u hi lo : Nat) : (h.updCsi k f).fld r u hi lo = h.fld r u hi lo := rfl
@[simp] theorem updCsi_flag (r : Rg) (u i : Nat) : (h.updCsi k f).flag r u i = h.flag r u i := rfl
@[simp] theorem updCsi_vcMode (j v : Nat) : (h.updCsi k f).vcMode j v = h.vcMode j v := rfl
@[simp] theorem updCsi_decClass (j : Nat) (w : Word) : (h.updCsi k f).decClass j w = h.decClass j w := rfl
@[simp] theorem csi_setFlag (r : Rg) (u i : Nat) (b : Bool) (j : Nat) : (h.setFlag r u i b).csi j = h.csi j := rfl

end

/-! ### Packets (10 R284, R285) -/

/-- Receiver k has seen a packet: it shows HS (10 R305). -/
def Hw.csiHs (h : Hw) (k : Nat) : Hw := h.updCsi k fun x => { x with hs := true }

section
variable {h : Hw} {k : Nat} {p : CsiPacket}

/-- A receiver that is off, or whose lanes are in ultra-low-power state, takes no packet. -/
theorem csiPacket_off (hoff : h.csiOn k = false) : h.csiPacket k p = h := if_pos hoff

section
variable (hon : h.csiOn k = true)
include hon

/-- A packet whose header has an uncorrectable error is dropped. -/
theorem csiPacket_badHeader (herr : p.hdrErr.val = 2) : h.csiPacket k p = (h.csiHs k).inc CSI_HDR_DROP_CNT k := by
  have herr' : p.hdrErr = 2 := Fin.ext herr
  simp [Hw.csiPacket, Hw.csiHs, hon, herr']

section
variable (herr : p.hdrErr.val = 0) (hlong : p.long = true) (hdt : p.dt ≠ 0x12#6) (hvc : h.vcMode k p.vc = 1)
include herr hlong hdt hvc

/-- A packet of an event channel is dropped for its data type. -/
theorem csiPacket_wrongType (hty : p.dt.toNat ≠ h.fld CSI_CTRL k 23 16) : h.csiPacket k p = (h.csiHs k).inc CSI_DT_DROP_CNT k := by
  have herr' : p.hdrErr = 0 := Fin.ext herr
  simp [Hw.csiPacket, Hw.csiHs, hon, herr', hlong, hdt, hvc, hty]

section
variable (hty : p.dt.toNat = h.fld CSI_CTRL k 23 16)
include hty

/-- It is dropped for its CRC. -/
theorem csiPacket_badCrc (hcrc : p.crcErr = true) : h.csiPacket k p = (h.csiHs k).inc CSI_CRC_DROP_CNT k := by
  have herr' : p.hdrErr = 0 := Fin.ext herr
  simp [Hw.csiPacket, Hw.csiHs, hon, herr', hlong, hdt, hvc, hty, hcrc]

/-- Its words go to the input FIFO. -/
theorem csiPacket_words (hcrc : p.crcErr = false) (hwhole : p.payload.length % h.evBytes k = 0) :
    h.csiPacket k p = (h.csiHs k).fifoIn k p.vc (eventWords (h.flag DEC_CFG k 0) (h.flag DEC_CFG k 1) p.payload) := by
  have herr' : p.hdrErr = 0 := Fin.ext herr
  have hwhole' : p.payload.length % (h.csiHs k).evBytes k = 0 := hwhole
  rw [Hw.csiHs] at hwhole'
  simp [Hw.csiPacket, Hw.csiHs, hon, herr', hlong, hdt, hvc, hty, hcrc, hwhole']

end
end
end

/-- A word joins the input FIFO while that has room. -/
theorem fifoIn_room (v : Nat) (w : Word) (hroom : (h.csi k).fifo.length < 1024) :
    h.fifoIn k v [w] = h.updCsi k fun x => { x with fifo := x.fifo ++ [⟨w, v, h.dev⟩] } := by
  rw [Hw.fifoIn, List.foldl_cons, List.foldl_nil, if_neg (Nat.not_le.2 hroom)]

/-- Four bytes of a packet of 32-bit words, least significant byte first, are one word. -/
theorem eventWords_one (a b c d : Byte) : eventWords false false [a, b, c, d] = [bytesWord a b c d] := rfl

end

/-! ### Frames (10 R290, R291) -/

section
variable (h : Hw) (src : Nat)

/-- A pulse sets out for the same sinks and at the same time when another register has been written. -/
theorem fire_setReg (r : Rg) (u : Nat) (v : Word) (hr : r.page ≠ pgXBAR) : (h.setReg r u v).fire src = (h.fire src).setReg r u v := by
  have hsel (sink : Nat) : (h.setReg r u v).xbSel sink = h.xbSel sink := by
    rw [Hw.xbSel, reg_setReg_ne _ _ _ _ _ _ fun e => hr (congrArg Rg.page e.1), Hw.xbSel]
  simp only [Hw.fire, Hw.fireAt, hsel]
  rfl

theorem fire_setFlag (r : Rg) (u i : Nat) (b : Bool) (hr : r.page ≠ pgXBAR) : (h.setFlag r u i b).fire src = (h.fire src).setFlag r u i b :=
  fire_setReg _ _ _ _ _ hr

theorem fire_updCsi (k : Nat) (f : CsiSt → CsiSt) : (h.updCsi k f).fire src = (h.fire src).updCsi k f := rfl

end

section
variable {h : Hw} {k v : Nat}

/-- Packets of another channel begin and end no frame. -/
theorem frameStart_other (hvc : h.frameVc k v = false) : h.frameStart k v = h := if_neg (by simp [hvc])

theorem frameEndPkt_other (hvc : h.frameVc k v = false) : h.frameEndPkt k v = h := if_pos (.inl hvc)

section
variable (hvc : h.frameVc k v = true)
include hvc

/-- A frame begins in the active buffer and takes its time stamp. -/
theorem frameStart_taken (hfree : h.flag FR_STAT k (h.csi k).active = false) : h.frameStart k v =
    (h.updCsi k fun x => { x with hs := true, inFrame := true, dropped := false, bad := false, row := 0 }).setReg
      (if (h.csi k).active = 0 then FR_TS0 else FR_TS1) k (w32 h.dev) := by
  simp only [Hw.frameStart, hvc, hfree, if_true, Bool.false_eq_true, if_false]
  rfl

/-- While that buffer is FULL the frame is dropped. -/
theorem frameStart_dropped (hfull : h.flag FR_STAT k (h.csi k).active = true) : h.frameStart k v =
    (h.updCsi k fun x => { x with hs := true, inFrame := true, dropped := true, bad := false, row := 0 }).inc FR_DROP_CNT k := by
  simp only [Hw.frameStart, hvc, hfull, if_true]

/-- A frame in the first buffer ends: the buffer is FULL, its ERR says whether a packet failed CRC, the receiver moves to the second buffer, and
FRAME_DONE fires. -/
theorem frameEndPkt_first (hin : (h.csi k).inFrame = true) (hkept : (h.csi k).dropped = false) (hact : (h.csi k).active = 0) :
    h.frameEndPkt k v = (((((h.fire (8 + k)).updCsi k fun x => { x with inFrame := false }).setFlag FR_STAT k 0 true).setFlag FR_STAT k 2
      (h.csi k).bad).updCsi k fun x => { x with active := 1 - x.active }).setFlag FR_STAT k 4 true := by
  have hgo : ¬ (h.frameVc k v = false ∨ (h.csi k).inFrame = false) := by simp [hvc, hin]
  simp only [Hw.frameEndPkt, if_neg hgo, hkept, hact, Bool.false_eq_true, if_false, Nat.add_zero, csi_updCsi_same, csi_setFlag, Nat.sub_zero,
    decide_true]
  rw [fire_setFlag _ _ _ _ _ _ (by decide), fire_updCsi, fire_setFlag _ _ _ _ _ _ (by decide), fire_setFlag _ _ _ _ _ _ (by decide), fire_updCsi]

/-- What the end of a frame in the first buffer leaves. -/
theorem frameEndPkt_first_leaves (hin : (h.csi k).inFrame = true) (hkept : (h.csi k).dropped = false) (hact : (h.csi k).active = 0) :
    (h.frameEndPkt k v).csi k = { h.csi k with inFrame := false, active := 1 } ∧
      (h.frameEndPkt k v).reg FR_STAT k = setBits (setBits (setBits (h.reg FR_STAT k) 0 0 1) 2 2 (b2n (h.csi k).bad)) 4 4 1 ∧
      (h.frameEndPkt k v).pulses = (h.fire (8 + k)).pulses ∧
      (∀ r u, (r, u) ≠ (FR_STAT, k) → (h.frameEndPkt k v).reg r u = h.reg r u) ∧ (h.frameEndPkt k v).mem = h.mem := by
  have hcsi : (h.fire (8 + k)).csi k = h.csi k := by rw [Hw.csi, fire_csis, Hw.csi]
  have hreg (r : Rg) (u : Nat) : (h.fire (8 + k)).reg r u = h.reg r u := reg_of_regs _ _ _ _ (fire_regs ..)
  rw [frameEndPkt_first hvc hin hkept hact]
  refine ⟨?_, ?_, ?_, fun r u hne => ?_, ?_⟩
  · simp only [csi_setFlag, csi_updCsi_same, hcsi, hact]
  · simp only [reg_setFlag_same, updCsi_reg, hreg]
    rfl
  · simp only [setFlag_pulses, updCsi_pulses]
  · have hne' : ¬ (FR_STAT = r ∧ k = u) := fun e => hne (by rw [← e.1, ← e.2])
    simp only [reg_setFlag_ne _ _ _ _ _ hne', updCsi_reg, hreg]
  · simp only [setFlag_mem, updCsi_mem, fire_mem]

end
end

/-! ### The decoder (10 R287) -/

section
variable {h : Hw} {k : Nat}

theorem decodeWord_none (hf : (h.csi k).fifo = []) : h.decodeWord k = h := by simp only [Hw.decodeWord, hf]

section
variable {w : CsiWord} {l : List CsiWord} (hf : (h.csi k).fifo = w :: l)
include hf

/-- A word of no class is counted. -/
theorem decodeWord_unknown (hc : h.decClass k w.w = none) :
    h.decodeWord k = (h.updCsi k fun x => { x with fifo := l }).inc DEC_UNK_CNT k := by
  simp only [Hw.decodeWord, hf, updCsi_decClass, hc]

/-- An ADDRESS word latches the fields it has. -/
theorem decodeWord_address {i : Nat} (hc : h.decClass k w.w = some i) (hkind : h.fld (DEC_KIND i) k 2 0 = 1) : h.decodeWord k =
    (h.updCsi k fun x => { x with fifo := l }).updCsi k fun x => { x with
      y := (decField w.w (h.decDesc k i 1)).getD x.y, p := (decField w.w (h.decDesc k i 2)).getD x.p,
      tl := (decField w.w (h.decDesc k i 3)).getD x.tl } := by
  simp only [Hw.decodeWord, hf, updCsi_decClass, hc, updCsi_fld, hkind]
  rfl

end
end

end Sys2Proof.Machine
end

section
/-! SUPPORT. Raw events and merged events (10 R283, R297-R300): what the ports' lookup, the limiter and the merge leave of a raw event, and what the
offer of a merged event leaves. -/

namespace Sys2Proof.Machine

/-! ### One ingress unit updated -/

section
variable (h : Hw) (q : Nat) (f : IngSt → IngSt)

@[simp] theorem ing_updIng_same : (h.updIng q f).ing q = f (h.ing q) := Tbl.get_set_same ..
@[simp] theorem updIng_reg (r : Rg) (u : Nat) : (h.updIng q f).reg r u = h.reg r u := rfl
@[simp] theorem updIng_clusters : (h.updIng q f).clusters = h.clusters := rfl
@[simp] theorem updIng_fld (r : Rg) (u hi lo : Nat) : (h.updIng q f).fld r u hi lo = h.fld r u hi lo := rfl
@[simp] theorem updIng_en (r : Rg) (u i : Nat) : (h.updIng q f).en r u i = h.en r u i := rfl
@[simp] theorem updIng_tab (t : Tab) (u i : Nat) : (h.updIng q f).tab t u i = h.tab t u i := rfl
@[simp] theorem updIng_switching : (h.updIng q f).switching = h.switching := rfl
@[simp] theorem updIng_lim (l w : Nat) : (h.updIng q f).lim q l w = h.lim q l w := rfl
@[simp] theorem ing_inc (r : Rg) (u n : Nat) : (h.inc r u n).ing q = h.ing q := rfl
@[simp] theorem inc_lim (r : Rg) (u n l w : Nat) : (h.inc r u n).lim q l w = h.lim q l w := rfl
@[simp] theorem setLim_reg (l w : Nat) (v : Word) (r : Rg) (u : Nat) : (h.setLim q l w v).reg r u = h.reg r u := rfl
@[simp] theorem setLim_clusters (l w : Nat) (v : Word) : (h.setLim q l w v).clusters = h.clusters := rfl
@[simp] theorem ing_setLim (l w : Nat) (v : Word) : (h.setLim q l w v).ing q = h.ing q := rfl
@[simp] theorem ing_ftCount (e hi lo : Nat) : (h.ftCount q e hi lo).ing q = h.ing q := rfl
@[simp] theorem ftCount_reg (e hi lo : Nat) (r : Rg) (u : Nat) : (h.ftCount q e hi lo).reg r u = h.reg r u := rfl
@[simp] theorem ftCount_clusters (e hi lo : Nat) : (h.ftCount q e hi lo).clusters = h.clusters := rfl
@[simp] theorem ing_hwm (r : Rg) (u n : Nat) : (h.hwm r u n).ing q = h.ing q := by rw [Hw.hwm, apply_ite (Hw.ing · q)]; exact ite_self _
@[simp] theorem clusters_hwm (r : Rg) (u n : Nat) : (h.hwm r u n).clusters = h.clusters := by
  rw [Hw.hwm, apply_ite Hw.clusters]
  exact ite_self _

/-- A limiter's words are not in the flow table. -/
@[simp] theorem lim_ftCount (e hi lo l w : Nat) : (h.ftCount q e hi lo).lim q l w = h.lim q l w :=
  (tab_setTab ..).trans (if_neg fun he => nomatch he.1)

@[simp] theorem lim_setLim_same (l w : Nat) (v : Word) : (h.setLim q l w v).lim q l w = v := (tab_setTab ..).trans (if_pos ⟨rfl, rfl, rfl⟩)

/-- The counts of a flow entry are in its last word. -/
theorem tab_ftCount (e hi lo i : Nat) (hi' : i ≠ e + 65536 * 3) : (h.ftCount q e hi lo).tab .ft q i = h.tab .ft q i := by
  rw [Hw.ftCount, tab_setTab, if_neg fun he => hi' he.2.2.symm]

/-- No table error is reported. -/
@[simp] theorem ingErr_none : h.ingErr q 0 = h := rfl

end

/-! ### The raw event that comes next (10 R283, R297) -/

/-- No port has a raw event. -/
theorem ingNext_none {x : IngSt} (hraw : x.raw = []) : x.next = none := by simp [IngSt.next, hraw]

/-- The raw event is taken from its port, which was served last then. -/
def Hw.rawTaken (h : Hw) (q : Nat) (r : RawEv) : Hw := h.updIng q fun x => { x with raw := x.raw.erase r, turn := r.port }

/-- The raw event, past the limiter, is counted in the unit and in its flow entry e. -/
def Hw.rawPassed (h : Hw) (q e : Nat) (r : RawEv) : Hw := ((h.rawTaken q r).inc ING_RAW_CNT q).ftCount q e 15 0

/-- It is binned, and counted if it is late. -/
def Hw.rawBinned (h : Hw) (q e : Nat) (r : RawEv) : Hw :=
  if ((h.rawPassed q e r).binSub r.dt).2 then (h.rawPassed q e r).inc BIN_LATE_CNT else h.rawPassed q e r

/-- Limiter n has dropped a raw event. -/
def Hw.limDropped (h : Hw) (q n : Nat) : Hw :=
  ((h.setLim q n 2 (satAdd32 (h.lim q n 2) 1)).inc LIM_DROP_TOT_CNT q).updIng q fun x =>
    { x with limDrop := if n ∈ x.limDrop then x.limDrop else x.limDrop ++ [n] }

/-- An open merged event of ordinal o is marked as one that has lost a raw event. -/
def IngSt.markLost (x : IngSt) (o : Nat) : IngSt :=
  match Tbl.find x.store o with
  | some m => { x with store := Tbl.put x.store o { m with flg := m.flg ||| 2 } }
  | none => x

@[simp] theorem markLost_raw (x : IngSt) (o : Nat) : (x.markLost o).raw = x.raw := by
  unfold IngSt.markLost
  split <;> rfl

@[simp] theorem markLost_touched (x : IngSt) (o : Nat) : (x.markLost o).touched = x.touched := by
  unfold IngSt.markLost
  split <;> rfl

theorem tab_rawBinned (h : Hw) (q e : Nat) (r : RawEv) (i : Nat) (hi : i ≠ e + 65536 * 3) : (h.rawBinned q e r).tab .ft q i = h.tab .ft q i := by
  have hpassed : (h.rawPassed q e r).tab .ft q i = h.tab .ft q i := tab_ftCount _ _ _ _ _ _ hi
  have hcounted : ((h.rawPassed q e r).inc BIN_LATE_CNT).tab .ft q i = (h.rawPassed q e r).tab .ft q i := by rw [Hw.tab, inc_tabs, Hw.tab]
  rw [Hw.rawBinned, apply_ite (Hw.tab · .ft q i), hcounted, ite_self, hpassed]

/-- A limiter without a token drops the raw event (10 R298). -/
theorem limTake_empty (h : Hw) (q n : Nat) (htok : bits (h.lim q n 1) 15 0 = 0) : h.limTake q n = (h.limDropped q n, false) := by
  simp only [Hw.limTake, htok, true_or, if_true]
  rfl

section
variable {h : Hw} {q : Nat}

theorem ingest_none (hn : (h.ing q).next = none) (a b c : Nat) : h.ingest q a b c = h := by simp only [Hw.ingest, hn]

/-- The first raw event of an ordinal opens its merged event, while the touched list has room. -/
theorem mergeIn_first {o pay : Nat} (hnew : Tbl.find (h.ing q).store o = none) (hroom : (h.ing q).touched.length < 16384) (hpay : pay ≤ 0xFFFF)
    (last : Bool) (sub flg cl : Nat) : h.mergeIn q o 0 last sub pay flg cl =
      ((h.updIng q fun x => { x with touched := x.touched ++ [o] }).updIng q fun x => { x with store := Tbl.put x.store o ⟨pay, sub, flg, cl⟩ }).hwm
        TOUCH_HWM q ((h.ing q).touched ++ [o]).length := by
  simp [Hw.mergeIn, hnew, Nat.not_le.2 hroom, Nat.not_lt.2 hpay, min_eq_left hpay]

/-- While no step runs every raw event is late. -/
theorem binSub_idle (hph : h.step.phase = .idle) (dt : Int) : h.binSub dt = (0, true) := if_pos (.inl hph)

section
variable {r : RawEv} (hn : (h.ing q).next = some r)
include hn

/-- A raw event of a disabled port, in a switch, or past its port's limit is a miss. -/
theorem ingest_miss (hmiss : h.en (PORT r.port) q 31 = false ∨ h.switching = true ∨ h.fld (PORT_LIM r.port) q 23 0 ≤ r.id) (a b c : Nat) :
    h.ingest q a b c = (h.rawTaken q r).inc FT_MISS_CNT q := by
  simp only [Hw.ingest, hn]
  refine if_pos ?_
  obtain hen | hsw | hlim := hmiss
  · exact .inl hen
  · exact .inr (.inl hsw)
  · exact .inr (.inr (.inl hlim))

/-! ### Port lookup, limiter and merge (10 R297-R299) -/

section
variable {e o : Nat} {w : Word} (hen : h.en (PORT r.port) q 31 = true) (hsw : h.switching = false) (hlim : r.id < h.fld (PORT_LIM r.port) q 23 0)
  (hgroup : bits (h.reg (PORT r.port) q) 20 16 = 0) (he : e = bits (h.reg (PORT r.port) q) 15 0 + r.id) (hlast : e < 65536)
  (hw : w = h.tab .ft q e) (hkind : bits w 31 30 = 2) (ho : o = bits (h.tab .ft q (e + 65536)) 17 0)
include hen hsw hlim hgroup he hlast hw hkind ho

/-- A raw event whose flow entry names no limiter is merged. -/
theorem ingest_passed (hfree : bit w 15 = false) : h.ingest q 0 0 0 =
    (h.rawBinned q e r).mergeIn q o (bits (h.tab .ft q (e + 65536 * 2)) 15 0) (bit w 28) ((h.rawPassed q e r).binSub r.dt).1 r.pay
      (r.flags % 2 + 8 * b2n (bit w 27)) (portCluster q r.port) := by
  obtain ⟨h31, h30⟩ := bit_of_layoutL hkind
  have hord : ¬ 0x3FFFF < o := by have := bits_lt (h.tab .ft q (e + 65536)) 17 0; omega
  rw [← tab_rawBinned h q e r (e + 65536 * 2) (by omega)]
  simp [Hw.ingest, hn, hgroup, ← he, Nat.not_le.2 hlast, hen, hsw, Nat.not_le.2 hlim, ← hw, h31, h30, ← ho, hord, hfree]
  rfl

/-- While no step runs, the first raw event of an ordinal is late and opens its merged event. -/
theorem ingest_merged (hfree : bit w 15 = false) (hpmax : bits (h.tab .ft q (e + 65536 * 2)) 15 0 = 0) (hph : h.step.phase = .idle)
    (hnew : Tbl.find (h.ing q).store o = none) (hroom : (h.ing q).touched.length < 16384) (hpay : r.pay ≤ 0xFFFF) :
    h.ingest q 0 0 0 = ((((h.rawPassed q e r).inc BIN_LATE_CNT).updIng q fun x => { x with touched := x.touched ++ [o] }).updIng q fun x =>
      { x with store := Tbl.put x.store o ⟨r.pay, 0, r.flags % 2 + 8 * b2n (bit w 27), portCluster q r.port⟩ }).hwm TOUCH_HWM q
        ((h.ing q).touched ++ [o]).length := by
  have hlate : (h.rawPassed q e r).binSub r.dt = (0, true) := binSub_idle (h := h.rawPassed q e r) hph _
  have hbinned : h.rawBinned q e r = (h.rawPassed q e r).inc BIN_LATE_CNT := by rw [Hw.rawBinned, hlate, if_pos rfl]
  have hing : ((h.rawPassed q e r).inc BIN_LATE_CNT).ing q = { h.ing q with raw := (h.ing q).raw.erase r, turn := r.port } := by
    simp [Hw.rawPassed, Hw.rawTaken]
  rw [ingest_passed hn hen hsw hlim hgroup he hlast hw hkind ho hfree, hbinned, hlate, hpmax, mergeIn_first _ _ hpay, hing]
  · rw [hing]
    exact hnew
  · rw [hing]
    exact hroom

/-- What is left of it: the unit's touched list and store, and the counts. -/
theorem ingest_merged_leaves (hfree : bit w 15 = false) (hpmax : bits (h.tab .ft q (e + 65536 * 2)) 15 0 = 0) (hph : h.step.phase = .idle)
    (hnew : Tbl.find (h.ing q).store o = none) (hroom : (h.ing q).touched.length < 16384) (hpay : r.pay ≤ 0xFFFF) :
    ((h.ingest q 0 0 0).ing q).raw = (h.ing q).raw.erase r ∧ ((h.ingest q 0 0 0).ing q).touched = (h.ing q).touched ++ [o] ∧
      Tbl.find ((h.ingest q 0 0 0).ing q).store o = some ⟨r.pay, 0, r.flags % 2 + 8 * b2n (bit w 27), portCluster q r.port⟩ ∧
      (h.ingest q 0 0 0).reg ING_RAW_CNT q = satAdd32 (h.reg ING_RAW_CNT q) 1 ∧
      (h.ingest q 0 0 0).reg BIN_LATE_CNT = satAdd32 (h.reg BIN_LATE_CNT) 1 ∧
      ((h.ingest q 0 0 0).ing q).offers = (h.ing q).offers ∧ (h.ingest q 0 0 0).clusters = h.clusters := by
  rw [ingest_merged hn hen hsw hlim hgroup he hlast hw hkind ho hfree hpmax hph hnew hroom hpay]
  refine ⟨?_, ?_, ?_, ?_, ?_, ?_, ?_⟩
  · simp [Hw.rawPassed, Hw.rawTaken]
  · simp [Hw.rawPassed, Hw.rawTaken]
  · simp [Tbl.find_put]
  · rw [hwm_reg_ne _ _ _ _ _ _ (by decide), updIng_reg, updIng_reg, reg_inc_ne _ _ _ _ _ _ fun e => absurd e.1 (by decide), Hw.rawPassed,
      ftCount_reg, reg_inc_same, Hw.rawTaken, updIng_reg]
  · rw [hwm_reg_ne _ _ _ _ _ _ (by decide), updIng_reg, updIng_reg, reg_inc_same, Hw.rawPassed, ftCount_reg,
      reg_inc_ne _ _ _ _ _ _ fun e => absurd e.1 (by decide), Hw.rawTaken, updIng_reg]
  · simp [Hw.rawPassed, Hw.rawTaken]
  · simp [Hw.rawPassed, Hw.rawTaken]

/-- One whose limiter has no token is dropped: its entry and its open merged event note it. -/
theorem ingest_limited (hlimited : bit w 15 = true) {n : Nat} (hn' : n = bits w 25 16) (htok : bits (h.lim q n 1) 15 0 = 0) :
    h.ingest q 0 0 0 = (((h.rawTaken q r).limDropped q n).ftCount q e 31 16).updIng q (·.markLost o) := by
  obtain ⟨h31, h30⟩ := bit_of_layoutL hkind
  have hord : ¬ 0x3FFFF < o := by have := bits_lt (h.tab .ft q (e + 65536)) 17 0; omega
  have htake : (h.rawTaken q r).limTake q n = ((h.rawTaken q r).limDropped q n, false) := limTake_empty _ _ _ htok
  rw [Hw.rawTaken] at htake
  simp [Hw.ingest, hn, hgroup, ← he, Nat.not_le.2 hlast, hen, hsw, Nat.not_le.2 hlim, ← hw, h31, h30, ← ho, hord, hlimited, ← hn', htake]
  rfl

/-- What is left of it: the counts of the unit and of its limiter, and nothing merged. -/
theorem ingest_limited_leaves (hlimited : bit w 15 = true) {n : Nat} (hn' : n = bits w 25 16) (htok : bits (h.lim q n 1) 15 0 = 0) :
    ((h.ingest q 0 0 0).ing q).raw = (h.ing q).raw.erase r ∧ ((h.ingest q 0 0 0).ing q).touched = (h.ing q).touched ∧
      (h.ingest q 0 0 0).reg LIM_DROP_TOT_CNT q = satAdd32 (h.reg LIM_DROP_TOT_CNT q) 1 ∧
      (h.ingest q 0 0 0).lim q n 2 = satAdd32 (h.lim q n 2) 1 ∧ (h.ingest q 0 0 0).reg ING_RAW_CNT q = h.reg ING_RAW_CNT q ∧
      (h.ingest q 0 0 0).clusters = h.clusters := by
  rw [ingest_limited hn hen hsw hlim hgroup he hlast hw hkind ho hlimited hn' htok]
  refine ⟨?_, ?_, ?_, ?_, ?_, ?_⟩
  · simp [Hw.limDropped, Hw.rawTaken]
  · simp [Hw.limDropped, Hw.rawTaken]
  · simp [Hw.limDropped, Hw.rawTaken]
  · simp [Hw.limDropped, Hw.rawTaken]
  · rw [updIng_reg, ftCount_reg, Hw.limDropped, updIng_reg, reg_inc_ne _ _ _ _ _ _ fun e => absurd e.1 (by decide), setLim_reg, Hw.rawTaken,
      updIng_reg]
  · simp [Hw.limDropped, Hw.rawTaken]

end
end

/-! ### Merged events (10 R300) -/

theorem ingOffer_none (ho : (h.ing q).offers = []) (err : Nat) : h.ingOffer q err = h := by simp only [Hw.ingOffer, ho]

/-- A merged event whose port has room and whose injection stage is open is offered. -/
theorem ingOffer_taken {o : Nat} {m : Merged} {l : List (Nat × Merged)} (ho : (h.ing q).offers = (o, m) :: l) (hopen : h.offerRefused m.cl = false)
    (hroom : (h.cl m.cl).port.length < portDepth) : h.ingOffer q 0 =
      ((h.updIng q fun x => { x with offers := l }).portIn m.cl 32 ⟨h.flowAddr o, evLow m.sub m.pay m.flg⟩).inc ING_OFFER_CNT q := by
  simp only [Hw.ingOffer, ho, hopen, Nat.not_le.2 hroom, ingErr_none, Bool.false_eq_true, if_false]
  rfl

end

end Sys2Proof.Machine
end

section
/-! SUPPORT. Polls of the sensor buses and conversions of the ADC (10 R292-R294): what the start and the end of a transaction and the end of a conversion
leave, and the statement on sensor ingress. -/

namespace Sys2Proof.Machine

/-! ### One bus updated -/

section
variable (h : Hw) (b : Nat) (f : BusSt → BusSt)

@[simp] theorem bus_updBus_same : (h.updBus b f).bus b = f (h.bus b) := Tbl.get_set_same ..
@[simp] theorem updBus_dev : (h.updBus b f).dev = h.dev := rfl
@[simp] theorem bus_inc (r : Rg) (u n a : Nat) : (h.inc r u n).bus a = h.bus a := rfl
theorem updBus_inc (r : Rg) (u n : Nat) : (h.inc r u n).updBus b f = (h.updBus b f).inc r u n := rfl
@[simp] theorem updBus_ings : (h.updBus b f).ings = h.ings := rfl
@[simp] theorem updBus_reg (r : Rg) (u : Nat) : (h.updBus b f).reg r u = h.reg r u := rfl
@[simp] theorem updBus_poll (a d w : Nat) : (h.updBus b f).poll a d w = h.poll a d w := rfl
@[simp] theorem inc_poll (r : Rg) (u n a d w : Nat) : (h.inc r u n).poll a d w = h.poll a d w := rfl
@[simp] theorem bus_setTab (t : Tab) (u i : Nat) (v : Word) (a : Nat) : (h.setTab t u i v).bus a = h.bus a := rfl

end

/-! ### Time that does not pass -/

/-- The present instant is reached already. -/
theorem advTo_now (h : Hw) : h.advTo h.dev = h := if_neg (by simp)

/-- Counting nothing changes no register. -/
theorem inc_nothing_reg (h : Hw) (r r' : Rg) (u u' : Nat) : (h.inc r u 0).reg r' u' = h.reg r' u' := by
  have hsat : satAdd32 (h.reg r u) 0 = h.reg r u := by
    have hlt := (h.reg r u).isLt
    rw [satAdd32, Nat.add_zero, min_eq_left (by omega), w32, BitVec.ofNat_toNat, BitVec.setWidth_eq]
  rw [Hw.inc, hsat, reg_setReg]
  split
  · rename_i hr
    rw [hr.1, hr.2]
  · rfl

theorem Hw.Now.incNothing {h g t : Hw} {l : List ((Rg × Nat) × Word)} (n : h.Now g l t) (r : Rg) (u : Nat) : h.Now g l (t.inc r u 0) :=
  ⟨n.1, fun r' u' => (inc_nothing_reg t r r' u u').trans (n.2 r' u')⟩

/-! ### Polls (10 R292) -/

section
variable {h : Hw} {b d : Nat}

/-- A descriptor that is disabled, or on a disabled bus, is due no more. -/
theorem pollStart_off (hoff : h.pollOn b d = false) :
    h.pollStart b d = h.updBus b fun x => { x with waits := Tbl.del x.waits d, next := Tbl.del x.next d } := if_pos hoff

section
variable (hon : h.pollOn b d = true) (hnext : Tbl.find (h.bus b).next d = none)
include hon hnext

/-- A descriptor's first PERIOD expires on a free bus: its transaction starts. -/
theorem pollStart_free (hfree : (h.bus b).running = none) : h.pollStart b d =
    (h.updBus b fun x => { x with next := Tbl.put x.next d (h.dev + h.pollPeriod b d) }).pollRun b d := by
  simp [Hw.pollStart, hon, hnext, advTo_now, hfree]

/-- On a bus with a transaction it waits. -/
theorem pollStart_busy (hbusy : (h.bus b).running ≠ none) (hwaits : Tbl.find (h.bus b).waits d = none) : h.pollStart b d =
    (h.updBus b fun x => { x with next := Tbl.put x.next d (h.dev + h.pollPeriod b d) }).updBus b
      fun x => { x with waits := Tbl.put x.waits d h.dev } := by
  simp [Hw.pollStart, hon, hnext, advTo_now, hbusy, hwaits]

end

/-- A bus on which nothing waits starts nothing. -/
theorem pollNext_idle (hw : (h.bus b).waits = []) : h.pollNext b = (h.updBus b fun x => { x with waits := [] }).inc POLL_SKIP_CNT 0 0 := by
  rw [← updBus_inc]
  simp [Hw.pollNext, hw]

theorem pollComplete_none (hr : (h.bus b).running = none) (bytes : List Byte) (err : Bool) : h.pollComplete b bytes err = h := by
  simp only [Hw.pollComplete, hr]

section
variable (hr : (h.bus b).running = some d) (hw : (h.bus b).waits = [])
include hr hw

/-- A transaction that fails is counted. -/
theorem pollComplete_failed (bytes : List Byte) : h.pollComplete b bytes true =
    (((h.updBus b fun x => { x with running := none }).updBus b fun x => { x with waits := [] }).inc POLL_ERR_CNT).inc POLL_SKIP_CNT 0 0 := by
  simp only [Hw.pollComplete, hr, if_true]
  rw [pollNext_idle (by rw [bus_inc, bus_updBus_same]; exact hw), updBus_inc]

/-- The bytes that a transaction read are a sample. -/
theorem pollComplete_read (bytes : List Byte) {g : Hw} (hg : (h.updBus b fun x => { x with running := none }).pollSample b d bytes = g)
    (hbus : g.bus b = { h.bus b with running := none }) : h.pollComplete b bytes false =
      (g.updBus b fun x => { x with waits := [] }).inc POLL_SKIP_CNT 0 0 := by
  simp only [Hw.pollComplete, hr, Bool.false_eq_true, if_false, hg]
  exact pollNext_idle (by rw [hbus]; exact hw)

end

/-- A sample of a source that no encoder takes changes nothing (10 R294). -/
theorem sample_unheard (src : Nat) (x : Int) (hsrc : ∀ c, c < 32 → bits (h.lce c 0) 6 0 ≠ src) : h.sample src x = h :=
  foldl_unmoved fun c hc => if_neg (hsrc c (List.mem_range.1 hc))

/-- A field at bit 0, 16 bits wide and not signed, by the parts of its descriptor. -/
theorem pollField_whole {w : Word} (hfield : bits w 11 0 = 16 * 32) : bits w 4 0 = 0 ∧ bits w 10 5 = 16 ∧ bit w 11 = false := by
  have hsign : (bits w 11 0).testBit 11 = bit w 11 := by simp [testBit_bits]
  refine ⟨?_, ?_, by rw [← hsign, hfield]; rfl⟩
  all_goals
    simp only [bits, Nat.shiftRight_eq_div_pow, Nat.reduceAdd, Nat.reduceSub, Nat.reducePow, Nat.reduceMul] at hfield ⊢
    omega

/-- A descriptor of two bytes whose sample is all their bits stores them, most significant first. -/
theorem pollSample_word (x y : Byte) (hlen : bits (h.poll b d 0) 30 28 = 2) (hfield : bits (h.poll b d 2) 11 0 = 16 * 32)
    (hsrc : ∀ c, c < 32 → bits (h.lce c 0) 6 0 ≠ 0x10 + 8 * b + d) :
    h.pollSample b d [x, y] = h.setTab .poll 0 (d + 16 * b + 256 * 3) (w32 (x.toNat * 256 + y.toNat)) := by
  obtain ⟨hpos, hwidth, hsign⟩ := pollField_whole hfield
  have hread : beNat ([x, y].take (h.pollLen b d)) = x.toNat * 256 + y.toNat := by simp [Hw.pollLen, hlen, beNat]
  have hfits : x.toNat * 256 + y.toNat < 2 ^ 16 := by
    have hx := x.isLt
    have hy := y.isLt
    omega
  have hunheard (v : Word) : ∀ c, c < 32 → bits ((h.setTab .poll 0 (d + 16 * b + 256 * 3) v).lce c 0) 6 0 ≠ 0x10 + 8 * b + d := fun c hc => by
    rw [Hw.lce, tab_setTab, if_neg fun e => nomatch e.1]
    exact hsrc c hc
  have hwhole : (x.toNat * 256 + y.toNat) / 2 ^ 0 % 2 ^ min 32 16 = x.toNat * 256 + y.toNat := by
    rw [pow_zero, Nat.div_one]
    exact Nat.mod_eq_of_lt hfits
  have hword : wInt ((x.toNat * 256 + y.toNat : Nat) : Int) = w32 (x.toNat * 256 + y.toNat) := BitVec.ofInt_natCast ..
  simp only [Hw.pollSample, hread, hpos, hwidth, hsign, hwhole, Bool.false_eq_true, false_and, if_false, hword, sample_unheard _ _ (hunheard _)]

/-- The end of a transaction that read such a descriptor stores the sample and frees the bus. -/
theorem pollComplete_word (hr : (h.bus b).running = some d) (hw : (h.bus b).waits = []) (x y : Byte) (hlen : bits (h.poll b d 0) 30 28 = 2)
    (hfield : bits (h.poll b d 2) 11 0 = 16 * 32) (hsrc : ∀ c, c < 32 → bits (h.lce c 0) 6 0 ≠ 0x10 + 8 * b + d) :
    (h.pollComplete b [x, y] false).poll b d 3 = w32 (x.toNat * 256 + y.toNat) ∧ ((h.pollComplete b [x, y] false).bus b).running = none ∧
      (∀ r u, (h.pollComplete b [x, y] false).reg r u = h.reg r u) ∧ (h.pollComplete b [x, y] false).ings = h.ings := by
  have hsample := pollSample_word (h := h.updBus b fun x => { x with running := none }) x y hlen hfield hsrc
  rw [pollComplete_read hr hw [x, y] hsample (by rw [bus_setTab, bus_updBus_same])]
  refine ⟨?_, ?_, fun r u => ?_, ?_⟩
  · rw [inc_poll, updBus_poll]
    exact (tab_setTab ..).trans (if_pos ⟨rfl, rfl, rfl⟩)
  · rw [bus_inc, bus_updBus_same, bus_setTab, bus_updBus_same]
  · rw [inc_nothing_reg, updBus_reg, reg_of_regs _ _ _ _ (setTab_regs ..), updBus_reg]
  · rw [inc_ings, updBus_ings, setTab_ings, updBus_ings]

end

/-! ### Conversions (10 R293) -/

theorem adcEnd_none {h : Hw} (hn : h.adcNext = none) (v : Nat) : h.adcEnd v = h := by simp only [Hw.adcEnd, hn]

/-- Where no wait is counted, a conversion takes time and nothing else. -/
theorem adcTake_eq (h : Hw) (hw : h.waits = []) : h.adcTake = { h with dev := h.adcTake.dev, ptp := h.adcTake.ptp, adcAt := h.adcTake.adcAt } := by
  obtain ⟨d, p, ht⟩ := advTo_of_noWaits h (h.adcAt + us) hw
  rw [Hw.adcTake, ht]

/-- The end of a conversion writes its channel and fires its trigger; no encoder takes the sample. -/
theorem adcEnd_slot {h : Hw} {i c : Nat} (v : BitVec 12) (hn : h.adcNext = some i) (hc : c = h.fld ADC_SEQ 0 (4 * i + 2) (4 * i))
    (hsrc : ∀ n, n < 32 → bits (h.lce n 0) 6 0 ≠ c) (hw : h.waits = []) : h.adcEnd v.toNat =
      (({ h.adcTake with adcSlot := (i + 1) % 8 } : Hw).fire (192 + c)).setReg (ADC_VAL c) 0 (w32 v.toNat) := by
  have hregs : h.adcTake.regs = h.regs := by rw [adcTake_eq h hw]
  have htabs : h.adcTake.tabs = h.tabs := by rw [adcTake_eq h hw]
  have hchan : h.adcTake.fld ADC_SEQ 0 (4 * i + 2) (4 * i) = c := by rw [Hw.fld, reg_of_regs _ _ _ _ hregs, hc, Hw.fld]
  have hsample : v.toNat % 4096 = v.toNat := Nat.mod_eq_of_lt v.isLt
  simp only [Hw.adcEnd, hn, hchan, hsample]
  rw [fire_setReg _ _ _ _ _ (show (ADC_VAL c).page ≠ pgXBAR by simp [ADC_VAL])]
  refine sample_unheard _ _ fun n hn' => ?_
  rw [Hw.lce, Hw.tab, setReg_tabs, fire_tabs]
  exact htabs ▸ hsrc n hn'

/-! ### The statement -/

/-- Settles O56: each command is its operation, whose lemma under the clause's conditions gives the block that it leaves. -/
theorem sensorIngress : Obligations.SensorIngress := by
  refine ⟨?ulps, ?off, ?header, ?type, ?crc, ?word, ?begun, ?dropped, ?other, ?ended, ?noWord, ?unknown, ?address, ?noRaw, ?miss, ?merged, ?limited,
    ?offered, ?noOffer, ?pollFree, ?pollBusy, ?pollOff, ?pollFailed, ?pollRead, ?noPoll, ?converted, ?noSlot⟩
  case ulps =>
    exact fun s k hp => ⟨answers_onHw (f := fun h => h.updCsi k fun x => { x with ulps := true }) rfl hp rfl,
      answers_onHw (f := fun h => h.updCsi k fun x => { x with ulps := false }) rfl hp rfl⟩
  case off => exact fun s k p hoff => ignored_of_same (f := fun h => h.csiPacket k p) rfl (csiPacket_off hoff)
  case header =>
    intro s k p hp hon herr
    refine answers_onHw (f := fun h => h.csiPacket k p) rfl hp ?_
    rw [csiPacket_badHeader hon herr]
    exact .one _ _ rfl _ _ _
  case type =>
    intro s k p hp hon herr hlong hdt hvc hty
    refine answers_onHw (f := fun h => h.csiPacket k p) rfl hp ?_
    rw [csiPacket_wrongType hon herr hlong hdt hvc hty]
    exact .one _ _ rfl _ _ _
  case crc =>
    intro s k p hp hon herr hlong hdt hvc hty hcrc
    refine answers_onHw (f := fun h => h.csiPacket k p) rfl hp ?_
    rw [csiPacket_badCrc hon herr hlong hdt hvc hty hcrc]
    exact .one _ _ rfl _ _ _
  case word =>
    intro s k p a b c d hp hon herr hlong hdt hvc hty hcrc hpay hcfg hroom
    refine answers_onHw (f := fun h => h.csiPacket k p) rfl hp ?_
    have hw16 : s.hw.flag DEC_CFG k 0 = false := bit_of_bits_zero hcfg (by omega) (by omega)
    have hbe : s.hw.flag DEC_CFG k 1 = false := bit_of_bits_zero hcfg (by omega) (by omega)
    have hwhole : p.payload.length % s.hw.evBytes k = 0 := by simp [hpay, Hw.evBytes, hw16]
    have hcsi : (s.hw.csiHs k).csi k = { s.hw.csi k with hs := true } := csi_updCsi_same ..
    rw [csiPacket_words hon herr hlong hdt hvc hty hcrc hwhole, hw16, hbe, hpay, eventWords_one, fifoIn_room _ _ (by rw [hcsi]; exact hroom)]
    exact ⟨by rw [csi_updCsi_same, hcsi]; rfl, rfl, rfl⟩
  case begun =>
    intro s k v a hp hvc ha _ hfree
    refine answers_onHw (f := fun h => h.frameStart k v) rfl hp ?_
    subst ha
    rw [frameStart_taken hvc hfree]
    exact .one _ _ rfl _ _ _
  case dropped =>
    intro s k v hp hvc hfull
    refine answers_onHw (f := fun h => h.frameStart k v) rfl hp ?_
    rw [frameStart_dropped hvc hfull]
    exact .one _ _ rfl _ _ _
  case other =>
    exact fun s k v hvc => ⟨ignored_of_same (f := fun h => h.frameStart k v) rfl (frameStart_other hvc),
      ignored_of_same (f := fun h => h.frameEndPkt k v) rfl (frameEndPkt_other hvc)⟩
  case ended =>
    intro s k v hp hvc hin hkept hact
    exact answers_onHw (f := fun h => h.frameEndPkt k v) rfl hp (frameEndPkt_first_leaves hvc hin hkept hact)
  case noWord => exact fun s k hf => ignored_of_same (f := fun h => h.decodeWord k) rfl (decodeWord_none hf)
  case unknown =>
    intro s k w l hp hf hc
    refine answers_onHw (f := fun h => h.decodeWord k) rfl hp ?_
    rw [decodeWord_unknown hf hc]
    exact .one _ _ rfl _ _ _
  case address =>
    intro s k w l i hp hf hc hkind
    refine answers_onHw (f := fun h => h.decodeWord k) rfl hp ?_
    rw [decodeWord_address hf hc hkind]
    exact ⟨by rw [csi_updCsi_same, csi_updCsi_same], .intro _ _ rfl⟩
  case noRaw => exact fun s q a b c hraw => ignored_of_same (f := fun h => h.ingest q a b c) rfl (ingest_none (ingNext_none hraw) a b c)
  case miss =>
    intro s q a b c r hp hn hmiss
    refine answers_onHw (f := fun h => h.ingest q a b c) rfl hp ?_
    rw [ingest_miss hn hmiss]
    exact .one _ _ rfl _ _ _
  case merged =>
    intro s q r e o w hp hn hen hsw hlim hgroup he hlast hw hkind hfree _ ho hpmax hph hnew hroom hpay
    exact answers_onHw (f := fun h => h.ingest q 0 0 0) rfl hp
      (ingest_merged_leaves hn hen hsw hlim hgroup he hlast hw hkind ho hfree hpmax hph hnew hroom hpay)
  case limited =>
    intro s q r e n w hp hn hen hsw hlim hgroup he hlast hw hkind hlimited hn' htok
    exact answers_onHw (f := fun h => h.ingest q 0 0 0) rfl hp
      (ingest_limited_leaves hn hen hsw hlim hgroup he hlast hw hkind rfl hlimited hn' htok)
  case offered =>
    intro s q o m l hp ho hopen hroom
    refine answers_onHw (f := fun h => h.ingOffer q 0) rfl hp ?_
    rw [ingOffer_taken ho hopen hroom]
    exact .one _ _ rfl _ _ _
  case noOffer => exact fun s q err ho => ignored_of_same (f := fun h => h.ingOffer q err) rfl (ingOffer_none ho err)
  case pollFree =>
    intro s b d hp hd hb hfree hnext
    refine answers_onHw (f := fun h => h.pollStart b d) rfl hp ?_
    exact pollStart_free (by rw [Hw.pollOn, hd, hb]; rfl) hnext hfree
  case pollBusy =>
    intro s b d hp hd hb hbusy hnext hwaits
    refine answers_onHw (f := fun h => h.pollStart b d) rfl hp ?_
    exact pollStart_busy (by rw [Hw.pollOn, hd, hb]; rfl) hnext hbusy hwaits
  case pollOff =>
    intro s b d hp hoff
    refine answers_onHw (f := fun h => h.pollStart b d) rfl hp ?_
    exact pollStart_off (by rw [Hw.pollOn, Bool.and_eq_false_iff]; exact hoff)
  case pollFailed =>
    intro s b d l hp hr hw
    refine answers_onHw (f := fun h => h.pollComplete b l true) rfl hp ?_
    rw [pollComplete_failed hr hw]
    exact (Hw.Now.one _ _ rfl _ _ _).incNothing _ _
  case pollRead =>
    intro s b d x y hp hr hw hlen hfield hsrc
    exact answers_onHw (f := fun h => h.pollComplete b [x, y] false) rfl hp (pollComplete_word hr hw x y hlen hfield hsrc)
  case noPoll => exact fun s b l err hr => ignored_of_same (f := fun h => h.pollComplete b l err) rfl (pollComplete_none hr l err)
  case converted =>
    intro s v i c hp hn hc hsrc hw
    refine answers_onHw (f := fun h => h.adcEnd v.toNat) rfl hp ?_
    rw [adcEnd_slot v hn hc hsrc hw]
    exact .one _ _ (by rw [fire_regs, adcTake_eq _ hw]) _ _ _
  case noSlot => exact fun s v hn => ignored_of_same (f := fun h => h.adcEnd v.toNat) rfl (adcEnd_none hn v.toNat)

end Sys2Proof.Machine
end

section
/-! SUPPORT. Fuse blows and debugger requests (11 R320, 16 R446, R454, 18 R490, R494): what the end of a blow and a request for one leave, and the
statement on them. -/

namespace Sys2Proof.Machine

/-! ### Registers -/

/-- A field of a register that is written after another register. -/
theorem setFld_setReg (h : Hw) {r r' : Rg} (hr : r ≠ r') (u u' hi lo n : Nat) (v : Word) :
    (h.setReg r u v).setFld r' u' hi lo n = (h.setReg r u v).setReg r' u' (setBits (h.reg r' u') hi lo n) := by
  rw [Hw.setFld, reg_setReg_ne _ _ _ _ _ _ fun e => hr e.1]

/-! ### Fuse blows (16 R454, 18 R494) -/

/-- The blow in progress is over, and the next one that was asked for is in progress. -/
def Hw.blowNext (h : Hw) : Hw := h.updPkg fun p => { p with blow := p.blowMsgs.head?, blowMsgs := p.blowMsgs.drop 1 }

section
variable {h : Hw}

theorem fuseBlown_none (hb : h.pkg.blow = none) (ok : Bool) : h.fuseBlown ok = h := by simp only [Hw.fuseBlown, hb]

/-- A blow of a fuse flag that verifies sets the flag and ends every debug halt. -/
theorem fuseBlown_flag {sel : Nat} (hb : h.pkg.blow = some sel) (hsel : sel = 1 ∨ sel = 2) : h.fuseBlown true =
    (({ h.blowNext with mpHalted := 0#32 } : Hw).setReg FUSE_STAT 0 (setBits (h.reg FUSE_STAT) 1 1 0)).setReg FUSE_FLAGS 0
      (setBits (h.reg FUSE_FLAGS) (sel - 1) (sel - 1) 1) := by
  have hflag := setFld_setReg { h.blowNext with mpHalted := 0#32 } (show FUSE_STAT ≠ FUSE_FLAGS by decide) 0 0 (sel - 1) (sel - 1) 1
    (setBits (h.reg FUSE_STAT) 1 1 0)
  refine Eq.trans ?_ hflag
  obtain rfl | rfl := hsel <;> simp only [Hw.fuseBlown, hb] <;> rfl

/-- One of the anti-rollback fuses raises the count. -/
theorem fuseBlown_count (hb : h.pkg.blow = some 3) : h.fuseBlown true =
    (h.blowNext.setReg FUSE_STAT 0 (setBits (h.reg FUSE_STAT) 1 1 0)).setReg LIC_AR_CNT 0
      (setBits (h.reg LIC_AR_CNT) 6 0 (min 64 (h.fld LIC_AR_CNT 0 6 0 + 1))) := by
  have hkeeps : (h.setFlag FUSE_STAT 0 1 false).fld LIC_AR_CNT 0 6 0 = h.fld LIC_AR_CNT 0 6 0 :=
    congrArg (bits · 6 0) (reg_setFlag_ne _ _ _ _ _ (by decide))
  have hcount := setFld_setReg h.blowNext (show FUSE_STAT ≠ LIC_AR_CNT by decide) 0 0 6 0 (min 64 (h.fld LIC_AR_CNT 0 6 0 + 1))
    (setBits (h.reg FUSE_STAT) 1 1 0)
  refine Eq.trans ?_ hcount
  rw [← hkeeps]
  simp only [Hw.fuseBlown, hb]
  rfl

/-- A blow that does not verify is reported and does nothing else. -/
theorem fuseBlown_failed {sel : Nat} (hb : h.pkg.blow = some sel) : h.fuseBlown false = h.blowNext.setFlag FUSE_STAT 0 1 true := by
  simp only [Hw.fuseBlown, hb]
  rfl

/-- With no blow in progress a request starts one. -/
theorem fuseAsk_free {sel : Nat} (hsel : sel ≠ 0) (hb : h.pkg.blow = none) : h.fuseAsk sel = h.updPkg fun p => { p with blow := some sel } := by
  rw [Hw.fuseAsk, if_neg hsel, if_pos hb]

/-- While one is in progress it waits. -/
theorem fuseAsk_busy {sel b : Nat} (hsel : sel ≠ 0) (hb : h.pkg.blow = some b) :
    h.fuseAsk sel = h.updPkg fun p => { p with blowMsgs := p.blowMsgs ++ [sel] } := by
  rw [Hw.fuseAsk, if_neg hsel, if_neg (by simp [hb])]

/-! ### Debugger requests (18 R490) -/

theorem debugHalt_closed (hc : h.debugClosed = true) (m : Nat) : h.debugHalt m = h := if_pos hc

theorem debugHalt_open (hc : h.debugClosed = false) (m : Nat) : h.debugHalt m =
    { h.updPkg fun p => { p with attached := true } with mpHalted := setBit h.mpHalted m true } := if_neg (by simp [hc])

end

/-! ### The statement -/

/-- Settles O42: the end of a blow is what its fuse and its verdict make of it, once FUSE_STAT tells the verdict; the rest is one field each. -/
theorem fuseAndDebugEvents : Obligations.FuseAndDebugEvents := by
  refine ⟨?flag, ?count, ?failed, ?noBlow, ?starts, ?waits, ?halts, ?refused, ?resumes⟩
  case flag =>
    intro s sel hp hb hsel
    refine answers_onHw (f := fun h => h.fuseBlown true) rfl hp ?_
    rw [fuseBlown_flag hb hsel]
    exact (Hw.Now.one s.hw { s.hw.blowNext with mpHalted := 0#32 } rfl _ _ _).set FUSE_FLAGS 0 _
  case count =>
    intro s hp hb
    refine answers_onHw (f := fun h => h.fuseBlown true) rfl hp ?_
    rw [fuseBlown_count hb]
    exact (Hw.Now.one s.hw s.hw.blowNext rfl _ _ _).set LIC_AR_CNT 0 _
  case failed =>
    intro s sel hp hb
    refine answers_onHw (f := fun h => h.fuseBlown false) rfl hp ?_
    rw [fuseBlown_failed hb]
    exact .one _ _ rfl _ _ _
  case noBlow => exact fun s ok hb => ignored_of_same (f := fun h => h.fuseBlown ok) rfl (fuseBlown_none hb ok)
  case starts =>
    intro s sel hp hsel hb
    refine answers_onHw (f := fun h => h.fuseAsk sel) rfl hp ?_
    rw [fuseAsk_free (Fin.val_ne_of_ne hsel) hb]
    exact .intro _ _ rfl
  case waits =>
    intro s sel b hp hsel hb
    refine answers_onHw (f := fun h => h.fuseAsk sel) rfl hp ?_
    rw [fuseAsk_busy (Fin.val_ne_of_ne hsel) hb]
    exact .intro _ _ rfl
  case halts =>
    intro s m hp hc
    refine answers_onHw (f := fun h => h.debugHalt m) rfl hp ?_
    rw [debugHalt_open hc]
    exact .intro _ _ rfl
  case refused => exact fun s m hc => ignored_of_same (f := fun h => h.debugHalt m) rfl (debugHalt_closed hc m)
  case resumes =>
    exact fun s m hp => answers_onHw (f := fun h => { h with mpHalted := setBit h.mpHalted m false }) rfl hp (.intro _ _ rfl)

end Sys2Proof.Machine
end
section
/-! SUPPORT. Ticks of the timers (11 R312-R315, R321, R322, R326): pulses that arrive, the block that takes a tick, and what the tick makes of the
count, of the status bits and of the timer after it. -/

namespace Sys2Proof.Machine

/-! ### Several registers written by one command -/

/-- A command that leaves a block and then writes registers of different names has that effect. -/
theorem effect_setRegs {i : Instr} {s : State} {f : Hw → Hw} {g : Hw} {l : List ((Rg × Nat) × Word)} (hi : exec i s = s.onHw f)
    (hp : s.hw.powered = true) (hf : f s.hw = g.setRegs l) (hregs : g.regs = s.hw.regs) (hl : ((l.map Prod.fst).map Prod.fst).Nodup) :
    Effect i s g l := by
  refine answers_onHw hi hp ?_
  rw [hf]
  exact .all _ _ hregs _ (List.Nodup.of_map _ hl)

/-- The same for one register. -/
theorem effect_setReg {i : Instr} {s : State} {f : Hw → Hw} {g : Hw} {r : Rg} {u : Nat} {v : Word} (hi : exec i s = s.onHw f)
    (hp : s.hw.powered = true) (hf : f s.hw = g.setReg r u v) (hregs : g.regs = s.hw.regs) : Effect i s g [((r, u), v)] :=
  effect_setRegs hi hp hf hregs (List.nodup_singleton r)

/-! ### Pulses (11 R326) -/

section
variable {h x : Hw} {sink : Nat}

/-- A pulse that has arrived leaves time passed and itself taken, and nothing else. -/
theorem Hw.PulseAt.frame (hx : h.PulseAt sink x) : ∃ d p l, x = { h with dev := d, ptp := p, pulses := l } := by
  obtain ⟨hw, q, -, rfl⟩ := hx
  obtain ⟨d, p, e⟩ := advTo_of_noWaits h q.at_ hw
  exact ⟨d, p, h.pulses.erase q, by rw [e]⟩

/-- Its sink acts on that block. -/
theorem withPulse_at (hx : h.PulseAt sink x) (act : Hw → Hw) : h.withPulse sink act = act x := by
  obtain ⟨-, q, hq, rfl⟩ := hx
  simp only [Hw.withPulse, hq]

/-- A sink that no pulse is on its way to does nothing. -/
theorem withPulse_none (hn : ∀ p ∈ h.pulses, p.sink ≠ sink) (act : Hw → Hw) : h.withPulse sink act = h := by
  have hfind : (h.pulses.find? fun p => p.sink == sink) = none := List.find?_eq_none.2 fun p hp => by simpa using hn p hp
  simp only [Hw.withPulse, hfind]

end

/-! ### One timer updated -/

theorem tmr_updTmr (h : Hw) (k j : Nat) (f : TmrSt → TmrSt) : (h.updTmr k f).tmr j = if k = j then f (h.tmr k) else h.tmr j := by
  simp only [Hw.tmr, Hw.updTmr, Tbl.get_set]

theorem tmr_updTmr_ne (h : Hw) {k j : Nat} (hj : j ≠ k) (f : TmrSt → TmrSt) : (h.updTmr k f).tmr j = h.tmr j := by
  rw [tmr_updTmr, if_neg (Ne.symm hj)]

/-- An update that leaves the output of a timer leaves every output. -/
theorem pwm_updTmr (h : Hw) (k j : Nat) {f : TmrSt → TmrSt} (hf : (f (h.tmr k)).pwm = (h.tmr k).pwm) :
    ((h.updTmr k f).tmr j).pwm = (h.tmr j).pwm := by
  rw [tmr_updTmr]
  split
  · subst_vars
    exact hf
  · rfl

@[simp] theorem updTmr_reg (h : Hw) (k : Nat) (f : TmrSt → TmrSt) (r : Rg) (u : Nat) : (h.updTmr k f).reg r u = h.reg r u := rfl

theorem tbSel_congr {h t : Hw} {k : Nat} (e : t.reg TMR_CTRL k = h.reg TMR_CTRL k) : t.tbSel k = h.tbSel k := by
  rw [Hw.tbSel, Hw.fld, e]
  rfl

theorem shadow_congr {h t : Hw} {k : Nat} (hact : t.acts = h.acts) (hdev : t.dev = h.dev) (hreg : t.reg TMR_CMP1_SH k = h.reg TMR_CMP1_SH k) :
    t.shadow k = h.shadow k := by
  rw [Hw.shadow, Hw.act, hact, hdev, hreg]
  rfl

/-! ### The block that takes a tick (11 R312) -/

/-- Timer k has taken a tick: time, its state and the pulses in flight are all that may differ, and its output is as it was. -/
structure Hw.TickTaken (h : Hw) (k : Nat) (x : Hw) : Prop where
  rest : ∃ d p ts l, x = { h with dev := d, ptp := p, tmrs := ts, pulses := l }
  tmr : ∀ j, j ≠ k → x.tmr j = h.tmr j
  pwm : ∀ j, (x.tmr j).pwm = (h.tmr j).pwm

theorem Hw.TickTaken.updTmr {h x : Hw} {k : Nat} (t : h.TickTaken k x) {f : TmrSt → TmrSt} (hf : (f (x.tmr k)).pwm = (x.tmr k).pwm) :
    h.TickTaken k (x.updTmr k f) where
  rest := by
    obtain ⟨d, p, ts, l, rfl⟩ := t.rest
    exact ⟨d, p, _, l, rfl⟩
  tmr j hj := (tmr_updTmr_ne x hj f).trans (t.tmr j hj)
  pwm j := (pwm_updTmr x k j hf).trans (t.pwm j)

theorem Hw.TickTaken.widthTicks {h x : Hw} {k : Nat} (t : h.TickTaken k x) (n : Nat) : h.TickTaken k (x.widthTicks k n) := t.updTmr rfl

section
variable {h x : Hw} {k : Nat}

/-- The block as it is, and at a later time with other pulses in flight. -/
theorem tickTaken_later (k d p : Nat) (l : List Pulse) : h.TickTaken k { h with dev := d, ptp := p, pulses := l } :=
  ⟨⟨d, p, _, l, rfl⟩, fun _ _ => rfl, fun _ => rfl⟩

theorem Hw.TicksIn.taken (hx : h.TicksIn k x) : h.TickTaken k x := by
  obtain ⟨-, -, -, rfl⟩ | ⟨-, -, hw, t, -, rfl⟩ | ⟨-, -, rfl⟩ | ⟨-, -, hpulse⟩ := hx
  · exact (tickTaken_later k h.dev h.ptp h.pulses).updTmr rfl
  · obtain ⟨d, p, e⟩ := advTo_of_noWaits h (t + h.tickGap k) hw
    rw [e]
    exact (tickTaken_later k d p h.pulses).updTmr rfl
  · exact (tickTaken_later k h.dev h.ptp h.pulses).updTmr rfl
  · obtain ⟨d, p, l, rfl⟩ := hpulse.frame
    exact tickTaken_later k d p l

/-- The block that takes the tick is what the timer counts on. -/
theorem tmrTick_of_ticksIn (hp : h.powered = true) (hx : h.TicksIn k x) : h.tmrTick k = x.tmrCount k := by
  obtain ⟨hsel, hon, hat, rfl⟩ | ⟨hsel, hon, hw, t, hat, rfl⟩ | ⟨hsel, hdue, rfl⟩ | ⟨hsel, hon, hpulse⟩ := hx
  · simp only [Hw.tmrTick, if_pos hsel, if_pos hon, hat]
  · obtain ⟨p, e⟩ := advTo_noWaits h (t + h.tickGap k) hp hw
    have hdev : (h.advTo (t + h.tickGap k)).dev = max h.dev (t + h.tickGap k) := by rw [e]; rfl
    simp only [Hw.tmrTick, if_pos hsel, if_pos hon, hat, hdev]
  · rw [Hw.tmrTick, if_neg (by omega), if_neg (by omega), if_neg hdue]
  · obtain ⟨d, p, l, rfl⟩ := hpulse.frame
    rw [Hw.tmrTick, if_neg (by omega), if_pos hsel, withPulse_at hpulse]
    exact if_pos hon

/-- Without a tick of its timebase a timer does not count. -/
theorem tmrTick_none (hno : h.tbSel k ≤ 1 ∧ h.tmrTicks k = false ∨ (h.tbSel k = 2 ∨ h.tbSel k = 3) ∧ (h.tmr k).due = 0 ∨
    h.tbSel k = 4 ∧ ∀ p ∈ h.pulses, p.sink ≠ 4 * k + 3) : h.tmrTick k = h := by
  obtain ⟨hsel, hoff⟩ | ⟨hsel, hdue⟩ | ⟨hsel, hnone⟩ := hno
  · rw [Hw.tmrTick, if_pos hsel, if_neg (by simp [hoff])]
  · rw [Hw.tmrTick, if_neg (by omega), if_neg (by omega), if_pos hdue]
  · rw [Hw.tmrTick, if_neg (by omega), if_pos hsel, withPulse_none hnone]

/-- A tick at TOP or above is a wrap's. -/
theorem tmrWrap_top (htop : (h.reg TMR_TOP k).toNat ≤ (h.reg TMR_COUNT k).toNat) : h.tmrWrap k = h.tmrTick k := if_pos htop

theorem tmrWrap_unmoved (hno : h.tmrTick k = h) : h.tmrWrap k = h := by rw [Hw.tmrWrap, hno, ite_self]

theorem tmrMatch_unmoved (hno : h.tmrTick k = h) (one : Bool) : h.tmrMatch k one = h := by simp only [Hw.tmrMatch, hno, ite_self]

/-- One below TOP whose next count is the compare value is a match's. -/
theorem tmrMatch_reached {p : Nat} (hp : p = (h.reg TMR_COUNT k).toNat) (htop : p < (h.reg TMR_TOP k).toNat) (one : Bool)
    (hcmp : (h.reg (if one then TMR_CMP1 else TMR_CMP0) k).toNat = p + 1) : h.tmrMatch k one = h.tmrTick k := by
  have hno : ¬ (h.reg TMR_TOP k).toNat ≤ p := by omega
  simp only [Hw.tmrMatch, ← hp, tickCount, hno, false_and, if_false]
  cases one <;> exact if_pos hcmp.symm

end

/-! ### Status bits and their sources (11 R315) -/

section
variable (h : Hw) (k i : Nat)

theorem irqWatch_unguarded {h : Hw} (hu : h.Unguarded) (i : Nat) : h.irqWatch i = h := if_neg fun hall => hu i hall.1

/-- Where no guard runs, an event of a timer sets its status bit and fires its source. -/
theorem tmrEvent_unguarded {h : Hw} (hu : h.Unguarded) : h.tmrEvent k i = (h.fire (16 + 5 * k + i)).setFlag TMR_STAT k i true := by
  have hu' : (h.setFlag TMR_STAT k i true).Unguarded := hu
  rw [Hw.tmrEvent, irqWatch_unguarded hu', fire_setFlag _ _ _ _ _ _ (by decide)]

/-- Whatever guards run, an event changes no register but its status bit and those of the interrupt controller. -/
theorem reg_tmrEvent {r : Rg} (hstat : r ≠ TMR_STAT) (hic : r.page ≠ pgIC) (u : Nat) : (h.tmrEvent k i).reg r u = h.reg r u :=
  (((Hw.GuardOnly.refl (h.setFlag TMR_STAT k i true)).irqWatch _).reg r u hic).trans (reg_setFlag_ne _ _ _ _ _ fun e => hstat e.1.symm)

theorem rest_tmrEvent : (h.tmrEvent k i).tmrs = h.tmrs ∧ (h.tmrEvent k i).mpHalted = h.mpHalted := by
  have e := ((Hw.GuardOnly.refl (h.setFlag TMR_STAT k i true)).irqWatch (16 + 3 * k + i)).rest
  rw [Hw.tmrEvent, fire_tmrs, fire_mpHalted, e]
  exact ⟨rfl, rfl⟩

theorem tmr_tmrEvent (j : Nat) : (h.tmrEvent k i).tmr j = h.tmr j := by
  rw [Hw.tmr, (rest_tmrEvent h k i).1, Hw.tmr]

end

/-! ### The count (11 R313, R314, R321, R322) -/

/-- A timer that another does not feed has nothing to take of its wrap. -/
theorem tmrDue_other {h : Hw} {j tb : Nat} (hno : 16 ≤ j ∨ h.tbSel j ≠ tb) : h.tmrDue j tb = h := by
  refine if_neg fun hall => ?_
  obtain ⟨hj, hsel, -⟩ := hall
  obtain hge | hne := hno
  · omega
  · exact hne hsel

/-- What a new count does once a wrap has been dealt with: it is compared with CMP0 and with CMP1. -/
def Hw.tmrCompared (h : Hw) (k c : Nat) : Hw :=
  let h := if (h.reg TMR_CMP0 k).toNat = c then h.tmrEvent k 0 else h
  if (h.reg TMR_CMP1 k).toNat = c then (h.tmrEvent k 1).updTmr k fun s => { s with pwm := false } else h

section
variable {g : Hw} {k c : Nat}

theorem tmrCompared_none (hzero : (g.reg TMR_CMP0 k).toNat ≠ c) (hone : (g.reg TMR_CMP1 k).toNat ≠ c) : g.tmrCompared k c = g := by
  simp only [Hw.tmrCompared, if_neg hzero, if_neg hone]

theorem tmrCompared_zero (hzero : (g.reg TMR_CMP0 k).toNat = c) (hone : (g.reg TMR_CMP1 k).toNat ≠ c) : g.tmrCompared k c = g.tmrEvent k 0 := by
  have hone' : ((g.tmrEvent k 0).reg TMR_CMP1 k).toNat ≠ c := by rwa [reg_tmrEvent _ _ _ (by decide) (by decide)]
  simp only [Hw.tmrCompared, if_pos hzero, if_neg hone']

theorem tmrCompared_one (hzero : (g.reg TMR_CMP0 k).toNat ≠ c) (hone : (g.reg TMR_CMP1 k).toNat = c) :
    g.tmrCompared k c = (g.tmrEvent k 1).updTmr k fun s => { s with pwm := false } := by
  simp only [Hw.tmrCompared, if_neg hzero, if_pos hone]

/-- A register other than the count after the count has been written. -/
theorem reg_setCount {r : Rg} (hr : TMR_COUNT ≠ r) (v : Word) (u : Nat) : (g.setReg TMR_COUNT k v).reg r u = g.reg r u :=
  reg_setReg_ne _ _ _ _ _ _ fun e => hr e.1

/-- A register of the timer after the count has been written and an event has come of it. -/
theorem reg_counted (v : Word) (i : Nat) {r : Rg} (hcount : TMR_COUNT ≠ r) (hstat : r ≠ TMR_STAT) (hic : r.page ≠ pgIC) (u : Nat) :
    ((g.setReg TMR_COUNT k v).tmrEvent k i).reg r u = g.reg r u :=
  (reg_tmrEvent _ k i hstat hic u).trans (reg_setCount hcount v u)

theorem pwmMode_counted (j : Nat) (v : Word) (i : Nat) : ((g.setReg TMR_COUNT k v).tmrEvent k i).pwmMode j = g.pwmMode j :=
  congrArg (bit · 12) (reg_counted v i (by decide) (by decide) (by decide) j)

/-- The count written and an event of the timer after it. -/
theorem setCount_tmrEvent (hu : g.Unguarded) (v : Word) (i : Nat) : (g.setReg TMR_COUNT k v).tmrEvent k i =
    (g.fire (16 + 5 * k + i)).setRegs [((TMR_COUNT, k), v), ((TMR_STAT, k), setBits (g.reg TMR_STAT k) i i 1)] := by
  have hu' : (g.setReg TMR_COUNT k v).Unguarded := hu
  rw [tmrEvent_unguarded _ _ hu', fire_setReg _ _ _ _ _ (by decide)]
  exact setFld_setReg (g.fire _) (by decide) _ _ _ _ _ _

/-! #### Below TOP -/

theorem tmrUpdate_below : g.tmrUpdate k c false = (g.setReg TMR_COUNT k (w32 c)).tmrCompared k c := by
  simp only [Hw.tmrUpdate, Hw.tmrCompared, Bool.false_eq_true, false_and, if_false]

theorem tmrUpdate_counts (hzero : (g.reg TMR_CMP0 k).toNat ≠ c) (hone : (g.reg TMR_CMP1 k).toNat ≠ c) :
    g.tmrUpdate k c false = g.setReg TMR_COUNT k (w32 c) := by
  rw [tmrUpdate_below, tmrCompared_none] <;> rwa [reg_setCount (by decide)]

theorem tmrUpdate_zero (hu : g.Unguarded) (hzero : (g.reg TMR_CMP0 k).toNat = c) (hone : (g.reg TMR_CMP1 k).toNat ≠ c) : g.tmrUpdate k c false =
    (g.fire (16 + 5 * k)).setRegs [((TMR_COUNT, k), w32 c), ((TMR_STAT, k), setBits (g.reg TMR_STAT k) 0 0 1)] := by
  rw [tmrUpdate_below, tmrCompared_zero, setCount_tmrEvent hu]
  · rfl
  all_goals rwa [reg_setCount (by decide)]

theorem tmrUpdate_one (hu : g.Unguarded) (hzero : (g.reg TMR_CMP0 k).toNat ≠ c) (hone : (g.reg TMR_CMP1 k).toNat = c) : g.tmrUpdate k c false =
    ((g.fire (16 + 5 * k + 1)).updTmr k fun s => { s with pwm := false }).setRegs
      [((TMR_COUNT, k), w32 c), ((TMR_STAT, k), setBits (g.reg TMR_STAT k) 1 1 1)] := by
  rw [tmrUpdate_below, tmrCompared_one, setCount_tmrEvent hu]
  · rfl
  all_goals rwa [reg_setCount (by decide)]

/-! #### At TOP, where no timer counts the wraps -/

section
variable (hfed : 16 ≤ k + 1 ∨ g.tbSel (k + 1) ≠ 3)
include hfed

/-- The next timer takes nothing of the wrap. -/
theorem tmrDue_wrap (v : Word) : ((g.setReg TMR_COUNT k v).tmrEvent k 2).tmrDue (k + 1) 3 = (g.setReg TMR_COUNT k v).tmrEvent k 2 := by
  have hsel := tbSel_congr (reg_counted (g := g) (k := k) v 2 (show TMR_COUNT ≠ TMR_CTRL by decide) (by decide) (by decide) (k + 1))
  exact tmrDue_other (hsel ▸ hfed)

theorem tmrUpdate_wrap (hu : g.Unguarded) (hpwm : g.pwmMode k = false) (hzero : (g.reg TMR_CMP0 k).toNat ≠ c)
    (hone : (g.reg TMR_CMP1 k).toNat ≠ c) : g.tmrUpdate k c true =
      (g.fire (16 + 5 * k + 2)).setRegs [((TMR_COUNT, k), w32 c), ((TMR_STAT, k), setBits (g.reg TMR_STAT k) 2 2 1)] := by
  have hpwm' : ((g.setReg TMR_COUNT k (w32 c)).tmrEvent k 2).pwmMode k = false := (pwmMode_counted k (w32 c) 2).trans hpwm
  simp only [Hw.tmrUpdate, if_true, tmrDue_wrap hfed, hpwm', true_and, Bool.false_eq_true, if_false]
  refine (tmrCompared_none ?_ ?_).trans (setCount_tmrEvent hu _ _)
  all_goals rwa [reg_counted _ _ (by decide) (by decide) (by decide)]

theorem tmrUpdate_wrap_pwm (hu : g.Unguarded) (hpwm : g.pwmMode k = true) (hzero : (g.reg TMR_CMP0 k).toNat ≠ c)
    (hone : (g.shadow k).toNat ≠ c) : g.tmrUpdate k c true =
      ((g.fire (16 + 5 * k + 2)).updTmr k fun s => { s with pwm := true }).setRegs
        [((TMR_COUNT, k), w32 c), ((TMR_STAT, k), setBits (g.reg TMR_STAT k) 2 2 1), ((TMR_CMP1, k), g.shadow k)] := by
  have hpwm' : ((g.setReg TMR_COUNT k (w32 c)).tmrEvent k 2).pwmMode k = true := (pwmMode_counted k (w32 c) 2).trans hpwm
  have hshadow : ((g.setReg TMR_COUNT k (w32 c)).tmrEvent k 2).shadow k = g.shadow k := by
    have e := reg_counted (g := g) (k := k) (w32 c) 2 (show TMR_COUNT ≠ TMR_CMP1_SH by decide) (by decide) (by decide) k
    rw [setCount_tmrEvent hu] at e ⊢
    exact shadow_congr rfl rfl e
  have hevent := setCount_tmrEvent (k := k) hu (w32 c) 2
  simp only [Hw.tmrUpdate, if_true, tmrDue_wrap hfed, hpwm', true_and, hshadow]
  refine (tmrCompared_none ?_ ?_).trans ?_
  · rwa [updTmr_reg, reg_setReg_ne _ _ _ _ _ _ fun e => absurd e.1 (by decide), reg_counted _ _ (by decide) (by decide) (by decide)]
  · rwa [updTmr_reg, reg_setReg_same]
  · rw [hevent]
    rfl

end
end

/-! #### At TOP, where the next timer counts the wraps (11 R312) -/

/-- What the gates of the timers look at is the same. -/
theorem tmrTicks_congr {h t : Hw} (hctrl : ∀ u, t.reg TMR_CTRL u = h.reg TMR_CTRL u) (hpage : ∀ u, t.reg (pgCtrl pgTMR) u = h.reg (pgCtrl pgTMR) u)
    (hpins : t.reg GPIO_IN = h.reg GPIO_IN) (hhalted : t.mpHalted = h.mpHalted) (hpwm : ∀ j, (t.tmr j).pwm = (h.tmr j).pwm) (j : Nat) :
    t.tmrTicks j = h.tmrTicks j := by
  have hen : t.en TMR_CTRL j 0 = h.en TMR_CTRL j 0 := by
    rw [Hw.en, Hw.pgEn, Hw.flag, hctrl, show TMR_CTRL.page = pgTMR from rfl, hpage]
    rfl
  have hgate : t.gateOpen j = h.gateOpen j := by
    simp only [Hw.gateOpen, Hw.pwmMode, Hw.fld, Hw.flag, hctrl, hpins, hpwm]
    rfl
  have hfrozen : t.frozen j = h.frozen j := by simp only [Hw.frozen, Hw.fld, Hw.flag, hctrl, hhalted]
  rw [Hw.tmrTicks, hen, hgate, hfrozen, tbSel_congr (hctrl j), Hw.tmrTicks]

/-- So it is in a block that differs by a tick that a timer has taken. -/
theorem Hw.TickTaken.tmrTicks {h x : Hw} {k : Nat} (t : h.TickTaken k x) (j : Nat) : x.tmrTicks j = h.tmrTicks j := by
  have hpwm := t.pwm
  obtain ⟨d, p, ts, l, rfl⟩ := t.rest
  refine tmrTicks_congr (fun _ => ?_) (fun _ => ?_) ?_ ?_ hpwm j <;> rfl

theorem Hw.TickTaken.tbSel {h x : Hw} {k : Nat} (t : h.TickTaken k x) (j : Nat) : x.tbSel j = h.tbSel j := by
  obtain ⟨d, p, ts, l, rfl⟩ := t.rest
  rfl

/-- Timer k's count and the state of every other timer are as in h. -/
structure Hw.CountKept (h : Hw) (k : Nat) (t : Hw) : Prop where
  count : t.reg TMR_COUNT k = h.reg TMR_COUNT k
  tmr : ∀ j, j ≠ k → t.tmr j = h.tmr j

namespace Hw.CountKept

theorem refl (h : Hw) (k : Nat) : h.CountKept k h := ⟨rfl, fun _ _ => rfl⟩

section
variable {h t : Hw} {k : Nat} (x : h.CountKept k t)
include x

theorem tmrEvent (i : Nat) : h.CountKept k (t.tmrEvent k i) :=
  ⟨(reg_tmrEvent t k i (by decide) (by decide) k).trans x.count, fun j hj => (tmr_tmrEvent t k i j).trans (x.tmr j hj)⟩

theorem setReg {r : Rg} (hr : r ≠ TMR_COUNT) (v : Word) : h.CountKept k (t.setReg r k v) :=
  ⟨(reg_setReg_ne _ _ _ _ _ _ fun e => hr e.1).trans x.count, x.tmr⟩

theorem updTmr (f : TmrSt → TmrSt) : h.CountKept k (t.updTmr k f) := ⟨x.count, fun j hj => (tmr_updTmr_ne t hj f).trans (x.tmr j hj)⟩

end

theorem ite {h a b : Hw} {k : Nat} {p : Prop} [Decidable p] (ha : h.CountKept k a) (hb : h.CountKept k b) : h.CountKept k (if p then a else b) := by
  split
  · exact ha
  · exact hb

end Hw.CountKept

section
variable {g : Hw} {k : Nat}

/-- After a wrap of timer k has been given on, the rest of the update keeps the count and the other timers. -/
theorem tmrUpdate_kept (c : Nat) :
    (((g.setReg TMR_COUNT k (w32 c)).tmrEvent k 2).tmrDue (k + 1) 3).CountKept k (g.tmrUpdate k c true) := by
  simp only [Hw.tmrUpdate, if_true, true_and]
  generalize ((g.setReg TMR_COUNT k (w32 c)).tmrEvent k 2).tmrDue (k + 1) 3 = b
  have hloaded : b.CountKept k (if b.pwmMode k = true then (b.setReg TMR_CMP1 k (b.shadow k)).updTmr k fun s => { s with pwm := true } else b) :=
    .ite (((Hw.CountKept.refl b k).setReg (by decide) _).updTmr _) (.refl b k)
  exact .ite (((Hw.CountKept.ite (hloaded.tmrEvent 0) hloaded).tmrEvent 1).updTmr _) (.ite (hloaded.tmrEvent 0) hloaded)

/-- A wrap of timer k is a tick that timer k + 1 has still to take. -/
theorem tmrUpdate_fed (c : Nat) (hk : k + 1 < 16) (hsel : g.tbSel (k + 1) = 3) (hon : g.tmrTicks (k + 1) = true) :
    ((g.tmrUpdate k c true).tmr (k + 1)).due = (g.tmr (k + 1)).due + 1 ∧ (g.tmrUpdate k c true).reg TMR_COUNT k = w32 c := by
  have hsel' : ((g.setReg TMR_COUNT k (w32 c)).tmrEvent k 2).tbSel (k + 1) = 3 :=
    (tbSel_congr (reg_counted _ _ (by decide) (by decide) (by decide) _)).trans hsel
  have hon' : ((g.setReg TMR_COUNT k (w32 c)).tmrEvent k 2).tmrTicks (k + 1) = true := by
    refine (tmrTicks_congr (fun u => ?_) (fun u => ?_) ?_ ?_ (fun j => ?_) _).trans hon
    · exact reg_counted _ _ (by decide) (by decide) (by decide) u
    · exact reg_counted _ _ (by decide) (by decide) (by decide) u
    · exact reg_counted _ _ (by decide) (by decide) (by decide) 0
    · exact (rest_tmrEvent _ k 2).2
    · exact congrArg TmrSt.pwm (tmr_tmrEvent _ k 2 j)
  have hkept := tmrUpdate_kept (g := g) (k := k) c
  rw [Hw.tmrDue, if_pos ⟨hk, hsel', hon'⟩] at hkept
  constructor
  · rw [hkept.tmr _ (by omega), tmr_updTmr, if_pos rfl, tmr_tmrEvent]
    rfl
  · rw [hkept.count, updTmr_reg, reg_tmrEvent _ _ _ (by decide) (by decide), reg_setReg_same]

end

/-! ### What a tick does to the count (11 R313) -/

section
variable {h x : Hw} {k : Nat}

theorem tmrCount_below (htop : (h.reg TMR_COUNT k).toNat < (h.reg TMR_TOP k).toNat) :
    h.tmrCount k = (h.widthTicks k 1).tmrUpdate k ((h.reg TMR_COUNT k).toNat + 1) false := by
  have hno := Nat.not_le.2 htop
  simp only [Hw.tmrCount, tickCount, if_neg hno, decide_eq_false hno]

theorem tmrCount_top (htop : (h.reg TMR_TOP k).toNat ≤ (h.reg TMR_COUNT k).toNat) : h.tmrCount k = (h.widthTicks k 1).tmrUpdate k 0 true := by
  simp only [Hw.tmrCount, tickCount, if_pos htop, decide_eq_true htop]

/-- The count that a tick finds below TOP goes up by 1. -/
theorem tmrTick_below (hp : h.powered = true) (hx : h.TicksIn k x) (htop : (h.reg TMR_COUNT k).toNat < (h.reg TMR_TOP k).toNat) :
    h.tmrTick k = (x.widthTicks k 1).tmrUpdate k ((h.reg TMR_COUNT k).toNat + 1) false := by
  refine (tmrTick_of_ticksIn hp hx).trans ?_
  obtain ⟨d, p, ts, l, rfl⟩ := hx.taken.rest
  exact tmrCount_below htop

/-- The count that a tick finds at TOP or above wraps to 0. -/
theorem tmrTick_top (hp : h.powered = true) (hx : h.TicksIn k x) (htop : (h.reg TMR_TOP k).toNat ≤ (h.reg TMR_COUNT k).toNat) :
    h.tmrTick k = (x.widthTicks k 1).tmrUpdate k 0 true := by
  refine (tmrTick_of_ticksIn hp hx).trans ?_
  obtain ⟨d, p, ts, l, rfl⟩ := hx.taken.rest
  exact tmrCount_top htop

end

/-! ### The effect of a tick (11 R313-R315, R321, R322) -/

section
variable {h x : Hw} {k p : Nat} (hp : h.powered = true) (hx : h.TicksIn k x)
include hp hx

section
variable (hcount : p = (h.reg TMR_COUNT k).toNat) (htop : p < (h.reg TMR_TOP k).toNat)
include hcount htop

theorem tmrTick_counts (hzero : (h.reg TMR_CMP0 k).toNat ≠ p + 1) (hone : (h.reg TMR_CMP1 k).toNat ≠ p + 1) :
    h.tmrTick k = (x.widthTicks k 1).setReg TMR_COUNT k (w32 (p + 1)) := by
  subst hcount
  refine (tmrTick_below hp hx htop).trans ?_
  obtain ⟨d, p, ts, l, rfl⟩ := hx.taken.rest
  exact tmrUpdate_counts hzero hone

theorem tmrTick_zero (hu : h.Unguarded) (hzero : (h.reg TMR_CMP0 k).toNat = p + 1) (hone : (h.reg TMR_CMP1 k).toNat ≠ p + 1) :
    h.tmrTick k = ((x.widthTicks k 1).fire (16 + 5 * k)).setRegs
      [((TMR_COUNT, k), w32 (p + 1)), ((TMR_STAT, k), setBits (h.reg TMR_STAT k) 0 0 1)] := by
  subst hcount
  refine (tmrTick_below hp hx htop).trans ?_
  obtain ⟨d, p, ts, l, rfl⟩ := hx.taken.rest
  exact tmrUpdate_zero hu hzero hone

theorem tmrTick_one (hu : h.Unguarded) (hzero : (h.reg TMR_CMP0 k).toNat ≠ p + 1) (hone : (h.reg TMR_CMP1 k).toNat = p + 1) :
    h.tmrTick k = (((x.widthTicks k 1).fire (16 + 5 * k + 1)).updTmr k fun s => { s with pwm := false }).setRegs
      [((TMR_COUNT, k), w32 (p + 1)), ((TMR_STAT, k), setBits (h.reg TMR_STAT k) 1 1 1)] := by
  subst hcount
  refine (tmrTick_below hp hx htop).trans ?_
  obtain ⟨d, p, ts, l, rfl⟩ := hx.taken.rest
  exact tmrUpdate_one hu hzero hone

end

section
variable (htop : (h.reg TMR_TOP k).toNat ≤ (h.reg TMR_COUNT k).toNat)
include htop

section
variable (hu : h.Unguarded) (hfed : 16 ≤ k + 1 ∨ h.tbSel (k + 1) ≠ 3) (hzero : (h.reg TMR_CMP0 k).toNat ≠ 0)
include hu hfed hzero

theorem tmrTick_wrap (hpwm : h.pwmMode k = false) (hone : (h.reg TMR_CMP1 k).toNat ≠ 0) :
    h.tmrTick k = ((x.widthTicks k 1).fire (16 + 5 * k + 2)).setRegs
      [((TMR_COUNT, k), 0#32), ((TMR_STAT, k), setBits (h.reg TMR_STAT k) 2 2 1)] := by
  refine (tmrTick_top hp hx htop).trans ?_
  obtain ⟨d, p, ts, l, rfl⟩ := hx.taken.rest
  exact tmrUpdate_wrap hfed hu hpwm hzero hone

theorem tmrTick_wrap_pwm (hpwm : h.pwmMode k = true) (hone : (x.shadow k).toNat ≠ 0) :
    h.tmrTick k = (((x.widthTicks k 1).fire (16 + 5 * k + 2)).updTmr k fun s => { s with pwm := true }).setRegs
      [((TMR_COUNT, k), 0#32), ((TMR_STAT, k), setBits (h.reg TMR_STAT k) 2 2 1), ((TMR_CMP1, k), x.shadow k)] := by
  refine (tmrTick_top hp hx htop).trans ?_
  obtain ⟨d, p, ts, l, rfl⟩ := hx.taken.rest
  exact tmrUpdate_wrap_pwm hfed hu hpwm hzero hone

end

theorem tmrTick_fed (hk : k + 1 < 16) (hsel : h.tbSel (k + 1) = 3) (hon : h.tmrTicks (k + 1) = true) :
    ((h.tmrTick k).tmr (k + 1)).due = (h.tmr (k + 1)).due + 1 ∧ (h.tmrTick k).reg TMR_COUNT k = 0#32 := by
  have htaken := hx.taken.widthTicks 1
  have hfed := tmrUpdate_fed 0 hk ((htaken.tbSel _).trans hsel) ((htaken.tmrTicks _).trans hon)
  rw [tmrTick_top hp hx htop, hfed.1, hfed.2, htaken.tmr (k + 1) (by omega)]
  exact ⟨rfl, rfl⟩

end
end

end Sys2Proof.Machine
end
section
/-! SUPPORT. Pins, captures, actuator timeouts and crossbar sinks (11 R311, R316, R317, R325, R328-R330): what an accepted level, an edge, a timeout that
passes and a pulse that arrives leave. -/

namespace Sys2Proof.Machine

/-! ### A fold in which one element acts -/

/-- Where every other element leaves the start, and what k makes of it, as it is, a fold is what k makes of the start. -/
theorem foldl_range_only {α : Type} {f : α → Nat → α} {a b : α} {n k : Nat} (hk : k < n) (hstep : f a k = b)
    (hbefore : ∀ i, i < n → i ≠ k → f a i = a) (hafter : ∀ i, i < n → i ≠ k → f b i = b) : (List.range n).foldl f a = b := by
  obtain ⟨l, r, hl⟩ := List.append_of_mem (List.mem_range.2 hk)
  have hnd : (l ++ k :: r).Nodup := hl ▸ List.nodup_range
  have hlt : ∀ i ∈ l ++ k :: r, i < n := fun i hi => List.mem_range.1 (hl ▸ hi)
  obtain ⟨-, hnr, hdisj⟩ := List.nodup_append.1 hnd
  have hleft : l.foldl f a = a := foldl_unmoved fun i hi =>
    hbefore i (hlt i (List.mem_append_left _ hi)) (hdisj i hi k List.mem_cons_self)
  have hright : r.foldl f b = b := foldl_unmoved fun i hi =>
    hafter i (hlt i (List.mem_append_right _ (List.mem_cons_of_mem _ hi))) fun e => (List.nodup_cons.1 hnr).1 (e ▸ hi)
  rw [hl, List.foldl_append, hleft, List.foldl_cons, hstep, hright]

/-! ### Levels that the filters accept (11 R311) -/

/-- The edges of pin g that GPIO_EDGE selects: bit 0 the rising one, bit 1 the falling one. -/
def Hw.edgeSel (h : Hw) (g : Nat) : Nat :=
  if g < 16 then h.fld GPIO_EDGE_LO 0 (2 * g + 1) (2 * g) else h.fld GPIO_EDGE_HI 0 (2 * (g - 16) + 1) (2 * (g - 16))

/-- The block at the time at which the filter of pin g may accept a change, which it has noted. -/
def Hw.pinDue (h : Hw) (g : Nat) : Hw := { h.advTo (h.filtAt g) with gpioAt := Tbl.put h.gpioAt g (max h.dev (h.filtAt g)) }

section
variable {h : Hw} {g : Nat} {level : Bool}

theorem pinSeen_eq (h : Hw) (g : Nat) (level : Bool) : h.pinSeen g level =
    if level = true ∧ h.edgeSel g % 2 = 1 ∨ level = false ∧ 2 ≤ h.edgeSel g then (h.pinDue g).fire (160 + g) else h.pinDue g := rfl

theorem edgeSel_setIn (h : Hw) (v : Word) (g : Nat) : (h.setReg GPIO_IN 0 v).edgeSel g = h.edgeSel g := by
  simp only [Hw.edgeSel, Hw.fld, reg_setReg_ne _ _ _ _ _ _ fun e => absurd e.1 (show GPIO_IN ≠ GPIO_EDGE_LO by decide),
    reg_setReg_ne _ _ _ _ _ _ fun e => absurd e.1 (show GPIO_IN ≠ GPIO_EDGE_HI by decide)]

theorem pinDue_frame (hw : h.waits = []) (g : Nat) : ∃ d p a, h.pinDue g = { h with dev := d, ptp := p, gpioAt := a } := by
  obtain ⟨d, p, e⟩ := advTo_of_noWaits h (h.filtAt g) hw
  exact ⟨d, p, _, by rw [Hw.pinDue, e]⟩

/-- What the filter of a pin does touches no register but GPIO_IN, and no timer. -/
theorem pinSeen_frame (hw : h.waits = []) (g : Nat) (level : Bool) :
    ∃ d p l a, h.pinSeen g level = { h with dev := d, ptp := p, pulses := l, gpioAt := a } := by
  obtain ⟨d, p, a, e⟩ := pinDue_frame hw g
  rw [pinSeen_eq, e]
  split
  · exact ⟨d, p, _, a, rfl⟩
  · exact ⟨d, p, _, a, rfl⟩

theorem gpioAccept_same (hl : h.flag GPIO_IN 0 g = level) (k read : Nat) : h.gpioAccept g level k read = h := if_pos hl

/-- A new level is shown by GPIO_IN, and the timers that watch the pin see the edge. -/
theorem gpioAccept_new (hp : h.powered = true) (hw : h.waits = []) (hl : h.flag GPIO_IN 0 g ≠ level) (k read : Nat) :
    h.gpioAccept g level k read =
      ((h.pinSeen g level).setReg GPIO_IN 0 (setBits (h.reg GPIO_IN) g g (b2n level))).capEdge g level k read := by
  have hdue : ({ (h.advTo (h.filtAt g)).setFlag GPIO_IN 0 g level with gpioAt := Tbl.put (h.advTo (h.filtAt g)).gpioAt g (h.advTo (h.filtAt g)).dev } : Hw) =
      (h.pinDue g).setReg GPIO_IN 0 (setBits (h.reg GPIO_IN) g g (b2n level)) := by
    obtain ⟨p, e⟩ := advTo_noWaits h (h.filtAt g) hp hw
    rw [Hw.pinDue, e]
    rfl
  have hsel : ((h.pinDue g).setReg GPIO_IN 0 (setBits (h.reg GPIO_IN) g g (b2n level))).edgeSel g = h.edgeSel g := by
    obtain ⟨d, p, a, e⟩ := pinDue_frame hw g
    rw [edgeSel_setIn, e]
    rfl
  have hseen : (h.pinSeen g level).setReg GPIO_IN 0 (setBits (h.reg GPIO_IN) g g (b2n level)) =
      if level = true ∧ h.edgeSel g % 2 = 1 ∨ level = false ∧ 2 ≤ h.edgeSel g then
        ((h.pinDue g).setReg GPIO_IN 0 (setBits (h.reg GPIO_IN) g g (b2n level))).fire (160 + g)
      else (h.pinDue g).setReg GPIO_IN 0 (setBits (h.reg GPIO_IN) g g (b2n level)) := by
    rw [pinSeen_eq, fire_setReg _ _ _ _ _ (by decide)]
    split <;> rfl
  rw [hseen, ← hsel, ← hdue, Hw.gpioAccept, if_neg hl]
  rfl

/-- An edge of a pin that no timer watches is captured nowhere. -/
theorem capEdge_unwatched (hno : ∀ i, i < 16 → h.flag TMR_CTRL i 23 = false ∨ h.capPin i ≠ g) (k read : Nat) : h.capEdge g level k read = h :=
  foldl_unmoved fun i hi => if_pos (hno i (List.mem_range.1 hi))

end

/-! ### Captures (11 R316, R317) -/

section
variable {h : Hw} {k : Nat} (hon : h.flag TMR_CTRL k 23 = true)
include hon

/-- An edge of a pin that timer k alone watches is captured by timer k alone. -/
theorem capEdge_watched (hk : k < 16) (hno : ∀ i, i < 16 → i ≠ k → h.flag TMR_CTRL i 23 = false ∨ h.capPin i ≠ h.capPin k) {level : Bool}
    {read : Nat} {t : Hw} (ht : (if level then h.capRise k (decide (read ≠ 0)) else h.capFall k read) = t)
    (hctrl : ∀ u, t.reg TMR_CTRL u = h.reg TMR_CTRL u) : h.capEdge (h.capPin k) level k read = t := by
  have hwatch : ¬ (h.flag TMR_CTRL k 23 = false ∨ h.capPin k ≠ h.capPin k) := by simp [hon]
  have hafter (i : Nat) (hi : i < 16) (hne : i ≠ k) : t.flag TMR_CTRL i 23 = false ∨ t.capPin i ≠ h.capPin k := by
    simpa only [Hw.flag, Hw.capPin, Hw.fld, hctrl] using hno i hi hne
  have hstep : (if h.flag TMR_CTRL k 23 = false ∨ h.capPin k ≠ h.capPin k then h
      else if level then h.capRise k (decide ((if k = k then read else 0) ≠ 0)) else h.capFall k (if k = k then read else 0)) = t := by
    rw [if_neg hwatch, if_pos rfl, ht]
  exact foldl_range_only hk hstep (fun i hi hne => if_pos (hno i hi hne)) fun i hi hne => if_pos (hafter i hi hne)

/-- A rise while no capture is unread. -/
theorem capRise_new (hnew : h.flag TMR_CAPSTAT k 0 = false) : h.capRise k false =
    ((h.fire (16 + 5 * k + 3)).updTmr k fun x => { x with width := some 0 }).setRegs
      [((TMR_CAPR, k), h.reg TMR_COUNT k), ((TMR_CAPSTAT, k), setBits (h.reg TMR_CAPSTAT k) 0 0 1)] := by
  simp only [Hw.capRise, if_pos hon, hnew, Bool.false_eq_true, false_and, if_false, Hw.setFlag]
  rw [setFld_setReg _ (by decide), fire_setReg _ _ _ _ _ (by decide), fire_setReg _ _ _ _ _ (by decide)]
  rfl

/-- One with a read of the capture register in its cycle, which answers the value before. -/
theorem capRise_read : h.capRise k true =
    (((h.told (h.reg TMR_CAPR k)).fire (16 + 5 * k + 3)).updTmr k fun x => { x with width := some 0 }).setRegs
      [((TMR_CAPR, k), h.reg TMR_COUNT k), ((TMR_CAPSTAT, k), setBits (h.reg TMR_CAPSTAT k) 0 0 1)] := by
  simp only [Hw.capRise, if_pos hon, if_true, Bool.true_eq_false, and_false, if_false, Hw.setFlag]
  rw [setFld_setReg _ (by decide), fire_setReg _ _ _ _ _ (by decide), fire_setReg _ _ _ _ _ (by decide)]
  rfl

section
variable {w : Nat} (hwidth : (h.tmr k).width = some w)
include hwidth

/-- A fall that ends a pulse of at least MINW. -/
theorem capFall_long (hmin : (h.reg TMR_MINW k).toNat ≤ w) (hnew : h.flag TMR_CAPSTAT k 1 = false) : h.capFall k 0 =
    ((h.updTmr k fun x => { x with width := none }).fire (16 + 5 * k + 4)).setRegs
      [((TMR_CAPF, k), h.reg TMR_COUNT k), ((TMR_WIDTH, k), w32 w), ((TMR_CAPSTAT, k), setBits (h.reg TMR_CAPSTAT k) 1 1 1)] := by
  have hnew' : (h.updTmr k fun x => { x with width := none }).flag TMR_CAPSTAT k 1 = false := hnew
  simp only [Hw.capFall, if_pos hon, hwidth, Nat.zero_ne_one, OfNat.zero_ne_ofNat, if_false, updTmr_reg, if_neg (Nat.not_lt.2 hmin), hnew',
    Bool.false_eq_true, false_and, Hw.setFlag]
  rw [setFld_setReg _ (by decide), reg_setReg_ne _ _ _ _ _ _ fun e => absurd e.1 (by decide), fire_setReg _ _ _ _ _ (by decide),
    fire_setReg _ _ _ _ _ (by decide), fire_setReg _ _ _ _ _ (by decide)]
  rfl

/-- A fall that ends a shorter one. -/
theorem capFall_short (hmin : w < (h.reg TMR_MINW k).toNat) : h.capFall k 0 =
    (h.updTmr k fun x => { x with width := none }).setReg SHORT_CNT k (satAdd32 (h.reg SHORT_CNT k) 1) := by
  simp only [Hw.capFall, if_pos hon, hwidth, Nat.zero_ne_one, OfNat.zero_ne_ofNat, if_false, updTmr_reg, if_pos hmin, if_true]
  rfl

end
end

/-! ### Edges of a capture pin (11 R311, R316, R317) -/

/-- The block in which the filter of timer k's capture pin has accepted a level, before the timer captures the edge. -/
def Hw.capSeen (h : Hw) (k : Nat) (level : Bool) : Hw :=
  (h.pinSeen (h.capPin k) level).setReg GPIO_IN 0 (setBits (h.reg GPIO_IN) (h.capPin k) (h.capPin k) (b2n level))

section
variable {h : Hw} {k : Nat} {level : Bool} (hp : h.powered = true) (hc : h.Captures k level)

include hc in
theorem Hw.Captures.seen_reg {r : Rg} (hr : GPIO_IN ≠ r) (u : Nat) : (h.capSeen k level).reg r u = h.reg r u := by
  obtain ⟨d, p, l, a, e⟩ := pinSeen_frame hc.1 (h.capPin k) level
  rw [Hw.capSeen, reg_setReg_ne _ _ _ _ _ _ fun e => hr e.1, e]
  rfl

include hc in
theorem Hw.Captures.seen_flag {r : Rg} (hr : GPIO_IN ≠ r) (u i : Nat) : (h.capSeen k level).flag r u i = h.flag r u i :=
  congrArg (bit · i) (hc.seen_reg hr u)

include hc in
theorem Hw.Captures.seen_on : (h.capSeen k level).flag TMR_CTRL k 23 = true := (hc.seen_flag (by decide) k 23).trans hc.2.1

include hc in
theorem Hw.Captures.seen_tmr (j : Nat) : (h.capSeen k level).tmr j = h.tmr j := by
  obtain ⟨d, p, l, a, e⟩ := pinSeen_frame hc.1 (h.capPin k) level
  rw [Hw.capSeen, e]
  rfl

include hp hc

/-- The edge is captured by timer k and by no other. -/
theorem capPinEdge_captures (hk : k < 16) {read : Nat} {t : Hw}
    (ht : (if level then (h.capSeen k level).capRise k (decide (read ≠ 0)) else (h.capSeen k level).capFall k read) = t)
    (hctrl : ∀ u, t.reg TMR_CTRL u = h.reg TMR_CTRL u) : h.capPinEdge k level read = t := by
  have hsame (u : Nat) : (h.capSeen k level).reg TMR_CTRL u = h.reg TMR_CTRL u := hc.seen_reg (by decide) u
  have hpin (u : Nat) : (h.capSeen k level).capPin u = h.capPin u := congrArg (bits · 22 18) (hsame u)
  have hflag (u : Nat) : (h.capSeen k level).flag TMR_CTRL u 23 = h.flag TMR_CTRL u 23 := hc.seen_flag (by decide) u 23
  obtain ⟨hw, hon, hl, hothers⟩ := hc
  have hno (i : Nat) (hi : i < 16) (hne : i ≠ k) :
      (h.capSeen k level).flag TMR_CTRL i 23 = false ∨ (h.capSeen k level).capPin i ≠ (h.capSeen k level).capPin k := by
    rw [hflag, hpin, hpin]
    exact (hothers i hi).resolve_left hne
  have hseen : h.gpioAccept (h.capPin k) level k read = (h.capSeen k level).capEdge (h.capPin k) level k read := gpioAccept_new hp hw hl k read
  rw [Hw.capPinEdge, if_pos hon, hseen, ← hpin k]
  exact capEdge_watched ((hflag k).trans hon) hk hno ht fun u => (hctrl u).trans (hsame u).symm

/-- A capture that acts as F does, which writes no register, and then writes registers of its own. -/
theorem capPinEdge_setRegs (hk : k < 16) {read : Nat} {F : Hw → Hw} (hF : ∀ x v, F (x.setReg GPIO_IN 0 v) = (F x).setReg GPIO_IN 0 v)
    (hregs : ∀ x, (F x).regs = x.regs) {l : List ((Rg × Nat) × Word)} (hl : TMR_CTRL ∉ (l.map Prod.fst).map Prod.fst)
    (hcap : (if level then (h.capSeen k level).capRise k (decide (read ≠ 0)) else (h.capSeen k level).capFall k read) =
      (F (h.capSeen k level)).setRegs l) : h.capPinEdge k level read = (F (h.pinSeen (h.capPin k) level)).setRegs
        (((GPIO_IN, 0), setBits (h.reg GPIO_IN) (h.capPin k) (h.capPin k) (b2n level)) :: l) := by
  have hpin : (F (h.capSeen k level)).setRegs l = (F (h.pinSeen (h.capPin k) level)).setRegs
      (((GPIO_IN, 0), setBits (h.reg GPIO_IN) (h.capPin k) (h.capPin k) (b2n level)) :: l) := by
    rw [Hw.capSeen, hF]
    rfl
  refine (capPinEdge_captures hp hc hk hcap fun u => ?_).trans hpin
  have hnot : (TMR_CTRL, u) ∉ l.map Prod.fst := fun hm => hl (List.mem_map_of_mem (f := Prod.fst) hm)
  exact (setRegs_reg_of_notMem _ _ _ _ hnot).trans ((reg_of_regs _ _ _ _ (hregs _)).trans (hc.seen_reg (by decide) u))

end

section
variable {h : Hw} {k g : Nat} (hp : h.powered = true) (hk : k < 16) (hg : g = h.capPin k)
include hp hk hg

section
variable (hc : h.Captures k true)
include hc

theorem capPinEdge_rise (hnew : h.flag TMR_CAPSTAT k 0 = false) : h.capPinEdge k true 0 =
    (((h.pinSeen g true).fire (16 + 5 * k + 3)).updTmr k fun x => { x with width := some 0 }).setRegs
      [((GPIO_IN, 0), setBits (h.reg GPIO_IN) g g 1), ((TMR_CAPR, k), h.reg TMR_COUNT k),
        ((TMR_CAPSTAT, k), setBits (h.reg TMR_CAPSTAT k) 0 0 1)] := by
  have hcap := capRise_new hc.seen_on ((hc.seen_flag (by decide) k 0).trans hnew)
  rw [hc.seen_reg (show GPIO_IN ≠ TMR_COUNT by decide), hc.seen_reg (show GPIO_IN ≠ TMR_CAPSTAT by decide)] at hcap
  subst hg
  exact capPinEdge_setRegs (F := fun x => (x.fire (16 + 5 * k + 3)).updTmr k fun x => { x with width := some 0 }) hp hc hk
    (fun x v => congrArg (Hw.updTmr · k _) (fire_setReg x _ _ _ _ (by decide))) (fun _ => rfl)
    (show TMR_CTRL ∉ [TMR_CAPR, TMR_CAPSTAT] by decide) hcap

theorem capPinEdge_rise_read : h.capPinEdge k true 1 =
    ((((h.pinSeen g true).told (h.reg TMR_CAPR k)).fire (16 + 5 * k + 3)).updTmr k fun x => { x with width := some 0 }).setRegs
      [((GPIO_IN, 0), setBits (h.reg GPIO_IN) g g 1), ((TMR_CAPR, k), h.reg TMR_COUNT k),
        ((TMR_CAPSTAT, k), setBits (h.reg TMR_CAPSTAT k) 0 0 1)] := by
  have hcap := capRise_read hc.seen_on
  rw [hc.seen_reg (show GPIO_IN ≠ TMR_COUNT by decide), hc.seen_reg (show GPIO_IN ≠ TMR_CAPSTAT by decide),
    hc.seen_reg (show GPIO_IN ≠ TMR_CAPR by decide)] at hcap
  subst hg
  exact capPinEdge_setRegs (F := fun x => ((x.told (h.reg TMR_CAPR k)).fire (16 + 5 * k + 3)).updTmr k fun x => { x with width := some 0 })
    hp hc hk (fun x v => congrArg (Hw.updTmr · k _) (fire_setReg (x.told _) _ _ _ _ (by decide))) (fun _ => rfl)
    (show TMR_CTRL ∉ [TMR_CAPR, TMR_CAPSTAT] by decide) hcap

end

section
variable (hc : h.Captures k false) {w : Nat} (hwidth : (h.tmr k).width = some w)
include hc hwidth

theorem capPinEdge_fall (hmin : (h.reg TMR_MINW k).toNat ≤ w) (hnew : h.flag TMR_CAPSTAT k 1 = false) : h.capPinEdge k false 0 =
    (((h.pinSeen g false).updTmr k fun x => { x with width := none }).fire (16 + 5 * k + 4)).setRegs
      [((GPIO_IN, 0), setBits (h.reg GPIO_IN) g g 0), ((TMR_CAPF, k), h.reg TMR_COUNT k), ((TMR_WIDTH, k), w32 w),
        ((TMR_CAPSTAT, k), setBits (h.reg TMR_CAPSTAT k) 1 1 1)] := by
  have hcap := capFall_long hc.seen_on ((congrArg TmrSt.width (hc.seen_tmr k)).trans hwidth)
    (by rwa [hc.seen_reg (show GPIO_IN ≠ TMR_MINW by decide)]) ((hc.seen_flag (by decide) k 1).trans hnew)
  rw [hc.seen_reg (show GPIO_IN ≠ TMR_COUNT by decide), hc.seen_reg (show GPIO_IN ≠ TMR_CAPSTAT by decide)] at hcap
  subst hg
  exact capPinEdge_setRegs (F := fun x => (x.updTmr k fun x => { x with width := none }).fire (16 + 5 * k + 4)) hp hc hk
    (fun x v => fire_setReg (x.updTmr k fun x => { x with width := none }) _ _ _ _ (by decide)) (fun _ => rfl)
    (show TMR_CTRL ∉ [TMR_CAPF, TMR_WIDTH, TMR_CAPSTAT] by decide) hcap

theorem capPinEdge_short (hmin : w < (h.reg TMR_MINW k).toNat) : h.capPinEdge k false 0 =
    ((h.pinSeen g false).updTmr k fun x => { x with width := none }).setRegs
      [((GPIO_IN, 0), setBits (h.reg GPIO_IN) g g 0), ((SHORT_CNT, k), satAdd32 (h.reg SHORT_CNT k) 1)] := by
  have hcap := capFall_short hc.seen_on ((congrArg TmrSt.width (hc.seen_tmr k)).trans hwidth)
    (by rwa [hc.seen_reg (show GPIO_IN ≠ TMR_MINW by decide)])
  rw [hc.seen_reg (show GPIO_IN ≠ SHORT_CNT by decide)] at hcap
  subst hg
  exact capPinEdge_setRegs (F := fun x => x.updTmr k fun x => { x with width := none }) (l := [((SHORT_CNT, k), satAdd32 (h.reg SHORT_CNT k) 1)])
    hp hc hk (fun _ _ => rfl) (fun _ => rfl) (show TMR_CTRL ∉ [SHORT_CNT] by decide) hcap

end
end

/-! ### Actuator timeouts (11 R325) -/

section
variable {h : Hw} {k : Nat}

/-- The timeout of an entry that is off, that has none, that is in SAFE already or that has got an event does nothing. -/
theorem actTimeout_none (hno : bit (h.actWord k 0) 31 = false ∨ bits (h.actWord k 8) 15 0 = 0 ∨ h.flag ACT_STAT 0 k = true ∨ (h.act k).got = true) :
    h.actTimeout k = h := if_pos hno

/-- A report is the same whatever other register has been written. -/
theorem raisePkg_setReg (src i : Nat) {r : Rg} (hr : r ≠ STEP_NUM) (u : Nat) (v : Word) :
    (h.setReg r u v).raisePkg src i = (h.raisePkg src i).setReg r u v := by
  have hstep : (h.setReg r u v).stepNum = h.stepNum := reg_setReg_ne _ _ _ _ _ _ fun e => hr e.1
  rw [Hw.raisePkg, Hw.raise, hstep]
  rfl

/-- Of a duty on its way that may have landed nothing is left once none is on its way. -/
theorem updAct_pend_none (keep : Nat × Word → Bool) :
    (h.updAct k fun s => { s with pend := s.pend.filter keep }).updAct k (fun s => { s with pend := none }) =
      h.updAct k fun s => { s with pend := none } := by
  simp only [Hw.updAct, Hw.act, Tbl.get_set_same]
  generalize Tbl.get ({} : ActSt) h.acts k = a
  by_cases hd : { a with pend := a.pend.filter keep } = ({} : ActSt)
  · have hnone : { a with pend := none } = ({} : ActSt) := congrArg (fun s : ActSt => { s with pend := none }) hd
    rw [hd, hnone, Tbl.set_set_same]
  · rw [Tbl.set_set _ _ _ _ hd]

/-- SAFE in the shadow: no duty is on its way there. -/
theorem actSafe_eq (v : Word) : h.actSafe k v = (h.updAct k fun s => { s with pend := none }).setReg TMR_CMP1_SH k v :=
  congrArg (·.setReg TMR_CMP1_SH k v) (updAct_pend_none fun p => decide (h.dev < p.1))

/-- An entry goes to SAFE, which its status shows, and that is counted and reported. -/
theorem actSafe_reported (v : Word) : (((h.setFlag ACT_STAT 0 k true).actSafe k v).inc ACT_TMO_CNT).raisePkg fActTimeout k =
    ((h.updAct k fun s => { s with pend := none }).raisePkg fActTimeout k).setRegs
      [((ACT_STAT, 0), setBits (h.reg ACT_STAT) k k 1), ((TMR_CMP1_SH, k), v), ((ACT_TMO_CNT, 0), satAdd32 (h.reg ACT_TMO_CNT) 1)] := by
  have hsafe : (h.setFlag ACT_STAT 0 k true).updAct k (fun s => { s with pend := none }) =
      (h.updAct k fun s => { s with pend := none }).setReg ACT_STAT 0 (setBits (h.reg ACT_STAT) k k 1) := rfl
  rw [actSafe_eq, hsafe, Hw.inc, reg_setReg_ne _ _ _ _ _ _ fun e => absurd e.1 (by decide), reg_setReg_ne _ _ _ _ _ _ fun e => absurd e.1 (by decide),
    raisePkg_setReg _ _ (by decide), raisePkg_setReg _ _ (by decide), raisePkg_setReg _ _ (by decide)]
  rfl

theorem actTimeout_due {n : Nat} (hw : h.waits = []) (hon : bit (h.actWord k 0) 31 = true) (hn : n = bits (h.actWord k 8) 15 0) (hpos : n ≠ 0)
    (hsafe : h.flag ACT_STAT 0 k = false) (hgot : (h.act k).got = false) : h.actTimeout k =
      (((h.advTo ((h.act k).since + n * 10 * us)).updAct k fun v => { v with pend := none }).raisePkg fActTimeout k).setRegs
        [((ACT_STAT, 0), setBits (h.reg ACT_STAT) k k 1), ((TMR_CMP1_SH, k), h.actWord k 9), ((ACT_TMO_CNT, 0), satAdd32 (h.reg ACT_TMO_CNT) 1)] := by
  subst hn
  have hdue : ¬ (bit (h.actWord k 0) 31 = false ∨ bits (h.actWord k 8) 15 0 = 0 ∨ h.flag ACT_STAT 0 k = true ∨ (h.act k).got = true) := by
    simp [hon, hpos, hsafe, hgot]
  refine (if_neg hdue).trans ?_
  obtain ⟨d, p, e⟩ := advTo_of_noWaits h ((h.act k).since + bits (h.actWord k 8) 15 0 * 10 * us) hw
  simp only [e]
  exact actSafe_reported _

end

/-! ### Sinks (11 R328-R330) -/

section
variable {h : Hw}

/-- A latch that is empty takes a pulse, where no guard watches it; one that is full counts it. -/
theorem pulseLatch_taken (hu : h.Unguarded) {j : Nat} (hfree : h.flag PL_STAT 0 j = false) :
    h.pulseLatch j = h.setReg PL_STAT 0 (setBits (h.reg PL_STAT) j j 1) := by
  have hu' : (h.setFlag PL_STAT 0 j true).Unguarded := hu
  rw [Hw.pulseLatch, if_neg (by simp [hfree]), irqWatch_unguarded hu']
  rfl

theorem pulseLatch_full {j : Nat} (hfull : h.flag PL_STAT 0 j = true) : h.pulseLatch j = h.inc PL_OVR_CNT := if_pos hfull

/-- The older of two buffers, where it alone is FULL, is released. -/
theorem frameRel_first {k : Nat} (hfirst : h.flag FR_STAT k 0 = true) (hsecond : h.flag FR_STAT k 1 = false) :
    h.frameRel k = (h.setFlag FR_STAT k 0 false).setFlag FR_STAT k 2 false := by
  simp only [Hw.frameRel, hfirst, hsecond, Bool.false_eq_true, and_false, if_false]
  exact frameRelease_first h k hfirst

end

end Sys2Proof.Machine
end
section
/-! SUPPORT. DMA channels (12 R339-R348): what a trigger, the end of a transfer and a granule between two cores leave. -/

namespace Sys2Proof.Machine

/-! ### One channel updated -/

section
variable (h : Hw) (d : Nat) (f : DmaSt → DmaSt)

@[simp] theorem dma_updDma_same : (h.updDma d f).dma d = f (h.dma d) := Tbl.get_set_same ..
@[simp] theorem updDma_mem : (h.updDma d f).mem = h.mem := rfl
@[simp] theorem updDma_reg (r : Rg) (u : Nat) : (h.updDma d f).reg r u = h.reg r u := rfl

end

/-- A channel's key names its channel and its engine. -/
theorem dmaKey_mod (e : Quad) (c : Fin 16) : (16 * e.val + c.val) % 16 = c.val := by omega

theorem dmaKey_div (e : Quad) (c : Fin 16) : (16 * e.val + c.val) / 16 = e.val := by omega

/-! ### Starts and ends (12 R341, R343, R348) -/

section
variable {h : Hw} {d : Nat}

/-- A trigger that the channel does not listen to, or that falls in the cycle of an abort, is lost. -/
theorem dmaTrigger_off (hoff : h.flag (CH_CTRL (d % 16)) (d / 16) 1 = false) : h.dmaTrigger d = h := if_pos (.inl hoff)

section
variable (hon : h.flag (CH_CTRL (d % 16)) (d / 16) 1 = true) (habort : (h.dma d).abortAt ≠ some h.dev)
include hon habort

theorem dmaTrigger_starts : h.dmaTrigger d = h.dmaStart d := if_neg (by simp [hon, habort])

variable (hen : h.dmaEn d = true)
include hen

theorem dmaTrigger_idle (hidle : (h.dma d).busy = false) : h.dmaTrigger d = h.dmaBegin d := by
  rw [dmaTrigger_starts hon habort, Hw.dmaStart, if_neg (by simp [hen])]
  exact if_pos hidle

theorem dmaTrigger_busy (hbusy : (h.dma d).busy = true) (hfree : (h.dma d).latched = false) :
    h.dmaTrigger d = h.updDma d fun v => { v with latched := true } := by
  rw [dmaTrigger_starts hon habort, Hw.dmaStart, if_neg (by simp [hen])]
  simp only [hbusy, Bool.true_eq_false, if_false, hfree, Bool.false_eq_true]

theorem dmaTrigger_over (hbusy : (h.dma d).busy = true) (hfull : (h.dma d).latched = true) : h.dmaTrigger d = h.inc DMA_START_OVR_CNT (d / 16) := by
  rw [dmaTrigger_starts hon habort, Hw.dmaStart, if_neg (by simp [hen])]
  simp only [hbusy, Bool.true_eq_false, if_false, hfull, if_true]

end

theorem dmaComplete_running (hrun : (h.dma d).fin = false) : h.dmaComplete d = h := if_neg (by simp [hrun])

theorem dmaComplete_finished (hfin : (h.dma d).fin = true) (hnone : (h.dma d).latched = false) :
    h.dmaComplete d = (h.fire (96 + d)).updDma d fun _ => {} := by
  have hdma : (h.fire (96 + d)).dma d = h.dma d := rfl
  have hlatched : ¬ ((h.fire (96 + d)).dma d).latched = true := by simp [hdma, hnone]
  rw [Hw.dmaComplete, if_pos hfin, Hw.dmaEnd, if_neg hlatched]

/-- A channel that runs no transfer, or has made its last write, is not served. -/
theorem dmaServes_idle (hidle : (h.dma d).busy = false ∨ (h.dma d).fin = true) : h.dmaServes d = false := by
  have hready : h.dmaReady d = false := by
    obtain hbusy | hfin := hidle
    · simp [Hw.dmaReady, hbusy]
    · simp [Hw.dmaReady, hfin]
  refine beq_eq_false_iff_ne.2 fun hfound => ?_
  have hmem := (List.mem_filter.1 (List.mem_of_find?_eq_some hfound)).2
  simp [hready] at hmem

end

/-! ### Bytes and words (00 R11) -/

/-- Each byte of a word. -/
theorem byte_bytesWord (b : Nat → Byte) (i : Nat) (hi : i < 4) : (bytesWord (b 0) (b 1) (b 2) (b 3) >>> (8 * i)).setWidth 8 = b i := by
  apply BitVec.eq_of_getLsbD_eq
  intro j hj
  have hi4 : i = 0 ∨ i = 1 ∨ i = 2 ∨ i = 3 := by omega
  simp only [bytesWord, BitVec.getLsbD_setWidth, BitVec.getLsbD_ushiftRight, BitVec.getLsbD_append, hj, decide_true, Bool.true_and]
  obtain rfl | rfl | rfl | rfl := hi4
  · simp [hj]
  · rw [if_neg (by omega), if_pos (by omega), show 8 * 1 + j - 8 = j by omega]
  · rw [if_neg (by omega), if_neg (by omega), if_pos (by omega), show 8 * 2 + j - 8 - 8 = j by omega]
  · rw [if_neg (by omega), if_neg (by omega), if_neg (by omega), show 8 * 3 + j - 8 - 8 - 8 = j by omega]

theorem wordBytes_bytesWord (b0 b1 b2 b3 : Byte) : wordBytes (bytesWord b0 b1 b2 b3) = [b0, b1, b2, b3] := by
  have hbyte := byte_bytesWord fun i => [b0, b1, b2, b3].getD i 0#8
  simp only [wordBytes, List.cons.injEq, and_true]
  exact ⟨hbyte 0 (by omega), hbyte 1 (by omega), hbyte 2 (by omega), hbyte 3 (by omega)⟩

/-- A word whose four bytes are written one after another. -/
theorem setBits_bytes (v : Word) (b0 b1 b2 b3 : Byte) :
    setBits (setBits (setBits (setBits v 7 0 b0.toNat) 15 8 b1.toNat) 23 16 b2.toNat) 31 24 b3.toNat = bytesWord b0 b1 b2 b3 := by
  apply BitVec.eq_of_getLsbD_eq
  intro j hj
  simp only [testBit_setBits, bytesWord, BitVec.getLsbD_append, BitVec.testBit_toNat]
  by_cases h3 : 24 ≤ j
  · rw [if_pos (by omega), if_neg (by omega), if_neg (by omega), if_neg (by omega), show j - 8 - 8 - 8 = j - 24 by omega]
  rw [if_neg (by omega)]
  by_cases h2 : 16 ≤ j
  · rw [if_pos (by omega), if_neg (by omega), if_neg (by omega), if_pos (by omega), show j - 8 - 8 = j - 16 by omega]
  rw [if_neg (by omega)]
  by_cases h1 : 8 ≤ j
  · rw [if_pos (by omega), if_neg (by omega), if_pos (by omega)]
  · rw [if_neg (by omega), if_pos (by omega), if_pos (by omega), Nat.sub_zero]

/-! ### Words written from a sequence of bytes -/

/-- The block after the first n words of a sequence of bytes have been written from a on. -/
def Hw.putWords (h : Hw) (a : Nat) (b : Nat → Byte) (n : Nat) : Hw :=
  (List.range n).foldl (fun h i => h.setWord (a + 4 * i) (bytesWord (b (4 * i)) (b (4 * i + 1)) (b (4 * i + 2)) (b (4 * i + 3)))) h

section
variable (h : Hw) (a : Nat) (b : Nat → Byte) (n : Nat)

theorem putWords_succ : h.putWords a b (n + 1) =
    (h.putWords a b n).setWord (a + 4 * n) (bytesWord (b (4 * n)) (b (4 * n + 1)) (b (4 * n + 2)) (b (4 * n + 3))) := by
  simp only [Hw.putWords, List.range_succ, List.foldl_append, List.foldl_cons, List.foldl_nil]

/-- Memory and error marks are all that changes. -/
theorem putWords_frame : ∃ m k, h.putWords a b n = { h with mem := m, marks := k } := by
  induction n with
  | zero => exact ⟨_, _, rfl⟩
  | succ n ih =>
    obtain ⟨m, k, e⟩ := ih
    exact ⟨_, _, by rw [putWords_succ, e]; rfl⟩

/-- Every byte written reads as the sequence has it. -/
theorem byte_putWords_in (i : Nat) (hi : i < 4 * n) : (h.putWords a b n).byte (a + i) = b i := by
  induction n with
  | zero => omega
  | succ n ih =>
    rw [putWords_succ]
    by_cases hlt : i < 4 * n
    · rw [byte_setWord_ne _ _ _ _ (.inl (by omega)), ih hlt]
    · obtain ⟨j, rfl⟩ := Nat.exists_eq_add_of_le (Nat.not_lt.1 hlt)
      rw [← Nat.add_assoc, byte_setWord_same _ _ _ _ (by omega)]
      exact byte_bytesWord (fun i => b (4 * n + i)) j (by omega)

/-- Every other byte reads as before. -/
theorem byte_putWords_out (x : Nat) (hx : x < a ∨ a + 4 * n ≤ x) : (h.putWords a b n).byte x = h.byte x := by
  induction n with
  | zero => rfl
  | succ n ih => rw [putWords_succ, byte_setWord_ne _ _ _ _ (by omega), ih (by omega)]

end

/-! ### Lists and sources (12 R339, R340, R345) -/

/-- The n bytes of memory from a on, of words without error. -/
def Hw.goodBytes (h : Hw) (a n : Nat) : List (Byte × Bool) := (List.range n).map fun i => (h.byte (a + i), false)

section
variable {h : Hw} {e : Nat}

/-- An entry that has bytes left is not fetched again. -/
theorem dmaFetch_left {s : DmaSide} (hl : 0 < s.left) (n : Nat) : h.dmaFetch e s (n + 1) = (h, s, .ok) := if_pos (.inl hl)

/-- Good words of a core are read without any other effect. -/
theorem foldl_coreRead_words (hm : h.marks = []) (k a : Nat) (is : List Nat) (l : List (Option Word)) :
    is.foldl (fun (p : Hw × List (Option Word)) i => ((p.1.coreRead k (a + 4 * i)).1, p.2 ++ [(p.1.coreRead k (a + 4 * i)).2])) (h, l) =
      (h, l ++ is.map fun i => some (h.word (a + 4 * i))) := by
  induction is generalizing l with
  | nil => simp
  | cons i r ih =>
    rw [List.foldl_cons, coreRead_good _ _ _ (mark_of_marks_nil hm _), ih]
    simp

theorem dmaRead_core (hm : h.marks = []) {a k o : Nat} (hmpa : h.mpa a = some (.core k o)) (n : Nat) :
    h.dmaRead e a n = (h, .words ((List.range n).map fun i => some (h.word (a + 4 * i)))) := by
  simp only [Hw.dmaRead, hmpa, foldl_coreRead_words hm, List.nil_append]

/-- None of a granule's good words is counted. -/
theorem dmaUe_good (f : Nat → Word) (i n : Nat) : h.dmaUe e (ueInside ((List.range 8).map fun j => some (f j)) i n)
    (ueOutside ((List.range 8).map fun j => some (f j)) i n) = h := by
  have hin : ((List.range 8).map fun j => some (f j)).filter Option.isNone = [] := by simp
  have hout : ueOutside ((List.range 8).map fun j => some (f j)) i n = 0 := by
    rw [ueOutside, List.length_eq_zero_iff, List.filter_eq_nil_iff]
    intro w hw
    have hget : ((List.range 8).map fun j => some (f j)).getD w (some 0#32) = some (f w) := by
      simp [List.getD_eq_getElem?_getD, List.mem_range.1 hw]
    simp only [hget]
    simp
  simp only [ueInside, hin, hout, List.length_nil]
  rfl

theorem granBytes_words (a : Nat) : granBytes ((List.range 8).map fun i => some (h.word (a + 4 * i))) = h.goodBytes a 32 := by
  simp only [granBytes, List.flatMap_map, Hw.word, wordBytes_bytesWord]
  rfl

/-- The granule of an entry that begins it and is used up with it. -/
theorem dmaGather_granule (hm : h.marks = []) {s : DmaSide} (hleft : s.left = 32) (hal : s.addr % 32 = 0) {k o : Nat}
    (hmpa : h.mpa s.addr = some (.core k o)) (n : Nat) :
    h.dmaGather e s [] 32 (n + 2) = (h, { s with addr := s.addr + 32, left := 0 }, h.goodBytes s.addr 32, .ok) := by
  have hbase : s.addr / 32 * 32 = s.addr := by omega
  have htake : ((h.goodBytes s.addr 32).drop 0).take 32 = h.goodBytes s.addr 32 := rfl
  rw [Hw.dmaGather, if_neg (by simp), dmaFetch_left (by omega)]
  simp only [hbase, hal, dmaRead_core hm hmpa, dmaUe_good, granBytes_words, hleft, Nat.sub_zero, min_self, List.nil_append, htake, Nat.sub_self]
  exact (if_neg (by omega)).trans (if_pos (by simp [Hw.goodBytes]))

end

/-! ### Destinations (12 R340, R345) -/

section
variable {h : Hw} {e : Nat}

/-- Of 32 bytes that are written from a granule's start on, those of word i. -/
theorem filter_granule (b : Nat → Byte) {a : Nat} (ha : a % 32 = 0) {i : Nat} (hi : i < 8) :
    (((List.range 32).map fun j => (a + j, b j, false)).filter fun x => x.1 / 4 == (a + 4 * i) / 4) =
      [(a + 4 * i, b (4 * i), false), (a + (4 * i + 1), b (4 * i + 1), false), (a + (4 * i + 2), b (4 * i + 2), false),
        (a + (4 * i + 3), b (4 * i + 3), false)] := by
  have hword (j : Nat) : ((a + j) / 4 == (a + 4 * i) / 4) = (j / 4 == i) := by
    rw [Bool.eq_iff_iff, beq_iff_eq, beq_iff_eq]
    omega
  have hidx : ∀ i, i < 8 → ((List.range 32).filter fun j => j / 4 == i) = [4 * i, 4 * i + 1, 4 * i + 2, 4 * i + 3] := by decide
  rw [List.filter_map, show ((fun x : Nat × Byte × Bool => x.1 / 4 == (a + 4 * i) / 4) ∘ fun j => (a + j, b j, false)) = fun j => j / 4 == i from
    funext hword, hidx i hi]
  rfl

/-- A word all of whose bytes are written, none of them from an uncorrectable word. -/
theorem dmaWord_whole {w : Nat} (hw : w % 4 = 0) {xs : List (Nat × Byte × Bool)} {b0 b1 b2 b3 : Byte}
    (hmine : (xs.filter fun x => x.1 / 4 == w / 4) = [(w, b0, false), (w + 1, b1, false), (w + 2, b2, false), (w + 3, b3, false)]) :
    h.dmaWord e w xs = h.setWord w (bytesWord b0 b1 b2 b3) := by
  have h1 : (w + 1) % 4 = 1 := by omega
  have h2 : (w + 2) % 4 = 2 := by omega
  have h3 : (w + 3) % 4 = 3 := by omega
  simp only [Hw.dmaWord, hmine]
  simp [hw, h1, h2, h3, setBits_bytes]

/-- A granule of 32 good bytes goes to a core, whose QUIET a write of its SRAM clears. -/
theorem dmaWrite_core {a k o : Nat} (hmpa : h.mpa a = some (.core k o)) (ha : a % 32 = 0) (b : Nat → Byte) :
    h.dmaWrite e a ((List.range 32).map fun i => (b i, false)) = ((if o < 0x20000 then h.unquiet k else h).putWords a b 8, .done) := by
  have hxs : ((List.range ((List.range 32).map fun i => (b i, false)).length).map fun i =>
      (a + i, ((List.range 32).map fun i => (b i, false)).getD i (0#8, false))) = (List.range 32).map fun j => (a + j, b j, false) := by
    rw [List.length_map, List.length_range]
    refine List.map_congr_left fun i hi => ?_
    simp [List.getD_eq_getElem?_getD, List.mem_range.1 hi]
  have hbase : a / 32 * 32 = a := by omega
  have hput (g : Hw) : (List.range 8).foldl (fun h i => h.dmaWord e (a + 4 * i) ((List.range 32).map fun j => (a + j, b j, false))) g =
      g.putWords a b 8 :=
    List.foldl_ext _ _ _ fun t i hi => dmaWord_whole (by omega) (filter_granule b ha (List.mem_range.1 hi))
  simp only [Hw.dmaWrite, hmpa, hxs, hbase, hput]

end

/-! ### A granule between cores (12 R336, R340) -/

/-- The block in which 32 bytes from src on have been copied to dst, in the memories of core m: QUIET is cleared where that is its SRAM. -/
def Hw.granuleCopied (h : Hw) (src dst m off : Nat) : Hw :=
  (if off < 0x20000 then h.unquiet m else h).putWords dst (fun i => h.byte (src + i)) 8

section
variable (h : Hw) (src dst m off : Nat)

theorem unquiet_frame : ∃ cs, (if off < 0x20000 then h.unquiet m else h) = { h with cores := cs } := by
  split
  · exact ⟨_, rfl⟩
  · exact ⟨_, rfl⟩

theorem granuleCopied_frame : ∃ cs mem marks, h.granuleCopied src dst m off = { h with cores := cs, mem := mem, marks := marks } := by
  obtain ⟨cs, e⟩ := unquiet_frame h m off
  obtain ⟨mem, marks, e'⟩ := putWords_frame (if off < 0x20000 then h.unquiet m else h) dst (fun i => h.byte (src + i)) 8
  exact ⟨cs, mem, marks, by rw [Hw.granuleCopied, e', e]⟩

theorem byte_granuleCopied_in (i : Nat) (hi : i < 32) : (h.granuleCopied src dst m off).byte (dst + i) = h.byte (src + i) :=
  byte_putWords_in _ _ (fun i => h.byte (src + i)) 8 i hi

theorem byte_granuleCopied_out (a : Nat) (ha : a < dst ∨ dst + 32 ≤ a) : (h.granuleCopied src dst m off).byte a = h.byte a := by
  obtain ⟨cs, e⟩ := unquiet_frame h m off
  rw [Hw.granuleCopied, byte_putWords_out _ _ _ _ _ ha, e]
  rfl

end

/-- While both lists have more to come, a channel keeps where they stand. -/
theorem dmaAfter_goesOn (h : Hw) (d : Nat) {s t : DmaSide} (buf : List (Byte × Bool)) (hs : s.used = false) (ht : t.used = false) :
    h.dmaAfter d s t buf = h.dmaKeep d s t buf none := if_pos (by simp [hs, ht])

section
variable {h : Hw} {d k o m q : Nat} {v : DmaSt} (hv : v = h.dma d) (hbuf : v.buf = []) (hm : h.marks = []) (hsleft : v.src.left = 32)
  (hslast : v.src.last = false) (hdleft : v.dst.left = 64) (hsal : v.src.addr % 32 = 0) (hdal : v.dst.addr % 32 = 0)
  (hsmpa : h.mpa v.src.addr = some (.core k o)) (hdmpa : h.mpa v.dst.addr = some (.core m q))
include hv hbuf hm hsleft hslast hdleft hsal hdal hsmpa hdmpa

/-- A channel whose source entry ends with a granule and whose destination entry goes on after it copies the granule. -/
theorem dmaGranule_moves : h.dmaGranule d = ((h.granuleCopied v.src.addr v.dst.addr m q).inc DMA_GRAN_CNT (d / 16)).dmaKeep d
    { v.src with addr := v.src.addr + 32, left := 0 } { v.dst with addr := v.dst.addr + 32, left := 32 } [] none := by
  have hneed : min v.dst.left (32 - v.dst.addr % 32) = 32 := by omega
  have hlen : (h.goodBytes v.src.addr 32).length = 32 := by simp [Hw.goodBytes]
  have hall : (h.goodBytes v.src.addr 32).take 32 = h.goodBytes v.src.addr 32 := List.take_of_length_le hlen.le
  have hrest : (h.goodBytes v.src.addr 32).drop 32 = [] := List.drop_of_length_le hlen.le
  have hwrite : h.dmaWrite (d / 16) v.dst.addr (h.goodBytes v.src.addr 32) = (h.granuleCopied v.src.addr v.dst.addr m q, .done) :=
    dmaWrite_core hdmpa hdal fun i => h.byte (v.src.addr + i)
  have hmore : v.dst.left - 32 = 32 := by omega
  simp only [Hw.dmaGranule, ← hv, dmaFetch_left (show 0 < v.dst.left by omega), hneed, hbuf, dmaGather_granule hm hsleft hsal hsmpa, hlen, hall,
    hrest, show max 1 32 = 32 from rfl, min_self, if_neg (show ¬ 32 = 0 by decide), hwrite, hmore]
  exact dmaAfter_goesOn _ _ _ (by simp [DmaSide.used, hslast]) (by simp [DmaSide.used])

/-- What it leaves to be read. -/
theorem dmaGranule_leaves : (∀ i, i < 32 → (h.dmaGranule d).byte (v.dst.addr + i) = h.byte (v.src.addr + i)) ∧
    (∀ a, a < v.dst.addr ∨ v.dst.addr + 32 ≤ a → (h.dmaGranule d).byte a = h.byte a) ∧
    (h.dmaGranule d).dma d =
      { v with src := { v.src with addr := v.src.addr + 32, left := 0 }, dst := { v.dst with addr := v.dst.addr + 32, left := 32 }, hold := none } ∧
    (h.dmaGranule d).reg DMA_GRAN_CNT (d / 16) = satAdd32 (h.reg DMA_GRAN_CNT (d / 16)) 1 ∧
    ∀ r u, (r, u) ≠ (DMA_GRAN_CNT, d / 16) → (h.dmaGranule d).reg r u = h.reg r u := by
  have hin := byte_granuleCopied_in h v.src.addr v.dst.addr m q
  have hout := byte_granuleCopied_out h v.src.addr v.dst.addr m q
  obtain ⟨cs, mem, marks, hcopied⟩ := granuleCopied_frame h v.src.addr v.dst.addr m q
  rw [dmaGranule_moves hv hbuf hm hsleft hslast hdleft hsal hdal hsmpa hdmpa]
  have hbyte (a : Nat) : (((h.granuleCopied v.src.addr v.dst.addr m q).inc DMA_GRAN_CNT (d / 16)).dmaKeep d
      { v.src with addr := v.src.addr + 32, left := 0 } { v.dst with addr := v.dst.addr + 32, left := 32 } [] none).byte a =
        (h.granuleCopied v.src.addr v.dst.addr m q).byte a := byte_of_mem (by rw [Hw.dmaKeep, updDma_mem, inc_mem]) a
  refine ⟨fun i hi => (hbyte _).trans (hin i hi), fun a ha => (hbyte a).trans (hout a ha), ?_, ?_, fun r u hne => ?_⟩
  · have hdma : ((h.granuleCopied v.src.addr v.dst.addr m q).inc DMA_GRAN_CNT (d / 16)).dma d = v := by
      rw [Hw.dma, inc_dmas, hcopied]
      exact hv.symm
    simp only [Hw.dmaKeep, dma_updDma_same, hdma, hbuf]
  · rw [Hw.dmaKeep, updDma_reg, reg_inc_same, hcopied]
    rfl
  · rw [Hw.dmaKeep, updDma_reg, reg_inc_ne _ _ _ _ _ _ fun e => hne (by rw [← e.1, ← e.2]), hcopied]
    rfl

end

end Sys2Proof.Machine
end
section
/-! SUPPORT. The statement on timers, pins, sinks and channels (11 R311-R330, 12 R340-R343): the commands of each group, and all of them. -/

namespace Sys2Proof.Machine

/-! ### What the blocks that the clauses name leave of registers -/

@[simp] theorem updTmr_regs (h : Hw) (k : Nat) (f : TmrSt → TmrSt) : (h.updTmr k f).regs = h.regs := rfl

@[simp] theorem updAct_regs (h : Hw) (k : Nat) (f : ActSt → ActSt) : (h.updAct k f).regs = h.regs := rfl

@[simp] theorem told_regs (h : Hw) (v : Word) : (h.told v).regs = h.regs := rfl

@[simp] theorem widthTicks_regs (h : Hw) (k n : Nat) : (h.widthTicks k n).regs = h.regs := rfl

@[simp] theorem raisePkg_regs (h : Hw) (src i : Nat) : (h.raisePkg src i).regs = h.regs := raise_regs ..

theorem Hw.TicksIn.regs {h x : Hw} {k : Nat} (hx : h.TicksIn k x) : x.regs = h.regs := by
  obtain ⟨d, p, ts, l, rfl⟩ := hx.taken.rest
  rfl

theorem pinSeen_regs {h : Hw} (hw : h.waits = []) (g : Nat) (level : Bool) : (h.pinSeen g level).regs = h.regs := by
  obtain ⟨d, p, l, a, e⟩ := pinSeen_frame hw g level
  rw [e]

theorem advTo_regs {h : Hw} (hw : h.waits = []) (t : Nat) : (h.advTo t).regs = h.regs := by
  obtain ⟨d, p, e⟩ := advTo_of_noWaits h t hw
  rw [e]

section
variable {h x : Hw} {sink : Nat} (hx : h.PulseAt sink x)
include hx

theorem Hw.PulseAt.regs : x.regs = h.regs := by
  obtain ⟨d, p, l, rfl⟩ := hx.frame
  rfl

theorem Hw.PulseAt.reg (r : Rg) (u : Nat) : x.reg r u = h.reg r u := reg_of_regs _ _ _ _ hx.regs

theorem Hw.PulseAt.flag (r : Rg) (u i : Nat) : x.flag r u i = h.flag r u i := congrArg (bit · i) (hx.reg r u)

theorem Hw.PulseAt.en (r : Rg) (u i : Nat) : x.en r u i = h.en r u i := by
  obtain ⟨d, p, l, rfl⟩ := hx.frame
  rfl

theorem Hw.PulseAt.dma (d : Nat) : x.dma d = h.dma d := by
  obtain ⟨t, p, l, rfl⟩ := hx.frame
  rfl

end

theorem toNat_ne_zero {w : Word} (hw : w ≠ 0#32) : w.toNat ≠ 0 := fun e => hw (BitVec.eq_of_toNat_eq e)

/-! ### Commands of the timers -/

section
variable {s : State} {k : TmrId} {x : Hw} {i : Instr} (hp : s.hw.powered = true) (hx : s.hw.TicksIn k x) (hu : s.hw.Unguarded)
include hp hx hu

/-- The tick whose count reaches CMP0, and the match that names it. -/
theorem effect_tmrMatch_zero {p : Nat} (hcount : p = (s.hw.reg TMR_COUNT k).toNat) (htop : p < (s.hw.reg TMR_TOP k).toNat)
    (hzero : (s.hw.reg TMR_CMP0 k).toNat = p + 1) (hone : (s.hw.reg TMR_CMP1 k).toNat ≠ p + 1) (hi : i ∈ [.tmrGatedTick k, .tmrMatch k false]) :
    Effect i s ((x.widthTicks k 1).fire (16 + 5 * k)) [((TMR_COUNT, k), w32 (p + 1)), ((TMR_STAT, k), setBits (s.hw.reg TMR_STAT k) 0 0 1)] := by
  have htick := tmrTick_zero hp hx hcount htop hu hzero hone
  have hregs : ((x.widthTicks k 1).fire (16 + 5 * k)).regs = s.hw.regs := by rw [fire_regs, widthTicks_regs, hx.regs]
  have hnames : [TMR_COUNT, TMR_STAT].Nodup := by decide
  obtain rfl | rfl : i = .tmrGatedTick k ∨ i = .tmrMatch k false := by simpa using hi
  · exact effect_setRegs (f := fun h => h.tmrTick k) rfl hp htick hregs hnames
  · exact effect_setRegs (f := fun h => h.tmrMatch k false) rfl hp ((tmrMatch_reached hcount htop false hzero).trans htick) hregs hnames

end

section
variable {s : State} {k : TmrId} {x : Hw} {i : Instr} (hp : s.hw.powered = true) (hx : s.hw.TicksIn k x) (hu : s.hw.Unguarded)
  (hfed : k.val = 15 ∨ s.hw.tbSel (k.val + 1) ≠ 3) (htop : (s.hw.reg TMR_TOP k).toNat ≤ (s.hw.reg TMR_COUNT k).toNat)
  (hzero : s.hw.reg TMR_CMP0 k ≠ 0#32)
include hp hx hu hfed htop hzero

/-- The tick that wraps a count which no timer is fed by. -/
theorem effect_tmrWrap (hpwm : s.hw.pwmMode k = false) (hone : s.hw.reg TMR_CMP1 k ≠ 0#32) (hi : i ∈ [.tmrGatedTick k, .tmrWrap k]) :
    Effect i s ((x.widthTicks k 1).fire (16 + 5 * k + 2)) [((TMR_COUNT, k), 0#32), ((TMR_STAT, k), setBits (s.hw.reg TMR_STAT k) 2 2 1)] := by
  have htick := tmrTick_wrap hp hx htop hu (hfed.imp_left fun hlast => by omega) (toNat_ne_zero hzero) hpwm (toNat_ne_zero hone)
  have hregs : ((x.widthTicks k 1).fire (16 + 5 * k + 2)).regs = s.hw.regs := by rw [fire_regs, widthTicks_regs, hx.regs]
  have hnames : [TMR_COUNT, TMR_STAT].Nodup := by decide
  obtain rfl | rfl : i = .tmrGatedTick k ∨ i = .tmrWrap k := by simpa using hi
  · exact effect_setRegs (f := fun h => h.tmrTick k) rfl hp htick hregs hnames
  · exact effect_setRegs (f := fun h => h.tmrWrap k) rfl hp ((tmrWrap_top htop).trans htick) hregs hnames

/-- The same in PWM mode, where CMP1 takes the shadow. -/
theorem effect_tmrWrap_pwm (hpwm : s.hw.pwmMode k = true) (hone : x.shadow k ≠ 0#32) :
    Effect (.tmrWrap k) s (((x.widthTicks k 1).fire (16 + 5 * k + 2)).updTmr k fun v => { v with pwm := true })
      [((TMR_COUNT, k), 0#32), ((TMR_STAT, k), setBits (s.hw.reg TMR_STAT k) 2 2 1), ((TMR_CMP1, k), x.shadow k)] := by
  have htick := tmrTick_wrap_pwm hp hx htop hu (hfed.imp_left fun hlast => by omega) (toNat_ne_zero hzero) hpwm (toNat_ne_zero hone)
  have hnames : [TMR_COUNT, TMR_STAT, TMR_CMP1].Nodup := by decide
  refine effect_setRegs (f := fun h => h.tmrWrap k) rfl hp ((tmrWrap_top htop).trans htick) ?_ hnames
  rw [updTmr_regs, fire_regs, widthTicks_regs, hx.regs]

end

/-! ### Commands of the pins -/

section
variable {s : State} {g : Fin 32} {v : Bool}

/-- A level that a filter accepts, of a pin that no timer watches. -/
theorem effect_gpioFilterAccept (hp : s.hw.powered = true) (hw : s.hw.waits = []) (hl : s.hw.flag GPIO_IN 0 g ≠ v)
    (hno : ∀ i, i < 16 → s.hw.flag TMR_CTRL i 23 = false ∨ s.hw.capPin i ≠ g.val) :
    Effect (.gpioFilterAccept g v) s (s.hw.pinSeen g v) [((GPIO_IN, 0), setBits (s.hw.reg GPIO_IN) g g (b2n v))] := by
  have hctrl (i : Nat) : ((s.hw.pinSeen g v).setReg GPIO_IN 0 (setBits (s.hw.reg GPIO_IN) g g (b2n v))).reg TMR_CTRL i = s.hw.reg TMR_CTRL i := by
    rw [reg_setReg_ne _ _ _ _ _ _ fun e => absurd e.1 (by decide), reg_of_regs _ _ _ _ (pinSeen_regs hw g v)]
  have hunwatched : ((s.hw.pinSeen g v).setReg GPIO_IN 0 (setBits (s.hw.reg GPIO_IN) g g (b2n v))).capEdge g v 16 0 =
      (s.hw.pinSeen g v).setReg GPIO_IN 0 (setBits (s.hw.reg GPIO_IN) g g (b2n v)) :=
    capEdge_unwatched (by simpa only [Hw.flag, Hw.capPin, Hw.fld, hctrl] using hno) 16 0
  exact effect_setReg (f := fun h => h.gpioAccept g v 16 0) rfl hp ((gpioAccept_new hp hw hl 16 0).trans hunwatched) (pinSeen_regs hw g v)

end

section
variable {s : State} {k : TmrId} {g : Nat} (hp : s.hw.powered = true) (hg : g = s.hw.capPin k)
include hp hg

theorem effect_tmrCaptureRise (hc : s.hw.Captures k true) (hnew : s.hw.flag TMR_CAPSTAT k 0 = false) :
    Effect (.tmrCaptureRise k false) s (((s.hw.pinSeen g true).fire (16 + 5 * k + 3)).updTmr k fun x => { x with width := some 0 })
      [((GPIO_IN, 0), setBits (s.hw.reg GPIO_IN) g g 1), ((TMR_CAPR, k), s.hw.reg TMR_COUNT k),
        ((TMR_CAPSTAT, k), setBits (s.hw.reg TMR_CAPSTAT k) 0 0 1)] := by
  have hnames : [GPIO_IN, TMR_CAPR, TMR_CAPSTAT].Nodup := by decide
  refine effect_setRegs (f := fun h => h.capPinEdge k true 0) rfl hp (capPinEdge_rise hp k.isLt hg hc hnew) ?_ hnames
  rw [updTmr_regs, fire_regs, pinSeen_regs hc.1]

theorem effect_tmrCaptureRise_read (hc : s.hw.Captures k true) :
    Effect (.tmrCaptureRise k true) s
      ((((s.hw.pinSeen g true).told (s.hw.reg TMR_CAPR k)).fire (16 + 5 * k + 3)).updTmr k fun x => { x with width := some 0 })
      [((GPIO_IN, 0), setBits (s.hw.reg GPIO_IN) g g 1), ((TMR_CAPR, k), s.hw.reg TMR_COUNT k),
        ((TMR_CAPSTAT, k), setBits (s.hw.reg TMR_CAPSTAT k) 0 0 1)] := by
  have hnames : [GPIO_IN, TMR_CAPR, TMR_CAPSTAT].Nodup := by decide
  refine effect_setRegs (f := fun h => h.capPinEdge k true 1) rfl hp (capPinEdge_rise_read hp k.isLt hg hc) ?_ hnames
  rw [updTmr_regs, fire_regs, told_regs, pinSeen_regs hc.1]

variable {w : Nat} (hc : s.hw.Captures k false) (hwidth : (s.hw.tmr k).width = some w)
include hc hwidth

theorem effect_tmrCaptureFall (hmin : (s.hw.reg TMR_MINW k).toNat ≤ w) (hnew : s.hw.flag TMR_CAPSTAT k 1 = false) :
    Effect (.tmrCaptureFall k 0) s (((s.hw.pinSeen g false).updTmr k fun x => { x with width := none }).fire (16 + 5 * k + 4))
      [((GPIO_IN, 0), setBits (s.hw.reg GPIO_IN) g g 0), ((TMR_CAPF, k), s.hw.reg TMR_COUNT k), ((TMR_WIDTH, k), w32 w),
        ((TMR_CAPSTAT, k), setBits (s.hw.reg TMR_CAPSTAT k) 1 1 1)] := by
  have hnames : [GPIO_IN, TMR_CAPF, TMR_WIDTH, TMR_CAPSTAT].Nodup := by decide
  refine effect_setRegs (f := fun h => h.capPinEdge k false 0) rfl hp (capPinEdge_fall hp k.isLt hg hc hwidth hmin hnew) ?_ hnames
  rw [fire_regs, updTmr_regs, pinSeen_regs hc.1]

theorem effect_tmrCaptureFall_short (hmin : w < (s.hw.reg TMR_MINW k).toNat) :
    Effect (.tmrCaptureFall k 0) s ((s.hw.pinSeen g false).updTmr k fun x => { x with width := none })
      [((GPIO_IN, 0), setBits (s.hw.reg GPIO_IN) g g 0), ((SHORT_CNT, k), satAdd32 (s.hw.reg SHORT_CNT k) 1)] := by
  have hnames : [GPIO_IN, SHORT_CNT].Nodup := by decide
  refine effect_setRegs (f := fun h => h.capPinEdge k false 0) rfl hp (capPinEdge_short hp k.isLt hg hc hwidth hmin) ?_ hnames
  rw [updTmr_regs, pinSeen_regs hc.1]

end

/-- The timeout of an actuator entry that no event has reached. -/
theorem effect_actTimeout {s : State} {k : TmrId} {n : Nat} (hp : s.hw.powered = true) (hon : bit (s.hw.actWord k 0) 31 = true)
    (hn : n = bits (s.hw.actWord k 8) 15 0) (hpos : n ≠ 0) (hsafe : s.hw.flag ACT_STAT 0 k = false) (hgot : (s.hw.act k).got = false)
    (hw : s.hw.waits = []) : Effect (.actTimeout k) s
      (((s.hw.advTo ((s.hw.act k).since + n * 10 * us)).updAct k fun v => { v with pend := none }).raisePkg fActTimeout k)
      [((ACT_STAT, 0), setBits (s.hw.reg ACT_STAT) k k 1), ((TMR_CMP1_SH, k), s.hw.actWord k 9),
        ((ACT_TMO_CNT, 0), satAdd32 (s.hw.reg ACT_TMO_CNT) 1)] := by
  have hnames : [ACT_STAT, TMR_CMP1_SH, ACT_TMO_CNT].Nodup := by decide
  refine effect_setRegs (f := fun h => h.actTimeout k) rfl hp (actTimeout_due hw hon hn hpos hsafe hgot) ?_ hnames
  rw [raisePkg_regs, updAct_regs, advTo_regs hw]

/-! ### Commands of the sinks -/

section
variable {s : State} {x : Hw} (hp : s.hw.powered = true)
include hp

/-- The command of a sink acts on the block at the time its pulse arrives. -/
theorem answers_pulse {i : Instr} {sink : Nat} {act : Hw → Hw} {P : Hw → Prop} (hi : exec i s = s.onHw fun h => h.withPulse sink act)
    (hx : s.hw.PulseAt sink x) (hact : P (act x)) : Answers i s P := by
  refine answers_onHw hi hp ?_
  rwa [withPulse_at hx]

/-- One that writes a register there has that effect. -/
theorem effect_pulse {i : Instr} {sink : Nat} {act : Hw → Hw} {g : Hw} {r : Rg} {u : Nat} {v : Word}
    (hi : exec i s = s.onHw fun h => h.withPulse sink act) (hx : s.hw.PulseAt sink x) (hact : act x = g.setReg r u v) (hregs : g.regs = x.regs) :
    Effect i s g [((r, u), v)] := by
  refine answers_pulse hp hi hx ?_
  rw [hact]
  exact .one _ _ (hregs.trans hx.regs) _ _ _

/-- A START without a STOP in its cycle of PCLK enables the timer. -/
theorem effect_xbTmrStart {k : TmrId} (hx : s.hw.PulseAt (4 * k) x) (hfree : ((x.tmr k).stopAt.any fun t => t / 4 == x.dev / 4) = false) :
    Effect (.xbTmrStart k) s x [((TMR_CTRL, k), setBits (s.hw.reg TMR_CTRL k) 0 0 1)] := by
  have hstart : x.xbStart k = x.setReg TMR_CTRL k (setBits (s.hw.reg TMR_CTRL k) 0 0 1) := by
    rw [← hx.reg]
    exact if_neg (by simp [hfree])
  exact effect_pulse (act := fun h => h.xbStart k) hp rfl hx hstart rfl

/-- A STOP disables it, and its cycle is kept. -/
theorem effect_xbTmrStop {k : TmrId} (hx : s.hw.PulseAt (4 * k + 1) x) :
    Effect (.xbTmrStop k) s (x.updTmr k fun v => { v with stopAt := some x.dev }) [((TMR_CTRL, k), setBits (s.hw.reg TMR_CTRL k) 0 0 0)] := by
  have hstop : x.xbStop k = (x.updTmr k fun v => { v with stopAt := some x.dev }).setReg TMR_CTRL k (setBits (s.hw.reg TMR_CTRL k) 0 0 0) := by
    rw [← hx.reg]
    rfl
  exact effect_pulse (act := fun h => h.xbStop k) hp rfl hx hstop rfl

/-- A pulse into a latch sets it, or is counted where the latch is full. -/
theorem effect_xbPulseLatch {j : Fin 32} (hx : s.hw.PulseAt (0x40 + j) x) (hu : s.hw.Unguarded) :
    Effect (.xbPulseLatch j) s x [if s.hw.flag PL_STAT 0 j = true then ((PL_OVR_CNT, 0), satAdd32 (s.hw.reg PL_OVR_CNT) 1)
      else ((PL_STAT, 0), setBits (s.hw.reg PL_STAT) j j 1)] := by
  have hflag : x.flag PL_STAT 0 j = s.hw.flag PL_STAT 0 j := hx.flag PL_STAT 0 j
  have hux : x.Unguarded := by
    obtain ⟨d, p, l, rfl⟩ := hx.frame
    exact hu
  split
  next hfull =>
    rw [← hx.reg]
    exact effect_pulse (act := fun h => h.pulseLatch j) hp rfl hx (pulseLatch_full (hflag.trans hfull)) rfl
  next hfree =>
    rw [← hx.reg]
    exact effect_pulse (act := fun h => h.pulseLatch j) hp rfl hx (pulseLatch_taken hux (hflag.trans (Bool.eq_false_iff.2 hfree))) rfl

/-- A pulse into FRAME_REL releases the one buffer that is FULL. -/
theorem effect_xbFrameRel {k : CsiId} (hx : s.hw.PulseAt (0xA0 + k) x) (hfirst : s.hw.flag FR_STAT k 0 = true)
    (hsecond : s.hw.flag FR_STAT k 1 = false) :
    Effect (.xbFrameRel k) s x [((FR_STAT, k), setBits (setBits (s.hw.reg FR_STAT k) 0 0 0) 2 2 0)] := by
  have hrel : x.frameRel k = (x.setFlag FR_STAT k 0 false).setFlag FR_STAT k 2 false :=
    frameRel_first ((hx.flag FR_STAT k 0).trans hfirst) ((hx.flag FR_STAT k 1).trans hsecond)
  refine answers_pulse (act := fun h => h.frameRel k) hp rfl hx ?_
  obtain ⟨d, p, l, rfl⟩ := hx.frame
  rw [hrel]
  exact now_setFlag_setFlag ..

/-- A pulse into an injection slot is counted in the bin of its time. -/
theorem answers_xbInject {j : Fin 32} (hx : s.hw.PulseAt (0xA8 + j) x) :
    Answers (.xbInject j) s fun t =>
      t.inj j = { count := (s.hw.inj j).count + 1, sub := if (s.hw.inj j).count = 0 then (x.binSub x.dev).1 else (s.hw.inj j).sub } ∧
        s.hw.Now { x with injs := t.injs } [] t := by
  refine answers_pulse (act := fun h => h.injPulse j) hp rfl hx ⟨?_, .intro _ _ hx.regs⟩
  have hinj : x.inj j = s.hw.inj j := by
    obtain ⟨d, p, l, rfl⟩ := hx.frame
    rfl
  rw [← hinj, Hw.inj, Hw.injPulse, Tbl.get, Tbl.find_put, if_pos rfl]
  rfl

/-- The command of a trigger sink is its channel's trigger. -/
theorem answers_xbDmaTrigger {e : Quad} {c : Fin 16} {P : Hw → Prop} (hx : s.hw.PulseAt (0x60 + (16 * e.val + c.val)) x)
    (hact : P (x.dmaTrigger (16 * e.val + c.val))) : Answers (.xbDmaTrigger e c) s P := by
  refine answers_pulse (act := fun h => h.dmaTrigger (16 * e.val + c.val)) hp ?_ hx hact
  rw [← Nat.add_assoc]
  rfl

/-- A trigger that its channel listens to, outside the cycle of an abort, starts the channel, is latched, or is counted. -/
theorem xbDmaTrigger_on {e : Quad} {c : Fin 16} {d : Nat} (hd : d = 16 * e.val + c.val) (hx : s.hw.PulseAt (0x60 + d) x)
    (hon : s.hw.flag (CH_CTRL c) e 1 = true) (hen : s.hw.en (CH_CTRL c) e 0 = true) (habort : (s.hw.dma d).abortAt ≠ some x.dev) :
    ((s.hw.dma d).busy = false → Answers (.xbDmaTrigger e c) s (· = x.updDma d fun _ =>
      { busy := true, src := { ent := shortMpa (s.hw.reg (CH_SRC_LIST c) e) }, dst := { ent := shortMpa (s.hw.reg (CH_DST_LIST c) e) } })) ∧
    ((s.hw.dma d).busy = true → (s.hw.dma d).latched = false →
      Answers (.xbDmaTrigger e c) s (· = x.updDma d fun v => { v with latched := true })) ∧
    ((s.hw.dma d).busy = true → (s.hw.dma d).latched = true →
      Effect (.xbDmaTrigger e c) s x [((DMA_START_OVR_CNT, e), satAdd32 (s.hw.reg DMA_START_OVR_CNT e) 1)]) := by
  have hmod : d % 16 = c.val := hd ▸ dmaKey_mod e c
  have hdiv : d / 16 = e.val := hd ▸ dmaKey_div e c
  rw [← hmod, ← hdiv] at hon hen ⊢
  have hact {P : Hw → Prop} (h : P (x.dmaTrigger d)) : Answers (.xbDmaTrigger e c) s P := by
    subst hd
    exact answers_xbDmaTrigger hp hx h
  rw [← hx.flag] at hon
  rw [← hx.en] at hen
  rw [← hx.dma] at habort ⊢
  simp only [← hx.reg]
  exact ⟨fun hidle => hact (dmaTrigger_idle hon habort hen hidle), fun hbusy hfree => hact (dmaTrigger_busy hon habort hen hbusy hfree),
    fun hbusy hfull => hact (dmaTrigger_over hon habort hen hbusy hfull ▸ .one _ _ hx.regs _ _ _)⟩

theorem xbDmaTrigger_off {e : Quad} {c : Fin 16} {d : Nat} (hd : d = 16 * e.val + c.val) (hx : s.hw.PulseAt (0x60 + d) x)
    (hoff : s.hw.flag (CH_CTRL c) e 1 = false) : Answers (.xbDmaTrigger e c) s (· = x) := by
  subst hd
  refine answers_xbDmaTrigger hp hx (dmaTrigger_off ?_)
  rw [dmaKey_mod, dmaKey_div]
  exact (hx.flag _ _ _).trans hoff

end

/-! ### The statement -/

/-- Settles O57: each command is its operation. A tick acts on the block that takes it, a sink on the block at the time its pulse arrives, and a
capture on the block in which the filter has accepted the level; the lemma on that operation gives what it leaves. -/
theorem timersCrossbarAndDma : Obligations.TimersCrossbarAndDma := by
  refine ⟨?pinSame, ?pinNew, ?noTick, ?counts, ?zero, ?one, ?wraps, ?wrapsPwm, ?fed, ?capOff, ?rise, ?riseRead, ?fall, ?short, ?timeout, ?noTimeout,
    ?runs, ?noPulse, ?latch, ?frame, ?inject, ?trigger, ?noGranule, ?granule, ?completes, ?running⟩
  case pinSame => exact fun s g v hl => ignored_of_same (f := fun h => h.gpioAccept g v 16 0) rfl (gpioAccept_same hl 16 0)
  case pinNew => exact fun s g v hp hw hl hno => effect_gpioFilterAccept hp hw hl hno
  case noTick =>
    intro s k hno
    have hsame := tmrTick_none hno
    exact ⟨ignored_of_same (f := fun h => h.tmrTick k) rfl hsame, ignored_of_same (f := fun h => h.tmrWrap k) rfl (tmrWrap_unmoved hsame),
      fun b => ignored_of_same (f := fun h => h.tmrMatch k b) rfl (tmrMatch_unmoved hsame b)⟩
  case counts =>
    exact fun s k p x hp hx hcount htop hzero hone =>
      effect_setReg (f := fun h => h.tmrTick k) rfl hp (tmrTick_counts hp hx hcount htop hzero hone) hx.regs
  case zero => exact fun s k p x i hp hx hu hcount htop hzero hone hi => effect_tmrMatch_zero hp hx hu hcount htop hzero hone hi
  case one =>
    exact fun s k p x hp hx hu hcount htop hzero hone => effect_setRegs (f := fun h => h.tmrMatch k true) rfl hp
      ((tmrMatch_reached hcount htop true hone).trans (tmrTick_one hp hx hcount htop hu hzero hone)) hx.regs
      (show [TMR_COUNT, TMR_STAT].Nodup by decide)
  case wraps => exact fun s k x i hp hx hu hpwm hfed htop hzero hone hi => effect_tmrWrap hp hx hu hfed htop hzero hpwm hone hi
  case wrapsPwm => exact fun s k x hp hx hu hpwm hfed htop hzero hone => effect_tmrWrap_pwm hp hx hu hfed htop hzero hpwm hone
  case fed =>
    intro s k x hp hx hk hsel hon htop
    refine answers_onHw (f := fun h => h.tmrWrap k) rfl hp ?_
    rw [tmrWrap_top htop]
    exact tmrTick_fed hp hx htop (by omega) hsel hon
  case capOff =>
    intro s k hoff
    have hsame (level : Bool) (read : Nat) : s.hw.capPinEdge k level read = s.hw := if_neg (by simp [hoff])
    exact ⟨fun b => ignored_of_same (f := fun h => h.capPinEdge k true (b2n b)) rfl (hsame true (b2n b)),
      fun n => ignored_of_same (f := fun h => h.capPinEdge k false n) rfl (hsame false n)⟩
  case rise => exact fun s k g hp hc hg hnew => effect_tmrCaptureRise hp hg hc hnew
  case riseRead => exact fun s k g hp hc hg => effect_tmrCaptureRise_read hp hg hc
  case fall => exact fun s k g w hp hc hg hwidth hmin hnew => effect_tmrCaptureFall hp hg hc hwidth hmin hnew
  case short => exact fun s k g w hp hc hg hwidth hmin => effect_tmrCaptureFall_short hp hg hc hwidth hmin
  case timeout => exact fun s k n hp hon hn hpos hsafe hgot hw => effect_actTimeout hp hon hn hpos hsafe hgot hw
  case noTimeout => exact fun s k hno => ignored_of_same (f := fun h => h.actTimeout k) rfl (actTimeout_none hno)
  case runs =>
    refine fun s k x hp => ⟨fun hx hfree => effect_xbTmrStart hp hx hfree, fun hx hstopped => ?_, fun hx => effect_xbTmrStop hp hx,
      fun hx => effect_pulse (act := fun h => h.setReg TMR_COUNT k 0#32) hp rfl hx rfl rfl⟩
    exact answers_pulse (act := fun h => h.xbStart k) hp rfl hx (if_pos hstopped)
  case noPulse =>
    intro s k hno
    exact ⟨ignored_of_same (f := fun h => h.withPulse (4 * k.val) fun h => h.xbStart k) rfl (withPulse_none (fun p hp => (hno p hp).1) _),
      ignored_of_same (f := fun h => h.withPulse (4 * k.val + 1) fun h => h.xbStop k) rfl (withPulse_none (fun p hp => (hno p hp).2.1) _),
      ignored_of_same (f := fun h => h.withPulse (4 * k.val + 2) fun h => h.setReg TMR_COUNT k 0#32) rfl
        (withPulse_none (fun p hp => (hno p hp).2.2) _)⟩
  case latch => exact fun s j x hp hx hu => effect_xbPulseLatch hp hx hu
  case frame => exact fun s k x hp hx hfirst hsecond => effect_xbFrameRel hp hx hfirst hsecond
  case inject => exact fun s j x hp hx => answers_xbInject hp hx
  case trigger =>
    exact fun s e c d x hp hd hx => ⟨fun hoff => xbDmaTrigger_off hp hd hx hoff, fun hon hen habort => xbDmaTrigger_on hp hd hx hon hen habort⟩
  case noGranule =>
    intro s e c hidle
    refine ignored_of_same (f := fun h => h.dmaTurnOf (16 * e.val + c.val)) rfl ?_
    exact if_neg (by simp [dmaServes_idle hidle])
  case granule =>
    intro s e c d k o m q v hp hd hv hserves hbuf hm hsleft hslast hdleft hsal hdal hsmpa hdmpa
    have hdiv : d / 16 = e.val := hd ▸ dmaKey_div e c
    have hturn : s.hw.dmaTurnOf d = ({ s.hw with dmaTurn := Tbl.set 0 s.hw.dmaTurn (d / 16) (d % 16 + 1) } : Hw).dmaGranule d := if_pos hserves
    refine answers_onHw (f := fun h => h.dmaTurnOf d) (by rw [hd]; rfl) hp ?_
    rw [hturn, ← hdiv]
    exact dmaGranule_leaves hv hbuf hm hsleft hslast hdleft hsal hdal hsmpa hdmpa
  case completes =>
    intro s e c d hp hd hfin hnone
    subst hd
    exact answers_onHw (f := fun h => h.dmaComplete (16 * e.val + c.val)) rfl hp (dmaComplete_finished hfin hnone)
  case running =>
    exact fun s e c hrun => ignored_of_same (f := fun h => h.dmaComplete (16 * e.val + c.val)) rfl (dmaComplete_running hrun)

end Sys2Proof.Machine
end

section
/-! SUPPORT. Commands of DMA channels, and registers of ports, channels, links and the image loader: what a granted write or read of each leaves, and
the statement on them (12 R341, R342, 13 R350-R361, 14 R384-R404, 15 R427, 16 R449, R455). -/

namespace Sys2Proof.Machine

/-! ### A register beside another that has been written -/

section
variable (h : Hw) {r r' : Rg} (u u' : Nat) (v : Word)

theorem reg_setReg_other (hr : r ≠ r') : (h.setReg r u v).reg r' u' = h.reg r' u' := reg_setReg_ne _ _ _ _ _ _ fun e => hr e.1

theorem fld_setReg_other (hr : r ≠ r') (hi lo : Nat) : (h.setReg r u v).fld r' u' hi lo = h.fld r' u' hi lo := by
  rw [Hw.fld, reg_setReg_other _ _ _ _ hr, Hw.fld]

theorem flag_setReg_other (hr : r ≠ r') (i : Nat) : (h.setReg r u v).flag r' u' i = h.flag r' u' i := by
  rw [Hw.flag, reg_setReg_other _ _ _ _ hr, Hw.flag]

/-- A page's EN is in its header. -/
theorem pgEn_setReg_other {p : Nat} (hr : r ≠ pgCtrl p) : (h.setReg r u v).pgEn p u' = h.pgEn p u' := by
  rw [Hw.pgEn, reg_setReg_other _ _ _ _ hr, Hw.pgEn]

theorem en_setReg_other (hr : r ≠ r') (hp : r ≠ pgCtrl r'.page) (i : Nat) : (h.setReg r u v).en r' u' i = h.en r' u' i := by
  rw [Hw.en, pgEn_setReg_other _ _ _ _ hp, flag_setReg_other _ _ _ _ hr, Hw.en]

theorem inc_setReg_other (hr : r ≠ r') (n : Nat) :
    (h.setReg r u v).inc r' u' n = (h.setReg r u v).setReg r' u' (satAdd32 (h.reg r' u') n) := by
  rw [Hw.inc, reg_setReg_other _ _ _ _ hr]

/-- What a write leaves depends on its register and on its page's lock. -/
theorem written_setReg_other (hr : r ≠ r') (hl : r ≠ pgLock r'.page) (w : Word) : (h.setReg r u v).written r' u' w = h.written r' u' w := by
  unfold Hw.written Hw.rowMask Hw.locked
  rw [reg_setReg_other _ _ _ _ hr, reg_setReg_other _ _ _ _ hl]

/-- A link's neighbour is named in TOPO_POS. -/
theorem scCabled_setReg_other (hr : r ≠ TOPO_POS) (k : Nat) : (h.setReg r u v).scCabled k = h.scCabled k := by
  unfold Hw.scCabled Hw.arrayEn Hw.neighbourPkg Hw.topoX Hw.topoY Hw.topoCols Hw.topoRows Hw.flag Hw.fld
  rw [reg_setReg_other _ _ _ _ hr]

/-- A write of a page that is not locked is not counted as one that the lock ignored. -/
theorem lockCount_unlocked (hl : h.locked r.page u = false) : h.lockCount r u = h := by
  simp only [Hw.lockCount, hl, Bool.false_eq_true, false_and, if_false]
  split <;> rfl

/-- A bit that is writable whatever the page's lock takes what is written. -/
theorem bit_written {row : RegRow} (hrow : rowOf r.page r.off = some row) (hw1c : row.w1c = 0) (hw1s : row.w1s = 0) {i : Nat}
    (hrw : bit (w32 row.rw) i = true) : bit (h.written r u v) i = bit v i := by
  have hmask : bit (h.rowMask r u) i = true := by
    simp only [Hw.rowMask, hrow, bit, BitVec.getLsbD_or] at hrw ⊢
    simp [hrw]
  have hones : bit 0xFFFFFFFF#32 i = true := (BitVec.getLsbD_allOnes (v := 32)).trans (decide_eq_true (BitVec.lt_of_getLsbD hmask))
  simp only [bit] at hmask hones ⊢
  simp [Hw.written, hrow, hw1c, hw1s, hmask, hones, w32]

end

/-! ### PLLs (15 R427) -/

section
variable {h : Hw} {i : Nat}

/-- PLL i sets out for its lock. -/
def Hw.pllBegun (h : Hw) (i : Nat) : Hw := { h with pkg := { h.pkg with pllAt := Tbl.put h.pkg.pllAt i h.dev } }

/-- A PLL that is needed and has lock goes on. -/
theorem pllSync_locked (hneed : h.pllNeeded i = true) (hlock : h.flag PLL_STAT 0 i = true) : h.pllSync i = h := by
  simp [Hw.pllSync, Hw.pllDrop, Hw.pllStart, hneed, hlock]

/-- One that is needed, without lock and not on the way to it, starts. -/
theorem pllStart_first (hneed : h.pllNeeded i = true) (hlock : h.flag PLL_STAT 0 i = false) (hstopped : Tbl.find h.pkg.pllAt i = none) :
    h.pllStart i = h.pllBegun i := by
  simp [Hw.pllStart, Hw.pllBegun, hneed, hlock, hstopped]

/-- An enabled DDR5 channel outside self-refresh needs its DPLL. -/
theorem pllNeeded_ddr (q : Quad) (hen : h.en DDR_CFG q 0 = true) (hself : h.ddrSelf q = false) : h.pllNeeded (4 + q) = true := by
  have hdiv : (4 + q.val) / 4 = 1 := by omega
  have hmod : (4 + q.val) % 4 = q.val := by omega
  rw [Hw.ddrSelf] at hself
  simp [Hw.pllNeeded, hdiv, hmod, hen, hself]

/-- An enabled port needs its EPLL. -/
theorem pllNeeded_eth (q : Quad) (hen : h.en PHY_CTRL q 0 = true) : h.pllNeeded (8 + q) = true := by
  have hdiv : (8 + q.val) / 4 = 2 := by omega
  have hmod : (8 + q.val) % 4 = q.val := by omega
  simp [Hw.pllNeeded, hdiv, hmod, hen]

/-- A link in TRAIN needs the SPLL of its pair. -/
theorem pllNeeded_sc (k : Link) (htrain : h.fld SC_STAT k 1 0 = 1) : h.pllNeeded (12 + k / 2) = true := by
  have hdiv : (12 + k.val / 2) / 4 = 3 := by omega
  have hmod : (12 + k.val / 2) % 4 = k.val / 2 := by omega
  have hpair : k.val = 2 * (k.val / 2) ∨ k.val = 2 * (k.val / 2) + 1 := by omega
  simp only [Hw.pllNeeded, hdiv, hmod, List.any_eq_true]
  exact ⟨k, by simpa using hpair, by simp [htrain]⟩

end

/-! ### DMA channels (12 R341, R342) -/

section
variable {h : Hw} {d : Nat}

section
variable (hen : h.dmaEn d = true)
include hen

theorem dmaStart_idle (hidle : (h.dma d).busy = false) : h.dmaStart d = h.dmaBegin d := by
  rw [Hw.dmaStart, if_neg (by simp [hen])]
  exact if_pos hidle

theorem dmaStart_busy (hbusy : (h.dma d).busy = true) (hfree : (h.dma d).latched = false) :
    h.dmaStart d = h.updDma d fun x => { x with latched := true } := by
  simp [Hw.dmaStart, hen, hbusy, hfree]

theorem dmaStart_over (hbusy : (h.dma d).busy = true) (hfull : (h.dma d).latched = true) : h.dmaStart d = h.inc DMA_START_OVR_CNT (d / 16) := by
  simp [Hw.dmaStart, hen, hbusy, hfull]

end

/-- A channel's EN and its lists are registers of its engine. -/
theorem dmaEn_key (h : Hw) (e : Quad) (c : Fin 16) : h.dmaEn (16 * e + c) = h.en (CH_CTRL c) e 0 := by
  rw [Hw.dmaEn, dmaKey_mod, dmaKey_div]

theorem dmaBegin_key (h : Hw) (e : Quad) (c : Fin 16) : h.dmaBegin (16 * e + c) = h.updDma (16 * e + c) fun _ =>
    { busy := true, src := { ent := shortMpa (h.reg (CH_SRC_LIST c) e) }, dst := { ent := shortMpa (h.reg (CH_DST_LIST c) e) } } := by
  rw [Hw.dmaBegin, dmaKey_mod, dmaKey_div]

theorem dmaAbort_busy (hbusy : (h.dma d).busy = true) :
    h.dmaAbort d = (h.updDma d fun _ => { abortAt := some h.dev }).inc DMA_ABORT_CNT (d / 16) := if_pos hbusy

theorem dmaAbort_idle (hidle : (h.dma d).busy = false) : h.dmaAbort d = h.updDma d fun _ => { abortAt := some h.dev } := if_neg (by simp [hidle])

end

/-- Registers of page DMA from 0x100 on are those of the channels. -/
theorem regPut_dmaChannel (h : Hw) (who : Requester) (u : Nat) {off : Nat} (hoff : 0x100 ≤ off) (v : Word) :
    h.regPut who pgDMA u off v = h.dmaRegWrite u ⟨pgDMA, off⟩ v := by
  have hheader : ¬ off < 0x040 := by omega
  simp [Hw.regPut, Hw.writeQuad, isMfg, FT_DATA, LIM_DATA, FLOOD_INFO, pgDMA, pgROASTCFG, pgSENSIO, pgXBAR, pgACT, pgGPIO, pgTMR, pgINGCFG, pgINGRESS,
    hheader, hoff]

/-- A write of a channel's CH_CMD is a command to it. -/
theorem regPut_chCmd (h : Hw) (who : Requester) (e : Quad) (c : Fin 16) (v : Word) :
    h.regPut who (CH_CMD c).page e (CH_CMD c).off v = h.dmaCmd (16 * e + c) v := by
  have hoff : 0x100 ≤ 0x104 + 16 * c.val := by omega
  have hchannel : (0x104 + 16 * c.val - 0x100) / 16 = c.val := by omega
  have hcmd : (0x104 + 16 * c.val) % 16 = 4 := by omega
  rw [CH_CMD, regPut_dmaChannel h who e hoff v, Hw.dmaRegWrite, hchannel]
  exact if_pos hcmd

section
variable {s : State} {who : Requester} {e : Quad} {c : Fin 16}

/-- A granted START of an enabled channel starts it. -/
theorem effect_dmaStart {g t : Hw} {l : List ((Rg × Nat) × Word)} (hg : s.Grants who (CH_CMD c) e true)
    (hstart : s.hw.dmaStart (16 * e + c) = t) (hnow : s.hw.Now g l t) : Effect (.dmaStart who e c) s (g.told 0) l :=
  effect_windowWrite (r := CH_CMD c) rfl hg ((regPut_chCmd ..).trans hstart) hnow

/-- A granted ABORT aborts its channel. -/
theorem effect_dmaAbort {g t : Hw} {l : List ((Rg × Nat) × Word)} (hg : s.Grants who (CH_CMD c) e true)
    (habort : s.hw.dmaAbort (16 * e + c) = t) (hnow : s.hw.Now g l t) : Effect (.dmaAbort who e c) s (g.told 0) l :=
  effect_windowWrite (r := CH_CMD c) rfl hg ((regPut_chCmd ..).trans habort) hnow

end

/-! ### Gate lists, PTP time and MACsec (13 R357, R358, R361) -/

/-- The change that a write of GCL_CTRL.CHANGE schedules: its instant, and the list as the registers describe it. -/
def Hw.gclNext (h : Hw) (q : Nat) : Nat × Gates :=
  (h.gclInstant q,
    { base := (h.reg GCL_BASE_LO q).toNat + (h.reg GCL_BASE_HI q).toNat * 2 ^ 32, cycle := h.fld GCL_CYCLE q 29 0, len := h.fld GCL_LEN q 7 0 })

section
variable (h : Hw) (who : Requester) (q : Nat) (v : Word)

/-- GCL_CTRL is no part of it. -/
theorem gclNext_setCtrl : (h.setReg GCL_CTRL q v).gclNext q = h.gclNext q := by
  have hns : (h.setReg GCL_CTRL q v).ptpNs = h.ptpNs := rfl
  have heth : (h.setReg GCL_CTRL q v).eth q = h.eth q := rfl
  simp (disch := decide) only [Hw.gclNext, Hw.gclInstant, reg_setReg_other, fld_setReg_other, hns, heth]

/-- A write with CHANGE takes QBV_EN, schedules the other list and sets PENDING. -/
theorem gclWrite_change (hchange : bit v 1 = true) : h.gclWrite q v =
    ((h.updEth q fun x => { x with change := some (h.gclNext q) }).setFlag GCL_CTRL q 0 (bit v 0)).setFlag GCL_CTRL q 9 true := by
  have hwrite : h.gclWrite q v = ((h.setFlag GCL_CTRL q 0 (bit v 0)).updEth q fun x =>
      { x with change := some ((h.setFlag GCL_CTRL q 0 (bit v 0)).gclNext q) }).setFlag GCL_CTRL q 9 true := if_pos hchange
  have hnext : (h.setFlag GCL_CTRL q 0 (bit v 0)).gclNext q = h.gclNext q := gclNext_setCtrl ..
  rw [hwrite, hnext]
  rfl

theorem regPut_gclCtrl : h.regPut who GCL_CTRL.page q GCL_CTRL.off v = h.gclWrite q v := rfl

theorem regPut_ptpAdj : h.regPut who PTP_ADJ.page 0 PTP_ADJ.off v = h.ptpStep v.toInt := rfl

theorem regRead_ptpNsLo : h.regRead who PTP_NS_LO.page 0 PTP_NS_LO.off false = h.ptpRead := rfl

theorem regPut_msTxAn : h.regPut who MS_TX_AN.page q MS_TX_AN.off v =
    (h.updEth q fun x => { x with pnOut := false }).setReg MS_TX_AN q (h.written MS_TX_AN q v) :=
  congrArg (fun t => t.updEth q fun x => { x with pnOut := false }) (putReg_unlockable h (r := MS_TX_AN) rfl rfl q v)

end

/-! ### A port's link (13 R350) -/

section
variable {h : Hw} {q : Nat}

/-- The block after the link of port q has fallen, registers aside: it is raised, and what was queued is discarded. -/
def Hw.linkLost (h : Hw) (q : Nat) : Hw := (h.raisePort fEthLink q).updEth q fun x => { x with tq := [], txWait := [] }

/-- Frames that wait at port q, in its queues or for room there. -/
def Hw.txQueued (h : Hw) (q : Nat) : Nat := (h.eth q).txWait.length + ((h.eth q).tq.map fun x => x.2.length).sum

/-- Where no event waits to go out, no frame is queued. -/
theorem refPump_none (hout : (h.eth q).refOut = []) (n : Nat) : h.refPump q n = h := by
  cases n with
  | zero => rfl
  | succ n => simp only [Hw.refPump, hout]

/-- A link is lost in the same way whatever register but STEP_NUM has been written. -/
theorem linkLost_setReg {r : Rg} (hr : r ≠ STEP_NUM) (u : Nat) (v : Word) : (h.setReg r u v).linkLost q = (h.linkLost q).setReg r u v := by
  have hstep : (h.setReg r u v).stepNum = h.stepNum := reg_setReg_other _ _ _ _ hr
  rw [Hw.linkLost, Hw.raisePort, Hw.raise, hstep]
  rfl

theorem linkLost_refOut : ((h.linkLost q).eth q).refOut = (h.eth q).refOut := by
  rw [Hw.linkLost, Hw.updEth, Hw.eth, Tbl.get_set_same]
  rfl

/-- A link that is up falls; where no event waits for a frame, nothing is queued anew. -/
theorem linkFall_up (hup : h.linkUp q = true) (hout : (h.eth q).refOut = []) : h.linkFall q =
    (((h.linkLost q).setReg ETH_STAT q (setBits (h.reg ETH_STAT q) 5 0 0)).setReg LINK_DOWN_CNT q (satAdd32 (h.reg LINK_DOWN_CNT q) 1)).setReg
      TX_LINKDOWN_DROP_CNT q (satAdd32 (h.reg TX_LINKDOWN_DROP_CNT q) (h.txQueued q)) := by
  have hfall : h.linkFall q =
      ((((h.setFld ETH_STAT q 5 0 0).inc LINK_DOWN_CNT q).linkLost q).inc TX_LINKDOWN_DROP_CNT q (h.txQueued q)).refPump q 64 := if_pos hup
  have hnone : (((((h.setFld ETH_STAT q 5 0 0).inc LINK_DOWN_CNT q).linkLost q).inc TX_LINKDOWN_DROP_CNT q (h.txQueued q)).eth q).refOut = [] :=
    (linkLost_refOut (h := (h.setFld ETH_STAT q 5 0 0).inc LINK_DOWN_CNT q)).trans hout
  rw [hfall, refPump_none hnone, Hw.setFld, inc_setReg_other _ _ _ _ (by decide), linkLost_setReg (by decide), linkLost_setReg (by decide),
    inc_setReg_other _ _ _ _ (by decide), reg_setReg_other _ _ _ _ (by decide)]
  rfl

/-- A write of PHY_CTRL that asks for no licensed mode and leaves its port enabled takes the link down; an EPLL with lock goes on. -/
theorem phyWrite_enabled {q : Quad} {v : Word} (hmode : bits v 3 1 = 0) (hup : h.linkUp q = true) (hpg : h.pgEn pgETHCFG q = true)
    (hon : bit v 0 = true) (hout : (h.eth q).refOut = []) (hlock : h.flag PLL_STAT 0 (8 + q) = true) :
    h.phyWrite q v = ((((h.linkLost q).setReg ETH_STAT q (setBits (h.reg ETH_STAT q) 5 0 0)).setReg LINK_DOWN_CNT q
      (satAdd32 (h.reg LINK_DOWN_CNT q) 1)).setReg TX_LINKDOWN_DROP_CNT q (satAdd32 (h.reg TX_LINKDOWN_DROP_CNT q) (h.txQueued q))).setReg
      PHY_CTRL q (h.written PHY_CTRL q v) := by
  have hplain : h.phyWrite q v = ((h.linkFall q).putReg PHY_CTRL q v).pllSync (8 + q) := if_neg (by simp [hmode])
  have hwritten : (h.linkLost q).written PHY_CTRL q v = h.written PHY_CTRL q v := rfl
  have hbit : bit (h.written PHY_CTRL q v) 0 = true := (bit_written (r := PHY_CTRL) _ _ _ rfl rfl rfl rfl).trans hon
  rw [hplain, putReg_unlockable _ (r := PHY_CTRL) rfl rfl, linkFall_up hup hout]
  simp (disch := decide) only [written_setReg_other, hwritten]
  refine pllSync_locked (pllNeeded_eth q ?_) ?_
  · simp (disch := decide) only [Hw.en, pgEn_setReg_other, Hw.flag, reg_setReg_same, hbit, Bool.and_true]
    exact hpg
  · simp (disch := decide) only [flag_setReg_other]
    exact hlock

end

/-! ### DDR5 channels (14 R384, R388, R404) -/

section
variable (h : Hw) (who : Requester) (q : Quad) (v : Word)

theorem regRead_drain : h.regRead who DRAIN.page q DRAIN.off false = (h.ddrDrain q, w32 (1 + 2 * b2n (h.ddrSelf q))) := rfl

/-- A write of DDR_TRAIN with START to an enabled channel outside self-refresh begins full training. -/
theorem regPut_ddrTrain (hstart : bit v 0 = true) (hen : h.en DDR_CFG q 0 = true) (hself : h.ddrSelf q = false) :
    h.regPut who DDR_TRAIN.page q DDR_TRAIN.off v = ((h.updDdr q fun x => { x with training := 1 }).setReg DDR_TRAIN q
      (h.written DDR_TRAIN q v)).setReg DDR_STAT q (setBits (h.reg DDR_STAT q) 0 0 0) := by
  have hput : h.regPut who DDR_TRAIN.page q DDR_TRAIN.off v = (h.putReg DDR_TRAIN q v).ddrTrain q := if_pos hstart
  have hready : ¬ ((h.setReg DDR_TRAIN q (h.written DDR_TRAIN q v)).en DDR_CFG q 0 = false ∨
      (h.setReg DDR_TRAIN q (h.written DDR_TRAIN q v)).ddrSelf q = true) := by
    rw [Hw.ddrSelf, en_setReg_other _ _ _ _ (by decide) (by decide), flag_setReg_other _ _ _ _ (by decide), hen, ← Hw.ddrSelf, hself]
    simp
  rw [hput, putReg_unlockable _ (r := DDR_TRAIN) rfl rfl, Hw.ddrTrain, if_neg hready, Hw.setFlag, setFld_setReg _ (by decide)]
  rfl

/-- A write of DDR_CFG while its page is not locked. -/
theorem regPut_ddrCfg (hlocked : h.locked pgDDRCFG q = false) :
    h.regPut who DDR_CFG.page q DDR_CFG.off v = h.ddrCfgWrite q (h.written DDR_CFG q v) :=
  congrArg (fun t => t.ddrCfgWrite q (h.written DDR_CFG q v)) (lockCount_unlocked h (r := DDR_CFG) q hlocked)

variable {w : Word} (hen : bit w 0 = true)
include hen

/-- A refused organisation is not enabled. -/
theorem ddrCfgWrite_refused (hcap : ddrCapacity w = none) :
    h.ddrCfgWrite q w = (h.setReg DDR_CFG q (setBit w 0 false)).setReg DDR_STAT q (setBits (h.reg DDR_STAT q) 4 4 1) := by
  rw [Hw.ddrCfgWrite, if_pos ⟨hen, hcap⟩, Hw.setFlag, setFld_setReg _ (by decide)]
  rfl

/-- One that is taken is enabled; a DPLL that has lock goes on. -/
theorem ddrCfgWrite_taken (hcap : ddrCapacity w ≠ none) (hpg : h.pgEn pgDDRCFG q = true) (hself : h.ddrSelf q = false)
    (hlock : h.flag PLL_STAT 0 (4 + q) = true) : h.ddrCfgWrite q w = h.setReg DDR_CFG q w := by
  rw [Hw.ddrCfgWrite, if_neg fun e => hcap e.2]
  refine pllSync_locked (pllNeeded_ddr q ?_ ?_) ?_
  · rw [Hw.en, pgEn_setReg_other _ _ _ _ (by decide), Hw.flag, reg_setReg_same, hen, Bool.and_true]
    exact hpg
  · exact (flag_setReg_other _ _ _ _ (by decide) _).trans hself
  · exact (flag_setReg_other _ _ _ _ (by decide) _).trans hlock

end

/-! ### Saune-C links (14 R398, R401) -/

section
variable {h : Hw} {k : Link} {v : Word}

/-- A licensed, cabled link goes into TRAIN, and the SPLL of its pair starts. -/
theorem scTrain_cabled (hlic : h.lic 1 = true) (hcabled : h.scCabled k = true) (hlock : h.flag PLL_STAT 0 (12 + k / 2) = false)
    (hstopped : Tbl.find h.pkg.pllAt (12 + k / 2) = none) :
    h.scTrain k = (h.pllBegun (12 + k / 2)).setReg SC_STAT k (setBits (h.reg SC_STAT k) 1 0 1) := by
  have htrain : (h.setFld SC_STAT k 1 0 1).fld SC_STAT k 1 0 = 1 := by
    rw [Hw.fld, reg_setFld_same, bits_setBits _ _ _ _ (by decide) (by decide)]
    rfl
  have hlock' : (h.setFld SC_STAT k 1 0 1).flag PLL_STAT 0 (12 + k / 2) = false := (flag_setReg_other _ _ _ _ (by decide) _).trans hlock
  rw [Hw.scTrain, if_neg (by simp [hlic]), if_pos hcabled, pllStart_first (pllNeeded_sc k htrain) hlock' hstopped]
  rfl

/-- A write of SC_CTRL with TRAIN and without REJOIN. -/
theorem scCtrl_train (htrain : bit v 0 = true) (hrejoin : bit v 2 = false) (hlic : h.lic 1 = true) :
    h.scCtrl k v = (h.setReg SC_CTRL k (h.written SC_CTRL k v)).scTrain k := by
  rw [Hw.scCtrl, if_neg (by simp [hlic]), putReg_unlockable _ (r := SC_CTRL) rfl rfl]
  simp [htrain, hrejoin]

/-- One with REJOIN and without TRAIN. -/
theorem scCtrl_rejoin (htrain : bit v 0 = false) (hrejoin : bit v 2 = true) :
    h.scCtrl k v = (h.setReg SC_CTRL k (h.written SC_CTRL k v)).setFlag SC_CTRL k 2 true := by
  rw [Hw.scCtrl, if_neg (by simp [htrain]), putReg_unlockable _ (r := SC_CTRL) rfl rfl]
  simp [htrain, hrejoin]

end

section
variable {s : State} {who : Requester} {k : Link}

/-- An access that comes to a write of a register by name. -/
theorem mgmt_put {f : Hw → Hw} {r : Rg} {u : Nat} {v : Word} (hp : s.hw.powered = true) (hf : f s.hw = s.hw.mgmtWrite who (addrOf r u) v) :
    s.mgmt who f = s.put who r u v := by
  rw [State.put, mgmt_powered _ _ _ hp, mgmt_powered _ _ _ hp, hf]

/-- TRAIN of a licensed, cabled link whose pair has no SPLL running. -/
theorem effect_scTrainStart (hg : s.Grants who SC_CTRL k true) (hlic : s.hw.lic 1 = true) (hcabled : s.hw.scCabled k = true)
    (hrejoin : bit (s.hw.reg SC_CTRL k) 2 = false) (hlock : s.hw.flag PLL_STAT 0 (12 + k / 2) = false)
    (hstopped : Tbl.find s.hw.pkg.pllAt (12 + k / 2) = none) :
    Effect (.scTrainStart who k) s ((s.hw.pllBegun (12 + k / 2)).told 0)
      [((SC_STAT, k), setBits (s.hw.reg SC_STAT k) 1 0 1), ((SC_CTRL, k), s.hw.written SC_CTRL k (s.hw.reg SC_CTRL k ||| 1#32))] := by
  have hput : s.hw.scCtrl k (s.hw.reg SC_CTRL k ||| 1#32) =
      (s.hw.setReg SC_CTRL k (s.hw.written SC_CTRL k (s.hw.reg SC_CTRL k ||| 1#32))).scTrain k :=
    scCtrl_train (by simp [bit]) (by simpa [bit] using hrejoin) hlic
  have htrain := scTrain_cabled (h := s.hw.setReg SC_CTRL k (s.hw.written SC_CTRL k (s.hw.reg SC_CTRL k ||| 1#32)))
    ((flag_setReg_other _ _ _ _ (by decide) _).trans hlic) ((scCabled_setReg_other _ _ _ (by decide) _).trans hcabled)
    ((flag_setReg_other _ _ _ _ (by decide) _).trans hlock) hstopped
  rw [reg_setReg_other _ _ _ _ (by decide)] at htrain
  have hexec : exec (.scTrainStart who k) s = s.put who SC_CTRL k (s.hw.reg SC_CTRL k ||| 1#32) :=
    mgmt_put (f := fun h => h.mgmtWrite who (addrOf SC_CTRL k) (h.reg SC_CTRL k ||| 1#32)) hg.1 rfl
  exact effect_windowWrite (r := SC_CTRL) hexec hg (hput.trans htrain)
    ((Hw.Now.one s.hw (s.hw.pllBegun (12 + k / 2)) rfl _ _ _).set _ _ _)

/-- REJOIN of a link whose TRAIN is 0. -/
theorem effect_scRejoinWrite (hg : s.Grants who SC_CTRL k true) (htrain : bit (s.hw.reg SC_CTRL k) 0 = false) :
    Effect (.scRejoinWrite who k) s (s.hw.told 0)
      [((SC_CTRL, k), setBits (s.hw.written SC_CTRL k (s.hw.reg SC_CTRL k ||| 4#32)) 2 2 1)] := by
  have hput : s.hw.scCtrl k (s.hw.reg SC_CTRL k ||| 4#32) =
      (s.hw.setReg SC_CTRL k (s.hw.written SC_CTRL k (s.hw.reg SC_CTRL k ||| 4#32))).setFlag SC_CTRL k 2 true :=
    scCtrl_rejoin (by simpa [bit] using htrain) (by simp [bit])
  rw [Hw.setFlag, Hw.setFld, reg_setReg_same] at hput
  have hexec : exec (.scRejoinWrite who k) s = s.put who SC_CTRL k (s.hw.reg SC_CTRL k ||| 4#32) :=
    mgmt_put (f := fun h => h.mgmtWrite who (addrOf SC_CTRL k) (h.reg SC_CTRL k ||| 4#32)) hg.1 rfl
  exact effect_windowWrite (r := SC_CTRL) hexec hg hput ((Hw.Now.one _ _ rfl _ _ _).set _ _ _).drop

end

/-! ### Image staging (16 R449, R455) -/

section
variable (h : Hw) (who : Requester) (q : Quad) (v : Word)

/-- A staging address clears the count of bytes staged. -/
theorem regPut_imgPtr : h.regPut who IMG_PTR.page q IMG_PTR.off v = (h.setReg IMG_PTR q v).setReg IMG_BYTES q 0#32 :=
  congrArg (fun t => t.setReg IMG_BYTES q 0#32) (putReg_whole h (r := IMG_PTR) rfl rfl q v rfl rfl rfl)

variable {h q}

/-- Staging a word in memory writes no register. -/
theorem ddrStaged_regs (ch x : Nat) : ((h.ddrQueue ch x true).ddrWrite ch x v 15).1.regs = h.regs := rfl

/-- A word whose place is in a channel that is ready and awake goes there and is counted. -/
theorem imgData_staged {ch x : Nat} (hplace : h.mpa (shortMpa (h.reg IMG_PTR q) + (h.reg IMG_BYTES q).toNat) = some (.ddr ch x))
    (hready : h.flag DDR_STAT ch 0 = true) (hself : h.ddrSelf ch = false) :
    h.imgData q v = ((h.ddrQueue ch x true).ddrWrite ch x v 15).1.setReg IMG_BYTES q (w32 ((h.reg IMG_BYTES q).toNat + 4)) := by
  simp [Hw.imgData, hplace, hready, hself]

end

/-! ### The statement -/

/-- Settles O26: a command of a channel starts or aborts it; each other access is granted, or carried by the port's own engine, and is the operation
of its register, which leaves the words stated. -/
theorem channelPortAndLinkRegisters : Obligations.ChannelPortAndLinkRegisters := by
  refine ⟨⟨?startIdle, ?startBusy, ?startOver, ?abortBusy, ?abortIdle⟩, ?change, ?phy, ?ptpAdj, ?ptpRead, ?txAn, ?drain, ?ddrTrain, ?refused,
    ?enabled, ?scTrain, ?rejoin, ?imgPtr, ?imgData⟩
  case startIdle =>
    intro s who e c hg hen hidle
    have hstart := dmaStart_idle (h := s.hw) (d := 16 * e + c) ((dmaEn_key ..).trans hen) hidle
    rw [dmaBegin_key] at hstart
    exact effect_dmaStart hg hstart (.intro _ _ rfl)
  case startBusy =>
    intro s who e c hg hen hbusy hfree
    have hstart := dmaStart_busy ((dmaEn_key ..).trans hen) hbusy hfree
    exact effect_dmaStart hg hstart (.intro _ _ rfl)
  case startOver =>
    intro s who e c hg hen hbusy hfull
    have hstart := dmaStart_over ((dmaEn_key ..).trans hen) hbusy hfull
    rw [dmaKey_div] at hstart
    exact effect_dmaStart hg hstart (.one _ _ rfl _ _ _)
  case abortBusy =>
    intro s who e c hg hbusy
    have habort := dmaAbort_busy hbusy
    rw [dmaKey_div] at habort
    exact effect_dmaAbort hg habort (.one _ _ rfl _ _ _)
  case abortIdle => exact fun s who e c hg hidle => effect_dmaAbort hg (dmaAbort_idle hidle) (.intro _ _ rfl)
  case change =>
    intro s who q v hg
    have hwrite := gclWrite_change s.hw q (setBit v 1 true) (bit_setBit_same v 1 true (by decide))
    rw [show bit (setBit v 1 true) 0 = bit v 0 from bit_setBits_ne _ _ _ _ _ (by decide)] at hwrite
    exact effect_windowWrite (r := GCL_CTRL) rfl hg ((regPut_gclCtrl ..).trans hwrite) (now_setFlag_setFlag ..)
  case phy =>
    intro s who q v hg hmode hup hpg hon hout hlock
    exact effect_windowWrite (r := PHY_CTRL) rfl hg (phyWrite_enabled hmode hup hpg hon hout hlock)
      ((((Hw.Now.one _ _ rfl _ _ _).set _ _ _).set _ _ _).set _ _ _)
  case ptpAdj => exact fun s who v hg => effect_windowWrite (r := PTP_ADJ) rfl hg (regPut_ptpAdj ..) (.intro _ _ rfl)
  case ptpRead =>
    exact fun s who hg => effect_windowRead (r := PTP_NS_LO) (same := false) rfl hg (regRead_ptpNsLo ..)
      (((Hw.Now.one _ _ rfl _ _ _).set _ _ _).set _ _ _)
  case txAn => exact fun s who q v hg => effect_windowWrite (r := MS_TX_AN) rfl hg (regPut_msTxAn ..) (.one _ _ rfl _ _ _)
  case drain => exact fun s who q hg => effect_windowRead (r := DRAIN) (same := false) rfl hg (regRead_drain ..) (.intro _ _ rfl)
  case ddrTrain =>
    intro s who q v hg hen hself
    exact effect_windowWrite (r := DDR_TRAIN) rfl hg (regPut_ddrTrain _ _ _ _ (bit_setBit_same v 0 true (by decide)) hen hself)
      ((Hw.Now.one _ _ rfl _ _ _).set _ _ _)
  case refused =>
    intro s who q v hg hlocked hen hcap
    exact effect_windowWrite (r := DDR_CFG) rfl hg ((regPut_ddrCfg _ _ _ _ hlocked).trans (ddrCfgWrite_refused _ _ hen hcap))
      ((Hw.Now.one _ _ rfl _ _ _).set _ _ _)
  case enabled =>
    intro s who q v hg hlocked hen hcap hpg hself hlock
    exact effect_windowWrite (r := DDR_CFG) rfl hg ((regPut_ddrCfg _ _ _ _ hlocked).trans (ddrCfgWrite_taken _ _ hen hcap hpg hself hlock))
      (.one _ _ rfl _ _ _)
  case scTrain => exact fun s who k hg hlic hcabled hrejoin hlock hstopped => effect_scTrainStart hg hlic hcabled hrejoin hlock hstopped
  case rejoin => exact fun s who k hg htrain => effect_scRejoinWrite hg htrain
  case imgPtr =>
    exact fun s who q v hg => effect_windowWrite (r := IMG_PTR) rfl hg (regPut_imgPtr ..) ((Hw.Now.one _ _ rfl _ _ _).set _ _ _)
  case imgData =>
    intro s q v ch x hp hplace hready hself
    refine answers_mgmt (who := .rcp q) (f := fun h => if Requester.rcp q = .rcp q ∧ h.powered then { h.imgData q v with resp := {} }
      else h.mgmtWrite (.rcp q) (addrOf IMG_DATA q) v) rfl hp ?_
    rw [if_pos ⟨rfl, hp⟩, imgData_staged _ hplace hready hself]
    exact (Hw.Now.one _ _ (ddrStaged_regs ..) _ _ _).told 0

end Sys2Proof.Machine
end

section
/-! SUPPORT. The front command of the queue, the resets of the package, and the block while RESET_N is low (15 R413, 16 R435, R437, 20 R514). -/

namespace Sys2Proof.Machine

/-- Settles O1: a step is defined as the effect of the command at the front. -/
theorem stepRunsFrontCommand : Obligations.StepRunsFrontCommand := fun _ _ _ => rfl

/-! ### What a loss of everything leaves (15 R413) -/

/-- Filtering a keyed list by key keeps what is listed at the keys kept. -/
theorem Tbl.find_filter_key {ν : Type} (t : Tbl ν) (f : Nat → Bool) (k : Nat) :
    Tbl.find (t.filter fun p => f p.1) k = if f k then Tbl.find t k else none := by
  induction t with
  | nil => simp [Tbl.find]
  | cons p r ih =>
    obtain ⟨j, v⟩ := p
    by_cases hjk : j = k
    · subst hjk
      cases hj : f j <;> simp [Tbl.find, hj, ih]
    · cases hj : f j <;> simp [Tbl.find, hj, hjk, ih]

@[simp] theorem regKey_rk (r : Rg) (u : Nat) : regKey (rk r u) = (r.page, u, r.off) := by simp [regKey, rk]

section
variable (h : Hw) (all : Bool)

/-- Of memory, flash and, unless all goes, always-on memory. -/
theorem byte_wipe (a : Nat) : (h.wipe all).byte a = if inFlash a || (!all && inAom a) then h.byte a else 0#8 := by
  rw [Hw.byte, Tbl.get, show (h.wipe all).mem = h.mem.filter fun p => inFlash p.1 || (!all && inAom p.1) from rfl,
    Tbl.find_filter_key h.mem fun a => inFlash a || (!all && inAom a)]
  split <;> rfl

/-- Of registers, fuses and, unless all goes, those of the always-on domain. -/
theorem reg_wipe (r : Rg) (u : Nat) :
    (h.wipe all).reg r u = if fuseReg r.page r.off || (!all && aoReg r.page r.off) then h.reg r u else resetVal r u := by
  have hkeep := Tbl.find_filter_key h.regs (fun k => fuseReg (regKey k).1 (regKey k).2.2 || (!all && aoReg (regKey k).1 (regKey k).2.2)) (rk r u)
  rw [regKey_rk] at hkeep
  rw [Hw.reg, show (h.wipe all).regs = h.regs.filter fun p => fuseReg (regKey p.1).1 (regKey p.1).2.2 ||
    (!all && aoReg (regKey p.1).1 (regKey p.1).2.2) from rfl, hkeep]
  split <;> rfl

theorem wipe_wf (hm : Memory.wf h.mem = true) : Memory.wf (h.wipe all).mem = true := Tbl.wf_filter _ _ _ hm

end

/-- RESET_N also leaves its cause (16 R437). -/
theorem reg_resetAssert (h : Hw) (r : Rg) (u : Nat) : h.resetAssert.reg r u = if r = RST_CAUSE ∧ u = 0 then setBits (h.reg RST_CAUSE) 1 1 1
    else if fuseReg r.page r.off || aoReg r.page r.off then h.reg r u else resetVal r u := by
  have hw (r : Rg) (u : Nat) : ({ h.wipe false with pkg := { inReset := true, licDue := h.pkg.licDue } } : Hw).reg r u =
      if fuseReg r.page r.off || aoReg r.page r.off then h.reg r u else resetVal r u := reg_wipe h false r u
  rw [Hw.resetAssert, Hw.setFlag, Hw.setFld, reg_setReg, hw, hw]
  exact if_congr (and_congr eq_comm eq_comm) rfl rfl

theorem resetRelease_held {h : Hw} (vio33 mismatch : Bool) (hr : h.pkg.inReset = true) : h.resetRelease vio33 mismatch =
    ((h.updPkg fun p => { p with inReset := false }).setFlag PAD_STAT 0 0 vio33).setFlag PAD_STAT 0 1 mismatch := if_neg (by simp [hr])

/-- Settles O35: power-on keeps of memory and registers what the loss of everything keeps; RESET_N adds its cause; its release is two bits of
PAD_STAT. -/
theorem resetsLeaveTheirDomains : Obligations.ResetsLeaveTheirDomains := by
  refine ⟨?powerOn, ?assert, ?release, ?free⟩
  case powerOn =>
    intro s
    refine answers_onAo (f := fun h => h.wipe true) rfl ⟨rfl, rfl, rfl, rfl, rfl, rfl, rfl, fun a => ?_, fun r u => ?_⟩
    · simp [byte_wipe]
    · simp [reg_wipe]
  case assert =>
    intro s
    exact answers_onAo (f := Hw.resetAssert) rfl
      ⟨rfl, rfl, rfl, rfl, rfl, rfl, rfl, rfl, fun a => byte_wipe s.hw false a, reg_resetAssert s.hw⟩
  case release =>
    intro s vio33 mismatch hr
    refine answers_onAo (f := fun h => h.resetRelease vio33 mismatch) rfl ?_
    rw [resetRelease_held vio33 mismatch hr]
    have hfirst := (Hw.Now.one s.hw (s.hw.updPkg fun p => { p with inReset := false }) rfl PAD_STAT 0 (setBits (s.hw.reg PAD_STAT) 0 0 (b2n vio33)))
    have hsecond := (hfirst.set PAD_STAT 0 (setBits (setBits (s.hw.reg PAD_STAT) 0 0 (b2n vio33)) 1 1 (b2n mismatch))).drop
    rwa [Hw.setFlag, Hw.setFld, Hw.setFlag, Hw.setFld, reg_setReg_same]
  case free =>
    intro s vio33 mismatch hr
    have hsame : s.hw.resetRelease vio33 mismatch = s.hw := if_pos hr
    exact congrArg (fun h => Host.Outcome.next { s with hw := h }) hsame

/-! ### RESET_N held low (16 R435, R437) -/

/-- The units of the block that no reset leaves anything of. -/
def Hw.units (h : Hw) : Hw := { h with mem := [], regs := [], clusters := [], pkg := {}, fw := {}, wire := [], reports := [], fresh := 0 }

section
variable {s : State}

/-- A state stays in reset where RESET_N stays low, nothing but Cold is made for, and memory, units and clusters stay as they are. -/
theorem State.InReset.keeps (h : s.InReset) {t : Hw} (hlow : t.pkg.inReset = true) (hpst : t.pkg.pst = .brew ∨ t.pkg.pst = .toCold)
    (hunits : t.units = s.hw.units) (hmem : t.mem = s.hw.mem) (hcl : ∀ c, { t.cl c with temp := 0 } = ({} : ClusterSt)) :
    State.InReset { s with hw := t } := by
  obtain ⟨-, -, hu, -, hwf, hlist, hpor, hrel⟩ := h
  exact ⟨hlow, hpst, hunits.trans hu, hcl, by rw [hmem]; exact hwf, by rw [hmem]; exact hlist, hpor, hrel⟩

/-- The registers and the raises that wait for the collector may become anything. -/
theorem State.InReset.keepsUnits (h : s.InReset) {t : Hw} (hpkg : t.pkg = s.hw.pkg) (hunits : t.units = s.hw.units) (hmem : t.mem = s.hw.mem)
    (hcl : t.clusters = s.hw.clusters) : State.InReset { s with hw := t } := by
  refine h.keeps (hpkg ▸ h.1) (hpkg ▸ h.2.1) hunits hmem fun c => ?_
  rw [Hw.cl, hcl]
  exact h.2.2.2.1 c

/-- The commands that wait are of no account but for those that end the reset. -/
theorem State.InReset.dequeue {i : Instr} {r : List Instr} (h : s.InReset) (hq : s.pending = i :: r) : State.InReset { s with pending := r } := by
  obtain ⟨hlow, hpst, hu, hcl, hwf, hlist, hpor, hrel⟩ := h
  rw [hq] at hpor hrel
  exact ⟨hlow, hpst, hu, hcl, hwf, hlist, fun e => hpor (List.mem_cons_of_mem _ e), fun a b e => hrel a b (List.mem_cons_of_mem _ e)⟩

/-- RESET_N going low begins the reset, whatever the block held (16 R437). -/
theorem inReset_resetAssert (hwf : Memory.wf s.hw.mem = true) (hpor : .powerOnReset ∉ s.pending)
    (hrel : ∀ vio33 mismatch, .resetNRelease vio33 mismatch ∉ s.pending) : State.InReset { s with hw := s.hw.resetAssert } :=
  ⟨rfl, .inl rfl, rfl, fun _ => rfl, wipe_wf s.hw false hwf, fun p hp => by simpa using (List.mem_filter.1 hp).2, hpor, hrel⟩

end

/-- Settles O7. -/
theorem resetAssertionBeginsTheHold : Obligations.ResetAssertionBeginsTheHold := fun _ hwf hpor hrel =>
  ⟨_, rfl, rfl, inReset_resetAssert hwf hpor hrel⟩

/-! #### What happens while it is low -/

section
variable {s : State} (h : s.InReset)
include h

/-- Nothing that a command of the clocked domain, of a port or of a management requester would do is done. -/
theorem clocked_of_inReset (x : Hw) : Host.Outcome.next { s with hw := if s.hw.powered then x else s.hw } = (.next s : Out) :=
  onHw_of_inReset h fun _ => x

theorem port_of_inReset (q : Nat) (x : Hw) : Host.Outcome.next { s with hw := if s.hw.powered || s.hw.kept q then x else s.hw } = (.next s : Out) :=
  onPort_of_inReset h q fun _ => x

theorem access_of_inReset (who : Requester) (x : Hw) :
    Host.Outcome.next { s with hw := if s.hw.powered || s.hw.keptFor who then x else s.hw } = (.next s : Out) := mgmt_of_inReset h who fun _ => x

theorem tick_of_inReset : tick s.hw = s.hw := tick_unpowered s.hw (powered_of_inReset h)

/-- No channel leaves self-refresh. -/
theorem mayExitSelf_of_inReset : s.hw.mayExitSelf = false := by simp [Hw.mayExitSelf, powered_of_inReset h, h.1]

/-- A package in Brew or on its way to Cold has nothing to wake from. -/
theorem pkgWake_of_inReset (h' : Hw) (hpkg : h'.pkg = s.hw.pkg) (src : Nat) : h'.pkgWake src = h' := by
  rcases h.2.1 with hp | hp <;> simp [Hw.pkgWake, hpkg, hp]

/-- A regulator at reset is not in low-power mode. -/
theorem brownout_of_inReset (c : Nat) (vm : Bool) : s.hw.brownout c vm = s.hw := by
  have hreg : (s.hw.cl c).regStat = 0 := congrArg ClusterSt.regStat (h.2.2.2.1 c)
  simp [Hw.brownout, hreg]

theorem State.InReset.setReg (r : Rg) (u : Nat) (v : Word) : State.InReset { s with hw := s.hw.setReg r u v } := h.keepsUnits rfl rfl rfl rfl

theorem State.InReset.setFlag (r : Rg) (u i : Nat) (b : Bool) : State.InReset { s with hw := s.hw.setFlag r u i b } := h.setReg _ _ _

theorem State.InReset.raise (src : Nat) (u : FUnit) : State.InReset { s with hw := s.hw.raise src u } := h.keepsUnits rfl rfl rfl rfl

/-- A package that is too hot makes for Cold. -/
theorem State.InReset.toCold : State.InReset { s with hw := s.hw.updPkg fun p => { p with pst := .toCold, pend := none, thermal := true } } :=
  h.keeps h.1 (.inr rfl) rfl rfl h.2.2.2.1

/-- A temperature is read. -/
theorem State.InReset.temp (c n : Nat) : State.InReset { s with hw := s.hw.updCl c fun v => { v with temp := n } } := by
  refine h.keeps h.1 h.2.1 rfl rfl fun d => ?_
  rw [cl_updCl]
  split
  · exact h.2.2.2.1 c
  · exact h.2.2.2.1 d

theorem inReset_aoWakeExpires : State.InReset { s with hw := s.hw.aoWakeExpires } := by
  simp only [Hw.aoWakeExpires, pkgWake_of_inReset h (s.hw.setReg AO_WAKE_TMR 0 0#32) rfl, ite_self]
  split
  · exact h
  · exact h.setReg _ _ _

theorem inReset_thermRead (c : Nat) (t : BitVec 12) : State.InReset { s with hw := s.hw.thermRead c t } := by
  rw [Hw.thermRead]
  split
  · exact (h.temp c _).raise _ _
  · exact h.temp c _

theorem inReset_thermShut (c : Nat) (t : BitVec 12) : State.InReset { s with hw := s.hw.thermShut c t } := by
  rw [Hw.thermShut]
  split
  · exact h
  · exact ((h.temp c _).setReg _ _ _).toCold

end

/-- Whatever command runs, but for those that end it, the block stays in reset. -/
theorem exec_inReset {s : State} (h : s.InReset) (i : Instr) (hpor : i ≠ .powerOnReset) (hrel : ∀ vio33 mismatch, i ≠ .resetNRelease vio33 mismatch) :
    ∃ t, exec i s = .next t ∧ t.InReset := by
  cases i with
  | powerOnReset => exact absurd rfl hpor
  | resetNRelease vio33 mismatch => exact absurd rfl (hrel vio33 mismatch)
  | resetNAssert => exact ⟨_, rfl, inReset_resetAssert h.2.2.2.2.1 h.2.2.2.2.2.2.1 h.2.2.2.2.2.2.2⟩
  | ddrSelfRefreshExit q =>
    refine ⟨_, rfl, ?_⟩
    simpa [mayExitSelf_of_inReset h] using h
  | pkgSteepExitDone | pkgColdEntryDone | pkgColdExitDone =>
    refine ⟨_, rfl, ?_⟩
    simpa [h.1, Hw.coldExit] using h
  | wakeGpioEdge g rise =>
    refine ⟨_, rfl, ?_⟩
    simpa [pkgWake_of_inReset h s.hw rfl] using h
  | aoWakeTmrExpiry => exact ⟨_, rfl, inReset_aoWakeExpires h⟩
  | brownout c vm =>
    refine ⟨_, rfl, ?_⟩
    simpa [brownout_of_inReset h] using h
  | thermHiCross c temp => exact ⟨_, rfl, inReset_thermRead h c temp⟩
  | thermalShutdown c temp => exact ⟨_, rfl, inReset_thermShut h c temp⟩
  | clk32Fail => exact ⟨_, rfl, ((h.setFlag _ _ _ _).setFlag _ _ _ _).raise _ _⟩
  | pwrGoodRise => exact ⟨_, rfl, h.keeps h.1 h.2.1 rfl rfl h.2.2.2.1⟩
  | ethFrameRx | rxDispatch | rcpReqRx | rcpSyncRx | rcpFinRx | rcpAckRx | rcpSessionIdle | rcpRead | rcpWrite | rcpRmw | rcpWait | rcpOpen
  | rcpSend | rcpClose | rcpListen | rcpMsgInSend | rcpRtoExpiry | refInFrameRx | txFrameStart | gclListSwitch | linkUp | linkDown | pllLocked
  | rcpChanTimeout => exact ⟨s, port_of_inReset h _ _, h⟩
  | registerWrite who | rcCounterRead who | pgSoftRst who | pgLockSet who | pgLockClear who | bankwinData who | stepRunStart who | stepRunStop who
  | stepSingle who | sliceCfgWrite who | psetCommit who | psetReadback who | psetClrOvf who | coreLayoutWrite who | remapWrite who
  | physRetireWrite who | mcSeedWrite who | bankOwnerWrite who | bankPwrWrite who | cmFenceRead who | softRepairWrite who | dlCommit who
  | dlReadback who | dlClrOvf who | denseBinqWrite who | ckptStatClear who | roastSeedWrite who | frameBufferRelease who | tmrCountWrite who
  | tmrCmpWrite who | tmrCmp1ShadowWrite who | tmrCaptureRead who | actSafeClear who | gpioSetWrite who | gpioClrWrite who | dmaStart who
  | dmaAbort who | mgmtAccessTimeout who | gclChangeWrite who | phyCtrlWrite who | ptpAdjWrite who | ptpNsLoRead who | msTxAnWrite who
  | drainRead who | ddrTrainStart who | ddrCfgEnable who | scTrainStart who | scRejoinWrite who | clPwrReqWrite who | pkgPwrReqWrite who
  | clVtrimWrite who | computeResetCmd who | clRstWrite who | coreRstPulseWrite who | coreRstHoldWrite who | imgPtrWrite who | imgDataWrite who
  | fuseProgWrite who | fltRaiseWrite who | fltRestored who | fltHalt who | fltRelease who | fltLogPopRead who | icClaimRead who
  | icCompleteWrite who | icMaskWrite who | icSwiSetWrite who | icSwiClrWrite who | ctxNextWrite who | attStart who | padEnWrite who => exact ⟨s, access_of_inReset h who _, h⟩
  | mcStoreData who _ wr | mcDmData who _ wr | gtData who _ wr | fseqData who _ wr | flowData who _ wr | destData who _ wr | dtreeData who _ wr
  | xtagData who _ wr | itagData who _ wr | segData who _ wr | ruleData who _ wr | hotpixData who _ wr | ftData who _ wr | pollData who wr
  | lceData who wr | actData who wr | gclData who _ wr | msSaData who _ wr | aomData who wr | attData who wr =>
    cases wr with
    | some | none => exact ⟨s, access_of_inReset h who _, h⟩
  | limData who _ wr =>
    cases wr with
    | write | read => exact ⟨s, access_of_inReset h who _, h⟩
  | _ => exact ⟨s, clocked_of_inReset h _, h⟩

/-- Settles O6: without a command no time passes, and the command at the front keeps the block in reset. -/
theorem resetHoldsTheBlock : Obligations.ResetHoldsTheBlock := by
  intro s t h hstep
  cases hq : s.pending with
  | nil =>
    rw [step_idle hq, tick_of_inReset h] at hstep
    exact (Host.Outcome.next.inj hstep) ▸ h
  | cons i r =>
    obtain ⟨t', ht', hreset⟩ := exec_inReset (h.dequeue hq) i
      (fun e => h.2.2.2.2.2.2.1 (by rw [hq, e]; exact List.mem_cons_self))
      (fun a b e => h.2.2.2.2.2.2.2 a b (by rw [hq, e]; exact List.mem_cons_self))
    have hexec : step s = exec i { s with pending := r } := by rw [step, hq]
    rw [hexec, ht'] at hstep
    exact (Host.Outcome.next.inj hstep) ▸ hreset

end Sys2Proof.Machine
end

section
/-! SUPPORT. Requests at registers: the interrupt controller's software interrupts, context switches, attestation reports, and the package's
states of rest (15 R420, 17 R471, R474, 18 R483, R492). -/

namespace Sys2Proof.Machine

/-! ### Software interrupts (17 R471, R474) -/

/-- The guard of software interrupt 0 runs, opened with the level low. -/
def guardedSwiState : State := { pending := [], hw := { flt := { guard := [(96, 1)] } } }

theorem guardedSwiState_grants : guardedSwiState.Grants (.mp 0) IC_SWI_SET 0 true :=
  ⟨by decide, ⟨pgIC, 0, 0x060, none, none⟩, by decide, rfl, rfl, rfl, by decide, rfl⟩

/-- The write raises the level in the guard window, which is then spent. -/
theorem guardedSwiState_guard : (guardedSwiState.hw.swiSet 1#32).flt.guard = [(96, 2)] := by decide

/-- Refutes O30: IC_SWI_SET raises the level of the source it sets, and where the storm guard of the source watches, the guard takes note of
the rise and the storm count goes up (17 R474). The IC_SWI_SET clause leaves both as they were. -/
theorem not_interruptRegisterAccesses : ¬ Obligations.InterruptRegisterAccesses := by
  rintro ⟨-, -, -, -, -, -, hset, -⟩
  obtain ⟨t, ht, -, hnow, -⟩ := hset guardedSwiState (.mp 0) 1#32 guardedSwiState_grants
  have hput : exec (.icSwiSetWrite (.mp 0) 1#32) guardedSwiState =
      .next { guardedSwiState with hw := (guardedSwiState.hw.swiSet 1#32).told 0#32 } :=
    put_granted guardedSwiState_grants 1#32
  rw [hput, Host.Outcome.next.injEq] at ht
  subst ht
  have hguard : (guardedSwiState.hw.swiSet 1#32).flt.guard = [(96, 1)] := congrArg (fun h => h.flt.guard) hnow
  rw [guardedSwiState_guard] at hguard
  cases hguard

/-! ### CTX_NEXT (18 R483) -/

section
variable (h : Hw) (n : Fin 16)

/-- A request in CTX_NEXT names a context outside a switch. -/
theorem ctxNext_request (hsw : h.switching = false) : h.ctxNext (w32 (16 + n.val)) =
    if h.someResident ∧ n.val = h.ctx then h.setReg CTX_NEXT 0 0#32
    else if h.ctxState n = 1 then h.setReg CTX_NEXT 0 (w32 (16 + n.val))
    else h.inc CTX_NEXT_IGN_CNT := by
  have hmask : w32 (16 + n.val) &&& 0x1F#32 = w32 (16 + n.val) := by revert n; decide
  have hreq : bit (w32 (16 + n.val)) 4 = true := by revert n; decide
  have hname : bits (w32 (16 + n.val)) 3 0 = n.val := by revert n; decide
  simp [Hw.ctxNext, hmask, hreq, hname, hsw]

end

/-! ### ATT_CMD (18 R492) -/

/-- A START while a step runs waits for the next advance. -/
theorem attStart_running (h : Hw) (hidle : h.flag ATT_STAT 0 0 = false) (hrun : h.flag STEP_CTRL 0 0 = true) :
    h.attStart = ({ h with attWait := true } : Hw).setReg ATT_STAT 0 1#32 := by
  have hrun' : (({ h with attWait := true } : Hw).setReg ATT_STAT 0 1#32).flag STEP_CTRL 0 0 = true :=
    (flag_setReg_other _ _ _ _ (by decide) 0).trans hrun
  rw [Hw.attStart, if_neg (by simp [hidle])]
  exact if_pos hrun'

/-- Settles O31: CTX_NEXT by the context it names, ATT_CMD by BUSY. -/
theorem contextAndReportRequests : Obligations.ContextAndReportRequests := by
  refine ⟨?load, ?cancel, ?ignore, ?start, ?busy⟩
  case load =>
    intro s who n hg hsw hloaded hother
    refine effect_windowWrite rfl hg ((ctxNext_request s.hw n hsw).trans ?_) (.one _ _ rfl _ _ _)
    rw [if_neg hother, if_pos hloaded]
  case cancel =>
    intro s who n hg hsw hres hctx
    refine effect_windowWrite rfl hg ((ctxNext_request s.hw n hsw).trans ?_) (.one _ _ rfl _ _ _)
    rw [if_pos ⟨hres, hctx⟩]
  case ignore =>
    intro s who n hg hsw hloaded hother
    refine effect_windowWrite rfl hg ((ctxNext_request s.hw n hsw).trans ?_) (.one _ _ rfl _ _ _)
    rw [if_neg hother, if_neg hloaded]
    rfl
  case start =>
    intro s who hg hidle hrun
    exact effect_windowWrite rfl hg (attStart_running s.hw hidle hrun) (.one _ _ rfl _ _ _)
  case busy =>
    intro s who hg hbusy
    exact effect_windowWrite rfl hg (if_pos hbusy) (.one _ _ rfl _ _ _)

/-! ### PKG_PWR_REQ (15 R420) -/

/-- Rest is allowed of a machine that holds with RUN 0, outside an array. -/
theorem pkgMayRest_iff (h : Hw) :
    h.pkgMayRest = true ↔ h.flag STEP_CTRL 0 0 = false ∧ h.phaseCode = 0 ∧ h.flag TOPO_POS 0 16 = false := by
  simp [Hw.pkgMayRest, Hw.arrayEn, and_assoc]

/-- The target written does not bear on whether the package may rest. -/
theorem pkgMayRest_target (h : Hw) (t : Nat) : (h.setFld PKG_PWR_REQ 0 1 0 t).pkgMayRest = h.pkgMayRest := by
  rw [Hw.pkgMayRest, Hw.arrayEn, Hw.setFld, flag_setReg_other _ _ _ _ (by decide), flag_setReg_other _ _ _ _ (by decide)]
  rfl

/-- Outside a compute reset, a package in Brew takes the target written and sets out for it where it may rest. -/
theorem pkgPwrReq_brew (h : Hw) (v : Word) (hrst : h.reg RST_STAT = 0#32) (hpst : h.pkg.pst = .brew) {p : PState}
    (hp : (bits v 1 0 = 1 ∧ p = .toSteep) ∨ (bits v 1 0 = 2 ∧ p = .toCold)) :
    h.pkgPwrReq v =
      if h.pkgMayRest then
        (h.updPkg fun x => { x with pst := p, seqAt := if p = .toSteep then h.dev else x.seqAt }).setFld PKG_PWR_REQ 0 1 0 (bits v 1 0)
      else (h.setFld PKG_PWR_REQ 0 1 0 (bits v 1 0)).inc PWR_REQ_IGN_CNT := by
  have hrst' (t : Nat) : (h.setFld PKG_PWR_REQ 0 1 0 t).reg RST_STAT = 0#32 := (reg_setFld_ne _ _ _ _ _ _ _ _ (by decide)).trans hrst
  have hpst' (t : Nat) : (h.setFld PKG_PWR_REQ 0 1 0 t).pkg.pst = .brew := hpst
  obtain ⟨ht, rfl⟩ | ⟨ht, rfl⟩ := hp <;>
    simp only [Hw.pkgPwrReq, ht, hrst', hpst', seqEnd, Hw.pkgGo, pkgMayRest_target] <;> rfl

/-- Settles O28: the request by whether the package may rest. -/
theorem packageRestNeedsAnIdleMachine : Obligations.PackageRestNeedsAnIdleMachine := by
  intro s who v p hg hrst hpst hp
  have hreq := pkgPwrReq_brew s.hw v hrst hpst hp
  refine ⟨fun hrest => ?_, fun hrest => ?_⟩
  · rw [if_pos ((pkgMayRest_iff s.hw).2 hrest)] at hreq
    exact effect_windowWrite rfl hg hreq (.one _ _ rfl _ _ _)
  · rw [if_neg fun e => hrest ((pkgMayRest_iff s.hw).1 e)] at hreq
    refine effect_windowWrite rfl hg hreq ?_
    rw [Hw.inc, reg_setFld_ne _ _ _ _ _ _ _ _ (by decide)]
    exact (Hw.Now.one _ _ rfl _ _ _).set _ _ _

end Sys2Proof.Machine
end

section
/-! SUPPORT. Addresses of the management plane, refused accesses, writer rules and access codes (00 R15, R16, 19 R497–R499, R503, R526). -/

namespace Sys2Proof.Machine

/-! ### Addresses (19 R497, R498) -/

theorem bits_w32 {n : Nat} (hn : n < 2 ^ 32) (hi lo : Nat) : bits (w32 n) hi lo = n / 2 ^ lo % 2 ^ (hi + 1 - lo) := by
  rw [bits, w32, BitVec.toNat_ofNat, Nat.mod_eq_of_lt hn, Nat.shiftRight_eq_div_pow]

section
variable {pg off : Nat} (hoff : off < 4096)
include hoff

theorem locOf_gAddr (hpg : pg < 256) : locOf (gAddr pg off) = locGlobal pg (off / 4 * 4) := by
  have hn : pg * 2 ^ 12 + off < 2 ^ 32 := by omega
  have hregion : bits (gAddr pg off) 31 30 = 0 := by rw [gAddr, bits_w32 hn]; omega
  have hzero : bits (gAddr pg off) 29 20 = 0 := by rw [gAddr, bits_w32 hn]; omega
  have hpage : bits (gAddr pg off) 19 12 = pg := by rw [gAddr, bits_w32 hn]; omega
  have hword : bits (gAddr pg off) 11 2 = off / 4 := by rw [gAddr, bits_w32 hn]; omega
  simp only [locOf, hregion, hzero, hpage, hword, if_true, Nat.mul_comm 4]

theorem locOf_qAddr (q : Quad) (hpg : pg < 256) : locOf (qAddr q pg off) = locQuad q pg (off / 4 * 4) := by
  have hn : 2 ^ 30 + q * 2 ^ 28 + pg * 2 ^ 12 + off < 2 ^ 32 := by omega
  have hregion : bits (qAddr q pg off) 31 30 = 1 := by rw [qAddr, bits_w32 hn]; omega
  have hquad : bits (qAddr q pg off) 29 28 = q := by rw [qAddr, bits_w32 hn]; omega
  have hzero : bits (qAddr q pg off) 27 20 = 0 := by rw [qAddr, bits_w32 hn]; omega
  have hpage : bits (qAddr q pg off) 19 12 = pg := by rw [qAddr, bits_w32 hn]; omega
  have hword : bits (qAddr q pg off) 11 2 = off / 4 := by rw [qAddr, bits_w32 hn]; omega
  simp only [locOf, hregion, hquad, hzero, hpage, hword, if_true, Nat.mul_comm 4]

theorem locOf_cAddr (c : Cluster) (hpg : pg < 256) : locOf (cAddr c pg off) = locCluster c pg (off / 4 * 4) := by
  have hn : 2 ^ 31 + c / 16 * 2 ^ 28 + c % 16 * 2 ^ 24 + pg * 2 ^ 12 + off < 2 ^ 32 := by omega
  have hregion : bits (cAddr c pg off) 31 30 = 2 := by rw [cAddr, bits_w32 hn]; omega
  have hcluster : 16 * bits (cAddr c pg off) 29 28 + bits (cAddr c pg off) 27 24 = c := by rw [cAddr, bits_w32 hn, bits_w32 hn]; omega
  have hzero : bits (cAddr c pg off) 23 20 = 0 := by rw [cAddr, bits_w32 hn]; omega
  have hpage : bits (cAddr c pg off) 19 12 = pg := by rw [cAddr, bits_w32 hn]; omega
  have hword : bits (cAddr c pg off) 11 2 = off / 4 := by rw [cAddr, bits_w32 hn]; omega
  simp only [locOf, hregion, hcluster, hzero, hpage, hword, if_true, Nat.mul_comm 4]

theorem locOf_kAddr (k : Core) (hpg : pg < 128) : locOf (kAddr k pg off) = locCore k pg (off / 4 * 4) := by
  have hn : 3 * 2 ^ 30 + k / 512 * 2 ^ 28 + k / 32 % 16 * 2 ^ 24 + k % 32 * 2 ^ 19 + pg * 2 ^ 12 + off < 2 ^ 32 := by omega
  have hregion : bits (kAddr k pg off) 31 30 = 3 := by rw [kAddr, bits_w32 hn]; omega
  have hcore : 32 * (16 * bits (kAddr k pg off) 29 28 + bits (kAddr k pg off) 27 24) + bits (kAddr k pg off) 23 19 = k := by
    rw [kAddr, bits_w32 hn, bits_w32 hn, bits_w32 hn]; omega
  have hpage : bits (kAddr k pg off) 18 12 = pg := by rw [kAddr, bits_w32 hn]; omega
  have hword : bits (kAddr k pg off) 11 2 = off / 4 := by rw [kAddr, bits_w32 hn]; omega
  simp only [locOf, hregion, hcore, hpage, hword, Nat.mul_comm 4]

end

/-! ### Refused accesses (19 R526) -/

/-- Requesters whose code the spec gives (19 R526). -/
def Coded (who : Requester) (n : Nat) : Prop := ∀ h : Hw, h.whoCode who = (h, n)

section
variable {s : State} {who : Requester} {n : Nat} {a : Word} {wr : Bool} {x : Refused} {i : Instr}

/-- While a refusal is on record, a refused access is counted and answered. -/
theorem now_refuse_recorded (h : Hw) (hx : x.cnt ≠ MGMT_ERR_INFO) (hrec : h.flag MGMT_ERR_INFO 0 31 = true) :
    h.Now { h with resp := { status := x.status } } [((x.cnt, 0), satAdd32 (h.reg x.cnt) 1)] (h.refuse who a wr x) := by
  have hrec' : ({ h.inc x.cnt with resp := { status := x.status } } : Hw).flag MGMT_ERR_INFO 0 31 = true :=
    (flag_setReg_other h _ _ _ hx 31).trans hrec
  rw [Hw.refuse, if_pos hrec']
  exact Hw.Now.one h { h with resp := { status := x.status } } rfl _ _ _

/-- While none is, it is recorded too. -/
theorem now_refuse_free (h : Hw) (hx : x.cnt ≠ MGMT_ERR_INFO) (hwho : Coded who n) (hrec : h.flag MGMT_ERR_INFO 0 31 = false) :
    h.Now { h with resp := { status := x.status } }
      [((MGMT_ERR_ADDR, 0), a), ((MGMT_ERR_INFO, 0), fields [(0, n), (4, x.cause), (8, b2n wr), (31, 1)]),
        ((x.cnt, 0), satAdd32 (h.reg x.cnt) 1)] (h.refuse who a wr x) := by
  have hrec' : ¬ ({ h.inc x.cnt with resp := { status := x.status } } : Hw).flag MGMT_ERR_INFO 0 31 = true :=
    ne_true_of_eq_false ((flag_setReg_other h _ _ _ hx 31).trans hrec)
  rw [Hw.refuse, if_neg hrec', hwho]
  exact ((Hw.Now.one h { h with resp := { status := x.status } } rfl _ _ _).set _ _ _).set _ _ _

theorem guarded_nopage (h : Hw) (hloc : locOf a = none) (act : Hw → Loc → Hw × Word) :
    h.guarded who a wr act = h.refuse who a wr ⟨0, MGMT_NOPAGE_CNT, .nopage⟩ := by simp only [Hw.guarded, hloc]

theorem guarded_refused (h : Hw) {l : Loc} (hloc : locOf a = some l) (href : h.refusal who l wr = some x) (act : Hw → Loc → Hw × Word) :
    h.guarded who a wr act = h.refuse who a wr x := by simp only [Hw.guarded, hloc, href]

end

/-! ### Accesses by address -/

section
variable (s : State) {who : Requester} {a v z : Word} {same : Bool}

theorem exec_registerWrite : exec (.registerWrite who a ⟨v, z⟩) s = s.mgmt who fun h => h.mgmtWrite who a v z := rfl

theorem exec_rcCounterRead : exec (.rcCounterRead who a same) s = s.mgmt who fun h => h.mgmtRead who a same := rfl

end

/-- Settles O10: each region's address field by field, and an access that reaches no page as a refusal. -/
theorem addressesReachTheirPage : Obligations.AddressesReachTheirPage := by
  refine ⟨⟨?global, ?quadrant, ?cluster, ?core⟩, fun s m a v z hp hloc => ⟨?recorded, ?write, ?read⟩⟩
  case global => exact fun pg off hpg hoff => locOf_gAddr hoff hpg
  case quadrant => exact fun q pg off hpg hoff => locOf_qAddr hoff q hpg
  case cluster => exact fun c pg off hpg hoff => locOf_cAddr hoff c hpg
  case core => exact fun k pg off hpg hoff => locOf_kAddr hoff k hpg
  case recorded =>
    intro hrec
    refine answers_mgmt (exec_registerWrite s) hp ?_
    rw [Hw.mgmtWrite, guarded_nopage _ hloc]
    exact now_refuse_recorded s.hw (by decide) hrec
  case write =>
    intro hrec
    refine answers_mgmt (exec_registerWrite s) hp ?_
    rw [Hw.mgmtWrite, guarded_nopage _ hloc]
    exact now_refuse_free s.hw (by decide) (fun _ => rfl) hrec
  case read =>
    intro hrec same
    refine answers_mgmt (exec_rcCounterRead s) hp ?_
    rw [Hw.mgmtRead, guarded_nopage _ hloc]
    exact now_refuse_free s.hw (by decide) (fun _ => rfl) hrec

/-! ### Writer rules and access codes (00 R15, R16, 19 R499, R503) -/

/-- An RCP engine's write of a page that firmware alone writes is denied. -/
theorem refusal_firmwarePage (h : Hw) (q : Quad) {l : Loc} (hpage : l.page ∈ fwPages) :
    h.refusal (.rcp q) l true = some ⟨2, MGMT_DENY_CNT, .denied⟩ := by
  have hmfg : isMfg l.page = false := by
    have hall : ∀ p ∈ fwPages, isMfg p = false := by decide
    exact hall _ hpage
  simp [Hw.refusal, Hw.rcpDenied, isRcp, hmfg, hpage]

/-- A granted write by address. -/
theorem effect_registerWrite {s : State} {who : Requester} {r : Rg} {u : Nat} {v z : Word} {g : Hw} {l : List ((Rg × Nat) × Word)}
    (hg : s.Grants who r u true) (hnow : s.hw.Now g l (s.hw.regWrite who r.page u r.off v z)) :
    Effect (.registerWrite who (addrOf r u) ⟨v, z⟩) s (g.told 0) l := by
  obtain ⟨loc, hpage, hunit, hoff, e⟩ := guarded_granted hg fun h loc => (h.regWrite who loc.page loc.unit loc.off v z, 0#32)
  refine answers_mgmt (exec_registerWrite s) hg.1 ?_
  rw [Hw.mgmtWrite, e, hpage, hunit, hoff]
  exact hnow.told 0

section
variable (h : Hw)

/-- A register of an unlocked page takes what its access codes leave. -/
theorem putReg_unlocked {r : Rg} {u : Nat} (v : Word) (hl : h.locked r.page u = false) : h.putReg r u v = h.setReg r u (h.written r u v) := by
  rw [Hw.putReg, lockCount_unlocked _ _ hl, id, ite_self]

/-- A write of a register of the GPIO page other than GPIO_SET and GPIO_CLR. -/
theorem regWrite_gpio (who : Requester) {r : Rg} (v : Word) (hpage : r.page = pgGPIO) (hoff : 0x040 ≤ r.off) (hset : r ≠ GPIO_SET) (hclr : r ≠ GPIO_CLR) :
    h.regWrite who r.page 0 r.off v = h.putReg r 0 v := by
  have hother {r' : Rg} (hp : r'.page ≠ pgGPIO) : r ≠ r' := fun e => hp (e ▸ hpage)
  have hisland : h.writeIsland r 0 v = h.putReg r 0 v := by
    simp (disch := decide) only [Hw.writeIsland, hother, if_neg hset, if_neg hclr, if_false]
  have hmfg : ¬ (isMfg r.page = true ∧ 0x040 ≤ r.off) := by rw [hpage]; exact fun e => absurd e.1 (by decide)
  have hroast : ¬ (r.page = pgROASTCFG ∧ r.off < 0x040 ∧ (h.cl 0).roast.busy = true) := fun e => absurd e.2.1 (by omega)
  rw [regWrite_alone, Hw.regPut, if_neg hmfg, if_neg hroast, if_neg (by omega), if_pos (.inr (.inr (.inr (.inl hpage))))]
  exact hisland

/-- A bit that is not cleared or set by writing 1 takes what is written where it is writable, and stays where it is not. -/
theorem bit_written_unlocked {r : Rg} {u : Nat} {row : RegRow} (v : Word) {i : Nat} (hrow : rowOf r.page r.off = some row)
    (hl : h.locked r.page u = false) (hi : i < 32) (hw1c : bit (w32 row.w1c) i = false) (hw1s : bit (w32 row.w1s) i = false) :
    bit (h.written r u v) i = if bit (w32 row.rw) i || bit (w32 row.rwl) i then bit v i else bit (h.reg r u) i := by
  cases hrw : bit (w32 row.rw) i <;> cases hrwl : bit (w32 row.rwl) i <;> simp only [bit, BitVec.getLsbD_eq_getElem hi] at * <;>
    simp [Hw.written, Hw.rowMask, hrow, hl, hrw, hrwl, hw1c, hw1s]

/-- What a write of TMR_STAT leaves: the bits written 1 are cleared. -/
theorem written_tmrStat (k : Nat) (v : Word) : h.written TMR_STAT k v = h.reg TMR_STAT k &&& ~~~ (v &&& 0xF#32) := by
  have hrow : rowOf TMR_STAT.page TMR_STAT.off = some ⟨0x05C, 1, 4, 0, 0, 0, 0xF, 0, 0⟩ := rfl
  have hkeep : h.reg TMR_STAT k &&& 0xFFFFFFFF#32 = h.reg TMR_STAT k := BitVec.and_allOnes
  simp [Hw.written, Hw.rowMask, hrow, w32, hkeep]

/-- Clearing the bits written 1 but for those that are set, and setting those, is clearing all and setting those. -/
theorem clear_and_set (w v m : Word) : (w &&& ~~~ ((v &&& ~~~ m) &&& 0xF#32)) ||| m = (w &&& ~~~ (v &&& 0xF#32)) ||| m := by
  ext i hi
  cases hm : m[i] <;> simp [hm]

/-- A write of TMR_STAT while hardware sets bits of it in the same cycle: those end set. -/
theorem now_tmrStat (who : Requester) (k : Nat) (v z : Word) (hl : h.locked pgTMR k = false) :
    h.Now h [((TMR_STAT, k), (h.reg TMR_STAT k &&& ~~~ (v &&& 0xF#32)) ||| (z &&& 0xF#32))]
      (h.regWrite who TMR_STAT.page k TMR_STAT.off v z) := by
  have hplain (w : Word) : h.regPut who TMR_STAT.page k TMR_STAT.off w = h.setReg TMR_STAT k (h.reg TMR_STAT k &&& ~~~ (w &&& 0xF#32)) :=
    (putReg_unlocked h (r := TMR_STAT) w hl).trans (by rw [written_tmrStat])
  have hmask : z &&& w1cMask TMR_STAT.page TMR_STAT.off = z &&& 0xF#32 := rfl
  have hwrite : h.regWrite who TMR_STAT.page k TMR_STAT.off v z = if z &&& 0xF#32 = 0#32 then
      h.setReg TMR_STAT k (h.reg TMR_STAT k &&& ~~~ (v &&& 0xF#32))
    else
      let t := h.setReg TMR_STAT k (h.reg TMR_STAT k &&& ~~~ (v &&& ~~~ (z &&& 0xF#32) &&& 0xF#32))
      t.setReg TMR_STAT k (t.reg TMR_STAT k ||| (z &&& 0xF#32)) := by
    rw [Hw.regWrite, if_neg (fun e => absurd e.1 (by decide)), hmask, hplain, hplain]
  rw [hwrite]
  split
  case isTrue hz =>
    rw [hz, BitVec.or_zero]
    exact .one _ _ rfl _ _ _
  case isFalse =>
    simp only [reg_setReg_same, clear_and_set]
    exact ((Hw.Now.one _ _ rfl _ _ _).set _ _ _).drop

/-- A write of FAB_FRAMES under the lock is counted and leaves it as it is. -/
theorem now_fabFrames_locked (who : Requester) (v : Word) (hl : h.locked pgFAB 0 = true) :
    h.Now h [((MGMT_LOCK_IGN_CNT, 0), satAdd32 (h.reg MGMT_LOCK_IGN_CNT) 1)] (h.regWrite who FAB_FRAMES.page 0 FAB_FRAMES.off v) := by
  have hrow : rowOf FAB_FRAMES.page FAB_FRAMES.off = some ⟨0x040, 1, 4, 0, 0, 0x3FF, 0, 0, 0⟩ := rfl
  have hl' : h.locked FAB_FRAMES.page 0 = true := hl
  have hmask : h.rowMask FAB_FRAMES 0 = 0#32 := by simp [Hw.rowMask, hrow, hl', w32]
  have hkeep : h.reg FAB_FRAMES &&& 0xFFFFFFFF#32 = h.reg FAB_FRAMES := BitVec.and_allOnes
  have hwritten : h.written FAB_FRAMES 0 v = h.reg FAB_FRAMES := by simp [Hw.written, hrow, hmask, w32, hkeep]
  have hput : h.regPut who FAB_FRAMES.page 0 FAB_FRAMES.off v = (h.inc MGMT_LOCK_IGN_CNT).setReg FAB_FRAMES 0 (h.reg FAB_FRAMES) := by
    refine (show _ = h.putReg FAB_FRAMES 0 v (capFld 9 0 512) from rfl).trans ?_
    rw [Hw.putReg, if_pos hmask, hwritten]
    simp [Hw.lockCount, hrow, hl']
  rw [regWrite_alone, hput]
  obtain ⟨hrest, hregs⟩ := (Hw.Now.one h h rfl MGMT_LOCK_IGN_CNT 0 (satAdd32 (h.reg MGMT_LOCK_IGN_CNT) 1))
  refine ⟨hrest, fun r u => ?_⟩
  rw [← hregs, reg_setReg]
  split
  case isTrue e =>
    obtain ⟨rfl, rfl⟩ := e
    exact (reg_setReg_other _ _ _ _ (by decide)).symm
  case isFalse => rfl

end

/-- Settles O11: the writer rule as a refusal, and the access codes register by register. -/
theorem writerRulesAndAccessCodes : Obligations.WriterRulesAndAccessCodes := by
  refine ⟨fun s q a v z l hp hloc hpage => ⟨?recorded, ?denied⟩, ?gpio, ?status, ?codes, ?locked⟩
  case recorded =>
    intro hrec
    refine answers_mgmt (exec_registerWrite s) hp ?_
    rw [Hw.mgmtWrite, guarded_refused _ hloc (refusal_firmwarePage _ q hpage)]
    exact now_refuse_recorded s.hw (by decide) hrec
  case denied =>
    intro hrec
    refine answers_mgmt (exec_registerWrite s) hp ?_
    rw [Hw.mgmtWrite, guarded_refused _ hloc (refusal_firmwarePage _ q hpage)]
    exact now_refuse_free s.hw (by decide) (fun _ => rfl) hrec
  case gpio =>
    intro s who r v hg hpage hoff hset hclr hl
    refine effect_registerWrite hg ?_
    rw [regWrite_gpio s.hw who v hpage hoff hset hclr, putReg_unlocked _ _ (hpage ▸ hl)]
    exact .one _ _ rfl _ _ _
  case status => exact fun s who k v z hg hl => effect_registerWrite hg (now_tmrStat s.hw who k v z hl)
  case codes => exact fun h r u row v i hrow hl hi hw1c hw1s => bit_written_unlocked h v hrow hl hi hw1c hw1s
  case locked => exact fun s who v hg hl => effect_registerWrite hg (now_fabFrames_locked s.hw who v hl)

end Sys2Proof.Machine
end

section
/-! SUPPORT. Power requests and reset registers: the statement on them (15 R410–R424, 16 R435–R438, R454). -/

namespace Sys2Proof.Machine

/-- The endpoint of core 0 holds an OPEN handle, router 0 throttles, and the cycles of its throttling are counted, by the record of that wait,
in CORE_RST_HOLD. -/
def misbookedState : State :=
  { pending := []
    hw :=
      { dev := 100
        waits := [(waitKey DRIP_THR_CYC_CNT 0 0, { page := CORE_RST_HOLD.page, off := CORE_RST_HOLD.off, unit := 0, next := 100, per := 1 })]
        clusters := [(0, { dbuf := [(2, List.replicate 33 {})] })]
        eps := [(0, { handles := [(0, { st := 2 })] })] } }

theorem misbookedState_grants : misbookedState.Grants (.mp 0) CORE_RST_HOLD 0 true :=
  ⟨by decide, ⟨CORE_RST_HOLD.page, 0, CORE_RST_HOLD.off, some 0, none⟩, by decide, rfl, rfl, rfl, by decide, rfl⟩

/-- The core's reset sends a CLOSE for the handle, and one more cycle of the wait is counted. -/
theorem misbookedState_hold : (misbookedState.hw.coreRstHold 0 1#32).reg CORE_RST_HOLD = 2#32 := by decide

/-- Refutes O27: a CORE_RST_HOLD bit resets its core, whose OPEN handles send a CLOSE into the router; the cycles for which the router throttles
are counted where the record of that wait says, and the statement holds of states in which the record names CORE_RST_HOLD itself. -/
theorem not_powerAndResetRequests : ¬ Obligations.PowerAndResetRequests := by
  rintro ⟨-, -, -, -, -, hhold, -⟩
  obtain ⟨t, ht, -, -, hreg, -⟩ := hhold misbookedState (.mp 0) 0 0 misbookedState_grants (by decide) (by decide)
  have hput : exec (.coreRstHoldWrite (.mp 0) 0 (w32 (2 ^ (0 : Fin 32).val))) misbookedState =
      .next { misbookedState with hw := (misbookedState.hw.coreRstHold 0 1#32).told 0#32 } :=
    put_granted misbookedState_grants 1#32
  rw [hput, Host.Outcome.next.injEq] at ht
  subst ht
  have hone : (misbookedState.hw.coreRstHold 0 1#32).reg CORE_RST_HOLD = 1#32 := hreg
  rw [misbookedState_hold] at hone
  exact absurd hone (by decide)

end Sys2Proof.Machine
end

section
/-! SUPPORT. The intervals of the compute reset: the statement on them (16 R438). -/

namespace Sys2Proof.Machine

/-- Interval 5 of a compute reset, with a packet of the broadcast still to leave. -/
def broadcastingState : State :=
  { pending := []
    hw := { regs := [(rk RST_STAT 0, 5#32)], eps := [(mp0, { txq := [([], [])] })] } }

theorem broadcastingState_waits : broadcastingState.hw.rstIntervalEnd [] = broadcastingState.hw := by
  have hinterval : broadcastingState.hw.reg RST_STAT = 5#32 := by decide
  have hbroadcast : broadcastingState.hw.broadcastOver = false := by decide
  rw [Hw.rstIntervalEnd, hinterval]
  exact if_neg (ne_true_of_eq_false hbroadcast)

/-- Refutes O36: interval 5 ends only when the broadcast is over. The clause on it says that RST_STAT reads 0 whenever the command comes in interval
5; while a packet of the broadcast still waits to leave, it reads 5 after the command as before. -/
theorem not_computeResetAndUnitResets : ¬ Obligations.ComputeResetAndUnitResets := by
  rintro ⟨⟨-, -, -, -, hend, -⟩, -⟩
  obtain ⟨t, ht, -, hstat, -⟩ := hend broadcastingState [] (by decide) (by decide)
  have hexec : exec (.computeResetIntervalEnd []) broadcastingState = .next { broadcastingState with hw := broadcastingState.hw.rstIntervalEnd [] } :=
    onHw_powered broadcastingState (fun h => h.rstIntervalEnd []) (by decide)
  rw [hexec, broadcastingState_waits, Host.Outcome.next.injEq] at ht
  subst ht
  exact absurd hstat (by decide)

end Sys2Proof.Machine
end

section
/-! SUPPORT. The ends of a cluster's power sequences: its banks, what Cold takes, and the statement on them (05 R168, 15 R412–R417). -/

namespace Sys2Proof.Machine

/-! ### Time (00 R1) -/

/-- Device time goes on: beside it and PTP time, the counters of the waits in progress. -/
theorem advTo_eq (h : Hw) (n : Nat) : ∃ d p r w, h.dev ≤ d ∧ h.advTo n = { h with dev := d, ptp := p, regs := r, waits := w } := by
  unfold Hw.advTo
  split
  case isTrue hlate =>
    rw [countWaits_eq]
    exact ⟨_, _, _, _, hlate.1.le, rfl⟩
  case isFalse => exact ⟨_, _, _, _, le_rfl, rfl⟩

@[simp] theorem clusters_advTo (h : Hw) (n : Nat) : (h.advTo n).clusters = h.clusters := by
  obtain ⟨d, p, r, w, -, e⟩ := advTo_eq h n
  rw [e]

@[simp] theorem cl_advTo (h : Hw) (n c : Nat) : (h.advTo n).cl c = h.cl c := by rw [Hw.cl, clusters_advTo, Hw.cl]

@[simp] theorem bank_advTo (h : Hw) (n c b : Nat) : (h.advTo n).bank c b = h.bank c b := by rw [Hw.bank, cl_advTo, Hw.bank]

/-! ### Changes of one cluster's banks (05 R168) -/

/-- A block in which the banks of cluster c are all that differs. -/
structure Hw.BanksOnly (h : Hw) (c : Nat) (t : Hw) : Prop where
  rest : h.ClustersOnly t
  other : ∀ d, d ≠ c → t.cl d = h.cl d
  pst : (t.cl c).pst = (h.cl c).pst
  pend : (t.cl c).pend = (h.cl c).pend

namespace Hw.BanksOnly

theorem refl (h : Hw) (c : Nat) : h.BanksOnly c h := ⟨.refl h, fun _ _ => rfl, rfl, rfl⟩

section
variable {h t : Hw} {c : Nat} (x : h.BanksOnly c t)
include x

theorem trans {v : Hw} (y : t.BanksOnly c v) : h.BanksOnly c v :=
  ⟨x.rest.trans y.rest, fun d hd => (y.other d hd).trans (x.other d hd), y.pst.trans x.pst, y.pend.trans x.pend⟩

theorem updBank (b : Nat) (f : BankSt → BankSt) : h.BanksOnly c (t.updBank c b f) :=
  x.trans ⟨.updCl t c _, fun d hd => by rw [Hw.updBank, cl_updCl, if_neg (Ne.symm hd)],
    by rw [Hw.updBank, cl_updCl, if_pos rfl], by rw [Hw.updBank, cl_updCl, if_pos rfl]⟩

theorem foldl {f : Hw → Nat → Hw} (hf : ∀ (v : Hw) b, v.BanksOnly c (f v b)) (l : List Nat) : h.BanksOnly c (l.foldl f t) := by
  induction l generalizing t with
  | nil => exact x
  | cons b r ih => exact ih (x.trans (hf t b))

end

end Hw.BanksOnly

/-- A fold over banks in which each element gives its own bank a state that depends on the state alone, and once given stays. -/
theorem pwr_foldl {c : Nat} {f : Hw → Nat → Hw} {g : Nat → Nat → Nat} (hg : ∀ b p, g b (g b p) = g b p) {t : Hw}
    (hf : ∀ (v : Hw) b, t.BanksOnly c v → v.BanksOnly c (f v b) ∧ ∀ j, ((f v b).bank c j).pwr = if b = j then g j (v.bank c j).pwr else (v.bank c j).pwr)
    (l : List Nat) {v : Hw} (hv : t.BanksOnly c v) (j : Nat) :
    ((l.foldl f v).bank c j).pwr = if j ∈ l then g j (v.bank c j).pwr else (v.bank c j).pwr := by
  induction l generalizing v with
  | nil => rfl
  | cons b r ih =>
    obtain ⟨hkeep, hpwr⟩ := hf v b hv
    rw [List.foldl_cons, ih (hv.trans hkeep), hpwr]
    by_cases hb : b = j
    · by_cases hr : j ∈ r <;> simp [hb, hr, hg]
    · simp [hb, Ne.symm hb]

section
variable (h : Hw) (c : Nat)

theorem banksRet_only : h.BanksOnly c (h.banksRet c) := (Hw.BanksOnly.refl h c).foldl (fun v _ => (Hw.BanksOnly.refl v c).updBank _ _) _

/-- Steep puts a bank into RET unless it is OFF. -/
theorem pwr_banksRet {b : Nat} (hb : b < 32) : ((h.banksRet c).bank c b).pwr = if (h.bank c b).pwr = 2 then 2 else 1 := by
  refine (pwr_foldl (g := fun _ p => if p = 2 then 2 else 1) (fun _ p => by split <;> rfl) (fun v b _ => ⟨(Hw.BanksOnly.refl v c).updBank _ _, fun j => ?_⟩) _ (.refl h c) b).trans
    (if_pos (List.mem_range.2 hb))
  rw [bank_updBank]
  split
  case isTrue e => subst e; split <;> simp_all
  case isFalse => rfl

theorem banksBack_step (v : Hw) (b p : Nat) : v.BanksOnly c (if (v.bank c b).pwr = p then v else v.updBank c b fun s => { s with pwr := p }) := by
  split
  · exact .refl v c
  · exact (Hw.BanksOnly.refl v c).updBank _ _

theorem banksBack_only : h.BanksOnly c (h.banksBack c) := (Hw.BanksOnly.refl h c).foldl (fun v _ => banksBack_step c v _ _) _

/-- The way back from Steep gives each bank its BANK_PWR state. -/
theorem pwr_banksBack {b : Nat} (hb : b < 32) : ((h.banksBack c).bank c b).pwr = [0, 1, 2, 1].getD (h.bankPwrReg c b) 1 := by
  refine (pwr_foldl (g := fun b _ => [0, 1, 2, 1].getD (h.bankPwrReg c b) 1) (fun _ _ => rfl) (fun v b hv => ⟨banksBack_step c v _ _, fun j => ?_⟩) _ (.refl h c) b).trans
    (if_pos (List.mem_range.2 hb))
  have hreg : v.bankPwrReg c b = h.bankPwrReg c b := by simp only [Hw.bankPwrReg, Hw.fld, hv.rest.reg]
  rw [hreg]
  split
  case isTrue e =>
    split
    case isTrue hj => subst hj; exact e
    case isFalse => rfl
  case isFalse =>
    rw [bank_updBank]
    split
    case isTrue hj => subst hj; rfl
    case isFalse => rfl

end

/-! ### Steep -/

section

/-- Where nothing is pending a sequence that has ended leaves the state it ends in. -/
theorem clSettle_none {h : Hw} {c : Nat} (hpend : (h.cl c).pend = none) (now : Nat) : h.clSettle c now = h := by rw [Hw.clSettle, hpend]

/-- What is done to a block once time has gone on, where nothing waits, leaves its registers. -/
theorem Hw.ClustersOnly.regs_advTo {h t : Hw} {n : Nat} (x : (h.advTo n).ClustersOnly t) (hw : h.waits = []) : t.regs = h.regs :=
  x.regs.trans (advTo_regs hw n)

end

/-! ### Cold (15 R412, R413) -/

section
variable (h : Hw)

theorem byte_zeroed (a n x : Nat) : (h.zero a n).byte x = if x < a ∨ a + n ≤ x then h.byte x else 0#8 := by
  rw [Hw.byte, Tbl.get, show (h.zero a n).mem = h.mem.filter fun p => decide (p.1 < a) || decide (a + n ≤ p.1) from rfl,
    Tbl.find_filter_key h.mem fun k => decide (k < a) || decide (a + n ≤ k)]
  by_cases hx : x < a ∨ a + n ≤ x
  · simp [hx, Hw.byte, Tbl.get]
  · simp [hx]

/-- Initialised memory of cluster c reads 0 in its banks. -/
theorem byte_memInit (c : Nat) {b x : Nat} (hb : b < 32) (hx : x < 2 ^ 24) : (h.memInit c).byte (bankBase c b + x) = 0#8 := by
  have hmem : (h.memInit c).mem = (((h.zero (coreBase (32 * c)) (32 * 2 ^ 24)).zero (bankBase c 0) (32 * 2 ^ 24)).zero (parkBase c 0) (64 * 2 ^ 24)).mem :=
    foldl_keeps Hw.mem _ (fun t k => by split <;> rfl) _ _
  rw [Hw.byte, hmem, ← Hw.byte, byte_zeroed, byte_zeroed]
  have hin : ¬ (bankBase c b + x < bankBase c 0 ∨ bankBase c 0 + 32 * 2 ^ 24 ≤ bankBase c b + x) := by unfold bankBase; omega
  rw [if_neg hin, ite_self]

/-- Initialising the memory of cluster c changes it at most. -/
theorem cl_memInit (c : Nat) {d : Nat} (hd : d ≠ c) : (h.memInit c).cl d = h.cl d := by
  refine (foldl_keeps (Hw.cl · d) _ (fun t k => by split <;> rfl) _ _).trans ?_
  exact (cl_updCl _ _ _ _).trans (if_neg (Ne.symm hd))

/-- Cores that have lost everything. -/
theorem core_foldl_clear (l : List Nat) (k : Nat) :
    (l.foldl (fun t j => (t.setCore j {}).setEp (epOfCore j) {}) h).core k = if k ∈ l then {} else h.core k := by
  induction l generalizing h with
  | nil => rfl
  | cons j r ih =>
    rw [List.foldl_cons, ih]
    have hone : ((h.setCore j {}).setEp (epOfCore j) {}).core k = if j = k then {} else h.core k := core_setCore h j k {}
    by_cases hj : j = k
    · subst hj
      rw [hone, if_pos rfl, ite_self, if_pos List.mem_cons_self]
    · simp [hone, hj, Ne.symm hj]

/-- Cluster c with its memory, tables and registers at reset, before its cores. -/
def Hw.clBare (h : Hw) (c : Nat) : Hw :=
  ((h.memInit c).resetTabs fun t u => decide (u = c) && ([Tab.seg, .rule, .spare].map Tab.code).contains t).resetRegs
    fun p u _ => regCluster p u == some c && !(p == pgDRIPEP && decide (33 ≤ u % 64))

/-- Cluster c without its cores too. -/
def Hw.clCoreless (h : Hw) (c : Nat) : Hw := (coresOf c).foldl (fun t k => (t.setCore k {}).setEp (epOfCore k) {}) (h.clBare c)

theorem clWipe_eq (c : Nat) : h.clWipe c =
    ({ h.clCoreless c with waits := (h.clCoreless c).waits.filter fun w => regCluster w.2.page w.2.unit != some c } : Hw).setCl c
      { pst := .cold, regStat := 12, temp := (h.cl c).temp } := by
  rw [Hw.clWipe, Hw.clCoreless, Hw.clBare]

theorem cl_clWipe_same (c : Nat) : (h.clWipe c).cl c = { pst := .cold, regStat := 12, temp := (h.cl c).temp } := by
  rw [clWipe_eq, cl_setCl, if_pos rfl]

theorem resetTabs_keeps (f : Nat → Nat → Bool) : (h.resetTabs f).clusters = h.clusters ∧ (h.resetTabs f).mem = h.mem := ⟨rfl, rfl⟩

theorem resetRegs_keeps (f : Nat → Nat → Nat → Bool) : (h.resetRegs f).clusters = h.clusters ∧ (h.resetRegs f).mem = h.mem := ⟨rfl, rfl⟩

/-- Forgetting waits leaves clusters, cores and memory. -/
theorem setWaits_keeps (w : Tbl Wait) (d k : Nat) :
    ({ h with waits := w } : Hw).cl d = h.cl d ∧ ({ h with waits := w } : Hw).core k = h.core k ∧ ({ h with waits := w } : Hw).mem = h.mem := ⟨rfl, rfl, rfl⟩

theorem setCl_keeps (c k : Nat) (v : ClusterSt) : (h.setCl c v).core k = h.core k ∧ (h.setCl c v).mem = h.mem := ⟨rfl, rfl⟩

theorem updCl_keeps (c k : Nat) (f : ClusterSt → ClusterSt) : (h.updCl c f).core k = h.core k ∧ (h.updCl c f).mem = h.mem := ⟨rfl, rfl⟩

/-- Clearing cores leaves clusters and memory. -/
theorem foldl_clear_keeps (l : List Nat) :
    (l.foldl (fun t k => (t.setCore k {}).setEp (epOfCore k) {}) h).clusters = h.clusters ∧
      (l.foldl (fun t k => (t.setCore k {}).setEp (epOfCore k) {}) h).mem = h.mem :=
  ⟨foldl_keeps Hw.clusters (fun t k => (t.setCore k {}).setEp (epOfCore k) {}) (fun _ _ => rfl) _ _,
    foldl_keeps Hw.mem (fun t k => (t.setCore k {}).setEp (epOfCore k) {}) (fun _ _ => rfl) _ _⟩

theorem cl_clCoreless (c d : Nat) : (h.clCoreless c).cl d = (h.memInit c).cl d := by
  rw [Hw.clCoreless, Hw.cl, (foldl_clear_keeps _ _).1, Hw.clBare, (resetRegs_keeps _ _).1, (resetTabs_keeps _ _).1, Hw.cl]

theorem cl_clWipe_other {c d : Nat} (hd : d ≠ c) : (h.clWipe c).cl d = h.cl d := by
  rw [clWipe_eq, cl_setCl, if_neg (Ne.symm hd), (setWaits_keeps _ _ d 0).1, cl_clCoreless, cl_memInit h c hd]

theorem core_clWipe {c k : Nat} (hk : k ∈ coresOf c) : (h.clWipe c).core k = {} := by
  rw [clWipe_eq, (setCl_keeps _ _ k _).1, (setWaits_keeps _ _ 0 k).2.1, Hw.clCoreless, core_foldl_clear, if_pos hk]

theorem mem_clWipe (c : Nat) : (h.clWipe c).mem = (h.memInit c).mem := by
  rw [clWipe_eq, (setCl_keeps _ _ 0 _).2, (setWaits_keeps _ _ 0 0).2.2, Hw.clCoreless, (foldl_clear_keeps _ _).2, Hw.clBare, (resetRegs_keeps _ _).2,
    (resetTabs_keeps _ _).2]

end

/-! ### Repairs and spares (05 R167, 16 R447) -/

/-- From h to t the clusters beside c stay, and of c the power state. -/
structure Hw.PowerKept (h : Hw) (c : Nat) (t : Hw) : Prop where
  other : ∀ d, d ≠ c → t.cl d = h.cl d
  own : ((t.cl c).pst, (t.cl c).regStat, (t.cl c).pend) = ((h.cl c).pst, (h.cl c).regStat, (h.cl c).pend)

namespace Hw.PowerKept

theorem refl (h : Hw) (c : Nat) : h.PowerKept c h := ⟨fun _ _ => rfl, rfl⟩

section
variable {h t : Hw} {c : Nat} (x : h.PowerKept c t)
include x

theorem trans {v : Hw} (y : t.PowerKept c v) : h.PowerKept c v := ⟨fun d hd => (y.other d hd).trans (x.other d hd), y.own.trans x.own⟩

theorem frame {v : Hw} (e : v.clusters = t.clusters) : h.PowerKept c v :=
  have hcl (d : Nat) : v.cl d = t.cl d := by rw [Hw.cl, e, Hw.cl]
  x.trans ⟨fun d _ => hcl d, by rw [hcl]⟩

theorem updCl {f : ClusterSt → ClusterSt} (hf : ∀ v, ((f v).pst, (f v).regStat, (f v).pend) = (v.pst, v.regStat, v.pend)) : h.PowerKept c (t.updCl c f) :=
  x.trans ⟨fun d hd => by rw [cl_updCl, if_neg (Ne.symm hd)], by rw [cl_updCl, if_pos rfl, hf]⟩

theorem foldl {α : Type} {f : Hw → α → Hw} (hf : ∀ (v : Hw) a, v.PowerKept c (f v a)) (l : List α) : h.PowerKept c (l.foldl f t) := by
  induction l generalizing t with
  | nil => exact x
  | cons a r ih => exact ih (x.trans (hf t a))

theorem repair (sel data : Word) : h.PowerKept c (t.repair c sel data) := by
  refine x.frame ?_
  unfold Hw.repair Hw.softRepair
  dsimp only
  split
  · rfl
  · split <;> rfl

theorem remapPageApply : h.PowerKept c (t.remapPageApply c) := by
  unfold Hw.remapPageApply Hw.judgeMapped Hw.mapOut Hw.askReload
  dsimp only
  split
  · exact x
  · have hpage : h.PowerKept c (t.updCl c fun v => { v with retire := t.retireReg c, deg := t.reg DEG_RESERVE c, degSize := t.fld DEG_RESERVE_SIZE c 2 0 }) :=
      x.updCl fun _ => rfl
    split
    · have hout := hpage.updCl (f := fun v => { v with mappedOut := true, avail := false }) fun _ => rfl
      split
      · exact hout
      · exact hout.frame rfl
    · exact hpage

theorem setMap (m : Nat → Word) : h.PowerKept c (t.setMap c m) := by
  have hmoved : (t.moveSrams c (t.mapNow c) m).clusters = t.clusters := by
    refine (foldl_keeps Hw.clusters _ (fun v K => ?_) _ _).trans (foldl_keeps Hw.clusters _ (fun v K => ?_) _ _) <;> split <;> rfl
  have hmap := (x.frame hmoved).updCl (f := fun v => { v with map := mapTbl m, remapPend := false }) fun _ => rfl
  unfold Hw.setMap
  dsimp only
  split
  · exact hmap
  · exact hmap.frame rfl

theorem setReg (r : Rg) (u : Nat) (v : Word) : h.PowerKept c (t.setReg r u v) := x.frame rfl

theorem setSpares (m : Nat → Word) : h.PowerKept c ((List.range 32).foldl (fun v K => v.setReg (REMAP K) c (m K)) t) :=
  x.foldl (f := fun v K => v.setReg (REMAP K) c (m K)) (fun v _ => (refl v c).setReg _ _ _) _

theorem bootSpares : h.PowerKept c (t.bootSpares c) := by
  unfold Hw.bootSpares
  dsimp only
  split
  · exact x.remapPageApply
  · exact (x.remapPageApply.setSpares _).setMap _

theorem repairList (l : List (Nat × Word × Word)) : h.PowerKept c (l.foldl (fun v e => v.repair c e.2.1 e.2.2) t) := by
  induction l generalizing t with
  | nil => exact x
  | cons e r ih => exact ih (x.repair e.2.1 e.2.2)

theorem repairs : h.PowerKept c (t.repairs c) := by
  unfold Hw.repairs
  exact (((x.setReg _ _ _).setReg _ _ _).repairList _).bootSpares

end

end Hw.PowerKept

/-! ### The statement -/

section
variable (h : Hw) (c : Nat)

/-- The power state of cluster c at the end of its Steep entry. -/
def ClusterSt.inSteep (vl : Bool) (v : ClusterSt) : ClusterSt := { v with pst := .steep, regStat := if vl then 3 else 2, avail := false }

theorem clSteep_eq (vl : Bool) : h.clSteep c vl = ((h.banksRet c).updCl c (.inSteep vl)).inc STEEP_CNT c := by rw [Hw.clSteep]; rfl

/-- Cluster c after its Steep entry. -/
theorem cl_clSteep (vl : Bool) : (h.clSteep c vl).cl c = ((h.banksRet c).cl c).inSteep vl := by
  rw [clSteep_eq, cl_inc, cl_updCl, if_pos rfl]

theorem cl_clSteep_other (vl : Bool) {d : Nat} (hd : d ≠ c) : (h.clSteep c vl).cl d = h.cl d := by
  rw [clSteep_eq, cl_inc, cl_updCl, if_neg (Ne.symm hd), (banksRet_only h c).other d hd]

theorem pwr_clSteep (vl : Bool) {b : Nat} (hb : b < 32) : ((h.clSteep c vl).bank c b).pwr = if (h.bank c b).pwr = 2 then 2 else 1 := by
  rw [← pwr_banksRet h c hb, Hw.bank, cl_clSteep, Hw.bank, ClusterSt.inSteep]

theorem now_clSteep {h g : Hw} {c : Nat} (hregs : g.regs = h.regs) :
    h.Now { g with clusters := (g.clSteep c false).clusters } [((STEEP_CNT, c), satAdd32 (h.reg STEEP_CNT c) 1)] (g.clSteep c false) := by
  have hrest := (banksRet_only g c).rest.thenUpdCl c (.inSteep false)
  rw [clSteep_eq]
  generalize (g.banksRet c).updCl c (.inSteep false) = t at hrest ⊢
  have hcnt : t.reg STEEP_CNT c = h.reg STEEP_CNT c := (hrest.reg _ _).trans (reg_of_regs _ _ _ _ hregs)
  have hone := Hw.Now.one h t (hrest.regs.trans hregs) STEEP_CNT c (satAdd32 (h.reg STEEP_CNT c) 1)
  rw [Hw.inc, hcnt]
  rw [Hw.ClustersOnly] at hrest
  exact hrest ▸ hone

/-- Cluster c after its Steep exit. -/
theorem cl_clBrew : (h.clBrew c).cl c = { (h.banksBack c).cl c with pst := .brew, regStat := 0 } := by
  rw [Hw.clBrew, cl_updCl, if_pos rfl]

theorem cl_clBrew_other {d : Nat} (hd : d ≠ c) : (h.clBrew c).cl d = h.cl d := by
  rw [Hw.clBrew, cl_updCl, if_neg (Ne.symm hd), (banksBack_only h c).other d hd]

theorem pwr_clBrew {b : Nat} (hb : b < 32) : ((h.clBrew c).bank c b).pwr = [0, 1, 2, 1].getD (h.bankPwrReg c b) 1 := by
  rw [← pwr_banksBack h c hb, Hw.bank, cl_clBrew, Hw.bank]

theorem clBrew_only : h.ClustersOnly (h.clBrew c) := (banksBack_only h c).rest.thenUpdCl _ _

theorem now_clBrew {h g : Hw} {c : Nat} (hregs : g.regs = h.regs) : h.Now { g with clusters := (g.clBrew c).clusters } [] (g.clBrew c) := by
  have hrest := clBrew_only g c
  generalize g.clBrew c = t at hrest ⊢
  have hnow := Hw.Now.intro h t (hrest.regs.trans hregs)
  rw [Hw.ClustersOnly] at hrest
  exact hrest ▸ hnow

/-- Cold entry leaves the cluster as a loss of power does, with what was pending still to come. -/
theorem cl_clColdNow : (h.clColdNow c).cl c = { pst := .cold, regStat := 12, temp := (h.cl c).temp, pend := (h.cl c).pend } := by
  rw [Hw.clColdNow, cl_updCl, if_pos rfl, cl_clWipe_same]

theorem cl_clColdNow_other {d : Nat} (hd : d ≠ c) : (h.clColdNow c).cl d = h.cl d := by
  rw [Hw.clColdNow, cl_updCl, if_neg (Ne.symm hd), cl_clWipe_other h hd]

theorem clColdNow_keeps (k : Nat) : (h.clColdNow c).core k = (h.clWipe c).core k ∧ (h.clColdNow c).mem = (h.clWipe c).mem := by
  rw [Hw.clColdNow]
  exact updCl_keeps _ _ _ _

/-- What Cold exit leaves of the clusters, with nothing pending. -/
theorem cl_clColdExit {h : Hw} {c : Nat} (hpst : (h.cl c).pst = .fromCold) (hpend : (h.cl c).pend = none) :
    ((h.clColdExit c).cl c).pst = .brew ∧ ((h.clColdExit c).cl c).regStat = 0 ∧ ∀ d, d ≠ c → (h.clColdExit c).cl d = h.cl d := by
  have hkept := Hw.PowerKept.repairs (.refl ((h.clSeqRan c 76400).updCl c fun v => { v with pst := .brew, regStat := 0 }) c)
  rw [Hw.clColdExit, if_pos hpst]
  dsimp only
  generalize ((h.clSeqRan c 76400).updCl c fun v => { v with pst := .brew, regStat := 0 }).repairs c = t at hkept ⊢
  obtain ⟨hother, hown⟩ := hkept
  rw [cl_updCl, if_pos rfl, Hw.clSeqRan, cl_advTo, hpend, Prod.mk.injEq, Prod.mk.injEq] at hown
  obtain ⟨hbrew, hstat, hpend'⟩ := hown
  rw [clSettle_none hpend']
  refine ⟨hbrew, hstat, fun d hd => ?_⟩
  rw [hother d hd, cl_updCl, if_neg (Ne.symm hd), Hw.clSeqRan, cl_advTo]

end

section
variable (s : State) (c : Cluster)

theorem exec_clSteepEntryDone : exec (.clSteepEntryDone c) s =
    s.onHw fun h => if (h.cl c).pst = .toSteep then ((h.clSeqRan c 6800).clSteep c false).clSettle c 1 else h := rfl

theorem exec_clSteepExitDone : exec (.clSteepExitDone c) s =
    s.onHw fun h => if (h.cl c).pst = .fromSteep then ((h.clSeqRan c 10000).clBrew c).clSettle c 0 else h := rfl

theorem exec_clColdEntryDone : exec (.clColdEntryDone c) s =
    s.onHw fun h => if (h.cl c).pst = .toCold then (h.clColdNow c).clSettle c 2 else h := rfl

theorem exec_clColdExitDone : exec (.clColdExitDone c) s = s.onHw fun h => h.clColdExit c := rfl

end

/-- Settles O32: each sequence's end by what it does to the cluster, its banks and its cores. -/
theorem clusterPowerSequences : Obligations.ClusterPowerSequences := by
  refine ⟨fun s c hp hpst hpend hw => ?steepEntry, fun s c hp hpst hpend hw => ?steepExit, fun s c hp hpst hpend => ?coldEntry,
    fun s c hp hpst hpend => ?coldExit, fun s c hpst => ?idle⟩
  case steepEntry =>
    have hpend' : (((s.hw.clSeqRan c 6800).clSteep c false).cl c).pend = none := by
      rw [cl_clSteep, ClusterSt.inSteep, (banksRet_only _ _).pend, Hw.clSeqRan, cl_advTo, hpend]
    refine answers_onHw (exec_clSteepEntryDone s c) hp ?_
    rw [if_pos hpst, clSettle_none hpend']
    refine ⟨?_, ?_, ?_, fun b hb => ?_, fun d hd => ?_, now_clSteep (advTo_regs hw _)⟩
    · rw [cl_clSteep, ClusterSt.inSteep]
    · rw [cl_clSteep]; rfl
    · rw [cl_clSteep, ClusterSt.inSteep]
    · rw [pwr_clSteep _ _ _ hb, Hw.clSeqRan, bank_advTo]
    · rw [cl_clSteep_other _ _ _ hd, Hw.clSeqRan, cl_advTo]
  case steepExit =>
    have hpend' : (((s.hw.clSeqRan c 10000).clBrew c).cl c).pend = none := by
      rw [cl_clBrew, (banksBack_only _ _).pend, Hw.clSeqRan, cl_advTo, hpend]
    have hbank (b : Nat) : (s.hw.clSeqRan c 10000).bankPwrReg c b = s.hw.bankPwrReg c b := by
      simp only [Hw.bankPwrReg, Hw.fld, Hw.clSeqRan, reg_of_regs _ _ _ _ (advTo_regs hw _)]
    refine answers_onHw (exec_clSteepExitDone s c) hp ?_
    rw [if_pos hpst, clSettle_none hpend']
    refine ⟨?_, ?_, fun b hb => ?_, fun d hd => ?_, now_clBrew (advTo_regs hw _)⟩
    · rw [cl_clBrew]
    · rw [cl_clBrew]
    · rw [pwr_clBrew _ _ hb, hbank]
    · rw [cl_clBrew_other _ _ hd, Hw.clSeqRan, cl_advTo]
  case coldEntry =>
    have hpend' : ((s.hw.clColdNow c).cl c).pend = none := by rw [cl_clColdNow, hpend]
    refine answers_onHw (exec_clColdEntryDone s c) hp ?_
    rw [if_pos hpst, clSettle_none hpend']
    refine ⟨?_, fun k hk => ?_, fun b x hb hx => ?_, fun d hd => cl_clColdNow_other _ _ hd⟩
    · rw [cl_clColdNow, hpend]
    · rw [(clColdNow_keeps _ _ k).1, core_clWipe _ hk]
    · rw [byte_of_mem ((clColdNow_keeps _ _ 0).2.trans (mem_clWipe _ _)), byte_memInit _ _ hb hx]
  case coldExit => exact answers_onHw (exec_clColdExitDone s c) hp (cl_clColdExit hpst hpend)
  case idle =>
    refine ⟨ignored_of_same (exec_clSteepEntryDone s c) ?_, ignored_of_same (exec_clSteepExitDone s c) ?_, ignored_of_same (exec_clColdEntryDone s c) ?_,
      ignored_of_same (exec_clColdExitDone s c) ?_⟩
    all_goals simp [Hw.clColdExit, hpst]

end Sys2Proof.Machine
end

section
/-! SUPPORT. The ends of the package's power sequences: what rest takes, the clocks' make-up, and the statement on them (15 R413, R420–R423). -/

namespace Sys2Proof.Machine

/-- What both branches keep, a choice between them keeps. -/
theorem ite_keeps {α β : Type} (p : α → β) {c : Prop} [Decidable c] {a b x : α} (ha : p a = p x) (hb : p b = p x) : p (if c then a else b) = p x := by
  split
  · exact ha
  · exact hb

/-- A bit of a register that has been written. -/
theorem flag_setFlag_same (h : Hw) (r : Rg) (u : Nat) {i : Nat} (hi : i < 32) (b : Bool) : (h.setFlag r u i b).flag r u i = b := by
  rw [Hw.flag, reg_setFlag_same]
  exact bit_setBit_same _ _ _ hi

/-! ### Every cluster in turn -/

/-- A pass over the clusters that changes each in turn, and the state of each as g says. -/
theorem pst_foldl {f : Hw → Nat → Hw} {g : PState → PState} (hg : ∀ p, g (g p) = g p) (hown : ∀ v c, ((f v c).cl c).pst = g (v.cl c).pst)
    (hother : ∀ v c d, d ≠ c → (f v c).cl d = v.cl d) (l : List Nat) (v : Hw) (c : Nat) :
    ((l.foldl f v).cl c).pst = if c ∈ l then g (v.cl c).pst else (v.cl c).pst := by
  induction l generalizing v with
  | nil => rfl
  | cons d r ih =>
    rw [List.foldl_cons, ih]
    by_cases hd : c = d
    · subst hd
      by_cases hr : c ∈ r <;> simp [hr, hown, hg]
    · simp [hd, hother _ _ _ hd]

/-! ### Package Steep is reached (15 R421, R422) -/

/-- What package Steep's way in does to cluster c. -/
def Hw.clRests (h : Hw) (c : Nat) : Hw :=
  match (h.cl c).pst with
  | .brew => h.clSteep c true
  | .steep => h.updCl c fun v => { v with regStat := 3 }
  | _ => h

/-- What it does to channel and port q. -/
def Hw.portRests (h : Hw) (q : Nat) : Hw :=
  let h := if h.en DDR_CFG q 0 ∧ h.ddrSelf q = false then h.ddrSelfEnter q else h
  if h.flag PKG_STEEP_CFG 0 q then h else h.portSleep q

/-- What it does to timer k. -/
def Hw.tmrRests (h : Hw) (k : Nat) : Hw := h.updTmr k fun t => { t with gated := h.gateOpen k }

/-- The block once every unit is at rest. -/
def Hw.unitsRest (h : Hw) : Hw :=
  (List.range 16).foldl Hw.tmrRests ((List.range 4).foldl Hw.portRests ((List.range 64).foldl Hw.clRests h))

/-- Of the package at rest, the registers that lose power and PLL_STAT. -/
def Hw.regsRest (h : Hw) : Hw :=
  let h := h.resetRegs fun p _ _ => p == pgINGRESS || p == pgIMGLD || p == pgCSISTAT
  h.setReg PLL_STAT 0 (h.reg PLL_STAT &&& w32 (h.fld PKG_STEEP_CFG 0 3 0 * 256))

/-- The package that has come to rest. -/
def Hw.restMarked (u : Hw) : Hw :=
  (u.regsRest.setFlag PAD_STAT 0 3 true).updPkg fun p =>
    { p with
      pst := .steep, saved := true
      pllAt := p.pllAt.filter fun x => decide (8 ≤ x.1) && decide (x.1 < 12) && u.regsRest.flag PKG_STEEP_CFG 0 (x.1 - 8) }

section
variable (h : Hw)

theorem pkgSteep_eq : h.pkgSteep = h.unitsRest.restMarked := rfl

/-! #### Clusters -/

theorem clRests_brew {h : Hw} {c : Nat} (hpst : (h.cl c).pst = .brew) : h.clRests c = h.clSteep c true := by rw [Hw.clRests, hpst]

theorem clRests_steep {h : Hw} {c : Nat} (hpst : (h.cl c).pst = .steep) : h.clRests c = h.updCl c fun v => { v with regStat := 3 } := by
  rw [Hw.clRests, hpst]

theorem clRests_other {h : Hw} {c : Nat} (hbrew : (h.cl c).pst ≠ .brew) (hsteep : (h.cl c).pst ≠ .steep) : h.clRests c = h := by
  unfold Hw.clRests
  split
  · exact absurd ‹_› hbrew
  · exact absurd ‹_› hsteep
  · rfl

/-- The state in which the package's way into Steep leaves a cluster. -/
def PState.rested (p : PState) : PState := if p = .brew then .steep else p

/-- Of a cluster in no sequence: Steep unless it was in Cold. -/
theorem rested_stable {p : PState} (hp : seqEnd p = none) : p.rested = if p = .cold then .cold else .steep := by
  revert hp
  cases p <;> decide

theorem clSteep_keeps (c : Nat) (vl : Bool) : (h.clSteep c vl).mem = h.mem ∧ (h.clSteep c vl).pkg = h.pkg := by
  have hrest := (banksRet_only h c).rest.thenUpdCl c (.inSteep vl)
  rw [clSteep_eq]
  generalize (h.banksRet c).updCl c (.inSteep vl) = t at hrest ⊢
  rw [Hw.ClustersOnly] at hrest
  rw [hrest]
  exact ⟨rfl, rfl⟩

theorem pst_clRests (c : Nat) : ((h.clRests c).cl c).pst = (h.cl c).pst.rested := by
  by_cases hbrew : (h.cl c).pst = .brew
  · rw [clRests_brew hbrew, cl_clSteep, ClusterSt.inSteep, hbrew]; rfl
  · by_cases hsteep : (h.cl c).pst = .steep
    · rw [clRests_steep hsteep, cl_updCl_same, hsteep]; rfl
    · rw [clRests_other hbrew hsteep, PState.rested, if_neg hbrew]

theorem cl_clRests_other (c d : Nat) (hd : d ≠ c) : (h.clRests c).cl d = h.cl d := by
  unfold Hw.clRests
  split
  · exact cl_clSteep_other h c true hd
  · rw [cl_updCl, if_neg (Ne.symm hd)]
  · rfl

theorem clRests_keeps (c : Nat) : (h.clRests c).mem = h.mem ∧ (h.clRests c).pkg = h.pkg := by
  unfold Hw.clRests
  split
  · exact clSteep_keeps h c true
  · exact ⟨rfl, rfl⟩
  · exact ⟨rfl, rfl⟩

/-! #### Ports and timers -/

/-- What the rest of channels, ports and timers leaves alone. -/
def Hw.apartFromPorts (h : Hw) : Tbl ClusterSt × List Host.Cell × Option Nat := (h.clusters, h.mem, h.pkg.pend)

section
variable (r : Rg) (u : Nat) (q : Nat)

@[simp] theorem setReg_apart (v : Word) : (h.setReg r u v).apartFromPorts = h.apartFromPorts := rfl
@[simp] theorem setFld_apart (hi lo n : Nat) : (h.setFld r u hi lo n).apartFromPorts = h.apartFromPorts := rfl
@[simp] theorem setFlag_apart (i : Nat) (b : Bool) : (h.setFlag r u i b).apartFromPorts = h.apartFromPorts := rfl
@[simp] theorem inc_apart (n : Nat) : (h.inc r u n).apartFromPorts = h.apartFromPorts := rfl
@[simp] theorem updEth_apart (f : EthSt → EthSt) : (h.updEth q f).apartFromPorts = h.apartFromPorts := rfl
@[simp] theorem updDdr_apart (f : DdrSt → DdrSt) : (h.updDdr q f).apartFromPorts = h.apartFromPorts := rfl
@[simp] theorem raisePort_apart (src : Nat) : (h.raisePort src q).apartFromPorts = h.apartFromPorts := rfl
@[simp] theorem resetTabs_apart (f : Nat → Nat → Bool) : (h.resetTabs f).apartFromPorts = h.apartFromPorts := rfl
@[simp] theorem resetRegs_apart (f : Nat → Nat → Nat → Bool) : (h.resetRegs f).apartFromPorts = h.apartFromPorts := rfl
@[simp] theorem setLocks_apart (l : Tbl Nat) : ({ h with pkg := { h.pkg with pllAt := l } } : Hw).apartFromPorts = h.apartFromPorts := rfl

end

theorem pllDrop_apart (i : Nat) : (h.pllDrop i).apartFromPorts = h.apartFromPorts := by
  unfold Hw.pllDrop
  split
  · rfl
  · exact (setLocks_apart (h.setFlag PLL_STAT 0 i false) _).trans (setFlag_apart _ _ _ _ _)

theorem ddrSelfEnter_apart (q : Nat) : (h.ddrSelfEnter q).apartFromPorts = h.apartFromPorts := by
  simp only [Hw.ddrSelfEnter, Hw.ddrDrain, pllDrop_apart, setFlag_apart, updDdr_apart]

theorem txPush_apart (q tq : Nat) (f : TxFrame) : (h.txPush q tq f).apartFromPorts = h.apartFromPorts :=
  ite_keeps Hw.apartFromPorts (inc_apart _ _ _ _) (ite_keeps Hw.apartFromPorts (updEth_apart _ _ _) (updEth_apart _ _ _))

theorem refPump_apart (q n : Nat) : (h.refPump q n).apartFromPorts = h.apartFromPorts := by
  induction n generalizing h with
  | zero => rfl
  | succ n ih =>
    unfold Hw.refPump
    dsimp only
    split
    · rfl
    · exact ite_keeps Hw.apartFromPorts rfl (by rw [ih, txPush_apart, updEth_apart])

theorem linkFall_apart (q : Nat) : (h.linkFall q).apartFromPorts = h.apartFromPorts :=
  ite_keeps Hw.apartFromPorts (by simp only [refPump_apart, inc_apart, updEth_apart, raisePort_apart, setFld_apart]) rfl

theorem portSleep_apart (q : Nat) : (h.portSleep q).apartFromPorts = h.apartFromPorts := by
  simp only [Hw.portSleep, resetRegs_apart, resetTabs_apart, updEth_apart, linkFall_apart]

theorem portRests_apart (q : Nat) : (h.portRests q).apartFromPorts = h.apartFromPorts := by
  unfold Hw.portRests
  dsimp only
  have hddr : (if h.en DDR_CFG q 0 ∧ h.ddrSelf q = false then h.ddrSelfEnter q else h).apartFromPorts = h.apartFromPorts := by
    split
    · exact ddrSelfEnter_apart h q
    · rfl
  generalize (if h.en DDR_CFG q 0 ∧ h.ddrSelf q = false then h.ddrSelfEnter q else h) = t at hddr ⊢
  split
  · exact hddr
  · rw [portSleep_apart, hddr]

theorem unitsRest_apart : h.unitsRest.apartFromPorts = ((List.range 64).foldl Hw.clRests h).apartFromPorts :=
  (foldl_keeps Hw.apartFromPorts Hw.tmrRests (fun _ _ => rfl) _ _).trans (foldl_keeps Hw.apartFromPorts Hw.portRests portRests_apart _ _)

theorem restMarked_apart : h.restMarked.apartFromPorts = h.apartFromPorts := rfl

theorem restMarked_marks : h.restMarked.pkg.pst = .steep ∧ h.restMarked.pkg.saved = true ∧ h.restMarked.flag PAD_STAT 0 3 = true :=
  ⟨rfl, rfl, flag_setFlag_same h.regsRest PAD_STAT 0 (by decide) true⟩

/-- The clusters and the memory that package Steep leaves are those that its clusters' rest leaves. -/
theorem pkgSteep_apart : h.pkgSteep.apartFromPorts = ((List.range 64).foldl Hw.clRests h).apartFromPorts := by
  rw [pkgSteep_eq, restMarked_apart, unitsRest_apart]

theorem clRests_all (l : List Nat) : (l.foldl Hw.clRests h).mem = h.mem ∧ (l.foldl Hw.clRests h).pkg = h.pkg :=
  ⟨foldl_keeps Hw.mem Hw.clRests (fun v c => (clRests_keeps v c).1) _ _, foldl_keeps Hw.pkg Hw.clRests (fun v c => (clRests_keeps v c).2) _ _⟩

/-- What package Steep leaves of clusters and memory. -/
theorem pkgSteep_leaves : h.pkgSteep.pkg.pend = h.pkg.pend ∧ h.pkgSteep.mem = h.mem ∧
    ∀ c, c < 64 → (h.pkgSteep.cl c).pst = (h.cl c).pst.rested := by
  have hapart := pkgSteep_apart h
  obtain ⟨hmem', hpkg'⟩ := clRests_all h (List.range 64)
  have hpst := pst_foldl (g := PState.rested) (fun p => by cases p <;> rfl) pst_clRests cl_clRests_other (List.range 64) h
  generalize (List.range 64).foldl Hw.clRests h = v at hapart hmem' hpkg' hpst
  rw [Hw.apartFromPorts, Hw.apartFromPorts, Prod.mk.injEq, Prod.mk.injEq] at hapart
  obtain ⟨hclusters, hmem, hpend⟩ := hapart
  refine ⟨by rw [hpend, hpkg'], by rw [hmem, hmem'], fun c hc => ?_⟩
  rw [Hw.cl, hclusters, ← Hw.cl, hpst, if_pos (List.mem_range.2 hc)]

end

/-- Where nothing is pending a sequence of the package that has ended leaves the state it ends in. -/
theorem pkgSettle_none {h : Hw} (hpend : h.pkg.pend = none) (now : Nat) : h.pkgSettle now = h := by rw [Hw.pkgSettle, hpend]

/-! ### Package Steep exit (15 R423, 11 R318) -/

/-- What the way out of package Steep does to cluster c. -/
def Hw.clWakes (h : Hw) (c : Nat) : Hw := if (h.cl c).pst = .steep then h.clBrew c else h

/-- What it does to channel and port q. -/
def Hw.portWakes (h : Hw) (q : Nat) : Hw :=
  let h := if h.ddrSelf q then (h.ddrSelfExit q).pllLock (4 + q) else h
  (h.pllLock q).pllStart (8 + q)

/-- The block with power again and its clusters, channels and ports awake. -/
def Hw.unitsWake (h : Hw) : Hw :=
  (List.range 4).foldl Hw.portWakes ((List.range 64).foldl Hw.clWakes (h.updPkg fun p => { p with pst := .brew }))

/-- The state in which the package's way out of Steep leaves a cluster. -/
def PState.woken (p : PState) : PState := if p = .steep then .brew else p

section
variable (h : Hw)

theorem pkgSteepExit_eq (n : Nat) : h.pkgSteepExit n = (((h.unitsWake.clockMakeUp n).makeUp n).actTimeoutsDue).setFlag PAD_STAT 0 3 false := rfl

theorem pst_clWakes (c : Nat) : ((h.clWakes c).cl c).pst = (h.cl c).pst.woken := by
  unfold Hw.clWakes PState.woken
  split
  · rw [cl_clBrew]
  · rfl

theorem cl_clWakes_other (c d : Nat) (hd : d ≠ c) : (h.clWakes c).cl d = h.cl d := by
  unfold Hw.clWakes
  split
  · exact cl_clBrew_other h c hd
  · rfl

theorem clWakes_only (c : Nat) : h.ClustersOnly (h.clWakes c) := by
  unfold Hw.clWakes
  split
  · exact clBrew_only h c
  · exact .refl h

theorem clWakes_all (l : List Nat) : h.ClustersOnly (l.foldl Hw.clWakes h) := by
  induction l generalizing h with
  | nil => exact .refl h
  | cons c r ih => exact (clWakes_only h c).trans (ih (h.clWakes c))

end

/-! #### Clocks -/

/-- From h to t time may go on; clusters, and of the package's state all but the locks of its clocks, stay. -/
structure Hw.ClocksOnly (h t : Hw) : Prop where
  clusters : t.clusters = h.clusters
  pkg : ∃ l, t.pkg = { h.pkg with pllAt := l }
  dev : h.dev ≤ t.dev

namespace Hw.ClocksOnly

theorem refl (h : Hw) : h.ClocksOnly h := ⟨rfl, ⟨_, rfl⟩, le_rfl⟩

section
variable {h t : Hw} (x : h.ClocksOnly t)
include x

theorem trans {v : Hw} (y : t.ClocksOnly v) : h.ClocksOnly v := by
  obtain ⟨l, hl⟩ := x.pkg
  obtain ⟨m, hm⟩ := y.pkg
  exact ⟨y.clusters.trans x.clusters, ⟨m, by rw [hm, hl]⟩, x.dev.trans y.dev⟩

theorem advTo (n : Nat) : h.ClocksOnly (t.advTo n) := by
  obtain ⟨d, p, r, w, hd, e⟩ := advTo_eq t n
  exact x.trans ⟨by rw [e], ⟨t.pkg.pllAt, by rw [e]⟩, by rw [e]; exact hd⟩

theorem pllStart (i : Nat) : h.ClocksOnly (t.pllStart i) := by
  unfold Hw.pllStart
  split
  · exact x
  · exact x.trans ⟨rfl, ⟨_, rfl⟩, le_rfl⟩

theorem pllLock (i : Nat) : h.ClocksOnly (t.pllLock i) := by
  unfold Hw.pllLock
  dsimp only
  split
  · exact x
  · have hset {v : Hw} (y : h.ClocksOnly v) : h.ClocksOnly { v.setFlag PLL_STAT 0 i true with pkg := { v.pkg with pllAt := Tbl.del v.pkg.pllAt i } } :=
      y.trans ⟨rfl, ⟨_, rfl⟩, le_rfl⟩
    split
    · exact hset (x.advTo _)
    · exact hset x

theorem ddrSelfExit (q : Nat) : h.ClocksOnly (t.ddrSelfExit q) := (x.trans (v := t.setFlag DDR_STAT q 1 false) ⟨rfl, ⟨_, rfl⟩, le_rfl⟩).pllStart _

theorem portWakes (q : Nat) : h.ClocksOnly (t.portWakes q) := by
  unfold Hw.portWakes
  dsimp only
  split
  · exact (((x.ddrSelfExit q).pllLock _).pllLock _).pllStart _
  · exact (x.pllLock _).pllStart _

theorem allPorts (l : List Nat) : h.ClocksOnly (l.foldl Hw.portWakes t) := by
  induction l generalizing t with
  | nil => exact x
  | cons q r ih => exact ih (x.portWakes q)

end

end Hw.ClocksOnly

/-! #### Timers and actuators that catch up -/

/-- From h to t clusters, the package's state, device time and STEEP_TIME stay. -/
structure Hw.TimersOnly (h t : Hw) : Prop where
  clusters : t.clusters = h.clusters
  pkg : t.pkg = h.pkg
  dev : t.dev = h.dev
  steep : t.reg STEEP_TIME = h.reg STEEP_TIME

namespace Hw.TimersOnly

theorem refl (h : Hw) : h.TimersOnly h := ⟨rfl, rfl, rfl, rfl⟩

section
variable {h t : Hw} (x : h.TimersOnly t)
include x

theorem trans {v : Hw} (y : t.TimersOnly v) : h.TimersOnly v :=
  ⟨y.clusters.trans x.clusters, y.pkg.trans x.pkg, y.dev.trans x.dev, y.steep.trans x.steep⟩

theorem setReg (r : Rg) (u : Nat) (v : Word) (hr : r ≠ STEEP_TIME := by decide) : h.TimersOnly (t.setReg r u v) :=
  x.trans ⟨rfl, rfl, rfl, reg_setReg_ne _ _ _ _ _ _ fun e => hr e.1⟩

theorem tmrEvent (k i : Nat) : h.TimersOnly (t.tmrEvent k i) := by
  have hguard := (Hw.GuardOnly.refl (t.setFlag TMR_STAT k i true)).irqWatch (16 + 3 * k + i)
  refine x.trans ⟨?_, ?_, ?_, reg_tmrEvent t k i (by decide) (by decide) 0⟩
  all_goals
    unfold Hw.tmrEvent
    rw [hguard.rest]
    rfl

theorem tmrMet (k i : Nat) (p : Prop) {_ : Decidable p} : h.TimersOnly (if p then (t.tmrEvent k i).setFlag TMR_STAT k 3 true else t) := by
  split
  · exact (x.tmrEvent k i).setReg TMR_STAT k _
  · exact x

theorem tmrLoaded (k : Nat) (p : Prop) {_ : Decidable p} : h.TimersOnly (if p then t.setReg TMR_CMP1 k (t.shadow k) else t) := by
  split
  · exact x.setReg TMR_CMP1 k _
  · exact x

theorem updTmr (k : Nat) (f : TmrSt → TmrSt) : h.TimersOnly (t.updTmr k f) := x.trans ⟨rfl, rfl, rfl, rfl⟩

theorem tmrSkip (k n : Nat) : h.TimersOnly (t.tmrSkip k n).1 := by
  unfold Hw.tmrSkip
  extract_lets p top passed wraps c old counted loaded met0 met1 wrapped
  have hcounted : h.TimersOnly counted := ((x.setReg TMR_COUNT k _).updTmr k _).setReg MKUP_CNT k _
  have hmet : h.TimersOnly met1 := ((hcounted.tmrLoaded k _).tmrMet k 0 _).tmrMet k 1 _
  have hwrapped : h.TimersOnly wrapped := hmet.tmrMet k 2 _
  dsimp only
  exact hwrapped.updTmr k _

/-- What a timer makes up in its turn; the wraps it hands on do not bear on it. -/
theorem makeUpOne (k w : Nat) (on feeds gated : Prop) {_ : Decidable on} {_ : Decidable feeds} {_ : Decidable gated} (v : Word) (m : Nat) :
    h.TimersOnly (if on then (t, 0) else if feeds then (if 0 < w ∧ k ≠ 0 then t.tmrSkip k w else (t, 0))
      else if gated then (t.setReg TMR_FRAC k v).tmrSkip k m else (t, 0)).1 := by
  split
  · exact x
  · split
    · split
      · exact x.tmrSkip k w
      · exact x
    · split
      · exact (x.setReg TMR_FRAC k v).tmrSkip k m
      · exact x

end

theorem foldl {α : Type} {f : Hw × Nat → α → Hw × Nat} (hf : ∀ (v : Hw × Nat) a, v.1.TimersOnly (f v a).1) (l : List α) (v : Hw × Nat) :
    v.1.TimersOnly (l.foldl f v).1 := by
  induction l generalizing v with
  | nil => exact refl v.1
  | cons a r ih => exact (hf v a).trans (ih (f v a))

theorem makeUp (h : Hw) (n : Nat) : h.TimersOnly (h.makeUp n) :=
  foldl (fun v k => makeUpOne (refl v.1) k v.2 _ _ _ _ _) (List.range 16) (h, 0)

/-- A timeout that device time has passed acts at once. -/
theorem actTimeout (h : Hw) (k : Nat) (hdue : (h.act k).since + bits (h.actWord k 8) 15 0 * 10 * us ≤ h.dev) : h.TimersOnly (h.actTimeout k) := by
  unfold Hw.actTimeout
  dsimp only
  split
  · exact refl h
  · have hnow : h.advTo ((h.act k).since + bits (h.actWord k 8) 15 0 * 10 * us) = h := if_neg fun e => absurd e.1 (by omega)
    rw [hnow]
    have hsafe {v : Hw} (x : h.TimersOnly v) (w : Word) : h.TimersOnly (v.actSafe k w) := x.trans ⟨rfl, rfl, rfl, reg_setReg_other _ _ _ _ (by decide)⟩
    have hset : h.TimersOnly (h.setFlag ACT_STAT 0 k true) := (refl h).setReg ACT_STAT 0 _
    have hcnt : h.TimersOnly (((h.setFlag ACT_STAT 0 k true).actSafe k (h.actWord k 9)).inc ACT_TMO_CNT) := (hsafe hset _).setReg ACT_TMO_CNT 0 _
    exact hcnt.trans ⟨rfl, rfl, rfl, rfl⟩

theorem actTimeoutsDue (h : Hw) : h.TimersOnly h.actTimeoutsDue := by
  unfold Hw.actTimeoutsDue
  have hall (l : List Nat) (v : Hw) : v.TimersOnly
      (l.foldl (fun h k => if (h.act k).since + bits (h.actWord k 8) 15 0 * 10 * us ≤ h.dev then h.actTimeout k else h) v) := by
    induction l generalizing v with
    | nil => exact refl v
    | cons k r ih =>
      refine trans ?_ (ih _)
      dsimp only
      split
      · exact actTimeout v k ‹_›
      · exact refl v
  exact hall _ _

end Hw.TimersOnly

/-! #### The block afterwards -/

/-- The block whose clocks have advanced by n always-on ticks, which are x parts of a fabric cycle in 65,536. -/
def Hw.madeUp (h : Hw) (n x : Nat) : Hw :=
  let h := (h.setReg STEEP_TIME 0 (w32 n)).setReg DEVT_FRAC 0 (w32 (x % 65536))
  { h with dev := h.dev + x / 65536, ptp := h.ptp + n * 32768000000000 }

section
variable (h : Hw)

theorem clockMakeUp_eq (n : Nat) : h.clockMakeUp n = h.madeUp n (n * 1600000000 + h.fld DEVT_FRAC 0 15 0) := by
  unfold Hw.clockMakeUp Hw.madeUp
  rfl

theorem dev_madeUp (n x : Nat) : (h.madeUp n x).dev = h.dev + x / 65536 := rfl

theorem madeUp_leaves (n x : Nat) : (h.madeUp n x).reg STEEP_TIME = w32 n ∧ (h.madeUp n x).clusters = h.clusters ∧ (h.madeUp n x).pkg = h.pkg :=
  ⟨(reg_setReg_other (h.setReg STEEP_TIME 0 (w32 n)) _ _ _ (by decide)).trans (reg_setReg_same _ _ _ _), rfl, rfl⟩

/-- The clocks advance by 24,414.0625 fabric cycles for each always-on tick (15 R423). -/
theorem clockMakeUp_leaves (n : Nat) : h.dev + n * 24414 ≤ (h.clockMakeUp n).dev ∧ (h.clockMakeUp n).reg STEEP_TIME = w32 n ∧
    (h.clockMakeUp n).clusters = h.clusters ∧ (h.clockMakeUp n).pkg = h.pkg := by
  rw [clockMakeUp_eq]
  refine ⟨?_, madeUp_leaves _ _ _⟩
  rw [dev_madeUp]
  omega

theorem unitsWake_clocks : ((List.range 64).foldl Hw.clWakes (h.updPkg fun p => { p with pst := .brew })).ClocksOnly h.unitsWake :=
  (Hw.ClocksOnly.refl _).allPorts _

/-- What package Steep exit leaves of the package and the clusters. -/
theorem pkgSteepExit_leaves (n : Nat) : (∃ l, (h.pkgSteepExit n).pkg = { h.pkg with pst := .brew, pllAt := l }) ∧
    (h.pkgSteepExit n).reg STEEP_TIME = w32 n ∧ (h.pkgSteepExit n).flag PAD_STAT 0 3 = false ∧ h.dev + n * 24414 ≤ (h.pkgSteepExit n).dev ∧
    ∀ c, c < 64 → ((h.pkgSteepExit n).cl c).pst = (h.cl c).pst.woken := by
  have hclusters := clWakes_all (h.updPkg fun p => { p with pst := .brew }) (List.range 64)
  have hpst := pst_foldl (g := PState.woken) (fun p => by cases p <;> rfl) pst_clWakes cl_clWakes_other (List.range 64) (h.updPkg fun p => { p with pst := .brew })
  have hclocks := unitsWake_clocks h
  rw [pkgSteepExit_eq]
  generalize h.unitsWake = u at hclocks ⊢
  generalize (List.range 64).foldl Hw.clWakes (h.updPkg fun p => { p with pst := .brew }) = v at hclusters hpst hclocks
  obtain ⟨l, hl⟩ := hclocks.pkg
  obtain ⟨hadv, hsteep, hcl, hpkg⟩ := clockMakeUp_leaves u n
  have htimers := (Hw.TimersOnly.makeUp (u.clockMakeUp n) n).trans (.actTimeoutsDue _)
  generalize ((u.clockMakeUp n).makeUp n).actTimeoutsDue = t at htimers ⊢
  have hv : v.pkg = { h.pkg with pst := .brew } ∧ v.dev = h.dev := by
    rw [Hw.ClustersOnly] at hclusters
    rw [hclusters]
    exact ⟨rfl, rfl⟩
  refine ⟨⟨l, ?pkg⟩, ?time, flag_setFlag_same t PAD_STAT 0 (by decide) false, ?dev, fun c hc => ?cl⟩
  case pkg => rw [setFlag_pkg, htimers.pkg, hpkg, hl, hv.1]
  case time => rw [reg_setFlag_ne _ _ _ _ _ (by decide), htimers.steep, hsteep]
  case dev =>
    have hdev := hclocks.dev
    rw [setFlag_dev, htimers.dev]
    omega
  case cl =>
    rw [Hw.cl, setFlag_clusters, htimers.clusters, hcl, hclocks.clusters, ← Hw.cl, hpst, if_pos (List.mem_range.2 hc)]
    rfl

end

/-! ### The statement -/

section
variable (s : State)

theorem exec_pkgSteepEntryDone : exec .pkgSteepEntryDone s = s.onHw Hw.pkgSteepEnters := rfl

theorem exec_pkgSteepExitDone (n : Word) : exec (.pkgSteepExitDone n) s =
    s.onAo fun h => if h.pkg.pst = .fromSteep ∧ h.pkg.inReset = false then (h.pkgSteepExit n.toNat).pkgSettle 0 else h := rfl

theorem exec_pkgColdEntryDone : exec .pkgColdEntryDone s =
    s.onAo fun h => if h.pkg.pst = .toCold ∧ h.pkg.inReset = false then h.pkgCold.pkgSettle 2 else h := rfl

end

/-- The package is without clocks while it is in Steep or in Cold. -/
theorem powered_of_rest {h : Hw} (hpst : h.pkg.pst = .steep ∨ h.pkg.pst = .cold) : h.powered = false := by
  obtain hpst | hpst := hpst <;> simp [Hw.powered, hpst]

/-- Settles O33: each sequence's end by what it leaves of the package, its clusters and its memory. -/
theorem packagePowerSequences : Obligations.PackagePowerSequences := by
  refine ⟨fun s hp hpst hpend hcl => ?steepEntry, fun s n hpst hreset hpend => ?steepExit, fun s hpst hreset hpend => ?coldEntry⟩
  case steepEntry =>
    obtain ⟨d, p, r, w, -, hadv⟩ := advTo_eq s.hw (s.hw.pkg.seqAt + 15 * us)
    obtain ⟨hpend', hmem, hclusters⟩ := pkgSteep_leaves (s.hw.advTo (s.hw.pkg.seqAt + 15 * us))
    obtain ⟨hsteep, hsaved, hpad⟩ := restMarked_marks (s.hw.advTo (s.hw.pkg.seqAt + 15 * us)).unitsRest
    rw [← pkgSteep_eq] at hsteep hsaved hpad
    have hall : (List.range 64).all (fun c => (seqEnd (s.hw.cl c).pst).isNone) = true :=
      List.all_eq_true.2 fun c hc => by rw [hcl c (List.mem_range.1 hc)]; rfl
    refine answers_onHw (exec_pkgSteepEntryDone s) hp ?_
    rw [Hw.pkgSteepEnters, if_pos ⟨hpst, hall⟩, pkgSettle_none (by rw [hpend', hadv]; exact hpend)]
    refine ⟨hsteep, hsaved, powered_of_rest (.inl hsteep), hpad, fun c hc => ?_, by rw [hmem, hadv]⟩
    rw [hclusters c hc, cl_advTo, rested_stable (hcl c hc)]
  case steepExit =>
    obtain ⟨⟨l, hpkg⟩, htime, hpad, hdev, hclusters⟩ := pkgSteepExit_leaves s.hw n.toNat
    refine answers_onAo (exec_pkgSteepExitDone s n) ?_
    rw [if_pos ⟨hpst, hreset⟩, pkgSettle_none (by rw [hpkg]; exact hpend)]
    refine ⟨by rw [hpkg], ?_, by rw [htime, w32, BitVec.ofNat_toNat, BitVec.setWidth_eq], hpad, hdev, fun c hc => ?_⟩
    · rw [Hw.powered, hpkg, hreset]; rfl
    · rw [hclusters c hc, PState.woken]
  case coldEntry =>
    refine answers_onAo (exec_pkgColdEntryDone s) ?_
    rw [if_pos ⟨hpst, hreset⟩, pkgSettle_none (show s.hw.pkgCold.pkg.pend = none from hpend)]
    refine ⟨rfl, rfl, powered_of_rest (.inr rfl), rfl, rfl, fun a => ?_, fun r u => ?_⟩
    · exact (byte_wipe s.hw false a).trans (by simp)
    · exact (reg_wipe s.hw false r u).trans (by simp)

end Sys2Proof.Machine
end

section
/-! SUPPORT. Firmware's work on the flash: the hold-up check, update and licence messages, copies of checkpoint shadows, and the statement on them
(09 R279, 10 R293, 15 R429, 16 R443, R448). -/

namespace Sys2Proof.Machine

/-! ### The hold-up check (15 R429) -/

section
variable (h : Hw)

theorem setReg_updFw (f : FwSt → FwSt) (r : Rg) (u : Nat) (v : Word) : (h.setReg r u v).updFw f = (h.updFw f).setReg r u v := rfl

theorem setReg_raisePkg (src i : Nat) {r : Rg} (hr : r ≠ STEP_NUM) (u : Nat) (v : Word) :
    (h.setReg r u v).raisePkg src i = (h.raisePkg src i).setReg r u v := by
  have hstep : (h.setReg r u v).stepNum = h.stepNum := reg_setReg_other _ _ _ _ hr
  rw [Hw.raisePkg, Hw.raise, hstep]
  rfl

theorem regs_updFw_raisePkg (f : FwSt → FwSt) (src : Nat) : ((h.updFw f).raisePkg src).regs = h.regs := rfl

/-- The check goes by registers of its own. -/
theorem holdupOk_congr {h t : Hw} (hreg : ∀ r, r ≠ HU_LAST → t.reg r = h.reg r) (code : Nat) (erase : Bool) : t.holdupOk code erase = h.holdupOk code erase := by
  cases erase <;> simp only [Hw.holdupOk, Hw.fld, hreg _ (show HU_CAP ≠ HU_LAST by decide), hreg _ (show HU_DIV ≠ HU_LAST by decide),
    hreg _ (show HU_VMIN ≠ HU_LAST by decide), hreg _ (show HU_T_ERASE ≠ HU_LAST by decide), hreg _ (show HU_T_PROG ≠ HU_LAST by decide),
    hreg _ (show HU_PWR ≠ HU_LAST by decide), hreg _ (show HU_MARGIN ≠ HU_LAST by decide), if_true, if_false, Bool.false_eq_true]

/-- What a flash operation does leaves the registers, and is the same whatever they hold. -/
theorem setReg_flashDo (o : FlashOp) (r : Rg) (u : Nat) (v : Word) : (h.setReg r u v).flashDo o = (h.flashDo o).setReg r u v := by
  have hbytes (a : Nat) (l : List Byte) : (h.setReg r u v).setBytes a l = (h.setBytes a l).setReg r u v := by
    induction l generalizing h a with
    | nil => rfl
    | cons b l ih => exact ih (h.setByte a b) (a + 1)
  unfold Hw.flashDo
  split
  · exact hbytes _ _
  · split <;> rfl
  · split <;> rfl
  · rfl

theorem flashDo_regs (o : FlashOp) : (h.flashDo o).regs = h.regs := by
  unfold Hw.flashDo
  split
  · rw [setBytes_eq]
  · split <;> rfl
  · split <;> rfl
  · rfl

/-- A sample that finds energy for the chunk at the head. -/
theorem holdupSample_starts {h : Hw} {o : FlashOp} {l : List FlashOp} {x : Nat} (hw : h.waits = []) (hflash : h.fw.flash = o :: l)
    (hok : h.holdupOk x o.erase = true) :
    h.holdupSample x = ((h.adcTake.updFw fun f => { f with flash := l, huFrom := none }).flashDo o).setReg HU_LAST 0 (w32 x) := by
  have hok' : (h.adcTake.setReg HU_LAST 0 (w32 x)).holdupOk x o.erase = true := by
    refine (holdupOk_congr (fun r hr => ?_) _ _).trans hok
    rw [reg_setReg_other _ _ _ _ hr.symm, adcTake_eq h hw]
    rfl
  rw [Hw.holdupSample, hflash]
  dsimp only
  rw [if_pos hok', setReg_updFw, setReg_flashDo]

/-- One that does not: the first such sample of a chunk is noted. -/
theorem holdupSample_defers {h : Hw} {o : FlashOp} {l : List FlashOp} {x : Nat} (hw : h.waits = []) (hflash : h.fw.flash = o :: l)
    (hok : h.holdupOk x o.erase = false) :
    h.holdupSample x = ((h.adcTake.updFw fun f => { f with huFrom := some (h.fw.huFrom.getD h.adcTake.dev) }).setReg HU_LAST 0 (w32 x)).setReg
      HU_DEFER_CNT 0 (satAdd32 (h.reg HU_DEFER_CNT) 1) := by
  have hregs : (h.adcTake.setReg HU_LAST 0 (w32 x)).reg HU_DEFER_CNT = h.reg HU_DEFER_CNT := by
    rw [reg_setReg_other _ _ _ _ (by decide), adcTake_eq h hw]
    rfl
  have hok' : ¬ (h.adcTake.setReg HU_LAST 0 (w32 x)).holdupOk x o.erase = true := by
    refine ne_true_of_eq_false ((holdupOk_congr (fun r hr => ?_) _ _).trans hok)
    rw [reg_setReg_other _ _ _ _ hr.symm, adcTake_eq h hw]
    rfl
  have hfrom : (h.adcTake.setReg HU_LAST 0 (w32 x)).fw.huFrom = h.fw.huFrom := by
    rw [adcTake_eq h hw]
    rfl
  rw [Hw.holdupSample, hflash]
  dsimp only
  rw [if_neg hok', hfrom, Hw.inc, hregs]
  rfl

theorem adcTake_regs {h : Hw} (hw : h.waits = []) : h.adcTake.regs = h.regs := by rw [adcTake_eq h hw]

/-- A conversion takes a microsecond from the last one's end. -/
theorem adcTake_dev {h : Hw} (hp : h.powered = true) (hw : h.waits = []) : h.adcTake.dev = max h.dev (h.adcAt + us) := by
  obtain ⟨p, e⟩ := advTo_noWaits h (h.adcAt + us) hp hw
  rw [Hw.adcTake, e]
  rfl

end

/-- With nothing queued and no sample noted, no check is made. -/
theorem holdup_idle {h : Hw} (hflash : h.fw.flash = []) (hfrom : h.fw.huFrom = none) (x : Nat) :
    h.holdupSample x = h ∧ h.holdupAgain x = h ∧ h.holdupGiveUp = h := by
  refine ⟨?_, ?_, ?_⟩
  · rw [Hw.holdupSample, hflash]
  · rw [Hw.holdupAgain, hfrom]
  · rw [Hw.holdupGiveUp, hfrom]

/-- Until HU_MAXWAIT the next sample comes a whole number of milliseconds after the first that failed. -/
theorem holdupAgain_some {h : Hw} {n x : Nat} (hfrom : h.fw.huFrom = some n) (hmax : ((h.dev - n) / (1000 * us) + 1) * (1000 * us) ≤ h.huMax) :
    h.holdupAgain x = (h.advTo (n + ((h.dev - n) / (1000 * us) + 1) * (1000 * us))).holdupSample x := by
  simp only [Hw.holdupAgain, hfrom]
  exact if_neg (Nat.not_lt.2 hmax)

/-- A later sample that does not either changes nothing of what was noted. -/
theorem holdupLater_defers {h : Hw} {n : Nat} {o : FlashOp} {l : List FlashOp} {x : Nat} (hw : h.waits = []) (hfrom : h.fw.huFrom = some n)
    (hflash : h.fw.flash = o :: l) (hok : h.holdupOk x o.erase = false) (m : Nat) :
    (h.advTo m).holdupSample x = ((h.advTo m).adcTake.setReg HU_LAST 0 (w32 x)).setReg HU_DEFER_CNT 0 (satAdd32 (h.reg HU_DEFER_CNT) 1) := by
  obtain ⟨d, p, e⟩ := advTo_of_noWaits h m hw
  have hw' : (h.advTo m).waits = [] := by rw [e]; exact hw
  have hfw : (h.advTo m).fw = h.fw := by rw [e]
  have hreg (r : Rg) (u : Nat) : (h.advTo m).reg r u = h.reg r u := by rw [e]; rfl
  have hkeep : ((h.advTo m).adcTake.updFw fun f => { f with huFrom := some n }) = (h.advTo m).adcTake := by
    have hsame : (h.advTo m).adcTake.fw = { (h.advTo m).adcTake.fw with huFrom := some n } := by rw [adcTake_eq _ hw', hfw, ← hfrom]
    rw [Hw.updFw, ← hsame]
  rw [holdupSample_defers hw' (by rw [hfw]; exact hflash) ((holdupOk_congr (fun r _ => hreg r 0) _ _).trans hok), hfw, hfrom, Option.getD_some, hkeep,
    hreg]

/-- What is given up of a batch of image chunks is the rest of the batch. -/
theorem holdupGiveUp_image {h : Hw} {n : Nat} {o : FlashOp} {l : List FlashOp} (hw : h.waits = []) (hfrom : h.fw.huFrom = some n)
    (hflash : h.fw.flash = o :: l) (hjob : o.job = 0) :
    h.holdupGiveUp = (((h.advTo (n + h.huMax)).updFw fun f => { f with flash := l.dropWhile fun x => x.job == 0, huFrom := none }).raisePkg
      fHoldupLow).setReg HU_ABANDON_CNT 0 (satAdd32 (h.reg HU_ABANDON_CNT) 1) := by
  obtain ⟨d, p, e⟩ := advTo_of_noWaits h (n + h.huMax) hw
  have hflash' : (h.advTo (n + h.huMax)).fw.flash = o :: l := by rw [e]; exact hflash
  have hcnt : (h.advTo (n + h.huMax)).reg HU_ABANDON_CNT = h.reg HU_ABANDON_CNT := by rw [e]; rfl
  have hdrop : dropBatch (o :: l) = l.dropWhile fun x => x.job == 0 := by simp [dropBatch, hjob]
  have hbatch : ((h.advTo (n + h.huMax)).updFw fun f =>
      { f with flash := dropBatch f.flash, huFrom := none, newLicences := if (o.job == 1) = true then [] else f.newLicences }) =
      (h.advTo (n + h.huMax)).updFw fun f => { f with flash := l.dropWhile fun x => x.job == 0, huFrom := none } := by
    rw [Hw.updFw, Hw.updFw, hflash', hdrop, hjob]
    rfl
  rw [Hw.holdupGiveUp, hfrom]
  dsimp only
  rw [hflash', hbatch, Hw.inc, setReg_raisePkg _ _ _ (by decide)]
  rw [show ((h.advTo (n + h.huMax)).updFw _).reg HU_ABANDON_CNT 0 = (h.advTo (n + h.huMax)).reg HU_ABANDON_CNT 0 from rfl, hcnt]

/-! ### Messages (16 R443, R448) -/

/-- An image that fits is queued whole. -/
theorem imageUpdate_fits (h : Hw) {l : List Byte} (hl : l.length ≤ 2 ^ 23) : h.imageUpdate l =
    h.updFw fun f => { f with flash := f.flash ++ ((List.range 2048).map fun i => { addr := 4096 * i }) ++
      ((List.range ((l.length + 4095) / 4096)).map fun i => { erase := false, addr := 4096 * i, data := (l.drop (4096 * i)).take 4096 }) } := by
  rw [Hw.imageUpdate, if_neg (Nat.not_lt.2 hl), chunksOf, List.map_map]
  rfl

/-- The state's registers are as before where firmware's lists alone change. -/
theorem now_updFw (h : Hw) (f : FwSt → FwSt) : h.Now (h.updFw f) [] (h.updFw f) := .intro _ _ rfl

/-! ### Copies of checkpoint shadows (09 R279) -/

section
variable (h : Hw) (c : Nat)

/-- Whether a set is complete does not go by CKPT_STAT. -/
theorem setComplete_ckptClear (segs : List (Nat × Nat × List Host.Cell)) : (h.ckptClear c).setComplete segs = h.setComplete segs := by
  have hreg {r : Rg} (hr : CKPT_STAT ≠ r) (u : Nat) : (h.ckptClear c).reg r u = h.reg r u := reg_setReg_other _ _ _ _ hr
  have hctx : (h.ckptClear c).ctx = h.ctx := congrArg (bits · 3 0) (hreg (by decide) 0)
  have hlo (n : Nat) : CKPT_STAT ≠ CTX_PART_LO n := fun e => absurd (congrArg Rg.page e) (show ¬ CKPT_STAT.page = pgCTX by decide)
  have hhi (n : Nat) : CKPT_STAT ≠ CTX_PART_HI n := fun e => absurd (congrArg Rg.page e) (show ¬ CKPT_STAT.page = pgCTX by decide)
  have hpart (n : Nat) : (h.ckptClear c).part n = h.part n := by
    rw [Hw.part, Hw.part]
    congr 1
    funext d
    rw [Hw.inPart, Hw.inPart, hreg (hlo n), hreg (hhi n)]
  have hroast (d : Nat) : (h.ckptClear c).roastEn d = h.roastEn d := by
    simp (disch := decide) only [Hw.roastEn, Hw.en, Hw.pgEn, Hw.flag, hreg]
  rw [Hw.setComplete, Hw.setComplete, hctx, hpart]
  simp only [hroast]
  rfl

/-- What firmware makes of its own lists, after a shadow has been released, leaves everything else. -/
theorem updFw_ckptClear (f : FwSt → FwSt) : ((h.ckptClear c).updFw f).flag CKPT_STAT c 31 = (h.ckptClear c).flag CKPT_STAT c 31 ∧
    ((h.ckptClear c).updFw f).fw = f h.fw ∧ ((h.ckptClear c).updFw f).mem = h.mem ∧ ((h.ckptClear c).updFw f).cores = h.cores := ⟨rfl, rfl, rfl, rfl⟩

theorem flag_ckptClear : (h.ckptClear c).flag CKPT_STAT c 31 = false := flag_setFlag_same h CKPT_STAT c (by decide) false

end

section
variable {h : Hw} {c : Nat} (hready : h.flag CKPT_STAT c 31 = true) (hres : h.resident c = true)
include hready hres

/-- The copies of a shadow that is ready join a set, which is complete or goes on. -/
theorem fwCheckpoint_ready : ∃ f, h.fwCheckpoint c = (h.ckptClear c).updFw f ∧
    ((f h.fw).setNow.ctx = h.ctx ∨ (f h.fw).setNow = {} ∧ (f h.fw).setDone.ctx = h.ctx) := by
  have hctx : (h.ckptClear c).ctx = h.ctx := congrArg (bits · 3 0) (reg_setReg_other h _ _ _ (by decide))
  have hgo : ¬ (h.flag CKPT_STAT c 31 = false ∨ h.resident c = false) := by simp [hready, hres]
  rw [Hw.fwCheckpoint, if_neg hgo]
  dsimp only
  generalize (if h.fw.setNow.ctx = h.ctx then h.fw.setNow.segs else []) = now
  split
  · refine ⟨_, rfl, ?_⟩
    exact .inr ⟨rfl, hctx⟩
  · refine ⟨_, rfl, ?_⟩
    exact .inl hctx

/-- Where the shadow holds no segment and none is in progress, the set stays empty. -/
theorem fwCheckpoint_empty (hnow : h.fw.setNow.segs = []) (hsegs : h.segsFrom c (h.fld CKPT_STAT c 4 0) (h.fld CKPT_STAT c 10 5) = [])
    (hcomplete : h.setComplete [] = false) : h.fwCheckpoint c = (h.ckptClear c).updFw fun f => { f with setNow := { ctx := h.ctx } } := by
  have hctx : (h.ckptClear c).ctx = h.ctx := congrArg (bits · 3 0) (reg_setReg_other h _ _ _ (by decide))
  have hgo : ¬ (h.flag CKPT_STAT c 31 = false ∨ h.resident c = false) := by simp [hready, hres]
  have hcomplete' : ¬ (h.ckptClear c).setComplete [] = true := ne_true_of_eq_false ((setComplete_ckptClear h c []).trans hcomplete)
  rw [Hw.fwCheckpoint, if_neg hgo]
  dsimp only
  rw [hsegs, hnow, ite_self, Hw.shadowSegs, List.filter_nil, List.append_nil, if_neg hcomplete', hctx]

end

/-! ### The statement -/

section
variable (s : State)

theorem exec_holdupCheck (x : BitVec 12) : exec (.holdupCheck x) s = s.onHw fun h => if h.fw.huFrom.isSome then h else h.holdupSample x.toNat := rfl

theorem exec_huDeferExpiry (x : BitVec 12) : exec (.huDeferExpiry x) s = s.onHw fun h => h.holdupAgain x.toNat := rfl

theorem exec_huMaxwaitExpiry : exec .huMaxwaitExpiry s = s.onHw Hw.holdupGiveUp := rfl

theorem exec_firmwareCheckpoint (c : Cluster) : exec (.firmwareCheckpoint c) s = s.onHw fun h => h.fwCheckpoint c := rfl

theorem exec_licenceRecordMsg (r : LicRec) : exec (.licenceRecordMsg r) s = s.onHw fun h => h.licenceMsg r := rfl

theorem exec_fwImageUpdateMsg (l : List Byte) : exec (.fwImageUpdateMsg l) s = s.onHw fun h => h.imageUpdate l := rfl

end

/-- Settles O41: the flash queue by the messages and samples that move it, the checkpoint set by the shadows that join it. -/
theorem flashWorkAndCheckpointCopies : Obligations.FlashWorkAndCheckpointCopies := by
  refine ⟨⟨fun s l hp hl => ?update, fun s r hp hr => ?licence, fun s r hr => ?refused, fun s x o l hp hfrom hflash hok hw => ?starts,
    fun s x o l hp hfrom hflash hok hw => ?defers, fun s x hflash hfrom => ?idle, fun s x n o l hp hfrom hflash hmax hok hw => ?again,
    fun s n o l hp hfrom hflash hjob hw => ?giveUp⟩, fun s c hp hready hres hnow hsegs hcomplete => ?empty, fun s c hp hready hres => ?ready,
    fun s c hready => ?left⟩
  case update =>
    refine answers_onHw (exec_fwImageUpdateMsg s l) hp ?_
    rw [imageUpdate_fits _ hl]
    exact now_updFw _ _
  case licence =>
    refine answers_onHw (exec_licenceRecordMsg s r) hp ?_
    rw [Hw.licenceMsg, if_neg (by simp [hr])]
    exact now_updFw _ _
  case refused => exact ignored_of_same (exec_licenceRecordMsg s r) (if_pos hr)
  case starts =>
    have hregs : ((s.hw.adcTake.updFw fun f => { f with flash := l, huFrom := none }).flashDo o).regs = s.hw.regs :=
      (flashDo_regs _ _).trans (adcTake_regs hw)
    refine answers_onHw (exec_holdupCheck s x) hp ?_
    rw [if_neg (by simp [hfrom]), holdupSample_starts hw hflash hok]
    exact .one _ _ hregs _ _ _
  case defers =>
    refine answers_onHw (exec_holdupCheck s x) hp ?_
    rw [if_neg (by simp [hfrom]), holdupSample_defers hw hflash hok, hfrom, Option.getD_none, adcTake_dev hp hw]
    exact (Hw.Now.one s.hw (s.hw.adcTake.updFw _) (adcTake_regs hw) _ _ _).set _ _ _
  case idle =>
    obtain ⟨hsample, hagain, hgive⟩ := holdup_idle hflash hfrom x.toNat
    refine ⟨ignored_of_same (exec_holdupCheck s x) ?_, ignored_of_same (exec_huDeferExpiry s x) hagain, ignored_of_same (exec_huMaxwaitExpiry s) hgive⟩
    rw [if_neg (by simp [hfrom]), hsample]
  case again =>
    have hw' : (s.hw.advTo (n + ((s.hw.dev - n) / (1000 * us) + 1) * (1000 * us))).waits = [] := by
      obtain ⟨d, p, e⟩ := advTo_of_noWaits s.hw (n + ((s.hw.dev - n) / (1000 * us) + 1) * (1000 * us)) hw
      rw [e]
      exact hw
    refine answers_onHw (exec_huDeferExpiry s x) hp ?_
    rw [holdupAgain_some hfrom hmax, holdupLater_defers hw hfrom hflash hok]
    exact (Hw.Now.one s.hw _ ((adcTake_regs hw').trans (advTo_regs hw _)) _ _ _).set _ _ _
  case giveUp =>
    refine answers_onHw (exec_huMaxwaitExpiry s) hp ?_
    rw [holdupGiveUp_image hw hfrom hflash hjob]
    exact .one _ _ ((regs_updFw_raisePkg _ _ _).trans (advTo_regs hw _)) _ _ _
  case empty =>
    refine answers_onHw (exec_firmwareCheckpoint s c) hp ?_
    rw [fwCheckpoint_empty hready hres hnow hsegs hcomplete]
    obtain ⟨hflag, hfw, hmem, -⟩ := updFw_ckptClear s.hw c fun f => { f with setNow := { ctx := s.hw.ctx } }
    exact ⟨hflag.trans (flag_ckptClear _ _), hfw, hmem⟩
  case ready =>
    obtain ⟨f, hf, hset⟩ := fwCheckpoint_ready hready hres
    refine answers_onHw (exec_firmwareCheckpoint s c) hp ?_
    obtain ⟨hflag, hfw, hmem, hcores⟩ := updFw_ckptClear s.hw c f
    rw [hf]
    exact ⟨hflag.trans (flag_ckptClear _ _), hmem, hcores, hfw ▸ hset⟩
  case left => exact ignored_of_same (exec_firmwareCheckpoint s c) (if_pos (.inl hready))

end Sys2Proof.Machine
end

section
/-! SUPPORT. Firmware's repair of a contained cluster: the statement on contexts and restores (17 R462). -/

namespace Sys2Proof.Machine

/-- Cluster 0 in reset after a containment, its last core reset later than the cluster, and a wait whose cycles are counted in CORE_RST_HOLD. -/
def heldWaitState : State :=
  { pending := []
    hw :=
      { clusters := [(0, { inReset := true, holdCores := true })]
        cores := [(31, { inReset := true, rstAt := 2000 })]
        waits := [(0, { page := CORE_RST_HOLD.page, off := CORE_RST_HOLD.off, unit := 0, next := 0, per := 1 })] } }

/-- The last core leaves reset 1,200 cycles after the cluster, and the wait counts them when no core is held any more. -/
theorem heldWaitState_restored : (heldWaitState.hw.restoreCl 0).reg CORE_RST_HOLD = 1200#32 := by decide +kernel

/-- Firmware's repair of core k, or of its whole cluster. -/
def Hw.repaired (h : Hw) (k : Core) (whole : Bool) : Hw := if whole then h.restoreCl (k.val / 32) else h.restoreCore k

theorem exec_containmentRestore (s : State) (k : Core) (whole : Bool) : exec (.containmentRestore k whole) s = s.onHw fun h => h.repaired k whole := rfl

/-- What a command of the clocked domain has done, from the state that it answers. -/
theorem hw_of_onHw {s t : State} {f : Hw → Hw} (hp : s.hw.powered = true) (ht : s.onHw f = .next t) : t.hw = f s.hw := by
  rw [onHw_powered s f hp] at ht
  exact (congrArg State.hw (Host.Outcome.next.inj ht)).symm

/-- What the repair of a whole cluster does. -/
theorem hw_containmentRestore {s t : State} {k : Core} {c : Nat} (hp : s.hw.powered = true) (hc : k.val / 32 = c)
    (ht : exec (.containmentRestore k true) s = .next t) : t.hw = s.hw.restoreCl c := by
  rw [hw_of_onHw (f := fun h => h.repaired k true) hp ((exec_containmentRestore s k true).symm.trans ht), ← hc, Hw.repaired, if_pos rfl]

/-- Refutes O40: the repair of a contained cluster takes time, until the last of its cores has left reset, and whatever waits in that time is
counted. The clause on the cluster, which does not say that nothing waits, holds of a state in which the cycles of a wait are counted in
CORE_RST_HOLD, which is then not 0. -/
theorem not_contextsAndRestores : ¬ Obligations.ContextsAndRestores := by
  rintro ⟨-, -, -, hcluster, -⟩
  obtain ⟨t, ht, -, -, -, hhold⟩ := hcluster heldWaitState 0 0 (by decide) rfl (by decide) (by decide) (by decide)
  rw [hw_containmentRestore (by decide) rfl ht] at hhold
  exact absurd (heldWaitState_restored.symm.trans hhold) (by decide)

end Sys2Proof.Machine
end

section
/-! SUPPORT. The ROM's paths from flash and the network to firmware, the Cold exit, boot frames, and the statement on them (13 R373, 15 R422,
16 R441, R442). -/

namespace Sys2Proof.Machine

/-! ### What the ROM's judgement goes by (16 R441) -/

section
variable {h t : Hw}

/-- The ROM's judgement of an image goes by the fuses. -/
theorem imageResult_congr (hreg : ∀ r, r.page = pgFUSE → t.reg r = h.reg r) (l : List Byte) (n : Nat) (sigOk : Bool) :
    t.imageResult l n sigOk = h.imageResult l n sigOk := by
  have hhash : t.rootKeyHash = h.rootKeyHash := by
    rw [Hw.rootKeyHash, Hw.rootKeyHash]
    exact List.map_congr_left fun i _ => hreg _ rfl
  rw [Hw.imageResult, Hw.imageResult, hhash, Hw.flag, Hw.flag, hreg _ rfl]

theorem imageResult_le (l : List Byte) (n : Nat) (sigOk : Bool) : h.imageResult l n sigOk ≤ 4 := by
  unfold Hw.imageResult
  split_ifs <;> decide

theorem bytes_of_mem (e : t.mem = h.mem) (a n : Nat) : t.bytes a n = h.bytes a n := by
  rw [Hw.bytes, Hw.bytes]
  exact List.map_congr_left fun i _ => byte_of_mem e _

end

/-! ### The ROM's way to the network (16 R442) -/

section
variable (h : Hw)

/-- The owners of the staging banks are registers of their page. -/
theorem stageOwn_leaves : h.stageOwn = { h with regs := h.stageOwn.regs } ∧ ∀ r u, r.page ≠ pgCMCFG → h.stageOwn.reg r u = h.reg r u := by
  have hall (l : List Nat) (v : Hw) : l.foldl (fun t b => t.setReg (BANK_OWNER b) 5 0x22#32) v =
      { v with regs := (l.foldl (fun t b => t.setReg (BANK_OWNER b) 5 0x22#32) v).regs } ∧
      ∀ r u, r.page ≠ pgCMCFG → (l.foldl (fun t b => t.setReg (BANK_OWNER b) 5 0x22#32) v).reg r u = v.reg r u := by
    induction l generalizing v with
    | nil => exact ⟨rfl, fun _ _ _ => rfl⟩
    | cons b l ih =>
      obtain ⟨hrest, hreg⟩ := ih (v.setReg (BANK_OWNER b) 5 0x22#32)
      exact ⟨hrest, fun r u hr => (hreg r u hr).trans (reg_setReg_other _ _ _ _ fun e => hr (e ▸ rfl))⟩
  exact hall _ h

/-- What the ROM's turn to the network leaves. -/
theorem netBoot_leaves : h.netBoot.pkg = h.pkg ∧ h.netBoot.fw.net = true ∧ h.netBoot.flag PAD_EN 0 8 = true ∧ h.netBoot.reg PHY_CTRL = 0x11#32 ∧
    h.netBoot.reg BOOT_STAT = h.reg BOOT_STAT := by
  have hother {r : Rg} (hmac : MAC_CTRL ≠ r) : h.netBoot.reg r = ((h.setFlag PAD_EN 0 8 true).setReg PHY_CTRL 0 0x11#32).reg r :=
    (reg_setReg_other _ _ _ _ hmac).trans (reg_setReg_other _ _ _ _ hmac)
  refine ⟨rfl, rfl, ?pad, ?phy, ?stat⟩
  case pad =>
    rw [Hw.flag, hother (by decide), reg_setReg_other _ _ _ _ (by decide)]
    exact flag_setFlag_same h PAD_EN 0 (by decide) true
  case phy => rw [hother (by decide), reg_setReg_same]
  case stat =>
    rw [hother (by decide), reg_setReg_other _ _ _ _ (by decide)]
    exact reg_setReg_other _ _ _ _ (by decide)

/-- What the start of firmware leaves. -/
theorem startFirmware_leaves (src : Nat) (fails : List (Cluster × BitVec 34)) : (h.startFirmware src fails).pkg.booting = false ∧
    (h.startFirmware src fails).fw.net = false ∧ (h.startFirmware src fails).fw.offer = none := by
  unfold Hw.startFirmware
  extract_lets shown timed locked licensed tested sent
  exact ⟨rfl, rfl, rfl⟩

end

/-! ### The ROM's paths (16 R441, R442) -/

section
variable (h : Hw)

/-- The ROM's own setting of its banks and pins, before it looks at flash. -/
def Hw.romSet (h : Hw) : Hw := h.stageOwn.setFlag PAD_EN 0 4 true

theorem romSet_leaves : h.romSet.pkg = h.pkg ∧ h.romSet.mem = h.mem ∧ ∀ r u, r.page ≠ pgCMCFG → PAD_EN ≠ r → h.romSet.reg r u = h.reg r u := by
  obtain ⟨hrest, hreg⟩ := stageOwn_leaves h
  refine ⟨?pkg, ?mem, fun r u hpage hpad => (reg_setReg_other _ _ _ _ hpad).trans (hreg r u hpage)⟩
  case pkg => rw [Hw.romSet, setFlag_pkg, hrest]
  case mem => rw [Hw.romSet, setFlag_mem, hrest]

/-- The ROM's judgement is the same once it has set its banks and pins. -/
theorem imageResult_romSet (sigOk : Bool) : h.romSet.imageResult (h.romSet.bytes flashBase 256) (2 ^ 23) sigOk =
    h.imageResult (h.bytes flashBase 256) (2 ^ 23) sigOk := by
  obtain ⟨-, hmem, hreg⟩ := romSet_leaves h
  rw [bytes_of_mem hmem]
  exact imageResult_congr (fun r hr => hreg r 0 (by rw [hr]; decide) (by rintro rfl; exact absurd hr (by decide))) _ _ _

/-- The device boots from the network where the ROM turned to it. -/
theorem netBooting_netBoot (hb : h.pkg.booting = true) : h.netBoot.netBooting = true := by
  obtain ⟨hpkg, hnet, -⟩ := netBoot_leaves h
  rw [Hw.netBooting, hpkg, hnet, hb]
  rfl

theorem netBooting_started (src : Nat) (fails : List (Cluster × BitVec 34)) : (h.startFirmware src fails).netBooting = false := by
  rw [Hw.netBooting, (startFirmware_leaves h src fails).1]
  rfl

/-- A message of the boot exchange touches port 0's queues and its counter of what a link that is down drops. -/
theorem bootSend_leaves (dst kind : Nat) (w1 w2 : Word) (body : List Byte) :
    (h.bootSend dst kind w1 w2 body).pkg = h.pkg ∧ (h.bootSend dst kind w1 w2 body).fw = h.fw ∧
      ∀ r u, TX_LINKDOWN_DROP_CNT ≠ r → (h.bootSend dst kind w1 w2 body).reg r u = h.reg r u := by
  unfold Hw.bootSend Hw.rcpSend Hw.txPush
  split
  · exact ⟨rfl, rfl, fun r u hr => reg_inc_ne _ _ _ _ _ _ fun e => hr e.1⟩
  · extract_lets l
    split
    · exact ⟨rfl, rfl, fun _ _ _ => rfl⟩
    · exact ⟨rfl, rfl, fun _ _ _ => rfl⟩

/-- A power request that waits neither ends a boot nor touches firmware. -/
theorem pkgSettle_boot (now : Nat) : (h.pkgSettle now).pkg.booting = h.pkg.booting ∧ (h.pkgSettle now).fw = h.fw := by
  have hwake (v : Hw) (src : Nat) : (v.pkgWake src).pkg.booting = v.pkg.booting ∧ (v.pkgWake src).fw = v.fw := by
    unfold Hw.pkgWake
    extract_lets cool
    split
    · exact ⟨rfl, rfl⟩
    · split_ifs <;> exact ⟨rfl, rfl⟩
    · exact ⟨rfl, rfl⟩
  have hgo (v : Hw) (t : Nat) : (v.pkgGo t).pkg.booting = v.pkg.booting ∧ (v.pkgGo t).fw = v.fw := by
    unfold Hw.pkgGo
    split
    · split_ifs <;> exact ⟨rfl, rfl⟩
    · split_ifs <;> exact ⟨rfl, rfl⟩
    · split_ifs
      · exact hwake v 9
      · exact ⟨rfl, rfl⟩
    · exact ⟨rfl, rfl⟩
    · exact ⟨rfl, rfl⟩
  unfold Hw.pkgSettle
  split
  · exact ⟨rfl, rfl⟩
  · extract_lets v
    split_ifs
    · exact ⟨rfl, rfl⟩
    · exact ⟨rfl, rfl⟩
    · exact hgo v _

end

/-! ### Frames of the boot exchange (13 R373) -/

section
variable {h : Hw} {q : Nat}

/-- With no frame waiting an RCP receiver has nothing to do. -/
theorem withRcp_empty (hin : (h.eth q).rcpIn = []) (p : Nat → Bool) (act : RxFrame → Hw → Hw) : h.withRcp q p act = h := by
  rw [Hw.withRcp, hin]
  rfl

/-- The oldest frame is taken where it is not stray and of the kind sought. -/
theorem withRcp_taken {f : RxFrame} {l : List RxFrame} {p : Nat → Bool} (hin : (h.eth q).rcpIn = f :: l) (hstray : h.rcpStray q f = false)
    (hkind : p (roeneKind f.payload) = true) (act : RxFrame → Hw → Hw) :
    h.withRcp q p act = act f (h.updEth q fun e => { e with rcpIn := l }) := by
  have hdrop : (f :: l).dropWhile (h.rcpStray q) = f :: l := by rw [List.dropWhile_cons, hstray]; rfl
  rw [Hw.withRcp, hin, hdrop]
  simp only [Nat.sub_self, if_true, hkind]

/-- An OFFER or a DATA frame at port 0 is the boot exchange's while the device boots from the network. -/
theorem rcpStray_boot {f : RxFrame} (hnet : h.netBooting = true) (hkind : roeneKind f.payload = 0x11 ∨ roeneKind f.payload = 0x12) :
    h.rcpStray 0 f = false := by
  rw [Hw.netBooting, Bool.and_eq_true] at hnet
  obtain hkind | hkind := hkind <;> simp [Hw.rcpStray, hnet.2, hkind]

end

theorem fw_updEth (h : Hw) (q : Nat) (f : EthSt → EthSt) : (h.updEth q f).fw = h.fw := rfl

/-! ### The statement -/

section
variable (s : State)

theorem exec_romFlashBoot (a b : Bool) (recs : List CfgRec) (l : List (Cluster × BitVec 34)) :
    exec (.romFlashBoot a b recs l) s = s.onHw fun h => h.flashBoot a b recs l := rfl

theorem exec_netBootImageCheck (b : Bool) (recs : List CfgRec) (l : List (Cluster × BitVec 34)) :
    exec (.netBootImageCheck b recs l) s = s.onHw fun h => h.netCheck b recs l := rfl

theorem exec_pkgColdExitDone (b : Bool) (recs : List CfgRec) (l : List (Cluster × BitVec 34)) :
    exec (.pkgColdExitDone b recs l) s = s.onAo fun h => h.coldExit b recs l := rfl

theorem exec_bootSolicit : exec .bootSolicit s = s.onHw Hw.bootSolicit := rfl
theorem exec_bootOfferRx : exec .bootOfferRx s = s.onHw Hw.bootOffer := rfl
theorem exec_bootDataRx : exec .bootDataRx s = s.onHw Hw.bootData := rfl

end

section
variable {h : Hw} (b : Bool) (recs : List CfgRec) (l : List (Cluster × BitVec 34))

/-- A flash that does not answer, or is not to be used, turns the ROM to the network. -/
theorem flashBoot_silent {a : Bool} (hboot : h.pkg.booting = true) (hnet : h.fw.net = false) (hno : a = false ∨ h.flag PAD_STAT 0 1 = true) :
    h.flashBoot a b recs l = (h.romSet.setFlag BOOT_STAT 0 8 true).netBoot := by
  have hpad : h.romSet.flag PAD_STAT 0 1 = h.flag PAD_STAT 0 1 := by
    rw [Hw.flag, (romSet_leaves h).2.2 _ _ (by decide) (by decide), Hw.flag]
  rw [Hw.flashBoot, if_neg (by simp [hboot, hnet])]
  exact if_pos (by rw [← Hw.romSet, hpad]; exact hno)

/-- Otherwise the ROM goes by its judgement of the image in flash: one that is refused turns it to the network. -/
theorem flashBoot_refused (hboot : h.pkg.booting = true) (hnet : h.fw.net = false) (hpad : h.flag PAD_STAT 0 1 = false)
    (hres : h.imageResult (h.bytes flashBase 256) (2 ^ 23) b ≠ 0) :
    h.flashBoot true b recs l = (h.romSet.setFld BOOT_STAT 0 7 4 (h.imageResult (h.bytes flashBase 256) (2 ^ 23) b)).netBoot := by
  have hpad' : h.romSet.flag PAD_STAT 0 1 = false := by
    rw [Hw.flag, (romSet_leaves h).2.2 _ _ (by decide) (by decide), ← Hw.flag, hpad]
  rw [Hw.flashBoot, if_neg (by simp [hboot, hnet])]
  extract_lets v hdr r w x y
  have hr : r = h.imageResult (h.bytes flashBase 256) (2 ^ 23) b := imageResult_romSet h b
  rw [if_neg (by rw [show v = h.romSet from rfl, hpad']; simp), if_pos (by rw [hr]; exact hres), ← hr]
  rfl

/-- One that is accepted starts firmware. -/
theorem flashBoot_accepted (hboot : h.pkg.booting = true) (hnet : h.fw.net = false) (hpad : h.flag PAD_STAT 0 1 = false)
    (hres : h.imageResult (h.bytes flashBase 256) (2 ^ 23) b = 0) : ∃ v : Hw, h.flashBoot true b recs l = v.startFirmware 0 l := by
  have hpad' : h.romSet.flag PAD_STAT 0 1 = false := by
    rw [Hw.flag, (romSet_leaves h).2.2 _ _ (by decide) (by decide), ← Hw.flag, hpad]
  rw [Hw.flashBoot, if_neg (by simp [hboot, hnet])]
  extract_lets v hdr r w x y
  have hr : r = h.imageResult (h.bytes flashBase 256) (2 ^ 23) b := imageResult_romSet h b
  rw [if_neg (by rw [show v = h.romSet from rfl, hpad']; simp), if_neg (by rw [hr, hres]; simp)]
  exact ⟨_, rfl⟩

/-- The check of a network image that is complete. -/
theorem netCheck_checks {n : Nat} (hnet : h.netBooting = true) (hoffer : h.fw.offer = some n) (hn : n ≤ h.fw.nextOff) :
    ∃ v w : Hw, (h.netCheck b recs l = if h.imageResult (h.staged 256) n b = 0 then v.startFirmware 1 l
        else w.updFw fun x => { x with offer := none, nextOff := 0 }) ∧ w.netBooting = true ∧
      w.reg BOOT_NET_CNT = satAdd32 (h.reg BOOT_NET_CNT) 1 ∧ w.fld BOOT_STAT 0 15 12 = h.imageResult (h.staged 256) n b := by
  have hcond : ¬ (h.netBooting = false ∨ h.fw.nextOff < n) := by rw [hnet]; simpa using hn
  rw [Hw.netCheck, hoffer]
  simp only [if_neg hcond]
  generalize hr : h.imageResult (h.staged 256) n b = r
  have hle : r ≤ 4 := hr ▸ imageResult_le _ _ _
  generalize hv : (h.inc BOOT_NET_CNT).setFld BOOT_STAT 0 15 12 r = v
  obtain ⟨hpkg, hfw, hreg⟩ := bootSend_leaves v v.fw.host 0x14 0#32 (w32 r) []
  refine ⟨_, v.bootSend v.fw.host 0x14 0#32 (w32 r) [], ite_not .., ?net, ?cnt, ?stat⟩
  case net => rw [Hw.netBooting, hpkg, hfw, ← hv]; exact hnet
  case cnt => rw [hreg _ _ (by decide), ← hv, reg_setFld_ne _ _ _ _ _ _ _ _ (by decide), reg_inc_same]
  case stat =>
    rw [Hw.fld, hreg _ _ (by decide), ← hv, reg_setFld_same, bits_setBits _ _ _ _ (by decide) (by decide)]
    exact Nat.mod_eq_of_lt (by omega)

end

/-- Time and a register that is not the clock's rate: either order. -/
theorem setReg_advTo {h : Hw} {r : Rg} (hr : r ≠ PTP_INC) (hw : h.waits = []) (u : Nat) (v : Word) (n : Nat) :
    (h.setReg r u v).advTo n = (h.advTo n).setReg r u v := by
  have hrate : (h.setReg r u v).reg PTP_INC = h.reg PTP_INC := reg_setReg_other _ _ _ _ hr
  have hwaits : (h.setReg r u v).waits = [] := hw
  rw [Hw.advTo, Hw.advTo, hrate]
  change (if h.dev < n ∧ h.powered = true then _ else _) = _
  split
  · rw [Hw.countWaits, hwaits, Hw.countWaits, hw]; rfl
  · rfl

/-- A bit of such a register. -/
theorem setFlag_advTo {h : Hw} {r : Rg} (hr : r ≠ PTP_INC) (hw : h.waits = []) (u i : Nat) (b : Bool) (n : Nat) :
    (h.setFlag r u i b).advTo n = (h.advTo n).setFlag r u i b := by
  have hreg : (h.advTo n).reg r u = h.reg r u := reg_of_regs _ _ _ _ (advTo_regs hw n)
  rw [Hw.setFlag, Hw.setFld, setReg_advTo hr hw, Hw.setFlag, Hw.setFld, hreg]

/-- Firmware runs once it has been started, whatever power request then goes on. -/
theorem settled_started (h : Hw) (src : Nat) (l : List (Cluster × BitVec 34)) (now : Nat) :
    ((h.startFirmware src l).pkgSettle now).pkg.booting = false ∧ ((h.startFirmware src l).pkgSettle now).fw.net = false := by
  obtain ⟨hboot, hfw⟩ := pkgSettle_boot (h.startFirmware src l) now
  obtain ⟨hb, hn, -⟩ := startFirmware_leaves h src l
  exact ⟨hboot.trans hb, (congrArg FwSt.net hfw).trans hn⟩

/-- A bit written next. -/
theorem Hw.Now.setFlag {h g t : Hw} {l : List ((Rg × Nat) × Word)} (n : h.Now g l t) {r : Rg} {u : Nat} {w : Word} (hr : t.reg r u = w)
    (i : Nat) (b : Bool) : h.Now g (((r, u), setBits w i i (b2n b)) :: l) (t.setFlag r u i b) := by
  rw [Hw.setFlag, Hw.setFld, hr]
  exact n.set r u _

section
variable {h : Hw} (hpst : h.pkg.pst = .fromCold) (hreset : h.pkg.inReset = false)
include hpst hreset

/-- A Cold exit without power-good, once. -/
theorem coldExit_waits (b : Bool) (recs : List CfgRec) (l : List (Cluster × BitVec 34)) (hgood : h.pkg.pwrGood = false)
    (hwait : h.pkg.railWait = false) :
    h.coldExit b recs l = (h.updPkg fun p => { p with railWait := true }).setReg PWR_RAIL_WAIT_CNT 0 (satAdd32 (h.reg PWR_RAIL_WAIT_CNT) 1) := by
  simp only [Hw.coldExit, hpst, hreset, hgood, hwait]
  rfl

/-- A Cold exit with power-good whose digest differs, with no request waiting. -/
theorem coldExit_fullBoot (recs : List CfgRec) (l : List (Cluster × BitVec 34)) (hgood : h.pkg.pwrGood = true) (hpend : h.pkg.pend = none)
    (hw : h.waits = []) :
    h.coldExit false recs l =
      (((h.updPkg fun p => { p with pst := .brew, railWait := false, booting := true }).advTo (3100 * us)).setFlag RST_CAUSE 0 2 true).setFlag
        PAD_EN 0 4 true := by
  rw [Hw.coldExit, if_neg (by simp [hpst, hreset]), if_neg (by simp [hgood])]
  extract_lets v w x y
  have hv : v = (h.updPkg fun p => { p with pst := .brew, railWait := false, booting := true }).setFlag RST_CAUSE 0 2 true := rfl
  have hy : y = (v.advTo (3100 * us)).setFlag PAD_EN 0 4 true := rfl
  obtain ⟨d, p, hadv⟩ := advTo_of_noWaits v (3100 * us) hw
  rw [pkgSettle_none (by rw [hy, setFlag_pkg, hadv]; exact hpend), hy, hv, setFlag_advTo (h := h.updPkg _) (by decide) hw]

/-- One whose digest agrees ends with firmware running. -/
theorem coldExit_runs (recs : List CfgRec) (l : List (Cluster × BitVec 34)) (hgood : h.pkg.pwrGood = true) :
    (h.coldExit true recs l).pkg.booting = false ∧ (h.coldExit true recs l).fw.net = false := by
  have hstarted : ∃ v : Hw, h.coldExit true recs l = (v.startFirmware 2 l).pkgSettle 0 := by
    rw [Hw.coldExit, if_neg (by simp [hpst, hreset]), if_neg (by simp [hgood])]
    exact ⟨_, rfl⟩
  obtain ⟨v, e⟩ := hstarted
  rw [e]
  exact settled_started v 2 l 0

end

/-- Settles O37: the ROM's paths by what they leave, and the frames of the boot exchange as the receiver takes them. -/
theorem bootPaths : Obligations.BootPaths := by
  refine ⟨⟨?silent, ?flash, ?net, ?wait, ?full, ?quick⟩, ?solicit, ?noSolicit, ?offer, ?noFrame, ?chunk, ?otherChunk⟩
  case silent =>
    intro s b recs l hp hboot hnet
    refine answers_onHw (exec_romFlashBoot s false b recs l) hp ?_
    rw [flashBoot_silent b recs l hboot hnet (.inl rfl)]
    have hb : (s.hw.romSet.setFlag BOOT_STAT 0 8 true).pkg.booting = true := by rw [setFlag_pkg, (romSet_leaves _).1, hboot]
    obtain ⟨-, -, hpad, hphy, hstat⟩ := netBoot_leaves (s.hw.romSet.setFlag BOOT_STAT 0 8 true)
    refine ⟨netBooting_netBoot _ hb, ?_, hpad, hphy⟩
    rw [Hw.flag, hstat, ← Hw.flag]
    exact flag_setFlag_same _ _ _ (by decide) _
  case flash =>
    intro s b recs l hp hboot hnet
    refine answers_onHw (exec_romFlashBoot s true b recs l) hp ?_
    have hrom : s.hw.romSet.pkg.booting = true := by rw [(romSet_leaves _).1, hboot]
    split_ifs with hpad hres
    · rw [flashBoot_silent b recs l hboot hnet (.inr hpad)]
      refine ⟨netBooting_netBoot _ (by rw [setFlag_pkg]; exact hrom), ?_⟩
      rw [Hw.flag, (netBoot_leaves _).2.2.2.2, ← Hw.flag]
      exact flag_setFlag_same _ _ _ (by decide) _
    · obtain ⟨v, e⟩ := flashBoot_accepted b recs l hboot hnet (by simpa using hpad) hres
      obtain ⟨hb, -, hoffer⟩ := startFirmware_leaves v 0 l
      rw [e]
      exact ⟨hb, netBooting_started v 0 l, hoffer⟩
    · rw [flashBoot_refused b recs l hboot hnet (by simpa using hpad) hres]
      refine ⟨netBooting_netBoot _ hrom, ?_⟩
      have hle := imageResult_le (h := s.hw) (s.hw.bytes flashBase 256) (2 ^ 23) b
      rw [Hw.fld, (netBoot_leaves _).2.2.2.2, reg_setFld_same, bits_setBits _ _ _ _ (by decide) (by decide)]
      exact Nat.mod_eq_of_lt (by omega)
  case net =>
    intro s b recs l n hp hnet hoffer hn
    refine answers_onHw (exec_netBootImageCheck s b recs l) hp ?_
    obtain ⟨v, w, e, hw, hcnt, hstat⟩ := netCheck_checks b recs l hnet hoffer hn
    rw [e]
    split_ifs with hres
    · obtain ⟨hb, -, ho⟩ := startFirmware_leaves v 1 l
      exact ⟨ho, hb, netBooting_started v 1 l⟩
    · exact ⟨rfl, hw, rfl, hcnt, hstat⟩
  case wait =>
    intro s b recs l hpst hreset hgood hwait
    refine answers_onAo (exec_pkgColdExitDone s b recs l) ?_
    rw [coldExit_waits hpst hreset b recs l hgood hwait]
    exact .one _ _ rfl _ _ _
  case full =>
    intro s recs l hpst hreset hgood hpend hw
    refine answers_onAo (exec_pkgColdExitDone s false recs l) ?_
    rw [coldExit_fullBoot hpst hreset recs l hgood hpend hw]
    have hregs : ((s.hw.updPkg fun p => { p with pst := .brew, railWait := false, booting := true }).advTo (3100 * us)).regs = s.hw.regs :=
      advTo_regs (h := s.hw.updPkg _) hw _
    have hcause := reg_of_regs _ _ RST_CAUSE 0 hregs
    have hpad := reg_of_regs _ _ PAD_EN 0 hregs
    exact ((Hw.Now.intro _ _ hregs).setFlag hcause 2 true).setFlag ((reg_setFlag_ne _ _ _ _ _ (by decide)).trans hpad) 4 true
  case quick =>
    intro s recs l hpst hreset hgood
    exact answers_onAo (exec_pkgColdExitDone s true recs l) (coldExit_runs hpst hreset recs l hgood)
  case solicit =>
    intro s hp hnet hoffer
    exact answers_onHw (exec_bootSolicit s) hp (if_pos ⟨hnet, hoffer⟩)
  case noSolicit =>
    intro s hno
    refine ignored_of_same (exec_bootSolicit s) (if_neg fun ⟨hnet, hoffer⟩ => ?_)
    simp [hnet, hoffer] at hno
  case offer =>
    intro s f l hp hin hkind hnet hoffer hsize
    refine answers_onHw (exec_bootOfferRx s) hp ?_
    rw [Hw.bootOffer, withRcp_taken hin (rcpStray_boot hnet (.inl hkind)) (by rw [hkind]; rfl)]
    exact (if_neg (by rw [show (s.hw.updEth 0 _).netBooting = _ from hnet, show (s.hw.updEth 0 _).fw.offer = _ from hoffer]; simp)).trans
      (if_neg (by omega))
  case noFrame =>
    intro s hin
    exact ⟨ignored_of_same (exec_bootOfferRx s) (withRcp_empty hin _ _), ignored_of_same (exec_bootDataRx s) (withRcp_empty hin _ _)⟩
  case chunk =>
    intro s f l n o m hp hin hkind hnet hoffer ho hn hm hat hlen hfit
    refine answers_onHw (exec_bootDataRx s) hp ?_
    rw [Hw.bootData, withRcp_taken hin (rcpStray_boot hnet (.inr hkind)) (by rw [hkind]; rfl)]
    have hchunk : ((f.payload.drop 16).take m).length = m := by rw [List.length_take, List.length_drop]; omega
    have hpos : 0 < m := by omega
    simp only [fw_updEth, hoffer, ← ho, ← hm, hat, hlen, hchunk, hpos, decide_true, Bool.and_self, if_true]
    rfl
  case otherChunk =>
    intro s f l n hp hin hkind hnet hoffer hat
    refine answers_onHw (exec_bootDataRx s) hp ?_
    rw [Hw.bootData, withRcp_taken hin (rcpStray_boot hnet (.inr hkind)) (by rw [hkind]; rfl)]
    simp only [fw_updEth, hoffer, hat, decide_false, Bool.false_and, Bool.false_eq_true, if_false]

end Sys2Proof.Machine
end

section
/-! SUPPORT. DDR5 channels: requests, patrol scrub and training; Saune-D calibration and Saune-C links; and the statement on them (14 R383-R402). -/

namespace Sys2Proof.Machine

/-! ### Requests of a DDR5 channel (14 R385-R389) -/

section
variable {h : Hw} {q : Nat}

@[simp] theorem ddr_updDdr_same (f : DdrSt → DdrSt) : (h.updDdr q f).ddr q = f (h.ddr q) := Tbl.get_set_same ..

@[simp] theorem waiting_ddrQueue (a : Nat) (wr : Bool) : ((h.ddrQueue q a wr).ddr q).waiting = (h.ddr q).waiting := by
  simp only [Hw.ddrQueue, ddr_updDdr_same]
  split <;> rfl

/-- The order of one request is that request. -/
theorem ddrOrder_one (q : Quad) (r : DdrReq) : ddrOrder q [r] = [r] := by
  obtain ⟨src, addr, wr, be⟩ := r
  fin_cases q <;> fin_cases src <;> rfl

/-- A request that finds none held, and room in its queue or the channel in self-refresh, is performed. -/
theorem ddrAccept_performs {q : Quad} {r : DdrReq} (hwait : (h.ddr q).waiting = []) (hroom : h.ddrSelf q = true ∨ h.ddrFull q r = false) :
    ∃ g : Hw, h.ddrAccept q [r] = g.ddrPerform q r ∧ g = { h with ddrs := g.ddrs } ∧ (g.ddr q).waiting = [] := by
  generalize hv : h.updDdr q (fun x => { x with waiting := x.waiting ++ ddrOrder q [r] }) = v
  have hddr : v.ddr q = { h.ddr q with waiting := [r] } := by rw [← hv, ddr_updDdr_same, hwait, ddrOrder_one]; rfl
  have hroom' : ¬ (v.ddrSelf q = false ∧ v.ddrFull q r = true) := by
    have hself : v.ddrSelf q = h.ddrSelf q := by rw [← hv]; rfl
    have hfull : v.ddrFull q r = h.ddrFull q r := by rw [Hw.ddrFull, hddr, Hw.ddrFull]
    rw [hself, hfull]
    rintro ⟨hself, hfull⟩
    simp [hself, hfull] at hroom
  refine ⟨v.updDdr q fun x => { x with waiting := [] }, ?_, by rw [← hv]; rfl, by rw [ddr_updDdr_same]⟩
  rw [Hw.ddrAccept]
  simp only [hv, hddr, if_neg hroom']

/-- Without error marks a burst reads its words, and nothing is counted. -/
theorem ddrBurst_clean (hm : h.marks = []) (a : Nat) :
    h.ddrBurst q a = (h, (List.range 16).map fun i => some (h.word (ddrBase q + a / 64 * 64 + 4 * i))) := by
  simp [Hw.ddrBurst, mark_of_marks_nil hm, markApar, markEcc]

/-- And nothing is to be written back. -/
theorem ddrScrubBack_clean (hm : h.marks = []) (a : Nat) : h.ddrScrubBack q a = h := by
  unfold Hw.ddrScrubBack
  generalize List.range 16 = l
  induction l with
  | nil => rfl
  | cons i l ih =>
    rw [List.foldl_cons]
    simp only [mark_of_marks_nil hm] at ih ⊢
    exact ih

/-- A channel in self-refresh counts a request and answers 0. -/
theorem ddrPerform_self {r : DdrReq} (hself : h.ddrSelf q = true) :
    h.ddrPerform q r = { h.inc DDR_RESET_DROP_CNT q with resp := ⟨0#32, .ok⟩ } := if_pos hself

section
variable {r : DdrReq} (hself : h.ddrSelf q = false)
include hself

/-- So does one whose request lies beyond its capacity. -/
theorem ddrPerform_beyond (hend : h.ddrEnd q ≤ r.addr.toNat) : h.ddrPerform q r = { h.inc DDR_ADDR_ERR_CNT q with resp := ⟨0#32, .ok⟩ } := by
  rw [Hw.ddrPerform, if_neg (by simp [hself])]
  exact if_pos hend

/-- A write goes to its word. -/
theorem ddrPerform_write (hend : r.addr.toNat < h.ddrEnd q) {v : Word} (hwr : r.wr = some v) :
    h.ddrPerform q r = { ((h.ddrQueue q r.addr.toNat true).ddrWrite q r.addr.toNat v r.be.toNat).1 with resp := ⟨0#32, .ok⟩ } := by
  rw [Hw.ddrPerform, if_neg (by simp [hself])]
  simp only [hwr, if_neg (Nat.not_le.2 hend)]

/-- Without error marks a read answers its word. -/
theorem ddrPerform_read (hend : r.addr.toNat < h.ddrEnd q) (hwr : r.wr = none) (hm : h.marks = []) :
    h.ddrPerform q r = { h.ddrQueue q r.addr.toNat false with resp := ⟨h.word (ddrBase q + r.addr.toNat / 4 * 4), .ok⟩ } := by
  have hat : ddrBase q + r.addr.toNat / 64 * 64 + 4 * (r.addr.toNat / 4 % 16) = ddrBase q + r.addr.toNat / 4 * 4 := by omega
  have hword : ((List.range 16).map fun i => some ((h.ddrQueue q r.addr.toNat false).word (ddrBase q + r.addr.toNat / 64 * 64 + 4 * i))).getD
      (r.addr.toNat / 4 % 16) none = some (h.word (ddrBase q + r.addr.toNat / 4 * 4)) := by
    rw [List.getD_eq_getElem _ _ (by simp; omega), List.getElem_map, List.getElem_range, hat]
    rfl
  rw [Hw.ddrPerform, if_neg (by simp [hself])]
  simp only [hwr, if_neg (Nat.not_le.2 hend), ddrBurst_clean (h := h.ddrQueue q r.addr.toNat false) hm, hword]

end

/-- With no byte enabled a word is left as it is. -/
theorem mergeBytes_none {be : Nat} (hbe : be % 16 = 0) (old v : Word) : mergeBytes old v be = old := by
  have hbit : ∀ i < 4, be.testBit i = false := fun i hi => by
    have hmod := Nat.testBit_mod_two_pow be 4 i
    rw [show (2 : Nat) ^ 4 = 16 from rfl, hbe, Nat.zero_testBit] at hmod
    simpa [hi] using hmod.symm
  simp [mergeBytes, List.range_succ, hbit]

/-- What a write of a word without error marks leaves. -/
theorem ddrWrite_leaves (hm : h.marks = []) (a : Nat) (v : Word) (be : Nat) :
    ∃ m k, (h.ddrWrite q a v be).1 = { h with mem := m, marks := k } ∧
      (h.ddrWrite q a v be).1.word (ddrBase q + a / 4 * 4) = mergeBytes (h.word (ddrBase q + a / 4 * 4)) v be ∧
      ∀ x, x < ddrBase q + a / 4 * 4 ∨ ddrBase q + a / 4 * 4 + 4 ≤ x → (h.ddrWrite q a v be).1.byte x = h.byte x := by
  by_cases hbe : be % 16 = 0
  · rw [Hw.ddrWrite, if_pos hbe, mergeBytes_none hbe]
    exact ⟨_, _, rfl, rfl, fun _ _ => rfl⟩
  · rw [Hw.ddrWrite, if_neg hbe, if_neg (by simp [mark_of_marks_nil hm, markEcc])]
    exact ⟨_, _, rfl, word_setWord_same _ _ _, fun x hx => byte_setWord_ne _ _ _ _ hx⟩


end

/-! ### Registers and the rest of the block -/

/-- A field written twice holds what was written last. -/
theorem setBits_setBits (w : Word) (hi lo a b : Nat) : setBits (setBits w hi lo a) hi lo b = setBits w hi lo b := by
  unfold setBits
  ext i hi'
  simp only [BitVec.getElem_or, BitVec.getElem_and, BitVec.getElem_not]
  cases (fldMask hi lo)[i] <;> simp

/-- Association lists that hold the same pairs, each key once, look up alike. -/
theorem lookup_of_perm {α β : Type} [BEq α] [LawfulBEq α] {l l' : List (α × β)} (hp : l.Perm l') (hl : (l.map Prod.fst).Nodup) (k : α) :
    l.lookup k = l'.lookup k := by
  induction hp with
  | nil => rfl
  | cons p _ ih =>
    rw [List.map_cons, List.nodup_cons] at hl
    rw [List.lookup_cons, List.lookup_cons, ih hl.2]
  | swap p p' l =>
    have hne : p'.1 ≠ p.1 := by
      simp only [List.map_cons, List.nodup_cons, List.mem_cons, not_or] at hl
      exact hl.1.1
    rw [List.lookup_cons, List.lookup_cons, List.lookup_cons, List.lookup_cons]
    by_cases hp : k = p.1
    · simp [hp, beq_false_of_ne hne.symm]
    · simp only [beq_false_of_ne hp]
  | trans hp _ ih ih' => exact (ih hl).trans (ih' ((hp.map _).nodup_iff.1 hl))

/-- A register that a list does not name has no word in it. -/
theorem lookup_unnamed {l : List ((Rg × Nat) × Word)} {r : Rg} (hr : ((l.map Prod.fst).map Prod.fst).contains r = false) (u : Nat) :
    l.lookup (r, u) = none := by
  rw [List.lookup_eq_none_iff]
  intro p hp
  rw [bne_iff_ne]
  intro e
  have hin : ((l.map Prod.fst).map Prod.fst).contains r = true :=
    List.contains_iff_mem.2 (List.mem_map.2 ⟨(r, u), e ▸ List.mem_map_of_mem hp, rfl⟩)
  rw [hr] at hin
  exact Bool.false_ne_true hin

/-- The block with other times at which PLLs that are starting set out. -/
def Hw.withLockTimes (h : Hw) (l : Tbl Nat) : Hw := { h with pkg := { h.pkg with pllAt := l } }

section
variable {h g t : Hw} {l : List ((Rg × Nat) × Word)}

/-- The register written last holds its word. -/
theorem Hw.Now.head {r : Rg} {u : Nat} {w : Word} (n : h.Now g (((r, u), w) :: l) t) : t.reg r u = w := by
  rw [n.2, List.lookup_cons_self, Option.getD_some]

/-- A register named after others holds its word. -/
theorem Hw.Now.named {l' : List ((Rg × Nat) × Word)} {r : Rg} {u : Nat} {w : Word} (n : h.Now g (l ++ ((r, u), w) :: l') t)
    (hr : ((l.map Prod.fst).map Prod.fst).contains r = false) : t.reg r u = w := by
  rw [n.2, List.lookup_append, lookup_unnamed hr, List.lookup_cons_self, Option.none_or, Option.getD_some]

/-- A register named again later in the list: the later word does not count. -/
theorem Hw.Now.shadowed {l' : List ((Rg × Nat) × Word)} {r : Rg} {u : Nat} {w : Word} (n : h.Now g (l ++ ((r, u), w) :: l') t)
    (hr : (l.lookup (r, u)).isSome = true) : h.Now g (l ++ l') t := by
  refine ⟨n.1, fun r' u' => ?_⟩
  rw [n.2, List.lookup_append, List.lookup_append, List.lookup_cons]
  by_cases e : ((r', u') == (r, u)) = true
  · obtain ⟨v, hv⟩ := Option.isSome_iff_exists.1 hr
    rw [eq_of_beq e, hv, Option.some_or, Option.some_or]
  · simp only [Bool.not_eq_true _ ▸ e]

variable (n : h.Now g l t)
include n

/-- A register that is not named holds what it held. -/
theorem Hw.Now.other {r : Rg} (hr : ((l.map Prod.fst).map Prod.fst).contains r = false) (u : Nat) : t.reg r u = h.reg r u := by
  rw [n.2, lookup_unnamed hr, Option.getD_none]

/-- The order in which registers are named does not count. -/
theorem Hw.Now.perm {l' : List ((Rg × Nat) × Word)} (hp : l.Perm l') (hl : ((l.map Prod.fst).map Prod.fst).Nodup) : h.Now g l' t :=
  ⟨n.1, fun r u => by rw [n.2, lookup_of_perm hp (List.Nodup.of_map _ hl)]⟩

/-- A field written next. -/
theorem Hw.Now.setFld {r : Rg} {u : Nat} {w : Word} (hr : t.reg r u = w) (hi lo v : Nat) :
    h.Now g (((r, u), setBits w hi lo v) :: l) (t.setFld r u hi lo v) := by
  rw [Hw.setFld, hr]
  exact n.set r u _

/-- A counter counted next. -/
theorem Hw.Now.inc {r : Rg} {u : Nat} {w : Word} (hr : t.reg r u = w) (m : Nat) : h.Now g (((r, u), satAdd32 w m) :: l) (t.inc r u m) := by
  rw [Hw.inc, hr]
  exact n.set r u _

/-- What is no register is as in the block the change gives. -/
theorem Hw.Now.rest {α : Type} (proj : Hw → α) (hproj : ∀ (v : Hw) x, proj { v with regs := x } = proj v) : proj t = proj g := by
  rw [← hproj t h.regs, n.1, hproj]

/-- A change that neither looks at registers nor touches them. -/
theorem Hw.Now.onRest (f : Hw → Hw) (hf : ∀ (v : Hw) x, f { v with regs := x } = { f v with regs := x }) : h.Now (f g) l (f t) := by
  have hregs : (f t).regs = t.regs := (congrArg Hw.regs (hf t t.regs) :)
  refine ⟨?_, fun r u => (reg_of_regs _ _ r u hregs).trans (n.2 r u)⟩
  rw [← hf, n.1, hf]

/-- A report names the step in progress. -/
theorem Hw.Now.raise (hstep : t.stepNum = g.stepNum) (src : Nat) (x : FUnit) : h.Now (g.raise src x) l (t.raise src x) := by
  unfold Hw.raise
  rw [hstep]
  exact n.onRest (fun v => { v with reports := v.reports ++ [{ src := src, unit := x, step := g.stepNum, at_ := v.dev }] }) fun _ _ => rfl

/-- The change may be given by any block that differs in its registers alone. -/
theorem Hw.Now.base {g' : Hw} (e : ({ g' with regs := h.regs } : Hw) = { g with regs := h.regs }) : h.Now g' l t := ⟨n.1.trans e.symm, n.2⟩

/-- What is to be reloaded goes by the contexts' states and partitions. -/
theorem Hw.Now.askReload (hreg : ∀ r, r.page = pgCTX → t.reg r = g.reg r) (cs : List Nat) : h.Now (g.askReload cs) l (t.askReload cs) := by
  have hstate (m : Nat) : t.ctxState m = g.ctxState m := by rw [Hw.ctxState, Hw.fld, hreg _ rfl, Hw.ctxState, Hw.fld]
  have hpart (m c : Nat) : t.inPart m c = g.inPart m c := by rw [Hw.inPart, hreg _ rfl, hreg _ rfl, Hw.inPart]
  unfold Hw.askReload
  simp only [hstate, hpart, n.rest Hw.fw fun _ _ => rfl]
  split_ifs
  · exact n
  · rw [← n.rest Hw.fw fun _ _ => rfl]
    exact n.onRest (fun v => { v with fw := _ }) fun _ _ => rfl

/-- A PLL starts by what needs it and by its lock. -/
theorem Hw.Now.pllStart {i : Nat} (hneed : t.pllNeeded i = g.pllNeeded i) (hlock : t.flag PLL_STAT 0 i = g.flag PLL_STAT 0 i) :
    h.Now (g.pllStart i) l (t.pllStart i) := by
  have hpll : t.pkg.pllAt = g.pkg.pllAt := n.rest (fun v => v.pkg.pllAt) fun _ _ => rfl
  rw [Hw.pllStart, Hw.pllStart, hneed, hlock, hpll]
  split
  · exact n
  · change h.Now (g.withLockTimes (Tbl.put g.pkg.pllAt i g.dev)) l (t.withLockTimes (Tbl.put g.pkg.pllAt i t.dev))
    rw [n.rest Hw.dev fun _ _ => rfl]
    exact n.onRest (fun v => v.withLockTimes _) fun _ _ => rfl

end

/-! ### Saune-D and Saune-C (14 R394-R402) -/

section
variable {h : Hw} {k : Nat}

@[simp] theorem link_updLink_same (f : LinkSt → LinkSt) : (h.updLink k f).link k = f (h.link k) := Tbl.get_set_same ..

/-- A block that carries only credits. -/
theorem scBlock_credits {b : ScBlock} (hsch : b.sch = none) (hdrip : b.drip = none) (htok : b.tok = none) (hstepb : b.stepb = none)
    (hua : b.ua = h.flag SC_STAT k 2) : h.scBlock k b = h.scCredits k b.crq.toNat b.crs.toNat := by
  have hsame : (h.scCredits k b.crq.toNat b.crs.toNat).flag SC_STAT k 2 = b.ua := hua.symm
  unfold Hw.scBlock
  simp only [hsch, hdrip, htok, hstepb, hsame, if_true]

/-- A lost block that carried no flit. -/
theorem scLost_empty {b : ScBlock} (hsch : b.sch = none) (hdrip : b.drip = none) : h.scLost k b = h := by
  unfold Hw.scLost
  simp [hsch, hdrip]

/-- The link once the credits of a block have come. -/
def LinkSt.credited (l : LinkSt) (crq crs : Nat) : LinkSt :=
  { l with credQ := min 64 (l.credQ + credits l.crq crq), credS := min 64 (l.credS + credits l.crs crs), crq := crq, crs := crs }

/-- The same cumulative counts again give nothing. -/
theorem credited_again (l : LinkSt) (crq crs : Nat) : (l.credited crq crs).credited crq crs = l.credited crq crs := by
  have hnone (x : Nat) : credits x x = 0 := by simp [credits]
  simp [LinkSt.credited, hnone]

/-- Credits come to the link alone. -/
theorem scCredits_eq (crq crs : Nat) : h.scCredits k crq crs = h.updLink k fun l => l.credited crq crs := rfl

/-- A group whose blocks carry only credits. -/
theorem scBlocks_credits {b : ScBlock} (hsch : b.sch = none) (hdrip : b.drip = none) (htok : b.tok = none) (hstepb : b.stepb = none)
    (hua : b.ua = h.flag SC_STAT k 2) (n : Nat) : ∃ t : Hw, (List.replicate (n + 1) b).foldl (fun v b => v.scBlock k b) h = t ∧
      t = { h with links := t.links } ∧ t.link k = (h.link k).credited b.crq.toNat b.crs.toNat := by
  induction n with
  | zero => exact ⟨_, scBlock_credits hsch hdrip htok hstepb hua, rfl, by rw [scCredits_eq, link_updLink_same]⟩
  | succ n ih =>
    obtain ⟨t, e, hlinks, hlink⟩ := ih
    rw [List.replicate_succ', List.foldl_append, e]
    have hua' : b.ua = t.flag SC_STAT k 2 := by rw [hlinks]; exact hua
    refine ⟨_, scBlock_credits hsch hdrip htok hstepb hua', ?_, ?_⟩
    · rw [hlinks]; rfl
    · rw [scCredits_eq, link_updLink_same, hlink, credited_again]

/-! ### Patrol scrub and training (14 R391-R393, R404) -/

/-- Time that passes until a channel's next patrol read or training changes clocks alone where nothing waits. -/
theorem timed_clocks (hw : h.waits = []) (o : Option Nat) (f : Nat → Nat) :
    ∃ d p, (o.map fun t => h.advTo (f t)).getD h = { h with dev := d, ptp := p } := by
  cases o with
  | none => exact ⟨_, _, rfl⟩
  | some t => exact advTo_of_noWaits h (f t) hw

/-- A patrol read without error marks: the place moves on, and a pass that ends is counted. -/
theorem ddrPatrol_clean {q : Nat} {x : Hw} (b : Bool) (hw : h.waits = [])
    (hx : x = ((h.ddr q).scrubbed.map fun t => h.advTo (t + us * max 1 (h.fld DDR_SCRUB q 31 16))).getD h) (hon : h.en DDR_SCRUB q 0 = true)
    (hen : h.en DDR_CFG q 0 = true) (hself : h.ddrSelf q = false) (hm : h.marks = []) (hat : (h.ddr q).scrubAt < h.ddrEnd q) :
    h.ddrPatrol q b = if (h.ddr q).scrubAt + 64 < h.ddrEnd q
      then x.updDdr q fun v => { v with scrubAt := (h.ddr q).scrubAt + 64, scrubbed := some x.dev }
      else (x.updDdr q fun v => { v with scrubAt := 0, scrubbed := some x.dev }).inc DDR_SCRUB_PASS_CNT q := by
  obtain ⟨d, p, e⟩ := timed_clocks hw (h.ddr q).scrubbed fun t => t + us * max 1 (h.fld DDR_SCRUB q 31 16)
  rw [← hx] at e
  have hxm : x.marks = [] := by rw [e]; exact hm
  have hxat : x.ddr q = h.ddr q := by rw [e]; rfl
  rw [Hw.ddrPatrol, if_neg (by simp [hon, hen, hself]; omega)]
  extract_lets v a a' b' w n z
  have hv : v = x := by
    simp only [v, hx]
    cases (h.ddr q).scrubbed <;> rfl
  have ha : a' = (h.ddr q).scrubAt := by
    have ha : a = (h.ddr q).scrubAt := by rw [show a = (v.ddr q).scrubAt from rfl, hv, hxat]
    rw [show a' = if a < h.ddrEnd q then a else 0 from rfl, ha, if_pos hat]
  have hb : b'.1 = x := by rw [show b' = v.ddrBurst q a' from rfl, hv, ddrBurst_clean hxm]
  have hw' : w = x := by
    rw [show w = if b ∨ b'.2.contains none then b'.1 else b'.1.ddrScrubBack q a' from rfl, hb, ddrScrubBack_clean hxm, ite_self]
  simp only [z, n, hw', ha]
  split_ifs <;> rfl

/-- Training of a channel ends once its DPLL has lock. -/
theorem ddrTrained_eq {q : Nat} (ok : Bool) (htrain : (h.ddr q).training ≠ 0) (hlock : (h.ddr q).training = 2 ∨ h.pllLocked (4 + q) = true) :
    h.ddrTrained q ok = ((h.updDdr q fun x => { x with training := 0, trained := some h.dev }).setFlag DDR_STAT q 0 ok).setFlag DDR_STAT q 3 (!ok) := by
  refine if_neg ?_
  rintro (h0 | ⟨h1, hunlocked⟩)
  · exact htrain h0
  · simp [h1, hunlocked] at hlock

/-- Periodic training of a channel that is trained starts. -/
theorem ddrRetrain_starts {q : Nat} {x : Hw} (hx : x = ((h.ddr q).trained.map fun t => h.advTo (t + us * 100000 * h.fld DDR_TRAIN q 15 8)).getD h)
    (hon : h.flag DDR_TRAIN q 1 = true) (hdone : h.flag DDR_STAT q 0 = true) (hself : h.ddrSelf q = false) (hidle : (h.ddr q).training = 0) :
    h.ddrRetrain q = x.updDdr q fun v => { v with training := 2 } := by
  rw [Hw.ddrRetrain, if_neg (by simp [hon, hdone, hself, hidle])]
  extract_lets v
  have hv : v = x := by
    simp only [v, hx]
    cases (h.ddr q).trained <;> rfl
  rw [hv]

/-! ### Links that train and lose lock (14 R398) -/


theorem pllStart_regs (i : Nat) : (h.pllStart i).regs = h.regs := by
  unfold Hw.pllStart
  split <;> rfl

theorem reg_pllDrop_other {r : Rg} (hr : PLL_STAT ≠ r) (i u : Nat) : (h.pllDrop i).reg r u = h.reg r u := by
  unfold Hw.pllDrop
  split
  · rfl
  · exact reg_setReg_other _ _ _ _ hr

theorem pllDrop_reports (i : Nat) : (h.pllDrop i).reports = h.reports := by
  unfold Hw.pllDrop
  split <;> rfl

/-- What a link that has trained shows of it. -/
def Hw.scShown (h : Hw) (k pkg peer lat : Nat) (rev : Bool) (pol : Nat) : Hw :=
  (((((h.setFld SC_STAT k 1 0 2).setFlag SC_STAT k 4 rev).setFld SC_STAT k 8 5 pol).setFld SC_STAT k 24 16 lat).setReg SC_PEER k
    (w32 (pkg % 16 + peer % 8 * 16 + 256))).inc SC_RETRAIN_CNT k

/-- Its SC_STAT. -/
def scShownWord (w : Word) (lat : Nat) (rev : Bool) (pol : Nat) : Word :=
  setBits (setBits (setBits (setBits w 1 0 2) 4 4 (b2n rev)) 8 5 pol) 24 16 lat

section
variable (pkg peer lat : Nat) (rev : Bool) (pol : Nat)

theorem scShown_now : h.Now h [((SC_RETRAIN_CNT, k), satAdd32 (h.reg SC_RETRAIN_CNT k) 1), ((SC_PEER, k), w32 (pkg % 16 + peer % 8 * 16 + 256)),
    ((SC_STAT, k), scShownWord (h.reg SC_STAT k) lat rev pol)] (h.scShown k pkg peer lat rev pol) := by
  have nstat : h.Now h [((SC_STAT, k), scShownWord (h.reg SC_STAT k) lat rev pol)]
      ((((h.setFld SC_STAT k 1 0 2).setFlag SC_STAT k 4 rev).setFld SC_STAT k 8 5 pol).setFld SC_STAT k 24 16 lat) := by
    have n0 := (Hw.Now.intro h h rfl).setFld (r := SC_STAT) (u := k) rfl 1 0 2
    have n1 := (n0.setFld n0.head 4 4 (b2n rev)).drop
    have n2 := (n1.setFld n1.head 8 5 pol).drop
    exact (n2.setFld n2.head 24 16 lat).drop
  refine (nstat.set SC_PEER k _).inc ?_ 1
  rw [reg_setReg_other _ _ _ _ (by decide), nstat.2]
  rfl

/-- Its state is UP and its latency what was measured. -/
theorem scShown_state (hlat : lat < 2 ^ 9) : bits (scShownWord (h.reg SC_STAT k) lat rev pol) 1 0 = 2 ∧
    bits (scShownWord (h.reg SC_STAT k) lat rev pol) 24 16 = lat := by
  unfold scShownWord
  refine ⟨?_, ?_⟩
  · rw [bits_setBits_ne _ _ _ _ _ _ (by decide), bits_setBits_ne _ _ _ _ _ _ (by decide), bits_setBits_ne _ _ _ _ _ _ (by decide),
      bits_setBits _ _ _ _ (by decide) (by decide)]
    rfl
  · rw [bits_setBits _ _ _ _ (by decide) (by decide)]
    exact Nat.mod_eq_of_lt hlat

/-- The latency judged, once its flag has been cleared: the flag shows whether it exceeds D_SC, and where it does the link is raised. -/
theorem scJudged_now (hk : k < 32) (hlat : lat < 2 ^ 9) :
    h.Now (if h.dSc < lat then h.raiseLink fScLatOver k else h)
      [((FAB_STAT, 0), setBits (h.reg FAB_STAT) k k (b2n (decide (h.dSc < lat)))), ((SC_RETRAIN_CNT, k), satAdd32 (h.reg SC_RETRAIN_CNT k) 1),
        ((SC_PEER, k), w32 (pkg % 16 + peer % 8 * 16 + 256)), ((SC_STAT, k), scShownWord (h.reg SC_STAT k) lat rev pol)]
      (((h.scShown k pkg peer lat rev pol).setFlag FAB_STAT 0 k false).judgeLatency k) := by
  have n := scShown_now (h := h) (k := k) pkg peer lat rev pol
  generalize h.scShown k pkg peer lat rev pol = v at n
  have nclear := n.setFlag (n.other (r := FAB_STAT) rfl 0) k false
  generalize hw : v.setFlag FAB_STAT 0 k false = w at nclear
  have hstat : w.reg SC_STAT k = scShownWord (h.reg SC_STAT k) lat rev pol := nclear.named (l := [_, _, _]) rfl
  have hdsc : w.dSc = h.dSc := by rw [Hw.dSc, Hw.fld, nclear.other rfl, Hw.dSc, Hw.fld]
  have hwas : w.flag FAB_STAT 0 k = false := by rw [← hw, flag_setFlag_same _ _ _ hk]
  obtain ⟨hup, hshown⟩ := scShown_state (h := h) (k := k) lat rev pol hlat
  have hstate : w.scState k = 2 := by rw [Hw.scState, Hw.fld, hstat, hup]
  have hmeasured : w.fld SC_STAT k 24 16 = lat := by rw [Hw.fld, hstat, hshown]
  have nflag := (nclear.setFlag nclear.head k (decide (h.dSc < lat))).drop
  rw [setBits_setBits] at nflag
  simp only [Hw.judgeLatency, hstate, hdsc, hmeasured, hwas, decide_true, Bool.true_and, Bool.not_false, Bool.and_true, decide_eq_true_eq]
  split_ifs with hover
  · exact nflag.raise (nflag.other rfl 0) _ _
  · exact nflag

end

/-- A link as it is at the end of its training. -/
def LinkSt.trained (l : LinkSt) : LinkSt :=
  { l with wrong := false, lastTok := none, stepb := [], credQ := 64, credS := 64, retQ := 0, retS := 0, crq := 0, crs := 0 }

/-- Training completes in a package outside any array, which expects no peer. -/
theorem scTrained_alone (hstate : h.scState k = 1) (hlock : h.pllLocked (12 + k / 2) = true) (harray : h.arrayEn = false) (pkg peer lat : Nat)
    (rev : Bool) (pol : Nat) (hk : k < 32) (hlat : lat < 2 ^ 9) :
    h.scTrained k pkg peer lat rev pol = (((h.scShown k pkg peer lat rev pol).setFlag FAB_STAT 0 k false).judgeLatency k).updLink k LinkSt.trained := by
  have harray' : (((h.scShown k pkg peer lat rev pol).setFlag FAB_STAT 0 k false).judgeLatency k).arrayEn = false := by
    rw [Hw.arrayEn, Hw.flag, (scJudged_now pkg peer lat rev pol hk hlat).other rfl]
    exact harray
  rw [Hw.scTrained, if_neg (by simp [hstate, hlock])]
  extract_lets v w x bad y
  have hx : x = ((h.scShown k pkg peer lat rev pol).setFlag FAB_STAT 0 k false).judgeLatency k := rfl
  have hbad : bad = false := by
    rw [show bad = (x.arrayEn && _) from rfl, hx, harray', Bool.false_and]
  simp only [y, hbad, hx]
  rfl

/-- A link that is UP loses block lock. -/
def Hw.scDown (h : Hw) (k : Nat) : Hw :=
  (((h.setFld SC_STAT k 1 0 3).inc SC_LINK_DOWN_CNT k).raiseLink fScLinkDown k).updLink k fun x => { x with innAsm := [], lost := [], stepb := [] }

theorem scDown_now : h.Now ((h.raiseLink fScLinkDown k).updLink k fun x => { x with innAsm := [], lost := [], stepb := [] })
    [((SC_LINK_DOWN_CNT, k), satAdd32 (h.reg SC_LINK_DOWN_CNT k) 1), ((SC_STAT, k), setBits (h.reg SC_STAT k) 1 0 3)] (h.scDown k) := by
  have n0 := (Hw.Now.intro h h rfl).setFld (r := SC_STAT) (u := k) rfl 1 0 3
  have n1 := n0.inc (n0.other (r := SC_LINK_DOWN_CNT) rfl k) 1
  exact (n1.raise (n1.other rfl 0) _ _).onRest (fun v => v.updLink k fun x => { x with innAsm := [], lost := [], stepb := [] }) fun _ _ => rfl

theorem scLose_eq (hstate : h.scState k = 2) : h.scLose k =
    if h.flag SC_CTRL k 1 = true ∧ h.lic 1 = true then ((h.scDown k).setFld SC_STAT k 1 0 1).pllStart (12 + k / 2)
    else (h.scDown k).pllDrop (12 + k / 2) := by
  have hauto : (h.scDown k).flag SC_CTRL k 1 = h.flag SC_CTRL k 1 := by rw [Hw.flag, scDown_now.other rfl, Hw.flag]
  have hlic : (h.scDown k).lic 1 = h.lic 1 := by rw [Hw.lic, Hw.flag, scDown_now.other rfl, Hw.lic, Hw.flag]
  rw [Hw.scLose, if_neg (by simp [hstate])]
  change (if (h.scDown k).flag SC_CTRL k 1 = true ∧ (h.scDown k).lic 1 = true then _ else _) = _
  rw [hauto, hlic]
  rfl

end

/-! ### Saune-D calibration (14 R394) -/

section
variable {h : Hw} {q : Nat}

/-- An edge without failing lanes. -/
theorem sdEdge_good {e : Nat} (hfirst : h.flag SD_STAT q (8 * e) = false) : h.sdEdge q e 0 = h.setFld SD_STAT q (8 * e + 7) (8 * e) 1 := by
  rw [Hw.sdEdge, if_neg (by simp [hfirst])]
  rfl

/-- One with one failing lane, which the spare replaces. -/
theorem sdEdge_spared {e : Nat} (hfirst : h.flag SD_STAT q (8 * e) = false) :
    h.sdEdge q e 4 = (h.setFld SD_STAT q (8 * e + 7) (8 * e) 3).inc SD_CAL_CNT q := by
  rw [Hw.sdEdge, if_neg (by simp [hfirst])]
  rfl

/-- One with two: the second is raised, and what uses the quadrant is to be reloaded. -/
theorem sdEdge_raised {e : Nat} (hfirst : h.flag SD_STAT q (8 * e) = false) :
    h.sdEdge q e 3 = (((h.setFld SD_STAT q (8 * e + 7) (8 * e) 11).inc SD_CAL_CNT q).raiseQ fSdLane q e).askReload
      ((List.range 16).map fun c => 16 * q + c) := by
  rw [Hw.sdEdge, if_neg (by simp [hfirst])]
  rfl

/-- An edge's word of SD_STAT leaves the other edge's as it is. -/
theorem flag_sdStat {w : Word} (x : Nat) : bit (setBits w 7 0 x) 8 = bit w 8 := bit_setBits_ne w 7 0 x 8 (by decide)

end

/-! ### The statement -/

section
variable (s : State) (q : Quad) (k : Link)

theorem exec_ddrRequestAccept (l : List DdrReq) : exec (.ddrRequestAccept q l) s = s.onHw fun h => h.ddrAccept q l := rfl
theorem exec_ddrRefresh (b : Bool) : exec (.ddrRefresh q b) s = s.onHw fun h => if h.ddrSelf q then h else h.setFlag DDR_STAT q 2 b := rfl
theorem exec_ddrPatrolScrub (b : Bool) : exec (.ddrPatrolScrub q b) s = s.onHw fun h => h.ddrPatrol q b := rfl
theorem exec_ddrPeriodicRetrain : exec (.ddrPeriodicRetrain q) s = s.onHw fun h => h.ddrRetrain q := rfl
theorem exec_ddrTrainingComplete (ok : Bool) : exec (.ddrTrainingComplete q ok) s = s.onHw fun h => h.ddrTrained q ok := rfl
theorem exec_ddrSelfRefreshExit : exec (.ddrSelfRefreshExit q) s =
    s.onAo fun h => if h.ddrSelf q ∧ h.mayExitSelf then h.ddrSelfExit q else h := rfl
theorem exec_sdCalibration (a b : BitVec 4) : exec (.sdCalibration q a b) s = s.onHw fun h => (h.sdEdge q 0 a.toNat).sdEdge q 1 b.toNat := rfl
theorem exec_scUaChange (ua : Bool) : exec (.scUaChange k ua) s = s.onHw fun h => h.setFlag SC_STAT k 2 ua := rfl
theorem exec_scTrainingComplete (g : Fin 16) (peer : Link) (lat : BitVec 9) (rev : Bool) (pol : BitVec 4) :
    exec (.scTrainingComplete k g peer lat rev pol) s = s.onHw fun h => h.scTrained k g peer lat.toNat rev pol.toNat := rfl
theorem exec_scBlockLockLoss : exec (.scBlockLockLoss k) s = s.onHw fun h => h.scLose k := rfl
theorem exec_scGroupRx (f : Fin 3) (l : List ScBlock) : exec (.scGroupRx k f l) s = s.onHw fun h => h.scGroup k f l := rfl

end

/-- Settles O58: requests by what the channel performs, scrub and training by the block at their time, and links by the words they leave. -/
theorem ddrChannelsAndSauneLinks : Obligations.DdrChannelsAndSauneLinks := by
  refine ⟨?write, ?read, ?selfRefresh, ?beyond, ?refresh, ?asleep, ?scrub, ?pass, ?wake, ?awake, ?trained, ?untrained, ?retrain, ?calGood, ?calBad,
    ?ua, ?up, ?notTraining, ?autoRetrain, ?down, ?notUp, ?credits, ?uncorrectable⟩
  case write =>
    intro s q r v p hp hwait hself hfull hend hm hwr hat
    obtain ⟨g, e, hg, hgw⟩ := ddrAccept_performs hwait (.inr hfull)
    have hgself : g.ddrSelf q = false := by rw [hg]; exact hself
    have hgend : r.addr.toNat < g.ddrEnd q := by rw [hg]; exact hend
    have hgm : (g.ddrQueue q r.addr.toNat true).marks = [] := by
      rw [hg]
      exact hm
    obtain ⟨m, k, ew, hword, hbyte⟩ := ddrWrite_leaves (q := q) hgm r.addr.toNat v r.be.toNat
    refine answers_onHw (exec_ddrRequestAccept s q [r]) hp ?_
    rw [e, ddrPerform_write hgself hgend hwr]
    subst hat
    refine ⟨?_, rfl, ?_, fun a ha => ?_, ?_⟩
    · refine hword.trans ?_
      rw [hg]
      rfl
    · rw [ew, hg]
      rfl
    · refine (hbyte a ha).trans ?_
      rw [hg]
      rfl
    · rw [ew]
      exact (waiting_ddrQueue _ _).trans hgw
  case read =>
    intro s q r hp hwait hself hfull hend hm hwr
    obtain ⟨g, e, hg, hgw⟩ := ddrAccept_performs hwait (.inr hfull)
    have hgself : g.ddrSelf q = false := by rw [hg]; exact hself
    have hgend : r.addr.toNat < g.ddrEnd q := by rw [hg]; exact hend
    have hgm : g.marks = [] := by rw [hg]; exact hm
    refine answers_onHw (exec_ddrRequestAccept s q [r]) hp ?_
    rw [e, ddrPerform_read hgself hgend hwr hgm]
    refine ⟨?_, ?_, ?_, (waiting_ddrQueue _ _).trans hgw⟩ <;> rw [hg] <;> rfl
  case selfRefresh =>
    intro s q r hp hwait hself
    obtain ⟨g, e, hg, -⟩ := ddrAccept_performs (r := r) hwait (.inl hself)
    have hgself : g.ddrSelf q = true := by rw [hg]; exact hself
    refine answers_onHw (exec_ddrRequestAccept s q [r]) hp ?_
    rw [e, ddrPerform_self hgself]
    refine ⟨rfl, by rw [hg]; rfl, (reg_inc_same g _ _ _).trans ?_⟩
    rw [hg]
    rfl
  case beyond =>
    intro s q r hp hwait hself hfull hend
    obtain ⟨g, e, hg, -⟩ := ddrAccept_performs hwait (.inr hfull)
    have hgself : g.ddrSelf q = false := by rw [hg]; exact hself
    have hgend : g.ddrEnd q ≤ r.addr.toNat := by rw [hg]; exact hend
    refine answers_onHw (exec_ddrRequestAccept s q [r]) hp ?_
    rw [e, ddrPerform_beyond hgself hgend]
    refine ⟨rfl, by rw [hg]; rfl, (reg_inc_same g _ _ _).trans ?_⟩
    rw [hg]
    rfl
  case refresh =>
    intro s q hot hp hself
    exact answers_onHw (exec_ddrRefresh s q hot) hp (by rw [if_neg (by simp [hself])]; exact now_setFlag _ _ _ _ _)
  case asleep =>
    intro s q b hself
    refine ⟨ignored_of_same (exec_ddrRefresh s q b) (if_pos hself), ignored_of_same (exec_ddrPatrolScrub s q b) (if_pos ?_),
      ignored_of_same (exec_ddrPeriodicRetrain s q) (if_pos ?_)⟩
    · exact .inr (.inr (.inl hself))
    · exact .inr (.inr (.inl hself))
  case scrub =>
    intro s q b x hp hw hx hon hen hself hm hroom
    have hat : (x.ddr q).scrubAt = (s.hw.ddr q).scrubAt := by
      obtain ⟨d, p, e⟩ := timed_clocks hw (s.hw.ddr q).scrubbed fun t => t + us * max 1 (s.hw.fld DDR_SCRUB q 31 16)
      rw [hx, e]
      rfl
    refine answers_onHw (exec_ddrPatrolScrub s q b) hp ?_
    rw [ddrPatrol_clean b hw hx hon hen hself hm (by omega), if_pos hroom, Hw.updDdr, Hw.updDdr, hat]
  case pass =>
    intro s q b x hp hw hx hon hen hself hm hlast
    have hregs : x.regs = s.hw.regs := by
      obtain ⟨d, p, e⟩ := timed_clocks hw (s.hw.ddr q).scrubbed fun t => t + us * max 1 (s.hw.fld DDR_SCRUB q 31 16)
      rw [hx, e]
    refine answers_onHw (exec_ddrPatrolScrub s q b) hp ?_
    rw [ddrPatrol_clean b hw hx hon hen hself hm (by omega), if_neg (by omega)]
    exact (Hw.Now.intro s.hw (x.updDdr q fun v => { v with scrubAt := 0, scrubbed := some x.dev }) hregs).inc (reg_of_regs _ _ _ _ hregs) 1
  case wake =>
    intro s q hself hmay
    refine answers_onAo (exec_ddrSelfRefreshExit s q) ?_
    rw [if_pos ⟨hself, hmay⟩]
    refine ⟨rfl, fun r u => ?_⟩
    rw [Hw.ddrSelfExit, reg_of_regs _ _ _ _ (pllStart_regs _), (now_setFlag s.hw DDR_STAT q 1 false).2]
    rfl
  case awake =>
    intro s q hself
    rw [Ignored, exec_ddrSelfRefreshExit, State.onAo, if_neg (by simp [hself])]
  case trained =>
    intro s q ok hp htrain hlock
    refine answers_onHw (exec_ddrTrainingComplete s q ok) hp ?_
    rw [ddrTrained_eq ok htrain hlock]
    have n := (Hw.Now.intro s.hw (s.hw.updDdr q fun x => { x with training := 0, trained := some s.hw.dev }) rfl).setFlag (r := DDR_STAT) (u := q) rfl 0 ok
    exact (n.setFlag n.head 3 (!ok)).drop
  case untrained => exact fun s q ok hidle => ignored_of_same (exec_ddrTrainingComplete s q ok) (if_pos (.inl hidle))
  case retrain =>
    intro s q x hp hw hx hon hdone hself hidle
    exact answers_onHw (exec_ddrPeriodicRetrain s q) hp (ddrRetrain_starts hx hon hdone hself hidle)
  case calGood =>
    intro s q hp h0 h8
    have h8' : (s.hw.setFld SD_STAT q 7 0 1).flag SD_STAT q (8 * 1) = false := by rw [Hw.flag, reg_setFld_same, flag_sdStat]; exact h8
    refine answers_onHw (exec_sdCalibration s q 0#4 0#4) hp ?_
    rw [show (0#4).toNat = 0 from rfl, sdEdge_good (e := 0) h0, sdEdge_good h8']
    have n := (Hw.Now.intro s.hw s.hw rfl).setFld (r := SD_STAT) (u := q) rfl 7 0 1
    exact (n.setFld n.head 15 8 1).drop
  case calBad =>
    intro s q hp h0 h8
    have n0 := (Hw.Now.intro s.hw s.hw rfl).setFld (r := SD_STAT) (u := q) rfl 7 0 11
    have n1 := n0.inc (n0.other (r := SD_CAL_CNT) rfl q) 1
    have n2 := n1.raise (n1.other rfl 0) (srcQ fSdLane q) (.quad (Fin.ofNat 4 q) 0)
    have n3 : s.hw.Now ((s.hw.raiseQ fSdLane q 0).askReload ((List.range 16).map fun c => 16 * q + c))
        [((SD_CAL_CNT, q), satAdd32 (s.hw.reg SD_CAL_CNT q) 1), ((SD_STAT, q), setBits (s.hw.reg SD_STAT q) 7 0 11)] (s.hw.sdEdge q 0 3) := by
      rw [sdEdge_raised (e := 0) h0]
      exact n2.askReload (fun r hr => n2.other (by obtain ⟨page, off⟩ := r; cases hr; rfl) 0) _
    refine answers_onHw (exec_sdCalibration s q 3#4 4#4) hp ?_
    rw [show (3#4).toNat = 3 from rfl, show (4#4).toNat = 4 from rfl]
    generalize s.hw.sdEdge q 0 3 = t at n3 ⊢
    have hstat := n3.named (l := [_]) rfl
    have h8' : t.flag SD_STAT q (8 * 1) = false := by rw [Hw.flag, hstat, flag_sdStat]; exact h8
    rw [sdEdge_spared h8']
    have n4 := (n3.setFld hstat 15 8 3).shadowed (l := [_, _]) (by rw [List.lookup_cons_self]; rfl)
    have n5 := (n4.inc (n4.named (l := [_]) rfl) 1).shadowed (l := [_, _]) (by rw [List.lookup_cons_self]; rfl)
    exact n5.perm (.swap _ _ _) (by decide : [SD_CAL_CNT, SD_STAT].Nodup)
  case ua => exact fun s k ua hp => answers_onHw (exec_scUaChange s k ua) hp (now_setFlag _ _ _ _ _)
  case up =>
    intro s k peer g lat rev pol hp hstate hlock harray
    refine answers_onHw (exec_scTrainingComplete s k g peer lat rev pol) hp ?_
    have hk : k.val < 32 := by omega
    rw [scTrained_alone hstate hlock harray _ _ _ _ _ hk lat.isLt]
    have n := (scJudged_now (h := s.hw) g.val peer.val lat.toNat rev pol.toNat hk lat.isLt).onRest (fun v => v.updLink k LinkSt.trained) fun _ _ => rfl
    rw [Nat.mod_eq_of_lt g.isLt, Nat.mod_eq_of_lt peer.isLt] at n
    exact n.perm (List.reverse_perm _).symm (by decide : [FAB_STAT, SC_RETRAIN_CNT, SC_PEER, SC_STAT].Nodup)
  case notTraining =>
    exact fun s k peer g lat rev pol hstate => ignored_of_same (exec_scTrainingComplete s k g peer lat rev pol) (if_pos (.inl hstate))
  case autoRetrain =>
    intro s k hp hstate hauto hlic
    refine answers_onHw (exec_scBlockLockLoss s k) hp ?_
    rw [scLose_eq hstate, if_pos ⟨hauto, hlic⟩]
    have hdown := scDown_now (h := s.hw) (k := k)
    have ntrain := (hdown.setFld (hdown.named (l := [_]) rfl) 1 0 1).shadowed (l := [_, _]) (l' := []) (by rw [List.lookup_cons_self]; rfl)
    have n0 := (Hw.Now.intro s.hw s.hw rfl).setFld (r := SC_STAT) (u := k) rfl 1 0 1
    have ng := (n0.raise (n0.other rfl 0) (srcQ fScLinkDown (k / 2)) (.link (Fin.ofNat 8 k))).onRest
      (fun v => v.updLink k fun x => { x with innAsm := [], lost := [], stepb := [] }) fun _ _ => rfl
    have htrain {w : Word} : bits (setBits w 1 0 1) 1 0 = 1 := bits_setBits w 1 0 1 (by decide) (by decide)
    refine (ntrain.base ng.1).pllStart ?_ ?_
    · rw [pllNeeded_sc k (by rw [Hw.fld, ntrain.head, htrain]), pllNeeded_sc k (by rw [Hw.fld, ng.head, htrain])]
    · rw [Hw.flag, ntrain.other rfl, Hw.flag, ng.other rfl]
  case down =>
    intro s k hp hstate hauto
    refine answers_onHw (exec_scBlockLockLoss s k) hp ?_
    rw [scLose_eq hstate, if_neg (by simp [hauto])]
    have n := scDown_now (h := s.hw) (k := k)
    refine ⟨?_, ?_, ?_⟩
    · rw [reg_pllDrop_other (by decide)]
      exact n.named (l := [_]) rfl
    · rw [reg_pllDrop_other (by decide), n.head]
    · rw [pllDrop_reports]
      exact n.rest Hw.reports fun _ _ => rfl
  case notUp =>
    intro s k hstate
    refine ⟨ignored_of_same (exec_scBlockLockLoss s k) (if_pos hstate), fun f l => ignored_of_same (exec_scGroupRx s k f l) (if_pos ?_)⟩
    simp [Hw.scUp, hstate]
  case credits =>
    intro s k b hp hup hsch hdrip htok hstepb hua
    obtain ⟨t, e, hlinks, hlink⟩ := scBlocks_credits hsch hdrip htok hstepb hua 4
    refine answers_onHw (exec_scGroupRx s k 0 (List.replicate 5 b)) hp ?_
    have hgroup : s.hw.scGroup k (0 : Fin 3) (List.replicate 5 b) = t := by
      rw [Hw.scGroup, if_neg (by simp [hup])]
      exact e
    rw [hgroup]
    exact ⟨hlink, congrArg (fun v : Hw => { v with regs := s.hw.regs }) hlinks, fun r u => reg_of_regs _ _ r u (congrArg Hw.regs hlinks :)⟩
  case uncorrectable =>
    intro s k b hp hup hsch hdrip
    refine answers_onHw (exec_scGroupRx s k 2 (List.replicate 5 b)) hp ?_
    have hgroup : s.hw.scGroup k (2 : Fin 3) (List.replicate 5 b) = (s.hw.inc SC_FEC_UE_CNT k).raiseLink fScFecUe k := by
      rw [Hw.scGroup, if_neg (by simp [hup]), if_pos (show (2 : Fin 3).val = 2 from rfl)]
      simp [List.replicate, scLost_empty hsch hdrip]
    rw [hgroup]
    have n := (Hw.Now.intro s.hw s.hw rfl).inc (r := SC_FEC_UE_CNT) (u := k) rfl 1
    exact n.raise (n.other rfl 0) _ _

end Sys2Proof.Machine
end

section
/-! SUPPORT. The dispatch of a gPTP frame under the storm guard of its port's interrupt (13 R354, 17 R474), against the statement on Ethernet
ports. -/

namespace Sys2Proof.Machine

/-- A gPTP frame. -/
def gptpRxFrame : RxFrame := { etype := etGptp }

/-- The frame is the only one in the receive buffer of ETH0, and the guard of the port's gPTP interrupt runs, opened with the level low. -/
def guardedGptpState : State := { pending := [], hw := { eths := [(0, { rx := [gptpRxFrame] })], flt := { guard := [(8, 1)] } } }

theorem exec_rxDispatch (q : Quad) (s : State) : exec (.rxDispatch q) s = s.onPort q fun h => h.rxDispatch q := rfl

theorem guardedGptpState_powered : guardedGptpState.hw.powered = true := by decide

/-- The frame that firmware is given raises the level in the guard window, which is then spent. -/
theorem guardedGptpState_guard : (guardedGptpState.hw.rxDispatch 0).flt.guard = [(8, 2)] := by decide

/-- Refutes O59: a gPTP frame that is dispatched raises the level of its port's interrupt, and where the storm guard of that source watches, the
guard takes note of the rise and the storm count goes up (17 R474). The clause on gPTP frames leaves both as they were. -/
theorem not_ethernetPorts : ¬ Obligations.EthernetPorts := by
  rintro ⟨-, -, -, hdispatch, -⟩
  obtain ⟨hgptp, -⟩ := hdispatch guardedGptpState 0 gptpRxFrame [] _ (.inl guardedGptpState_powered) rfl rfl
  obtain ⟨t, ht, -, -, hnow, -⟩ := hgptp rfl (by decide)
  have hexec : exec (.rxDispatch 0) guardedGptpState = .next { guardedGptpState with hw := guardedGptpState.hw.rxDispatch 0 } :=
    (exec_rxDispatch 0 guardedGptpState).trans (onPort_powered _ _ _ guardedGptpState_powered)
  rw [hexec, Host.Outcome.next.injEq] at ht
  subst ht
  have hguard : (guardedGptpState.hw.rxDispatch 0).flt.guard = [(8, 1)] := congrArg (fun h => h.flt.guard) hnow
  rw [guardedGptpState_guard] at hguard
  cases hguard

end Sys2Proof.Machine
end

section
/-! SUPPORT. Sessions, requests, operations and messages of the register control protocol, and the statement on it (13 R365-R372). -/

namespace Sys2Proof.Machine

/-! ### Commands of a port that runs (13 R363) -/

section
variable {s : State} {q : Nat} {i : Instr} {f : Hw → Hw}

/-- What a command of a port answers where the package has power or the port is kept. -/
theorem answers_ofPort {P : Hw → Prop} (hi : exec i s = s.onPort q f) (hp : s.hw.powered = true ∨ s.hw.kept q = true) (h : P (f s.hw)) :
    Answers i s P := by
  have hup : (s.hw.powered || s.hw.kept q) = true := by simpa using hp
  exact ⟨{ s with hw := f s.hw }, hi.trans (by rw [State.onPort, if_pos hup]), rfl, h⟩

theorem ignored_ofPort (hi : exec i s = s.onPort q f) (hf : f s.hw = s.hw) : Ignored i s := by
  rw [Ignored, hi, State.onPort, hf, ite_self]

end

/-! ### A port's state -/

section
variable {h : Hw} {q j : Nat}

theorem eth_updEth (f : EthSt → EthSt) : (h.updEth q f).eth j = if q = j then f (h.eth q) else h.eth j := Tbl.get_set ..

@[simp] theorem eth_updEth_same (f : EthSt → EthSt) : (h.updEth q f).eth q = f (h.eth q) := Tbl.get_set_same ..

theorem updEth_regs (f : EthSt → EthSt) : (h.updEth q f).regs = h.regs := rfl

/-- A session written. -/
theorem session_putSession (i j : Nat) (v : Session) : (h.putSession q i v).session q j = if i = j then some v else h.session q j := by
  rw [Hw.session, Hw.putSession, eth_updEth_same, Tbl.find_put, Hw.session]

end

/-- Blocks that differ in what waits for transmission, and in the counter of what a link that is down drops. -/
structure Hw.SendOnly (h t : Hw) : Prop where
  rest : t = { h with eths := t.eths, regs := t.regs }
  eth : ∀ j, ∃ a b, t.eth j = { h.eth j with tq := a, txWait := b }
  reg : ∀ r u, TX_LINKDOWN_DROP_CNT ≠ r → t.reg r u = h.reg r u

section
variable {h t : Hw} {q : Nat}

theorem txPush_sendOnly (tq : Nat) (f : TxFrame) : h.SendOnly (h.txPush q tq f) := by
  have hsame (j : Nat) : ∃ a b, h.eth j = { h.eth j with tq := a, txWait := b } := ⟨_, _, rfl⟩
  have hupd (g : EthSt → EthSt) (hg : ∃ a b, g (h.eth q) = { h.eth q with tq := a, txWait := b }) (j : Nat) :
      ∃ a b, (h.updEth q g).eth j = { h.eth j with tq := a, txWait := b } := by
    rw [eth_updEth]
    split
    · next e => exact e ▸ hg
    · exact hsame j
  unfold Hw.txPush
  split
  · exact ⟨rfl, hsame, fun r u hr => reg_inc_ne _ _ _ _ _ _ fun e => hr e.1⟩
  · extract_lets l
    split
    · exact ⟨rfl, hupd _ ⟨_, _, rfl⟩, fun _ _ _ => rfl⟩
    · exact ⟨rfl, hupd _ ⟨_, _, rfl⟩, fun _ _ _ => rfl⟩

theorem rcpSend_sendOnly (mac : Nat) (p : List Byte) : h.SendOnly (h.rcpSend q mac p) := txPush_sendOnly _ _

theorem rcpPlain_sendOnly (i kind : Nat) (seq : Word) (status : Nat) : h.SendOnly (h.rcpPlain q i kind seq status) := by
  unfold Hw.rcpPlain
  split
  · exact ⟨rfl, fun _ => ⟨_, _, rfl⟩, fun _ _ _ => rfl⟩
  · exact rcpSend_sendOnly _ _

section
variable (x : h.SendOnly t)
include x

theorem Hw.SendOnly.sessions (j : Nat) : (t.eth j).sessions = (h.eth j).sessions := by obtain ⟨a, b, e⟩ := x.eth j; rw [e]
theorem Hw.SendOnly.session (j i : Nat) : t.session j i = h.session j i := by rw [Hw.session, x.sessions, Hw.session]
theorem Hw.SendOnly.rcpIn (j : Nat) : (t.eth j).rcpIn = (h.eth j).rcpIn := by obtain ⟨a, b, e⟩ := x.eth j; rw [e]
theorem Hw.SendOnly.reqs (j : Nat) : (t.eth j).reqs = (h.eth j).reqs := by obtain ⟨a, b, e⟩ := x.eth j; rw [e]
theorem Hw.SendOnly.ports (j : Nat) : (t.eth j).ports = (h.eth j).ports := by obtain ⟨a, b, e⟩ := x.eth j; rw [e]
theorem Hw.SendOnly.eps : t.eps = h.eps := by rw [x.rest]
theorem Hw.SendOnly.mem : t.mem = h.mem := by rw [x.rest]
theorem Hw.SendOnly.cores : t.cores = h.cores := by rw [x.rest]
theorem Hw.SendOnly.fresh : t.fresh = h.fresh := by rw [x.rest]
theorem Hw.SendOnly.dev : t.dev = h.dev := by rw [x.rest]

end
end

/-! ### Operations (13 R367, R368) -/

section
variable {h g : Hw} {q op : Nat} {r : RcpReq} {act : RcpReq → List Word → Hw → Hw × Option OpEnd} (hreq : (h.eth q).reqs.head? = some r)
  (hleft : opsLeft r = true) (hop : bits (r.ops.headD 0#32) 31 28 = op)
include hreq hleft hop

/-- The operation at the head that ends. -/
theorem withOp_ended {o : OpEnd} (hact : act r r.ops h = (g, some o)) : h.withOp q op act = g.opEnded q o := by
  obtain ⟨l, hl⟩ := List.head?_eq_some_iff.1 hreq
  rw [Hw.withOp, hl]
  simp only [hleft, hop, hact]
  exact if_neg (by simp)

/-- One that goes on. -/
theorem withOp_goesOn (hact : act r r.ops h = (g, none)) : h.withOp q op act = g := by
  obtain ⟨l, hl⟩ := List.head?_eq_some_iff.1 hreq
  rw [Hw.withOp, hl]
  simp only [hleft, hop, hact]
  exact if_neg (by simp)

end

section
variable {s : State} {g : Hw} {q op : Nat} {r : RcpReq} {i : Instr} {act : RcpReq → List Word → Hw → Hw × Option OpEnd}
  (hi : exec i s = s.onPort q fun h => h.withOp q op act) (hr : s.Runs q r op)
include hi hr

theorem answers_opEnded {o : OpEnd} (hact : act r r.ops s.hw = (g, some o)) : Answers i s (· = g.opEnded q o) := by
  obtain ⟨hp, hreq, hleft, hop⟩ := hr
  exact answers_ofPort hi hp (withOp_ended hreq hleft hop hact)

theorem answers_opGoesOn (hact : act r r.ops s.hw = (g, none)) : Answers i s (· = g) := by
  obtain ⟨hp, hreq, hleft, hop⟩ := hr
  exact answers_ofPort hi hp (withOp_goesOn hreq hleft hop hact)

end

/-- A channel operation whose millisecond is over ends, its handle given up where it opens or closes one. -/
theorem chanTimeout_ends {h g : Hw} {q n o : Nat} {r : RcpReq} (hreq : (h.eth q).reqs.head? = some r) (hleft : opsLeft r = true)
    (hop : bits (r.ops.headD 0#32) 31 28 = o) (ho : o = oOPEN ∨ o = oSEND ∨ o = oCLOSE) (hsince : r.since = some n)
    (hg : g = (h.advTo (n + 1000 * us)).loseTicket (gateway q) r.tkt) :
    h.chanTimeout q = (if ((h.advTo (n + 1000 * us)).ticket (gateway q) r.tkt).op = 1 ∨ ((h.advTo (n + 1000 * us)).ticket (gateway q) r.tkt).op = 3
      then (g.setHandle (gateway q) ((h.advTo (n + 1000 * us)).ticket (gateway q) r.tkt).handle {}).updEth q fun e =>
        { e with owner := Tbl.set 0 e.owner ((h.advTo (n + 1000 * us)).ticket (gateway q) r.tkt).handle 0 }
      else g).opEnded q { status := 4 } := by
  obtain ⟨l, hl⟩ := List.head?_eq_some_iff.1 hreq
  rw [Hw.chanTimeout, hl]
  simp only [hsince, hop, if_pos ho]
  refine withOp_ended hreq hleft hop ?_
  rw [hg]

/-- A channel operation that is posted and whose ticket waits. -/
theorem chanOp_posted {h : Hw} {q : Nat} {r : RcpReq} {post : Hw → Hw × Word} {x : Hw × Word} (hsince : r.since = none) (hx : x = post h)
    (hticket : x.2 ≠ noTicket) (hst : (x.1.ticket (gateway q) x.2.toNat).st = 0) (done : Hw → Nat → Hw × List Word) :
    h.chanOp q r post done = (x.1.opSince q x.2.toNat, none) := by
  have hst' : ((x.1.opSince q x.2.toNat).ticket (gateway q) x.2.toNat).st = 0 := hst
  rw [Hw.chanOp, hsince]
  simp only [← hx, if_neg hticket, hst', if_true]

/-! ### What the gateway's channels may change (07 R223-R228) -/

/-- No wait in progress counts failed sessions. -/
def Hw.FailsUncounted (h : Hw) : Prop := ∀ p ∈ h.waits, (⟨p.2.page, p.2.off⟩ : Rg) ≠ RCP_SESS_FAIL_CNT

theorem Hw.FailsUncounted.of_nil {h : Hw} (hw : h.waits = []) : h.FailsUncounted := by simp [Hw.FailsUncounted, hw]

/-- From h to t sessions, received frames, reports and the count of failed sessions stay. -/
structure Hw.GatewayOnly (h t : Hw) : Prop where
  reports : t.reports = h.reports
  eth : ∀ j, (t.eth j).sessions = (h.eth j).sessions ∧ (t.eth j).rcpIn = (h.eth j).rcpIn
  waits : h.FailsUncounted → t.FailsUncounted
  fails : h.FailsUncounted → ∀ u, t.reg RCP_SESS_FAIL_CNT u = h.reg RCP_SESS_FAIL_CNT u

namespace Hw.GatewayOnly

theorem refl (h : Hw) : h.GatewayOnly h := ⟨rfl, fun _ => ⟨rfl, rfl⟩, id, fun _ _ => rfl⟩

section
variable {h t : Hw} (x : h.GatewayOnly t)
include x

theorem trans {v : Hw} (y : t.GatewayOnly v) : h.GatewayOnly v :=
  ⟨y.reports.trans x.reports, fun j => ⟨(y.eth j).1.trans (x.eth j).1, (y.eth j).2.trans (x.eth j).2⟩, fun w => y.waits (x.waits w),
    fun w u => (y.fails (x.waits w) u).trans (x.fails w u)⟩

theorem foldl {α : Type} {f : Hw → α → Hw} (hf : ∀ (v : Hw) a, v.GatewayOnly (f v a)) (l : List α) : h.GatewayOnly (l.foldl f t) := by
  induction l generalizing t with
  | nil => exact x
  | cons a r ih => exact ih (x.trans (hf t a))

/-! #### Elementary updates -/

theorem updCl (c : Nat) (f : ClusterSt → ClusterSt) : h.GatewayOnly (t.updCl c f) := x.trans ⟨rfl, fun _ => ⟨rfl, rfl⟩, id, fun _ _ => rfl⟩
theorem updEp (e : Nat) (f : EpSt → EpSt) : h.GatewayOnly (t.updEp e f) := x.trans ⟨rfl, fun _ => ⟨rfl, rfl⟩, id, fun _ _ => rfl⟩
theorem setTicket (e i : Nat) (v : Ticket) : h.GatewayOnly (t.setTicket e i v) := x.updEp _ _
theorem setHandle (e i : Nat) (v : Handle) : h.GatewayOnly (t.setHandle e i v) := x.updEp _ _
theorem setPort (e p : Nat) (v : Listener) : h.GatewayOnly (t.setPort e p v) := x.updEp _ _

theorem inc (r : Rg) (u n : Nat) (hr : r ≠ RCP_SESS_FAIL_CNT) : h.GatewayOnly (t.inc r u n) :=
  x.trans ⟨rfl, fun _ => ⟨rfl, rfl⟩, id, fun _ _ => reg_inc_ne _ _ _ _ _ _ fun e => hr e.1⟩

/-- A change of a port's state that leaves its sessions and what it has received. -/
theorem updEth (q : Nat) (f : EthSt → EthSt) (hf : ∀ e, (f e).sessions = e.sessions ∧ (f e).rcpIn = e.rcpIn) : h.GatewayOnly (t.updEth q f) := by
  refine x.trans ⟨rfl, fun j => ?_, id, fun _ _ => rfl⟩
  rw [eth_updEth]
  split
  · next e => exact e ▸ hf _
  · exact ⟨rfl, rfl⟩

theorem countWait {key : Nat} {w : Wait} (hw : t.FailsUncounted → (⟨w.page, w.off⟩ : Rg) ≠ RCP_SESS_FAIL_CNT) (n : Nat) :
    h.GatewayOnly (t.countWait key w n) := by
  unfold Hw.countWait
  extract_lets m
  split
  · exact x
  · have hreg (hfail : t.FailsUncounted) (u : Nat) : (t.inc ⟨w.page, w.off⟩ w.unit m).reg RCP_SESS_FAIL_CNT u = t.reg RCP_SESS_FAIL_CNT u :=
      reg_inc_ne _ _ _ _ _ _ fun e => hw hfail e.1
    refine x.trans ⟨rfl, fun _ => ⟨rfl, rfl⟩, fun hfail p hp => ?_, hreg⟩
    obtain rfl | hold := Tbl.mem_put _ _ _ _ hp
    · exact hw hfail
    · exact hfail p hold

theorem waitOn (r : Rg) (u per who : Nat) (hr : r ≠ RCP_SESS_FAIL_CNT) : h.GatewayOnly (t.waitOn r u per who) := by
  refine x.countWait (fun hfail => ?_) _
  cases hfound : Tbl.find t.waits (waitKey r u who) with
  | none => exact hr
  | some w => exact hfail _ (Tbl.mem_of_find hfound)

theorem waitOff (r : Rg) (u who : Nat) : h.GatewayOnly (t.waitOff r u who) := by
  unfold Hw.waitOff
  split
  · exact x.trans ⟨rfl, fun _ => ⟨rfl, rfl⟩, fun hfail p hp => hfail p (List.mem_of_mem_filter hp), fun _ _ => rfl⟩
  · exact x

/-! #### Packets (07 R203-R213) -/

theorem setDbuf (c p vc : Nat) (l : List DFlit) : h.GatewayOnly (t.setDbuf c p vc l) := by
  unfold Hw.setDbuf
  dsimp only
  split
  · split
    · exact (x.updCl _ _).waitOn _ _ _ _ (by decide)
    · exact (x.updCl _ _).waitOff _ _ _
  · exact x.updCl _ _

theorem inject (c vc : Nat) (p : List DFlit) : h.GatewayOnly (t.inject c vc p) := by
  unfold Hw.inject
  dsimp only
  split
  · exact (x.setDbuf _ _ _ _).updCl _ _
  · exact x.setDbuf _ _ _ _

theorem drainTx (e n : Nat) : h.GatewayOnly (t.drainTx e n) := by
  induction n generalizing t with
  | zero => exact x
  | succ n ih =>
    unfold Hw.drainTx
    split
    · exact x
    · dsimp only
      split
      · split
        · exact ih (((x.waitOff _ _ _).updEp _ _).inject _ _ _)
        · exact x.waitOff _ _ _
      · exact x.waitOn _ _ _ _ (by decide)

theorem sendReq (e : Nat) (ws : List Word) (ds : List Nat) : h.GatewayOnly (t.sendReq e ws ds) := (x.updEp _ _).drainTx _ _

theorem flushRsp (c n : Nat) : h.GatewayOnly (t.flushRsp c n) := by
  induction n generalizing t with
  | zero => exact x
  | succ n ih =>
    unfold Hw.flushRsp
    split
    · exact x
    · split
      · exact ih ((x.updCl _ _).inject _ _ _)
      · exact x

theorem sendRsp (c : Nat) (ws : List Word) : h.GatewayOnly (t.sendRsp c ws) := (x.updCl _ _).flushRsp _ _

theorem answer (c : Nat) (p0 : Word) (op reason conn epoch port : Nat) : h.GatewayOnly (t.answer c p0 op reason conn epoch port) := by
  have hsent := x.sendRsp c [uniHdr tCTLS 2 (bits p0 31 28) (bits p0 27 22) (bits p0 21 16), retAddr t.pkgNum c 0 (bits p0 15 12),
    ctlWord op reason conn epoch port]
  unfold Hw.answer Hw.wretTo
  split
  · exact hsent.sendRsp _ _
  · split
    · exact hsent.sendRsp _ _
    · exact hsent

/-! #### Handles, ports and sessions (13 R365) -/

theorem loseTicket (e i : Nat) : h.GatewayOnly (t.loseTicket e i) := by
  unfold Hw.loseTicket
  dsimp only
  split
  · exact x
  · split
    · exact x.setTicket _ _ _
    · exact x.setTicket _ _ _

theorem closeOpen (e i : Nat) (v : Handle) : h.GatewayOnly (t.closeOpen e i v) := x.sendReq _ _ _

theorem dropHandle (q i : Nat) : h.GatewayOnly (t.dropHandle q i) := by
  have hdropped := (x.setHandle (gateway q) i {}).updEth q (fun s => { s with owner := Tbl.set 0 s.owner i 0 }) fun _ => ⟨rfl, rfl⟩
  unfold Hw.dropHandle
  dsimp only
  split
  · split
    · exact (hdropped.setTicket _ _ _).closeOpen _ _ _
    · exact hdropped.closeOpen _ _ _
  · exact hdropped

theorem dropSlots (e : Nat) (f : Slot → Bool) : h.GatewayOnly (t.dropSlots e f) := by
  unfold Hw.dropSlots
  extract_lets s mine resv v acks shut w
  exact ((x.inc MSG_CLOSED_DROP_CNT _ _ (by decide)).updEp _ _).foldl (fun v a => (refl v).answer _ _ _ _ _ _ _) _

theorem dropPort (q p : Nat) : h.GatewayOnly (t.dropPort q p) :=
  ((x.dropSlots _ _).setPort _ _ _).updEth q (fun s => { s with ports := Tbl.set 0 s.ports p 0 }) fun _ => ⟨rfl, rfl⟩

theorem clearSession (q i : Nat) : h.GatewayOnly (t.clearSession q i) := by
  have hlost := x.foldl (f := fun v (r : RcpReq) => if r.sess = i ∧ r.since.isSome then v.loseTicket (gateway q) r.tkt else v)
    (fun v r => by
      split
      · exact (refl v).loseTicket _ _
      · exact refl v) (t.eth q).reqs
  have hreqs := hlost.updEth q (fun s => { s with reqs := s.reqs.filter fun r => r.sess != i }) fun _ => ⟨rfl, rfl⟩
  have hhandles := hreqs.foldl (f := fun v (p : Nat × Nat) => v.dropHandle q p.1) (fun v p => (refl v).dropHandle _ _)
    ((t.eth q).owner.filter fun p => p.2 == i + 1)
  exact hhandles.foldl (f := fun v (p : Nat × Nat) => v.dropPort q p.1) (fun v p => (refl v).dropPort _ _) _

end

end Hw.GatewayOnly

/-! ### Sessions (13 R365, R371) -/

section
variable (h : Hw) (n : Nat)

theorem eth_advTo (q : Nat) : (h.advTo n).eth q = h.eth q := by
  obtain ⟨d, p, r, w, -, e⟩ := advTo_eq h n
  rw [e]
  rfl

theorem ticket_advTo (e t : Nat) : (h.advTo n).ticket e t = h.ticket e t := by
  obtain ⟨d, p, r, w, -, e'⟩ := advTo_eq h n
  rw [e']
  rfl

end

section
variable {h : Hw} {q i : Nat}

/-- The end of a session leaves the others, and what has been received. -/
theorem endSession_leaves : (h.endSession q i).session q i = none ∧ (∀ j, j ≠ i → (h.endSession q i).session q j = h.session q j) ∧
    ((h.endSession q i).eth q).rcpIn = (h.eth q).rcpIn := by
  obtain ⟨hsessions, hin⟩ := ((Hw.GatewayOnly.refl h).clearSession q i).eth q
  refine ⟨?_, fun j hj => ?_, ?_⟩
  · rw [Hw.session, Hw.endSession, eth_updEth_same, Tbl.find_del, if_pos rfl]
  · rw [Hw.session, Hw.endSession, eth_updEth_same, Tbl.find_del, if_neg hj.symm, hsessions, Hw.session]
  · rw [Hw.endSession, eth_updEth_same, hin]

/-- It reports nothing and counts no failure. -/
theorem endSession_quiet (hw : h.waits = []) : (h.endSession q i).reports = h.reports ∧
    (h.endSession q i).reg RCP_SESS_FAIL_CNT q = h.reg RCP_SESS_FAIL_CNT q := by
  have x := (Hw.GatewayOnly.refl h).clearSession q i
  exact ⟨x.reports, x.fails (.of_nil hw) q⟩

/-- A session whose host has just been heard. -/
def Session.heardIn (v : Session) (dev : Nat) (f : RxFrame) : Session := { v with heard := dev, win := min 16 (bits (beWord f.payload 3) 15 0) }

theorem heard_noneUnacked {v : Session} (hun : v.unacked = []) (f : RxFrame) : h.heard q i v f = h.putSession q i (v.heardIn h.dev f) := by
  simp [Hw.heard, Session.heardIn, hun]

/-- A frame of a session that waits for no acknowledgement is heard and acted on. -/
theorem withSession_taken {f : RxFrame} {l : List RxFrame} {v : Session} {p : Nat → Bool} (hin : (h.eth q).rcpIn = f :: l)
    (hboot : bootKind f.payload = false) (hkind : p (roeneKind f.payload) = true)
    (hsess : h.sessionOf q (bits (beWord f.payload 0) 15 0) f.src = some (i, v)) (hun : v.unacked = []) (act : Nat → RxFrame → Hw → Hw) :
    h.withSession q p act = act i f ((h.updEth q fun e => { e with rcpIn := l }).putSession q i (v.heardIn h.dev f)) := by
  have hstray : h.rcpStray q f = false := by rw [Hw.rcpStray, hboot, Bool.false_and]
  have hsess' : (h.updEth q fun e => { e with rcpIn := l }).sessionOf q (bits (beWord f.payload 0) 15 0) f.src = some (i, v) := by
    rw [Hw.sessionOf, eth_updEth_same]
    exact hsess
  rw [Hw.withSession, withRcp_taken hin hstray hkind]
  simp only [hsess', heard_noneUnacked hun]
  rfl

/-- The block in which a frame of a session has been heard. -/
def Hw.heardFrom (h : Hw) (q i : Nat) (v : Session) (f : RxFrame) (l : List RxFrame) : Hw :=
  (h.updEth q fun e => { e with rcpIn := l }).putSession q i (v.heardIn h.dev f)

theorem eth_heardFrom (v : Session) (f : RxFrame) (l : List RxFrame) : (h.heardFrom q i v f l).eth q =
    { h.eth q with rcpIn := l, sessions := Tbl.put (h.eth q).sessions i (v.heardIn h.dev f) } := by
  rw [Hw.heardFrom, Hw.putSession, eth_updEth_same, eth_updEth_same]

theorem session_heardFrom (v : Session) (f : RxFrame) (l : List RxFrame) (j : Nat) :
    (h.heardFrom q i v f l).session q j = if i = j then some (v.heardIn h.dev f) else h.session q j := by
  rw [Hw.heardFrom, session_putSession, Hw.session, eth_updEth_same, Hw.session]

/-- The frames of a session are none of the boot exchange. -/
theorem bootKind_of_kind {l : List Byte} {k : Nat} (hkind : roeneKind l = k) (hk : k < 0x10) : bootKind l = false := by
  rw [bootKind, hkind, decide_eq_false (by omega), Bool.false_and]

theorem eth_free : h.free.2.eth q = h.eth q := rfl

/-- A session slot with nothing of its own is opened afresh. -/
theorem openSession_idle (hreqs : (h.eth q).reqs = []) (howner : (h.eth q).owner = []) (hports : (h.eth q).ports = []) (id mac : Nat) (seq : Word) :
    ∃ g : Hw, g.SendOnly (h.openSession q i id mac seq) ∧ g = { h with eths := g.eths, fresh := h.fresh + 1 } ∧
      g.session q i = some { id := id, mac := mac, x := seq, tx := Config.freeWord h.fresh, heard := h.dev } ∧ (g.eth q).rcpIn = (h.eth q).rcpIn := by
  have hclear : h.clearSession q i = h.updEth q fun e => { e with reqs := e.reqs.filter fun r => r.sess != i } := by
    simp only [Hw.clearSession, hreqs, howner, hports, List.foldl_nil, List.filter_nil]
  rw [Hw.openSession, hclear]
  refine ⟨_, rcpPlain_sendOnly _ _ _ _, rfl, ?_, ?_⟩
  · rw [session_putSession, if_pos rfl]
    rfl
  · rw [Hw.putSession, eth_updEth_same, eth_free, eth_updEth_same]

end

/-- A SYNC in a port without sessions opens the first. -/
theorem rcpSync_opens {h : Hw} {q : Nat} {f : RxFrame} (hin : (h.eth q).rcpIn = [f]) (hkind : roeneKind f.payload = kSYNC) (hnone : (h.eth q).sessions = []) :
    h.rcpSync q = (h.updEth q fun e => { e with rcpIn := [] }).openSession q 0 (bits (beWord f.payload 0) 15 0) f.src (beWord f.payload 1) := by
  have hstray : h.rcpStray q f = false := by rw [Hw.rcpStray, bootKind_of_kind hkind (by decide), Bool.false_and]
  have hsessions : ((h.updEth q fun e => { e with rcpIn := [] }).eth q).sessions = [] := by rw [eth_updEth_same]; exact hnone
  have hslot : ((List.range 4).find? fun i => ((h.updEth q fun e => { e with rcpIn := [] }).session q i).isNone) = some 0 := by
    simp only [Hw.session, hsessions, Tbl.find]
    rfl
  rw [Hw.rcpSync, withRcp_taken hin hstray (by rw [hkind]; rfl)]
  simp only [Hw.sessionOf, hsessions, List.find?_nil, hslot]

/-! ### Requests (13 R366, R367) -/

section
variable {h : Hw} {q : Nat}

/-- What a request does that is d ahead of the session's last one (13 R366). -/
def Hw.reqTaken (h : Hw) (q i : Nat) (v : Session) (f : RxFrame) (d : Int) : Hw :=
  if d = 1 then h.reqTake q i v f
  else if 2 ≤ d ∧ d ≤ 16 then (h.inc RCP_OOO_DROP_CNT q).rcpPlain q i kACK 0#32 0
  else if 16 < d then h.inc RCP_WIN_DROP_CNT q
  else if -15 ≤ d then h.reqAgain q i v (beWord f.payload 1)
  else (h.inc RCP_STALE_CNT q).rcpPlain q i kRSP (beWord f.payload 1) fsSTALE

theorem rcpReq_taken {i : Nat} {v : Session} {f : RxFrame} {l : List RxFrame} {d : Int} (hin : (h.eth q).rcpIn = f :: l)
    (hkind : roeneKind f.payload = kREQ) (hsess : h.sessionOf q (bits (beWord f.payload 0) 15 0) f.src = some (i, v)) (hun : v.unacked = [])
    (hd : (beWord f.payload 1 - v.x).toInt = d) : h.rcpReq q = (h.heardFrom q i v f l).reqTaken q i (v.heardIn h.dev f) f d := by
  have hv : (h.heardFrom q i v f l).session q i = some (v.heardIn h.dev f) := by rw [session_heardFrom, if_pos rfl]
  rw [Hw.rcpReq, withSession_taken hin (bootKind_of_kind hkind (by decide)) (by rw [hkind]; rfl) hsess hun]
  change (match (h.heardFrom q i v f l).session q i with | none => _ | some s => _) = _
  rw [hv, ← hd]
  rfl

/-- A queue whose first request has operations left is not pumped. -/
theorem rcpPump_busy {r : RcpReq} {l : List RcpReq} (hreqs : (h.eth q).reqs = r :: l) (hleft : opsLeft r = true) (n : Nat) : h.rcpPump q n = h := by
  cases n with
  | zero => rfl
  | succ n =>
    rw [Hw.rcpPump, hreqs]
    exact if_pos hleft

/-- A request that asks for operations and whose answer fits is queued. -/
theorem reqTake_queued {i n : Nat} {v : Session} {f : RxFrame} {ws : List Word} (hreqs : (h.eth q).reqs = []) (hn : n = bits (beWord f.payload 3) 23 16)
    (hws : ws = (List.range ((f.payload.length - 16) / 4)).map fun j => beWord f.payload (4 + j)) (hstatus : h.reqStatus q ws n = 0)
    (hops : opWords ws n ≠ []) :
    h.reqTake q i v f = (h.putSession q i { v with x := beWord f.payload 1 }).updEth q fun e =>
      { e with reqs := e.reqs ++ [{ sess := i, seq := beWord f.payload 1, count := n, ops := opWords ws n }] } := by
  rw [Hw.reqTake]
  simp only [← hn, ← hws, hstatus]
  refine rcpPump_busy (r := { sess := i, seq := beWord f.payload 1, count := n, ops := opWords ws n }) (l := []) ?_ ?_ 16
  · simp only [eth_updEth_same, Hw.putSession, hreqs, List.nil_append]
  · simp [opsLeft, hops]

theorem rcpPump_empty (hreqs : (h.eth q).reqs = []) (n : Nat) : h.rcpPump q n = h := by
  cases n with
  | zero => rfl
  | succ n => rw [Hw.rcpPump, hreqs]

/-- An answer leaves the gateway and its ports. -/
theorem respond_leaves (r : RcpReq) : (h.respond q r).eps = h.eps ∧ ((h.respond q r).eth q).ports = (h.eth q).ports := by
  unfold Hw.respond
  split
  · exact ⟨rfl, rfl⟩
  · next v _ =>
    extract_lets n p c
    have x := rcpSend_sendOnly (h := h.putSession q r.sess { v with cache := c.drop (c.length - 16) }) (q := q) v.mac p
    exact ⟨x.eps, (x.ports q).trans (by rw [Hw.putSession, eth_updEth_same])⟩

/-- The first answer of a session, as it is kept for a repeated request. -/
theorem respond_answers {r : RcpReq} {v : Session} {p : List Byte} (hsess : h.session q r.sess = some v) (hcache : v.cache = [])
    (hp : p = rcpFrame kRSP v.id r.seq v.x r.status (if r.status ≠ 0 then 0 else r.count) (h.rcpWin q) (r.resp.flatMap fun w => natBE 4 w.toNat)) :
    ((h.respond q r).eth q).reqs = (h.eth q).reqs ∧ (h.respond q r).session q r.sess = some { v with cache := [(r.seq, p)] } := by
  rw [Hw.respond, hsess]
  simp only [hcache, ← hp, List.nil_append, List.length_singleton, Nat.reduceSub, List.drop_zero]
  have hsent := rcpSend_sendOnly (h := h.putSession q r.sess { v with cache := [(r.seq, p)] }) (q := q) v.mac p
  exact ⟨(hsent.reqs q).trans (by rw [Hw.putSession, eth_updEth_same]), (hsent.session q r.sess).trans (by rw [session_putSession, if_pos rfl])⟩

/-- So do the answers of a queue. -/
theorem rcpPump_leaves (n : Nat) : (h.rcpPump q n).eps = h.eps ∧ ((h.rcpPump q n).eth q).ports = (h.eth q).ports := by
  induction n generalizing h with
  | zero => exact ⟨rfl, rfl⟩
  | succ n ih =>
    unfold Hw.rcpPump
    split
    · exact ⟨rfl, rfl⟩
    · next r rest _ =>
      split
      · exact ⟨rfl, rfl⟩
      · obtain ⟨heps, hports⟩ := respond_leaves (h := h.updEth q fun e => { e with reqs := rest }) (q := q) r
        refine ⟨ih.1.trans heps, ih.2.trans (hports.trans ?_)⟩
        rw [eth_updEth_same]

end

/-- The end of an operation leaves the gateway and its ports. -/
theorem opEnded_leaves {g : Hw} {q : Nat} (o : OpEnd) : (g.opEnded q o).eps = g.eps ∧ ((g.opEnded q o).eth q).ports = (g.eth q).ports := by
  unfold Hw.opEnded
  generalize hv : (g.updEth q fun e => match e.reqs with
    | [] => e
    | r :: l => { e with reqs := reqNext r o :: l }) = v
  obtain ⟨heps, hports⟩ := rcpPump_leaves (h := v) (q := q) 16
  refine ⟨heps.trans ?_, hports.trans ?_⟩
  · rw [← hv]
    rfl
  · rw [← hv, eth_updEth_same]
    cases (g.eth q).reqs <;> rfl

/-! ### LISTEN (13 R370) -/

theorem epPorts_gateway (q : Nat) : epPorts (gateway q) = 64 := by
  have hno : epNo (gateway q) = 34 := by
    simp only [epNo, gateway]
    omega
  rw [epPorts, epIsCore, hno]
  rfl

section
variable (h : Hw) (e t p : Nat)

theorem ticket_setTicket (v : Ticket) : (h.setTicket e t v).ticket e t = v := by rw [Hw.ticket, setTicket_ep, Tbl.get_set_same]
theorem ticket_setPort (v : Listener) : (h.setPort e p v).ticket e t = h.ticket e t := by rw [Hw.ticket, ep_setPort, Hw.ticket]
theorem port_setPort (v : Listener) : (h.setPort e p v).port e p = v := by rw [Hw.port, ep_setPort, Tbl.get_set_same]

end

/-- A channel operation that is posted and answered at once. -/
theorem chanOp_done {h g v : Hw} {q t : Nat} {r : RcpReq} {post : Hw → Hw × Word} {w : Word} (hsince : r.since = none) (hx : post h = (g, w))
    (hticket : w ≠ noTicket) (ht : w.toNat = t) (hst : ((g.opSince q t).ticket (gateway q) t).st = 1)
    (hv : ((g.opSince q t).chanStatus (gateway q) t).1 = v) (done : Hw → Nat → Hw × List Word) :
    ∃ i, h.chanOp q r post done = ((done v i).1, some { data := (done v i).2 }) := by
  refine ⟨bits ((g.opSince q t).chanStatus (gateway q) t).2 15 8, ?_⟩
  rw [Hw.chanOp, hsince]
  simp only [hx, if_neg hticket, ht, hst, hv, Nat.one_ne_zero, if_false, if_true]

/-- A ticket's number as a word. -/
theorem ticketWord {t : Nat} (ht : t < 16) : (w32 t).toNat = t ∧ w32 t ≠ noTicket := by
  have hall : ∀ t : Fin 16, (w32 t).toNat = t.val ∧ w32 t ≠ noTicket := by decide
  exact hall ⟨t, ht⟩

section
variable {h : Hw} {q t p c b : Nat} (ht : h.freeTicket (gateway q) = some t)
include ht

/-- The block in which a ring listens, its ticket answered. -/
def Hw.listened (h : Hw) (q t p b c : Nat) : Hw :=
  ((h.ticketTaken (gateway q) t 0 0).setPort (gateway q) p { on := true, base := b, size := 256 * 2 ^ c }).ticketDone (gateway q) t

/-- A free port of the gateway listens while fewer than 64 do. -/
theorem chanListen_gateway (hp : h.port (gateway q) p = {}) (hroom : ((h.ep (gateway q)).ports.filter fun x => x.2.on).length < 64) (hc : c < 5) :
    h.chanListen (gateway q) p b c 0 = (h.listened q t p b c, w32 t) := by
  have hroom' : ¬ 64 ≤ ((h.ep (gateway q)).ports.filter fun x => x.2.on).length := Nat.not_le.2 hroom
  rw [Hw.chanListen, post_some _ _ _ _ _ ht]
  simp [hp, epPorts_gateway, hroom', hc, Hw.listened]

/-- LISTEN of such a port is over at once, and the port is the session's. -/
theorem rcpListenOp_listens {r : RcpReq} {ws : List Word} (hsince : r.since = none) (hplace : h.ringPlaceFor q (256 * 2 ^ c) = some b)
    (hp : p = bits (ws.getD 1 0#32) 7 0) (hcode : c = bits (ws.getD 1 0#32) 10 8) (hc : c < 5) (hfree : h.port (gateway q) p = {})
    (hroom : ((h.ep (gateway q)).ports.filter fun x => x.2.on).length < 64) :
    h.rcpListenOp q r ws = ((((h.listened q t p b c).opSince q t).setTicket (gateway q) t {}).updEth q fun s =>
      { s with ports := Tbl.set 0 s.ports p (r.sess + 1) }, some {}) := by
  have ht16 : t < 16 := List.mem_range.1 (List.mem_of_find?_eq_some ht)
  obtain ⟨htoNat, hnot⟩ := ticketWord ht16
  have hticket : ((h.listened q t p b c).opSince q t).ticket (gateway q) t = { used := true, st := 1, op := 0, handle := 0, sentAt := h.dev } := by
    change (h.listened q t p b c).ticket (gateway q) t = _
    rw [Hw.listened, Hw.ticketDone, ticket_setTicket, ticket_setPort, ticket_setTicket]
  have hdone := chanStatus_ended ((h.listened q t p b c).opSince q t) (gateway q) t ht16 hticket.symm rfl (show (0 : Nat) ≠ 9 by decide)
    (show (1 : Nat) ≠ 0 by decide)
  unfold Hw.rcpListenOp
  simp only [← hp, ← hcode, hplace]
  obtain ⟨i, e⟩ := chanOp_done (post := fun v => v.chanListen (gateway q) p b c 0) hsince (chanListen_gateway ht hfree hroom hc) hnot htoNat
    (congrArg Ticket.st hticket) (congrArg Prod.fst hdone) fun v _ => (v.updEth q fun s => { s with ports := Tbl.set 0 s.ports p (r.sess + 1) }, [])
  exact e

omit ht in
theorem listened_port : (h.listened q t p b c).port (gateway q) p = { on := true, base := b, size := 256 * 2 ^ c } := by
  rw [Hw.listened, Hw.ticketDone, setTicket_port, port_setPort]

end

theorem port_of_eps {g h : Hw} (heps : g.eps = h.eps) (e p : Nat) : g.port e p = h.port e p := by rw [Hw.port, Hw.ep, heps, Hw.port, Hw.ep]
theorem port_updEth (h : Hw) (q e p : Nat) (f : EthSt → EthSt) : (h.updEth q f).port e p = h.port e p := port_of_eps rfl e p
theorem port_opSince (h : Hw) (q t e p : Nat) : (h.opSince q t).port e p = h.port e p := port_of_eps rfl e p

/-- Without room for the ring LISTEN is refused. -/
theorem rcpListenOp_noRoom {h : Hw} {q c : Nat} {r : RcpReq} {ws : List Word} (hcode : c = bits (ws.getD 1 0#32) 10 8)
    (hplace : h.ringPlaceFor q (256 * 2 ^ c) = none) : h.rcpListenOp q r ws = (h, some { status := 6, nak := nBUSY }) := by
  unfold Hw.rcpListenOp
  simp only [← hcode, hplace]

/-- The end of a LISTEN leaves its port listening, and owned. -/
theorem listenEnded_port {h : Hw} {q t p b c n : Nat} {o : OpEnd} {g : Hw}
    (hg : g = (((h.listened q t p b c).opSince q t).setTicket (gateway q) t {}).updEth q fun s => { s with ports := Tbl.set 0 s.ports p n }) :
    (g.opEnded q o).port (gateway q) p = { on := true, base := b, size := 256 * 2 ^ c } ∧ Tbl.get 0 ((g.opEnded q o).eth q).ports p = n := by
  obtain ⟨heps, hports⟩ := opEnded_leaves (g := g) (q := q) o
  refine ⟨?_, ?_⟩
  · rw [port_of_eps heps, hg, port_updEth, setTicket_port, port_opSince, listened_port]
  · rw [hports, hg, eth_updEth_same, Tbl.get_set_same]

/-! ### Refused accesses (19 R526) -/

/-- A refused access leaves memory, cores and clusters. -/
theorem refuse_leaves {h : Hw} {who : Requester} {n : Nat} {a : Word} {wr : Bool} {x : Refused} (hinfo : x.cnt ≠ MGMT_ERR_INFO)
    (haddr : x.cnt ≠ MGMT_ERR_ADDR) (hwho : Coded who n) : (h.refuse who a wr x).reg x.cnt = satAdd32 (h.reg x.cnt) 1 ∧
      (h.refuse who a wr x).resp = { status := x.status } ∧ (h.refuse who a wr x).mem = h.mem ∧ (h.refuse who a wr x).cores = h.cores ∧
      (h.refuse who a wr x).clusters = h.clusters := by
  cases hrec : h.flag MGMT_ERR_INFO 0 31 with
  | true =>
    have hnow := now_refuse_recorded (who := who) (a := a) (wr := wr) h hinfo hrec
    exact ⟨hnow.head, hnow.rest Hw.resp fun _ _ => rfl, hnow.rest Hw.mem fun _ _ => rfl, hnow.rest Hw.cores fun _ _ => rfl, hnow.rest Hw.clusters fun _ _ => rfl⟩
  | false =>
    have hnow := now_refuse_free (a := a) (wr := wr) h hinfo hwho hrec
    refine ⟨hnow.named (l := [((MGMT_ERR_ADDR, 0), a), ((MGMT_ERR_INFO, 0), fields [(0, n), (4, x.cause), (8, b2n wr), (31, 1)])]) ?_,
      hnow.rest Hw.resp fun _ _ => rfl, hnow.rest Hw.mem fun _ _ => rfl, hnow.rest Hw.cores fun _ _ => rfl, hnow.rest Hw.clusters fun _ _ => rfl⟩
    simp [List.contains_eq_mem, hinfo, haddr]

/-! ### Messages to the host (13 R371) -/

section
variable {h : Hw} {q i : Nat} {v : Session}

theorem reg_raisePort (t u : Nat) (r : Rg) : (h.raisePort t q).reg r u = h.reg r u := rfl

/-- Messages leave in one frame. -/
theorem msgInSend_leaves {ms : List MsgRec} {p : List Byte} (hsess : h.session q i = some v)
    (hms : ms = msgFit (h.plim q - 16) ((h.ep (gateway q)).msgq.filter fun m => h.ownsPort q m.port i)) (hsome : ms ≠ [])
    (hwin : v.unacked.length < v.win)
    (hp : p = rcpFrame kMSGIN v.id (v.tx + 1#32) v.x 0 ms.length (h.rcpWin q) (ms.flatMap fun m => h.msgBytes (gateway q) m)) :
    ∃ g : Hw, g.SendOnly (h.msgInSend q i) ∧ g.mem = h.mem ∧
      (g.ep (gateway q)).msgq = (h.ep (gateway q)).msgq.filter (fun m => !ms.contains m) ∧
      g.session q i = some { v with tx := v.tx + 1#32, unacked := v.unacked ++
        [{ seq := v.tx + 1#32, payload := p, sentAt := h.dev, recs := ms.map fun m => (m.port, m.at_) }] } := by
  have hgo : ¬ (ms.isEmpty = true ∨ v.win ≤ v.unacked.length) := by simpa [hsome] using hwin
  rw [Hw.msgInSend, hsess]
  simp only [← hms, ← hp, if_neg hgo]
  refine ⟨_, rcpSend_sendOnly _ _, rfl, ?_, ?_⟩
  · exact congrArg EpSt.msgq (ep_updEp_same h (gateway q) fun v => { v with msgq := v.msgq.filter fun m => !ms.contains m })
  · rw [session_putSession, if_pos rfl]

section
variable {m : MsgIn} {x : Hw} (hsess : h.session q i = some v) (hun : v.unacked = [m])
  (hx : h.advTo (m.sentAt + max 1 (h.fld RCP_CFG q 15 8) * 1000 * us) = x) (hregs : x.regs = h.regs)
include hsess hun hx hregs

/-- The only frame that waits for the host is sent again, or its session given up. -/
theorem rcpRto_only :
    h.rcpRto q i = if m.resends < h.fld RCP_CFG q 19 16
      then ((x.putSession q i { v with unacked := [{ m with sentAt := x.dev, resends := m.resends + 1 }] }).inc RCP_RETX_CNT q).rcpSend q v.mac m.payload
      else ((x.endSession q i).inc RCP_SESS_FAIL_CNT q).raisePort fRcpSession q := by
  have hfld : x.fld RCP_CFG q 19 16 = h.fld RCP_CFG q 19 16 := by simp only [Hw.fld, Hw.reg, hregs]
  rw [Hw.rcpRto, hsess]
  simp only [hun, oldestSent, hx, hfld, List.map_cons, List.map_nil, if_true]

theorem rcpRto_resends (hleft : m.resends < h.fld RCP_CFG q 19 16) : (h.rcpRto q i).dev = x.dev ∧
    (h.rcpRto q i).session q i = some { v with unacked := [{ m with sentAt := x.dev, resends := m.resends + 1 }] } ∧
    (h.rcpRto q i).reg RCP_RETX_CNT q = satAdd32 (h.reg RCP_RETX_CNT q) 1 := by
  rw [rcpRto_only hsess hun hx hregs, if_pos hleft]
  have hsent := rcpSend_sendOnly (q := q) (h := (x.putSession q i { v with unacked := [{ m with sentAt := x.dev, resends := m.resends + 1 }] }).inc
    RCP_RETX_CNT q) v.mac m.payload
  refine ⟨hsent.dev, (hsent.session _ _).trans ?_, (hsent.reg _ _ (by decide)).trans ((reg_inc_same ..).trans ?_)⟩
  · exact (session_putSession ..).trans (if_pos rfl)
  · exact congrArg (satAdd32 · 1) (reg_of_regs _ _ _ _ hregs)

theorem rcpRto_gives_up (hwaits : x.waits = []) (hover : h.fld RCP_CFG q 19 16 ≤ m.resends) : (h.rcpRto q i).session q i = none ∧
    (h.rcpRto q i).reg RCP_SESS_FAIL_CNT q = satAdd32 (h.reg RCP_SESS_FAIL_CNT q) 1 ∧
    ∃ r, (h.rcpRto q i).reports = x.reports ++ [r] ∧ r.src = srcQ fRcpSession q := by
  rw [rcpRto_only hsess hun hx hregs, if_neg (Nat.not_lt.2 hover)]
  obtain ⟨hreports, hfails⟩ := endSession_quiet (h := x) (q := q) (i := i) hwaits
  refine ⟨endSession_leaves.1, ?_, _, congrArg (· ++ _) hreports, rfl⟩
  rw [reg_raisePort, reg_inc_same, hfails]
  exact congrArg (satAdd32 · 1) (reg_of_regs _ _ _ _ hregs)

end

end

/-! ### The statement -/

section
variable (s : State) (q : Quad)

theorem exec_rcpSyncRx : exec (.rcpSyncRx q) s = s.onPort q fun h => h.rcpSync q := rfl
theorem exec_rcpFinRx : exec (.rcpFinRx q) s = s.onPort q fun h => h.withSession q (· == kFIN) fun i _ h => h.endSession q i := rfl
theorem exec_rcpAckRx : exec (.rcpAckRx q) s = s.onPort q fun h => h.withSession q onlyAcks fun _ _ h => h := rfl
theorem exec_rcpReqRx : exec (.rcpReqRx q) s = s.onPort q fun h => h.rcpReq q := rfl
theorem exec_rcpSessionIdle (i : Fin 4) : exec (.rcpSessionIdle q i) s = s.onPort q fun h => h.sessionIdle q i := rfl

theorem exec_rcpRead (same : BitVec 256) : exec (.rcpRead ⟨q, same⟩) s = s.onPort q fun h => h.withOp q oREAD fun _ ws h =>
    let x := h.rcpReads q same (bit (ws.headD 0#32) 27) (ws.getD 1 0#32) [] (bits (ws.headD 0#32) 23 16 + 1)
    (x.1, some x.2) := rfl

theorem exec_rcpWrite (same : List Word) : exec (.rcpWrite ⟨q, same⟩) s = s.onPort q fun h => h.withOp q oWRITE fun _ ws h =>
    let x := h.rcpWrites q same (bit (ws.headD 0#32) 27) (ws.getD 1 0#32) 0 ((ws.drop 2).take (bits (ws.headD 0#32) 23 16 + 1))
    (x.1, some x.2) := rfl

theorem exec_rcpRmw (rs : Bool) (w : Word) : exec (.rcpRmw ⟨q, rs, w⟩) s = s.onPort q fun h => h.withOp q oRMW fun _ ws h =>
    let x := h.rcpRmw q rs w ws
    (x.1, some x.2) := rfl

theorem exec_rcpWait (e same : Bool) : exec (.rcpWait q ⟨e, same⟩) s =
    s.onPort q fun h => h.withOp q oWAIT fun r ws h => h.rcpPoll q e same r ws := rfl

theorem exec_rcpOpen : exec (.rcpOpen q) s = s.onPort q fun h => h.withOp q oOPEN fun r ws h => h.rcpOpen q r ws := rfl
theorem exec_rcpSend : exec (.rcpSend q) s = s.onPort q fun h => h.withOp q oSEND fun r ws h => h.rcpSendOp q r ws := rfl
theorem exec_rcpClose : exec (.rcpClose q) s = s.onPort q fun h => h.withOp q oCLOSE fun r ws h => h.rcpCloseOp q r ws := rfl
theorem exec_rcpListen : exec (.rcpListen q) s = s.onPort q fun h => h.withOp q oLISTEN fun r ws h => h.rcpListenOp q r ws := rfl
theorem exec_rcpChanTimeout : exec (.rcpChanTimeout q) s = s.onPort q fun h => h.chanTimeout q := rfl
theorem exec_mgmtAccessTimeout (who : Requester) (a : Word) (wr : Bool) :
    exec (.mgmtAccessTimeout who a wr) s = s.mgmt who fun h => h.accessTimeout who a wr := rfl
theorem exec_rcpMsgInSend (i : Fin 4) : exec (.rcpMsgInSend q i) s = s.onPort q fun h => h.msgInSend q i := rfl
theorem exec_rcpRtoExpiry (i : Fin 4) : exec (.rcpRtoExpiry q i) s = s.onPort q fun h => h.rcpRto q i := rfl

end

/-- Settles O60: sessions and requests by the frame that is taken, operations by how the one at the head ends, and messages by the frame sent. -/
theorem registerControlProtocol : Obligations.RegisterControlProtocol := by
  refine ⟨?sync, ?noFrame, ?frames, ?next, ?idle, ?notIdle, ?read, ?reads, ?write, ?writes, ?rmw, ?wait, ?expired, ?open_, ?send, ?close, ?listen,
    ?answer, ?timeout, ?noTimeout, ?access, ?message, ?noSession, ?resend, ?fail⟩
  case sync =>
    intro s q f hp hin hkind hnone hreqs howner hports
    refine answers_ofPort (exec_rcpSyncRx s q) hp ?_
    rw [rcpSync_opens hin hkind hnone]
    obtain ⟨g, hsent, hrest, hopen, hleft⟩ := openSession_idle (h := s.hw.updEth q fun e => { e with rcpIn := [] }) (q := q) (i := 0)
      (by rw [eth_updEth_same]; exact hreqs) (by rw [eth_updEth_same]; exact howner) (by rw [eth_updEth_same]; exact hports)
      (bits (beWord f.payload 0) 15 0) f.src (beWord f.payload 1)
    refine ⟨(hsent.session _ _).trans hopen, (hsent.rcpIn _).trans (hleft.trans ?_), hsent.fresh.trans ?_, hsent.cores.trans ?_⟩
    · rw [eth_updEth_same]
    · rw [hrest]
      rfl
    · rw [hrest]
      rfl
  case noFrame =>
    intro s q hin
    exact ⟨ignored_ofPort (exec_rcpSyncRx s q) (withRcp_empty hin _ _), ignored_ofPort (exec_rcpFinRx s q) (withRcp_empty hin _ _),
      ignored_ofPort (exec_rcpAckRx s q) (withRcp_empty hin _ _), ignored_ofPort (exec_rcpReqRx s q) (by unfold Hw.rcpReq; exact withRcp_empty hin _ _)⟩
  case frames =>
    intro s q f l i v hp hin hsess hun
    have hreqs : ((s.hw.heardFrom q i v f l).eth q).reqs = (s.hw.eth q).reqs := by rw [eth_heardFrom]
    refine ⟨fun hkind => ?fin, fun hkind => ?ack, fun hkind h2 h16 => ?early, fun hkind hold => ?stale⟩
    case fin =>
      refine answers_ofPort (exec_rcpFinRx s q) hp ?_
      rw [withSession_taken hin (bootKind_of_kind hkind (by decide)) (by rw [hkind]; rfl) hsess hun]
      obtain ⟨hended, hothers, hrcpIn⟩ := endSession_leaves (h := s.hw.heardFrom q i v f l) (q := q) (i := i)
      refine ⟨hended, fun j hj => (hothers j hj).trans ?_, hrcpIn.trans ?_⟩
      · rw [session_heardFrom, if_neg hj.symm]
      · rw [eth_heardFrom]
    case ack =>
      refine answers_ofPort (exec_rcpAckRx s q) hp ?_
      rw [withSession_taken hin (bootKind_of_kind hkind (by decide)) (by rw [hkind]; rfl) hsess hun]
      refine ⟨?_, ?_, rfl⟩
      · exact (session_heardFrom v f l i).trans (if_pos rfl)
      · exact congrArg EthSt.rcpIn (eth_heardFrom (h := s.hw) (q := q) (i := i) v f l)
    case early =>
      refine answers_ofPort (exec_rcpReqRx s q) hp ?_
      rw [rcpReq_taken hin hkind hsess hun rfl, Hw.reqTaken, if_neg (by omega), if_pos ⟨h2, h16⟩]
      have hsent := rcpPlain_sendOnly (h := (s.hw.heardFrom q i v f l).inc RCP_OOO_DROP_CNT q) (q := q) i kACK 0#32 0
      refine ⟨(hsent.reg _ _ (by decide)).trans (reg_inc_same ..), (hsent.reqs _).trans ?_, (hsent.rcpIn _).trans ?_⟩
      · exact hreqs
      · exact congrArg EthSt.rcpIn (eth_heardFrom (h := s.hw) (q := q) (i := i) v f l)
    case stale =>
      refine answers_ofPort (exec_rcpReqRx s q) hp ?_
      rw [rcpReq_taken hin hkind hsess hun rfl, Hw.reqTaken, if_neg (by omega), if_neg (by omega), if_neg (by omega), if_neg (by omega)]
      have hsent := rcpPlain_sendOnly (h := (s.hw.heardFrom q i v f l).inc RCP_STALE_CNT q) (q := q) i kRSP (beWord f.payload 1) fsSTALE
      refine ⟨(hsent.reg _ _ (by decide)).trans (reg_inc_same ..), (hsent.reqs _).trans ?_⟩
      exact hreqs
  case next =>
    intro s q f l i n m v ws hp hin hkind hsess hun hseq hreqs hn hws hwords hfits hops
    have hnext : (beWord f.payload 1 - v.x).toInt = 1 := by
      rw [hseq, add_sub_cancel_left]
      rfl
    refine answers_ofPort (exec_rcpReqRx s q) hp ?_
    rw [rcpReq_taken hin hkind hsess hun hnext, Hw.reqTaken, if_pos rfl]
    have hstatus : (s.hw.heardFrom q i v f l).reqStatus q ws n = 0 := by
      unfold Hw.reqStatus
      rw [hwords]
      exact if_neg (Nat.not_lt.2 hfits)
    have heth := eth_heardFrom (h := s.hw) (q := q) (i := i) v f l
    have hempty : ((s.hw.heardFrom q i v f l).eth q).reqs = [] := by rw [heth]; exact hreqs
    rw [reqTake_queued hempty hn hws hstatus hops]
    refine ⟨?_, ?_, ?_, ?_⟩
    · simp only [eth_updEth_same, Hw.putSession, hempty, List.nil_append]
    · simp only [eth_updEth_same, Hw.putSession, heth]
    · simp only [Hw.session, eth_updEth_same, Hw.putSession, Tbl.find_put, if_true, Option.map_some]
    · simp only [Hw.putSession, Hw.heardFrom, updEth_regs]
  case idle =>
    intro s q i v hp hsess hidle
    refine answers_ofPort (exec_rcpSessionIdle s q i) hp ?_
    unfold Hw.sessionIdle
    simp only [hsess, if_neg hidle]
    obtain ⟨hended, hothers, -⟩ := endSession_leaves (h := s.hw.advTo (v.heard + s.hw.fld RCP_CFG q 31 24 * 1000000 * us)) (q := q) (i := i)
    refine ⟨hended, fun j hj => (hothers j hj).trans ?_⟩
    rw [Hw.session, eth_advTo, Hw.session]
  case notIdle =>
    intro s q i hno
    refine ignored_ofPort (exec_rcpSessionIdle s q i) ?_
    unfold Hw.sessionIdle
    obtain hnone | hzero := hno
    · rw [hnone]
    · simp only [hzero, if_true]
      cases s.hw.session q i <;> rfl
  case read =>
    intro s q same r x hr hx
    subst hx
    exact answers_opEnded (exec_rcpRead s q same) hr rfl
  case reads =>
    intro h g q n same fx a l hg
    subst hg
    rfl
  case write =>
    intro s q same r x hr hx
    subst hx
    exact answers_opEnded (exec_rcpWrite s q same) hr rfl
  case writes =>
    intro h g q j same a v l hg
    subst hg
    rfl
  case rmw =>
    intro s q rs ws r a m v g k hr ha hm hv hg hk
    subst ha hm hv
    refine ⟨fun hread hwrite => ?_, fun hread => ?_, fun hread hwrite => ?_⟩
    · refine answers_opEnded (exec_rcpRmw s q rs ws) hr ?_
      simp only [Hw.rcpRmw, ← hg, hread, ← hk, hwrite, ne_eq, not_true_eq_false, if_false, if_true]
    · refine answers_opEnded (exec_rcpRmw s q rs ws) hr ?_
      simp only [Hw.rcpRmw, ← hg, if_pos hread]
    · refine answers_opEnded (exec_rcpRmw s q rs ws) hr ?_
      simp only [Hw.rcpRmw, ← hg, hread, ← hk, hwrite, ne_eq, not_true_eq_false, if_false]
  case wait =>
    intro s q same r g hr hg
    refine ⟨fun hread hmet => ?_, fun hread hunmet => ?_, fun hread => ?_⟩
    · refine answers_opEnded (exec_rcpWait s q false same) hr ?_
      simp only [Hw.rcpPoll, ← hg, hread, hmet, ne_eq, not_true_eq_false, if_false, if_true, Bool.false_eq_true]
    · refine answers_opGoesOn (exec_rcpWait s q false same) hr ?_
      simp only [Hw.rcpPoll, ← hg, hread, hunmet, ne_eq, not_true_eq_false, if_false, Bool.false_eq_true]
    · refine answers_opEnded (exec_rcpWait s q false same) hr ?_
      simp only [Hw.rcpPoll, if_false, ← hg, if_pos hread, Bool.false_eq_true]
  case expired =>
    intro s q same r g hr hg hread hunmet
    refine answers_opEnded (exec_rcpWait s q true same) hr ?_
    simp only [Hw.rcpPoll, if_true, ← hg, hread, hunmet, ne_eq, not_true_eq_false, if_false]
  case open_ =>
    intro s q r a x hr hsince ha hx hticket hst
    subst ha
    exact answers_opGoesOn (exec_rcpOpen s q) hr (by
      unfold Hw.rcpOpen
      exact chanOp_posted
        (post := fun h => h.chanOpen (gateway q) (bits (r.ops.getD 1 0#32) 19 16) (bits (r.ops.getD 1 0#32) 13 8) (bits (r.ops.getD 1 0#32) 5 0)
          (bits (r.ops.getD 2 0#32) 7 0)) hsince hx hticket hst _)
  case send =>
    intro s q r i hr hi
    subst hi
    refine ⟨fun hforeign => answers_opEnded (exec_rcpSend s q) hr ?_, fun x hown hsince hx hticket hst => answers_opGoesOn (exec_rcpSend s q) hr ?_⟩
    · simp only [Hw.rcpSendOp, hforeign, if_true]
    · simp only [Hw.rcpSendOp, hown, Bool.true_eq_false, if_false]
      exact chanOp_posted (post := fun h => h.chanSend (gateway q) (r.ops.getD 1 0#32).toNat (sendBytes r.ops)) hsince hx hticket hst _
  case close =>
    intro s q r i hr hi
    subst hi
    refine ⟨fun hport hforeign => answers_opEnded (exec_rcpClose s q) hr ?_, fun hhandle hforeign => answers_opEnded (exec_rcpClose s q) hr ?_,
      fun x hhandle hown hsince hx hticket hst => answers_opGoesOn (exec_rcpClose s q) hr ?_⟩
    · simp only [Hw.rcpCloseOp, hport, hforeign, if_true]
    · simp only [Hw.rcpCloseOp, hhandle, hforeign, Bool.false_eq_true, if_false, if_true]
    · simp only [Hw.rcpCloseOp, hhandle, hown, Bool.false_eq_true, Bool.true_eq_false, if_false]
      exact chanOp_posted (post := fun h => h.chanCloseHandle (gateway q) (r.ops.getD 1 0#32).toNat) hsince hx hticket hst _
  case listen =>
    intro s q r p c b hr hsince hp hcode hc
    refine ⟨fun hplace => answers_opEnded (exec_rcpListen s q) hr ?_, fun hplace hfree hroom hticket => ?_⟩
    · exact rcpListenOp_noRoom hcode hplace
    · obtain ⟨t, ht⟩ := Option.isSome_iff_exists.1 hticket
      exact (answers_opEnded (exec_rcpListen s q) hr (rcpListenOp_listens ht hsince hplace hp hcode hc hfree hroom)).imp
        fun o ⟨hexec, hno, hended⟩ => ⟨hexec, hno, hended ▸ listenEnded_port rfl⟩
  case answer =>
    intro h q r v p hreqs hover hsess hcache hin hp
    have hreq : ((h.updEth q fun e => { e with reqs := [] }).eth q).reqs = [] := by rw [eth_updEth_same]
    have hwin : (h.updEth q fun e => { e with reqs := [] }).rcpWin q = 16 := by
      rw [Hw.rcpWin, eth_updEth_same, EthSt.reqCount, hin]
      rfl
    have hsess' : (h.updEth q fun e => { e with reqs := [] }).session q r.sess = some v := by
      rw [Hw.session, eth_updEth_same]
      exact hsess
    rw [Hw.rcpPump, hreqs]
    simp only [hover, Bool.false_eq_true, if_false]
    obtain ⟨hreqs', hsess''⟩ := respond_answers hsess' hcache (hwin ▸ hp)
    rw [rcpPump_empty (hreqs'.trans hreq)]
    exact ⟨hreqs'.trans hreq, hsess''⟩
  case timeout =>
    intro s q r n o k g hr ho hsince hk hg
    obtain ⟨hp, hreq, hleft, hop⟩ := hr
    refine answers_ofPort (exec_rcpChanTimeout s q) hp ?_
    rw [hk, ← ticket_advTo s.hw (n + 1000 * us)]
    exact chanTimeout_ends hreq hleft hop (by simpa using ho) hsince hg
  case noTimeout =>
    intro s q hno
    refine ignored_ofPort (exec_rcpChanTimeout s q) ?_
    unfold Hw.chanTimeout
    cases hreqs : (s.hw.eth q).reqs with
    | nil => rfl
    | cons r l => simp only [hno r (by rw [hreqs]; rfl)]
  case access =>
    intro s m a wr hp
    refine answers_mgmt (exec_mgmtAccessTimeout s (.mp m) a wr) hp ?_
    exact refuse_leaves (x := ⟨3, MGMT_TMO_CNT, .timeout⟩) (by decide) (by decide) fun _ => rfl
  case message =>
    intro s q i v ms p hp hsess hms hsome hwin hp'
    refine answers_ofPort (exec_rcpMsgInSend s q i) hp ?_
    obtain ⟨g, hsent, hmem, hmsgq, hsess'⟩ := msgInSend_leaves hsess hms hsome hwin hp'
    exact ⟨(hsent.session _ _).trans hsess', by rw [Hw.ep, hsent.eps]; exact hmsgq, hsent.mem.trans hmem⟩
  case noSession =>
    intro s q i hnone
    refine ⟨ignored_ofPort (exec_rcpMsgInSend s q i) ?_, ignored_ofPort (exec_rcpRtoExpiry s q i) ?_⟩
    · rw [Hw.msgInSend, hnone]
    · rw [Hw.rcpRto, hnone]
  case resend =>
    intro s q i v m hp hsess hun hleft hw
    refine answers_ofPort (exec_rcpRtoExpiry s q i) (.inl hp) ?_
    obtain ⟨p, hx⟩ := advTo_noWaits s.hw (m.sentAt + max 1 (s.hw.fld RCP_CFG q 15 8) * 1000 * us) hp hw
    obtain ⟨hdev, hresent, hcount⟩ := rcpRto_resends hsess hun hx rfl hleft
    exact ⟨hresent.trans (by rw [hdev]), hdev, hcount⟩
  case fail =>
    intro s q i v m hp hsess hun hleft hw
    refine answers_ofPort (exec_rcpRtoExpiry s q i) (.inl hp) ?_
    obtain ⟨p, hx⟩ := advTo_noWaits s.hw (m.sentAt + max 1 (s.hw.fld RCP_CFG q 15 8) * 1000 * us) hp hw
    have hfailed := rcpRto_gives_up hsess hun hx rfl hw hleft
    exact hfailed

end Sys2Proof.Machine
end
